-- ==== Sys2Proof/Word.lean ====
section
/-! DEFINITION. The word types of the LY7-A16 and their plainest arithmetic. -/

namespace Sys2Proof

/-- A dword: the width of a general register's data word (R68). -/
abbrev Dword := BitVec 64

/-- A byte of memory (R7). -/
abbrev Byte := BitVec 8

/-- A general register: TAG 128, META 127:64, ADDR 63:0 (R68). -/
abbrev Reg := BitVec 129

end Sys2Proof
end

