-- ==== Sys2Proof/Machine/Float.lean ====
section
/-! DEFINITION. Number formats, rounding, exact sums and the function algorithms (05/R99 to R130), and the
IEEE operations of the base forms with their flags (07/R140 to R144). Codes are held as natural numbers. -/

namespace Sys2Proof.Machine

/-! ## Formats (R100 to R102) -/

/-- Which codes are special: those of IEEE 754, the one NaN magnitude of E4M3, or none (R102). -/
inductive Special where
  | ieee | oneNan | none
  deriving DecidableEq, Repr

/-- A floating-point format: exponent bits, mantissa bits, bias and special codes (R101). -/
structure Fmt where
  ebits : Nat
  mbits : Nat
  bias : Nat
  special : Special
  deriving DecidableEq, Repr

def fmtF64 : Fmt := ⟨11, 52, 1023, .ieee⟩
def fmtF32 : Fmt := ⟨8, 23, 127, .ieee⟩
def fmtF16 : Fmt := ⟨5, 10, 15, .ieee⟩
def fmtBf16 : Fmt := ⟨8, 7, 127, .ieee⟩
def fmtE4m3 : Fmt := ⟨4, 3, 7, .oneNan⟩
def fmtE5m2 : Fmt := ⟨5, 2, 15, .ieee⟩
def fmtE2m1 : Fmt := ⟨2, 1, 1, .none⟩
def fmtLc8 : Fmt := ⟨5, 3, 15, .none⟩

/-- The bits of a code. -/
def Fmt.width (f : Fmt) : Nat := 1 + f.ebits + f.mbits

/-- The sign bit of a code as a number. -/
def Fmt.signBit (f : Fmt) : Nat := 2 ^ (f.ebits + f.mbits)

/-- The sign of a code (R100). -/
def Fmt.neg (f : Fmt) (c : Nat) : Bool := c / f.signBit % 2 == 1

/-- The magnitude bits of a code. -/
def Fmt.mag (f : Fmt) (c : Nat) : Nat := c % f.signBit

/-- The mantissa field of a code. -/
def Fmt.man (f : Fmt) (c : Nat) : Nat := c % 2 ^ f.mbits

/-- The exponent field of a code. -/
def Fmt.exp (f : Fmt) (c : Nat) : Nat := c / 2 ^ f.mbits % 2 ^ f.ebits

/-- The magnitude code of infinity. -/
def Fmt.infMag (f : Fmt) : Nat := (2 ^ f.ebits - 1) * 2 ^ f.mbits

/-- The magnitude code of the largest finite value (R101). -/
def Fmt.maxMag (f : Fmt) : Nat :=
  match f.special with
  | .ieee => f.infMag - 1
  | .oneNan => f.signBit - 2
  | .none => f.signBit - 1

/-- Whether a code is a NaN (R102). -/
def Fmt.isNan (f : Fmt) (c : Nat) : Bool :=
  match f.special with
  | .ieee => f.infMag < f.mag c
  | .oneNan => f.mag c == f.signBit - 1
  | .none => false

/-- Whether a code is an infinity (R102). -/
def Fmt.isInf (f : Fmt) (c : Nat) : Bool := f.special == .ieee && f.mag c == f.infMag

/-- Whether a code is a signalling NaN: its mantissa's top bit is 0 (R102). -/
def Fmt.isSnan (f : Fmt) (c : Nat) : Bool := f.isNan c && c / 2 ^ (f.mbits - 1) % 2 == 0

/-- The canonical NaN (R113). -/
def Fmt.nan (f : Fmt) : Nat :=
  match f.special with
  | .oneNan => f.signBit - 1
  | _ => f.infMag + 2 ^ (f.mbits - 1)

/-- A code from sign and magnitude. -/
def Fmt.code (f : Fmt) (neg : Bool) (mag : Nat) : Nat := (if neg then f.signBit else 0) + mag

/-- An exact value: a NaN, an infinity, or ± m × 2^e. -/
inductive Num where
  | nan
  | inf (neg : Bool)
  | fin (neg : Bool) (m : Nat) (e : Int)
  deriving DecidableEq, Repr

/-- The value of a code (R100, R102). -/
def Fmt.num (f : Fmt) (c : Nat) : Num :=
  if f.isNan c then .nan
  else if f.isInf c then .inf (f.neg c)
  else if f.exp c = 0 then .fin (f.neg c) (f.man c) (1 - (f.bias : Int) - f.mbits)
  else .fin (f.neg c) (2 ^ f.mbits + f.man c) ((f.exp c : Int) - f.bias - f.mbits)

/-- The value of an integer. -/
def Num.ofInt (v : Int) : Num := .fin (v < 0) v.natAbs 0

/-! ## Rounding -/

/-- Rounding modes of R60. -/
inductive Rm where
  | rne | rtz | rdn | rup | rmm
  deriving DecidableEq, Repr

/-- Whether a magnitude with kept part `q` and the part `r` of `2^k` below it rounds away from zero. -/
def roundsUp (rm : Rm) (neg : Bool) (q r k : Nat) : Bool :=
  let half := 2 ^ (k - 1)
  match rm with
  | .rne => half < r || (r == half && q % 2 == 1)
  | .rtz => false
  | .rdn => neg && r != 0
  | .rup => !neg && r != 0
  | .rmm => half ≤ r

/-- `m × 2^e` in units of `2^q`, rounded, and whether that was inexact. -/
def roundAt (rm : Rm) (neg : Bool) (m : Nat) (e q : Int) : Nat × Bool :=
  if q ≤ e then (m * 2 ^ (e - q).toNat, false)
  else
    let k := (q - e).toNat
    let s := m / 2 ^ k
    let r := m % 2 ^ k
    (if roundsUp rm neg s r k then s + 1 else s, r != 0)

/-- A rounded magnitude code with the conditions that raise flags. -/
structure Rounded where
  mag : Nat
  nx : Bool
  of : Bool
  uf : Bool
  deriving DecidableEq, Repr

/-- A finite magnitude rounded as if the exponent range were unbounded above (R114); `of` says that it
exceeds the largest finite value, `uf` that it is tiny after rounding and inexact (R140). -/
def Fmt.round (f : Fmt) (rm : Rm) (neg : Bool) (m : Nat) (e : Int) : Rounded :=
  if m = 0 then ⟨0, false, false, false⟩
  else
    let top : Int := e + Nat.log2 m
    let emin : Int := 1 - (f.bias : Int)
    let q : Int := (if top < emin then emin else top) - f.mbits
    let (s, nx) := roundAt rm neg m e q
    let mag := (q + f.mbits + f.bias - 1).toNat * 2 ^ f.mbits + s
    let free := roundAt rm neg m e (top - f.mbits)
    let tiny := top < emin && !(top + 1 == emin && free.1 == 2 ^ (f.mbits + 1))
    ⟨mag, nx, f.maxMag < mag, tiny && nx⟩

/-- The code of a value rounded to a format, ties to even; on overflow, and for infinities where the
format has none, what R115 gives with the saturation flag; a NaN gives the canonical NaN (R113 to R115). -/
def Fmt.put (f : Fmt) (sat : Bool) (v : Num) : Nat :=
  match v with
  | .nan => if f.special = .none then 0 else f.nan
  | .inf neg =>
    match f.special with
    | .ieee => f.code neg f.infMag
    | .oneNan => f.code neg (if sat then f.maxMag else f.signBit - 1)
    | .none => f.code neg f.maxMag
  | .fin neg m e =>
    let r := f.round .rne neg m e
    if r.of then
      match f.special with
      | .ieee => f.code neg (if sat then f.maxMag else f.infMag)
      | .oneNan => f.code neg (if sat then f.maxMag else f.signBit - 1)
      | .none => f.code neg f.maxMag
    else f.code neg r.mag

/-- A value rounded to an integer with a mode, and whether that was inexact. -/
def roundInt (rm : Rm) (neg : Bool) (m : Nat) (e : Int) : Int × Bool :=
  let (s, nx) := roundAt rm neg m e 0
  (if neg then -(s : Int) else s, nx)

/-- An integer clamped to a range. -/
def clampInt (lo hi v : Int) : Int := if v < lo then lo else if hi < v then hi else v

/-! ## Exact arithmetic -/

/-- The sign of a finite value's integer at exponent `q ≤ e`. -/
def scaled (neg : Bool) (m : Nat) (e q : Int) : Int :=
  let v : Int := m * 2 ^ (e - q).toNat
  if neg then -v else v

/-- The exact product (R119). -/
def Num.mul (a b : Num) : Num :=
  match a, b with
  | .nan, _ => .nan
  | _, .nan => .nan
  | .inf s, .inf t => .inf (s != t)
  | .inf s, .fin t m _ => if m = 0 then .nan else .inf (s != t)
  | .fin s m _, .inf t => if m = 0 then .nan else .inf (s != t)
  | .fin s m e, .fin t n g => .fin (s != t) (m * n) (e + g)

/-- The negation of a value. -/
def Num.negate : Num → Num
  | .nan => .nan
  | .inf s => .inf (!s)
  | .fin s m e => .fin (!s) m e

/-- Whether the value is zero. -/
def Num.isZero : Num → Bool
  | .fin _ m _ => m == 0
  | _ => false

/-- The sign of a value. -/
def Num.isNeg : Num → Bool
  | .nan => false
  | .inf s => s
  | .fin s _ _ => s

/-- The exact sum of two values with IEEE 754's signs of zero: `down` is the rounding toward −∞. -/
def Num.addMode (down : Bool) (a b : Num) : Num :=
  match a, b with
  | .nan, _ => .nan
  | _, .nan => .nan
  | .inf s, .inf t => if s = t then .inf s else .nan
  | .inf s, _ => .inf s
  | _, .inf t => .inf t
  | .fin s m e, .fin t n g =>
    let q := if e < g then e else g
    let v := scaled s m e q + scaled t n g q
    if v = 0 then
      .fin (if m = 0 && n = 0 then (if s = t then s else down) else down) 0 0
    else .fin (v < 0) v.natAbs q

/-- The exact sum of two values, rounding to nearest. -/
def Num.add (a b : Num) : Num := a.addMode false b

/-- The smallest exponent among finite terms. -/
def minExp : List Num → Int → Int
  | [], q => q
  | .fin _ _ e :: ts, q => minExp ts (if e < q then e else q)
  | _ :: ts, q => minExp ts q

/-- The terms summed exactly (R119). -/
def xsum (ts : List Num) : Num :=
  if ts.any (fun t => t == .nan) then .nan
  else
    let pos := ts.any fun t => t == .inf false
    let neg := ts.any fun t => t == .inf true
    if pos && neg then .nan
    else if pos then .inf false
    else if neg then .inf true
    else
      let q := minExp ts 0
      let v : Int := ts.foldl (fun (acc : Int) (t : Num) =>
        match t with
        | .fin s m e => acc + scaled s m e q
        | _ => acc) 0
      if v = 0 then .fin (ts != [] && ts.all fun t => t.isZero && t.isNeg) 0 0
      else .fin (v < 0) v.natAbs q

/-- Whether a finite or infinite value is less than another; false with a NaN. -/
def Num.lt (a b : Num) : Bool :=
  match a, b with
  | .nan, _ => false
  | _, .nan => false
  | .inf s, .inf t => s && !t
  | .inf s, .fin _ _ _ => s
  | .fin _ _ _, .inf t => !t
  | .fin s m e, .fin t n g =>
    let q := if e < g then e else g
    scaled s m e q < scaled t n g q

/-- Whether two values are equal; −0 equals +0; false with a NaN. -/
def Num.eq (a b : Num) : Bool := a != .nan && b != .nan && !a.lt b && !b.lt a

/-- Bits of an integer square root, from bit `n − 1` down. -/
def isqrtBits (x : Nat) : Nat → Nat → Nat
  | 0, r => r
  | n + 1, r => isqrtBits x n (if (r + 2 ^ n) * (r + 2 ^ n) ≤ x then r + 2 ^ n else r)

/-- The integer square root. -/
def isqrt (x : Nat) : Nat := isqrtBits x (Nat.log2 x / 2 + 1) 0

/-- A quotient with enough bits for a rounding to `p` bits, its last bit sticky. -/
def quotient (p m n : Nat) (e g : Int) : Nat × Int :=
  let k := p + 4 + Nat.log2 n
  let q := m * 2 ^ k / n
  (2 * q + (if m * 2 ^ k % n = 0 then 0 else 1), e - g - k - 1)

/-- A square root with enough bits for a rounding to `p` bits, its last bit sticky. -/
def rootOf (p m : Nat) (e : Int) : Nat × Int :=
  let (m1, e1) := if e % 2 = 0 then (m, e) else (2 * m, e - 1)
  let k := p + 4
  let x := m1 * 2 ^ (2 * k)
  let r := isqrt x
  (2 * r + (if r * r = x then 0 else 1), e1 / 2 - k - 1)

/-- The exact square root of a value, with enough bits for a rounding to `p` bits. -/
def Num.sqrt (p : Nat) : Num → Num
  | .nan => .nan
  | .inf s => if s then .nan else .inf false
  | .fin s m e =>
    if m = 0 then .fin s 0 0
    else if s then .nan
    else
      let (r, g) := rootOf p m e
      .fin false r g

/-- The exact quotient of two values, with enough bits for a rounding to `p` bits. -/
def Num.div (p : Nat) (a b : Num) : Num :=
  match a, b with
  | .nan, _ => .nan
  | _, .nan => .nan
  | .inf _, .inf _ => .nan
  | .inf s, .fin t _ _ => .inf (s != t)
  | .fin s _ _, .inf t => .fin (s != t) 0 0
  | .fin s m e, .fin t n g =>
    if n = 0 then (if m = 0 then .nan else .inf (s != t))
    else if m = 0 then .fin (s != t) 0 0
    else
      let (q, h) := quotient p m n e g
      .fin (s != t) q h

/-! ## The base forms: results with flags (R140 to R144) -/

/-- A result code and the flags it raises: NV 4, DZ 3, OF 2, UF 1, NX 0 (R140). -/
structure FpOut where
  code : Nat
  flags : BitVec 5 := 0
  deriving DecidableEq, Repr

def flagNV : BitVec 5 := 0x10
def flagDZ : BitVec 5 := 0x08
def flagOF : BitVec 5 := 0x04
def flagUF : BitVec 5 := 0x02
def flagNX : BitVec 5 := 0x01

/-- A finite value rounded with a mode, with its overflow result and flags. -/
def Fmt.finish (f : Fmt) (rm : Rm) (neg : Bool) (m : Nat) (e : Int) : FpOut :=
  let r := f.round rm neg m e
  if r.of then
    let toMax := match rm with
      | .rtz => true
      | .rdn => !neg
      | .rup => neg
      | _ => false
    ⟨f.code neg (if toMax then f.maxMag else f.infMag), flagOF ||| flagNX⟩
  else
    ⟨f.code neg r.mag, (if r.nx then flagNX else 0) ||| (if r.uf then flagUF else 0)⟩

/-- An exact value as a result; `nv` says that an invalid operation made its NaN. -/
def Fmt.result (f : Fmt) (rm : Rm) (nv : Bool) (v : Num) : FpOut :=
  match v with
  | .nan => ⟨f.nan, if nv then flagNV else 0⟩
  | .inf s => ⟨f.code s f.infMag, if nv then flagNV else 0⟩
  | .fin s m e =>
    let o := f.finish rm s m e
    { o with flags := o.flags ||| (if nv then flagNV else 0) }

/-- `fadd` (R141). -/
def Fmt.fadd (f : Fmt) (rm : Rm) (a b : Nat) : FpOut :=
  let v := (f.num a).addMode (rm == .rdn) (f.num b)
  f.result rm (f.isSnan a || f.isSnan b || (v == .nan && !f.isNan a && !f.isNan b)) v

/-- A code with its sign inverted. -/
def Fmt.flip (f : Fmt) (a : Nat) : Nat := f.code (!f.neg a) (f.mag a)

/-- `fsub` (R141). -/
def Fmt.fsub (f : Fmt) (rm : Rm) (a b : Nat) : FpOut := f.fadd rm a (f.flip b)

/-- `fmul` (R141). -/
def Fmt.fmul (f : Fmt) (rm : Rm) (a b : Nat) : FpOut :=
  let v := (f.num a).mul (f.num b)
  f.result rm (f.isSnan a || f.isSnan b || (v == .nan && !f.isNan a && !f.isNan b)) v

/-- `fdiv` (R141); a finite nonzero value divided by zero raises DZ. -/
def Fmt.fdiv (f : Fmt) (rm : Rm) (a b : Nat) : FpOut :=
  let x := f.num a
  let y := f.num b
  let v := x.div (f.mbits + 1) y
  let o := f.result rm (f.isSnan a || f.isSnan b || (v == .nan && !f.isNan a && !f.isNan b)) v
  match x, y with
  | .fin _ m _, .fin _ n _ => if n = 0 && m != 0 then { o with flags := o.flags ||| flagDZ } else o
  | _, _ => o

/-- `fsqrt` (R141). -/
def Fmt.fsqrt (f : Fmt) (rm : Rm) (a : Nat) : FpOut :=
  let v := (f.num a).sqrt (f.mbits + 1)
  f.result rm (f.isSnan a || (v == .nan && !f.isNan a)) v

/-- The fused forms (R141): ± (a × b) ± c with one rounding; ∞ × 0 raises NV even with a quiet NaN c. -/
def Fmt.fma (f : Fmt) (rm : Rm) (negProd negC : Bool) (a b c : Nat) : FpOut :=
  let p0 := (f.num a).mul (f.num b)
  let p := if negProd then p0.negate else p0
  let c0 := f.num c
  let x := if negC then c0.negate else c0
  let badProd := p0 == .nan && !f.isNan a && !f.isNan b
  let v := p.addMode (rm == .rdn) x
  f.result rm (f.isSnan a || f.isSnan b || f.isSnan c || badProd ||
    (v == .nan && !f.isNan a && !f.isNan b && !f.isNan c)) v

/-- The sign-injection forms (R142). -/
def Fmt.sgnj (f : Fmt) (kind : Nat) (a b : Nat) : Nat :=
  let s := match kind with
    | 0 => f.neg b
    | 1 => !f.neg b
    | _ => f.neg a != f.neg b
  f.code s (f.mag a)

/-- Whether a code's value is below another's with −0 below +0; NaNs apart. -/
def Fmt.below (f : Fmt) (a b : Nat) : Bool :=
  (f.num a).lt (f.num b) || ((f.num a).eq (f.num b) && f.neg a && !f.neg b)

/-- `fmin` and `fmax` (R143). -/
def Fmt.minmax (f : Fmt) (isMax : Bool) (a b : Nat) : FpOut :=
  let fl : BitVec 5 := if f.isSnan a || f.isSnan b then flagNV else 0
  if f.isNan a && f.isNan b then ⟨f.nan, fl⟩
  else if f.isNan a then ⟨b, fl⟩
  else if f.isNan b then ⟨a, fl⟩
  else ⟨if f.below a b != isMax then a else b, fl⟩

/-- `feq`, `flt` and `fle` (R143): kind 0, 1, 2. -/
def Fmt.compare (f : Fmt) (kind : Nat) (a b : Nat) : FpOut :=
  let nan := f.isNan a || f.isNan b
  let fl : BitVec 5 := if (if kind = 0 then f.isSnan a || f.isSnan b else nan) then flagNV else 0
  let x := f.num a
  let y := f.num b
  let r := match kind with
    | 0 => x.eq y
    | 1 => x.lt y
    | _ => x.lt y || x.eq y
  ⟨if !nan && r then 1 else 0, fl⟩

/-- `fclass` (R143). -/
def Fmt.fclass (f : Fmt) (a : Nat) : Nat :=
  let bit :=
    if f.isNan a then (if f.isSnan a then 8 else 9)
    else if f.isInf a then (if f.neg a then 0 else 7)
    else if f.mag a = 0 then (if f.neg a then 3 else 4)
    else if f.exp a = 0 then (if f.neg a then 2 else 5)
    else (if f.neg a then 1 else 6)
  2 ^ bit

/-- `fcvt` to an integer of a range (R144): the value, and the flags. -/
def Fmt.toInt (f : Fmt) (rm : Rm) (lo hi : Int) (a : Nat) : Int × BitVec 5 :=
  match f.num a with
  | .nan => (hi, flagNV)
  | .inf s => (if s then lo else hi, flagNV)
  | .fin s m e =>
    let (v, nx) := roundInt rm s m e
    if v < lo then (lo, flagNV)
    else if hi < v then (hi, flagNV)
    else (v, if nx then flagNX else 0)

/-- `fcvt` from an integer (R144). -/
def Fmt.ofInt (f : Fmt) (rm : Rm) (v : Int) : FpOut := f.finish rm (v < 0) v.natAbs 0

/-- `fcvt` between the floating formats (R113, R144). -/
def Fmt.convert (f g : Fmt) (rm : Rm) (a : Nat) : FpOut := g.result rm (f.isSnan a) (f.num a)

/-! ## Conversions of elements (R115 to R117) -/

/-- The element types of R65. -/
inductive Ty where
  | f (f : Fmt)
  | i (bits : Nat)
  deriving DecidableEq, Repr

/-- The element type that a code of R65 names. -/
def tyOf (t : BitVec 3) : Ty :=
  match t.toNat with
  | 0 => .f fmtF32
  | 1 => .f fmtBf16
  | 2 => .f fmtF16
  | 3 => .f fmtE4m3
  | 4 => .f fmtE5m2
  | 5 => .i 32
  | 6 => .i 8
  | _ => .f fmtF64

/-- The width of an element in bits. -/
def Ty.bits : Ty → Nat
  | .f g => g.width
  | .i n => n

/-- A two's complement code of `n` bits as an integer (R105). -/
def sInt (n c : Nat) : Int := if 2 ^ (n - 1) ≤ c then (c : Int) - 2 ^ n else c

/-- The two's complement code of `n` bits of an integer, modulo 2^n. -/
def sCode (n : Nat) (v : Int) : Nat := (v % (2 ^ n : Nat)).toNat

/-- An integer clamped to `n` bits of two's complement. -/
def clampTo (n : Nat) (v : Int) : Int := clampInt (-(2 ^ (n - 1) : Nat)) ((2 ^ (n - 1) : Nat) - 1) v

/-- A NaN code converted between formats: sign kept, payload by its top bits (R116). -/
def nanConvert (f g : Fmt) (c : Nat) : Nat :=
  match g.special with
  | .none => 0
  | .oneNan => g.code (f.neg c) (g.signBit - 1)
  | .ieee =>
    let m := f.man c
    let n := if f.mbits ≤ g.mbits then m * 2 ^ (g.mbits - f.mbits) else m / 2 ^ (f.mbits - g.mbits)
    g.code (f.neg c) (g.infMag + (if n = 0 then 2 ^ (g.mbits - 1) else n))

/-- A value rounded to an integer format: ties to even, the nearest bound of the range, +0 for NaN (R115). -/
def numToInt (n : Nat) (v : Num) : Int :=
  match v with
  | .nan => 0
  | .inf s => clampTo n (if s then -(2 ^ n : Nat) else (2 ^ n : Nat))
  | .fin s m e => clampTo n (roundInt .rne s m e).1

/-- An element code converted between types (R114 to R116). -/
def convertElem (src dst : Ty) (sat : Bool) (c : Nat) : Nat :=
  if src = dst then c
  else
    match src, dst with
    | .f f, .f g => if f.isNan c then nanConvert f g c else g.put sat (f.num c)
    | .f f, .i n => sCode n (numToInt n (f.num c))
    | .i m, .f g => g.put sat (.ofInt (sInt m c))
    | .i m, .i n => if n < m then (if sat then sCode n (clampTo n (sInt m c)) else c % 2 ^ n) else sCode n (sInt m c)

/-- An E8M0 code widened to a format (R104, R117). -/
def e8m0Num (c : Nat) : Num := if c = 255 then .nan else .fin false 1 ((c : Int) - 127)

/-- A value narrowed to E8M0 (R117). -/
def e8m0Of (v : Num) : Nat :=
  match v with
  | .nan => 0xFF
  | .inf s => if s then 0xFF else 0xFE
  | .fin s m e =>
    if m = 0 then 0
    else if s then 0xFF
    else (clampInt 0 254 (127 + e + Nat.log2 m)).toNat

/-! ## Reciprocal, reciprocal square root and power of two (R125 to R128) -/

/-- `fma` and `mul` of R125, on codes of the working format. -/
def Fmt.fmaW (f : Fmt) (a b c : Nat) : Nat := f.put false (((f.num a).mul (f.num b)).add (f.num c))

/-- `mul` of R125. -/
def Fmt.mulW (f : Fmt) (a b : Nat) : Nat := f.put false ((f.num a).mul (f.num b))

/-- `split` of R125 for a finite nonzero value: the code of m, and e. -/
def Fmt.split (f : Fmt) (m : Nat) (e : Int) : Nat × Int :=
  let l := Nat.log2 m
  (f.put false (.fin false m (-(l : Int))), e + l)

/-- A code scaled by 2^q in one rounding (R125). -/
def Fmt.scale (f : Fmt) (c : Nat) (q : Int) : Nat :=
  match f.num c with
  | .fin s m e => f.put false (.fin s m (e + q))
  | v => f.put false v

/-- The code of 1. -/
def Fmt.one (f : Fmt) : Nat := f.bias * 2 ^ f.mbits

/-- The steps of `vrcp` (R126). -/
def rcpSteps (f : Fmt) (m : Nat) : Nat → Nat → Nat
  | 0, y => y
  | n + 1, y =>
    let d := f.fmaW (f.flip m) y f.one
    rcpSteps f m n (f.fmaW y d y)

/-- `vrcp` in a working format with its constants (R126). -/
def Fmt.rcp (f : Fmt) (n c0 c1 : Nat) (x : Nat) : Nat :=
  match f.num x with
  | .nan => f.nan
  | .inf s => f.code s 0
  | .fin s m e =>
    if m = 0 then f.code s f.infMag
    else
      let (mc, g) := f.split m e
      let y := rcpSteps f mc n (f.fmaW (f.flip c1) mc c0)
      f.scale (if s then f.flip y else y) (-g)

/-- The steps of `vrsq` (R127). -/
def rsqSteps (f : Fmt) (h c15 : Nat) : Nat → Nat → Nat
  | 0, y => y
  | n + 1, y =>
    let t := f.mulW y y
    let r := f.fmaW (f.flip h) t c15
    rsqSteps f h c15 n (f.mulW y r)

/-- `vrsq` in a working format with its constants (R127). -/
def Fmt.rsq (f : Fmt) (n d0 d1 hc : Nat) (x : Nat) : Nat :=
  match f.num x with
  | .nan => f.nan
  | .inf s => if s then f.nan else 0
  | .fin s m e =>
    if m = 0 then f.code s f.infMag
    else if s then f.nan
    else
      let (mc, g) := f.split m e
      let h := f.scale mc (-1)
      let y0 := f.fmaW (f.flip d1) mc d0
      let y := rsqSteps f h (f.put false (.fin false 3 (-1))) n y0
      if g % 2 = 0 then f.scale y (-(g / 2)) else f.scale (f.mulW y hc) (-((g - 1) / 2))

/-- The code nearest to a decimal `digits / 10^k`, ties to even (R128). -/
def Fmt.decimal (f : Fmt) (digits k : Nat) : Nat :=
  let (q, e) := quotient (f.mbits + 1) digits (10 ^ k) 0 0
  f.put false (.fin false q e)

/-- The coefficients P[1] to P[13] of R128, as digits and decimal places. -/
def exp2Coeffs : List (Nat × Nat) :=
  [(69314718055994531, 17), (24022650695910071, 17), (55504108664821580, 18), (96181291076284772, 19),
   (13333558146428443, 19), (15403530393381609, 20), (15252733804059841, 21), (13215486790144309, 22),
   (10178086009239699, 23), (70549116208011233, 25), (44455382718708114, 26), (25678435993488202, 27),
   (13691488853904124, 28)]

/-- The Horner steps of R128 from the highest coefficient down. -/
def exp2Horner (f : Fmt) (x : Nat) : List Nat → Nat → Nat
  | [], p => p
  | c :: cs, p => exp2Horner f x cs (f.fmaW p x c)

/-- `vexp2` in a working format: degree and the two limits (R128). -/
def Fmt.exp2 (f : Fmt) (n : Nat) (xmax xmin : Int) (x : Nat) : Nat :=
  match f.num x with
  | .nan => f.nan
  | .inf s => if s then 0 else f.infMag
  | .fin s m e =>
    if !(Num.lt (.fin s m e) (.ofInt xmax)) then f.infMag
    else if !(Num.lt (.ofInt xmin) (.fin s m e)) then 0
    else
      let k := (roundInt .rne s m e).1
      let fr := f.put false ((Num.fin s m e).add (.ofInt (-k)))
      let cs := ((exp2Coeffs.take n).map fun c => f.decimal c.1 c.2).reverse
      match cs with
      | [] => 0
      | c :: rest => f.scale (f.fmaW (exp2Horner f fr rest c) fr f.one) k

/-- The three functions on an element code of a floating type (R125). -/
def elemFunction (kind : Nat) (g : Fmt) (c : Nat) : Nat :=
  let wide := g == fmtF64
  let w := if wide then fmtF64 else fmtF32
  let x := convertElem (.f g) (.f w) false c
  let y := match kind with
    | 0 => if wide then w.rcp 4 0x4006969696969697 0x3FFE1E1E1E1E1E1E x else w.rcp 3 0x4034B4B5 0x3FF0F0F1 x
    | 1 =>
      if wide then w.rsq 4 0x3FF4600000000000 0x3FD2C00000000000 0x3FE6A09E667F3BCD x
      else w.rsq 3 0x3FA30000 0x3E960000 0x3F3504F3 x
    | _ => if wide then w.exp2 13 1024 (-1076) x else w.exp2 7 128 (-151) x
  if w.isNan y then g.nan else g.put false (w.num y)

/-! ## The monotone integer image (R129, R130) -/

/-- The key of an element code; `zfold` gives −0 the key of +0. -/
def imageKey (t : Ty) (zfold : Bool) (c : Nat) : Nat :=
  let w := t.bits
  let top := 2 ^ (w - 1)
  match t with
  | .i _ => c ^^^ top
  | .f f => if f.neg c && !(zfold && f.mag c = 0) then 2 ^ w - 1 - c else (c % top) + top

/-- The element code whose key is given (R320 selector 1). -/
def keyCode (t : Ty) (k : Nat) : Nat :=
  let w := t.bits
  let top := 2 ^ (w - 1)
  match t with
  | .i _ => k ^^^ top
  | .f _ => if top ≤ k then k ^^^ top else 2 ^ w - 1 - k

end Sys2Proof.Machine
end

