-- ==== Sys2Proof/Syntax.lean ====
section
/-! DEFINITION. The instructions of the LY7-A16: one constructor for each row of spec/opcode_table.json.
The constructors of the 263 encoded rows carry the operand fields of their encoding (03/R51 to R67). The
constructors of the 121 rows without an encoding are the machine's background steps
(spec/95_what_each_step_holds.md); their operands name the unit that takes the step. -/

namespace Sys2Proof
/-- The name of a compute core of the device: die 0 to 7, cluster 0 to 255, core 0 to 7 (R13 to R15). -/
structure CoreId where
  die : Fin 8
  clu : Fin 256
  core : Fin 8
  deriving DecidableEq, Repr

/-- The cluster's place among the 2,048 clusters of the device. -/
def CoreId.cluIx (c : CoreId) : Nat := c.die.val * 256 + c.clu.val

/-- The core's place among the 16,384 cores of the device. -/
def CoreId.ix (c : CoreId) : Nat := c.cluIx * 8 + c.core.val

/-- The tuple of R16 for this core on device number `dev`. -/
def CoreId.tuple (c : CoreId) (dev : BitVec 12) : BitVec 26 :=
  dev ++ BitVec.ofNat 3 c.die.val ++ BitVec.ofNat 8 c.clu.val ++ BitVec.ofNat 3 c.core.val

/-- A party of the ordering machine that runs instructions (R173): a firing context, the handler
context of a core, or a supervisor core of a die (R15). -/
inductive Party where
  | ctx (c : CoreId) (k : Fin 4)
  | handler (c : CoreId)
  | sup (die : Fin 8) (n : Fin 4)
  deriving DecidableEq, Repr

/-- The key under which a party's record is held. -/
def Party.ix : Party → Nat
  | .ctx c k => c.ix * 5 + k.val
  | .handler c => c.ix * 5 + 4
  | .sup d n => 100000 + d.val * 4 + n.val

/-- The die whose view the party's accesses use (R173). -/
def Party.die : Party → Fin 8
  | .ctx c _ => c.die
  | .handler c => c.die
  | .sup d _ => d

/-- Whether the party is a supervisor core: it runs in supervisor mode (R54). -/
def Party.isSup : Party → Bool
  | .sup _ _ => true
  | _ => false

/-- The key of the party's core record; each supervisor core has one of its own. -/
def Party.coreIx : Party → Nat
  | .ctx c _ => c.ix
  | .handler c => c.ix
  | .sup d n => 20000 + d.val * 4 + n.val

/-- An engine that carries out copy requests: a cluster's copy engine, or a flue engine of a die
(R199, R353). -/
inductive EngineId where
  | clu (die : Fin 8) (clu : Fin 256)
  | flue (die : Fin 8) (n : Fin 16)
  deriving DecidableEq, Repr

/-- A channel whose head (or `i`-th message in flight) DELIVER moves (R177). -/
inductive Chan where
  | out (party : Party)
  | hosted (home : Nat) (c : CoreId)
  | op (i : Nat)
  | unit (i : Nat)
  deriving DecidableEq, Repr

/-- One flit of the fabric: the 128-bit header of R345, a payload of up to 64 bytes, and the poison mark that a hand-off
between codes leaves on it (R385). -/
structure Flit where
  hdr : BitVec 128
  pay : BitVec 512
  poison : Bool := false
  deriving DecidableEq, Repr

/-- What an uncorrectable error strikes (R385 to R387, R390): the 32-byte block of memory at a place, the `i`-th message
in a core's inbox, the `i`-th entry of its keyed ready queue, the `i`-th message of its spill queue, a hearth-table
entry, a counter of the `i`-th actor that a core hosts, or the control state of a die. -/
inductive Struck where
  | block (q : Nat)
  | inbox (c : CoreId) (i : Nat)
  | ready (c : CoreId) (i : Nat)
  | spill (c : CoreId) (i : Nat)
  | hearth (die : Fin 8) (clu : Fin 256) (i : Nat)
  | counter (c : CoreId) (i : Nat) (n : Nat)
  | control (die : Fin 8)
  deriving DecidableEq, Repr

/-- One constructor for each row of the opcode table. -/
inductive Instr where
  /-- Writes the sign-extended upper immediate to rd (R136). -/
  | lui (rd : BitVec 5) (imm : BitVec 20)
  /-- Writes pc plus the upper immediate to rd (R136). -/
  | auipc (rd : BitVec 5) (imm : BitVec 20)
  /-- Jumps pc-relative and writes the link untagged, taking 0x04 on a misaligned target (R136). -/
  | jal (rd : BitVec 5) (off : BitVec 20)
  /-- Jumps to rs1 plus offset with bit 0 cleared and writes the link (R136). -/
  | jalr (rd : BitVec 5) (rs1 : BitVec 5) (imm : BitVec 12)
  /-- Branches when rs1 equals rs2 (R136). -/
  | beq (rs1 : BitVec 5) (rs2 : BitVec 5) (off : BitVec 12)
  /-- Branches when rs1 differs from rs2 (R136). -/
  | bne (rs1 : BitVec 5) (rs2 : BitVec 5) (off : BitVec 12)
  /-- Branches when rs1 is less than rs2, signed (R136). -/
  | blt (rs1 : BitVec 5) (rs2 : BitVec 5) (off : BitVec 12)
  /-- Branches when rs1 is at least rs2, signed (R136). -/
  | bge (rs1 : BitVec 5) (rs2 : BitVec 5) (off : BitVec 12)
  /-- Branches when rs1 is less than rs2, unsigned (R136). -/
  | bltu (rs1 : BitVec 5) (rs2 : BitVec 5) (off : BitVec 12)
  /-- Branches when rs1 is at least rs2, unsigned (R136). -/
  | bgeu (rs1 : BitVec 5) (rs2 : BitVec 5) (off : BitVec 12)
  /-- Loads a sign-extended byte after the capability check of rs1 (R137). -/
  | lb (rd : BitVec 5) (rs1 : BitVec 5) (imm : BitVec 12)
  /-- Loads a sign-extended half-word after the capability check (R137). -/
  | lh (rd : BitVec 5) (rs1 : BitVec 5) (imm : BitVec 12)
  /-- Loads a sign-extended word after the capability check (R137). -/
  | lw (rd : BitVec 5) (rs1 : BitVec 5) (imm : BitVec 12)
  /-- Loads a double-word after the capability check, or enqueues it when rd is x28 (R137). -/
  | ld (rd : BitVec 5) (rs1 : BitVec 5) (imm : BitVec 12)
  /-- Loads a zero-extended byte (R137). -/
  | lbu (rd : BitVec 5) (rs1 : BitVec 5) (imm : BitVec 12)
  /-- Loads a zero-extended half-word (R137). -/
  | lhu (rd : BitVec 5) (rs1 : BitVec 5) (imm : BitVec 12)
  /-- Loads a zero-extended word (R137). -/
  | lwu (rd : BitVec 5) (rs1 : BitVec 5) (imm : BitVec 12)
  /-- Stores a byte after the capability check and clears the granule tag (R137). -/
  | sb (rs2 : BitVec 5) (rs1 : BitVec 5) (imm : BitVec 12)
  /-- Stores a half-word and clears the granule tags (R137). -/
  | sh (rs2 : BitVec 5) (rs1 : BitVec 5) (imm : BitVec 12)
  /-- Stores a word and clears the granule tags (R137). -/
  | sw (rs2 : BitVec 5) (rs1 : BitVec 5) (imm : BitVec 12)
  /-- Stores a double-word, from qst when rs2 is x29, and clears the granule tags (R137). -/
  | sd (rs2 : BitVec 5) (rs1 : BitVec 5) (imm : BitVec 12)
  /-- Adds the sign-extended immediate to rs1 (R134). -/
  | addi (rd : BitVec 5) (rs1 : BitVec 5) (imm : BitVec 12)
  /-- Sets rd to 1 when rs1 is less than the immediate, signed (R134). -/
  | slti (rd : BitVec 5) (rs1 : BitVec 5) (imm : BitVec 12)
  /-- Sets rd to 1 when rs1 is less than the immediate, unsigned (R134). -/
  | sltiu (rd : BitVec 5) (rs1 : BitVec 5) (imm : BitVec 12)
  /-- Exclusive-or with the immediate (R134). -/
  | xori (rd : BitVec 5) (rs1 : BitVec 5) (imm : BitVec 12)
  /-- Or with the immediate (R134). -/
  | ori (rd : BitVec 5) (rs1 : BitVec 5) (imm : BitVec 12)
  /-- And with the immediate (R134). -/
  | andi (rd : BitVec 5) (rs1 : BitVec 5) (imm : BitVec 12)
  /-- Shifts left by an immediate amount (R134). -/
  | slli (rd : BitVec 5) (rs1 : BitVec 5) (sh : BitVec 6)
  /-- Shifts right logically by an immediate amount (R134). -/
  | srli (rd : BitVec 5) (rs1 : BitVec 5) (sh : BitVec 6)
  /-- Shifts right arithmetically by an immediate amount (R134). -/
  | srai (rd : BitVec 5) (rs1 : BitVec 5) (sh : BitVec 6)
  /-- Adds two registers modulo 2^64 (R134). -/
  | add (rd : BitVec 5) (rs1 : BitVec 5) (rs2 : BitVec 5)
  /-- Shifts left by rs2 (R134). -/
  | sll (rd : BitVec 5) (rs1 : BitVec 5) (rs2 : BitVec 5)
  /-- Signed less-than comparison (R134). -/
  | slt (rd : BitVec 5) (rs1 : BitVec 5) (rs2 : BitVec 5)
  /-- Unsigned less-than comparison (R134). -/
  | sltu (rd : BitVec 5) (rs1 : BitVec 5) (rs2 : BitVec 5)
  /-- Bitwise exclusive-or (R134). -/
  | xor (rd : BitVec 5) (rs1 : BitVec 5) (rs2 : BitVec 5)
  /-- Logical shift right by rs2 (R134). -/
  | srl (rd : BitVec 5) (rs1 : BitVec 5) (rs2 : BitVec 5)
  /-- Bitwise or (R134). -/
  | or (rd : BitVec 5) (rs1 : BitVec 5) (rs2 : BitVec 5)
  /-- Bitwise and (R134). -/
  | and (rd : BitVec 5) (rs1 : BitVec 5) (rs2 : BitVec 5)
  /-- Subtracts modulo 2^64 (R134). -/
  | sub (rd : BitVec 5) (rs1 : BitVec 5) (rs2 : BitVec 5)
  /-- Arithmetic shift right by rs2 (R134). -/
  | sra (rd : BitVec 5) (rs1 : BitVec 5) (rs2 : BitVec 5)
  /-- Low 64 bits of the product (R135). -/
  | mul (rd : BitVec 5) (rs1 : BitVec 5) (rs2 : BitVec 5)
  /-- High 64 bits of the signed product (R135). -/
  | mulh (rd : BitVec 5) (rs1 : BitVec 5) (rs2 : BitVec 5)
  /-- High 64 bits of the signed by unsigned product (R135). -/
  | mulhsu (rd : BitVec 5) (rs1 : BitVec 5) (rs2 : BitVec 5)
  /-- High 64 bits of the unsigned product (R135). -/
  | mulhu (rd : BitVec 5) (rs1 : BitVec 5) (rs2 : BitVec 5)
  /-- Signed quotient, with the RISC-V results for zero and overflow (R135). -/
  | div (rd : BitVec 5) (rs1 : BitVec 5) (rs2 : BitVec 5)
  /-- Unsigned quotient (R135). -/
  | divu (rd : BitVec 5) (rs1 : BitVec 5) (rs2 : BitVec 5)
  /-- Signed remainder (R135). -/
  | rem (rd : BitVec 5) (rs1 : BitVec 5) (rs2 : BitVec 5)
  /-- Unsigned remainder (R135). -/
  | remu (rd : BitVec 5) (rs1 : BitVec 5) (rs2 : BitVec 5)
  /-- 32-bit add of the immediate, sign-extended (R134). -/
  | addiw (rd : BitVec 5) (rs1 : BitVec 5) (imm : BitVec 12)
  /-- 32-bit shift left by an immediate (R134). -/
  | slliw (rd : BitVec 5) (rs1 : BitVec 5) (sh : BitVec 5)
  /-- 32-bit logical shift right by an immediate (R134). -/
  | srliw (rd : BitVec 5) (rs1 : BitVec 5) (sh : BitVec 5)
  /-- 32-bit arithmetic shift right by an immediate (R134). -/
  | sraiw (rd : BitVec 5) (rs1 : BitVec 5) (sh : BitVec 5)
  /-- 32-bit add, sign-extended (R134). -/
  | addw (rd : BitVec 5) (rs1 : BitVec 5) (rs2 : BitVec 5)
  /-- 32-bit subtract, sign-extended (R134). -/
  | subw (rd : BitVec 5) (rs1 : BitVec 5) (rs2 : BitVec 5)
  /-- 32-bit shift left (R134). -/
  | sllw (rd : BitVec 5) (rs1 : BitVec 5) (rs2 : BitVec 5)
  /-- 32-bit logical shift right (R134). -/
  | srlw (rd : BitVec 5) (rs1 : BitVec 5) (rs2 : BitVec 5)
  /-- 32-bit arithmetic shift right (R134). -/
  | sraw (rd : BitVec 5) (rs1 : BitVec 5) (rs2 : BitVec 5)
  /-- 32-bit multiply, sign-extended (R135). -/
  | mulw (rd : BitVec 5) (rs1 : BitVec 5) (rs2 : BitVec 5)
  /-- 32-bit signed divide (R135). -/
  | divw (rd : BitVec 5) (rs1 : BitVec 5) (rs2 : BitVec 5)
  /-- 32-bit unsigned divide (R135). -/
  | divuw (rd : BitVec 5) (rs1 : BitVec 5) (rs2 : BitVec 5)
  /-- 32-bit signed remainder (R135). -/
  | remw (rd : BitVec 5) (rs1 : BitVec 5) (rs2 : BitVec 5)
  /-- 32-bit unsigned remainder (R135). -/
  | remuw (rd : BitVec 5) (rs1 : BitVec 5) (rs2 : BitVec 5)
  /-- The RISC-V fence, which acts as fence.dom whatever its fm, pred and succ bits (R57). -/
  | fence (fm : BitVec 4) (pred : BitVec 4) (succ : BitVec 4)
  /-- Takes cause 0x03 (R59). -/
  | ecall
  /-- Takes cause 0x02 (R59). -/
  | ebreak
  /-- Swaps rs1 into the named CSR, reading it when rd is not x0 (R138). -/
  | csrrw (rd : BitVec 5) (csr : BitVec 12) (rs1 : BitVec 5)
  /-- Reads the CSR and sets the bits of rs1 (R138). -/
  | csrrs (rd : BitVec 5) (csr : BitVec 12) (rs1 : BitVec 5)
  /-- Reads the CSR and clears the bits of rs1 (R138). -/
  | csrrc (rd : BitVec 5) (csr : BitVec 12) (rs1 : BitVec 5)
  /-- Writes a 5-bit immediate to the CSR (R138). -/
  | csrrwi (rd : BitVec 5) (csr : BitVec 12) (uimm : BitVec 5)
  /-- Reads the CSR and sets the immediate bits (R138). -/
  | csrrsi (rd : BitVec 5) (csr : BitVec 12) (uimm : BitVec 5)
  /-- Reads the CSR and clears the immediate bits (R138). -/
  | csrrci (rd : BitVec 5) (csr : BitVec 12) (uimm : BitVec 5)
  /-- Single-precision add in general registers (R141). -/
  | faddS (rd : BitVec 5) (rs1 : BitVec 5) (rs2 : BitVec 5) (rm : BitVec 3)
  /-- Double-precision add (R141). -/
  | faddD (rd : BitVec 5) (rs1 : BitVec 5) (rs2 : BitVec 5) (rm : BitVec 3)
  /-- Single-precision subtract (R141). -/
  | fsubS (rd : BitVec 5) (rs1 : BitVec 5) (rs2 : BitVec 5) (rm : BitVec 3)
  /-- Double-precision subtract (R141). -/
  | fsubD (rd : BitVec 5) (rs1 : BitVec 5) (rs2 : BitVec 5) (rm : BitVec 3)
  /-- Single-precision multiply (R141). -/
  | fmulS (rd : BitVec 5) (rs1 : BitVec 5) (rs2 : BitVec 5) (rm : BitVec 3)
  /-- Double-precision multiply (R141). -/
  | fmulD (rd : BitVec 5) (rs1 : BitVec 5) (rs2 : BitVec 5) (rm : BitVec 3)
  /-- Single-precision divide (R141). -/
  | fdivS (rd : BitVec 5) (rs1 : BitVec 5) (rs2 : BitVec 5) (rm : BitVec 3)
  /-- Double-precision divide (R141). -/
  | fdivD (rd : BitVec 5) (rs1 : BitVec 5) (rs2 : BitVec 5) (rm : BitVec 3)
  /-- Single-precision square root (R141). -/
  | fsqrtS (rd : BitVec 5) (rs1 : BitVec 5) (rm : BitVec 3)
  /-- Double-precision square root (R141). -/
  | fsqrtD (rd : BitVec 5) (rs1 : BitVec 5) (rm : BitVec 3)
  /-- Single-precision sign injection (R142). -/
  | fsgnjS (rd : BitVec 5) (rs1 : BitVec 5) (rs2 : BitVec 5)
  /-- Double-precision sign injection (R142). -/
  | fsgnjD (rd : BitVec 5) (rs1 : BitVec 5) (rs2 : BitVec 5)
  /-- Single-precision negated sign injection (R142). -/
  | fsgnjnS (rd : BitVec 5) (rs1 : BitVec 5) (rs2 : BitVec 5)
  /-- Double-precision negated sign injection (R142). -/
  | fsgnjnD (rd : BitVec 5) (rs1 : BitVec 5) (rs2 : BitVec 5)
  /-- Single-precision xor sign injection (R142). -/
  | fsgnjxS (rd : BitVec 5) (rs1 : BitVec 5) (rs2 : BitVec 5)
  /-- Double-precision xor sign injection (R142). -/
  | fsgnjxD (rd : BitVec 5) (rs1 : BitVec 5) (rs2 : BitVec 5)
  /-- Single-precision minimum (R143). -/
  | fminS (rd : BitVec 5) (rs1 : BitVec 5) (rs2 : BitVec 5)
  /-- Double-precision minimum (R143). -/
  | fminD (rd : BitVec 5) (rs1 : BitVec 5) (rs2 : BitVec 5)
  /-- Single-precision maximum (R143). -/
  | fmaxS (rd : BitVec 5) (rs1 : BitVec 5) (rs2 : BitVec 5)
  /-- Double-precision maximum (R143). -/
  | fmaxD (rd : BitVec 5) (rs1 : BitVec 5) (rs2 : BitVec 5)
  /-- Single-precision less-or-equal comparison (R143). -/
  | fleS (rd : BitVec 5) (rs1 : BitVec 5) (rs2 : BitVec 5)
  /-- Double-precision less-or-equal comparison (R143). -/
  | fleD (rd : BitVec 5) (rs1 : BitVec 5) (rs2 : BitVec 5)
  /-- Single-precision less-than comparison (R143). -/
  | fltS (rd : BitVec 5) (rs1 : BitVec 5) (rs2 : BitVec 5)
  /-- Double-precision less-than comparison (R143). -/
  | fltD (rd : BitVec 5) (rs1 : BitVec 5) (rs2 : BitVec 5)
  /-- Single-precision equality comparison (R143). -/
  | feqS (rd : BitVec 5) (rs1 : BitVec 5) (rs2 : BitVec 5)
  /-- Double-precision equality comparison (R143). -/
  | feqD (rd : BitVec 5) (rs1 : BitVec 5) (rs2 : BitVec 5)
  /-- Classifies a single-precision value (R143). -/
  | fclassS (rd : BitVec 5) (rs1 : BitVec 5)
  /-- Classifies a double-precision value (R143). -/
  | fclassD (rd : BitVec 5) (rs1 : BitVec 5)
  /-- Converts single to signed 32-bit integer (R144). -/
  | fcvtWS (rd : BitVec 5) (rs1 : BitVec 5) (rm : BitVec 3)
  /-- Converts single to unsigned 32-bit integer (R144). -/
  | fcvtWuS (rd : BitVec 5) (rs1 : BitVec 5) (rm : BitVec 3)
  /-- Converts single to signed 64-bit integer (R144). -/
  | fcvtLS (rd : BitVec 5) (rs1 : BitVec 5) (rm : BitVec 3)
  /-- Converts single to unsigned 64-bit integer (R144). -/
  | fcvtLuS (rd : BitVec 5) (rs1 : BitVec 5) (rm : BitVec 3)
  /-- Converts double to signed 32-bit integer (R144). -/
  | fcvtWD (rd : BitVec 5) (rs1 : BitVec 5) (rm : BitVec 3)
  /-- Converts double to unsigned 32-bit integer (R144). -/
  | fcvtWuD (rd : BitVec 5) (rs1 : BitVec 5) (rm : BitVec 3)
  /-- Converts double to signed 64-bit integer (R144). -/
  | fcvtLD (rd : BitVec 5) (rs1 : BitVec 5) (rm : BitVec 3)
  /-- Converts double to unsigned 64-bit integer (R144). -/
  | fcvtLuD (rd : BitVec 5) (rs1 : BitVec 5) (rm : BitVec 3)
  /-- Converts signed 32-bit integer to single (R144). -/
  | fcvtSW (rd : BitVec 5) (rs1 : BitVec 5) (rm : BitVec 3)
  /-- Converts unsigned 32-bit integer to single (R144). -/
  | fcvtSWu (rd : BitVec 5) (rs1 : BitVec 5) (rm : BitVec 3)
  /-- Converts signed 64-bit integer to single (R144). -/
  | fcvtSL (rd : BitVec 5) (rs1 : BitVec 5) (rm : BitVec 3)
  /-- Converts unsigned 64-bit integer to single (R144). -/
  | fcvtSLu (rd : BitVec 5) (rs1 : BitVec 5) (rm : BitVec 3)
  /-- Converts signed 32-bit integer to double (R144). -/
  | fcvtDW (rd : BitVec 5) (rs1 : BitVec 5) (rm : BitVec 3)
  /-- Converts unsigned 32-bit integer to double (R144). -/
  | fcvtDWu (rd : BitVec 5) (rs1 : BitVec 5) (rm : BitVec 3)
  /-- Converts signed 64-bit integer to double (R144). -/
  | fcvtDL (rd : BitVec 5) (rs1 : BitVec 5) (rm : BitVec 3)
  /-- Converts unsigned 64-bit integer to double (R144). -/
  | fcvtDLu (rd : BitVec 5) (rs1 : BitVec 5) (rm : BitVec 3)
  /-- Narrows double to single, rounding (R144). -/
  | fcvtSD (rd : BitVec 5) (rs1 : BitVec 5) (rm : BitVec 3)
  /-- Widens single to double exactly (R144). -/
  | fcvtDS (rd : BitVec 5) (rs1 : BitVec 5) (rm : BitVec 3)
  /-- Single-precision fused a times b plus c (R141). -/
  | fmaddS (rd : BitVec 5) (rs1 : BitVec 5) (rs2 : BitVec 5) (rs3 : BitVec 5) (rm : BitVec 3)
  /-- Double-precision fused a times b plus c (R141). -/
  | fmaddD (rd : BitVec 5) (rs1 : BitVec 5) (rs2 : BitVec 5) (rs3 : BitVec 5) (rm : BitVec 3)
  /-- Single-precision fused a times b minus c (R141). -/
  | fmsubS (rd : BitVec 5) (rs1 : BitVec 5) (rs2 : BitVec 5) (rs3 : BitVec 5) (rm : BitVec 3)
  /-- Double-precision fused a times b minus c (R141). -/
  | fmsubD (rd : BitVec 5) (rs1 : BitVec 5) (rs2 : BitVec 5) (rs3 : BitVec 5) (rm : BitVec 3)
  /-- Single-precision fused minus a times b plus c (R141). -/
  | fnmsubS (rd : BitVec 5) (rs1 : BitVec 5) (rs2 : BitVec 5) (rs3 : BitVec 5) (rm : BitVec 3)
  /-- Double-precision fused minus a times b plus c (R141). -/
  | fnmsubD (rd : BitVec 5) (rs1 : BitVec 5) (rs2 : BitVec 5) (rs3 : BitVec 5) (rm : BitVec 3)
  /-- Single-precision fused minus a times b minus c (R141). -/
  | fnmaddS (rd : BitVec 5) (rs1 : BitVec 5) (rs2 : BitVec 5) (rs3 : BitVec 5) (rm : BitVec 3)
  /-- Double-precision fused minus a times b minus c (R141). -/
  | fnmaddD (rd : BitVec 5) (rs1 : BitVec 5) (rs2 : BitVec 5) (rs3 : BitVec 5) (rm : BitVec 3)
  /-- Writes the decoded base of rs1 (R145). -/
  | cbase (rd : BitVec 5) (rs1 : BitVec 5)
  /-- Writes the decoded length of rs1 (R145). -/
  | clen (rd : BitVec 5) (rs1 : BitVec 5)
  /-- Writes the permissions and object type of rs1 (R145). -/
  | cperm (rd : BitVec 5) (rs1 : BitVec 5)
  /-- Writes the tag of rs1 (R145). -/
  | ctag (rd : BitVec 5) (rs1 : BitVec 5)
  /-- Narrows rs1 to a region of length rs2, rounding outward (R147). -/
  | cbnd (rd : BitVec 5) (rs1 : BitVec 5) (rs2 : BitVec 5)
  /-- Narrows rs1 to an exactly representable region or takes 0x09 (R147). -/
  | cbndx (rd : BitVec 5) (rs1 : BitVec 5) (rs2 : BitVec 5)
  /-- Adds rs2 to the capability address, clearing the tag when unrepresentable (R146). -/
  | cadd (rd : BitVec 5) (rs1 : BitVec 5) (rs2 : BitVec 5)
  /-- Sets the capability address to rs2 (R146). -/
  | cset (rd : BitVec 5) (rs1 : BitVec 5) (rs2 : BitVec 5)
  /-- Ands the capability permissions with rs2 (R146). -/
  | candp (rd : BitVec 5) (rs1 : BitVec 5) (rs2 : BitVec 5)
  /-- Copies a whole capability (R146). -/
  | cmv (rd : BitVec 5) (rs1 : BitVec 5)
  /-- Copies rs1 with its tag cleared (R146). -/
  | cclr (rd : BitVec 5) (rs1 : BitVec 5)
  /-- Tests whether rs2 grants a subset of rs1 (R148). -/
  | csub (rd : BitVec 5) (rs1 : BitVec 5) (rs2 : BitVec 5)
  /-- Seals rs1 with the object type in rs2 under sealing authority (R151). -/
  | cseal (rd : BitVec 5) (rs1 : BitVec 5) (rs2 : BitVec 5)
  /-- Unseals rs1 with the object type in rs2 (R151). -/
  | cunseal (rd : BitVec 5) (rs1 : BitVec 5) (rs2 : BitVec 5)
  /-- Adds a signed immediate to the capability address (R146). -/
  | caddi (rd : BitVec 5) (rs1 : BitVec 5) (imm : BitVec 12)
  /-- Loads a 16-byte capability granule with its tag (R149). -/
  | clc (rd : BitVec 5) (rs1 : BitVec 5) (imm : BitVec 12)
  /-- Stores a 16-byte capability granule and its tag, refusing local capabilities off-core (R149). -/
  | csc (rs2 : BitVec 5) (rs1 : BitVec 5) (imm : BitVec 12)
  /-- Scoped acquire load, held until earlier release stores reach their scope (R178). -/
  | lda (rd : BitVec 5) (rs1 : BitVec 5) (sz : BitVec 2) (sc : BitVec 3)
  /-- Scoped release store, a release entry at dev or dom scope (R178). -/
  | stl (rs1 : BitVec 5) (rs2 : BitVec 5) (sz : BitVec 2) (sc : BitVec 3)
  /-- Holds the issue point until the condition of its scope holds (R178). -/
  | fenceScoped (sc : BitVec 3)
  /-- Looks up a key in the scratchpad tag table, reporting a slot, a victim or no victim (R169). -/
  | taglk (rd : BitVec 5) (rs1 : BitVec 5)
  /-- Records a key in a tag-table slot (R170). -/
  | tagins (rd : BitVec 5) (rs1 : BitVec 5) (rs2 : BitVec 5)
  /-- Invalidates an unpinned tag-table slot (R171). -/
  | tagdel (rs1 : BitVec 5)
  /-- Increments a slot's pin count (R171). -/
  | tagpin (rs1 : BitVec 5)
  /-- Decrements a slot's pin count (R171). -/
  | tagunpin (rs1 : BitVec 5)
  /-- Loads a circular buffer's geometry from a descriptor and resets its counters (R186). -/
  | cbinit (bd : BitVec 4) (rs1 : BitVec 5)
  /-- Marks the next free slot filled, stalling while none is free (R186). -/
  | cbput (bd : BitVec 4)
  /-- Takes the next filled slot and returns its address, stalling while none is filled (R186). -/
  | cbget (rd : BitVec 5) (bs : BitVec 4)
  /-- Releases a held slot back to free (R186). -/
  | cbrel (bd : BitVec 4)
  /-- Returns a circular buffer's state (R186). -/
  | cbstat (rd : BitVec 5) (bs : BitVec 4)
  /-- Checks and posts an initialisation to a barrier object's owner (R190). -/
  | barinit (rs1 : BitVec 5) (rs2 : BitVec 5)
  /-- Sends an arrival of count rs2 to a barrier's owner (R191). -/
  | bararv (rd : BitVec 5) (rs1 : BitVec 5) (rs2 : BitVec 5)
  /-- Sends an arrive-and-drop to a barrier's owner (R191). -/
  | bardrop (rd : BitVec 5) (rs1 : BitVec 5)
  /-- Sends a bounded wait for a barrier phase to change (R192). -/
  | barwait (rd : BitVec 5) (rs1 : BitVec 5) (rs2 : BitVec 5)
  /-- Reads a barrier object's first dword at its owner (R193). -/
  | barrd (rd : BitVec 5) (rs1 : BitVec 5)
  /-- Sends a 4-byte add to the owner of the address (R180). -/
  | amoAddW (rd : BitVec 5) (rs1 : BitVec 5) (rs2 : BitVec 5)
  /-- Sends an 8-byte add to the owner of the address (R180). -/
  | amoAddD (rd : BitVec 5) (rs1 : BitVec 5) (rs2 : BitVec 5)
  /-- Sends an FP32 add to the owner (R180). -/
  | amoAddfW (rd : BitVec 5) (rs1 : BitVec 5) (rs2 : BitVec 5)
  /-- Sends an FP64 add to the owner (R180). -/
  | amoAddfD (rd : BitVec 5) (rs1 : BitVec 5) (rs2 : BitVec 5)
  /-- Sends a signed 4-byte minimum to the owner (R180). -/
  | amoMinW (rd : BitVec 5) (rs1 : BitVec 5) (rs2 : BitVec 5)
  /-- Sends a signed 8-byte minimum to the owner (R180). -/
  | amoMinD (rd : BitVec 5) (rs1 : BitVec 5) (rs2 : BitVec 5)
  /-- Sends a signed 4-byte maximum to the owner (R180). -/
  | amoMaxW (rd : BitVec 5) (rs1 : BitVec 5) (rs2 : BitVec 5)
  /-- Sends a signed 8-byte maximum to the owner (R180). -/
  | amoMaxD (rd : BitVec 5) (rs1 : BitVec 5) (rs2 : BitVec 5)
  /-- Sends an unsigned 4-byte minimum to the owner (R180). -/
  | amoMinuW (rd : BitVec 5) (rs1 : BitVec 5) (rs2 : BitVec 5)
  /-- Sends an unsigned 8-byte minimum to the owner (R180). -/
  | amoMinuD (rd : BitVec 5) (rs1 : BitVec 5) (rs2 : BitVec 5)
  /-- Sends an unsigned 4-byte maximum to the owner (R180). -/
  | amoMaxuW (rd : BitVec 5) (rs1 : BitVec 5) (rs2 : BitVec 5)
  /-- Sends an unsigned 8-byte maximum to the owner (R180). -/
  | amoMaxuD (rd : BitVec 5) (rs1 : BitVec 5) (rs2 : BitVec 5)
  /-- Sends a 4-byte swap to the owner (R180). -/
  | amoSwapW (rd : BitVec 5) (rs1 : BitVec 5) (rs2 : BitVec 5)
  /-- Sends an 8-byte swap to the owner (R180). -/
  | amoSwapD (rd : BitVec 5) (rs1 : BitVec 5) (rs2 : BitVec 5)
  /-- Sends a 4-byte compare-and-swap, expected value in rd, to the owner (R180). -/
  | amoCasW (rd : BitVec 5) (rs1 : BitVec 5) (rs2 : BitVec 5)
  /-- Sends an 8-byte compare-and-swap to the owner (R180). -/
  | amoCasD (rd : BitVec 5) (rs1 : BitVec 5) (rs2 : BitVec 5)
  /-- Sends a 4-byte and to the owner (R180). -/
  | amoAndW (rd : BitVec 5) (rs1 : BitVec 5) (rs2 : BitVec 5)
  /-- Sends an 8-byte and to the owner (R180). -/
  | amoAndD (rd : BitVec 5) (rs1 : BitVec 5) (rs2 : BitVec 5)
  /-- Sends a 4-byte or to the owner (R180). -/
  | amoOrW (rd : BitVec 5) (rs1 : BitVec 5) (rs2 : BitVec 5)
  /-- Sends an 8-byte or to the owner (R180). -/
  | amoOrD (rd : BitVec 5) (rs1 : BitVec 5) (rs2 : BitVec 5)
  /-- Sends a 4-byte xor to the owner (R180). -/
  | amoXorW (rd : BitVec 5) (rs1 : BitVec 5) (rs2 : BitVec 5)
  /-- Sends an 8-byte xor to the owner (R180). -/
  | amoXorD (rd : BitVec 5) (rs1 : BitVec 5) (rs2 : BitVec 5)
  /-- Arms the party's monitor on a dword and clears its event (R182). -/
  | mon (rs1 : BitVec 5)
  /-- Waits for the monitor event, bounded by rs1 cycles (R183). -/
  | monw (rd : BitVec 5) (rs1 : BitVec 5)
  /-- Copies bytes one step at a time, restartably, keeping progress in its registers (R152). -/
  | bmov (rd : BitVec 5) (rs1 : BitVec 5) (rs2 : BitVec 5)
  /-- Fills bytes from an 8-byte pattern, restartably (R152). -/
  | bfill (rd : BitVec 5) (rs1 : BitVec 5) (rs2 : BitVec 5)
  /-- Runs the following vector instruction rs1 times, counting rs1 down (R155). -/
  | rep (rs1 : BitVec 5)
  /-- Replaces the running sheet's resume record (R157). -/
  | rgn (xs : BitVec 3)
  /-- Binds a stream to a descriptor after checking its footprint (R259). -/
  | wbind (wd : BitVec 3) (rs1 : BitVec 5)
  /-- Returns a stream's status (R260). -/
  | wstat (rd : BitVec 5) (ws : BitVec 3)
  /-- Holds until the stream's writes leave the store buffer and discards a read window (R263). -/
  | wdrain (wd : BitVec 3)
  /-- Unbinds a stream without draining (R264). -/
  | wunbind (wd : BitVec 3)
  /-- Lane-wise add, optionally saturating (R269). -/
  | vadd (ty : BitVec 3) (src2 : BitVec 5) (va : BitVec 4) (sx : BitVec 1) (mask : BitVec 2) (vd : BitVec 4) (sat : BitVec 1)
  /-- Lane-wise subtract (R269). -/
  | vsub (ty : BitVec 3) (src2 : BitVec 5) (va : BitVec 4) (sx : BitVec 1) (mask : BitVec 2) (vd : BitVec 4) (sat : BitVec 1)
  /-- Lane-wise multiply (R269). -/
  | vmul (ty : BitVec 3) (src2 : BitVec 5) (va : BitVec 4) (sx : BitVec 1) (mask : BitVec 2) (vd : BitVec 4) (sat : BitVec 1)
  /-- Lane-wise fused multiply-add with one rounding (R269). -/
  | vfma (ty : BitVec 3) (src2 : BitVec 5) (va : BitVec 4) (sx : BitVec 1) (mask : BitVec 2) (vd : BitVec 4) (sat : BitVec 1)
  /-- Lane-wise fused multiply-subtract (R269). -/
  | vfms (ty : BitVec 3) (src2 : BitVec 5) (va : BitVec 4) (sx : BitVec 1) (mask : BitVec 2) (vd : BitVec 4) (sat : BitVec 1)
  /-- Lane-wise maximum (R269). -/
  | vmax (ty : BitVec 3) (src2 : BitVec 5) (va : BitVec 4) (sx : BitVec 1) (mask : BitVec 2) (vd : BitVec 4)
  /-- Lane-wise minimum (R269). -/
  | vmin (ty : BitVec 3) (src2 : BitVec 5) (va : BitVec 4) (sx : BitVec 1) (mask : BitVec 2) (vd : BitVec 4)
  /-- Lane-wise absolute value (R269). -/
  | vabs (ty : BitVec 3) (va : BitVec 4) (mask : BitVec 2) (vd : BitVec 4) (sat : BitVec 1)
  /-- Lane-wise negation (R269). -/
  | vneg (ty : BitVec 3) (va : BitVec 4) (mask : BitVec 2) (vd : BitVec 4) (sat : BitVec 1)
  /-- Clamps each lane to the range minus b to b (R269). -/
  | vclamp (ty : BitVec 3) (src2 : BitVec 5) (va : BitVec 4) (sx : BitVec 1) (mask : BitVec 2) (vd : BitVec 4)
  /-- Converts lanes between element types (R270). -/
  | vcvt (ty : BitVec 3) (sty : BitVec 3) (va : BitVec 4) (mask : BitVec 2) (vd : BitVec 4) (sat : BitVec 1)
  /-- Lane-wise reciprocal by the defined algorithm (R274). -/
  | vrcp (ty : BitVec 3) (va : BitVec 4) (mask : BitVec 2) (vd : BitVec 4)
  /-- Lane-wise reciprocal square root by the defined algorithm (R274). -/
  | vrsq (ty : BitVec 3) (va : BitVec 4) (mask : BitVec 2) (vd : BitVec 4)
  /-- Lane-wise power of two by the defined algorithm (R274). -/
  | vexp2 (ty : BitVec 3) (va : BitVec 4) (mask : BitVec 2) (vd : BitVec 4)
  /-- Pairwise-tree sum of the lanes into lane 0 (R273). -/
  | vredSum (ty : BitVec 3) (va : BitVec 4) (mask : BitVec 2) (vd : BitVec 4) (sat : BitVec 1)
  /-- Pairwise-tree maximum of the lanes (R273). -/
  | vredMax (ty : BitVec 3) (va : BitVec 4) (mask : BitVec 2) (vd : BitVec 4)
  /-- Pairwise-tree minimum of the lanes (R273). -/
  | vredMin (ty : BitVec 3) (va : BitVec 4) (mask : BitVec 2) (vd : BitVec 4)
  /-- Sets mask bits where lanes are equal (R271). -/
  | vcmpEq (ty : BitVec 3) (src2 : BitVec 5) (va : BitVec 4) (sx : BitVec 1) (mask : BitVec 2) (kd : BitVec 2)
  /-- Sets mask bits where a is less than b (R271). -/
  | vcmpLt (ty : BitVec 3) (src2 : BitVec 5) (va : BitVec 4) (sx : BitVec 1) (mask : BitVec 2) (kd : BitVec 2)
  /-- Sets mask bits where a is at most b (R271). -/
  | vcmpLe (ty : BitVec 3) (src2 : BitVec 5) (va : BitVec 4) (sx : BitVec 1) (mask : BitVec 2) (kd : BitVec 2)
  /-- Selects each lane from a or b by a mask (R272). -/
  | vsel (ty : BitVec 3) (src2 : BitVec 5) (va : BitVec 4) (sx : BitVec 1) (mask : BitVec 2) (vd : BitVec 4)
  /-- Bitwise and of 512 bits (R269). -/
  | vand (ty : BitVec 3) (src2 : BitVec 5) (va : BitVec 4) (sx : BitVec 1) (mask : BitVec 2) (vd : BitVec 4)
  /-- Bitwise or of 512 bits (R269). -/
  | vor (ty : BitVec 3) (src2 : BitVec 5) (va : BitVec 4) (sx : BitVec 1) (mask : BitVec 2) (vd : BitVec 4)
  /-- Bitwise xor of 512 bits (R269). -/
  | vxor (ty : BitVec 3) (src2 : BitVec 5) (va : BitVec 4) (sx : BitVec 1) (mask : BitVec 2) (vd : BitVec 4)
  /-- Lane-wise shift left (R269). -/
  | vshl (ty : BitVec 3) (src2 : BitVec 5) (va : BitVec 4) (sx : BitVec 1) (mask : BitVec 2) (vd : BitVec 4) (sat : BitVec 1)
  /-- Lane-wise logical or rounding shift right (R269). -/
  | vshr (ty : BitVec 3) (src2 : BitVec 5) (va : BitVec 4) (sx : BitVec 1) (mask : BitVec 2) (vd : BitVec 4) (sat : BitVec 1)
  /-- Moves lanes unchanged (R269). -/
  | vmov (ty : BitVec 3) (va : BitVec 4) (mask : BitVec 2) (vd : BitVec 4)
  /-- Writes a typed immediate to every lane (R275). -/
  | vsplat (imm : BitVec 16) (ty : BitVec 3) (vd : BitVec 4)
  /-- Adds a typed immediate to every lane (R275). -/
  | vaddi (imm : BitVec 16) (ty : BitVec 3) (vd : BitVec 4)
  /-- Multiplies every lane by a typed immediate (R275). -/
  | vmuli (imm : BitVec 16) (ty : BitVec 3) (vd : BitVec 4)
  /-- Takes the larger of each lane and a typed immediate (R275). -/
  | vmaxi (imm : BitVec 16) (ty : BitVec 3) (vd : BitVec 4)
  /-- Pushes a data or close message with payload x10 to x15 to the outbound queue (R211). -/
  | send (rd : BitVec 5) (rs1 : BitVec 5) (rs2 : BitVec 5)
  /-- Pushes a message whose payload is read from memory (R211). -/
  | sendb (rd : BitVec 5) (xs : BitVec 3)
  /-- Pushes a decrement message to a counter port (R211). -/
  | decr (rd : BitVec 5) (rs1 : BitVec 5) (rs2 : BitVec 5)
  /-- Sends up to six instructions to run at the owner of a 32-byte block (R212). -/
  | carry (rd : BitVec 5) (xs : BitVec 3)
  /-- Takes the next consumed message into x10 to x15 and rd (R214). -/
  | mpop (rd : BitVec 5)
  /-- Returns the next untaken message's header without taking it (R214). -/
  | mpeek (rd : BitVec 5)
  /-- Takes the next message unread (R214). -/
  | mdrop
  /-- Ends the firing once its stores have drained and its replies arrived (R215). -/
  | done
  /-- Sets a counter's handler to the next instruction and ends as done (R216). -/
  | wait (rs1 : BitVec 5)
  /-- Ends as done, clears the pin and makes a bank intent (R217). -/
  | bank
  /-- Sets the actor's pin (R218). -/
  | pin (rs1 : BitVec 5)
  /-- Takes a pending-launch record for a range of items or reports POOLFULL or DEPTHLIMIT (R228). -/
  | spawn (rd : BitVec 5) (xs : BitVec 3)
  /-- Arms a launch-end notice for a tag at the sweep root (R236). -/
  | lwait (rd : BitVec 5) (rs1 : BitVec 5) (rs2 : BitVec 5)
  /-- Pushes one sheet at the bottom of the core's quire (R232). -/
  | shpush (rd : BitVec 5) (xs : BitVec 3)
  /-- Checks a copy request and pushes it to the command FIFO, stalling when full (R198). -/
  | cpost (rd : BitVec 5) (xs : BitVec 3)
  /-- As cpost, but returns 0 and pushes nothing at a full FIFO (R199). -/
  | cpostNb (rd : BitVec 5) (xs : BitVec 3)
  /-- Returns the status word of a copy request (R201). -/
  | cstat (rd : BitVec 5) (rs1 : BitVec 5)
  /-- Sets a tile's accumulator format, zeroing affected tiles (R287). -/
  | tcfg (md : BitVec 5) (rs1 : BitVec 5)
  /-- Zeroes a tile or pair and marks it live (R288). -/
  | mzero (md : BitVec 5)
  /-- Fills a tile or pair from scratchpad (R289). -/
  | mload (md : BitVec 5) (rs1 : BitVec 5)
  /-- Queues C plus A times B on a tile from two operand rings (R290). -/
  | mma (md : BitVec 5) (rs1 : BitVec 5) (rs2 : BitVec 5)
  /-- Queues a gang matrix operation with the lead's A broadcast (R300). -/
  | mmag (md : BitVec 5) (rs1 : BitVec 5) (rs2 : BitVec 5)
  /-- Joins the cluster's matrix gang and waits at its wired barrier (R299). -/
  | mgang
  /-- Waits for a tile's operations, then converts and writes its rows with the epilogue (R296). -/
  | mdrain (md : BitVec 5) (rs1 : BitVec 5) (rs2 : BitVec 5)
  /-- Waits for the context's matrix operations and takes deferred causes and sequence traps (R293). -/
  | msync
  /-- Waits for a tile's earlier operations and returns its status (R294). -/
  | mchk (rd : BitVec 5) (ms : BitVec 5)
  /-- Reads a deckle extent or product of extents (R305). -/
  | dkl (rd : BitVec 5) (rs1 : BitVec 5) (rs2 : BitVec 5)
  /-- Claims the selection engine and loads a column descriptor (R314). -/
  | selld (rs1 : BitVec 5)
  /-- Counts the candidates on the current bit plane (R317). -/
  | selstep (rd : BitVec 5)
  /-- Keeps one half of the candidates and moves down a plane (R318). -/
  | selcut (rs1 : BitVec 5)
  /-- Walks every remaining plane toward a rank or weight target (R319). -/
  | selrun (rd : BitVec 5) (rs1 : BitVec 5) (rs2 : BitVec 5)
  /-- Reads a selection engine value and optionally releases the engine (R320). -/
  | selget (rd : BitVec 5) (rs1 : BitVec 5)
  /-- Maps tap-point rows to a sequence slot, optionally resetting the cursor (R337). -/
  | seqmap (rs1 : BitVec 5) (rs2 : BitVec 5)
  /-- Sets a slot's steering vector and coefficient through a STEER capability (R338). -/
  | steer (rs1 : BitVec 5) (rs2 : BitVec 5)
  /-- Reads or removes a tap record, reads an exported sum of squares or CUR (R339). -/
  | taprd (rd : BitVec 5) (rs1 : BitVec 5)
  /-- Returns from a supervisor trap handler to epc (R377). -/
  | xret
  /-- Holds a supervisor core until its monitor event is set (R377). -/
  | park
  /-- Invalidates translations or class tables in scope and waits for every acknowledgement (R381). -/
  | atinv (rs1 : BitVec 5) (rs2 : BitVec 5)
  /-- Walks a page table or reads a hearth entry for the supervisor (R382). -/
  | atprobe (rd : BitVec 5) (rs1 : BitVec 5)
  /-- A custom-1 hint word with no effect (R67). -/
  | hintPoint (hint : BitVec 17)
  /-- Supervisor command 0: stops and saves the core's firings, discards sheet firings and diverts inbox entries to the spill queue (R246). -/
  | preempt (c : CoreId)
  /-- Supervisor command 1: restores the core image and context images and continues the firings (R249). -/
  | resumeCore (c : CoreId)
  /-- Supervisor command 2: continues a parked firing at epc (R374). -/
  | retry (c : CoreId)
  /-- Supervisor command 3: ends a parked firing as a trap without a trap message (R374). -/
  | abandon (c : CoreId)
  /-- Supervisor command 4: a move order for an actor homed at the cluster (R223). -/
  | move (c : CoreId)
  /-- Supervisor command 5: clears an actor's pin (R375). -/
  | unpin (c : CoreId)
  /-- Supervisor command 6: clears a class's faulted mark (R375). -/
  | clearFaultedMark (c : CoreId)
  /-- Supervisor command 7: writes one general register of a parked context (R375). -/
  | setreg (c : CoreId)
  /-- Writing GO to sltgo checks the staged slot table and queues or rejects its installation (R87). -/
  | sltgoRequest (die : Fin 8) (n : Fin 4) (v : BitVec 64)
  /-- An accepted slot table is installed at the next walk once the contexts whose partition changes are idle (R87). -/
  | slotTableInstall (c : CoreId)
  /-- A write of a core's state area configuration word, refused while the core hosts an actor (R88). -/
  | stareaWrite (die : Fin 8) (n : Fin 4) (v : BitVec 64)
  /-- A write of a core's spill queue area, refused while the area holds entries (R88). -/
  | spqWrite (die : Fin 8) (n : Fin 4) (v : BitVec 64)
  /-- A write of a core's quire overflow area, refused while the area holds entries (R88). -/
  | qovfWrite (die : Fin 8) (n : Fin 4) (v : BitVec 64)
  /-- A CTL write setting EN checks the tap configuration, resets cursor and map and computes DIGEST (R330). -/
  | tapArm (die : Fin 8) (n : Fin 4) (v : BitVec 64)
  /-- A CTL write with EN 0 disarms the tap point and discards accumulation (R330). -/
  | tapDisarm (die : Fin 8) (n : Fin 4) (v : BitVec 64)
  /-- A csrrw of PTBL or VTBL through a PROBE capability records the address and its top (R329). -/
  | tapTablePointerWrite (die : Fin 8) (n : Fin 4) (cap : BitVec 129)
  /-- A write of a CSR or selected word with no behaviour of its own (R138). -/
  | registerWrite (p : Party) (csr : BitVec 12) (v : BitVec 64)
  /-- The oldest store-buffer entry is installed in its die view and carry entries are placed (R175). -/
  | drain (p : Party)
  /-- A carry entry is installed in another die's view under coherence order (R176). -/
  | carryDelivery (d e : Fin 8) (i : Nat)
  /-- A message whose release condition holds enters its destination inbox or home (R177). -/
  | deliver (ch : Chan)
  /-- The owner's handler context carries out an atomic in one Owner step and replies (R180). -/
  | ownerAmo (c : CoreId)
  /-- The owner's handler context runs carried code as one Owner step (R213). -/
  | carriedCodeRun (c : CoreId)
  /-- The owner initialises a barrier object, ending registered waits with result 2 (R190). -/
  | barrierInitOp (c : CoreId)
  /-- The owner applies an arrival or arrive-and-drop, possibly ending the phase (R191). -/
  | barrierArriveOp (c : CoreId)
  /-- The owner answers or registers a wait on a barrier phase (R192). -/
  | barrierWaitOp (c : CoreId)
  /-- The owner removes a timed-out wait still registered (R192). -/
  | barrierCancel (c : CoreId)
  /-- The owner reads a barrier object's first dword (R193). -/
  | barrierReadOp (c : CoreId)
  /-- A reply to an owner operation, carry or lwait reaches the waiting context (R243). -/
  | replyDelivery (p : Party)
  /-- The bound of a barwait expires: the issuer takes result 1 and sends a cancel (R192). -/
  | barwaitTimeout (p : Party)
  /-- The bound of monw expires with no event and it returns 1 (R183). -/
  | monwTimeout (p : Party)
  /-- A cbput takes effect once the party's earlier stores have drained (R186). -/
  | cbputEffect (p : Party)
  /-- The Load steps of a stream window are taken (R261). -/
  | streamWindowFill (p : Party) (w : Fin 8)
  /-- A message reaches its actor's home and is forwarded, buffered or starts a kindle (R221). -/
  | homeMessageArrival (die : Fin 8) (clu : Fin 256)
  /-- The choice of host for a waiting kindle is retried when a core of the die ends a firing or banks (R40). -/
  | kindleHostRetry (die : Fin 8) (clu : Fin 256) (i : Nat)
  /-- The host has fetched the image or initial state; the entry becomes LIVE and buffered messages forward (R41). -/
  | kindleStateInPlace (c : CoreId) (i : Nat)
  /-- A host's bank intent with its count reaches the home and is accepted or refused (R222). -/
  | bankIntent (die : Fin 8) (clu : Fin 256)
  /-- A host told to bank writes the actor's image to the bank store (R222). -/
  | bankOrder (c : CoreId)
  /-- A host told to ship lets a firing end and sends state, pin and queued messages to the new host (R222). -/
  | shipOrder (c : CoreId)
  /-- The bank image is complete; the entry is freed or kindles again (R221). -/
  | imageWritten (die : Fin 8) (clu : Fin 256)
  /-- The bank store has no space; the class is marked faulted and the actor stays (R42). -/
  | bankRefused (die : Fin 8) (clu : Fin 256)
  /-- Shipped state is in place at the new host; the entry becomes LIVE there (R221). -/
  | moveStateInPlace (c : CoreId)
  /-- An old home stops, banks and forwards the actors whose ADDR home a mapping change moves (R28). -/
  | addrHomeHandover (die : Fin 8) (clu : Fin 256)
  /-- The handover marker reaches the new home, which then handles its buffered messages (R28). -/
  | handoverMarker (die : Fin 8) (clu : Fin 256)
  /-- The handler context applies a decrement to a counter, possibly raising a counter firing (R30). -/
  | decrementApply (c : CoreId)
  /-- An idle context picks keyed work, pops its quire or steals (R238). -/
  | contextPick (c : CoreId) (k : Fin 4)
  /-- After drains and replies, done commits, releases messages and frees the context (R215). -/
  | firingEnd (c : CoreId) (k : Fin 4)
  /-- A victim core yields the oldest half of its sheets of the thief's partition (R47). -/
  | stealServe (c : CoreId) (k : Fin 4)
  /-- 256 cycles after a fruitless steal round, a context may request again (R47). -/
  | stealBackoffExpiry (c : CoreId) (k : Fin 4)
  /-- Sheets move back from the overflow area when fewer than 64 remain on chip (R239). -/
  | quireRefill (c : CoreId)
  /-- The launcher reads a record's count and class at the start of expansion (R230). -/
  | launchExpansionStart (die : Fin 8)
  /-- The launcher makes one item of a record per cycle (R230). -/
  | launchItem (die : Fin 8)
  /-- Every 65,536 root cycles the sweep gathers counts and declares launch ends and sends notices (R235). -/
  | launchSweep (part : BitVec 8)
  /-- Setting ARM reserves the member cores and evacuates their actors (R241). -/
  | gangReserve (die : Fin 8)
  /-- When every member core is free, the supervisor of DEVBASE sends start messages (R241). -/
  | gangStart (part : BitVec 8) (g : Nat)
  /-- A member core kindles its member actor and receives the gang-start notice (R241). -/
  | gangStartDelivery (c : CoreId)
  /-- Clearing ARM ends the gang's reservation (R242). -/
  | gangRelease (part : BitVec 8) (g : Nat)
  /-- A core whose inbox is full and outbound head held back 4,096 cycles sends a probe token (R244). -/
  | probeTokenSend (c : CoreId)
  /-- A core receiving a probe token forwards or drops it (R244). -/
  | probeTokenForward (c : CoreId)
  /-- A returned probe token lets the reserve entry accept the oldest held-back message (R244). -/
  | emergencyEntry (c : CoreId)
  /-- After resumption the spill queue is redelivered in order (R248). -/
  | spillRedelivery (c : CoreId)
  /-- A journal entry is installed, making a journalled message consumable (R389). -/
  | journalAppend (c : CoreId)
  /-- A copy request leaves the command FIFO into its engine's pending set once its release holds (R199). -/
  | requestAccept (p : Party)
  /-- An engine reads one chunk of a request's source (R200). -/
  | copyRead (e : EngineId) (i : Nat)
  /-- An engine installs one chunk at the destination (R200). -/
  | copyWrite (e : EngineId) (i : Nat)
  /-- One destination element of a REDUCE is updated in an Owner step (R196). -/
  | reduceElement (e : EngineId) (i : Nat)
  /-- When all ranks have arrived, the engine applies them in rank order (R202). -/
  | orderedReduceApply (e : EngineId) (i : Nat)
  /-- Once a filled slot's writes are installed, the engine takes the cbput step (R197). -/
  | cbfillSlotPut (e : EngineId) (i : Nat)
  /-- After every payload write is installed, the sequence number is written through w3 (R200). -/
  | stamp (e : EngineId) (i : Nat)
  /-- After the payload is installed, the enqueue message is sent (R196). -/
  | wrenqEnqueue (e : EngineId) (i : Nat)
  /-- The request leaves the pending set and its completion message is placed (R200). -/
  | notify (e : EngineId) (i : Nat)
  /-- A queued matrix operation takes its operand slots and starts (R280). -/
  | matrixOpStart (c : CoreId)
  /-- A matrix operation's effect on the tile completes and its slots are released (R290). -/
  | matrixOpRetire (c : CoreId) (mismatches : Nat)
  /-- A gang operation starts when every member has issued or left (R300). -/
  | gangOpStart (die : Fin 8) (clu : Fin 256)
  /-- A stalled selld claims the engine when it becomes free (R312). -/
  | selectionEngineGrant (die : Fin 8) (clu : Fin 256)
  /-- The die walker completes a walk and fills every requesting TLB (R380). -/
  | pageWalk (die : Fin 8)
  /-- A long request flit arrives and registers a Damper record or is held back (R361). -/
  | long (f : Flit)
  /-- A short request flit arrives, is checked and applied, and answered (R355). -/
  | short (f : Flit)
  /-- A renewed request for a record arrives at the Damper (R361). -/
  | rereq (f : Flit)
  /-- An actor message flit arrives and is placed, then acknowledged (R350). -/
  | msg (f : Flit)
  /-- A launch sweep request or report flit arrives (R350). -/
  | sweep (f : Flit)
  /-- The Damper's registration acknowledgement reaches the sender (R346). -/
  | ack (f : Flit)
  /-- A completion flit reaches the issuing engine, ending the request (R346). -/
  | doneResponse (f : Flit)
  /-- The data of a short READ arrives (R355). -/
  | rdata (f : Flit)
  /-- A redirection arrives and the sender reissues the request to the new holder (R365). -/
  | fwd (f : Flit)
  /-- The receiver reports no record and the sender ends the request with error 0x04 (R362). -/
  | drop (f : Flit)
  /-- A MSG flit's acknowledgement arrives (R350). -/
  | mack (f : Flit)
  /-- A draw token arrives and the sender sends its range (R360). -/
  | grant (f : Flit)
  /-- A granted token is withdrawn and the sender holds the range (R363). -/
  | revoke (f : Flit)
  /-- A saved record is restored and the sender answers with REREQ (R363). -/
  | resume (f : Flit)
  /-- A device port stops sending a class to a destination (R351). -/
  | setaside (f : Flit)
  /-- A set-aside flow is released at the device port (R351). -/
  | clear (f : Flit)
  /-- A bulk data flit arrives and is installed, or discarded under a void token (R360). -/
  | data (f : Flit)
  /-- The Damper grants a token to a waiting record by slot and priority (R359). -/
  | damperGrant (slot : Nat)
  /-- A token with no flit expires after 2^16 Damper cycles (R360). -/
  | tokenExpiry (i : Nat)
  /-- A flue engine silent for 2^20 cycles on a long request sends REREQ (R362). -/
  | rereqTimeout (die : Fin 8) (i : Nat)
  /-- A prefix tracker entry silent 2^16 cycles ends its write with error 0x04 (R367). -/
  | prefixTrackerTimeout (i : Nat)
  /-- The Damper saves every record of a pre-empted gang's tag (R363). -/
  | damperSave (part : BitVec 8) (tag : BitVec 12)
  /-- The Damper sends RESUME for each saved record (R363). -/
  | damperRestore (part : BitVec 8) (tag : BitVec 12)
  /-- A flow holding over half an output's entries for 4,096 cycles is set aside (R351). -/
  | switchSetAside (port : Fin 128) (dev : BitVec 12) (cls : Fin 4)
  /-- A set-aside queue empties and CLEAR is sent (R351). -/
  | switchClear (port : Fin 128) (dev : BitVec 12) (cls : Fin 4)
  /-- A switch combines fetching reductions into one flit (R352). -/
  | switchCombine (port : Fin 128)
  /-- A flit fails its CRC and is resent; a lane failing 16 resends goes down (R386). -/
  | flitCrcFail (port : Fin 128) (lane : Fin 2)
  /-- A link or class loses its reserve and ports go down, rerouting traffic (R349). -/
  | linkFailure (port : Fin 128) (cls : Fin 4)
  /-- An uncorrectable error poisons an entry, rebuilt from the journal or lost (R387). -/
  | uncorrectableError (x : Struck)
  /-- More than 1,024 corrected errors in 2^32 cycles reports cause 0x3B (R386). -/
  | correctedErrorThreshold (unit : Nat)
  /-- A compute die's heartbeat is unwritten for 2^24 base-die cycles (R390). -/
  | heartbeatTimeout (die : Fin 8)
  /-- A compute die fails: the base die fences it, brings in the spare and replays (R390). -/
  | dieFailure (die : Fin 8)
  /-- A 64-byte posted host write to the message window becomes one message (R395). -/
  | hostMessageWrite (part : BitVec 8) (off : BitVec 12) (bytes : List (BitVec 8))
  /-- A CXL.mem access by the host to device HBM, under the access tables (R394). -/
  | hostMemoryAccess (part : BitVec 8) (q : BitVec 64) (wr : Option (BitVec 512))
  /-- A nonce write starts an attestation report (R393). -/
  | attestationRequest (nonce : BitVec 256)
  /-- The signed report is built and its length is published (R394). -/
  | attestationReportReady
  /-- Mask ROM fetches and verifies the firmware image (R392). -/
  | powerOn
  /-- A wave of 16 clusters starts 4,096 cycles after the previous one (R396). -/
  | clusterWaveStart (die : Fin 8)
  /-- The management port sets a power limit (R397). -/
  | powerLimitSet (watts : Nat)
  /-- The limit is reached; idle issue cycles are inserted and cause 0x3C reported (R397). -/
  | powerLimitEngage
  /-- A fetched word that matches no listed encoding, or an illegal space, takes cause 0x01 (R52). -/
  | illegalInstruction (w : BitVec 32)
  /-- Fetch at the program counter fails on the window, translation with the X permission, the access tables or poison, and takes its cause (R379). -/
  | instructionFetchFault (cause : BitVec 6) (tval : BitVec 64)
  /-- A DONE flit returning to a switch that combined fetching reductions is split into one DONE per component from its wait buffer (R352). -/
  | combinedDoneSplit (f : Flit)
  /-- A fabric port or class becomes usable again, the list of ports that are up changes, and messages held for an unreachable device are released (R350). -/
  | portUp (port : Fin 128) (cls : Fin 4)
  /-- The next unit in start-up order starts once the previous is done: the base dies, HBM training stack by stack, then each compute die with the spare tested and held idle (R396). -/
  | unitStart
  /-- Loss of supply powers the device down, and it holds no state (R392). -/
  | powerDown
  deriving DecidableEq, Repr

end Sys2Proof
end

