-- ==== Sys2Proof/WellFormed.lean ====
section
/-! DEFINITION. Well-formed instructions: the field values that an encoding's table excludes (R53). A word
whose fields hold an excluded value matches no encoding and takes cause 0x01. -/

namespace Sys2Proof

/-- R60: the rm values 101 and 110 take cause 0x01. -/
def rmAssigned (rm : BitVec 3) : Bool := rm != 0b101#3 && rm != 0b110#3

/-- R61: xs is a multiple of 4 and x28 takes cause 0x01; the field holds xs / 4. -/
def quadAssigned (xs : BitVec 3) : Bool := xs != 7#3

/-- R64: SCOPE values 101 to 111 take cause 0x01. -/
def scopeAssigned (sc : BitVec 3) : Bool := sc.toNat ≤ 4

/-- The type set F of R65: f32, bf16, f16, f64. -/
def typeInF (ty : BitVec 3) : Bool := ty == 0b000#3 || ty == 0b001#3 || ty == 0b010#3 || ty == 0b111#3

/-- The type set I of R65: i32, i8. -/
def typeInI (ty : BitVec 3) : Bool := ty == 0b101#3 || ty == 0b110#3

/-- The type set A of R65: F together with I. -/
def typeInA (ty : BitVec 3) : Bool := typeInF ty || typeInI ty

/-- R65: with sx = 0, src2[4] is zero. -/
def src2Assigned (src2 : BitVec 5) (sx : BitVec 1) : Bool := sx == 1#1 || src2.toNat < 16

/-- Well-formed: no field holds a value that the encoding's table excludes (R53). The rows without an
encoding have no fields and are well-formed. -/
def Instr.wf : Instr → Bool
  | .lui _ _ => true
  | .auipc _ _ => true
  | .jal _ _ => true
  | .jalr _ _ _ => true
  | .beq _ _ _ => true
  | .bne _ _ _ => true
  | .blt _ _ _ => true
  | .bge _ _ _ => true
  | .bltu _ _ _ => true
  | .bgeu _ _ _ => true
  | .lb _ _ _ => true
  | .lh _ _ _ => true
  | .lw _ _ _ => true
  | .ld _ _ _ => true
  | .lbu _ _ _ => true
  | .lhu _ _ _ => true
  | .lwu _ _ _ => true
  | .sb _ _ _ => true
  | .sh _ _ _ => true
  | .sw _ _ _ => true
  | .sd _ _ _ => true
  | .addi _ _ _ => true
  | .slti _ _ _ => true
  | .sltiu _ _ _ => true
  | .xori _ _ _ => true
  | .ori _ _ _ => true
  | .andi _ _ _ => true
  | .slli _ _ _ => true
  | .srli _ _ _ => true
  | .srai _ _ _ => true
  | .add _ _ _ => true
  | .sll _ _ _ => true
  | .slt _ _ _ => true
  | .sltu _ _ _ => true
  | .xor _ _ _ => true
  | .srl _ _ _ => true
  | .or _ _ _ => true
  | .and _ _ _ => true
  | .sub _ _ _ => true
  | .sra _ _ _ => true
  | .mul _ _ _ => true
  | .mulh _ _ _ => true
  | .mulhsu _ _ _ => true
  | .mulhu _ _ _ => true
  | .div _ _ _ => true
  | .divu _ _ _ => true
  | .rem _ _ _ => true
  | .remu _ _ _ => true
  | .addiw _ _ _ => true
  | .slliw _ _ _ => true
  | .srliw _ _ _ => true
  | .sraiw _ _ _ => true
  | .addw _ _ _ => true
  | .subw _ _ _ => true
  | .sllw _ _ _ => true
  | .srlw _ _ _ => true
  | .sraw _ _ _ => true
  | .mulw _ _ _ => true
  | .divw _ _ _ => true
  | .divuw _ _ _ => true
  | .remw _ _ _ => true
  | .remuw _ _ _ => true
  | .fence _ _ _ => true
  | .ecall  => true
  | .ebreak  => true
  | .csrrw _ _ _ => true
  | .csrrs _ _ _ => true
  | .csrrc _ _ _ => true
  | .csrrwi _ _ _ => true
  | .csrrsi _ _ _ => true
  | .csrrci _ _ _ => true
  | .faddS _ _ _ rm => rmAssigned rm
  | .faddD _ _ _ rm => rmAssigned rm
  | .fsubS _ _ _ rm => rmAssigned rm
  | .fsubD _ _ _ rm => rmAssigned rm
  | .fmulS _ _ _ rm => rmAssigned rm
  | .fmulD _ _ _ rm => rmAssigned rm
  | .fdivS _ _ _ rm => rmAssigned rm
  | .fdivD _ _ _ rm => rmAssigned rm
  | .fsqrtS _ _ rm => rmAssigned rm
  | .fsqrtD _ _ rm => rmAssigned rm
  | .fsgnjS _ _ _ => true
  | .fsgnjD _ _ _ => true
  | .fsgnjnS _ _ _ => true
  | .fsgnjnD _ _ _ => true
  | .fsgnjxS _ _ _ => true
  | .fsgnjxD _ _ _ => true
  | .fminS _ _ _ => true
  | .fminD _ _ _ => true
  | .fmaxS _ _ _ => true
  | .fmaxD _ _ _ => true
  | .fleS _ _ _ => true
  | .fleD _ _ _ => true
  | .fltS _ _ _ => true
  | .fltD _ _ _ => true
  | .feqS _ _ _ => true
  | .feqD _ _ _ => true
  | .fclassS _ _ => true
  | .fclassD _ _ => true
  | .fcvtWS _ _ rm => rmAssigned rm
  | .fcvtWuS _ _ rm => rmAssigned rm
  | .fcvtLS _ _ rm => rmAssigned rm
  | .fcvtLuS _ _ rm => rmAssigned rm
  | .fcvtWD _ _ rm => rmAssigned rm
  | .fcvtWuD _ _ rm => rmAssigned rm
  | .fcvtLD _ _ rm => rmAssigned rm
  | .fcvtLuD _ _ rm => rmAssigned rm
  | .fcvtSW _ _ rm => rmAssigned rm
  | .fcvtSWu _ _ rm => rmAssigned rm
  | .fcvtSL _ _ rm => rmAssigned rm
  | .fcvtSLu _ _ rm => rmAssigned rm
  | .fcvtDW _ _ rm => rmAssigned rm
  | .fcvtDWu _ _ rm => rmAssigned rm
  | .fcvtDL _ _ rm => rmAssigned rm
  | .fcvtDLu _ _ rm => rmAssigned rm
  | .fcvtSD _ _ rm => rmAssigned rm
  | .fcvtDS _ _ rm => rmAssigned rm
  | .fmaddS _ _ _ _ rm => rmAssigned rm
  | .fmaddD _ _ _ _ rm => rmAssigned rm
  | .fmsubS _ _ _ _ rm => rmAssigned rm
  | .fmsubD _ _ _ _ rm => rmAssigned rm
  | .fnmsubS _ _ _ _ rm => rmAssigned rm
  | .fnmsubD _ _ _ _ rm => rmAssigned rm
  | .fnmaddS _ _ _ _ rm => rmAssigned rm
  | .fnmaddD _ _ _ _ rm => rmAssigned rm
  | .cbase _ _ => true
  | .clen _ _ => true
  | .cperm _ _ => true
  | .ctag _ _ => true
  | .cbnd _ _ _ => true
  | .cbndx _ _ _ => true
  | .cadd _ _ _ => true
  | .cset _ _ _ => true
  | .candp _ _ _ => true
  | .cmv _ _ => true
  | .cclr _ _ => true
  | .csub _ _ _ => true
  | .cseal _ _ _ => true
  | .cunseal _ _ _ => true
  | .caddi _ _ _ => true
  | .clc _ _ _ => true
  | .csc _ _ _ => true
  | .lda _ _ _ sc => scopeAssigned sc
  | .stl _ _ _ sc => scopeAssigned sc
  | .fenceScoped sc => scopeAssigned sc
  | .taglk _ _ => true
  | .tagins _ _ _ => true
  | .tagdel _ => true
  | .tagpin _ => true
  | .tagunpin _ => true
  | .cbinit _ _ => true
  | .cbput _ => true
  | .cbget _ _ => true
  | .cbrel _ => true
  | .cbstat _ _ => true
  | .barinit _ _ => true
  | .bararv _ _ _ => true
  | .bardrop _ _ => true
  | .barwait _ _ _ => true
  | .barrd _ _ => true
  | .amoAddW _ _ _ => true
  | .amoAddD _ _ _ => true
  | .amoAddfW _ _ _ => true
  | .amoAddfD _ _ _ => true
  | .amoMinW _ _ _ => true
  | .amoMinD _ _ _ => true
  | .amoMaxW _ _ _ => true
  | .amoMaxD _ _ _ => true
  | .amoMinuW _ _ _ => true
  | .amoMinuD _ _ _ => true
  | .amoMaxuW _ _ _ => true
  | .amoMaxuD _ _ _ => true
  | .amoSwapW _ _ _ => true
  | .amoSwapD _ _ _ => true
  | .amoCasW _ _ _ => true
  | .amoCasD _ _ _ => true
  | .amoAndW _ _ _ => true
  | .amoAndD _ _ _ => true
  | .amoOrW _ _ _ => true
  | .amoOrD _ _ _ => true
  | .amoXorW _ _ _ => true
  | .amoXorD _ _ _ => true
  | .mon _ => true
  | .monw _ _ => true
  | .bmov _ _ _ => true
  | .bfill _ _ _ => true
  | .rep _ => true
  | .rgn xs => quadAssigned xs
  | .wbind _ _ => true
  | .wstat _ _ => true
  | .wdrain _ => true
  | .wunbind _ => true
  | .vadd ty src2 _ sx _ _ _ => typeInA ty && src2Assigned src2 sx
  | .vsub ty src2 _ sx _ _ _ => typeInA ty && src2Assigned src2 sx
  | .vmul ty src2 _ sx _ _ _ => typeInA ty && src2Assigned src2 sx
  | .vfma ty src2 _ sx _ _ _ => typeInF ty && src2Assigned src2 sx
  | .vfms ty src2 _ sx _ _ _ => typeInF ty && src2Assigned src2 sx
  | .vmax ty src2 _ sx _ _ => typeInA ty && src2Assigned src2 sx
  | .vmin ty src2 _ sx _ _ => typeInA ty && src2Assigned src2 sx
  | .vabs ty _ _ _ sat => typeInA ty && (sat == 0#1 || typeInI ty)
  | .vneg ty _ _ _ sat => typeInA ty && (sat == 0#1 || typeInI ty)
  | .vclamp ty src2 _ sx _ _ => typeInA ty && src2Assigned src2 sx
  | .vcvt _ _ _ _ _ _ => true
  | .vrcp ty _ _ _ => typeInF ty
  | .vrsq ty _ _ _ => typeInF ty
  | .vexp2 ty _ _ _ => typeInF ty
  | .vredSum ty _ _ _ sat => (typeInF ty || ty == 0b101#3) && (sat == 0#1 || ty == 0b101#3)
  | .vredMax ty _ _ _ => typeInA ty
  | .vredMin ty _ _ _ => typeInA ty
  | .vcmpEq ty src2 _ sx _ _ => typeInA ty && src2Assigned src2 sx
  | .vcmpLt ty src2 _ sx _ _ => typeInA ty && src2Assigned src2 sx
  | .vcmpLe ty src2 _ sx _ _ => typeInA ty && src2Assigned src2 sx
  | .vsel _ src2 _ sx _ _ => src2Assigned src2 sx
  | .vand _ src2 _ sx _ _ => src2Assigned src2 sx
  | .vor _ src2 _ sx _ _ => src2Assigned src2 sx
  | .vxor _ src2 _ sx _ _ => src2Assigned src2 sx
  | .vshl ty src2 _ sx _ _ _ => typeInI ty && src2Assigned src2 sx
  | .vshr ty src2 _ sx _ _ _ => typeInI ty && src2Assigned src2 sx
  | .vmov _ _ _ _ => true
  | .vsplat _ _ _ => true
  | .vaddi _ ty _ => typeInA ty
  | .vmuli _ ty _ => typeInA ty
  | .vmaxi _ ty _ => typeInA ty
  | .send _ _ _ => true
  | .sendb _ xs => quadAssigned xs
  | .decr _ _ _ => true
  | .carry _ xs => quadAssigned xs
  | .mpop _ => true
  | .mpeek _ => true
  | .mdrop  => true
  | .done  => true
  | .wait _ => true
  | .bank  => true
  | .pin _ => true
  | .spawn _ xs => quadAssigned xs
  | .lwait _ _ _ => true
  | .shpush _ xs => quadAssigned xs
  | .cpost _ xs => quadAssigned xs
  | .cpostNb _ xs => quadAssigned xs
  | .cstat _ _ => true
  | .tcfg _ _ => true
  | .mzero _ => true
  | .mload _ _ => true
  | .mma _ _ _ => true
  | .mmag _ _ _ => true
  | .mgang  => true
  | .mdrain _ _ _ => true
  | .msync  => true
  | .mchk _ _ => true
  | .dkl _ _ _ => true
  | .selld _ => true
  | .selstep _ => true
  | .selcut _ => true
  | .selrun _ _ _ => true
  | .selget _ _ => true
  | .seqmap _ _ => true
  | .steer _ _ => true
  | .taprd _ _ => true
  | .xret  => true
  | .park  => true
  | .atinv _ _ => true
  | .atprobe _ _ => true
  | .hintPoint _ => true
  | .preempt _ => true
  | .resumeCore _ => true
  | .retry _ => true
  | .abandon _ => true
  | .move _ => true
  | .unpin _ => true
  | .clearFaultedMark _ => true
  | .setreg _ => true
  | .sltgoRequest _ _ _ => true
  | .slotTableInstall _ => true
  | .stareaWrite _ _ _ => true
  | .spqWrite _ _ _ => true
  | .qovfWrite _ _ _ => true
  | .tapArm _ _ _ => true
  | .tapDisarm _ _ _ => true
  | .tapTablePointerWrite _ _ _ => true
  | .registerWrite _ _ _ => true
  | .drain _ => true
  | .carryDelivery _ _ _ => true
  | .deliver _ => true
  | .ownerAmo _ => true
  | .carriedCodeRun _ => true
  | .barrierInitOp _ => true
  | .barrierArriveOp _ => true
  | .barrierWaitOp _ => true
  | .barrierCancel _ => true
  | .barrierReadOp _ => true
  | .replyDelivery _ => true
  | .barwaitTimeout _ => true
  | .monwTimeout _ => true
  | .cbputEffect _ => true
  | .streamWindowFill _ _ => true
  | .homeMessageArrival _ _ => true
  | .kindleHostRetry _ _ _ => true
  | .kindleStateInPlace _ _ => true
  | .bankIntent _ _ => true
  | .bankOrder _ => true
  | .shipOrder _ => true
  | .imageWritten _ _ => true
  | .bankRefused _ _ => true
  | .moveStateInPlace _ => true
  | .addrHomeHandover _ _ => true
  | .handoverMarker _ _ => true
  | .decrementApply _ => true
  | .contextPick _ _ => true
  | .firingEnd _ _ => true
  | .stealServe _ _ => true
  | .stealBackoffExpiry _ _ => true
  | .quireRefill _ => true
  | .launchExpansionStart _ => true
  | .launchItem _ => true
  | .launchSweep _ => true
  | .gangReserve _ => true
  | .gangStart _ _ => true
  | .gangStartDelivery _ => true
  | .gangRelease _ _ => true
  | .probeTokenSend _ => true
  | .probeTokenForward _ => true
  | .emergencyEntry _ => true
  | .spillRedelivery _ => true
  | .journalAppend _ => true
  | .requestAccept _ => true
  | .copyRead _ _ => true
  | .copyWrite _ _ => true
  | .reduceElement _ _ => true
  | .orderedReduceApply _ _ => true
  | .cbfillSlotPut _ _ => true
  | .stamp _ _ => true
  | .wrenqEnqueue _ _ => true
  | .notify _ _ => true
  | .matrixOpStart _ => true
  | .matrixOpRetire _ _ => true
  | .gangOpStart _ _ => true
  | .selectionEngineGrant _ _ => true
  | .pageWalk _ => true
  | .long _ => true
  | .short _ => true
  | .rereq _ => true
  | .msg _ => true
  | .sweep _ => true
  | .ack _ => true
  | .doneResponse _ => true
  | .rdata _ => true
  | .fwd _ => true
  | .drop _ => true
  | .mack _ => true
  | .grant _ => true
  | .revoke _ => true
  | .resume _ => true
  | .setaside _ => true
  | .clear _ => true
  | .data _ => true
  | .damperGrant _ => true
  | .tokenExpiry _ => true
  | .rereqTimeout _ _ => true
  | .prefixTrackerTimeout _ => true
  | .damperSave _ _ => true
  | .damperRestore _ _ => true
  | .switchSetAside _ _ _ => true
  | .switchClear _ _ _ => true
  | .switchCombine _ => true
  | .flitCrcFail _ _ => true
  | .linkFailure _ _ => true
  | .uncorrectableError _ => true
  | .correctedErrorThreshold _ => true
  | .heartbeatTimeout _ => true
  | .dieFailure _ => true
  | .hostMessageWrite _ _ _ => true
  | .hostMemoryAccess _ _ _ => true
  | .attestationRequest _ => true
  | .attestationReportReady  => true
  | .powerOn  => true
  | .clusterWaveStart _ => true
  | .powerLimitSet _ => true
  | .powerLimitEngage  => true
  | .illegalInstruction _ => true
  | .instructionFetchFault _ _ => true
  | .combinedDoneSplit _ => true
  | .portUp _ _ => true
  | .unitStart  => true
  | .powerDown  => true

end Sys2Proof
end

