-- ==== Sys2Proof/Decode.lean ====
section
/-! DEFINITION. The decoder and the encoder, from the encoding tables of 03/R51 to R67. The decoder is total:
a word that matches no listed encoding, or whose fields hold an excluded value, answers none (R52, R53).
The definitions that build the last encoded constructors carry the word noncomputable: Lean's compiled code has
no object tags for an inductive type with so many constructors. Lean's kernel evaluates them. -/

namespace Sys2Proof
/-- The words of opcode 0x37. -/
def decodeLui (w : BitVec 32) : Option Instr :=
  some (.lui (w.extractLsb' 7 5) (w.extractLsb' 12 20))

/-- The words of opcode 0x17. -/
def decodeAuipc (w : BitVec 32) : Option Instr :=
  some (.auipc (w.extractLsb' 7 5) (w.extractLsb' 12 20))

/-- The words of opcode 0x6F. -/
def decodeJal (w : BitVec 32) : Option Instr :=
  some (.jal (w.extractLsb' 7 5) ((w.extractLsb' 31 1) ++ (w.extractLsb' 12 8) ++ (w.extractLsb' 20 1) ++ (w.extractLsb' 21 10)))

/-- The words of opcode 0x67. -/
def decodeJalr (w : BitVec 32) : Option Instr :=
  if w.extractLsb' 12 3 = 0#3 then
    some (.jalr (w.extractLsb' 7 5) (w.extractLsb' 15 5) (w.extractLsb' 20 12))
  else
  none
/-- The words of opcode 0x63. -/
def decodeBranch (w : BitVec 32) : Option Instr :=
  if w.extractLsb' 12 3 = 0#3 then
    some (.beq (w.extractLsb' 15 5) (w.extractLsb' 20 5) ((w.extractLsb' 31 1) ++ (w.extractLsb' 7 1) ++ (w.extractLsb' 25 6) ++ (w.extractLsb' 8 4)))
  else
  if w.extractLsb' 12 3 = 1#3 then
    some (.bne (w.extractLsb' 15 5) (w.extractLsb' 20 5) ((w.extractLsb' 31 1) ++ (w.extractLsb' 7 1) ++ (w.extractLsb' 25 6) ++ (w.extractLsb' 8 4)))
  else
  if w.extractLsb' 12 3 = 4#3 then
    some (.blt (w.extractLsb' 15 5) (w.extractLsb' 20 5) ((w.extractLsb' 31 1) ++ (w.extractLsb' 7 1) ++ (w.extractLsb' 25 6) ++ (w.extractLsb' 8 4)))
  else
  if w.extractLsb' 12 3 = 5#3 then
    some (.bge (w.extractLsb' 15 5) (w.extractLsb' 20 5) ((w.extractLsb' 31 1) ++ (w.extractLsb' 7 1) ++ (w.extractLsb' 25 6) ++ (w.extractLsb' 8 4)))
  else
  if w.extractLsb' 12 3 = 6#3 then
    some (.bltu (w.extractLsb' 15 5) (w.extractLsb' 20 5) ((w.extractLsb' 31 1) ++ (w.extractLsb' 7 1) ++ (w.extractLsb' 25 6) ++ (w.extractLsb' 8 4)))
  else
  if w.extractLsb' 12 3 = 7#3 then
    some (.bgeu (w.extractLsb' 15 5) (w.extractLsb' 20 5) ((w.extractLsb' 31 1) ++ (w.extractLsb' 7 1) ++ (w.extractLsb' 25 6) ++ (w.extractLsb' 8 4)))
  else
  none
/-- The words of opcode 0x03. -/
def decodeLoad (w : BitVec 32) : Option Instr :=
  if w.extractLsb' 12 3 = 0#3 then
    some (.lb (w.extractLsb' 7 5) (w.extractLsb' 15 5) (w.extractLsb' 20 12))
  else
  if w.extractLsb' 12 3 = 1#3 then
    some (.lh (w.extractLsb' 7 5) (w.extractLsb' 15 5) (w.extractLsb' 20 12))
  else
  if w.extractLsb' 12 3 = 2#3 then
    some (.lw (w.extractLsb' 7 5) (w.extractLsb' 15 5) (w.extractLsb' 20 12))
  else
  if w.extractLsb' 12 3 = 3#3 then
    some (.ld (w.extractLsb' 7 5) (w.extractLsb' 15 5) (w.extractLsb' 20 12))
  else
  if w.extractLsb' 12 3 = 4#3 then
    some (.lbu (w.extractLsb' 7 5) (w.extractLsb' 15 5) (w.extractLsb' 20 12))
  else
  if w.extractLsb' 12 3 = 5#3 then
    some (.lhu (w.extractLsb' 7 5) (w.extractLsb' 15 5) (w.extractLsb' 20 12))
  else
  if w.extractLsb' 12 3 = 6#3 then
    some (.lwu (w.extractLsb' 7 5) (w.extractLsb' 15 5) (w.extractLsb' 20 12))
  else
  none
/-- The words of opcode 0x23. -/
def decodeStore (w : BitVec 32) : Option Instr :=
  if w.extractLsb' 12 3 = 0#3 then
    some (.sb (w.extractLsb' 20 5) (w.extractLsb' 15 5) ((w.extractLsb' 25 7) ++ (w.extractLsb' 7 5)))
  else
  if w.extractLsb' 12 3 = 1#3 then
    some (.sh (w.extractLsb' 20 5) (w.extractLsb' 15 5) ((w.extractLsb' 25 7) ++ (w.extractLsb' 7 5)))
  else
  if w.extractLsb' 12 3 = 2#3 then
    some (.sw (w.extractLsb' 20 5) (w.extractLsb' 15 5) ((w.extractLsb' 25 7) ++ (w.extractLsb' 7 5)))
  else
  if w.extractLsb' 12 3 = 3#3 then
    some (.sd (w.extractLsb' 20 5) (w.extractLsb' 15 5) ((w.extractLsb' 25 7) ++ (w.extractLsb' 7 5)))
  else
  none
/-- The words of opcode 0x13. -/
def decodeOpImm (w : BitVec 32) : Option Instr :=
  if w.extractLsb' 12 3 = 0#3 then
    some (.addi (w.extractLsb' 7 5) (w.extractLsb' 15 5) (w.extractLsb' 20 12))
  else
  if w.extractLsb' 12 3 = 2#3 then
    some (.slti (w.extractLsb' 7 5) (w.extractLsb' 15 5) (w.extractLsb' 20 12))
  else
  if w.extractLsb' 12 3 = 3#3 then
    some (.sltiu (w.extractLsb' 7 5) (w.extractLsb' 15 5) (w.extractLsb' 20 12))
  else
  if w.extractLsb' 12 3 = 4#3 then
    some (.xori (w.extractLsb' 7 5) (w.extractLsb' 15 5) (w.extractLsb' 20 12))
  else
  if w.extractLsb' 12 3 = 6#3 then
    some (.ori (w.extractLsb' 7 5) (w.extractLsb' 15 5) (w.extractLsb' 20 12))
  else
  if w.extractLsb' 12 3 = 7#3 then
    some (.andi (w.extractLsb' 7 5) (w.extractLsb' 15 5) (w.extractLsb' 20 12))
  else
  if w.extractLsb' 26 6 = 0#6 ∧ w.extractLsb' 12 3 = 1#3 then
    some (.slli (w.extractLsb' 7 5) (w.extractLsb' 15 5) (w.extractLsb' 20 6))
  else
  if w.extractLsb' 26 6 = 0#6 ∧ w.extractLsb' 12 3 = 5#3 then
    some (.srli (w.extractLsb' 7 5) (w.extractLsb' 15 5) (w.extractLsb' 20 6))
  else
  if w.extractLsb' 26 6 = 16#6 ∧ w.extractLsb' 12 3 = 5#3 then
    some (.srai (w.extractLsb' 7 5) (w.extractLsb' 15 5) (w.extractLsb' 20 6))
  else
  none
/-- The words of opcode 0x33 with funct3 = 000. -/
def decodeOpF0 (w : BitVec 32) : Option Instr :=
  if w.extractLsb' 25 7 = 0#7 then
    some (.add (w.extractLsb' 7 5) (w.extractLsb' 15 5) (w.extractLsb' 20 5))
  else
  if w.extractLsb' 25 7 = 32#7 then
    some (.sub (w.extractLsb' 7 5) (w.extractLsb' 15 5) (w.extractLsb' 20 5))
  else
  if w.extractLsb' 25 7 = 1#7 then
    some (.mul (w.extractLsb' 7 5) (w.extractLsb' 15 5) (w.extractLsb' 20 5))
  else
  none
/-- The words of opcode 0x33 with funct3 = 001. -/
def decodeOpF1 (w : BitVec 32) : Option Instr :=
  if w.extractLsb' 25 7 = 0#7 then
    some (.sll (w.extractLsb' 7 5) (w.extractLsb' 15 5) (w.extractLsb' 20 5))
  else
  if w.extractLsb' 25 7 = 1#7 then
    some (.mulh (w.extractLsb' 7 5) (w.extractLsb' 15 5) (w.extractLsb' 20 5))
  else
  none
/-- The words of opcode 0x33 with funct3 = 010. -/
def decodeOpF2 (w : BitVec 32) : Option Instr :=
  if w.extractLsb' 25 7 = 0#7 then
    some (.slt (w.extractLsb' 7 5) (w.extractLsb' 15 5) (w.extractLsb' 20 5))
  else
  if w.extractLsb' 25 7 = 1#7 then
    some (.mulhsu (w.extractLsb' 7 5) (w.extractLsb' 15 5) (w.extractLsb' 20 5))
  else
  none
/-- The words of opcode 0x33 with funct3 = 011. -/
def decodeOpF3 (w : BitVec 32) : Option Instr :=
  if w.extractLsb' 25 7 = 0#7 then
    some (.sltu (w.extractLsb' 7 5) (w.extractLsb' 15 5) (w.extractLsb' 20 5))
  else
  if w.extractLsb' 25 7 = 1#7 then
    some (.mulhu (w.extractLsb' 7 5) (w.extractLsb' 15 5) (w.extractLsb' 20 5))
  else
  none
/-- The words of opcode 0x33 with funct3 = 100. -/
def decodeOpF4 (w : BitVec 32) : Option Instr :=
  if w.extractLsb' 25 7 = 0#7 then
    some (.xor (w.extractLsb' 7 5) (w.extractLsb' 15 5) (w.extractLsb' 20 5))
  else
  if w.extractLsb' 25 7 = 1#7 then
    some (.div (w.extractLsb' 7 5) (w.extractLsb' 15 5) (w.extractLsb' 20 5))
  else
  none
/-- The words of opcode 0x33 with funct3 = 101. -/
def decodeOpF5 (w : BitVec 32) : Option Instr :=
  if w.extractLsb' 25 7 = 0#7 then
    some (.srl (w.extractLsb' 7 5) (w.extractLsb' 15 5) (w.extractLsb' 20 5))
  else
  if w.extractLsb' 25 7 = 32#7 then
    some (.sra (w.extractLsb' 7 5) (w.extractLsb' 15 5) (w.extractLsb' 20 5))
  else
  if w.extractLsb' 25 7 = 1#7 then
    some (.divu (w.extractLsb' 7 5) (w.extractLsb' 15 5) (w.extractLsb' 20 5))
  else
  none
/-- The words of opcode 0x33 with funct3 = 110. -/
def decodeOpF6 (w : BitVec 32) : Option Instr :=
  if w.extractLsb' 25 7 = 0#7 then
    some (.or (w.extractLsb' 7 5) (w.extractLsb' 15 5) (w.extractLsb' 20 5))
  else
  if w.extractLsb' 25 7 = 1#7 then
    some (.rem (w.extractLsb' 7 5) (w.extractLsb' 15 5) (w.extractLsb' 20 5))
  else
  none
/-- The words of opcode 0x33 with funct3 = 111. -/
def decodeOpF7 (w : BitVec 32) : Option Instr :=
  if w.extractLsb' 25 7 = 0#7 then
    some (.and (w.extractLsb' 7 5) (w.extractLsb' 15 5) (w.extractLsb' 20 5))
  else
  if w.extractLsb' 25 7 = 1#7 then
    some (.remu (w.extractLsb' 7 5) (w.extractLsb' 15 5) (w.extractLsb' 20 5))
  else
  none
/-- The words of opcode 0x33, by funct3. -/
def decodeOp (w : BitVec 32) : Option Instr :=
  if w.extractLsb' 12 3 = 0#3 then decodeOpF0 w else
  if w.extractLsb' 12 3 = 1#3 then decodeOpF1 w else
  if w.extractLsb' 12 3 = 2#3 then decodeOpF2 w else
  if w.extractLsb' 12 3 = 3#3 then decodeOpF3 w else
  if w.extractLsb' 12 3 = 4#3 then decodeOpF4 w else
  if w.extractLsb' 12 3 = 5#3 then decodeOpF5 w else
  if w.extractLsb' 12 3 = 6#3 then decodeOpF6 w else
  if w.extractLsb' 12 3 = 7#3 then decodeOpF7 w else
  none
/-- The words of opcode 0x1B. -/
def decodeOpImm32 (w : BitVec 32) : Option Instr :=
  if w.extractLsb' 12 3 = 0#3 then
    some (.addiw (w.extractLsb' 7 5) (w.extractLsb' 15 5) (w.extractLsb' 20 12))
  else
  if w.extractLsb' 25 7 = 0#7 ∧ w.extractLsb' 12 3 = 1#3 then
    some (.slliw (w.extractLsb' 7 5) (w.extractLsb' 15 5) (w.extractLsb' 20 5))
  else
  if w.extractLsb' 25 7 = 0#7 ∧ w.extractLsb' 12 3 = 5#3 then
    some (.srliw (w.extractLsb' 7 5) (w.extractLsb' 15 5) (w.extractLsb' 20 5))
  else
  if w.extractLsb' 25 7 = 32#7 ∧ w.extractLsb' 12 3 = 5#3 then
    some (.sraiw (w.extractLsb' 7 5) (w.extractLsb' 15 5) (w.extractLsb' 20 5))
  else
  none
/-- The words of opcode 0x3B. -/
def decodeOp32 (w : BitVec 32) : Option Instr :=
  if w.extractLsb' 25 7 = 0#7 ∧ w.extractLsb' 12 3 = 0#3 then
    some (.addw (w.extractLsb' 7 5) (w.extractLsb' 15 5) (w.extractLsb' 20 5))
  else
  if w.extractLsb' 25 7 = 32#7 ∧ w.extractLsb' 12 3 = 0#3 then
    some (.subw (w.extractLsb' 7 5) (w.extractLsb' 15 5) (w.extractLsb' 20 5))
  else
  if w.extractLsb' 25 7 = 0#7 ∧ w.extractLsb' 12 3 = 1#3 then
    some (.sllw (w.extractLsb' 7 5) (w.extractLsb' 15 5) (w.extractLsb' 20 5))
  else
  if w.extractLsb' 25 7 = 0#7 ∧ w.extractLsb' 12 3 = 5#3 then
    some (.srlw (w.extractLsb' 7 5) (w.extractLsb' 15 5) (w.extractLsb' 20 5))
  else
  if w.extractLsb' 25 7 = 32#7 ∧ w.extractLsb' 12 3 = 5#3 then
    some (.sraw (w.extractLsb' 7 5) (w.extractLsb' 15 5) (w.extractLsb' 20 5))
  else
  if w.extractLsb' 25 7 = 1#7 ∧ w.extractLsb' 12 3 = 0#3 then
    some (.mulw (w.extractLsb' 7 5) (w.extractLsb' 15 5) (w.extractLsb' 20 5))
  else
  if w.extractLsb' 25 7 = 1#7 ∧ w.extractLsb' 12 3 = 4#3 then
    some (.divw (w.extractLsb' 7 5) (w.extractLsb' 15 5) (w.extractLsb' 20 5))
  else
  if w.extractLsb' 25 7 = 1#7 ∧ w.extractLsb' 12 3 = 5#3 then
    some (.divuw (w.extractLsb' 7 5) (w.extractLsb' 15 5) (w.extractLsb' 20 5))
  else
  if w.extractLsb' 25 7 = 1#7 ∧ w.extractLsb' 12 3 = 6#3 then
    some (.remw (w.extractLsb' 7 5) (w.extractLsb' 15 5) (w.extractLsb' 20 5))
  else
  if w.extractLsb' 25 7 = 1#7 ∧ w.extractLsb' 12 3 = 7#3 then
    some (.remuw (w.extractLsb' 7 5) (w.extractLsb' 15 5) (w.extractLsb' 20 5))
  else
  none
/-- The words of opcode 0x0F. -/
def decodeMiscMem (w : BitVec 32) : Option Instr :=
  if w.extractLsb' 15 5 = 0#5 ∧ w.extractLsb' 12 3 = 0#3 ∧ w.extractLsb' 7 5 = 0#5 then
    some (.fence (w.extractLsb' 28 4) (w.extractLsb' 24 4) (w.extractLsb' 20 4))
  else
  none
/-- The words of opcode 0x73. -/
def decodeSystem (w : BitVec 32) : Option Instr :=
  if w.extractLsb' 25 7 = 0#7 ∧ w.extractLsb' 20 5 = 0#5 ∧ w.extractLsb' 15 5 = 0#5 ∧ w.extractLsb' 12 3 = 0#3 ∧ w.extractLsb' 7 5 = 0#5 then
    some (.ecall)
  else
  if w.extractLsb' 25 7 = 0#7 ∧ w.extractLsb' 20 5 = 1#5 ∧ w.extractLsb' 15 5 = 0#5 ∧ w.extractLsb' 12 3 = 0#3 ∧ w.extractLsb' 7 5 = 0#5 then
    some (.ebreak)
  else
  if w.extractLsb' 12 3 = 1#3 then
    some (.csrrw (w.extractLsb' 7 5) (w.extractLsb' 20 12) (w.extractLsb' 15 5))
  else
  if w.extractLsb' 12 3 = 2#3 then
    some (.csrrs (w.extractLsb' 7 5) (w.extractLsb' 20 12) (w.extractLsb' 15 5))
  else
  if w.extractLsb' 12 3 = 3#3 then
    some (.csrrc (w.extractLsb' 7 5) (w.extractLsb' 20 12) (w.extractLsb' 15 5))
  else
  if w.extractLsb' 12 3 = 5#3 then
    some (.csrrwi (w.extractLsb' 7 5) (w.extractLsb' 20 12) (w.extractLsb' 15 5))
  else
  if w.extractLsb' 12 3 = 6#3 then
    some (.csrrsi (w.extractLsb' 7 5) (w.extractLsb' 20 12) (w.extractLsb' 15 5))
  else
  if w.extractLsb' 12 3 = 7#3 then
    some (.csrrci (w.extractLsb' 7 5) (w.extractLsb' 20 12) (w.extractLsb' 15 5))
  else
  none
/-- The words of opcode 0x53. -/
def decodeOpFp (w : BitVec 32) : Option Instr :=
  if w.extractLsb' 25 7 = 0#7 then
    some (.faddS (w.extractLsb' 7 5) (w.extractLsb' 15 5) (w.extractLsb' 20 5) (w.extractLsb' 12 3))
  else
  if w.extractLsb' 25 7 = 1#7 then
    some (.faddD (w.extractLsb' 7 5) (w.extractLsb' 15 5) (w.extractLsb' 20 5) (w.extractLsb' 12 3))
  else
  if w.extractLsb' 25 7 = 4#7 then
    some (.fsubS (w.extractLsb' 7 5) (w.extractLsb' 15 5) (w.extractLsb' 20 5) (w.extractLsb' 12 3))
  else
  if w.extractLsb' 25 7 = 5#7 then
    some (.fsubD (w.extractLsb' 7 5) (w.extractLsb' 15 5) (w.extractLsb' 20 5) (w.extractLsb' 12 3))
  else
  if w.extractLsb' 25 7 = 8#7 then
    some (.fmulS (w.extractLsb' 7 5) (w.extractLsb' 15 5) (w.extractLsb' 20 5) (w.extractLsb' 12 3))
  else
  if w.extractLsb' 25 7 = 9#7 then
    some (.fmulD (w.extractLsb' 7 5) (w.extractLsb' 15 5) (w.extractLsb' 20 5) (w.extractLsb' 12 3))
  else
  if w.extractLsb' 25 7 = 12#7 then
    some (.fdivS (w.extractLsb' 7 5) (w.extractLsb' 15 5) (w.extractLsb' 20 5) (w.extractLsb' 12 3))
  else
  if w.extractLsb' 25 7 = 13#7 then
    some (.fdivD (w.extractLsb' 7 5) (w.extractLsb' 15 5) (w.extractLsb' 20 5) (w.extractLsb' 12 3))
  else
  if w.extractLsb' 25 7 = 44#7 ∧ w.extractLsb' 20 5 = 0#5 then
    some (.fsqrtS (w.extractLsb' 7 5) (w.extractLsb' 15 5) (w.extractLsb' 12 3))
  else
  if w.extractLsb' 25 7 = 45#7 ∧ w.extractLsb' 20 5 = 0#5 then
    some (.fsqrtD (w.extractLsb' 7 5) (w.extractLsb' 15 5) (w.extractLsb' 12 3))
  else
  if w.extractLsb' 25 7 = 16#7 ∧ w.extractLsb' 12 3 = 0#3 then
    some (.fsgnjS (w.extractLsb' 7 5) (w.extractLsb' 15 5) (w.extractLsb' 20 5))
  else
  if w.extractLsb' 25 7 = 17#7 ∧ w.extractLsb' 12 3 = 0#3 then
    some (.fsgnjD (w.extractLsb' 7 5) (w.extractLsb' 15 5) (w.extractLsb' 20 5))
  else
  if w.extractLsb' 25 7 = 16#7 ∧ w.extractLsb' 12 3 = 1#3 then
    some (.fsgnjnS (w.extractLsb' 7 5) (w.extractLsb' 15 5) (w.extractLsb' 20 5))
  else
  if w.extractLsb' 25 7 = 17#7 ∧ w.extractLsb' 12 3 = 1#3 then
    some (.fsgnjnD (w.extractLsb' 7 5) (w.extractLsb' 15 5) (w.extractLsb' 20 5))
  else
  if w.extractLsb' 25 7 = 16#7 ∧ w.extractLsb' 12 3 = 2#3 then
    some (.fsgnjxS (w.extractLsb' 7 5) (w.extractLsb' 15 5) (w.extractLsb' 20 5))
  else
  if w.extractLsb' 25 7 = 17#7 ∧ w.extractLsb' 12 3 = 2#3 then
    some (.fsgnjxD (w.extractLsb' 7 5) (w.extractLsb' 15 5) (w.extractLsb' 20 5))
  else
  if w.extractLsb' 25 7 = 20#7 ∧ w.extractLsb' 12 3 = 0#3 then
    some (.fminS (w.extractLsb' 7 5) (w.extractLsb' 15 5) (w.extractLsb' 20 5))
  else
  if w.extractLsb' 25 7 = 21#7 ∧ w.extractLsb' 12 3 = 0#3 then
    some (.fminD (w.extractLsb' 7 5) (w.extractLsb' 15 5) (w.extractLsb' 20 5))
  else
  if w.extractLsb' 25 7 = 20#7 ∧ w.extractLsb' 12 3 = 1#3 then
    some (.fmaxS (w.extractLsb' 7 5) (w.extractLsb' 15 5) (w.extractLsb' 20 5))
  else
  if w.extractLsb' 25 7 = 21#7 ∧ w.extractLsb' 12 3 = 1#3 then
    some (.fmaxD (w.extractLsb' 7 5) (w.extractLsb' 15 5) (w.extractLsb' 20 5))
  else
  if w.extractLsb' 25 7 = 80#7 ∧ w.extractLsb' 12 3 = 0#3 then
    some (.fleS (w.extractLsb' 7 5) (w.extractLsb' 15 5) (w.extractLsb' 20 5))
  else
  if w.extractLsb' 25 7 = 81#7 ∧ w.extractLsb' 12 3 = 0#3 then
    some (.fleD (w.extractLsb' 7 5) (w.extractLsb' 15 5) (w.extractLsb' 20 5))
  else
  if w.extractLsb' 25 7 = 80#7 ∧ w.extractLsb' 12 3 = 1#3 then
    some (.fltS (w.extractLsb' 7 5) (w.extractLsb' 15 5) (w.extractLsb' 20 5))
  else
  if w.extractLsb' 25 7 = 81#7 ∧ w.extractLsb' 12 3 = 1#3 then
    some (.fltD (w.extractLsb' 7 5) (w.extractLsb' 15 5) (w.extractLsb' 20 5))
  else
  if w.extractLsb' 25 7 = 80#7 ∧ w.extractLsb' 12 3 = 2#3 then
    some (.feqS (w.extractLsb' 7 5) (w.extractLsb' 15 5) (w.extractLsb' 20 5))
  else
  if w.extractLsb' 25 7 = 81#7 ∧ w.extractLsb' 12 3 = 2#3 then
    some (.feqD (w.extractLsb' 7 5) (w.extractLsb' 15 5) (w.extractLsb' 20 5))
  else
  if w.extractLsb' 25 7 = 112#7 ∧ w.extractLsb' 20 5 = 0#5 ∧ w.extractLsb' 12 3 = 1#3 then
    some (.fclassS (w.extractLsb' 7 5) (w.extractLsb' 15 5))
  else
  if w.extractLsb' 25 7 = 113#7 ∧ w.extractLsb' 20 5 = 0#5 ∧ w.extractLsb' 12 3 = 1#3 then
    some (.fclassD (w.extractLsb' 7 5) (w.extractLsb' 15 5))
  else
  if w.extractLsb' 25 7 = 96#7 ∧ w.extractLsb' 20 5 = 0#5 then
    some (.fcvtWS (w.extractLsb' 7 5) (w.extractLsb' 15 5) (w.extractLsb' 12 3))
  else
  if w.extractLsb' 25 7 = 96#7 ∧ w.extractLsb' 20 5 = 1#5 then
    some (.fcvtWuS (w.extractLsb' 7 5) (w.extractLsb' 15 5) (w.extractLsb' 12 3))
  else
  if w.extractLsb' 25 7 = 96#7 ∧ w.extractLsb' 20 5 = 2#5 then
    some (.fcvtLS (w.extractLsb' 7 5) (w.extractLsb' 15 5) (w.extractLsb' 12 3))
  else
  if w.extractLsb' 25 7 = 96#7 ∧ w.extractLsb' 20 5 = 3#5 then
    some (.fcvtLuS (w.extractLsb' 7 5) (w.extractLsb' 15 5) (w.extractLsb' 12 3))
  else
  if w.extractLsb' 25 7 = 97#7 ∧ w.extractLsb' 20 5 = 0#5 then
    some (.fcvtWD (w.extractLsb' 7 5) (w.extractLsb' 15 5) (w.extractLsb' 12 3))
  else
  if w.extractLsb' 25 7 = 97#7 ∧ w.extractLsb' 20 5 = 1#5 then
    some (.fcvtWuD (w.extractLsb' 7 5) (w.extractLsb' 15 5) (w.extractLsb' 12 3))
  else
  if w.extractLsb' 25 7 = 97#7 ∧ w.extractLsb' 20 5 = 2#5 then
    some (.fcvtLD (w.extractLsb' 7 5) (w.extractLsb' 15 5) (w.extractLsb' 12 3))
  else
  if w.extractLsb' 25 7 = 97#7 ∧ w.extractLsb' 20 5 = 3#5 then
    some (.fcvtLuD (w.extractLsb' 7 5) (w.extractLsb' 15 5) (w.extractLsb' 12 3))
  else
  if w.extractLsb' 25 7 = 104#7 ∧ w.extractLsb' 20 5 = 0#5 then
    some (.fcvtSW (w.extractLsb' 7 5) (w.extractLsb' 15 5) (w.extractLsb' 12 3))
  else
  if w.extractLsb' 25 7 = 104#7 ∧ w.extractLsb' 20 5 = 1#5 then
    some (.fcvtSWu (w.extractLsb' 7 5) (w.extractLsb' 15 5) (w.extractLsb' 12 3))
  else
  if w.extractLsb' 25 7 = 104#7 ∧ w.extractLsb' 20 5 = 2#5 then
    some (.fcvtSL (w.extractLsb' 7 5) (w.extractLsb' 15 5) (w.extractLsb' 12 3))
  else
  if w.extractLsb' 25 7 = 104#7 ∧ w.extractLsb' 20 5 = 3#5 then
    some (.fcvtSLu (w.extractLsb' 7 5) (w.extractLsb' 15 5) (w.extractLsb' 12 3))
  else
  if w.extractLsb' 25 7 = 105#7 ∧ w.extractLsb' 20 5 = 0#5 then
    some (.fcvtDW (w.extractLsb' 7 5) (w.extractLsb' 15 5) (w.extractLsb' 12 3))
  else
  if w.extractLsb' 25 7 = 105#7 ∧ w.extractLsb' 20 5 = 1#5 then
    some (.fcvtDWu (w.extractLsb' 7 5) (w.extractLsb' 15 5) (w.extractLsb' 12 3))
  else
  if w.extractLsb' 25 7 = 105#7 ∧ w.extractLsb' 20 5 = 2#5 then
    some (.fcvtDL (w.extractLsb' 7 5) (w.extractLsb' 15 5) (w.extractLsb' 12 3))
  else
  if w.extractLsb' 25 7 = 105#7 ∧ w.extractLsb' 20 5 = 3#5 then
    some (.fcvtDLu (w.extractLsb' 7 5) (w.extractLsb' 15 5) (w.extractLsb' 12 3))
  else
  if w.extractLsb' 25 7 = 32#7 ∧ w.extractLsb' 20 5 = 1#5 then
    some (.fcvtSD (w.extractLsb' 7 5) (w.extractLsb' 15 5) (w.extractLsb' 12 3))
  else
  if w.extractLsb' 25 7 = 33#7 ∧ w.extractLsb' 20 5 = 0#5 then
    some (.fcvtDS (w.extractLsb' 7 5) (w.extractLsb' 15 5) (w.extractLsb' 12 3))
  else
  none
/-- The words of opcode 0x43. -/
def decodeMadd (w : BitVec 32) : Option Instr :=
  if w.extractLsb' 25 2 = 0#2 then
    some (.fmaddS (w.extractLsb' 7 5) (w.extractLsb' 15 5) (w.extractLsb' 20 5) (w.extractLsb' 27 5) (w.extractLsb' 12 3))
  else
  if w.extractLsb' 25 2 = 1#2 then
    some (.fmaddD (w.extractLsb' 7 5) (w.extractLsb' 15 5) (w.extractLsb' 20 5) (w.extractLsb' 27 5) (w.extractLsb' 12 3))
  else
  none
/-- The words of opcode 0x47. -/
def decodeMsub (w : BitVec 32) : Option Instr :=
  if w.extractLsb' 25 2 = 0#2 then
    some (.fmsubS (w.extractLsb' 7 5) (w.extractLsb' 15 5) (w.extractLsb' 20 5) (w.extractLsb' 27 5) (w.extractLsb' 12 3))
  else
  if w.extractLsb' 25 2 = 1#2 then
    some (.fmsubD (w.extractLsb' 7 5) (w.extractLsb' 15 5) (w.extractLsb' 20 5) (w.extractLsb' 27 5) (w.extractLsb' 12 3))
  else
  none
/-- The words of opcode 0x4B. -/
def decodeNmsub (w : BitVec 32) : Option Instr :=
  if w.extractLsb' 25 2 = 0#2 then
    some (.fnmsubS (w.extractLsb' 7 5) (w.extractLsb' 15 5) (w.extractLsb' 20 5) (w.extractLsb' 27 5) (w.extractLsb' 12 3))
  else
  if w.extractLsb' 25 2 = 1#2 then
    some (.fnmsubD (w.extractLsb' 7 5) (w.extractLsb' 15 5) (w.extractLsb' 20 5) (w.extractLsb' 27 5) (w.extractLsb' 12 3))
  else
  none
/-- The words of opcode 0x4F. -/
def decodeNmadd (w : BitVec 32) : Option Instr :=
  if w.extractLsb' 25 2 = 0#2 then
    some (.fnmaddS (w.extractLsb' 7 5) (w.extractLsb' 15 5) (w.extractLsb' 20 5) (w.extractLsb' 27 5) (w.extractLsb' 12 3))
  else
  if w.extractLsb' 25 2 = 1#2 then
    some (.fnmaddD (w.extractLsb' 7 5) (w.extractLsb' 15 5) (w.extractLsb' 20 5) (w.extractLsb' 27 5) (w.extractLsb' 12 3))
  else
  none
/-- The words of opcode 0x0B with funct3 = 000. -/
def decodeCustom0F0 (w : BitVec 32) : Option Instr :=
  if w.extractLsb' 25 7 = 0#7 ∧ w.extractLsb' 20 5 = 0#5 then
    some (.cbase (w.extractLsb' 7 5) (w.extractLsb' 15 5))
  else
  if w.extractLsb' 25 7 = 1#7 ∧ w.extractLsb' 20 5 = 0#5 then
    some (.clen (w.extractLsb' 7 5) (w.extractLsb' 15 5))
  else
  if w.extractLsb' 25 7 = 2#7 ∧ w.extractLsb' 20 5 = 0#5 then
    some (.cperm (w.extractLsb' 7 5) (w.extractLsb' 15 5))
  else
  if w.extractLsb' 25 7 = 3#7 ∧ w.extractLsb' 20 5 = 0#5 then
    some (.ctag (w.extractLsb' 7 5) (w.extractLsb' 15 5))
  else
  if w.extractLsb' 25 7 = 4#7 then
    some (.cbnd (w.extractLsb' 7 5) (w.extractLsb' 15 5) (w.extractLsb' 20 5))
  else
  if w.extractLsb' 25 7 = 5#7 then
    some (.cbndx (w.extractLsb' 7 5) (w.extractLsb' 15 5) (w.extractLsb' 20 5))
  else
  if w.extractLsb' 25 7 = 6#7 then
    some (.cadd (w.extractLsb' 7 5) (w.extractLsb' 15 5) (w.extractLsb' 20 5))
  else
  if w.extractLsb' 25 7 = 7#7 then
    some (.cset (w.extractLsb' 7 5) (w.extractLsb' 15 5) (w.extractLsb' 20 5))
  else
  if w.extractLsb' 25 7 = 8#7 then
    some (.candp (w.extractLsb' 7 5) (w.extractLsb' 15 5) (w.extractLsb' 20 5))
  else
  if w.extractLsb' 25 7 = 9#7 ∧ w.extractLsb' 20 5 = 0#5 then
    some (.cmv (w.extractLsb' 7 5) (w.extractLsb' 15 5))
  else
  if w.extractLsb' 25 7 = 10#7 ∧ w.extractLsb' 20 5 = 0#5 then
    some (.cclr (w.extractLsb' 7 5) (w.extractLsb' 15 5))
  else
  if w.extractLsb' 25 7 = 11#7 then
    some (.csub (w.extractLsb' 7 5) (w.extractLsb' 15 5) (w.extractLsb' 20 5))
  else
  if w.extractLsb' 25 7 = 12#7 then
    some (.cseal (w.extractLsb' 7 5) (w.extractLsb' 15 5) (w.extractLsb' 20 5))
  else
  if w.extractLsb' 25 7 = 13#7 then
    some (.cunseal (w.extractLsb' 7 5) (w.extractLsb' 15 5) (w.extractLsb' 20 5))
  else
  none
/-- The words of opcode 0x0B with funct3 = 001. -/
def decodeCustom0F1 (w : BitVec 32) : Option Instr :=
  some (.caddi (w.extractLsb' 7 5) (w.extractLsb' 15 5) (w.extractLsb' 20 12))
/-- The words of opcode 0x0B with funct3 = 010. -/
def decodeCustom0F2 (w : BitVec 32) : Option Instr :=
  some (.clc (w.extractLsb' 7 5) (w.extractLsb' 15 5) (w.extractLsb' 20 12))
/-- The words of opcode 0x0B with funct3 = 011. -/
def decodeCustom0F3 (w : BitVec 32) : Option Instr :=
  some (.csc (w.extractLsb' 20 5) (w.extractLsb' 15 5) ((w.extractLsb' 25 7) ++ (w.extractLsb' 7 5)))
/-- The words of opcode 0x0B with funct3 = 100. -/
def decodeCustom0F4 (w : BitVec 32) : Option Instr :=
  if w.extractLsb' 30 2 = 0#2 ∧ w.extractLsb' 20 5 = 0#5 then
    some (.lda (w.extractLsb' 7 5) (w.extractLsb' 15 5) (w.extractLsb' 28 2) (w.extractLsb' 25 3))
  else
  if w.extractLsb' 30 2 = 1#2 ∧ w.extractLsb' 7 5 = 0#5 then
    some (.stl (w.extractLsb' 15 5) (w.extractLsb' 20 5) (w.extractLsb' 28 2) (w.extractLsb' 25 3))
  else
  if w.extractLsb' 28 4 = 8#4 ∧ w.extractLsb' 20 5 = 0#5 ∧ w.extractLsb' 15 5 = 0#5 ∧ w.extractLsb' 7 5 = 0#5 then
    some (.fenceScoped (w.extractLsb' 25 3))
  else
  none
/-- The words of opcode 0x0B with funct3 = 101. -/
def decodeCustom0F5 (w : BitVec 32) : Option Instr :=
  if w.extractLsb' 25 7 = 0#7 ∧ w.extractLsb' 20 5 = 0#5 then
    some (.taglk (w.extractLsb' 7 5) (w.extractLsb' 15 5))
  else
  if w.extractLsb' 25 7 = 1#7 then
    some (.tagins (w.extractLsb' 7 5) (w.extractLsb' 15 5) (w.extractLsb' 20 5))
  else
  if w.extractLsb' 25 7 = 2#7 ∧ w.extractLsb' 20 5 = 0#5 ∧ w.extractLsb' 7 5 = 0#5 then
    some (.tagdel (w.extractLsb' 15 5))
  else
  if w.extractLsb' 25 7 = 3#7 ∧ w.extractLsb' 20 5 = 0#5 ∧ w.extractLsb' 7 5 = 0#5 then
    some (.tagpin (w.extractLsb' 15 5))
  else
  if w.extractLsb' 25 7 = 4#7 ∧ w.extractLsb' 20 5 = 0#5 ∧ w.extractLsb' 7 5 = 0#5 then
    some (.tagunpin (w.extractLsb' 15 5))
  else
  if w.extractLsb' 25 7 = 8#7 ∧ w.extractLsb' 20 5 = 0#5 ∧ w.extractLsb' 11 1 = 0#1 then
    some (.cbinit (w.extractLsb' 7 4) (w.extractLsb' 15 5))
  else
  if w.extractLsb' 25 7 = 9#7 ∧ w.extractLsb' 20 5 = 0#5 ∧ w.extractLsb' 15 5 = 0#5 ∧ w.extractLsb' 11 1 = 0#1 then
    some (.cbput (w.extractLsb' 7 4))
  else
  if w.extractLsb' 25 7 = 10#7 ∧ w.extractLsb' 20 5 = 0#5 ∧ w.extractLsb' 19 1 = 0#1 then
    some (.cbget (w.extractLsb' 7 5) (w.extractLsb' 15 4))
  else
  if w.extractLsb' 25 7 = 11#7 ∧ w.extractLsb' 20 5 = 0#5 ∧ w.extractLsb' 15 5 = 0#5 ∧ w.extractLsb' 11 1 = 0#1 then
    some (.cbrel (w.extractLsb' 7 4))
  else
  if w.extractLsb' 25 7 = 12#7 ∧ w.extractLsb' 20 5 = 0#5 ∧ w.extractLsb' 19 1 = 0#1 then
    some (.cbstat (w.extractLsb' 7 5) (w.extractLsb' 15 4))
  else
  none
/-- The words of opcode 0x0B with funct3 = 110. -/
def decodeCustom0F6 (w : BitVec 32) : Option Instr :=
  if w.extractLsb' 25 7 = 0#7 ∧ w.extractLsb' 7 5 = 0#5 then
    some (.barinit (w.extractLsb' 15 5) (w.extractLsb' 20 5))
  else
  if w.extractLsb' 25 7 = 1#7 then
    some (.bararv (w.extractLsb' 7 5) (w.extractLsb' 15 5) (w.extractLsb' 20 5))
  else
  if w.extractLsb' 25 7 = 2#7 ∧ w.extractLsb' 20 5 = 0#5 then
    some (.bardrop (w.extractLsb' 7 5) (w.extractLsb' 15 5))
  else
  if w.extractLsb' 25 7 = 3#7 then
    some (.barwait (w.extractLsb' 7 5) (w.extractLsb' 15 5) (w.extractLsb' 20 5))
  else
  if w.extractLsb' 25 7 = 4#7 ∧ w.extractLsb' 20 5 = 0#5 then
    some (.barrd (w.extractLsb' 7 5) (w.extractLsb' 15 5))
  else
  if w.extractLsb' 25 7 = 32#7 then
    some (.amoAddW (w.extractLsb' 7 5) (w.extractLsb' 15 5) (w.extractLsb' 20 5))
  else
  if w.extractLsb' 25 7 = 33#7 then
    some (.amoAddD (w.extractLsb' 7 5) (w.extractLsb' 15 5) (w.extractLsb' 20 5))
  else
  if w.extractLsb' 25 7 = 34#7 then
    some (.amoAddfW (w.extractLsb' 7 5) (w.extractLsb' 15 5) (w.extractLsb' 20 5))
  else
  if w.extractLsb' 25 7 = 35#7 then
    some (.amoAddfD (w.extractLsb' 7 5) (w.extractLsb' 15 5) (w.extractLsb' 20 5))
  else
  if w.extractLsb' 25 7 = 36#7 then
    some (.amoMinW (w.extractLsb' 7 5) (w.extractLsb' 15 5) (w.extractLsb' 20 5))
  else
  if w.extractLsb' 25 7 = 37#7 then
    some (.amoMinD (w.extractLsb' 7 5) (w.extractLsb' 15 5) (w.extractLsb' 20 5))
  else
  if w.extractLsb' 25 7 = 38#7 then
    some (.amoMaxW (w.extractLsb' 7 5) (w.extractLsb' 15 5) (w.extractLsb' 20 5))
  else
  if w.extractLsb' 25 7 = 39#7 then
    some (.amoMaxD (w.extractLsb' 7 5) (w.extractLsb' 15 5) (w.extractLsb' 20 5))
  else
  if w.extractLsb' 25 7 = 40#7 then
    some (.amoMinuW (w.extractLsb' 7 5) (w.extractLsb' 15 5) (w.extractLsb' 20 5))
  else
  if w.extractLsb' 25 7 = 41#7 then
    some (.amoMinuD (w.extractLsb' 7 5) (w.extractLsb' 15 5) (w.extractLsb' 20 5))
  else
  if w.extractLsb' 25 7 = 42#7 then
    some (.amoMaxuW (w.extractLsb' 7 5) (w.extractLsb' 15 5) (w.extractLsb' 20 5))
  else
  if w.extractLsb' 25 7 = 43#7 then
    some (.amoMaxuD (w.extractLsb' 7 5) (w.extractLsb' 15 5) (w.extractLsb' 20 5))
  else
  if w.extractLsb' 25 7 = 44#7 then
    some (.amoSwapW (w.extractLsb' 7 5) (w.extractLsb' 15 5) (w.extractLsb' 20 5))
  else
  if w.extractLsb' 25 7 = 45#7 then
    some (.amoSwapD (w.extractLsb' 7 5) (w.extractLsb' 15 5) (w.extractLsb' 20 5))
  else
  if w.extractLsb' 25 7 = 46#7 then
    some (.amoCasW (w.extractLsb' 7 5) (w.extractLsb' 15 5) (w.extractLsb' 20 5))
  else
  if w.extractLsb' 25 7 = 47#7 then
    some (.amoCasD (w.extractLsb' 7 5) (w.extractLsb' 15 5) (w.extractLsb' 20 5))
  else
  if w.extractLsb' 25 7 = 48#7 then
    some (.amoAndW (w.extractLsb' 7 5) (w.extractLsb' 15 5) (w.extractLsb' 20 5))
  else
  if w.extractLsb' 25 7 = 49#7 then
    some (.amoAndD (w.extractLsb' 7 5) (w.extractLsb' 15 5) (w.extractLsb' 20 5))
  else
  if w.extractLsb' 25 7 = 50#7 then
    some (.amoOrW (w.extractLsb' 7 5) (w.extractLsb' 15 5) (w.extractLsb' 20 5))
  else
  if w.extractLsb' 25 7 = 51#7 then
    some (.amoOrD (w.extractLsb' 7 5) (w.extractLsb' 15 5) (w.extractLsb' 20 5))
  else
  if w.extractLsb' 25 7 = 52#7 then
    some (.amoXorW (w.extractLsb' 7 5) (w.extractLsb' 15 5) (w.extractLsb' 20 5))
  else
  if w.extractLsb' 25 7 = 53#7 then
    some (.amoXorD (w.extractLsb' 7 5) (w.extractLsb' 15 5) (w.extractLsb' 20 5))
  else
  if w.extractLsb' 25 7 = 64#7 ∧ w.extractLsb' 20 5 = 0#5 ∧ w.extractLsb' 7 5 = 0#5 then
    some (.mon (w.extractLsb' 15 5))
  else
  if w.extractLsb' 25 7 = 65#7 ∧ w.extractLsb' 20 5 = 0#5 then
    some (.monw (w.extractLsb' 7 5) (w.extractLsb' 15 5))
  else
  none
/-- The words of opcode 0x0B with funct3 = 111. -/
def decodeCustom0F7 (w : BitVec 32) : Option Instr :=
  if w.extractLsb' 25 7 = 0#7 then
    some (.bmov (w.extractLsb' 7 5) (w.extractLsb' 15 5) (w.extractLsb' 20 5))
  else
  if w.extractLsb' 25 7 = 1#7 then
    some (.bfill (w.extractLsb' 7 5) (w.extractLsb' 15 5) (w.extractLsb' 20 5))
  else
  if w.extractLsb' 25 7 = 2#7 ∧ w.extractLsb' 20 5 = 0#5 ∧ w.extractLsb' 7 5 = 0#5 then
    some (.rep (w.extractLsb' 15 5))
  else
  if w.extractLsb' 25 7 = 3#7 ∧ w.extractLsb' 20 5 = 0#5 ∧ w.extractLsb' 15 2 = 0#2 ∧ w.extractLsb' 7 5 = 0#5 then
    some (.rgn (w.extractLsb' 17 3))
  else
  if w.extractLsb' 25 7 = 8#7 ∧ w.extractLsb' 20 5 = 0#5 ∧ w.extractLsb' 10 2 = 0#2 then
    some (.wbind (w.extractLsb' 7 3) (w.extractLsb' 15 5))
  else
  if w.extractLsb' 25 7 = 9#7 ∧ w.extractLsb' 20 5 = 0#5 ∧ w.extractLsb' 18 2 = 0#2 then
    some (.wstat (w.extractLsb' 7 5) (w.extractLsb' 15 3))
  else
  if w.extractLsb' 25 7 = 10#7 ∧ w.extractLsb' 20 5 = 0#5 ∧ w.extractLsb' 15 5 = 0#5 ∧ w.extractLsb' 10 2 = 0#2 then
    some (.wdrain (w.extractLsb' 7 3))
  else
  if w.extractLsb' 25 7 = 11#7 ∧ w.extractLsb' 20 5 = 0#5 ∧ w.extractLsb' 15 5 = 0#5 ∧ w.extractLsb' 10 2 = 0#2 then
    some (.wunbind (w.extractLsb' 7 3))
  else
  none
/-- The words of opcode 0x0B, by funct3. -/
def decodeCustom0 (w : BitVec 32) : Option Instr :=
  if w.extractLsb' 12 3 = 0#3 then decodeCustom0F0 w else
  if w.extractLsb' 12 3 = 1#3 then decodeCustom0F1 w else
  if w.extractLsb' 12 3 = 2#3 then decodeCustom0F2 w else
  if w.extractLsb' 12 3 = 3#3 then decodeCustom0F3 w else
  if w.extractLsb' 12 3 = 4#3 then decodeCustom0F4 w else
  if w.extractLsb' 12 3 = 5#3 then decodeCustom0F5 w else
  if w.extractLsb' 12 3 = 6#3 then decodeCustom0F6 w else
  if w.extractLsb' 12 3 = 7#3 then decodeCustom0F7 w else
  none
/-- The words of opcode 0x5B. -/
def decodeCustom2 (w : BitVec 32) : Option Instr :=
  if w.extractLsb' 27 5 = 0#5 then
    some (.vadd (w.extractLsb' 24 3) (w.extractLsb' 19 5) (w.extractLsb' 15 4) (w.extractLsb' 14 1) (w.extractLsb' 12 2) (w.extractLsb' 8 4) (w.extractLsb' 7 1))
  else
  if w.extractLsb' 27 5 = 1#5 then
    some (.vsub (w.extractLsb' 24 3) (w.extractLsb' 19 5) (w.extractLsb' 15 4) (w.extractLsb' 14 1) (w.extractLsb' 12 2) (w.extractLsb' 8 4) (w.extractLsb' 7 1))
  else
  if w.extractLsb' 27 5 = 2#5 then
    some (.vmul (w.extractLsb' 24 3) (w.extractLsb' 19 5) (w.extractLsb' 15 4) (w.extractLsb' 14 1) (w.extractLsb' 12 2) (w.extractLsb' 8 4) (w.extractLsb' 7 1))
  else
  if w.extractLsb' 27 5 = 3#5 then
    some (.vfma (w.extractLsb' 24 3) (w.extractLsb' 19 5) (w.extractLsb' 15 4) (w.extractLsb' 14 1) (w.extractLsb' 12 2) (w.extractLsb' 8 4) (w.extractLsb' 7 1))
  else
  if w.extractLsb' 27 5 = 4#5 then
    some (.vfms (w.extractLsb' 24 3) (w.extractLsb' 19 5) (w.extractLsb' 15 4) (w.extractLsb' 14 1) (w.extractLsb' 12 2) (w.extractLsb' 8 4) (w.extractLsb' 7 1))
  else
  if w.extractLsb' 27 5 = 5#5 ∧ w.extractLsb' 7 1 = 0#1 then
    some (.vmax (w.extractLsb' 24 3) (w.extractLsb' 19 5) (w.extractLsb' 15 4) (w.extractLsb' 14 1) (w.extractLsb' 12 2) (w.extractLsb' 8 4))
  else
  if w.extractLsb' 27 5 = 6#5 ∧ w.extractLsb' 7 1 = 0#1 then
    some (.vmin (w.extractLsb' 24 3) (w.extractLsb' 19 5) (w.extractLsb' 15 4) (w.extractLsb' 14 1) (w.extractLsb' 12 2) (w.extractLsb' 8 4))
  else
  if w.extractLsb' 27 5 = 7#5 ∧ w.extractLsb' 20 4 = 0#4 ∧ w.extractLsb' 19 1 = 0#1 ∧ w.extractLsb' 14 1 = 0#1 then
    some (.vabs (w.extractLsb' 24 3) (w.extractLsb' 15 4) (w.extractLsb' 12 2) (w.extractLsb' 8 4) (w.extractLsb' 7 1))
  else
  if w.extractLsb' 27 5 = 8#5 ∧ w.extractLsb' 20 4 = 0#4 ∧ w.extractLsb' 19 1 = 0#1 ∧ w.extractLsb' 14 1 = 0#1 then
    some (.vneg (w.extractLsb' 24 3) (w.extractLsb' 15 4) (w.extractLsb' 12 2) (w.extractLsb' 8 4) (w.extractLsb' 7 1))
  else
  if w.extractLsb' 27 5 = 9#5 ∧ w.extractLsb' 7 1 = 0#1 then
    some (.vclamp (w.extractLsb' 24 3) (w.extractLsb' 19 5) (w.extractLsb' 15 4) (w.extractLsb' 14 1) (w.extractLsb' 12 2) (w.extractLsb' 8 4))
  else
  if w.extractLsb' 27 5 = 10#5 ∧ w.extractLsb' 22 2 = 0#2 ∧ w.extractLsb' 14 1 = 0#1 then
    some (.vcvt (w.extractLsb' 24 3) (w.extractLsb' 19 3) (w.extractLsb' 15 4) (w.extractLsb' 12 2) (w.extractLsb' 8 4) (w.extractLsb' 7 1))
  else
  if w.extractLsb' 27 5 = 11#5 ∧ w.extractLsb' 20 4 = 0#4 ∧ w.extractLsb' 19 1 = 0#1 ∧ w.extractLsb' 14 1 = 0#1 ∧ w.extractLsb' 7 1 = 0#1 then
    some (.vrcp (w.extractLsb' 24 3) (w.extractLsb' 15 4) (w.extractLsb' 12 2) (w.extractLsb' 8 4))
  else
  if w.extractLsb' 27 5 = 12#5 ∧ w.extractLsb' 20 4 = 0#4 ∧ w.extractLsb' 19 1 = 0#1 ∧ w.extractLsb' 14 1 = 0#1 ∧ w.extractLsb' 7 1 = 0#1 then
    some (.vrsq (w.extractLsb' 24 3) (w.extractLsb' 15 4) (w.extractLsb' 12 2) (w.extractLsb' 8 4))
  else
  if w.extractLsb' 27 5 = 13#5 ∧ w.extractLsb' 20 4 = 0#4 ∧ w.extractLsb' 19 1 = 0#1 ∧ w.extractLsb' 14 1 = 0#1 ∧ w.extractLsb' 7 1 = 0#1 then
    some (.vexp2 (w.extractLsb' 24 3) (w.extractLsb' 15 4) (w.extractLsb' 12 2) (w.extractLsb' 8 4))
  else
  if w.extractLsb' 27 5 = 14#5 ∧ w.extractLsb' 20 4 = 0#4 ∧ w.extractLsb' 19 1 = 0#1 ∧ w.extractLsb' 14 1 = 0#1 then
    some (.vredSum (w.extractLsb' 24 3) (w.extractLsb' 15 4) (w.extractLsb' 12 2) (w.extractLsb' 8 4) (w.extractLsb' 7 1))
  else
  if w.extractLsb' 27 5 = 15#5 ∧ w.extractLsb' 20 4 = 0#4 ∧ w.extractLsb' 19 1 = 0#1 ∧ w.extractLsb' 14 1 = 0#1 ∧ w.extractLsb' 7 1 = 0#1 then
    some (.vredMax (w.extractLsb' 24 3) (w.extractLsb' 15 4) (w.extractLsb' 12 2) (w.extractLsb' 8 4))
  else
  if w.extractLsb' 27 5 = 16#5 ∧ w.extractLsb' 20 4 = 0#4 ∧ w.extractLsb' 19 1 = 0#1 ∧ w.extractLsb' 14 1 = 0#1 ∧ w.extractLsb' 7 1 = 0#1 then
    some (.vredMin (w.extractLsb' 24 3) (w.extractLsb' 15 4) (w.extractLsb' 12 2) (w.extractLsb' 8 4))
  else
  if w.extractLsb' 27 5 = 17#5 ∧ w.extractLsb' 10 2 = 0#2 ∧ w.extractLsb' 7 1 = 0#1 then
    some (.vcmpEq (w.extractLsb' 24 3) (w.extractLsb' 19 5) (w.extractLsb' 15 4) (w.extractLsb' 14 1) (w.extractLsb' 12 2) (w.extractLsb' 8 2))
  else
  if w.extractLsb' 27 5 = 18#5 ∧ w.extractLsb' 10 2 = 0#2 ∧ w.extractLsb' 7 1 = 0#1 then
    some (.vcmpLt (w.extractLsb' 24 3) (w.extractLsb' 19 5) (w.extractLsb' 15 4) (w.extractLsb' 14 1) (w.extractLsb' 12 2) (w.extractLsb' 8 2))
  else
  if w.extractLsb' 27 5 = 19#5 ∧ w.extractLsb' 10 2 = 0#2 ∧ w.extractLsb' 7 1 = 0#1 then
    some (.vcmpLe (w.extractLsb' 24 3) (w.extractLsb' 19 5) (w.extractLsb' 15 4) (w.extractLsb' 14 1) (w.extractLsb' 12 2) (w.extractLsb' 8 2))
  else
  if w.extractLsb' 27 5 = 20#5 ∧ w.extractLsb' 7 1 = 0#1 then
    some (.vsel (w.extractLsb' 24 3) (w.extractLsb' 19 5) (w.extractLsb' 15 4) (w.extractLsb' 14 1) (w.extractLsb' 12 2) (w.extractLsb' 8 4))
  else
  if w.extractLsb' 27 5 = 21#5 ∧ w.extractLsb' 7 1 = 0#1 then
    some (.vand (w.extractLsb' 24 3) (w.extractLsb' 19 5) (w.extractLsb' 15 4) (w.extractLsb' 14 1) (w.extractLsb' 12 2) (w.extractLsb' 8 4))
  else
  if w.extractLsb' 27 5 = 22#5 ∧ w.extractLsb' 7 1 = 0#1 then
    some (.vor (w.extractLsb' 24 3) (w.extractLsb' 19 5) (w.extractLsb' 15 4) (w.extractLsb' 14 1) (w.extractLsb' 12 2) (w.extractLsb' 8 4))
  else
  if w.extractLsb' 27 5 = 23#5 ∧ w.extractLsb' 7 1 = 0#1 then
    some (.vxor (w.extractLsb' 24 3) (w.extractLsb' 19 5) (w.extractLsb' 15 4) (w.extractLsb' 14 1) (w.extractLsb' 12 2) (w.extractLsb' 8 4))
  else
  if w.extractLsb' 27 5 = 24#5 then
    some (.vshl (w.extractLsb' 24 3) (w.extractLsb' 19 5) (w.extractLsb' 15 4) (w.extractLsb' 14 1) (w.extractLsb' 12 2) (w.extractLsb' 8 4) (w.extractLsb' 7 1))
  else
  if w.extractLsb' 27 5 = 25#5 then
    some (.vshr (w.extractLsb' 24 3) (w.extractLsb' 19 5) (w.extractLsb' 15 4) (w.extractLsb' 14 1) (w.extractLsb' 12 2) (w.extractLsb' 8 4) (w.extractLsb' 7 1))
  else
  if w.extractLsb' 27 5 = 26#5 ∧ w.extractLsb' 20 4 = 0#4 ∧ w.extractLsb' 19 1 = 0#1 ∧ w.extractLsb' 14 1 = 0#1 ∧ w.extractLsb' 7 1 = 0#1 then
    some (.vmov (w.extractLsb' 24 3) (w.extractLsb' 15 4) (w.extractLsb' 12 2) (w.extractLsb' 8 4))
  else
  none
/-- The words of opcode 0x7B. -/
def decodeCustom3 (w : BitVec 32) : Option Instr :=
  if w.extractLsb' 7 2 = 0#2 then
    some (.vsplat (w.extractLsb' 16 16) (w.extractLsb' 13 3) (w.extractLsb' 9 4))
  else
  if w.extractLsb' 7 2 = 1#2 then
    some (.vaddi (w.extractLsb' 16 16) (w.extractLsb' 13 3) (w.extractLsb' 9 4))
  else
  if w.extractLsb' 7 2 = 2#2 then
    some (.vmuli (w.extractLsb' 16 16) (w.extractLsb' 13 3) (w.extractLsb' 9 4))
  else
  if w.extractLsb' 7 2 = 3#2 then
    some (.vmaxi (w.extractLsb' 16 16) (w.extractLsb' 13 3) (w.extractLsb' 9 4))
  else
  none
/-- The words of opcode 0x2B with funct3 = 000. -/
def decodeCustom1F0 (w : BitVec 32) : Option Instr :=
  if w.extractLsb' 25 7 = 0#7 then
    some (.send (w.extractLsb' 7 5) (w.extractLsb' 15 5) (w.extractLsb' 20 5))
  else
  if w.extractLsb' 25 7 = 1#7 ∧ w.extractLsb' 20 5 = 0#5 ∧ w.extractLsb' 15 2 = 0#2 then
    some (.sendb (w.extractLsb' 7 5) (w.extractLsb' 17 3))
  else
  if w.extractLsb' 25 7 = 2#7 then
    some (.decr (w.extractLsb' 7 5) (w.extractLsb' 15 5) (w.extractLsb' 20 5))
  else
  if w.extractLsb' 25 7 = 3#7 ∧ w.extractLsb' 20 5 = 0#5 ∧ w.extractLsb' 15 2 = 0#2 then
    some (.carry (w.extractLsb' 7 5) (w.extractLsb' 17 3))
  else
  if w.extractLsb' 25 7 = 4#7 ∧ w.extractLsb' 20 5 = 0#5 ∧ w.extractLsb' 15 5 = 0#5 then
    some (.mpop (w.extractLsb' 7 5))
  else
  if w.extractLsb' 25 7 = 5#7 ∧ w.extractLsb' 20 5 = 0#5 ∧ w.extractLsb' 15 5 = 0#5 then
    some (.mpeek (w.extractLsb' 7 5))
  else
  if w.extractLsb' 25 7 = 6#7 ∧ w.extractLsb' 20 5 = 0#5 ∧ w.extractLsb' 15 5 = 0#5 ∧ w.extractLsb' 7 5 = 0#5 then
    some (.mdrop)
  else
  if w.extractLsb' 25 7 = 7#7 ∧ w.extractLsb' 20 5 = 0#5 ∧ w.extractLsb' 15 5 = 0#5 ∧ w.extractLsb' 7 5 = 0#5 then
    some (.done)
  else
  if w.extractLsb' 25 7 = 8#7 ∧ w.extractLsb' 20 5 = 0#5 ∧ w.extractLsb' 7 5 = 0#5 then
    some (.wait (w.extractLsb' 15 5))
  else
  if w.extractLsb' 25 7 = 9#7 ∧ w.extractLsb' 20 5 = 0#5 ∧ w.extractLsb' 15 5 = 0#5 ∧ w.extractLsb' 7 5 = 0#5 then
    some (.bank)
  else
  if w.extractLsb' 25 7 = 10#7 ∧ w.extractLsb' 20 5 = 0#5 ∧ w.extractLsb' 7 5 = 0#5 then
    some (.pin (w.extractLsb' 15 5))
  else
  none
/-- The words of opcode 0x2B with funct3 = 001. -/
def decodeCustom1F1 (w : BitVec 32) : Option Instr :=
  if w.extractLsb' 25 7 = 0#7 ∧ w.extractLsb' 20 5 = 0#5 ∧ w.extractLsb' 15 2 = 0#2 then
    some (.spawn (w.extractLsb' 7 5) (w.extractLsb' 17 3))
  else
  if w.extractLsb' 25 7 = 1#7 then
    some (.lwait (w.extractLsb' 7 5) (w.extractLsb' 15 5) (w.extractLsb' 20 5))
  else
  if w.extractLsb' 25 7 = 2#7 ∧ w.extractLsb' 20 5 = 0#5 ∧ w.extractLsb' 15 2 = 0#2 then
    some (.shpush (w.extractLsb' 7 5) (w.extractLsb' 17 3))
  else
  if w.extractLsb' 25 7 = 4#7 ∧ w.extractLsb' 20 5 = 0#5 ∧ w.extractLsb' 15 2 = 0#2 then
    some (.cpost (w.extractLsb' 7 5) (w.extractLsb' 17 3))
  else
  if w.extractLsb' 25 7 = 5#7 ∧ w.extractLsb' 20 5 = 0#5 ∧ w.extractLsb' 15 2 = 0#2 then
    some (.cpostNb (w.extractLsb' 7 5) (w.extractLsb' 17 3))
  else
  if w.extractLsb' 25 7 = 6#7 ∧ w.extractLsb' 20 5 = 0#5 then
    some (.cstat (w.extractLsb' 7 5) (w.extractLsb' 15 5))
  else
  none
/-- The words of opcode 0x2B with funct3 = 010. -/
noncomputable def decodeCustom1F2 (w : BitVec 32) : Option Instr :=
  if w.extractLsb' 25 7 = 0#7 ∧ w.extractLsb' 20 5 = 0#5 then
    some (.tcfg (w.extractLsb' 7 5) (w.extractLsb' 15 5))
  else
  if w.extractLsb' 25 7 = 1#7 ∧ w.extractLsb' 20 5 = 0#5 ∧ w.extractLsb' 15 5 = 0#5 then
    some (.mzero (w.extractLsb' 7 5))
  else
  if w.extractLsb' 25 7 = 2#7 ∧ w.extractLsb' 20 5 = 0#5 then
    some (.mload (w.extractLsb' 7 5) (w.extractLsb' 15 5))
  else
  if w.extractLsb' 25 7 = 3#7 then
    some (.mma (w.extractLsb' 7 5) (w.extractLsb' 15 5) (w.extractLsb' 20 5))
  else
  if w.extractLsb' 25 7 = 4#7 then
    some (.mmag (w.extractLsb' 7 5) (w.extractLsb' 15 5) (w.extractLsb' 20 5))
  else
  if w.extractLsb' 25 7 = 5#7 ∧ w.extractLsb' 20 5 = 0#5 ∧ w.extractLsb' 15 5 = 0#5 ∧ w.extractLsb' 7 5 = 0#5 then
    some (.mgang)
  else
  if w.extractLsb' 25 7 = 6#7 then
    some (.mdrain (w.extractLsb' 7 5) (w.extractLsb' 15 5) (w.extractLsb' 20 5))
  else
  if w.extractLsb' 25 7 = 7#7 ∧ w.extractLsb' 20 5 = 0#5 ∧ w.extractLsb' 15 5 = 0#5 ∧ w.extractLsb' 7 5 = 0#5 then
    some (.msync)
  else
  if w.extractLsb' 25 7 = 8#7 ∧ w.extractLsb' 20 5 = 0#5 then
    some (.mchk (w.extractLsb' 7 5) (w.extractLsb' 15 5))
  else
  if w.extractLsb' 25 7 = 9#7 then
    some (.dkl (w.extractLsb' 7 5) (w.extractLsb' 15 5) (w.extractLsb' 20 5))
  else
  none
/-- The words of opcode 0x2B with funct3 = 011. -/
noncomputable def decodeCustom1F3 (w : BitVec 32) : Option Instr :=
  if w.extractLsb' 25 7 = 0#7 ∧ w.extractLsb' 20 5 = 0#5 ∧ w.extractLsb' 7 5 = 0#5 then
    some (.selld (w.extractLsb' 15 5))
  else
  if w.extractLsb' 25 7 = 1#7 ∧ w.extractLsb' 20 5 = 0#5 ∧ w.extractLsb' 15 5 = 0#5 then
    some (.selstep (w.extractLsb' 7 5))
  else
  if w.extractLsb' 25 7 = 2#7 ∧ w.extractLsb' 20 5 = 0#5 ∧ w.extractLsb' 7 5 = 0#5 then
    some (.selcut (w.extractLsb' 15 5))
  else
  if w.extractLsb' 25 7 = 3#7 then
    some (.selrun (w.extractLsb' 7 5) (w.extractLsb' 15 5) (w.extractLsb' 20 5))
  else
  if w.extractLsb' 25 7 = 4#7 ∧ w.extractLsb' 20 5 = 0#5 then
    some (.selget (w.extractLsb' 7 5) (w.extractLsb' 15 5))
  else
  none
/-- The words of opcode 0x2B with funct3 = 100. -/
noncomputable def decodeCustom1F4 (w : BitVec 32) : Option Instr :=
  if w.extractLsb' 25 7 = 0#7 ∧ w.extractLsb' 7 5 = 0#5 then
    some (.seqmap (w.extractLsb' 15 5) (w.extractLsb' 20 5))
  else
  if w.extractLsb' 25 7 = 1#7 ∧ w.extractLsb' 7 5 = 0#5 then
    some (.steer (w.extractLsb' 15 5) (w.extractLsb' 20 5))
  else
  if w.extractLsb' 25 7 = 2#7 ∧ w.extractLsb' 20 5 = 0#5 then
    some (.taprd (w.extractLsb' 7 5) (w.extractLsb' 15 5))
  else
  none
/-- The words of opcode 0x2B with funct3 = 101. -/
noncomputable def decodeCustom1F5 (w : BitVec 32) : Option Instr :=
  if w.extractLsb' 25 7 = 0#7 ∧ w.extractLsb' 20 5 = 0#5 ∧ w.extractLsb' 15 5 = 0#5 ∧ w.extractLsb' 7 5 = 0#5 then
    some (.xret)
  else
  if w.extractLsb' 25 7 = 1#7 ∧ w.extractLsb' 20 5 = 0#5 ∧ w.extractLsb' 15 5 = 0#5 ∧ w.extractLsb' 7 5 = 0#5 then
    some (.park)
  else
  if w.extractLsb' 25 7 = 2#7 ∧ w.extractLsb' 7 5 = 0#5 then
    some (.atinv (w.extractLsb' 15 5) (w.extractLsb' 20 5))
  else
  if w.extractLsb' 25 7 = 3#7 ∧ w.extractLsb' 20 5 = 0#5 then
    some (.atprobe (w.extractLsb' 7 5) (w.extractLsb' 15 5))
  else
  none
/-- The words of opcode 0x2B with funct3 = 110. -/
noncomputable def decodeCustom1F6 (w : BitVec 32) : Option Instr :=
  if w.extractLsb' 7 5 = 0#5 then
    some (.hintPoint (w.extractLsb' 15 17))
  else
  none
/-- The words of opcode 0x2B, by funct3. -/
noncomputable def decodeCustom1 (w : BitVec 32) : Option Instr :=
  if w.extractLsb' 12 3 = 0#3 then decodeCustom1F0 w else
  if w.extractLsb' 12 3 = 1#3 then decodeCustom1F1 w else
  if w.extractLsb' 12 3 = 2#3 then decodeCustom1F2 w else
  if w.extractLsb' 12 3 = 3#3 then decodeCustom1F3 w else
  if w.extractLsb' 12 3 = 4#3 then decodeCustom1F4 w else
  if w.extractLsb' 12 3 = 5#3 then decodeCustom1F5 w else
  if w.extractLsb' 12 3 = 6#3 then decodeCustom1F6 w else
  none
/-- The instruction whose encoding the word matches, by major opcode (R52). -/
noncomputable def decodeFields (w : BitVec 32) : Option Instr :=
  if w.extractLsb' 0 7 = 55#7 then decodeLui w else
  if w.extractLsb' 0 7 = 23#7 then decodeAuipc w else
  if w.extractLsb' 0 7 = 111#7 then decodeJal w else
  if w.extractLsb' 0 7 = 103#7 then decodeJalr w else
  if w.extractLsb' 0 7 = 99#7 then decodeBranch w else
  if w.extractLsb' 0 7 = 3#7 then decodeLoad w else
  if w.extractLsb' 0 7 = 35#7 then decodeStore w else
  if w.extractLsb' 0 7 = 19#7 then decodeOpImm w else
  if w.extractLsb' 0 7 = 51#7 then decodeOp w else
  if w.extractLsb' 0 7 = 27#7 then decodeOpImm32 w else
  if w.extractLsb' 0 7 = 59#7 then decodeOp32 w else
  if w.extractLsb' 0 7 = 15#7 then decodeMiscMem w else
  if w.extractLsb' 0 7 = 115#7 then decodeSystem w else
  if w.extractLsb' 0 7 = 83#7 then decodeOpFp w else
  if w.extractLsb' 0 7 = 67#7 then decodeMadd w else
  if w.extractLsb' 0 7 = 71#7 then decodeMsub w else
  if w.extractLsb' 0 7 = 75#7 then decodeNmsub w else
  if w.extractLsb' 0 7 = 79#7 then decodeNmadd w else
  if w.extractLsb' 0 7 = 11#7 then decodeCustom0 w else
  if w.extractLsb' 0 7 = 91#7 then decodeCustom2 w else
  if w.extractLsb' 0 7 = 123#7 then decodeCustom3 w else
  if w.extractLsb' 0 7 = 43#7 then decodeCustom1 w else
  none

/-- The instruction that a word is, or none where the word is not an instruction (R52, R53). -/
noncomputable def decode (w : BitVec 32) : Option Instr :=
  match decodeFields w with
  | some i => if i.wf then some i else none
  | none => none

/-- The word of four bytes stored little-endian, the first at the lowest address (R51). -/
def wordOfBytes (b0 b1 b2 b3 : Byte) : BitVec 32 := b3 ++ b2 ++ b1 ++ b0

/-- The decoder on a list of bytes: one instruction and the bytes after it, or none (R51 to R53). -/
noncomputable def decodeBytes : List Byte → Option (Instr × List Byte)
  | b0 :: b1 :: b2 :: b3 :: rest =>
    match decode (wordOfBytes b0 b1 b2 b3) with
    | some i => some (i, rest)
    | none => none
  | _ => none

/-- The byte of a word at byte place `i`, place 0 being bits 7:0. -/
def byteOfWord (w : BitVec 32) (i : Nat) : Byte := w.extractLsb' (8 * i) 8

/-- What the decoder reads from the instruction whose bits are `w`, laid out as the hardware stores it. -/
noncomputable def decodeTableWord (nbits w : Nat) : Option Instr :=
  if nbits ≤ 32 then
    let v : BitVec 32 := BitVec.ofNat 32 (w % 2 ^ nbits)
    match decodeBytes [byteOfWord v 0, byteOfWord v 1, byteOfWord v 2, byteOfWord v 3] with
    | some (i, _) => some i
    | none => none
  else none
/-- The word of `lui`. -/
def wordLui (rd : BitVec 5) (imm : BitVec 20) : BitVec 32 :=
  imm ++ rd ++ 55#7
/-- The word of `auipc`. -/
def wordAuipc (rd : BitVec 5) (imm : BitVec 20) : BitVec 32 :=
  imm ++ rd ++ 23#7
/-- The word of `jal`. -/
def wordJal (rd : BitVec 5) (off : BitVec 20) : BitVec 32 :=
  (off.extractLsb' 19 1) ++ (off.extractLsb' 0 10) ++ (off.extractLsb' 10 1) ++ (off.extractLsb' 11 8) ++ rd ++ 111#7
/-- The word of `jalr`. -/
def wordJalr (rd : BitVec 5) (rs1 : BitVec 5) (imm : BitVec 12) : BitVec 32 :=
  imm ++ rs1 ++ 0#3 ++ rd ++ 103#7
/-- The word of `beq`. -/
def wordBeq (rs1 : BitVec 5) (rs2 : BitVec 5) (off : BitVec 12) : BitVec 32 :=
  (off.extractLsb' 11 1) ++ (off.extractLsb' 4 6) ++ rs2 ++ rs1 ++ 0#3 ++ (off.extractLsb' 0 4) ++ (off.extractLsb' 10 1) ++ 99#7
/-- The word of `bne`. -/
def wordBne (rs1 : BitVec 5) (rs2 : BitVec 5) (off : BitVec 12) : BitVec 32 :=
  (off.extractLsb' 11 1) ++ (off.extractLsb' 4 6) ++ rs2 ++ rs1 ++ 1#3 ++ (off.extractLsb' 0 4) ++ (off.extractLsb' 10 1) ++ 99#7
/-- The word of `blt`. -/
def wordBlt (rs1 : BitVec 5) (rs2 : BitVec 5) (off : BitVec 12) : BitVec 32 :=
  (off.extractLsb' 11 1) ++ (off.extractLsb' 4 6) ++ rs2 ++ rs1 ++ 4#3 ++ (off.extractLsb' 0 4) ++ (off.extractLsb' 10 1) ++ 99#7
/-- The word of `bge`. -/
def wordBge (rs1 : BitVec 5) (rs2 : BitVec 5) (off : BitVec 12) : BitVec 32 :=
  (off.extractLsb' 11 1) ++ (off.extractLsb' 4 6) ++ rs2 ++ rs1 ++ 5#3 ++ (off.extractLsb' 0 4) ++ (off.extractLsb' 10 1) ++ 99#7
/-- The word of `bltu`. -/
def wordBltu (rs1 : BitVec 5) (rs2 : BitVec 5) (off : BitVec 12) : BitVec 32 :=
  (off.extractLsb' 11 1) ++ (off.extractLsb' 4 6) ++ rs2 ++ rs1 ++ 6#3 ++ (off.extractLsb' 0 4) ++ (off.extractLsb' 10 1) ++ 99#7
/-- The word of `bgeu`. -/
def wordBgeu (rs1 : BitVec 5) (rs2 : BitVec 5) (off : BitVec 12) : BitVec 32 :=
  (off.extractLsb' 11 1) ++ (off.extractLsb' 4 6) ++ rs2 ++ rs1 ++ 7#3 ++ (off.extractLsb' 0 4) ++ (off.extractLsb' 10 1) ++ 99#7
/-- The word of `lb`. -/
def wordLb (rd : BitVec 5) (rs1 : BitVec 5) (imm : BitVec 12) : BitVec 32 :=
  imm ++ rs1 ++ 0#3 ++ rd ++ 3#7
/-- The word of `lh`. -/
def wordLh (rd : BitVec 5) (rs1 : BitVec 5) (imm : BitVec 12) : BitVec 32 :=
  imm ++ rs1 ++ 1#3 ++ rd ++ 3#7
/-- The word of `lw`. -/
def wordLw (rd : BitVec 5) (rs1 : BitVec 5) (imm : BitVec 12) : BitVec 32 :=
  imm ++ rs1 ++ 2#3 ++ rd ++ 3#7
/-- The word of `ld`. -/
def wordLd (rd : BitVec 5) (rs1 : BitVec 5) (imm : BitVec 12) : BitVec 32 :=
  imm ++ rs1 ++ 3#3 ++ rd ++ 3#7
/-- The word of `lbu`. -/
def wordLbu (rd : BitVec 5) (rs1 : BitVec 5) (imm : BitVec 12) : BitVec 32 :=
  imm ++ rs1 ++ 4#3 ++ rd ++ 3#7
/-- The word of `lhu`. -/
def wordLhu (rd : BitVec 5) (rs1 : BitVec 5) (imm : BitVec 12) : BitVec 32 :=
  imm ++ rs1 ++ 5#3 ++ rd ++ 3#7
/-- The word of `lwu`. -/
def wordLwu (rd : BitVec 5) (rs1 : BitVec 5) (imm : BitVec 12) : BitVec 32 :=
  imm ++ rs1 ++ 6#3 ++ rd ++ 3#7
/-- The word of `sb`. -/
def wordSb (rs2 : BitVec 5) (rs1 : BitVec 5) (imm : BitVec 12) : BitVec 32 :=
  (imm.extractLsb' 5 7) ++ rs2 ++ rs1 ++ 0#3 ++ (imm.extractLsb' 0 5) ++ 35#7
/-- The word of `sh`. -/
def wordSh (rs2 : BitVec 5) (rs1 : BitVec 5) (imm : BitVec 12) : BitVec 32 :=
  (imm.extractLsb' 5 7) ++ rs2 ++ rs1 ++ 1#3 ++ (imm.extractLsb' 0 5) ++ 35#7
/-- The word of `sw`. -/
def wordSw (rs2 : BitVec 5) (rs1 : BitVec 5) (imm : BitVec 12) : BitVec 32 :=
  (imm.extractLsb' 5 7) ++ rs2 ++ rs1 ++ 2#3 ++ (imm.extractLsb' 0 5) ++ 35#7
/-- The word of `sd`. -/
def wordSd (rs2 : BitVec 5) (rs1 : BitVec 5) (imm : BitVec 12) : BitVec 32 :=
  (imm.extractLsb' 5 7) ++ rs2 ++ rs1 ++ 3#3 ++ (imm.extractLsb' 0 5) ++ 35#7
/-- The word of `addi`. -/
def wordAddi (rd : BitVec 5) (rs1 : BitVec 5) (imm : BitVec 12) : BitVec 32 :=
  imm ++ rs1 ++ 0#3 ++ rd ++ 19#7
/-- The word of `slti`. -/
def wordSlti (rd : BitVec 5) (rs1 : BitVec 5) (imm : BitVec 12) : BitVec 32 :=
  imm ++ rs1 ++ 2#3 ++ rd ++ 19#7
/-- The word of `sltiu`. -/
def wordSltiu (rd : BitVec 5) (rs1 : BitVec 5) (imm : BitVec 12) : BitVec 32 :=
  imm ++ rs1 ++ 3#3 ++ rd ++ 19#7
/-- The word of `xori`. -/
def wordXori (rd : BitVec 5) (rs1 : BitVec 5) (imm : BitVec 12) : BitVec 32 :=
  imm ++ rs1 ++ 4#3 ++ rd ++ 19#7
/-- The word of `ori`. -/
def wordOri (rd : BitVec 5) (rs1 : BitVec 5) (imm : BitVec 12) : BitVec 32 :=
  imm ++ rs1 ++ 6#3 ++ rd ++ 19#7
/-- The word of `andi`. -/
def wordAndi (rd : BitVec 5) (rs1 : BitVec 5) (imm : BitVec 12) : BitVec 32 :=
  imm ++ rs1 ++ 7#3 ++ rd ++ 19#7
/-- The word of `slli`. -/
def wordSlli (rd : BitVec 5) (rs1 : BitVec 5) (sh : BitVec 6) : BitVec 32 :=
  0#6 ++ sh ++ rs1 ++ 1#3 ++ rd ++ 19#7
/-- The word of `srli`. -/
def wordSrli (rd : BitVec 5) (rs1 : BitVec 5) (sh : BitVec 6) : BitVec 32 :=
  0#6 ++ sh ++ rs1 ++ 5#3 ++ rd ++ 19#7
/-- The word of `srai`. -/
def wordSrai (rd : BitVec 5) (rs1 : BitVec 5) (sh : BitVec 6) : BitVec 32 :=
  16#6 ++ sh ++ rs1 ++ 5#3 ++ rd ++ 19#7
/-- The word of `add`. -/
def wordAdd (rd : BitVec 5) (rs1 : BitVec 5) (rs2 : BitVec 5) : BitVec 32 :=
  0#7 ++ rs2 ++ rs1 ++ 0#3 ++ rd ++ 51#7
/-- The word of `sll`. -/
def wordSll (rd : BitVec 5) (rs1 : BitVec 5) (rs2 : BitVec 5) : BitVec 32 :=
  0#7 ++ rs2 ++ rs1 ++ 1#3 ++ rd ++ 51#7
/-- The word of `slt`. -/
def wordSlt (rd : BitVec 5) (rs1 : BitVec 5) (rs2 : BitVec 5) : BitVec 32 :=
  0#7 ++ rs2 ++ rs1 ++ 2#3 ++ rd ++ 51#7
/-- The word of `sltu`. -/
def wordSltu (rd : BitVec 5) (rs1 : BitVec 5) (rs2 : BitVec 5) : BitVec 32 :=
  0#7 ++ rs2 ++ rs1 ++ 3#3 ++ rd ++ 51#7
/-- The word of `xor`. -/
def wordXor (rd : BitVec 5) (rs1 : BitVec 5) (rs2 : BitVec 5) : BitVec 32 :=
  0#7 ++ rs2 ++ rs1 ++ 4#3 ++ rd ++ 51#7
/-- The word of `srl`. -/
def wordSrl (rd : BitVec 5) (rs1 : BitVec 5) (rs2 : BitVec 5) : BitVec 32 :=
  0#7 ++ rs2 ++ rs1 ++ 5#3 ++ rd ++ 51#7
/-- The word of `or`. -/
def wordOr (rd : BitVec 5) (rs1 : BitVec 5) (rs2 : BitVec 5) : BitVec 32 :=
  0#7 ++ rs2 ++ rs1 ++ 6#3 ++ rd ++ 51#7
/-- The word of `and`. -/
def wordAnd (rd : BitVec 5) (rs1 : BitVec 5) (rs2 : BitVec 5) : BitVec 32 :=
  0#7 ++ rs2 ++ rs1 ++ 7#3 ++ rd ++ 51#7
/-- The word of `sub`. -/
def wordSub (rd : BitVec 5) (rs1 : BitVec 5) (rs2 : BitVec 5) : BitVec 32 :=
  32#7 ++ rs2 ++ rs1 ++ 0#3 ++ rd ++ 51#7
/-- The word of `sra`. -/
def wordSra (rd : BitVec 5) (rs1 : BitVec 5) (rs2 : BitVec 5) : BitVec 32 :=
  32#7 ++ rs2 ++ rs1 ++ 5#3 ++ rd ++ 51#7
/-- The word of `mul`. -/
def wordMul (rd : BitVec 5) (rs1 : BitVec 5) (rs2 : BitVec 5) : BitVec 32 :=
  1#7 ++ rs2 ++ rs1 ++ 0#3 ++ rd ++ 51#7
/-- The word of `mulh`. -/
def wordMulh (rd : BitVec 5) (rs1 : BitVec 5) (rs2 : BitVec 5) : BitVec 32 :=
  1#7 ++ rs2 ++ rs1 ++ 1#3 ++ rd ++ 51#7
/-- The word of `mulhsu`. -/
def wordMulhsu (rd : BitVec 5) (rs1 : BitVec 5) (rs2 : BitVec 5) : BitVec 32 :=
  1#7 ++ rs2 ++ rs1 ++ 2#3 ++ rd ++ 51#7
/-- The word of `mulhu`. -/
def wordMulhu (rd : BitVec 5) (rs1 : BitVec 5) (rs2 : BitVec 5) : BitVec 32 :=
  1#7 ++ rs2 ++ rs1 ++ 3#3 ++ rd ++ 51#7
/-- The word of `div`. -/
def wordDiv (rd : BitVec 5) (rs1 : BitVec 5) (rs2 : BitVec 5) : BitVec 32 :=
  1#7 ++ rs2 ++ rs1 ++ 4#3 ++ rd ++ 51#7
/-- The word of `divu`. -/
def wordDivu (rd : BitVec 5) (rs1 : BitVec 5) (rs2 : BitVec 5) : BitVec 32 :=
  1#7 ++ rs2 ++ rs1 ++ 5#3 ++ rd ++ 51#7
/-- The word of `rem`. -/
def wordRem (rd : BitVec 5) (rs1 : BitVec 5) (rs2 : BitVec 5) : BitVec 32 :=
  1#7 ++ rs2 ++ rs1 ++ 6#3 ++ rd ++ 51#7
/-- The word of `remu`. -/
def wordRemu (rd : BitVec 5) (rs1 : BitVec 5) (rs2 : BitVec 5) : BitVec 32 :=
  1#7 ++ rs2 ++ rs1 ++ 7#3 ++ rd ++ 51#7
/-- The word of `addiw`. -/
def wordAddiw (rd : BitVec 5) (rs1 : BitVec 5) (imm : BitVec 12) : BitVec 32 :=
  imm ++ rs1 ++ 0#3 ++ rd ++ 27#7
/-- The word of `slliw`. -/
def wordSlliw (rd : BitVec 5) (rs1 : BitVec 5) (sh : BitVec 5) : BitVec 32 :=
  0#7 ++ sh ++ rs1 ++ 1#3 ++ rd ++ 27#7
/-- The word of `srliw`. -/
def wordSrliw (rd : BitVec 5) (rs1 : BitVec 5) (sh : BitVec 5) : BitVec 32 :=
  0#7 ++ sh ++ rs1 ++ 5#3 ++ rd ++ 27#7
/-- The word of `sraiw`. -/
def wordSraiw (rd : BitVec 5) (rs1 : BitVec 5) (sh : BitVec 5) : BitVec 32 :=
  32#7 ++ sh ++ rs1 ++ 5#3 ++ rd ++ 27#7
/-- The word of `addw`. -/
def wordAddw (rd : BitVec 5) (rs1 : BitVec 5) (rs2 : BitVec 5) : BitVec 32 :=
  0#7 ++ rs2 ++ rs1 ++ 0#3 ++ rd ++ 59#7
/-- The word of `subw`. -/
def wordSubw (rd : BitVec 5) (rs1 : BitVec 5) (rs2 : BitVec 5) : BitVec 32 :=
  32#7 ++ rs2 ++ rs1 ++ 0#3 ++ rd ++ 59#7
/-- The word of `sllw`. -/
def wordSllw (rd : BitVec 5) (rs1 : BitVec 5) (rs2 : BitVec 5) : BitVec 32 :=
  0#7 ++ rs2 ++ rs1 ++ 1#3 ++ rd ++ 59#7
/-- The word of `srlw`. -/
def wordSrlw (rd : BitVec 5) (rs1 : BitVec 5) (rs2 : BitVec 5) : BitVec 32 :=
  0#7 ++ rs2 ++ rs1 ++ 5#3 ++ rd ++ 59#7
/-- The word of `sraw`. -/
def wordSraw (rd : BitVec 5) (rs1 : BitVec 5) (rs2 : BitVec 5) : BitVec 32 :=
  32#7 ++ rs2 ++ rs1 ++ 5#3 ++ rd ++ 59#7
/-- The word of `mulw`. -/
def wordMulw (rd : BitVec 5) (rs1 : BitVec 5) (rs2 : BitVec 5) : BitVec 32 :=
  1#7 ++ rs2 ++ rs1 ++ 0#3 ++ rd ++ 59#7
/-- The word of `divw`. -/
def wordDivw (rd : BitVec 5) (rs1 : BitVec 5) (rs2 : BitVec 5) : BitVec 32 :=
  1#7 ++ rs2 ++ rs1 ++ 4#3 ++ rd ++ 59#7
/-- The word of `divuw`. -/
def wordDivuw (rd : BitVec 5) (rs1 : BitVec 5) (rs2 : BitVec 5) : BitVec 32 :=
  1#7 ++ rs2 ++ rs1 ++ 5#3 ++ rd ++ 59#7
/-- The word of `remw`. -/
def wordRemw (rd : BitVec 5) (rs1 : BitVec 5) (rs2 : BitVec 5) : BitVec 32 :=
  1#7 ++ rs2 ++ rs1 ++ 6#3 ++ rd ++ 59#7
/-- The word of `remuw`. -/
def wordRemuw (rd : BitVec 5) (rs1 : BitVec 5) (rs2 : BitVec 5) : BitVec 32 :=
  1#7 ++ rs2 ++ rs1 ++ 7#3 ++ rd ++ 59#7
/-- The word of `fence`. -/
def wordFence (fm : BitVec 4) (pred : BitVec 4) (succ : BitVec 4) : BitVec 32 :=
  fm ++ pred ++ succ ++ 0#5 ++ 0#3 ++ 0#5 ++ 15#7
/-- The word of `ecall`. -/
def wordEcall : BitVec 32 :=
  0#7 ++ 0#5 ++ 0#5 ++ 0#3 ++ 0#5 ++ 115#7
/-- The word of `ebreak`. -/
def wordEbreak : BitVec 32 :=
  0#7 ++ 1#5 ++ 0#5 ++ 0#3 ++ 0#5 ++ 115#7
/-- The word of `csrrw`. -/
def wordCsrrw (rd : BitVec 5) (csr : BitVec 12) (rs1 : BitVec 5) : BitVec 32 :=
  csr ++ rs1 ++ 1#3 ++ rd ++ 115#7
/-- The word of `csrrs`. -/
def wordCsrrs (rd : BitVec 5) (csr : BitVec 12) (rs1 : BitVec 5) : BitVec 32 :=
  csr ++ rs1 ++ 2#3 ++ rd ++ 115#7
/-- The word of `csrrc`. -/
def wordCsrrc (rd : BitVec 5) (csr : BitVec 12) (rs1 : BitVec 5) : BitVec 32 :=
  csr ++ rs1 ++ 3#3 ++ rd ++ 115#7
/-- The word of `csrrwi`. -/
def wordCsrrwi (rd : BitVec 5) (csr : BitVec 12) (uimm : BitVec 5) : BitVec 32 :=
  csr ++ uimm ++ 5#3 ++ rd ++ 115#7
/-- The word of `csrrsi`. -/
def wordCsrrsi (rd : BitVec 5) (csr : BitVec 12) (uimm : BitVec 5) : BitVec 32 :=
  csr ++ uimm ++ 6#3 ++ rd ++ 115#7
/-- The word of `csrrci`. -/
def wordCsrrci (rd : BitVec 5) (csr : BitVec 12) (uimm : BitVec 5) : BitVec 32 :=
  csr ++ uimm ++ 7#3 ++ rd ++ 115#7
/-- The word of `fadd.s`. -/
def wordFaddS (rd : BitVec 5) (rs1 : BitVec 5) (rs2 : BitVec 5) (rm : BitVec 3) : BitVec 32 :=
  0#7 ++ rs2 ++ rs1 ++ rm ++ rd ++ 83#7
/-- The word of `fadd.d`. -/
def wordFaddD (rd : BitVec 5) (rs1 : BitVec 5) (rs2 : BitVec 5) (rm : BitVec 3) : BitVec 32 :=
  1#7 ++ rs2 ++ rs1 ++ rm ++ rd ++ 83#7
/-- The word of `fsub.s`. -/
def wordFsubS (rd : BitVec 5) (rs1 : BitVec 5) (rs2 : BitVec 5) (rm : BitVec 3) : BitVec 32 :=
  4#7 ++ rs2 ++ rs1 ++ rm ++ rd ++ 83#7
/-- The word of `fsub.d`. -/
def wordFsubD (rd : BitVec 5) (rs1 : BitVec 5) (rs2 : BitVec 5) (rm : BitVec 3) : BitVec 32 :=
  5#7 ++ rs2 ++ rs1 ++ rm ++ rd ++ 83#7
/-- The word of `fmul.s`. -/
def wordFmulS (rd : BitVec 5) (rs1 : BitVec 5) (rs2 : BitVec 5) (rm : BitVec 3) : BitVec 32 :=
  8#7 ++ rs2 ++ rs1 ++ rm ++ rd ++ 83#7
/-- The word of `fmul.d`. -/
def wordFmulD (rd : BitVec 5) (rs1 : BitVec 5) (rs2 : BitVec 5) (rm : BitVec 3) : BitVec 32 :=
  9#7 ++ rs2 ++ rs1 ++ rm ++ rd ++ 83#7
/-- The word of `fdiv.s`. -/
def wordFdivS (rd : BitVec 5) (rs1 : BitVec 5) (rs2 : BitVec 5) (rm : BitVec 3) : BitVec 32 :=
  12#7 ++ rs2 ++ rs1 ++ rm ++ rd ++ 83#7
/-- The word of `fdiv.d`. -/
def wordFdivD (rd : BitVec 5) (rs1 : BitVec 5) (rs2 : BitVec 5) (rm : BitVec 3) : BitVec 32 :=
  13#7 ++ rs2 ++ rs1 ++ rm ++ rd ++ 83#7
/-- The word of `fsqrt.s`. -/
def wordFsqrtS (rd : BitVec 5) (rs1 : BitVec 5) (rm : BitVec 3) : BitVec 32 :=
  44#7 ++ 0#5 ++ rs1 ++ rm ++ rd ++ 83#7
/-- The word of `fsqrt.d`. -/
def wordFsqrtD (rd : BitVec 5) (rs1 : BitVec 5) (rm : BitVec 3) : BitVec 32 :=
  45#7 ++ 0#5 ++ rs1 ++ rm ++ rd ++ 83#7
/-- The word of `fsgnj.s`. -/
def wordFsgnjS (rd : BitVec 5) (rs1 : BitVec 5) (rs2 : BitVec 5) : BitVec 32 :=
  16#7 ++ rs2 ++ rs1 ++ 0#3 ++ rd ++ 83#7
/-- The word of `fsgnj.d`. -/
def wordFsgnjD (rd : BitVec 5) (rs1 : BitVec 5) (rs2 : BitVec 5) : BitVec 32 :=
  17#7 ++ rs2 ++ rs1 ++ 0#3 ++ rd ++ 83#7
/-- The word of `fsgnjn.s`. -/
def wordFsgnjnS (rd : BitVec 5) (rs1 : BitVec 5) (rs2 : BitVec 5) : BitVec 32 :=
  16#7 ++ rs2 ++ rs1 ++ 1#3 ++ rd ++ 83#7
/-- The word of `fsgnjn.d`. -/
def wordFsgnjnD (rd : BitVec 5) (rs1 : BitVec 5) (rs2 : BitVec 5) : BitVec 32 :=
  17#7 ++ rs2 ++ rs1 ++ 1#3 ++ rd ++ 83#7
/-- The word of `fsgnjx.s`. -/
def wordFsgnjxS (rd : BitVec 5) (rs1 : BitVec 5) (rs2 : BitVec 5) : BitVec 32 :=
  16#7 ++ rs2 ++ rs1 ++ 2#3 ++ rd ++ 83#7
/-- The word of `fsgnjx.d`. -/
def wordFsgnjxD (rd : BitVec 5) (rs1 : BitVec 5) (rs2 : BitVec 5) : BitVec 32 :=
  17#7 ++ rs2 ++ rs1 ++ 2#3 ++ rd ++ 83#7
/-- The word of `fmin.s`. -/
def wordFminS (rd : BitVec 5) (rs1 : BitVec 5) (rs2 : BitVec 5) : BitVec 32 :=
  20#7 ++ rs2 ++ rs1 ++ 0#3 ++ rd ++ 83#7
/-- The word of `fmin.d`. -/
def wordFminD (rd : BitVec 5) (rs1 : BitVec 5) (rs2 : BitVec 5) : BitVec 32 :=
  21#7 ++ rs2 ++ rs1 ++ 0#3 ++ rd ++ 83#7
/-- The word of `fmax.s`. -/
def wordFmaxS (rd : BitVec 5) (rs1 : BitVec 5) (rs2 : BitVec 5) : BitVec 32 :=
  20#7 ++ rs2 ++ rs1 ++ 1#3 ++ rd ++ 83#7
/-- The word of `fmax.d`. -/
def wordFmaxD (rd : BitVec 5) (rs1 : BitVec 5) (rs2 : BitVec 5) : BitVec 32 :=
  21#7 ++ rs2 ++ rs1 ++ 1#3 ++ rd ++ 83#7
/-- The word of `fle.s`. -/
def wordFleS (rd : BitVec 5) (rs1 : BitVec 5) (rs2 : BitVec 5) : BitVec 32 :=
  80#7 ++ rs2 ++ rs1 ++ 0#3 ++ rd ++ 83#7
/-- The word of `fle.d`. -/
def wordFleD (rd : BitVec 5) (rs1 : BitVec 5) (rs2 : BitVec 5) : BitVec 32 :=
  81#7 ++ rs2 ++ rs1 ++ 0#3 ++ rd ++ 83#7
/-- The word of `flt.s`. -/
def wordFltS (rd : BitVec 5) (rs1 : BitVec 5) (rs2 : BitVec 5) : BitVec 32 :=
  80#7 ++ rs2 ++ rs1 ++ 1#3 ++ rd ++ 83#7
/-- The word of `flt.d`. -/
def wordFltD (rd : BitVec 5) (rs1 : BitVec 5) (rs2 : BitVec 5) : BitVec 32 :=
  81#7 ++ rs2 ++ rs1 ++ 1#3 ++ rd ++ 83#7
/-- The word of `feq.s`. -/
def wordFeqS (rd : BitVec 5) (rs1 : BitVec 5) (rs2 : BitVec 5) : BitVec 32 :=
  80#7 ++ rs2 ++ rs1 ++ 2#3 ++ rd ++ 83#7
/-- The word of `feq.d`. -/
def wordFeqD (rd : BitVec 5) (rs1 : BitVec 5) (rs2 : BitVec 5) : BitVec 32 :=
  81#7 ++ rs2 ++ rs1 ++ 2#3 ++ rd ++ 83#7
/-- The word of `fclass.s`. -/
def wordFclassS (rd : BitVec 5) (rs1 : BitVec 5) : BitVec 32 :=
  112#7 ++ 0#5 ++ rs1 ++ 1#3 ++ rd ++ 83#7
/-- The word of `fclass.d`. -/
def wordFclassD (rd : BitVec 5) (rs1 : BitVec 5) : BitVec 32 :=
  113#7 ++ 0#5 ++ rs1 ++ 1#3 ++ rd ++ 83#7
/-- The word of `fcvt.w.s`. -/
def wordFcvtWS (rd : BitVec 5) (rs1 : BitVec 5) (rm : BitVec 3) : BitVec 32 :=
  96#7 ++ 0#5 ++ rs1 ++ rm ++ rd ++ 83#7
/-- The word of `fcvt.wu.s`. -/
def wordFcvtWuS (rd : BitVec 5) (rs1 : BitVec 5) (rm : BitVec 3) : BitVec 32 :=
  96#7 ++ 1#5 ++ rs1 ++ rm ++ rd ++ 83#7
/-- The word of `fcvt.l.s`. -/
def wordFcvtLS (rd : BitVec 5) (rs1 : BitVec 5) (rm : BitVec 3) : BitVec 32 :=
  96#7 ++ 2#5 ++ rs1 ++ rm ++ rd ++ 83#7
/-- The word of `fcvt.lu.s`. -/
def wordFcvtLuS (rd : BitVec 5) (rs1 : BitVec 5) (rm : BitVec 3) : BitVec 32 :=
  96#7 ++ 3#5 ++ rs1 ++ rm ++ rd ++ 83#7
/-- The word of `fcvt.w.d`. -/
def wordFcvtWD (rd : BitVec 5) (rs1 : BitVec 5) (rm : BitVec 3) : BitVec 32 :=
  97#7 ++ 0#5 ++ rs1 ++ rm ++ rd ++ 83#7
/-- The word of `fcvt.wu.d`. -/
def wordFcvtWuD (rd : BitVec 5) (rs1 : BitVec 5) (rm : BitVec 3) : BitVec 32 :=
  97#7 ++ 1#5 ++ rs1 ++ rm ++ rd ++ 83#7
/-- The word of `fcvt.l.d`. -/
def wordFcvtLD (rd : BitVec 5) (rs1 : BitVec 5) (rm : BitVec 3) : BitVec 32 :=
  97#7 ++ 2#5 ++ rs1 ++ rm ++ rd ++ 83#7
/-- The word of `fcvt.lu.d`. -/
def wordFcvtLuD (rd : BitVec 5) (rs1 : BitVec 5) (rm : BitVec 3) : BitVec 32 :=
  97#7 ++ 3#5 ++ rs1 ++ rm ++ rd ++ 83#7
/-- The word of `fcvt.s.w`. -/
def wordFcvtSW (rd : BitVec 5) (rs1 : BitVec 5) (rm : BitVec 3) : BitVec 32 :=
  104#7 ++ 0#5 ++ rs1 ++ rm ++ rd ++ 83#7
/-- The word of `fcvt.s.wu`. -/
def wordFcvtSWu (rd : BitVec 5) (rs1 : BitVec 5) (rm : BitVec 3) : BitVec 32 :=
  104#7 ++ 1#5 ++ rs1 ++ rm ++ rd ++ 83#7
/-- The word of `fcvt.s.l`. -/
def wordFcvtSL (rd : BitVec 5) (rs1 : BitVec 5) (rm : BitVec 3) : BitVec 32 :=
  104#7 ++ 2#5 ++ rs1 ++ rm ++ rd ++ 83#7
/-- The word of `fcvt.s.lu`. -/
def wordFcvtSLu (rd : BitVec 5) (rs1 : BitVec 5) (rm : BitVec 3) : BitVec 32 :=
  104#7 ++ 3#5 ++ rs1 ++ rm ++ rd ++ 83#7
/-- The word of `fcvt.d.w`. -/
def wordFcvtDW (rd : BitVec 5) (rs1 : BitVec 5) (rm : BitVec 3) : BitVec 32 :=
  105#7 ++ 0#5 ++ rs1 ++ rm ++ rd ++ 83#7
/-- The word of `fcvt.d.wu`. -/
def wordFcvtDWu (rd : BitVec 5) (rs1 : BitVec 5) (rm : BitVec 3) : BitVec 32 :=
  105#7 ++ 1#5 ++ rs1 ++ rm ++ rd ++ 83#7
/-- The word of `fcvt.d.l`. -/
def wordFcvtDL (rd : BitVec 5) (rs1 : BitVec 5) (rm : BitVec 3) : BitVec 32 :=
  105#7 ++ 2#5 ++ rs1 ++ rm ++ rd ++ 83#7
/-- The word of `fcvt.d.lu`. -/
def wordFcvtDLu (rd : BitVec 5) (rs1 : BitVec 5) (rm : BitVec 3) : BitVec 32 :=
  105#7 ++ 3#5 ++ rs1 ++ rm ++ rd ++ 83#7
/-- The word of `fcvt.s.d`. -/
def wordFcvtSD (rd : BitVec 5) (rs1 : BitVec 5) (rm : BitVec 3) : BitVec 32 :=
  32#7 ++ 1#5 ++ rs1 ++ rm ++ rd ++ 83#7
/-- The word of `fcvt.d.s`. -/
def wordFcvtDS (rd : BitVec 5) (rs1 : BitVec 5) (rm : BitVec 3) : BitVec 32 :=
  33#7 ++ 0#5 ++ rs1 ++ rm ++ rd ++ 83#7
/-- The word of `fmadd.s`. -/
def wordFmaddS (rd : BitVec 5) (rs1 : BitVec 5) (rs2 : BitVec 5) (rs3 : BitVec 5) (rm : BitVec 3) : BitVec 32 :=
  rs3 ++ 0#2 ++ rs2 ++ rs1 ++ rm ++ rd ++ 67#7
/-- The word of `fmadd.d`. -/
def wordFmaddD (rd : BitVec 5) (rs1 : BitVec 5) (rs2 : BitVec 5) (rs3 : BitVec 5) (rm : BitVec 3) : BitVec 32 :=
  rs3 ++ 1#2 ++ rs2 ++ rs1 ++ rm ++ rd ++ 67#7
/-- The word of `fmsub.s`. -/
def wordFmsubS (rd : BitVec 5) (rs1 : BitVec 5) (rs2 : BitVec 5) (rs3 : BitVec 5) (rm : BitVec 3) : BitVec 32 :=
  rs3 ++ 0#2 ++ rs2 ++ rs1 ++ rm ++ rd ++ 71#7
/-- The word of `fmsub.d`. -/
def wordFmsubD (rd : BitVec 5) (rs1 : BitVec 5) (rs2 : BitVec 5) (rs3 : BitVec 5) (rm : BitVec 3) : BitVec 32 :=
  rs3 ++ 1#2 ++ rs2 ++ rs1 ++ rm ++ rd ++ 71#7
/-- The word of `fnmsub.s`. -/
def wordFnmsubS (rd : BitVec 5) (rs1 : BitVec 5) (rs2 : BitVec 5) (rs3 : BitVec 5) (rm : BitVec 3) : BitVec 32 :=
  rs3 ++ 0#2 ++ rs2 ++ rs1 ++ rm ++ rd ++ 75#7
/-- The word of `fnmsub.d`. -/
def wordFnmsubD (rd : BitVec 5) (rs1 : BitVec 5) (rs2 : BitVec 5) (rs3 : BitVec 5) (rm : BitVec 3) : BitVec 32 :=
  rs3 ++ 1#2 ++ rs2 ++ rs1 ++ rm ++ rd ++ 75#7
/-- The word of `fnmadd.s`. -/
def wordFnmaddS (rd : BitVec 5) (rs1 : BitVec 5) (rs2 : BitVec 5) (rs3 : BitVec 5) (rm : BitVec 3) : BitVec 32 :=
  rs3 ++ 0#2 ++ rs2 ++ rs1 ++ rm ++ rd ++ 79#7
/-- The word of `fnmadd.d`. -/
def wordFnmaddD (rd : BitVec 5) (rs1 : BitVec 5) (rs2 : BitVec 5) (rs3 : BitVec 5) (rm : BitVec 3) : BitVec 32 :=
  rs3 ++ 1#2 ++ rs2 ++ rs1 ++ rm ++ rd ++ 79#7
/-- The word of `cbase`. -/
def wordCbase (rd : BitVec 5) (rs1 : BitVec 5) : BitVec 32 :=
  0#7 ++ 0#5 ++ rs1 ++ 0#3 ++ rd ++ 11#7
/-- The word of `clen`. -/
def wordClen (rd : BitVec 5) (rs1 : BitVec 5) : BitVec 32 :=
  1#7 ++ 0#5 ++ rs1 ++ 0#3 ++ rd ++ 11#7
/-- The word of `cperm`. -/
def wordCperm (rd : BitVec 5) (rs1 : BitVec 5) : BitVec 32 :=
  2#7 ++ 0#5 ++ rs1 ++ 0#3 ++ rd ++ 11#7
/-- The word of `ctag`. -/
def wordCtag (rd : BitVec 5) (rs1 : BitVec 5) : BitVec 32 :=
  3#7 ++ 0#5 ++ rs1 ++ 0#3 ++ rd ++ 11#7
/-- The word of `cbnd`. -/
def wordCbnd (rd : BitVec 5) (rs1 : BitVec 5) (rs2 : BitVec 5) : BitVec 32 :=
  4#7 ++ rs2 ++ rs1 ++ 0#3 ++ rd ++ 11#7
/-- The word of `cbndx`. -/
def wordCbndx (rd : BitVec 5) (rs1 : BitVec 5) (rs2 : BitVec 5) : BitVec 32 :=
  5#7 ++ rs2 ++ rs1 ++ 0#3 ++ rd ++ 11#7
/-- The word of `cadd`. -/
def wordCadd (rd : BitVec 5) (rs1 : BitVec 5) (rs2 : BitVec 5) : BitVec 32 :=
  6#7 ++ rs2 ++ rs1 ++ 0#3 ++ rd ++ 11#7
/-- The word of `cset`. -/
def wordCset (rd : BitVec 5) (rs1 : BitVec 5) (rs2 : BitVec 5) : BitVec 32 :=
  7#7 ++ rs2 ++ rs1 ++ 0#3 ++ rd ++ 11#7
/-- The word of `candp`. -/
def wordCandp (rd : BitVec 5) (rs1 : BitVec 5) (rs2 : BitVec 5) : BitVec 32 :=
  8#7 ++ rs2 ++ rs1 ++ 0#3 ++ rd ++ 11#7
/-- The word of `cmv`. -/
def wordCmv (rd : BitVec 5) (rs1 : BitVec 5) : BitVec 32 :=
  9#7 ++ 0#5 ++ rs1 ++ 0#3 ++ rd ++ 11#7
/-- The word of `cclr`. -/
def wordCclr (rd : BitVec 5) (rs1 : BitVec 5) : BitVec 32 :=
  10#7 ++ 0#5 ++ rs1 ++ 0#3 ++ rd ++ 11#7
/-- The word of `csub`. -/
def wordCsub (rd : BitVec 5) (rs1 : BitVec 5) (rs2 : BitVec 5) : BitVec 32 :=
  11#7 ++ rs2 ++ rs1 ++ 0#3 ++ rd ++ 11#7
/-- The word of `cseal`. -/
def wordCseal (rd : BitVec 5) (rs1 : BitVec 5) (rs2 : BitVec 5) : BitVec 32 :=
  12#7 ++ rs2 ++ rs1 ++ 0#3 ++ rd ++ 11#7
/-- The word of `cunseal`. -/
def wordCunseal (rd : BitVec 5) (rs1 : BitVec 5) (rs2 : BitVec 5) : BitVec 32 :=
  13#7 ++ rs2 ++ rs1 ++ 0#3 ++ rd ++ 11#7
/-- The word of `caddi`. -/
def wordCaddi (rd : BitVec 5) (rs1 : BitVec 5) (imm : BitVec 12) : BitVec 32 :=
  imm ++ rs1 ++ 1#3 ++ rd ++ 11#7
/-- The word of `clc`. -/
def wordClc (rd : BitVec 5) (rs1 : BitVec 5) (imm : BitVec 12) : BitVec 32 :=
  imm ++ rs1 ++ 2#3 ++ rd ++ 11#7
/-- The word of `csc`. -/
def wordCsc (rs2 : BitVec 5) (rs1 : BitVec 5) (imm : BitVec 12) : BitVec 32 :=
  (imm.extractLsb' 5 7) ++ rs2 ++ rs1 ++ 3#3 ++ (imm.extractLsb' 0 5) ++ 11#7
/-- The word of `lda`. -/
def wordLda (rd : BitVec 5) (rs1 : BitVec 5) (sz : BitVec 2) (sc : BitVec 3) : BitVec 32 :=
  0#2 ++ sz ++ sc ++ 0#5 ++ rs1 ++ 4#3 ++ rd ++ 11#7
/-- The word of `stl`. -/
def wordStl (rs1 : BitVec 5) (rs2 : BitVec 5) (sz : BitVec 2) (sc : BitVec 3) : BitVec 32 :=
  1#2 ++ sz ++ sc ++ rs2 ++ rs1 ++ 4#3 ++ 0#5 ++ 11#7
/-- The word of `fence`. -/
def wordFenceScoped (sc : BitVec 3) : BitVec 32 :=
  8#4 ++ sc ++ 0#5 ++ 0#5 ++ 4#3 ++ 0#5 ++ 11#7
/-- The word of `taglk`. -/
def wordTaglk (rd : BitVec 5) (rs1 : BitVec 5) : BitVec 32 :=
  0#7 ++ 0#5 ++ rs1 ++ 5#3 ++ rd ++ 11#7
/-- The word of `tagins`. -/
def wordTagins (rd : BitVec 5) (rs1 : BitVec 5) (rs2 : BitVec 5) : BitVec 32 :=
  1#7 ++ rs2 ++ rs1 ++ 5#3 ++ rd ++ 11#7
/-- The word of `tagdel`. -/
def wordTagdel (rs1 : BitVec 5) : BitVec 32 :=
  2#7 ++ 0#5 ++ rs1 ++ 5#3 ++ 0#5 ++ 11#7
/-- The word of `tagpin`. -/
def wordTagpin (rs1 : BitVec 5) : BitVec 32 :=
  3#7 ++ 0#5 ++ rs1 ++ 5#3 ++ 0#5 ++ 11#7
/-- The word of `tagunpin`. -/
def wordTagunpin (rs1 : BitVec 5) : BitVec 32 :=
  4#7 ++ 0#5 ++ rs1 ++ 5#3 ++ 0#5 ++ 11#7
/-- The word of `cbinit`. -/
def wordCbinit (bd : BitVec 4) (rs1 : BitVec 5) : BitVec 32 :=
  8#7 ++ 0#5 ++ rs1 ++ 5#3 ++ 0#1 ++ bd ++ 11#7
/-- The word of `cbput`. -/
def wordCbput (bd : BitVec 4) : BitVec 32 :=
  9#7 ++ 0#5 ++ 0#5 ++ 5#3 ++ 0#1 ++ bd ++ 11#7
/-- The word of `cbget`. -/
def wordCbget (rd : BitVec 5) (bs : BitVec 4) : BitVec 32 :=
  10#7 ++ 0#5 ++ 0#1 ++ bs ++ 5#3 ++ rd ++ 11#7
/-- The word of `cbrel`. -/
def wordCbrel (bd : BitVec 4) : BitVec 32 :=
  11#7 ++ 0#5 ++ 0#5 ++ 5#3 ++ 0#1 ++ bd ++ 11#7
/-- The word of `cbstat`. -/
def wordCbstat (rd : BitVec 5) (bs : BitVec 4) : BitVec 32 :=
  12#7 ++ 0#5 ++ 0#1 ++ bs ++ 5#3 ++ rd ++ 11#7
/-- The word of `barinit`. -/
def wordBarinit (rs1 : BitVec 5) (rs2 : BitVec 5) : BitVec 32 :=
  0#7 ++ rs2 ++ rs1 ++ 6#3 ++ 0#5 ++ 11#7
/-- The word of `bararv`. -/
def wordBararv (rd : BitVec 5) (rs1 : BitVec 5) (rs2 : BitVec 5) : BitVec 32 :=
  1#7 ++ rs2 ++ rs1 ++ 6#3 ++ rd ++ 11#7
/-- The word of `bardrop`. -/
def wordBardrop (rd : BitVec 5) (rs1 : BitVec 5) : BitVec 32 :=
  2#7 ++ 0#5 ++ rs1 ++ 6#3 ++ rd ++ 11#7
/-- The word of `barwait`. -/
def wordBarwait (rd : BitVec 5) (rs1 : BitVec 5) (rs2 : BitVec 5) : BitVec 32 :=
  3#7 ++ rs2 ++ rs1 ++ 6#3 ++ rd ++ 11#7
/-- The word of `barrd`. -/
def wordBarrd (rd : BitVec 5) (rs1 : BitVec 5) : BitVec 32 :=
  4#7 ++ 0#5 ++ rs1 ++ 6#3 ++ rd ++ 11#7
/-- The word of `amo.add.w`. -/
def wordAmoAddW (rd : BitVec 5) (rs1 : BitVec 5) (rs2 : BitVec 5) : BitVec 32 :=
  32#7 ++ rs2 ++ rs1 ++ 6#3 ++ rd ++ 11#7
/-- The word of `amo.add.d`. -/
def wordAmoAddD (rd : BitVec 5) (rs1 : BitVec 5) (rs2 : BitVec 5) : BitVec 32 :=
  33#7 ++ rs2 ++ rs1 ++ 6#3 ++ rd ++ 11#7
/-- The word of `amo.addf.w`. -/
def wordAmoAddfW (rd : BitVec 5) (rs1 : BitVec 5) (rs2 : BitVec 5) : BitVec 32 :=
  34#7 ++ rs2 ++ rs1 ++ 6#3 ++ rd ++ 11#7
/-- The word of `amo.addf.d`. -/
def wordAmoAddfD (rd : BitVec 5) (rs1 : BitVec 5) (rs2 : BitVec 5) : BitVec 32 :=
  35#7 ++ rs2 ++ rs1 ++ 6#3 ++ rd ++ 11#7
/-- The word of `amo.min.w`. -/
def wordAmoMinW (rd : BitVec 5) (rs1 : BitVec 5) (rs2 : BitVec 5) : BitVec 32 :=
  36#7 ++ rs2 ++ rs1 ++ 6#3 ++ rd ++ 11#7
/-- The word of `amo.min.d`. -/
def wordAmoMinD (rd : BitVec 5) (rs1 : BitVec 5) (rs2 : BitVec 5) : BitVec 32 :=
  37#7 ++ rs2 ++ rs1 ++ 6#3 ++ rd ++ 11#7
/-- The word of `amo.max.w`. -/
def wordAmoMaxW (rd : BitVec 5) (rs1 : BitVec 5) (rs2 : BitVec 5) : BitVec 32 :=
  38#7 ++ rs2 ++ rs1 ++ 6#3 ++ rd ++ 11#7
/-- The word of `amo.max.d`. -/
def wordAmoMaxD (rd : BitVec 5) (rs1 : BitVec 5) (rs2 : BitVec 5) : BitVec 32 :=
  39#7 ++ rs2 ++ rs1 ++ 6#3 ++ rd ++ 11#7
/-- The word of `amo.minu.w`. -/
def wordAmoMinuW (rd : BitVec 5) (rs1 : BitVec 5) (rs2 : BitVec 5) : BitVec 32 :=
  40#7 ++ rs2 ++ rs1 ++ 6#3 ++ rd ++ 11#7
/-- The word of `amo.minu.d`. -/
def wordAmoMinuD (rd : BitVec 5) (rs1 : BitVec 5) (rs2 : BitVec 5) : BitVec 32 :=
  41#7 ++ rs2 ++ rs1 ++ 6#3 ++ rd ++ 11#7
/-- The word of `amo.maxu.w`. -/
def wordAmoMaxuW (rd : BitVec 5) (rs1 : BitVec 5) (rs2 : BitVec 5) : BitVec 32 :=
  42#7 ++ rs2 ++ rs1 ++ 6#3 ++ rd ++ 11#7
/-- The word of `amo.maxu.d`. -/
def wordAmoMaxuD (rd : BitVec 5) (rs1 : BitVec 5) (rs2 : BitVec 5) : BitVec 32 :=
  43#7 ++ rs2 ++ rs1 ++ 6#3 ++ rd ++ 11#7
/-- The word of `amo.swap.w`. -/
def wordAmoSwapW (rd : BitVec 5) (rs1 : BitVec 5) (rs2 : BitVec 5) : BitVec 32 :=
  44#7 ++ rs2 ++ rs1 ++ 6#3 ++ rd ++ 11#7
/-- The word of `amo.swap.d`. -/
def wordAmoSwapD (rd : BitVec 5) (rs1 : BitVec 5) (rs2 : BitVec 5) : BitVec 32 :=
  45#7 ++ rs2 ++ rs1 ++ 6#3 ++ rd ++ 11#7
/-- The word of `amo.cas.w`. -/
def wordAmoCasW (rd : BitVec 5) (rs1 : BitVec 5) (rs2 : BitVec 5) : BitVec 32 :=
  46#7 ++ rs2 ++ rs1 ++ 6#3 ++ rd ++ 11#7
/-- The word of `amo.cas.d`. -/
def wordAmoCasD (rd : BitVec 5) (rs1 : BitVec 5) (rs2 : BitVec 5) : BitVec 32 :=
  47#7 ++ rs2 ++ rs1 ++ 6#3 ++ rd ++ 11#7
/-- The word of `amo.and.w`. -/
def wordAmoAndW (rd : BitVec 5) (rs1 : BitVec 5) (rs2 : BitVec 5) : BitVec 32 :=
  48#7 ++ rs2 ++ rs1 ++ 6#3 ++ rd ++ 11#7
/-- The word of `amo.and.d`. -/
def wordAmoAndD (rd : BitVec 5) (rs1 : BitVec 5) (rs2 : BitVec 5) : BitVec 32 :=
  49#7 ++ rs2 ++ rs1 ++ 6#3 ++ rd ++ 11#7
/-- The word of `amo.or.w`. -/
def wordAmoOrW (rd : BitVec 5) (rs1 : BitVec 5) (rs2 : BitVec 5) : BitVec 32 :=
  50#7 ++ rs2 ++ rs1 ++ 6#3 ++ rd ++ 11#7
/-- The word of `amo.or.d`. -/
def wordAmoOrD (rd : BitVec 5) (rs1 : BitVec 5) (rs2 : BitVec 5) : BitVec 32 :=
  51#7 ++ rs2 ++ rs1 ++ 6#3 ++ rd ++ 11#7
/-- The word of `amo.xor.w`. -/
def wordAmoXorW (rd : BitVec 5) (rs1 : BitVec 5) (rs2 : BitVec 5) : BitVec 32 :=
  52#7 ++ rs2 ++ rs1 ++ 6#3 ++ rd ++ 11#7
/-- The word of `amo.xor.d`. -/
def wordAmoXorD (rd : BitVec 5) (rs1 : BitVec 5) (rs2 : BitVec 5) : BitVec 32 :=
  53#7 ++ rs2 ++ rs1 ++ 6#3 ++ rd ++ 11#7
/-- The word of `mon`. -/
def wordMon (rs1 : BitVec 5) : BitVec 32 :=
  64#7 ++ 0#5 ++ rs1 ++ 6#3 ++ 0#5 ++ 11#7
/-- The word of `monw`. -/
def wordMonw (rd : BitVec 5) (rs1 : BitVec 5) : BitVec 32 :=
  65#7 ++ 0#5 ++ rs1 ++ 6#3 ++ rd ++ 11#7
/-- The word of `bmov`. -/
def wordBmov (rd : BitVec 5) (rs1 : BitVec 5) (rs2 : BitVec 5) : BitVec 32 :=
  0#7 ++ rs2 ++ rs1 ++ 7#3 ++ rd ++ 11#7
/-- The word of `bfill`. -/
def wordBfill (rd : BitVec 5) (rs1 : BitVec 5) (rs2 : BitVec 5) : BitVec 32 :=
  1#7 ++ rs2 ++ rs1 ++ 7#3 ++ rd ++ 11#7
/-- The word of `rep`. -/
def wordRep (rs1 : BitVec 5) : BitVec 32 :=
  2#7 ++ 0#5 ++ rs1 ++ 7#3 ++ 0#5 ++ 11#7
/-- The word of `rgn`. -/
def wordRgn (xs : BitVec 3) : BitVec 32 :=
  3#7 ++ 0#5 ++ xs ++ 0#2 ++ 7#3 ++ 0#5 ++ 11#7
/-- The word of `wbind`. -/
def wordWbind (wd : BitVec 3) (rs1 : BitVec 5) : BitVec 32 :=
  8#7 ++ 0#5 ++ rs1 ++ 7#3 ++ 0#2 ++ wd ++ 11#7
/-- The word of `wstat`. -/
def wordWstat (rd : BitVec 5) (ws : BitVec 3) : BitVec 32 :=
  9#7 ++ 0#5 ++ 0#2 ++ ws ++ 7#3 ++ rd ++ 11#7
/-- The word of `wdrain`. -/
def wordWdrain (wd : BitVec 3) : BitVec 32 :=
  10#7 ++ 0#5 ++ 0#5 ++ 7#3 ++ 0#2 ++ wd ++ 11#7
/-- The word of `wunbind`. -/
def wordWunbind (wd : BitVec 3) : BitVec 32 :=
  11#7 ++ 0#5 ++ 0#5 ++ 7#3 ++ 0#2 ++ wd ++ 11#7
/-- The word of `vadd`. -/
def wordVadd (ty : BitVec 3) (src2 : BitVec 5) (va : BitVec 4) (sx : BitVec 1) (mask : BitVec 2) (vd : BitVec 4) (sat : BitVec 1) : BitVec 32 :=
  0#5 ++ ty ++ src2 ++ va ++ sx ++ mask ++ vd ++ sat ++ 91#7
/-- The word of `vsub`. -/
def wordVsub (ty : BitVec 3) (src2 : BitVec 5) (va : BitVec 4) (sx : BitVec 1) (mask : BitVec 2) (vd : BitVec 4) (sat : BitVec 1) : BitVec 32 :=
  1#5 ++ ty ++ src2 ++ va ++ sx ++ mask ++ vd ++ sat ++ 91#7
/-- The word of `vmul`. -/
def wordVmul (ty : BitVec 3) (src2 : BitVec 5) (va : BitVec 4) (sx : BitVec 1) (mask : BitVec 2) (vd : BitVec 4) (sat : BitVec 1) : BitVec 32 :=
  2#5 ++ ty ++ src2 ++ va ++ sx ++ mask ++ vd ++ sat ++ 91#7
/-- The word of `vfma`. -/
def wordVfma (ty : BitVec 3) (src2 : BitVec 5) (va : BitVec 4) (sx : BitVec 1) (mask : BitVec 2) (vd : BitVec 4) (sat : BitVec 1) : BitVec 32 :=
  3#5 ++ ty ++ src2 ++ va ++ sx ++ mask ++ vd ++ sat ++ 91#7
/-- The word of `vfms`. -/
def wordVfms (ty : BitVec 3) (src2 : BitVec 5) (va : BitVec 4) (sx : BitVec 1) (mask : BitVec 2) (vd : BitVec 4) (sat : BitVec 1) : BitVec 32 :=
  4#5 ++ ty ++ src2 ++ va ++ sx ++ mask ++ vd ++ sat ++ 91#7
/-- The word of `vmax`. -/
def wordVmax (ty : BitVec 3) (src2 : BitVec 5) (va : BitVec 4) (sx : BitVec 1) (mask : BitVec 2) (vd : BitVec 4) : BitVec 32 :=
  5#5 ++ ty ++ src2 ++ va ++ sx ++ mask ++ vd ++ 0#1 ++ 91#7
/-- The word of `vmin`. -/
def wordVmin (ty : BitVec 3) (src2 : BitVec 5) (va : BitVec 4) (sx : BitVec 1) (mask : BitVec 2) (vd : BitVec 4) : BitVec 32 :=
  6#5 ++ ty ++ src2 ++ va ++ sx ++ mask ++ vd ++ 0#1 ++ 91#7
/-- The word of `vabs`. -/
def wordVabs (ty : BitVec 3) (va : BitVec 4) (mask : BitVec 2) (vd : BitVec 4) (sat : BitVec 1) : BitVec 32 :=
  7#5 ++ ty ++ 0#4 ++ 0#1 ++ va ++ 0#1 ++ mask ++ vd ++ sat ++ 91#7
/-- The word of `vneg`. -/
def wordVneg (ty : BitVec 3) (va : BitVec 4) (mask : BitVec 2) (vd : BitVec 4) (sat : BitVec 1) : BitVec 32 :=
  8#5 ++ ty ++ 0#4 ++ 0#1 ++ va ++ 0#1 ++ mask ++ vd ++ sat ++ 91#7
/-- The word of `vclamp`. -/
def wordVclamp (ty : BitVec 3) (src2 : BitVec 5) (va : BitVec 4) (sx : BitVec 1) (mask : BitVec 2) (vd : BitVec 4) : BitVec 32 :=
  9#5 ++ ty ++ src2 ++ va ++ sx ++ mask ++ vd ++ 0#1 ++ 91#7
/-- The word of `vcvt`. -/
def wordVcvt (ty : BitVec 3) (sty : BitVec 3) (va : BitVec 4) (mask : BitVec 2) (vd : BitVec 4) (sat : BitVec 1) : BitVec 32 :=
  10#5 ++ ty ++ 0#2 ++ sty ++ va ++ 0#1 ++ mask ++ vd ++ sat ++ 91#7
/-- The word of `vrcp`. -/
def wordVrcp (ty : BitVec 3) (va : BitVec 4) (mask : BitVec 2) (vd : BitVec 4) : BitVec 32 :=
  11#5 ++ ty ++ 0#4 ++ 0#1 ++ va ++ 0#1 ++ mask ++ vd ++ 0#1 ++ 91#7
/-- The word of `vrsq`. -/
def wordVrsq (ty : BitVec 3) (va : BitVec 4) (mask : BitVec 2) (vd : BitVec 4) : BitVec 32 :=
  12#5 ++ ty ++ 0#4 ++ 0#1 ++ va ++ 0#1 ++ mask ++ vd ++ 0#1 ++ 91#7
/-- The word of `vexp2`. -/
def wordVexp2 (ty : BitVec 3) (va : BitVec 4) (mask : BitVec 2) (vd : BitVec 4) : BitVec 32 :=
  13#5 ++ ty ++ 0#4 ++ 0#1 ++ va ++ 0#1 ++ mask ++ vd ++ 0#1 ++ 91#7
/-- The word of `vred.sum`. -/
def wordVredSum (ty : BitVec 3) (va : BitVec 4) (mask : BitVec 2) (vd : BitVec 4) (sat : BitVec 1) : BitVec 32 :=
  14#5 ++ ty ++ 0#4 ++ 0#1 ++ va ++ 0#1 ++ mask ++ vd ++ sat ++ 91#7
/-- The word of `vred.max`. -/
def wordVredMax (ty : BitVec 3) (va : BitVec 4) (mask : BitVec 2) (vd : BitVec 4) : BitVec 32 :=
  15#5 ++ ty ++ 0#4 ++ 0#1 ++ va ++ 0#1 ++ mask ++ vd ++ 0#1 ++ 91#7
/-- The word of `vred.min`. -/
def wordVredMin (ty : BitVec 3) (va : BitVec 4) (mask : BitVec 2) (vd : BitVec 4) : BitVec 32 :=
  16#5 ++ ty ++ 0#4 ++ 0#1 ++ va ++ 0#1 ++ mask ++ vd ++ 0#1 ++ 91#7
/-- The word of `vcmp.eq`. -/
def wordVcmpEq (ty : BitVec 3) (src2 : BitVec 5) (va : BitVec 4) (sx : BitVec 1) (mask : BitVec 2) (kd : BitVec 2) : BitVec 32 :=
  17#5 ++ ty ++ src2 ++ va ++ sx ++ mask ++ 0#2 ++ kd ++ 0#1 ++ 91#7
/-- The word of `vcmp.lt`. -/
def wordVcmpLt (ty : BitVec 3) (src2 : BitVec 5) (va : BitVec 4) (sx : BitVec 1) (mask : BitVec 2) (kd : BitVec 2) : BitVec 32 :=
  18#5 ++ ty ++ src2 ++ va ++ sx ++ mask ++ 0#2 ++ kd ++ 0#1 ++ 91#7
/-- The word of `vcmp.le`. -/
def wordVcmpLe (ty : BitVec 3) (src2 : BitVec 5) (va : BitVec 4) (sx : BitVec 1) (mask : BitVec 2) (kd : BitVec 2) : BitVec 32 :=
  19#5 ++ ty ++ src2 ++ va ++ sx ++ mask ++ 0#2 ++ kd ++ 0#1 ++ 91#7
/-- The word of `vsel`. -/
def wordVsel (ty : BitVec 3) (src2 : BitVec 5) (va : BitVec 4) (sx : BitVec 1) (mask : BitVec 2) (vd : BitVec 4) : BitVec 32 :=
  20#5 ++ ty ++ src2 ++ va ++ sx ++ mask ++ vd ++ 0#1 ++ 91#7
/-- The word of `vand`. -/
def wordVand (ty : BitVec 3) (src2 : BitVec 5) (va : BitVec 4) (sx : BitVec 1) (mask : BitVec 2) (vd : BitVec 4) : BitVec 32 :=
  21#5 ++ ty ++ src2 ++ va ++ sx ++ mask ++ vd ++ 0#1 ++ 91#7
/-- The word of `vor`. -/
def wordVor (ty : BitVec 3) (src2 : BitVec 5) (va : BitVec 4) (sx : BitVec 1) (mask : BitVec 2) (vd : BitVec 4) : BitVec 32 :=
  22#5 ++ ty ++ src2 ++ va ++ sx ++ mask ++ vd ++ 0#1 ++ 91#7
/-- The word of `vxor`. -/
def wordVxor (ty : BitVec 3) (src2 : BitVec 5) (va : BitVec 4) (sx : BitVec 1) (mask : BitVec 2) (vd : BitVec 4) : BitVec 32 :=
  23#5 ++ ty ++ src2 ++ va ++ sx ++ mask ++ vd ++ 0#1 ++ 91#7
/-- The word of `vshl`. -/
def wordVshl (ty : BitVec 3) (src2 : BitVec 5) (va : BitVec 4) (sx : BitVec 1) (mask : BitVec 2) (vd : BitVec 4) (sat : BitVec 1) : BitVec 32 :=
  24#5 ++ ty ++ src2 ++ va ++ sx ++ mask ++ vd ++ sat ++ 91#7
/-- The word of `vshr`. -/
def wordVshr (ty : BitVec 3) (src2 : BitVec 5) (va : BitVec 4) (sx : BitVec 1) (mask : BitVec 2) (vd : BitVec 4) (sat : BitVec 1) : BitVec 32 :=
  25#5 ++ ty ++ src2 ++ va ++ sx ++ mask ++ vd ++ sat ++ 91#7
/-- The word of `vmov`. -/
def wordVmov (ty : BitVec 3) (va : BitVec 4) (mask : BitVec 2) (vd : BitVec 4) : BitVec 32 :=
  26#5 ++ ty ++ 0#4 ++ 0#1 ++ va ++ 0#1 ++ mask ++ vd ++ 0#1 ++ 91#7
/-- The word of `vsplat`. -/
def wordVsplat (imm : BitVec 16) (ty : BitVec 3) (vd : BitVec 4) : BitVec 32 :=
  imm ++ ty ++ vd ++ 0#2 ++ 123#7
/-- The word of `vaddi`. -/
def wordVaddi (imm : BitVec 16) (ty : BitVec 3) (vd : BitVec 4) : BitVec 32 :=
  imm ++ ty ++ vd ++ 1#2 ++ 123#7
/-- The word of `vmuli`. -/
def wordVmuli (imm : BitVec 16) (ty : BitVec 3) (vd : BitVec 4) : BitVec 32 :=
  imm ++ ty ++ vd ++ 2#2 ++ 123#7
/-- The word of `vmaxi`. -/
def wordVmaxi (imm : BitVec 16) (ty : BitVec 3) (vd : BitVec 4) : BitVec 32 :=
  imm ++ ty ++ vd ++ 3#2 ++ 123#7
/-- The word of `send`. -/
def wordSend (rd : BitVec 5) (rs1 : BitVec 5) (rs2 : BitVec 5) : BitVec 32 :=
  0#7 ++ rs2 ++ rs1 ++ 0#3 ++ rd ++ 43#7
/-- The word of `sendb`. -/
def wordSendb (rd : BitVec 5) (xs : BitVec 3) : BitVec 32 :=
  1#7 ++ 0#5 ++ xs ++ 0#2 ++ 0#3 ++ rd ++ 43#7
/-- The word of `decr`. -/
def wordDecr (rd : BitVec 5) (rs1 : BitVec 5) (rs2 : BitVec 5) : BitVec 32 :=
  2#7 ++ rs2 ++ rs1 ++ 0#3 ++ rd ++ 43#7
/-- The word of `carry`. -/
def wordCarry (rd : BitVec 5) (xs : BitVec 3) : BitVec 32 :=
  3#7 ++ 0#5 ++ xs ++ 0#2 ++ 0#3 ++ rd ++ 43#7
/-- The word of `mpop`. -/
def wordMpop (rd : BitVec 5) : BitVec 32 :=
  4#7 ++ 0#5 ++ 0#5 ++ 0#3 ++ rd ++ 43#7
/-- The word of `mpeek`. -/
def wordMpeek (rd : BitVec 5) : BitVec 32 :=
  5#7 ++ 0#5 ++ 0#5 ++ 0#3 ++ rd ++ 43#7
/-- The word of `mdrop`. -/
def wordMdrop : BitVec 32 :=
  6#7 ++ 0#5 ++ 0#5 ++ 0#3 ++ 0#5 ++ 43#7
/-- The word of `done`. -/
def wordDone : BitVec 32 :=
  7#7 ++ 0#5 ++ 0#5 ++ 0#3 ++ 0#5 ++ 43#7
/-- The word of `wait`. -/
def wordWait (rs1 : BitVec 5) : BitVec 32 :=
  8#7 ++ 0#5 ++ rs1 ++ 0#3 ++ 0#5 ++ 43#7
/-- The word of `bank`. -/
def wordBank : BitVec 32 :=
  9#7 ++ 0#5 ++ 0#5 ++ 0#3 ++ 0#5 ++ 43#7
/-- The word of `pin`. -/
def wordPin (rs1 : BitVec 5) : BitVec 32 :=
  10#7 ++ 0#5 ++ rs1 ++ 0#3 ++ 0#5 ++ 43#7
/-- The word of `spawn`. -/
def wordSpawn (rd : BitVec 5) (xs : BitVec 3) : BitVec 32 :=
  0#7 ++ 0#5 ++ xs ++ 0#2 ++ 1#3 ++ rd ++ 43#7
/-- The word of `lwait`. -/
def wordLwait (rd : BitVec 5) (rs1 : BitVec 5) (rs2 : BitVec 5) : BitVec 32 :=
  1#7 ++ rs2 ++ rs1 ++ 1#3 ++ rd ++ 43#7
/-- The word of `shpush`. -/
def wordShpush (rd : BitVec 5) (xs : BitVec 3) : BitVec 32 :=
  2#7 ++ 0#5 ++ xs ++ 0#2 ++ 1#3 ++ rd ++ 43#7
/-- The word of `cpost`. -/
def wordCpost (rd : BitVec 5) (xs : BitVec 3) : BitVec 32 :=
  4#7 ++ 0#5 ++ xs ++ 0#2 ++ 1#3 ++ rd ++ 43#7
/-- The word of `cpost.nb`. -/
def wordCpostNb (rd : BitVec 5) (xs : BitVec 3) : BitVec 32 :=
  5#7 ++ 0#5 ++ xs ++ 0#2 ++ 1#3 ++ rd ++ 43#7
/-- The word of `cstat`. -/
def wordCstat (rd : BitVec 5) (rs1 : BitVec 5) : BitVec 32 :=
  6#7 ++ 0#5 ++ rs1 ++ 1#3 ++ rd ++ 43#7
/-- The word of `tcfg`. -/
def wordTcfg (md : BitVec 5) (rs1 : BitVec 5) : BitVec 32 :=
  0#7 ++ 0#5 ++ rs1 ++ 2#3 ++ md ++ 43#7
/-- The word of `mzero`. -/
def wordMzero (md : BitVec 5) : BitVec 32 :=
  1#7 ++ 0#5 ++ 0#5 ++ 2#3 ++ md ++ 43#7
/-- The word of `mload`. -/
def wordMload (md : BitVec 5) (rs1 : BitVec 5) : BitVec 32 :=
  2#7 ++ 0#5 ++ rs1 ++ 2#3 ++ md ++ 43#7
/-- The word of `mma`. -/
def wordMma (md : BitVec 5) (rs1 : BitVec 5) (rs2 : BitVec 5) : BitVec 32 :=
  3#7 ++ rs2 ++ rs1 ++ 2#3 ++ md ++ 43#7
/-- The word of `mmag`. -/
def wordMmag (md : BitVec 5) (rs1 : BitVec 5) (rs2 : BitVec 5) : BitVec 32 :=
  4#7 ++ rs2 ++ rs1 ++ 2#3 ++ md ++ 43#7
/-- The word of `mgang`. -/
def wordMgang : BitVec 32 :=
  5#7 ++ 0#5 ++ 0#5 ++ 2#3 ++ 0#5 ++ 43#7
/-- The word of `mdrain`. -/
def wordMdrain (md : BitVec 5) (rs1 : BitVec 5) (rs2 : BitVec 5) : BitVec 32 :=
  6#7 ++ rs2 ++ rs1 ++ 2#3 ++ md ++ 43#7
/-- The word of `msync`. -/
def wordMsync : BitVec 32 :=
  7#7 ++ 0#5 ++ 0#5 ++ 2#3 ++ 0#5 ++ 43#7
/-- The word of `mchk`. -/
def wordMchk (rd : BitVec 5) (ms : BitVec 5) : BitVec 32 :=
  8#7 ++ 0#5 ++ ms ++ 2#3 ++ rd ++ 43#7
/-- The word of `dkl`. -/
def wordDkl (rd : BitVec 5) (rs1 : BitVec 5) (rs2 : BitVec 5) : BitVec 32 :=
  9#7 ++ rs2 ++ rs1 ++ 2#3 ++ rd ++ 43#7
/-- The word of `selld`. -/
def wordSelld (rs1 : BitVec 5) : BitVec 32 :=
  0#7 ++ 0#5 ++ rs1 ++ 3#3 ++ 0#5 ++ 43#7
/-- The word of `selstep`. -/
def wordSelstep (rd : BitVec 5) : BitVec 32 :=
  1#7 ++ 0#5 ++ 0#5 ++ 3#3 ++ rd ++ 43#7
/-- The word of `selcut`. -/
def wordSelcut (rs1 : BitVec 5) : BitVec 32 :=
  2#7 ++ 0#5 ++ rs1 ++ 3#3 ++ 0#5 ++ 43#7
/-- The word of `selrun`. -/
def wordSelrun (rd : BitVec 5) (rs1 : BitVec 5) (rs2 : BitVec 5) : BitVec 32 :=
  3#7 ++ rs2 ++ rs1 ++ 3#3 ++ rd ++ 43#7
/-- The word of `selget`. -/
def wordSelget (rd : BitVec 5) (rs1 : BitVec 5) : BitVec 32 :=
  4#7 ++ 0#5 ++ rs1 ++ 3#3 ++ rd ++ 43#7
/-- The word of `seqmap`. -/
def wordSeqmap (rs1 : BitVec 5) (rs2 : BitVec 5) : BitVec 32 :=
  0#7 ++ rs2 ++ rs1 ++ 4#3 ++ 0#5 ++ 43#7
/-- The word of `steer`. -/
def wordSteer (rs1 : BitVec 5) (rs2 : BitVec 5) : BitVec 32 :=
  1#7 ++ rs2 ++ rs1 ++ 4#3 ++ 0#5 ++ 43#7
/-- The word of `taprd`. -/
def wordTaprd (rd : BitVec 5) (rs1 : BitVec 5) : BitVec 32 :=
  2#7 ++ 0#5 ++ rs1 ++ 4#3 ++ rd ++ 43#7
/-- The word of `xret`. -/
def wordXret : BitVec 32 :=
  0#7 ++ 0#5 ++ 0#5 ++ 5#3 ++ 0#5 ++ 43#7
/-- The word of `park`. -/
def wordPark : BitVec 32 :=
  1#7 ++ 0#5 ++ 0#5 ++ 5#3 ++ 0#5 ++ 43#7
/-- The word of `atinv`. -/
def wordAtinv (rs1 : BitVec 5) (rs2 : BitVec 5) : BitVec 32 :=
  2#7 ++ rs2 ++ rs1 ++ 5#3 ++ 0#5 ++ 43#7
/-- The word of `atprobe`. -/
def wordAtprobe (rd : BitVec 5) (rs1 : BitVec 5) : BitVec 32 :=
  3#7 ++ 0#5 ++ rs1 ++ 5#3 ++ rd ++ 43#7
/-- The word of `hint`. -/
def wordHintPoint (hint : BitVec 17) : BitVec 32 :=
  hint ++ 6#3 ++ 0#5 ++ 43#7
/-- The word of an instruction, from the encoding tables; none for a row without an encoding. -/
def encode : Instr → Option (BitVec 32)
  | .lui rd imm => some (wordLui rd imm)
  | .auipc rd imm => some (wordAuipc rd imm)
  | .jal rd off => some (wordJal rd off)
  | .jalr rd rs1 imm => some (wordJalr rd rs1 imm)
  | .beq rs1 rs2 off => some (wordBeq rs1 rs2 off)
  | .bne rs1 rs2 off => some (wordBne rs1 rs2 off)
  | .blt rs1 rs2 off => some (wordBlt rs1 rs2 off)
  | .bge rs1 rs2 off => some (wordBge rs1 rs2 off)
  | .bltu rs1 rs2 off => some (wordBltu rs1 rs2 off)
  | .bgeu rs1 rs2 off => some (wordBgeu rs1 rs2 off)
  | .lb rd rs1 imm => some (wordLb rd rs1 imm)
  | .lh rd rs1 imm => some (wordLh rd rs1 imm)
  | .lw rd rs1 imm => some (wordLw rd rs1 imm)
  | .ld rd rs1 imm => some (wordLd rd rs1 imm)
  | .lbu rd rs1 imm => some (wordLbu rd rs1 imm)
  | .lhu rd rs1 imm => some (wordLhu rd rs1 imm)
  | .lwu rd rs1 imm => some (wordLwu rd rs1 imm)
  | .sb rs2 rs1 imm => some (wordSb rs2 rs1 imm)
  | .sh rs2 rs1 imm => some (wordSh rs2 rs1 imm)
  | .sw rs2 rs1 imm => some (wordSw rs2 rs1 imm)
  | .sd rs2 rs1 imm => some (wordSd rs2 rs1 imm)
  | .addi rd rs1 imm => some (wordAddi rd rs1 imm)
  | .slti rd rs1 imm => some (wordSlti rd rs1 imm)
  | .sltiu rd rs1 imm => some (wordSltiu rd rs1 imm)
  | .xori rd rs1 imm => some (wordXori rd rs1 imm)
  | .ori rd rs1 imm => some (wordOri rd rs1 imm)
  | .andi rd rs1 imm => some (wordAndi rd rs1 imm)
  | .slli rd rs1 sh => some (wordSlli rd rs1 sh)
  | .srli rd rs1 sh => some (wordSrli rd rs1 sh)
  | .srai rd rs1 sh => some (wordSrai rd rs1 sh)
  | .add rd rs1 rs2 => some (wordAdd rd rs1 rs2)
  | .sll rd rs1 rs2 => some (wordSll rd rs1 rs2)
  | .slt rd rs1 rs2 => some (wordSlt rd rs1 rs2)
  | .sltu rd rs1 rs2 => some (wordSltu rd rs1 rs2)
  | .xor rd rs1 rs2 => some (wordXor rd rs1 rs2)
  | .srl rd rs1 rs2 => some (wordSrl rd rs1 rs2)
  | .or rd rs1 rs2 => some (wordOr rd rs1 rs2)
  | .and rd rs1 rs2 => some (wordAnd rd rs1 rs2)
  | .sub rd rs1 rs2 => some (wordSub rd rs1 rs2)
  | .sra rd rs1 rs2 => some (wordSra rd rs1 rs2)
  | .mul rd rs1 rs2 => some (wordMul rd rs1 rs2)
  | .mulh rd rs1 rs2 => some (wordMulh rd rs1 rs2)
  | .mulhsu rd rs1 rs2 => some (wordMulhsu rd rs1 rs2)
  | .mulhu rd rs1 rs2 => some (wordMulhu rd rs1 rs2)
  | .div rd rs1 rs2 => some (wordDiv rd rs1 rs2)
  | .divu rd rs1 rs2 => some (wordDivu rd rs1 rs2)
  | .rem rd rs1 rs2 => some (wordRem rd rs1 rs2)
  | .remu rd rs1 rs2 => some (wordRemu rd rs1 rs2)
  | .addiw rd rs1 imm => some (wordAddiw rd rs1 imm)
  | .slliw rd rs1 sh => some (wordSlliw rd rs1 sh)
  | .srliw rd rs1 sh => some (wordSrliw rd rs1 sh)
  | .sraiw rd rs1 sh => some (wordSraiw rd rs1 sh)
  | .addw rd rs1 rs2 => some (wordAddw rd rs1 rs2)
  | .subw rd rs1 rs2 => some (wordSubw rd rs1 rs2)
  | .sllw rd rs1 rs2 => some (wordSllw rd rs1 rs2)
  | .srlw rd rs1 rs2 => some (wordSrlw rd rs1 rs2)
  | .sraw rd rs1 rs2 => some (wordSraw rd rs1 rs2)
  | .mulw rd rs1 rs2 => some (wordMulw rd rs1 rs2)
  | .divw rd rs1 rs2 => some (wordDivw rd rs1 rs2)
  | .divuw rd rs1 rs2 => some (wordDivuw rd rs1 rs2)
  | .remw rd rs1 rs2 => some (wordRemw rd rs1 rs2)
  | .remuw rd rs1 rs2 => some (wordRemuw rd rs1 rs2)
  | .fence fm pred succ => some (wordFence fm pred succ)
  | .ecall  => some (wordEcall)
  | .ebreak  => some (wordEbreak)
  | .csrrw rd csr rs1 => some (wordCsrrw rd csr rs1)
  | .csrrs rd csr rs1 => some (wordCsrrs rd csr rs1)
  | .csrrc rd csr rs1 => some (wordCsrrc rd csr rs1)
  | .csrrwi rd csr uimm => some (wordCsrrwi rd csr uimm)
  | .csrrsi rd csr uimm => some (wordCsrrsi rd csr uimm)
  | .csrrci rd csr uimm => some (wordCsrrci rd csr uimm)
  | .faddS rd rs1 rs2 rm => some (wordFaddS rd rs1 rs2 rm)
  | .faddD rd rs1 rs2 rm => some (wordFaddD rd rs1 rs2 rm)
  | .fsubS rd rs1 rs2 rm => some (wordFsubS rd rs1 rs2 rm)
  | .fsubD rd rs1 rs2 rm => some (wordFsubD rd rs1 rs2 rm)
  | .fmulS rd rs1 rs2 rm => some (wordFmulS rd rs1 rs2 rm)
  | .fmulD rd rs1 rs2 rm => some (wordFmulD rd rs1 rs2 rm)
  | .fdivS rd rs1 rs2 rm => some (wordFdivS rd rs1 rs2 rm)
  | .fdivD rd rs1 rs2 rm => some (wordFdivD rd rs1 rs2 rm)
  | .fsqrtS rd rs1 rm => some (wordFsqrtS rd rs1 rm)
  | .fsqrtD rd rs1 rm => some (wordFsqrtD rd rs1 rm)
  | .fsgnjS rd rs1 rs2 => some (wordFsgnjS rd rs1 rs2)
  | .fsgnjD rd rs1 rs2 => some (wordFsgnjD rd rs1 rs2)
  | .fsgnjnS rd rs1 rs2 => some (wordFsgnjnS rd rs1 rs2)
  | .fsgnjnD rd rs1 rs2 => some (wordFsgnjnD rd rs1 rs2)
  | .fsgnjxS rd rs1 rs2 => some (wordFsgnjxS rd rs1 rs2)
  | .fsgnjxD rd rs1 rs2 => some (wordFsgnjxD rd rs1 rs2)
  | .fminS rd rs1 rs2 => some (wordFminS rd rs1 rs2)
  | .fminD rd rs1 rs2 => some (wordFminD rd rs1 rs2)
  | .fmaxS rd rs1 rs2 => some (wordFmaxS rd rs1 rs2)
  | .fmaxD rd rs1 rs2 => some (wordFmaxD rd rs1 rs2)
  | .fleS rd rs1 rs2 => some (wordFleS rd rs1 rs2)
  | .fleD rd rs1 rs2 => some (wordFleD rd rs1 rs2)
  | .fltS rd rs1 rs2 => some (wordFltS rd rs1 rs2)
  | .fltD rd rs1 rs2 => some (wordFltD rd rs1 rs2)
  | .feqS rd rs1 rs2 => some (wordFeqS rd rs1 rs2)
  | .feqD rd rs1 rs2 => some (wordFeqD rd rs1 rs2)
  | .fclassS rd rs1 => some (wordFclassS rd rs1)
  | .fclassD rd rs1 => some (wordFclassD rd rs1)
  | .fcvtWS rd rs1 rm => some (wordFcvtWS rd rs1 rm)
  | .fcvtWuS rd rs1 rm => some (wordFcvtWuS rd rs1 rm)
  | .fcvtLS rd rs1 rm => some (wordFcvtLS rd rs1 rm)
  | .fcvtLuS rd rs1 rm => some (wordFcvtLuS rd rs1 rm)
  | .fcvtWD rd rs1 rm => some (wordFcvtWD rd rs1 rm)
  | .fcvtWuD rd rs1 rm => some (wordFcvtWuD rd rs1 rm)
  | .fcvtLD rd rs1 rm => some (wordFcvtLD rd rs1 rm)
  | .fcvtLuD rd rs1 rm => some (wordFcvtLuD rd rs1 rm)
  | .fcvtSW rd rs1 rm => some (wordFcvtSW rd rs1 rm)
  | .fcvtSWu rd rs1 rm => some (wordFcvtSWu rd rs1 rm)
  | .fcvtSL rd rs1 rm => some (wordFcvtSL rd rs1 rm)
  | .fcvtSLu rd rs1 rm => some (wordFcvtSLu rd rs1 rm)
  | .fcvtDW rd rs1 rm => some (wordFcvtDW rd rs1 rm)
  | .fcvtDWu rd rs1 rm => some (wordFcvtDWu rd rs1 rm)
  | .fcvtDL rd rs1 rm => some (wordFcvtDL rd rs1 rm)
  | .fcvtDLu rd rs1 rm => some (wordFcvtDLu rd rs1 rm)
  | .fcvtSD rd rs1 rm => some (wordFcvtSD rd rs1 rm)
  | .fcvtDS rd rs1 rm => some (wordFcvtDS rd rs1 rm)
  | .fmaddS rd rs1 rs2 rs3 rm => some (wordFmaddS rd rs1 rs2 rs3 rm)
  | .fmaddD rd rs1 rs2 rs3 rm => some (wordFmaddD rd rs1 rs2 rs3 rm)
  | .fmsubS rd rs1 rs2 rs3 rm => some (wordFmsubS rd rs1 rs2 rs3 rm)
  | .fmsubD rd rs1 rs2 rs3 rm => some (wordFmsubD rd rs1 rs2 rs3 rm)
  | .fnmsubS rd rs1 rs2 rs3 rm => some (wordFnmsubS rd rs1 rs2 rs3 rm)
  | .fnmsubD rd rs1 rs2 rs3 rm => some (wordFnmsubD rd rs1 rs2 rs3 rm)
  | .fnmaddS rd rs1 rs2 rs3 rm => some (wordFnmaddS rd rs1 rs2 rs3 rm)
  | .fnmaddD rd rs1 rs2 rs3 rm => some (wordFnmaddD rd rs1 rs2 rs3 rm)
  | .cbase rd rs1 => some (wordCbase rd rs1)
  | .clen rd rs1 => some (wordClen rd rs1)
  | .cperm rd rs1 => some (wordCperm rd rs1)
  | .ctag rd rs1 => some (wordCtag rd rs1)
  | .cbnd rd rs1 rs2 => some (wordCbnd rd rs1 rs2)
  | .cbndx rd rs1 rs2 => some (wordCbndx rd rs1 rs2)
  | .cadd rd rs1 rs2 => some (wordCadd rd rs1 rs2)
  | .cset rd rs1 rs2 => some (wordCset rd rs1 rs2)
  | .candp rd rs1 rs2 => some (wordCandp rd rs1 rs2)
  | .cmv rd rs1 => some (wordCmv rd rs1)
  | .cclr rd rs1 => some (wordCclr rd rs1)
  | .csub rd rs1 rs2 => some (wordCsub rd rs1 rs2)
  | .cseal rd rs1 rs2 => some (wordCseal rd rs1 rs2)
  | .cunseal rd rs1 rs2 => some (wordCunseal rd rs1 rs2)
  | .caddi rd rs1 imm => some (wordCaddi rd rs1 imm)
  | .clc rd rs1 imm => some (wordClc rd rs1 imm)
  | .csc rs2 rs1 imm => some (wordCsc rs2 rs1 imm)
  | .lda rd rs1 sz sc => some (wordLda rd rs1 sz sc)
  | .stl rs1 rs2 sz sc => some (wordStl rs1 rs2 sz sc)
  | .fenceScoped sc => some (wordFenceScoped sc)
  | .taglk rd rs1 => some (wordTaglk rd rs1)
  | .tagins rd rs1 rs2 => some (wordTagins rd rs1 rs2)
  | .tagdel rs1 => some (wordTagdel rs1)
  | .tagpin rs1 => some (wordTagpin rs1)
  | .tagunpin rs1 => some (wordTagunpin rs1)
  | .cbinit bd rs1 => some (wordCbinit bd rs1)
  | .cbput bd => some (wordCbput bd)
  | .cbget rd bs => some (wordCbget rd bs)
  | .cbrel bd => some (wordCbrel bd)
  | .cbstat rd bs => some (wordCbstat rd bs)
  | .barinit rs1 rs2 => some (wordBarinit rs1 rs2)
  | .bararv rd rs1 rs2 => some (wordBararv rd rs1 rs2)
  | .bardrop rd rs1 => some (wordBardrop rd rs1)
  | .barwait rd rs1 rs2 => some (wordBarwait rd rs1 rs2)
  | .barrd rd rs1 => some (wordBarrd rd rs1)
  | .amoAddW rd rs1 rs2 => some (wordAmoAddW rd rs1 rs2)
  | .amoAddD rd rs1 rs2 => some (wordAmoAddD rd rs1 rs2)
  | .amoAddfW rd rs1 rs2 => some (wordAmoAddfW rd rs1 rs2)
  | .amoAddfD rd rs1 rs2 => some (wordAmoAddfD rd rs1 rs2)
  | .amoMinW rd rs1 rs2 => some (wordAmoMinW rd rs1 rs2)
  | .amoMinD rd rs1 rs2 => some (wordAmoMinD rd rs1 rs2)
  | .amoMaxW rd rs1 rs2 => some (wordAmoMaxW rd rs1 rs2)
  | .amoMaxD rd rs1 rs2 => some (wordAmoMaxD rd rs1 rs2)
  | .amoMinuW rd rs1 rs2 => some (wordAmoMinuW rd rs1 rs2)
  | .amoMinuD rd rs1 rs2 => some (wordAmoMinuD rd rs1 rs2)
  | .amoMaxuW rd rs1 rs2 => some (wordAmoMaxuW rd rs1 rs2)
  | .amoMaxuD rd rs1 rs2 => some (wordAmoMaxuD rd rs1 rs2)
  | .amoSwapW rd rs1 rs2 => some (wordAmoSwapW rd rs1 rs2)
  | .amoSwapD rd rs1 rs2 => some (wordAmoSwapD rd rs1 rs2)
  | .amoCasW rd rs1 rs2 => some (wordAmoCasW rd rs1 rs2)
  | .amoCasD rd rs1 rs2 => some (wordAmoCasD rd rs1 rs2)
  | .amoAndW rd rs1 rs2 => some (wordAmoAndW rd rs1 rs2)
  | .amoAndD rd rs1 rs2 => some (wordAmoAndD rd rs1 rs2)
  | .amoOrW rd rs1 rs2 => some (wordAmoOrW rd rs1 rs2)
  | .amoOrD rd rs1 rs2 => some (wordAmoOrD rd rs1 rs2)
  | .amoXorW rd rs1 rs2 => some (wordAmoXorW rd rs1 rs2)
  | .amoXorD rd rs1 rs2 => some (wordAmoXorD rd rs1 rs2)
  | .mon rs1 => some (wordMon rs1)
  | .monw rd rs1 => some (wordMonw rd rs1)
  | .bmov rd rs1 rs2 => some (wordBmov rd rs1 rs2)
  | .bfill rd rs1 rs2 => some (wordBfill rd rs1 rs2)
  | .rep rs1 => some (wordRep rs1)
  | .rgn xs => some (wordRgn xs)
  | .wbind wd rs1 => some (wordWbind wd rs1)
  | .wstat rd ws => some (wordWstat rd ws)
  | .wdrain wd => some (wordWdrain wd)
  | .wunbind wd => some (wordWunbind wd)
  | .vadd ty src2 va sx mask vd sat => some (wordVadd ty src2 va sx mask vd sat)
  | .vsub ty src2 va sx mask vd sat => some (wordVsub ty src2 va sx mask vd sat)
  | .vmul ty src2 va sx mask vd sat => some (wordVmul ty src2 va sx mask vd sat)
  | .vfma ty src2 va sx mask vd sat => some (wordVfma ty src2 va sx mask vd sat)
  | .vfms ty src2 va sx mask vd sat => some (wordVfms ty src2 va sx mask vd sat)
  | .vmax ty src2 va sx mask vd => some (wordVmax ty src2 va sx mask vd)
  | .vmin ty src2 va sx mask vd => some (wordVmin ty src2 va sx mask vd)
  | .vabs ty va mask vd sat => some (wordVabs ty va mask vd sat)
  | .vneg ty va mask vd sat => some (wordVneg ty va mask vd sat)
  | .vclamp ty src2 va sx mask vd => some (wordVclamp ty src2 va sx mask vd)
  | .vcvt ty sty va mask vd sat => some (wordVcvt ty sty va mask vd sat)
  | .vrcp ty va mask vd => some (wordVrcp ty va mask vd)
  | .vrsq ty va mask vd => some (wordVrsq ty va mask vd)
  | .vexp2 ty va mask vd => some (wordVexp2 ty va mask vd)
  | .vredSum ty va mask vd sat => some (wordVredSum ty va mask vd sat)
  | .vredMax ty va mask vd => some (wordVredMax ty va mask vd)
  | .vredMin ty va mask vd => some (wordVredMin ty va mask vd)
  | .vcmpEq ty src2 va sx mask kd => some (wordVcmpEq ty src2 va sx mask kd)
  | .vcmpLt ty src2 va sx mask kd => some (wordVcmpLt ty src2 va sx mask kd)
  | .vcmpLe ty src2 va sx mask kd => some (wordVcmpLe ty src2 va sx mask kd)
  | .vsel ty src2 va sx mask vd => some (wordVsel ty src2 va sx mask vd)
  | .vand ty src2 va sx mask vd => some (wordVand ty src2 va sx mask vd)
  | .vor ty src2 va sx mask vd => some (wordVor ty src2 va sx mask vd)
  | .vxor ty src2 va sx mask vd => some (wordVxor ty src2 va sx mask vd)
  | .vshl ty src2 va sx mask vd sat => some (wordVshl ty src2 va sx mask vd sat)
  | .vshr ty src2 va sx mask vd sat => some (wordVshr ty src2 va sx mask vd sat)
  | .vmov ty va mask vd => some (wordVmov ty va mask vd)
  | .vsplat imm ty vd => some (wordVsplat imm ty vd)
  | .vaddi imm ty vd => some (wordVaddi imm ty vd)
  | .vmuli imm ty vd => some (wordVmuli imm ty vd)
  | .vmaxi imm ty vd => some (wordVmaxi imm ty vd)
  | .send rd rs1 rs2 => some (wordSend rd rs1 rs2)
  | .sendb rd xs => some (wordSendb rd xs)
  | .decr rd rs1 rs2 => some (wordDecr rd rs1 rs2)
  | .carry rd xs => some (wordCarry rd xs)
  | .mpop rd => some (wordMpop rd)
  | .mpeek rd => some (wordMpeek rd)
  | .mdrop  => some (wordMdrop)
  | .done  => some (wordDone)
  | .wait rs1 => some (wordWait rs1)
  | .bank  => some (wordBank)
  | .pin rs1 => some (wordPin rs1)
  | .spawn rd xs => some (wordSpawn rd xs)
  | .lwait rd rs1 rs2 => some (wordLwait rd rs1 rs2)
  | .shpush rd xs => some (wordShpush rd xs)
  | .cpost rd xs => some (wordCpost rd xs)
  | .cpostNb rd xs => some (wordCpostNb rd xs)
  | .cstat rd rs1 => some (wordCstat rd rs1)
  | .tcfg md rs1 => some (wordTcfg md rs1)
  | .mzero md => some (wordMzero md)
  | .mload md rs1 => some (wordMload md rs1)
  | .mma md rs1 rs2 => some (wordMma md rs1 rs2)
  | .mmag md rs1 rs2 => some (wordMmag md rs1 rs2)
  | .mgang  => some (wordMgang)
  | .mdrain md rs1 rs2 => some (wordMdrain md rs1 rs2)
  | .msync  => some (wordMsync)
  | .mchk rd ms => some (wordMchk rd ms)
  | .dkl rd rs1 rs2 => some (wordDkl rd rs1 rs2)
  | .selld rs1 => some (wordSelld rs1)
  | .selstep rd => some (wordSelstep rd)
  | .selcut rs1 => some (wordSelcut rs1)
  | .selrun rd rs1 rs2 => some (wordSelrun rd rs1 rs2)
  | .selget rd rs1 => some (wordSelget rd rs1)
  | .seqmap rs1 rs2 => some (wordSeqmap rs1 rs2)
  | .steer rs1 rs2 => some (wordSteer rs1 rs2)
  | .taprd rd rs1 => some (wordTaprd rd rs1)
  | .xret  => some (wordXret)
  | .park  => some (wordPark)
  | .atinv rs1 rs2 => some (wordAtinv rs1 rs2)
  | .atprobe rd rs1 => some (wordAtprobe rd rs1)
  | .hintPoint hint => some (wordHintPoint hint)
  | .preempt _ => none
  | .resumeCore _ => none
  | .retry _ => none
  | .abandon _ => none
  | .move _ => none
  | .unpin _ => none
  | .clearFaultedMark _ => none
  | .setreg _ => none
  | .sltgoRequest _ _ _ => none
  | .slotTableInstall _ => none
  | .stareaWrite _ _ _ => none
  | .spqWrite _ _ _ => none
  | .qovfWrite _ _ _ => none
  | .tapArm _ _ _ => none
  | .tapDisarm _ _ _ => none
  | .tapTablePointerWrite _ _ _ => none
  | .registerWrite _ _ _ => none
  | .drain _ => none
  | .carryDelivery _ _ _ => none
  | .deliver _ => none
  | .ownerAmo _ => none
  | .carriedCodeRun _ => none
  | .barrierInitOp _ => none
  | .barrierArriveOp _ => none
  | .barrierWaitOp _ => none
  | .barrierCancel _ => none
  | .barrierReadOp _ => none
  | .replyDelivery _ => none
  | .barwaitTimeout _ => none
  | .monwTimeout _ => none
  | .cbputEffect _ => none
  | .streamWindowFill _ _ => none
  | .homeMessageArrival _ _ => none
  | .kindleHostRetry _ _ _ => none
  | .kindleStateInPlace _ _ => none
  | .bankIntent _ _ => none
  | .bankOrder _ => none
  | .shipOrder _ => none
  | .imageWritten _ _ => none
  | .bankRefused _ _ => none
  | .moveStateInPlace _ => none
  | .addrHomeHandover _ _ => none
  | .handoverMarker _ _ => none
  | .decrementApply _ => none
  | .contextPick _ _ => none
  | .firingEnd _ _ => none
  | .stealServe _ _ => none
  | .stealBackoffExpiry _ _ => none
  | .quireRefill _ => none
  | .launchExpansionStart _ => none
  | .launchItem _ => none
  | .launchSweep _ => none
  | .gangReserve _ => none
  | .gangStart _ _ => none
  | .gangStartDelivery _ => none
  | .gangRelease _ _ => none
  | .probeTokenSend _ => none
  | .probeTokenForward _ => none
  | .emergencyEntry _ => none
  | .spillRedelivery _ => none
  | .journalAppend _ => none
  | .requestAccept _ => none
  | .copyRead _ _ => none
  | .copyWrite _ _ => none
  | .reduceElement _ _ => none
  | .orderedReduceApply _ _ => none
  | .cbfillSlotPut _ _ => none
  | .stamp _ _ => none
  | .wrenqEnqueue _ _ => none
  | .notify _ _ => none
  | .matrixOpStart _ => none
  | .matrixOpRetire _ _ => none
  | .gangOpStart _ _ => none
  | .selectionEngineGrant _ _ => none
  | .pageWalk _ => none
  | .long _ => none
  | .short _ => none
  | .rereq _ => none
  | .msg _ => none
  | .sweep _ => none
  | .ack _ => none
  | .doneResponse _ => none
  | .rdata _ => none
  | .fwd _ => none
  | .drop _ => none
  | .mack _ => none
  | .grant _ => none
  | .revoke _ => none
  | .resume _ => none
  | .setaside _ => none
  | .clear _ => none
  | .data _ => none
  | .damperGrant _ => none
  | .tokenExpiry _ => none
  | .rereqTimeout _ _ => none
  | .prefixTrackerTimeout _ => none
  | .damperSave _ _ => none
  | .damperRestore _ _ => none
  | .switchSetAside _ _ _ => none
  | .switchClear _ _ _ => none
  | .switchCombine _ => none
  | .flitCrcFail _ _ => none
  | .linkFailure _ _ => none
  | .uncorrectableError _ => none
  | .correctedErrorThreshold _ => none
  | .heartbeatTimeout _ => none
  | .dieFailure _ => none
  | .hostMessageWrite _ _ _ => none
  | .hostMemoryAccess _ _ _ => none
  | .attestationRequest _ => none
  | .attestationReportReady  => none
  | .powerOn  => none
  | .clusterWaveStart _ => none
  | .powerLimitSet _ => none
  | .powerLimitEngage  => none
  | .illegalInstruction _ => none
  | .instructionFetchFault _ _ => none
  | .combinedDoneSplit _ => none
  | .portUp _ _ => none
  | .unitStart  => none
  | .powerDown  => none

end Sys2Proof
end

