-- ==== Sys2Proof/Config.lean ====
section
/-! DEFINITION. What an implementation fixes and the spec leaves open: constants without a body, so that no
proof sees what they are, and functions of standards that the spec names. -/

namespace Sys2Proof.Config

/-- A fresh value where the spec leaves a value open, for the `n`-th such occasion (DESIGN CHOICE, log 7). -/
opaque freeValue : Nat → BitVec 64

/-- The translation entry that a full TLB replaces (23/R380 names no order; DESIGN CHOICE, log 8). -/
opaque tlbVictim : Nat → Nat

/-- The ML-DSA-44 public key of a 32-byte seed (23/R393, FIPS 204; DESIGN CHOICE, log 9). -/
opaque mldsaPublicKey : BitVec 256 → List (BitVec 8)

/-- The ML-DSA-44 signature of a byte string under the key of a seed (23/R393, FIPS 204; DESIGN CHOICE, log 9). -/
opaque mldsaSign : BitVec 256 → List (BitVec 8) → List (BitVec 8)

/-- Whether a signature over a byte string verifies under an ML-DSA-44 public key (23/R392; DESIGN CHOICE, log 9). -/
opaque mldsaVerify : List (BitVec 8) → List (BitVec 8) → List (BitVec 8) → Bool

/-- The fused 32-byte seed of the device (23/R393). -/
opaque fusedSeed : BitVec 256

/-- The fused root digest (23/R392). -/
opaque fusedRootDigest : BitVec 256

/-- The fused minimum version (23/R392). -/
opaque fusedMinVersion : Nat

/-- The flits of one class that a switch output port holds at most beyond the reserve of R347 (21/R351 speaks of half of its
entries and gives no number; DESIGN CHOICE, log 27). -/
opaque switchEntries : Nat → Nat

/-- The entries beyond the first of the wait buffer of a switch output port (21/R352 gives no number; DESIGN CHOICE, log 27). -/
opaque waitEntries : Nat → Nat

/-- The images beyond the first that the copy log of a die holds (23/R390 gives no number; DESIGN CHOICE, log 107). -/
opaque copyLogEntries : Nat → Nat

/-- The bytes that the staging area of a die for ordered reductions holds (09/R202: an area that the supervisor assigns, by
no register that the spec names; DESIGN CHOICE, log 36). -/
opaque stagingBytes : Nat → Nat

/-- The device-physical address at which mask ROM places an accepted image on a die, and so the pc that
the die's supervisor core 0 starts at (23/R392 fixes neither; DESIGN CHOICE, log 10). -/
opaque firmwareBase : Nat → BitVec 64

end Sys2Proof.Config
end

