-- ==== Sys2Proof/Machine/Map.lean ====
section
/-! DEFINITION. Sparse tables by key, and memory as a list of cells in one canonical form. -/

namespace Sys2Proof.Machine

/-- A sparse table: key and value pairs with the keys rising. -/
abbrev Map (α : Type) := List (Nat × α)

/-- The value under a key, where one is listed. -/
def Map.find {α : Type} : Map α → Nat → Option α
  | [], _ => none
  | (k, v) :: m, i => if k = i then some v else Map.find m i

/-- The value under a key, `d` where none is listed. -/
def Map.getD {α : Type} (m : Map α) (i : Nat) (d : α) : α :=
  match m.find i with
  | some v => v
  | none => d

/-- The table with `v` under key `i`. -/
def Map.put {α : Type} : Map α → Nat → α → Map α
  | [], i, v => [(i, v)]
  | (k, w) :: m, i, v =>
    if i < k then (i, v) :: (k, w) :: m
    else if i = k then (i, v) :: m
    else (k, w) :: Map.put m i v

/-- The table with nothing under key `i`. -/
def Map.drop {α : Type} : Map α → Nat → Map α
  | [], _ => []
  | (k, w) :: m, i => if k = i then Map.drop m i else (k, w) :: Map.drop m i

/-- Memory: cells with rising addresses, none holding what an unlisted address reads as. -/
abbrev Memory := List Host.Cell

/-- What an address that no cell lists reads as (DESIGN CHOICE, log 2). -/
def Memory.unlisted : Byte := 0#8

/-- One byte of memory. -/
def Memory.read : Memory → Nat → Byte
  | [], _ => Memory.unlisted
  | (k, v) :: m, i => if k = i then v else Memory.read m i

/-- Memory with one byte written; writing the unlisted value removes the cell. -/
def Memory.write : Memory → Nat → Byte → Memory
  | [], i, v => if v = Memory.unlisted then [] else [(i, v)]
  | (k, w) :: m, i, v =>
    if i < k then (if v = Memory.unlisted then (k, w) :: m else (i, v) :: (k, w) :: m)
    else if i = k then (if v = Memory.unlisted then m else (i, v) :: m)
    else (k, w) :: Memory.write m i v

/-- Every address of the list is above `lo`, and they rise. -/
def Memory.above : Option Nat → Memory → Bool
  | _, [] => true
  | lo, (k, v) :: m =>
    (match lo with
      | none => true
      | some l => l < k) && v != Memory.unlisted && Memory.above (some k) m

/-- The canonical form: addresses strictly rising, no cell holding the unlisted value. -/
def Memory.wf (m : Memory) : Bool := Memory.above none m

end Sys2Proof.Machine
end

