-- ==== Sys2Proof/Machine/State.lean ====
section
/-! DEFINITION. The state of the LY7-A16: plain data, holding every piece of state that the spec gives the
machine (INVENTORY.md lists it with the rules that name it). Fields marked MODEL are the model's own. A field's
default is its value at start-up; where the spec gives none, the value is the model's (DESIGN CHOICE, log 3). -/

namespace Sys2Proof.Machine

/-! ## Messages, sheets and owner operations -/

/-- A message (R206): partition, class, key, header (R207) and 48-byte payload. -/
structure Message where
  part : BitVec 8 := 0
  cls : BitVec 16 := 0
  key : BitVec 64 := 0
  hdr : BitVec 64 := 0
  pay : BitVec 384 := 0
  /-- held by a core's reserve entry (R244) -/
  reserve : Bool := false
  /-- MODEL: its place in the order of arrival at its host -/
  arrived : Nat := 0
  /-- the launch record and item it is: die, record, index (R231) -/
  item : Option (Nat × Nat × Nat) := none
  /-- MODEL: the journalled actor whose firing sent it, until its home has it (R389) -/
  sender : Option (BitVec 8 × BitVec 16 × BitVec 64) := none
  /-- MODEL: its journal entry is installed (R389) -/
  journalled : Bool := false
  /-- MODEL: while its home has it, the core it was pushed at and the writes that its release names (R39, R177) -/
  origin : Nat := 0
  prior : Map Nat := []
  deriving DecidableEq, Repr

/-- A point in a party's program order at which it releases (R177): the stores issued before it. The
snapshot is the writes its view held when the last of them drained, once that has happened. -/
structure Release where
  party : Nat := 0
  point : Nat := 0
  scope : BitVec 3 := 0
  snap : Option (Map Nat) := none
  /-- its firing is saved (R247): the number by which a resumption finds it (MODEL), while `point` counts the stores that
  the saved access half holds -/
  saved : Option Nat := none
  deriving DecidableEq, Repr

/-- A resume record (R156). -/
structure Resume where
  rpc : BitVec 64 := 0
  rxs : BitVec 5 := 0
  rva : BitVec 64 := 0
  rvb : BitVec 64 := 0
  rvc : BitVec 64 := 0
  rvd : BitVec 64 := 0
  deriving DecidableEq, Repr

/-- A sheet (R45) of a partition with its resume record (R156). -/
structure Sheet where
  part : BitVec 8 := 0
  d0 : BitVec 64 := 0
  d1 : BitVec 64 := 0
  d2 : BitVec 64 := 0
  d3 : BitVec 64 := 0
  resume : Resume := {}
  item : Option (Nat × Nat × Nat) := none
  deriving DecidableEq, Repr

/-- The operations that travel to an owner (R180, R189 to R193, R212). -/
inductive OpKind where
  | amo (oooo : BitVec 4)
  | barinit | bararv | bardrop | barwait | barcancel | barrd
  | carry
  deriving DecidableEq, Repr

/-- An owner operation in flight or at its owner's inbox. -/
structure Op where
  kind : OpKind
  /-- the issuing party, and the number by which its reply finds it (MODEL) -/
  issuer : Nat := 0
  id : Nat := 0
  reply : Bool := false
  /-- the operand's address as issued and its place, the owner core's key, the size in bytes -/
  va : Nat := 0
  addr : Nat := 0
  owner : Nat := 0
  size : Nat := 8
  v : BitVec 64 := 0
  e : BitVec 64 := 0
  /-- the carry payload: six words, two arguments and p (R212) -/
  pay : BitVec 384 := 0
  part : BitVec 8 := 0
  ltag : BitVec 12 := 0
  depth : BitVec 4 := 0
  /-- the issue is a supervisor core's -/
  sup : Bool := false
  rel : Release := {}
  /-- held by a core's reserve entry (R244) -/
  reserve : Bool := false
  deriving DecidableEq, Repr

/-- Where a routed message goes: a home cluster (device, die, cluster; R26), or the core of a device that a supervisor
command names (R375). -/
inductive Dest where
  | home (dev die clu : Nat)
  | command (dev core : Nat)
  deriving DecidableEq, Repr

/-- An entry of a core's outbound queue (R210, R212): a message, held until its firing commits when the
firing is journalled (R389), or a carry. -/
inductive OutItem where
  | msg (m : Message) (dest : Dest) (rel : Release) (held : Bool)
  | carry (o : Op)
  deriving DecidableEq, Repr

/-- A reply on its way to a context's reply slot (R243): a value, or a cause with its tval. -/
structure Reply where
  id : Nat := 0
  val : BitVec 64 := 0
  fault : Option (BitVec 6 × BitVec 64) := none
  deriving DecidableEq, Repr

/-- A message of a unit other than a core's outbound queue, in flight (R24, R201, R230, R236, R395). -/
structure UnitMsg where
  unit : Nat := 0
  m : Message
  dest : Dest
  rel : Option Release := none
  deriving DecidableEq, Repr

/-! ## Parties -/

/-- What a context is doing (R18, R374), and what a supervisor core is doing (R376, R377, R392). For a
supervisor core `idle` is: still in mask ROM. -/
inductive RunState where
  | idle | running | ending | parked | halted
  deriving DecidableEq, Repr

/-- The firing that a context runs (R34, R45). -/
structure Firing where
  sheet : Bool := false
  /-- the message that started it was a trap message (R373) -/
  trapStarted : Bool := false
  cls : BitVec 16 := 0
  key : BitVec 64 := 0
  part : BitVec 8 := 0
  /-- the class descriptor read at the pick (R21) -/
  desc : BitVec 512 := 0
  /-- all consumed messages, and those not yet taken (R214) -/
  consumed : List Message := []
  untaken : List Message := []
  record : Sheet := {}
  /-- offset and length of the state window (R34) -/
  winOff : Nat := 0
  winSize : Nat := 0
  /-- the offset of its spill carve-out in the host's scratchpad, while it has one (R44, R167) -/
  carve : Option Nat := none
  /-- resume records that wait, oldest first, each with the store count after which it takes effect (R157) -/
  pendingMarks : List (Resume × Nat) := []
  /-- how it ends: the wait and bank forms add to done (R216, R217) -/
  waitCounter : Option (Nat × BitVec 64) := none
  bankAfter : Bool := false
  deriving DecidableEq, Repr

/-- One store-buffer entry (R173, R175): the cells it writes and, for `stl`, its scope. -/
structure StoreEntry where
  cells : List (Nat × Byte) := []
  release : Bool := false
  isStl : Bool := false
  stream : Option (BitVec 3) := none
  deriving DecidableEq, Repr

/-- The monitor of a party (R182): the place of the armed dword and its event. -/
structure Monitor where
  armed : Option Nat := none
  event : Bool := false
  deriving DecidableEq, Repr

/-- A stream register (R79, R259, R260). -/
structure Stream where
  desc : Option (BitVec 512) := none
  pos : Nat := 0
  ovr : BitVec 32 := 0
  filled : Bool := false
  err : Bool := false
  window : BitVec 512 := 0
  /-- an instruction has read the window since it was filled (R261); the windows whose lanes OVR counts -/
  used : Bool := false
  ovrAt : Nat := 0
  /-- the bytes of windows not yet complete or not yet reached that Load steps have taken, by window, with their places
  (R261) -/
  early : Map (List (Nat × Byte)) := []
  deriving DecidableEq, Repr

/-- How a load's bytes become its datum (R137, R149, R178): sign-extended, zero-extended, or a capability
granule whose tag is kept or cleared. -/
inductive LoadKind where
  | sext | zext | cap (keepTag : Bool)
  deriving DecidableEq, Repr

/-- An instruction that the access half holds behind a load that it has not completed (R74, R75): a load with its rd, its
bytes' places and its kind; an `lda` at a scope; a store; a fence. -/
inductive AccItem where
  | load (rd : BitVec 5) (places : List Nat) (kind : LoadKind)
  | acquire (rd : BitVec 5) (places : List Nat) (kind : LoadKind) (sc : BitVec 3)
  | store (e : StoreEntry)
  | fence (sc : BitVec 3)
  deriving DecidableEq, Repr

/-- What the access half has done of an instruction that the execute half has not come to (R74): nothing; some blocks of a
load read (R166); its load taken; its store taken, with the data that it took from the store-data queue (R76); its store
performed or its fence passed. -/
inductive AheadMark where
  | none
  | part (cells : List (Nat × Byte))
  | loaded (v : Reg)
  | stored (popped : List Reg) (es : List StoreEntry)
  | passed
  deriving DecidableEq, Repr

/-- An instruction that the access half has looked at ahead of the execute half: its pc, its word, and what is done of it
(R74). -/
structure Ahead where
  pc : BitVec 64
  word : BitVec 32
  mark : AheadMark := .none
  deriving DecidableEq, Repr

/-- The form that a party waits in: for a reply (R180, R189, R212, R236), or bounded (R183, R192). -/
inductive WaitForm where
  | amoW | amoD | carry | lwait | bar | barrd | barwait (phase : BitVec 4) | monw
  deriving DecidableEq, Repr

/-- A wait in progress: the form, its rd, its number (MODEL), the count of cyc at its start and its bound. -/
structure Waiting where
  form : WaitForm
  rd : BitVec 5 := 0
  id : Nat := 0
  start : Nat := 0
  bound : Nat := 0
  pc : BitVec 64 := 0
  place : Nat := 0
  owner : Nat := 0
  /-- the entries of the load-data queue that the form has popped: it takes them only if it completes (R77) -/
  popped : List Reg := []
  deriving DecidableEq, Repr

/-- A deferred cause of the matrix unit (R292). -/
structure Deferred where
  cause : BitVec 6
  addr : BitVec 64
  tile : BitVec 5
  deriving DecidableEq, Repr

/-- A pending sequence trap of one slot (R336). -/
structure SeqPending where
  slot : BitVec 8
  record : BitVec 64
  count : BitVec 32
  pc : BitVec 64
  deriving DecidableEq, Repr

/-- The state of a party: a firing context (R18), a handler context (R19), or a supervisor core (R376). -/
structure Ctx where
  run : RunState := .idle
  x : Vector Reg 32 := Vector.replicate 32 0
  pc : BitVec 64 := 0
  v : Vector (BitVec 512) 8 := Vector.replicate 8 0
  k : Vector (BitVec 64) 4 := Vector.replicate 4 0
  w : Vector Stream 8 := Vector.replicate 8 {}
  qld : List Reg := []
  qst : List Reg := []
  /-- the access half's instructions behind a load that is not completed, in program order (R74, R75), and the bytes
  that the first of them has read in earlier Load steps (R166) -/
  acc : List AccItem := []
  accPart : List (Nat × Byte) := []
  /-- the instructions from the pc on that the access half has looked at, in program order (R74) -/
  ahead : List Ahead := []
  /-- MODEL: the form at the pc has just been held by the store-data queue (R76) -/
  held : Bool := false
  /-- the bytes that the form at the pc has read in Load steps of its own (R166) -/
  part : List (Nat × Byte) := []
  /-- the body that the `rep` at the pc has fetched (R155) -/
  body : Option (BitVec 32) := none
  fcsr : BitVec 8 := 0
  fmtA : BitVec 64 := 0
  fmtB : BitVec 64 := 0
  sclA : BitVec 64 := 0
  sclB : BitVec 64 := 0
  kcls : BitVec 16 := 0
  kkey : BitVec 64 := 0
  ltag : BitVec 12 := 0
  fdep : BitVec 4 := 0
  partid : BitVec 8 := 0
  /-- the trap record (R372); of a supervisor core, the CSRs (R82) -/
  cause : BitVec 6 := 0
  epc : BitVec 64 := 0
  tval : BitVec 64 := 0
  /-- the handler flag of a supervisor core (R376) -/
  handler : Bool := false
  ctbsel : BitVec 8 := 0
  ccsel : BitVec 64 := 0
  /-- the ERR, BUSY, CLU and CORE fields of sltgo (R87) -/
  sltgo : BitVec 64 := 0
  staged : Vector (BitVec 64) 16 := Vector.replicate 16 0
  tapsel : BitVec 64 := 0
  acsel : BitVec 64 := 0
  /-- the store buffer, oldest first (R173), and the stores issued and drained (R177) -/
  sb : List StoreEntry := []
  issued : Nat := 0
  drained : Nat := 0
  /-- the writes the view held at the last drain, as `Release.snap` (R177) -/
  snap : Map Nat := []
  /-- drained scoped stores: place and order of each cell, until seen everywhere (R178) -/
  scopedDone : List (Nat × Nat) := []
  mon : Monitor := {}
  firing : Firing := {}
  /-- for each cell of the state window that the firing has written: the byte before its first write and
  the order of its last write (R372) -/
  undo : Map (Byte × Nat) := []
  deferred : List Deferred := []
  seqTraps : List SeqPending := []
  waiting : Option Waiting := none
  reply : List Reply := []
  /-- the cbput that waits for its earlier stores: the buffer and the store count (R186) -/
  cbput : Option (BitVec 4 × Nat) := none
  /-- a page that the form waits for (R380): partition and virtual address -/
  walk : Option (Nat × Nat) := none
  /-- the count of cyc until which no steal request is made (R47) -/
  stealAfter : Nat := 0
  /-- membership in the matrix gang, and the gang operations issued (R299, R300) -/
  gangMember : Bool := false
  gangCount : Nat := 0
  /-- MODEL: the operations in the matrix queue that a form of R294 or R296 waits for: those numbered up to this -/
  mhold : Option Nat := none
  deriving DecidableEq, Repr

/-! ## Cores -/

/-- One port's messages (R29, R31). -/
structure PortQ where
  q : List Message := []
  ready : Bool := false
  close : Option Message := none
  nextQ : List Message := []
  nextClose : List Message := []
  deriving DecidableEq, Repr

/-- An order of the home to a host (R222). -/
inductive HostOrder where
  | none | bank | ship (dest : Nat)
  deriving DecidableEq, Repr

/-- An actor that a core hosts (R36, R40, R41). -/
structure Actor where
  part : BitVec 8 := 0
  cls : BitVec 16 := 0
  key : BitVec 64 := 0
  desc : BitVec 512 := 0
  home : Nat := 0
  /-- offset and length of the state window in the scratchpad (R40, R41) -/
  off : Nat := 0
  size : Nat := 0
  ports : Vector PortQ 4 := Vector.replicate 4 {}
  /-- counter firings in the order their counters reached zero (R33): entry address and message -/
  counters : List (BitVec 64 × Message) := []
  pin : Bool := false
  /-- messages forwarded to this host (R222) -/
  count : BitVec 16 := 0
  running : Bool := false
  saved : Bool := false
  ready : Bool := false
  intent : Bool := false
  /-- the order of its last firing among the device's firings (R41, R43) -/
  lastFired : Nat := 0
  order : HostOrder := .none
  /-- delivered messages that wait for their journal entries, in arrival order (R389) -/
  unjournalled : List Message := []
  journalFull : Bool := false
  /-- the firings that are replayed and whose commit mark the journal holds already (R390) -/
  replay : Nat := 0
  deriving DecidableEq, Repr

/-- A slot of the tag table (R168). -/
structure TagSlot where
  key : BitVec 64 := 0
  valid : Bool := false
  pin : BitVec 8 := 0
  part : BitVec 8 := 0
  age : BitVec 6 := 0
  deriving DecidableEq, Repr

/-- Who waits for a slot of a circular buffer (R187): a context, a copy request, or a matrix operation. -/
inductive CbWaiter where
  | ctx (k : Nat) | fill (req : Nat) | matrix
  deriving DecidableEq, Repr

/-- A circular buffer (R184, R185) and its waiters in order (R187). -/
structure Cb where
  base : BitVec 17 := 0
  ssz : BitVec 16 := 0
  scnt : BitVec 8 := 0
  filled : BitVec 8 := 0
  free : BitVec 8 := 0
  held : BitVec 8 := 0
  pidx : BitVec 8 := 0
  cidx : BitVec 8 := 0
  valid : Bool := false
  waitFilled : List CbWaiter := []
  waitFree : List CbWaiter := []
  deriving DecidableEq, Repr

/-- The held operand configuration of a tile (R279). -/
structure TileConf where
  fmtA : BitVec 64 := 0
  fmtB : BitVec 64 := 0
  sclA : BitVec 64 := 0
  sclB : BitVec 64 := 0
  deriving DecidableEq, Repr

/-- An accumulator tile and its status (R81, R278). -/
structure Tile where
  data : BitVec 8192 := 0
  acc : BitVec 2 := 0
  live : Bool := false
  poison : Bool := false
  pcause : BitVec 6 := 0
  reconf : Bool := false
  rerun : BitVec 5 := 0
  kstep : BitVec 16 := 0
  conf : Option TileConf := none
  /-- the address of the failing operation where POISON is set (R292) -/
  faddr : BitVec 64 := 0
  deriving DecidableEq, Repr

/-- The matrix operations of the queue (R280). -/
inductive MKind where
  | tcfg (fmt : BitVec 2)
  | mzero
  | mload (bytes : BitVec 16384)
  | mma
  | mmag (gen n : Nat)
  deriving DecidableEq, Repr

/-- A matrix operation with its sampled operands (R280, R290, R300). -/
structure MOp where
  kind : MKind
  md : BitVec 5 := 0
  /-- the tile start is this operation's (R279) -/
  first : Bool := false
  conf : TileConf := {}
  aring : BitVec 4 := 0
  bring : BitVec 4 := 0
  rows : Nat := 0
  ctx : Nat := 0
  addr : BitVec 64 := 0
  stores : Nat := 0
  sheet : Bool := false
  /-- the firing that issued it has ended: a failure is no deferred cause of another (R292, R372) -/
  orphan : Bool := false
  /-- MODEL: its number in the order of entry, and the tiles it names -/
  seq : Nat := 0
  tiles : List Nat := []
  /-- the core whose ring supplies A, and, once the lead's part has retired, the KSTEP of its tile at its start, which
  numbers the blocks of A (R283, R300) -/
  acore : Nat := 0
  akstep : Option Nat := none
  /-- of a part of a gang operation: the cells of A, its scales and its tags, once the lead has read and broadcast them
  (R300) -/
  acells : Option (List (Nat × Byte)) := none
  started : Bool := false
  aslot : Option Nat := none
  bslot : Option Nat := none
  deriving DecidableEq, Repr

/-- A copy request (R195, R198, R199) with what the checks sampled. -/
structure Request where
  issuer : Nat := 0
  core : Nat := 0
  seq : Nat := 0
  w0 : BitVec 64 := 0
  src : Reg := 0
  dst : Reg := 0
  w3 : Reg := 0
  part : BitVec 8 := 0
  ltag : BitVec 12 := 0
  depth : BitVec 4 := 0
  cls : BitVec 16 := 0
  key : BitVec 64 := 0
  sup : Bool := false
  rel : Release := {}
  deriving DecidableEq, Repr

/-- A kindle or a shipped actor that a host is taking in (R41, R222, R241). -/
structure Incoming where
  home : Nat := 0
  part : BitVec 8 := 0
  cls : BitVec 16 := 0
  key : BitVec 64 := 0
  /-- for a shipped actor: the actor with its queues, and its state bytes; whether they are in place -/
  shipped : Option (Actor × List Byte) := none
  placed : Bool := false
  /-- the messages that a shipped actor's old host held outside its ports, in arrival order -/
  later : List Message := []
  /-- for a gang member: the start notice (R241) -/
  gang : Option Message := none
  deriving DecidableEq, Repr

/-- A translation that a TLB holds (R380): partition, page base and size, and the entry word found. -/
structure TlbEntry where
  part : BitVec 8 := 0
  base : Nat := 0
  size : Nat := 0
  word : BitVec 64 := 0
  malformed : Bool := false
  /-- MODEL: of an entry by which homes are found, the size of the page that its 64 KiB are part of -/
  leaf : Nat := 0
  deriving DecidableEq, Repr

/-- What the selection engine holds of a walk: the candidate mask and the fields of R316. -/
structure SelFields where
  mask : BitVec 65536 := BitVec.allOnes 65536
  pl : Nat := 0
  pfx : BitVec 64 := 0
  below : Nat := 0
  above : Nat := 0
  wbelow : BitVec 64 := 0
  wabove : BitVec 64 := 0
  lz : Nat := 0
  lo : Nat := 0
  lwz : BitVec 64 := 0
  lwo : BitVec 64 := 0
  excl : Nat := 0
  deriving DecidableEq, Repr

/-- The selection engine of a cluster (R312 to R316). -/
structure Sel extends SelFields where
  holder : Option Nat := none
  /-- the stalled `selld`s in the order of their claims: the context, and the descriptor that its checks passed -/
  claims : List (Nat × BitVec 512) := []
  /-- the holder's `selld` has yet to start its walk: the descriptor, and whether it held the engine before (R314) -/
  granted : Option (BitVec 512) := none
  rewalk : Bool := false
  desc : BitVec 512 := 0
  /-- the holder is in a `selrun` (R322): the fields at its start, and, between the step and the cut of a plane, whether the
  cut keeps ones (R319) -/
  undo : Option SelFields := none
  keepOnes : Option Bool := none
  deriving DecidableEq, Repr

/-- A firing saved by pre-emption (R247): its context, number, parked mark, and the bytes of its live extent. -/
structure SavedFiring where
  num : Nat := 0
  /-- MODEL: the number that its releases carry while it is saved -/
  tag : Nat := 0
  ctx : Ctx
  live : List (Nat × Byte) := []
  /-- the engine's state, where it held the selection engine (R322) -/
  sel : Option Sel := none
  deriving DecidableEq, Repr

/-- The core image (R247): buffers, tiles and queue as saved, slot bytes, and the engine if held. -/
structure CoreImage where
  cbs : Vector Cb 16 := Vector.replicate 16 {}
  slots : List (Nat × Byte) := []
  tiles : Map Tile := []
  mq : List MOp := []
  /-- the selection engine's state, when a context of the core held it (R322) -/
  sel : Option SelFields := none
  deriving DecidableEq, Repr

/-- The installed slot table at a core's start-up (R87). -/
def startSlots : List (BitVec 64) :=
  [0x38#64, 0x39#64, 0x3A#64, 0x3B#64, 0x38#64, 0x39#64, 0x3A#64, 0x3B#64,
   0x38#64, 0x39#64, 0x3A#64, 0x3B#64, 0x38#64, 0x39#64, 0x3A#64, 0x3C#64]

/-- The state of a core that its contexts share (R13, R18), and of a supervisor core's own units. -/
structure Core where
  slots : List (BitVec 64) := startSlots
  pendSlots : Option (List (BitVec 64)) := none
  walkAt : BitVec 4 := 0
  starea : BitVec 64 := 0
  ovfl : BitVec 64 := 0
  spq : BitVec 64 := 0
  qovf : BitVec 64 := 0
  cyc : Nat := 0
  outq : List OutItem := []
  opInbox : List Op := []
  actors : List Actor := []
  /-- the keyed ready queue: partition, class and key, oldest first (R237) -/
  readyQ : List (BitVec 8 × BitVec 16 × BitVec 64) := []
  /-- decrements that wait in the inbox (R30) -/
  decs : List Message := []
  arrivals : Nat := 0
  incoming : List Incoming := []
  pickCtr : Map Nat := []
  /-- the quire, oldest sheet first (R46), and its overflow area, oldest first -/
  quire : List Sheet := []
  quireOvf : List Sheet := []
  sent : Map (BitVec 32) := []
  recv : Map (BitVec 32) := []
  /-- the spill queue, and whether arrivals go there (R248) -/
  spill : List Message := []
  diverting : Bool := false
  spillReported : Bool := false
  preempted : Bool := false
  saved : List SavedFiring := []
  image : Option CoreImage := none
  gangReserved : Option Nat := none
  /-- probe tokens (R244): cyc when the outbound head was first held back, a token out, tokens received -/
  heldSince : Option Nat := none
  tokenOut : Bool := false
  tokens : List Nat := []
  tokenBack : Bool := false
  /-- MODEL: the channels whose heads are held back at the core's input, the one held back first ahead (R244): 3 × home for
  a home's, 3 × core + 1 for an outbound queue, 3 × operation + 2 for an operation in flight -/
  blocked : List Nat := []
  tagTable : Vector TagSlot 64 := Vector.replicate 64 {}
  cbs : Vector Cb 16 := Vector.replicate 16 {}
  tiles : Map Tile := []
  mq : List MOp := []
  /-- MODEL: the matrix operations that have entered the queue -/
  mseq : Nat := 0
  /-- the command FIFO and the status of recent requests by sequence number (R199, R201) -/
  fifo : List Request := []
  nextSeq : Nat := 1
  status : Map (BitVec 64) := []
  /-- supervisor commands that have arrived (R375) -/
  cmds : List Message := []
  utlb : List TlbEntry := []
  /-- registered barrier waits of objects in this core's scratchpad: place, issuer, number (R192) -/
  barWaits : List (Nat × Nat × Nat) := []
  deriving DecidableEq, Repr

/-! ## Clusters -/

/-- The states of a hearth-table entry (R220). -/
inductive HearthState where
  | free | kindling | live | moving
  deriving DecidableEq, Repr

/-- A hearth-table entry (R220) and the home's buffer for it (R221). -/
structure Hearth where
  part : BitVec 8 := 0
  cls : BitVec 16 := 0
  key : BitVec 64 := 0
  host : BitVec 11 := 0
  /-- MODEL: the host's die, and its device: the home's, but for a gang member (R241) -/
  hostDie : Nat := 0
  hostDev : Option (BitVec 12) := none
  state : HearthState := .free
  dest : Bool := false
  pin : Bool := false
  fwd : BitVec 16 := 0
  buffer : List Message := []
  /-- the messages that the old home has sent ahead of the handover marker (R28) -/
  handed : List Message := []
  /-- the kindle has chosen a host (R40) -/
  chosen : Bool := false
  /-- waits behind a handover marker (R28) -/
  handover : Bool := false
  /-- the actor's home has moved: the bank in progress ends with a handover (R28) -/
  leaving : Bool := false
  /-- the image is written, and the handover waits for the messages on their way to the old home (R28) -/
  written : Bool := false
  deriving DecidableEq, Repr

/-- An event on its way to a home (R221, R28). -/
inductive HomeEvent where
  | msg (m : Message)
  | intent (part : BitVec 8) (cls : BitVec 16) (key : BitVec 64) (count : BitVec 16) (host : Nat)
  /-- with the messages that the host returns (R28) -/
  | imageWritten (part : BitVec 8) (cls : BitVec 16) (key : BitVec 64) (ms : List Message)
  | bankRefused (part : BitVec 8) (cls : BitVec 16) (key : BitVec 64)
  /-- the old home's messages of a handover, and whether the handover marker follows them (R28) -/
  | marker (part : BitVec 8) (cls : BitVec 16) (key : BitVec 64) (ms : List Message) (last : Bool)
  deriving DecidableEq, Repr

/-- An item on the channel from a home to a host (R38, R222). -/
inductive HostItem where
  | msg (m : Message)
  | bank (part : BitVec 8) (cls : BitVec 16) (key : BitVec 64)
  | ship (part : BitVec 8) (cls : BitVec 16) (key : BitVec 64) (dest : Nat)
  | refused (part : BitVec 8) (cls : BitVec 16) (key : BitVec 64)
  deriving DecidableEq, Repr

/-- One steering entry (R338): enabled, vector index, α. -/
structure SteerEntry where
  on : Bool := false
  vidx : BitVec 3 := 0
  alpha : BitVec 16 := 0
  deriving DecidableEq, Repr

/-- A tap point (R327 to R335). -/
structure Tap where
  ctl : BitVec 64 := 0
  ptbl : BitVec 64 := 0
  vtbl : BitVec 64 := 0
  ptop : Nat := 0
  vtop : Nat := 0
  thr : Vector (BitVec 64) 16 := Vector.replicate 16 0
  digest : BitVec 256 := 0
  rb : BitVec 4 := 0
  cb : BitVec 12 := 0
  brows : BitVec 5 := 0
  lost : BitVec 32 := 0
  recs : List (BitVec 64) := []
  /-- row map, unlisted rows unmapped (255); steering by slot, unlisted slots disabled -/
  map : Map (BitVec 8) := []
  steer : Map SteerEntry := []
  /-- accumulators of the row block: A by 16 × row + probe, Q and Y by row; SSQ by global row -/
  a : Map (BitVec 64) := []
  q : Map (BitVec 64) := []
  y : Map (BitVec 64) := []
  ssq : Map (BitVec 64) := []
  deriving DecidableEq, Repr

/-- The matrix gang of a cluster (R299, R300): who stands at the barrier, the formed gang by core, and
each member's operations not yet taken. -/
structure MGang where
  atBarrier : List (Nat × Nat × BitVec 8) := []
  formed : Bool := false
  members : List (Nat × Nat) := []
  /-- MODEL: the number of gangs formed -/
  gen : Nat := 0
  deriving DecidableEq, Repr

/-- The state of a cluster (R14, R4). -/
structure Cluster where
  hearth : Map Hearth := []
  /-- messages for actors that a full hearth table has no entry for (R43) -/
  full : List Message := []
  homeQ : List HomeEvent := []
  toHost : Map (List HostItem) := []
  sel : Sel := {}
  taps : Vector Tap 8 := Vector.replicate 8 {}
  gang : MGang := {}
  tlb : List TlbEntry := []
  deriving DecidableEq, Repr

/-! ## Dies -/

/-- A die view (R173): the bytes, tags and poison marks by place, and for each cell the order of its write. -/
structure View where
  mem : Memory := []
  ord : Map Nat := []
  deriving DecidableEq, Repr

/-- A carry entry (R173, R176). -/
structure CarryEntry where
  cells : List (Nat × Byte) := []
  ord : Nat := 0
  release : Bool := false
  prior : Map Nat := []
  deriving DecidableEq, Repr

/-- A record of the pending-launch pool (R227 to R231). -/
structure LaunchRec where
  part : BitVec 8 := 0
  w0 : BitVec 64 := 0
  w1 : BitVec 64 := 0
  w2 : BitVec 64 := 0
  w3 : Reg := 0
  /-- the core whose form made the record, and whether it is a supervisor core (MODEL) -/
  core : Nat := 0
  sup : Bool := false
  /-- expansion has started: the count and the class descriptor read then (R230) -/
  started : Bool := false
  n : Nat := 0
  desc : BitVec 512 := 0
  next : Nat := 0
  /-- items that a die failure has lost, to be made again (R390) -/
  again : List Nat := []
  /-- the core of the die from which the rotation goes on for its next sheet (R230) -/
  nextCore : Nat := 0
  /-- items whose completion bit is set (R231) -/
  bits : List Nat := []
  deriving DecidableEq, Repr

/-- A page that the walker is asked for, and who asked: core keys, and keys of `Device.pages` (R380). -/
structure WalkReq where
  part : BitVec 8 := 0
  page : Nat := 0
  cores : List Nat := []
  units : List Nat := []
  deriving DecidableEq, Repr

/-- A bias snapshot (R310). -/
structure BiasSnap where
  tag : BitVec 16 := 0
  bias : Vector (BitVec 8) 256 := Vector.replicate 256 0
  deriving DecidableEq, Repr

/-- A contribution staged for an ordered reduction (R202): the request's number among the pending ones, and its place. -/
structure Staged where
  req : Nat := 0
  group : BitVec 32 := 0
  dest : Nat := 0
  rank : Nat := 0
  count : Nat := 0
  w0 : BitVec 64 := 0
  bytes : List Byte := []
  /-- its group has arrived whole, and the bytes of it that have been applied -/
  begun : Bool := false
  applied : Nat := 0
  deriving DecidableEq, Repr

/-- The state of a die by its logical number (R15). -/
structure Die where
  view : View := {}
  /-- carry channels to the other dies, oldest entry first (R173) -/
  carry : Map (List CarryEntry) := []
  pool : Map LaunchRec := []
  sent : Map (BitVec 32) := []
  recv : Map (BitVec 32) := []
  nextRec : Nat := 0
  walks : List WalkReq := []
  bias : Map BiasSnap := []
  staged : List Staged := []
  /-- failed and fenced, no spare having taken its number yet (R390) -/
  failed : Bool := false
  /-- messages that the die's homes and hosts held, held by the base die, each with its home cluster (R390) -/
  held : List (Nat × Message) := []
  /-- the base die's clock when the heartbeat was last written (R390) -/
  heartbeat : Nat := 0
  /-- the waves of clusters started, and the count of cyc of supervisor core 0 at the last (R396) -/
  waves : Nat := 0
  waveAt : Nat := 0
  /-- the verified image: its digest, its version, and its trap entry (R376, R392) -/
  image : Option (BitVec 256 × Nat × BitVec 64) := none
  deriving DecidableEq, Repr

/-! ## The device: engines, stores, fabric, host -/

/-- Whose a request at an engine is: this device's own; a READ of another device that this device's bytes are the source
of (R355, R368); or another device's write or reduction whose bytes come here (R355, R361, R367). -/
inductive EngRole where
  | own | serve | recv
  deriving DecidableEq, Repr

/-- A request in an engine's pending set (R173, R200) and its progress. -/
structure Pending where
  engine : Nat := 0
  role : EngRole := .own
  req : Request
  id : Nat := 0
  /-- nothing but the Notify step is left -/
  finishing : Bool := false
  len : Nat := 0
  /-- ranges of the payload, ascending: the bytes that are still to be read or to arrive, and those still to be written -/
  unread : List (Nat × Nat) := []
  unwritten : List (Nat × Nat) := []
  /-- bytes read or arrived, whose destination is still to be checked: offset and bytes -/
  chunks : List (Nat × List Byte) := []
  /-- the first offset whose destination is still to be checked (R201), and the chunks that have passed: offset, number of
  bytes, and those that have a place -/
  checkedTo : Nat := 0
  ready : List (Nat × Nat × List (Nat × Byte)) := []
  /-- orders of the payload writes by cell, and of the stamp's (R200) -/
  writes : Map Nat := []
  stamp : Map Nat := []
  /-- the error code and OFF (R201) -/
  err : Option (BitVec 8 × Nat) := none
  /-- the status word is not followed by a completion message (R196, error 0x0C) -/
  silent : Bool := false
  /-- the target record read at acceptance (R196) -/
  target : BitVec 128 := 0
  /-- the deckle and its extents, read at acceptance (R304, R306) -/
  deckle : BitVec 512 := 0
  extents : List Nat := []
  /-- CBFILL: the slot granted, and the offset of the payload byte that it begins with (R197) -/
  slot : Option (BitVec 8) := none
  slotBase : Nat := 0
  /-- an ordered contribution that is staged (R202) -/
  staged : Bool := false
  /-- its image stands in the copy log of its die (R390) -/
  logged : Bool := false
  /-- the prior value of a fetching reduction (R352, R356) -/
  prior : BitVec 64 := 0
  /-- the remote side is on another device: the request number, that device and the address there (R353 to R365) -/
  far : Bool := false
  reqno : BitVec 24 := 0
  farDev : BitVec 12 := 0
  farAddr : BitVec 64 := 0
  redirected : Bool := false
  /-- another device's request whose first page, or every page of a short one, is still to be checked: its flit (R355, R364) -/
  arrival : Option Flit := none
  /-- the token and the range that may be sent (R357, R360); the pages of the range have been checked (R368) -/
  token : BitVec 16 := 0
  lo : Nat := 0
  hi : Nat := 0
  rangeOk : Bool := false
  /-- the flits still to be sent: token, and place in the range, or in the prefix for token 0 (R345, R357) -/
  unsent : List (BitVec 16 × Nat) := []
  /-- the far side has answered a request of no bytes (R355, R361) -/
  answered : Bool := false
  /-- the bytes of the prefix and of the range kept for resending: offset and bytes (R357) -/
  copy : List (Nat × List Byte) := []
  /-- the flue engine's clock when the far side was last heard (R362) -/
  heard : Nat := 0
  deriving DecidableEq, Repr

/-- The state of a Damper record (R361). -/
inductive DState where
  | waiting | granted | flowing | finishing | saved
  deriving DecidableEq, Repr

/-- A Damper record (R358), also of a prefix-only write's tracker entry (R367). -/
structure DRec where
  /-- the device that sends the bytes, the request number, and whether the request is this device's own READ (R368) -/
  src : BitVec 12 := 0
  reqno : BitVec 24 := 0
  own : Bool := false
  part : BitVec 8 := 0
  ltag : BitVec 12 := 0
  prio : BitVec 2 := 0
  next : Nat := 0
  left : Nat := 0
  /-- the live token and its range -/
  token : Option (BitVec 16 × Nat × Nat) := none
  /-- the clock at the grant, or at the last flit of a tracked write -/
  since : Nat := 0
  exp : Nat := 0
  state : DState := .waiting
  /-- a save that waits for a flowing token to retire, and a RESUME sent (R361, R363) -/
  saveAfter : Bool := false
  resumed : Bool := false
  w0 : BitVec 64 := 0
  addr : BitVec 64 := 0
  /-- the first page of the request has passed its checks (R364, R365) -/
  checked : Bool := true
  deriving DecidableEq, Repr

/-- What the Damper saves of a record into the area that the supervisor assigns (R363): the sender and the request number,
the next byte, the bytes left and EXP. -/
structure DSaved where
  src : BitVec 12
  reqno : BitVec 24
  own : Bool
  next : Nat
  left : Nat
  exp : Nat
  deriving DecidableEq, Repr

/-- A fabric port (R344, R349, R351). -/
structure Port where
  down : Bool := false
  /-- the lanes taken down, and the failed resends of each since its last good one (R344, R386) -/
  lanesDown : List Nat := []
  resends : Map Nat := []
  /-- the usable buffer by 4 × direction + class, where it is not the reserve: of the link to the switch outwards (0) and
  inwards (1), and of the links beyond the switch outwards (2) and inwards (3); and the classes that have left the routing
  (R347, R349) -/
  usable : Map Nat := []
  classesDown : List Nat := []
  /-- flows set aside: destination device and class -/
  setAside : List (BitVec 12 × Nat) := []
  /-- flits held back at the port, in order (R347) -/
  held : List Flit := []
  /-- flits that wait to leave, for a set-aside flow (R351) -/
  waiting : List Flit := []
  deriving DecidableEq, Repr

/-- A flit under the MSG discipline (R350): the message of a journalled firing or a launch item that it carries, and the die
that sent it. -/
structure Counted where
  flit : Flit
  mark : Option Message := none
  die : Nat := 0
  deriving DecidableEq, Repr

/-- A switch output port as the device's plane shows it (R351, R352). -/
structure Switch where
  queue : List Flit := []
  /-- set-aside queues: destination device, class, and flits in order -/
  asides : List (BitVec 12 × Nat × List Flit) := []
  /-- by flow (4 × device + class): the switch's clock when the flow came to hold more than half the entries -/
  since : Map Nat := []
  /-- wait buffer: the combined flit's REQ with its components' flits in queue order -/
  combined : List (BitVec 24 × List Flit) := []
  deriving DecidableEq, Repr

/-- A journal entry (R389): a delivered message, a commit mark, or a message that a committed firing sent, with its
sent mark. -/
inductive JEntry where
  | delivered (m : Message)
  | commit
  | sent (m : Message) (dest : Dest) (mark : Bool)
  deriving DecidableEq, Repr

/-- An entry of a bank store (R226, R389). -/
structure BankEntry where
  store : Nat := 0
  part : BitVec 8 := 0
  cls : BitVec 16 := 0
  key : BitVec 64 := 0
  image : Option (List Byte) := none
  live : Option Nat := none
  journal : List JEntry := []
  jpos : Nat := 0
  deriving DecidableEq, Repr

/-- An armed `lwait` notice (R236). -/
structure Notice where
  part : BitVec 8 := 0
  tag : BitVec 12 := 0
  port : BitVec 2 := 0
  cls : BitVec 16 := 0
  key : BitVec 64 := 0
  deriving DecidableEq, Repr

/-- A sweep of a tag (R235): sums and the idle mark. -/
structure SweepSum where
  sent : BitVec 32 := 0
  recv : BitVec 32 := 0
  idle : Bool := false
  deriving DecidableEq, Repr

/-- A sweep of a partition that is being gathered (R235): the tags, the units not read yet, and the sums of those read. -/
structure Sweeping where
  tags : List (BitVec 12) := []
  left : List Nat := []
  sums : Map SweepSum := []
  deriving DecidableEq, Repr

/-- An armed gang (R240, R241). -/
structure Gang where
  part : BitVec 8 := 0
  index : Nat := 0
  desc : BitVec 512 := 0
  started : Bool := false
  /-- the class was refused, and reported (R241) -/
  refused : Bool := false
  deriving DecidableEq, Repr

/-- The management port: offered firmware images (key, signature, body, version), reports, the limit, the telemetry of
power and temperature per die, and the last attestation report with the alias key and its signature (R392, R393, R397). -/
structure Mgmt where
  offered : Map (List Byte × List Byte × List Byte × Nat) := []
  reports : List (BitVec 6 × Nat) := []
  limit : Nat := 2600
  engaged : Bool := false
  power : Map (BitVec 64) := []
  temperature : Map (BitVec 64) := []
  attested : List Byte := []
  aliasKey : List Byte := []
  aliasSignature : List Byte := []
  deriving DecidableEq, Repr

/-- The host link (R394, R395). -/
structure HostLink where
  nonce : BitVec 256 := 0
  building : Bool := false
  report : List Byte := []
  reportLen : Nat := 0
  badWrites : Nat := 0
  read : BitVec 512 := 0
  sent : Map (BitVec 32) := []
  recv : Map (BitVec 32) := []
  deriving DecidableEq, Repr

/-- A copy of a table of a partition that routing units hold (R25, R150, R381): the dword at each address. -/
abbrev TableCopy := Map (BitVec 64)

/-- The device as a whole. The supervisor assigns its number and its domain (R16); by what means the spec does not say, so no
step of the model writes `num` or `domain`, and what holds of a device holds for every value of both (DESIGN CHOICE, log 119). -/
structure Device where
  powered : Bool := true
  units : Nat := 0
  num : BitVec 12 := 0
  domain : List (BitVec 12) := []
  ctbase : Map (BitVec 64) := []
  /-- access table entries by 64 × target + entry (R383) -/
  access : Map (BitVec 64) := []
  tables : Map TableCopy := []
  /-- the translations that units other than cores hold until `atinv` (R380): under 0 those that homes are found by
  (R27), under 1 + 64 × die + unit bit those of the units of a die -/
  pages : Map (List TlbEntry) := []
  ops : List Op := []
  unitMsgs : List UnitMsg := []
  engines : List Pending := []
  bank : List BankEntry := []
  faulted : List (BitVec 8 × BitVec 16) := []
  notices : List Notice := []
  /-- the last sweep of each tag; the other devices' reports for it by 2^20 × device + tag key; and, by partition, the
  root's cycle count at its last sweep (R235, R350) -/
  sweeps : Map SweepSum := []
  sweepIn : Map SweepSum := []
  sweepAt : Map Nat := []
  /-- by partition: the sweep being gathered, and the core key of the root that the supervisor names, where it is not
  supervisor core 0 of die 0 (R235) -/
  sweeping : Map Sweeping := []
  roots : Map Nat := []
  gangs : List Gang := []
  damper : List DRec := []
  damperSlot : Nat := 0
  damperToken : Nat := 1
  damperSaved : List (BitVec 8 × BitVec 12) := []
  damperArea : List DSaved := []
  prefixes : List DRec := []
  ports : Map Port := []
  /-- MSG and SWEEP flits for another device that wait for a plane, with their device (R350) -/
  msgHeld : List (Nat × Counted) := []
  /-- by device: the plane of the MSG and SWEEP flits not yet acknowledged, and the flits (R350, R389) -/
  unacked : Map (Nat × List Counted) := []
  switches : Map Switch := []
  clocks : Map Nat := []
  /-- corrected errors by unit, and the window of 2^32 of its cycles that they are counted in (R386) -/
  errCounts : Map Nat := []
  errWindow : Map Nat := []
  silicon : Map Nat := []
  spareUsed : Bool := false
  mgmt : Mgmt := {}
  host : HostLink := {}
  /-- MODEL: the number of write steps taken (coherence order), of operation numbers given, of firings started, of free values -/
  wseq : Nat := 0
  opSeq : Nat := 0
  fireSeq : Nat := 0
  freeAt : Nat := 0
  deriving DecidableEq, Repr

/-! ## The machine -/

/-- MODEL: a turn that the agenda schedules (DESIGN CHOICE, log 4): an instruction of a party, a step of a party's access
half alone (R74), a background step, or the passing of time in one unit's clock. -/
inductive Turn where
  | turn (p : Party)
  | access (p : Party)
  | event (i : Instr)
  | time (clock : Nat) (n : Nat)
  deriving DecidableEq, Repr

/-- The state of one device. -/
structure State where
  /-- MODEL: the party whose turn an empty agenda means, and the turns that come before it (DESIGN CHOICE, log 4) -/
  cur : Party := .sup 0 0
  agenda : List Turn := []
  ctxs : Map Ctx := []
  cores : Map Core := []
  clusters : Map Cluster := []
  dies : Map Die := []
  dev : Device := {}
  deriving DecidableEq, Repr

/-- Why a step can stop with a fault. -/
inductive Fault where
  /-- Raised by `step` alone: the device is powered down and holds no state, so nothing runs (23/R392).
  Safe: the model stops where the spec gives no further step. -/
  | poweredDown
  deriving DecidableEq, Repr

/-- Why a step can be refused. -/
inductive Refusal where
  /-- Raised by the dispatcher: the instruction has no meaning in the model yet. Safe: the model stops
  where the hardware goes on. -/
  | notModelled (mnemonic : String)
  deriving DecidableEq, Repr

/-- The machine right after power comes up: every supervisor core is in mask ROM, no unit has started,
no firing exists and no table entry is valid (01/R20; 23/R383, R392, R396; DESIGN CHOICE, log 3 for the registers that the
spec gives no reset value). -/
def State.reset : State := {}

end Sys2Proof.Machine
end

