-- ==== Sys2Proof/Machine/Mem.lean ====
section
/-! DEFINITION. Access to the state by unit, the places of memory, die views, and the steps of the ordering
machine that install writes (09/R161, R165, R173 to R178). -/

namespace Sys2Proof.Machine

/-- The record of a party. -/
def State.ctx (s : State) (p : Party) : Ctx := s.ctxs.getD p.ix {}

/-- The state with the record of a party replaced. -/
def State.setCtx (s : State) (p : Party) (c : Ctx) : State := { s with ctxs := s.ctxs.put p.ix c }

/-- The record of a core by its key. -/
def State.core (s : State) (n : Nat) : Core := s.cores.getD n {}

/-- The state with the record of a core replaced. -/
def State.setCore (s : State) (n : Nat) (c : Core) : State := { s with cores := s.cores.put n c }

/-- The record of a cluster by its place. -/
def State.clu (s : State) (n : Nat) : Cluster := s.clusters.getD n {}

/-- The state with the record of a cluster replaced. -/
def State.setClu (s : State) (n : Nat) (c : Cluster) : State := { s with clusters := s.clusters.put n c }

/-- The record of a die. -/
def State.die (s : State) (n : Nat) : Die := s.dies.getD n {}

/-- The state with the record of a die replaced. -/
def State.setDie (s : State) (n : Nat) (d : Die) : State := { s with dies := s.dies.put n d }

/-- The state with the device-wide record changed. -/
def State.setDev (s : State) (d : Device) : State := { s with dev := d }

/-- The die of a core key; supervisor cores have keys from 20000. -/
def dieOfCore (n : Nat) : Nat := if n < 20000 then n / 2048 else (n - 20000) / 4

/-- The cluster place of a core key; a supervisor core uses cluster 0 of its die (DESIGN CHOICE, log 11). -/
def cluOfCore (n : Nat) : Nat := if n < 20000 then n / 8 else dieOfCore n * 256

/-- The core key of a party key. -/
def coreOfParty (k : Nat) : Nat := if k < 100000 then k / 5 else k - 100000 + 20000

/-- The die of a party key. -/
def dieOfParty (k : Nat) : Nat := dieOfCore (coreOfParty k)

/-- Whether a party key is a supervisor core's. -/
def supParty (k : Nat) : Bool := 100000 ≤ k

/-- The party of a party key. -/
def partyOf (k : Nat) : Party :=
  if k < 100000 then
    let c : CoreId := ⟨Fin.ofNat 8 (k / 5 / 2048), Fin.ofNat 256 (k / 5 / 8), Fin.ofNat 8 (k / 5)⟩
    if k % 5 = 4 then .handler c else .ctx c (Fin.ofNat 4 (k % 5))
  else .sup (Fin.ofNat 8 ((k - 100000) / 4)) (Fin.ofNat 4 (k - 100000))

/-- The core of a core key below 20000. -/
def coreIdOf (n : Nat) : CoreId := ⟨Fin.ofNat 8 (n / 2048), Fin.ofNat 256 (n / 8), Fin.ofNat 8 n⟩

/-- The R16 tuple of a core key on device `dev`; a supervisor core has cluster and core 0. -/
def tupleOfCore (n : Nat) (dev : BitVec 12) : BitVec 26 :=
  if n < 20000 then (coreIdOf n).tuple dev
  else dev ++ BitVec.ofNat 3 (dieOfCore n) ++ 0#11

/-! ## Places -/

/-- The end of device-physical HBM: 384 GiB (R161). -/
def hbmTop : Nat := 0x6000000000

/-- The bytes of one stack: 48 GiB (R161). -/
def stackSize : Nat := 0xC00000000

/-- The place of scratchpad byte `off` of a core. -/
def spPlace (core off : Nat) : Nat := 0x1000000000000 + core * 0x20000 + off

/-- The place of the tag of the granule that holds a byte place (R165). -/
def tagPlace (q : Nat) : Nat := 0x1000000000000000 + q / 16

/-- The place of the poison mark of the 32-byte block that holds a byte place (R385). -/
def poisonPlace (q : Nat) : Nat := 0x2000000000000000 + q / 32

/-- Whether a place belongs to HBM: a byte of it, or the tag or poison mark of one. -/
def isHbm (q : Nat) : Bool :=
  q < hbmTop || (0x1000000000000000 ≤ q && q < 0x1000000000000000 + hbmTop / 16) ||
    (0x2000000000000000 ≤ q && q < 0x2000000000000000 + hbmTop / 32)

/-- Whether a byte place lies in a scratchpad. -/
def isSp (q : Nat) : Bool := 0x1000000000000 ≤ q && q < 0x1000000000000000

/-- The core whose scratchpad holds a byte place. -/
def spCore (q : Nat) : Nat := (q - 0x1000000000000) / 0x20000

/-- The core that owns a byte place, and so its home die (R162). -/
def ownerOf (q : Nat) : Nat :=
  if isSp q then spCore q
  else
    let h := (q / 64 * 0x9E3779B97F4A7C15) % 2 ^ 64
    let cluster := h / 2 ^ 53 % 256
    let core := h / 2 ^ 61 % 8
    (q / stackSize * 256 + cluster) * 8 + core

/-- The home die of a byte place (R162). -/
def homeDie (q : Nat) : Nat := dieOfCore (ownerOf q)

/-! ## Views -/

/-- A cell of a die's view (R173). -/
def State.cell (s : State) (d q : Nat) : Byte := (s.die d).view.mem.read q

/-- `n` bytes of a die's view, the first at the lowest address, as a little-endian number (R7). -/
def State.peek (s : State) (d q : Nat) : Nat → Nat
  | 0 => 0
  | n + 1 => (s.cell d q).toNat + 256 * State.peek s d (q + 1) n

/-- A dword of a die's view. -/
def State.peek64 (s : State) (d q : Nat) : BitVec 64 := BitVec.ofNat 64 (s.peek d q 8)

/-- The cells of `n` little-endian bytes of a number from place `q`. -/
def bytesCells (q v : Nat) : Nat → List (Nat × Byte)
  | 0 => []
  | n + 1 => (q, BitVec.ofNat 8 v) :: bytesCells (q + 1) (v / 256) n

/-- The number that a list of bytes spells, the first byte least significant (R7). -/
def leNat : List Byte → Nat
  | [] => 0
  | b :: bs => b.toNat + 256 * leNat bs

/-- The first `n` little-endian bytes of a number. -/
def leBytes (v : Nat) : Nat → List Byte
  | 0 => []
  | n + 1 => BitVec.ofNat 8 v :: leBytes (v / 256) n

/-- The places of `n` consecutive bytes. -/
def span (q : Nat) : Nat → List Nat
  | 0 => []
  | n + 1 => q :: span (q + 1) n

/-- The distinct values of a list, in order of first appearance. -/
def distinct : List Nat → List Nat
  | [] => []
  | x :: xs => x :: (distinct xs).filter (fun y => y != x)

/-- The cells that clear the tags of the granules of some byte places (R165). -/
def tagClears (qs : List Nat) : List (Nat × Byte) := (distinct (qs.map tagPlace)).map fun t => (t, 0#8)

/-- The cells that clear the poison of each 32-byte block whose every byte is among some places (R386). -/
def poisonClears (qs : List Nat) : List (Nat × Byte) :=
  ((distinct (qs.map poisonPlace)).filter fun b =>
    (qs.filter fun q => poisonPlace q = b).length ≥ 32).map fun b => (b, 0#8)

/-- The cells of a plain write: its bytes, with the tags of its granules cleared (R165) and the poison of
whole blocks (R386). -/
def plainCells (cells : List (Nat × Byte)) : List (Nat × Byte) :=
  let qs := cells.map (·.1)
  cells ++ tagClears qs ++ poisonClears qs

/-- A view with the cells of a write of order `o` installed where it is later than the write held (R174). -/
def View.install (v : View) (o : Nat) : List (Nat × Byte) → View
  | [] => v
  | (q, b) :: cells =>
    if v.ord.getD q 0 < o then
      View.install { mem := v.mem.write q b, ord := v.ord.put q o } o cells
    else View.install v o cells

/-- A monitor on die `d` after an installation of the places `qs` (R182). -/
def Monitor.see (m : Monitor) (qs : List Nat) : Monitor :=
  match m.armed with
  | some a => if qs.any (fun q => a ≤ q && q < a + 8) then { m with event := true } else m
  | none => m

/-- The state after the view of die `d` installs a write (R174), with the monitors of the die's parties (R182). -/
def State.install (s : State) (d o : Nat) (cells : List (Nat × Byte)) : State :=
  let v := (s.die d).view
  let fresh := (cells.filter fun c => v.ord.getD c.1 0 < o).map (·.1)
  let s1 := s.setDie d { s.die d with view := v.install o cells }
  { s1 with ctxs := s1.ctxs.map fun (k, c) =>
      (k, if dieOfParty k = d then { c with mon := c.mon.see fresh } else c) }

/-- The state with a carry entry placed in the channels from die `d` to every other die (R175). Scratchpad
bytes are held by their own die's view alone (R173). -/
def State.carryOut (s : State) (d : Nat) (t : CarryEntry) : State :=
  let cells := t.cells.filter fun c => isHbm c.1
  if cells = [] then s
  else
    let e : CarryEntry := { t with cells := cells }
    let put (m : Map (List CarryEntry)) (k : Nat) : Map (List CarryEntry) :=
      if k = d then m else m.put k (m.getD k [] ++ [e])
    s.setDie d { s.die d with carry := [0, 1, 2, 3, 4, 5, 6, 7].foldl put (s.die d).carry }

/-- An owner or engine write at die `d` (R174, R175, R200): the next place in coherence order, installed
in the die's view and carried to the others. -/
def State.writeAt (s : State) (d : Nat) (cells : List (Nat × Byte)) (release : Bool) (prior : Map Nat) : State :=
  let o := s.dev.wseq + 1
  let s1 := { s with dev := { s.dev with wseq := o } }
  (s1.install d o cells).carryOut d { cells := cells, ord := o, release := release, prior := prior }

/-- Whether every HBM write of a snapshot is installed or superseded in every die view (R177). -/
def State.seenEverywhere (s : State) (snap : Map Nat) : Bool :=
  [0, 1, 2, 3, 4, 5, 6, 7].all fun e =>
    snap.all fun (q, o) => !isHbm q || o ≤ (s.die e).view.ord.getD q 0

/-- The release condition (R177). -/
def State.released (s : State) (r : Release) : Bool :=
  r.saved.isNone && (r.point ≤ (s.ctx (partyOf r.party)).drained) &&
    (r.scope.toNat < 3 ||
      match r.snap with
      | some m => s.seenEverywhere m
      | none => false)

/-- A release whose stores have all drained takes the snapshot of that moment (R177). -/
def Release.fill (r : Release) (party drained : Nat) (m : Map Nat) : Release :=
  if r.party = party ∧ r.saved = none ∧ r.snap = none ∧ r.point ≤ drained then { r with snap := some m } else r

/-- The release of an outbound entry changed. -/
def OutItem.mapRel (i : OutItem) (f : Release → Release) : OutItem :=
  match i with
  | .msg g t r h => .msg g t (f r) h
  | .carry o => .carry { o with rel := f o.rel }

/-- The releases that the items of a core's parties wait with, changed: messages and carries in its outbound queue, requests
in its command FIFO, operations in flight, and a gang's or an engine's messages (R177). -/
def State.mapRels (s : State) (core : Nat) (f : Release → Release) : State :=
  let k := s.core core
  let s1 := s.setCore core { k with
    outq := k.outq.map fun i => i.mapRel f, fifo := k.fifo.map fun r => { r with rel := f r.rel } }
  { s1 with dev := { s1.dev with
    ops := s1.dev.ops.map fun x => { x with rel := f x.rel },
    unitMsgs := s1.dev.unitMsgs.map fun x => { x with rel := x.rel.map f } } }

/-- A store among the access half's instructions. -/
def AccItem.isStore (i : AccItem) : Bool :=
  match i with
  | .store _ => true
  | _ => false

/-- An `lda` or a fence among the access half's instructions. -/
def AccItem.syncs (i : AccItem) : Bool :=
  match i with
  | .acquire _ _ _ _ => true
  | .fence _ => true
  | _ => false

/-- The stores of a party before this point of its program order: those issued, and those that the access half still
holds (R74). -/
def Ctx.storeCount (c : Ctx) : Nat := c.issued + (c.acc.filter AccItem.isStore).length

/-- The release point of a party at this point of its program order (R177). -/
def Ctx.releaseAt (c : Ctx) (party : Nat) (scope : BitVec 3) : Release :=
  { party := party, point := c.storeCount, scope := scope,
    snap := if c.sb = [] && !c.acc.any AccItem.isStore then some c.snap else none }

/-- The undo record after a drain of order `o`: for the cells of the state window, the byte before the
firing's first write and the order of its last (R372). -/
def undoAfter (u : Map (Byte × Nat)) (v : View) (lo hi o : Nat) : List (Nat × Byte) → Map (Byte × Nat)
  | [] => u
  | (q, _) :: cells =>
    let inWindow := (lo ≤ q && q < hi) || (tagPlace lo ≤ q && q < tagPlace hi)
    let u1 :=
      if inWindow then
        match u.find q with
        | some (b, _) => u.put q (b, o)
        | none => u.put q (v.mem.read q, o)
      else u
    undoAfter u1 v lo hi o cells

/-- A firing once `n` of its party's stores have drained: the resume records whose stores are among them take
effect in order (R157). -/
def Firing.mark (f : Firing) (n : Nat) : Firing :=
  let due := f.pendingMarks.filter fun x => x.2 ≤ n
  match due.getLast? with
  | some (r, _) =>
    { f with record := { f.record with resume := r }, pendingMarks := f.pendingMarks.filter fun x => n < x.2 }
  | none => f

/-- The Drain step of a party (R175): its oldest store-buffer entry. -/
def State.drainOne (s : State) (p : Party) : State :=
  let c := s.ctx p
  match c.sb with
  | [] => s
  | e :: rest =>
    let d := p.die.val
    let o := s.dev.wseq + 1
    let v := (s.die d).view
    let lo := spPlace p.coreIx c.firing.winOff
    let undo := if c.firing.winSize = 0 then c.undo
      else undoAfter c.undo v lo (lo + c.firing.winSize) o e.cells
    let s1 := { s with dev := { s.dev with wseq := o } }
    let s2 := (s1.install d o e.cells).carryOut d
      { cells := e.cells, ord := o, release := e.release, prior := v.ord }
    let m := (s2.die d).view.ord
    let n := c.drained + 1
    let c2 := s2.ctx p
    let marked := c2.firing.mark n
    let s3 := s2.setCtx p { c2 with
      sb := rest, drained := n, snap := m, undo := undo, firing := marked,
      scopedDone := if e.isStl then
          c2.scopedDone ++ (e.cells.filter fun x => isHbm x.1).map fun x => (x.1, o)
        else c2.scopedDone }
    s3.mapRels p.coreIx fun r => r.fill p.ix n m

/-- `n` Drain steps of a party. -/
def State.drainN (s : State) (p : Party) : Nat → State
  | 0 => s
  | n + 1 => (s.drainOne p).drainN p n

/-- Every entry of a party's store buffer drained. -/
def State.drainAll (s : State) (p : Party) : State := s.drainN p (s.ctx p).sb.length

/-- A cell as the party's loads see it: the newest entry of its own store buffer that writes it, else its
die's view (R175). -/
def State.see (s : State) (p : Party) (q : Nat) : Byte :=
  let rec newest : List StoreEntry → Option Byte
    | [] => none
    | e :: es =>
      match newest es with
      | some b => some b
      | none => (e.cells.find? fun x => x.1 == q).map (·.2)
  match newest (s.ctx p).sb with
  | some b => b
  | none => s.cell p.die.val q

/-- The party's store buffer with an entry appended (R175 Store). -/
def Ctx.store (c : Ctx) (e : StoreEntry) : Ctx := { c with sb := c.sb ++ [e], issued := c.issued + 1 }

/-- A cell that some cells read in earlier Load steps give, or as the party's loads see it (R166). -/
def State.seeBeside (s : State) (p : Party) (part : List (Nat × Byte)) (q : Nat) : Byte :=
  match part.find? fun x => x.1 == q with
  | some (_, b) => b
  | none => s.see p q

/-- The number of the 32-byte block that a byte place lies in, or that the granule of a tag place lies in. -/
def blockOf (q : Nat) : Nat :=
  if 0x1000000000000000 ≤ q && q < 0x2000000000000000 then (q - 0x1000000000000000) / 2 else q / 32

/-- The 32-byte blocks of some places that are not among the cells read already (R166). -/
def blocksLeft (part : List (Nat × Byte)) (qs : List Nat) : List Nat :=
  distinct ((qs.filter fun q => !part.any fun x => x.1 == q).map blockOf)

/-- One of some values, by a free value (R166: in either order). -/
def pickOf (f : BitVec 64) (l : List Nat) : Nat := l.getD (f.toNat % l.length) 0

/-- The order that a number picks among all orders of a list. -/
def ordered {α : Type} (n : Nat) : List α → List α
  | [] => []
  | x :: xs =>
    let r := ordered (n / (xs.length + 1)) xs
    let i := n % (xs.length + 1)
    r.take i ++ x :: r.drop i

/-- The cells of one block of some places, as a Load step of the party takes them. -/
def State.blockCells (s : State) (p : Party) (qs : List Nat) (b : Nat) : List (Nat × Byte) :=
  (qs.filter fun q => blockOf q == b).map fun q => (q, s.see p q)

/-- A fresh free value and the state that has used it (DESIGN CHOICE, log 7). -/
def State.fresh (s : State) : BitVec 64 × State :=
  (Config.freeValue s.dev.freeAt, { s with dev := { s.dev with freeAt := s.dev.freeAt + 1 } })

/-! ## Access tables -/

/-- The access-table target of a byte place (R383): HBM regions from 0, scratchpads from 1000. -/
def targetOf (q : Nat) : Nat := if isSp q then 1000 + spCore q else q / 0x40000000

/-- The access-table target of a cluster's CSR block, a fabric port, and the host window (R383). -/
def targetCsr (clu : Nat) : Nat := 30000 + clu

/-- The access-table target of a fabric port. -/
def targetPort (port : Nat) : Nat := 40000 + port

/-- The access-table target of the host message window. -/
def targetHost : Nat := 50000

/-- R384: some entry of the target is valid, names the partition, the unit and the permission.
`perm` is 1 for reads, 2 for writes, 3 for fetch; `unit` is the bit number in UNITS. -/
def State.permitted (s : State) (target : Nat) (part : BitVec 8) (unit perm : Nat) : Bool :=
  s.dev.access.any fun (k, w) =>
    k / 64 == target && w.getLsbD 0 && w.getLsbD perm && w.extractLsb' 8 8 == part && w.getLsbD unit

/-! ## Translation -/

/-- A page-table entry breaks the rules of R378 at its level. -/
def pteMalformed (w : BitVec 64) (level : Nat) : Bool :=
  let leaf := w.getLsbD 1
  let form := (w.extractLsb' 5 2).toNat
  let addr := (w.extractLsb' 16 36).toNat * 65536
  w.extractLsb' 7 9 != 0 ||
    (level == 0 && !leaf) || (level == 3 && leaf) ||
    (!leaf && (w.extractLsb' 2 3 != 0 || form != 0)) ||
    form == 3 ||
    (leaf && level == 1 && addr % 0x200000 != 0) || (leaf && level == 2 && addr % 0x40000000 != 0) ||
    (form == 0 && hbmTop ≤ addr)

/-- The bytes that an entry of a level maps (R378). -/
def levelSize : Nat → Nat
  | 0 => 0x10000
  | 1 => 0x200000
  | 2 => 0x40000000
  | _ => 0x8000000000

/-- The index of a virtual address at a level (R378). -/
def levelIndex (va : Nat) : Nat → Nat
  | 0 => va / 0x10000 % 32
  | 1 => va / 0x200000 % 512
  | 2 => va / 0x40000000 % 512
  | _ => va / 0x8000000000 % 8192

/-- The walk from the table at `tbl` down from a level (R378): the entry found, and its level. -/
def State.walkFrom (s : State) (d va tbl : Nat) : Nat → BitVec 64 × Nat
  | 0 => (s.peek64 d (tbl + 8 * levelIndex va 0), 0)
  | l + 1 =>
    let w := s.peek64 d (tbl + 8 * levelIndex va (l + 1))
    if !w.getLsbD 0 || pteMalformed w (l + 1) || w.getLsbD 1 then (w, l + 1)
    else s.walkFrom d va ((w.extractLsb' 16 36).toNat * 65536) l

/-- The class-table base of a partition (R21). -/
def State.ctbaseOf (s : State) (part : BitVec 8) : Nat := (s.dev.ctbase.getD part.toNat 0).toNat

/-- The walk of a virtual address under a partition, read in the view of die `d` (R378, R380). -/
def State.walk (s : State) (d : Nat) (part : BitVec 8) (va : Nat) : TlbEntry :=
  let root := (s.peek64 d (s.ctbaseOf part + 0x401600)).toNat
  let (w, l) := s.walkFrom d va root 3
  { part := part, base := va / levelSize l * levelSize l, size := levelSize l, word := w,
    malformed := w.getLsbD 0 && pteMalformed w l }

/-- The permission that an access needs of a page and of an access table. -/
inductive Need where
  | r | w | rw | x
  deriving DecidableEq, Repr

/-- Whether a leaf holds the R, W or X that the access needs (R378). -/
def Need.page (n : Need) (w : BitVec 64) : Bool :=
  match n with
  | .r => w.getLsbD 2
  | .w => w.getLsbD 3
  | .rw => w.getLsbD 2 && w.getLsbD 3
  | .x => w.getLsbD 4

/-- The access-table permissions that the access needs (R384). -/
def Need.perms : Need → List Nat
  | .r => [1]
  | .w => [2]
  | .rw => [1, 2]
  | .x => [3]

/-- The outcome of finding an address's place: a place, a cause with tval, or a page to be walked. -/
inductive Found where
  | at (q : Nat)
  | fault (cause : BitVec 6) (tval : BitVec 64)
  | miss (part : BitVec 8) (va : Nat)
  deriving DecidableEq, Repr

/-- A held translation is of a virtual address. -/
def TlbEntry.hit (e : TlbEntry) (part : BitVec 8) (va : Nat) : Bool := e.part == part && e.base ≤ va && va < e.base + e.size

/-- The translation held for a virtual address: the core's micro-TLB, then the cluster's TLB (R380). -/
def State.tlb (s : State) (core : Nat) (part : BitVec 8) (va : Nat) : Option TlbEntry :=
  match (s.core core).utlb.find? fun e => e.hit part va with
  | some e => some e
  | none => (s.clu (cluOfCore core)).tlb.find? fun e => e.hit part va

/-- The key of the translations that a die's units of one kind hold. -/
def unitKey (die unit : Nat) : Nat := 1 + 64 * die + unit

/-- The translation that units use for an address: the one that they hold, else the walk's (R380). -/
def State.heldWalk (s : State) (key d : Nat) (part : BitVec 8) (va : Nat) : TlbEntry :=
  ((s.dev.pages.getD key []).find? fun e => e.hit part va).getD (s.walk d part va)

/-- The walk of an address as homes are found by it: of its 64 KiB page alone (R26, R378). -/
def State.homeWalk (s : State) (d : Nat) (part : BitVec 8) (va : Nat) : TlbEntry :=
  let e := s.walk d part va
  let page := va / 0x10000 * 0x10000
  { e with base := page, size := 0x10000, word := e.word + BitVec.ofNat 64 (page - e.base), leaf := e.size }

/-- The translation that units come to hold for an address. -/
def State.pageFor (s : State) (key d : Nat) (part : BitVec 8) (va : Nat) : TlbEntry :=
  if key = 0 then s.homeWalk d part va else s.walk d part va

/-- The units hold the translation of an address from its first use until `atinv` (R380). -/
def State.holdPage (s : State) (key d : Nat) (part : BitVec 8) (va : Nat) : State :=
  let l := s.dev.pages.getD key []
  if l.any fun e => e.hit part va then s
  else { s with dev := { s.dev with pages := s.dev.pages.put key (l ++ [s.pageFor key d part va]) } }

/-- The first virtual address among `n` bytes whose translation the units do not hold. -/
def State.missing (s : State) (key : Nat) (part : BitVec 8) (a n : Nat) : Option Nat :=
  let vas := if n = 0 then [] else ((List.range (n / 0x10000 + 1)).map fun i => a + min (0x10000 * i) (n - 1)) ++ [a + (n - 1)]
  vas.find? fun va =>
    0x20000 ≤ va && va < 0xFF00000000000 && !(s.dev.pages.getD key []).any fun e => e.hit part va

/-- A pending walk joined by the units of a key. -/
def WalkReq.joinUnit (r : WalkReq) (key : Nat) : WalkReq :=
  if r.units.contains key then r else { r with units := r.units ++ [key] }

/-- The units of a key wait for the walk of a page: the walker of a die is asked for it, unless it holds 4,096 pending pages;
they then ask again (R380). -/
def State.askUnit (s : State) (key die : Nat) (part : BitVec 8) (va : Nat) : State :=
  let page := va / 0x10000 * 0x10000
  let d := s.die die
  let same (r : WalkReq) : Bool := r.part == part && r.page == page
  if d.walks.any same then
    s.setDie die { d with walks := d.walks.map fun r => if same r then r.joinUnit key else r }
  else if d.walks.length < 4096 then
    s.setDie die { d with walks := d.walks ++ [{ part := part, page := page, units := [key] }] }
  else s

/-- What a step of units does once they hold the translations of `n` bytes; until then it only waits for a walk (R380). -/
def State.onPages (s : State) (key die : Nat) (part : BitVec 8) (a n : Nat) (k : State) : State :=
  match s.missing key part a n with
  | some va => s.askUnit key die part va
  | none => k

/-- The checks of a leaf (R379). -/
def leafCheck (e : TlbEntry) (need : Need) (va : Nat) : Found :=
  let t := BitVec.ofNat 64 va
  if !e.word.getLsbD 0 then .fault 0x11 t
  else if e.malformed then .fault 0x1A t
  else if !need.page e.word then .fault 0x12 t
  else if e.word.extractLsb' 5 2 != 0#2 then .fault 0x1B t
  else .at ((e.word.extractLsb' 16 36).toNat * 65536 + va % e.size)

/-- The windows of R161. -/
inductive Window where
  | own | virt | phys | die | none
  deriving DecidableEq, Repr

/-- The window of an address in the map of a compute core's contexts, or of a supervisor core (R161). -/
def windowOf (sup : Bool) (a : Nat) : Window :=
  if sup && a < hbmTop then .phys
  else if !sup && a < 0x20000 then .own
  else if !sup && a < 0xFF00000000000 then .virt
  else if 0xFF00000000000 ≤ a && a < 0xFF00010000000 then .die
  else .none

/-- The place that a byte address names for a party (R161, R379, R384). -/
def State.placeOf (s : State) (p : Party) (need : Need) (a : Nat) : Found :=
  let part := (s.ctx p).partid
  let check (q : Nat) : Found :=
    if p.isSup || need.perms.all (fun m => s.permitted (targetOf q) part (if need = .x then 17 else 16) m)
    then .at q
    else .fault 0x13 (BitVec.ofNat 64 a)
  match windowOf p.isSup a with
  | .phys => .at a
  | .own => check (spPlace p.coreIx a)
  | .die =>
    let o := a - 0xFF00000000000
    check (spPlace (p.die.val * 2048 + o / 0x20000) (o % 0x20000))
  | .none => .fault 0x10 (BitVec.ofNat 64 a)
  | .virt =>
    match s.tlb p.coreIx part a with
    | none => .miss part a
    | some e =>
      match leafCheck e need a with
      | .at q => check q
      | f => f

/-- The outcome of finding the places of an access. -/
inductive FoundAll where
  | at (qs : List Nat)
  | fault (cause : BitVec 6) (tval : BitVec 64)
  | miss (part : BitVec 8) (va : Nat)
  deriving DecidableEq, Repr

/-- The first byte beyond the window of the first byte, if the access spans two windows (R161). -/
def spanBreak (sup : Bool) (w : Window) (a : Nat) : Nat → Option Nat
  | 0 => none
  | n + 1 => if windowOf sup a = w then spanBreak sup w (a + 1) n else some a

/-- The places of the bytes of an access, from the first that is refused (R205, R379). -/
def State.placesFrom (s : State) (p : Party) (need : Need) (a : Nat) : Nat → FoundAll
  | 0 => .at []
  | n + 1 =>
    match s.placeOf p need a with
    | .fault c t => .fault c t
    | .miss x va => .miss x va
    | .at q =>
      match s.placesFrom p need (a + 1) n with
      | .at qs => .at (q :: qs)
      | f => f

/-- The byte that cause 0x10 names for an access of `n` bytes at address `a`, where it takes it (R161). -/
def windowFault (sup : Bool) (a n : Nat) : Option Nat :=
  let w := windowOf sup a
  if w = .none then some a else spanBreak sup w a n

/-- The places of the `n` bytes at address `a`: first 0x10, then translation and the access tables (R205). -/
def State.places (s : State) (p : Party) (need : Need) (a n : Nat) : FoundAll :=
  match windowFault p.isSup a n with
  | some b => .fault 0x10 (BitVec.ofNat 64 b)
  | none => s.placesFrom p need a n

/-- The address of the first poisoned 32-byte block that the bytes at `a` touch (R386). -/
def State.poisonedFrom (s : State) (d : Nat) (a : Nat) : List Nat → Option (BitVec 64)
  | [] => none
  | q :: qs =>
    if s.cell d (poisonPlace q) != 0#8 then some (BitVec.ofNat 64 (a / 32 * 32))
    else s.poisonedFrom d (a + 1) qs

/-- The first `n` entries of a list kept by a cache of `n` places; a full cache replaces the entry that
the implementation picks (R380, DESIGN CHOICE, log 8). -/
def cacheAdd (l : List TlbEntry) (n seed : Nat) (e : TlbEntry) : List TlbEntry :=
  if l.length < n then l ++ [e] else l.set (Config.tlbVictim seed % n) e

end Sys2Proof.Machine
end

