-- ==== Sys2Proof/Machine/Caps.lean ====
section
/-! DEFINITION. Capabilities: the fields of a register read as one (03/R68 to R71) and the check of an access
against its authorising register (07/R132, R133). -/

namespace Sys2Proof.Machine

/-- The ADDR field, or data word (R68). -/
def capAddr (r : Reg) : BitVec 64 := r.extractLsb' 0 64

/-- The META field (R69). -/
def capMeta (r : Reg) : BitVec 64 := r.extractLsb' 64 64

/-- The TAG bit (R68). -/
def capTag (r : Reg) : Bool := r.getLsbD 128

/-- The permissions META[127:117] in bits 10:0: LOAD is bit 0 and SUPER bit 10 (R69, R145). -/
def capPerms (r : Reg) : BitVec 11 := r.extractLsb' 117 11

/-- The object type (R69). -/
def capOtype (r : Reg) : BitVec 7 := r.extractLsb' 64 7

/-- The exponent E as stored (R69). -/
def capExp (r : Reg) : Nat := (r.extractLsb' 111 6).toNat

/-- A data word as a register: untagged, with zero metadata (R56). -/
def dataReg (v : BitVec 64) : Reg := 0#1 ++ 0#64 ++ v

/-- A register from its three fields (R68). -/
def mkCap (tag : Bool) (m a : BitVec 64) : Reg := BitVec.ofBool tag ++ m ++ a

/-- Metadata from its fields (R69). -/
def mkMeta (perms : BitVec 11) (e : Nat) (b l : Nat) (otype : BitVec 7) : BitVec 64 :=
  perms ++ BitVec.ofNat 6 e ++ BitVec.ofNat 20 b ++ BitVec.ofNat 20 l ++ otype

/-- The register with its address replaced. -/
def capWithAddr (r : Reg) (a : BitVec 64) : Reg := mkCap (capTag r) (capMeta r) a

/-- The register with its tag cleared. -/
def capUntag (r : Reg) : Reg := mkCap false (capMeta r) (capAddr r)

/-- The permission bits by name (R69). -/
def permLoad : BitVec 11 := 0x001
def permStore : BitVec 11 := 0x002
def permLoadCap : BitVec 11 := 0x004
def permStoreCap : BitVec 11 := 0x008
def permExec : BitVec 11 := 0x010
def permCopy : BitVec 11 := 0x020
def permRemote : BitVec 11 := 0x040
def permGlobal : BitVec 11 := 0x080
def permSteer : BitVec 11 := 0x100
def permProbe : BitVec 11 := 0x200
def permSuper : BitVec 11 := 0x400

/-- Whether every permission of `need` is held. -/
def hasPerms (r : Reg) (need : BitVec 11) : Bool := capPerms r &&& need == need

/-- The exponent that decoding uses: an untagged E above 44 reads as 44 (R145). -/
def capE (r : Reg) : Nat := min (capExp r) 44

/-- The base of a capability (R70), computed exactly. -/
def capBase (r : Reg) : Int :=
  let a := (capAddr r).toNat
  let e := capE r
  let b := (r.extractLsb' 91 20).toNat
  let top := 2 ^ (e + 20)
  ((a - a % top : Nat) : Int) + ((b * 2 ^ e : Nat) : Int) - (if a % top / 2 ^ e < b then (top : Int) else 0)

/-- The length of a capability (R70). -/
def capLength (r : Reg) : Nat := (r.extractLsb' 71 20).toNat * 2 ^ capE r

/-- The top of a capability (R70). -/
def capTop (r : Reg) : Int := capBase r + capLength r

/-- R71: the address `n` is representable for the bounds of `r`. -/
def representable (r : Reg) (n : Nat) : Bool :=
  capBase r ≤ n && (n : Int) < capBase r + (2 ^ (capE r + 20) : Nat)

/-- The tval of cause 0x08 (R132). -/
def boundsTval (r : Reg) (p : Nat) : BitVec 64 :=
  if (p : Int) < capBase r then BitVec.ofNat 64 p
  else
    let t : Int := if capTop r < (2 : Int) ^ 64 then capTop r else (2 : Int) ^ 64
    BitVec.ofInt 64 (if (p : Int) < t then t else p)

/-- The check of an access of `n` bytes at `p` against a register (R133): none, or the cause and tval. -/
def checkCap (sup : Bool) (r : Reg) (p n : Nat) (need : BitVec 11) (capAcc : Bool) :
    Option (BitVec 6 × BitVec 64) :=
  let t := BitVec.ofNat 64 p
  if !capTag r then some (0x05, t)
  else if capOtype r != 0 then some (0x06, t)
  else if !hasPerms r need then some (0x07, t)
  else if hasPerms r permSuper && !sup then some (0x07, t)
  else if (p : Int) < capBase r || capTop r < ((p + n : Nat) : Int) || 2 ^ 64 < p + n then
    some (0x08, boundsTval r p)
  else if capAcc && p % 16 != 0 then some (0x0A, t)
  else none

/-- An unsealed capability over [base, base + len) at address `base` with E = 0 (R34, R213). -/
def regionCap (perms : BitVec 11) (base len : Nat) : Reg :=
  mkCap true (mkMeta perms 0 base len 0) (BitVec.ofNat 64 base)

end Sys2Proof.Machine
end

