-- ==== Sys2Proof/Machine/Class.lean ====
section
/-! DEFINITION. Class descriptors (01/R21 to R25), the tables that routing units read, homes (R26, R163), the
routing checks (R24, 11/R209), message headers (11/R207), and mailbox records (23/R376). -/

namespace Sys2Proof.Machine

/-! ## Descriptors -/

def descEntry (d : BitVec 512) : BitVec 64 := d.extractLsb' 0 64
def descInit (d : BitVec 512) : BitVec 64 := d.extractLsb' 64 64
def descPort (d : BitVec 512) (p : Nat) : BitVec 16 := d.extractLsb' (128 + 16 * p) 16
def descId (d : BitVec 512) : BitVec 16 := d.extractLsb' 192 16
def descStsz (d : BitVec 512) : Nat := (d.extractLsb' 208 11).toNat
def descPlace (d : BitVec 512) : BitVec 2 := d.extractLsb' 219 2
def descJrnl (d : BitVec 512) : Bool := d.getLsbD 221
def descSheet (d : BitVec 512) : Bool := d.getLsbD 222
def descTrapp (d : BitVec 512) : Bool := d.getLsbD 223
def descAny (d : BitVec 512) : Bool := d.getLsbD 224
def descTrapix (d : BitVec 512) : Nat := (d.extractLsb' 225 2).toNat
def descCtoff (d : BitVec 512) : Nat := (d.extractLsb' 227 10).toNat
def descSpill (d : BitVec 512) : Nat := (d.extractLsb' 256 8).toNat
def descLxbase (d : BitVec 512) : Nat := (d.extractLsb' 264 11).toNat
def descLxlen (d : BitVec 512) : Nat := (d.extractLsb' 275 12).toNat
def descBankh (d : BitVec 512) : Nat := (d.extractLsb' 288 32).toNat
def descPdevbase (d : BitVec 512) : Nat := (d.extractLsb' 320 12).toNat
def descPdevcnt (d : BitVec 512) : Nat := (d.extractLsb' 332 13).toNat
def descPdiemask (d : BitVec 512) : BitVec 8 := d.extractLsb' 345 8
def descPinclu (d : BitVec 512) : Nat := (d.extractLsb' 353 8).toNat
def descValid (d : BitVec 512) : Bool := d.getLsbD 383

/-- KIND of a port: 0 absent, 1 count, 2 counter, 3 top-k (R22). -/
def portKind (d : BitVec 512) (p : Nat) : Nat := ((descPort d p).extractLsb' 0 2).toNat

/-- PARAM of a port (R22). -/
def portParam (d : BitVec 512) (p : Nat) : Nat := ((descPort d p).extractLsb' 2 8).toNat

/-- The four ports. -/
def portList : List Nat := [0, 1, 2, 3]

/-- The counter port of a class, if it has one. -/
def counterPort (d : BitVec 512) : Option Nat := portList.find? fun p => portKind d p == 2

/-- The set bits of a die mask, ascending. -/
def dieBits (m : BitVec 8) : List Nat := [0, 1, 2, 3, 4, 5, 6, 7].filter fun i => m.getLsbD i

/-- A port entry with a resv bit or a PARAM outside the range of its KIND (R22, R23). -/
def portMalformed (d : BitVec 512) (p : Nat) : Bool :=
  let q := portParam d p
  (descPort d p).extractLsb' 10 6 != 0 ||
    match portKind d p with
    | 0 => q != 0
    | 3 => q == 0 || 16 < q
    | _ => q == 0

/-- R23: a descriptor with VALID = 1 is malformed. -/
def descMalformed (d : BitVec 512) (index : BitVec 16) : Bool :=
  descId d != index || 1024 < descStsz d || descPlace d == 3#2 ||
    d.extractLsb' 237 19 != 0 || d.getLsbD 287 || d.extractLsb' 361 22 != 0 || d.extractLsb' 384 128 != 0 ||
    portList.any (portMalformed d) ||
    1 < (portList.filter fun p => portKind d p == 2).length ||
    (match counterPort d with
      | some p => descStsz d < descCtoff d + portParam d p
      | none => false) ||
    (descTrapp d && !(portKind d (descTrapix d) == 1 && portParam d (descTrapix d) == 1)) ||
    (!descSheet d && portList.all (fun p => portKind d p == 0)) ||
    (descSheet d && (descStsz d != 0 || portList.any (fun p => portKind d p != 0) || descJrnl d || descTrapp d)) ||
    (descPlace d == 0#2 &&
      (descPdevcnt d == 0 || 4096 < descPdevbase d + descPdevcnt d || descPdiemask d == 0)) ||
    (descPlace d == 2#2 && (dieBits (descPdiemask d)).length != 1) ||
    index == 0xFFFF#16

/-! ## Tables read through the cache slices -/

/-- The key of the copies that a die's units hold of the tables under a key (R381). -/
def copyKey (die key : Nat) : Nat := die * 512 + key

/-- A dword of the tables under a key as the routing units of a die hold it: the copy they hold since they first read
it, until `atinv` drops it (R25, R150, R381; DEDUCED, log 12). A partition's tables have its number as key, and the bank store
table has 256. -/
def State.copyDword (s : State) (die key q : Nat) : BitVec 64 × State :=
  let t := s.dev.tables.getD (copyKey die key) []
  match t.find q with
  | some w => (w, s)
  | none =>
    let w := s.peek64 die q
    (w, { s with dev := { s.dev with tables := s.dev.tables.put (copyKey die key) (t.put q w) } })

/-- A dword of a partition's tables. -/
def State.tableDword (s : State) (die : Nat) (part : BitVec 8) (q : Nat) : BitVec 64 × State :=
  s.copyDword die part.toNat q

/-- `n` dwords of a partition's tables, the first least significant. -/
def State.tableWords (s : State) (die : Nat) (part : BitVec 8) (q : Nat) : Nat → Nat × State
  | 0 => (0, s)
  | n + 1 =>
    let (w, s1) := s.tableDword die part q
    let (r, s2) := s1.tableWords die part (q + 8) n
    (w.toNat + 2 ^ 64 * r, s2)

/-- The class descriptor that a unit of a die reads (R21, R24). -/
def State.readDesc (s : State) (die : Nat) (part : BitVec 8) (cls : BitVec 16) : BitVec 512 × State :=
  let (w, s1) := s.tableWords die part (s.ctbaseOf part + 64 * cls.toNat) 8
  (BitVec.ofNat 512 w, s1)

/-- The class bound to an object type by the partition's seal map, if bound (R150). -/
def State.sealClass (s : State) (die : Nat) (part : BitVec 8) (t : Nat) : Option (BitVec 16) × State :=
  let q := s.ctbaseOf part + 0x400000 + 4 * t
  let (w, s1) := s.tableDword die part (q / 8 * 8)
  let e := w.extractLsb' (q % 8 * 8) 32
  (if e.getLsbD 31 && e.extractLsb' 16 15 == 0 then some (e.extractLsb' 0 16) else none, s1)

/-! ## Message headers (R207) -/

def hdrPort (h : BitVec 64) : Nat := (h.extractLsb' 0 2).toNat
def hdrKind (h : BitVec 64) : Nat := (h.extractLsb' 2 2).toNat
def hdrDepth (h : BitVec 64) : BitVec 4 := h.extractLsb' 4 4
def hdrPrio (h : BitVec 64) : BitVec 8 := h.extractLsb' 8 8
def hdrLtag (h : BitVec 64) : BitVec 12 := h.extractLsb' 16 12
def hdrSub (h : BitVec 64) : Nat := (h.extractLsb' 28 4).toNat
def hdrDelta (h : BitVec 64) : Nat := (h.extractLsb' 32 32).toNat

/-- A header from its fields (R207). -/
def mkHdr (port : BitVec 2) (kind : BitVec 2) (depth : BitVec 4) (prio : BitVec 8) (ltag : BitVec 12)
    (sub : BitVec 4) (delta : BitVec 32) : BitVec 64 :=
  delta ++ sub ++ ltag ++ prio ++ depth ++ kind ++ port

/-- A header with its PRIO replaced (R310). -/
def hdrSetPrio (h : BitVec 64) (p : BitVec 8) : BitVec 64 := h.extractLsb' 16 48 ++ p ++ h.extractLsb' 0 8

/-- A payload from its six dwords (R206). -/
def mkPay (a b c d e f : BitVec 64) : BitVec 384 := f ++ e ++ d ++ c ++ b ++ a

/-- Dword `i` of a payload. -/
def payWord (p : BitVec 384) (i : Nat) : BitVec 64 := p.extractLsb' (64 * i) 64

/-- A trap message: a notice with SUB 0x2 (R373). -/
def isTrapMsg (h : BitVec 64) : Bool := hdrKind h == 3 && hdrSub h == 2

/-- Whether a message is an item: launch-end and gang-start notices are not (R233). -/
def isItem (h : BitVec 64) : Bool := !(hdrKind h == 3 && (hdrSub h == 3 || hdrSub h == 4))

/-! ## Routing -/

/-- Why the routing unit discards a message of a class (R24, R209): the cause it reports. -/
def routeRefusal (d : BitVec 512) (cls : BitVec 16) (h : BitVec 64) : Option (BitVec 6) :=
  let p := hdrPort h
  if !descValid d then some 0x20
  else if descMalformed d cls then some 0x21
  else if descSheet d then some 0x25
  else if portKind d p == 0 then some 0x25
  else
    match hdrKind h with
    | 1 => if portKind d p == 2 then none else some 0x25
    | 2 => if portKind d p == 3 then none else some 0x25
    | _ =>
      if portKind d p == 2 then some 0x25
      else if descTrapp d && p == descTrapix d && !isTrapMsg h then some 0x25
      else none

/-- The home of an actor: a cluster of a device of the domain, or none where the key is not mapped (R26). -/
inductive HomePlace where
  | at (dev die clu : Nat)
  | unmapped
  deriving DecidableEq, Repr

/-- The placement hash of R26. -/
def placeHash (part : BitVec 8) (cls : BitVec 16) (key : BitVec 64) : Nat :=
  let cv := part.toNat * 0x10000 + cls.toNat
  let h1 := key.toNat * 0x9E3779B97F4A7C15 % 2 ^ 64
  let h2 := h1 ^^^ (cv * 0xC2B2AE3D27D4EB4F % 2 ^ 64)
  let h3 := h2 ^^^ (h2 >>> 31)
  let h4 := h3 * 0x94D049BB133111EB % 2 ^ 64
  h4 ^^^ (h4 >>> 29)

/-- The home of an actor of a keyed class (R26, R163), as a unit of die `die` finds it. The mapping of an ADDR key's page
is the one that homes are found by since it was first used, until `atinv` (R27, R28). A key whose entry is malformed, or
whose page is no device memory (FORM 01 or 10), counts as a key that is not mapped (DESIGN CHOICE, log 105: R26 and R163
speak of unmapped keys alone). -/
def State.homeOf (s : State) (die : Nat) (d : BitVec 512) (part : BitVec 8) (cls : BitVec 16)
    (key : BitVec 64) : HomePlace :=
  match (descPlace d).toNat with
  | 0 =>
    let h := placeHash part cls key
    let dev := descPdevbase d + h / 2 ^ 32 * descPdevcnt d / 2 ^ 32
    let ds := dieBits (descPdiemask d)
    .at dev (ds.getD (h / 2 ^ 16 % 65536 * ds.length / 65536) 0) (h % 256)
  | 1 =>
    let dev := key.extractLsb' 52 12
    let a := (key.extractLsb' 0 52).toNat
    if dev != s.dev.num then .at dev.toNat 0 0
    else if a < 0x20000 || 0xFF00000000000 ≤ a then .unmapped
    else
      let e := s.heldWalk 0 die part a
      if e.word.getLsbD 0 && !e.malformed && e.word.extractLsb' 5 2 == 0#2 then
        let q := (e.word.extractLsb' 16 36).toNat * 65536 + a % e.size
        let o := ownerOf q
        .at dev.toNat (dieOfCore o) (o / 8 % 256)
      else .unmapped
  | _ => .at (descPdevbase d) ((dieBits (descPdiemask d)).getD 0 0) (descPinclu d)

/-- The virtual address by whose mapping an actor's home is found, for a class with PLACE = ADDR. -/
def State.homeVa (s : State) (d : BitVec 512) (key : BitVec 64) : Option Nat :=
  let a := (key.extractLsb' 0 52).toNat
  if descPlace d == 1#2 && key.extractLsb' 52 12 == s.dev.num && 0x20000 ≤ a && a < 0xFF00000000000 then some a else none

/-- That address, where its translation is not held: the unit that routes waits for its walk (R380). -/
def State.homeMissing (s : State) (d : BitVec 512) (part : BitVec 8) (key : BitVec 64) : Option Nat :=
  match s.homeVa d key with
  | some a => s.missing 0 part a 1
  | none => none

/-- What a step of a unit of die `die` does once it can find an actor's home. -/
def State.onHome (s : State) (die : Nat) (d : BitVec 512) (part : BitVec 8) (key : BitVec 64) (k : State) : State :=
  match s.homeMissing d part key with
  | some va => s.askUnit 0 die part va
  | none => k

/-- The home of an actor found by a unit: the mapping of an ADDR key's page is held from then on (R27). -/
def State.findHome (s : State) (die : Nat) (d : BitVec 512) (part : BitVec 8) (cls : BitVec 16) (key : BitVec 64) :
    HomePlace × State :=
  (s.homeOf die d part cls key,
    match s.homeVa d key with
    | some a => s.holdPage 0 die part a
    | none => s)

/-! ## Launch-tag counts (R233) -/

/-- The key of a tag's counts: a partition's tag. -/
def tagKey (part : BitVec 8) (tag : BitVec 12) : Nat := part.toNat * 4096 + tag.toNat

/-- A count of a tag raised by one (R233). -/
def countUp (m : Map (BitVec 32)) (part : BitVec 8) (tag : BitVec 12) : Map (BitVec 32) :=
  m.put (tagKey part tag) (m.getD (tagKey part tag) 0 + 1)

/-- A core's SENT of a tag raised by one. -/
def State.sentUp (s : State) (core : Nat) (part : BitVec 8) (tag : BitVec 12) : State :=
  let k := s.core core
  s.setCore core { k with sent := countUp k.sent part tag }

/-- A core's RECV of a tag raised by one. -/
def State.recvUp (s : State) (core : Nat) (part : BitVec 8) (tag : BitVec 12) : State :=
  let k := s.core core
  s.setCore core { k with recv := countUp k.recv part tag }

/-- A core's RECV raised by each of some messages that are items. -/
def State.recvAll (s : State) (core : Nat) : List Message → State
  | [] => s
  | m :: ms =>
    (if isItem m.hdr then s.recvUp core m.part (hdrLtag m.hdr) else s).recvAll core ms

/-! ## Mailbox records (R376) -/

/-- A mailbox record. `unit` is the kind of the reporting unit and `tuple` locates it. -/
structure MailRec where
  cause : BitVec 6
  src : BitVec 2 := 1
  part : BitVec 8 := 0
  cls : BitVec 16 := 0
  ctx : BitVec 2 := 0
  unit : BitVec 4 := 0
  tuple : BitVec 26 := 0
  key : BitVec 64 := 0
  epc : BitVec 64 := 0
  tval : BitVec 64 := 0
  d0 : BitVec 64 := 0
  d1 : BitVec 64 := 0
  d2 : BitVec 64 := 0
  deriving DecidableEq, Repr

/-- The 64 bytes of record number `n` (R376). -/
def MailRec.word (r : MailRec) (n : BitVec 64) : BitVec 512 :=
  n ++ r.d2 ++ r.d1 ++ r.d0 ++ r.tval ++ r.epc ++ r.key ++ r.tuple ++ r.unit ++ r.ctx ++ r.cls ++ r.part ++
    r.src ++ r.cause

/-- A fault message to the supervisor of die `d`: a record in the die's mailbox ring, then PROD; or LOST,
when PROD − CONS has reached 4,096 (R376). -/
def State.report (s : State) (d : Nat) (r : MailRec) : State :=
  let base := d * stackSize
  let prod := s.peek64 d base
  let cons := s.peek64 d (base + 8)
  let cells (q v n : Nat) : List (Nat × Byte) := plainCells (bytesCells q v n)
  if (prod - cons).toNat ≥ 4096 then
    s.writeAt d (cells (base + 16) ((s.peek64 d (base + 16)).toNat + 1) 8) false []
  else
    let s1 := s.writeAt d (cells (base + 64 + 64 * (prod.toNat % 4096)) (r.word prod).toNat 64) false []
    s1.writeAt d (cells base (prod + 1).toNat 8) true (s1.die d).view.ord

/-- The tuple of a cluster of this device: its core field is 0 (R376). -/
def State.cluTuple (s : State) (clu : Nat) : BitVec 26 := tupleOfCore (clu * 8) s.dev.num

/-- The tuple of a die of this device (R376). -/
def State.dieTuple (s : State) (d : Nat) : BitVec 26 := tupleOfCore (d * 2048) s.dev.num

/-- The tuple of this device (R376). -/
def State.devTuple (s : State) : BitVec 26 := s.dev.num ++ 0#14

end Sys2Proof.Machine
end

