-- ==== Sys2Proof/Machine/Sched.lean ====
section
/-! DEFINITION. Hosted actors: their ports, readiness, and the choice of the next firing (01/R29 to R33). -/

namespace Sys2Proof.Machine

/-- The name of an actor (R26). -/
abbrev ActorName := BitVec 8 × BitVec 16 × BitVec 64

/-- The name of a hosted actor. -/
def Actor.name (a : Actor) : ActorName := (a.part, a.cls, a.key)

/-- The actor a message is for. -/
def Message.name (m : Message) : ActorName := (m.part, m.cls, m.key)

/-- The key of a home's hearth entry for an actor, if it has one. -/
def Cluster.entryOf (k : Cluster) (n : ActorName) : Option (Nat × Hearth) :=
  k.hearth.find? fun (_, h) => h.state != .free && h.part == n.1 && h.cls == n.2.1 && h.key == n.2.2

/-- A hosted actor of a core by name. -/
def Core.actor (k : Core) (n : ActorName) : Option Actor := k.actors.find? fun a => a.name == n

/-- The core with a hosted actor changed. -/
def Core.setActor (k : Core) (n : ActorName) (f : Actor → Actor) : Core :=
  { k with actors := k.actors.map fun a => if a.name == n then f a else a }

/-- A message placed in a top-k list: behind every entry of its priority or above (R31). -/
def topSorted (q : List Message) (m : Message) : List Message :=
  let before := q.takeWhile fun x => hdrPrio m.hdr ≤ hdrPrio x.hdr
  before ++ m :: q.drop before.length

/-- A message placed in a top-k list of depth `n`: the entry that then sorts last beyond `n` is dropped (R31). -/
def topInsert (n : Nat) (q : List Message) (m : Message) : List Message := (topSorted q m).take n

/-- A port after a message arrives (R29, R31). -/
def PortQ.arrive (pq : PortQ) (d : BitVec 512) (p : Nat) (m : Message) : PortQ :=
  if portKind d p == 3 then
    let n := portParam d p
    if hdrKind m.hdr == 2 then
      if pq.ready then { pq with nextClose := pq.nextClose ++ [m] }
      else { pq with close := some m, ready := true }
    else if pq.ready then { pq with nextQ := topInsert n pq.nextQ m }
    else
      let q := topInsert n pq.q m
      { pq with q := q, ready := n ≤ q.length }
  else { pq with q := pq.q ++ [m] }

/-- The entries that a port drops when a message arrives (R31). -/
def PortQ.drops (pq : PortQ) (d : BitVec 512) (p : Nat) (m : Message) : List Message :=
  if portKind d p == 3 && hdrKind m.hdr != 2 then
    (topSorted (if pq.ready then pq.nextQ else pq.q) m).drop (portParam d p)
  else []

/-- A top-k port once its ready round's firing starts: the next round becomes its contents (R31). Close messages that
arrived before that, beyond the one that closes the next round, are kept for the rounds after it, one each (DESIGN CHOICE,
log 105: R31 speaks of one close). -/
def PortQ.nextRound (pq : PortQ) (d : BitVec 512) (p : Nat) : PortQ :=
  { q := pq.nextQ, close := pq.nextClose.head?, nextQ := [], nextClose := pq.nextClose.tail,
    ready := portParam d p ≤ pq.nextQ.length || pq.nextClose != [] }

/-- The port of an actor. -/
def Actor.port (a : Actor) (p : Nat) : PortQ := a.ports.toList.getD p {}

/-- The actor with a port replaced. -/
def Actor.setPort (a : Actor) (p : Nat) (q : PortQ) : Actor :=
  { a with ports := a.ports.setIfInBounds p q }

/-- The count group: the count ports other than the trap port (R29). -/
def countGroup (d : BitVec 512) : List Nat :=
  portList.filter fun p => portKind d p == 1 && !(descTrapp d && p == descTrapix d)

/-- The ports of the count group that a firing consumes from, when the group is ready (R29). -/
def Actor.groupPorts (a : Actor) : Option (List Nat) :=
  let g := countGroup a.desc
  let full (p : Nat) : Bool := portParam a.desc p ≤ (a.port p).q.length
  if descAny a.desc then (g.find? full).map fun p => [p]
  else if g != [] && g.all full then some g
  else none

/-- What the next firing is on (R33). -/
inductive Pick where
  | trap (p : Nat)
  | counter
  | topk (p : Nat)
  | group (ps : List Nat)
  deriving DecidableEq, Repr

/-- The next firing of an actor that is not running, in the order of R33. -/
def Actor.nextPick (a : Actor) : Option Pick :=
  let d := a.desc
  if descTrapp d && (a.port (descTrapix d)).q != [] then some (.trap (descTrapix d))
  else if a.counters != [] then some .counter
  else
    match portList.find? fun p => portKind d p == 3 && (a.port p).ready with
    | some p => some (.topk p)
    | none => a.groupPorts.map .group

/-- The messages that a firing consumes, and the actor without them (R29 to R32, R34). -/
def Actor.consume (a : Actor) : Pick → List Message × Actor
  | .trap p => ((a.port p).q.take 1, a.setPort p { a.port p with q := (a.port p).q.drop 1 })
  | .counter => ((a.counters.take 1).map (·.2), { a with counters := a.counters.drop 1 })
  | .topk p =>
    let q := a.port p
    (q.q ++ q.close.toList, a.setPort p (q.nextRound a.desc p))
  | .group ps =>
    ps.foldl (fun (acc : List Message × Actor) p =>
      let n := portParam a.desc p
      let q := acc.2.port p
      (acc.1 ++ q.q.take n, acc.2.setPort p { q with q := q.q.drop n })) ([], a)

/-- Whether the actor has any message queued. -/
def Actor.queued (a : Actor) : Bool :=
  a.counters != [] || a.unjournalled != [] ||
    portList.any fun p =>
      let q := a.port p
      q.q != [] || q.close.isSome || q.nextQ != [] || q.nextClose != []

/-- Some messages in the order of their arrival. -/
def byArrival (ms : List Message) : List Message :=
  ms.foldl (fun acc m =>
    let before := acc.takeWhile fun x => x.arrived ≤ m.arrived
    before ++ m :: acc.drop before.length) []

/-- Every message that the actor has queued, in arrival order. -/
def Actor.messages (a : Actor) : List Message :=
  byArrival ((portList.map fun p =>
    let q := a.port p
    q.q ++ q.close.toList ++ q.nextQ ++ q.nextClose).flatten ++ a.counters.map (·.2) ++ a.unjournalled)

/-- The actor is idle (R40): no queued messages, no running firing and no pin. -/
def Actor.idle (k : Core) (a : Actor) : Bool :=
  !a.queued && !a.running && !a.saved && !a.pin && !a.ready &&
    !(k.decs.any fun m => m.name == a.name) && !(k.spill.any fun m => m.name == a.name)

/-- An actor evaluated: when it is not running and a port is ready, it enters the ready queue, where it has
at most one entry (R33, R237). -/
def Core.evaluate (k : Core) (n : ActorName) : Core :=
  match k.actor n with
  | none => k
  | some a =>
    if a.running || a.ready || a.saved then k
    else if a.nextPick.isSome then
      { k.setActor n (fun a => { a with ready := true }) with readyQ := k.readyQ ++ [n] }
    else k

/-- Messages in a core's inbox: those queued for its actors, the waiting decrements, and owner operations;
the one in the reserve entry is not counted (R243, R244). -/
def Core.inboxCount (k : Core) : Nat :=
  ((k.actors.map fun a => (a.messages.filter fun m => !m.reserve).length).sum) +
    (k.decs.filter fun m => !m.reserve).length + (k.opInbox.filter fun o => !o.reserve).length

/-- The reserve entry is occupied (R244). -/
def Core.reserveUsed (k : Core) : Bool :=
  (k.actors.any fun a => a.messages.any fun m => m.reserve) || (k.decs.any fun m => m.reserve) ||
    k.opInbox.any fun o => o.reserve

/-- The items among some messages count as received (R233). -/
def countItems (r : Map (BitVec 32)) (ms : List Message) : Map (BitVec 32) :=
  ms.foldl (fun r m => if isItem m.hdr then countUp r m.part (hdrLtag m.hdr) else r) r

/-- A message with its place in the order of arrival at its host; it keeps it until it is consumed or leaves the host (R38). -/
def Core.stamp (k : Core) (m : Message) : Message × Core :=
  ({ m with arrived := k.arrivals, origin := 0, prior := [] }, { k with arrivals := k.arrivals + 1 })

/-- A message that has arrived joins the inbox of its actor's host (R29 to R32): a decrement waits for the handler context
(R30), any other message joins its port; an entry that a top-k port drops counts as received (R233). The actor is then
evaluated. -/
def Core.accept (k : Core) (m : Message) : Core :=
  match k.actor m.name with
  | none => k
  | some a =>
    if hdrKind m.hdr == 1 then { k with decs := k.decs ++ [m] }
    else
      let k := { k with recv := countItems k.recv ((a.port (hdrPort m.hdr)).drops a.desc (hdrPort m.hdr) m) }
      (k.setActor m.name fun a => a.setPort (hdrPort m.hdr)
        ((a.port (hdrPort m.hdr)).arrive a.desc (hdrPort m.hdr) m)).evaluate m.name

/-- The actor of a firing is no longer running, and is evaluated again (R33). -/
def Core.endRun (k : Core) (n : ActorName) : Core :=
  (k.setActor n fun a => { a with running := false, saved := false }).evaluate n

end Sys2Proof.Machine
end

