-- ==== Sys2Proof/Machine/Ops.lean ====
section
/-! DEFINITION. The named operations over registers, queues and memory that the meanings share; taking an
exception (23/R372 to R376) and the return from one (R377). -/

namespace Sys2Proof.Machine

/-- The outcome type of a meaning. -/
abbrev Out := Host.Outcome State Fault Refusal

/-- How a part of an instruction ends: a value; a cause with tval (R132, R371); a stall, in which case the
instruction is not executed and the state given is the next one; or the stall for the walk of a page (R380). -/
inductive Tri (α : Type) where
  | val (a : α)
  | trap (cause : BitVec 6) (tval : BitVec 64)
  | stall (s : State)
  | walk (part : BitVec 8) (va : Nat)

/-- One part after another. -/
def Tri.bind {α β : Type} (t : Tri α) (f : α → Tri β) : Tri β :=
  match t with
  | .val a => f a
  | .trap c v => .trap c v
  | .stall s => .stall s
  | .walk p a => .walk p a

/-- A cause when a test fails. -/
def Tri.ensure (ok : Bool) (cause : BitVec 6) (tval : BitVec 64) : Tri Unit :=
  if ok then .val () else .trap cause tval

/-- A cause when a check gives one. -/
def Tri.unless (r : Option (BitVec 6 × BitVec 64)) : Tri Unit :=
  match r with
  | none => .val ()
  | some (c, t) => .trap c t

/-! ## Registers -/

/-- A general register; x0 reads as zero, untagged (R68). -/
def Ctx.reg (c : Ctx) (r : BitVec 5) : Reg := if r = 0#5 then 0 else c.x[r.toNat]'r.isLt

/-- A general register written; writes to x0 are discarded (R68). -/
def Ctx.setReg (c : Ctx) (r : BitVec 5) (v : Reg) : Ctx :=
  if r = 0#5 then c else { c with x := c.x.set r.toNat v r.isLt }

/-- The state with a party's record changed. -/
def State.mod (s : State) (p : Party) (f : Ctx → Ctx) : State := s.setCtx p (f (s.ctx p))

/-- The windows of a stream that have been read before any instruction read them are read again after one of the forms
that R261 names. -/
def Stream.sync (x : Stream) : Stream :=
  if x.used then { x with early := [] } else { x with filled := false, window := 0, early := [] }

/-- Every stream of a party so. -/
def Ctx.sync (c : Ctx) : Ctx := { c with w := c.w.map Stream.sync }

/-- The state with a party's pc set. -/
def State.setPc (s : State) (p : Party) (pc : BitVec 64) : State := s.mod p fun c => { c with pc := pc }

/-- The state with a party's pc past the instruction. -/
def State.advance (s : State) (p : Party) : State := s.mod p fun c => { c with pc := c.pc + 4 }

/-! ## The two halves and their queues (R74 to R77) -/

/-- The datum that a load makes of its bytes (R137, R149). The granule tag is the cell beside them. -/
def loadDatum (bytes : List Byte) (tag : Bool) : LoadKind → Reg
  | .zext => dataReg (BitVec.ofNat 64 (leNat bytes))
  | .sext =>
    let n := 8 * bytes.length
    let v := leNat bytes
    dataReg (if 2 ^ (n - 1) ≤ v then BitVec.ofInt 64 ((v : Int) - 2 ^ n) else BitVec.ofNat 64 v)
  | .cap keep => mkCap (tag && keep) (BitVec.ofNat 64 (leNat (bytes.drop 8))) (BitVec.ofNat 64 (leNat (bytes.take 8)))

/-- The datum of a load of some places: the bytes read in an earlier Load step, and the others in this one (R166, R175). -/
def State.loadPlaces (s : State) (p : Party) (part : List (Nat × Byte)) (qs : List Nat) (k : LoadKind) : Reg :=
  loadDatum (qs.map fun q => s.seeBeside p part q) (s.see p (tagPlace (qs.headD 0)) != 0#8) k

/-- A result: x29 pushes the store-data queue (R76). -/
def Ctx.result (c : Ctx) (rd : BitVec 5) (v : Reg) : Ctx :=
  if rd = 29#5 then { c with qst := c.qst ++ [v] } else c.setReg rd v

/-- A destination field written (R68, R76). -/
def State.dest (s : State) (p : Party) (rd : BitVec 5) (v : Reg) : State := s.mod p fun c => c.result rd v

/-- The datum of a load reaches its destination: into x28 it joins the load-data queue (R75). -/
def Ctx.loaded (c : Ctx) (rd : BitVec 5) (v : Reg) : Ctx :=
  if rd = 28#5 then { c with qld := c.qld ++ [v] } else c.result rd v

/-- A load into x28 is in flight: the access half holds it (R75). -/
def Ctx.loadInFlight (c : Ctx) : Bool :=
  c.acc.any fun i =>
    match i with
    | .load rd _ _ => rd == 28#5
    | .acquire rd _ _ _ => rd == 28#5
    | _ => false

/-- A register among some that a load of the access half has yet to write (R74). -/
def Ctx.awaits (c : Ctx) (rs : List (BitVec 5)) : Bool :=
  c.acc.any fun i =>
    match i with
    | .load rd _ _ => rd != 28#5 && rd != 0#5 && rs.contains rd
    | .acquire rd _ _ _ => rd != 28#5 && rd != 0#5 && rs.contains rd
    | _ => false

/-- A source field: x28 pops the load-data queue; an empty queue stalls the form while a load into x28 is in flight, and
takes 0x0B when none is (R75). -/
def State.src (s : State) (p : Party) (r : BitVec 5) : Tri (Reg × State) :=
  if r = 28#5 then
    match (s.ctx p).qld with
    | [] => if (s.ctx p).loadInFlight then .stall s else .trap 0x0B 0
    | v :: rest => .val (v, s.mod p fun c => { c with qld := rest })
  else .val ((s.ctx p).reg r, s)

/-- The entries of the load-data queue that a form with some source fields pops (R75). -/
def Ctx.poppedBy (c : Ctx) (rs : List (BitVec 5)) : List Reg := c.qld.take (rs.filter fun r => r == 28#5).length

/-- The load of some bytes handed to the access half: taken at once where nothing is before it, its bytes lie in one
32-byte block and the load-data queue has room; held otherwise (R74, R75, R166). -/
def State.loadDest (s : State) (p : Party) (rd : BitVec 5) (qs : List Nat) (k : LoadKind) : State :=
  let c := s.ctx p
  if c.acc.isEmpty && (blocksLeft [] qs).length ≤ 1 && (rd != 28#5 || c.qld.length < 16) then
    s.mod p fun c => c.loaded rd (s.loadPlaces p [] qs k)
  else s.mod p fun c => { c with acc := c.acc ++ [.load rd qs k] }

/-- Store-buffer entries handed to the access half (R74). -/
def State.handStores (s : State) (p : Party) (es : List StoreEntry) : State :=
  s.mod p fun c => if c.acc.isEmpty then es.foldl Ctx.store c else { c with acc := c.acc ++ es.map .store }

/-- The data field of a store: x29 takes the head of the store-data queue; an empty queue stalls the form while a load into
x29 is on its way there, and takes 0x0C when none is (R76). -/
def State.storeSrc (s : State) (p : Party) (r : BitVec 5) : Tri (Reg × State) :=
  if r = 29#5 then
    match (s.ctx p).qst with
    | [] => if (s.ctx p).awaits [29#5] then .stall s else .trap 0x0C 0
    | v :: rest => .val (v, s.mod p fun c => { c with qst := rest })
  else s.src p r

/-- The tval of cause 0x01: the instruction word, zero-extended (R132). -/
def wordTval (w : BitVec 32) : BitVec 64 := w.setWidth 64

/-- A form is stalled by the store-data queue: it pushes a full one (R76). -/
def Ctx.pushHeld (c : Ctx) (rd : BitVec 5) : Bool := rd == 29#5 && 16 ≤ c.qst.length

/-- What every form of the execute half meets first: a source field naming x29 or an rd of x28 takes 0x01 (R75, R76); the
form waits for a register that a load of the access half writes (R74), and for the store-data queue (R76). -/
def State.exePre (s : State) (p : Party) (w : BitVec 32) (rd : BitVec 5) (srcs : List (BitVec 5)) : Tri Unit :=
  if rd = 28#5 || srcs.any (fun r => r == 29#5) then .trap 0x01 (wordTval w)
  else if (s.ctx p).awaits (rd :: srcs) then .stall s
  else if (s.ctx p).pushHeld rd then .stall (s.mod p fun c => { c with held := true })
  else .val ()

/-- What every form of the access half meets first: an address field naming x29 takes 0x01 (R76); the form waits for a
register that an earlier load writes (R74). `other` is its rd or its data field. -/
def State.memPre (s : State) (p : Party) (w : BitVec 32) (other : BitVec 5) (srcs : List (BitVec 5)) : Tri Unit :=
  if srcs.any (fun r => r == 29#5) then .trap 0x01 (wordTval w)
  else if (s.ctx p).awaits (other :: srcs) then .stall s
  else .val ()

/-- The register that a store's data field waits for: x29 is a queue (R76). -/
def dataField (rs2 : BitVec 5) : BitVec 5 := if rs2 = 29#5 then 0#5 else rs2

/-- A load into x29 waits for room in the store-data queue, as every form that pushes it does (R76, R246). -/
def State.pushRoom (s : State) (p : Party) (rd : BitVec 5) : Tri Unit :=
  if (s.ctx p).pushHeld rd then .stall (s.mod p fun c => { c with held := true }) else .val ()

/-- Registers that a form names by a group field are written (R61, R74). -/
def State.regsReady (s : State) (p : Party) (rs : List (BitVec 5)) : Tri Unit :=
  if (s.ctx p).awaits rs then .stall s else .val ()

/-- The party's issue point is at this form: the access half holds nothing before it (R74, R173). -/
def State.issuePoint (s : State) (p : Party) : Tri Unit := if (s.ctx p).acc.isEmpty then .val () else .stall s

/-- The access half holds no `lda` and no fence: a form that reads a window waits for them (R261). Its windows lie anywhere
among the party's other loads and stores. -/
def State.syncPoint (s : State) (p : Party) : Tri Unit :=
  if (s.ctx p).acc.any AccItem.syncs then .stall s else .val ()

/-- The access half holds no store (R77). -/
def State.storesLeft (s : State) (p : Party) : Tri Unit :=
  if (s.ctx p).acc.any AccItem.isStore then .stall s else .val ()

/-- Whether `lda` at a scope is not held: every earlier `stl` has drained, and at dev and dom scope is installed
or superseded in every die view (R178). -/
def State.acquireReady (s : State) (p : Party) (sc : BitVec 3) : Bool :=
  let c := s.ctx p
  !(c.sb.any fun e => e.isStl) &&
    (sc.toNat < 3 || [0, 1, 2, 3, 4, 5, 6, 7].all fun d =>
      c.scopedDone.all fun x => x.2 ≤ (s.die d).view.ord.getD x.1 0)

/-- What an `lda` that is not held leaves behind: windows read early are read again (R261), and the record of the
party's scoped stores is no longer needed at dev or dom scope. -/
def State.acquired (s : State) (p : Party) (sc : BitVec 3) : State :=
  s.mod p fun c => { c.sync with scopedDone := if sc.toNat < 3 then c.scopedDone else [] }

/-- The operations of a party that are in flight or wait at their owner. -/
def State.opsOf (s : State) (p : Party) : Bool :=
  (s.dev.ops.any fun o => o.issuer == p.ix) ||
    s.cores.any fun (_, k) => k.opInbox.any fun o => o.issuer == p.ix

/-- The release condition of a party at dev scope for the stores it has issued (R177). -/
def State.issuedReleased (s : State) (p : Party) : Bool := s.released ({ s.ctx p with acc := [] }.releaseAt p.ix 3)

/-- Whether a fence at the issue point no longer holds it (R178). -/
def State.fenceReady (s : State) (p : Party) (sc : BitVec 3) : Bool :=
  match sc.toNat with
  | 0 => true
  | 1 => (s.ctx p).sb == []
  | 2 => (s.ctx p).sb == []
  | 3 => s.issuedReleased p
  | _ => s.issuedReleased p && !(s.core p.coreIx).fifo.any (fun r => r.issuer == p.ix) && !s.opsOf p

/-- One step of the access half: the first instruction that it holds, when it may go (R74, R75, R178). A load whose bytes
cross a 32-byte block takes its blocks in two steps, in either order (R166). -/
def State.accStep (s : State) (p : Party) : State :=
  let c := s.ctx p
  match c.acc with
  | [] => s
  | .load rd qs k :: rest =>
    if rd == 28#5 && 16 ≤ c.qld.length then s
    else
      match blocksLeft c.accPart qs with
      | b :: b2 :: bs =>
        let (f, s1) := s.fresh
        s1.mod p fun c => { c with accPart := c.accPart ++ s.blockCells p qs (pickOf f (b :: b2 :: bs)) }
      | _ => s.setCtx p ({ c with acc := rest, accPart := [] }.loaded rd (s.loadPlaces p c.accPart qs k))
  | .acquire rd qs k sc :: rest =>
    if (rd == 28#5 && 16 ≤ c.qld.length) || !s.acquireReady p sc then s
    else (s.acquired p sc).mod p fun c => { c with acc := rest }.loaded rd (s.loadPlaces p [] qs k)
  | .store e :: rest => s.setCtx p ({ c with acc := rest }.store e)
  | .fence sc :: rest => if s.fenceReady p sc then s.setCtx p { c.sync with acc := rest } else s

/-- The instructions that the access half holds, carried out in order before a later cause is taken (R74), up to an `lda` or
a fence that R178 holds: a load into a full load-data queue is carried out too, for the form that takes the cause pops
nothing. -/
def State.forceAcc (s : State) (p : Party) : List AccItem → State
  | [] => s.mod p fun c => { c with acc := [], accPart := [] }
  | i :: rest =>
    let c := s.ctx p
    match i with
    | .load rd qs k => (s.setCtx p ({ c with accPart := [] }.loaded rd (s.loadPlaces p c.accPart qs k))).forceAcc p rest
    | .acquire rd qs k sc =>
      if s.acquireReady p sc then ((s.acquired p sc).mod p fun c => c.loaded rd (s.loadPlaces p [] qs k)).forceAcc p rest
      else s.mod p fun c => { c with acc := i :: rest, accPart := [] }
    | .store e => (s.setCtx p (c.store e)).forceAcc p rest
    | .fence sc =>
      if s.fenceReady p sc then (s.setCtx p c.sync).forceAcc p rest
      else s.mod p fun c => { c with acc := i :: rest, accPart := [] }

/-- Bytes that a form of its own reads at some places in the Load steps of their 32-byte blocks (R166, R175): one block a
turn, in any order; the form goes on with the last. `s0` is the state before the form. -/
def State.gather (s0 s : State) (p : Party) (qs : List Nat) : Tri (List Byte × State) :=
  let c := s0.ctx p
  if !c.acc.isEmpty then .stall s0
  else
    match blocksLeft c.part qs with
    | b :: b2 :: bs =>
      let (f, s1) := s0.fresh
      .stall (s1.mod p fun c => { c with part := c.part ++ s0.blockCells p qs (pickOf f (b :: b2 :: bs)) })
    | _ => .val (qs.map fun q => s.seeBeside p c.part q, s.mod p fun c => { c with part := [] })

/-! ## Messages of a party -/

/-- The actor's host is on another die than its home: that of a gang member may be (R241). -/
def State.hostedAway (s : State) (home : Nat) (n : ActorName) : Bool :=
  match (s.clu home).entryOf n with
  | some (_, h) => h.hostDie != home / 256
  | none => false

/-- The scope of a message from a core for an actor to a destination (R39, R177). A message to a home of the same die
passes through a host core of that die, but where the host is on another. -/
def State.destScope (s : State) (core : Nat) (n : ActorName) (d : Dest) : BitVec 3 :=
  match d with
  | .home dev die clu =>
    if dev != s.dev.num.toNat then 4#3
    else if die = dieOfCore core && !s.hostedAway (die * 256 + clu) n then 2#3 else 3#3
  | .command dev c => if dev != s.dev.num.toNat then 4#3 else if dieOfCore c = dieOfCore core then 2#3 else 3#3

/-- The report of a core's routing of a message that it discards (R24, R209, R376). -/
def State.reportDiscard (s : State) (core : Nat) (unit : BitVec 4) (tuple : BitVec 26) (cause : BitVec 6)
    (m : Message) : State :=
  s.report (dieOfCore core) { cause := cause, part := m.part, cls := m.cls, key := m.key, unit := unit, tuple := tuple }

/-- A message pushed into a core's outbound queue by a party of it, routed by the descriptor `d` (R24, R209,
R210): SENT rises; a message that is discarded counts as received and is reported. -/
def State.pushMsg (s : State) (p : Party) (d : BitVec 512) (m : Message) (held : Bool) : State :=
  let core := p.coreIx
  let s := s.sentUp core m.part (hdrLtag m.hdr)
  let discard (c : BitVec 6) : State :=
    (s.recvUp core m.part (hdrLtag m.hdr)).reportDiscard core 0 (tupleOfCore core s.dev.num) c m
  match routeRefusal d m.cls m.hdr with
  | some c => discard c
  | none =>
    match s.findHome (dieOfCore core) d m.part m.cls m.key with
    | (.unmapped, _) => discard 0x24
    | (.at dev die clu, s) =>
      let dest := Dest.home dev die clu
      let k := s.core core
      let f := (s.ctx p).firing
      let m1 := if held then { m with sender := some (f.part, f.cls, f.key) } else m
      s.setCore core { k with
        outq := k.outq ++ [.msg m1 dest ((s.ctx p).releaseAt p.ix (s.destScope core m.name dest)) held] }

/-! ## The end of a firing -/

/-- A context's claim of the selection engine that waits is dropped (R312). -/
def Sel.unclaim (k : Sel) (p : Nat) : Sel := { k with claims := k.claims.filter fun x => x.1 != p }

/-- The selection engine released by a holder: mask bits all 1, every field zero (R312); a claim of its own that
waits is dropped. -/
def State.releaseSel (s : State) (p : Party) : State :=
  let n := cluOfCore p.coreIx
  let k := s.clu n
  let x := k.sel.unclaim p.ix
  if x.holder = some p.ix then s.setClu n { k with sel := { claims := x.claims } }
  else if x.claims.length != k.sel.claims.length then s.setClu n { k with sel := x }
  else s

/-- What a cause of a selection form leaves: nothing claimed, an engine granted to a `selld` that has not started its walk
free again (R314), and the fields as the form found them (R324). -/
def State.undoSel (s : State) (p : Party) : State :=
  let n := cluOfCore p.coreIx
  let k := s.clu n
  let x := k.sel.unclaim p.ix
  if x.holder = some p.ix && x.granted.isSome && !x.rewalk then s.releaseSel p
  else if x.holder = some p.ix && (x.granted.isSome || x.undo.isSome) then
    s.setClu n { k with sel := { x with
      toSelFields := x.undo.getD x.toSelFields, undo := none, keepOnes := none, granted := none, rewalk := false } }
  else if x.claims.length != k.sel.claims.length then s.setClu n { k with sel := x }
  else s

/-- The matrix gang of a cluster dissolved when a member leaves it (R301). -/
def State.dissolveGang (s : State) (p : Party) : State :=
  let n := cluOfCore p.coreIx
  let k := s.clu n
  let members := k.gang.members.map (·.2)
  if k.gang.formed && members.any (fun x => x == p.ix) then
    let s1 := s.setClu n { k with gang := { k.gang with formed := false } }
    { s1 with ctxs := s1.ctxs.map fun (i, c) =>
        (i, if members.any (fun x => x == i) then { c with gangMember := false } else c) }
  else s

/-- The pending sequence traps of a context delivered in ascending slot order (R336): a notice to the trap
port of the actor, or a fault message with cause 0x34. -/
def State.deliverSeq (s : State) (p : Party) : State :=
  let c := s.ctx p
  let slots := c.seqTraps.foldl (fun acc x =>
    let before := acc.takeWhile fun y => y.slot ≤ x.slot
    before ++ x :: acc.drop before.length) []
  let s0 := s.setCtx p { c with seqTraps := [] }
  slots.foldl (fun s x =>
    let c := s.ctx p
    let f := c.firing
    if !f.sheet && descTrapp f.desc then
      s.pushMsg p f.desc
        { part := c.partid, cls := c.kcls, key := c.kkey,
          hdr := mkHdr (BitVec.ofNat 2 (descTrapix f.desc)) 3 c.fdep 0 c.ltag 2 0,
          pay := mkPay 0x34 x.record (x.count.setWidth 64) x.pc 0 0 } false
    else
      s.report p.die.val
        { cause := 0x34, part := c.partid, cls := c.kcls, key := c.kkey, unit := 0,
          tuple := tupleOfCore p.coreIx s.dev.num,
          d0 := 0x34, d1 := x.record, d2 := x.count.setWidth 64 }) s0

/-- R372: the state window back to its last committed contents with respect to the firing's own writes, in
one write: each cell whose last write in coherence order is the firing's. -/
def State.rollback (s : State) (p : Party) : State :=
  let c := s.ctx p
  let d := p.die.val
  let v := (s.die d).view
  let cells := (c.undo.filter fun (q, _, o) => v.ord.getD q 0 == o).map fun (q, b, _) => (q, b)
  if cells = [] then s else s.writeAt d cells false []

/-- A context that has ended its firing: idle, its streams unbound and its monitor disarmed (R215, R372). -/
def Ctx.idle (c : Ctx) : Ctx :=
  { c with
    run := .idle, w := Vector.replicate 8 {}, mon := {}, firing := {}, undo := [], deferred := [], seqTraps := [],
    waiting := none, cbput := none, qld := [], qst := [], acc := [], accPart := [], ahead := [], held := false,
    part := [], body := none, walk := none, gangMember := false, gangCount := 0, mhold := none }

/-- A message that a party's journalled firing holds in the outbound queue (R389). -/
def OutItem.heldBy (i : OutItem) (p : Party) : Bool :=
  match i with
  | .msg _ _ r h => h && r.party == p.ix && r.saved.isNone
  | .carry _ => false

/-- The messages among the entries of an outbound queue. -/
def outMessages (l : List OutItem) : List Message :=
  l.filterMap fun i =>
    match i with
    | .msg m _ _ _ => some m
    | .carry _ => none

/-- The messages of a party that a journalled firing holds in the outbound queue, removed (R372, R389): they count as received,
as what is discarded does (R233). -/
def State.dropHeld (s : State) (p : Party) : State :=
  let k := s.core p.coreIx
  (s.setCore p.coreIx { k with outq := k.outq.filter fun i => !i.heldBy p }).recvAll p.coreIx
    (outMessages (k.outq.filter fun i => i.heldBy p))

/-- The queued matrix operations of a party outlive its firing (R372). -/
def State.orphanOps (s : State) (p : Party) : State :=
  let k := s.core p.coreIx
  match p with
  | .ctx _ i => s.setCore p.coreIx { k with mq := k.mq.map fun o => if o.ctx = i.val then { o with orphan := true } else o }
  | _ => s

/-- The end of a firing by a trap (R372): state back to the last commit, consumed messages discarded and
counted as received, engine and gang let go, the actor evaluated, the context idle. -/
def State.endByTrap (s : State) (p : Party) : State :=
  let f := (s.ctx p).firing
  let s1 := ((s.rollback p).dropHeld p).recvAll p.coreIx f.consumed
  let s2 := if f.sheet then s1.recvUp p.coreIx f.part (f.record.d0.extractLsb' 16 12) else s1
  let s3 := ((s2.releaseSel p).dissolveGang p).orphanOps p
  let s4 := s3.mod p Ctx.idle
  if f.sheet then s4 else s4.setCore p.coreIx ((s4.core p.coreIx).endRun (f.part, f.cls, f.key))

/-- The trap message of R373. -/
def trapMessage (c : Ctx) (p : Party) (tuple : BitVec 26) (cause : BitVec 6) (tval epc : BitVec 64) : Message :=
  let first : Message := c.firing.consumed.headD {}
  let ctxNo : BitVec 2 :=
    match p with
    | .ctx _ k => BitVec.ofNat 2 k.val
    | _ => 0
  { part := c.partid, cls := c.kcls, key := c.kkey,
    hdr := mkHdr (BitVec.ofNat 2 (descTrapix c.firing.desc)) 3 c.fdep 0 c.ltag 2 0,
    pay := mkPay (cause.setWidth 64) tval epc first.hdr (payWord first.pay 0) ((ctxNo ++ tuple).setWidth 64) }

/-! ## Taking an exception -/

/-- The data that stores ahead of the pc have taken from the store-data queue and that are not performed (R76). -/
def Ctx.taken (c : Ctx) : List Reg :=
  c.ahead.flatMap fun a =>
    match a.mark with
    | .stored popped _ => popped
    | _ => []

/-- What the access half has done of the instructions from the pc on, undone: none has had an effect (R74). -/
def Ctx.dropAhead (c : Ctx) : Ctx := { c with ahead := [], qst := c.taken ++ c.qst }

/-- A form that a party waits in, left: nothing of it is done (R12, R74, R187). -/
def Ctx.leaveForm (c : Ctx) : Ctx :=
  { c.dropAhead with
    waiting := none, cbput := none, held := false, part := [], body := none, walk := none, mhold := none }

/-- The waiter of a circular buffer that a firing context is (R187). -/
def ctxWaiter (p : Party) : CbWaiter :=
  match p with
  | .ctx _ k => .ctx k.val
  | _ => .ctx 4

/-- A party that waits no longer: at a circular buffer of its core (R187), or at the barrier of its cluster's gang (R299). -/
def State.leaveQueues (s : State) (p : Party) : State :=
  let k := s.core p.coreIx
  let keep (l : List CbWaiter) : List CbWaiter := l.filter fun w => w != ctxWaiter p
  let s1 := s.setCore p.coreIx { k with
    cbs := k.cbs.map fun b => { b with waitFilled := keep b.waitFilled, waitFree := keep b.waitFree } }
  let n := cluOfCore p.coreIx
  let g := (s1.clu n).gang
  s1.setClu n { s1.clu n with gang := { g with atBarrier := g.atBarrier.filter fun x => x.2.1 != p.ix } }

/-- The context's trap record written (R132, R372), its deferred causes dropped and its monitor disarmed; of the form, and
of those that the access half has looked at beyond it, nothing is left (R12, R74). -/
def Ctx.trapRecord (c : Ctx) (cause : BitVec 6) (tval : BitVec 64) : Ctx :=
  { c.leaveForm with cause := cause, epc := c.pc, tval := tval, deferred := [], mon := {} }

/-- A supervisor core that meets a cause (R376): cause, epc and tval are written, the handler flag set, and
the pc goes to the trap entry of its image; with the flag already set the core halts and the management
port reports 0x3E; cause, epc and tval are then left as they were (DESIGN CHOICE, log 115: R376 names no write of them). -/
def State.supTrap (s : State) (p : Party) (cause : BitVec 6) (tval : BitVec 64) : State :=
  let c := s.ctx p
  if c.handler then
    let s1 := s.setCtx p { c with run := .halted }
    let reports := s1.dev.mgmt.reports ++ [(0x3E, p.die.val)]
    s1.setDev { s1.dev with mgmt := { s1.dev.mgmt with reports := reports } }
  else
    let entry : BitVec 64 :=
      match (s.die p.die.val).image with
      | some (_, _, e) => e
      | none => 0
    s.setCtx p { c.leaveForm with cause := cause, epc := c.pc, tval := tval, handler := true, pc := entry }

/-- The context parked with a mailbox record (R374, R376): cause 0x2F, with the original cause in DETAIL,
where a trap message started the firing (R373). -/
def State.parkTrap (s : State) (p : Party) (cause : BitVec 6) (tval : BitVec 64) : State :=
  let c := s.ctx p
  let s1 := s.setCtx p { c with run := .parked }
  s1.report p.die.val
    { cause := if c.firing.trapStarted then 0x2F else cause, src := 0, part := c.partid, cls := c.kcls,
      ctx := (match p with
        | .ctx _ k => BitVec.ofNat 2 k.val
        | _ => 0),
      unit := 0, tuple := tupleOfCore p.coreIx s.dev.num, key := c.kkey, epc := c.epc, tval := tval,
      d0 := if c.firing.trapStarted then cause.setWidth 64 else 0 }

/-- The access half of a party whose form takes a cause: what it holds is carried out, but for what R178 holds (R74). -/
def State.accSettled (s : State) (p : Party) : State := s.forceAcc p (s.ctx p).acc

/-- TAKING AN EXCEPTION (R132, R372 to R376). A cause waits in program order for the `lda`s and the fences of the access half
that R178 holds (R74, log 116). A firing's stores drain first (DEDUCED, log 13); its pending sequence
traps are delivered and its deferred causes dropped. A firing whose class has a trap port ends, with a trap
message to that port, unless a trap message started it; any other firing parks. A supervisor core goes to
its trap entry. -/
def takeTrap (s : State) (p : Party) (cause : BitVec 6) (tval : BitVec 64) : State :=
  match p with
  | .sup _ _ => s.supTrap p cause tval
  | .handler _ => s
  | .ctx _ _ =>
    let s0 := s.accSettled p
    if !(s0.ctx p).acc.isEmpty then s0
    else
      let s1 := ((((s0.undoSel p).leaveQueues p).drainAll p).deliverSeq p).mod p fun c => c.trapRecord cause tval
      let c := s1.ctx p
      let f := c.firing
      if !f.sheet && descTrapp f.desc && !f.trapStarted then
        let m := trapMessage c p (tupleOfCore p.coreIx s.dev.num) cause tval c.epc
        (s1.endByTrap p).pushMsg p f.desc m false
      else s1.parkTrap p cause tval

/-- The return from an exception of a supervisor core (R377): pc ← epc and the handler flag clears. -/
def State.trapReturn (s : State) (p : Party) : State :=
  s.mod p fun c => { c with pc := c.epc, handler := false }

/-- A pending walk joined by one more core. -/
def WalkReq.join (r : WalkReq) (core : Nat) : WalkReq :=
  if r.cores.contains core then r else { r with cores := r.cores ++ [core] }

/-- A party waits for the walk of a page: the walker is asked for it, unless it holds 4,096 pending pages
(R380). -/
def State.askWalk (s : State) (p : Party) (part : BitVec 8) (va : Nat) : State :=
  let page := va / 0x10000 * 0x10000
  let d := s.die p.die.val
  let same (r : WalkReq) : Bool := r.part == part && r.page == page
  let s1 := s.mod p fun c => { c with walk := some (part.toNat, va) }
  if d.walks.any same then
    s1.setDie p.die.val { d with walks := d.walks.map fun r => if same r then r.join p.coreIx else r }
  else if d.walks.length < 4096 then
    s1.setDie p.die.val { d with walks := d.walks ++ [{ part := part, page := page, cores := [p.coreIx] }] }
  else s1

/-! ## The end of an instruction -/

/-- An instruction's outcome from its parts: the state with the pc set by the parts, the trap taken in the
state before the instruction, the stall, or the request for a walk. -/
def settle (s : State) (t : Tri State) : Out :=
  match t with
  | .val s' => .next s'
  | .trap c v => .next (takeTrap s s.cur c v)
  | .stall s' => .next s'
  | .walk part va => .next (s.askWalk s.cur part va)

/-- A form that supervisor cores do not have: there it takes cause 0x01 before any other (R90). -/
def onUnit (w : BitVec 32) (s : State) (o : Out) : Out := if s.cur.isSup then settle s (.trap 0x01 (wordTval w)) else o

/-- A form of supervisor mode: in any other it takes cause 0x01 before any other (R54, R90). -/
def onSup (w : BitVec 32) (s : State) (o : Out) : Out := if s.cur.isSup then o else settle s (.trap 0x01 (wordTval w))

/-- As `settle`, and the pc moves past the instruction where the parts give a value. -/
def settleNext (s : State) (t : Tri State) : Out :=
  settle s (t.bind fun s' => .val (s'.advance s.cur))

/-! ## Accesses of a party -/

/-- The places of an access by a party (R161, R205, R379, R384), or its cause, or the stall of a page that no
TLB holds (R380). -/
def State.reach (s : State) (p : Party) (need : Need) (a n : Nat) : Tri (List Nat) :=
  match s.places p need a n with
  | .at qs => .val qs
  | .fault c t => .trap c t
  | .miss part va => .walk part va

/-- The cause of reading a poisoned block (R386). -/
def State.unpoisoned (s : State) (p : Party) (a : Nat) (qs : List Nat) : Tri Unit :=
  match s.poisonedFrom p.die.val a qs with
  | some t => .trap 0x19 t
  | none => .val ()

/-- The `n` bytes at address `a` as a form of a party reads them, with the granule tags unread: the checks, then the Load
steps. `s0` is the state before the form. -/
def State.readBytes (s0 s : State) (p : Party) (need : Need) (a n : Nat) : Tri (List Byte × State) :=
  (s.reach p need a n).bind fun qs =>
  (s.unpoisoned p a qs).bind fun _ =>
  State.gather s0 s p qs

/-- As `readBytes`, for bytes of one 32-byte block that no earlier instruction of the access half is waited for: an
instruction word. -/
def State.fetchBytes (s : State) (p : Party) (need : Need) (a n : Nat) : Tri (List Byte) :=
  (s.reach p need a n).bind fun qs =>
  (s.unpoisoned p a qs).bind fun _ =>
  .val (qs.map fun q => s.see p q)

/-- The entries of a store of some bytes at some places (R166, R175): one for each 32-byte block it
touches, each with the tags it clears (R165). -/
def storeEntries (e : StoreEntry) (cells : List (Nat × Byte)) : List StoreEntry :=
  let blocks := distinct (cells.map fun c => c.1 / 32)
  blocks.map fun b => { e with cells := plainCells (cells.filter fun c => c.1 / 32 == b) }

/-- A party's store of some bytes (R175 Store): a store that crosses a 32-byte block is more than one, in any order (R166). -/
def State.storeCells (s : State) (p : Party) (e : StoreEntry) (cells : List (Nat × Byte)) : State :=
  let es := storeEntries e cells
  if es.length ≤ 1 then s.handStores p es
  else
    let (f, s1) := s.fresh
    s1.handStores p (ordered f.toNat es)

/-- A load of the access half: the checks of R133 in the order of R205, then 0x19, which R205 does not place (DESIGN CHOICE, log
122), and the Load step. `acq` is the scope of an
`lda`, which has an alignment test of its own with cause 0x17 and is held by earlier `stl`s (R178). -/
def loadForm (w : BitVec 32) (rd rs1 : BitVec 5) (off : BitVec 64) (n : Nat) (kind : Reg → LoadKind)
    (capAcc : Bool) (acq : Option (BitVec 3)) (s : State) : Out :=
  let p := s.cur
  settleNext s <|
    (s.memPre p w rd [rs1]).bind fun _ =>
    (s.pushRoom p rd).bind fun _ =>
    (s.src p rs1).bind fun (c, s1) =>
    let a := (capAddr c + off).toNat
    (Tri.unless (checkCap p.isSup c a n permLoad capAcc)).bind fun _ =>
    (s1.reach p .r a n).bind fun qs =>
    (Tri.ensure (acq.isNone || a % n == 0) 0x17 (BitVec.ofNat 64 a)).bind fun _ =>
    (s1.unpoisoned p a qs).bind fun _ =>
    match acq with
    | none => .val (s1.loadDest p rd qs (kind c))
    | some sc =>
      let x := s1.ctx p
      if !x.acc.isEmpty || (rd == 28#5 && 16 ≤ x.qld.length) then
        .val (s1.mod p fun x => { x with acc := x.acc ++ [.acquire rd qs (kind c) sc] })
      else if s.acquireReady p sc then .val ((s1.acquired p sc).loadDest p rd qs (kind c))
      else .stall s

/-- A store of the access half: the checks, then the Store step of the low `n` bytes of its data. -/
def storeForm (w : BitVec 32) (rs1 rs2 : BitVec 5) (off : BitVec 64) (n : Nat) (e : StoreEntry)
    (aligned : Bool) (s : State) : Out :=
  let p := s.cur
  settleNext s <|
    (s.memPre p w (dataField rs2) [rs1]).bind fun _ =>
    (s.src p rs1).bind fun (c, s1) =>
    (s1.storeSrc p rs2).bind fun (v, s2) =>
    let a := (capAddr c + off).toNat
    (Tri.unless (checkCap p.isSup c a n permStore false)).bind fun _ =>
    (s2.reach p .w a n).bind fun qs =>
    (Tri.ensure (!aligned || a % n == 0) 0x17 (BitVec.ofNat 64 a)).bind fun _ =>
    .val (s2.storeCells p e (qs.zip (leBytes (capAddr v).toNat n)))

end Sys2Proof.Machine
end

