-- ==== Sys2Proof/Machine/Operands.lean ====
section
/-! DEFINITION. The operand forms of the execute half: source fields read in the order rs1, rs2, rs3, with the
pops of x28 (03/R75), and the destination written untagged (R56), with the push of x29 (R76). -/

namespace Sys2Proof.Machine

/-- A form of the execute half without source registers. -/
def exe0 (w : BitVec 32) (rd : BitVec 5) (s : State) (f : State → Tri (Reg × State)) : Out :=
  let p := s.cur
  settleNext s <|
    (s.exePre p w rd []).bind fun _ =>
    (f s).bind fun (v, s1) =>
    .val (s1.dest p rd v)

/-- A form with the source rs1. -/
def exe1 (w : BitVec 32) (rd rs1 : BitVec 5) (s : State) (f : Reg → State → Tri (Reg × State)) : Out :=
  let p := s.cur
  settleNext s <|
    (s.exePre p w rd [rs1]).bind fun _ =>
    (s.src p rs1).bind fun (a, s1) =>
    (f a s1).bind fun (v, s2) =>
    .val (s2.dest p rd v)

/-- A form with the sources rs1 and rs2. -/
def exe2 (w : BitVec 32) (rd rs1 rs2 : BitVec 5) (s : State) (f : Reg → Reg → State → Tri (Reg × State)) : Out :=
  let p := s.cur
  settleNext s <|
    (s.exePre p w rd [rs1, rs2]).bind fun _ =>
    (s.src p rs1).bind fun (a, s1) =>
    (s1.src p rs2).bind fun (b, s2) =>
    (f a b s2).bind fun (v, s3) =>
    .val (s3.dest p rd v)

/-- A form with the sources rs1, rs2 and rs3. -/
def exe3 (w : BitVec 32) (rd rs1 rs2 rs3 : BitVec 5) (s : State)
    (f : Reg → Reg → Reg → State → Tri (Reg × State)) : Out :=
  let p := s.cur
  settleNext s <|
    (s.exePre p w rd [rs1, rs2, rs3]).bind fun _ =>
    (s.src p rs1).bind fun (a, s1) =>
    (s1.src p rs2).bind fun (b, s2) =>
    (s2.src p rs3).bind fun (c, s3) =>
    (f a b c s3).bind fun (v, s4) =>
    .val (s4.dest p rd v)

/-- An integer form on bits 63:0 of rs1 (R56, R134). -/
def alu1 (w : BitVec 32) (rd rs1 : BitVec 5) (f : BitVec 64 → BitVec 64) (s : State) : Out :=
  exe1 w rd rs1 s fun a s1 => .val (dataReg (f (capAddr a)), s1)

/-- An integer form on bits 63:0 of rs1 and rs2 (R56, R134, R135). -/
def alu2 (w : BitVec 32) (rd rs1 rs2 : BitVec 5) (f : BitVec 64 → BitVec 64 → BitVec 64) (s : State) : Out :=
  exe2 w rd rs1 rs2 s fun a b s2 => .val (dataReg (f (capAddr a) (capAddr b)), s2)

/-- A 32-bit result, sign-extended (R134). -/
def sext32 (v : BitVec 32) : BitVec 64 := v.signExtend 64

/-- The low 32 bits of an operand. -/
def low32 (v : BitVec 64) : BitVec 32 := v.setWidth 32

/-! ## Floating point (R60) -/

/-- The rounding mode of an rm field or of frm; none where the value takes cause 0x01 (R60). -/
def rmOf (m : BitVec 3) : Option Rm :=
  match m.toNat with
  | 0 => some .rne
  | 1 => some .rtz
  | 2 => some .rdn
  | 3 => some .rup
  | 4 => some .rmm
  | _ => none

/-- The rounding mode that a form uses (R60). -/
def Ctx.rounding (c : Ctx) (rm : BitVec 3) : Option Rm := if rm = 7#3 then rmOf (c.fcsr.extractLsb' 5 3) else rmOf rm

/-- The code of a format in a register (R60). -/
def fpIn (f : Fmt) (r : Reg) : Nat := (capAddr r).toNat % 2 ^ f.width

/-- A result code as a register: sign-extended from bit 31 for single precision (R60). -/
def fpOutReg (f : Fmt) (c : Nat) : Reg :=
  if f.width = 32 then dataReg (sext32 (BitVec.ofNat 32 c)) else dataReg (BitVec.ofNat 64 c)

end Sys2Proof.Machine
end

