-- ==== Sys2Proof/Machine/Owner.lean ====
section
/-! DEFINITION. Operations that travel to an owner (09/R175, R180, R189 to R193) and their replies (11/R243). -/

namespace Sys2Proof.Machine

/-- An operation with its issuer, its number and the issuer's partition and launch tag. -/
def Op.issuedBy (o : Op) (p : Party) (c : Ctx) (n : Nat) : Op :=
  { o with issuer := p.ix, id := n, sup := p.isSup, part := c.partid, ltag := c.ltag }

/-- The state with an operation of a party sent toward its owner, and the operation's number. It counts one sent
item of the party's launch tag (R233), but for the cancel of a wait (DEDUCED, log 16). -/
def State.sendOp (s : State) (p : Party) (o : Op) : Nat × State :=
  let n := s.dev.opSeq + 1
  let o1 := o.issuedBy p (s.ctx p) n
  let s1 := s.setDev { s.dev with opSeq := n, ops := s.dev.ops ++ [o1] }
  (n, if o.kind = .barcancel then s1 else s1.sentUp p.coreIx o1.part o1.ltag)

/-- The scope of a message from a core to an owner core (R177). -/
def ownerScope (core owner : Nat) : BitVec 3 := if dieOfCore core = dieOfCore owner then 2 else 3

/-- An operation posted: the party goes on at once. -/
def State.post (s : State) (p : Party) (o : Op) : State := ((s.sendOp p o).2).advance p

/-- An operation sent whose reply the party waits for; the pc stays until the reply. -/
def State.await (s : State) (p : Party) (o : Op) (w : Waiting) : State :=
  let (n, s1) := s.sendOp p { o with reply := true }
  s1.mod p fun c => { c with waiting := some { w with
    id := n, pc := c.pc, start := (s1.core p.coreIx).cyc, place := o.addr, owner := o.owner } }

/-- An operation posted when rd is x0, and awaited otherwise (R180, R191). -/
def State.postOrAwait (s : State) (p : Party) (rd : BitVec 5) (o : Op) (w : Waiting) : State :=
  if rd = 0#5 then s.post p o else s.await p o w

/-- The oldest operation at a core's handler context. -/
def State.opHead (s : State) (core : Nat) : Option Op :=
  if (s.die (dieOfCore core)).failed then none else (s.core core).opInbox.head?

/-- The state with the oldest operation of a core taken from its inbox. -/
def State.popOp (s : State) (core : Nat) : State :=
  let k := s.core core
  s.setCore core { k with opInbox := k.opInbox.drop 1 }

/-- A reply sent to the issuer of an operation (R243). -/
def State.replyTo (s : State) (o : Op) (v : BitVec 64) (fault : Option (BitVec 6 × BitVec 64)) : State :=
  if o.reply then
    s.mod (partyOf o.issuer) fun c => { c with reply := c.reply ++ [{ id := o.id, val := v, fault := fault }] }
  else s

/-- Whether the view of a die holds the last write of each of some places (R175 Owner). -/
def State.holdsLast (s : State) (d : Nat) (qs : List Nat) : Bool :=
  qs.all fun q => [0, 1, 2, 3, 4, 5, 6, 7].all fun e => (s.die e).view.ord.getD q 0 ≤ (s.die d).view.ord.getD q 0

/-- A write by an owner, handled as in Drain as a non-release entry (R175); it clears tags (R165). -/
def State.ownerWrite (s : State) (d q v n : Nat) : State := s.writeAt d (plainCells (bytesCells q v n)) false []

/-- The head operation of a core's inbox taken as one Owner step, when `f` accepts its kind and the owner's view
is current: it counts one received item (R233); a poisoned operand is cause 0x19 for the issuer, or a report where no one waits (R386, DEDUCED, log 15). -/
def ownerStep (s : State) (c : CoreId) (isKind : OpKind → Bool) (f : Op → State → State) : Out :=
  match s.opHead c.ix with
  | none => .next s
  | some o =>
    let d := c.die.val
    let qs := span o.addr o.size
    if !isKind o.kind || !s.holdsLast d qs then .next s
    else
      let s0 := s.popOp c.ix
      let s1 := if o.kind = .barcancel then s0 else s0.recvUp c.ix o.part o.ltag
      match s1.poisonedFrom d o.va qs with
      | some t =>
        if o.reply then .next (s1.replyTo o 0 (some (0x19, t)))
        else .next (s1.report d { cause := 0x19, part := o.part, unit := 0, tuple := tupleOfCore c.ix s.dev.num, tval := t })
      | none => .next (f o s1)

/-- The waiting forms after which windows read early are read again (R261). -/
def WaitForm.syncs (w : WaitForm) : Bool :=
  match w with
  | .lwait => false
  | .bar => false
  | _ => true

/-- The result of a wait whose reply has come: rd is written and the pc moves past the form. -/
def State.finishWait (s : State) (p : Party) (w : Waiting) (v : Reg) : State :=
  (s.mod p fun c => { (if w.form.syncs then c.sync else c) with waiting := none, pc := w.pc + 4 }).dest p w.rd v

/-- What a reply's value is for the waiting form: `amo.w` is sign-extended (R180). -/
def replyReg (w : Waiting) (v : BitVec 64) : Reg :=
  match w.form with
  | .amoW => dataReg (sext32 (low32 v))
  | _ => dataReg v

/-- REPLY_DELIVERY (R243): the oldest reply on its way to a party. A reply that no waiting form asked for is
discarded (R192). A cause leaves the load-data queue as the form found it (R77), and waits for the access half as every
cause does (R74). -/
def execReplyDelivery (p : Party) (s : State) : Out :=
  let c := s.ctx p
  match c.reply with
  | [] => .next s
  | r :: rest =>
    let s1 := s.setCtx p { c with reply := rest }
    match c.waiting with
    | none => .next s1
    | some w =>
      if w.id != r.id then .next s1
      else
        match r.fault with
        | none => .next (s1.finishWait p w (replyReg w r.val))
        | some (cause, tval) =>
          if !((s.accSettled p).ctx p).acc.isEmpty then .next (s.accSettled p)
          else .next (takeTrap (s1.mod p fun c => { c with waiting := none, qld := w.popped ++ c.qld }) p cause tval)

end Sys2Proof.Machine
end

