-- ==== Sys2Proof/Machine/Amo.lean ====
section
/-! DEFINITION. The atomics (09/R180). -/

namespace Sys2Proof.Machine

/-- The new value of an atomic, or none where nothing is written: `old`, `v` and `e` are `8n`-bit values. -/
def amoNew (oooo : BitVec 4) (n : Nat) (old v e : Nat) : Option Nat :=
  let w := 8 * n
  let f := if n = 4 then fmtF32 else fmtF64
  match oooo.toNat with
  | 0 => some ((old + v) % 2 ^ w)
  | 1 => some (f.put false ((f.num old).add (f.num v)))
  | 2 => some (if sInt w v < sInt w old then v else old)
  | 3 => some (if sInt w old < sInt w v then v else old)
  | 4 => some (min old v)
  | 5 => some (max old v)
  | 6 => some v
  | 7 => if old = e then some v else none
  | 8 => some (old &&& v)
  | 9 => some (old ||| v)
  | _ => some (old ^^^ v)

/-- An atomic at its issue (R180): the checks, then the operation sent to the owner, posted when rd is x0.
`cas` reads rd as a source, which may not be x29 (R76). -/
def amoForm (w : BitVec 32) (oooo : BitVec 4) (n : Nat) (rd rs1 rs2 : BitVec 5) (s : State) : Out :=
  let p := s.cur
  let cas := oooo == 7
  settle s <|
    (s.exePre p w rd (if cas then [rs1, rs2, rd] else [rs1, rs2])).bind fun _ =>
    (s.src p rs1).bind fun (c, s1) =>
    (s1.src p rs2).bind fun (v, s2) =>
    let a := (capAddr c).toNat
    let m := 2 ^ (8 * n)
    (Tri.unless (checkCap p.isSup c a n (permLoad ||| permStore) false)).bind fun _ =>
    (s2.reach p .rw a n).bind fun qs =>
    (Tri.ensure (a % n == 0) 0x17 (BitVec.ofNat 64 a)).bind fun _ =>
    let q := qs.headD 0
    let owner := ownerOf q
    .val (s2.postOrAwait p rd
      { kind := .amo oooo, va := a, addr := q, owner := owner, size := n,
        v := BitVec.ofNat 64 ((capAddr v).toNat % m),
        e := if cas then BitVec.ofNat 64 ((capAddr ((s2.ctx p).reg rd)).toNat % m) else 0,
        rel := (s2.ctx p).releaseAt p.ix (ownerScope p.coreIx owner) }
      { form := if n = 4 then .amoW else .amoD, rd := rd, popped := (s.ctx p).poppedBy [rs1, rs2] })

/-- OWNER_AMO (R180): the oldest operation of the core's handler context, when it is an atomic. -/
def execOwnerAmo (c : CoreId) (s : State) : Out :=
  ownerStep s c (fun k => match k with
    | .amo _ => true
    | _ => false) fun o s1 =>
    let d := c.die.val
    let old := s1.peek d o.addr o.size
    let oooo := match o.kind with
      | .amo x => x
      | _ => 0
    let s2 := match amoNew oooo o.size old o.v.toNat o.e.toNat with
      | some v => s1.ownerWrite d o.addr v o.size
      | none => s1
    s2.replyTo o (BitVec.ofNat 64 old) none

/-- `amo.add.w` (R180). -/
def execAmoAddW (rd rs1 rs2 : BitVec 5) (s : State) : Out :=
  amoForm (wordAmoAddW rd rs1 rs2) 0 4 rd rs1 rs2 s

/-- `amo.add.d` (R180). -/
def execAmoAddD (rd rs1 rs2 : BitVec 5) (s : State) : Out :=
  amoForm (wordAmoAddD rd rs1 rs2) 0 8 rd rs1 rs2 s

/-- `amo.addf.w` (R180). -/
def execAmoAddfW (rd rs1 rs2 : BitVec 5) (s : State) : Out :=
  amoForm (wordAmoAddfW rd rs1 rs2) 1 4 rd rs1 rs2 s

/-- `amo.addf.d` (R180). -/
def execAmoAddfD (rd rs1 rs2 : BitVec 5) (s : State) : Out :=
  amoForm (wordAmoAddfD rd rs1 rs2) 1 8 rd rs1 rs2 s

/-- `amo.min.w` (R180). -/
def execAmoMinW (rd rs1 rs2 : BitVec 5) (s : State) : Out :=
  amoForm (wordAmoMinW rd rs1 rs2) 2 4 rd rs1 rs2 s

/-- `amo.min.d` (R180). -/
def execAmoMinD (rd rs1 rs2 : BitVec 5) (s : State) : Out :=
  amoForm (wordAmoMinD rd rs1 rs2) 2 8 rd rs1 rs2 s

/-- `amo.max.w` (R180). -/
def execAmoMaxW (rd rs1 rs2 : BitVec 5) (s : State) : Out :=
  amoForm (wordAmoMaxW rd rs1 rs2) 3 4 rd rs1 rs2 s

/-- `amo.max.d` (R180). -/
def execAmoMaxD (rd rs1 rs2 : BitVec 5) (s : State) : Out :=
  amoForm (wordAmoMaxD rd rs1 rs2) 3 8 rd rs1 rs2 s

/-- `amo.minu.w` (R180). -/
def execAmoMinuW (rd rs1 rs2 : BitVec 5) (s : State) : Out :=
  amoForm (wordAmoMinuW rd rs1 rs2) 4 4 rd rs1 rs2 s

/-- `amo.minu.d` (R180). -/
def execAmoMinuD (rd rs1 rs2 : BitVec 5) (s : State) : Out :=
  amoForm (wordAmoMinuD rd rs1 rs2) 4 8 rd rs1 rs2 s

/-- `amo.maxu.w` (R180). -/
def execAmoMaxuW (rd rs1 rs2 : BitVec 5) (s : State) : Out :=
  amoForm (wordAmoMaxuW rd rs1 rs2) 5 4 rd rs1 rs2 s

/-- `amo.maxu.d` (R180). -/
def execAmoMaxuD (rd rs1 rs2 : BitVec 5) (s : State) : Out :=
  amoForm (wordAmoMaxuD rd rs1 rs2) 5 8 rd rs1 rs2 s

/-- `amo.swap.w` (R180). -/
def execAmoSwapW (rd rs1 rs2 : BitVec 5) (s : State) : Out :=
  amoForm (wordAmoSwapW rd rs1 rs2) 6 4 rd rs1 rs2 s

/-- `amo.swap.d` (R180). -/
def execAmoSwapD (rd rs1 rs2 : BitVec 5) (s : State) : Out :=
  amoForm (wordAmoSwapD rd rs1 rs2) 6 8 rd rs1 rs2 s

/-- `amo.cas.w` (R180). -/
def execAmoCasW (rd rs1 rs2 : BitVec 5) (s : State) : Out :=
  amoForm (wordAmoCasW rd rs1 rs2) 7 4 rd rs1 rs2 s

/-- `amo.cas.d` (R180). -/
def execAmoCasD (rd rs1 rs2 : BitVec 5) (s : State) : Out :=
  amoForm (wordAmoCasD rd rs1 rs2) 7 8 rd rs1 rs2 s

/-- `amo.and.w` (R180). -/
def execAmoAndW (rd rs1 rs2 : BitVec 5) (s : State) : Out :=
  amoForm (wordAmoAndW rd rs1 rs2) 8 4 rd rs1 rs2 s

/-- `amo.and.d` (R180). -/
def execAmoAndD (rd rs1 rs2 : BitVec 5) (s : State) : Out :=
  amoForm (wordAmoAndD rd rs1 rs2) 8 8 rd rs1 rs2 s

/-- `amo.or.w` (R180). -/
def execAmoOrW (rd rs1 rs2 : BitVec 5) (s : State) : Out :=
  amoForm (wordAmoOrW rd rs1 rs2) 9 4 rd rs1 rs2 s

/-- `amo.or.d` (R180). -/
def execAmoOrD (rd rs1 rs2 : BitVec 5) (s : State) : Out :=
  amoForm (wordAmoOrD rd rs1 rs2) 9 8 rd rs1 rs2 s

/-- `amo.xor.w` (R180). -/
def execAmoXorW (rd rs1 rs2 : BitVec 5) (s : State) : Out :=
  amoForm (wordAmoXorW rd rs1 rs2) 10 4 rd rs1 rs2 s

/-- `amo.xor.d` (R180). -/
def execAmoXorD (rd rs1 rs2 : BitVec 5) (s : State) : Out :=
  amoForm (wordAmoXorD rd rs1 rs2) 10 8 rd rs1 rs2 s

end Sys2Proof.Machine
end

