-- ==== Sys2Proof/Machine/Barrier.lean ====
section
/-! DEFINITION. Barrier objects: the forms at their issue and the owner's operations (09/R188 to R194). -/

namespace Sys2Proof.Machine

/-! ## At the issuer -/

/-- A barrier form's address checks (R189), the check of its operand, then its operation. -/
def barForm (w : BitVec 32) (rd rs1 : BitVec 5) (srcs : List (BitVec 5)) (s : State)
    (operand : State → Tri (Nat × State)) (count : Bool) (k : Nat → Nat → Nat → State → State) : Out :=
  let p := s.cur
  settle s <|
    (s.exePre p w rd (rs1 :: srcs)).bind fun _ =>
    (s.src p rs1).bind fun (c, s1) =>
    (operand s1).bind fun (v, s2) =>
    let a := (capAddr c).toNat
    (Tri.unless (checkCap p.isSup c a 16 (permLoad ||| permStore) false)).bind fun _ =>
    (s2.reach p .rw a 16).bind fun qs =>
    let q := qs.headD 0
    (Tri.ensure (a % 16 == 0 && isSp q) 0x16 (BitVec.ofNat 64 a)).bind fun _ =>
    (Tri.ensure (!count || (1 ≤ v && v ≤ 65535)) 0x16 (BitVec.ofNat 64 v)).bind fun _ =>
    .val (k a q v s2)

/-- The second source of a barrier form. -/
def secondSrc (p : Party) (r : BitVec 5) (s : State) : Tri (Nat × State) :=
  (s.src p r).bind fun (v, s1) => .val ((capAddr v).toNat, s1)

/-- The operation of a barrier form, a release at die scope (R189). -/
def barOp (s : State) (p : Party) (k : OpKind) (a q v : Nat) : Op :=
  { kind := k, va := a, addr := q, owner := spCore q, size := 16, v := BitVec.ofNat 64 v,
    rel := (s.ctx p).releaseAt p.ix 2 }

/-- `barinit` (R190): posted. -/
def execBarinit (rs1 rs2 : BitVec 5) (s : State) : Out :=
  barForm (wordBarinit rs1 rs2) 0 rs1 [rs2] s (secondSrc s.cur rs2) true fun a q v s1 =>
    s1.post s.cur (barOp s1 s.cur .barinit a q v)

/-- `bararv` (R191): posted when rd is x0. -/
def execBararv (rd rs1 rs2 : BitVec 5) (s : State) : Out :=
  barForm (wordBararv rd rs1 rs2) rd rs1 [rs2] s (secondSrc s.cur rs2) true fun a q v s1 =>
    s1.postOrAwait s.cur rd (barOp s1 s.cur .bararv a q v) { form := .bar, rd := rd, popped := (s.ctx s.cur).poppedBy [rs1, rs2] }

/-- `bardrop` (R191): arrives with 1. -/
def execBardrop (rd rs1 : BitVec 5) (s : State) : Out :=
  barForm (wordBardrop rd rs1) rd rs1 [] s (fun s1 => .val (1, s1)) true fun a q v s1 =>
    s1.postOrAwait s.cur rd (barOp s1 s.cur .bardrop a q v) { form := .bar, rd := rd, popped := (s.ctx s.cur).poppedBy [rs1] }

/-- `barrd` (R193). -/
def execBarrd (rd rs1 : BitVec 5) (s : State) : Out :=
  barForm (wordBarrd rd rs1) rd rs1 [] s (fun s1 => .val (0, s1)) false fun a q v s1 =>
    s1.await s.cur (barOp s1 s.cur .barrd a q v) { form := .barrd, rd := rd, popped := (s.ctx s.cur).poppedBy [rs1] }

/-- The end of a waiting `barwait` at its bound: result 1 with φ, and a cancel behind the wait (R192). -/
def State.barTimeout (s : State) (p : Party) : State :=
  match (s.ctx p).waiting with
  | some w =>
    match w.form with
    | .barwait phase =>
      if w.start + w.bound ≤ (s.core p.coreIx).cyc then
        let cancel : Op :=
          { kind := .barcancel, addr := w.place, va := w.place, owner := w.owner, size := 16, v := BitVec.ofNat 64 w.id,
            rel := (s.ctx p).releaseAt p.ix 2 }
        (((s.sendOp p cancel).2).finishWait p w (dataReg (1 + 16 * phase.setWidth 64)))
      else s
    | _ => s
  | none => s

/-- `barwait` (R192). -/
def execBarwait (rd rs1 rs2 : BitVec 5) (s : State) : Out :=
  barForm (wordBarwait rd rs1 rs2) rd rs1 [rs2] s (secondSrc s.cur rs2) false fun a q v s1 =>
    (s1.await s.cur (barOp s1 s.cur .barwait a q (v % 16))
      { form := .barwait (BitVec.ofNat 4 v), rd := rd, bound := v / 2 ^ 32,
        popped := (s.ctx s.cur).poppedBy [rs1, rs2] }).barTimeout s.cur

/-- BARWAIT_TIMEOUT (R192). -/
def execBarwaitTimeout (p : Party) (s : State) : Out := .next (s.barTimeout p)

/-! ## At the owner -/

/-- A barrier object's fields (R188). -/
structure BarObj where
  expect : BitVec 16
  remain : BitVec 16
  drops : BitVec 16
  phase : BitVec 4
  ovr : Bool
  waitcnt : BitVec 16
  invalid : Bool
  deriving DecidableEq, Repr

/-- The object in a die's view. -/
def State.barObj (s : State) (d q : Nat) : BarObj :=
  let a := s.peek64 d q
  let b := s.peek64 d (q + 8)
  { expect := a.extractLsb' 0 16, remain := a.extractLsb' 16 16, drops := a.extractLsb' 32 16,
    phase := a.extractLsb' 48 4, ovr := a.getLsbD 52, waitcnt := b.extractLsb' 0 16,
    invalid := a.extractLsb' 0 16 == 0 || a.extractLsb' 53 11 != 0 || b.extractLsb' 16 48 != 0 }

/-- The sixteen bytes of an object with zero resv bits. -/
def BarObj.word (b : BarObj) : Nat :=
  ((0#48 ++ b.waitcnt ++ 0#11 ++ BitVec.ofBool b.ovr ++ b.phase ++ b.drops ++ b.remain ++ b.expect : BitVec 128)).toNat

/-- The object written by an Owner step. -/
def State.setBar (s : State) (d q : Nat) (b : BarObj) : State := s.ownerWrite d q b.word 16

/-- Every wait registered at an object ends with a value (R190, R191). -/
def State.endWaits (s : State) (core q : Nat) (v : BitVec 64) : State :=
  let k := s.core core
  let here := k.barWaits.filter fun x => x.1 == q
  let s1 := s.setCore core { k with barWaits := k.barWaits.filter fun x => x.1 != q }
  here.foldl (fun s x => s.mod (partyOf x.2.1) fun c => { c with reply := c.reply ++ [{ id := x.2.2, val := v }] }) s1

/-- BARRIER_INIT_OP (R190). -/
def execBarrierInitOp (c : CoreId) (s : State) : Out :=
  ownerStep s c (fun k => k == .barinit) fun o s1 =>
    let n := o.v.setWidth 16
    (s1.setBar c.die.val o.addr
      { expect := n, remain := n, drops := 0, phase := 0, ovr := false, waitcnt := 0, invalid := false }).endWaits
      c.ix o.addr 2

/-- The status that an arrival returns (R191). -/
def BarObj.status (b : BarObj) (res : BitVec 64) : BitVec 64 :=
  res + 16 * b.phase.setWidth 64 + 0x10000 * b.remain.setWidth 64 + 0x100000000 * b.expect.setWidth 64

/-- The object after an accepted arrival, and whether the phase ends (R191). -/
def BarObj.arrive (b : BarObj) (count : BitVec 16) (isDrop : Bool) : BarObj × Bool :=
  let r := b.remain - count
  let d := if isDrop then b.drops + 1 else b.drops
  if r = 0 then
    let e := b.expect - d
    ({ b with expect := e, remain := e, drops := 0, phase := b.phase + 1, waitcnt := 0 }, true)
  else ({ b with remain := r, drops := d }, false)

/-- BARRIER_ARRIVE_OP (R191). -/
def execBarrierArriveOp (c : CoreId) (s : State) : Out :=
  ownerStep s c (fun k => k == .bararv || k == .bardrop) fun o s1 =>
    let d := c.die.val
    let b := s1.barObj d o.addr
    if b.invalid then s1.replyTo o (b.status 3) none
    else if b.remain.toNat < o.v.toNat then
      let b1 := { b with ovr := true }
      (s1.setBar d o.addr b1).replyTo o (b1.status 2) none
    else
      let (b1, ended) := b.arrive (o.v.setWidth 16) (o.kind == .bardrop)
      let s2 := s1.setBar d o.addr b1
      if ended then (s2.endWaits c.ix o.addr (16 * b1.phase.setWidth 64)).replyTo o (b1.status 1) none
      else s2.replyTo o (b1.status 0) none

/-- BARRIER_WAIT_OP (R192). -/
def execBarrierWaitOp (c : CoreId) (s : State) : Out :=
  ownerStep s c (fun k => k == .barwait) fun o s1 =>
    let d := c.die.val
    let b := s1.barObj d o.addr
    let p := 16 * b.phase.setWidth 64
    if b.invalid then s1.replyTo o (3 + p) none
    else if b.phase.toNat != o.v.toNat then s1.replyTo o p none
    else
      let k := s1.core c.ix
      (s1.setCore c.ix { k with barWaits := k.barWaits ++ [(o.addr, o.issuer, o.id)] }).setBar d o.addr
        { b with waitcnt := b.waitcnt + 1 }

/-- BARRIER_CANCEL (R192): only a wait that is still registered is taken back. -/
def execBarrierCancel (c : CoreId) (s : State) : Out :=
  ownerStep s c (fun k => k == .barcancel) fun o s1 =>
    let d := c.die.val
    let k := s1.core c.ix
    let mine (x : Nat × Nat × Nat) : Bool := x.1 == o.addr && x.2.1 == o.issuer && x.2.2 == o.v.toNat
    if k.barWaits.any mine then
      (s1.setCore c.ix { k with barWaits := k.barWaits.filter fun x => !mine x }).ownerWrite d (o.addr + 8)
        ((s1.barObj d o.addr).waitcnt - 1).toNat 2
    else s1

/-- BARRIER_READ_OP (R193). -/
def execBarrierReadOp (c : CoreId) (s : State) : Out :=
  ownerStep s c (fun k => k == .barrd) fun o s1 => s1.replyTo o (s1.peek64 c.die.val o.addr) none

end Sys2Proof.Machine
end

