-- ==== Sys2Proof/Machine/Block.lean ====
section
/-! DEFINITION. Block moves and region marks (07/R152 to R157). A block move takes one byte step a turn, with its
progress in its registers and the pc at the form until the count is 0 (R153, R154). -/

namespace Sys2Proof.Machine

/-- What a block move meets first: its registers are three and none of x0, x28 and x29 (R152); it takes its place
behind the instructions of the access half (R173). -/
def State.blockPre (s : State) (p : Party) (w : BitVec 32) (rd rs1 rs2 : BitVec 5) : Tri Unit :=
  let bad (r : BitVec 5) : Bool := r == 0 || r == 28 || r == 29
  if rd == rs1 || rd == rs2 || rs1 == rs2 || bad rd || bad rs1 || bad rs2 then .trap 0x01 (wordTval w)
  else (s.exePre p w 0 [rd, rs1, rs2]).bind fun _ => s.issuePoint p

/-- The address of a pointer register moved past one byte, with tag and metadata kept (R152). -/
def stepPtr (r : Reg) : Reg := capWithAddr r (capAddr r + 1)

/-- A destination byte written and the pointer and the count moved on (R152). -/
def State.blockStore (s : State) (p : Party) (rd rs2 : BitVec 5) (q : Nat) (b : Byte) : State :=
  s.mod p fun c =>
    let c1 := c.store { cells := plainCells [(q, b)] }
    (c1.setReg rd (stepPtr (c.reg rd))).setReg rs2 (dataReg (capAddr (c.reg rs2) - 1))

/-- `bmov` (R152): the next byte step, or the end. -/
def execBmov (rd rs1 rs2 : BitVec 5) (s : State) : Out :=
  let p := s.cur
  let c := s.ctx p
  settle s <|
    (s.blockPre p (wordBmov rd rs1 rs2) rd rs1 rs2).bind fun _ =>
    if capAddr (c.reg rs2) = 0 then .val (s.advance p)
    else
      let a := (capAddr (c.reg rs1)).toNat
      let q := (capAddr (c.reg rd)).toNat
      (Tri.unless (checkCap p.isSup (c.reg rs1) a 1 permLoad false)).bind fun _ =>
      (Tri.unless (checkCap p.isSup (c.reg rd) q 1 permStore false)).bind fun _ =>
      (s.fetchBytes p .r a 1).bind fun bs =>
      (s.reach p .w q 1).bind fun qs =>
      .val ((s.blockStore p rd rs2 (qs.headD 0) (bs.headD 0)).mod p fun c => c.setReg rs1 (stepPtr (c.reg rs1)))

/-- `bfill` (R152): the next byte step, or the end. -/
def execBfill (rd rs1 rs2 : BitVec 5) (s : State) : Out :=
  let p := s.cur
  let c := s.ctx p
  settle s <|
    (s.blockPre p (wordBfill rd rs1 rs2) rd rs1 rs2).bind fun _ =>
    if capAddr (c.reg rs2) = 0 then .val (s.advance p)
    else
      let q := (capAddr (c.reg rd)).toNat
      (Tri.unless (checkCap p.isSup (c.reg rd) q 1 permStore false)).bind fun _ =>
      (s.reach p .w q 1).bind fun qs =>
      .val (s.blockStore p rd rs2 (qs.headD 0) ((capAddr (c.reg rs1)).extractLsb' (8 * (q % 8)) 8))

/-- The register of a field xs, and its neighbours (R61). -/
def xsReg (xs : BitVec 3) (i : Nat) : BitVec 5 := (xs ++ 0#2) + BitVec.ofNat 5 i

/-- The registers that a field xs names. -/
def xsRegs (xs : BitVec 3) : List (BitVec 5) := [xsReg xs 0, xsReg xs 1, xsReg xs 2, xsReg xs 3]

/-- Register `i` of the four that a field xs names. -/
def Ctx.xs (c : Ctx) (x : BitVec 3) (i : Nat) : Reg := c.reg (xsReg x i)

/-- `rgn` (R157): the new resume record takes effect once the firing's earlier stores have drained. -/
def execRgn (xs : BitVec 3) (s : State) : Out :=
  let p := s.cur
  let c := s.ctx p
  settleNext s <|
    (s.exePre p (wordRgn xs) 0 []).bind fun _ =>
    (s.regsReady p (xsRegs xs)).bind fun _ =>
    (Tri.ensure c.firing.sheet 0x0F 0).bind fun _ =>
    let r : Resume :=
      { rpc := c.pc + 4, rxs := xsReg xs 0, rva := capAddr (c.xs xs 0), rvb := capAddr (c.xs xs 1),
        rvc := capAddr (c.xs xs 2), rvd := capAddr (c.xs xs 3) }
    .val (s.setCtx p { c with
      firing := ({ c.firing with pendingMarks := c.firing.pendingMarks ++ [(r, c.storeCount)] }).mark c.drained })

end Sys2Proof.Machine
end

