-- ==== Sys2Proof/Machine/Cap.lean ====
section
/-! DEFINITION. The capability forms (07/R145 to R151). -/

namespace Sys2Proof.Machine

/-- The tval of a capability form that makes no access: the number of the register whose check failed (R132). -/
def regTval (r : BitVec 5) : BitVec 64 := r.setWidth 64

/-! ## Reading fields (R145) -/

/-- `cbase` (R145). -/
def execCbase (rd rs1 : BitVec 5) (s : State) : Out :=
  exe1 (wordCbase rd rs1) rd rs1 s fun a s1 => .val (dataReg (BitVec.ofInt 64 (capBase a)), s1)

/-- `clen` (R145). -/
def execClen (rd rs1 : BitVec 5) (s : State) : Out :=
  exe1 (wordClen rd rs1) rd rs1 s fun a s1 => .val (dataReg (BitVec.ofNat 64 (capLength a)), s1)

/-- `cperm` (R145). -/
def execCperm (rd rs1 : BitVec 5) (s : State) : Out :=
  exe1 (wordCperm rd rs1) rd rs1 s fun a s1 => .val (dataReg ((capOtype a ++ 0#5 ++ capPerms a).setWidth 64), s1)

/-- `ctag` (R145). -/
def execCtag (rd rs1 : BitVec 5) (s : State) : Out :=
  exe1 (wordCtag rd rs1) rd rs1 s fun a s1 => .val (dataReg (if capTag a then 1 else 0), s1)

/-! ## Deriving (R146) -/

/-- A tagged sealed source takes cause 0x06 (R146). -/
def notSealed (r : Reg) (rs1 : BitVec 5) : Tri Unit :=
  Tri.ensure (!(capTag r && capOtype r != 0)) 0x06 (regTval rs1)

/-- The source with a new address; the tag clears where the address is not representable (R71, R146). -/
def moved (r : Reg) (n : BitVec 64) : Reg :=
  mkCap (capTag r && representable r n.toNat) (capMeta r) n

/-- `cadd` (R146). -/
def execCadd (rd rs1 rs2 : BitVec 5) (s : State) : Out :=
  exe2 (wordCadd rd rs1 rs2) rd rs1 rs2 s fun a b s1 =>
    (notSealed a rs1).bind fun _ => .val (moved a (capAddr a + capAddr b), s1)

/-- `caddi` (R146). -/
def execCaddi (rd rs1 : BitVec 5) (imm : BitVec 12) (s : State) : Out :=
  exe1 (wordCaddi rd rs1 imm) rd rs1 s fun a s1 =>
    (notSealed a rs1).bind fun _ => .val (moved a (capAddr a + imm.signExtend 64), s1)

/-- `cset` (R146). -/
def execCset (rd rs1 rs2 : BitVec 5) (s : State) : Out :=
  exe2 (wordCset rd rs1 rs2) rd rs1 rs2 s fun a b s1 =>
    (notSealed a rs1).bind fun _ => .val (moved a (capAddr b), s1)

/-- A register with its permissions replaced. -/
def capWithPerms (r : Reg) (p : BitVec 11) : Reg := mkCap (capTag r) (p ++ (capMeta r).extractLsb' 0 53) (capAddr r)

/-- `candp` (R146). -/
def execCandp (rd rs1 rs2 : BitVec 5) (s : State) : Out :=
  exe2 (wordCandp rd rs1 rs2) rd rs1 rs2 s fun a b s1 =>
    (notSealed a rs1).bind fun _ => .val (capWithPerms a (capPerms a &&& (capAddr b).setWidth 11), s1)

/-- `cmv` (R146). -/
def execCmv (rd rs1 : BitVec 5) (s : State) : Out :=
  exe1 (wordCmv rd rs1) rd rs1 s fun a s1 => .val (a, s1)

/-- `cclr` (R146). -/
def execCclr (rd rs1 : BitVec 5) (s : State) : Out :=
  exe1 (wordCclr rd rs1) rd rs1 s fun a s1 => .val (capUntag a, s1)

/-! ## Narrowing (R147) -/

/-- A number rounded up to a multiple of `m`. -/
def roundUp (x m : Nat) : Nat := (x + m - 1) / m * m

/-- The least exponent at or above `e` that can hold [lo, hi) rounded outward, trying `n` of them (R147). -/
def boundExp (lo hi e : Nat) : Nat → Option Nat
  | 0 => none
  | n + 1 =>
    if (roundUp hi (2 ^ e) - lo / 2 ^ e * 2 ^ e) / 2 ^ e ≤ 2 ^ 20 - 1 then some e else boundExp lo hi (e + 1) n

/-- `src` narrowed to the region of `len` bytes at its address (R147). tval names rs1 in every cause (DESIGN CHOICE, log 114:
R132 names the register whose check failed, and rs1 and rs2 both enter the tests of 0x08 and 0x09). -/
def narrow (exact : Bool) (r : Reg) (len : BitVec 64) (rs1 : BitVec 5) : Tri Reg :=
  let t := regTval rs1
  let lo := (capAddr r).toNat
  let hi := lo + len.toNat
  (Tri.ensure (capTag r) 0x05 t).bind fun _ =>
  (Tri.ensure (capOtype r == 0) 0x06 t).bind fun _ =>
  (Tri.ensure (capBase r ≤ lo && (hi : Int) ≤ capTop r) 0x08 t).bind fun _ =>
  match boundExp lo hi 0 45 with
  | none => .trap 0x08 t
  | some e =>
    let l := lo / 2 ^ e * 2 ^ e
    let h := roundUp hi (2 ^ e)
    (Tri.ensure (capBase r ≤ l && (h : Int) ≤ capTop r) 0x08 t).bind fun _ =>
    (Tri.ensure (!exact || (l == lo && h == hi)) 0x09 t).bind fun _ =>
    .val (mkCap true (mkMeta (capPerms r) e (l / 2 ^ e) ((h - l) / 2 ^ e) 0) (capAddr r))

/-- `cbnd` (R147). -/
def execCbnd (rd rs1 rs2 : BitVec 5) (s : State) : Out :=
  exe2 (wordCbnd rd rs1 rs2) rd rs1 rs2 s fun a b s1 =>
    (narrow false a (capAddr b) rs1).bind fun v => .val (v, s1)

/-- `cbndx` (R147). -/
def execCbndx (rd rs1 rs2 : BitVec 5) (s : State) : Out :=
  exe2 (wordCbndx rd rs1 rs2) rd rs1 rs2 s fun a b s1 =>
    (narrow true a (capAddr b) rs1).bind fun v => .val (v, s1)

/-- `csub` (R148). -/
def execCsub (rd rs1 rs2 : BitVec 5) (s : State) : Out :=
  exe2 (wordCsub rd rs1 rs2) rd rs1 rs2 s fun a b s1 =>
    let sub := capTag a && capTag b && decide (capBase a ≤ capBase b) && decide (capTop b ≤ capTop a) &&
      hasPerms a (capPerms b)
    .val (dataReg (if sub then 1 else 0), s1)

/-! ## Sealing (R150, R151) -/

/-- A register with its object type replaced. -/
def capWithOtype (r : Reg) (t : BitVec 7) : Reg := mkCap (capTag r) ((capMeta r).extractLsb' 7 57 ++ t) (capAddr r)

/-- Whether a party holds sealing authority for object type `t` (R150). -/
def State.sealing (s : State) (p : Party) (t : Nat) : Bool × State :=
  if t = 0 || 127 < t then (false, s)
  else if p.isSup then (true, s)
  else
    let (c, s1) := s.sealClass p.die.val (s.ctx p).partid t
    (c == some (s.ctx p).kcls, s1)

/-- `cseal` and `cunseal` (R151). -/
def sealForm (w : BitVec 32) (rd rs1 rs2 : BitVec 5) (undo : Bool) (s : State) : Out :=
  exe2 w rd rs1 rs2 s fun a b s1 =>
    (Tri.ensure (capTag a) 0x05 (regTval rs1)).bind fun _ =>
    let t := (capAddr b).toNat
    let (ok, s2) := s1.sealing s.cur t
    (Tri.ensure ok 0x07 (regTval rs2)).bind fun _ =>
    let ty := BitVec.ofNat 7 t
    (Tri.ensure (capOtype a == (if undo then ty else 0)) 0x06 (regTval rs1)).bind fun _ =>
    .val (capWithOtype a (if undo then 0 else ty), s2)

/-- `cseal` (R151). -/
def execCseal (rd rs1 rs2 : BitVec 5) (s : State) : Out := sealForm (wordCseal rd rs1 rs2) rd rs1 rs2 false s

/-- `cunseal` (R151). -/
def execCunseal (rd rs1 rs2 : BitVec 5) (s : State) : Out := sealForm (wordCunseal rd rs1 rs2) rd rs1 rs2 true s

/-! ## Capability loads and stores (R149) -/

/-- `clc` (R149). -/
def execClc (rd rs1 : BitVec 5) (imm : BitVec 12) (s : State) : Out :=
  loadForm (wordClc rd rs1 imm) rd rs1 (imm.signExtend 64) 16 (fun c => .cap (hasPerms c permLoadCap)) true none s

/-- Whether an address lies in the party's own core's scratchpad, by its own window or the die window (R149). -/
def inOwnScratchpad (p : Party) (a : Nat) : Bool :=
  match windowOf p.isSup a with
  | .own => true
  | .die => !p.isSup && p.die.val * 2048 + (a - 0xFF00000000000) / 0x20000 == p.coreIx
  | _ => false

/-- The cells that `csc` writes: the granule and its tag, as one (R149, R159). -/
def granuleCells (qs : List Nat) (v : Reg) : List (Nat × Byte) :=
  qs.zip (leBytes (capAddr v).toNat 8 ++ leBytes (capMeta v).toNat 8) ++
    [(tagPlace (qs.headD 0), if capTag v then 1 else 0)]

/-- `csc` (R149). -/
def execCsc (rs2 rs1 : BitVec 5) (imm : BitVec 12) (s : State) : Out :=
  let p := s.cur
  settleNext s <|
    (s.memPre p (wordCsc rs2 rs1 imm) (dataField rs2) [rs1]).bind fun _ =>
    (s.src p rs1).bind fun (c, s1) =>
    (s1.storeSrc p rs2).bind fun (v, s2) =>
    let a := (capAddr c + imm.signExtend 64).toNat
    let need := permStore ||| (if capTag v then permStoreCap else 0)
    (Tri.unless (checkCap p.isSup c a 16 need true)).bind fun _ =>
    (Tri.ensure (!(capTag v && !hasPerms v permGlobal) || inOwnScratchpad p a) 0x07 (BitVec.ofNat 64 a)).bind fun _ =>
    (s2.reach p .w a 16).bind fun qs =>
    .val (s2.handStores p [{ cells := granuleCells qs v }])

end Sys2Proof.Machine
end

