-- ==== Sys2Proof/Machine/Int.lean ====
section
/-! DEFINITION. The integer forms of the RISC-V base (07/R134, R135). -/

namespace Sys2Proof.Machine

/-- 1 when a relation holds, else 0. -/
def setIf (t : Bool) : BitVec 64 := if t then 1 else 0

/-- The shift amount of a 64-bit shift: b[5:0] (R134). -/
def shift64 (b : BitVec 64) : Nat := (b.extractLsb' 0 6).toNat

/-- The shift amount of a 32-bit shift: b[4:0] (R134). -/
def shift32 (b : BitVec 64) : Nat := (b.extractLsb' 0 5).toNat

/-- The signed quotient, rounded toward zero; −1 for a divisor of 0, the dividend on overflow (R135). -/
def divS {w : Nat} (a b : BitVec w) : BitVec w :=
  if b = 0 then BitVec.allOnes w else BitVec.ofInt w (a.toInt.tdiv b.toInt)

/-- The unsigned quotient; all ones for a divisor of 0 (R135). -/
def divU {w : Nat} (a b : BitVec w) : BitVec w :=
  if b = 0 then BitVec.allOnes w else BitVec.ofNat w (a.toNat / b.toNat)

/-- The signed remainder, with the sign of the dividend; the dividend for a divisor of 0 (R135). -/
def remS {w : Nat} (a b : BitVec w) : BitVec w :=
  if b = 0 then a else BitVec.ofInt w (a.toInt.tmod b.toInt)

/-- The unsigned remainder; the dividend for a divisor of 0 (R135). -/
def remU {w : Nat} (a b : BitVec w) : BitVec w :=
  if b = 0 then a else BitVec.ofNat w (a.toNat % b.toNat)

/-- `addi` (R134). -/
def execAddi (rd rs1 : BitVec 5) (imm : BitVec 12) (s : State) : Out :=
  alu1 (wordAddi rd rs1 imm) rd rs1 (fun a => a + imm.signExtend 64) s

/-- `slti` (R134). -/
def execSlti (rd rs1 : BitVec 5) (imm : BitVec 12) (s : State) : Out :=
  alu1 (wordSlti rd rs1 imm) rd rs1 (fun a => setIf (a.slt (imm.signExtend 64))) s

/-- `sltiu` (R134). -/
def execSltiu (rd rs1 : BitVec 5) (imm : BitVec 12) (s : State) : Out :=
  alu1 (wordSltiu rd rs1 imm) rd rs1 (fun a => setIf (a.ult (imm.signExtend 64))) s

/-- `xori` (R134). -/
def execXori (rd rs1 : BitVec 5) (imm : BitVec 12) (s : State) : Out :=
  alu1 (wordXori rd rs1 imm) rd rs1 (fun a => a ^^^ imm.signExtend 64) s

/-- `ori` (R134). -/
def execOri (rd rs1 : BitVec 5) (imm : BitVec 12) (s : State) : Out :=
  alu1 (wordOri rd rs1 imm) rd rs1 (fun a => a ||| imm.signExtend 64) s

/-- `andi` (R134). -/
def execAndi (rd rs1 : BitVec 5) (imm : BitVec 12) (s : State) : Out :=
  alu1 (wordAndi rd rs1 imm) rd rs1 (fun a => a &&& imm.signExtend 64) s

/-- `slli` (R134). -/
def execSlli (rd rs1 : BitVec 5) (sh : BitVec 6) (s : State) : Out :=
  alu1 (wordSlli rd rs1 sh) rd rs1 (fun a => a <<< sh.toNat) s

/-- `srli` (R134). -/
def execSrli (rd rs1 : BitVec 5) (sh : BitVec 6) (s : State) : Out :=
  alu1 (wordSrli rd rs1 sh) rd rs1 (fun a => a >>> sh.toNat) s

/-- `srai` (R134). -/
def execSrai (rd rs1 : BitVec 5) (sh : BitVec 6) (s : State) : Out :=
  alu1 (wordSrai rd rs1 sh) rd rs1 (fun a => a.sshiftRight sh.toNat) s

/-- `add` (R134). -/
def execAdd (rd rs1 rs2 : BitVec 5) (s : State) : Out :=
  alu2 (wordAdd rd rs1 rs2) rd rs1 rs2 (fun a b => a + b) s

/-- `sll` (R134). -/
def execSll (rd rs1 rs2 : BitVec 5) (s : State) : Out :=
  alu2 (wordSll rd rs1 rs2) rd rs1 rs2 (fun a b => a <<< shift64 b) s

/-- `slt` (R134). -/
def execSlt (rd rs1 rs2 : BitVec 5) (s : State) : Out :=
  alu2 (wordSlt rd rs1 rs2) rd rs1 rs2 (fun a b => setIf (a.slt b)) s

/-- `sltu` (R134). -/
def execSltu (rd rs1 rs2 : BitVec 5) (s : State) : Out :=
  alu2 (wordSltu rd rs1 rs2) rd rs1 rs2 (fun a b => setIf (a.ult b)) s

/-- `xor` (R134). -/
def execXor (rd rs1 rs2 : BitVec 5) (s : State) : Out :=
  alu2 (wordXor rd rs1 rs2) rd rs1 rs2 (fun a b => a ^^^ b) s

/-- `srl` (R134). -/
def execSrl (rd rs1 rs2 : BitVec 5) (s : State) : Out :=
  alu2 (wordSrl rd rs1 rs2) rd rs1 rs2 (fun a b => a >>> shift64 b) s

/-- `or` (R134). -/
def execOr (rd rs1 rs2 : BitVec 5) (s : State) : Out :=
  alu2 (wordOr rd rs1 rs2) rd rs1 rs2 (fun a b => a ||| b) s

/-- `and` (R134). -/
def execAnd (rd rs1 rs2 : BitVec 5) (s : State) : Out :=
  alu2 (wordAnd rd rs1 rs2) rd rs1 rs2 (fun a b => a &&& b) s

/-- `sub` (R134). -/
def execSub (rd rs1 rs2 : BitVec 5) (s : State) : Out :=
  alu2 (wordSub rd rs1 rs2) rd rs1 rs2 (fun a b => a - b) s

/-- `sra` (R134). -/
def execSra (rd rs1 rs2 : BitVec 5) (s : State) : Out :=
  alu2 (wordSra rd rs1 rs2) rd rs1 rs2 (fun a b => a.sshiftRight (shift64 b)) s

/-- `mul` (R135). -/
def execMul (rd rs1 rs2 : BitVec 5) (s : State) : Out :=
  alu2 (wordMul rd rs1 rs2) rd rs1 rs2 (fun a b => a * b) s

/-- `mulh` (R135). -/
def execMulh (rd rs1 rs2 : BitVec 5) (s : State) : Out :=
  alu2 (wordMulh rd rs1 rs2) rd rs1 rs2 (fun a b => BitVec.ofInt 64 (a.toInt * b.toInt / 2 ^ 64)) s

/-- `mulhsu` (R135). -/
def execMulhsu (rd rs1 rs2 : BitVec 5) (s : State) : Out :=
  alu2 (wordMulhsu rd rs1 rs2) rd rs1 rs2 (fun a b => BitVec.ofInt 64 (a.toInt * (b.toNat : Int) / 2 ^ 64)) s

/-- `mulhu` (R135). -/
def execMulhu (rd rs1 rs2 : BitVec 5) (s : State) : Out :=
  alu2 (wordMulhu rd rs1 rs2) rd rs1 rs2 (fun a b => BitVec.ofNat 64 (a.toNat * b.toNat / 2 ^ 64)) s

/-- `div` (R135). -/
def execDiv (rd rs1 rs2 : BitVec 5) (s : State) : Out :=
  alu2 (wordDiv rd rs1 rs2) rd rs1 rs2 (fun a b => divS a b) s

/-- `divu` (R135). -/
def execDivu (rd rs1 rs2 : BitVec 5) (s : State) : Out :=
  alu2 (wordDivu rd rs1 rs2) rd rs1 rs2 (fun a b => divU a b) s

/-- `rem` (R135). -/
def execRem (rd rs1 rs2 : BitVec 5) (s : State) : Out :=
  alu2 (wordRem rd rs1 rs2) rd rs1 rs2 (fun a b => remS a b) s

/-- `remu` (R135). -/
def execRemu (rd rs1 rs2 : BitVec 5) (s : State) : Out :=
  alu2 (wordRemu rd rs1 rs2) rd rs1 rs2 (fun a b => remU a b) s

/-- `addiw` (R134). -/
def execAddiw (rd rs1 : BitVec 5) (imm : BitVec 12) (s : State) : Out :=
  alu1 (wordAddiw rd rs1 imm) rd rs1 (fun a => sext32 (low32 (a + imm.signExtend 64))) s

/-- `slliw` (R134). -/
def execSlliw (rd rs1 : BitVec 5) (sh : BitVec 5) (s : State) : Out :=
  alu1 (wordSlliw rd rs1 sh) rd rs1 (fun a => sext32 (low32 a <<< sh.toNat)) s

/-- `srliw` (R134). -/
def execSrliw (rd rs1 : BitVec 5) (sh : BitVec 5) (s : State) : Out :=
  alu1 (wordSrliw rd rs1 sh) rd rs1 (fun a => sext32 (low32 a >>> sh.toNat)) s

/-- `sraiw` (R134). -/
def execSraiw (rd rs1 : BitVec 5) (sh : BitVec 5) (s : State) : Out :=
  alu1 (wordSraiw rd rs1 sh) rd rs1 (fun a => sext32 ((low32 a).sshiftRight sh.toNat)) s

/-- `addw` (R134). -/
def execAddw (rd rs1 rs2 : BitVec 5) (s : State) : Out :=
  alu2 (wordAddw rd rs1 rs2) rd rs1 rs2 (fun a b => sext32 (low32 (a + b))) s

/-- `subw` (R134). -/
def execSubw (rd rs1 rs2 : BitVec 5) (s : State) : Out :=
  alu2 (wordSubw rd rs1 rs2) rd rs1 rs2 (fun a b => sext32 (low32 (a - b))) s

/-- `sllw` (R134). -/
def execSllw (rd rs1 rs2 : BitVec 5) (s : State) : Out :=
  alu2 (wordSllw rd rs1 rs2) rd rs1 rs2 (fun a b => sext32 (low32 a <<< shift32 b)) s

/-- `srlw` (R134). -/
def execSrlw (rd rs1 rs2 : BitVec 5) (s : State) : Out :=
  alu2 (wordSrlw rd rs1 rs2) rd rs1 rs2 (fun a b => sext32 (low32 a >>> shift32 b)) s

/-- `sraw` (R134). -/
def execSraw (rd rs1 rs2 : BitVec 5) (s : State) : Out :=
  alu2 (wordSraw rd rs1 rs2) rd rs1 rs2 (fun a b => sext32 ((low32 a).sshiftRight (shift32 b))) s

/-- `mulw` (R135). -/
def execMulw (rd rs1 rs2 : BitVec 5) (s : State) : Out :=
  alu2 (wordMulw rd rs1 rs2) rd rs1 rs2 (fun a b => sext32 (low32 (a * b))) s

/-- `divw` (R135). -/
def execDivw (rd rs1 rs2 : BitVec 5) (s : State) : Out :=
  alu2 (wordDivw rd rs1 rs2) rd rs1 rs2 (fun a b => sext32 (divS (low32 a) (low32 b))) s

/-- `divuw` (R135). -/
def execDivuw (rd rs1 rs2 : BitVec 5) (s : State) : Out :=
  alu2 (wordDivuw rd rs1 rs2) rd rs1 rs2 (fun a b => sext32 (divU (low32 a) (low32 b))) s

/-- `remw` (R135). -/
def execRemw (rd rs1 rs2 : BitVec 5) (s : State) : Out :=
  alu2 (wordRemw rd rs1 rs2) rd rs1 rs2 (fun a b => sext32 (remS (low32 a) (low32 b))) s

/-- `remuw` (R135). -/
def execRemuw (rd rs1 rs2 : BitVec 5) (s : State) : Out :=
  alu2 (wordRemuw rd rs1 rs2) rd rs1 rs2 (fun a b => sext32 (remU (low32 a) (low32 b))) s

end Sys2Proof.Machine
end

