-- ==== Sys2Proof/Machine/Control.lean ====
section
/-! DEFINITION. Upper immediates, jumps, branches and the forms that take a cause of their own (03/R58, R59;
07/R136). -/

namespace Sys2Proof.Machine

/-- An upper immediate: imm[31:12] × 2^12, sign-extended (R136). -/
def upper (imm : BitVec 20) : BitVec 64 := (imm ++ 0#12).signExtend 64

/-- The pc set to a target that is a multiple of 4, or cause 0x04 with the target (R58). -/
def State.jump (s : State) (p : Party) (t : BitVec 64) : Tri State :=
  (Tri.ensure (t.extractLsb' 0 2 == 0#2) 0x04 t).bind fun _ => .val (s.setPc p t)

/-- A jump that links: the target is formed first, then rd receives pc + 4 untagged (R56, R136). -/
def State.jumpLink (s : State) (p : Party) (rd : BitVec 5) (t : BitVec 64) : Tri State :=
  let link := dataReg ((s.ctx p).pc + 4)
  (s.jump p t).bind fun s1 => .val (s1.dest p rd link)

/-- A branch: to pc + offset when its relation holds, else to the next instruction (R136). -/
def branchForm (w : BitVec 32) (rs1 rs2 : BitVec 5) (off : BitVec 12) (taken : BitVec 64 → BitVec 64 → Bool)
    (s : State) : Out :=
  let p := s.cur
  settle s <|
    (s.exePre p w 0 [rs1, rs2]).bind fun _ =>
    (s.src p rs1).bind fun (a, s1) =>
    (s1.src p rs2).bind fun (b, s2) =>
    if taken (capAddr a) (capAddr b) then s2.jump p ((s.ctx p).pc + (off ++ 0#1).signExtend 64)
    else .val (s2.advance p)

/-- `lui` (R136). -/
def execLui (rd : BitVec 5) (imm : BitVec 20) (s : State) : Out :=
  exe0 (wordLui rd imm) rd s fun s1 => .val (dataReg (upper imm), s1)

/-- `auipc` (R136). -/
def execAuipc (rd : BitVec 5) (imm : BitVec 20) (s : State) : Out :=
  exe0 (wordAuipc rd imm) rd s fun s1 => .val (dataReg ((s1.ctx s1.cur).pc + upper imm), s1)

/-- `jal` (R136). -/
def execJal (rd : BitVec 5) (off : BitVec 20) (s : State) : Out :=
  let p := s.cur
  settle s <|
    (s.exePre p (wordJal rd off) rd []).bind fun _ =>
    s.jumpLink p rd ((s.ctx p).pc + (off ++ 0#1).signExtend 64)

/-- `jalr` (R136). -/
def execJalr (rd rs1 : BitVec 5) (imm : BitVec 12) (s : State) : Out :=
  let p := s.cur
  settle s <|
    (s.exePre p (wordJalr rd rs1 imm) rd [rs1]).bind fun _ =>
    (s.src p rs1).bind fun (a, s1) =>
    s1.jumpLink p rd ((capAddr a + imm.signExtend 64) &&& ~~~1#64)

/-- `beq` (R136). -/
def execBeq (rs1 rs2 : BitVec 5) (off : BitVec 12) (s : State) : Out :=
  branchForm (wordBeq rs1 rs2 off) rs1 rs2 off (fun a b => a == b) s

/-- `bne` (R136). -/
def execBne (rs1 rs2 : BitVec 5) (off : BitVec 12) (s : State) : Out :=
  branchForm (wordBne rs1 rs2 off) rs1 rs2 off (fun a b => a != b) s

/-- `blt` (R136). -/
def execBlt (rs1 rs2 : BitVec 5) (off : BitVec 12) (s : State) : Out :=
  branchForm (wordBlt rs1 rs2 off) rs1 rs2 off (fun a b => a.slt b) s

/-- `bge` (R136). -/
def execBge (rs1 rs2 : BitVec 5) (off : BitVec 12) (s : State) : Out :=
  branchForm (wordBge rs1 rs2 off) rs1 rs2 off (fun a b => !a.slt b) s

/-- `bltu` (R136). -/
def execBltu (rs1 rs2 : BitVec 5) (off : BitVec 12) (s : State) : Out :=
  branchForm (wordBltu rs1 rs2 off) rs1 rs2 off (fun a b => a.ult b) s

/-- `bgeu` (R136). -/
def execBgeu (rs1 rs2 : BitVec 5) (off : BitVec 12) (s : State) : Out :=
  branchForm (wordBgeu rs1 rs2 off) rs1 rs2 off (fun a b => !a.ult b) s

/-- `ecall` takes cause 0x03 (R59). -/
def execEcall (s : State) : Out := .next (takeTrap s s.cur 0x03 0)

/-- `ebreak` takes cause 0x02 (R59). -/
def execEbreak (s : State) : Out := .next (takeTrap s s.cur 0x02 0)

/-- A word that is not an instruction takes cause 0x01 with the word (R52, R53, R132). -/
def execIllegalInstruction (w : BitVec 32) (s : State) : Out := .next (takeTrap s s.cur 0x01 (wordTval w))

/-- A fetch that fails takes its cause (R379). -/
def execInstructionFetchFault (cause : BitVec 6) (tval : BitVec 64) (s : State) : Out :=
  .next (takeTrap s s.cur cause tval)

/-- A hint point has no effect (R67). -/
def execHintPoint (_hint : BitVec 17) (s : State) : Out := .next (s.advance s.cur)

end Sys2Proof.Machine
end

