-- ==== Sys2Proof/Machine/Fetch.lean ====
section
/-! DEFINITION. Instruction fetch (03/R51, R58; 23/R379, R384, R386) and the passing of cycles (07/R139). -/

namespace Sys2Proof.Machine

/-- The word that a party fetches at an address: firing contexts through the virtual window, supervisor cores
through the physical one, with the X permission (R379). -/
def State.fetchWord (s : State) (p : Party) (pc : BitVec 64) : Tri (BitVec 32) :=
  let a := pc.toNat
  (Tri.ensure (a % 4 == 0) 0x04 pc).bind fun _ =>
  (Tri.ensure (windowOf p.isSup a == (if p.isSup then .phys else .virt)) 0x10 pc).bind fun _ =>
  (s.fetchBytes p .x a 4).bind fun bs => .val (BitVec.ofNat 32 (leNat bs))

/-- Cycles added to a core's count (R139); its slot table is walked one entry per cycle (R86). -/
def State.tick (s : State) (core n : Nat) : State :=
  let k := s.core core
  s.setCore core { k with cyc := k.cyc + n, walkAt := k.walkAt + BitVec.ofNat 4 n }

end Sys2Proof.Machine
end

