-- ==== Sys2Proof/Machine/Clocks.lean ====
section
/-! DEFINITION. The clocks that the rules count by (DESIGN CHOICE, log 5): a core's count of cycles, and the counts of the
units that have bounds of their own. -/

namespace Sys2Proof.Machine

/-- The Damper's clock (21/R360). -/
def clockDamper : Nat := 30000

/-- The clock of a base die (23/R390). -/
def clockBase (d : Nat) : Nat := 30100 + d

/-- The clock of a die's flue engines (21/R362). -/
def clockFlue (d : Nat) : Nat := 30200 + d

/-- The clock of a switch output port (21/R351). -/
def clockSwitch (port : Nat) : Nat := 30300 + port

/-- The clock of a unit whose corrected errors are counted (23/R386). -/
def clockUnit (u : Nat) : Nat := 31000 + u

/-- A clock's count; clocks below 30,000 are cores' (R139). -/
def State.clock (s : State) (clock : Nat) : Nat :=
  if clock < 30000 then (s.core clock).cyc else s.dev.clocks.getD clock 0

end Sys2Proof.Machine
end

