-- ==== Sys2Proof/Machine/Sha3.lean ====
section
/-! DEFINITION. SHA3-256 (FIPS 202), which 19/R330 and 23/R392, R393 name: the Keccak sponge with rate 136
bytes over 25 lanes of 64 bits. -/

namespace Sys2Proof.Machine

/-- The 25 lanes of the sponge, lane x + 5y. -/
abbrev Lanes := List (BitVec 64)

/-- A lane. -/
def lane (a : Lanes) (x y : Nat) : BitVec 64 := a.getD (x % 5 + 5 * (y % 5)) 0

/-- The lane positions in order. -/
def lanePos : List (Nat × Nat) :=
  [0, 1, 2, 3, 4].flatMap fun y => [0, 1, 2, 3, 4].map fun x => (x, y)

/-- The rotation offsets of the rho step, at x + 5y. -/
def rhoOffsets : List Nat :=
  [0, 1, 62, 28, 27, 36, 44, 6, 55, 20, 3, 10, 43, 25, 39, 41, 45, 15, 21, 8, 18, 2, 61, 56, 14]

/-- The round constants of the iota step. -/
def iotaConstants : List (BitVec 64) :=
  [0x0000000000000001, 0x0000000000008082, 0x800000000000808A, 0x8000000080008000,
   0x000000000000808B, 0x0000000080000001, 0x8000000080008081, 0x8000000000008009,
   0x000000000000008A, 0x0000000000000088, 0x0000000080008009, 0x000000008000000A] ++
  [0x000000008000808B, 0x800000000000008B, 0x8000000000008089, 0x8000000000008003,
   0x8000000000008002, 0x8000000000000080, 0x000000000000800A, 0x800000008000000A,
   0x8000000080008081, 0x8000000000008080, 0x0000000080000001, 0x8000000080008008]

/-- The theta step. -/
def theta (a : Lanes) : Lanes :=
  let c := [0, 1, 2, 3, 4].map fun x =>
    lane a x 0 ^^^ lane a x 1 ^^^ lane a x 2 ^^^ lane a x 3 ^^^ lane a x 4
  let d := [0, 1, 2, 3, 4].map fun x => c.getD ((x + 4) % 5) 0 ^^^ (c.getD ((x + 1) % 5) 0).rotateLeft 1
  lanePos.map fun (x, y) => lane a x y ^^^ d.getD x 0

/-- The rho and pi steps: lane (x, y) of the result is lane (x + 3y, x) rotated. -/
def rhoPi (a : Lanes) : Lanes :=
  lanePos.map fun (x, y) =>
    let fx := (x + 3 * y) % 5
    (lane a fx x).rotateLeft (rhoOffsets.getD (fx + 5 * x) 0)

/-- The chi step. -/
def chi (a : Lanes) : Lanes :=
  lanePos.map fun (x, y) => lane a x y ^^^ (~~~(lane a (x + 1) y) &&& lane a (x + 2) y)

/-- One round. -/
def keccakRound (a : Lanes) (rc : BitVec 64) : Lanes :=
  match chi (rhoPi (theta a)) with
  | [] => []
  | l :: rest => (l ^^^ rc) :: rest

/-- The permutation of 24 rounds. -/
def keccakF (a : Lanes) : Lanes := iotaConstants.foldl keccakRound a

/-- Eight bytes as a lane, the first least significant. -/
def laneOf : List Byte → BitVec 64
  | [] => 0
  | b :: bs => (laneOf bs <<< 8) ||| b.setWidth 64

/-- The lanes of a block of 136 bytes, padded with zero lanes to 25. -/
def blockLanes (bs : List Byte) : Lanes :=
  ((List.range 17).map fun i => laneOf ((bs.drop (8 * i)).take 8)) ++ List.replicate 8 0

/-- The blocks absorbed in turn. -/
def absorb (bs : List Byte) : Nat → Lanes → Lanes
  | 0, a => a
  | n + 1, a => absorb (bs.drop 136) n (keccakF ((a.zip (blockLanes bs)).map fun (x, y) => x ^^^ y))

/-- SHA3-256 as a little-endian 256-bit value: digest byte 0 in bits 7:0 (19/R327). -/
def sha3 (m : List Byte) : BitVec 256 :=
  let q := 136 - m.length % 136
  let pad : List Byte := if q = 1 then [0x86] else (0x06 : Byte) :: (List.replicate (q - 2) 0 ++ [0x80])
  let a := absorb (m ++ pad) (m.length / 136 + 1) (List.replicate 25 0)
  lane a 3 0 ++ lane a 2 0 ++ lane a 1 0 ++ lane a 0 0

end Sys2Proof.Machine
end

