-- ==== Sys2Proof/Machine/TapWords.lean ====
section
/-! DEFINITION. The words of a tap point that a supervisor core reaches through tapsel and tapdat
(19/R326 to R331), with arming and disarming. -/

namespace Sys2Proof.Machine

/-- CTL fields (R328). -/
def ctlEn (c : BitVec 64) : Bool := c.getLsbD 0
def ctlRms (c : BitVec 64) : Bool := c.getLsbD 1
def ctlPost (c : BitVec 64) : Bool := c.getLsbD 2
def ctlAct (c : BitVec 64) : Bool := c.getLsbD 3
def ctlNprobe (c : BitVec 64) : Nat := (c.extractLsb' 4 5).toNat
def ctlNvec (c : BitVec 64) : Nat := (c.extractLsb' 9 4).toNat
def ctlWb (c : BitVec 64) : Nat := (c.extractLsb' 13 12).toNat
def ctlPart (c : BitVec 64) : BitVec 8 := c.extractLsb' 32 8

/-- WIDTH: 16 × WB columns (R328). -/
def ctlWidth (c : BitVec 64) : Nat := 16 * ctlWb c

/-- The bits of CTL that are not resv (R328). -/
def ctlMask : BitVec 64 := 0x000000FF01FFFFFF

/-- CUR (R331). -/
def Tap.cur (t : Tap) : BitVec 64 :=
  t.lost ++ 0#5 ++ BitVec.ofNat 6 t.recs.length ++ t.brows ++ t.cb ++ t.rb

/-- A word of a tap point (R327). -/
def Tap.word (t : Tap) (w : Nat) : BitVec 64 :=
  if w = 0 then t.ctl
  else if w = 1 then t.ptbl
  else if w = 2 then t.vtbl
  else if w = 3 then t.cur
  else if w < 8 then t.digest.extractLsb' (64 * (w - 4)) 64
  else if w < 24 then t.thr.toList.getD (w - 8) 0
  else 0

/-- The accumulation in progress discarded (R330). -/
def Tap.discard (t : Tap) : Tap := { t with a := [], q := [], y := [], cb := 0, brows := 0 }

/-- `n` bytes of a table that a tap point reads at a device-physical address, or none where they reach no HBM
or fail an integrity check (R327, R330, R340). -/
def State.tableBytes (s : State) (d q n : Nat) : Option (List Byte) :=
  if n = 0 then some []
  else if hbmTop < q + n then none
  else
    let qs := span q n
    match s.poisonedFrom d q qs with
    | some _ => none
    | none => some (qs.map (s.cell d))

/-- A write of CTL with EN = 1 is refused (R329). -/
def Tap.armRefused (t : Tap) (v : BitVec 64) : Bool :=
  let w := ctlWidth v
  16 < ctlNprobe v || 8 < ctlNvec v || ctlWb v == 0 || v &&& ~~~ctlMask != 0 ||
    t.ptop - t.ptbl.toNat < 4 * w * 16 || t.vtop - t.vtbl.toNat < 4 * w * 8

/-- The bytes whose SHA3-256 is DIGEST (R330). -/
def State.digestBytes (s : State) (d : Nat) (t : Tap) (v : BitVec 64) : Option (List Byte) :=
  let np := ctlNprobe v
  match s.tableBytes d t.ptbl.toNat (np * ctlWidth v * 4), s.tableBytes d t.vtbl.toNat (ctlNvec v * ctlWidth v * 4) with
  | some ps, some vs =>
    some (leBytes v.toNat 8 ++ ((t.thr.toList.take np).map fun x => leBytes x.toNat 4).flatten ++ ps ++ vs)
  | _, _ => none

/-- The tap point after an arming write, or none where the write takes cause 0x37 (R329, R330). -/
def State.armTap (s : State) (d : Nat) (t : Tap) (v : BitVec 64) : Option Tap :=
  if ctlEn t.ctl || t.armRefused v then none
  else
    (s.digestBytes d t v).map fun bs =>
      { ctl := v, ptbl := t.ptbl, vtbl := t.vtbl, ptop := t.ptop, vtop := t.vtop, thr := t.thr, digest := sha3 bs }

/-- The tap point after a write of CTL with EN = 0 (R329, R330). -/
def Tap.disarm (t : Tap) (v : BitVec 64) : Tap := { t.discard with ctl := v &&& ctlMask }

/-- The tap point after a write of PTBL (word 1) or VTBL (word 2) through a capability (R329). -/
def Tap.setTable (t : Tap) (word : Nat) (c : Reg) : Option Tap :=
  let need := 4 * ctlWidth t.ctl * (if word = 1 then 16 else 8)
  let a := (capAddr c).toNat
  if ctlEn t.ctl || !capTag c || capOtype c != 0 || !hasPerms c permProbe ||
      (a : Int) < capBase c || capTop c < ((a + need : Nat) : Int) then none
  else if word = 1 then some { t with ptbl := capAddr c, ptop := (capTop c).toNat }
  else some { t with vtbl := capAddr c, vtop := (capTop c).toNat }

/-- The tap point that tapsel selects: its cluster and number (R326). -/
def tapSelected (d : Nat) (sel : BitVec 64) : Nat × Nat :=
  (d * 256 + (sel.extractLsb' 8 8).toNat, (sel.extractLsb' 0 3).toNat)

/-- The word that tapsel selects (R326). -/
def tapWordSelected (sel : BitVec 64) : Nat := (sel.extractLsb' 3 5).toNat

/-- A tap point of a cluster. -/
def State.tap (s : State) (clu n : Nat) : Tap := (s.clu clu).taps.toList.getD n {}

/-- The state with a tap point replaced. -/
def State.setTap (s : State) (clu n : Nat) (t : Tap) : State :=
  let k := s.clu clu
  s.setClu clu { k with taps := k.taps.setIfInBounds n t }

/-- A write of tapdat by a supervisor core: `cap` is the rs1 of a `csrrw` (R326 to R330). -/
def State.writeTap (s : State) (d : Nat) (sel v : BitVec 64) (cap : Option Reg) (word01 : BitVec 64) : Tri State :=
  let (clu, n) := tapSelected d sel
  let w := tapWordSelected sel
  let t := s.tap clu n
  let put (o : Option Tap) : Tri State :=
    match o with
    | some t1 => .val (s.setTap clu n t1)
    | none => .trap 0x37 0
  if 3 ≤ w && w ≤ 7 then .trap 0x01 word01
  else if 24 ≤ w then .val s
  else if w = 0 then (if ctlEn v then put (s.armTap d t v) else put (some (t.disarm v)))
  else if w ≤ 2 then
    match cap with
    | some c => put (t.setTable w c)
    | none => .trap 0x37 0
  else if ctlEn t.ctl then .trap 0x37 0
  else put (some { t with thr := t.thr.setIfInBounds (w - 8) (v &&& 0xFFFFFFFF) })

end Sys2Proof.Machine
end

