-- ==== Sys2Proof/Machine/Csr.lean ====
section
/-! DEFINITION. The CSRs and the words reached through them (03/R82 to R88; 23/R383), and the CSR forms
(07/R138, R139). -/

namespace Sys2Proof.Machine

/-- The CSRs of R82, and whether each needs supervisor mode and is read only. -/
inductive Csr where
  | fflags | frm | fcsr | fmtA | fmtB | sclA | sclB
  | netcap | kcls | kkey | ltag | fdep | cyc | coreid | partid
  | cause | epc | tval | ctbase | ctbsel | ccsel | ccdat | sltgo | slot (n : Fin 16)
  | tapsel | tapdat | acsel | acdat
  deriving DecidableEq, Repr

/-- The CSR of a number (R82). -/
def csrOf (n : BitVec 12) : Option Csr :=
  let k := n.toNat
  if k = 0x001 then some .fflags
  else if k = 0x002 then some .frm
  else if k = 0x003 then some .fcsr
  else if k = 0x800 then some .fmtA
  else if k = 0x801 then some .fmtB
  else if k = 0x802 then some .sclA
  else if k = 0x803 then some .sclB
  else if k = 0xCC0 then some .netcap
  else if k = 0xCC1 then some .kcls
  else if k = 0xCC2 then some .kkey
  else if k = 0xCC3 then some .ltag
  else if k = 0xCC4 then some .fdep
  else if k = 0xCC5 then some .cyc
  else if k = 0xCC6 then some .coreid
  else if k = 0xCC7 then some .partid
  else if k = 0x5C0 then some .cause
  else if k = 0x5C1 then some .epc
  else if k = 0x5C2 then some .tval
  else if k = 0x5C3 then some .ctbase
  else if k = 0x5C4 then some .ctbsel
  else if k = 0x5C5 then some .ccsel
  else if k = 0x5C6 then some .ccdat
  else if k = 0x5CF then some .sltgo
  else if 0x5D0 ≤ k ∧ k < 0x5E0 then some (.slot (Fin.ofNat 16 (k - 0x5D0)))
  else if k = 0x9C0 then some .tapsel
  else if k = 0x9C1 then some .tapdat
  else if k = 0x9C2 then some .acsel
  else if k = 0x9C3 then some .acdat
  else none

/-- Whether a CSR is marked S (R82). -/
def Csr.sup : Csr → Bool
  | .cause | .epc | .tval | .ctbase | .ctbsel | .ccsel | .ccdat | .sltgo | .slot _ => true
  | .tapsel | .tapdat | .acsel | .acdat => true
  | _ => false

/-- Whether a CSR is marked RO (R82). -/
def Csr.ro : Csr → Bool
  | .netcap | .kcls | .kkey | .ltag | .fdep | .cyc | .coreid | .partid => true
  | _ => false

/-- A value with its resv bits dropped (R9). -/
def keep (m v : BitVec 64) : BitVec 64 := v &&& m

/-- The core of the supervisor's die that ccsel or sltgo names: CLU in bits 15:8, CORE in bits 18:16. -/
def coreSelected (d : Nat) (sel : BitVec 64) : Nat :=
  d * 2048 + (sel.extractLsb' 8 8).toNat * 8 + (sel.extractLsb' 16 3).toNat

/-- The access-table entry that acsel selects, if it selects one (R383). -/
def accessSelected (d : Nat) (sel : BitVec 64) : Option Nat :=
  let i := (sel.extractLsb' 8 11).toNat
  let e := (sel.extractLsb' 0 6).toNat
  match (sel.extractLsb' 19 3).toNat with
  | 0 => if i < 384 then some (i * 64 + e) else none
  | 1 => some ((1000 + d * 2048 + i) * 64 + e)
  | 2 => if i < 256 then some (targetCsr (d * 256 + i) * 64 + e) else none
  | 3 => if i < 128 then some (targetPort i * 64 + e) else none
  | 4 => some (targetHost * 64 + e)
  | _ => none

/-- A configuration word of a core (R88). -/
def Core.configWord (k : Core) (w : Nat) : BitVec 64 :=
  match w with
  | 0 => k.starea
  | 1 => k.ovfl
  | 2 => k.spq
  | 3 => k.qovf
  | _ => 0

/-- A CSR as a party reads it. Reading has no side effect (R138). BUSY of sltgo is shown for the core that the reader's CLU
and CORE fields name now, whichever supervisor core's request waits there (DESIGN CHOICE, log 63: R87 does not say whose
request the bit reports). -/
def State.readCsr (s : State) (p : Party) (r : Csr) : BitVec 64 :=
  let c := s.ctx p
  let d := p.die.val
  match r with
  | .fflags => (c.fcsr.extractLsb' 0 5).setWidth 64
  | .frm => (c.fcsr.extractLsb' 5 3).setWidth 64
  | .fcsr => c.fcsr.setWidth 64
  | .fmtA => c.fmtA
  | .fmtB => c.fmtB
  | .sclA => c.sclA
  | .sclB => c.sclB
  | .netcap => 0x402020
  | .kcls => c.kcls.setWidth 64
  | .kkey => c.kkey
  | .ltag => c.ltag.setWidth 64
  | .fdep => c.fdep.setWidth 64
  | .cyc => BitVec.ofNat 64 (s.core p.coreIx).cyc
  | .coreid => (tupleOfCore p.coreIx s.dev.num).setWidth 64
  | .partid => c.partid.setWidth 64
  | .cause => c.cause.setWidth 64
  | .epc => c.epc
  | .tval => c.tval
  | .ctbase => s.dev.ctbase.getD c.ctbsel.toNat 0
  | .ctbsel => c.ctbsel.setWidth 64
  | .ccsel => c.ccsel
  | .ccdat => (s.core (coreSelected d c.ccsel)).configWord (c.ccsel.extractLsb' 0 3).toNat
  | .sltgo =>
    c.sltgo ||| (if (s.core (coreSelected d c.sltgo)).pendSlots.isSome then 4 else 0)
  | .slot n => c.staged[n.val]
  | .tapsel => c.tapsel
  | .tapdat =>
    let (clu, n) := tapSelected d c.tapsel
    (s.tap clu n).word (tapWordSelected c.tapsel)
  | .acsel => c.acsel
  | .acdat =>
    match accessSelected d c.acsel with
    | some k => s.dev.access.getD k 0
    | none => 0

/-! ## Words with a behaviour of their own -/

/-- R87: a staged table is rejected (the handler's PART counts: DEDUCED, log 101). -/
def slotsRejected (t : List (BitVec 64)) : Bool :=
  let ctx (e : BitVec 64) : Nat := (e.extractLsb' 0 3).toNat
  let donee (e : BitVec 64) : Nat := (e.extractLsb' 3 3).toNat
  let part (e : BitVec 64) : BitVec 8 := e.extractLsb' 8 8
  ([0, 1, 2, 3].any fun k => !t.any fun e => ctx e == k) ||
    !(t.any fun e => ctx e == 4) ||
    (t.any fun e => t.any fun f => ctx e == ctx f && ctx e != 7 && part e != part f) ||
    (t.any fun e => ctx e == 4 && donee e != 7) ||
    (t.any fun e => ctx e == 5 || ctx e == 6 || donee e == 5 || donee e == 6)

/-- The partition of context `k` in a slot table (R86). -/
def slotPart (t : List (BitVec 64)) (k : Nat) : BitVec 8 :=
  match t.find? fun e => (e.extractLsb' 0 3).toNat == k with
  | some e => e.extractLsb' 8 8
  | none => 0

/-- A write of sltgo by a supervisor core: CLU and CORE are stored; with GO the staged table is checked,
and waits for its installation at the named core or is rejected (R87). -/
def State.writeSltgo (s : State) (p : Party) (v : BitVec 64) : State :=
  let c := s.ctx p
  let named := keep 0x7FF00 v
  if !v.getLsbD 0 then s.setCtx p { c with sltgo := named ||| keep 2 c.sltgo }
  else if slotsRejected c.staged.toList then s.setCtx p { c with sltgo := named ||| 2 }
  else
    let n := coreSelected p.die.val v
    let s1 := s.setCore n { s.core n with pendSlots := some c.staged.toList }
    s1.setCtx p { c with sltgo := named }

/-- A write of STAREA, or none where it takes cause 0x01 (R88). -/
def Core.writeStarea (k : Core) (v : BitVec 64) : Option Core :=
  let start := (v.extractLsb' 0 17).toNat
  let size := (v.extractLsb' 32 17).toNat
  if k.actors != [] || v &&& ~~~0x0001FFC00001FFC0 != 0 || 0x20000 < start + size then none
  else some { k with starea := v }

/-- The bits of SPQ and QOVF that a write stores: the base is 64 KiB aligned (R88). -/
def areaMask : BitVec 64 := 0xFFFFFFFFFFFF0000

/-- A write of SPQ, or none while the area holds entries (R88). -/
def Core.writeSpq (k : Core) (v : BitVec 64) : Option Core :=
  if k.spill != [] then none else some { k with spq := keep areaMask v }

/-- A write of QOVF, or none while the area holds entries (R88). -/
def Core.writeQovf (k : Core) (v : BitVec 64) : Option Core :=
  if k.quireOvf != [] then none else some { k with qovf := keep areaMask v }

/-- A write of a configuration word of a core (R88). -/
def Core.writeConfig (k : Core) (w : Nat) (v : BitVec 64) : Option Core :=
  match w with
  | 0 => k.writeStarea v
  | 1 => some { k with ovfl := v }
  | 2 => k.writeSpq v
  | 3 => k.writeQovf v
  | _ => some k

/-- A CSR written by a party with `v`; `cap` is the rs1 of a `csrrw`, `w` the tval of cause 0x01. -/
def State.writeCsr (s : State) (p : Party) (r : Csr) (v : BitVec 64) (cap : Option Reg) (w : BitVec 64) : Tri State :=
  let c := s.ctx p
  let d := p.die.val
  let set (c1 : Ctx) : Tri State := .val (s.setCtx p c1)
  match r with
  | .fflags => set { c with fcsr := c.fcsr.extractLsb' 5 3 ++ v.extractLsb' 0 5 }
  | .frm => set { c with fcsr := v.extractLsb' 0 3 ++ c.fcsr.extractLsb' 0 5 }
  | .fcsr => set { c with fcsr := v.extractLsb' 0 8 }
  | .fmtA => set { c with fmtA := keep 0x1F v }
  | .fmtB => set { c with fmtB := keep 0x1F v }
  | .sclA => set { c with sclA := keep 0x0001FFFF0001FFFF v }
  | .sclB => set { c with sclB := keep 0x0001FFFF0001FFFF v }
  | .cause => set { c with cause := v.extractLsb' 0 6 }
  | .epc => set { c with epc := v }
  | .tval => set { c with tval := v }
  | .ctbase => .val (s.setDev { s.dev with ctbase := s.dev.ctbase.put c.ctbsel.toNat (keep areaMask v) })
  | .ctbsel => set { c with ctbsel := v.extractLsb' 0 8 }
  | .ccsel => set { c with ccsel := keep 0x7FF07 v }
  | .ccdat =>
    let n := coreSelected d c.ccsel
    match (s.core n).writeConfig (c.ccsel.extractLsb' 0 3).toNat v with
    | some k => .val (s.setCore n k)
    | none => .trap 0x01 w
  | .sltgo => .val (s.writeSltgo p v)
  | .slot n => set { c with staged := c.staged.set n.val (keep 0xFF3F v) }
  | .tapsel => set { c with tapsel := keep 0xFFFF v }
  | .tapdat => s.writeTap d c.tapsel v cap w
  | .acsel => set { c with acsel := keep 0x3FFF3F v }
  | .acdat =>
    match accessSelected d c.acsel with
    | some k => .val (s.setDev { s.dev with access := s.dev.access.put k (keep 0xFFFF0F v) })
    | none => .val s
  | .netcap | .kcls | .kkey | .ltag | .fdep | .cyc | .coreid | .partid => .trap 0x01 w

/-! ## The CSR forms -/

/-- How a CSR form combines the old value and its operand (R138). -/
inductive CsrOp where
  | write | set | clear
  deriving DecidableEq, Repr

/-- The value written (R138). -/
def CsrOp.apply (o : CsrOp) (old v : BitVec 64) : BitVec 64 :=
  match o with
  | .write => v
  | .set => old ||| v
  | .clear => old &&& ~~~v

/-- The refusals of a CSR form that need no operand, which come before a queue cause of rs1 (R82, R90, R138):
an unassigned number, an S CSR outside supervisor mode, and a write of an RO CSR. -/
def csrGate (p : Party) (w : BitVec 32) (n : BitVec 12) (writes : Bool) : Tri Csr :=
  match csrOf n with
  | none => .trap 0x01 (wordTval w)
  | some r => if (r.sup && !p.isSup) || (r.ro && writes) then .trap 0x01 (wordTval w) else .val r

/-- A write that takes 0x01 whatever its value: STAREA of a core with actors, SPQ and QOVF while their area holds entries
(R88), and a word of a tap point that is read only (R326). -/
def State.csrClosed (s : State) (p : Party) (r : Csr) : Bool :=
  let c := s.ctx p
  match r with
  | .ccdat =>
    let k := s.core (coreSelected p.die.val c.ccsel)
    match (c.ccsel.extractLsb' 0 3).toNat with
    | 0 => k.actors != []
    | 2 => k.spill != []
    | 3 => k.quireOvf != []
    | _ => false
  | .tapdat => 3 ≤ tapWordSelected c.tapsel && tapWordSelected c.tapsel ≤ 7
  | _ => false

/-- The access of a CSR form once its operand is read: it reads and writes as R138 lays down. -/
def State.csrAccess (s : State) (p : Party) (w : BitVec 32) (n : BitVec 12) (o : CsrOp) (writes : Bool)
    (v : BitVec 64) (cap : Option Reg) : Tri (BitVec 64 × State) :=
  (csrGate p w n writes).bind fun r =>
    let old := s.readCsr p r
    if writes then
      (s.writeCsr p r (o.apply old v) cap (wordTval w)).bind fun s1 => .val (old, s1)
    else .val (old, s)

/-- The old value goes to rd; a `csrrw` form with rd = x0 does not read (R138). -/
def State.csrDest (s : State) (p : Party) (rd : BitVec 5) (old : BitVec 64) : State := s.dest p rd (dataReg old)

/-- A CSR form with a register operand. -/
def csrReg (w : BitVec 32) (rd : BitVec 5) (n : BitVec 12) (rs1 : BitVec 5) (o : CsrOp) (s : State) : Out :=
  let p := s.cur
  settleNext s <|
    (s.exePre p w rd [rs1]).bind fun _ =>
    (csrGate p w n (o == .write || rs1 != 0)).bind fun r =>
    (Tri.ensure (!((o == .write || rs1 != 0) && s.csrClosed p r)) 0x01 (wordTval w)).bind fun _ =>
    (s.src p rs1).bind fun (a, s1) =>
    (s1.csrAccess p w n o (o == .write || rs1 != 0) (capAddr a) (if o = .write then some a else none)).bind fun (old, s2) =>
    .val (s2.csrDest p rd old)

/-- A CSR form with an immediate operand. -/
def csrImm (w : BitVec 32) (rd : BitVec 5) (n : BitVec 12) (u : BitVec 5) (o : CsrOp) (s : State) : Out :=
  let p := s.cur
  settleNext s <|
    (s.exePre p w rd []).bind fun _ =>
    (s.csrAccess p w n o (o == .write || u != 0) (u.setWidth 64) none).bind fun (old, s2) =>
    .val (s2.csrDest p rd old)

/-- `csrrw` (R138). -/
def execCsrrw (rd : BitVec 5) (csr : BitVec 12) (rs1 : BitVec 5) (s : State) : Out :=
  csrReg (wordCsrrw rd csr rs1) rd csr rs1 .write s

/-- `csrrs` (R138). -/
def execCsrrs (rd : BitVec 5) (csr : BitVec 12) (rs1 : BitVec 5) (s : State) : Out :=
  csrReg (wordCsrrs rd csr rs1) rd csr rs1 .set s

/-- `csrrc` (R138). -/
def execCsrrc (rd : BitVec 5) (csr : BitVec 12) (rs1 : BitVec 5) (s : State) : Out :=
  csrReg (wordCsrrc rd csr rs1) rd csr rs1 .clear s

/-- `csrrwi` (R138). -/
def execCsrrwi (rd : BitVec 5) (csr : BitVec 12) (uimm : BitVec 5) (s : State) : Out :=
  csrImm (wordCsrrwi rd csr uimm) rd csr uimm .write s

/-- `csrrsi` (R138). -/
def execCsrrsi (rd : BitVec 5) (csr : BitVec 12) (uimm : BitVec 5) (s : State) : Out :=
  csrImm (wordCsrrsi rd csr uimm) rd csr uimm .set s

/-- `csrrci` (R138). -/
def execCsrrci (rd : BitVec 5) (csr : BitVec 12) (uimm : BitVec 5) (s : State) : Out :=
  csrImm (wordCsrrci rd csr uimm) rd csr uimm .clear s

/-! ## The writes as steps of their own

Each is the write that a CSR form of supervisor core `n` of a die makes at the word that its selector CSR
selects. Where the write takes a cause, the cause is the instruction's, and the step changes nothing. -/

/-- The state that a write leaves. -/
def csrStep (s : State) (t : Tri State) : Out :=
  match t with
  | .val s1 => .next s1
  | _ => .next s

/-- A write of a configuration word of the core that ccsel selects. -/
def configStep (s : State) (die : Fin 8) (n : Fin 4) (f : Core → Option Core) : Out :=
  let i := coreSelected die.val (s.ctx (.sup die n)).ccsel
  match f (s.core i) with
  | some k => .next (s.setCore i k)
  | none => .next s

/-- SLTGO_REQUEST (R87). -/
def execSltgoRequest (die : Fin 8) (n : Fin 4) (v : BitVec 64) (s : State) : Out :=
  .next (s.writeSltgo (.sup die n) (v ||| 1))

/-- SLOT_TABLE_INSTALL (R87): at the start of a walk, once every context whose PART changes is idle. -/
def execSlotTableInstall (c : CoreId) (s : State) : Out :=
  let k := s.core c.ix
  match k.pendSlots with
  | none => .next s
  | some t =>
    let changed (i : Fin 4) : Bool := slotPart t i.val != slotPart k.slots i.val
    if k.walkAt = 0 && [(0 : Fin 4), 1, 2, 3].all fun i => !changed i || (s.ctx (.ctx c i)).run == .idle then
      .next (s.setCore c.ix { k with slots := t, pendSlots := none })
    else .next s

/-- STAREA_WRITE (R88). -/
def execStareaWrite (die : Fin 8) (n : Fin 4) (v : BitVec 64) (s : State) : Out :=
  configStep s die n fun k => k.writeStarea v

/-- SPQ_WRITE (R88). -/
def execSpqWrite (die : Fin 8) (n : Fin 4) (v : BitVec 64) (s : State) : Out :=
  configStep s die n fun k => k.writeSpq v

/-- QOVF_WRITE (R88). -/
def execQovfWrite (die : Fin 8) (n : Fin 4) (v : BitVec 64) (s : State) : Out :=
  configStep s die n fun k => k.writeQovf v

/-- The tap point that the tapsel of a supervisor core selects, changed. -/
def tapStep (s : State) (die : Fin 8) (n : Fin 4) (f : Tap → BitVec 64 → Option Tap) : Out :=
  let sel := (s.ctx (.sup die n)).tapsel
  let (clu, i) := tapSelected die.val sel
  match f (s.tap clu i) sel with
  | some t => .next (s.setTap clu i t)
  | none => .next s

/-- TAP_ARM (R329, R330): a write of CTL that sets EN. -/
def execTapArm (die : Fin 8) (n : Fin 4) (v : BitVec 64) (s : State) : Out :=
  tapStep s die n fun t _ => s.armTap die.val t (v ||| 1)

/-- TAP_DISARM (R330): a write of CTL with EN = 0. -/
def execTapDisarm (die : Fin 8) (n : Fin 4) (v : BitVec 64) (s : State) : Out :=
  tapStep s die n fun t _ => some (t.disarm (v &&& ~~~1))

/-- TAP_TABLE_POINTER_WRITE (R329): a `csrrw` of PTBL or VTBL, where tapsel selects one of them. -/
def execTapTablePointerWrite (die : Fin 8) (n : Fin 4) (cap : BitVec 129) (s : State) : Out :=
  tapStep s die n fun t sel =>
    let w := tapWordSelected sel
    if w = 1 || w = 2 then t.setTable w cap else none

/-- REGISTER_WRITE (R82, R138): a write of a CSR, permitted in the party's mode. -/
def execRegisterWrite (p : Party) (csr : BitVec 12) (v : BitVec 64) (s : State) : Out :=
  match csrOf csr with
  | none => .next s
  | some r =>
    if (r.sup && !p.isSup) || r.ro then .next s
    else csrStep s (s.writeCsr p r v (some (dataReg v)) 0)

end Sys2Proof.Machine
end

