-- ==== Sys2Proof/Machine/Flits.lean ====
section
/-! DEFINITION. Flits, planes and ports of the fabric, and actor messages between devices (21/R344 to R351). -/

namespace Sys2Proof.Machine

/-! ## Headers (R345) -/

def flitVc (f : Flit) : Nat := (f.hdr.extractLsb' 0 2).toNat
def flitType (f : Flit) : Nat := (f.hdr.extractLsb' 2 5).toNat
def flitSrc (f : Flit) : BitVec 12 := f.hdr.extractLsb' 8 12
def flitDst (f : Flit) : BitVec 12 := f.hdr.extractLsb' 20 12
def flitPart (f : Flit) : BitVec 8 := f.hdr.extractLsb' 32 8
def flitLtag (f : Flit) : BitVec 12 := f.hdr.extractLsb' 40 12
def flitPrio (f : Flit) : BitVec 2 := f.hdr.extractLsb' 52 2
def flitBytes (f : Flit) : Nat := (f.hdr.extractLsb' 54 7).toNat
def flitReq (f : Flit) : BitVec 24 := f.hdr.extractLsb' 64 24
def flitToken (f : Flit) : BitVec 16 := f.hdr.extractLsb' 88 16
def flitChunk (f : Flit) : Nat := (f.hdr.extractLsb' 104 10).toNat

/-- Dword `i` of a flit's payload. -/
def flitWord (f : Flit) (i : Nat) : BitVec 64 := f.pay.extractLsb' (64 * i) 64

/-- The valid bytes of a flit's payload. -/
def flitData (f : Flit) : List Byte := (List.range (min (flitBytes f) 64)).map fun i => f.pay.extractLsb' (8 * i) 8

/-- The resv bits of a flit's header are zero. -/
def flitResvOk (f : Flit) : Bool :=
  !f.hdr.getLsbD 7 && f.hdr.extractLsb' 61 3 == 0 && f.hdr.extractLsb' 114 14 == 0

/-- What a flit's header says. -/
structure FlitHead where
  vc : BitVec 2
  typ : BitVec 5
  src : BitVec 12
  dst : BitVec 12
  part : BitVec 8 := 0
  ltag : BitVec 12 := 0
  prio : BitVec 2 := 0
  bytes : Nat := 0
  req : BitVec 24 := 0
  token : BitVec 16 := 0
  chunk : Nat := 0
  deriving DecidableEq, Repr

/-- A header (R345). -/
def FlitHead.bits (h : FlitHead) : BitVec 128 :=
  0#14 ++ BitVec.ofNat 10 h.chunk ++ h.token ++ h.req ++ 0#3 ++ BitVec.ofNat 7 h.bytes ++ h.prio ++ h.ltag ++ h.part ++
    h.dst ++ h.src ++ 0#1 ++ h.typ ++ h.vc

/-- A payload from its eight dwords. -/
def flitPay (a b c d e f g h : BitVec 64) : BitVec 512 := h ++ g ++ f ++ e ++ d ++ c ++ b ++ a

/-! ## Ports and planes (R344, R348, R351) -/

/-- The record of a port. -/
def State.port (s : State) (n : Nat) : Port := s.dev.ports.getD n {}

/-- The state with a port's record replaced. -/
def State.setPort (s : State) (n : Nat) (x : Port) : State :=
  s.setDev { s.dev with ports := s.dev.ports.put n x }

/-- The ports that are up, ascending (R348). -/
def State.upPorts (s : State) : List Nat := (List.range 128).filter fun n => !(s.port n).down

/-- Whether a device is reached by some plane of the domain (R349). -/
def State.reachable (s : State) (dst : BitVec 12) : Bool := s.dev.domain.contains dst && s.upPorts != []

/-- The plane of a request's flits (R348). -/
def planeOf (l : List Nat) (i : Nat) : Nat := l.getD (i % l.length) 0

/-- The switch that a plane's port feeds. -/
def State.switch (s : State) (n : Nat) : Switch := s.dev.switches.getD n {}

/-- The state with a switch's record replaced. -/
def State.setSwitch (s : State) (n : Nat) (x : Switch) : State :=
  s.setDev { s.dev with switches := s.dev.switches.put n x }

/-- The buffer reserve of a class on each link direction (R347). -/
def classReserve (cls : Nat) : Nat :=
  match cls with
  | 0 => 16
  | 1 => 16
  | 2 => 8
  | _ => 64

/-- The usable buffer of a class in a direction of a port's links (R349). -/
def Port.usableOf (x : Port) (dir cls : Nat) : Nat := x.usable.getD (4 * dir + cls) (classReserve cls)

/-- The directions of a port's links in which the usable buffer of a class is below its reserve (R349). -/
def Port.shortIn (x : Port) (cls : Nat) : List Nat := (List.range 4).filter fun d => x.usableOf d cls < classReserve cls

/-- The key of a flit's flow (R351), and the flow of a key. -/
def flowKey (dst : BitVec 12) (cls : Nat) : Nat := dst.toNat * 4 + cls
def sameFlow (f g : Flit) : Bool := flitDst f == flitDst g && flitVc f == flitVc g

/-- The flits of a class that a switch output holds. -/
def Switch.load (x : Switch) (cls : Nat) : Nat := (x.queue.filter fun f => flitVc f == cls).length

/-- A switch output has an entry free for a class: its reserve, and what the part has beyond it (R347, R351). -/
def Switch.room (x : Switch) (port cls : Nat) : Bool :=
  x.load cls < classReserve cls || decide (x.load cls < classReserve cls + Config.switchEntries (port * 4 + cls))

/-- Whether a flow holds more than half of a switch output's entries for its class (R351). -/
def Switch.hogs (x : Switch) (port : Nat) (dst : BitVec 12) (cls : Nat) : Bool :=
  classReserve cls + Config.switchEntries (port * 4 + cls) <
    2 * (x.queue.filter fun f => flitDst f == dst && flitVc f == cls).length

/-- A flit enters the switch behind a port; a flow that is set aside there joins its set-aside queue. -/
def State.enterSwitch (s : State) (port : Nat) (f : Flit) : State :=
  let x := s.switch port
  let dst := flitDst f
  let cls := flitVc f
  if x.asides.any fun a => a.1 == dst && a.2.1 == cls then
    s.setSwitch port { x with asides := x.asides.map fun a =>
      if a.1 == dst && a.2.1 == cls then (a.1, a.2.1, a.2.2 ++ [f]) else a }
  else
    let y := { x with queue := x.queue ++ [f] }
    let k := flowKey dst cls
    let since :=
      if y.hogs port dst cls then
        if (y.since.find k).isSome then y.since else y.since.put k (s.clock (clockSwitch port))
      else y.since.drop k
    s.setSwitch port { y with since := since }

/-- A port may send a flit into its switch: its flow is not set aside there (R351), and the switch has an entry free. -/
def State.mayLeave (s : State) (port : Nat) (f : Flit) : Bool :=
  !(s.port port).setAside.contains (flitDst f, flitVc f) && (s.switch port).room port (flitVc f)

/-- A flit leaves by a port: at once, or once the port may send it, behind those of its flow that wait. -/
def State.sendFlit (s : State) (port : Nat) (f : Flit) : State :=
  let x := s.port port
  if s.mayLeave port f && !x.waiting.any (sameFlow f) then s.enterSwitch port f
  else s.setPort port { x with waiting := x.waiting ++ [f] }

/-- The flits that wait at a port move into its switch, in the order of each flow, as far as they may. -/
def State.moveUp (s : State) (port : Nat) : List Flit → State
  | [] => s
  | f :: fs =>
    let x := s.port port
    (if s.mayLeave port f && x.waiting.find? (sameFlow f) == some f then
      (s.setPort port { x with waiting := x.waiting.erase f }).enterSwitch port f
    else s).moveUp port fs

/-- Flits leave a switch output as time passes: how many of its queue and of its set-aside queues, the rules do not say
(DESIGN CHOICE, log 27), and those that wait at the port move up. A flow that no longer holds more than half of the entries
begins its count anew (R351). -/
def State.switchPass (s : State) (port : Nat) : State :=
  let (v, s1) := s.fresh
  let (w, s2) := s1.fresh
  let x := s2.switch port
  let y := { x with
    queue := x.queue.drop (v.toNat % (x.queue.length + 1)),
    asides := x.asides.map fun (a : BitVec 12 × Nat × List Flit) => (a.1, a.2.1, a.2.2.drop (w.toNat % (a.2.2.length + 1))) }
  let z := { y with since := y.since.filter fun (k, _) => y.hogs port (BitVec.ofNat 12 (k / 4)) (k % 4) }
  let s3 := s2.setSwitch port z
  s3.moveUp port (s3.port port).waiting

/-- A request, response or grant flit of a request sent on its plane (R348). -/
def State.sendOnPlane (s : State) (req : BitVec 24) (f : Flit) : State :=
  let l := s.upPorts
  if l = [] then s else s.sendFlit (planeOf l req.toNat) f

/-- Bulk flit `n` of a prefix or range sent on its plane: the planes set aside for the device are left out (R348). -/
def State.sendBulk (s : State) (req : BitVec 24) (n : Nat) (f : Flit) : State :=
  let l := s.upPorts.filter fun p => !(s.port p).setAside.contains (flitDst f, 3)
  if l = [] then s.sendOnPlane req f else s.sendFlit (planeOf l (req.toNat + n)) f

/-- The plane on which a flit to this device travels: by its request number, for bulk flits with its place in its range, and
for a message by the device (R348, R350). -/
def State.flitPlane (s : State) (f : Flit) : Nat :=
  let l := s.upPorts
  if flitVc f = 3 then planeOf l ((flitReq f).toNat + flitChunk f)
  else if flitVc f = 0 && (flitType f = 3 || flitType f = 4) then planeOf l (flitDst f).toNat
  else planeOf l (flitReq f).toNat

/-- A flit that came whole by a port ends the run of failed resends of its lanes (R386; DESIGN CHOICE, log 95: which lane
carried it is not told). -/
def State.goodFlit (s : State) (f : Flit) : State :=
  let n := s.flitPlane f
  let x := s.port n
  if x.resends = [] then s else s.setPort n { x with resends := [] }

/-! ## Actor messages between devices (R350) -/

/-- The MSG flit of a message. -/
def msgFlit (src dst : BitVec 12) (m : Message) : Flit :=
  let h : FlitHead := { vc := 0, typ := 3, src := src, dst := dst, part := m.part, ltag := hdrLtag m.hdr, bytes := 64, token := m.cls }
  { hdr := h.bits, pay := m.pay ++ m.hdr ++ m.key }

/-- The message of a MSG flit. -/
def msgOf (f : Flit) : Message :=
  { part := flitPart f, cls := flitToken f, key := flitWord f 0, hdr := flitWord f 1, pay := f.pay.extractLsb' 128 384 }

/-- The MSG plane to a device, if a flit may be sent there now: a plane is up, and no flit on another plane is still to
be acknowledged (R350). -/
def State.msgPlane (s : State) (dst : BitVec 12) : Option Nat :=
  if !s.reachable dst then none
  else
    let p := planeOf s.upPorts dst.toNat
    match s.dev.unacked.find dst.toNat with
    | some (q, l) => if l = [] || q = p then some p else none
    | none => some p

/-- A flit of the MSG discipline sent on a plane; it is to be acknowledged (R350). -/
def State.sendCounted (s : State) (dst : BitVec 12) (plane : Nat) (x : Counted) : State :=
  let l := match s.dev.unacked.find dst.toNat with
    | some (_, l) => l
    | none => []
  (s.setDev { s.dev with unacked := s.dev.unacked.put dst.toNat (plane, l ++ [x]) }).sendFlit plane x.flit

/-- The report of a flit that is held because no plane reaches its device, to the supervisor of the die that sends it
(R350). -/
def State.reportHeld (s : State) (x : Counted) : State :=
  let m := if flitType x.flit = 3 then msgOf x.flit else { part := flitPart x.flit }
  s.report x.die
    { cause := 0x3A, src := 3, part := m.part, cls := m.cls, key := m.key, unit := 5, tuple := s.dieTuple x.die }

/-- A flit of the MSG discipline to another device: it is held while it may not be sent, and one for a device that no plane
reaches is reported (R350). -/
def State.sendUnder (s : State) (dst : BitVec 12) (x : Counted) : State :=
  let held := s.setDev { s.dev with msgHeld := s.dev.msgHeld ++ [(dst.toNat, x)] }
  match s.msgPlane dst with
  | some p => if s.dev.msgHeld.any fun y => y.1 == dst.toNat then held else s.sendCounted dst p x
  | none => if s.reachable dst then held else held.reportHeld x

/-- The message that an acknowledgement marks: one of a journalled firing, or an item of a launch (R231, R389). -/
def Message.toMark (m : Message) : Option Message := if m.sender.isSome || m.item.isSome then some m else none

/-- A message sent to another device. -/
def State.sendMessage (s : State) (die : Nat) (dst : BitVec 12) (m : Message) : State :=
  s.sendUnder dst { flit := msgFlit s.dev.num dst m, mark := m.toMark, die := die }

/-- Flits held for a device sent, oldest first, as far as they may be. -/
def State.flushHeld (s : State) : List (Nat × Counted) → State
  | [] => s
  | (d, x) :: rest =>
    let dst := BitVec.ofNat 12 d
    match s.msgPlane dst with
    | some p => ((s.setDev { s.dev with msgHeld := s.dev.msgHeld.erase (d, x) }).sendCounted dst p x).flushHeld rest
    | none => s.flushHeld rest

/-- Every flit that is held and may be sent, sent. -/
def State.flushMessages (s : State) : State := s.flushHeld s.dev.msgHeld

/-- The hand-offs between codes that DETAIL names (R385; DESIGN CHOICE, log 111: the rule gives them no numbers). -/
def handOffHbm : Nat := 0
def handOffSram : Nat := 1
def handOffLink : Nat := 2
def handOffCopy : Nat := 3

/-- A mismatch at a hand-off reported with cause 0x38 (R385). -/
def State.reportHandOff (s : State) (n : Nat) : State :=
  s.report 0 { cause := 0x38, src := 2, unit := 10, tuple := s.devTuple, d0 := BitVec.ofNat 64 n }

/-- The types whose payload is data: SHORT, RDATA and DATA (R346). -/
def flitHoldsData (f : Flit) : Bool :=
  (flitVc f == 0 && flitType f == 1) || (flitVc f == 1 && flitType f == 2) || flitVc f == 3

/-- A flit that its receiver discards is reported as an integrity event (R346). -/
def State.discardFlit (s : State) (f : Flit) : State :=
  s.report 0 { cause := 0x38, src := 2, part := flitPart f, unit := 8, tuple := s.devTuple, d0 := f.hdr.setWidth 64 }

/-! ## Time -/

/-- Time passing in one clock: flits leave a switch output, and the telemetry of a base die's compute die is renewed with
what its sensors give (R351, 23/R397; DESIGN CHOICE, log 110). -/
def State.passTime (s : State) (clock n : Nat) : State :=
  if clock < 30000 then s.tick clock n
  else
    let s1 := s.setDev { s.dev with clocks := s.dev.clocks.put clock (s.dev.clocks.getD clock 0 + n) }
    if clockSwitch 0 ≤ clock && clock ≤ clockSwitch 127 then s1.switchPass (clock - clockSwitch 0)
    else if clockBase 0 ≤ clock && clock ≤ clockBase 7 then
      let d := clock - clockBase 0
      let (v, s2) := s1.fresh
      let (w, s3) := s2.fresh
      let m := s3.dev.mgmt
      s3.setDev { s3.dev with mgmt := { m with power := m.power.put d v, temperature := m.temperature.put d w } }
    else s1

end Sys2Proof.Machine
end

