-- ==== Sys2Proof/Machine/Messages.lean ====
section
/-! DEFINITION. The message and launch forms at their issue (11/R206 to R219, R227 to R232, R236; 23/R375). -/

namespace Sys2Proof.Machine

/-- The tval of cause 0x26: the number of the register that holds the malformed operand (R371). -/
def routeTval (r : BitVec 5) : BitVec 64 := r.setWidth 64

/-- The partition of a party's messages (R210). -/
def Ctx.sendPart (c : Ctx) (p : Party) : BitVec 8 := if p.isSup then c.ctbsel else c.partid

/-- The DEPTH and LTAG of a party's messages (R210). -/
def Ctx.sendDepth (c : Ctx) (p : Party) : BitVec 4 := if p.isSup then 0 else c.fdep
def Ctx.sendLtag (c : Ctx) (p : Party) : BitVec 12 := if p.isSup then 0 else c.ltag

/-- The payload of `send`: x10 to x15 (R211). -/
def Ctx.payload (c : Ctx) : BitVec 384 :=
  mkPay (capAddr (c.reg 10)) (capAddr (c.reg 11)) (capAddr (c.reg 12)) (capAddr (c.reg 13)) (capAddr (c.reg 14))
    (capAddr (c.reg 15))

/-- The registers that hold a payload (R211, R214). -/
def payloadRegs : List (BitVec 5) := [10, 11, 12, 13, 14, 15]

/-- Whether the firing's messages are held until it commits (R389). -/
def Ctx.holdsSends (c : Ctx) (p : Party) : Bool := !p.isSup && !c.firing.sheet && descJrnl c.firing.desc

/-- The core that the key of a supervisor command names (R375), and its device: the tuple of R16. -/
def commandCore (key : BitVec 64) : Nat := (key.extractLsb' 0 14).toNat
def commandDev (key : BitVec 64) : Nat := (key.extractLsb' 14 12).toNat

/-- A supervisor command pushed into the outbound queue (R375); it is no item of a launch (DEDUCED, log 17). -/
def State.pushCommand (s : State) (p : Party) (m : Message) : State :=
  let k := s.core p.coreIx
  let dest := Dest.command (commandDev m.key) (commandCore m.key)
  s.setCore p.coreIx { k with
    outq := k.outq ++ [.msg m dest ((s.ctx p).releaseAt p.ix (s.destScope p.coreIx m.name dest)) false] }

/-- The descriptor by which a party's message is routed: in supervisor mode class 0xFFFF names no class (R24, R375). -/
def State.sendDesc (s : State) (p : Party) (m : Message) : BitVec 512 × State :=
  if p.isSup && m.cls == 0xFFFF then (0, s) else s.readDesc p.die.val m.part m.cls

/-- A message of a party routed by its class and pushed (R209, R210). While the outbound queue is full, or the walk by which
its home is found is under way (R380), the form is not executed: `s0` is the state before it. -/
def State.sendFrom (s0 s : State) (p : Party) (m : Message) : Tri State :=
  let (d, s1) := s.sendDesc p m
  if 16 ≤ (s.core p.coreIx).outq.length then .stall s0
  else
    match s1.homeMissing d m.part m.key with
    | some va => .stall (s0.askUnit 0 p.die.val m.part va)
    | none => .val (s1.pushMsg p d m ((s.ctx p).holdsSends p))

/-- The message of a `send`, which commands in supervisor mode with class 0xFFFF (R375). -/
def State.sendOrCommand (s0 s : State) (p : Party) (m : Message) : Tri State :=
  if p.isSup && m.cls == 0xFFFF then
    if 16 ≤ (s.core p.coreIx).outq.length then .stall s0 else .val (s.pushCommand p m)
  else s0.sendFrom s p m

/-- The message that a route word and a key name (R208, R210). -/
def routed (c : Ctx) (p : Party) (key w : BitVec 64) (kind : BitVec 2) (delta : BitVec 32) (pay : BitVec 384) : Message :=
  { part := c.sendPart p, cls := w.extractLsb' 0 16, key := key,
    hdr := mkHdr (w.extractLsb' 16 2) kind (c.sendDepth p) (w.extractLsb' 19 8) (c.sendLtag p) 0 delta, pay := pay }

/-- The tests of the route word of `send` and `sendb` (R211). -/
def sendWordOk (w : BitVec 64) : Bool := w.extractLsb' 27 37 == 0

/-- KIND of a `send` or `sendb` (R211). -/
def sendKind (w : BitVec 64) : BitVec 2 := if w.getLsbD 18 then 2 else 0

/-- `send` (R211). -/
def execSend (rd rs1 rs2 : BitVec 5) (s : State) : Out :=
  let p := s.cur
  settleNext s <|
    (s.exePre p (wordSend rd rs1 rs2) rd [rs1, rs2]).bind fun _ =>
    (s.regsReady p payloadRegs).bind fun _ =>
    (s.src p rs1).bind fun (k, s1) =>
    (s1.src p rs2).bind fun (r, s2) =>
    let w := capAddr r
    (Tri.ensure (sendWordOk w) 0x26 (routeTval rs2)).bind fun _ =>
    let c := s2.ctx p
    (s.sendOrCommand s2 p (routed c p (capAddr k) w (sendKind w) 0 c.payload)).bind fun s3 =>
    .val (s3.dest p rd 0)

/-- `sendb` (R211). -/
def execSendb (rd : BitVec 5) (xs : BitVec 3) (s : State) : Out :=
  let p := s.cur
  let c := s.ctx p
  let a := (capAddr (c.xs xs 2)).toNat
  let w := capAddr (c.xs xs 1)
  settleNext s <|
    (s.exePre p (wordSendb rd xs) rd []).bind fun _ =>
    (s.regsReady p (xsRegs xs)).bind fun _ =>
    (Tri.unless (checkCap p.isSup (c.xs xs 2) a 48 permLoad false)).bind fun _ =>
    (State.readBytes s s p .r a 48).bind fun (bs, s1) =>
    (Tri.ensure (sendWordOk w) 0x26 (routeTval (xsReg xs 1))).bind fun _ =>
    (Tri.ensure (capAddr (c.xs xs 3) == 0) 0x26 (routeTval (xsReg xs 3))).bind fun _ =>
    (s.sendFrom s1 p (routed c p (capAddr (c.xs xs 0)) w (sendKind w) 0 (BitVec.ofNat 384 (leNat bs)))).bind fun s2 =>
    .val (s2.dest p rd 0)

/-- `decr` (R211). -/
def execDecr (rd rs1 rs2 : BitVec 5) (s : State) : Out :=
  let p := s.cur
  settleNext s <|
    (s.exePre p (wordDecr rd rs1 rs2) rd [rs1, rs2]).bind fun _ =>
    (s.src p rs1).bind fun (k, s1) =>
    (s1.src p rs2).bind fun (r, s2) =>
    let w := capAddr r
    (Tri.ensure (w.extractLsb' 27 5 == 0 && !w.getLsbD 18) 0x26 (routeTval rs2)).bind fun _ =>
    (s.sendFrom s2 p (routed (s2.ctx p) p (capAddr k) w 1 (w.extractLsb' 32 32) 0)).bind fun s3 =>
    .val (s3.dest p rd 0)

/-! ## Carry (R212) -/

/-- The scratchpad place of an address in the local or the die window (R161). -/
def windowPlace (p : Party) (a : Nat) : Option Nat :=
  match windowOf p.isSup a with
  | .own => some (spPlace p.coreIx a)
  | .die => some (spPlace (p.die.val * 2048 + (a - 0xFF00000000000) / 0x20000) ((a - 0xFF00000000000) % 0x20000))
  | _ => none

/-- `carry` (R212): posted when rd is x0. -/
def execCarry (rd : BitVec 5) (xs : BitVec 3) (s : State) : Out :=
  let p := s.cur
  let c := s.ctx p
  let a := (capAddr (c.xs xs 0)).toNat
  let code := (capAddr (c.xs xs 1)).toNat
  settle s <|
    (s.exePre p (wordCarry rd xs) rd []).bind fun _ =>
    (s.regsReady p (xsRegs xs)).bind fun _ =>
    (Tri.unless (checkCap p.isSup (c.xs xs 0) a 32 (permLoad ||| permStore) false)).bind fun _ =>
    (Tri.unless (checkCap p.isSup (c.xs xs 1) code 24 (permLoad ||| permExec) false)).bind fun _ =>
    (Tri.unless ((windowFault p.isSup a 32).map fun b => (0x10, BitVec.ofNat 64 b))).bind fun _ =>
    (Tri.unless ((windowFault p.isSup code 24).map fun b => (0x10, BitVec.ofNat 64 b))).bind fun _ =>
    (s.reach p .rw a 32).bind fun _ =>
    (State.readBytes s s p .r code 24).bind fun (bs, s0) =>
    (Tri.ensure (a % 32 == 0) 0x17 (BitVec.ofNat 64 a)).bind fun _ =>
    match windowPlace p a with
    | none => .trap 0x28 (BitVec.ofNat 64 a)
    | some q =>
      (Tri.ensure (code % 4 == 0) 0x28 (BitVec.ofNat 64 code)).bind fun _ =>
      let k := s.core p.coreIx
      if 16 ≤ k.outq.length then .stall s
      else
        let n := s.dev.opSeq + 1
        let words : BitVec 192 := BitVec.ofNat 192 (leNat bs)
        let o : Op :=
          { kind := .carry, issuer := p.ix, id := n, sup := p.isSup, va := a, addr := q, owner := spCore q, size := 32,
            reply := rd != 0, pay := BitVec.ofNat 64 a ++ capAddr (c.xs xs 3) ++ capAddr (c.xs xs 2) ++ words,
            rel := c.releaseAt p.ix (ownerScope p.coreIx (spCore q)),
            part := c.sendPart p, ltag := c.sendLtag p, depth := c.sendDepth p }
        let s1 := (s0.setCore p.coreIx { k with outq := k.outq ++ [.carry o] }).sentUp p.coreIx o.part o.ltag
        let s2 := s1.setDev { s1.dev with opSeq := n }
        if rd = 0#5 then .val (s2.advance p)
        else
          let w : Waiting := { form := .carry, rd := rd, id := n, pc := c.pc, start := k.cyc, place := q, owner := spCore q }
          .val (s2.mod p fun x => { x with waiting := some w })

/-! ## Within a firing (R214, R218) -/

/-- A form of a firing takes cause 0x27 outside one (R219). -/
def inFiring (p : Party) : Tri Unit := Tri.ensure (!p.isSup) 0x27 0

/-- A form of a keyed firing takes cause 0x27 elsewhere (R219). -/
def inKeyed (p : Party) (c : Ctx) : Tri Unit := Tri.ensure (!p.isSup && !c.firing.sheet) 0x27 0

/-- NOMSG (R207). -/
def noMsg : BitVec 64 := BitVec.allOnes 64

/-- The next untaken message taken. -/
def Ctx.takeMsg (c : Ctx) : Ctx := { c with firing := { c.firing with untaken := c.firing.untaken.drop 1 } }

/-- x10 to x15 written with a payload, untagged (R34, R214). -/
def Ctx.setPayload (c : Ctx) (m : BitVec 384) : Ctx :=
  (((((c.setReg 10 (dataReg (payWord m 0))).setReg 11 (dataReg (payWord m 1))).setReg 12 (dataReg (payWord m 2))).setReg
    13 (dataReg (payWord m 3))).setReg 14 (dataReg (payWord m 4))).setReg 15 (dataReg (payWord m 5))

/-- `mpop` (R214): rd is written after the payload. -/
def execMpop (rd : BitVec 5) (s : State) : Out :=
  let p := s.cur
  exe0 (wordMpop rd) rd s fun s1 =>
    (inFiring p).bind fun _ =>
    (s.regsReady p payloadRegs).bind fun _ =>
    match (s1.ctx p).firing.untaken with
    | [] => .val (dataReg noMsg, s1.mod p Ctx.sync)
    | m :: _ => .val (dataReg m.hdr, s1.mod p fun c => c.sync.takeMsg.setPayload m.pay)

/-- `mpeek` (R214). -/
def execMpeek (rd : BitVec 5) (s : State) : Out :=
  let p := s.cur
  exe0 (wordMpeek rd) rd s fun s1 =>
    (inFiring p).bind fun _ =>
    match (s1.ctx p).firing.untaken with
    | [] => .val (dataReg noMsg, s1)
    | m :: _ => .val (dataReg m.hdr, s1)

/-- `mdrop` (R214). -/
def execMdrop (s : State) : Out :=
  let p := s.cur
  exe0 wordMdrop 0 s fun s1 => (inFiring p).bind fun _ => .val (0, s1.mod p Ctx.takeMsg)

/-- The name of the actor whose firing a context runs. -/
def Firing.name (f : Firing) : ActorName := (f.part, f.cls, f.key)

/-- The pin of an actor set at its host and in its hearth entry (R218). -/
def State.setPin (s : State) (core home : Nat) (n : ActorName) (v : Bool) : State :=
  let s1 := s.setCore core ((s.core core).setActor n fun a => { a with pin := v })
  let k := s1.clu home
  match k.entryOf n with
  | some (i, h) => s1.setClu home { k with hearth := k.hearth.put i { h with pin := v } }
  | none => s1

/-- `pin` (R218). -/
def execPin (rs1 : BitVec 5) (s : State) : Out :=
  let p := s.cur
  exe1 (wordPin rs1) 0 rs1 s fun a s1 =>
    let c := s1.ctx p
    (inKeyed p c).bind fun _ =>
    let home := match (s1.core p.coreIx).actor c.firing.name with
      | some x => x.home
      | none => cluOfCore p.coreIx
    .val (0, s1.setPin p.coreIx home c.firing.name ((capAddr a).getLsbD 0))

/-! ## Launches -/

/-- The record of the pool that a launch of a depth takes (R229): shared records are 0 to 3,135, and the floor
of depth δ the 64 from 3,136 + 64 × (δ − 1) (DEDUCED, log 18). -/
def Die.freeRecord (d : Die) (depth : Nat) : Option Nat :=
  let free (n : Nat) : Bool := (d.pool.find n).isNone
  match (List.range 3136).find? free with
  | some n => some n
  | none => if depth = 0 then none else ((List.range 64).map fun i => 3136 + 64 * (depth - 1) + i).find? free

/-- The fields of a range record's w0 (R227). -/
def recClass (w : BitVec 64) : BitVec 16 := w.extractLsb' 0 16
def recPort (w : BitVec 64) : BitVec 2 := w.extractLsb' 16 2
def recCsrc (w : BitVec 64) : Nat := (w.extractLsb' 18 2).toNat
def recDepth (w : BitVec 64) : BitVec 4 := w.extractLsb' 20 4
def recLtag (w : BitVec 64) : BitVec 12 := w.extractLsb' 24 12
def recDim (w : BitVec 64) : Nat := (w.extractLsb' 36 3).toNat
def recCount (w : BitVec 64) : Nat := (w.extractLsb' 40 20).toNat

/-- A range record is malformed (R228). -/
def recMalformed (w : BitVec 64) : Bool :=
  w.getLsbD 39 || w.extractLsb' 60 4 != 0 || recCsrc w == 3 || (recCsrc w != 1 && recDim w != 0) ||
    (recCsrc w == 1 && 4 < recDim w) || (recCsrc w != 0 && recCount w != 0)

/-- `spawn` (R228). -/
def execSpawn (rd : BitVec 5) (xs : BitVec 3) (s : State) : Out :=
  let p := s.cur
  exe0 (wordSpawn rd xs) rd s fun s1 =>
    (s.regsReady p (xsRegs xs)).bind fun _ =>
    let c := s1.ctx p
    let w := capAddr (c.xs xs 0)
    let aux := c.xs xs 3
    let a := (capAddr aux).toNat
    if !p.isSup && c.fdep == 15 then .val (dataReg 2, s1)
    else
      (Tri.unless (if recCsrc w = 1 then checkCap p.isSup aux a 64 permLoad false
        else if recCsrc w = 2 then checkCap p.isSup aux a 8 permLoad false else none)).bind fun _ =>
      (Tri.ensure (!recMalformed w) 0x29 0).bind fun _ =>
      (Tri.ensure (p.isSup || recDepth w == c.fdep + 1) 0x29 0).bind fun _ =>
      let d := s1.die p.die.val
      match d.freeRecord (recDepth w).toNat with
      | none => .val (dataReg 1, s1)
      | some n =>
        let r : LaunchRec :=
          { part := c.sendPart p, w0 := w, w1 := capAddr (c.xs xs 1), w2 := capAddr (c.xs xs 2), w3 := aux,
            core := p.coreIx, sup := p.isSup }
        .val (dataReg (BitVec.ofNat 64 (n * 0x10000)), s1.setDie p.die.val { d with pool := d.pool.put n r })

/-- The armed notices of a partition at its sweep root. -/
def State.noticeCount (s : State) (part : BitVec 8) : Nat :=
  (s.dev.notices.filter fun n => n.part == part).length

/-- `lwait` (R236): the request reaches the sweep root, and the party waits for the reply. -/
def execLwait (rd rs1 rs2 : BitVec 5) (s : State) : Out :=
  let p := s.cur
  settle s <|
    (s.exePre p (wordLwait rd rs1 rs2) rd [rs1, rs2]).bind fun _ =>
    (s.src p rs1).bind fun (t, s1) =>
    (s1.src p rs2).bind fun (q, s2) =>
    let c := s2.ctx p
    (inKeyed p c).bind fun _ =>
    let n := s2.dev.opSeq + 1
    let full := 256 ≤ s2.noticeCount c.partid
    let armed : Notice :=
      { part := c.partid, tag := (capAddr t).setWidth 12, port := (capAddr q).setWidth 2, cls := c.kcls, key := c.kkey }
    let s3 := s2.setDev { s2.dev with
      opSeq := n, notices := if full then s2.dev.notices else s2.dev.notices ++ [armed] }
    .val (s3.mod p fun (x : Ctx) => { x with
      waiting := some { form := .lwait, rd := rd, id := n, pc := c.pc, popped := (s.ctx p).poppedBy [rs1, rs2] },
      reply := x.reply ++ [{ id := n, val := if full then 1 else 0 }] })

/-- The sheets that a quire overflow area holds at most: 32 bytes each (R45, R46, R88; DESIGN CHOICE, log 19). -/
def Core.quireRoom (k : Core) : Nat := (k.qovf.extractLsb' 48 16).toNat * 0x10000 / 32

/-- A sheet pushed at the bottom of a quire (R46): a full quire passes its oldest sheet to the overflow area, and
a full area leaves none room. The area is a list apart from memory (DESIGN CHOICE, log 120: no rule says how sheets lie in
its bytes). Whether the sheet went to a quire with room on chip, then the core. -/
def Core.pushSheet (k : Core) (x : Sheet) : Option (Bool × Core) :=
  if k.quire.length < 256 then some (true, { k with quire := k.quire ++ [x] })
  else if k.quireOvf.length < k.quireRoom then
    some (false, { k with quire := k.quire.drop 1 ++ [x], quireOvf := k.quireOvf ++ k.quire.take 1 })
  else none

/-- Dword 0 of a sheet with its launch tag and depth replaced (R232). -/
def sheetDword (w : BitVec 64) (ltag : BitVec 12) (depth : BitVec 4) : BitVec 64 :=
  w.extractLsb' 32 32 ++ depth ++ ltag ++ w.extractLsb' 0 16

/-- `shpush` (R232). -/
def execShpush (rd : BitVec 5) (xs : BitVec 3) (s : State) : Out :=
  let p := s.cur
  exe0 (wordShpush rd xs) rd s fun s1 =>
    (inFiring p).bind fun _ =>
    (s.regsReady p (xsRegs xs)).bind fun _ =>
    let c := s1.ctx p
    let x : Sheet :=
      { part := c.partid, d0 := sheetDword (capAddr (c.xs xs 0)) c.ltag c.fdep, d1 := capAddr (c.xs xs 1),
        d2 := capAddr (c.xs xs 2), d3 := capAddr (c.xs xs 3) }
    match (s1.core p.coreIx).pushSheet x with
    | none => .val (dataReg 2, s1)
    | some (onChip, k) =>
      .val (dataReg (if onChip then 0 else 1), (s1.setCore p.coreIx k).sentUp p.coreIx c.partid c.ltag)

end Sys2Proof.Machine
end

