-- ==== Sys2Proof/Machine/Hosting.lean ====
section
/-! DEFINITION. Homes and hosts: room in state areas, the choice of a host, bank stores, and the hearth table's
transitions (01/R36 to R44; 11/R220 to R226; 23/R388, R389). -/

namespace Sys2Proof.Machine

/-! ## Room (R40, R41) -/

/-- The bytes of a class's state window (R34), and of the run that holds it (R40). -/
def windowSize (d : BitVec 512) : Nat := descStsz d * 16
def runSize (d : BitVec 512) : Nat := (windowSize d + 63) / 64 * 64

/-- The start and size of a core's state area (R88). -/
def Core.areaStart (k : Core) : Nat := (k.starea.extractLsb' 0 17).toNat
def Core.areaSize (k : Core) : Nat := (k.starea.extractLsb' 32 17).toNat

/-- The lowest offset, a multiple of 64 from the start of the state area, of a run of `need` bytes that meets no actor's
window, the windows of the actors of `skip` apart, and none of the carve-outs `carves` (R40, R41). -/
def Core.gap (k : Core) (carves : List (Nat × Nat)) (need : Nat) (skip : List ActorName) : Option Nat :=
  if need = 0 then some k.areaStart
  else
    let wins := (k.actors.filter fun a => a.size != 0 && !skip.contains a.name).map fun a => (a.off, runSize a.desc)
    ((List.range (k.areaSize / 64)).map fun i => k.areaStart + 64 * i).find? fun o =>
      o + need ≤ k.areaStart + k.areaSize && (wins ++ carves).all fun (a, l) => o + need ≤ a || a + l ≤ o

/-- The bytes of a class's spill carve-out (R167). -/
def carveSize (d : BitVec 512) : Nat := descSpill d * 512

/-- The spill carve-out that a firing has: its offset and length (R44, R167). -/
def Firing.carveRun (f : Firing) : Option (Nat × Nat) := f.carve.map fun o => (o, carveSize f.desc)

/-- The spill carve-outs of a core: those of its keyed firings, running or saved (R44, R167). -/
def State.carves (s : State) (n : Nat) : List (Nat × Nat) :=
  let c := coreIdOf n
  (([0, 1, 2, 3] : List (Fin 4)).filterMap fun k => (s.ctx (.ctx c k)).firing.carveRun) ++
    (s.core n).saved.filterMap fun x => x.ctx.firing.carveRun

/-- The place of a run of `need` free bytes in a core's state area, the windows of the actors of `skip` counting as free
(R40). -/
def State.gapAt (s : State) (n need : Nat) (skip : List ActorName) : Option Nat := (s.core n).gap (s.carves n) need skip

/-- A run of `need` bytes fits beside the windows of a core's actors, those of `skip` apart, and its carve-outs. -/
def State.fits (s : State) (n need : Nat) (skip : List ActorName) : Bool := need = 0 || (s.gapAt n need skip).isSome

/-- The idle actors of a core, least recently fired first. -/
def Core.idleActors (k : Core) : List Actor :=
  (k.actors.filter fun a => a.idle k).foldl (fun acc a =>
    let before := acc.takeWhile fun x => x.lastFired ≤ a.lastFired
    before ++ a :: acc.drop before.length) []

/-- A core has room for a run of `need` bytes (R40). -/
def State.room (s : State) (n need : Nat) : Bool := s.fits n need ((s.core n).idleActors.map Actor.name)

/-- A core is a candidate host for a partition's actors (R225); none of a failed die is (23/R390). -/
def State.candidate (s : State) (n : Nat) (part : BitVec 8) : Bool :=
  let k := s.core n
  !(s.die (n / 2048)).failed && k.gangReserved.isNone && [0, 1, 2, 3].any fun i => slotPart k.slots i == part

/-- The core of a cluster that R40 picks: with room, and the fewest ready entries of the partition. -/
def State.pickIn (s : State) (clu need : Nat) (part : BitVec 8) (avoid : Option Nat) : Option Nat :=
  let load (n : Nat) : Nat := ((s.core n).readyQ.filter fun x => x.1 == part).length
  ((List.range 8).map fun i => clu * 8 + i).foldl (fun best n =>
    if s.candidate n part && avoid != some n && s.room n need then
      match best with
      | none => some n
      | some b => if load n < load b then some n else some b
    else best) none

/-- The mesh hops between two clusters of a die (R14, R40). -/
def hops (a b : Nat) : Nat :=
  let d (x y : Nat) : Nat := if x < y then y - x else x - y
  d (a % 16) (b % 16) + d (a / 16) (b / 16)

/-- The host that R40 chooses for a run of `need` bytes of a partition, from a home cluster. -/
def State.pickHost (s : State) (home need : Nat) (part : BitVec 8) (avoid : Option Nat) : Option Nat :=
  let die := home / 256 * 256
  ((List.range 31).map fun h => (List.range 256).filter fun c => hops (home % 256) c = h).flatten.findSome? fun c =>
    s.pickIn (die + c) need part avoid

/-! ## Bank stores (R226, R388) -/

/-- The entry of the bank store table for a handle, as the copies hold it; none for an invalid one (R388). -/
def State.bankStore (s : State) (h : Nat) : Option (BitVec 256) × State :=
  if 4096 ≤ h then (none, s)
  else
    let q := 0x100000 + 32 * h
    let (a, s1) := s.copyDword 0 256 q
    let (b, s2) := s1.copyDword 0 256 (q + 8)
    let (c, s3) := s2.copyDword 0 256 (q + 16)
    let (d, s4) := s3.copyDword 0 256 (q + 24)
    let w : BitVec 256 := d ++ c ++ b ++ a
    (if w.getLsbD 255 then some w else none, s4)

/-- The bytes of an entry in its store (R226). -/
def BankEntry.bytes (e : BankEntry) : Nat :=
  64 + match e.image with
    | some i => (i.length + 63) / 64 * 64
    | none => 0

/-- The store has room for `add` more bytes. -/
def State.bankRoom (s : State) (h : Nat) (w : BitVec 256) (add : Nat) : Bool :=
  ((s.dev.bank.filter fun e => e.store == h).map BankEntry.bytes).sum + add ≤ (w.extractLsb' 48 16).toNat * 65536

/-- Whether an entry is an actor's, in a store. -/
def BankEntry.is (e : BankEntry) (h : Nat) (n : ActorName) : Bool :=
  e.store == h && e.part == n.1 && e.cls == n.2.1 && e.key == n.2.2

/-- An actor's entry in a store. -/
def State.bankOf (s : State) (h : Nat) (n : ActorName) : Option BankEntry := s.dev.bank.find? fun e => e.is h n

/-- The state with an actor's entry replaced, or added. -/
def State.setBank (s : State) (e : BankEntry) : State :=
  let same (x : BankEntry) : Bool := x.is e.store (e.part, e.cls, e.key)
  s.setDev { s.dev with
    bank := if s.dev.bank.any same then s.dev.bank.map fun x => if same x then e else x else s.dev.bank ++ [e] }

/-- The class of an actor is marked faulted (R42). -/
def State.isFaulted (s : State) (n : ActorName) : Bool := s.dev.faulted.contains (n.1, n.2.1)

/-- A class marked faulted, with its report to the supervisor of a die (R42, R226). -/
def State.markFaulted (s : State) (die : Nat) (n : ActorName) (cause : BitVec 6) : State :=
  let f := s.dev.faulted
  (s.setDev { s.dev with faulted := if s.isFaulted n then f else f ++ [(n.1, n.2.1)] }).report die
    { cause := cause, part := n.1, cls := n.2.1, key := n.2.2, unit := 9, tuple := s.devTuple }

/-- The bytes of a journal area in use: 128 for each entry (R389). -/
def State.journalBytes (s : State) (h : Nat) : Nat :=
  ((s.dev.bank.filter fun e => e.store == h).map fun e => 128 * e.journal.length).sum

/-- The initial image of a class read through the partition's translation (R226); none when it is unreadable. -/
def State.initImage (s : State) (die : Nat) (part : BitVec 8) (a : Nat) : Nat → Option (List Byte)
  | 0 => some []
  | n + 1 =>
    if a < 0x20000 || 0xFF00000000000 ≤ a then none
    else
      match leafCheck (s.heldWalk (unitKey die 22) die part a) .r a with
      | .at q =>
        if !s.permitted (targetOf q) part 22 1 || s.cell die (poisonPlace q) != 0#8 then none
        else
          match s.initImage die part (a + 1) n with
          | some bs => some (s.cell die q :: bs)
          | none => none
      | _ => none

/-! ## The home (R221) -/

/-- The key of the host core of an entry. -/
def Hearth.hostCore (h : Hearth) : Nat := h.hostDie * 2048 + h.host.toNat

/-- The actor of an entry. -/
def Hearth.name (h : Hearth) : ActorName := (h.part, h.cls, h.key)

/-- A hearth entry replaced. -/
def State.setHearth (s : State) (home i : Nat) (h : Hearth) : State :=
  let k := s.clu home
  s.setClu home { k with hearth := k.hearth.put i h }

/-- An item placed on the channel from a home to a host (R38, R222). -/
def State.toHost (s : State) (home core : Nat) (x : HostItem) : State :=
  let k := s.clu home
  s.setClu home { k with toHost := k.toHost.put core (k.toHost.getD core [] ++ [x]) }

/-- Messages forwarded to an entry's host, in order; FWD rises (R221). -/
def State.forward (s : State) (home i : Nat) (h : Hearth) (ms : List Message) : State :=
  let s1 := s.setHearth home i { h with fwd := h.fwd + BitVec.ofNat 16 ms.length }
  ms.foldl (fun s m =>
    match h.hostDev with
    | some dev => s.sendMessage (home / 256) dev m
    | none => s.toHost home h.hostCore (.msg m)) s1

/-- A home event placed behind those that have reached the home. -/
def State.toHome (s : State) (home : Nat) (e : HomeEvent) : State :=
  let k := s.clu home
  s.setClu home { k with homeQ := k.homeQ ++ [e] }

/-- A bank intent of a host for an actor, with its count (R222). -/
def State.intend (s : State) (core : Nat) (n : ActorName) : State :=
  match (s.core core).actor n with
  | none => s
  | some a =>
    (s.setCore core ((s.core core).setActor n fun a => { a with intent := true })).toHome a.home
      (.intent n.1 n.2.1 n.2.2 a.count core)

/-- The lowest free index of a hearth table (R37). -/
def Cluster.freeHearth (k : Cluster) : Option Nat :=
  if 4096 ≤ k.hearth.length then none else (List.range 4096).find? fun i => (k.hearth.find i).isNone

/-- The home of an actor is another one now (R28): what a home holds for it is handed over, not kindled. -/
def State.movedAway (s : State) (home : Nat) (n : ActorName) : Bool :=
  let d := (s.readDesc (home / 256) n.1 n.2.1).1
  descPlace d == 1#2 &&
    match s.homeOf (home / 256) d n.1 n.2.1 n.2.2 with
    | .at dev die clu => !(dev == s.dev.num.toNat && die * 256 + clu == home)
    | .unmapped => true

/-- A host is chosen for an entry that waits for one (R40, R221, R223): a kindle is sent to it, or the old host of a
move is told to ship. A class marked faulted holds kindles alone (R42). -/
def State.chooseHost (s : State) (home i : Nat) : State :=
  match (s.clu home).hearth.find i with
  | none => s
  | some h =>
    let moving := h.state == .moving
    if h.chosen || h.handover || (!moving && (s.isFaulted h.name || s.movedAway home h.name)) then s
    else
      let (d, s1) := s.readDesc (home / 256) h.part h.cls
      match s1.pickHost home (runSize d) h.part (if moving then some h.hostCore else none) with
      | none => s1
      | some c =>
        if moving then
          (s1.setHearth home i { h with chosen := true }).toHost home h.hostCore (.ship h.part h.cls h.key c)
        else
          let s2 := s1.setHearth home i { h with chosen := true, host := BitVec.ofNat 11 c, hostDie := home / 256 }
          let k := s2.core c
          s2.setCore c { k with incoming := k.incoming ++ [{ home := home, part := h.part, cls := h.cls, key := h.key }] }

/-- A bank of an actor homed at a cluster is under way: it has been asked for, or its entry is on the way to the store. -/
def State.bankUnderWay (s : State) (home : Nat) : Bool :=
  (s.clu home).hearth.any fun (_, h) =>
    (h.state == .moving && h.dest) || (h.state == .live &&
      match (s.core h.hostCore).actor h.name with
      | some a => a.intent
      | none => false)

/-- The idle actor homed at a cluster that fired least recently, among those on candidate cores of a partition (R225), is
asked to bank, unless a bank is under way already (R43). -/
def State.evictOne (s : State) (home : Nat) (part : BitVec 8) : State :=
  if s.bankUnderWay home then s
  else
    let homed := (s.clu home).hearth.filterMap fun (_, h) =>
      if h.state == .live && s.candidate h.hostCore part then
        let k := s.core h.hostCore
        match k.actor h.name with
        | some a => if a.idle k then some (h.hostCore, a) else none
        | none => none
      else none
    let best := homed.foldl (fun (b : Option (Nat × Actor)) x =>
      match b with
      | none => some x
      | some y => if x.2.lastFired < y.2.lastFired then some x else some y) none
    match best with
    | some (c, a) => s.intend c a.name
    | none => s

/-- The home cluster of this device that a message in flight is on its way to. -/
def State.destHome (s : State) (d : Dest) : Option Nat :=
  match d with
  | .home dev die clu => if dev = s.dev.num.toNat then some (die * 256 + clu) else none
  | .command _ _ => none

/-- The homes that messages for an actor are on their way to, or wait at without an entry. -/
def State.goingTo (s : State) (n : ActorName) : List Nat :=
  (s.cores.map fun (_, k) => k.outq.filterMap fun i =>
      match i with
      | .msg m d _ _ => if m.name == n then s.destHome d else none
      | .carry _ => none).flatten ++
    (s.dev.unitMsgs.filterMap fun u => if u.m.name == n then s.destHome u.dest else none) ++
    (s.clusters.filter fun (_, k) => (k.full.any fun m => m.name == n) || k.homeQ.any fun e =>
      match e with
      | .msg m => m.name == n
      | _ => false).map (·.1)

/-- Whether a handover of an actor to this home is to come (R28): another cluster of the device has an entry for the
actor or messages for it on their way there, or the marker is on its way here. -/
def State.handoverDue (s : State) (home : Nat) (n : ActorName) : Bool :=
  s.clusters.any (fun (i, k) => i != home && (k.entryOf n).isSome) || (s.goingTo n).any (fun i => i != home) ||
    (s.clu home).homeQ.any fun e =>
      match e with
      | .marker p c k _ _ => (p, c, k) == n
      | _ => false

/-- A message at its home, whose earlier messages for the actor all have a place (R221): the table has room for it, or
none. -/
def State.homePlace (s : State) (home : Nat) (m : Message) : Option State :=
  let k := s.clu home
  match k.entryOf m.name with
  | some (i, h) =>
    some (if h.state == .live then s.forward home i h [m] else s.setHearth home i { h with buffer := h.buffer ++ [m] })
  | none =>
    k.freeHearth.map fun i =>
      let away := s.movedAway home m.name
      let h : Hearth :=
        { part := m.part, cls := m.cls, key := m.key, state := .kindling, buffer := [m],
          handover := !away && s.handoverDue home m.name }
      let s1 := s.setHearth home i h
      if away then s1 else s1.chooseHost home i

/-- A message at its home (R221): behind those for its actor that a full table holds (R38), which asks for a bank when it
has no room (R43). -/
def State.homeMessage (s : State) (home : Nat) (m : Message) : State :=
  let k := s.clu home
  let wait : State := s.setClu home { k with full := k.full ++ [m] }
  if k.full.any fun x => x.name == m.name then wait
  else
    match s.homePlace home m with
    | some s1 => s1
    | none => wait.evictOne home m.part

/-- The `i`-th message that a full table holds tried again, unless an earlier one for its actor waits (R38, R43). -/
def State.retryFull (s : State) (home i : Nat) : State :=
  let k := s.clu home
  match k.full[i]? with
  | none => s
  | some m =>
    if (k.full.take i).any fun x => x.name == m.name then s
    else
      match (s.setClu home { k with full := k.full.eraseIdx i }).homePlace home m with
      | some s1 => s1
      | none => s.evictOne home m.part

/-- An entry becomes LIVE, and its buffer is forwarded (R221). `base` is FWD before that. -/
def State.goLive (s : State) (home i : Nat) (h : Hearth) (base : BitVec 16) : State :=
  s.forward home i { h with state := .live, dest := false, chosen := false, buffer := [], fwd := base } h.buffer

/-- The messages that a home buffers, or has yet to handle (R224). -/
def Cluster.homeLoad (k : Cluster) : Nat :=
  (k.hearth.map fun (_, h) => h.handed.length + h.buffer.length).sum + k.full.length +
    (k.homeQ.filter fun e =>
      match e with
      | .msg _ => true
      | _ => false).length

/-- A core's inbox has room for a message behind those that a home has forwarded to it, or diverts it (R243, R248). -/
def State.hostTakes (s : State) (home core : Nat) : Bool :=
  let k := s.core core
  k.diverting || k.inboxCount + (((s.clu home).toHost.getD core []).filter fun x =>
    match x with
    | .msg _ => true
    | _ => false).length < 64

/-- Whether a home takes one more message (R224, R243): it has room in its buffer, or it forwards the message at once
to a host that has room. -/
def State.homeTakes (s : State) (home : Nat) (m : Message) : Bool :=
  let k := s.clu home
  match k.entryOf m.name with
  | some (_, h) =>
    if h.state == .live && !k.full.any (fun x => x.name == m.name) then
      (h.hostDev.isSome || s.hostTakes home h.hostCore) && (k.homeQ == [] || k.homeLoad < 256)
    else k.homeLoad < 256
  | none => k.homeLoad < 256

/-! ## Launch items (R231) -/

/-- The completion bit of an item set; a record whose every bit is set is freed (R231). The bitmap is a list of the record
(DESIGN CHOICE, log 131: no rule names a register for its area). -/
def State.itemDone (s : State) (x : Option (Nat × Nat × Nat)) : State :=
  match x with
  | none => s
  | some (d, r, i) =>
    let k := s.die d
    match k.pool.find r with
    | none => s
    | some rec =>
      let bits := if rec.bits.contains i then rec.bits else rec.bits ++ [i]
      s.setDie d { k with
        pool := if rec.started && rec.n ≤ bits.length then k.pool.drop r else k.pool.put r { rec with bits := bits } }

/-- A message placed in the inbox of its actor's host: its item is delivered (R231); a journalled class's message waits
for its journal entry (R389), any other joins its port. -/
def State.inboxPlace (s : State) (core : Nat) (m : Message) : State :=
  let s1 := s.itemDone m.item
  let k := s1.core core
  match k.actor m.name with
  | none => s1
  | some a =>
    if descJrnl a.desc && !m.journalled then
      s1.setCore core (k.setActor m.name fun a => { a with unjournalled := a.unjournalled ++ [m] })
    else s1.setCore core (k.accept m)

end Sys2Proof.Machine
end

