-- ==== Sys2Proof/Machine/Homes.lean ====
section
/-! DEFINITION. The events of homes and hosts: arrivals, kindles, banks, moves and handovers (01/R28, R40 to R43;
11/R221 to R226). An event that its rule does not enable leaves the state as it is. -/

namespace Sys2Proof.Machine

/-- The oldest event that has reached a home. -/
def State.homeHead (s : State) (home : Nat) : Option HomeEvent := (s.clu home).homeQ.head?

/-- The state with a home's oldest event taken. -/
def State.homePop (s : State) (home : Nat) : State :=
  let k := s.clu home
  s.setClu home { k with homeQ := k.homeQ.drop 1 }

/-- The place of a cluster. -/
def cluPlace (die : Fin 8) (clu : Fin 256) : Nat := die.val * 256 + clu.val

/-- HOME_MESSAGE_ARRIVAL (R221). -/
def execHomeMessageArrival (die : Fin 8) (clu : Fin 256) (s : State) : Out :=
  let home := cluPlace die clu
  match s.homeHead home with
  | some (.msg m) => .next ((s.homePop home).homeMessage home m)
  | _ => .next s

/-- The entries of a home that wait for the choice of a host. -/
def Cluster.unchosen (k : Cluster) : List Nat :=
  (k.hearth.filter fun (_, h) => !h.chosen && !h.handover &&
    (h.state == .kindling || (h.state == .moving && !h.dest))).map (·.1)

/-- KINDLE_HOST_RETRY (R40, R43): the choice of a host for the `i`-th entry that waits for one, or, beyond those, the
messages that a full table holds back. -/
def execKindleHostRetry (die : Fin 8) (clu : Fin 256) (i : Nat) (s : State) : Out :=
  let home := cluPlace die clu
  let k := s.clu home
  match k.unchosen[i]? with
  | some e => .next (s.chooseHost home e)
  | none => .next (s.retryFull home (i - k.unchosen.length))

/-! ## Taking an actor in (R41) -/

/-- The bytes of a state window written, untagged, in a host's scratchpad (R226). -/
def State.fillWindowBytes (s : State) (core off : Nat) (bs : List Byte) : State :=
  if bs = [] then s
  else s.writeAt (dieOfCore core) (plainCells ((span (spPlace core off) bs.length).zip bs)) false []

/-- A host whose state area has no run asks its least recently fired idle actor to bank, one at a time (R41). -/
def State.evictFor (s : State) (core : Nat) : State :=
  let k := s.core core
  if k.actors.any fun a => a.intent then s
  else
    match k.idleActors with
    | a :: _ => s.intend core a.name
    | [] => s

/-- The first `n` bytes of an image. -/
def imageBytes (bs : List Byte) (n : Nat) : List Byte := (bs ++ List.replicate n 0#8).take n

/-- An address of the initial image that an actor is kindled from, and that the host's die has still to translate (R226,
R380). -/
def State.initMissing (s : State) (core : Nat) (n : ActorName) : Option Nat :=
  let die := dieOfCore core
  let d := (s.readDesc die n.1 n.2.1).1
  let banked := match s.bankOf (descBankh d) n with
    | some e => e.image.isSome
    | none => false
  if banked || descInit d = 0 then none else s.missing (unitKey die 22) n.1 (descInit d).toNat (windowSize d)

/-- A host takes an actor in from the bank store, or in its initial state (R41, R226): whether the state is in place,
and the state. -/
def State.kindleAt (s : State) (core home : Nat) (n : ActorName) (pin : Bool) : Bool × State :=
  let die := dieOfCore core
  let (d, s1) := s.readDesc die n.1 n.2.1
  let h := descBankh d
  let (w, s2) := s1.bankStore h
  if s2.isFaulted n then (false, s2)
  else
    match w with
    | none => (false, s2.markFaulted (home / 256) n 0x22)
    | some w =>
      let known := s2.bankOf h n
      if known.isNone && !s2.bankRoom h w 64 then (false, s2.markFaulted (home / 256) n 0x22)
      else
        let e : BankEntry := known.getD { store := h, part := n.1, cls := n.2.1, key := n.2.2 }
        let size := windowSize d
        if !s2.fits core (runSize d) [] then (false, (s2.setBank e).evictFor core)
        else
          let bytes : Option (List Byte) :=
            match e.image with
            | some b => some (imageBytes b size)
            | none =>
              if descInit d = 0 then some (List.replicate size 0#8) else s2.initImage die n.1 (descInit d).toNat size
          match bytes with
          | none => (false, (s2.setBank e).markFaulted (home / 256) n 0x21)
          | some bs =>
            let off := (s2.gapAt core (runSize d) []).getD 0
            let s3 := (s2.setBank { e with live := some die }).fillWindowBytes core off bs
            let k := s3.core core
            let a : Actor :=
              { part := n.1, cls := n.2.1, key := n.2.2, desc := d, home := home, off := off, size := size, pin := pin,
                replay := (e.journal.filter fun x => x == .commit).length }
            (true, s3.setCore core { k with actors := k.actors ++ [a] })

/-- The incoming actor of a core at a place of its list, without it. -/
def Core.dropIncoming (k : Core) (i : Nat) : Core := { k with incoming := k.incoming.eraseIdx i }

/-- The name of an incoming actor. -/
def Incoming.name (x : Incoming) : ActorName := (x.part, x.cls, x.key)

/-- An entry waits for a host again (R40 step 3). -/
def State.unchoose (s : State) (home : Nat) (n : ActorName) : State :=
  match (s.clu home).entryOf n with
  | some (i, h) => s.setHearth home i { h with chosen := false }
  | none => s

/-- KINDLE_STATE_IN_PLACE (R41): the `i`-th actor that a core takes in. A kindle whose class is marked faulted waits
for a host again, as does one whose host turns out to have no room left (DESIGN CHOICE, log 26). -/
def execKindleStateInPlace (c : CoreId) (i : Nat) (s : State) : Out :=
  match (s.core c.ix).incoming[i]? with
  | none => .next s
  | some x =>
    if x.shipped.isSome || x.gang.isSome then .next s
    else
      match s.initMissing c.ix x.name with
      | some va => .next (s.askUnit (unitKey c.die.val 22) c.die.val x.part va)
      | none =>
        match s.kindleAt c.ix x.home x.name false with
        | (true, s1) =>
          let s2 := s1.setCore c.ix ((s1.core c.ix).dropIncoming i)
          match (s2.clu x.home).entryOf x.name with
          | some (j, h) => .next (s2.goLive x.home j h 0)
          | none => .next s2
        | (false, s1) =>
          let k := s1.core c.ix
          if s1.isFaulted x.name || !(k.actors.any fun a => a.intent) then
            .next ((s1.setCore c.ix (k.dropIncoming i)).unchoose x.home x.name)
          else .next s1

/-! ## Banking (R222, R226) -/

/-- BANK_INTENT (R221, R222). -/
def execBankIntent (die : Fin 8) (clu : Fin 256) (s : State) : Out :=
  let home := cluPlace die clu
  match s.homeHead home with
  | some (.intent p cl k count host) =>
    let s1 := s.homePop home
    match (s1.clu home).entryOf (p, cl, k) with
    | some (i, h) =>
      if h.state == .live && h.fwd == count then
        .next ((s1.setHearth home i { h with state := .moving, dest := true }).toHost home h.hostCore (.bank p cl k))
      else .next (s1.toHost home host (.refused p cl k))
    | none => .next (s1.toHost home host (.refused p cl k))
  | _ => .next s

/-- The messages that a core holds for an actor, in the order of their arrival; none occupies the reserve entry, or has its
journal entry, any more. The message of a counter firing that has been raised is among them, as the decrement that it was: it
is applied again where it arrives (DESIGN CHOICE, log 105: R28 and R222 speak of messages alone). -/
def Core.heldFor (k : Core) (n : ActorName) : List Message :=
  let mine (l : List Message) : List Message := l.filter fun m => m.name == n
  let all := (match k.actor n with
    | some a => a.messages
    | none => []) ++ mine k.decs ++ mine k.spill
  (byArrival all).map fun m => { m with reserve := false, journalled := false }

/-- A core without an actor and what it holds for it. -/
def Core.forget (k : Core) (n : ActorName) : Core :=
  { k with
    actors := k.actors.filter fun a => a.name != n
    readyQ := k.readyQ.filter fun x => x != n
    decs := k.decs.filter fun m => m.name != n
    spill := k.spill.filter fun m => m.name != n }

/-- The bytes of an actor's state window at its host. -/
def State.windowImage (s : State) (core : Nat) (a : Actor) : List Byte :=
  (span (spPlace core a.off) a.size).map fun q => s.cell (dieOfCore core) q

/-- The first actor of a core that has an order and no firing in progress. -/
def Core.ordered (k : Core) (f : HostOrder → Bool) : Option Actor :=
  k.actors.find? fun a => f a.order && !a.running && !a.saved

/-- The order to bank. -/
def HostOrder.isBank : HostOrder → Bool
  | .bank => true
  | _ => false

/-- The order to ship. -/
def HostOrder.isShip : HostOrder → Bool
  | .ship _ => true
  | _ => false

/-- BANK_ORDER (R222, R226, R389): the image is written, the live marker cleared and the journal truncated; or the
bank is refused for want of space (R42). -/
def execBankOrder (c : CoreId) (s : State) : Out :=
  match (s.core c.ix).ordered HostOrder.isBank with
  | none => .next s
  | some a =>
    let n := a.name
    let h := descBankh a.desc
    let (w, s1) := s.bankStore h
    let known := s1.bankOf h n
    let image := s1.windowImage c.ix a
    let have0 := match known with
      | some e => e.bytes
      | none => 0
    let need := BankEntry.bytes { image := some image }
    let ok := match w with
      | some w => s1.bankRoom h w (need - have0)
      | none => false
    if ok then
      let e : BankEntry := known.getD { store := h, part := n.1, cls := n.2.1, key := n.2.2 }
      let s2 := s1.setBank { e with image := some image, live := none, jpos := e.jpos + e.journal.length, journal := [] }
      let k := s2.core c.ix
      .next ((s2.setCore c.ix (k.forget n)).toHome a.home (.imageWritten n.1 n.2.1 n.2.2 (k.heldFor n)))
    else
      let s2 := s1.markFaulted (a.home / 256) n 0x22
      let s3 := s2.setCore c.ix ((s2.core c.ix).setActor n fun a => { a with order := .none, intent := false })
      .next (s3.toHome a.home (.bankRefused n.1 n.2.1 n.2.2))

/-- A message of a unit placed in flight to a home. -/
def State.unitSend (s : State) (unit : Nat) (m : Message) (dest : Dest) (rel : Option Release) : State :=
  s.setDev { s.dev with unitMsgs := s.dev.unitMsgs ++ [{ unit := unit, m := m, dest := dest, rel := rel }] }

/-- The unit number of a home cluster as a sender of messages. -/
def unitHome (home : Nat) : Nat := 100000 + home

/-- A message on its way through a home of die `die`: one that was sent on another die then goes to its host only once its
release is in every die view (R39, R177: passing through a home counts). -/
def Message.through (m : Message) (die : Nat) : Message :=
  if dieOfCore m.origin = die then m else { m with origin := 20000 }

/-- The messages that an old home buffers for an actor go to its new home; `last`: the handover marker follows them (R28). -/
def State.handOn (s : State) (home : Nat) (h : Hearth) (last : Bool) : State :=
  let (d, s1) := s.readDesc (home / 256) h.part h.cls
  match s1.findHome (home / 256) d h.part h.cls h.key with
  | (.at dev die clu, s2) =>
    let ms := h.buffer.map fun m => m.through die
    if dev = s2.dev.num.toNat then s2.toHome (die * 256 + clu) (.marker h.part h.cls h.key ms last)
    else ms.foldl (fun s m => s.unitSend (unitHome home) m (.home dev die clu) none) s2
  | (.unmapped, s2) =>
    h.buffer.foldl (fun s m =>
      (s.recvAll (home * 8) [m]).report (home / 256)
        { cause := 0x24, part := m.part, cls := m.cls, key := m.key, unit := 1, tuple := s.cluTuple home }) s2

/-- The old home's buffered messages and the handover marker go to the new home, and the entry is removed (R28). -/
def State.handOver (s : State) (home i : Nat) (h : Hearth) : State :=
  let k := s.clu home
  (s.setClu home { k with hearth := k.hearth.drop i }).handOn home h true

/-- The handover of an entry with nothing live, once no message for the actor is on its way to the old home (R28); until
then the entry stays, and buffers them. Where they find the home's buffer full, what it has buffered goes ahead of the marker
(DESIGN CHOICE, log 89). -/
def State.handOverDone (s : State) (home i : Nat) (h : Hearth) : State :=
  if !(s.goingTo h.name).contains home then s.handOver home i h
  else if h.buffer != [] && 256 ≤ (s.clu home).homeLoad then (s.setHearth home i { h with buffer := [] }).handOn home h false
  else s.setHearth home i h

/-- IMAGE_WRITTEN (R221, R28). -/
def execImageWritten (die : Fin 8) (clu : Fin 256) (s : State) : Out :=
  let home := cluPlace die clu
  match s.homeHead home with
  | some (.imageWritten p cl k ms) =>
    let s1 := s.homePop home
    match (s1.clu home).entryOf (p, cl, k) with
    | some (i, h) =>
      let h1 := { h with buffer := ms ++ h.buffer }
      if h.leaving then .next (s1.handOverDone home i { h1 with written := true })
      else if h1.buffer = [] then
        let x := s1.clu home
        .next (s1.setClu home { x with hearth := x.hearth.drop i })
      else
        .next ((s1.setHearth home i
          { h1 with state := .kindling, dest := false, chosen := false, pin := false, fwd := 0 }).chooseHost home i)
    | none => .next s1
  | _ => .next s

/-- BANK_REFUSED (R221, R42). -/
def execBankRefused (die : Fin 8) (clu : Fin 256) (s : State) : Out :=
  let home := cluPlace die clu
  match s.homeHead home with
  | some (.bankRefused p cl k) =>
    let s1 := s.homePop home
    match (s1.clu home).entryOf (p, cl, k) with
    | some (i, h) => .next (s1.goLive home i { h with leaving := false } h.fwd)
    | none => .next s1
  | _ => .next s

/-! ## Moves (R222, R223) -/

/-- A move order for an actor at its home (R221, R223): ignored unless the entry is LIVE; a supervisor's request is
ignored for a pinned actor. -/
def State.moveOrder (s : State) (home : Nat) (n : ActorName) (evenPinned : Bool) : State :=
  match (s.clu home).entryOf n with
  | some (i, h) =>
    if h.state == .live && (evenPinned || !h.pin) then
      (s.setHearth home i { h with state := .moving, dest := false, chosen := false }).chooseHost home i
    else s
  | none => s

/-- SHIP_ORDER (R222): the state, the pin and every queued message go to the new host, which the live marker then names
(R388). -/
def execShipOrder (c : CoreId) (s : State) : Out :=
  match (s.core c.ix).ordered HostOrder.isShip with
  | none => .next s
  | some a =>
    match a.order with
    | .ship dest =>
      let k := s.core c.ix
      let n := a.name
      let bytes := s.windowImage c.ix a
      let later := byArrival ((k.decs.filter fun m => m.name == n) ++ k.spill.filter fun m => m.name == n)
      let moved : Actor := { a with order := .none, intent := false, ready := false, count := 0 }
      let s1 := s.setCore c.ix (k.forget n)
      let x := s1.core dest
      let s2 := s1.setCore dest { x with incoming := x.incoming ++
        [{ home := a.home, part := n.1, cls := n.2.1, key := n.2.2, shipped := some (moved, bytes),
           later := later.map fun m => { m with reserve := false } }] }
      match s2.bankOf (descBankh a.desc) n with
      | some e => .next (s2.setBank { e with live := some (dieOfCore dest) })
      | none => .next s2
    | _ => .next s

/-- The messages of a port, or of an actor, changed. -/
def PortQ.mapMsgs (q : PortQ) (f : Message → Message) : PortQ :=
  { q with q := q.q.map f, close := q.close.map f, nextQ := q.nextQ.map f, nextClose := q.nextClose.map f }
def Actor.mapMsgs (a : Actor) (f : Message → Message) : Actor :=
  { a with
    ports := a.ports.map fun q => q.mapMsgs f
    counters := a.counters.map fun x => (x.1, f x.2)
    unjournalled := a.unjournalled.map f }

/-- Messages that have arrived enter a core's inbox in order, as far as it has room (R243): those left over, and the state. -/
def State.feed (s : State) (core : Nat) : List Message → List Message × State
  | [] => ([], s)
  | m :: ms => if (s.core core).inboxCount < 64 then (s.inboxPlace core m).feed core ms else (m :: ms, s)

/-- A shipped actor put in place with the messages in its ports; all that it brings arrives at this host in the old order,
behind what has arrived here (R38, R222). -/
def State.placeShipped (s : State) (core i off : Nat) (x : Incoming) (a : Actor) (bytes : List Byte) : State :=
  let k := s.core core
  let moved (m : Message) : Message := { m with arrived := k.arrivals + m.arrived, reserve := false }
  let ends := (a.messages ++ x.later).foldl (fun n m => max n (k.arrivals + m.arrived + 1)) k.arrivals
  let x1 : Incoming := { x with placed := true, later := x.later.map moved }
  (s.setCore core
    (({ k with arrivals := ends, incoming := k.incoming.set i x1, actors := k.actors ++ [{ a.mapMsgs moved with off := off }] } :
      Core).evaluate a.name)).fillWindowBytes core off bytes

/-- The messages of a shipped actor's ports find room in an inbox: all of them, or an empty inbox (R243; DESIGN CHOICE, log
123). -/
def Core.takesPorts (k : Core) (a : Actor) : Bool := k.inboxCount = 0 || k.inboxCount + a.messages.length ≤ 64

/-- The rest of a shipped actor's messages enter the inbox as far as it has room; once all have, the home is told (R222). -/
def State.finishMove (s : State) (core i : Nat) : State :=
  match (s.core core).incoming[i]? with
  | none => s
  | some x =>
    let (left, s1) := s.feed core x.later
    let k := s1.core core
    if left != [] then s1.setCore core { k with incoming := k.incoming.set i { x with later := left } }
    else
      let s2 := s1.setCore core ((k.dropIncoming i).evaluate x.name)
      match (s2.clu x.home).entryOf x.name with
      | some (j, h) => s2.goLive x.home j { h with host := BitVec.ofNat 11 core, hostDie := dieOfCore core } 0
      | none => s2

/-- MOVE_STATE_IN_PLACE (R221, R222): the first shipped actor that a core takes in. -/
def execMoveStateInPlace (c : CoreId) (s : State) : Out :=
  let k := s.core c.ix
  match k.incoming.findIdx? fun x => x.shipped.isSome with
  | none => .next s
  | some i =>
    match (k.incoming[i]?).bind fun x => x.shipped.map fun y => (x, y) with
    | none => .next s
    | some (x, a, bytes) =>
      if x.placed then .next (s.finishMove c.ix i)
      else if !s.fits c.ix (runSize a.desc) [] then .next (s.evictFor c.ix)
      else if !k.takesPorts a then .next s
      else
        .next ((s.placeShipped c.ix i ((s.gapAt c.ix (runSize a.desc) []).getD 0) x a bytes).finishMove c.ix i)

/-! ## Handover (R28) -/

/-- The entries of a home that a change of a page mapping moves to another home. -/
def State.movedEntries (s : State) (home : Nat) : List (Nat × Hearth) :=
  (s.clu home).hearth.filter fun (_, h) => s.movedAway home h.name

/-- ADDR_HOME_HANDOVER (R28): a live actor is banked, one that waits for a host or is banked goes on once no message for it
is on its way here, and one that is being kindled or moved is taken up once it is live. -/
def execAddrHomeHandover (die : Fin 8) (clu : Fin 256) (s : State) : Out :=
  let home := cluPlace die clu
  .next <| (s.movedEntries home).foldl (fun s (i, h) =>
    match h.state with
    | .live =>
      (s.setHearth home i { h with state := .moving, dest := true, leaving := true }).toHost home h.hostCore
        (.bank h.part h.cls h.key)
    | .kindling => if h.chosen || h.handover then s else s.handOverDone home i h
    | .moving =>
      if h.written then s.handOverDone home i h
      else if h.dest then s.setHearth home i { h with leaving := true } else s
    | .free => s) s

/-- Messages of a handover that wait for an entry. -/
def HomeEvent.isHanded (e : HomeEvent) (n : ActorName) : Bool :=
  match e with
  | .marker p c k _ false => (p, c, k) == n
  | _ => false

/-- Messages from an old home whose marker is still to come, at a new home with no entry for the actor: an entry is made for
them; while the table is full they wait at the end of what has reached the home (R28, R43). -/
def State.takeHanded (s : State) (home : Nat) (n : ActorName) (ms : List Message) : State :=
  match (s.clu home).freeHearth with
  | some i =>
    s.setHearth home i { part := n.1, cls := n.2.1, key := n.2.2, state := .kindling, handover := true, handed := ms }
  | none => (s.evictOne home n.1).toHome home (.marker n.1 n.2.1 n.2.2 ms false)

/-- HANDOVER_MARKER (R28): the messages from the old home come first, then the new home's own buffer. -/
def execHandoverMarker (die : Fin 8) (clu : Fin 256) (s : State) : Out :=
  let home := cluPlace die clu
  match s.homeHead home with
  | some (.marker p cl k ms last) =>
    let s1 := s.homePop home
    match (s1.clu home).entryOf (p, cl, k) with
    | some (i, h) =>
      if !h.handover then .next (ms.foldl (fun s m => s.homeMessage home m) s1)
      else if last then
        .next ((s1.setHearth home i
          { h with buffer := h.handed ++ ms ++ h.buffer, handed := [], handover := false }).chooseHost home i)
      else .next (s1.setHearth home i { h with handed := h.handed ++ ms })
    | none =>
      if last then
        if (s1.clu home).homeQ.any (fun e => e.isHanded (p, cl, k)) then .next (s1.toHome home (.marker p cl k ms true))
        else .next (ms.foldl (fun s m => s.homeMessage home m) s1)
      else .next (s1.takeHanded home (p, cl, k) ms)
  | _ => .next s

end Sys2Proof.Machine
end

