-- ==== Sys2Proof/Machine/TagTable.lean ====
section
/-! DEFINITION. The scratchpad tag table of a core (09/R168 to R172). -/

namespace Sys2Proof.Machine

/-- A form of a unit that supervisor cores do not have takes cause 0x01 there (DESIGN CHOICE, log 11). -/
def needUnit (p : Party) (w : BitVec 32) : Tri Unit := Tri.ensure (!p.isSup) 0x01 (wordTval w)

/-- A slot of the table. -/
def slotAt (t : Vector TagSlot 64) (n : Nat) : TagSlot := t.toList.getD n {}

/-- A slot is foreign to a partition (R168). -/
def TagSlot.foreign (x : TagSlot) (part : BitVec 8) : Bool := x.valid && x.part != part

/-- A slot is a victim candidate (R168). -/
def TagSlot.victim (x : TagSlot) (part : BitVec 8) : Bool := !x.valid || (!x.foreign part && x.pin == 0)

/-- The slot that holds a key for a partition (R169). -/
def holds (t : Vector TagSlot 64) (part : BitVec 8) (k : BitVec 64) : Option Nat :=
  (List.range 64).find? fun n => let x := slotAt t n; x.valid && !x.foreign part && x.key == k

/-- Slot `n` made the most recently used: the valid slots below its rank move up one (R168). -/
def touch (t : Vector TagSlot 64) (n : Nat) : Vector TagSlot 64 :=
  let x := slotAt t n
  let rank := if x.valid then x.age.toNat else 64
  (t.map fun y => if y.valid && y.age.toNat < rank then { y with age := y.age + 1 } else y).setIfInBounds n
    { x with age := 0 }

/-- The victim that a lookup offers (R169): the lowest invalid slot, else the least recently used candidate. -/
def victimOf (t : Vector TagSlot 64) (part : BitVec 8) : Option Nat :=
  match (List.range 64).find? fun n => !(slotAt t n).valid with
  | some n => some n
  | none =>
    (List.range 64).foldl (fun (best : Option Nat) n =>
      if !(slotAt t n).victim part then best
      else
        match best with
        | none => some n
        | some b => if (slotAt t b).age < (slotAt t n).age then some n else some b) none

/-- `taglk` (R169): the result and the table after it. -/
def lookup (t : Vector TagSlot 64) (part : BitVec 8) (k : BitVec 64) : BitVec 64 × Vector TagSlot 64 :=
  match holds t part k with
  | some n => (BitVec.ofNat 64 n, touch t n)
  | none =>
    match victimOf t part with
    | some v => (BitVec.ofNat 64 (2 ^ 63 + v), t)
    | none => (BitVec.ofNat 64 (2 ^ 63 + 2 ^ 62), t)

/-- `tagins` (R170): the result and the table after it, or none for cause 0x14. -/
def tagInsert (t : Vector TagSlot 64) (part : BitVec 8) (k : BitVec 64) (n : Nat) :
    Option (BitVec 64 × Vector TagSlot 64) :=
  let x := slotAt t n
  let same := x.valid && x.key == k
  if 64 ≤ n || x.foreign part || (x.pin != 0 && !same) then none
  else
    match (holds t part k).filter fun m => m != n with
    | some m => some (BitVec.ofNat 64 (2 ^ 63 + m), t)
    | none =>
      if same then some (0, touch t n)
      else some (if x.valid then 1 else 0,
        (touch t n).setIfInBounds n { key := k, valid := true, pin := 0, part := part, age := 0 })

/-- `tagdel` on a slot (R171): the slot becomes invalid and the ranks above it close up (R168). -/
def tagDelete (t : Vector TagSlot 64) (n : Nat) : Option (Vector TagSlot 64) :=
  let x := slotAt t n
  if x.pin != 0 then none
  else if !x.valid then some t
  else some ((t.map fun y => if y.valid && x.age < y.age then { y with age := y.age - 1 } else y).setIfInBounds n
    { x with valid := false, age := 0 })

/-- `tagpin` on a slot (R171). -/
def tagPin (t : Vector TagSlot 64) (n : Nat) : Option (Vector TagSlot 64) :=
  let x := slotAt t n
  if !x.valid || x.pin == 255 then none else some (t.setIfInBounds n { x with pin := x.pin + 1 })

/-- `tagunpin` on a slot (R171). -/
def tagUnpin (t : Vector TagSlot 64) (n : Nat) : Option (Vector TagSlot 64) :=
  let x := slotAt t n
  if x.pin == 0 then none else some (t.setIfInBounds n { x with pin := x.pin - 1 })

/-- The state with a core's tag table replaced. -/
def State.setTags (s : State) (core : Nat) (t : Vector TagSlot 64) : State :=
  let k := s.core core
  s.setCore core { k with tagTable := t }

/-- `taglk` (R169). -/
def execTaglk (rd rs1 : BitVec 5) (s : State) : Out :=
  let w := wordTaglk rd rs1
  onUnit w s <| exe1 w rd rs1 s fun a s1 =>
    let n := s.cur.coreIx
    let (v, t) := lookup (s1.core n).tagTable (s1.ctx s.cur).partid (capAddr a)
    .val (dataReg v, s1.setTags n t)

/-- `tagins` (R170). -/
def execTagins (rd rs1 rs2 : BitVec 5) (s : State) : Out :=
  let w := wordTagins rd rs1 rs2
  onUnit w s <| exe2 w rd rs1 rs2 s fun a b s1 =>
    let n := s.cur.coreIx
    match tagInsert (s1.core n).tagTable (s1.ctx s.cur).partid (capAddr a) (capAddr b).toNat with
    | some (v, t) => .val (dataReg v, s1.setTags n t)
    | none => .trap 0x14 (capAddr b)

/-- The forms of R171. -/
def tagForm (w : BitVec 32) (rs1 : BitVec 5) (f : Vector TagSlot 64 → Nat → Option (Vector TagSlot 64))
    (s : State) : Out :=
  onUnit w s <| exe1 w 0 rs1 s fun a s1 =>
    let n := s.cur.coreIx
    let t := (s1.core n).tagTable
    let i := (capAddr a).toNat
    if 64 ≤ i || (slotAt t i).foreign (s1.ctx s.cur).partid then .trap 0x14 (capAddr a)
    else
      match f t i with
      | some t1 => .val (0, s1.setTags n t1)
      | none => .trap 0x14 (capAddr a)

/-- `tagdel` (R171). -/
def execTagdel (rs1 : BitVec 5) (s : State) : Out := tagForm (wordTagdel rs1) rs1 tagDelete s

/-- `tagpin` (R171). -/
def execTagpin (rs1 : BitVec 5) (s : State) : Out := tagForm (wordTagpin rs1) rs1 tagPin s

/-- `tagunpin` (R171). -/
def execTagunpin (rs1 : BitVec 5) (s : State) : Out := tagForm (wordTagunpin rs1) rs1 tagUnpin s

end Sys2Proof.Machine
end

