-- ==== Sys2Proof/Machine/Cbuf.lean ====
section
/-! DEFINITION. Circular buffers (09/R184 to R187). -/

namespace Sys2Proof.Machine

/-- A buffer of a core. -/
def Core.cb (k : Core) (b : Nat) : Cb := k.cbs.toList.getD b {}

/-- The core with a buffer replaced. -/
def Core.setCb (k : Core) (b : Nat) (x : Cb) : Core := { k with cbs := k.cbs.setIfInBounds b x }

/-- An index that advances modulo SCNT (R185). -/
def Cb.nextIx (x : Cb) (i : BitVec 8) : BitVec 8 := if i + 1 = x.scnt then 0 else i + 1

/-- The `cbput` step: one free slot becomes filled (R186). -/
def Cb.putStep (x : Cb) : Cb := { x with free := x.free - 1, filled := x.filled + 1, pidx := x.nextIx x.pidx }

/-- The `cbget` step: one filled slot becomes held (R186). -/
def Cb.getStep (x : Cb) : Cb := { x with filled := x.filled - 1, held := x.held + 1, cidx := x.nextIx x.cidx }

/-- The `cbrel` step: one held slot becomes free (R186). -/
def Cb.relStep (x : Cb) : Cb := { x with held := x.held - 1, free := x.free + 1 }

/-- The scratchpad offset of a slot (R184). -/
def Cb.slotAddr (x : Cb) (i : BitVec 8) : Nat := x.base.toNat + i.toNat * x.ssz.toNat

/-- The state that `cbstat` reports (R185). -/
def Cb.stat (x : Cb) : BitVec 64 :=
  BitVec.ofBool x.valid ++ 0#23 ++ x.cidx ++ x.pidx ++ x.held ++ x.free ++ x.filled

/-- Whether a waiter is the next to be served: none waits before it (R187). -/
def firstIn (l : List CbWaiter) (w : CbWaiter) : Bool := l.head?.getD w == w

/-- A waiter joined to a list of waiters, once (R187). -/
def joinWait (l : List CbWaiter) (w : CbWaiter) : List CbWaiter := if l.contains w then l else l ++ [w]

/-- Whether a waiter may take a filled slot now. -/
def Cb.canGet (x : Cb) (w : CbWaiter) : Bool := x.filled != 0 && firstIn x.waitFilled w

/-- Whether a waiter may take a free slot now. -/
def Cb.canPut (x : Cb) (w : CbWaiter) : Bool := x.free != 0 && firstIn x.waitFree w

/-- A filled slot taken by a waiter, which waits no longer. -/
def Cb.takeFilled (x : Cb) (w : CbWaiter) : Cb := { x.getStep with waitFilled := x.waitFilled.filter fun y => y != w }

/-- A free slot filled by a waiter, which waits no longer. -/
def Cb.takeFree (x : Cb) (w : CbWaiter) : Cb := { x.putStep with waitFree := x.waitFree.filter fun y => y != w }

/-- The core whose scratchpad the address of a request's w2 names, if it names one (R161, R197). -/
def Request.fillCore (r : Request) : Option Nat :=
  let a := (capAddr r.dst).toNat
  match windowOf r.sup a with
  | .own => some r.core
  | .die => some (dieOfCore r.core * 2048 + (a - 0xFF00000000000) / 0x20000)
  | _ => none

/-- Whether a request fills a buffer of a core (R197). -/
def Request.fills (r : Request) (core b : Nat) : Bool :=
  r.w0.extractLsb' 0 6 == 6#6 && r.fillCore == some core && (capAddr r.w3).toNat % 16 == b

/-- Whether a copy request that fills a buffer is pending, in a command FIFO or at an engine (R186). -/
def State.fillPending (s : State) (core b : Nat) : Bool :=
  (s.cores.any fun (_, k) => k.fifo.any fun r => r.fills core b) || s.dev.engines.any fun e => e.req.fills core b

/-- The buffer that a descriptor describes, or none where it is invalid (R184). -/
def descCb (bs : List Byte) : Option Cb :=
  let w : BitVec 128 := BitVec.ofNat 128 (leNat bs)
  let base := w.extractLsb' 0 17
  let ssz := w.extractLsb' 32 16
  let scnt := w.extractLsb' 48 8
  if w.extractLsb' 17 15 != 0 || w.extractLsb' 56 72 != 0 || base.toNat % 64 != 0 || ssz.toNat % 64 != 0 ||
      ssz.toNat < 64 || 32768 < ssz.toNat || scnt.toNat < 1 || 64 < scnt.toNat ||
      0x20000 < base.toNat + scnt.toNat * ssz.toNat then none
  else some { base := base, ssz := ssz, scnt := scnt, free := scnt, valid := true }

/-- The tval of cause 0x15: the number of the buffer (R371). -/
def cbTval (b : BitVec 4) : BitVec 64 := b.setWidth 64

/-- `cbinit` (R186). -/
def execCbinit (bd : BitVec 4) (rs1 : BitVec 5) (s : State) : Out :=
  let p := s.cur
  let w := wordCbinit bd rs1
  settleNext s <|
    (s.exePre p w 0 [rs1]).bind fun _ =>
    (needUnit p w).bind fun _ =>
    (s.src p rs1).bind fun (c, s1) =>
    let a := (capAddr c).toNat
    (Tri.unless (checkCap p.isSup c a 16 permLoad false)).bind fun _ =>
    (State.readBytes s s1 p .r a 16).bind fun (bs, s1) =>
    (Tri.ensure (a % 16 == 0) 0x15 (cbTval bd)).bind fun _ =>
    match descCb bs with
    | none => .trap 0x15 (cbTval bd)
    | some x =>
      if s1.fillPending p.coreIx bd.toNat then .trap 0x15 (cbTval bd)
      else
        let k := s1.core p.coreIx
        let old := k.cb bd.toNat
        .val (s1.setCore p.coreIx (k.setCb bd.toNat { x with waitFilled := old.waitFilled, waitFree := old.waitFree }))

/-- `cbput` once its earlier stores have drained and a free slot is its turn (R186). -/
def State.cbputNow (s : State) (p : Party) (b : BitVec 4) : Option State :=
  let c := s.ctx p
  let k := s.core p.coreIx
  let x := k.cb b.toNat
  if c.drained = c.storeCount && x.valid && x.canPut (ctxWaiter p) then
    some ((s.setCore p.coreIx (k.setCb b.toNat (x.takeFree (ctxWaiter p)))).mod p fun c =>
      { c with cbput := none, pc := c.pc + 4 })
  else none

/-- `cbput` (R186): it takes effect once every earlier store of the party has drained, and waits in turn for a
free slot (R187). -/
def execCbput (bd : BitVec 4) (s : State) : Out :=
  let p := s.cur
  let w := wordCbput bd
  settle s <|
    (s.exePre p w 0 []).bind fun _ =>
    (needUnit p w).bind fun _ =>
    let k := s.core p.coreIx
    let x := k.cb bd.toNat
    if !x.valid then .trap 0x15 (cbTval bd)
    else
      match s.cbputNow p bd with
      | some s1 => .val s1
      | none =>
        let x1 := if x.canPut (ctxWaiter p) then x else { x with waitFree := joinWait x.waitFree (ctxWaiter p) }
        .stall ((s.setCore p.coreIx (k.setCb bd.toNat x1)).mod p fun c => { c with cbput := some (bd, c.storeCount) })

/-- CBPUT_EFFECT (R186): the party's stalled `cbput` takes effect. -/
def execCbputEffect (p : Party) (s : State) : Out :=
  match (s.ctx p).cbput with
  | some (b, _) =>
    match s.cbputNow p b with
    | some s1 => .next s1
    | none => .next s
  | none => .next s

/-- `cbget` (R186). -/
def execCbget (rd : BitVec 5) (bs : BitVec 4) (s : State) : Out :=
  let p := s.cur
  let w := wordCbget rd bs
  settleNext s <|
    (s.exePre p w rd []).bind fun _ =>
    (needUnit p w).bind fun _ =>
    let k := s.core p.coreIx
    let x := k.cb bs.toNat
    if !x.valid then .trap 0x15 (cbTval bs)
    else if x.canGet (ctxWaiter p) then
      .val (((s.setCore p.coreIx (k.setCb bs.toNat (x.takeFilled (ctxWaiter p)))).mod p Ctx.sync).dest p rd
        (dataReg (BitVec.ofNat 64 (x.slotAddr x.cidx))))
    else
      .stall (s.setCore p.coreIx (k.setCb bs.toNat { x with waitFilled := joinWait x.waitFilled (ctxWaiter p) }))

/-- `cbrel` (R186). -/
def execCbrel (bd : BitVec 4) (s : State) : Out :=
  let p := s.cur
  let w := wordCbrel bd
  settleNext s <|
    (s.exePre p w 0 []).bind fun _ =>
    (needUnit p w).bind fun _ =>
    let k := s.core p.coreIx
    let x := k.cb bd.toNat
    if !x.valid || x.held = 0 then .trap 0x15 (cbTval bd)
    else .val (s.setCore p.coreIx (k.setCb bd.toNat x.relStep))

/-- `cbstat` (R186). -/
def execCbstat (rd : BitVec 5) (bs : BitVec 4) (s : State) : Out :=
  let w := wordCbstat rd bs
  exe0 w rd s fun s1 =>
    (needUnit s.cur w).bind fun _ =>
    .val (dataReg (((s1.core s.cur.coreIx).cb bs.toNat).stat), s1)

end Sys2Proof.Machine
end

