-- ==== Sys2Proof/Machine/Deckle.lean ====
section
/-! DEFINITION. Deckles (15/R303 to R305). -/

namespace Sys2Proof.Machine

/-- The fields of a deckle (R303). -/
def dkFmt (d : BitVec 512) : Nat := (d.extractLsb' 0 4).toNat
def dkRank (d : BitVec 512) : Nat := (d.extractLsb' 4 3).toNat
def dkPtr (d : BitVec 512) (i : Nat) : Bool := d.getLsbD (7 + i)
def dkExt (d : BitVec 512) (i : Nat) : BitVec 32 := d.extractLsb' (64 * i + 64) 32
def dkStride (d : BitVec 512) (i : Nat) : BitVec 32 := d.extractLsb' (64 * i + 96) 32

/-- A deckle is malformed (R303). -/
def dkMalformed (d : BitVec 512) : Bool :=
  let r := dkRank d
  d.extractLsb' 12 52 != 0 || d.extractLsb' 384 128 != 0 || 9 < dkFmt d || r == 0 || 5 < r ||
    ([0, 1, 2, 3, 4].any fun i => r ≤ i && (dkPtr d i || dkExt d i != 0 || dkStride d i != 0)) ||
    [0, 1, 2, 3, 4].any fun i => dkPtr d i && (dkExt d i).toNat % 4 != 0

/-- The address of the word that a pointer extent names (R303). -/
def dkPtrAddr (base : Nat) (d : BitVec 512) (i : Nat) : Nat :=
  (BitVec.ofNat 64 base + (dkExt d i).signExtend 64).toNat

/-- The extent of a dimension, a pointer extent read again and checked against the capability (R304). `s0` is the state
before the form, in which it stays between its Load steps. -/
def State.extent (s0 s : State) (p : Party) (c : Reg) (base : Nat) (d : BitVec 512) (i : Nat) : Tri (Nat × State) :=
  if dkPtr d i then
    let a := dkPtrAddr base d i
    (Tri.unless (checkCap p.isSup c a 4 permLoad false)).bind fun _ =>
    (State.readBytes s0 s p .r a 4).bind fun (bs, s1) => .val (leNat bs, s1)
  else .val ((dkExt d i).toNat, s)

/-- The product of the first `n` extents (R305). -/
def State.extentProduct (s0 s : State) (p : Party) (c : Reg) (base : Nat) (d : BitVec 512) : Nat → Tri (Nat × State)
  | 0 => .val (1, s)
  | n + 1 =>
    (State.extentProduct s0 s p c base d n).bind fun (x, s1) =>
    (State.extent s0 s1 p c base d n).bind fun (y, s2) => .val (x * y, s2)

/-- The deckle at the address of a capability, after the check of R133. -/
def State.readDeckle (s0 s : State) (p : Party) (c : Reg) : Tri (BitVec 512 × State) :=
  let a := (capAddr c).toNat
  (Tri.unless (checkCap p.isSup c a 64 permLoad false)).bind fun _ =>
  (State.readBytes s0 s p .r a 64).bind fun (bs, s1) => .val (BitVec.ofNat 512 (leNat bs), s1)

/-- `dkl` (R305). -/
def execDkl (rd rs1 rs2 : BitVec 5) (s : State) : Out :=
  let p := s.cur
  let w := wordDkl rd rs1 rs2
  onUnit w s <| exe2 w rd rs1 rs2 s fun c b s1 =>
    let a := (capAddr c).toNat
    let q := (capAddr b).toNat
    let i := q % 8
    (State.readDeckle s s1 p c).bind fun (d, s2) =>
    (Tri.ensure (a % 64 == 0 && !dkMalformed d && q < 16) 0x33 0).bind fun _ =>
    if q < 8 then
      (Tri.ensure (decide (i < dkRank d)) 0x33 0).bind fun _ =>
      (State.extent s s2 p c a d i).bind fun (x, s3) => .val (dataReg (BitVec.ofNat 64 x), s3)
    else
      (Tri.ensure (i == 0) 0x33 0).bind fun _ =>
      (State.extentProduct s s2 p c a d (dkRank d)).bind fun (x, s3) =>
      .val (dataReg (BitVec.ofNat 64 (min x (2 ^ 64 - 1))), s3)

end Sys2Proof.Machine
end

