-- ==== Sys2Proof/Machine/MatLines.lean ====
section
/-! DEFINITION. Matrix operands: classes, blocks with their scales and tags, LC8 blocks, and lines
(05/R103 to R112, R120; 15/R281 to R284). -/

namespace Sys2Proof.Machine

/-! ## Classes (R120, R281) -/

/-- The class of an operation: K, the group size G, the ACC code its tile must have, whether scales take part, and
whether it is the integer class. -/
structure MClass where
  k : Nat
  g : Nat
  acc : BitVec 2
  block : Bool := false
  int : Bool := false
  deriving DecidableEq, Repr

/-- The class of a pair of FMT codes, or none where the pair is not admitted (R281). -/
def matClass (a b : Nat) : Option MClass :=
  if a == 2 && b == 2 then some { k := 128, g := 32, acc := 0, block := true }
  else if a == 5 && b == 5 then some { k := 64, g := 32, acc := 1, int := true }
  else if a ≤ 5 && b ≤ 5 then some { k := 64, g := 32, acc := 0, block := true }
  else if (a == 6 || a == 7) && (b == 6 || b == 7) then some { k := 32, g := 16, acc := 0 }
  else if a == 8 && b == 8 then some { k := 16, g := 4, acc := 0 }
  else if a == 9 && b == 9 then some { k := 8, g := 1, acc := 2 }
  else none

/-- The least pitch that a line of a format needs (R282). -/
def lineNeed (f k : Nat) : Nat :=
  match f with
  | 2 => k / 2
  | 3 => 48
  | 4 => 32
  | 6 => 2 * k
  | 7 => 2 * k
  | 8 => 4 * k
  | 9 => 8 * k
  | _ => k

/-- The bytes of an element of a fixed format other than E2M1. -/
def elemBytes (f : Nat) : Nat :=
  match f with
  | 6 => 2
  | 7 => 2
  | 8 => 4
  | 9 => 8
  | _ => 1

/-- The value of an element code of a format (R100 to R105). -/
def elemNum (f c : Nat) : Num :=
  match f with
  | 0 => fmtE4m3.num c
  | 1 => fmtE5m2.num c
  | 2 => fmtE2m1.num c
  | 5 => .ofInt (sInt 8 c)
  | 6 => fmtBf16.num c
  | 7 => fmtF16.num c
  | 8 => fmtF32.num c
  | _ => fmtF64.num c

/-! ## LC8 blocks (R108 to R112) -/

/-- A symbol of the exponent code (R110). -/
inductive Lc8Sym where
  | delta (d : Int) | zero | esc
  deriving DecidableEq, Repr

/-- The code tables of R110: the codes as bits, leftmost first, with their symbols. -/
def lc8Table : Nat → List (List Bool × Lc8Sym)
  | 0 => [([true, true, false], .delta 1), ([false], .delta 0), ([true, false], .delta (-1)),
      ([true, true, true, false], .delta (-2)), ([true, true, true, true, true, false], .delta (-3)),
      ([true, true, true, true, false], .zero), ([true, true, true, true, true, true], .esc)]
  | 1 => [([false, false], .delta 0), ([false, true], .delta (-1)), ([true, false, false], .delta (-2)),
      ([true, false, true], .delta (-3)), ([true, true, false, false], .delta (-4)),
      ([true, true, false, true], .delta (-5)), ([true, true, true, true, false], .delta (-6)),
      ([true, true, true, true, true, false], .delta (-7)), ([true, true, true, false], .zero),
      ([true, true, true, true, true, true], .esc)]
  | 2 => [([true, false, true, true, false, false], .delta 4), ([true, false, true, false, false], .delta 3),
      ([true, false, false, false], .delta 2), ([false, true, false], .delta 1), ([false, false], .delta 0),
      ([false, true, true], .delta (-1)), ([true, false, false, true], .delta (-2)),
      ([true, false, true, false, true], .delta (-3)), ([true, false, true, true, false, true], .delta (-4)),
      ([true, false, true, true, true], .zero), ([true, true], .esc)]
  | _ => [([true, true, true, true, true, true, true], .delta 2), ([true, true, true, false], .delta 1),
      ([true, false], .delta 0), ([true, true, false], .delta (-1)), ([true, true, true, true, false], .delta (-2)),
      ([true, true, true, true, true, false], .delta (-3)), ([false], .zero),
      ([true, true, true, true, true, true, false], .esc)]

/-- Stream bit `n` of a block (R109); a bit beyond the block reads as 0 and is caught by the limit. -/
def lc8Bit (bs : List Byte) (n : Nat) : Bool := (bs.getD (18 + n / 8) 0).getLsbD (n % 8)

/-- The code of a table that the stream shows at bit `n`, and the bits it takes. -/
def lc8Code (bs : List Byte) (tbl n : Nat) : Lc8Sym × Nat :=
  match (lc8Table tbl).find? fun (code, _) => code == (List.range code.length).map fun i => lc8Bit bs (n + i) with
  | some (code, x) => (x, code.length)
  | none => (.zero, 0)

/-- The five raw bits of an escape, most significant first. -/
def lc8Raw (bs : List Byte) (n : Nat) : Nat :=
  (List.range 5).foldl (fun acc i => 2 * acc + (if lc8Bit bs (n + i) then 1 else 0)) 0

/-- The elements of a block from element `i` on, or none where it is malformed (R111): `m` remain. -/
def lc8Elems (bs : List Byte) (bexp tbl limit : Nat) : Nat → Nat → Nat → Option (List Num)
  | 0, _, _ => some []
  | m + 1, i, n =>
    let (x, len) := lc8Code bs tbl n
    let n1 := n + len
    let (e, n2) : Int × Nat :=
      match x with
      | .zero => (0, n1)
      | .esc => ((lc8Raw bs n1 : Int), n1 + 5)
      | .delta d => ((bexp : Int) + d, n1)
    if e < 0 || 31 < e || limit < n2 then none
    else
      let nib := (bs.getD (2 + i / 2) 0).toNat / (if i % 2 = 0 then 1 else 16) % 16
      let v := fmtLc8.num (nib / 8 * 256 + e.toNat * 8 + nib % 8)
      (lc8Elems bs bexp tbl limit m (i + 1) n2).map fun vs => v :: vs

/-- The length in bytes of a block by its header, or none where the header is malformed (R111). -/
def lc8Len (b0 b1 : Byte) : Option Nat :=
  let h := b0.toNat + 256 * b1.toNat
  let len := h / 128 % 8
  if h / 1024 != 0 || len < 3 || 6 < len then none else some (8 * len)

/-- The 32 elements of a block, or none where it is malformed (R111). -/
def lc8Block (bs : List Byte) : Option (List Num) :=
  let h := (bs.getD 0 0).toNat + 256 * (bs.getD 1 0).toNat
  lc8Elems bs (h % 32) (h / 32 % 4) ((bs.length - 18) * 8) 32 0 0

/-! ## Lines (R106, R107, R282, R283) -/

/-- Where an operand's bytes are read: the die whose view serves the reads, the core whose scratchpad holds
the slot, its scales and tags, and the partition of the issuing context. -/
structure MSource where
  die : Nat
  core : Nat
  part : BitVec 8
  deriving DecidableEq, Repr

/-- A byte of the source's scratchpad: cause 0x33 at or beyond its end (R283); 0x13 where the access tables refuse the matrix
unit (R383, R384); 0x19 in a poisoned block (DEDUCED, log 21). -/
def State.matByte (s : State) (m : MSource) (off : Nat) : Except (BitVec 6) Byte :=
  if 0x20000 ≤ off then .error 0x33
  else if !s.permitted (targetOf (spPlace m.core off)) m.part 21 1 then .error 0x13
  else if s.cell m.die (poisonPlace (spPlace m.core off)) != 0#8 then .error 0x19
  else .ok (s.cell m.die (spPlace m.core off))

/-- Consecutive bytes of the source's scratchpad. -/
def State.matBytes (s : State) (m : MSource) (off : Nat) : Nat → Except (BitVec 6) (List Byte)
  | 0 => .ok []
  | n + 1 =>
    match s.matByte m off with
    | .error c => .error c
    | .ok b =>
      match s.matBytes m (off + 1) n with
      | .error c => .error c
      | .ok bs => .ok (b :: bs)

/-- Fields of the held configuration (R83, R84). -/
def cfgFmt (w : BitVec 64) : Nat := (w.extractLsb' 0 4).toNat
def cfgScl (w : BitVec 64) : Bool := w.getLsbD 4
def cfgSoff (w : BitVec 64) : Nat := (w.extractLsb' 0 17).toNat
def cfgToff (w : BitVec 64) : Nat := (w.extractLsb' 32 17).toNat

/-- The values of `n` elements of a fixed format from their bytes; E2M1 packs two to a byte (R103). -/
def elemsOf (f n : Nat) (bs : List Byte) : List Num :=
  (List.range n).map fun i =>
    if f = 2 then elemNum 2 ((bs.getD (i / 2) 0).toNat / (if i % 2 = 0 then 1 else 16) % 16)
    else
      let z := elemBytes f
      elemNum f (leNat ((bs.drop (z * i)).take z))

/-- The bytes that `n` elements of a fixed format take. -/
def elemsSize (f n : Nat) : Nat := if f = 2 then n / 2 else n * elemBytes f

/-- The elements of the block at `pos` of a line of pitch `p` that begins at `base`, in format `f`, and the bytes
they take (R106, R282). -/
def State.matBlock (s : State) (m : MSource) (base p pos f : Nat) : Except (BitVec 6) (List Num × Nat) :=
  if f = 3 then
    if p < pos + 2 then .error 0x33
    else
      match s.matBytes m (base + pos) 2 with
      | .error c => .error c
      | .ok h =>
        match lc8Len (h.getD 0 0) (h.getD 1 0) with
        | none => .error 0x32
        | some n =>
          if p < pos + n then .error 0x33
          else
            match s.matBytes m (base + pos) n with
            | .error c => .error c
            | .ok bs =>
              match lc8Block bs with
              | some vs => .ok (vs, n)
              | none => .error 0x32
  else
    let n := elemsSize f 32
    if p < pos + n then .error 0x33
    else
      match s.matBytes m (base + pos) n with
      | .error c => .error c
      | .ok bs => .ok (elemsOf f 32 bs, n)

/-- The format of block `b` of an operand: by its tag where FMT is 0x4 (R106, R107). -/
def State.matTag (s : State) (m : MSource) (f : Nat) (scl : BitVec 64) (b : Nat) : Except (BitVec 6) Nat :=
  if f != 4 then .ok f
  else
    match s.matByte m (cfgToff scl + b / 4) with
    | .error c => .error c
    | .ok t => .ok (t.toNat / 4 ^ (b % 4) % 4)

/-- The scale of block `b` of an operand (R107). -/
def State.matScale (s : State) (m : MSource) (fmt scl : BitVec 64) (b : Nat) : Except (BitVec 6) Num :=
  if cfgScl fmt then
    match s.matByte m (cfgSoff scl + b) with
    | .error c => .error c
    | .ok x => .ok (e8m0Num x.toNat)
  else .ok (.fin false 1 0)

/-- The blocks of a line from block number `b` on, each element multiplied by its block's scale (R106, R107). -/
def State.matBlocks (s : State) (m : MSource) (base p : Nat) (fmt scl : BitVec 64) :
    Nat → Nat → Nat → Except (BitVec 6) (List Num)
  | 0, _, _ => .ok []
  | n + 1, b, pos =>
    match s.matTag m (cfgFmt fmt) scl b with
    | .error c => .error c
    | .ok f =>
      match s.matBlock m base p pos f with
      | .error c => .error c
      | .ok (vs, used) =>
        match s.matScale m fmt scl b with
        | .error c => .error c
        | .ok x =>
          match s.matBlocks m base p fmt scl n (b + 1) (pos + used) with
          | .error c => .error c
          | .ok rest => .ok (vs.map (fun v => v.mul x) ++ rest)

/-- The K values of line `l` of an operand whose slot begins at `slot` with line pitch `p`, at KSTEP `kstep`
(R282, R283). -/
def State.matLine (s : State) (m : MSource) (c : MClass) (slot p : Nat) (fmt scl : BitVec 64) (kstep l : Nat) :
    Except (BitVec 6) (List Num) :=
  let base := slot + l * p
  if c.block then
    let nb := c.k / 32
    s.matBlocks m base p fmt scl nb (kstep * 16 * nb + l * nb) 0
  else
    match s.matBytes m base (elemsSize (cfgFmt fmt) c.k) with
    | .error e => .error e
    | .ok bs => .ok (elemsOf (cfgFmt fmt) c.k bs)

/-- The first `n` lines of an operand from line `l` on. -/
def State.matLines (s : State) (m : MSource) (c : MClass) (slot p : Nat) (fmt scl : BitVec 64) (kstep : Nat) :
    Nat → Nat → Except (BitVec 6) (List (List Num))
  | 0, _ => .ok []
  | n + 1, l =>
    match s.matLine m c slot p fmt scl kstep l with
    | .error e => .error e
    | .ok v =>
      match s.matLines m c slot p fmt scl kstep n (l + 1) with
      | .error e => .error e
      | .ok vs => .ok (v :: vs)

/-! ## Accumulation (R121, R122) -/

/-- The groups of `g` of a list of products: `n` of them. -/
def groupsOf (g : Nat) : Nat → List Num → List (List Num)
  | 0, _ => []
  | n + 1, ts => ts.take g :: groupsOf g n (ts.drop g)

/-- One element of an FP32 or FP64 tile after an operation: each group summed exactly with the accumulator and
rounded once (R121). -/
def accFloat (f : Fmt) (c : MClass) (acc : Nat) (a b : List Num) : Nat :=
  (groupsOf c.g (c.k / c.g) ((a.zip b).map fun (x, y) => x.mul y)).foldl
    (fun acc ts => f.put false (xsum (f.num acc :: ts))) acc

/-- The integer that an integer-class element is. -/
def Num.toInt : Num → Int
  | .fin neg m _ => if neg then -(m : Int) else m
  | _ => 0

/-- One element of an INT32 tile after an operation: each group clamped (R122). -/
def accInt (c : MClass) (acc : Nat) (a b : List Num) : Nat :=
  sCode 32 ((groupsOf c.g (c.k / c.g) ((a.zip b).map fun (x, y) => x.mul y)).foldl
    (fun (acc : Int) ts => clampTo 32 (ts.foldl (fun (v : Int) t => v + t.toInt) acc)) (sInt 32 acc))

end Sys2Proof.Machine
end

