-- ==== Sys2Proof/Machine/Matrix.lean ====
section
/-! DEFINITION. Accumulator tiles, the matrix queue and its forms, and the start and retirement of matrix
operations (15/R278 to R294). -/

namespace Sys2Proof.Machine

/-! ## Tiles (R278) -/

/-- The two tiles of the pair that a tile belongs to, or the tile alone. -/
def pairTiles (t : Map Tile) (n : Nat) : List Nat :=
  match ((t.getD n {}).acc).toNat with
  | 2 => [n, n + 1]
  | 3 => [n - 1, n]
  | _ => [n]

/-- The status word of a tile (R278). -/
def Tile.status (x : Tile) : BitVec 64 :=
  0#32 ++ x.kstep ++ x.rerun ++ BitVec.ofBool x.reconf ++ x.pcause ++ BitVec.ofBool x.poison ++ BitVec.ofBool x.live ++ x.acc

/-- The tiles changed at some places. -/
def mapTiles (t : Map Tile) (ns : List Nat) (f : Nat → Tile → Tile) : Map Tile :=
  ns.foldl (fun t n => t.put n (f n (t.getD n {}))) t

/-- The element codes of a tile, or of a pair (R278). -/
def tileCodes (t : Map Tile) (md : Nat) : List Nat :=
  let x := t.getD md {}
  if x.acc = 2#2 then
    let v : Nat := x.data.toNat + 2 ^ 8192 * (t.getD (md + 1) {}).data.toNat
    (List.range 256).map fun e => v / 2 ^ (64 * e) % 2 ^ 64
  else (List.range 256).map fun e => x.data.toNat / 2 ^ (32 * e) % 2 ^ 32

/-- The number that some codes of `b` bits spell, the first least significant. -/
def packCodes (b : Nat) : List Nat → Nat
  | [] => 0
  | c :: cs => c + 2 ^ b * packCodes b cs

/-- The tiles with the element codes of a tile, or of a pair, replaced. -/
def setCodes (t : Map Tile) (md : Nat) (cs : List Nat) : Map Tile :=
  let x := t.getD md {}
  if x.acc = 2#2 then
    let v := packCodes 64 cs
    (t.put md { x with data := BitVec.ofNat 8192 v }).put (md + 1)
      { t.getD (md + 1) {} with data := BitVec.ofNat 8192 (v / 2 ^ 8192) }
  else t.put md { x with data := BitVec.ofNat 8192 (packCodes 32 cs) }

/-- The tiles that a `tcfg` affects (R287): md, the tile above it for FP64, and the other tile of a dissolved pair. -/
def tcfgTiles (t : Map Tile) (md : Nat) (fmt : BitVec 2) : List Nat :=
  distinct (md :: pairTiles t md ++ (if fmt = 2#2 then [md + 1] else []))

/-- The step of `tcfg` (R287). -/
def tcfgStep (t : Map Tile) (md : Nat) (fmt : BitVec 2) : Map Tile :=
  mapTiles t (tcfgTiles t md fmt) fun n x =>
    { acc := if n = md then fmt else if fmt = 2#2 && n = md + 1 then 3#2 else 0#2, reconf := x.live, conf := x.conf }

/-- The step of `mzero` and `mload`: the data written, the tile live, its other status cleared (R288, R289). -/
def writeStep (t : Map Tile) (md : Nat) (bytes : BitVec 16384) : Map Tile :=
  mapTiles t (pairTiles t md) fun n x =>
    { data := if n = md then bytes.setWidth 8192 else bytes.extractLsb' 8192 8192, acc := x.acc, live := true, conf := x.conf }

/-- The tiles as the forms see them at issue: the operations still queued have set their formats. -/
def Core.issueTiles (k : Core) : Map Tile :=
  k.mq.foldl (fun t o =>
    match o.kind with
    | .tcfg f => tcfgStep t o.md.toNat f
    | _ => t) k.tiles

/-- The tiles with the held operand configurations of some of them dropped, or set (R279). -/
def Core.setConf (k : Core) (ns : List Nat) (c : Option TileConf) : Core :=
  { k with tiles := mapTiles k.tiles ns fun _ x => { x with conf := c } }

/-! ## Entry into the queue (R280) -/

/-- The first operation of a queue that has not started. -/
def Core.nextOp (k : Core) : Option MOp := k.mq.find? fun o => !o.started

/-- The ring that an operation waits for next: the A slot, which a gang's lead alone takes, before the B slot (R187, R300). -/
def MOp.ring (o : MOp) (core : Nat) : Option (BitVec 4) :=
  match o.kind with
  | .mma => if o.aslot.isNone then some o.aring else if o.bslot.isNone then some o.bring else none
  | .mmag _ _ =>
    if core % 8 = 0 && o.aslot.isNone then some o.aring else if o.bslot.isNone then some o.bring else none
  | _ => none

/-- The operation of the queue that waits for a slot: the first that has not taken all its slots, every earlier one having
taken its own (R187). -/
def Core.slotOp (k : Core) : Option MOp := k.mq.find? fun o => !o.started && (o.ring o.acore).isSome

/-- That operation begins to wait for its slot (R187). -/
def Core.joinNext (k : Core) : Core :=
  match k.slotOp with
  | none => k
  | some o =>
    match o.ring o.acore with
    | none => k
    | some r =>
      let x := k.cb r.toNat
      k.setCb r.toNat { x with waitFilled := joinWait x.waitFilled .matrix }

/-- The queue after operations that had not started have left it: the matrix unit's place among the waiters is that of the
operation that is now next. -/
def Core.rejoin (k : Core) (mq : List MOp) : Core :=
  let same := (k.slotOp.map (·.seq)) == ((({ k with mq := mq } : Core).slotOp).map (·.seq))
  if same then { k with mq := mq }
  else
    Core.joinNext { k with
      mq := mq, cbs := k.cbs.map fun x => { x with waitFilled := x.waitFilled.filter fun y => y != .matrix } }

/-- The context number of a party. -/
def ctxNoOf : Party → Nat
  | .ctx _ k => k.val
  | _ => 0

/-- The state with an operation of a party entered into its core's matrix queue. -/
def State.enterQueue (s : State) (p : Party) (o : MOp) : State :=
  let k := s.core p.coreIx
  let c := s.ctx p
  let o1 : MOp :=
    { o with ctx := ctxNoOf p, addr := c.pc, stores := c.storeCount, sheet := c.firing.sheet, seq := k.mseq + 1, acore := p.coreIx }
  s.setCore p.coreIx ({ k with mq := k.mq ++ [o1], mseq := k.mseq + 1 } : Core).joinNext

/-- A full queue stalls the form in the state before it (R280). -/
def Core.queueRoom (k : Core) : Bool := k.mq.length < 8

/-- What every matrix form meets first. -/
def State.matPre (s : State) (p : Party) (w : BitVec 32) (rd : BitVec 5) (srcs : List (BitVec 5)) : Tri Unit :=
  (needUnit p w).bind fun _ => s.exePre p w rd srcs

/-- `tcfg` (R287). -/
def execTcfg (md : BitVec 5) (rs1 : BitVec 5) (s : State) : Out :=
  let p := s.cur
  settleNext s <|
    (s.matPre p (wordTcfg md rs1) 0 [rs1]).bind fun _ =>
    (s.src p rs1).bind fun (a, s1) =>
    let v := capAddr a
    let f : BitVec 2 := v.setWidth 2
    (Tri.ensure (v.toNat < 3 && !(f == 2#2 && md.getLsbD 0)) 0x33 0).bind fun _ =>
    let k := s1.core p.coreIx
    if !k.queueRoom then .stall s
    else
      let ts := tcfgTiles k.issueTiles md.toNat f
      .val ((s1.setCore p.coreIx (k.setConf ts none)).enterQueue p { kind := .tcfg f, md := md, tiles := ts })

/-- `mzero` (R288). -/
def execMzero (md : BitVec 5) (s : State) : Out :=
  let p := s.cur
  settleNext s <|
    (s.matPre p (wordMzero md) 0 []).bind fun _ =>
    let k := s.core p.coreIx
    let t := k.issueTiles
    (Tri.ensure ((t.getD md.toNat {}).acc != 3#2) 0x33 0).bind fun _ =>
    if !k.queueRoom then .stall s
    else
      let ts := pairTiles t md.toNat
      .val ((s.setCore p.coreIx (k.setConf ts none)).enterQueue p { kind := .mzero, md := md, tiles := ts })

/-- `mload` (R289): the bytes are read at issue. -/
def execMload (md : BitVec 5) (rs1 : BitVec 5) (s : State) : Out :=
  let p := s.cur
  settleNext s <|
    (s.matPre p (wordMload md rs1) 0 [rs1]).bind fun _ =>
    (s.src p rs1).bind fun (c, s1) =>
    let k := s1.core p.coreIx
    let t := k.issueTiles
    let acc := (t.getD md.toNat {}).acc
    let n := if acc = 2#2 then 2048 else 1024
    let a := (capAddr c).toNat
    (Tri.unless (checkCap p.isSup c a n permLoad false)).bind fun _ =>
    (Tri.ensure (acc != 3#2 && a % 64 == 0 && a + n ≤ 0x20000) 0x33 0).bind fun _ =>
    (State.readBytes s s1 p .r a n).bind fun (bs, s2) =>
    if !k.queueRoom then .stall s
    else
      let ts := pairTiles t md.toNat
      .val ((s2.setCore p.coreIx (k.setConf ts none)).enterQueue p
        { kind := .mload (BitVec.ofNat 16384 (leNat bs)), md := md, tiles := ts })

/-! ## `mma` (R285, R286, R290) -/

def mwAring (w : BitVec 64) : BitVec 4 := w.extractLsb' 0 4
def mwBring (w : BitVec 64) : BitVec 4 := w.extractLsb' 4 4
def mwRows (w : BitVec 64) : Nat := (w.extractLsb' 8 5).toNat
def mwDdim (w : BitVec 64) : Nat := (w.extractLsb' 13 3).toNat
def mwRow0 (w : BitVec 64) : Nat := (w.extractLsb' 16 32).toNat

/-- The operand word breaks R285. -/
def mwBad (w : BitVec 64) : Bool :=
  w.extractLsb' 48 16 != 0 || 16 < mwRows w || (mwRows w != 0 && (mwDdim w != 0 || mwRow0 w != 0))

/-- The row count M (R286), or none where the deckle takes cause 0x33. The deckle is named by rs2, which is read only
when ROWS is 0; a deckle that is not 64-aligned is no deckle (DEDUCED, log 22). -/
def State.matRows (s0 s : State) (p : Party) (w : BitVec 64) (rs2 : BitVec 5) : Tri (Option Nat × State) :=
  if mwRows w != 0 then .val (some (mwRows w), s)
  else
    (s.src p rs2).bind fun (c, s1) =>
    let a := (capAddr c).toNat
    (State.readDeckle s0 s1 p c).bind fun (d, s2) =>
    if a % 64 != 0 || dkMalformed d || dkRank d ≤ mwDdim w then .val (none, s2)
    else
      (State.extent s0 s2 p c a d (mwDdim w)).bind fun (e, s3) => .val (some (min 16 (e - mwRow0 w)), s3)

/-- The operand configuration that a context's CSRs hold (R279). -/
def Ctx.conf (c : Ctx) : TileConf := { fmtA := c.fmtA, fmtB := c.fmtB, sclA := c.sclA, sclB := c.sclB }

/-- The tval of cause 0x30 (R371). -/
def fmtTval (a b : Nat) : BitVec 64 := BitVec.ofNat 64 (a % 16 + 16 * (b % 16))

/-- The line pitch of a buffer (R282). -/
def Cb.pitch (x : Cb) : Nat := x.ssz.toNat / 16

/-- Cause 0x15 for a ring with VALID = 0 (R290). -/
def Core.ringValid (k : Core) (b : BitVec 4) : Tri Unit := Tri.ensure (k.cb b.toNat).valid 0x15 (cbTval b)

/-- The class check at tile start (R281). -/
def classCheck (c : TileConf) : Tri MClass :=
  match matClass (cfgFmt c.fmtA) (cfgFmt c.fmtB) with
  | some m => .val m
  | none => .trap 0x30 (fmtTval (cfgFmt c.fmtA) (cfgFmt c.fmtB))

/-- The held configuration of a tile as an operation finds it at issue, and whether the operation is its tile
start (R279). -/
def Core.heldConf (k : Core) (md : Nat) (c : Ctx) : TileConf × Bool :=
  match (k.tiles.getD md {}).conf with
  | some f => (f, false)
  | none => (c.conf, true)

/-- `mma` (R290). -/
def execMma (md : BitVec 5) (rs1 rs2 : BitVec 5) (s : State) : Out :=
  let p := s.cur
  settleNext s <|
    (s.matPre p (wordMma md rs1 rs2) 0 [rs1, rs2]).bind fun _ =>
    (s.src p rs1).bind fun (a, s1) =>
    let w := capAddr a
    (State.matRows s s1 p w rs2).bind fun (m, s2) =>
    let k := s2.core p.coreIx
    (k.ringValid (mwAring w)).bind fun _ =>
    (k.ringValid (mwBring w)).bind fun _ =>
    let (conf, first) := k.heldConf md.toNat (s2.ctx p)
    (classCheck conf).bind fun c =>
    let acc := (k.issueTiles.getD md.toNat {}).acc
    (Tri.ensure (!mwBad w && m.isSome && acc == c.acc &&
      lineNeed (cfgFmt conf.fmtA) c.k ≤ (k.cb (mwAring w).toNat).pitch &&
      lineNeed (cfgFmt conf.fmtB) c.k ≤ (k.cb (mwBring w).toNat).pitch) 0x33 0).bind fun _ =>
    if !k.queueRoom then .stall s
    else
      let ts := pairTiles k.issueTiles md.toNat
      .val ((s2.setCore p.coreIx (k.setConf ts (some conf))).enterQueue p
        { kind := .mma, md := md, first := first, conf := conf, aring := mwAring w, bring := mwBring w,
          rows := m.getD 0, tiles := ts })

/-! ## Start and retirement -/

/-- The queue with an operation replaced. -/
def Core.setOp (k : Core) (o : MOp) : Core := { k with mq := k.mq.map fun x => if x.seq = o.seq then o else x }

/-- A slot of a ring taken by the matrix queue, as `cbget` does, or its place among the waiters (R187, R290). -/
def Core.takeSlot (k : Core) (ring : BitVec 4) : Core × Option Nat :=
  let x := k.cb ring.toNat
  if x.canGet .matrix then (k.setCb ring.toNat (x.takeFilled .matrix), some (x.slotAddr x.cidx))
  else (k.setCb ring.toNat { x with waitFilled := joinWait x.waitFilled .matrix }, none)

/-- A slot of a ring released, as `cbrel` does; a slot that a `cbinit` has forgotten releases nothing (R186). -/
def Core.releaseSlot (k : Core) (ring : BitVec 4) : Core :=
  if (k.cb ring.toNat).held = 0 then k else k.setCb ring.toNat (k.cb ring.toNat).relStep

/-- An operation of the queue takes the slots that it may take now, the A slot before the B slot (R187). -/
def Core.takeSlots (k : Core) (o : MOp) (needA : Bool) : Core × MOp :=
  let (k1, a) := if !needA || o.aslot.isSome then (k, o.aslot) else k.takeSlot o.aring
  let o1 := { o with aslot := a }
  if needA && a.isNone then (k1.setOp o1, o1)
  else
    let k1 := (k1.setOp o1).joinNext
    let (k2, b) := if o.bslot.isSome then (k1, o.bslot) else k1.takeSlot o.bring
    let o2 := { o1 with bslot := b }
    (k2.setOp o2, o2)

/-- The operation that waits for its slots takes those that it may take now, its A slot and then its B slot; of the parts of a
gang operation only the lead's takes an A slot (R187, R290, R300). -/
def Core.takeNext (k : Core) (core : Nat) : Core :=
  match k.slotOp with
  | none => k
  | some o => (k.takeSlots o (o.kind == .mma || core % 8 == 0)).1.joinNext

/-- Whether an operation has every slot that it needs. -/
def MOp.hasSlots (o : MOp) : Bool := o.kind != .mma || o.bslot.isSome

/-- MATRIX_OP_START (R187, R280, R290): the operation that waits for its slots takes what it may, and the first operation
that has not started starts when it has its own. Gang operations start together (R300). -/
def execMatrixOpStart (c : CoreId) (s : State) : Out :=
  let k := (s.core c.ix).takeNext c.ix
  match k.nextOp with
  | none => .next (s.setCore c.ix k)
  | some o =>
    match o.kind with
    | .mmag _ _ => .next (s.setCore c.ix k)
    | _ => .next (s.setCore c.ix (if o.hasSlots then k.setOp { o with started := true } else k))

/-- The tile or pair of an operation poisoned with a cause (R290, R291), and the cause deferred to the context that
issued it, if its firing still runs (R292), or to the saved firing that waits for its context. -/
def State.failOp (s : State) (c : CoreId) (o : MOp) (cause : BitVec 6) : State :=
  let k := s.core c.ix
  let s1 := s.setCore c.ix { k with
    tiles := mapTiles k.tiles (pairTiles k.tiles o.md.toNat) fun _ x => { x with poison := true, pcause := cause, faddr := o.addr } }
  let d : Deferred := { cause := cause, addr := o.addr, tile := o.md }
  if o.orphan then s1
  else if 8 ≤ o.ctx then
    let k1 := s1.core c.ix
    s1.setCore c.ix { k1 with saved := k1.saved.map fun x =>
      if x.tag + 8 = o.ctx then { x with ctx := { x.ctx with deferred := x.ctx.deferred ++ [d] } } else x }
  else
    s1.mod (.ctx c (Fin.ofNat 4 o.ctx)) fun x =>
      { x with deferred := x.deferred ++ [d] }

/-- The element codes of a tile after an operation's product of `m` rows (R121, R286). -/
def productCodes (c : MClass) (old : List Nat) (m : Nat) (a b : List (List Num)) : List Nat :=
  (List.range 256).zip old |>.map fun (e, x) =>
    if e / 16 < m then
      let r := a.getD (e / 16) []
      let q := b.getD (e % 16) []
      if c.int then accInt c x r q else accFloat (if c.acc = 2#2 then fmtF64 else fmtF32) c x r q
    else x

/-- The tiles after an operation's result codes: live, with KSTEP advanced (R283, R290). -/
def resultTiles (t : Map Tile) (md kstep : Nat) (cs : List Nat) : Map Tile :=
  mapTiles (setCodes t md cs) (pairTiles t md) fun _ x =>
    { x with live := true, kstep := BitVec.ofNat 16 (min 65535 (kstep + 1)) }

/-- The machine with some cells of a die's view as they were read before. -/
def State.reading (s : State) (d : Nat) (cells : List (Nat × Byte)) : State :=
  if cells = [] then s
  else
    let v := (s.die d).view
    s.setDie d { s.die d with view := { v with mem := cells.foldl (fun m x => m.write x.1 x.2) v.mem } }

/-- The product of an operation on a tile that is not poisoned (R290). The A and B slots are named; `mismatches` is
the number of checksum mismatches that the step meets (R291). A's blocks are numbered by the KSTEP of the lead's tile (R300;
DEDUCED, log 103), and its cells are those that the lead has read and broadcast. Of two failures the one met first in the order A, then B, line by line, and tag, block, scale, gives
PCAUSE (DESIGN CHOICE, log 102). -/
def State.product (s : State) (c : CoreId) (o : MOp) (m : MClass) (aslot bslot mismatches : Nat) : State :=
  let k := s.core c.ix
  let kstep := ((k.tiles.getD o.md.toNat {}).kstep).toNat
  let pa := ((s.core o.acore).cb o.aring.toNat).pitch
  let pb := (k.cb o.bring.toNat).pitch
  let rows := if o.rows = 0 then 0 else 16
  let part := (s.ctx (.ctx c (Fin.ofNat 4 o.ctx))).partid
  match (s.reading c.die.val (o.acells.getD [])).matLines ⟨c.die.val, o.acore, part⟩ m aslot pa o.conf.fmtA o.conf.sclA (o.akstep.getD kstep) o.rows 0 with
  | .error e => s.failOp c o e
  | .ok a =>
    match s.matLines ⟨c.die.val, c.ix, part⟩ m bslot pb o.conf.fmtB o.conf.sclB kstep rows 0 with
    | .error e => s.failOp c o e
    | .ok b =>
      let rerun (x : Tile) : Tile := { x with rerun := if x.rerun = 31 then 31 else x.rerun + 1 }
      let t := if mismatches = 0 then k.tiles else mapTiles k.tiles (pairTiles k.tiles o.md.toNat) fun _ x => rerun x
      let s1 := s.setCore c.ix { k with tiles := t }
      if 2 ≤ mismatches then s1.failOp c o 0x31
      else
        s1.setCore c.ix { k with
          tiles := resultTiles t o.md.toNat kstep (productCodes m (tileCodes t o.md.toNat) o.rows a b) }

/-- `n` fresh free values. -/
def State.freshes (s : State) : Nat → List Nat × State
  | 0 => ([], s)
  | n + 1 =>
    let (v, s1) := s.fresh
    let (vs, s2) := s1.freshes n
    (v.toNat :: vs, s2)

/-- A gang operation that no lead supplies with an A operand: the elements are free values (DESIGN CHOICE, log 23). -/
def State.freeProduct (s : State) (c : CoreId) (o : MOp) : State :=
  let (vs, s1) := s.freshes 256
  let k := s1.core c.ix
  let n := o.md.toNat
  let b := if (k.tiles.getD n {}).acc = 2#2 then 64 else 32
  s1.setCore c.ix { k with
    tiles := resultTiles k.tiles n ((k.tiles.getD n {}).kstep).toNat (vs.map fun v => v % 2 ^ b) }

/-- The effect of an `mma` or `mmag` on its tile (R290): none where the tile is poisoned. At tile start KSTEP is 0
(R279). -/
def State.mulStep (s : State) (c : CoreId) (o : MOp) (mismatches : Nat) : State :=
  let k := s.core c.ix
  let n := o.md.toNat
  let k1 : Core :=
    if o.first then { k with tiles := mapTiles k.tiles (pairTiles k.tiles n) fun _ x => { x with kstep := 0 } } else k
  let s1 := s.setCore c.ix k1
  if (k1.tiles.getD n {}).poison then s1
  else
    match o.aslot, o.bslot, matClass (cfgFmt o.conf.fmtA) (cfgFmt o.conf.fmtB) with
    | some a, some b, some m => s1.product c o m a b mismatches
    | _, _, _ => s1.freeProduct c o

/-- Whether a member's part of a gang operation still stands in a queue of the cluster (R300). -/
def State.gangPending (s : State) (clu gen n : Nat) : Bool :=
  (List.range 8).any fun i => (s.core (clu * 8 + i)).mq.any fun o => o.kind == .mmag gen n

/-- The slots of a retired operation released (R290, R300). -/
def State.releaseSlots (s : State) (c : CoreId) (o : MOp) : State :=
  let s1 := if o.bslot.isSome then s.setCore c.ix ((s.core c.ix).releaseSlot o.bring) else s
  let last :=
    match o.kind with
    | .mmag gen n => !s.gangPending c.cluIx gen n
    | _ => true
  if o.aslot.isSome && last then s1.setCore o.acore ((s1.core o.acore).releaseSlot o.aring) else s1

/-- A part of a gang operation of a core (R300). -/
def Core.gangPart (k : Core) (gen n : Nat) : Option MOp := k.mq.find? fun o => o.kind == .mmag gen n

/-- The KSTEP of an operation's tile at its start (R279, R283). -/
def Core.startStep (k : Core) (o : MOp) : Nat := if o.first then 0 else (k.tiles.getD o.md.toNat {}).kstep.toNat

/-- The cells of A that a part reads: its slot, and the scale and tag bytes of its blocks, with their poison marks, under each
number of blocks that a line may have (R281, R283, R300). -/
def State.operandCells (s : State) (die : Nat) (o : MOp) (slot kstep : Nat) : List (Nat × Byte) :=
  let sp (off n : Nat) : List Nat := (span off n).filter (fun x => x < 0x20000) |>.map fun x => spPlace o.acore x
  let pitch := ((s.core o.acore).cb o.aring.toNat).pitch
  let blocks (nb : Nat) : List Nat :=
    sp (cfgSoff o.conf.sclA + kstep * 16 * nb) (16 * nb) ++ sp (cfgToff o.conf.sclA + kstep * 16 * nb / 4) (16 * nb / 4 + 1)
  let qs := sp slot (16 * pitch) ++ blocks 2 ++ blocks 4
  (qs ++ distinct (qs.map poisonPlace)).map fun q => (q, s.cell die q)

/-- What the lead of a gang operation broadcasts (R300): the KSTEP that numbers A's blocks, which is that of the lead's tile at
the start of its part, and the cells of A. The lead reads them once its part is the oldest operation of its queue and its
earlier stores have drained (R284); none before. -/
def State.leadRead (s : State) (o : MOp) (gen n : Nat) : Option (Nat × List (Nat × Byte)) :=
  match o.akstep, (s.core o.acore).gangPart gen n with
  | some v, _ => some (v, o.acells.getD [])
  | none, some l =>
    let party := Party.ctx (coreIdOf o.acore) (Fin.ofNat 4 l.ctx)
    if ((s.core o.acore).mq.head?.map (·.seq)) == some l.seq && l.stores ≤ (s.ctx party).drained then
      let v := (s.core o.acore).startStep l
      some (v, match o.aslot with
        | some a => s.operandCells (dieOfCore o.acore) o a v
        | none => [])
    else none
  | none, none => some (0, [])

/-- The parts of a gang operation told what the lead has read (R300). -/
def State.broadcast (s : State) (clu gen n v : Nat) (cells : List (Nat × Byte)) : State :=
  (List.range 8).foldl (fun s i =>
    let m := clu * 8 + i
    match (s.core m).gangPart gen n with
    | some o => s.setCore m ((s.core m).setOp { o with akstep := some v, acells := some cells })
    | none => s) s

/-- MATRIX_OP_RETIRE (R280, R290, R291): the oldest operation of the queue, once it has started and every earlier store of
its party has drained (R284), takes effect; `mismatches` is the number of checksum mismatches it meets. -/
def execMatrixOpRetire (c : CoreId) (mismatches : Nat) (s : State) : Out :=
  let k := s.core c.ix
  match k.mq with
  | [] => .next s
  | o :: rest =>
    let drained := o.stores ≤ (s.ctx (.ctx c (Fin.ofNat 4 o.ctx))).drained
    if !o.started then .next s
    else
      let n := o.md.toNat
      let s1 := s.setCore c.ix { k with mq := rest }
      match o.kind with
      | .tcfg f => .next (s1.setCore c.ix { k with mq := rest, tiles := tcfgStep k.tiles n f })
      | .mzero => .next (s1.setCore c.ix { k with mq := rest, tiles := writeStep k.tiles n 0 })
      | .mload b => .next (s1.setCore c.ix { k with mq := rest, tiles := writeStep k.tiles n b })
      | .mma => if drained then .next ((s1.mulStep c o mismatches).releaseSlots c o) else .next s
      | .mmag gen m =>
        match s.leadRead o gen m with
        | none => .next s
        | some (v, cells) =>
          if drained then
            let o1 : MOp := { o with akstep := some v, acells := some cells }
            .next (((s1.broadcast c.cluIx gen m v cells).mulStep c o1 mismatches).releaseSlots c o)
          else .next s

/-! ## `msync` and `mchk` -/

/-- Whether an operation that the party issued is in its core's queue (R293). -/
def State.opsQueued (s : State) (p : Party) : Bool := (s.core p.coreIx).mq.any fun o => o.ctx == ctxNoOf p

/-- The pending sequence traps of a firing go to the mailbox of its die: it has no trap port (R336). -/
def Ctx.reportsSeq (c : Ctx) : Bool := c.seqTraps != [] && (c.firing.sheet || !descTrapp c.firing.desc)

/-- What `msync` does, as do `done` and `wait` before the end of a firing (R292, R293, R336): the party's matrix
operations have retired, the oldest deferred cause is taken, and the pending sequence traps are delivered, as a release
(R177): a fault message is one once the stores before it have drained. The second argument is the state before the form, in
which it stays while it waits. -/
def State.matSync (s : State) (p : Party) (s0 : State) : Tri State :=
  if s.opsQueued p then .stall s0
  else
    match (s.ctx p).deferred with
    | d :: _ => .trap d.cause d.addr
    | [] =>
      if (s.ctx p).reportsSeq && !s.released ((s.ctx p).releaseAt p.ix 2) then .stall s0 else .val (s.deliverSeq p)

/-- `msync` (R293). -/
def execMsync (s : State) : Out :=
  let p := s.cur
  settleNext s <|
    (s.matPre p wordMsync 0 []).bind fun _ =>
    (Tri.ensure (!p.isSup) 0x01 (wordTval wordMsync)).bind fun _ => s.matSync p s

/-- A form waits for every operation on a tile that entered the queue before it (R294, R296): the state where it
waits, or none where it need not. -/
def State.tileWait (s : State) (p : Party) (n : Nat) : Option State :=
  let k := s.core p.coreIx
  let bound := ((s.ctx p).mhold).getD k.mseq
  if k.mq.any fun o => o.seq ≤ bound && o.tiles.contains n then some (s.mod p fun c => { c with mhold := some bound })
  else none

/-- `mchk` (R294). -/
def execMchk (rd : BitVec 5) (ms : BitVec 5) (s : State) : Out :=
  let p := s.cur
  settleNext s <|
    (s.matPre p (wordMchk rd ms) rd []).bind fun _ =>
    match s.tileWait p ms.toNat with
    | some s1 => .stall s1
    | none =>
      .val ((s.mod p fun c => { c with mhold := none }).dest p rd
        (dataReg (((s.core p.coreIx).tiles.getD ms.toNat {}).status)))

end Sys2Proof.Machine
end

