-- ==== Sys2Proof/Machine/Firing.lean ====
section
/-! DEFINITION. The start and the end of firings: picks, sheets and steals, decrements, and the forms that end a firing
(01/R29 to R35, R45 to R49; 11/R215 to R217, R237 to R239). -/

namespace Sys2Proof.Machine

/-! ## The forms that end a firing -/

/-- `done`'s test of the matrix unit (R215, R293), and the context waits for its end. -/
def State.endForm (s : State) (p : Party) (w : BitVec 32) (srcs : List (BitVec 5)) (mode : Tri Unit)
    (f : Firing → Firing) : Out :=
  settle s <|
    (s.exePre p w 0 srcs).bind fun _ =>
    mode.bind fun _ =>
    (s.storesLeft p).bind fun _ =>
    (s.matSync p s).bind fun s1 =>
    .val (s1.mod p fun c => { c with run := .ending, firing := f c.firing })

/-- `done` (R215). -/
def execDone (s : State) : Out := s.endForm s.cur wordDone [] (inFiring s.cur) id

/-- The counters of a class (R22). -/
def counterCount (d : BitVec 512) : Nat :=
  match counterPort d with
  | some p => portParam d p
  | none => 0

/-- `wait` (R216): the counter's handler becomes the address after the form, as part of the commit. -/
def execWait (rs1 : BitVec 5) (s : State) : Out :=
  let p := s.cur
  settle s <|
    (s.exePre p (wordWait rs1) 0 [rs1]).bind fun _ =>
    (s.src p rs1).bind fun (a, s1) =>
    let c := s1.ctx p
    (inKeyed p c).bind fun _ =>
    (Tri.ensure (decide ((capAddr a).toNat < counterCount c.firing.desc)) 0x27 0).bind fun _ =>
    (s.storesLeft p).bind fun _ =>
    (s1.matSync p s).bind fun s2 =>
    .val (s2.mod p fun x => { x with
      run := .ending, firing := { x.firing with waitCounter := some ((capAddr a).toNat, c.pc + 4) } })

/-- `bank` (R217). -/
def execBank (s : State) : Out :=
  s.endForm s.cur wordBank [] (inKeyed s.cur (s.ctx s.cur)) fun f => { f with bankAfter := true }

/-! ## The end (R35, R215) -/

/-- The commit of a `wait`: HANDLER of the counter is written (R216). -/
def State.commitWait (s : State) (p : Party) : State :=
  let f := (s.ctx p).firing
  match f.waitCounter with
  | none => s
  | some (i, a) =>
    let q := spPlace p.coreIx (f.winOff + descCtoff f.desc * 16 + 16 * i + 8)
    s.writeAt p.die.val (plainCells (bytesCells q a.toNat 8)) false []

/-- The commit of a journalled firing (R389): a commit mark, an entry for each message that it sent, and those messages
are held no longer. The sends of a replayed firing that has its commit mark are suppressed (23/R390), and count as
received (DEDUCED, log 41). -/
def State.commitJournal (s : State) (p : Party) : State :=
  let f := (s.ctx p).firing
  if f.sheet || !descJrnl f.desc then s
  else
    let k := s.core p.coreIx
    let mine (i : OutItem) : Bool := i.heldBy p
    let sends := (k.outq.filter mine).filterMap fun i =>
      match i with
      | .msg m d _ _ => some (JEntry.sent m d false)
      | .carry _ => none
    let again := match k.actor f.name with
      | some a => a.replay
      | none => 0
    if again != 0 then
      let s1 := s.setCore p.coreIx
        (({ k with outq := k.outq.filter fun i => !mine i } : Core).setActor f.name fun a => { a with replay := a.replay - 1 })
      s1.recvAll p.coreIx (outMessages (k.outq.filter mine))
    else
    let s1 := s.setCore p.coreIx { k with outq := k.outq.map fun i =>
      match i with
      | .msg m d r h => if mine (.msg m d r h) then .msg m d r false else .msg m d r h
      | .carry o => .carry o }
    match s1.bankOf (descBankh f.desc) f.name with
    | some e => s1.setBank { e with journal := e.journal ++ JEntry.commit :: sends }
    | none => s1

/-- `bank`'s effect beyond `done` (R217): an actor with no queued message and no ready-queue entry loses its pin, and its
host makes a bank intent. -/
def State.bankAfter (s : State) (core : Nat) (n : ActorName) : State :=
  match (s.core core).actor n with
  | none => s
  | some a =>
    if Actor.idle (s.core core) { a with pin := false } then
      let s1 := s.setPin core a.home n false
      if a.intent then s1 else s1.intend core n
    else s

/-- The end of a keyed firing at its core (R33, R217). -/
def State.endKeyed (s : State) (core : Nat) (f : Firing) : State :=
  let s1 := s.setCore core ((s.core core).endRun f.name)
  if f.bankAfter then s1.bankAfter core f.name else s1

/-- FIRING_END (R35, R215): once the stores have drained. -/
def execFiringEnd (c : CoreId) (k : Fin 4) (s : State) : Out :=
  let p := Party.ctx c k
  let x := s.ctx p
  let f := x.firing
  if x.run != .ending || x.sb != [] || x.waiting.isSome then .next s
  else
    let s1 := ((s.commitWait p).commitJournal p).recvAll c.ix f.consumed
    let s2 := if f.sheet then (s1.recvUp c.ix f.part (f.record.d0.extractLsb' 16 12)).itemDone f.record.item else s1
    let s3 := ((s2.releaseSel p).dissolveGang p).mod p Ctx.idle
    .next (if f.sheet then s3 else s3.endKeyed c.ix f)

/-! ## The start of a firing (R34, R45) -/

/-- A context at the start of a firing: every register zero, and what the ordering machine keeps of the party. -/
def Ctx.fresh (c : Ctx) : Ctx :=
  { run := .running, issued := c.issued, drained := c.drained, snap := c.snap, scopedDone := c.scopedDone,
    cause := c.cause, epc := c.epc, tval := c.tval, reply := c.reply, stealAfter := c.stealAfter }

/-- The capability to the state window (R34). -/
def windowCap (off size : Nat) : Reg :=
  if size = 0 then 0 else regionCap (permLoad ||| permStore ||| permLoadCap ||| permStoreCap) off size

/-- A context at the start of a keyed firing on some messages (R34), with its spill carve-out (R167). -/
def Ctx.startKeyed (c : Ctx) (a : Actor) (pick : Pick) (entry : BitVec 64) (ms : List Message) (carve : Option Nat) : Ctx :=
  let m := ms.headD {}
  let c1 : Ctx := { c.fresh with
    pc := entry, kcls := m.cls, kkey := m.key, ltag := hdrLtag m.hdr, fdep := hdrDepth m.hdr, partid := a.part,
    firing := { trapStarted := (match pick with
                  | .trap _ => true
                  | _ => false),
                cls := a.cls, key := a.key, part := a.part, desc := a.desc, consumed := ms, untaken := ms.drop 1,
                winOff := a.off, winSize := a.size, carve := carve } }
  ((c1.setReg 3 (windowCap a.off a.size)).setReg 9 (dataReg m.hdr)).setPayload m.pay

/-- The pc of a keyed firing: ENTRY, or the handler of a counter firing. -/
def Actor.entryFor (a : Actor) (pick : Pick) : BitVec 64 :=
  match pick with
  | .counter => ((a.counters.head?).map (·.1)).getD (descEntry a.desc)
  | _ => descEntry a.desc

/-- The carve-out that a firing of a class takes from the free bytes of its core's state area (R44, R167): the lowest run
that fits, or none where none does; its save image then lies in HBM alone (DESIGN CHOICE, log 25). -/
def State.takeCarve (s : State) (core : Nat) (d : BitVec 512) : Option Nat :=
  if carveSize d = 0 then none else s.gapAt core (carveSize d) []

/-- The oldest keyed entry of a partition starts in a context. -/
def State.pickKeyed (s : State) (p : Party) (part : BitVec 8) : State :=
  let k := s.core p.coreIx
  match k.readyQ.find? fun x => x.1 == part with
  | none => s
  | some n =>
    let k1 := { k with readyQ := k.readyQ.erase n }
    match k1.actor n with
    | none => s.setCore p.coreIx k1
    | some a =>
      match a.nextPick with
      | none => s.setCore p.coreIx (k1.setActor n fun a => { a with ready := false })
      | some pick =>
        let (ms, a1) := a.consume pick
        let seq := s.dev.fireSeq + 1
        let k2 := k1.setActor n fun _ => { a1 with ready := false, running := true, lastFired := seq }
        let s1 := (s.setDev { s.dev with fireSeq := seq }).setCore p.coreIx k2
        s1.mod p fun c => c.startKeyed a pick (a.entryFor pick) ms (s.takeCarve p.coreIx a.desc)

/-- A context at the start of a sheet firing (R45, R158). -/
def Ctx.startSheet (c : Ctx) (x : Sheet) (d : BitVec 512) : Ctx :=
  let cls := x.d0.extractLsb' 0 16
  let r := x.resume
  let c1 : Ctx := { c.fresh with
    pc := if r.rpc = 0 then descEntry d else r.rpc
    kcls := cls, kkey := x.d1, ltag := x.d0.extractLsb' 16 12, fdep := x.d0.extractLsb' 28 4, partid := x.part
    firing := { sheet := true, cls := cls, key := x.d1, part := x.part, desc := d, record := x } }
  let c2 := (((c1.setReg 9 (dataReg x.d0)).setReg 10 (dataReg x.d1)).setReg 11 (dataReg x.d2)).setReg 12 (dataReg x.d3)
  if r.rpc = 0 then c2
  else
    (((c2.setReg r.rxs (dataReg r.rva)).setReg (r.rxs + 1) (dataReg r.rvb)).setReg (r.rxs + 2) (dataReg r.rvc)).setReg
      (r.rxs + 3) (dataReg r.rvd)

/-- The newest sheet of a partition popped from a core's quire (R46, R238). -/
def Core.popSheet (k : Core) (part : BitVec 8) : Option (Sheet × Core) :=
  let last (l : List Sheet) : Option (Sheet × List Sheet) :=
    match l.reverse.findIdx? fun x => x.part == part with
    | some i => (l.reverse[i]?).map fun x => (x, (l.reverse.eraseIdx i).reverse)
    | none => none
  match last k.quire with
  | some (x, l) => some (x, { k with quire := l })
  | none => (last k.quireOvf).map fun (x, l) => (x, { k with quireOvf := l })

/-- The class of a sheet as its pick checks it (R24, R232): the cause of its discard. -/
def sheetRefusal (d : BitVec 512) (cls : BitVec 16) : Option (BitVec 6) :=
  if !descValid d then some 0x20 else if descMalformed d cls then some 0x21 else if !descSheet d then some 0x25 else none

/-- The newest sheet of a partition starts in a context, or is discarded. -/
def State.pickSheet (s : State) (p : Party) (part : BitVec 8) : State :=
  match (s.core p.coreIx).popSheet part with
  | none => s
  | some (x, k) =>
    let cls := x.d0.extractLsb' 0 16
    let (d, s1) := (s.setCore p.coreIx k).readDesc p.die.val part cls
    match sheetRefusal d cls with
    | some cause =>
      (s1.recvUp p.coreIx part (x.d0.extractLsb' 16 12)).report p.die.val
        { cause := cause, part := part, cls := cls, key := x.d1, unit := 0, tuple := tupleOfCore p.coreIx s1.dev.num }
    | none => s1.mod p fun c => c.startSheet x d

/-! ## Steals (R47, R48) -/

/-- The cores that a thief asks, in order: the other cores of its cluster, then those of its mesh neighbours. -/
def stealOrder (c : CoreId) : List Nat :=
  let own := [1, 2, 3, 4, 5, 6, 7].map fun i => c.cluIx * 8 + (c.core.val + i) % 8
  let x := c.clu.val % 16
  let y := c.clu.val / 16
  let near := (if x < 15 then [c.clu.val + 1] else []) ++ (if y < 15 then [c.clu.val + 16] else []) ++
    (if 0 < x then [c.clu.val - 1] else []) ++ if 0 < y then [c.clu.val - 16] else []
  own ++ (near.map fun n => (List.range 8).map fun i => (c.die.val * 256 + n) * 8 + i).flatten

/-- The sheets of a partition that a victim yields: the oldest half, rounded up (R47); none while it is reserved for a
gang (R241). -/
def Core.yields (k : Core) (part : BitVec 8) : List Sheet :=
  let l := (k.quireOvf ++ k.quire).filter fun x => x.part == part
  if k.gangReserved.isSome then [] else l.take ((l.length + 1) / 2)

/-- The oldest `n` sheets of a partition leave a core. -/
def Core.dropOldest (k : Core) (part : BitVec 8) (n : Nat) : Core :=
  let rec go (n : Nat) : List Sheet → List Sheet × Nat
    | [] => ([], n)
    | x :: xs =>
      if x.part == part && n != 0 then go (n - 1) xs
      else
        let (r, m) := go n xs
        (x :: r, m)
  let (o, m) := go n k.quireOvf
  { k with quireOvf := o, quire := (go m k.quire).1 }

/-- A thief's round of requests: the first victim with sheets yields; when none does, the thief makes no request for 256
cycles (R47). A sheet for which the thief has no room stays with its victim. -/
def State.steal (s : State) (p : Party) (c : CoreId) (part : BitVec 8) : State :=
  match (stealOrder c).find? fun v => (s.core v).yields part != [] with
  | none => s.mod p fun x => { x with stealAfter := (s.core c.ix).cyc + 256 }
  | some v =>
    let (n, k) := ((s.core v).yields part).foldl (fun (acc : Nat × Core) x =>
      match acc.2.pushSheet x with
      | some (_, k) => (acc.1 + 1, k)
      | none => acc) (0, s.core c.ix)
    let s1 := s.setCore c.ix k
    s1.setCore v ((s1.core v).dropOldest part n)

/-- Whether a context may pick: it is idle, its core holds no saved firing (R237), and no slot table that changes its
partition waits (R87). -/
def State.mayPick (s : State) (c : CoreId) (k : Fin 4) : Bool :=
  let core := s.core c.ix
  (s.ctx (.ctx c k)).run == .idle && !core.preempted && core.saved == [] && !(s.die c.die.val).failed &&
    c.clu.val < 16 * (s.die c.die.val).waves &&
    match core.pendSlots with
    | some t => slotPart t k.val == slotPart core.slots k.val
    | none => true

/-- CONTEXT_PICK (R238). -/
def execContextPick (c : CoreId) (k : Fin 4) (s : State) : Out :=
  if !s.mayPick c k then .next s
  else
    let core := s.core c.ix
    let part := slotPart core.slots k.val
    let keyed := core.readyQ.any fun x => x.1 == part
    let sheets := (core.quireOvf ++ core.quire).any fun x => x.part == part
    let p := Party.ctx c k
    if keyed && sheets then
      let n := core.pickCtr.getD part.toNat 0
      let s1 := s.setCore c.ix { core with pickCtr := core.pickCtr.put part.toNat ((n + 1) % 4) }
      .next (if n = 3 then s1.pickSheet p part else s1.pickKeyed p part)
    else if keyed then .next (s.pickKeyed p part)
    else if sheets then .next (s.pickSheet p part)
    else if (s.ctx p).stealAfter ≤ core.cyc then .next (s.steal p c part)
    else .next s

/-- STEAL_SERVE (R47): a victim answers the request of the idle context `k` of core `c`. -/
def execStealServe (c : CoreId) (k : Fin 4) (s : State) : Out :=
  let core := s.core c.ix
  let part := slotPart core.slots k.val
  if s.mayPick c k && !(core.readyQ.any fun x => x.1 == part) &&
      !((core.quireOvf ++ core.quire).any fun x => x.part == part) && (s.ctx (.ctx c k)).stealAfter ≤ core.cyc then
    .next (s.steal (.ctx c k) c part)
  else .next s

/-- STEAL_BACKOFF_EXPIRY (R47). -/
def execStealBackoffExpiry (c : CoreId) (k : Fin 4) (s : State) : Out :=
  let p := Party.ctx c k
  if (s.ctx p).stealAfter ≤ (s.core c.ix).cyc then .next (s.mod p fun x => { x with stealAfter := 0 }) else .next s

/-- QUIRE_REFILL (R239). -/
def execQuireRefill (c : CoreId) (s : State) : Out :=
  let k := s.core c.ix
  if k.quire.length < 64 && k.quireOvf != [] then
    let n := min (128 - k.quire.length) k.quireOvf.length
    let keep := k.quireOvf.length - n
    .next (s.setCore c.ix { k with quire := k.quireOvf.drop keep ++ k.quire, quireOvf := k.quireOvf.take keep })
  else .next s

/-! ## Decrements (R30) -/

/-- A decrement applied to an actor of a core. -/
def State.applyDecrement (s : State) (core : Nat) (a : Actor) (m : Message) : State :=
  let i := (hdrPrio m.hdr).toNat
  let delta := hdrDelta m.hdr
  let die := dieOfCore core
  if counterCount a.desc ≤ i then
    (s.recvAll core [m]).report die
      { cause := 0x23, part := m.part, cls := m.cls, key := m.key, unit := 0, tuple := tupleOfCore core s.dev.num }
  else if delta = 0 then s.recvAll core [m]
  else
    let q := spPlace core (a.off + descCtoff a.desc * 16 + 16 * i)
    let preset := s.peek die q 4
    let current := s.peek die (q + 4) 4
    let put (v : Nat) : State := s.writeAt die (plainCells (bytesCells (q + 4) v 4)) false []
    if current ≤ delta then
      let m1 := { m with hdr := if current < delta then m.hdr ||| 0x10000000 else m.hdr }
      let s1 := put preset
      let k := (s1.core core).setActor a.name fun x => { x with counters := x.counters ++ [(s.peek64 die (q + 8), m1)] }
      s1.setCore core (k.evaluate a.name)
    else (put (current - delta)).recvAll core [m]

/-- DECREMENT_APPLY (R30): the oldest decrement whose actor runs no firing. -/
def execDecrementApply (c : CoreId) (s : State) : Out :=
  let k := s.core c.ix
  let free (m : Message) : Bool :=
    match k.actor m.name with
    | some a => !a.running && !a.saved
    | none => false
  match k.decs.find? free with
  | none => .next s
  | some m =>
    match k.actor m.name with
    | some a => .next ((s.setCore c.ix { k with decs := k.decs.erase m }).applyDecrement c.ix a m)
    | none => .next s

end Sys2Proof.Machine
end

