-- ==== Sys2Proof/Machine/UnitAccess.lean ====
section
/-! DEFINITION. Accesses to memory by units other than parties: copy and flue engines, launchers (23/R379, R384). -/

namespace Sys2Proof.Machine

/-- The die of an engine: copy engines are numbered from 0, flue engines from 5000. -/
def engDie (e : Nat) : Nat := if e < 5000 then e / 256 else (e - 5000) / 16

/-- What a unit finds at an address: a place; host memory behind the CXL path, at a host-physical address (FORM 10); a
peer device (FORM 01); or why it finds nothing. -/
inductive UnitPlace where
  | at (q : Nat)
  | host (a : Nat)
  | peer (dev : BitVec 12)
  | noWindow
  | translation
  | access
  deriving DecidableEq, Repr

/-- The place of a byte that a unit of die `die` accesses for an issuer of core `core` (R161, R379, R384). -/
def State.unitPlace (s : State) (core die : Nat) (sup : Bool) (part : BitVec 8) (unit : Nat) (need : Need) (a : Nat) :
    UnitPlace :=
  let check (q : Nat) : UnitPlace :=
    if sup || need.perms.all (fun m => s.permitted (targetOf q) part unit m) then .at q else .access
  match windowOf sup a with
  | .phys => .at a
  | .own => check (spPlace core a)
  | .die =>
    let o := a - 0xFF00000000000
    check (spPlace (dieOfCore core * 2048 + o / 0x20000) (o % 0x20000))
  | .none => .noWindow
  | .virt =>
    let e := s.heldWalk (unitKey die unit) die part a
    let w := e.word
    if !w.getLsbD 0 || e.malformed || !need.page w then .translation
    else
      match (w.extractLsb' 5 2).toNat with
      | 0 => check ((w.extractLsb' 16 36).toNat * 65536 + a % e.size)
      | 1 => .peer (w.extractLsb' 52 12)
      | 2 => .host ((w.extractLsb' 16 36).toNat * 65536 + a % e.size)
      | _ => .translation

/-- The places of `n` bytes, or what the first that is not on the device is, with its offset. -/
def State.unitPlaces (s : State) (core die : Nat) (sup : Bool) (part : BitVec 8) (unit : Nat) (need : Need) (a i : Nat) :
    Nat → List Nat ⊕ (UnitPlace × Nat)
  | 0 => .inl []
  | n + 1 =>
    match s.unitPlace core die sup part unit need (a + i) with
    | .at q =>
      match s.unitPlaces core die sup part unit need a (i + 1) n with
      | .inl qs => .inl (q :: qs)
      | r => r
    | f => .inr (f, i)

/-- The bytes at `n` places as a unit reads them in the view of their home die; none when a block is poisoned (R386). -/
def State.unitBytes (s : State) (qs : List Nat) : Option (List Byte) :=
  if qs.any fun q => s.cell (homeDie q) (poisonPlace q) != 0#8 then none
  else some (qs.map fun q => s.cell (homeDie q) q)

/-- A die's unit reads `n` bytes for an issuer; none where it cannot. -/
def State.unitRead (s : State) (core die : Nat) (sup : Bool) (part : BitVec 8) (unit a n : Nat) : Option (List Byte) :=
  match s.unitPlaces core die sup part unit .r a 0 n with
  | .inl qs => if qs.any fun q => s.cell die (poisonPlace q) != 0#8 then none else some (qs.map fun q => s.cell die q)
  | .inr _ => none

end Sys2Proof.Machine
end

