-- ==== Sys2Proof/Machine/Deliver.lean ====
section
/-! DEFINITION. The delivery of messages and operations, the inbox, the spill queue, journals and probe tokens
(09/R175 to R177; 11/R243 to R245, R248; 15/R308 to R310; 23/R389). -/

namespace Sys2Proof.Machine

/-! ## Routing bias (R308 to R310) -/

/-- The `i`-th entry of a partition's bias directory, and those after it, searched for a class's port: the entry's number
and its record's address. -/
def State.biasFind (s : State) (die : Nat) (part : BitVec 8) (cls : BitVec 16) (port : Nat) (i : Nat) :
    Nat → Option (Nat × Nat) × State
  | 0 => (none, s)
  | n + 1 =>
    let q := s.ctbaseOf part + 0x401200 + 16 * i
    let (w, s1) := s.tableDword die part q
    let (a, s2) := s1.tableDword die part (q + 8)
    if w.getLsbD 63 && w.extractLsb' 18 45 == 0 && a.toNat % 64 == 0 && w.extractLsb' 0 16 == cls &&
        (w.extractLsb' 16 2).toNat == port then (some (i, a.toNat), s2)
    else s2.biasFind die part cls port (i + 1) n

/-- A byte of tenant memory as a die's unit reads it through the partition's translation; none where the address is not
mapped for reading, its block is poisoned, or the access tables refuse it: the unit counts as one of bit 21 of UNITS (R383,
R384; DESIGN CHOICE, log 28). -/
def State.tenantByte (s : State) (die : Nat) (part : BitVec 8) (a : Nat) : Option Byte :=
  if a < 0x20000 || 0xFF00000000000 ≤ a then none
  else
    match leafCheck (s.heldWalk (unitKey die 21) die part a) .r a with
    | .at q => if s.permitted (targetOf q) part 21 1 && s.cell die (poisonPlace q) == 0#8 then some (s.cell die q) else none
    | _ => none

/-- Some bytes of tenant memory. -/
def State.tenantBytes (s : State) (die : Nat) (part : BitVec 8) (a n : Nat) : Option (List Byte) :=
  ((List.range n).map fun i => s.tenantByte die part (a + i)).foldr (fun b acc =>
    match b, acc with
    | some b, some l => some (b :: l)
    | _, _ => none) (some [])

/-- The key of a die's snapshot for a directory entry and a parity. -/
def biasKey (part : BitVec 8) (entry parity : Nat) : Nat := part.toNat * 128 + entry * 2 + parity

/-- Micro-batch `a` is newer than `c` (R310). -/
def newerBatch (a c : BitVec 16) : Bool := let d := (a - c).toNat; 1 ≤ d && d ≤ 32767

/-- The snapshot taken for a micro-batch from a bias record (R309, R310). A tag dword that cannot be read is no tag
(DESIGN CHOICE, log 28). -/
def State.takeBias (s : State) (die : Nat) (part : BitVec 8) (entry a : Nat) (m : BitVec 16) : BiasSnap :=
  let b := m.toNat % 2
  let bank := a + 320 * b
  let tag := (s.tenantBytes die part bank 8).map fun l => BitVec.ofNat 64 (leNat l)
  match tag == some (m.setWidth 64), s.tenantBytes die part (bank + 64) 256 with
  | true, some l => { tag := m, bias := Vector.ofFn fun (i : Fin 256) => l.getD i.val 0 }
  | _, _ =>
    match (s.die die).bias.find (biasKey part entry (1 - b)) with
    | some x => { tag := m, bias := x.bias }
    | none => { tag := m }

/-- The priority after a bias (R310). -/
def biasedPrio (p : BitVec 8) (b : BitVec 8) : BitVec 8 :=
  BitVec.ofInt 8 (max 0 (min 255 ((p.toNat : Int) + b.toInt)))

/-- The micro-batch that a data message names (R310). -/
def Message.batch (m : Message) : BitVec 16 := (payWord m.pay 0).extractLsb' 16 16

/-- The die has no snapshot for a directory entry that serves micro-batch `mb`: one is taken from the record (R309, R310). -/
def State.biasStale (s : State) (die : Nat) (part : BitVec 8) (entry : Nat) (mb : BitVec 16) : Bool :=
  match (s.die die).bias.find (biasKey part entry (mb.toNat % 2)) with
  | some b => b.tag != mb && newerBatch mb b.tag
  | none => true

/-- The address of a bias record that a message needs at a core, and that the die's units have still to translate (R380). -/
def State.biasMissing (s : State) (core : Nat) (m : Message) : Option Nat :=
  let die := dieOfCore core
  let port := hdrPort m.hdr
  match (s.core core).actor m.name with
  | none => none
  | some a =>
    if hdrKind m.hdr != 0 || portKind a.desc port != 3 then none
    else
      match (s.biasFind die m.part m.cls port 0 64).1 with
      | some (e, q) => if s.biasStale die m.part e m.batch then s.missing (unitKey die 21) m.part q 640 else none
      | none => none

/-- A data message at a biased top-k port of a core takes its micro-batch's bias (R310). -/
def State.biasMessage (s : State) (core : Nat) (d : BitVec 512) (m : Message) : Message × State :=
  let port := hdrPort m.hdr
  let die := dieOfCore core
  if hdrKind m.hdr != 0 || portKind d port != 3 then (m, s)
  else
    match s.biasFind die m.part m.cls port 0 64 with
    | (none, s1) => (m, s1)
    | (some (e, a), s1) =>
      let x := payWord m.pay 0
      let mb := m.batch
      let key := biasKey m.part e (mb.toNat % 2)
      let use (b : BiasSnap) : Message :=
        { m with hdr := hdrSetPrio m.hdr (biasedPrio (hdrPrio m.hdr) (b.bias.toList.getD (x.extractLsb' 0 8).toNat 0)) }
      let take : Message × State :=
        let b1 := s1.takeBias die m.part e a mb
        (use b1, s1.setDie die { s1.die die with bias := (s1.die die).bias.put key b1 })
      match (s1.die die).bias.find key with
      | some b =>
        if b.tag == mb then (use b, s1)
        else if newerBatch mb b.tag then take
        else
          (use b, s1.report die
            { cause := 0x2B, part := m.part, cls := m.cls, key := m.key, unit := 0, tuple := tupleOfCore core s1.dev.num })
      | none => take

/-! ## Entering a host -/

/-- The messages that a spill queue holds at most: 128 bytes each (R88, R248; DESIGN CHOICE, log 29). -/
def Core.spillRoom (k : Core) : Nat := (k.spq.extractLsb' 48 16).toNat * 0x10000 / 128

/-- The host counts a message that its home has forwarded to an actor (R222). -/
def State.countForwarded (s : State) (core : Nat) (n : ActorName) : State :=
  s.setCore core ((s.core core).setActor n fun a => { a with count := a.count + 1 })

/-- A message with its place in the order of arrival at a host. -/
def State.stamped (s : State) (core : Nat) (m : Message) : Message × State :=
  (((s.core core).stamp m).1, s.setCore core ((s.core core).stamp m).2)

/-- A forwarded message enters its host: the inbox, or the spill queue of a core that diverts (R248). None while there
is no room; the state then reports a full spill queue, once. -/
def State.enterHost (s : State) (core : Nat) (m : Message) : Option State :=
  let k := s.core core
  let d := match k.actor m.name with
    | some a => a.desc
    | none => 0
  if k.diverting then
    if k.spill.length < k.spillRoom then
      let (m1, s1) := s.biasMessage core d m
      let (m2, s2) := (s1.countForwarded core m.name).stamped core m1
      some (s2.setCore core { s2.core core with spill := (s2.core core).spill ++ [m2] })
    else none
  else if k.inboxCount < 64 then
    let (m1, s1) := s.biasMessage core d m
    let (m2, s2) := (s1.countForwarded core m.name).stamped core m1
    some (s2.inboxPlace core m2)
  else none

/-- A full spill queue is reported once (R248). -/
def State.reportSpill (s : State) (core : Nat) : State :=
  let k := s.core core
  if k.diverting && !k.spillReported then
    (s.setCore core { k with spillReported := true }).report (dieOfCore core)
      { cause := 0x2A, unit := 0, tuple := tupleOfCore core s.dev.num }
  else s

/-! ## DELIVER (R175, R177) -/

/-- A message of a journalled firing that has reached its home is marked sent (R389); one for another device once that device
acknowledges it (R350). -/
def State.markSent (s : State) (m : Message) : State :=
  match m.sender with
  | none => s
  | some n =>
    let rec mark : List JEntry → List JEntry
      | [] => []
      | .sent x d false :: rest => if x == m then .sent x d true :: rest else .sent x d false :: mark rest
      | e :: rest => e :: mark rest
    s.setDev { s.dev with
      bank := s.dev.bank.map fun e =>
        if (e.part, e.cls, e.key) == n then { e with journal := mark e.journal } else e }

/-- A message that meets its release condition placed at its destination: its home, a core that a command names, or
another device. None where the home has no room (R224, R243), or its die has failed (23/R390). At its home it keeps the core
that it comes from and the writes that its release names, since its host may lie on another die (R39, R177). -/
def State.placeMessage (s : State) (die : Nat) (m : Message) (dest : Dest) (origin : Nat) (prior : Map Nat) : Option State :=
  let m1 := { m with sender := none, origin := origin, prior := prior }
  match dest with
  | .command dev c =>
    if dev != s.dev.num.toNat then some (s.sendMessage die (BitVec.ofNat 12 dev) m1)
    else if (s.die (dieOfCore c)).failed then none
    else some (s.setCore c { s.core c with cmds := (s.core c).cmds ++ [m1] })
  | .home dev d clu =>
    if dev != s.dev.num.toNat then some (s.sendMessage die (BitVec.ofNat 12 dev) m)
    else if !(s.die d).failed && s.homeTakes (d * 256 + clu) m then some ((s.markSent m).toHome (d * 256 + clu) (.msg m1))
    else none

/-- An operation enters its owner's inbox (R175), if there is room (R243) and its die has not failed (23/R390). -/
def State.placeOp (s : State) (o : Op) : Option State :=
  let k := s.core o.owner
  if !(s.die (dieOfCore o.owner)).failed && k.inboxCount < 64 then some (s.setCore o.owner { k with opInbox := k.opInbox ++ [o] }) else none

/-- A core's outbound queue without its head, whose hold-back ends. -/
def State.popOut (s : State) (core : Nat) : State :=
  let k := s.core core
  s.setCore core { k with outq := k.outq.drop 1, heldSince := none }

/-- The core at which the head of a core's outbound queue is held back: the host of its actor, or the owner. -/
def State.headCore (s : State) (core : Nat) : Option Nat :=
  match (s.core core).outq.head? with
  | some (.msg m (.home dev d clu) _ _) =>
    if dev != s.dev.num.toNat then none
    else
      match (s.clu (d * 256 + clu)).entryOf m.name with
      | some (_, h) => if h.state == .live && h.hostDev.isNone then some h.hostCore else none
      | none => none
  | some (.carry o) => some o.owner
  | _ => none

/-- A channel's head is held back at the input of a core, behind those held back before it (R244). -/
def State.holdIn (s : State) (core ch : Nat) : State :=
  let k := s.core core
  if k.blocked.contains ch then s else s.setCore core { k with blocked := k.blocked ++ [ch] }

/-- A channel's head has been taken. -/
def Core.unblock (k : Core) (ch : Nat) : Core := { k with blocked := k.blocked.filter fun x => x != ch }

/-- The channel of a home, of an outbound queue, and of an operation in flight, as `Core.blocked` names it. -/
def chanHome (home : Nat) : Nat := 3 * home
def chanOut (core : Nat) : Nat := 3 * core + 1
def chanOp (id : Nat) : Nat := 3 * id + 2

/-- The head of a core's outbound queue is held back (R243, R244). -/
def State.holdOut (s : State) (core : Nat) : State :=
  let k := s.core core
  let s1 := if k.heldSince.isSome then s else s.setCore core { k with heldSince := some k.cyc }
  match s.headCore core with
  | some c => s1.holdIn c (chanOut core)
  | none => s1

/-- The head of a core's outbound queue delivered. -/
def State.deliverOut (s : State) (core : Nat) : State :=
  match (s.core core).outq with
  | [] => s
  | .msg m dest r held :: _ =>
    if held || !s.released r then s
    else
      match (s.popOut core).placeMessage (dieOfCore core) m dest core (r.snap.getD []) with
      | some s1 => s1
      | none => s.holdOut core
  | .carry o :: _ =>
    if !s.released o.rel then s
    else
      match (s.popOut core).placeOp o with
      | some s1 => s1
      | none => s.holdOut core

/-- A message may go from its home to a core (R39, R177): one that was sent on another die has its release in every die view. -/
def State.mayReach (s : State) (core : Nat) (m : Message) : Bool :=
  dieOfCore m.origin = dieOfCore core || s.seenEverywhere m.prior

/-- The head of the channel from a home to a host delivered (R38, R222). -/
def State.deliverHosted (s : State) (home core : Nat) : State :=
  let k := s.clu home
  match if (s.die (dieOfCore core)).failed then [] else k.toHost.getD core [] with
  | [] => s
  | x :: rest =>
    let s1 := s.setClu home { k with toHost := if rest = [] then k.toHost.drop core else k.toHost.put core rest }
    let order (n : ActorName) (f : Actor → Actor) : State := s1.setCore core ((s1.core core).setActor n f)
    match x with
    | .msg m =>
      if !s.mayReach core m then s
      else
        match s.biasMissing core m with
        | some va => s.askUnit (unitKey (dieOfCore core) 21) (dieOfCore core) m.part va
        | none =>
          match s1.enterHost core m with
          | some s2 => s2.setCore core ((s2.core core).unblock (chanHome home))
          | none => (s.reportSpill core).holdIn core (chanHome home)
    | .bank p c key => order (p, c, key) fun a => { a with order := .bank }
    | .ship p c key dest => order (p, c, key) fun a => { a with order := .ship dest }
    | .refused p c key => order (p, c, key) fun a => { a with intent := false }

/-- The `i`-th operation in flight delivered: no earlier one of its issuer is for the same owner (R38, R192). -/
def State.deliverOp (s : State) (i : Nat) : State :=
  match s.dev.ops[i]? with
  | none => s
  | some o =>
    if !s.released o.rel || (s.dev.ops.take i).any fun x => x.issuer == o.issuer && x.owner == o.owner then s
    else
      match (s.setDev { s.dev with ops := s.dev.ops.eraseIdx i }).placeOp o with
      | some s1 => s1.setCore o.owner ((s1.core o.owner).unblock (chanOp o.id))
      | none => s.holdIn o.owner (chanOp o.id)

/-- The die of a unit that sends messages, by its number: a home's, a launcher's, an engine's; the base unit's, the sweep
root's, the host interface's and the fabric's is die 0 (DESIGN CHOICE, log 106). -/
def unitDie (u : Nat) : Nat :=
  if 100000 ≤ u && u < 200000 then (u - 100000) / 256
  else if 200000 ≤ u && u < 300000 then u - 200000
  else if 500000 ≤ u && u < 600000 then engDie (u - 500000)
  else 0

/-- The messages of the unit with a number keep their order whatever their homes: those of a page of the host message window
(23/R395). -/
def unitOrdered (u : Nat) : Bool := 700000 ≤ u

/-- The `i`-th message of a unit in flight delivered: no earlier one of its unit is for the same home (R38). -/
def State.deliverUnit (s : State) (i : Nat) : State :=
  match s.dev.unitMsgs[i]? with
  | none => s
  | some u =>
    let ok := match u.rel with
      | some r => s.released r
      | none => true
    if !ok || (s.dev.unitMsgs.take i).any fun x => x.unit == u.unit && (unitOrdered u.unit || x.dest == u.dest) then s
    else
      match (s.setDev { s.dev with unitMsgs := s.dev.unitMsgs.eraseIdx i }).placeMessage (unitDie u.unit) u.m u.dest
        u.m.origin u.m.prior with
      | some s1 => s1
      | none => s

/-- DELIVER (R175, R177). -/
def execDeliver (ch : Chan) (s : State) : Out :=
  match ch with
  | .out p => .next (s.deliverOut p.coreIx)
  | .hosted home c => .next (s.deliverHosted home c.ix)
  | .op i => .next (s.deliverOp i)
  | .unit i => .next (s.deliverUnit i)

/-- A store of supervisor core 0 of a die that has drained may be the write of its heartbeat to the base die (23/R390; DESIGN
CHOICE, log 47: no rule says where the heartbeat is written, so a free value tells whether this store is it). -/
def State.beat (s : State) (p : Party) : State :=
  match p with
  | .sup d n =>
    if n.val = 0 then
      let (v, s1) := s.fresh
      if v.getLsbD 0 then s1.setDie d.val { s1.die d.val with heartbeat := s1.clock (clockBase d.val) } else s1
    else s
  | _ => s

/-- DRAIN (R175). -/
def execDrain (p : Party) (s : State) : Out :=
  let s1 := s.drainOne p
  .next (if (s1.ctx p).drained = (s.ctx p).drained then s1 else s1.beat p)

/-- The condition of R176 on the `i`-th entry of a carry channel to die `e`. -/
def State.carryReady (s : State) (e : Nat) (l : List CarryEntry) (i : Nat) (t : CarryEntry) : Bool :=
  let ord := (s.die e).view.ord
  !((l.take i).any fun x => x.cells.any fun c => t.cells.any fun y => y.1 == c.1) &&
    (!t.release || t.prior.all fun (q, o) => !isHbm q || o ≤ ord.getD q 0)

/-- CARRY_DELIVERY (R175, R176): the `i`-th entry of the channel from die `d` to die `e`. -/
def execCarryDelivery (d e : Fin 8) (i : Nat) (s : State) : Out :=
  let l := (s.die d.val).carry.getD e.val []
  match l[i]? with
  | none => .next s
  | some t =>
    if d = e || !s.carryReady e.val l i t then .next s
    else
      let k := s.die d.val
      let rest := l.eraseIdx i
      let s1 := s.setDie d.val { k with carry := if rest = [] then k.carry.drop e.val else k.carry.put e.val rest }
      .next (s1.install e.val t.ord t.cells)

/-! ## Journals and the spill queue -/

/-- The journal area of an actor's class, with room for one more entry; none where it has no room or its store none. -/
def State.journalRoom (s : State) (a : Actor) : Bool :=
  let h := descBankh a.desc
  match (s.bankStore h).1, s.bankOf h a.name with
  | some w, some _ => s.journalBytes h + 128 ≤ (w.extractLsb' 112 16).toNat * 65536
  | _, _ => false

/-- A full journal area has been reported for an actor's class (R389). -/
def State.fullReported (s : State) (a : Actor) : Bool :=
  s.cores.any fun (_, k) => k.actors.any fun x => x.part == a.part && x.cls == a.cls && x.journalFull

/-- JOURNAL_APPEND (R389): the oldest message of an actor of the core that waits for its journal entry, in an area with
room, becomes consumable; a full area is reported once for its class. -/
def execJournalAppend (c : CoreId) (s : State) : Out :=
  let waits := (s.core c.ix).actors.filter fun a => a.unjournalled != []
  match waits.find? s.journalRoom with
  | some a =>
    match a.unjournalled with
    | [] => .next s
    | m :: rest =>
      let h := descBankh a.desc
      let s1 := (s.bankStore h).2
      match s1.bankOf h a.name with
      | some e =>
        let s2 := s1.setBank { e with journal := e.journal ++ [.delivered m] }
        let k := (s2.core c.ix).setActor a.name fun x => { x with unjournalled := rest, journalFull := false }
        .next (s2.setCore c.ix (k.accept { m with journalled := true }))
      | none => .next s1
  | none =>
    match waits.find? fun a => !s.fullReported a with
    | some a =>
      .next ((s.setCore c.ix ((s.core c.ix).setActor a.name fun x => { x with journalFull := true })).report 0
        { cause := 0x2D, part := a.part, cls := a.cls, key := a.key, unit := 9, tuple := s.devTuple })
    | none => .next s

/-- SPILL_REDELIVERY (R248): after resumption, the oldest message of the spill queue; new arrivals enter the inbox again
once the queue is empty. -/
def execSpillRedelivery (c : CoreId) (s : State) : Out :=
  let k := s.core c.ix
  if k.preempted || !k.diverting then .next s
  else
    match k.spill with
    | [] => .next (s.setCore c.ix { k with diverting := false, spillReported := false })
    | m :: rest =>
      if k.inboxCount < 64 then
        let s1 := (s.setCore c.ix { k with spill := rest }).inboxPlace c.ix m
        let k1 := s1.core c.ix
        .next (if rest = [] then s1.setCore c.ix { k1 with diverting := false, spillReported := false } else s1)
      else .next s

/-! ## Probe tokens (R244) -/

/-- A token of an origin reaches a core: its own token has returned. -/
def State.sendToken (s : State) (origin dest : Nat) : State :=
  let k := s.core dest
  s.setCore dest (if dest = origin then { k with tokenBack := true } else { k with tokens := k.tokens ++ [origin] })

/-- PROBE_TOKEN_SEND (R244). -/
def execProbeTokenSend (c : CoreId) (s : State) : Out :=
  let k := s.core c.ix
  let due := match k.heldSince with
    | some t => t + 4096 ≤ k.cyc
    | none => false
  if due && 64 ≤ k.inboxCount && !k.tokenOut && !k.reserveUsed then
    match s.headCore c.ix with
    | some d => .next ((s.setCore c.ix { k with tokenOut := true }).sendToken c.ix d)
    | none => .next s
  else .next s

/-- PROBE_TOKEN_FORWARD (R244): the oldest token that a core has received. -/
def execProbeTokenForward (c : CoreId) (s : State) : Out :=
  let k := s.core c.ix
  match k.tokens with
  | [] => .next s
  | o :: rest =>
    let s1 := s.setCore c.ix { k with tokens := rest }
    let lost : State := s1.setCore o { s1.core o with tokenOut := false }
    if 64 ≤ k.inboxCount && k.heldSince.isSome then
      match s.headCore c.ix with
      | some d => .next (s1.sendToken o d)
      | none => .next lost
    else .next lost

/-- A message or an operation that a core's reserve entry accepts (R244). -/
inductive HeldInput where
  | msg (m : Message)
  | op (o : Op)

/-- What is held back at the input of a core on one channel, and the state without it: the head of a channel from a home;
the head of another core's outbound queue, with no message for its actor ahead of it between home and host (R38, R245); an
operation in flight with none of its issuer for the core ahead of it. -/
def State.heldOn (s : State) (core ch : Nat) : Option (HeldInput × State) :=
  match ch % 3 with
  | 0 =>
    let home := ch / 3
    let k := s.clu home
    match k.toHost.getD core [] with
    | .msg m :: rest =>
      if s.mayReach core m then
        some (.msg m, s.setClu home { k with toHost := if rest = [] then k.toHost.drop core else k.toHost.put core rest })
      else none
    | _ => none
  | 1 =>
    let n := ch / 3
    if s.headCore n != some core then none
    else
      match (s.core n).outq.head? with
      | some (.msg m (.home _ d clu) r held) =>
        let home := d * 256 + clu
        let k := s.clu home
        let ahead := (k.toHost.getD core []).any (fun x => match x with
            | .msg _ => true
            | _ => false) || (k.full.any fun x => x.name == m.name) || k.homeQ.any fun e => match e with
            | .msg x => x.name == m.name
            | _ => false
        if held || !s.released { r with scope := if dieOfCore n = dieOfCore core then r.scope else 3 } || ahead then none
        else
          (k.entryOf m.name).map fun (i, h) =>
            (.msg { m with sender := none }, ((s.popOut n).markSent m).setHearth home i { h with fwd := h.fwd + 1 })
      | some (.carry o) => if s.released o.rel then some (.op o, s.popOut n) else none
      | _ => none
  | _ =>
    match s.dev.ops.findIdx? fun o => o.id == ch / 3 with
    | none => none
    | some i =>
      match s.dev.ops[i]? with
      | some o =>
        if o.owner != core || !s.released o.rel || (s.dev.ops.take i).any (fun x => x.issuer == o.issuer && x.owner == core)
        then none
        else some (.op o, s.setDev { s.dev with ops := s.dev.ops.eraseIdx i })
      | none => none

/-- The oldest thing held back at the input of a core: of those still held back, the one whose channel was held back first
(DESIGN CHOICE, log 30: R244 does not say how age is told between channels). -/
def State.heldInput (s : State) (core : Nat) : List Nat → Option (HeldInput × State)
  | [] => none
  | ch :: rest =>
    match s.heldOn core ch with
    | some (x, s1) => some (x, s1.setCore core ((s1.core core).unblock ch))
    | none => s.heldInput core rest

/-- EMERGENCY_ENTRY (R244): the reserve entry of a core whose token has returned takes the oldest message that is held back
at its input. While arrivals go to the spill queue none enters the inbox (R248). -/
def execEmergencyEntry (c : CoreId) (s : State) : Out :=
  let k := s.core c.ix
  if !k.tokenBack || k.reserveUsed || k.diverting || k.preempted then .next s
  else
    let s0 := s.setCore c.ix { k with tokenBack := false, tokenOut := false }
    match s0.heldInput c.ix k.blocked with
    | some (.msg m, s1) =>
      match s.biasMissing c.ix m with
      | some va => .next (s.askUnit (unitKey c.die.val 21) c.die.val m.part va)
      | none =>
        let d := match (s1.core c.ix).actor m.name with
          | some a => a.desc
          | none => 0
        let (m1, s2) := s1.biasMessage c.ix d { m with reserve := true }
        let (m2, s3) := (s2.countForwarded c.ix m.name).stamped c.ix m1
        .next (s3.inboxPlace c.ix m2)
    | some (.op o, s1) =>
      .next (s1.setCore c.ix { s1.core c.ix with opInbox := (s1.core c.ix).opInbox ++ [{ o with reserve := true }] })
    | none => .next s0

end Sys2Proof.Machine
end

