-- ==== Sys2Proof/Machine/LoadStore.lean ====
section
/-! DEFINITION. The loads and stores of the RISC-V base (07/R137). -/

namespace Sys2Proof.Machine

/-- `lb` (R137). -/
def execLb (rd rs1 : BitVec 5) (imm : BitVec 12) (s : State) : Out :=
  loadForm (wordLb rd rs1 imm) rd rs1 (imm.signExtend 64) 1 (fun _ => .sext) false none s

/-- `lh` (R137). -/
def execLh (rd rs1 : BitVec 5) (imm : BitVec 12) (s : State) : Out :=
  loadForm (wordLh rd rs1 imm) rd rs1 (imm.signExtend 64) 2 (fun _ => .sext) false none s

/-- `lw` (R137). -/
def execLw (rd rs1 : BitVec 5) (imm : BitVec 12) (s : State) : Out :=
  loadForm (wordLw rd rs1 imm) rd rs1 (imm.signExtend 64) 4 (fun _ => .sext) false none s

/-- `ld` (R137). -/
def execLd (rd rs1 : BitVec 5) (imm : BitVec 12) (s : State) : Out :=
  loadForm (wordLd rd rs1 imm) rd rs1 (imm.signExtend 64) 8 (fun _ => .zext) false none s

/-- `lbu` (R137). -/
def execLbu (rd rs1 : BitVec 5) (imm : BitVec 12) (s : State) : Out :=
  loadForm (wordLbu rd rs1 imm) rd rs1 (imm.signExtend 64) 1 (fun _ => .zext) false none s

/-- `lhu` (R137). -/
def execLhu (rd rs1 : BitVec 5) (imm : BitVec 12) (s : State) : Out :=
  loadForm (wordLhu rd rs1 imm) rd rs1 (imm.signExtend 64) 2 (fun _ => .zext) false none s

/-- `lwu` (R137). -/
def execLwu (rd rs1 : BitVec 5) (imm : BitVec 12) (s : State) : Out :=
  loadForm (wordLwu rd rs1 imm) rd rs1 (imm.signExtend 64) 4 (fun _ => .zext) false none s

/-- `sb` (R137). -/
def execSb (rs2 rs1 : BitVec 5) (imm : BitVec 12) (s : State) : Out :=
  storeForm (wordSb rs2 rs1 imm) rs1 rs2 (imm.signExtend 64) 1 {} false s

/-- `sh` (R137). -/
def execSh (rs2 rs1 : BitVec 5) (imm : BitVec 12) (s : State) : Out :=
  storeForm (wordSh rs2 rs1 imm) rs1 rs2 (imm.signExtend 64) 2 {} false s

/-- `sw` (R137). -/
def execSw (rs2 rs1 : BitVec 5) (imm : BitVec 12) (s : State) : Out :=
  storeForm (wordSw rs2 rs1 imm) rs1 rs2 (imm.signExtend 64) 4 {} false s

/-- `sd` (R137). -/
def execSd (rs2 rs1 : BitVec 5) (imm : BitVec 12) (s : State) : Out :=
  storeForm (wordSd rs2 rs1 imm) rs1 rs2 (imm.signExtend 64) 8 {} false s

end Sys2Proof.Machine
end

