-- ==== Sys2Proof/Machine/Carried.lean ====
section
/-! DEFINITION. Carried code at its owner (09/R181; 11/R213). -/

namespace Sys2Proof.Machine

/-- A word of carried code as an instruction of the opcodes that hold admitted forms. -/
def carriedDecode (w : BitVec 32) : Option Instr :=
  match (w.extractLsb' 0 7).toNat with
  | 0x37 => decodeLui w
  | 0x03 => decodeLoad w
  | 0x23 => decodeStore w
  | 0x13 => decodeOpImm w
  | 0x1B => decodeOpImm32 w
  | 0x33 => decodeOp w
  | 0x3B => decodeOp32 w
  | 0x2B => if w.extractLsb' 12 3 = 0#3 then decodeCustom1F0 w else none
  | _ => none

/-- An admitted form of R213 other than `send` and `done`: the registers it names, and its meaning. -/
def carriedForm (i : Instr) : Option (List (BitVec 5) × (State → Out)) :=
  match i with
  | .lui rd imm => some ([rd], execLui rd imm)
  | .add rd rs1 rs2 => some ([rd, rs1, rs2], execAdd rd rs1 rs2)
  | .sub rd rs1 rs2 => some ([rd, rs1, rs2], execSub rd rs1 rs2)
  | .slt rd rs1 rs2 => some ([rd, rs1, rs2], execSlt rd rs1 rs2)
  | .sltu rd rs1 rs2 => some ([rd, rs1, rs2], execSltu rd rs1 rs2)
  | .and rd rs1 rs2 => some ([rd, rs1, rs2], execAnd rd rs1 rs2)
  | .or rd rs1 rs2 => some ([rd, rs1, rs2], execOr rd rs1 rs2)
  | .xor rd rs1 rs2 => some ([rd, rs1, rs2], execXor rd rs1 rs2)
  | .sll rd rs1 rs2 => some ([rd, rs1, rs2], execSll rd rs1 rs2)
  | .srl rd rs1 rs2 => some ([rd, rs1, rs2], execSrl rd rs1 rs2)
  | .sra rd rs1 rs2 => some ([rd, rs1, rs2], execSra rd rs1 rs2)
  | .addw rd rs1 rs2 => some ([rd, rs1, rs2], execAddw rd rs1 rs2)
  | .subw rd rs1 rs2 => some ([rd, rs1, rs2], execSubw rd rs1 rs2)
  | .sllw rd rs1 rs2 => some ([rd, rs1, rs2], execSllw rd rs1 rs2)
  | .srlw rd rs1 rs2 => some ([rd, rs1, rs2], execSrlw rd rs1 rs2)
  | .sraw rd rs1 rs2 => some ([rd, rs1, rs2], execSraw rd rs1 rs2)
  | .addi rd rs1 imm => some ([rd, rs1], execAddi rd rs1 imm)
  | .slti rd rs1 imm => some ([rd, rs1], execSlti rd rs1 imm)
  | .sltiu rd rs1 imm => some ([rd, rs1], execSltiu rd rs1 imm)
  | .andi rd rs1 imm => some ([rd, rs1], execAndi rd rs1 imm)
  | .ori rd rs1 imm => some ([rd, rs1], execOri rd rs1 imm)
  | .xori rd rs1 imm => some ([rd, rs1], execXori rd rs1 imm)
  | .slli rd rs1 sh => some ([rd, rs1], execSlli rd rs1 sh)
  | .srli rd rs1 sh => some ([rd, rs1], execSrli rd rs1 sh)
  | .srai rd rs1 sh => some ([rd, rs1], execSrai rd rs1 sh)
  | .addiw rd rs1 imm => some ([rd, rs1], execAddiw rd rs1 imm)
  | .slliw rd rs1 sh => some ([rd, rs1], execSlliw rd rs1 sh)
  | .srliw rd rs1 sh => some ([rd, rs1], execSrliw rd rs1 sh)
  | .sraiw rd rs1 sh => some ([rd, rs1], execSraiw rd rs1 sh)
  | .lb rd rs1 imm => some ([rd, rs1], execLb rd rs1 imm)
  | .lh rd rs1 imm => some ([rd, rs1], execLh rd rs1 imm)
  | .lw rd rs1 imm => some ([rd, rs1], execLw rd rs1 imm)
  | .ld rd rs1 imm => some ([rd, rs1], execLd rd rs1 imm)
  | .lbu rd rs1 imm => some ([rd, rs1], execLbu rd rs1 imm)
  | .lhu rd rs1 imm => some ([rd, rs1], execLhu rd rs1 imm)
  | .lwu rd rs1 imm => some ([rd, rs1], execLwu rd rs1 imm)
  | .sb rs2 rs1 imm => some ([rs2, rs1], execSb rs2 rs1 imm)
  | .sh rs2 rs1 imm => some ([rs2, rs1], execSh rs2 rs1 imm)
  | .sw rs2 rs1 imm => some ([rs2, rs1], execSw rs2 rs1 imm)
  | .sd rs2 rs1 imm => some ([rs2, rs1], execSd rs2 rs1 imm)
  | _ => none

/-- How a run of carried code ends: at `done`, by the fault of a word, or not yet, while a send waits for room in the
outbound queue, or for the walk of an address by which its home is found. -/
inductive CarriedEnd where
  | finished (s : State)
  | faulted (word : Nat)
  | blocked (walk : Option (BitVec 8 × Nat))

/-- The walk that a `send` of carried code waits for (R380). -/
def State.carriedWalk (s : State) (p : Party) (rs1 rs2 : BitVec 5) : Option (BitVec 8 × Nat) :=
  let c := s.ctx p
  let m := routed c p (capAddr (c.reg rs1)) (capAddr (c.reg rs2)) 0 0 0
  let (d, s1) := s.sendDesc p m
  (s1.homeMissing d m.part m.key).map fun va => (m.part, va)

/-- A word ran: the pc has moved on. -/
def ranOn (p : Party) (before : State) (o : Out) : Option State :=
  match o with
  | .next s => if (s.ctx p).pc != (before.ctx p).pc then some s else none
  | _ => none

/-- The words of carried code from word `i` on, run by the handler context (R213). -/
def runCarried (p : Party) (s : State) (i : Nat) : List (BitVec 32) → CarriedEnd
  | [] => .faulted 6
  | w :: ws =>
    let go (regs : List (BitVec 5)) (f : State → Out) : CarriedEnd :=
      if regs.any fun r => r == 28#5 || r == 29#5 then .faulted i
      else
        match ranOn p s (f s) with
        | some s1 => runCarried p s1 (i + 1) ws
        | none => .faulted i
    match carriedDecode w with
    | some .done => .finished s
    | some (.send rd rs1 rs2) =>
      if 16 ≤ (s.core p.coreIx).outq.length then .blocked none
      else
        match s.carriedWalk p rs1 rs2 with
        | some w => .blocked (some w)
        | none => go [rd, rs1, rs2] (execSend rd rs1 rs2)
    | some x =>
      match carriedForm x with
      | some (regs, f) => go regs f
      | none => .faulted i
    | none => .faulted i

/-- The handler context at the start of carried code (R213). -/
def Ctx.startCarried (c : Ctx) (o : Op) : Ctx :=
  let off := o.addr % 0x20000
  let c1 : Ctx := { c.fresh with partid := o.part, ltag := o.ltag, fdep := o.depth }
  ((c1.setReg 10 (regionCap (permLoad ||| permStore) off 32)).setReg 11 (dataReg (o.pay.extractLsb' 192 64))).setReg 12
    (dataReg (o.pay.extractLsb' 256 64))

/-- CARRIED_CODE_RUN (R213): the carry at the head of a core's inbox, as one Owner step. -/
def execCarriedCodeRun (c : CoreId) (s : State) : Out :=
  let p := Party.handler c
  match s.opHead c.ix with
  | none => .next s
  | some o =>
    if o.kind != .carry || !s.holdsLast c.die.val (span o.addr 32) then .next s
    else
      let words := (List.range 6).map fun i => o.pay.extractLsb' (32 * i) 32
      let s1 := ((s.popOp c.ix).recvUp c.ix o.part o.ltag).mod p fun x => x.startCarried o
      match runCarried p { s1 with cur := p } 0 words with
      | .blocked none => .next s
      | .blocked (some (part, va)) => .next (s.askUnit 0 c.die.val part va)
      | .finished s2 =>
        let v := capAddr ((s2.ctx p).reg 11)
        let s3 := (s2.drainAll p).mod p fun x => { x.fresh with run := .idle }
        .next ({ s3 with cur := s.cur }.replyTo o v none)
      | .faulted i =>
        let s2 := (s.popOp c.ix).recvUp c.ix o.part o.ltag
        if o.reply then .next (s2.replyTo o 0 (some (0x28, BitVec.ofNat 64 i)))
        else
          .next (s2.report c.die.val
            { cause := 0x28, part := o.part, unit := 0, tuple := tupleOfCore c.ix s.dev.num, tval := BitVec.ofNat 64 i })

end Sys2Proof.Machine
end

