-- ==== Sys2Proof/Machine/CopyForm.lean ====
section
/-! DEFINITION. Copy requests at their issue (09/R195, R196, R198, R199, R201; 15/R306). -/

namespace Sys2Proof.Machine

/-- The fields of w0 (R195). -/
def reqOp (w : BitVec 64) : Nat := (w.extractLsb' 0 6).toNat
def reqNotify (w : BitVec 64) : Bool := w.getLsbD 6
def reqStamp (w : BitVec 64) : Bool := w.getLsbD 7
def reqPrefix (w : BitVec 64) : Bool := w.getLsbD 8
def reqOrdred (w : BitVec 64) : Bool := w.getLsbD 9
def reqReplay (w : BitVec 64) : Bool := w.getLsbD 10
def reqPrio (w : BitVec 64) : BitVec 2 := w.extractLsb' 11 2
def reqNport (w : BitVec 64) : BitVec 2 := w.extractLsb' 13 2
def reqTgt (w : BitVec 64) : Bool := w.getLsbD 15
def reqDev (w : BitVec 64) : BitVec 12 := w.extractLsb' 16 12
def reqRtype (w : BitVec 64) : Nat := (w.extractLsb' 28 4).toNat
def reqLen (w : BitVec 64) : Nat := (w.extractLsb' 32 32).toNat

/-- The element size in bytes of a reduction type (R196). -/
def rtypeSize (t : Nat) : Nat :=
  match t with
  | 0 => 4
  | 1 => 8
  | 2 => 2
  | 3 => 4
  | 4 => 8
  | 5 => 4
  | _ => 4

/-- The element size in bytes of a deckle's format, 0 where it gives none (R306). -/
def fmtSize (f : Nat) : Nat :=
  match f with
  | 0 => 1
  | 1 => 1
  | 5 => 1
  | 6 => 2
  | 7 => 2
  | 8 => 4
  | 9 => 8
  | _ => 0

/-- The operations READ and CBFILL have a remote source; WRITE, REDUCE and WRENQ a remote destination (R196). -/
def srcRemote (op : Nat) : Bool := op == 1 || op == 6
def dstRemote (op : Nat) : Bool := op == 2 || op == 3 || op == 4

/-- The tests of w0 that take cause 0x18 (R196, R198). -/
def reqMalformed (w : BitVec 64) (own : BitVec 12) : Bool :=
  let op := reqOp w
  6 < op || (reqRtype w != 0 && op != 3) || (op == 3 && (6 < reqRtype w || reqLen w % rtypeSize (reqRtype w) != 0)) ||
    (reqTgt w && (!reqNotify w || reqStamp w || reqOrdred w || op == 4 || op == 5 || op == 6)) ||
    (reqOrdred w && (op != 3 || reqStamp w)) || (reqStamp w && (op == 4 || op == 5 || op == 6)) ||
    (reqPrefix w && (!(op == 2 || op == 4) || 8192 < reqLen w)) || ((op == 0 || op == 5) && reqDev w != own)

/-- A capability check of a request: a failure names the register (R198). -/
def reqCheck (p : Party) (c : Reg) (r : BitVec 5) (n : Nat) (need : BitVec 11) : Tri Unit :=
  match checkCap p.isSup c (capAddr c).toNat n need false with
  | some (cause, _) => .trap cause (regTval r)
  | none => .val ()

/-- The check of the deckle of a DECKLE copy (R306). -/
def State.deckleCheck (s : State) (p : Party) (c : Reg) (r : BitVec 5) : Tri State :=
  (reqCheck p c r 64 permLoad).bind fun _ =>
  (State.readBytes s s p .r (capAddr c).toNat 64).bind fun (bs, s1) =>
  let d : BitVec 512 := BitVec.ofNat 512 (leNat bs)
  (Tri.ensure ((capAddr c).toNat % 64 == 0 && !dkMalformed d && fmtSize (dkFmt d) != 0) 0x18 0).bind fun _ => .val s1

/-- The checks of a request in the order of R198, its own causes after the capability checks they follow; the state once
the deckle of a DECKLE copy is read. -/
def State.checkRequest (s : State) (p : Party) (xs : BitVec 3) : Tri State :=
  let c := s.ctx p
  let w := capAddr (c.xs xs 0)
  let op := reqOp w
  let n := reqLen w
  let far := reqDev w != s.dev.num
  let src := c.xs xs 1
  let dst := c.xs xs 2
  let w3 := c.xs xs 3
  let a1 := (capAddr src).toNat
  let a2 := (capAddr dst).toNat
  let a3 := (capAddr w3).toNat
  let remote (t : Bool) : BitVec 11 := if far && t then permRemote else 0
  (Tri.ensure (!reqMalformed w s.dev.num) 0x18 0).bind fun _ =>
  (reqCheck p src (xsReg xs 1) n (permLoad ||| permCopy ||| remote (srcRemote op))).bind fun _ =>
  (reqCheck p dst (xsReg xs 2) n (permStore ||| permCopy ||| remote (dstRemote op))).bind fun _ =>
  (Tri.ensure (far || !(decide (a1 < a2 + n) && decide (a2 < a1 + n))) 0x18 0).bind fun _ =>
  (if reqStamp w then
    (reqCheck p w3 (xsReg xs 3) 8 (permStore ||| permCopy ||| remote (dstRemote op))).bind fun _ =>
    Tri.ensure (a3 % 8 == 0) 0x18 0
  else .val ()).bind fun _ =>
  (if reqTgt w then
    (reqCheck p w3 (xsReg xs 3) 16 permLoad).bind fun _ =>
    Tri.ensure (a3 % 16 == 0 && inOwnScratchpad p a3) 0x18 0
  else .val ()).bind fun _ =>
  (if op = 5 then s.deckleCheck p w3 (xsReg xs 3) else .val s).bind fun s1 =>
  (Tri.ensure (!(reqNotify w && !reqTgt w && !p.isSup && c.firing.sheet)) 0x18 0).bind fun _ => .val s1

/-- The request that a form pushes: its words, and what the completion carries (R199, R201). -/
def State.request (s : State) (p : Party) (xs : BitVec 3) (seq : Nat) : Request :=
  let c := s.ctx p
  { issuer := p.ix, core := p.coreIx, seq := seq, w0 := capAddr (c.xs xs 0), src := c.xs xs 1, dst := c.xs xs 2,
    w3 := c.xs xs 3, part := c.sendPart p, ltag := c.sendLtag p, depth := c.sendDepth p, cls := c.kcls, key := c.kkey,
    sup := p.isSup, rel := c.releaseAt p.ix 3 }

/-- The request pushed into the command FIFO with the next sequence number (R199); a completion message to come
counts as one sent item (R233). -/
def State.pushRequest (s : State) (p : Party) (xs : BitVec 3) : Nat × State :=
  let k := s.core p.coreIx
  let r := s.request p xs k.nextSeq
  let s1 := s.setCore p.coreIx { k with fifo := k.fifo ++ [r], nextSeq := k.nextSeq + 1 }
  (k.nextSeq, if reqNotify r.w0 then s1.sentUp p.coreIx r.part r.ltag else s1)

/-- `cpost` (R198, R199): waits while the command FIFO holds eight requests. -/
def execCpost (rd : BitVec 5) (xs : BitVec 3) (s : State) : Out :=
  let p := s.cur
  settleNext s <|
    (s.exePre p (wordCpost rd xs) rd []).bind fun _ =>
    (s.regsReady p (xsRegs xs)).bind fun _ =>
    (s.checkRequest p xs).bind fun s1 =>
    if 8 ≤ (s.core p.coreIx).fifo.length then .stall s
    else
      let (n, s2) := s1.pushRequest p xs
      .val (s2.dest p rd (dataReg (BitVec.ofNat 64 n)))

/-- `cpost.nb` (R199): writes 0 and pushes nothing at a full FIFO. -/
def execCpostNb (rd : BitVec 5) (xs : BitVec 3) (s : State) : Out :=
  let p := s.cur
  settleNext s <|
    (s.exePre p (wordCpostNb rd xs) rd []).bind fun _ =>
    (s.regsReady p (xsRegs xs)).bind fun _ =>
    (s.checkRequest p xs).bind fun s1 =>
    if 8 ≤ (s.core p.coreIx).fifo.length then .val (s1.dest p rd 0)
    else
      let (n, s2) := s1.pushRequest p xs
      .val (s2.dest p rd (dataReg (BitVec.ofNat 64 n)))

/-- The status word of a request of a core (R201): among its 256 most recent numbers, pending until it is done. -/
def Core.statusOf (k : Core) (n : Nat) : BitVec 64 :=
  if 1 ≤ n ∧ n < k.nextSeq ∧ k.nextSeq ≤ n + 256 then k.status.getD n 0 else 3

/-- `cstat` (R201). -/
def execCstat (rd rs1 : BitVec 5) (s : State) : Out :=
  exe1 (wordCstat rd rs1) rd rs1 s fun a s1 =>
    .val (dataReg ((s1.core s.cur.coreIx).statusOf (capAddr a).toNat), s1)

end Sys2Proof.Machine
end

