-- ==== Sys2Proof/Machine/Stream.lean ====
section
/-! DEFINITION. Streams: descriptors, windows, and the four stream forms (13/R254 to R265). -/

namespace Sys2Proof.Machine

/-! ## Descriptors (R254 to R258) -/

def sdDir (d : BitVec 512) : Nat := (d.extractLsb' 0 2).toNat
def sdConv (d : BitVec 512) : Bool := d.getLsbD 2
def sdEsz (d : BitVec 512) : Nat := 2 ^ (d.extractLsb' 3 2).toNat
def sdNdim (d : BitVec 512) : Nat := (d.extractLsb' 5 3).toNat
def sdBase (d : BitVec 512) : Nat := (d.extractLsb' 16 17).toNat
def sdIw (d : BitVec 512) : Nat := (d.extractLsb' 320 16).toNat
def sdIh (d : BitVec 512) : Nat := (d.extractLsb' 336 16).toNat
def sdNimg (d : BitVec 512) : Nat := (d.extractLsb' 352 16).toNat
def sdXoff (d : BitVec 512) : Int := (d.extractLsb' 384 16).toInt
def sdYoff (d : BitVec 512) : Int := (d.extractLsb' 400 16).toInt

/-- The count and stride fields of a dimension as stored. -/
def sdCountField (d : BitVec 512) (i : Nat) : Nat := (d.extractLsb' (64 + 64 * i) 32).toNat
def sdStrideField (d : BitVec 512) (i : Nat) : BitVec 32 := d.extractLsb' (96 + 64 * i) 32

/-- The count and stride of a dimension; one beyond NDIM has count 1 and stride 0 (R254). -/
def sdCount (d : BitVec 512) (i : Nat) : Nat := if i < sdNdim d then sdCountField d i else 1
def sdStride (d : BitVec 512) (i : Nat) : Int := if i < sdNdim d then (sdStrideField d i).toInt else 0

/-- The windows that a stream visits (R255). -/
def sdWindows (d : BitVec 512) : Nat := sdCount d 0 * sdCount d 1 * sdCount d 2 * sdCount d 3

/-- The index of window `n` in a dimension (R255). -/
def sdIndex (d : BitVec 512) (n : Nat) : Nat → Nat
  | 0 => n % sdCount d 0
  | 1 => n / sdCount d 0 % sdCount d 1
  | 2 => n / (sdCount d 0 * sdCount d 1) % sdCount d 2
  | _ => n / (sdCount d 0 * sdCount d 1 * sdCount d 2) % sdCount d 3

/-- The span of a term of the footprint that runs from 0 to `(n - 1) × stride`: its least and greatest. -/
def termLo (n : Nat) (stride : Int) : Int := min 0 (((n : Int) - 1) * stride)
def termHi (n : Nat) (stride : Int) : Int := max 0 (((n : Int) - 1) * stride)

/-- The footprint [lo, hi) (R257). -/
def sdFootprint (d : BitVec 512) : Int × Int :=
  let b : Int := sdBase d
  if sdConv d then
    (b + termLo (sdIh d) (sdStride d 1) + termLo (sdNimg d) (sdStride d 2) + termLo (sdCount d 3) (sdStride d 3),
     b + termHi (sdIw d) (sdEsz d) + termHi (sdIh d) (sdStride d 1) + termHi (sdNimg d) (sdStride d 2) +
       termHi (sdCount d 3) (sdStride d 3) + sdEsz d)
  else
    ([0, 1, 2, 3].foldl (fun (acc : Int) i => acc + termLo (sdCount d i) (sdStride d i)) b,
     [0, 1, 2, 3].foldl (fun (acc : Int) i => acc + termHi (sdCount d i) (sdStride d i)) b + 64)

/-- A descriptor is malformed (R258); its address is tested apart. -/
def sdMalformed (d : BitVec 512) : Bool :=
  let (lo, hi) := sdFootprint d
  sdDir d == 0 || sdNdim d == 0 || 4 < sdNdim d ||
    ([0, 1, 2, 3].any fun i =>
      if i < sdNdim d then sdCountField d i == 0 else sdCountField d i != 0 || sdStrideField d i != 0) ||
    d.extractLsb' 8 8 != 0 || d.extractLsb' 33 31 != 0 || d.extractLsb' 368 16 != 0 || d.extractLsb' 416 96 != 0 ||
    (!sdConv d && (d.extractLsb' 3 2 != 0 || d.extractLsb' 320 48 != 0 || d.extractLsb' 384 32 != 0)) ||
    (sdConv d && (sdDir d != 1 || sdStride d 0 != 0 || sdIw d == 0 || sdIh d == 0 || sdNimg d == 0)) ||
    lo < 0 || 0x20000 < hi

/-! ## Windows -/

/-- The addresses of the 64 bytes of window `n`; none for a byte of a lane that takes the fill value (R255, R256). -/
def sdAddrs (d : BitVec 512) (n : Nat) : List (Option Nat) :=
  let i (k : Nat) : Nat := sdIndex d n k
  if sdConv d then
    let z := sdEsz d
    ((List.range (64 / z)).map fun l =>
      let x : Int := ((i 0 * (64 / z) + l : Nat) : Int) + sdXoff d
      let y : Int := (i 1 : Int) + sdYoff d
      if x < 0 || (sdIw d : Int) ≤ x || y < 0 || (sdIh d : Int) ≤ y || sdNimg d ≤ i 2 then List.replicate z none
      else
        let a : Int := (sdBase d : Int) + i 3 * sdStride d 3 + i 2 * sdStride d 2 + y * sdStride d 1 + x * z
        (span a.toNat z).map some).flatten
  else
    let a : Int := (sdBase d : Int) + i 0 * sdStride d 0 + i 1 * sdStride d 1 + i 2 * sdStride d 2 + i 3 * sdStride d 3
    (span a.toNat 64).map some

/-- A stream register of a party. -/
def Ctx.stream (c : Ctx) (w : Nat) : Stream := c.w.toList.getD w {}

/-- The party with a stream register replaced. -/
def Ctx.setStream (c : Ctx) (w : Nat) (x : Stream) : Ctx := { c with w := c.w.setIfInBounds w x }

/-- Whether a stream is bound, and not exhausted (R262). -/
def Stream.live (x : Stream) : Bool :=
  match x.desc with
  | some d => x.pos < sdWindows d
  | none => false

/-- The DIR of a binding, 0 when unbound (R260). -/
def Stream.dir (x : Stream) : Nat :=
  match x.desc with
  | some d => sdDir d
  | none => 0

/-- The addresses of the window at the current position. -/
def Stream.addrs (x : Stream) : List (Option Nat) :=
  match x.desc with
  | some d => sdAddrs d x.pos
  | none => []

/-- The cause that an access of a window's bytes takes (R384, R386): the access tables, or a poisoned block read. -/
def State.windowFault (s : State) (p : Party) (write : Bool) (addrs : List (Option Nat)) : Option (BitVec 6 × BitVec 64) :=
  match addrs.filterMap id with
  | [] => none
  | a :: rest =>
    if !s.permitted (targetOf (spPlace p.coreIx a)) (s.ctx p).partid 16 (if write then 2 else 1) then
      some (0x13, BitVec.ofNat 64 a)
    else if write then none
    else
      ((a :: rest).find? fun b => s.cell p.die.val (poisonPlace (spPlace p.coreIx b)) != 0#8).map
        fun b => (0x19, BitVec.ofNat 64 (b / 32 * 32))

/-- The places of the bytes of window `n` that lie in memory. -/
def windowPlaces (p : Party) (d : BitVec 512) (n : Nat) : List Nat :=
  ((sdAddrs d n).filterMap id).map fun a => spPlace p.coreIx a

/-- The 32-byte blocks of window `n` that no Load step has read (R261). -/
def Stream.blocksLeft (x : Stream) (p : Party) (d : BitVec 512) (n : Nat) : List Nat :=
  Machine.blocksLeft (x.early.getD n []) (windowPlaces p d n)

/-- The window at the current position once all its blocks are read (R261). OVR counts the fill lanes of a window once, also
when the window is read again (DEDUCED, log 20). -/
def Stream.complete (x : Stream) (p : Party) (d : BitVec 512) : Stream :=
  let addrs := sdAddrs d x.pos
  let got := x.early.getD x.pos []
  let bytes := addrs.map fun a =>
    match a with
    | some a => ((got.find? fun y => y.1 == spPlace p.coreIx a).map (·.2)).getD 0
    | none => 0#8
  let lanes := (addrs.filter fun a => a.isNone).length / sdEsz d
  { x with
    filled := true, used := false, window := BitVec.ofNat 512 (leNat bytes), early := x.early.drop x.pos,
    ovr := if x.ovrAt ≤ x.pos then BitVec.ofNat 32 (min (x.ovr.toNat + lanes) (2 ^ 32 - 1)) else x.ovr,
    ovrAt := max x.ovrAt (x.pos + 1) }

/-- A stream whose window at the current position Load steps have read whole shows it as read (R260). -/
def Stream.settled (x : Stream) (p : Party) : Stream :=
  match x.desc with
  | some d =>
    if x.live && x.dir != 2 && !x.filled && (x.early.find x.pos).isSome && (x.blocksLeft p d x.pos).isEmpty then x.complete p d
    else x
  | none => x

/-- One Load step of window `n` of a stream: one of its blocks not yet read, in any order (R261). -/
def State.fillBlock (s : State) (p : Party) (w : Nat) (d : BitVec 512) (n : Nat) : State :=
  let x := (s.ctx p).stream w
  let add (cells : List (Nat × Byte)) : Stream :=
    ({ x with early := x.early.put n (x.early.getD n [] ++ cells) } : Stream).settled p
  match x.blocksLeft p d n with
  | [] => s.mod p fun c => c.setStream w (add [])
  | bs =>
    let (f, s1) := s.fresh
    s1.mod p fun c => c.setStream w (add (s.blockCells p (windowPlaces p d n) (pickOf f bs)))

/-- The windows of some streams have been read; else a Load step of the first that has not is taken and the form is not
executed (R80, R261). -/
def State.windowsRead (s : State) (p : Party) : List Nat → Tri State
  | [] => .val s
  | w :: ws =>
    let x := (s.ctx p).stream w
    if x.filled then s.windowsRead p ws
    else
      match s.windowFault p false x.addrs, x.desc with
      | some (c, t), _ => .trap c t
      | none, none => s.windowsRead p ws
      | none, some d =>
        if x.blocksLeft p d x.pos = [] then (s.mod p fun c => c.setStream w (x.complete p d)).windowsRead p ws
        else .stall (s.fillBlock p w d x.pos)

/-- STREAM_WINDOW_FILL (R261): a Load step of a window, before any instruction reads it: of the window at the position or
of a later one, as a free value says. -/
def execStreamWindowFill (p : Party) (w : Fin 8) (s : State) : Out :=
  let x := (s.ctx p).stream w.val
  match x.desc with
  | none => .next s
  | some d =>
    if !x.live || x.dir == 2 then .next s
    else
      let (f, s1) := s.fresh
      let n := x.pos + f.toNat % (sdWindows d - x.pos)
      if (n == x.pos && x.filled) || (s.windowFault p false (sdAddrs d n)).isSome then .next s
      else .next (s1.fillBlock p w.val d n)

/-- The stream past the window at its position (R262). -/
def Stream.advance (x : Stream) (p : Party) : Stream :=
  ({ x with pos := x.pos + 1, filled := false, used := false, window := 0, early := x.early.drop x.pos } : Stream).settled p

/-- A window of an OUT or INOUT stream written, and the stream advanced: one Store step for each 32-byte block that
holds a written byte (R261). -/
def State.writeWindow (s : State) (p : Party) (w : Nat) (bytes : List (Option Byte)) : State :=
  let x := (s.ctx p).stream w
  let cells := (x.addrs.zip bytes).filterMap fun (a, b) =>
    match a, b with
    | some a, some b => some (spPlace p.coreIx a, b)
    | _, _ => none
  (s.storeCells p { stream := some (BitVec.ofNat 3 w) } cells).mod p fun c => c.setStream w ((c.stream w).advance p)

/-- The cause of naming a stream (R80, R262): an exhausted stream counts as unbound. -/
def Ctx.streamCause (c : Ctx) (w : Nat) (read write : Bool) : Option (BitVec 6 × BitVec 64) :=
  let x := c.stream w
  if !x.live then some (0x0E, 0)
  else if (read && x.dir == 2) || (write && x.dir == 1) then some (0x0D, 0)
  else none

/-! ## The stream forms -/

/-- The permissions of a direction (R259). -/
def dirPerms (dir : Nat) : BitVec 11 :=
  (if dir % 2 = 1 then permLoad else 0) ||| (if dir / 2 = 1 then permStore else 0)

/-- A party's stream bound to a descriptor, or unbound with ERR where it is malformed (R259). Stores that an
earlier binding made are no longer the stream's. -/
def Ctx.bindStream (c : Ctx) (w : Nat) (x : Stream) : Ctx :=
  let free (e : StoreEntry) : StoreEntry := if e.stream == some (BitVec.ofNat 3 w) then { e with stream := none } else e
  { c.setStream w x with
    sb := c.sb.map free
    acc := c.acc.map fun i =>
      match i with
      | .store e => .store (free e)
      | i => i }

/-- A Store step of a stream's windows is left: in the store buffer, or with the access half (R263). -/
def Ctx.streamStores (c : Ctx) (w : BitVec 3) : Bool :=
  (c.sb.any fun e => e.stream == some w) ||
    c.acc.any fun i =>
      match i with
      | .store e => e.stream == some w
      | _ => false

/-- `wbind` (R259). -/
def execWbind (wd : BitVec 3) (rs1 : BitVec 5) (s : State) : Out :=
  let p := s.cur
  let w := wordWbind wd rs1
  settleNext s <|
    (s.exePre p w 0 [rs1]).bind fun _ =>
    (needUnit p w).bind fun _ =>
    (s.src p rs1).bind fun (c, s1) =>
    let a := (capAddr c).toNat
    (Tri.unless (checkCap p.isSup c a 64 permLoad false)).bind fun _ =>
    (State.readBytes s s1 p .r a 64).bind fun (bs, s1) =>
    let d : BitVec 512 := BitVec.ofNat 512 (leNat bs)
    if a % 64 != 0 || sdMalformed d then .val (s1.mod p fun x => x.bindStream wd.toNat { err := true })
    else
      let (lo, hi) := sdFootprint d
      (Tri.unless (checkCap p.isSup c lo.toNat (hi - lo).toNat (dirPerms (sdDir d)) false)).bind fun _ =>
      .val (s1.mod p fun x => x.bindStream wd.toNat { desc := some d })

/-- The status word of a stream (R260). -/
def Stream.status (x : Stream) : BitVec 64 :=
  match x.desc with
  | none => 0#59 ++ BitVec.ofBool x.err ++ 0#4
  | some d =>
    x.ovr ++ BitVec.ofNat 24 x.pos ++ 0#1 ++ BitVec.ofBool x.filled ++ BitVec.ofBool (sdConv d) ++ BitVec.ofBool x.err ++
      BitVec.ofBool (!x.live) ++ BitVec.ofNat 2 (sdDir d) ++ 1#1

/-- `wstat` (R260). -/
def execWstat (rd : BitVec 5) (ws : BitVec 3) (s : State) : Out :=
  let w := wordWstat rd ws
  exe0 w rd s fun s1 =>
    (needUnit s.cur w).bind fun _ => .val (dataReg ((s1.ctx s.cur).stream ws.toNat).status, s1)

/-- `wdrain` (R263). -/
def execWdrain (wd : BitVec 3) (s : State) : Out :=
  let p := s.cur
  let w := wordWdrain wd
  settleNext s <|
    (s.exePre p w 0 []).bind fun _ =>
    (needUnit p w).bind fun _ =>
    let c := s.ctx p
    let x := c.stream wd.toNat
    if x.desc.isNone then .trap 0x0E 0
    else if x.dir ≥ 2 && c.streamStores wd then .stall s
    else if x.dir != 2 && x.live then
      .val (s.setCtx p (c.setStream wd.toNat { x with filled := false, used := false, window := 0, early := [] }))
    else .val s

/-- `wunbind` (R264). -/
def execWunbind (wd : BitVec 3) (s : State) : Out :=
  let p := s.cur
  let w := wordWunbind wd
  settleNext s <|
    (s.exePre p w 0 []).bind fun _ =>
    (needUnit p w).bind fun _ =>
    let x := (s.ctx p).stream wd.toNat
    if x.desc.isNone then .val s else .val (s.mod p fun c => c.bindStream wd.toNat { err := x.err })

end Sys2Proof.Machine
end

