-- ==== Sys2Proof/Machine/Vector.lean ====
section
/-! DEFINITION. The vector forms (13/R266 to R275; 05/R124 to R128). The effect of each form is apart from the pc, so
that `rep` runs the same effect (07/R155). -/

namespace Sys2Proof.Machine

/-! ## Operands (03/R78, R80; 13/R266) -/

/-- The lanes of a 512-bit value, `b` bits each (R78). -/
def lanesOf (b : Nat) (v : BitVec 512) : List Nat := (List.range (512 / b)).map fun l => v.toNat / 2 ^ (b * l) % 2 ^ b

/-- The 512-bit value of some lanes. -/
def packLanes (b : Nat) : List Nat → Nat
  | [] => 0
  | c :: cs => c + 2 ^ b * packLanes b cs

/-- The second operand: absent, a vector or stream, or an x register for every lane (R65). -/
inductive VSrc where
  | none | vec (n : BitVec 4) | scalar (r : BitVec 5)
  deriving DecidableEq, Repr

/-- The second operand that the fields src2 and sx name. -/
def vsrc (src2 : BitVec 5) (sx : BitVec 1) : VSrc := if sx = 1#1 then .scalar src2 else .vec (src2.setWidth 4)

/-- The x registers of a second operand. -/
def VSrc.regs : VSrc → List (BitVec 5)
  | .scalar r => [r]
  | _ => []

/-- The operand fields of a vector form. -/
structure VUse where
  va : Option (BitVec 4) := none
  b : VSrc := .none
  vd : Option (BitVec 4) := none
  /-- vd is read as well as written -/
  readVd : Bool := false
  deriving DecidableEq, Repr

/-- The stream that a namespace number names (R80). -/
def nsStream (n : BitVec 4) : Option Nat := if n.toNat < 8 then some n.toNat else none

/-- The streams that a form reads, in field order. -/
def VUse.reads (u : VUse) : List Nat :=
  distinct ((u.va.bind nsStream).toList ++
    (match u.b with
      | .vec n => (nsStream n).toList
      | _ => []) ++
    (if u.readVd then (u.vd.bind nsStream).toList else []))

/-- Whether a form reads or writes the window of a stream (R261). -/
def VUse.streams (u : VUse) : Bool := u.reads != [] || (u.vd.bind nsStream).isSome

/-- The value of a namespace number: a vector register, or the window read (R80). -/
def Ctx.vecVal (c : Ctx) (n : BitVec 4) : BitVec 512 :=
  match nsStream n with
  | some w => (c.stream w).window
  | none => c.v.toList.getD (n.toNat - 8) 0

/-- The cause of naming a field, if any. -/
def Ctx.fieldCause (c : Ctx) (n : BitVec 4) (read write : Bool) : Option (BitVec 6 × BitVec 64) :=
  match nsStream n with
  | some w => c.streamCause w read write
  | none => none

/-- What a form reads: the values of va, src2 and vd, src2 being the same value in every lane when `scalar`. -/
structure VIn where
  a : BitVec 512 := 0
  b : BitVec 512 := 0
  x : BitVec 64 := 0
  scalar : Bool := false
  c : BitVec 512 := 0
  deriving DecidableEq, Repr

/-- The lanes of the second operand (R266). -/
def VIn.bLanes (i : VIn) (bits : Nat) : List Nat :=
  if i.scalar then List.replicate (512 / bits) (i.x.toNat % 2 ^ bits) else lanesOf bits i.b

/-- The streams that a form has read go on: IN streams advance, INOUT streams when they are written (R80). -/
def Ctx.afterReads (c : Ctx) (p : Party) (ws : List Nat) : Ctx :=
  ws.foldl (fun c w =>
    let x := c.stream w
    c.setStream w (if x.dir == 1 then x.advance p else { x with used := true })) c

/-- The second operand: the value of a scalar operand, and the state after the pop of x28. -/
def State.vecSrc2 (s : State) (p : Party) : VSrc → Tri (Reg × State)
  | .none => .val (0, s)
  | .vec n => (Tri.unless ((s.ctx p).fieldCause n true false)).bind fun _ => .val (0, s)
  | .scalar r => s.src p r

/-- The operands of a vector form read, in the order of R90, with the state after the pop of x28. -/
def State.vecRead (s : State) (p : Party) (w : BitVec 32) (u : VUse) : Tri (VIn × State) :=
  (needUnit p w).bind fun _ =>
  (s.exePre p w 0 u.b.regs).bind fun _ =>
  (Tri.unless (u.va.bind fun n => (s.ctx p).fieldCause n true false)).bind fun _ =>
  (s.vecSrc2 p u.b).bind fun (x, s1) =>
  (Tri.unless (u.vd.bind fun n => (s.ctx p).fieldCause n u.readVd true)).bind fun _ =>
  (if u.streams then s.syncPoint p else .val ()).bind fun _ =>
  (s.windowsRead p u.reads).bind fun s0 =>
  (Tri.unless (u.vd.bind fun n => (nsStream n).bind fun k =>
    s.windowFault p true ((s.ctx p).stream k).addrs)).bind fun _ =>
  let c := s0.ctx p
  let i : VIn :=
    { a := (u.va.map c.vecVal).getD 0, x := capAddr x,
      b := (match u.b with
        | .vec n => c.vecVal n
        | _ => 0),
      scalar := (match u.b with
        | .scalar _ => true
        | _ => false),
      c := if u.readVd then (u.vd.map c.vecVal).getD 0 else 0 }
  .val (i, s1.mod p fun x => { x with w := c.w }.afterReads p u.reads)

/-- The lanes of a destination written: none is a lane that is not written (R267). -/
def State.vecWrite (s : State) (p : Party) (n : BitVec 4) (bits : Nat) (out : List (Option Nat)) : State :=
  match nsStream n with
  | some w =>
    s.writeWindow p w ((out.map fun o =>
      match o with
      | some c => (leBytes c (bits / 8)).map some
      | none => List.replicate (bits / 8) none).flatten)
  | none =>
    s.mod p fun c =>
      let i := n.toNat - 8
      let old := lanesOf bits (c.v.toList.getD i 0)
      let new := (old.zip out).map fun (x, o) => o.getD x
      { c with v := c.v.setIfInBounds i (BitVec.ofNat 512 (packLanes bits new)) }

/-- Whether the mask field lets lane `l` be written (R267). -/
def Ctx.maskOn (c : Ctx) (mask : BitVec 2) (l : Nat) : Bool := mask = 0 || (c.k.toList.getD mask.toNat 0).getLsbD l

/-! ## Elements (R268, R269) -/

/-- A float or an integer result of an exact value (R268). -/
def Ty.put (t : Ty) (sat : Bool) (f : Num → Num → Num) (g : Int → Int → Int) (a b : Nat) : Nat :=
  match t with
  | .f h => h.put sat (f (h.num a) (h.num b))
  | .i n =>
    let v := g (sInt n a) (sInt n b)
    sCode n (if sat then clampTo n v else v)

/-- Addition, subtraction and multiplication (R269). -/
def elemAdd (t : Ty) (sat : Bool) (a b : Nat) : Nat := t.put sat Num.add (fun x y => x + y) a b
def elemSub (t : Ty) (sat : Bool) (a b : Nat) : Nat := t.put sat (fun x y => x.add y.negate) (fun x y => x - y) a b
def elemMul (t : Ty) (sat : Bool) (a b : Nat) : Nat := t.put sat Num.mul (fun x y => x * y) a b

/-- `vfma` and `vfms`: one rounding (R269). -/
def elemFma (t : Ty) (sat : Bool) (a b c : Nat) : Nat :=
  match t with
  | .f h => h.put sat (((h.num a).mul (h.num b)).add (h.num c))
  | .i n => sCode n (sInt n a * sInt n b + sInt n c)
def elemFms (t : Ty) (sat : Bool) (a b c : Nat) : Nat :=
  match t with
  | .f h => h.put sat (((h.num a).mul (h.num b)).add (h.num c).negate)
  | .i n => sCode n (sInt n a * sInt n b - sInt n c)

/-- The larger and the smaller (R269). -/
def elemMinMax (isMax : Bool) (t : Ty) (a b : Nat) : Nat :=
  match t with
  | .f h =>
    if h.isNan a || h.isNan b then h.nan else if h.below a b != isMax then a else b
  | .i n => if decide (sInt n a < sInt n b) != isMax then a else b

/-- `vabs` and `vneg` (R269). -/
def elemAbs (t : Ty) (sat : Bool) (a : Nat) : Nat :=
  match t with
  | .f h => h.mag a
  | .i n =>
    let v : Int := (sInt n a).natAbs
    sCode n (if sat then clampTo n v else v)
def elemNeg (t : Ty) (sat : Bool) (a : Nat) : Nat :=
  match t with
  | .f h => h.flip a
  | .i n => sCode n (if sat then clampTo n (-(sInt n a)) else -(sInt n a))

/-- `vclamp` (R269). -/
def elemClamp (t : Ty) (a b : Nat) : Nat :=
  match t with
  | .f h =>
    if h.isNan a || h.isNan b then h.nan
    else
      let lo := h.flip b
      let m := if h.below a lo then lo else a
      if h.below b m then b else m
  | .i n => sCode n (min (max (sInt n a) (-(sInt n b))) (sInt n b))

/-- `vshl` and `vshr` (R269). -/
def elemShl (t : Ty) (sat : Bool) (a b : Nat) : Nat :=
  let n := t.bits
  let s := b % n
  if sat then sCode n (clampTo n (sInt n a * (2 ^ s : Nat))) else a * 2 ^ s % 2 ^ n
def elemShr (t : Ty) (rnd : Bool) (a b : Nat) : Nat :=
  let n := t.bits
  let s := b % n
  if !rnd then a / 2 ^ s
  else if s = 0 then a
  else sCode n ((sInt n a + (2 ^ (s - 1) : Nat)).fdiv ((2 ^ s : Nat) : Int))

/-- The relations of `vcmp` (R271): 0 eq, 1 lt, 2 le. -/
def elemCompare (kind : Nat) (t : Ty) (a b : Nat) : Bool :=
  let (lt, eq) := match t with
    | .f h => ((h.num a).lt (h.num b), (h.num a).eq (h.num b))
    | .i n => (decide (sInt n a < sInt n b), a == b)
  match kind with
  | 0 => eq
  | 1 => lt
  | _ => lt || eq

/-! ## Forms over lanes -/

/-- A custom-2 form that computes each written lane from the lanes of a, b and c. -/
def vecForm (w : BitVec 32) (t : Ty) (u : VUse) (vd : BitVec 4) (mask : BitVec 2) (f : Nat → Nat → Nat → Nat)
    (s : State) : Tri State :=
  let p := s.cur
  let bits := t.bits
  let c := s.ctx p
  (s.vecRead p w { u with vd := some vd }).bind fun (i, s1) =>
  let ls := ((lanesOf bits i.a).zip (i.bLanes bits)).zip (lanesOf bits i.c)
  .val (s1.vecWrite p vd bits ((List.range (512 / bits)).zip ls |>.map fun (l, (a, b), x) =>
    if c.maskOn mask l then some (f a b x) else none))

/-- A form of two operands. -/
def vec2 (w : BitVec 32) (ty : BitVec 3) (src2 : BitVec 5) (va : BitVec 4) (sx : BitVec 1) (mask : BitVec 2)
    (vd : BitVec 4) (f : Ty → Nat → Nat → Nat) (s : State) : Tri State :=
  vecForm w (tyOf ty) { va := some va, b := vsrc src2 sx } vd mask (fun a b _ => f (tyOf ty) a b) s

/-- A form that reads vd as well. -/
def vec3 (w : BitVec 32) (ty : BitVec 3) (src2 : BitVec 5) (va : BitVec 4) (sx : BitVec 1) (mask : BitVec 2)
    (vd : BitVec 4) (f : Ty → Nat → Nat → Nat → Nat) (s : State) : Tri State :=
  vecForm w (tyOf ty) { va := some va, b := vsrc src2 sx, readVd := true } vd mask (f (tyOf ty)) s

/-- A unary form. -/
def vec1 (w : BitVec 32) (ty : BitVec 3) (va : BitVec 4) (mask : BitVec 2) (vd : BitVec 4) (f : Ty → Nat → Nat)
    (s : State) : Tri State :=
  vecForm w (tyOf ty) { va := some va } vd mask (fun a _ _ => f (tyOf ty) a) s

/-- `vcvt` (R270). -/
def vecConvert (w : BitVec 32) (ty sty : BitVec 3) (va : BitVec 4) (mask : BitVec 2) (vd : BitVec 4) (sat : Bool)
    (s : State) : Tri State :=
  let p := s.cur
  let c := s.ctx p
  let d := tyOf ty
  let t := tyOf sty
  (s.vecRead p w { va := some va, vd := some vd }).bind fun (i, s1) =>
  let ls := lanesOf t.bits i.a
  .val (s1.vecWrite p vd d.bits ((List.range (512 / d.bits)).map fun l =>
    if c.maskOn mask l then (ls[l]?).map (convertElem t d sat) else none))

/-- A reduction's fixed tree (R124): each step pairs lane l with lane l + h. -/
def redTree (op : Nat → Nat → Nat) : Nat → List Nat → List Nat
  | 0, t => t
  | n + 1, t =>
    let h := t.length / 2
    if h = 0 then t else redTree op n (((t.take h).zip (t.drop h)).map fun (x, y) => op x y)

/-- A reduction (R273): lane 0 receives the result, every other lane zero bits. -/
def vecReduce (w : BitVec 32) (ty : BitVec 3) (va : BitVec 4) (mask : BitVec 2) (vd : BitVec 4)
    (op : Ty → Nat → Nat → Nat) (ident : Ty → Nat) (s : State) : Tri State :=
  let p := s.cur
  let c := s.ctx p
  let t := tyOf ty
  (s.vecRead p w { va := some va, vd := some vd }).bind fun (i, s1) =>
  let ls := (List.range (512 / t.bits)).zip (lanesOf t.bits i.a) |>.map fun (l, a) =>
    if c.maskOn mask l then a else ident t
  let r := (redTree (op t) 6 ls).headD 0
  .val (s1.vecWrite p vd t.bits (some r :: List.replicate (512 / t.bits - 1) (some 0)))

/-- The identities of R124. -/
def identSum (t : Ty) : Nat :=
  match t with
  | .f h => h.signBit
  | .i _ => 0
def identMax (t : Ty) : Nat :=
  match t with
  | .f h => h.code true h.infMag
  | .i n => 2 ^ (n - 1)
def identMin (t : Ty) : Nat :=
  match t with
  | .f h => h.infMag
  | .i n => 2 ^ (n - 1) - 1

/-- A comparison into a mask (R271): bits of lanes that the mask turns off, and bits beyond the lanes, are 0. -/
def vecCompare (w : BitVec 32) (kind : Nat) (ty : BitVec 3) (src2 : BitVec 5) (va : BitVec 4) (sx : BitVec 1)
    (mask kd : BitVec 2) (s : State) : Tri State :=
  let p := s.cur
  let c := s.ctx p
  let t := tyOf ty
  (s.vecRead p w { va := some va, b := vsrc src2 sx }).bind fun (i, s1) =>
  let bs := (List.range (512 / t.bits)).zip ((lanesOf t.bits i.a).zip (i.bLanes t.bits)) |>.map fun (l, a, b) =>
    if c.maskOn mask l && elemCompare kind t a b then 1 else 0
  .val (s1.mod p fun x => { x with k := x.k.setIfInBounds kd.toNat (BitVec.ofNat 64 (packLanes 1 bs)) })

/-- `vsel` (R272): every lane is written. -/
def vecSelect (w : BitVec 32) (ty : BitVec 3) (src2 : BitVec 5) (va : BitVec 4) (sx : BitVec 1) (ksel : BitVec 2)
    (vd : BitVec 4) (s : State) : Tri State :=
  let p := s.cur
  let k := (s.ctx p).k.toList.getD ksel.toNat 0
  let t := tyOf ty
  (s.vecRead p w { va := some va, b := vsrc src2 sx, vd := some vd }).bind fun (i, s1) =>
  .val (s1.vecWrite p vd t.bits ((List.range (512 / t.bits)).zip ((lanesOf t.bits i.a).zip (i.bLanes t.bits)) |>.map
    fun (l, a, b) => some (if k.getLsbD l then b else a)))

/-- The immediate value of lane `l` (R66, R116). -/
def immLane (ty : BitVec 3) (imm : BitVec 16) (l : Nat) : Nat :=
  match ty.toNat with
  | 0 => convertElem (.f fmtBf16) (.f fmtF32) false imm.toNat
  | 7 => convertElem (.f fmtBf16) (.f fmtF64) false imm.toNat
  | 1 => imm.toNat
  | 2 => imm.toNat
  | 5 => (imm.signExtend 32).toNat
  | _ => if l % 2 = 0 then imm.toNat % 256 else imm.toNat / 256

/-- A custom-3 form (R275): every lane is written. -/
def vecImm (w : BitVec 32) (imm : BitVec 16) (ty : BitVec 3) (vd : BitVec 4) (readVd : Bool) (f : Ty → Nat → Nat → Nat)
    (s : State) : Tri State :=
  let p := s.cur
  let t := tyOf ty
  (s.vecRead p w { vd := some vd, readVd := readVd }).bind fun (i, s1) =>
  .val (s1.vecWrite p vd t.bits ((List.range (512 / t.bits)).zip (lanesOf t.bits i.c) |>.map fun (l, c) =>
    some (f t c (immLane ty imm l))))

/-- Bit 7 of a form as a truth value. -/
def satOn (sat : BitVec 1) : Bool := sat == 1#1

/-- The functions of R125 on an element: 0 `vrcp`, 1 `vrsq`, 2 `vexp2`. -/
def elemFun (kind : Nat) (t : Ty) (a : Nat) : Nat :=
  match t with
  | .f h => elemFunction kind h a
  | .i _ => a

/-! ## The forms -/

/-- The effect of `vadd` (R269). -/
def vadd (ty : BitVec 3) (src2 : BitVec 5) (va : BitVec 4) (sx : BitVec 1) (mask : BitVec 2) (vd : BitVec 4) (sat : BitVec 1) (s : State) : Tri State :=
  vec2 (wordVadd ty src2 va sx mask vd sat) ty src2 va sx mask vd (fun t => elemAdd t (satOn sat)) s

/-- `vadd` (R269). -/
def execVadd (ty : BitVec 3) (src2 : BitVec 5) (va : BitVec 4) (sx : BitVec 1) (mask : BitVec 2) (vd : BitVec 4) (sat : BitVec 1) (s : State) : Out :=
  settleNext s (vadd ty src2 va sx mask vd sat s)

/-- The effect of `vsub` (R269). -/
def vsub (ty : BitVec 3) (src2 : BitVec 5) (va : BitVec 4) (sx : BitVec 1) (mask : BitVec 2) (vd : BitVec 4) (sat : BitVec 1) (s : State) : Tri State :=
  vec2 (wordVsub ty src2 va sx mask vd sat) ty src2 va sx mask vd (fun t => elemSub t (satOn sat)) s

/-- `vsub` (R269). -/
def execVsub (ty : BitVec 3) (src2 : BitVec 5) (va : BitVec 4) (sx : BitVec 1) (mask : BitVec 2) (vd : BitVec 4) (sat : BitVec 1) (s : State) : Out :=
  settleNext s (vsub ty src2 va sx mask vd sat s)

/-- The effect of `vmul` (R269). -/
def vmul (ty : BitVec 3) (src2 : BitVec 5) (va : BitVec 4) (sx : BitVec 1) (mask : BitVec 2) (vd : BitVec 4) (sat : BitVec 1) (s : State) : Tri State :=
  vec2 (wordVmul ty src2 va sx mask vd sat) ty src2 va sx mask vd (fun t => elemMul t (satOn sat)) s

/-- `vmul` (R269). -/
def execVmul (ty : BitVec 3) (src2 : BitVec 5) (va : BitVec 4) (sx : BitVec 1) (mask : BitVec 2) (vd : BitVec 4) (sat : BitVec 1) (s : State) : Out :=
  settleNext s (vmul ty src2 va sx mask vd sat s)

/-- The effect of `vfma` (R269). -/
def vfma (ty : BitVec 3) (src2 : BitVec 5) (va : BitVec 4) (sx : BitVec 1) (mask : BitVec 2) (vd : BitVec 4) (sat : BitVec 1) (s : State) : Tri State :=
  vec3 (wordVfma ty src2 va sx mask vd sat) ty src2 va sx mask vd (fun t => elemFma t (satOn sat)) s

/-- `vfma` (R269). -/
def execVfma (ty : BitVec 3) (src2 : BitVec 5) (va : BitVec 4) (sx : BitVec 1) (mask : BitVec 2) (vd : BitVec 4) (sat : BitVec 1) (s : State) : Out :=
  settleNext s (vfma ty src2 va sx mask vd sat s)

/-- The effect of `vfms` (R269). -/
def vfms (ty : BitVec 3) (src2 : BitVec 5) (va : BitVec 4) (sx : BitVec 1) (mask : BitVec 2) (vd : BitVec 4) (sat : BitVec 1) (s : State) : Tri State :=
  vec3 (wordVfms ty src2 va sx mask vd sat) ty src2 va sx mask vd (fun t => elemFms t (satOn sat)) s

/-- `vfms` (R269). -/
def execVfms (ty : BitVec 3) (src2 : BitVec 5) (va : BitVec 4) (sx : BitVec 1) (mask : BitVec 2) (vd : BitVec 4) (sat : BitVec 1) (s : State) : Out :=
  settleNext s (vfms ty src2 va sx mask vd sat s)

/-- The effect of `vmax` (R269). -/
def vmax (ty : BitVec 3) (src2 : BitVec 5) (va : BitVec 4) (sx : BitVec 1) (mask : BitVec 2) (vd : BitVec 4) (s : State) : Tri State :=
  vec2 (wordVmax ty src2 va sx mask vd) ty src2 va sx mask vd (elemMinMax true) s

/-- `vmax` (R269). -/
def execVmax (ty : BitVec 3) (src2 : BitVec 5) (va : BitVec 4) (sx : BitVec 1) (mask : BitVec 2) (vd : BitVec 4) (s : State) : Out :=
  settleNext s (vmax ty src2 va sx mask vd s)

/-- The effect of `vmin` (R269). -/
def vmin (ty : BitVec 3) (src2 : BitVec 5) (va : BitVec 4) (sx : BitVec 1) (mask : BitVec 2) (vd : BitVec 4) (s : State) : Tri State :=
  vec2 (wordVmin ty src2 va sx mask vd) ty src2 va sx mask vd (elemMinMax false) s

/-- `vmin` (R269). -/
def execVmin (ty : BitVec 3) (src2 : BitVec 5) (va : BitVec 4) (sx : BitVec 1) (mask : BitVec 2) (vd : BitVec 4) (s : State) : Out :=
  settleNext s (vmin ty src2 va sx mask vd s)

/-- The effect of `vabs` (R269). -/
def vabs (ty : BitVec 3) (va : BitVec 4) (mask : BitVec 2) (vd : BitVec 4) (sat : BitVec 1) (s : State) : Tri State :=
  vec1 (wordVabs ty va mask vd sat) ty va mask vd (fun t => elemAbs t (satOn sat)) s

/-- `vabs` (R269). -/
def execVabs (ty : BitVec 3) (va : BitVec 4) (mask : BitVec 2) (vd : BitVec 4) (sat : BitVec 1) (s : State) : Out :=
  settleNext s (vabs ty va mask vd sat s)

/-- The effect of `vneg` (R269). -/
def vneg (ty : BitVec 3) (va : BitVec 4) (mask : BitVec 2) (vd : BitVec 4) (sat : BitVec 1) (s : State) : Tri State :=
  vec1 (wordVneg ty va mask vd sat) ty va mask vd (fun t => elemNeg t (satOn sat)) s

/-- `vneg` (R269). -/
def execVneg (ty : BitVec 3) (va : BitVec 4) (mask : BitVec 2) (vd : BitVec 4) (sat : BitVec 1) (s : State) : Out :=
  settleNext s (vneg ty va mask vd sat s)

/-- The effect of `vclamp` (R269). -/
def vclamp (ty : BitVec 3) (src2 : BitVec 5) (va : BitVec 4) (sx : BitVec 1) (mask : BitVec 2) (vd : BitVec 4) (s : State) : Tri State :=
  vec2 (wordVclamp ty src2 va sx mask vd) ty src2 va sx mask vd elemClamp s

/-- `vclamp` (R269). -/
def execVclamp (ty : BitVec 3) (src2 : BitVec 5) (va : BitVec 4) (sx : BitVec 1) (mask : BitVec 2) (vd : BitVec 4) (s : State) : Out :=
  settleNext s (vclamp ty src2 va sx mask vd s)

/-- The effect of `vcvt` (R270). -/
def vcvt (ty : BitVec 3) (sty : BitVec 3) (va : BitVec 4) (mask : BitVec 2) (vd : BitVec 4) (sat : BitVec 1) (s : State) : Tri State :=
  vecConvert (wordVcvt ty sty va mask vd sat) ty sty va mask vd (satOn sat) s

/-- `vcvt` (R270). -/
def execVcvt (ty : BitVec 3) (sty : BitVec 3) (va : BitVec 4) (mask : BitVec 2) (vd : BitVec 4) (sat : BitVec 1) (s : State) : Out :=
  settleNext s (vcvt ty sty va mask vd sat s)

/-- The effect of `vrcp` (R126, R274). -/
def vrcp (ty : BitVec 3) (va : BitVec 4) (mask : BitVec 2) (vd : BitVec 4) (s : State) : Tri State :=
  vec1 (wordVrcp ty va mask vd) ty va mask vd (fun t => elemFun 0 t) s

/-- `vrcp` (R126, R274). -/
def execVrcp (ty : BitVec 3) (va : BitVec 4) (mask : BitVec 2) (vd : BitVec 4) (s : State) : Out :=
  settleNext s (vrcp ty va mask vd s)

/-- The effect of `vrsq` (R127, R274). -/
def vrsq (ty : BitVec 3) (va : BitVec 4) (mask : BitVec 2) (vd : BitVec 4) (s : State) : Tri State :=
  vec1 (wordVrsq ty va mask vd) ty va mask vd (fun t => elemFun 1 t) s

/-- `vrsq` (R127, R274). -/
def execVrsq (ty : BitVec 3) (va : BitVec 4) (mask : BitVec 2) (vd : BitVec 4) (s : State) : Out :=
  settleNext s (vrsq ty va mask vd s)

/-- The effect of `vexp2` (R128, R274). -/
def vexp2 (ty : BitVec 3) (va : BitVec 4) (mask : BitVec 2) (vd : BitVec 4) (s : State) : Tri State :=
  vec1 (wordVexp2 ty va mask vd) ty va mask vd (fun t => elemFun 2 t) s

/-- `vexp2` (R128, R274). -/
def execVexp2 (ty : BitVec 3) (va : BitVec 4) (mask : BitVec 2) (vd : BitVec 4) (s : State) : Out :=
  settleNext s (vexp2 ty va mask vd s)

/-- The effect of `vred.sum` (R273). -/
def vredSum (ty : BitVec 3) (va : BitVec 4) (mask : BitVec 2) (vd : BitVec 4) (sat : BitVec 1) (s : State) : Tri State :=
  vecReduce (wordVredSum ty va mask vd sat) ty va mask vd (fun t => elemAdd t (satOn sat)) identSum s

/-- `vred.sum` (R273). -/
def execVredSum (ty : BitVec 3) (va : BitVec 4) (mask : BitVec 2) (vd : BitVec 4) (sat : BitVec 1) (s : State) : Out :=
  settleNext s (vredSum ty va mask vd sat s)

/-- The effect of `vred.max` (R273). -/
def vredMax (ty : BitVec 3) (va : BitVec 4) (mask : BitVec 2) (vd : BitVec 4) (s : State) : Tri State :=
  vecReduce (wordVredMax ty va mask vd) ty va mask vd (elemMinMax true) identMax s

/-- `vred.max` (R273). -/
def execVredMax (ty : BitVec 3) (va : BitVec 4) (mask : BitVec 2) (vd : BitVec 4) (s : State) : Out :=
  settleNext s (vredMax ty va mask vd s)

/-- The effect of `vred.min` (R273). -/
def vredMin (ty : BitVec 3) (va : BitVec 4) (mask : BitVec 2) (vd : BitVec 4) (s : State) : Tri State :=
  vecReduce (wordVredMin ty va mask vd) ty va mask vd (elemMinMax false) identMin s

/-- `vred.min` (R273). -/
def execVredMin (ty : BitVec 3) (va : BitVec 4) (mask : BitVec 2) (vd : BitVec 4) (s : State) : Out :=
  settleNext s (vredMin ty va mask vd s)

/-- The effect of `vcmp.eq` (R271). -/
def vcmpEq (ty : BitVec 3) (src2 : BitVec 5) (va : BitVec 4) (sx : BitVec 1) (mask : BitVec 2) (kd : BitVec 2) (s : State) : Tri State :=
  vecCompare (wordVcmpEq ty src2 va sx mask kd) 0 ty src2 va sx mask kd s

/-- `vcmp.eq` (R271). -/
def execVcmpEq (ty : BitVec 3) (src2 : BitVec 5) (va : BitVec 4) (sx : BitVec 1) (mask : BitVec 2) (kd : BitVec 2) (s : State) : Out :=
  settleNext s (vcmpEq ty src2 va sx mask kd s)

/-- The effect of `vcmp.lt` (R271). -/
def vcmpLt (ty : BitVec 3) (src2 : BitVec 5) (va : BitVec 4) (sx : BitVec 1) (mask : BitVec 2) (kd : BitVec 2) (s : State) : Tri State :=
  vecCompare (wordVcmpLt ty src2 va sx mask kd) 1 ty src2 va sx mask kd s

/-- `vcmp.lt` (R271). -/
def execVcmpLt (ty : BitVec 3) (src2 : BitVec 5) (va : BitVec 4) (sx : BitVec 1) (mask : BitVec 2) (kd : BitVec 2) (s : State) : Out :=
  settleNext s (vcmpLt ty src2 va sx mask kd s)

/-- The effect of `vcmp.le` (R271). -/
def vcmpLe (ty : BitVec 3) (src2 : BitVec 5) (va : BitVec 4) (sx : BitVec 1) (mask : BitVec 2) (kd : BitVec 2) (s : State) : Tri State :=
  vecCompare (wordVcmpLe ty src2 va sx mask kd) 2 ty src2 va sx mask kd s

/-- `vcmp.le` (R271). -/
def execVcmpLe (ty : BitVec 3) (src2 : BitVec 5) (va : BitVec 4) (sx : BitVec 1) (mask : BitVec 2) (kd : BitVec 2) (s : State) : Out :=
  settleNext s (vcmpLe ty src2 va sx mask kd s)

/-- The effect of `vsel` (R272). -/
def vsel (ty : BitVec 3) (src2 : BitVec 5) (va : BitVec 4) (sx : BitVec 1) (mask : BitVec 2) (vd : BitVec 4) (s : State) : Tri State :=
  vecSelect (wordVsel ty src2 va sx mask vd) ty src2 va sx mask vd s

/-- `vsel` (R272). -/
def execVsel (ty : BitVec 3) (src2 : BitVec 5) (va : BitVec 4) (sx : BitVec 1) (mask : BitVec 2) (vd : BitVec 4) (s : State) : Out :=
  settleNext s (vsel ty src2 va sx mask vd s)

/-- The effect of `vand` (R269). -/
def vand (ty : BitVec 3) (src2 : BitVec 5) (va : BitVec 4) (sx : BitVec 1) (mask : BitVec 2) (vd : BitVec 4) (s : State) : Tri State :=
  vec2 (wordVand ty src2 va sx mask vd) ty src2 va sx mask vd (fun _ a b => a &&& b) s

/-- `vand` (R269). -/
def execVand (ty : BitVec 3) (src2 : BitVec 5) (va : BitVec 4) (sx : BitVec 1) (mask : BitVec 2) (vd : BitVec 4) (s : State) : Out :=
  settleNext s (vand ty src2 va sx mask vd s)

/-- The effect of `vor` (R269). -/
def vor (ty : BitVec 3) (src2 : BitVec 5) (va : BitVec 4) (sx : BitVec 1) (mask : BitVec 2) (vd : BitVec 4) (s : State) : Tri State :=
  vec2 (wordVor ty src2 va sx mask vd) ty src2 va sx mask vd (fun _ a b => a ||| b) s

/-- `vor` (R269). -/
def execVor (ty : BitVec 3) (src2 : BitVec 5) (va : BitVec 4) (sx : BitVec 1) (mask : BitVec 2) (vd : BitVec 4) (s : State) : Out :=
  settleNext s (vor ty src2 va sx mask vd s)

/-- The effect of `vxor` (R269). -/
def vxor (ty : BitVec 3) (src2 : BitVec 5) (va : BitVec 4) (sx : BitVec 1) (mask : BitVec 2) (vd : BitVec 4) (s : State) : Tri State :=
  vec2 (wordVxor ty src2 va sx mask vd) ty src2 va sx mask vd (fun _ a b => a ^^^ b) s

/-- `vxor` (R269). -/
def execVxor (ty : BitVec 3) (src2 : BitVec 5) (va : BitVec 4) (sx : BitVec 1) (mask : BitVec 2) (vd : BitVec 4) (s : State) : Out :=
  settleNext s (vxor ty src2 va sx mask vd s)

/-- The effect of `vshl` (R269). -/
def vshl (ty : BitVec 3) (src2 : BitVec 5) (va : BitVec 4) (sx : BitVec 1) (mask : BitVec 2) (vd : BitVec 4) (sat : BitVec 1) (s : State) : Tri State :=
  vec2 (wordVshl ty src2 va sx mask vd sat) ty src2 va sx mask vd (fun t => elemShl t (satOn sat)) s

/-- `vshl` (R269). -/
def execVshl (ty : BitVec 3) (src2 : BitVec 5) (va : BitVec 4) (sx : BitVec 1) (mask : BitVec 2) (vd : BitVec 4) (sat : BitVec 1) (s : State) : Out :=
  settleNext s (vshl ty src2 va sx mask vd sat s)

/-- The effect of `vshr` (R269). -/
def vshr (ty : BitVec 3) (src2 : BitVec 5) (va : BitVec 4) (sx : BitVec 1) (mask : BitVec 2) (vd : BitVec 4) (sat : BitVec 1) (s : State) : Tri State :=
  vec2 (wordVshr ty src2 va sx mask vd sat) ty src2 va sx mask vd (fun t => elemShr t (satOn sat)) s

/-- `vshr` (R269). -/
def execVshr (ty : BitVec 3) (src2 : BitVec 5) (va : BitVec 4) (sx : BitVec 1) (mask : BitVec 2) (vd : BitVec 4) (sat : BitVec 1) (s : State) : Out :=
  settleNext s (vshr ty src2 va sx mask vd sat s)

/-- The effect of `vmov` (R269). -/
def vmov (ty : BitVec 3) (va : BitVec 4) (mask : BitVec 2) (vd : BitVec 4) (s : State) : Tri State :=
  vec1 (wordVmov ty va mask vd) ty va mask vd (fun _ a => a) s

/-- `vmov` (R269). -/
def execVmov (ty : BitVec 3) (va : BitVec 4) (mask : BitVec 2) (vd : BitVec 4) (s : State) : Out :=
  settleNext s (vmov ty va mask vd s)

/-- The effect of `vsplat` (R275). -/
def vsplat (imm : BitVec 16) (ty : BitVec 3) (vd : BitVec 4) (s : State) : Tri State :=
  vecImm (wordVsplat imm ty vd) imm ty vd false (fun _ _ m => m) s

/-- `vsplat` (R275). -/
def execVsplat (imm : BitVec 16) (ty : BitVec 3) (vd : BitVec 4) (s : State) : Out := settleNext s (vsplat imm ty vd s)

/-- The effect of `vaddi` (R275). -/
def vaddi (imm : BitVec 16) (ty : BitVec 3) (vd : BitVec 4) (s : State) : Tri State :=
  vecImm (wordVaddi imm ty vd) imm ty vd true (fun t => elemAdd t false) s

/-- `vaddi` (R275). -/
def execVaddi (imm : BitVec 16) (ty : BitVec 3) (vd : BitVec 4) (s : State) : Out := settleNext s (vaddi imm ty vd s)

/-- The effect of `vmuli` (R275). -/
def vmuli (imm : BitVec 16) (ty : BitVec 3) (vd : BitVec 4) (s : State) : Tri State :=
  vecImm (wordVmuli imm ty vd) imm ty vd true (fun t => elemMul t false) s

/-- `vmuli` (R275). -/
def execVmuli (imm : BitVec 16) (ty : BitVec 3) (vd : BitVec 4) (s : State) : Out := settleNext s (vmuli imm ty vd s)

/-- The effect of `vmaxi` (R275). -/
def vmaxi (imm : BitVec 16) (ty : BitVec 3) (vd : BitVec 4) (s : State) : Tri State :=
  vecImm (wordVmaxi imm ty vd) imm ty vd true (elemMinMax true) s

/-- `vmaxi` (R275). -/
def execVmaxi (imm : BitVec 16) (ty : BitVec 3) (vd : BitVec 4) (s : State) : Out := settleNext s (vmaxi imm ty vd s)

end Sys2Proof.Machine
end

