-- ==== Sys2Proof/Machine/Engines.lean ====
section
/-! DEFINITION. Copy engines and flue engines: acceptance, and what the steps of a request do (09/R196, R197, R199 to R203;
15/R304, R306; 21/R353 to R357). An event that its rule does not enable leaves the state as it is. -/

namespace Sys2Proof.Machine

/-! ## Engines and their pending sets -/

/-- The number of an engine: the place of a copy engine's cluster, or 5000 and more for a flue engine. -/
def engIx : EngineId → Nat
  | .clu d c => d.val * 256 + c.val
  | .flue d n => 5000 + d.val * 16 + n.val

/-- The die of the engine of a request. -/
def Pending.die (p : Pending) : Nat := engDie p.engine

/-- The bit in UNITS of the engine of a request (R383). -/
def Pending.unit (p : Pending) : Nat := if p.engine < 5000 then 18 else 19

/-- The operation of a request. -/
def Pending.op (p : Pending) : Nat := reqOp p.req.w0

/-- The `i`-th pending request of an engine; those of a failed die do nothing (23/R390). -/
def State.pend (s : State) (e : EngineId) (i : Nat) : Option Pending :=
  if (s.die (engDie (engIx e))).failed then none else (s.dev.engines.filter fun p => p.engine == engIx e)[i]?

/-- A pending request replaced. -/
def State.setPend (s : State) (p : Pending) : State :=
  s.setDev { s.dev with engines := s.dev.engines.map fun x => if x.id = p.id then p else x }

/-- A request that leaves the pending set. -/
def State.dropPend (s : State) (p : Pending) : State :=
  s.setDev { s.dev with engines := s.dev.engines.filter fun x => x.id != p.id }

/-- A request that ends with an error (R201): nothing but its Notify step is left. -/
def Pending.fail (p : Pending) (code : BitVec 8) (off : Nat) : Pending :=
  { p with err := some (code, off), finishing := true, chunks := [] }

/-- A waiter for a slot of a circular buffer gone from its buffer (R187). -/
def State.unwaitFill (s : State) (p : Pending) : State :=
  if p.op != 6 then s
  else
    match p.req.fillCore with
    | none => s
    | some n =>
      let k := s.core n
      s.setCore n { k with cbs := k.cbs.map fun x => { x with waitFree := x.waitFree.filter fun w => w != .fill p.id } }

/-- A pending request ended with an error; a record that this device's Damper holds for it is freed. -/
def State.failPend (s : State) (p : Pending) (code : BitVec 8) (off : Nat) : State :=
  let s1 := (s.unwaitFill p).setPend { p.fail code off with slot := none, ready := [] }
  if p.role == .own && p.far then
    s1.setDev { s1.dev with damper := s1.dev.damper.filter fun r => !(r.own && r.reqno == p.reqno) }
  else s1

/-! ## Ranges of a payload -/

/-- Ranges without the bytes from `lo` to `hi`. -/
def cutSpan (l : List (Nat × Nat)) (lo hi : Nat) : List (Nat × Nat) :=
  ((l.map fun (a, b) => [(a, min b lo), (max a hi, b)]).flatten).filter fun (a, b) => a < b

/-- What lies in ranges from `lo` to `hi`. -/
def clipSpan (l : List (Nat × Nat)) (lo hi : Nat) : List (Nat × Nat) :=
  (l.map fun (a, b) => (max a lo, min b hi)).filter fun (a, b) => a < b

/-- Some byte from `lo` to `hi` lies in ranges. -/
def meets (l : List (Nat × Nat)) (lo hi : Nat) : Bool := clipSpan l lo hi != []

/-- The range of `n` bytes. -/
def fullSpan (n : Nat) : List (Nat × Nat) := if n = 0 then [] else [(0, n)]

/-- The `i`-th byte of ranges, with the range that it lies in. -/
def spanAt : List (Nat × Nat) → Nat → Option (Nat × Nat × Nat)
  | [], _ => none
  | (a, b) :: l, i => if i < b - a then some (a + i, a, b) else spanAt l (i - (b - a))

/-- Pieces without the bytes from `lo` to `hi`. -/
def trimPieces (l : List (Nat × List Byte)) (lo hi : Nat) : List (Nat × List Byte) :=
  ((l.map fun (o, bs) => [(o, bs.take (lo - o)), (max o hi, bs.drop (hi - o))]).flatten).filter fun x => x.2 != []

/-- `n` bytes from an offset on, of pieces that hold them. -/
def piecesAt (l : List (Nat × List Byte)) (o n : Nat) : List Byte :=
  (List.range n).map fun i =>
    match l.find? fun x => x.1 ≤ o + i && o + i < x.1 + x.2.length with
    | some x => x.2.getD (o + i - x.1) 0
    | none => 0

/-- The first byte of the payload that is not written (R201), and the first that has not been read or has not arrived. -/
def Pending.wrote (p : Pending) : Nat := ((p.unwritten.head?).map (·.1)).getD p.len
def Pending.arrived (p : Pending) : Nat := ((p.unread.head?).map (·.1)).getD p.len

/-- The bytes below this offset need nothing more from their sender: they are installed, or staged (R202, R360). -/
def Pending.installed (p : Pending) : Nat := if p.op = 3 && reqOrdred p.req.w0 then p.arrived else p.wrote

/-! ## Accesses -/

/-- The error code of what an engine finds at an address (R201, R379). -/
def UnitPlace.code : UnitPlace → BitVec 8
  | .noWindow => 0x08
  | .access => 0x02
  | _ => 0x01

/-- The key of the translations that the engines of a request's die hold. -/
def Pending.tlbKey (p : Pending) : Nat := unitKey p.die p.unit

/-- An address among `n` bytes of a request that its engine has still to translate (R380). -/
def State.engMissing (s : State) (p : Pending) (a n : Nat) : Option Nat :=
  if p.req.sup then none else s.missing p.tlbKey p.req.part a n

/-- What a step of a request does once its engine holds the translations of `n` bytes; until then it waits for a walk (R380). -/
def State.engPages (s : State) (p : Pending) (a n : Nat) (k : State) : State :=
  match s.engMissing p a n with
  | some va => s.askUnit p.tlbKey p.die p.req.part va
  | none => k

/-- What lies at `n` bytes that a request accesses, up to the first that is not found: a place of the device, or none for a
byte of host memory. -/
def State.engReach (s : State) (p : Pending) (need : Need) (a : Nat) : Nat → List (Option Nat) × Option UnitPlace
  | 0 => ([], none)
  | n + 1 =>
    match s.unitPlace p.req.core p.die p.req.sup p.req.part p.unit need a with
    | .at q => (some q :: (s.engReach p need (a + 1) n).1, (s.engReach p need (a + 1) n).2)
    | .host _ => (none :: (s.engReach p need (a + 1) n).1, (s.engReach p need (a + 1) n).2)
    | f => ([], some f)

/-- What a read gives: the bytes, fewer than asked where those after them cannot be read, or an error. -/
inductive EngData where
  | bytes (bs : List Byte)
  | err (code : BitVec 8)
  deriving DecidableEq, Repr

/-- The bytes at some places, each in the view of its home die (R200), up to the first that lies in a poisoned block; host
memory holds what the host's memory holds (DESIGN CHOICE, log 37): free values from number `k` on. -/
def State.cleanBytes (s : State) (k : Nat) : List (Option Nat) → List Byte
  | [] => []
  | none :: qs => (Config.freeValue k).setWidth 8 :: s.cleanBytes (k + 1) qs
  | some q :: qs =>
    if s.cell (homeDie q) (poisonPlace q) != 0#8 then [] else s.cell (homeDie q) q :: s.cleanBytes (k + 1) qs

/-- `n` bytes at an address as a request reads them. -/
def State.engRead (s : State) (p : Pending) (a n : Nat) : EngData × State :=
  let (qs, f) := s.engReach p .r a n
  let bs := s.cleanBytes s.dev.freeAt qs
  let s1 := if qs.contains none then s.setDev { s.dev with freeAt := s.dev.freeAt + n } else s
  match bs, qs, f with
  | [], [], some c => (.err c.code, s1)
  | [], _ :: _, _ => (.err 0x03, s1)
  | _, _, _ => (.bytes bs, s1)

/-- The orders of a write noted for its places. -/
def noteWrites (m : Map Nat) (qs : List Nat) (o : Nat) : Map Nat := qs.foldl (fun m q => m.put q o) m

/-- Cells in runs of one home die. -/
def dieRuns : List (Nat × Byte) → List (List (Nat × Byte))
  | [] => []
  | x :: xs =>
    match dieRuns xs with
    | (y :: ys) :: rest => if homeDie x.1 = homeDie y.1 then (x :: y :: ys) :: rest else [x] :: (y :: ys) :: rest
    | l => [x] :: l

/-- Bytes installed at some places, in the view of their home die (R200), with the tags they clear (R203). -/
def State.engInstall (s : State) (m : Map Nat) (cells : List (Nat × Byte)) : Map Nat × State :=
  (dieRuns cells).foldl (fun (m, s) l =>
    let s1 := s.writeAt (homeDie ((l.map (·.1)).headD 0)) (plainCells l) false []
    (noteWrites m (l.map (·.1)) s1.dev.wseq, s1)) (m, s)

/-- The home view holds the last writes of the bytes of some elements, as an Owner step needs (R175, R196). -/
def State.elemsCurrent (s : State) (p : Pending) (a n : Nat) : Bool :=
  (s.engReach p .w a n).1.all fun q =>
    match q with
    | some q => s.holdsLast (homeDie q) [q]
    | none => true

/-! ## The geometry of a request -/

/-- The indices of element `n` of a deckle, dimension 0 varying fastest (R306). -/
def dkIndices (n : Nat) : List Nat → List Nat
  | [] => []
  | e :: es => n % e :: dkIndices (n / e) es

/-- The address of element `n` of a deckle (R306). -/
def dkElement (base : Nat) (d : BitVec 512) (exts : List Nat) (n : Nat) : Nat :=
  let ix := dkIndices n exts
  let off := ((List.range ix.length).map fun i => ((ix.getD i 0 : Nat) : Int) * (dkStride d i).toInt).foldl (· + ·) 0
  (((base : Int) + off) % (2 : Int) ^ 64).toNat

/-- The size of the elements of a reduction or of a deckle copy. -/
def Pending.elem (p : Pending) : Nat := if p.op = 3 then rtypeSize (reqRtype p.req.w0) else max 1 (fmtSize (dkFmt p.deckle))

/-- The address of the source of the payload byte at an offset. -/
def Pending.srcAt (p : Pending) (off : Nat) : Nat :=
  let a := (capAddr p.req.src).toNat
  if p.op = 5 then dkElement a p.deckle p.extents (off / p.elem) + off % p.elem else a + off

/-- The address of the destination of the payload byte at an offset. -/
def Pending.dstAt (p : Pending) (off : Nat) : Nat := (capAddr p.req.dst).toNat + off

/-- A request whose bytes this device sends to another. -/
def Pending.sends (p : Pending) : Bool := p.role == .serve || (p.role == .own && p.far && dstRemote p.op)

/-- A request whose bytes another device sends to this one. -/
def Pending.gets (p : Pending) : Bool := p.role == .own && p.far && srcRemote p.op

/-- A short request (R355). -/
def reqShort (w : BitVec 64) : Bool :=
  let op := reqOp w
  (op == 1 || op == 2 || op == 3) && reqLen w ≤ 32 && !reqPrefix w

/-- The bytes of the prefix of a request that sends one (R355, R357). -/
def reqPrefixLen (w : BitVec 64) : Nat := if srcRemote (reqOp w) then 0 else min (reqLen w) 8192

/-- The prefix that this device sends for a request of its own. -/
def Pending.preLen (p : Pending) : Nat :=
  if p.role == .own && p.far && !reqShort p.req.w0 then reqPrefixLen p.req.w0 else 0

/-- The offset of the first byte that could not be read, or cannot be written; past every byte where each can. -/
def Pending.readable (p : Pending) : Nat :=
  match p.err with
  | some (_, o) => o
  | none => 2 ^ 32

/-- An error noted at an offset, if it is the lowest: nothing from there on is taken any further (R201). -/
def Pending.noteErr (p : Pending) (c : BitVec 8) (o : Nat) : Pending :=
  if o < p.readable then { p with err := some (c, o), chunks := trimPieces p.chunks o (2 ^ 32) } else p

/-- A fetching reduction (R352). -/
def reqFetching (w : BitVec 64) : Bool :=
  reqOp w == 3 && !reqOrdred w && ((reqRtype w == 3 && reqLen w == 4) || (reqRtype w == 4 && reqLen w == 8))

/-! ## Reductions (R196) -/

/-- The result of one element's update. -/
def reduceOp (t old v : Nat) : Nat :=
  match t with
  | 0 => fmtF32.put false ((fmtF32.num old).add (fmtF32.num v))
  | 1 => fmtF64.put false ((fmtF64.num old).add (fmtF64.num v))
  | 2 => fmtBf16.put false ((fmtBf16.num old).add (fmtBf16.num v))
  | 3 => (old + v) % 2 ^ 32
  | 4 => (old + v) % 2 ^ 64
  | 5 => elemMinMax true (.f fmtF32) old v
  | _ => elemMinMax false (.f fmtF32) old v

/-- One element of a request's destination updated in an Owner step: the error that prevents it, or the prior value, the
orders and the state. Bytes in host memory are free values (DESIGN CHOICE, log 37). -/
def State.reduceElem (s : State) (p : Pending) (m : Map Nat) (off : Nat) (bs : List Byte) : BitVec 8 ⊕ (Nat × Map Nat × State) :=
  match s.engReach p .w (p.dstAt off) bs.length with
  | (_, some f) => .inl f.code
  | (qs, none) =>
    let old := s.cleanBytes s.dev.freeAt qs
    if old.length < bs.length then .inl 0x03
    else
      let s1 := if qs.contains none then s.setDev { s.dev with freeAt := s.dev.freeAt + bs.length } else s
      let new := leBytes (reduceOp (reqRtype p.req.w0) (leNat old) (leNat bs)) bs.length
      let (m1, s2) := s1.engInstall m ((qs.zip new).filterMap fun (q, b) => q.map fun q => (q, b))
      .inr (leNat old, m1, s2)

/-! ## Acceptance (R196, R199, R306, R353, R354) -/

/-- The engine that serves a request (R196, R353); a supervisor core's is cluster 0's (DESIGN CHOICE, log 11). -/
def State.engineFor (s : State) (r : Request) : Nat :=
  let clu := cluOfCore r.core
  if reqDev r.w0 != s.dev.num then 5000 + clu / 256 * 16 + clu % 16 else clu

/-- The live requests of an engine: those that cores of the device gave it. What it carries out for other devices holds no
place that R353 counts (DESIGN CHOICE, log 40: R347 holds back no request flit for want of one). -/
def State.engLoad (s : State) (e : Nat) : Nat := (s.dev.engines.filter fun p => p.engine == e && p.role == .own).length

/-- The target record of a request (R196): one of the errors, or the record. One that cannot be read ends the request as error
0x0C does, with no completion message, since there is no target to send it to (DESIGN CHOICE, log 126). -/
def State.readTarget (s : State) (p : Pending) : BitVec 8 ⊕ BitVec 128 :=
  match (s.engRead p (capAddr p.req.w3).toNat 16).1 with
  | .err c => .inl c
  | .bytes bs =>
    let w : BitVec 128 := BitVec.ofNat 128 (leNat bs)
    if bs.length < 16 then .inl 0x01
    else if w.extractLsb' 82 46 != 0 then .inl 0x0C
    else .inr w

/-- Bytes of a deckle or of a word that it points at, checked against the capability (R304); none where refused. -/
def State.dkRead (s : State) (p : Pending) (a n : Nat) : Option Nat :=
  if (checkCap p.req.sup p.req.w3 a n permLoad false).isSome then none
  else (s.unitRead p.req.core p.die p.req.sup p.req.part p.unit a n).map leNat

/-- The extents of a deckle, read once (R304). -/
def State.dkExtents (s : State) (p : Pending) (base : Nat) (d : BitVec 512) : Nat → Option (List Nat)
  | 0 => some []
  | n + 1 =>
    match s.dkExtents p base d n with
    | none => none
    | some l =>
      if dkPtr d n then (s.dkRead p (dkPtrAddr base d n) 4).map fun x => l ++ [x]
      else some (l ++ [(dkExt d n).toNat])

/-- The lowest and highest offsets of a deckle's elements from its source address. -/
def dkSpan (d : BitVec 512) (exts : List Nat) : Int × Int :=
  (List.range exts.length).foldl (fun (acc : Int × Int) i =>
    let x := (((exts.getD i 0 : Nat) : Int) - 1) * (dkStride d i).toInt
    (acc.1 + min 0 x, acc.2 + max 0 x)) (0, 0)

/-- A DECKLE request with its deckle read, its footprint checked (R306); none where that is refused. -/
def State.acceptDeckle (s : State) (p : Pending) : Option Pending :=
  let base := (capAddr p.req.w3).toNat
  match s.dkRead p base 64 with
  | none => none
  | some x =>
    let d : BitVec 512 := BitVec.ofNat 512 x
    if dkMalformed d || fmtSize (dkFmt d) = 0 then none
    else
      match s.dkExtents p base d (dkRank d) with
      | none => none
      | some exts =>
        let es := fmtSize (dkFmt d)
        let n := exts.foldl (· * ·) 1 * es
        let (lo, hi) := dkSpan d exts
        let a : Int := (capAddr p.req.src).toNat
        let ok := n = 0 ||
          (0 ≤ a + lo &&
            (checkCap p.req.sup p.req.src (a + lo).toNat (hi - lo + es).toNat (permLoad ||| permCopy) false).isNone &&
            (checkCap p.req.sup p.req.dst (capAddr p.req.dst).toNat n (permStore ||| permCopy) false).isNone)
        if ok then some { p with deckle := d, extents := exts, len := n } else none

/-- A request number that no live fabric request of this device has (R345). -/
def State.freeReqno (s : State) : BitVec 24 :=
  let used (n : Nat) : Bool := s.dev.engines.any fun p => p.role == .own && p.far && p.reqno.toNat == n
  BitVec.ofNat 24 (((List.range (s.dev.engines.length + 1)).find? fun n => !used n).getD 0)

/-- A flit of a fabric request of this device to its far side. -/
def Pending.head (p : Pending) (own : BitVec 12) (vc : BitVec 2) (typ : BitVec 5) : FlitHead :=
  { vc := vc, typ := typ, src := own, dst := p.farDev, part := p.req.part, ltag := p.req.ltag, prio := reqPrio p.req.w0,
    req := p.reqno }

/-- The first four dwords of a LONG or SHORT payload (R346). -/
def Pending.reqWords (p : Pending) : BitVec 256 :=
  0#64 ++ (if reqStamp p.req.w0 && dstRemote p.op then capAddr p.req.w3 else 0#64) ++ p.farAddr ++ p.req.w0

/-- The rank word that a flit of an ordered reduction carries: its last dword, where the data leave it free (DESIGN CHOICE, log
38: R202 needs it at the destination, and R346 gives it no place). -/
def Pending.rankPay (p : Pending) : BitVec 64 :=
  if p.op = 3 && reqOrdred p.req.w0 && !(reqShort p.req.w0 && 24 < p.len) then capAddr p.req.w3 else 0

/-- LONG sent (R355). -/
def State.sendLong (s : State) (p : Pending) : State :=
  let h := { p.head s.dev.num 0 0 with bytes := 64 }
  let t : BitVec 128 := if p.op = 4 then p.target else 0
  s.sendOnPlane p.reqno { hdr := h.bits, pay := p.rankPay ++ 0#64 ++ t ++ p.reqWords }

/-- SHORT sent with its data (R355). -/
def State.sendShort (s : State) (p : Pending) (bs : List Byte) : State :=
  let h := { p.head s.dev.num 0 1 with bytes := 64 }
  s.sendOnPlane p.reqno { hdr := h.bits, pay := (BitVec.ofNat 256 (leNat bs) ||| (p.rankPay ++ 0#192)) ++ p.reqWords }

/-- What the save area holds is of a record (R363). -/
def DSaved.is (x : DSaved) (r : DRec) : Bool := x.own == r.own && x.src == r.src && x.reqno == r.reqno

/-- A saved record noted in the area that the supervisor assigns (R363). The area is its own piece of state (DESIGN CHOICE,
log 112: neither its place in HBM nor a record's layout there is given). -/
def State.noteSaved (s : State) (r : DRec) : State :=
  if r.state == .saved then
    s.setDev { s.dev with damperArea := (s.dev.damperArea.filter fun x => !x.is r) ++
      [{ src := r.src, reqno := r.reqno, own := r.own, next := r.next, left := r.left, exp := r.exp }] }
  else s

/-- A tag that the Damper holds saved (R363). -/
def State.tagSaved (s : State) (part : BitVec 8) (tag : BitVec 12) : Bool := s.dev.damperSaved.contains (part, tag)

/-- The start of a far request: a READ or CBFILL registers its record with this device's Damper (R368), and every request
but a short write announces itself. -/
def State.startFar (s : State) (p : Pending) : State :=
  let w := p.req.w0
  if reqShort w then if p.op = 1 || p.len = 0 then s.sendShort p [] else s
  else if srcRemote p.op then
    let r : DRec :=
      { src := p.farDev, reqno := p.reqno, own := true, part := p.req.part, ltag := p.req.ltag, prio := reqPrio w, left := p.len,
        w0 := w, state := if s.tagSaved p.req.part p.req.ltag then .saved else if p.len = 0 then .finishing else .waiting }
    ((s.setDev { s.dev with damper := s.dev.damper ++ [r] }).noteSaved r).sendLong p
  else s.sendLong p

/-- The access table of the fabric port that a request's flits take admits it (R383, R384): to read from another device or to
write to it (DEDUCED, log 108: R383 makes a port a target, and R384 gives no request another use of it). -/
def State.portPermits (s : State) (p : Pending) (reqno : BitVec 24) : Bool :=
  p.req.sup ||
    s.permitted (targetPort (planeOf s.upPorts reqno.toNat)) p.req.part 19 (if srcRemote p.op then 1 else 2)

/-- The copy log of a die takes the image of a request that may be replayed, while it has room (R390). -/
def State.logsRequest (s : State) (p : Pending) : Bool :=
  reqReplay p.req.w0 &&
    decide ((s.dev.engines.filter fun x => x.logged && x.die == p.die).length ≤ Config.copyLogEntries p.die)

/-- The flits that a request of this device has to send at its start: its prefix, or the one flit of a short write (R355,
R357). -/
def Pending.firstFlits (p : Pending) : List (BitVec 16 × Nat) :=
  if reqShort p.req.w0 then if p.op = 1 || p.len = 0 then [] else [(0, 0)]
  else (List.range ((p.preLen + 63) / 64)).map fun i => (0, i)

/-- What acceptance reads: a target record, or a deckle with its pointer extents (R196, R304). -/
def State.acceptAreas (s : State) (p : Pending) : List (Nat × Nat) :=
  let a := (capAddr p.req.w3).toNat
  if p.op = 5 then
    (a, 64) :: match if (s.engMissing p a 64).isSome then none else s.dkRead p a 64 with
      | none => []
      | some x =>
        let d : BitVec 512 := BitVec.ofNat 512 x
        if dkMalformed d then [] else ((List.range (dkRank d)).filter fun i => dkPtr d i).map fun i => (dkPtrAddr a d i, 4)
  else if reqTgt p.req.w0 || p.op = 4 then [(a, 16)]
  else []

/-- An address that acceptance reads, and that the engine has still to translate (R380). -/
def State.acceptMissing (s : State) (p : Pending) : Option Nat := (s.acceptAreas p).findSome? fun (a, n) => s.engMissing p a n

/-- A request entered into its engine's pending set, with what is read and checked at acceptance. -/
def State.enter (s : State) (p0 : Pending) : State :=
  let w := p0.req.w0
  let op := p0.op
  let p1 : Pending :=
    if reqTgt w || op = 4 then
      match s.readTarget p0 with
      | .inl c => { p0.fail c 0 with silent := c = 0x0C || reqTgt w }
      | .inr t => { p0 with target := t }
    else p0
  let p2 : Pending := if op = 5 then (s.acceptDeckle p1).getD (p1.fail 0x0A 0) else p1
  let a := if srcRemote op then capAddr p2.req.src else capAddr p2.req.dst
  let no := s.freeReqno
  let p3 : Pending :=
    if !p2.far || p2.finishing then p2
    else if windowOf false a.toNat != .virt then p2.fail 0x08 0
    else if !s.reachable p2.farDev then p2.fail 0x07 0
    else if !s.portPermits p2 no then p2.fail 0x02 0
    else
      { p2 with
        reqno := no, farAddr := a, lo := p2.preLen, hi := p2.preLen, unsent := p2.firstFlits, heard := s.clock (clockFlue p2.die) }
  let p4 : Pending := { p3 with unread := fullSpan p3.len, unwritten := fullSpan p3.len, logged := s.logsRequest p3 }
  let s1 := s.setDev { s.dev with engines := s.dev.engines ++ [p4] }
  if p4.far && !p4.finishing then s1.startFar p4 else s1

/-- REQUEST_ACCEPT (R199): the oldest request of a core's command FIFO, once its release condition at dev holds and its
engine has room (R353); a long READ or CBFILL needs a record of this device's Damper too. -/
def execRequestAccept (p : Party) (s : State) : Out :=
  let k := s.core p.coreIx
  match k.fifo with
  | [] => .next s
  | r :: rest =>
    let e := s.engineFor r
    let far := reqDev r.w0 != s.dev.num
    let full := far && (256 ≤ s.engLoad e || (srcRemote (reqOp r.w0) && !reqShort r.w0 && 65536 ≤ s.dev.damper.length))
    if !s.released r.rel || full then .next s
    else
      let n := s.dev.opSeq + 1
      let x : Pending := { engine := e, req := r, id := n, len := reqLen r.w0, far := far, farDev := reqDev r.w0 }
      match s.acceptMissing x with
      | some va => .next (s.askUnit x.tlbKey x.die r.part va)
      | none => .next (((s.setCore p.coreIx { k with fifo := rest }).setDev { s.dev with opSeq := n }).enter x)

/-- DONE sent for a record (R361, R364): with a status word and a prior value. -/
def State.sendDone (s : State) (dst : BitVec 12) (part : BitVec 8) (ltag : BitVec 12) (prio : BitVec 2) (req : BitVec 24)
    (status prior : BitVec 64) : State :=
  let h : FlitHead :=
    { vc := 1, typ := 1, src := s.dev.num, dst := dst, part := part, ltag := ltag, prio := prio, bytes := 16, req := req }
  s.sendOnPlane req { hdr := h.bits, pay := flitPay status prior 0 0 0 0 0 0 }

/-- The status word of a request that has ended (R201). -/
def statusWord (err : Option (BitVec 8 × Nat)) : BitVec 64 :=
  match err with
  | none => 1
  | some (c, o) => BitVec.ofNat 32 o ++ 0#16 ++ c ++ 2#8

/-- The end of a READ that this device serves, with an error told to the issuing device (R368). -/
def State.serveFail (s : State) (p : Pending) (code : BitVec 8) (off : Nat) : State :=
  (s.dropPend p).sendDone p.farDev p.req.part p.req.ltag (reqPrio p.req.w0) p.reqno (statusWord (some (code, off))) 0

/-- The end, with an error, of another device's request whose bytes come here: its record is freed, and DONE sent (R361,
R364). -/
def State.recvEnd (s : State) (p : Pending) : State :=
  let mine (r : DRec) : Bool := !r.own && r.src == p.farDev && r.reqno == p.reqno
  let s1 := s.dropPend p
  (s1.setDev { s1.dev with
    damper := s1.dev.damper.filter fun r => !mine r,
    prefixes := s1.dev.prefixes.filter fun r => !mine r }).sendDone p.farDev p.req.part p.req.ltag (reqPrio p.req.w0) p.reqno
      (statusWord p.err) p.prior

/-! ## Flits to send (R345, R357) -/

/-- Where the bytes of a flit to be sent begin and end. -/
def Pending.flitAt (p : Pending) (x : BitVec 16 × Nat) : Nat × Nat :=
  let a := (if x.1 = 0 then 0 else p.lo) + 64 * x.2
  (a, min (min (a + 64) (if x.1 = 0 then p.preLen else p.hi)) p.readable)

/-- The flits still to be sent that lie below the first byte that could not be read. -/
def Pending.toSend (p : Pending) : List (BitVec 16 × Nat) := p.unsent.filter fun x => (p.flitAt x).1 < (p.flitAt x).2

/-- Those that may be sent now, their bytes having been read; the prefix goes first (R357). -/
def Pending.sendable (p : Pending) : List (BitVec 16 × Nat) :=
  let l := p.toSend
  let l1 := if l.any fun x => x.1 == 0 then l.filter fun x => x.1 == 0 else l
  l1.filter fun x => !meets p.unread (p.flitAt x).1 (p.flitAt x).2

/-- Every byte below the first that could not be read or written has been sent, or needs nothing more. -/
def Pending.lowerDone (p : Pending) : Bool :=
  if p.sends then p.readable ≤ max p.preLen p.hi && p.toSend == [] else p.readable ≤ p.installed

/-- A request that met an error ends once every byte below it is written or sent (R201, R364, R368). -/
def State.endErr (s : State) (p : Pending) : State :=
  match p.err with
  | some (c, o) =>
    if p.finishing || !p.lowerDone then s
    else
      match p.role with
      | .serve => s.serveFail p c o
      | .recv => s.recvEnd p
      | .own => s.failPend p c o
  | none => s

/-! ## Read (R200, R357) -/

/-- The aligned blocks that a request's chunks lie in (R85, R166): netcap.FAB bytes across the fabric, else netcap.MESH. -/
def Pending.block (p : Pending) : Nat := if p.far then 64 else 32

/-- The bytes from an address to the end of its block. -/
def Pending.inBlock (p : Pending) (a : Nat) : Nat := p.block - a % p.block

/-- The ranges of the payload that a request may read now: what the far side has granted, of one that this device sends (R357,
R368). -/
def Pending.readSpans (p : Pending) : List (Nat × Nat) :=
  let ends := min p.len p.readable
  if p.finishing || p.gets || p.role == .recv || p.arrival.isSome then []
  else if p.sends && !reqShort p.req.w0 then
    clipSpan p.unread 0 (min p.preLen ends) ++
      (if p.role == .own || p.rangeOk then clipSpan p.unread (max p.lo p.preLen) (min p.hi ends) else [])
  else clipSpan p.unread 0 ends

/-- The place of a payload byte's destination within its block, as far as it is known here: the bytes of a READ that this device
serves count from the start, and those of a CBFILL go to slots that begin at multiples of 32. -/
def Pending.dstCut (p : Pending) (o : Nat) : Nat := if p.role == .serve || p.op = 6 then o else p.dstAt o

/-- The chunk that holds a byte of a range from `lo` to `hi`: offset and number. Chunks are cut at the blocks of both sides
(R166); an element of a local reduction is read up to the end of its block. -/
def Pending.chunkAt (p : Pending) (x lo hi : Nat) : Nat × Nat :=
  let reduce := p.op = 3 && !p.far
  let whole := reduce || p.op = 5
  let src := p.srcAt x % p.block
  let back0 := if whole then min src (x % p.elem) else src
  let back := if reduce then back0 else min back0 (p.dstCut x % p.block)
  let o := max lo (x - back)
  let n0 := min (hi - o) (p.inBlock (p.srcAt o))
  let n1 := if whole then min n0 (p.elem - o % p.elem) else n0
  (o, if reduce then n1 else min n1 (p.inBlock (p.dstCut o)))

/-- The next chunk that a request reads: any that it may (R175, R200), as a free value picks. -/
def Pending.nextRead (p : Pending) (v : Nat) : Option (Nat × Nat) :=
  let l := p.readSpans
  (spanAt l (v % max 1 (l.map fun (a, b) => b - a).sum)).map fun (x, lo, hi) => p.chunkAt x lo hi

/-- OFF of an error at an offset (R201): nothing of an ordered contribution or of a short request is written, and an element
of a reduction is updated whole. -/
def Pending.errOff (p : Pending) (o : Nat) : Nat :=
  if (p.op = 3 && reqOrdred p.req.w0) || (p.far && reqShort p.req.w0) then 0
  else if p.op = 3 then o / p.elem * p.elem
  else o

/-- A read that failed: no byte from there on is taken any further. -/
def State.readFailed (s : State) (p : Pending) (c : BitVec 8) (o : Nat) : State :=
  let p1 := p.noteErr c (p.errOff o)
  (s.setPend p1).endErr p1

/-- Bytes of the source read. -/
def Pending.got (p : Pending) (o : Nat) (bs : List Byte) : Pending :=
  let p1 := { p with unread := cutSpan p.unread o (o + bs.length) }
  if p.sends then { p1 with copy := p.copy ++ [(o, bs)] } else { p1 with chunks := p.chunks ++ [(o, bs)] }

/-- Bytes of the source that arrive from another device: those that have not arrived before, below the first that cannot be
written (R357, R360, R364). -/
def Pending.landed (p : Pending) (o : Nat) (bs : List Byte) : Pending :=
  let new := clipSpan p.unread o (o + bs.length)
  let kept := clipSpan new 0 p.readable
  { p with
    unread := new.foldl (fun l (a, b) => cutSpan l a b) p.unread
    chunks := p.chunks ++ kept.map fun (a, b) => (a, (bs.drop (a - o)).take (b - a)) }

/-! ## Write (R197, R200) -/

/-- The buffer that a CBFILL fills, with its core (R197). A nonzero w3[63:4], which the rule says is zero, is taken as zero
(DESIGN CHOICE, log 109: neither a cause nor an error is given for it). -/
def State.fillBuffer (s : State) (p : Pending) : Option (Nat × Nat × Cb) :=
  p.req.fillCore.map fun n =>
    let b := (capAddr p.req.w3).toNat % 16
    (n, b, (s.core n).cb b)

/-- The error of a CBFILL's next write to a buffer (R197, R384). -/
def State.fillError (s : State) (p : Pending) (n : Nat) (x : Cb) : Option (BitVec 8) :=
  if !x.valid then some 0x09
  else if !(p.req.sup || s.permitted (targetOf (spPlace n 0)) p.req.part p.unit 2) then some 0x02
  else none

/-- A CBFILL waits for its next slot, and takes it in turn (R187, R197). -/
def State.fillClaim (s : State) (p : Pending) : State :=
  match s.fillBuffer p with
  | none => s.failPend p 0x08 p.wrote
  | some (n, b, x) =>
    match s.fillError p n x with
    | some c => s.failPend p c p.wrote
    | none =>
      let k := s.core n
      let s1 := s.setCore n (k.setCb b { x with waitFree := joinWait x.waitFree (.fill p.id) })
      if x.canPut (.fill p.id) then s1.setPend { p with slot := some x.pidx } else s1

/-- The bytes from an offset on that one write takes: up to the end of their block at the destination, or of the slot (R166,
R197). -/
def State.writeRoom (s : State) (p : Pending) (o : Nat) : Nat :=
  if p.op != 6 then p.inBlock (p.dstAt o)
  else
    match p.slot, s.fillBuffer p with
    | some i, some (_, _, x) =>
      let k := o - p.slotBase
      if k < x.ssz.toNat then min (x.ssz.toNat - k) (p.inBlock (x.slotAddr i + k)) else 0
    | _, _ => 0

/-- A piece cut into those that one write takes each. -/
def cutPiece (room : Nat → Nat) : Nat → Nat × List Byte → List (Nat × List Byte)
  | 0, _ => []
  | n + 1, (o, bs) =>
    if bs = [] || room o = 0 then [] else (o, bs.take (room o)) :: cutPiece room n (o + room o, bs.drop (room o))

/-- The pieces that follow each other from an offset on. -/
def piecesFrom (l : List (Nat × List Byte)) : Nat → Nat → List (Nat × List Byte)
  | 0, _ => []
  | n + 1, o =>
    match l.find? fun x => x.1 == o with
    | some x => x :: piecesFrom l n (o + x.2.length)
    | none => []

/-- The pieces whose destination may be checked now: every byte below them has been read and its destination has passed, since a
request that ends with an error has written nothing from OFF on (R201). What another device sends is installed as it arrives
(R357). -/
def State.toCheck (s : State) (p : Pending) : List (Nat × List Byte) :=
  let l := (p.chunks.map fun x => cutPiece (s.writeRoom p) x.2.length x).flatten
  if p.role == .recv then l else piecesFrom l l.length p.checkedTo

/-- The offset of an error of a request at a byte: for another device's request the first byte of its page (R364, R368). -/
def State.errAt (s : State) (p : Pending) (o : Nat) : Nat :=
  if p.role == .own then o
  else
    let a (i : Nat) : Nat := if p.role == .serve then p.srcAt i else p.dstAt i
    let e := s.heldWalk p.tlbKey p.die p.req.part (a o)
    if e.base ≤ a 0 then 0 else e.base - a 0

/-- Pieces checked in turn: each that passes is ready to be installed, and the first that does not is the request's error.
Whether all have passed. -/
def State.checkPieces (s : State) (p : Pending) : List (Nat × List Byte) → Pending × Bool
  | [] => (p, true)
  | (o, bs) :: rest =>
    let (qs, f) : List (Option Nat) × Option (BitVec 8) :=
      if p.op != 6 then
        let (qs, f) := s.engReach p .w (p.dstAt o) bs.length
        (qs, f.map UnitPlace.code)
      else
        match p.slot, s.fillBuffer p with
        | some i, some (n, _, x) =>
          match s.fillError p n x with
          | some c => ([], some c)
          | none => ((span (spPlace n (x.slotAddr i + (o - p.slotBase))) bs.length).map some, none)
        | _, _ => ([], some 0x08)
    let n := qs.length
    let cells := (qs.zip bs).filterMap fun (q, b) => q.map fun q => (q, b)
    let p1 : Pending := { p with
      chunks := trimPieces p.chunks o (o + n), checkedTo := max p.checkedTo (o + n),
      ready := if n = 0 then p.ready else p.ready ++ [(o, n, cells)] }
    match f with
    | some c => (p1.noteErr c (s.errAt p (o + n)), false)
    | none => s.checkPieces p1 rest

/-- The record of a READ or CBFILL of this device at its own Damper. -/
def DRec.isOwn (r : DRec) (p : Pending) : Bool := r.own && r.reqno == p.reqno

/-- The record of a request whose bytes come from another device. -/
def DRec.of (r : DRec) (p : Pending) : Bool :=
  if p.role == .recv then !r.own && r.src == p.farDev && r.reqno == p.reqno else p.gets && r.isOwn p

/-- The record after every byte of its request up to `n` is installed (R361): a token whose range is installed retires. -/
def DRec.installedTo (r : DRec) (n : Nat) : DRec :=
  match r.token with
  | some (_, _, hi) =>
    if hi ≤ n then
      { r with token := none, saveAfter := false,
               state := if r.left = 0 then .finishing else if r.saveAfter then .saved else .waiting }
    else r
  | none => r

/-- A request whose bytes another device sends goes on after an installation: its record's token may retire, to the end of its
priority's order; the record of this device's own is freed and the sender told once every byte is installed (R361, R368). -/
def State.gotBytes (s : State) (p : Pending) : State :=
  match s.dev.damper.find? fun r => r.of p with
  | none => s
  | some r =>
    let r1 := r.installedTo p.installed
    let others := s.dev.damper.filter fun x => !(x.of p)
    if r1.own && r1.state == .finishing && p.unwritten == [] && (p.len != 0 || p.answered) then
      (s.setDev { s.dev with damper := others }).sendDone r.src r.part r.ltag r.prio r.reqno 1 0
    else if r1.token = r.token then s
    else (s.setDev { s.dev with damper := others ++ [r1] }).noteSaved r1

/-- A piece that is ready installed (R200). -/
def State.installReady (s : State) (p : Pending) (i : Nat) : State :=
  match p.ready[i]? with
  | none => s
  | some (o, n, cells) =>
    let (m, s1) := s.engInstall p.writes cells
    let p1 : Pending := { p with writes := m, unwritten := cutSpan p.unwritten o (o + n), ready := p.ready.eraseIdx i }
    ((s1.setPend p1).gotBytes p1).endErr p1

/-- One chunk that a request has read is installed: any that may be (R175, R200), as a free value picks. -/
def State.installOne (s : State) (p : Pending) (v : Nat) : State :=
  let l := s.toCheck p
  let n := p.ready.length
  let i := v % max 1 (n + l.length)
  if n + l.length = 0 then s.endErr p
  else if i < n then s.installReady p i
  else
    let due := if p.role == .recv then (l.drop (i - n)).take 1 else l.take (i - n + 1)
    let pages (k : State) : State :=
      if p.op = 6 then k else s.engPages p (p.dstAt ((due.head?.map (·.1)).getD 0)) ((due.map fun x => x.2.length).sum) k
    pages <|
      match s.checkPieces p due with
      | (p1, true) => s.installReady p1 (p1.ready.length - 1)
      | (p1, false) => (s.setPend p1).endErr p1

/-! ## Sending (R345, R355, R357) -/

/-- The DATA flit of some bytes of a prefix or of a token's range (R345, R357). -/
def Pending.dataFlit (p : Pending) (own : BitVec 12) (token : BitVec 16) (chunk : Nat) (bs : List Byte) : Flit :=
  let h := { p.head own 3 0 with bytes := bs.length, token := token, chunk := chunk }
  { hdr := h.bits, pay := BitVec.ofNat 512 (leNat bs) }

/-- RDATA sent: the data of a short READ that this device serves (R355). -/
def State.sendRdata (s : State) (p : Pending) : State :=
  let h := { p.head s.dev.num 1 2 with bytes := p.len }
  (s.dropPend p).sendOnPlane p.reqno { hdr := h.bits, pay := BitVec.ofNat 512 (leNat (piecesAt p.copy 0 p.len)) }

/-- A flit of a sender sent, once its bytes have been read: any that may be, as a free value picks. A short request, and the
answer to one, goes once all of its data have been read (R355). -/
def State.sendNext (s : State) (p : Pending) (v : Nat) : State :=
  if p.finishing then s
  else if reqShort p.req.w0 then
    if p.err.isSome then s.endErr p
    else if p.unread != [] || p.arrival.isSome then s
    else if p.role == .serve then s.sendRdata p
    else if p.unsent = [] then s
    else (s.setPend { p with unsent := [] }).sendShort p (piecesAt p.copy 0 p.len)
  else
    match p.sendable[v % max 1 p.sendable.length]? with
    | none => s.endErr p
    | some x =>
      let (a, b) := p.flitAt x
      let p1 := { p with unsent := p.unsent.erase x }
      ((s.setPend p1).sendBulk p.reqno x.2 (p.dataFlit s.dev.num x.1 x.2 (piecesAt p.copy a (b - a)))).endErr p1

/-! ## Ordered reductions (R202) -/

/-- RANK, the count and the group of the rank word. -/
def rankOf (w : BitVec 64) : Nat := (w.extractLsb' 0 16).toNat
def rankCount (w : BitVec 64) : Nat := (w.extractLsb' 16 16).toNat
def rankGroup (w : BitVec 64) : BitVec 32 := w.extractLsb' 32 32

/-- Two contributions agree in LEN and RTYPE. -/
def sameShape (a b : BitVec 64) : Bool := reqLen a == reqLen b && reqRtype a == reqRtype b

/-- The contributions of a group to a destination that a die stages and that wait for the rest of it. -/
def Die.group (d : Die) (g : BitVec 32) (dest : Nat) : List Staged :=
  d.staged.filter fun x => x.group == g && x.dest == dest && !x.begun

/-- The contributions of a group that has arrived whole. -/
def Die.whole (d : Die) (g : BitVec 32) (dest : Nat) : List Staged :=
  d.staged.filter fun x => x.group == g && x.dest == dest && x.begun

/-- A contribution leaves a die's staging area. -/
def State.unstage (s : State) (die : Nat) (x : Staged) : State :=
  s.setDie die { s.die die with staged := (s.die die).staged.filter fun y => y.req != x.req }

/-- A staged contribution replaced. -/
def State.setStaged (s : State) (die : Nat) (x : Staged) : State :=
  s.setDie die { s.die die with staged := (s.die die).staged.map fun y => if y.req = x.req then x else y }

/-- The die that stages an ordered reduction, and its destination there: the home die of the first byte; for host memory, which
has none, the die of the engine that carries the request (DESIGN CHOICE, log 127); or the error. -/
def State.stagingAt (s : State) (p : Pending) : BitVec 8 ⊕ (Nat × Nat) :=
  match s.unitPlace p.req.core p.die p.req.sup p.req.part p.unit .w (p.dstAt 0) with
  | .at q => .inr (homeDie q, q)
  | .host a => .inr (p.die, 2 ^ 64 + a)
  | f => .inl f.code

/-- A contribution staged, or refused (R202): the request and the state. What decides is its own count for its own rank, and
rank 0's for the group (DESIGN CHOICE, log 128: contributors may differ in n). -/
def State.stageOne (s : State) (p : Pending) (die dest : Nat) : State :=
  let w := capAddr p.req.w3
  let l := (s.die die).group (rankGroup w) dest
  let mismatch := match l.find? fun x => x.rank == 0 with
    | some x => !sameShape x.w0 p.req.w0
    | none => false
  if rankCount w ≤ rankOf w || mismatch || l.any (fun x => x.rank == rankOf w) then s.failPend p 0x06 0
  else if Config.stagingBytes die < ((s.die die).staged.map fun x => x.bytes.length).sum + p.len then s.failPend p 0x05 0
  else
    let x : Staged :=
      { req := p.id, group := rankGroup w, dest := dest, rank := rankOf w, count := rankCount w, w0 := p.req.w0,
        bytes := piecesAt p.chunks 0 p.len }
    let s1 := (s.setDie die { s.die die with staged := (s.die die).staged ++ [x] }).setPend { p with staged := true, chunks := [] }
    if x.rank = 0 then
      (l.filter fun y => !sameShape y.w0 x.w0).foldl (fun s y =>
        let s2 := s.unstage die y
        match s2.dev.engines.find? fun z => z.id == y.req with
        | some z => s2.failPend z 0x06 0
        | none => s2) s1
    else s1

/-- A group whose ranks have all arrived is taken together (R202). -/
def State.beginGroup (s : State) (die : Nat) (g : BitVec 32) (dest : Nat) : State :=
  let l := (s.die die).group g dest
  let n := match l.find? fun x => x.rank == 0 with
    | some x => x.count
    | none => 0
  let ranks := (List.range n).filterMap fun r => l.find? fun x => x.rank == r
  if n != 0 && ranks.length == n && (s.die die).whole g dest == [] then
    ranks.foldl (fun s x => s.setStaged die { x with begun := true }) s
  else s

/-- Every contribution of a group that has been applied completes (R202). -/
def State.endGroup (s : State) (die : Nat) (l : List Staged) : State :=
  l.foldl (fun s x =>
    let s1 := s.unstage die x
    match s1.dev.engines.find? fun p => p.id == x.req with
    | some p => s1.setPend { p with unwritten := [], finishing := true }
    | none => s1) s

/-- The contribution of a whole group that is applied next: in ascending rank (R202). -/
def nextRank (l : List Staged) : Option Staged :=
  (l.filter fun x => x.applied < x.bytes.length).foldl (fun b x =>
    match b with
    | some y => if x.rank < y.rank then some x else some y
    | none => some x) none

/-- The next element of a whole group applied, as one Owner step (R196, R202). -/
def State.applyNext (s : State) (die : Nat) (g : BitVec 32) (dest : Nat) : State :=
  let l := (s.die die).whole g dest
  match nextRank l with
  | none => s.endGroup die l
  | some x =>
    match s.dev.engines.find? fun p => p.id == x.req with
    | none => s.unstage die x
    | some p =>
      let es := rtypeSize (reqRtype x.w0)
      s.engPages p (p.dstAt x.applied) es <|
        if !s.elemsCurrent p (p.dstAt x.applied) es then s
        else
          match s.reduceElem p p.writes x.applied ((x.bytes.drop x.applied).take es) with
          | .inl c => (s.unstage die x).failPend p c x.applied
          | .inr (_, m, s1) =>
            (s1.setStaged die { x with applied := x.applied + es }).setPend
              { p with writes := m, unwritten := cutSpan p.unwritten x.applied (x.applied + es) }

/-! ## Stamp, enqueue, Notify (R200, R201) -/

/-- Every payload byte of a request is written. The far side of a READ or CBFILL of no bytes has answered (R355, R361); an
ordered contribution completes with its group (R202). -/
def Pending.payloadDone (p : Pending) : Bool :=
  !p.sends && p.err.isNone && p.unwritten == [] && p.slot.isNone && p.arrival.isNone && !(p.gets && p.len = 0 && !p.answered) &&
    !(p.op = 3 && reqOrdred p.req.w0)

/-- The stamp of a request is written on this device (R198, R346). -/
def Pending.stampHere (p : Pending) : Bool := reqStamp p.req.w0 && (p.role == .recv || (p.role == .own && !p.sends))

/-- Another device's request may go on to its stamp, enqueue message and DONE: no byte of it is still to be granted, and its
record is not saved (R361). -/
def State.recordDue (s : State) (p : Pending) : Bool :=
  p.role != .recv || p.err.isSome || s.dev.damper.all fun r => !r.of p || r.state == .finishing

/-- The unit number of an engine as a sender of messages. -/
def unitEngine (e : Nat) : Nat := 500000 + e

/-- A message that an engine routes (R24, R209), once it can find its home (R380): a discard counts as received, and is reported
to the supervisor of the engine's die. `k` is the state in which it is sent. -/
def State.engSend (s k : State) (p : Pending) (m : Message) : State :=
  let (d, s0) := s.readDesc p.die m.part m.cls
  match routeRefusal d m.cls m.hdr, s0.homeMissing d m.part m.key with
  | none, some va => s0.askUnit 0 p.die m.part va
  | refusal, _ =>
    let k0 := (k.readDesc p.die m.part m.cls).2
    let (home, s1) := k0.findHome p.die d m.part m.cls m.key
    let lost (c : BitVec 6) : State :=
      (s1.recvUp p.req.core m.part (hdrLtag m.hdr)).report p.die
        { cause := c, part := m.part, cls := m.cls, key := m.key, unit := if p.engine < 5000 then 2 else 5,
          tuple := if p.engine < 5000 then s1.cluTuple p.engine else s1.dieTuple p.die }
    match refusal with
    | some c => lost c
    | none =>
      match home with
      | .at dev die clu => s1.unitSend (unitEngine p.engine) m (.home dev die clu) none
      | .unmapped => lost 0x24

/-- The key, class and port of a target record (R196). -/
def tgtKey (t : BitVec 128) : BitVec 64 := t.extractLsb' 0 64
def tgtClass (t : BitVec 128) : BitVec 16 := t.extractLsb' 64 16
def tgtPort (t : BitVec 128) : BitVec 2 := t.extractLsb' 80 2

/-- The status word of a request. -/
def Pending.status (p : Pending) : BitVec 64 := statusWord p.err

/-- The completion message of a request (R201, R356). -/
def Pending.completion (p : Pending) : Message :=
  let r := p.req
  let (cls, key, port) :=
    if reqTgt r.w0 then (tgtClass p.target, tgtKey p.target, tgtPort p.target) else (r.cls, r.key, reqNport r.w0)
  let prior : BitVec 64 :=
    if !reqFetching r.w0 || p.err.isSome then 0
    else if reqRtype r.w0 = 3 then sext32 (low32 p.prior) else p.prior
  { part := r.part, cls := cls, key := key, hdr := mkHdr port 3 r.depth 0 r.ltag 1 0,
    pay := mkPay (BitVec.ofNat 64 r.seq) p.status prior 0 0 0 }

/-- The enqueue message of a WRENQ (R196). -/
def Pending.enqueue (p : Pending) : Message :=
  { part := p.req.part, cls := tgtClass p.target, key := tgtKey p.target,
    hdr := mkHdr (tgtPort p.target) 0 p.req.depth 0 p.req.ltag 0 0,
    pay := mkPay (capAddr p.req.dst) (BitVec.ofNat 64 p.len) 0 0 0 0 }

/-- A request may leave the pending set (R200). -/
def State.notifyReady (s : State) (p : Pending) : Bool :=
  p.role != .serve && (p.finishing || (p.payloadDone && !p.stampHere && p.op != 4)) && s.recordDue p &&
    s.seenEverywhere p.writes && s.seenEverywhere p.stamp

/-- The end of a request of this device: `cstat` reports it, and its completion message is placed. -/
def State.notifyOwn (s : State) (p : Pending) : State :=
  let k := s.core p.req.core
  let s1 := (s.dropPend p).setCore p.req.core { k with status := k.status.put p.req.seq p.status }
  if reqNotify p.req.w0 && !p.silent then s.engSend s1 p p.completion else s1

end Sys2Proof.Machine
end

