-- ==== Sys2Proof/Machine/Damper.lean ====
section
/-! DEFINITION. The receiving side of remote requests: short and long requests as they arrive, bulk data, and the Damper
(21/R355 to R368). The model fixes the places of what GRANT, FWD and DONE carry (DESIGN CHOICE, log 39). -/

namespace Sys2Proof.Machine

/-! ## Flits -/

/-- The types of each class (R346). -/
def flitListed (vc typ : Nat) : Bool :=
  match vc with
  | 0 => typ ≤ 4
  | 1 => typ ≤ 5
  | 2 => typ ≤ 4
  | _ => typ == 0

/-- The arrival of a flit of one type: a flit that R346 refuses, and one that holds no data and came with a poison mark, is
discarded and reported, the latter with its hand-off (R385); a flit of another type is not this event's. -/
def onFlit (f : Flit) (vc typ : Nat) (s : State) (k : State → State) : Out :=
  if !flitResvOk f || !flitListed (flitVc f) (flitType f) then .next ((s.goodFlit f).discardFlit f)
  else if f.poison && !flitHoldsData f then .next ((s.goodFlit f).reportHandOff handOffLink)
  else if flitVc f = vc && flitType f = typ then .next (k (s.goodFlit f))
  else .next s

/-- A flit that answers or grants, to the device that a flit came from, for its request. -/
def State.answer (s : State) (f : Flit) (vc : BitVec 2) (typ : BitVec 5) (bytes : Nat) (pay : BitVec 512) : State :=
  let h : FlitHead :=
    { vc := vc, typ := typ, src := s.dev.num, dst := flitSrc f, part := flitPart f, ltag := flitLtag f, prio := flitPrio f,
      bytes := bytes, req := flitReq f }
  s.sendOnPlane (flitReq f) { hdr := h.bits, pay := pay }

/-- DONE with an error and OFF = `off`. -/
def State.answerError (s : State) (f : Flit) (code : BitVec 8) (off : Nat) : State :=
  s.answer f 1 1 16 (flitPay (statusWord (some (code, off))) 0 0 0 0 0 0 0)

/-- FWD, naming a device and an address (R365). -/
def State.answerFwd (s : State) (f : Flit) (dev : BitVec 12) : State :=
  s.answer f 1 3 16 (flitPay (dev.setWidth 64) (flitWord f 1) 0 0 0 0 0 0)

/-- A request flit held back at the port of its plane, in the buffer that the class has there; where that is full the link
gives no credit, and the flit is still under way (R347). -/
def State.holdFlit (s : State) (f : Flit) : State :=
  let n := s.flitPlane f
  let x := s.port n
  if x.held.contains f || classReserve 0 ≤ x.held.length then s else s.setPort n { x with held := x.held ++ [f] }

/-- A flit held back no longer. -/
def State.unholdFlit (s : State) (f : Flit) : State :=
  s.setDev { s.dev with ports := s.dev.ports.map fun (n, x) => (n, { x with held := x.held.filter fun y => y != f }) }

/-! ## Requests of other devices -/

/-- The flue engine that carries out what a request of another device needs here (DESIGN CHOICE, log 40). -/
def servingEngine (req : BitVec 24) : Nat := 5000 + req.toNat % 16

/-- The request of a LONG or SHORT flit, as this device carries it out. -/
def farRequest (f : Flit) (w0 : BitVec 64) (src dst w3 : BitVec 64) (depth : BitVec 4) : Request :=
  { issuer := 0, core := 0, seq := 0, w0 := w0, src := dataReg src, dst := dataReg dst, w3 := dataReg w3, part := flitPart f,
    ltag := flitLtag f, depth := depth }

/-- A pending entry for a request of another device. -/
def farPending (f : Flit) (role : EngRole) (r : Request) (n : Nat) : Pending :=
  { engine := servingEngine (flitReq f), role := role, req := r, id := n, len := reqLen r.w0, far := true, reqno := flitReq f,
    farDev := flitSrc f }

/-- The next number of a pending entry. -/
def State.nextId (s : State) : Nat × State := (s.dev.opSeq + 1, s.setDev { s.dev with opSeq := s.dev.opSeq + 1 })

/-- A pending entry added to the engines. -/
def State.addPend (s : State) (p : Pending) : State := s.setDev { s.dev with engines := s.dev.engines ++ [p] }

/-- What the first page of a request of another device is at this one (R364, R365, R368). -/
def State.firstPage (s : State) (f : Flit) : UnitPlace :=
  let a := (flitWord f 1).toNat
  if windowOf false a != .virt then .noWindow
  else s.unitPlace 0 0 false (flitPart f) 19 (if srcRemote (reqOp (flitWord f 0)) then .r else .w) a

/-- The bytes of a payload's data words (R346). -/
def shortData (f : Flit) (n : Nat) : List Byte := leBytes (f.pay.extractLsb' 256 256).toNat n

/-- The rank word that a flit of an ordered reduction carries; where the data leave it no room, a free value stands for it
(DESIGN CHOICE, log 38). -/
def flitRank (f : Flit) (free : BitVec 64) : BitVec 64 :=
  let w0 := flitWord f 0
  if flitType f = 1 && 24 < reqLen w0 then free else flitWord f 7

/-- The pending entry for a request of another device: one that this device serves, or one whose bytes come here. The depth of
its enqueue message is not carried by the flits (DESIGN CHOICE, log 38). Its checks are still to come. -/
def State.entryFor (s : State) (f : Flit) : Pending × State :=
  let w0 := flitWord f 0
  let (n, s1) := s.nextId
  let read := srcRemote (reqOp w0)
  let (a, s2) := s1.fresh
  let (b, s3) := s2.fresh
  let w3 := if reqOp w0 = 3 && reqOrdred w0 then flitRank f b else flitWord f 2
  let r := if read then farRequest f w0 (flitWord f 1) 0 0 0 else farRequest f w0 0 (flitWord f 1) w3 (a.setWidth 4)
  let p := farPending f (if read then .serve else .recv) r n
  ({ p with
      unread := fullSpan p.len, unwritten := fullSpan p.len, arrival := some f, target := f.pay.extractLsb' 256 128,
      heard := s.clock (clockFlue p.die) }, s3)

/-- The bytes of a request of another device that are checked when it arrives: its first byte, or all of a short one (R364). -/
def Pending.arrivalLen (p : Pending) : Nat := if reqShort p.req.w0 then max 1 p.len else 1

/-- A pending entry of another device's request that ends before it has begun, with its record. -/
def State.dropArrival (s : State) (p : Pending) : State :=
  let s1 := s.dropPend p
  s1.setDev { s1.dev with
    damper := s1.dev.damper.filter fun r => !r.of p
    prefixes := s1.dev.prefixes.filter fun r => !r.of p }

/-- A short request whose pages have passed (R355, R364): its data are ready, and what its write or reduction changes lies in no
poisoned block. Data that came with a poison mark end it as poisoned data do (R385, R386). -/
def State.takeShort (s : State) (f : Flit) (p : Pending) : State :=
  if f.poison then ((s.dropArrival p).reportHandOff handOffLink).answerError f 0x03 0
  else if p.role == .serve then s.setPend { p with arrival := none }
  else
    let (qs, _) := s.engReach p .w (p.dstAt 0) p.len
    if p.op = 3 && (s.cleanBytes 0 qs).length < p.len then (s.dropArrival p).answerError f 0x03 0
    else
      let p1 := { p with arrival := none, unread := [], chunks := [(0, shortData f p.len)] }
      s.setPend (if p.op = 3 then p1 else (s.checkPieces p1 (s.toCheck p1)).1)

/-- The checks of another device's request when it arrives (R364, R365, R367, R368), once its pages are translated (R380): of
the first page of a long one, and of every page of a short one, whose fault writes nothing. A request redirected to a peer
device frees what it has here; one behind the host link stays. -/
def State.checkArrival (s : State) (p : Pending) (f : Flit) : State :=
  let off (s : State) : State := s.dropArrival p
  match s.firstPage f with
  | .noWindow => (off s).answerError f 0x08 0
  | first =>
    s.engPages p (flitWord f 1).toNat p.arrivalLen <|
      match first with
      | .peer d => (off s).answerFwd f d
      | .translation => (off s).answerError f 0x01 0
      | .access => (off s).answerError f 0x02 0
      | _ =>
        if reqShort p.req.w0 then
          match (s.engReach p (if p.role == .serve then .r else .w) (flitWord f 1).toNat p.len).2 with
          | some c => (off s).answerError f c.code 0
          | none => s.takeShort f p
        else
          let s1 := s.setPend { p with arrival := none }
          let s2 := s1.setDev { s1.dev with damper := s1.dev.damper.map fun r => if r.of p then { r with checked := true } else r }
          if s.dev.prefixes.any fun r => r.of p then s2 else s2.answer f 1 0 0 0

/-- SHORT (R355): entered, and checked at once if its pages are translated. -/
def State.shortRequest (s : State) (f : Flit) : State :=
  let (p, s1) := s.entryFor f
  (s1.addPend p).checkArrival p f

/-- SHORT arrives (R355). -/
def execShort (f : Flit) (s : State) : Out := onFlit f 0 1 s fun s => s.shortRequest f

/-! ## The record of a request (R358, R361, R367) -/

/-- The record of a request of another device; its first page is still to be checked. -/
def recOf (f : Flit) : DRec :=
  let w0 := flitWord f 0
  let n := reqPrefixLen w0
  { src := flitSrc f, reqno := flitReq f, part := flitPart f, ltag := flitLtag f, prio := flitPrio f, next := n,
    left := reqLen w0 - n, w0 := w0, addr := flitWord f 1, state := if reqLen w0 = n then .finishing else .waiting,
    checked := false }

/-- A record is another device's request with a number. -/
def DRec.is (r : DRec) (src : BitVec 12) (req : BitVec 24) : Bool := !r.own && r.src == src && r.reqno == req

/-- A header from which the answers to a record's device are made. -/
def DRec.flit (r : DRec) (own : BitVec 12) : Flit :=
  let h : FlitHead := { vc := 0, typ := 0, src := r.src, dst := own, part := r.part, ltag := r.ltag, prio := r.prio, req := r.reqno }
  { hdr := h.bits, pay := 0 }

/-- The pending entry of a record. -/
def State.pendOf (s : State) (r : DRec) : Option Pending := s.dev.engines.find? fun p => r.of p && !p.finishing

/-- LONG (R355, R361, R365, R367, R368): entered and registered, and checked at once if its first page is translated; or held
back while there is no record, or no tracker entry, for it. -/
def State.longRequest (s0 : State) (f : Flit) : State :=
  let s := s0.unholdFlit f
  let w0 := flitWord f 0
  let (p, s1) := s.entryFor f
  if srcRemote (reqOp w0) then (s1.addPend p).checkArrival p f
  else if reqPrefix w0 then
    if 4096 ≤ s.dev.prefixes.length then s0.holdFlit f
    else
      let s2 := s1.addPend p
      (s2.setDev { s2.dev with prefixes := s2.dev.prefixes ++ [{ recOf f with since := s.clock clockDamper }] }).checkArrival p f
  else if 65536 ≤ s.dev.damper.length then s0.holdFlit f
  else
    let r0 := recOf f
    let r := if s.tagSaved r0.part r0.ltag then { r0 with state := .saved } else r0
    let s2 := s1.addPend p
    ((s2.setDev { s2.dev with damper := s2.dev.damper ++ [r] }).noteSaved r).checkArrival p f

/-- LONG arrives (R361). -/
def execLong (f : Flit) (s : State) : Out := onFlit f 0 0 s fun s => s.longRequest f

/-! ## Bulk data (R357, R360, R364) -/

/-- A request's error noted, or its end where every byte below it is installed (R364). -/
def State.noteFault (s : State) (p : Pending) (c : BitVec 8) (o : Nat) : State :=
  let p1 := p.noteErr c o
  (s.setPend p1).endErr p1

/-- A record moved behind the others: the order in which records last became WAITING (R359). -/
def State.requeue (s : State) (r : DRec) : State :=
  let same (x : DRec) : Bool := x.own == r.own && x.src == r.src && x.reqno == r.reqno
  s.setDev { s.dev with damper := (s.dev.damper.filter fun x => !same x) ++ [r] }

/-- The live token of a record is a flit's. -/
def DRec.holds (r : DRec) (f : Flit) : Bool :=
  r.src == flitSrc f && r.reqno == flitReq f &&
    match r.token with
    | some (t, _, _) => t == flitToken f
    | none => false

/-- A record replaced in the Damper, one of this device's own too. -/
def State.swapRec (s : State) (r : DRec) : State :=
  let same (x : DRec) : Bool := x.own == r.own && x.src == r.src && x.reqno == r.reqno
  s.setDev { s.dev with damper := s.dev.damper.map fun x => if same x then r else x }

/-- The bytes of a DATA flit at an offset of a request reach it, to be installed (R357, R360); data that came with a poison mark
are an error there (R385, R386). -/
def State.takeData (s : State) (f : Flit) (p : Pending) (off n : Nat) : State :=
  if f.poison then (s.reportHandOff handOffLink).noteFault p 0x03 off
  else s.setPend (p.landed off ((flitData f).take n))

/-- DATA under a token (R360). -/
def State.tokenData (s : State) (f : Flit) (r : DRec) : State :=
  match r.token, s.pendOf r with
  | some (_, lo, hi), some p =>
    let off := lo + 64 * flitChunk f
    (s.swapRec { r with state := .flowing }).takeData f p off (hi - off)
  | _, _ => s

/-- DATA of a prefix (R357, R364, R367). -/
def State.prefixData (s : State) (f : Flit) : State :=
  let take (s : State) (r : DRec) : State :=
    match s.pendOf r with
    | some p => s.takeData f p (64 * flitChunk f) (reqPrefixLen r.w0 - 64 * flitChunk f)
    | none => s
  match s.dev.damper.find? fun r => r.is (flitSrc f) (flitReq f) with
  | some r => take s r
  | none =>
    match s.dev.prefixes.find? fun r => r.is (flitSrc f) (flitReq f) with
    | some r =>
      take (s.setDev { s.dev with
        prefixes := s.dev.prefixes.map fun x => if x.is r.src r.reqno then { x with since := s.clock clockDamper } else x }) r
    | none => s

/-- DATA arrives (R360): under a void token it is discarded. -/
def execData (f : Flit) (s : State) : Out :=
  onFlit f 3 0 s fun s =>
    if flitToken f = 0 then s.prefixData f
    else
      match s.dev.damper.find? fun r => r.holds f with
      | some r => s.tokenData f r
      | none => s

/-! ## Grants (R359, R360, R364) -/

/-- The live tokens. -/
def State.liveTokens (s : State) : List (BitVec 16) := s.dev.damper.filterMap fun r => r.token.map (·.1)

/-- A number from 1 to 65,535 that no live token has, from the last on (R360). -/
def State.freeToken (s : State) : BitVec 16 :=
  let live := s.liveTokens
  let n := ((List.range (live.length + 1)).map fun i => (s.dev.damperToken - 1 + i) % 65535 + 1).find? fun t =>
    !live.contains (BitVec.ofNat 16 t)
  BitVec.ofNat 16 (n.getD 1)

/-- The bytes left of a record that may be granted: up to the first that is known to fault (R364). -/
def State.grantable (s : State) (r : DRec) : Nat :=
  match s.pendOf r with
  | some p => min r.left (p.readable - r.next)
  | none => r.left

/-- A record that may be chosen: no further range is granted from a fault on (R364). -/
def State.mayGrant (s : State) (r : DRec) : Bool := r.state == .waiting && r.checked && s.grantable r != 0

/-- The record that a grant slot chooses (R359). -/
def State.choose (s : State) (slot : Nat) : Option DRec :=
  let of (q : Nat) : Option DRec := s.dev.damper.find? fun r => s.mayGrant r && r.prio.toNat == q
  let high : Option DRec := [3, 2, 1, 0].findSome? of
  if slot < 4 then high
  else
    match of (slot - 4) with
    | some r => some r
    | none => high

/-- The first offset of a range whose page does not admit the access, with its error (R364). -/
def State.rangeFault (s : State) (part : BitVec 8) (need : Need) (addr lo hi : Nat) : Option (BitVec 8 × Nat) :=
  let starts := lo :: ((List.range 3).map fun i => (addr + lo) / 65536 * 65536 + 65536 * (i + 1) - addr).filter fun o => o < hi
  starts.findSome? fun o =>
    match s.unitPlace 0 0 false part 19 need (addr + o) with
    | .at _ => none
    | .host _ => none
    | f => some (f.code, o)

/-- GRANT sent (R346): the range and the token stand in its payload, since TOKEN is 0 outside the bulk class (R345). -/
def State.sendGrant (s : State) (r : DRec) (t : BitVec 16) (lo hi : Nat) : State :=
  let h : FlitHead :=
    { vc := 2, typ := 0, src := s.dev.num, dst := r.src, part := r.part, ltag := r.ltag, prio := r.prio, bytes := 24, req := r.reqno }
  s.sendOnPlane r.reqno
    { hdr := h.bits, pay := flitPay (BitVec.ofNat 64 lo) (BitVec.ofNat 64 (hi - lo)) (t.setWidth 64) 0 0 0 0 0 }

/-- A range of a record granted. -/
def State.grantRange (s : State) (r : DRec) (hi : Nat) : State :=
  let t := s.freeToken
  let r1 := { r with
    token := some (t, r.next, hi), state := .granted, since := s.clock clockDamper, left := r.left - (hi - r.next), next := hi }
  ((s.setDev { s.dev with damperToken := t.toNat }).swapRec r1).sendGrant r t r.next hi

/-- DAMPER_GRANT (R359): the grant of slot `slot`, when it is the next and a token is free. Every page of the range is
translated and checked first (R364, R380), and a record whose next page faults is granted nothing and takes no slot. -/
def execDamperGrant (slot : Nat) (s : State) : Out :=
  if slot != s.dev.damperSlot || 1024 ≤ s.liveTokens.length then .next s
  else
    match s.choose slot with
    | none => .next s
    | some r =>
      let hi := r.next + min 65536 (s.grantable r)
      let s1 := s.setDev { s.dev with damperSlot := (slot + 1) % 8 }
      match if r.own then none else s.pendOf r with
      | none => .next (s1.grantRange r hi)
      | some p =>
        .next <| s.engPages p (r.addr.toNat + r.next) (hi - r.next) <|
          match s.rangeFault r.part .w r.addr.toNat r.next hi with
          | none => s1.grantRange r hi
          | some (c, o) =>
            let off := s.errAt p o
            if o = r.next then s.noteFault p c off else (s1.grantRange r o).setPend (p.noteErr c off)

/-- A record whose live token is taken back: the next token grants the same range again (R360). -/
def DRec.regrant (r : DRec) : DRec :=
  match r.token with
  | some (_, lo, hi) => { r with token := none, next := lo, left := r.left + (hi - lo) }
  | none => r

/-- A record's device told something. -/
def State.tell (s : State) (r : DRec) (vc : BitVec 2) (typ : BitVec 5) : State :=
  s.answer (r.flit s.dev.num) vc typ 0 0

/-- The report of an orphan (R362). -/
def State.reportOrphan (s : State) (r : DRec) : State :=
  s.report 0
    { cause := 0x2C, src := 3, part := r.part, unit := 8, tuple := s.devTuple, d0 := r.src.setWidth 64, d1 := r.reqno.setWidth 64,
      d2 := r.ltag.setWidth 64 }

/-- An orphaned record dropped (R362), with its entry: DROP tells the first byte that is not installed (DEDUCED, log 93), and a
READ of this device ends with error 0x04. -/
def State.orphan (s : State) (r : DRec) : State :=
  let same (x : DRec) : Bool := x.own == r.own && x.src == r.src && x.reqno == r.reqno
  let off := match s.pendOf r with
    | some p => p.installed
    | none => r.regrant.next
  let s1 := ((s.setDev { s.dev with damper := s.dev.damper.filter fun x => !same x }).answer (r.flit s.dev.num) 1 4 8
    (flitPay (BitVec.ofNat 64 off) 0 0 0 0 0 0 0)).reportOrphan r
  match s.pendOf r with
  | some p => if r.own then s1.failPend p 0x04 p.wrote else s1.dropPend p
  | none => s1

/-- TOKEN_EXPIRY (R360, R361): the token of the `i`-th record, when no flit under it has arrived in 2^16 cycles. -/
def execTokenExpiry (i : Nat) (s : State) : Out :=
  match s.dev.damper[i]? with
  | none => .next s
  | some r =>
    if r.state != .granted || s.clock clockDamper < r.since + 65536 then .next s
    else if r.exp + 1 < 4 then .next (s.requeue { r.regrant with exp := r.exp + 1, state := .waiting })
    else .next (s.orphan r)

/-- PREFIX_TRACKER_TIMEOUT (R367): the `i`-th tracked write, silent for 2^16 cycles, unless every byte of it is installed. -/
def execPrefixTrackerTimeout (i : Nat) (s : State) : Out :=
  match s.dev.prefixes[i]? with
  | none => .next s
  | some r =>
    match s.pendOf r with
    | none => .next s
    | some p =>
      if p.unwritten = [] || s.clock clockDamper < r.since + 65536 then .next s
      else .next ((s.recvEnd { p with err := some (0x04, p.wrote) }).reportOrphan r)

/-! ## Saving and restoring (R363) -/

/-- A record saved: what the save keeps of it goes into the area, and a live token that has not begun to flow is revoked. -/
def State.saveRec (s : State) (r : DRec) : State :=
  match r.state with
  | .waiting =>
    let r1 := { r with state := .saved, resumed := false }
    (s.swapRec r1).noteSaved r1
  | .granted =>
    let r1 := { r.regrant with state := .saved, resumed := false }
    ((s.swapRec r1).noteSaved r1).tell r 2 1
  | .flowing => s.swapRec { r with saveAfter := true }
  | _ => s

/-- A saved record restored from the area: RESUME goes to its sender. -/
def State.restoreRec (s : State) (r : DRec) : State :=
  let r1 := match s.dev.damperArea.find? fun x => x.is r with
    | some x => { r with next := x.next, left := x.left, exp := x.exp, resumed := true }
    | none => { r with resumed := true }
  ((s.setDev { s.dev with damperArea := s.dev.damperArea.filter fun x => !x.is r }).swapRec r1).tell r 2 2

/-- DAMPER_SAVE (R363): the supervisor's command to save a tag. -/
def execDamperSave (part : BitVec 8) (tag : BitVec 12) (s : State) : Out :=
  let s1 := if s.tagSaved part tag then s else s.setDev { s.dev with damperSaved := s.dev.damperSaved ++ [(part, tag)] }
  .next ((s1.dev.damper.filter fun r => r.part == part && r.ltag == tag).foldl (fun s r => s.saveRec r) s1)

/-- DAMPER_RESTORE (R363): RESUME goes out for every saved record of the tag. -/
def execDamperRestore (part : BitVec 8) (tag : BitVec 12) (s : State) : Out :=
  let s1 := s.setDev { s.dev with damperSaved := s.dev.damperSaved.filter fun x => x != (part, tag) }
  .next ((s1.dev.damper.filter fun r => r.part == part && r.ltag == tag).foldl (fun s r =>
    if r.state == .saved then s.restoreRec r else s.swapRec { r with saveAfter := false }) s1)

/-- REREQ at the Damper (R361, R362). A record with no byte left is FINISHING, where one with bytes left is WAITING (DEDUCED,
log 92). -/
def State.renewed (s : State) (f : Flit) : State :=
  match s.dev.damper.find? fun r => r.src == flitSrc f && r.reqno == flitReq f with
  | none => s.answer f 1 4 0 0
  | some r =>
    if r.state == .saved then
      if r.resumed then s.requeue { r with state := if r.left = 0 then .finishing else .waiting, resumed := false }
      else s.answer f 1 0 0 0
    else s

/-- REREQ arrives (R361). -/
def execRereq (f : Flit) (s : State) : Out := onFlit f 0 2 s fun s => s.renewed f

end Sys2Proof.Machine
end

