-- ==== Sys2Proof/Machine/Launch.lean ====
section
/-! DEFINITION. The launcher, the sweeps that end a launch, and system gangs (11/R230 to R236, R240 to R242). -/

namespace Sys2Proof.Machine

/-! ## Expansion (R230) -/

/-- The unit number of a die's launcher as a sender of messages. -/
def unitLauncher (die : Nat) : Nat := 200000 + die

/-- A launcher's count of sent and received items of a tag (R233). -/
def State.launcherSent (s : State) (die : Nat) (part : BitVec 8) (tag : BitVec 12) : State :=
  let d := s.die die
  s.setDie die { d with sent := countUp d.sent part tag }

/-- A launcher's RECV of a tag raised by one: it discarded an item. -/
def State.launcherRecv (s : State) (die : Nat) (part : BitVec 8) (tag : BitVec 12) : State :=
  let d := s.die die
  s.setDie die { d with recv := countUp d.recv part tag }

/-- The report of a die's launcher. -/
def State.launcherReport (s : State) (die : Nat) (r : LaunchRec) (cause : BitVec 6) : State :=
  s.report die { cause := cause, part := r.part, cls := recClass r.w0, unit := 4, tuple := s.dieTuple die }

/-- A launcher's read of bytes that a record's capability names; none where the capability or memory refuses it. -/
def State.launcherRead (s : State) (die : Nat) (r : LaunchRec) (a n : Nat) : Option Nat :=
  if (checkCap r.sup r.w3 a n permLoad false).isSome then none
  else (s.unitRead r.core die r.sup r.part 23 a n).map leNat

/-- The item count of a record, read at the start of expansion; none where it cannot be read (R230, R304). -/
def State.launchCount (s : State) (die : Nat) (r : LaunchRec) : Option Nat :=
  let a := (capAddr r.w3).toNat
  match recCsrc r.w0 with
  | 0 => some (recCount r.w0)
  | 1 =>
    match s.launcherRead die r a 64 with
    | none => none
    | some x =>
      let d : BitVec 512 := BitVec.ofNat 512 x
      let i := recDim r.w0
      if a % 64 != 0 || dkMalformed d then none
      else if dkPtr d i then s.launcherRead die r (dkPtrAddr a d i) 4
      else some (dkExt d i).toNat
  | _ => s.launcherRead die r a 8

/-- An address that a record's count is read through, and that the launchers of the die have still to translate (R380). -/
def State.launcherMissing (s : State) (die : Nat) (r : LaunchRec) : Option Nat :=
  let a := (capAddr r.w3).toNat
  let missing (a n : Nat) : Option Nat := if r.sup then none else s.missing (unitKey die 23) r.part a n
  match recCsrc r.w0 with
  | 0 => none
  | 1 =>
    match missing a 64 with
    | some va => some va
    | none =>
      match s.launcherRead die r a 64 with
      | none => none
      | some x =>
        let d : BitVec 512 := BitVec.ofNat 512 x
        if dkPtr d (recDim r.w0) then missing (dkPtrAddr a d (recDim r.w0)) 4 else none
  | _ => missing a 8

/-- Why a class would discard every item of a record (R24, R209, R230). -/
def launchRefusal (d : BitVec 512) (r : LaunchRec) : Option (BitVec 6) :=
  let c := recClass r.w0
  if !descValid d then some 0x20
  else if descMalformed d c then some 0x21
  else if descSheet d then none
  else routeRefusal d c (mkHdr (recPort r.w0) 0 (recDepth r.w0) 0 (recLtag r.w0) 0 0)

/-- LAUNCH_EXPANSION_START (R230): the lowest-numbered record of the die whose expansion has not started. -/
def execLaunchExpansionStart (die : Fin 8) (s : State) : Out :=
  let d := die.val
  match (s.die d).pool.find? fun x => !x.2.started with
  | none => .next s
  | some (i, r) =>
    let ended (s : State) : State := s.setDie d { s.die d with pool := (s.die d).pool.drop i }
    match s.launcherMissing d r, s.launchCount d r with
    | some va, _ => .next (s.askUnit (unitKey d 23) d r.part va)
    | none, none => .next ((ended s).launcherReport d r 0x29)
    | none, some n =>
      if 1048575 < n then .next ((ended s).launcherReport d r 0x29)
      else
        let (desc, s1) := s.readDesc d r.part (recClass r.w0)
        match launchRefusal desc r with
        | some cause => .next ((ended s1).launcherReport d r cause)
        | none =>
          if n = 0 then .next (ended s1)
          else
            let k := s1.die d
            .next (s1.setDie d { k with pool := k.pool.put i { r with started := true, n := n, desc := desc } })

/-- A record has items left to make. -/
def LaunchRec.itemsLeft (r : LaunchRec) : Bool := r.started && (r.again != [] || r.next < r.n)

/-- The item that a record makes next: one that a die failure has lost first (23/R390), then in ascending order. -/
def LaunchRec.item (r : LaunchRec) : Nat := r.again.headD r.next

/-- A record once that item is made. -/
def LaunchRec.made (r : LaunchRec) : LaunchRec :=
  if r.again = [] then { r with next := r.next + 1 } else { r with again := r.again.drop 1 }

/-- A record's AUX as its items carry it: a value for CSRC = 00, and 0 otherwise (R230). -/
def LaunchRec.aux (r : LaunchRec) : BitVec 64 := if recCsrc r.w0 = 0 then capAddr r.w3 else 0

/-- The key of item `i` of a record. -/
def LaunchRec.key (r : LaunchRec) (i : Nat) : BitVec 64 := r.w1 + BitVec.ofNat 64 i

/-- The next core of a record's rotation that serves its partition, from core `from0` of the die on (R230, R241). -/
def State.nextServing (s : State) (die from0 : Nat) (part : BitVec 8) : Option Nat :=
  (((List.range 2048).map fun i => (from0 + i) % 2048)).find? fun n => s.candidate (die * 2048 + n) part

/-- The next item of a record of a keyed class made (R230). -/
def State.launchMessage (s : State) (die n : Nat) (r : LaunchRec) : State :=
  let i := r.item
  let m : Message :=
    { part := r.part, cls := recClass r.w0, key := r.key i,
      hdr := mkHdr (recPort r.w0) 0 (recDepth r.w0) 0 (recLtag r.w0) 0 0,
      pay := mkPay r.w2 (BitVec.ofNat 64 i) r.aux (BitVec.ofNat 64 n) 0 0, item := some (die, n, i) }
  let s1 := s.launcherSent die r.part (recLtag r.w0)
  match s1.findHome die r.desc m.part m.cls m.key with
  | (.at dev d c, s1) => s1.unitSend (unitLauncher die) m (.home dev d c) none
  | (.unmapped, s1) => ((s1.launcherRecv die r.part (recLtag r.w0)).launcherReport die r 0x24)

/-- Item `i` of a record of a sheet class (R230). -/
def LaunchRec.sheet (r : LaunchRec) (die n i : Nat) : Sheet :=
  { part := r.part, d0 := BitVec.ofNat 32 i ++ recDepth r.w0 ++ recLtag r.w0 ++ recClass r.w0, d1 := r.key i, d2 := r.w2,
    d3 := r.aux, item := some (die, n, i) }

/-- One item of a record made, if it can be: a sheet waits for the next core of the record's rotation to have room (R230; the
rotation begins at the die's first core: DESIGN CHOICE, log 124), and a message for the walk by which its home is found
(R380). -/
def State.launchOne (s : State) (die n : Nat) (r : LaunchRec) : Option State :=
  let made (s : State) (f : LaunchRec → LaunchRec) : State :=
    let k := s.die die
    match k.pool.find n with
    | some x => s.setDie die { k with pool := k.pool.put n (f x.made) }
    | none => s
  if descSheet r.desc then
    match s.nextServing die r.nextCore r.part with
    | none => none
    | some c =>
      let core := die * 2048 + c
      match (s.core core).pushSheet (r.sheet die n r.item) with
      | none => none
      | some (_, k) =>
        some (made ((s.setCore core k).launcherSent die r.part (recLtag r.w0)) fun x => { x with nextCore := (c + 1) % 2048 })
  else
    match s.homeMissing r.desc r.part (r.key r.item) with
    | some va => some (s.askUnit 0 die r.part va)
    | none => some (made (s.launchMessage die n r) id)

/-- LAUNCH_ITEM (R230): one item of the next record in turn. -/
def execLaunchItem (die : Fin 8) (s : State) : Out :=
  let d := s.die die.val
  let left := d.pool.filter fun x => x.2.itemsLeft
  match (left.filter fun x => d.nextRec ≤ x.1) ++ left.filter fun x => x.1 < d.nextRec with
  | [] => .next s
  | (n, r) :: _ =>
    let s1 := (s.launchOne die.val n r).getD s
    .next (s1.setDie die.val { s1.die die.val with nextRec := n + 1 })

/-! ## Sweeps (R233 to R236) -/

/-- A core is idle for a tag (R234). -/
def State.coreIdle (s : State) (n : Nat) (k : Core) (part : BitVec 8) (tag : BitVec 12) : Bool :=
  let msg (m : Message) : Bool := m.part == part && hdrLtag m.hdr == tag
  let sheet (x : Sheet) : Bool := x.part == part && x.d0.extractLsb' 16 12 == tag
  let firing (c : Ctx) : Bool := c.run != .idle && c.partid == part && c.ltag == tag
  !(([0, 1, 2, 3] : List (Fin 4)).any fun i => n < 20000 && firing (s.ctx (.ctx (coreIdOf n) i))) &&
    !(k.saved.any fun x => x.ctx.partid == part && x.ctx.ltag == tag) &&
    !(k.actors.any fun a => a.messages.any msg) && !(k.decs.any msg) && !(k.spill.any msg) &&
    !(k.opInbox.any fun o => o.part == part && o.ltag == tag) &&
    !(k.outq.any fun i =>
      match i with
      | .msg m _ _ _ => msg m
      | .carry o => o.part == part && o.ltag == tag) &&
    !((k.quire ++ k.quireOvf).any sheet)

/-- Two units' reports for a tag joined. -/
def SweepSum.add (a b : SweepSum) : SweepSum := { sent := a.sent + b.sent, recv := a.recv + b.recv, idle := a.idle && b.idle }

/-- The report of a unit that has nothing. -/
def SweepSum.none : SweepSum := { idle := true }

/-- The units of the device that a sweep reads: cores by key, clusters from 30000, dies from 40000, and the host interface. A
unit that State has no record of yet has counted nothing, and is idle. -/
def State.sweepUnits (s : State) : List Nat :=
  s.cores.map (·.1) ++ s.clusters.map (fun x => 30000 + x.1) ++ s.dies.map (fun x => 40000 + x.1) ++ [50000]

/-- A unit's counts and idle mark for a tag at this moment (R233, R234). -/
def State.unitSum (s : State) (u : Nat) (part : BitVec 8) (tag : BitVec 12) : SweepSum :=
  let key := tagKey part tag
  let msg (m : Message) : Bool := m.part == part && hdrLtag m.hdr == tag
  if u < 30000 then
    let k := s.core u
    { sent := k.sent.getD key 0, recv := k.recv.getD key 0, idle := s.coreIdle u k part tag }
  else if u < 40000 then
    let k := s.clu (u - 30000)
    { idle := !(k.full.any msg) && k.hearth.all fun (_, h) => !((h.handed ++ h.buffer).any msg) }
  else if u < 50000 then
    let d := s.die (u - 40000)
    { sent := d.sent.getD key 0, recv := d.recv.getD key 0
      idle := !(d.pool.any fun (_, r) => r.part == part && recLtag r.w0 == tag && (!r.started || r.itemsLeft)) }
  else { sent := s.dev.host.sent.getD key 0, recv := s.dev.host.recv.getD key 0, idle := true }

/-- The device's sums and idle mark for a tag, every unit read at one moment: what the device answers to another device's
root (DESIGN CHOICE, log 31). -/
def State.sweepSum (s : State) (part : BitVec 8) (tag : BitVec 12) : SweepSum :=
  (s.sweepUnits.map fun u => s.unitSum u part tag).foldl SweepSum.add SweepSum.none

/-- The key of another device's report. -/
def sweepKey (dev : BitVec 12) (key : Nat) : Nat := dev.toNat * 2 ^ 20 + key

/-- The domain's sums for a tag: the device's own, `own`, and the report of every other device of the domain, without which
no sweep finds every unit idle. -/
def State.domainSum (s : State) (part : BitVec 8) (tag : BitVec 12) (own : SweepSum) : SweepSum :=
  (s.dev.domain.filter fun d => d != s.dev.num).foldl (fun (acc : SweepSum) d =>
    match s.dev.sweepIn.find (sweepKey d (tagKey part tag)) with
    | some x => acc.add x
    | none => { acc with idle := false }) own

/-- The payload of a SWEEP flit: the tag, the sums, and the idle flag, with bit 1 set in a report (R350 fixes no layout;
DESIGN CHOICE, log 32). -/
def sweepFlit (src dst : BitVec 12) (part : BitVec 8) (tag : BitVec 12) (x : SweepSum) (report : Bool) : Flit :=
  let h : FlitHead := { vc := 0, typ := 4, src := src, dst := dst, part := part, ltag := tag, bytes := 64 }
  { hdr := h.bits
    pay := flitPay (tag.setWidth 64) (x.recv ++ x.sent) (0#62 ++ BitVec.ofBool report ++ BitVec.ofBool x.idle) 0 0 0 0 0 }

/-- A SWEEP flit sent under the rules of MSG flits (R350). -/
def State.sendSweep (s : State) (dst : BitVec 12) (f : Flit) : State :=
  s.sendUnder dst { flit := f, die := 0 }

/-- The unit number of a sweep root as a sender of messages. -/
def unitRoot : Nat := 300000

/-- The notices armed for a tag sent and disarmed (R236). -/
def State.sendNotices (s : State) (part : BitVec 8) (tag : BitVec 12) (sum : BitVec 32) : State :=
  let due (n : Notice) : Bool := n.part == part && n.tag == tag
  (s.dev.notices.filter due).foldl (fun s n =>
    let m : Message :=
      { part := part, cls := n.cls, key := n.key, hdr := mkHdr n.port 3 0 0 tag 3 0,
        pay := mkPay (tag.setWidth 64) (sum.setWidth 64) 0 0 0 0 }
    let (d, s1) := s.readDesc 0 part n.cls
    let lost (c : BitVec 6) : State :=
      s1.report 0 { cause := c, part := part, cls := n.cls, key := n.key, unit := 6, tuple := s1.dieTuple 0 }
    match routeRefusal d m.cls m.hdr with
    | some c => lost c
    | none =>
      match s1.findHome 0 d part n.cls n.key with
      | (.at dev die clu, s1) => s1.unitSend unitRoot m (.home dev die clu) none
      | (.unmapped, _) => lost 0x24) (s.setDev { s.dev with notices := s.dev.notices.filter fun n => !due n })

/-- One tag of a sweep (R235), for which the device's own units gave `own`: the launch has ended when this sweep and the last
agree. -/
def State.sweepTag (s : State) (part : BitVec 8) (tag : BitVec 12) (own : SweepSum) : State :=
  let key := tagKey part tag
  let x := s.domainSum part tag own
  let ended := match s.dev.sweeps.find key with
    | some y => x.idle && y.idle && x.sent == x.recv && x == y
    | none => false
  let s1 := (s.dev.domain.filter fun d => d != s.dev.num).foldl (fun s d =>
    (s.setDev { s.dev with sweepIn := s.dev.sweepIn.drop (sweepKey d key) }).sendSweep d
      (sweepFlit s.dev.num d part tag x false)) s
  if ended then (s1.setDev { s1.dev with sweeps := s1.dev.sweeps.drop key }).sendNotices part tag x.sent
  else s1.setDev { s1.dev with sweeps := s1.dev.sweeps.put key x }

/-- The core key of a partition's sweep root (R235): supervisor core 0 of die 0 until the supervisor names another, by means
that the rules do not give (DESIGN CHOICE, log 33). -/
def State.rootOf (s : State) (part : BitVec 8) : Nat := s.dev.roots.getD part.toNat 20000

/-- A sweep with one of the units that are left read, every tag of it at once. -/
def Sweeping.read (x : Sweeping) (s : State) (part : BitVec 8) (u : Nat) : Sweeping :=
  { x with
    left := x.left.erase u
    sums := x.tags.foldl (fun m t => m.put t.toNat ((m.getD t.toNat SweepSum.none).add (s.unitSum u part t))) x.sums }

/-- LAUNCH_SWEEP (R235, R236): the root's sweep of a partition, at most once in 65,536 of its cycles. Each unit is read at a
moment of its own: one a step, in any order; the tags are judged once the last is read. -/
def execLaunchSweep (part : BitVec 8) (s : State) : Out :=
  let put (s : State) (x : Option Sweeping) : State :=
    s.setDev { s.dev with sweeping := match x with
      | some y => s.dev.sweeping.put part.toNat y
      | none => s.dev.sweeping.drop part.toNat }
  match s.dev.sweeping.find part.toNat with
  | some x =>
    if x.left = [] then
      .next (x.tags.foldl (fun s t => s.sweepTag part t (x.sums.getD t.toNat SweepSum.none)) (put s none))
    else
      let (f, s1) := s.fresh
      .next (put s1 (some (x.read s part (pickOf f x.left))))
  | none =>
    let now := (s.core (s.rootOf part)).cyc
    if now < s.dev.sweepAt.getD part.toNat 0 + 65536 then .next s
    else
      let tags := distinct ((s.dev.notices.filter fun n => n.part == part).map fun n => n.tag.toNat)
      let s1 := s.setDev { s.dev with sweepAt := s.dev.sweepAt.put part.toNat now }
      .next (put s1 (some { tags := tags.map (BitVec.ofNat 12), left := s.sweepUnits }))

/-! ## Gangs (R240 to R242) -/

def gdClass (d : BitVec 512) : BitVec 16 := d.extractLsb' 0 16
def gdLtag (d : BitVec 512) : BitVec 12 := d.extractLsb' 16 12
def gdDevbase (d : BitVec 512) : BitVec 12 := d.extractLsb' 28 12
def gdDevcnt (d : BitVec 512) : Nat := (d.extractLsb' 40 13).toNat
def gdDiemask (d : BitVec 512) : BitVec 8 := d.extractLsb' 53 8
def gdClo (d : BitVec 512) : Nat := (d.extractLsb' 61 8).toNat
def gdChi (d : BitVec 512) : Nat := (d.extractLsb' 69 8).toNat
def gdCoremask (d : BitVec 512) : BitVec 8 := d.extractLsb' 77 8
def gdArm (d : BitVec 512) : Bool := d.getLsbD 85
def gdKeybase (d : BitVec 512) : BitVec 64 := d.extractLsb' 128 64
def gdArg (d : BitVec 512) : BitVec 64 := d.extractLsb' 192 64

/-- The member cores on one device, ascending (R240). -/
def gangCores (d : BitVec 512) : List Nat :=
  ((dieBits (gdDiemask d)).map fun die =>
    ((List.range 256).filter fun c => gdClo d ≤ c && c ≤ gdChi d).map fun c =>
      (dieBits (gdCoremask d)).map fun n => (die * 256 + c) * 8 + n).flatten.flatten

/-- Whether this device is a member device of a gang. -/
def State.gangHere (s : State) (d : BitVec 512) : Bool :=
  gdDevbase d ≤ s.dev.num && (s.dev.num - gdDevbase d).toNat < gdDevcnt d

/-- The gang descriptor of a partition's gang table (R240), as its copies hold it. -/
def State.gangDesc (s : State) (part : BitVec 8) (g : Nat) : BitVec 512 × State :=
  let (w, s1) := s.tableWords 0 part (s.ctbaseOf part + 0x400200 + 64 * g) 8
  (BitVec.ofNat 512 w, s1)

/-- The number under which a core is reserved for a gang. -/
def gangId (part : BitVec 8) (g : Nat) : Nat := part.toNat * 64 + g

/-- A core reserved for a gang; its hosted actors are moved away, the pinned ones too (R241). -/
def State.reserveCore (s : State) (id n : Nat) : State :=
  let k := s.core n
  let s1 := s.setCore n { k with gangReserved := some id }
  k.actors.foldl (fun s a => s.moveOrder a.home a.name true) s1

/-- One armed gang of the device's tables: it is noted, and its members on a die are reserved unless it has started. -/
def State.reserveGang (s : State) (die : Nat) (part : BitVec 8) (g : Nat) : State :=
  let (d, s1) := s.gangDesc part g
  if !gdArm d || !s1.gangHere d then s1
  else
    let known := s1.dev.gangs.any fun x => x.part == part && x.index == g
    let s2 := if known then s1 else s1.setDev { s1.dev with gangs := s1.dev.gangs ++ [{ part := part, index := g, desc := d }] }
    if s2.dev.gangs.any fun x => x.part == part && x.index == g && x.started then s2
    else ((gangCores d).filter fun n => n / 2048 == die).foldl (fun s n => s.reserveCore (gangId part g) n) s2

/-- GANG_RESERVE (R241): the member cores on a die of every armed gang. -/
def execGangReserve (die : Fin 8) (s : State) : Out :=
  .next <| (s.dev.ctbase.map fun x => BitVec.ofNat 8 x.1).foldl (fun s part =>
    (List.range 64).foldl (fun s g => s.reserveGang die.val part g) s) s

/-- A member core is free (R241). -/
def State.memberFree (s : State) (n : Nat) : Bool :=
  let k := s.core n
  (([0, 1, 2, 3] : List (Fin 4)).all fun i => (s.ctx (.ctx (coreIdOf n) i)).run == .idle) && k.actors == [] &&
    k.incoming == [] && k.quire == [] && k.quireOvf == [] && k.saved == [] && !(s.die (n / 2048)).failed

/-- The start notice of member `i` of `n` (R241). -/
def startNotice (part : BitVec 8) (d : BitVec 512) (i n : Nat) : Message :=
  { part := part, cls := gdClass d, key := gdKeybase d + BitVec.ofNat 64 i, hdr := mkHdr 0 3 0 0 (gdLtag d) 4 0,
    pay := mkPay (gdArg d) (BitVec.ofNat 64 i) (BitVec.ofNat 64 n) 0 0 0 }

/-- A member core of another device recorded as the host of its member actor, where this device has the actor's home (R241).
A full table has no entry for it (DESIGN CHOICE, log 34). -/
def State.hostAfar (s : State) (dev : BitVec 12) (core : Nat) (m : Message) : State :=
  let (d, s1) := s.readDesc 0 m.part m.cls
  match s1.findHome 0 d m.part m.cls m.key with
  | (.at hd die clu, s2) =>
    let home := die * 256 + clu
    if hd != s2.dev.num.toNat then s2
    else
      match (s2.clu home).entryOf m.name, (s2.clu home).freeHearth with
      | none, some j =>
        s2.setHearth home j
          { part := m.part, cls := m.cls, key := m.key, host := BitVec.ofNat 11 core, hostDie := dieOfCore core,
            hostDev := some dev, state := .live, pin := true }
      | _, _ => s2
  | (.unmapped, s2) => s2

/-- A member's home that is still to be found by a walk (R380), where the gang's members are on several devices. -/
def State.gangMissing (s : State) (part : BitVec 8) (d : BitVec 512) : Option Nat :=
  let (c, s1) := s.readDesc 0 part (gdClass d)
  if gdDevcnt d ≤ 1 then none
  else
    (List.range (gdDevcnt d * (gangCores d).length)).findSome? fun i =>
      s1.homeMissing c part (gdKeybase d + BitVec.ofNat 64 i)

/-- The start of a gang, as this device has a part in it: each member core of its own kindles its member actor, and the homes of
the members on other devices record their cores (R241). -/
def State.startHere (s : State) (part : BitVec 8) (d : BitVec 512) : State :=
  let cores := gangCores d
  let n := gdDevcnt d * cores.length
  (List.range (gdDevcnt d)).foldl (fun s j =>
    let dev := gdDevbase d + BitVec.ofNat 12 j
    ((List.range cores.length).zip cores).foldl (fun s (i, c) =>
      let m := startNotice part d (j * cores.length + i) n
      if dev != s.dev.num then s.hostAfar dev c m
      else
        let k := s.core c
        let x : Incoming := { home := c / 8, part := part, cls := m.cls, key := m.key, gang := some m }
        s.setCore c { k with incoming := k.incoming ++ [x] }) s) s

/-- Port 0 of a gang's class is a count port of an installed keyed class (R241). A port 0 that is the trap port too is one: the
start notice then enters it (DESIGN CHOICE, log 105: R32 and R209 keep other notices out of a trap port). -/
def gangClassOk (d : BitVec 512) (cls : BitVec 16) : Bool :=
  descValid d && !descMalformed d cls && !descSheet d && portKind d 0 == 1

/-- GANG_START (R241): on device DEVBASE, once every member core is free. The other member devices are sent a start
message each (DESIGN CHOICE, log 34: what it holds, and that their own cores are free). -/
def execGangStart (part : BitVec 8) (g : Nat) (s : State) : Out :=
  match s.dev.gangs.find? fun x => x.part == part && x.index == g && !x.started with
  | none => .next s
  | some x =>
    let d := x.desc
    if s.dev.num != gdDevbase d || !(gangCores d).all fun n => (s.core n).gangReserved == some (gangId part g) && s.memberFree n
    then .next s
    else
      let (c, s1) := s.readDesc 0 part (gdClass d)
      let set (f : Gang → Gang) (s : State) : State :=
        s.setDev { s.dev with gangs := s.dev.gangs.map fun y => if y.part == part && y.index == g then f y else y }
      if !gangClassOk c (gdClass d) then
        if x.refused then .next s1
        else
          .next ((set (fun y => { y with refused := true }) s1).report 0
            { cause := 0x25, part := part, cls := gdClass d, unit := 6, tuple := s1.dieTuple 0 })
      else
        match s1.gangMissing part d with
        | some va => .next (s1.askUnit 0 0 part va)
        | none =>
          let s2 := (set (fun y => { y with started := true }) s1).startHere part d
          let per := (gangCores d).length
          .next (((List.range (gdDevcnt d)).drop 1).foldl (fun s j =>
            s.sendMessage 0 (gdDevbase d + BitVec.ofNat 12 j) (startNotice part d (j * per) (gdDevcnt d * per))) s2)

/-- A member actor kindled on its core, with its start notice in the inbox. -/
def State.startMember (s : State) (c : CoreId) (i home : Nat) (x : Incoming) (m : Message) (f : State → State) : State :=
  match s.kindleAt c.ix home x.name true with
  | (true, s1) =>
    let (m1, s2) := (f (s1.setCore c.ix ((s1.core c.ix).dropIncoming i))).stamped c.ix m
    s2.inboxPlace c.ix m1
  | (false, s1) => s1

/-- GANG_START_DELIVERY (R241): a member core kindles its member actor on itself, and the actor receives its notice, for which
the inbox has room (R243). The home records the core as host; it waits for an entry that the actor has already to go, and for
room in the table (DESIGN CHOICE, log 125). A home on another device is that device's (log 34). -/
def execGangStartDelivery (c : CoreId) (s : State) : Out :=
  match (s.core c.ix).incoming.findIdx? fun x => x.gang.isSome with
  | none => .next s
  | some i =>
    match ((s.core c.ix).incoming[i]?).bind fun x => x.gang.map fun m => (x, m) with
    | none => .next s
    | some (x, m) =>
      let (d, s1) := s.readDesc c.die.val x.part x.cls
      match s1.homeMissing d x.part x.key, s1.initMissing c.ix x.name with
      | some va, _ => .next (s1.askUnit 0 c.die.val x.part va)
      | none, some va => .next (s1.askUnit (unitKey c.die.val 22) c.die.val x.part va)
      | none, none =>
        let (at0, s0) := s1.findHome c.die.val d x.part x.cls x.key
        let here := match at0 with
          | .at dev die clu => if dev = s0.dev.num.toNat then some (die * 256 + clu) else none
          | .unmapped => some c.cluIx
        if 64 ≤ (s0.core c.ix).inboxCount then .next s0
        else
          match here with
          | none => .next (s0.startMember c i c.cluIx x m id)
          | some home =>
            match (s0.clu home).entryOf x.name, (s0.clu home).freeHearth with
            | none, some j =>
              let h : Hearth :=
                { part := x.part, cls := x.cls, key := x.key, host := BitVec.ofNat 11 c.ix, hostDie := c.die.val, state := .live,
                  pin := true }
              .next (s0.startMember c i home x m fun s => s.setHearth home j h)
            | _, _ => .next s0

/-- GANG_RELEASE (R242): ARM of the gang's descriptor is clear. -/
def execGangRelease (part : BitVec 8) (g : Nat) (s : State) : Out :=
  let (d, s1) := s.gangDesc part g
  if gdArm d || !s1.dev.gangs.any fun x => x.part == part && x.index == g then .next s1
  else
    let id := gangId part g
    let s2 := s1.setDev { s1.dev with gangs := s1.dev.gangs.filter fun x => !(x.part == part && x.index == g) }
    .next { s2 with cores := s2.cores.map fun (n, k) =>
      (n, if k.gangReserved == some id then { k with gangReserved := none } else k) }

end Sys2Proof.Machine
end

