-- ==== Sys2Proof/Machine/EngineSteps.lean ====
section
/-! DEFINITION. The steps of the requests that engines hold: Read, Write, Stamp and Notify, a slot's put, an element's update
and the enqueue message (09/R196, R197, R200 to R202; 21/R355, R364, R368). Each first waits for the walks that it needs
(23/R380). -/

namespace Sys2Proof.Machine

/-- The pages of a range that this device serves are still to be checked (R368). -/
def Pending.rangeDue (p : Pending) : Bool :=
  p.role == .serve && !reqShort p.req.w0 && p.token != 0 && !p.rangeOk && p.arrival.isNone && p.err.isNone

/-- The pages of a range that this device serves translated and checked, before any byte of it is sent (R368). -/
def State.checkRange (s : State) (p : Pending) : State :=
  s.engPages p (p.srcAt p.lo) (p.hi - p.lo) <|
    match s.rangeFault p.req.part .r (p.srcAt 0) p.lo p.hi with
    | none => s.setPend { p with rangeOk := true }
    | some (c, o) =>
      let p1 := { p.noteErr c (s.errAt p o) with rangeOk := true }
      if o = p.lo then s.serveFail p c (s.errAt p o) else (s.setPend p1).endErr p1

/-- What a request's Read and Write steps wait for, if anything: the checks of another device's request. -/
def State.engReady (s : State) (p : Pending) (k : State) : State :=
  match p.arrival with
  | some f => s.checkArrival p f
  | none => if p.rangeDue then s.checkRange p else k

/-- COPY_READ (R200): a chunk of the source of an engine's `i`-th request, any that may be read (R175). What cannot be read ends
the request once the bytes below it are written. -/
def execCopyRead (e : EngineId) (i : Nat) (s : State) : Out :=
  match s.pend e i with
  | none => .next s
  | some p =>
    .next <| s.engReady p <|
      let (v, s1) := s.fresh
      match p.nextRead v.toNat with
      | none => s
      | some (o, n) =>
        s.engPages p (p.srcAt o) n <|
          match s1.engRead p (p.srcAt o) n with
          | (.err c, s2) => s2.readFailed p c o
          | (.bytes bs, s2) => s2.setPend (p.got o bs)

/-- COPY_WRITE (R200): a chunk that an engine's `i`-th request has read is installed, or sent to the far side. -/
def execCopyWrite (e : EngineId) (i : Nat) (s : State) : Out :=
  match s.pend e i with
  | none => .next s
  | some p =>
    if p.finishing || (p.op = 3 && !p.sends && p.arrival.isNone) then .next s
    else
      .next <| s.engReady p <|
        let (v, s1) := s.fresh
        if p.sends then s1.sendNext p v.toNat
        else if p.op = 6 && p.slot.isNone && p.chunks != [] && p.err.isNone then s.fillClaim p
        else s1.installOne p v.toNat

/-- CBFILL_SLOT_PUT (R197): a slot that is full, or that holds the last byte, becomes filled. -/
def execCbfillSlotPut (e : EngineId) (i : Nat) (s : State) : Out :=
  match s.pend e i with
  | none => .next s
  | some p =>
    match p.slot, s.fillBuffer p with
    | some _, some (n, b, x) =>
      let ends := min p.len (p.slotBase + x.ssz.toNat)
      if !p.finishing && p.slotBase < ends && !meets p.unwritten p.slotBase ends then
        .next ((s.setCore n ((s.core n).setCb b (x.takeFree (.fill p.id)))).setPend { p with slot := none, slotBase := ends })
      else .next s
    | _, _ => .next s

/-- REDUCE_ELEMENT (R196): the next element of an engine's `i`-th request, once it has been read and the view of its home die
holds its last writes. The elements are updated in ascending order (DEDUCED, log 90: each update can fail, and none from OFF on
is made, R201). -/
def execReduceElement (e : EngineId) (i : Nat) (s : State) : Out :=
  match s.pend e i with
  | none => .next s
  | some p =>
    let o := p.wrote
    if p.finishing || p.op != 3 || p.sends || reqOrdred p.req.w0 || p.arrival.isSome || p.len ≤ o then .next s
    else if p.readable ≤ o || meets p.unread o (o + p.elem) then .next (s.endErr p)
    else
      .next <| s.engPages p (p.dstAt o) p.elem <|
        if !s.elemsCurrent p (p.dstAt o) p.elem then s
        else
          match s.reduceElem p p.writes o (piecesAt p.chunks o p.elem) with
          | .inl c =>
            let p1 := p.noteErr c o
            (s.setPend p1).endErr p1
          | .inr (old, m, s1) =>
            let p1 := { p with
              writes := m, unwritten := cutSpan p.unwritten o (o + p.elem), chunks := trimPieces p.chunks o (o + p.elem),
              prior := BitVec.ofNat 64 old }
            ((s1.setPend p1).gotBytes p1).endErr p1

/-- ORDERED_REDUCE_APPLY (R202): a contribution whose bytes have all been read is staged; once ranks 0 to n − 1 of its group
have arrived, their elements are applied one by one, in ascending rank. -/
def execOrderedReduceApply (e : EngineId) (i : Nat) (s : State) : Out :=
  match s.pend e i with
  | none => .next s
  | some p =>
    if p.finishing || p.op != 3 || p.sends || !reqOrdred p.req.w0 || p.arrival.isSome || p.unread != [] then .next s
    else
      .next <| s.engPages p (p.dstAt 0) 1 <|
        match s.stagingAt p with
        | .inl c => s.failPend p c 0
        | .inr (die, q) =>
          let g := rankGroup (capAddr p.req.w3)
          if !p.staged then s.stageOne p die q
          else
            let s1 := s.beginGroup die g q
            if (s1.die die).whole g q == [] then s1 else s1.applyNext die g q

/-- STAMP (R200): the sequence number written through w3 as a release; a failure ends the request with OFF = LEN (R201). The
number of another device's request is not known here (DESIGN CHOICE, log 38). -/
def execStamp (e : EngineId) (i : Nat) (s : State) : Out :=
  match s.pend e i with
  | none => .next s
  | some p =>
    if p.finishing || !p.stampHere || !p.payloadDone || !s.recordDue p || !s.seenEverywhere p.writes then .next s
    else
      let (free, s0) := s.fresh
      let (v, s1) := if p.role == .own then (BitVec.ofNat 64 p.req.seq, s) else (free, s0)
      let a := (capAddr p.req.w3).toNat
      .next <| s.engPages p a 8 <|
        match s1.engReach p .w a 8 with
        | (_, some f) => s1.setPend (p.fail f.code p.len)
        | (qs, none) =>
          let cells := (qs.zip (leBytes v.toNat 8)).filterMap fun (q, b) => q.map fun q => (q, b)
          if cells = [] then s1.setPend { p with finishing := true }
          else
            let s2 := s1.writeAt (homeDie ((cells.map (·.1)).headD 0)) (plainCells cells) true p.writes
            s2.setPend { p with finishing := true, stamp := noteWrites [] (cells.map (·.1)) s2.dev.wseq }

/-- The item that a WRENQ's enqueue message is counts as sent: at the core that posted the request, or, for another device's
request, at the launcher of the engine's die (DESIGN CHOICE, log 129: R233 names no point for it, and counts it when it is
consumed). -/
def State.enqueueSent (s : State) (p : Pending) : State :=
  if p.role == .own then s.sentUp p.req.core p.req.part p.req.ltag else s.launcherSent p.die p.req.part p.req.ltag

/-- WRENQ_ENQUEUE (R196): once the payload is installed. -/
def execWrenqEnqueue (e : EngineId) (i : Nat) (s : State) : Out :=
  match s.pend e i with
  | none => .next s
  | some p =>
    if p.finishing || p.op != 4 || p.sends || !p.payloadDone || !s.recordDue p || !s.seenEverywhere p.writes then .next s
    else .next (s.engSend ((s.setPend { p with finishing := true }).enqueueSent p) p p.enqueue)

/-- NOTIFY (R200; R361, R367 for another device's request). -/
def execNotify (e : EngineId) (i : Nat) (s : State) : Out :=
  match s.pend e i with
  | none => .next s
  | some p =>
    if !s.notifyReady p then .next s
    else if p.role == .own then .next (s.notifyOwn p) else .next (s.recvEnd p)

end Sys2Proof.Machine
end

