-- ==== Sys2Proof/Machine/Fabric.lean ====
section
/-! DEFINITION. The sending side of remote requests, messages and sweeps between devices, ports and switches (21/R346 to
R352, R360 to R368; 23/R386). -/

namespace Sys2Proof.Machine

/-! ## Who a flit is for -/

/-- This device's own request that a flit of its far side names. -/
def State.ownReq (s : State) (f : Flit) : Option Pending :=
  s.dev.engines.find? fun p => p.role == .own && p.far && !p.finishing && p.farDev == flitSrc f && p.reqno == flitReq f

/-- The request whose bytes this device sends to the device that a flit came from: its own, or else one that it serves
(DESIGN CHOICE, log 40: a flit does not tell which). -/
def State.sender (s : State) (f : Flit) : Option Pending :=
  match s.ownReq f with
  | some p => if p.sends then some p else
      s.dev.engines.find? fun p => p.role == .serve && p.farDev == flitSrc f && p.reqno == flitReq f
  | none => s.dev.engines.find? fun p => p.role == .serve && p.farDev == flitSrc f && p.reqno == flitReq f

/-- The engine of a request has heard the far side (R362). -/
def State.hear (s : State) (p : Pending) : Pending := { p with heard := s.clock (clockFlue p.die) }

/-! ## Responses (R346) -/

/-- ACK arrives (R346): a CBFILL of no bytes then completes (R361, R368). -/
def execAck (f : Flit) (s : State) : Out :=
  onFlit f 1 0 s fun s =>
    match s.ownReq f, s.sender f with
    | some p, _ =>
      let p1 := { s.hear p with answered := true }
      (s.setPend p1).gotBytes p1
    | none, some p => s.setPend (s.hear p)
    | none, none => s

/-- The error and OFF of a status word (R201), if it tells of one. -/
def statusErr (w : BitVec 64) : Option (BitVec 8 × Nat) :=
  if w.extractLsb' 0 2 = 2#2 then some (w.extractLsb' 8 8, (w.extractLsb' 32 32).toNat) else none

/-- A completion reaches the engine of a request (R361, R364, R368). A READ whose bytes come from the far side ends once the
bytes below OFF are installed. -/
def State.doneOwn (s : State) (p : Pending) (status prior : BitVec 64) : State :=
  match statusErr status with
  | none => if p.gets then s.setPend (s.hear p) else s.setPend { s.hear p with finishing := true, prior := prior }
  | some (c, o) =>
    if p.gets && !reqShort p.req.w0 then s.noteFault p c o else s.failPend p c o

/-- A DONE flit's answer to a request that this device made, or serves. -/
def State.doneFor (s : State) (f : Flit) (status prior : BitVec 64) : State :=
  match s.ownReq f, s.sender f with
  | some p, _ => s.doneOwn p status prior
  | none, some p => s.dropPend p
  | none, none => s

/-- The combined request of a switch that a DONE flit for a request from a device answers, the one combined last (R352): the
port and its components. -/
def State.combinedOf (s : State) (req : BitVec 24) (src : BitVec 12) : Option (Nat × List Flit) :=
  s.dev.switches.findSome? fun (n, x) =>
    (x.combined.reverse.find? fun c => c.1 == req && c.2.any fun y => flitDst y == src).map fun c => (n, c.2)

/-- DONE arrives (R346); the DONE of a combined request is the switch's to split. -/
def execDoneResponse (f : Flit) (s : State) : Out :=
  onFlit f 1 1 s fun s =>
    if (s.combinedOf (flitReq f) (flitSrc f)).isSome then s else s.doneFor f (flitWord f 0) (flitWord f 1)

/-- RDATA arrives (R355): poisoned data ends the request with error 0x03 (R385, R386). -/
def execRdata (f : Flit) (s : State) : Out :=
  onFlit f 1 2 s fun s =>
    match s.ownReq f with
    | some p =>
      if p.gets && reqShort p.req.w0 && !p.answered then
        if f.poison then (s.reportHandOff handOffLink).failPend p 0x03 0
        else
          s.setPend { (s.hear p).landed 0 ((flitData f).take p.len) with answered := true }
      else s
    | none => s

/-- FWD arrives (R365): the request is issued afresh to the new holder, once; its prefix is sent again from the copy. -/
def execFwd (f : Flit) (s : State) : Out :=
  onFlit f 1 3 s fun s =>
    match s.ownReq f with
    | none => s
    | some p =>
      let dev : BitVec 12 := (flitWord f 0).setWidth 12
      if p.redirected then s.failPend p 0x01 0
      else if !s.reachable dev then s.failPend p 0x07 0
      else
        let p1 := { s.hear p with
          farDev := dev, farAddr := flitWord f 1, redirected := true, token := 0, lo := p.preLen, hi := p.preLen,
          unsent := p.firstFlits }
        let s1 := (s.setPend p1).setDev { (s.setPend p1).dev with
          damper := s.dev.damper.map fun r => if r.isOwn p then { r with src := dev } else r }
        if !reqShort p.req.w0 then s1.sendLong p1 else if p.op = 1 || p.len = 0 then s1.sendShort p1 [] else s1

/-- DROP arrives (R362): OFF is what DROP tells (DESIGN CHOICE, log 39), or else the first byte of the range that was granted
last. -/
def execDrop (f : Flit) (s : State) : Out :=
  onFlit f 1 4 s fun s =>
    match s.sender f with
    | some p =>
      if p.role == .serve then s.dropPend p
      else s.failPend p 0x04 (if flitBytes f = 8 then (flitWord f 0).toNat else p.lo)
    | none => s

/-- MACK arrives (R350): it names the flit that it acknowledges by its payload (DESIGN CHOICE, log 39). The message of a
journalled firing has reached its home, and is marked sent (R389); the bit of a launch item is set, since no later flit tells of
its delivery (R231; DESIGN CHOICE, log 121). -/
def execMack (f : Flit) (s : State) : Out :=
  onFlit f 1 5 s fun s =>
    let d := (flitSrc f).toNat
    match s.dev.unacked.find d with
    | none => s
    | some (plane, l) =>
      match l.find? fun x => x.flit.pay == f.pay with
      | none => s
      | some x =>
        let rest := l.erase x
        let s1 := s.setDev { s.dev with
          unacked := if rest = [] then s.dev.unacked.drop d else s.dev.unacked.put d (plane, rest) }
        let s2 := match x.mark with
          | some m => (s1.markSent m).itemDone m.item
          | none => s1
        if rest = [] then s2.flushMessages else s2

/-! ## Grants -/

/-- A token reaches the sender (R360): a range that it holds is sent again from its copy, and the prefix goes on being sent.
The pages of a range that this device serves are still to be checked (R368). -/
def State.granted (s : State) (f : Flit) (p : Pending) : State :=
  let lo := (flitWord f 0).toNat
  let hi := min p.len (lo + (flitWord f 1).toNat)
  let t : BitVec 16 := (flitWord f 2).setWidth 16
  s.setPend { s.hear p with
    token := t, lo := lo, hi := hi, rangeOk := false
    unsent := (p.unsent.filter fun x => x.1 == 0) ++ (List.range ((hi - lo + 63) / 64)).map fun i => (t, i)
    copy := p.copy.filter fun x => x.1 < p.preLen || lo < x.1 + x.2.length }

/-- GRANT arrives (R360). -/
def execGrant (f : Flit) (s : State) : Out :=
  onFlit f 2 0 s fun s =>
    match s.sender f with
    | some p => s.granted f p
    | none => s

/-- REVOKE arrives (R363): the sender holds the range. -/
def execRevoke (f : Flit) (s : State) : Out :=
  onFlit f 2 1 s fun s =>
    match s.sender f with
    | some p => s.setPend { p with hi := p.lo, unsent := p.unsent.filter fun x => x.1 == 0 }
    | none => s

/-- REREQ sent (R362, R363). -/
def State.sendRereq (s : State) (p : Pending) : State :=
  (s.setPend (s.hear p)).sendOnPlane p.reqno { hdr := (p.head s.dev.num 0 2).bits, pay := 0 }

/-- RESUME arrives (R363). -/
def execResume (f : Flit) (s : State) : Out :=
  onFlit f 2 2 s fun s =>
    match s.sender f with
    | some p => s.sendRereq p
    | none => s

/-- REREQ_TIMEOUT (R362): the `i`-th request of a die's flue engines whose bytes this device sends, long and silent for 2^20
cycles. -/
def execRereqTimeout (die : Fin 8) (i : Nat) (s : State) : Out :=
  let mine (p : Pending) : Bool :=
    5000 ≤ p.engine && p.die == die.val && p.sends && !p.finishing && !reqPrefix p.req.w0 &&
      (p.role == .serve || !reqShort p.req.w0)
  match (s.dev.engines.filter mine)[i]? with
  | none => .next s
  | some p => if p.heard + 2 ^ 20 ≤ s.clock (clockFlue die.val) then .next (s.sendRereq p) else .next s

/-! ## Flows set aside (R351). The model fixes the places of what SETASIDE and CLEAR name (DESIGN CHOICE, log 39) -/

/-- The flow that a SETASIDE or CLEAR flit names, and the port that it came to. -/
def flitFlow (f : Flit) : BitVec 12 × Nat := ((flitWord f 0).setWidth 12, (flitWord f 1).toNat % 4)
def flitPort (f : Flit) : Nat := (flitWord f 2).toNat % 128

/-- A port sends no new flit of a flow. -/
def State.stopFlow (s : State) (port : Nat) (flow : BitVec 12 × Nat) : State :=
  let x := s.port port
  if x.setAside.contains flow then s else s.setPort port { x with setAside := x.setAside ++ [flow] }

/-- A port sends the flits of a flow again. -/
def State.releaseFlow (s : State) (port : Nat) (flow : BitVec 12 × Nat) : State :=
  let x := s.port port
  (s.setPort port { x with setAside := x.setAside.filter fun y => y != flow }).moveUp port x.waiting

/-- SETASIDE arrives (R351). -/
def execSetaside (f : Flit) (s : State) : Out := onFlit f 2 3 s fun s => s.stopFlow (flitPort f) (flitFlow f)

/-- CLEAR arrives (R351). -/
def execClear (f : Flit) (s : State) : Out := onFlit f 2 4 s fun s => s.releaseFlow (flitPort f) (flitFlow f)

/-- SWITCH_SET_ASIDE (R351): a flow that has held more than half of an output's entries for 4,096 cycles; this device's port
is told. -/
def execSwitchSetAside (port : Fin 128) (dev : BitVec 12) (cls : Fin 4) (s : State) : Out :=
  let n := port.val
  let x := s.switch n
  let mine (f : Flit) : Bool := flitDst f == dev && flitVc f == cls.val
  let due := match x.since.find (flowKey dev cls.val) with
    | some t => t + 4096 ≤ s.clock (clockSwitch n) && x.hogs n dev cls.val
    | none => false
  if (cls.val = 0 || cls.val = 3) && due && !x.asides.any fun a => a.1 == dev && a.2.1 == cls.val then
    let y := { x with
      queue := x.queue.filter fun f => !mine f, asides := x.asides ++ [(dev, cls.val, x.queue.filter mine)]
      since := x.since.drop (flowKey dev cls.val) }
    .next ((s.setSwitch n y).stopFlow n (dev, cls.val))
  else .next s

/-- SWITCH_CLEAR (R351): once the flits of a set-aside queue have left, CLEAR goes to this device's port, the one that feeds
this output with what the state of one device holds. -/
def execSwitchClear (port : Fin 128) (dev : BitVec 12) (cls : Fin 4) (s : State) : Out :=
  let n := port.val
  let x := s.switch n
  if x.asides.any fun a => a.1 == dev && a.2.1 == cls.val && a.2.2 == [] then
    let s1 := s.setSwitch n { x with asides := x.asides.filter fun a => !(a.1 == dev && a.2.1 == cls.val) }
    .next (s1.releaseFlow n (dev, cls.val))
  else .next s

/-! ## Combining (R352) -/

/-- Two fetching reductions that a switch may combine. -/
def mayCombine (f g : Flit) : Bool :=
  let fetch (x : Flit) : Bool := flitVc x == 0 && flitType x == 1 && reqFetching (flitWord x 0)
  fetch f && fetch g && flitDst f == flitDst g && flitPart f == flitPart g && flitWord f 1 == flitWord g 1 &&
    reqRtype (flitWord f 0) == reqRtype (flitWord g 0)

/-- The bytes of a fetching reduction's element, and its addend. -/
def combineBytes (f : Flit) : Nat := rtypeSize (reqRtype (flitWord f 0))
def addend (f : Flit) : Nat := (f.pay.extractLsb' 256 64).toNat % 2 ^ (8 * combineBytes f)

/-- The wrapping sum of some addends of an element size. -/
def addendSum (es : Nat) (l : List Flit) : Nat := (l.map addend).foldl (· + ·) 0 % 2 ^ (8 * es)

/-- A combined flit: the first component's, with the sum as its addend. -/
def combineFlits (f : Flit) (l : List Flit) : Flit :=
  { f with pay := 0#192 ++ BitVec.ofNat 64 (addendSum (combineBytes f) l) ++ f.pay.extractLsb' 0 256 }

/-- SWITCH_COMBINE (R352): the first fetching reductions of a queue that may be combined, if a wait buffer entry is free for
them. -/
def execSwitchCombine (port : Fin 128) (s : State) : Out :=
  let n := port.val
  let x := s.switch n
  match x.queue.find? fun f => 2 ≤ (x.queue.filter (mayCombine f)).length with
  | none => .next s
  | some f =>
    let l := x.queue.filter (mayCombine f)
    let rec put : Bool → List Flit → List Flit
      | _, [] => []
      | done, g :: gs =>
        if mayCombine f g then (if done then put true gs else combineFlits f l :: put true gs) else g :: put done gs
    if x.combined.length ≤ Config.waitEntries n then
      .next (s.setSwitch n { x with queue := put false x.queue, combined := x.combined ++ [(flitReq f, l)] })
    else .next s

/-- A DONE for a request that may have been combined: each component's is split in turn, the first with the prior value, each
further one with the sum of the addends before it too (R352). -/
def State.splitDone (s : State) (req : BitVec 24) (src : BitVec 12) (status : BitVec 64) (prior : Nat) (g : Flit) : Nat → State
  | 0 => s
  | fuel + 1 =>
    match s.combinedOf req src with
    | none =>
      let h : FlitHead := { vc := 1, typ := 1, src := src, dst := flitSrc g, part := flitPart g, req := req, bytes := 16 }
      s.doneFor { hdr := h.bits, pay := 0 } status (BitVec.ofNat 64 prior)
    | some (n, l) =>
      let x := s.switch n
      (List.range l.length).foldl (fun s k =>
        match l[k]? with
        | none => s
        | some y =>
          let es := combineBytes y
          s.splitDone (flitReq y) src status ((prior + addendSum es (l.take k)) % 2 ^ (8 * es)) y fuel)
        (s.setSwitch n { x with combined := x.combined.filter fun c => !(c.1 == req && c.2 == l) })

/-- COMBINED_DONE_SPLIT (R352): component `k` receives the prior value and the sum of the addends before it. -/
def execCombinedDoneSplit (f : Flit) (s : State) : Out :=
  onFlit f 1 1 s fun s =>
    match s.combinedOf (flitReq f) (flitSrc f) with
    | none => s
    | some (n, l) =>
      match l with
      | [] => s
      | y :: _ =>
        s.splitDone (flitReq f) (flitSrc f) (flitWord f 0) ((flitWord f 1).toNat % 2 ^ (8 * combineBytes y)) y
          ((s.switch n).combined.length + 1)

/-! ## Messages and sweeps (R350) -/

/-- MACK sent: it names the flit by its payload (DESIGN CHOICE, log 39). -/
def State.sendMack (s : State) (f : Flit) : State := s.answer f 1 5 64 f.pay

/-- An earlier message of the same device is held back at a port (R38, R350): at the flit's own, if it is held itself, or at
any. -/
def State.heldBefore (s : State) (f : Flit) : Bool :=
  let mine (g : Flit) : Bool := flitVc g == 0 && flitType g == 3 && flitSrc g == flitSrc f
  match s.dev.ports.find? fun (_, x) => x.held.contains f with
  | some (_, x) => (x.held.takeWhile fun g => g != f).any mine
  | none => s.dev.ports.any fun (_, x) => x.held.any mine

/-- The core of this device that hosts a gang member whose home is another device's (R241). -/
def State.memberHost (s : State) (n : ActorName) : Option Nat :=
  (s.cores.find? fun (_, k) => (k.actor n).isSome).map (·.1)

/-- A message from another device placed: in its home's buffer or its host's inbox, in the queue of messages for the device
that its home is on, at the core that a command names, or in the inbox of the gang member that this device hosts for a home of
another; none where there is no room (R350). One that this device's class
table refuses is discarded (R24); it counts as received at the host interface, and is reported to die 0 as unit 8 (DESIGN
CHOICE, log 105: R24 names the unit of no arrival from another device). -/
def State.placeFrom (s : State) (f : Flit) : Option State :=
  let m := msgOf f
  if m.cls == 0xFFFF then s.placeMessage 0 m (.command (commandDev m.key) (commandCore m.key)) 0 []
  else
    let (d, s0) := s.readDesc 0 m.part m.cls
    let (home, s1) := s0.findHome 0 d m.part m.cls m.key
    let lost (c : BitVec 6) : State :=
      let s2 := if isItem m.hdr then
          s1.setDev { s1.dev with host := { s1.dev.host with recv := countUp s1.dev.host.recv m.part (hdrLtag m.hdr) } }
        else s1
      s2.report 0 { cause := c, part := m.part, cls := m.cls, key := m.key, unit := 8, tuple := s1.devTuple }
    match routeRefusal d m.cls m.hdr with
    | some c => some (lost c)
    | none =>
      match home with
      | .at dev die clu =>
        match if dev = s1.dev.num.toNat then none else s1.memberHost m.name with
        | some core => s1.enterHost core m
        | none => s1.placeMessage 0 m (.home dev die clu) 0 []
      | .unmapped => some (lost 0x24)

/-- The walk that the routing of a message from another device waits for (R380). -/
def State.fromMissing (s : State) (m : Message) : Option Nat :=
  let (d, s1) := s.readDesc 0 m.part m.cls
  if m.cls == 0xFFFF || (routeRefusal d m.cls m.hdr).isSome then none else s1.homeMissing d m.part m.key

/-- MSG arrives (R350): it is placed and acknowledged, or held back at its port while its home has no room, behind earlier
ones of its device. The start message of a gang starts the gang's members here (R241). -/
def execMsg (f : Flit) (s : State) : Out :=
  onFlit f 0 3 s fun s0 =>
    let m := msgOf f
    if hdrKind m.hdr = 3 && hdrSub m.hdr = 4 then
      let s := s0.unholdFlit f
      match s.dev.gangs.find? fun x => x.part == m.part && !x.started && gdClass x.desc == m.cls && gdLtag x.desc == hdrLtag m.hdr with
      | none => s0.holdFlit f
      | some x =>
        match s.gangMissing x.part x.desc with
        | some va => (s0.askUnit 0 0 x.part va).holdFlit f
        | none =>
          let s1 := s.setDev { s.dev with
            gangs := s.dev.gangs.map fun y => if y.part == x.part && y.index == x.index then { y with started := true } else y }
          (s1.startHere x.part x.desc).sendMack f
    else if s0.heldBefore f then s0.holdFlit f
    else
      match s0.fromMissing m with
      | some va => (s0.askUnit 0 0 m.part va).holdFlit f
      | none =>
        match (s0.unholdFlit f).placeFrom f with
        | some s1 => s1.sendMack f
        | none => s0.holdFlit f

/-- SWEEP arrives (R235, R350): a report is kept for the root's next sweep of the tag, a request is answered with this
device's sums. -/
def execSweep (f : Flit) (s : State) : Out :=
  onFlit f 0 4 s fun s =>
    let part := flitPart f
    let tag : BitVec 12 := (flitWord f 0).setWidth 12
    let w := flitWord f 2
    let s1 := s.sendMack f
    if w.getLsbD 1 then
      let x : SweepSum := { sent := (flitWord f 1).extractLsb' 0 32, recv := (flitWord f 1).extractLsb' 32 32, idle := w.getLsbD 0 }
      s1.setDev { s1.dev with sweepIn := s1.dev.sweepIn.put (sweepKey (flitSrc f) (tagKey part tag)) x }
    else s1.sendSweep (flitSrc f) (sweepFlit s.dev.num (flitSrc f) part tag (s.sweepSum part tag) true)

/-! ## Links (R344, R349; 23/R386) -/

/-- The requests of this device whose far side no plane reaches any more end with error 0x07 (R349). -/
def State.endUnreachable (s : State) : State :=
  (s.dev.engines.filter fun p => p.role == .own && p.far && !p.finishing && !s.reachable p.farDev).foldl
    (fun s p => s.failPend p 0x07 (if p.gets then p.wrote else if p.token = 0 then 0 else p.lo)) s

/-- What waits at a port that has gone down goes by the remaining planes (R349): the flits of requests at once, messages and
sweeps once those that were sent on the old plane are acknowledged (R350). -/
def State.reroute (s : State) : List Flit → State
  | [] => s
  | f :: rest =>
    let dst := (flitDst f).toNat
    if flitVc f = 0 && (flitType f = 3 || flitType f = 4) then
      let (plane, l) := (s.dev.unacked.find dst).getD (0, [])
      let x := (l.find? fun x => x.flit.pay == f.pay).getD { flit := f }
      let l1 := l.erase x
      let s1 := s.setDev { s.dev with
        unacked := if l1 = [] then s.dev.unacked.drop dst else s.dev.unacked.put dst (plane, l1) }
      let s2 := s1.reroute rest
      s2.setDev { s2.dev with msgHeld := (dst, x) :: s2.dev.msgHeld }
    else if flitVc f = 3 then (s.sendBulk (flitReq f) (flitChunk f) f).reroute rest
    else (s.sendOnPlane (flitReq f) f).reroute rest

/-- What is held for devices of the domain once the last plane has gone down is reported (R350). -/
def State.reportAllHeld (s : State) : State :=
  if s.upPorts != [] then s
  else (s.dev.msgHeld.filter fun x => s.dev.domain.contains (BitVec.ofNat 12 x.1)).foldl (fun s x => s.reportHeld x.2) s

/-- A port goes down, and is reported (R349). -/
def State.portDown (s : State) (n : Nat) : State :=
  let x := s.port n
  if x.down then s
  else
    ((s.setPort n { x with down := true, waiting := [] }).reroute x.waiting).flushMessages.reportAllHeld.endUnreachable.report 0
      { cause := 0x3A, src := 3, unit := 10, tuple := s.devTuple, d0 := BitVec.ofNat 64 n }

/-- LINK_FAILURE (R349): a flit of the reserve of a class is no longer usable in one direction of a port's links, at the device
port or at the ports of the switch beyond it: a free value tells which (DESIGN CHOICE, log 130). The class leaves the routing of
the link; the port then reaches no device for it, and goes down. -/
def execLinkFailure (port : Fin 128) (cls : Fin 4) (s : State) : Out :=
  let (v, s1) := s.fresh
  let x := s1.port port.val
  let dir := v.toNat % 4
  let l := if x.classesDown.contains cls.val then x.classesDown else x.classesDown ++ [cls.val]
  .next ((s1.setPort port.val { x with
    usable := x.usable.put (4 * dir + cls.val) (x.usableOf dir cls.val - 1), classesDown := l }).portDown port.val)

/-- PORT_UP (R349, R350): the reserve of a class is usable again in one of the directions in which it is short. The class is
routed again once it is short in none, and the port is up once all classes are routed and a lane works; messages held go
out. -/
def execPortUp (port : Fin 128) (cls : Fin 4) (s : State) : Out :=
  let (v, s1) := s.fresh
  let x := s1.port port.val
  let y := { x with usable := x.usable.drop (4 * pickOf v (x.shortIn cls.val) + cls.val) }
  let l := if y.shortIn cls.val = [] then x.classesDown.filter fun c => c != cls.val else x.classesDown
  let up := l = [] && x.lanesDown.length < 2
  .next ((s1.setPort port.val { y with classesDown := l, down := x.down && !up }).flushMessages)

/-- FLIT_CRC_FAIL (R386, R344): the flit is resent; a lane that fails 16 consecutive resends, which are the failures after the
first, is taken down, and a port without a lane goes down. A flit that comes whole by the port ends the run
(`State.goodFlit`). -/
def execFlitCrcFail (port : Fin 128) (lane : Fin 2) (s : State) : Out :=
  let x := s.port port.val
  let n := x.resends.getD lane.val 0 + 1
  if x.lanesDown.contains lane.val then .next s
  else if n ≤ 16 then .next (s.setPort port.val { x with resends := x.resends.put lane.val n })
  else
    let s1 := s.setPort port.val { x with resends := x.resends.drop lane.val, lanesDown := x.lanesDown ++ [lane.val] }
    .next (if 2 ≤ (s1.port port.val).lanesDown.length then s1.portDown port.val else s1)

end Sys2Proof.Machine
end

