-- ==== Sys2Proof/Machine/Failure.lean ====
section
/-! DEFINITION. Errors and the loss of a die (01/R15; 23/R385 to R387, R390, R391). An event that its rule does not enable
leaves the state as it is. -/

namespace Sys2Proof.Machine

/-! ## Uncorrectable errors (R387) -/

/-- The class of a message is journalled, as its die's copies of the class table have it. -/
def State.journalled (s : State) (die : Nat) (part : BitVec 8) (cls : BitVec 16) : Bool :=
  descJrnl (s.readDesc die part cls).1

/-- A port without a message. -/
def PortQ.lose (q : PortQ) (m : Message) : PortQ :=
  { q with
    q := q.q.erase m, nextQ := q.nextQ.erase m, nextClose := q.nextClose.erase m
    close := if q.close == some m then none else q.close }

/-- An actor without one of its messages. -/
def Actor.lose (a : Actor) (m : Message) : Actor :=
  { a with
    ports := a.ports.map fun q => q.lose m
    counters := a.counters.filter fun x => x.2 != m
    unjournalled := a.unjournalled.erase m }

/-- An actor that has a ready-queue entry and no firing to start any more leaves the queue. -/
def Core.recheck (k : Core) (n : ActorName) : Core :=
  match k.actor n with
  | none => k
  | some a =>
    if a.ready && a.nextPick.isNone then
      { k.setActor n (fun a => { a with ready := false }) with readyQ := k.readyQ.filter fun x => x != n }
    else k

/-- Messages lost with an entry: each counts as received (DEDUCED, log 41), and the loss is reported with cause 0x2E to the
supervisor of the die (R387). -/
def State.loseEntry (s : State) (core unit : Nat) (n : ActorName) (ms : List Message) : State :=
  (s.recvAll core ms).report (dieOfCore core)
    { cause := 0x2E, part := n.1, cls := n.2.1, key := n.2.2, unit := BitVec.ofNat 4 unit,
      tuple := if unit = 1 then s.cluTuple (cluOfCore core) else tupleOfCore core s.dev.num }

/-- A message lost from a core's inbox, unless the journal rebuilds it. -/
def State.loseMessage (s : State) (core : Nat) (m : Message) (f : Core → Core) : State :=
  if s.journalled (dieOfCore core) m.part m.cls then s
  else (s.setCore core ((f (s.core core)).recheck m.name)).loseEntry core 0 m.name [m]

/-- The messages of a core's inbox. -/
def Core.inbox (k : Core) : List Message := (k.actors.map Actor.messages).flatten ++ k.decs

/-- The place of the `n`-th counter of an actor that a core hosts (01/R30). -/
def counterPlace (core : Nat) (a : Actor) (n : Nat) : Nat := spPlace core (a.off + descCtoff a.desc * 16 + 16 * n)

/-- A compute die has failed (R390): cause 0x39 goes to every other die's supervisor, and the base die fences the die.
What its contexts, cores and homes held is lost, but for what `State.loseDie` keeps. -/
def State.reportFailure (s : State) (d : Nat) : State :=
  ((List.range 8).filter fun e => e != d).foldl (fun s e =>
    s.report e { cause := 0x39, unit := 10, tuple := s.devTuple }) s

/-! ## What is lost with a die -/

/-- The messages of a home event. -/
def HomeEvent.messages : HomeEvent → List Message
  | .msg m => [m]
  | .imageWritten _ _ _ ms => ms
  | .marker _ _ _ ms _ => ms
  | _ => []

/-- The messages that a home holds, those nearest to their hosts first. -/
def Cluster.messages (k : Cluster) : List Message :=
  (k.toHost.map fun (_, l) => l.filterMap fun x =>
    match x with
    | .msg m => some m
    | _ => none).flatten ++
    (k.hearth.map fun (_, h) => h.handed ++ h.buffer).flatten ++ k.full ++ (k.homeQ.map HomeEvent.messages).flatten

/-- The messages that a core holds for the actors that it hosts or takes in. -/
def Core.hostMessages (k : Core) : List Message :=
  k.inbox ++ k.spill ++
    (k.incoming.map fun x =>
      (match x.shipped with
        | some (a, _) => if x.placed then [] else a.messages
        | none => []) ++ x.later).flatten

/-- The items of a firing in progress: its consumed messages, or its sheet, as (partition, tag). -/
def Ctx.items (c : Ctx) : List (BitVec 8 × BitVec 12) :=
  if c.run == .idle then []
  else if c.firing.sheet then [(c.firing.part, c.firing.record.d0.extractLsb' 16 12)]
  else (c.firing.consumed.filter fun m => isItem m.hdr).map fun m => (m.part, hdrLtag m.hdr)

/-- The items of messages. -/
def itemsOf (ms : List Message) : List (BitVec 8 × BitVec 12) :=
  (ms.filter fun m => isItem m.hdr).map fun m => (m.part, hdrLtag m.hdr)

/-- The items that a core loses besides its host messages: sheets, saved firings, the sends that no commit mark covers,
carries, and the completion messages of requests that no engine has accepted. -/
def Core.lostItems (k : Core) : List (BitVec 8 × BitVec 12) :=
  ((k.quire ++ k.quireOvf).map fun x => (x.part, x.d0.extractLsb' 16 12)) ++ (k.saved.map fun x => x.ctx.items).flatten ++
    (k.outq.map fun i =>
      match i with
      | .msg m _ _ held => if m.sender.isSome && !held then [] else itemsOf [m]
      | .carry o => [(o.part, o.ltag)]).flatten ++
    (k.fifo.filter fun r => reqNotify r.w0).map fun r => (r.part, r.ltag)

/-- Items counted as received by a die's launcher (DEDUCED, log 41). -/
def State.countLost (s : State) (d : Nat) : List (BitVec 8 × BitVec 12) → State
  | [] => s
  | (p, t) :: rest => (s.launcherRecv d p t).countLost d rest

/-- What a core of the spare die has of the core whose number it takes: what the supervisor assigned to it, its counts, what
`cstat` reports of its requests, those that no engine has accepted being lost (R201), and the owner operations that it had
yet to perform (DEDUCED, log 42). -/
def Core.replaced (k : Core) : Core :=
  { slots := k.slots, starea := k.starea, ovfl := k.ovfl, spq := k.spq, qovf := k.qovf, cyc := k.cyc,
    gangReserved := k.gangReserved, sent := k.sent, recv := k.recv, nextSeq := k.nextSeq, opInbox := k.opInbox
    status := k.fifo.foldl (fun m r => m.put r.seq (statusWord (some (0x0B, 0)))) k.status }

/-- What a context of the spare die has of the one that it replaces: that every store before its releases has drained or
is lost (DEDUCED, log 42). -/
def Ctx.replaced (c : Ctx) : Ctx := { issued := c.issued, drained := c.issued, snap := c.snap, scopedDone := c.scopedDone }

/-- The place of memory that a cell of a view belongs to. -/
def cellPlace (a : Nat) : Nat :=
  if 0x2000000000000000 ≤ a then (a - 0x2000000000000000) * 32
  else if 0x1000000000000000 ≤ a then (a - 0x1000000000000000) * 16
  else a

/-- A cell of a scratchpad of a die. -/
def cellOfDie (d a : Nat) : Bool := isSp (cellPlace a) && spCore (cellPlace a) / 2048 == d

/-- The die of a party's key. -/
def partyOnDie (d k : Nat) : Bool := dieOfParty k == d

/-- The loss of a die (R390 step 1; DEDUCED, log 42): its contexts, cores and clusters are those of a fresh die, and its scratchpads
hold nothing. Messages of journalled classes that no journal entry holds yet are held by the base die; every other item
that was there is lost, and counts as received. -/
def State.loseDie (s : State) (d : Nat) : State :=
  let cores := s.cores.filter fun (n, _) => dieOfCore n == d
  let clus := s.clusters.filter fun (n, _) => n / 256 == d
  let keep (m : Message) : Bool := !m.journalled && s.journalled d m.part m.cls
  let homeOf (n : Nat) (m : Message) : Nat :=
    match (s.core n).actor m.name with
    | some a => a.home
    | none => (((s.core n).incoming.find? fun x => x.name == m.name).map fun x => x.home).getD (cluOfCore n)
  let atHosts := (cores.map fun (n, k) => (k.hostMessages).map fun m => (homeOf n m, m)).flatten
  let atHomes := (clus.map fun (n, k) => k.messages.map fun m => (n, m)).flatten
  let all := atHosts ++ atHomes
  let gone := itemsOf ((all.filter fun x => !keep x.2).map (·.2)) ++ (cores.map fun (_, k) => k.lostItems).flatten ++
    ((s.ctxs.filter fun (k, _) => partyOnDie d k).map fun (_, c) => c.items).flatten
  let dead (o : Op) : Bool := partyOnDie d o.issuer && !s.released o.rel
  let goneOps := (s.dev.ops.filter dead).map fun o => (o.part, o.ltag)
  let s1 : State := { s with
    ctxs := s.ctxs.map fun (k, c) => (k, if partyOnDie d k then c.replaced else c)
    cores := s.cores.map fun (n, k) => (n, if dieOfCore n == d then k.replaced else k)
    clusters := s.clusters.map fun (n, k) => (n, if n / 256 == d then {} else k)
    dies := s.dies.map fun (n, x) =>
      (n, { x with view := { x.view with mem := x.view.mem.filter fun c => !cellOfDie d c.1 } })
    dev := { s.dev with ops := s.dev.ops.filter fun o => !dead o } }
  let x := s1.die d
  (s1.setDie d { x with
    failed := true, walks := [], bias := [],
    held := (all.filter fun y => keep y.2).map fun y => (y.1, { y.2 with reserve := false }) }).countLost d (gone ++ goneOps)

/-- A die declared failed (R390): reported, fenced, and its state lost. -/
def State.failDie (s : State) (d : Nat) : State :=
  if (s.die d).failed then s else (s.reportFailure d).loseDie d

/-- A pending copy has installed bytes in the 32-byte block of a place. -/
def State.copyWrote (s : State) (q : Nat) : Bool :=
  s.dev.engines.any fun p => p.writes.any fun (a, _) => a / 32 == q / 32

/-- The block at a place poisoned in every view, and reported with cause 0x38 and the hand-off in DETAIL: the one from the
code of HBM, or of SRAM, or, where a copy has installed the block, the end-to-end code of copies (R385, R386; DESIGN CHOICE,
log 111: a free value tells which of the two codes does not match). -/
def State.poisonBlock (s : State) (q : Nat) : State :=
  if !(isHbm q || isSp q) then s
  else
    let (v, s1) := if s.copyWrote q then s.fresh else (0, s)
    (s1.writeAt (homeDie q) [(poisonPlace q, 1#8)] false []).reportHandOff
      (if v.getLsbD 0 then handOffCopy else if isHbm q then handOffHbm else handOffSram)

/-- UNCORRECTABLE_ERROR (R387; R385 for a block of memory, R390 for a die's control state). What a lost counter holds is
a free value (DESIGN CHOICE, log 44). -/
def execUncorrectableError (x : Struck) (s : State) : Out :=
  match x with
  | .block q => .next (s.poisonBlock q)
  | .inbox c i =>
    match (s.core c.ix).inbox[i]? with
    | none => .next s
    | some m =>
      .next (s.loseMessage c.ix m fun k => { k.setActor m.name (fun a => a.lose m) with decs := k.decs.erase m })
  | .spill c i =>
    match (s.core c.ix).spill[i]? with
    | none => .next s
    | some m => .next (s.loseMessage c.ix m fun k => { k with spill := k.spill.eraseIdx i })
  | .ready c i =>
    let k := s.core c.ix
    match k.readyQ[i]? with
    | none => .next s
    | some n =>
      match (k.actor n).bind fun a => a.nextPick.map fun p => (a, p) with
      | none => .next s
      | some (a, p) =>
        if s.journalled c.die.val n.1 n.2.1 then .next s
        else
          let (ms, b) := a.consume p
          let k1 := { k.setActor n (fun _ => { b with ready := false }) with readyQ := k.readyQ.eraseIdx i }
          .next ((s.setCore c.ix (k1.evaluate n)).loseEntry c.ix 0 n ms)
  | .hearth die clu i =>
    let home := die.val * 256 + clu.val
    match (s.clu home).hearth.find i with
    | none => .next s
    | some h =>
      if s.journalled die.val h.part h.cls then .next s
      else .next ((s.setHearth home i { h with buffer := [] }).loseEntry (home * 8) 1 h.name h.buffer)
  | .counter c i n =>
    match (s.core c.ix).actors[i]? with
    | none => .next s
    | some a =>
      if s.journalled c.die.val a.part a.cls || counterCount a.desc ≤ n then .next s
      else
        let (v, s1) := s.fresh
        let (w, s2) := s1.fresh
        let cells := bytesCells (counterPlace c.ix a n) (v.toNat + 2 ^ 64 * w.toNat) 16
        .next ((s2.writeAt c.die.val (plainCells cells) false []).loseEntry c.ix 0 a.name [])
  | .control die => .next (s.failDie die.val)

/-- CORRECTED_ERROR_THRESHOLD (R386): a corrected error of a unit is counted; the first beyond 1,024 in 2^32 cycles of the
unit is reported with cause 0x3B. -/
def execCorrectedErrorThreshold (unit : Nat) (s : State) : Out :=
  let w := s.clock (clockUnit unit) / 2 ^ 32
  let n := (if s.dev.errWindow.getD unit 0 = w then s.dev.errCounts.getD unit 0 else 0) + 1
  let s1 := s.setDev { s.dev with errCounts := s.dev.errCounts.put unit n, errWindow := s.dev.errWindow.put unit w }
  .next (if n = 1025 then
      s1.report 0 { cause := 0x3B, src := 2, unit := 10, tuple := s.devTuple, d0 := BitVec.ofNat 64 unit }
    else s1)

/-- HEARTBEAT_TIMEOUT (R390): supervisor core 0 of a die has left its heartbeat unwritten for 2^24 cycles of the base
die. -/
def execHeartbeatTimeout (die : Fin 8) (s : State) : Out :=
  let d := die.val
  if s.clock (clockBase d) < (s.die d).heartbeat + 2 ^ 24 then .next s else .next (s.failDie d)

/-! ## The spare takes over (R390 steps 2 to 7) -/

/-- Step 2: the spare takes the die number; the sweep root forgets the sweeps before it, and what it has
gathered of one in progress. -/
def State.takeOver (s : State) (d : Nat) : State :=
  let x := s.die d
  (s.setDie d { x with failed := false, heartbeat := s.clock (clockBase d), waves := 16 }).setDev
    { s.dev with silicon := s.dev.silicon.put d 8, spareUsed := true, sweeps := [], sweeping := [] }

/-- An entry added to a home that has none for the actor. -/
def State.addHearth (s : State) (home : Nat) (h : Hearth) : State :=
  let k := s.clu home
  match k.entryOf h.name, k.freeHearth with
  | none, some i => s.setHearth home i h
  | _, _ => s

/-- Step 3: every core that hosts an actor homed on the die reports its entry. -/
def State.rebuildHearths (s : State) (d : Nat) : State :=
  s.cores.foldl (fun s (n, k) =>
    (k.actors.filter fun a => a.home / 256 == d).foldl (fun s a =>
      let h : Hearth :=
        { part := a.part, cls := a.cls, key := a.key, host := BitVec.ofNat 11 n, hostDie := n / 2048, state := .live,
          pin := a.pin, fwd := a.count }
      (s.setCore n ((s.core n).setActor a.name fun a => { a with intent := false, order := .none })).addHearth a.home h) s) s

/-- An actor's state or image has left a host on its way to a surviving core or to its home. -/
def State.hasLeft (s : State) (k : Cluster) (n : ActorName) : Bool :=
  (s.cores.any fun (_, c) => c.incoming.any fun x => x.shipped.isSome && x.name == n) ||
    k.homeQ.any fun e =>
      match e with
      | .imageWritten p c key _ => (p, c, key) == n
      | _ => false

/-- The entries of a cluster whose host was on a die, with the messages that the cluster holds for each: those on their way to
the host, then those that it buffers. -/
def State.strandedIn (s : State) (d : Nat) (k : Cluster) : List (Nat × List Message) :=
  (k.hearth.filter fun (_, h) =>
    (h.state == .live || h.state == .moving) && h.hostDev.isNone && h.hostDie == d && !s.hasLeft k h.name).map fun (i, h) =>
      (i, ((k.toHost.getD h.hostCore []).filterMap fun x =>
        match x with
        | .msg m => if m.name == h.name then some m else none
        | _ => none) ++ h.buffer)

/-- A surviving home gives up its entries whose hosts were on the die (the parts of gangs, R241). The messages that it has
forwarded or buffers for them are held with the traffic that the base die holds, behind those that had reached the hosts, and
come to the home again in step 7 (DEDUCED, log 42: step 1 holds every message addressed to the die, and R50 lists no other
loss). -/
def State.pullStranded (s : State) (d : Nat) : State :=
  s.clusters.foldl (fun s (home, k) =>
    let l := s.strandedIn d k
    let x := s.die d
    (s.setDie d { x with held := x.held ++ (l.map (·.2)).flatten.map fun m => (home, m) }).setClu home
      { k with
        hearth := k.hearth.filter fun (i, _) => !l.any fun y => y.1 == i
        toHost := k.toHost.filter fun (c, _) => dieOfCore c != d }) s

/-- The unit number of a device's bank stores as a sender of messages. -/
def unitBank : Nat := 600000

/-- A journal's messages as they are delivered again, and the sends that its home has not marked. -/
def journalMessages (l : List JEntry) : List Message :=
  l.filterMap fun e =>
    match e with
    | .delivered m => some { m with journalled := true, reserve := false }
    | _ => none
def journalSends (l : List JEntry) : List (Message × Dest) :=
  l.filterMap fun e =>
    match e with
    | .sent m dest false => some (m, dest)
    | _ => none

/-- Step 4 for one actor whose live marker names the die. -/
def State.replayActor (s : State) (d : Nat) (e : BankEntry) : State :=
  let n : ActorName := (e.part, e.cls, e.key)
  let (desc, s0) := s.readDesc d e.part e.cls
  let s1 := s0.setBank { e with live := none }
  let (place, s1) := s1.findHome d desc e.part e.cls e.key
  let home := match place with
    | .at _ die clu => die * 256 + clu
    | .unmapped => d * 256
  if descJrnl desc then
    let ms := journalMessages e.journal
    let s2 := ms.foldl (fun s m => if isItem m.hdr then s.launcherSent d m.part (hdrLtag m.hdr) else s) s1
    let s3 := (journalSends e.journal).foldl (fun s (m, dest) => s.unitSend unitBank m dest none) s2
    match (s3.clu home).entryOf n with
    | some (i, h) =>
      (s3.setHearth home i
        { h with state := .kindling, chosen := false, dest := false, pin := false, fwd := 0, buffer := ms ++ h.buffer }).chooseHost
        home i
    | none =>
      match (s3.clu home).freeHearth with
      | some i =>
        (s3.setHearth home i { part := e.part, cls := e.cls, key := e.key, state := .kindling, buffer := ms }).chooseHost home i
      | none => s3
  else
    let k := s1.clu home
    let s2 := match k.entryOf n with
      | some (i, _) => s1.setClu home { k with hearth := k.hearth.drop i }
      | none => s1
    s2.report d { cause := 0x2E, part := e.part, cls := e.cls, key := e.key, unit := 9, tuple := s.devTuple }

/-- An item of a record is still on its way, or stands in a queue. -/
def State.itemAlive (s : State) (x : Nat × Nat × Nat) : Bool :=
  let msg (m : Message) : Bool := m.item == some x
  s.dev.unitMsgs.any (fun u => msg u.m) || s.dev.msgHeld.any (fun y => y.2.mark.any msg) ||
    s.dev.unacked.any (fun (_, l) => l.2.any fun y => y.mark.any msg) || s.dies.any (fun (_, d) => d.held.any fun y => msg y.2) ||
    s.clusters.any (fun (_, k) => k.messages.any msg) ||
    s.cores.any fun (_, k) => k.hostMessages.any msg || (k.quire ++ k.quireOvf).any fun y => y.item == some x

/-- Step 5: the items of the die's records whose bits are clear are to be made again, but those that are still on their
way (DEDUCED, log 43). -/
def State.remake (s : State) (d : Nat) : State :=
  let x := s.die d
  s.setDie d { x with
    pool := x.pool.map fun (n, r) =>
      (n, if r.started then
          { r with again := (List.range r.next).filter fun i => !r.bits.contains i && !s.itemAlive (d, n, i) }
        else r) }

/-- Step 6 for a copy request that the die had accepted: one that may be replayed and whose image the copy log holds is
posted again with its number; every other completes with error 0x0B, to its target record or to the actor that its
completion message goes to, and is reported. OFF is the first byte not written; what another device has written of it is a
free value (DESIGN CHOICE, log 135). -/
def State.repost (s0 : State) (d : Nat) (p : Pending) : State :=
  let lost (s : State) : State := s.report d { cause := 0x2E, part := p.req.part, unit := 10, tuple := s.devTuple }
  let (v, s) := if p.sends then s0.fresh else (0, s0)
  let off := if p.sends then v.toNat % (p.len + 1) else p.wrote
  if reqReplay p.req.w0 && p.logged then
    let n := s.dev.opSeq + 1
    let s1 := (s.failPend p 0x0B 0).dropPend p
    let x := s1.die d
    let s2 := (s1.setDie d { x with staged := x.staged.filter fun y => y.req != p.id }).setDev { s1.dev with opSeq := n }
    s2.enter { engine := p.engine, req := p.req, id := n, len := reqLen p.req.w0, far := p.far, farDev := reqDev p.req.w0 }
  else if reqNotify p.req.w0 then lost (s.failPend p 0x0B off)
  else lost ((s.failPend p 0x0B off).notifyOwn (p.fail 0x0B off))

/-- DIE_FAILURE (R390): a die that has not been declared failed is, and the spare, if it is free, takes over. -/
def execDieFailure (die : Fin 8) (s : State) : Out :=
  let d := die.val
  let s1 := s.failDie d
  if s1.dev.spareUsed then .next s1
  else
    let s2 := ((s1.takeOver d).rebuildHearths d).pullStranded d
    let s3 := (s2.dev.bank.filter fun e => e.live == some d).foldl (fun s e => s.replayActor d e) s2
    let s4 := s3.remake d
    let s5 := (s4.dev.engines.filter fun p => p.role == .own && p.die == d).foldl (fun s p => s.repost d p) s4
    let held := (s5.die d).held
    .next (held.foldl (fun s x => s.homeMessage x.1 x.2) (s5.setDie d { s5.die d with held := [] }))

end Sys2Proof.Machine
end

