-- ==== Sys2Proof/Machine/Flags.lean ====
section
/-! DEFINITION. The accrual of the floating-point exception flags (07/R140), and the floating-point forms
over it. The scalar integer forms have no flags. -/

namespace Sys2Proof.Machine

/-- The flags that an operation raises, accrued in fflags (R140). -/
def State.accrue (s : State) (p : Party) (fl : BitVec 5) : State :=
  s.mod p fun c => { c with fcsr := c.fcsr ||| fl.setWidth 8 }

/-- The mode of a form that rounds, or cause 0x01 (R60). -/
def State.roundMode (s : State) (p : Party) (w : BitVec 32) (rm : BitVec 3) : Tri Rm :=
  match (s.ctx p).rounding rm with
  | some m => .val m
  | none => .trap 0x01 (wordTval w)

/-- A form of one floating-point source. -/
def fp1 (w : BitVec 32) (rd rs1 : BitVec 5) (rm : BitVec 3) (s : State) (f : Rm → Reg → Reg × BitVec 5) : Out :=
  let p := s.cur
  settleNext s <|
    (s.exePre p w rd [rs1]).bind fun _ =>
    (s.roundMode p w rm).bind fun m =>
    (s.src p rs1).bind fun (a, s1) =>
    let (v, fl) := f m a
    .val ((s1.accrue p fl).dest p rd v)

/-- A form of two floating-point sources. -/
def fp2 (w : BitVec 32) (rd rs1 rs2 : BitVec 5) (rm : BitVec 3) (s : State)
    (f : Rm → Reg → Reg → Reg × BitVec 5) : Out :=
  let p := s.cur
  settleNext s <|
    (s.exePre p w rd [rs1, rs2]).bind fun _ =>
    (s.roundMode p w rm).bind fun m =>
    (s.src p rs1).bind fun (a, s1) =>
    (s1.src p rs2).bind fun (b, s2) =>
    let (v, fl) := f m a b
    .val ((s2.accrue p fl).dest p rd v)

/-- A form of three floating-point sources. -/
def fp3 (w : BitVec 32) (rd rs1 rs2 rs3 : BitVec 5) (rm : BitVec 3) (s : State)
    (f : Rm → Reg → Reg → Reg → Reg × BitVec 5) : Out :=
  let p := s.cur
  settleNext s <|
    (s.exePre p w rd [rs1, rs2, rs3]).bind fun _ =>
    (s.roundMode p w rm).bind fun m =>
    (s.src p rs1).bind fun (a, s1) =>
    (s1.src p rs2).bind fun (b, s2) =>
    (s2.src p rs3).bind fun (c, s3) =>
    let (v, fl) := f m a b c
    .val ((s3.accrue p fl).dest p rd v)

/-- A result of a format with its flags, as a register. -/
def FpOut.toReg (o : FpOut) (f : Fmt) : Reg × BitVec 5 := (fpOutReg f o.code, o.flags)

/-- A result that is an integer in a general register, with its flags. -/
def FpOut.toInt (o : FpOut) : Reg × BitVec 5 := (dataReg (BitVec.ofNat 64 o.code), o.flags)

end Sys2Proof.Machine
end

