-- ==== Sys2Proof/Machine/Fp.lean ====
section
/-! DEFINITION. The floating-point forms in the general registers (03/R60; 07/R140 to R144). -/

namespace Sys2Proof.Machine

/-- The integer sides of `fcvt`. -/
inductive IntKind where
  | w | wu | l | lu
  deriving DecidableEq, Repr

/-- The least and greatest value of an integer side (R144). -/
def IntKind.range : IntKind → Int × Int
  | .w => (-2 ^ 31, 2 ^ 31 - 1)
  | .wu => (0, 2 ^ 32 - 1)
  | .l => (-2 ^ 63, 2 ^ 63 - 1)
  | .lu => (0, 2 ^ 64 - 1)

/-- The integer that a register holds for an integer side. -/
def IntKind.read (k : IntKind) (v : BitVec 64) : Int :=
  match k with
  | .w => (low32 v).toInt
  | .wu => (low32 v).toNat
  | .l => v.toInt
  | .lu => v.toNat

/-- `fcvt` to an integer: the .w and .wu results are sign-extended from bit 31 (R144). -/
def fpToInt (f : Fmt) (k : IntKind) (m : Rm) (a : Nat) : Reg × BitVec 5 :=
  let (v, fl) := f.toInt m k.range.1 k.range.2 a
  match k with
  | .w => (dataReg (sext32 (BitVec.ofInt 32 v)), fl)
  | .wu => (dataReg (sext32 (BitVec.ofInt 32 v)), fl)
  | .l => (dataReg (BitVec.ofInt 64 v), fl)
  | .lu => (dataReg (BitVec.ofInt 64 v), fl)

/-- `fadd.s` (R141). -/
def execFaddS (rd rs1 rs2 : BitVec 5) (rm : BitVec 3) (s : State) : Out :=
  fp2 (wordFaddS rd rs1 rs2 rm) rd rs1 rs2 rm s fun m a b => (Fmt.fadd fmtF32 m (fpIn fmtF32 a) (fpIn fmtF32 b)).toReg fmtF32

/-- `fadd.d` (R141). -/
def execFaddD (rd rs1 rs2 : BitVec 5) (rm : BitVec 3) (s : State) : Out :=
  fp2 (wordFaddD rd rs1 rs2 rm) rd rs1 rs2 rm s fun m a b => (Fmt.fadd fmtF64 m (fpIn fmtF64 a) (fpIn fmtF64 b)).toReg fmtF64

/-- `fsub.s` (R141). -/
def execFsubS (rd rs1 rs2 : BitVec 5) (rm : BitVec 3) (s : State) : Out :=
  fp2 (wordFsubS rd rs1 rs2 rm) rd rs1 rs2 rm s fun m a b => (Fmt.fsub fmtF32 m (fpIn fmtF32 a) (fpIn fmtF32 b)).toReg fmtF32

/-- `fsub.d` (R141). -/
def execFsubD (rd rs1 rs2 : BitVec 5) (rm : BitVec 3) (s : State) : Out :=
  fp2 (wordFsubD rd rs1 rs2 rm) rd rs1 rs2 rm s fun m a b => (Fmt.fsub fmtF64 m (fpIn fmtF64 a) (fpIn fmtF64 b)).toReg fmtF64

/-- `fmul.s` (R141). -/
def execFmulS (rd rs1 rs2 : BitVec 5) (rm : BitVec 3) (s : State) : Out :=
  fp2 (wordFmulS rd rs1 rs2 rm) rd rs1 rs2 rm s fun m a b => (Fmt.fmul fmtF32 m (fpIn fmtF32 a) (fpIn fmtF32 b)).toReg fmtF32

/-- `fmul.d` (R141). -/
def execFmulD (rd rs1 rs2 : BitVec 5) (rm : BitVec 3) (s : State) : Out :=
  fp2 (wordFmulD rd rs1 rs2 rm) rd rs1 rs2 rm s fun m a b => (Fmt.fmul fmtF64 m (fpIn fmtF64 a) (fpIn fmtF64 b)).toReg fmtF64

/-- `fdiv.s` (R141). -/
def execFdivS (rd rs1 rs2 : BitVec 5) (rm : BitVec 3) (s : State) : Out :=
  fp2 (wordFdivS rd rs1 rs2 rm) rd rs1 rs2 rm s fun m a b => (Fmt.fdiv fmtF32 m (fpIn fmtF32 a) (fpIn fmtF32 b)).toReg fmtF32

/-- `fdiv.d` (R141). -/
def execFdivD (rd rs1 rs2 : BitVec 5) (rm : BitVec 3) (s : State) : Out :=
  fp2 (wordFdivD rd rs1 rs2 rm) rd rs1 rs2 rm s fun m a b => (Fmt.fdiv fmtF64 m (fpIn fmtF64 a) (fpIn fmtF64 b)).toReg fmtF64

/-- `fsqrt.s` (R141). -/
def execFsqrtS (rd rs1 : BitVec 5) (rm : BitVec 3) (s : State) : Out :=
  fp1 (wordFsqrtS rd rs1 rm) rd rs1 rm s fun m a => (Fmt.fsqrt fmtF32 m (fpIn fmtF32 a)).toReg fmtF32

/-- `fsqrt.d` (R141). -/
def execFsqrtD (rd rs1 : BitVec 5) (rm : BitVec 3) (s : State) : Out :=
  fp1 (wordFsqrtD rd rs1 rm) rd rs1 rm s fun m a => (Fmt.fsqrt fmtF64 m (fpIn fmtF64 a)).toReg fmtF64

/-- `fsgnj.s` (R142). -/
def execFsgnjS (rd rs1 rs2 : BitVec 5) (s : State) : Out :=
  exe2 (wordFsgnjS rd rs1 rs2) rd rs1 rs2 s fun a b s1 =>
    .val (fpOutReg fmtF32 (Fmt.sgnj fmtF32 0 (fpIn fmtF32 a) (fpIn fmtF32 b)), s1)

/-- `fsgnj.d` (R142). -/
def execFsgnjD (rd rs1 rs2 : BitVec 5) (s : State) : Out :=
  exe2 (wordFsgnjD rd rs1 rs2) rd rs1 rs2 s fun a b s1 =>
    .val (fpOutReg fmtF64 (Fmt.sgnj fmtF64 0 (fpIn fmtF64 a) (fpIn fmtF64 b)), s1)

/-- `fsgnjn.s` (R142). -/
def execFsgnjnS (rd rs1 rs2 : BitVec 5) (s : State) : Out :=
  exe2 (wordFsgnjnS rd rs1 rs2) rd rs1 rs2 s fun a b s1 =>
    .val (fpOutReg fmtF32 (Fmt.sgnj fmtF32 1 (fpIn fmtF32 a) (fpIn fmtF32 b)), s1)

/-- `fsgnjn.d` (R142). -/
def execFsgnjnD (rd rs1 rs2 : BitVec 5) (s : State) : Out :=
  exe2 (wordFsgnjnD rd rs1 rs2) rd rs1 rs2 s fun a b s1 =>
    .val (fpOutReg fmtF64 (Fmt.sgnj fmtF64 1 (fpIn fmtF64 a) (fpIn fmtF64 b)), s1)

/-- `fsgnjx.s` (R142). -/
def execFsgnjxS (rd rs1 rs2 : BitVec 5) (s : State) : Out :=
  exe2 (wordFsgnjxS rd rs1 rs2) rd rs1 rs2 s fun a b s1 =>
    .val (fpOutReg fmtF32 (Fmt.sgnj fmtF32 2 (fpIn fmtF32 a) (fpIn fmtF32 b)), s1)

/-- `fsgnjx.d` (R142). -/
def execFsgnjxD (rd rs1 rs2 : BitVec 5) (s : State) : Out :=
  exe2 (wordFsgnjxD rd rs1 rs2) rd rs1 rs2 s fun a b s1 =>
    .val (fpOutReg fmtF64 (Fmt.sgnj fmtF64 2 (fpIn fmtF64 a) (fpIn fmtF64 b)), s1)

/-- `fmin.s` (R143). -/
def execFminS (rd rs1 rs2 : BitVec 5) (s : State) : Out :=
  fp2 (wordFminS rd rs1 rs2) rd rs1 rs2 0 s fun _ a b => (Fmt.minmax fmtF32 false (fpIn fmtF32 a) (fpIn fmtF32 b)).toReg fmtF32

/-- `fmin.d` (R143). -/
def execFminD (rd rs1 rs2 : BitVec 5) (s : State) : Out :=
  fp2 (wordFminD rd rs1 rs2) rd rs1 rs2 0 s fun _ a b => (Fmt.minmax fmtF64 false (fpIn fmtF64 a) (fpIn fmtF64 b)).toReg fmtF64

/-- `fmax.s` (R143). -/
def execFmaxS (rd rs1 rs2 : BitVec 5) (s : State) : Out :=
  fp2 (wordFmaxS rd rs1 rs2) rd rs1 rs2 0 s fun _ a b => (Fmt.minmax fmtF32 true (fpIn fmtF32 a) (fpIn fmtF32 b)).toReg fmtF32

/-- `fmax.d` (R143). -/
def execFmaxD (rd rs1 rs2 : BitVec 5) (s : State) : Out :=
  fp2 (wordFmaxD rd rs1 rs2) rd rs1 rs2 0 s fun _ a b => (Fmt.minmax fmtF64 true (fpIn fmtF64 a) (fpIn fmtF64 b)).toReg fmtF64

/-- `fle.s` (R143). -/
def execFleS (rd rs1 rs2 : BitVec 5) (s : State) : Out :=
  fp2 (wordFleS rd rs1 rs2) rd rs1 rs2 0 s fun _ a b => (Fmt.compare fmtF32 2 (fpIn fmtF32 a) (fpIn fmtF32 b)).toInt

/-- `fle.d` (R143). -/
def execFleD (rd rs1 rs2 : BitVec 5) (s : State) : Out :=
  fp2 (wordFleD rd rs1 rs2) rd rs1 rs2 0 s fun _ a b => (Fmt.compare fmtF64 2 (fpIn fmtF64 a) (fpIn fmtF64 b)).toInt

/-- `flt.s` (R143). -/
def execFltS (rd rs1 rs2 : BitVec 5) (s : State) : Out :=
  fp2 (wordFltS rd rs1 rs2) rd rs1 rs2 0 s fun _ a b => (Fmt.compare fmtF32 1 (fpIn fmtF32 a) (fpIn fmtF32 b)).toInt

/-- `flt.d` (R143). -/
def execFltD (rd rs1 rs2 : BitVec 5) (s : State) : Out :=
  fp2 (wordFltD rd rs1 rs2) rd rs1 rs2 0 s fun _ a b => (Fmt.compare fmtF64 1 (fpIn fmtF64 a) (fpIn fmtF64 b)).toInt

/-- `feq.s` (R143). -/
def execFeqS (rd rs1 rs2 : BitVec 5) (s : State) : Out :=
  fp2 (wordFeqS rd rs1 rs2) rd rs1 rs2 0 s fun _ a b => (Fmt.compare fmtF32 0 (fpIn fmtF32 a) (fpIn fmtF32 b)).toInt

/-- `feq.d` (R143). -/
def execFeqD (rd rs1 rs2 : BitVec 5) (s : State) : Out :=
  fp2 (wordFeqD rd rs1 rs2) rd rs1 rs2 0 s fun _ a b => (Fmt.compare fmtF64 0 (fpIn fmtF64 a) (fpIn fmtF64 b)).toInt

/-- `fclass.s` (R143). -/
def execFclassS (rd rs1 : BitVec 5) (s : State) : Out :=
  exe1 (wordFclassS rd rs1) rd rs1 s fun a s1 =>
    .val (dataReg (BitVec.ofNat 64 (Fmt.fclass fmtF32 (fpIn fmtF32 a))), s1)

/-- `fclass.d` (R143). -/
def execFclassD (rd rs1 : BitVec 5) (s : State) : Out :=
  exe1 (wordFclassD rd rs1) rd rs1 s fun a s1 =>
    .val (dataReg (BitVec.ofNat 64 (Fmt.fclass fmtF64 (fpIn fmtF64 a))), s1)

/-- `fcvt.w.s` (R144). -/
def execFcvtWS (rd rs1 : BitVec 5) (rm : BitVec 3) (s : State) : Out :=
  fp1 (wordFcvtWS rd rs1 rm) rd rs1 rm s fun m a => fpToInt fmtF32 .w m (fpIn fmtF32 a)

/-- `fcvt.wu.s` (R144). -/
def execFcvtWuS (rd rs1 : BitVec 5) (rm : BitVec 3) (s : State) : Out :=
  fp1 (wordFcvtWuS rd rs1 rm) rd rs1 rm s fun m a => fpToInt fmtF32 .wu m (fpIn fmtF32 a)

/-- `fcvt.l.s` (R144). -/
def execFcvtLS (rd rs1 : BitVec 5) (rm : BitVec 3) (s : State) : Out :=
  fp1 (wordFcvtLS rd rs1 rm) rd rs1 rm s fun m a => fpToInt fmtF32 .l m (fpIn fmtF32 a)

/-- `fcvt.lu.s` (R144). -/
def execFcvtLuS (rd rs1 : BitVec 5) (rm : BitVec 3) (s : State) : Out :=
  fp1 (wordFcvtLuS rd rs1 rm) rd rs1 rm s fun m a => fpToInt fmtF32 .lu m (fpIn fmtF32 a)

/-- `fcvt.w.d` (R144). -/
def execFcvtWD (rd rs1 : BitVec 5) (rm : BitVec 3) (s : State) : Out :=
  fp1 (wordFcvtWD rd rs1 rm) rd rs1 rm s fun m a => fpToInt fmtF64 .w m (fpIn fmtF64 a)

/-- `fcvt.wu.d` (R144). -/
def execFcvtWuD (rd rs1 : BitVec 5) (rm : BitVec 3) (s : State) : Out :=
  fp1 (wordFcvtWuD rd rs1 rm) rd rs1 rm s fun m a => fpToInt fmtF64 .wu m (fpIn fmtF64 a)

/-- `fcvt.l.d` (R144). -/
def execFcvtLD (rd rs1 : BitVec 5) (rm : BitVec 3) (s : State) : Out :=
  fp1 (wordFcvtLD rd rs1 rm) rd rs1 rm s fun m a => fpToInt fmtF64 .l m (fpIn fmtF64 a)

/-- `fcvt.lu.d` (R144). -/
def execFcvtLuD (rd rs1 : BitVec 5) (rm : BitVec 3) (s : State) : Out :=
  fp1 (wordFcvtLuD rd rs1 rm) rd rs1 rm s fun m a => fpToInt fmtF64 .lu m (fpIn fmtF64 a)

/-- `fcvt.s.w` (R144). -/
def execFcvtSW (rd rs1 : BitVec 5) (rm : BitVec 3) (s : State) : Out :=
  fp1 (wordFcvtSW rd rs1 rm) rd rs1 rm s fun m a => (Fmt.ofInt fmtF32 m (IntKind.read .w (capAddr a))).toReg fmtF32

/-- `fcvt.s.wu` (R144). -/
def execFcvtSWu (rd rs1 : BitVec 5) (rm : BitVec 3) (s : State) : Out :=
  fp1 (wordFcvtSWu rd rs1 rm) rd rs1 rm s fun m a => (Fmt.ofInt fmtF32 m (IntKind.read .wu (capAddr a))).toReg fmtF32

/-- `fcvt.s.l` (R144). -/
def execFcvtSL (rd rs1 : BitVec 5) (rm : BitVec 3) (s : State) : Out :=
  fp1 (wordFcvtSL rd rs1 rm) rd rs1 rm s fun m a => (Fmt.ofInt fmtF32 m (IntKind.read .l (capAddr a))).toReg fmtF32

/-- `fcvt.s.lu` (R144). -/
def execFcvtSLu (rd rs1 : BitVec 5) (rm : BitVec 3) (s : State) : Out :=
  fp1 (wordFcvtSLu rd rs1 rm) rd rs1 rm s fun m a => (Fmt.ofInt fmtF32 m (IntKind.read .lu (capAddr a))).toReg fmtF32

/-- `fcvt.d.w` (R144). -/
def execFcvtDW (rd rs1 : BitVec 5) (rm : BitVec 3) (s : State) : Out :=
  fp1 (wordFcvtDW rd rs1 rm) rd rs1 rm s fun m a => (Fmt.ofInt fmtF64 m (IntKind.read .w (capAddr a))).toReg fmtF64

/-- `fcvt.d.wu` (R144). -/
def execFcvtDWu (rd rs1 : BitVec 5) (rm : BitVec 3) (s : State) : Out :=
  fp1 (wordFcvtDWu rd rs1 rm) rd rs1 rm s fun m a => (Fmt.ofInt fmtF64 m (IntKind.read .wu (capAddr a))).toReg fmtF64

/-- `fcvt.d.l` (R144). -/
def execFcvtDL (rd rs1 : BitVec 5) (rm : BitVec 3) (s : State) : Out :=
  fp1 (wordFcvtDL rd rs1 rm) rd rs1 rm s fun m a => (Fmt.ofInt fmtF64 m (IntKind.read .l (capAddr a))).toReg fmtF64

/-- `fcvt.d.lu` (R144). -/
def execFcvtDLu (rd rs1 : BitVec 5) (rm : BitVec 3) (s : State) : Out :=
  fp1 (wordFcvtDLu rd rs1 rm) rd rs1 rm s fun m a => (Fmt.ofInt fmtF64 m (IntKind.read .lu (capAddr a))).toReg fmtF64

/-- `fcvt.s.d` (R144). -/
def execFcvtSD (rd rs1 : BitVec 5) (rm : BitVec 3) (s : State) : Out :=
  fp1 (wordFcvtSD rd rs1 rm) rd rs1 rm s fun m a => (Fmt.convert fmtF64 fmtF32 m (fpIn fmtF64 a)).toReg fmtF32

/-- `fcvt.d.s` (R144). -/
def execFcvtDS (rd rs1 : BitVec 5) (rm : BitVec 3) (s : State) : Out :=
  fp1 (wordFcvtDS rd rs1 rm) rd rs1 rm s fun m a => (Fmt.convert fmtF32 fmtF64 m (fpIn fmtF32 a)).toReg fmtF64

/-- `fmadd.s` (R141). -/
def execFmaddS (rd rs1 rs2 rs3 : BitVec 5) (rm : BitVec 3) (s : State) : Out :=
  fp3 (wordFmaddS rd rs1 rs2 rs3 rm) rd rs1 rs2 rs3 rm s fun m a b c =>
    (Fmt.fma fmtF32 m false false (fpIn fmtF32 a) (fpIn fmtF32 b) (fpIn fmtF32 c)).toReg fmtF32

/-- `fmadd.d` (R141). -/
def execFmaddD (rd rs1 rs2 rs3 : BitVec 5) (rm : BitVec 3) (s : State) : Out :=
  fp3 (wordFmaddD rd rs1 rs2 rs3 rm) rd rs1 rs2 rs3 rm s fun m a b c =>
    (Fmt.fma fmtF64 m false false (fpIn fmtF64 a) (fpIn fmtF64 b) (fpIn fmtF64 c)).toReg fmtF64

/-- `fmsub.s` (R141). -/
def execFmsubS (rd rs1 rs2 rs3 : BitVec 5) (rm : BitVec 3) (s : State) : Out :=
  fp3 (wordFmsubS rd rs1 rs2 rs3 rm) rd rs1 rs2 rs3 rm s fun m a b c =>
    (Fmt.fma fmtF32 m false true (fpIn fmtF32 a) (fpIn fmtF32 b) (fpIn fmtF32 c)).toReg fmtF32

/-- `fmsub.d` (R141). -/
def execFmsubD (rd rs1 rs2 rs3 : BitVec 5) (rm : BitVec 3) (s : State) : Out :=
  fp3 (wordFmsubD rd rs1 rs2 rs3 rm) rd rs1 rs2 rs3 rm s fun m a b c =>
    (Fmt.fma fmtF64 m false true (fpIn fmtF64 a) (fpIn fmtF64 b) (fpIn fmtF64 c)).toReg fmtF64

/-- `fnmsub.s` (R141). -/
def execFnmsubS (rd rs1 rs2 rs3 : BitVec 5) (rm : BitVec 3) (s : State) : Out :=
  fp3 (wordFnmsubS rd rs1 rs2 rs3 rm) rd rs1 rs2 rs3 rm s fun m a b c =>
    (Fmt.fma fmtF32 m true false (fpIn fmtF32 a) (fpIn fmtF32 b) (fpIn fmtF32 c)).toReg fmtF32

/-- `fnmsub.d` (R141). -/
def execFnmsubD (rd rs1 rs2 rs3 : BitVec 5) (rm : BitVec 3) (s : State) : Out :=
  fp3 (wordFnmsubD rd rs1 rs2 rs3 rm) rd rs1 rs2 rs3 rm s fun m a b c =>
    (Fmt.fma fmtF64 m true false (fpIn fmtF64 a) (fpIn fmtF64 b) (fpIn fmtF64 c)).toReg fmtF64

/-- `fnmadd.s` (R141). -/
def execFnmaddS (rd rs1 rs2 rs3 : BitVec 5) (rm : BitVec 3) (s : State) : Out :=
  fp3 (wordFnmaddS rd rs1 rs2 rs3 rm) rd rs1 rs2 rs3 rm s fun m a b c =>
    (Fmt.fma fmtF32 m true true (fpIn fmtF32 a) (fpIn fmtF32 b) (fpIn fmtF32 c)).toReg fmtF32

/-- `fnmadd.d` (R141). -/
def execFnmaddD (rd rs1 rs2 rs3 : BitVec 5) (rm : BitVec 3) (s : State) : Out :=
  fp3 (wordFnmaddD rd rs1 rs2 rs3 rm) rd rs1 rs2 rs3 rm s fun m a b c =>
    (Fmt.fma fmtF64 m true true (fpIn fmtF64 a) (fpIn fmtF64 b) (fpIn fmtF64 c)).toReg fmtF64

end Sys2Proof.Machine
end

