-- ==== Sys2Proof/Machine/TapDrain.lean ====
section
/-! DEFINITION. Drains through a tap point, evaluation, records and sequence traps (19/R332 to R336, R340), and the
three tap forms (R337 to R339). -/

namespace Sys2Proof.Machine

/-- Whether a context may use a tap point (R332, R337): it is armed for the context's partition. -/
def Tap.usable (t : Tap) (part : BitVec 8) : Bool := ctlEn t.ctl && ctlPart t.ctl == part

/-- The sixteen FP32 codes of a table's vector `k` at column block `cb`, or none where the read fails (R327, R340). -/
def State.tapVec (s : State) (d base width k cb : Nat) : Option (List Nat) :=
  (s.tableBytes d (base + 4 * (width * k + 16 * cb)) 64).map fun bs =>
    (List.range 16).map fun j => leNat ((bs.drop (4 * j)).take 4)

/-- An accumulator with the exact sum of some products added and rounded once to FP64 (R119, R333). -/
def accF64 (a : BitVec 64) (ts : List Num) : BitVec 64 :=
  BitVec.ofNat 64 (fmtF64.put false ((fmtF64.num a.toNat).add (xsum ts)))

/-- The products of two rows of FP32 codes. -/
def products (a b : List Nat) : List Num := (a.zip b).map fun (x, y) => (fmtF32.num x).mul (fmtF32.num y)

/-- The row map entry of a global row (R331). -/
def Tap.slotOf (t : Tap) (r : Nat) : BitVec 8 := t.map.getD r 255

/-- The steering entry of a row's slot, if the slot is enabled (R333). -/
def Tap.steered (t : Tap) (slot : BitVec 8) : Option SteerEntry :=
  if slot = 255 then none else (t.steer.find slot.toNat).filter fun e => e.on

/-- The row that is passed on (R333), or none where a table read fails (R340). -/
def State.steerRow (s : State) (d : Nat) (t : Tap) (slot : BitVec 8) (row : List Nat) : Option (List Nat) :=
  match t.steered slot with
  | none => some row
  | some e =>
    (s.tapVec d t.vtbl.toNat (ctlWidth t.ctl) e.vidx.toNat t.cb.toNat).map fun vs =>
      (row.zip vs).map fun (v, x) =>
        fmtF32.put false ((fmtF32.num v).add ((fmtBf16.num e.alpha.toNat).mul (fmtF32.num x)))

/-- The probe sums of a row from probe `p` on (R333): `n` remain. -/
def State.probeRow (s : State) (d : Nat) (t : Tap) (i : Nat) (q : List Nat) : Nat → Nat → Option (Map (BitVec 64))
  | 0, _ => some t.a
  | n + 1, p =>
    match s.tapVec d t.ptbl.toNat (ctlWidth t.ctl) p t.cb.toNat with
    | none => none
    | some ws =>
      let key := 16 * i + p
      State.probeRow s d { t with a := t.a.put key (accF64 (t.a.getD key 0) (products q ws)) } i q n (p + 1)

/-- One row of a drain at a tap point (R333): the row passed on, and the tap point after it. -/
def State.tapRow (s : State) (d : Nat) (t : Tap) (i : Nat) (row : List Nat) : Option (List Nat × Tap) :=
  let slot := t.slotOf (16 * t.rb.toNat + i)
  match s.steerRow d t slot row with
  | none => none
  | some y =>
    let q := if ctlPost t.ctl then y else row
    let probes := if slot = 255 then some t.a else s.probeRow d t i q (ctlNprobe t.ctl) 0
    probes.map fun a =>
      (y, { t with
        a := a, q := t.q.put i (accF64 (t.q.getD i 0) (products q q)), y := t.y.put i (accF64 (t.y.getD i 0) (products y y)) })

/-- The rows of a drain at a tap point, from row `i` on. -/
def State.tapRows (s : State) (d : Nat) (t : Tap) : Nat → List (List Nat) → Option (List (List Nat) × Tap)
  | _, [] => some ([], t)
  | i, row :: rows =>
    match s.tapRow d t i row with
    | none => none
    | some (y, t1) => (s.tapRows d t1 (i + 1) rows).map fun (ys, t2) => (y :: ys, t2)

/-- The score σ of a row against a probe, an FP64 code (R334). -/
def Tap.score (t : Tap) (i p : Nat) : Nat :=
  let a := (t.a.getD (16 * i + p) 0).toNat
  let q := (t.q.getD i 0).toNat
  let f := fmtF64
  if !ctlRms t.ctl then a
  else if (f.num q).isZero then 0
  else
    let m := f.put false ((f.num q).div 53 (.ofInt (ctlWidth t.ctl)))
    let r := f.put false ((f.num m).sqrt 53)
    f.put false ((f.num a).div 53 (f.num r))

/-- Whether a score crosses a threshold (R334). -/
def crosses (thr score : Nat) : Bool := (fmtF32.num thr).lt (fmtF64.num score) || fmtF64.isNan score

/-- The record of a crossing (R335). -/
def tapRecord (tap : Nat) (slot : BitVec 8) (probe row score : Nat) : BitVec 64 :=
  BitVec.ofNat 32 (fmtF32.put false (fmtF64.num score)) ++ BitVec.ofNat 8 row ++ 0#4 ++ BitVec.ofNat 4 probe ++ slot ++ 0#5 ++
    BitVec.ofNat 3 tap

/-- The crossings of the completed row block, in ascending row and then probe order (R334, R335). -/
def Tap.crossings (t : Tap) (tap : Nat) : List (BitVec 8 × BitVec 64) :=
  ((List.range t.brows.toNat).map fun i =>
    let r := 16 * t.rb.toNat + i
    let slot := t.slotOf r
    if slot = 255 then []
    else
      (List.range (ctlNprobe t.ctl)).filterMap fun p =>
        let x := t.score i p
        if crosses ((t.thr.toList.getD p 0).toNat % 2 ^ 32) x then some (slot, tapRecord tap slot p r x) else none).flatten

/-- A record appended to the queue of 32, or counted in LOST (R335). -/
def Tap.record (t : Tap) (r : BitVec 64) : Tap :=
  if t.recs.length < 32 then { t with recs := t.recs ++ [r] }
  else { t with lost := if t.lost = BitVec.allOnes 32 then t.lost else t.lost + 1 }

/-- The tap point after the evaluation of a row block, and its crossings (R334, R335). -/
def Tap.evaluate (t : Tap) (tap : Nat) : Tap × List (BitVec 8 × BitVec 64) :=
  let xs := t.crossings tap
  let t1 := xs.foldl (fun t x => t.record x.2) t
  let ssq := (List.range t.brows.toNat).foldl (fun m i => m.put (16 * t.rb.toNat + i) (t.y.getD i 0)) t.ssq
  ({ t1.discard with ssq := ssq, rb := t.rb + 1 }, xs)

/-- A crossing noted by the context that issued the evaluating drain (R336). -/
def noteCrossing (l : List SeqPending) (pc : BitVec 64) (x : BitVec 8 × BitVec 64) : List SeqPending :=
  if l.any fun y => y.slot == x.1 then
    l.map fun y => if y.slot == x.1 then { y with count := if y.count = BitVec.allOnes 32 then y.count else y.count + 1 } else y
  else l ++ [{ slot := x.1, record := x.2, count := 1, pc := pc }]

/-- A drain's rows of FP32 codes through a tap point of the party's cluster (R333 to R336): the rows passed on and
the state after, or none where a table read fails (R340). -/
def State.tapDrain (s : State) (p : Party) (tap : Nat) (rows : List (List Nat)) : Option (List (List Nat) × State) :=
  let clu := cluOfCore p.coreIx
  let t0 := s.tap clu tap
  let t := if t0.cb = 0 then { t0 with brows := BitVec.ofNat 5 rows.length } else t0
  (s.tapRows p.die.val t 0 rows).map fun (ys, t1) =>
    let t2 := { t1 with cb := t1.cb + 1 }
    if t2.cb.toNat < ctlWb t2.ctl then (ys, s.setTap clu tap t2)
    else
      let (t3, xs) := t2.evaluate tap
      let s1 := s.setTap clu tap t3
      (ys, if ctlAct t2.ctl then
          s1.mod p fun c => { c with seqTraps := xs.foldl (fun l x => noteCrossing l c.pc x) c.seqTraps }
        else s1)

/-- A table read fails during a drain (R340): the tap point clears EN, and the die supervisor gets a fault message. -/
def State.tapFail (s : State) (p : Party) (tap : Nat) : State :=
  let clu := cluOfCore p.coreIx
  let t := s.tap clu tap
  let c := s.ctx p
  (s.setTap clu tap (t.disarm (t.ctl &&& ~~~1))).report p.die.val
    { cause := 0x37, part := c.partid, cls := c.kcls, key := c.kkey, unit := 3, tuple := s.cluTuple clu }

/-! ## The three forms -/

/-- The tap point that a form names, or cause 0x37 (R337 to R339). -/
def State.useTap (s : State) (p : Party) (n : BitVec 3) : Tri Tap :=
  let t := s.tap (cluOfCore p.coreIx) n.toNat
  if t.usable (s.ctx p).partid then .val t else .trap 0x37 0

/-- Rows of the map set to a slot (R337). -/
def Tap.mapRows (t : Tap) (slot : BitVec 8) (f n : Nat) : Tap :=
  { t with map := (List.range n).foldl (fun m i => m.put (f + i) slot) t.map }

/-- `seqmap` (R337). -/
def execSeqmap (rs1 rs2 : BitVec 5) (s : State) : Out :=
  let p := s.cur
  let w := wordSeqmap rs1 rs2
  onUnit w s <| exe2 w 0 rs1 rs2 s fun a b s1 =>
    let x := capAddr a
    let y := capAddr b
    let f := (x.extractLsb' 8 8).toNat
    let n := (x.extractLsb' 16 9).toNat
    (s1.useTap p (x.extractLsb' 0 3)).bind fun t =>
    (Tri.ensure (x &&& 0xFFFFFFFFFE0000F0 == 0 && y.extractLsb' 8 56 == 0 && n ≤ 256 && f + n ≤ 256) 0x37 0).bind fun _ =>
    let t1 := if x.getLsbD 3 then { t.discard with rb := 0 } else t
    .val (0, s1.setTap (cluOfCore p.coreIx) (x.extractLsb' 0 3).toNat (t1.mapRows (y.setWidth 8) f n))

/-- `steer` (R338). -/
def execSteer (rs1 rs2 : BitVec 5) (s : State) : Out :=
  let p := s.cur
  let w := wordSteer rs1 rs2
  onUnit w s <| exe2 w 0 rs1 rs2 s fun a b s1 =>
    let tval : BitVec 64 := rs1.setWidth 64
    (Tri.ensure (capTag a) 0x05 tval).bind fun _ =>
    (Tri.ensure (capOtype a == 0) 0x06 tval).bind fun _ =>
    (Tri.ensure (hasPerms a permSteer && (p.isSup || !hasPerms a permSuper)) 0x07 tval).bind fun _ =>
    let y := capAddr b
    let slot := y.extractLsb' 8 8
    let on := y.getLsbD 19
    let v := y.extractLsb' 16 3
    (s1.useTap p (y.extractLsb' 0 3)).bind fun t =>
    (Tri.ensure (y &&& 0xFFFF0000FFF000F8 == 0 && slot != 255 && (!on || v.toNat < ctlNvec t.ctl)) 0x37 0).bind fun _ =>
    .val (0, s1.setTap (cluOfCore p.coreIx) (y.extractLsb' 0 3).toNat
      { t with steer := t.steer.put slot.toNat { on := on, vidx := v, alpha := y.extractLsb' 32 16 } })

/-- NOREC (R335). -/
def noRec : BitVec 64 := BitVec.allOnes 64

/-- `taprd` (R339). -/
def execTaprd (rd rs1 : BitVec 5) (s : State) : Out :=
  let p := s.cur
  let w := wordTaprd rd rs1
  onUnit w s <| exe1 w rd rs1 s fun a s1 =>
    let x := capAddr a
    (s1.useTap p (x.extractLsb' 0 3)).bind fun t =>
    (Tri.ensure (x &&& 0xFFFFFFFFFF00FCF8 == 0) 0x37 0).bind fun _ =>
    match (x.extractLsb' 8 2).toNat with
    | 0 =>
      .val (dataReg (t.recs.headD noRec),
        s1.setTap (cluOfCore p.coreIx) (x.extractLsb' 0 3).toNat { t with recs := t.recs.drop 1 })
    | 1 => .val (dataReg (t.recs.headD noRec), s1)
    | 2 => .val (dataReg (t.ssq.getD (x.extractLsb' 16 8).toNat 0), s1)
    | _ => .val (dataReg t.cur, s1)

end Sys2Proof.Machine
end

