-- ==== Sys2Proof/Machine/MatDrain.lean ====
section
/-! DEFINITION. Drains of accumulator tiles (15/R295 to R298; 19/R332). -/

namespace Sys2Proof.Machine

/-! ## The epilogue word (R295) -/

def epDfmt (e : BitVec 64) : Nat := (e.extractLsb' 0 4).toNat
def epSat (e : BitVec 64) : Bool := e.getLsbD 4
def epScale (e : BitVec 64) : Bool := e.getLsbD 5
def epBias (e : BitVec 64) : Bool := e.getLsbD 6
def epStrm (e : BitVec 64) : Bool := e.getLsbD 7
def epStream (e : BitVec 64) : Nat := (e.extractLsb' 8 3).toNat
def epTap (e : BitVec 64) : Nat := (e.extractLsb' 11 3).toNat
def epTapen (e : BitVec 64) : Bool := e.getLsbD 14
def epFree (e : BitVec 64) : Bool := e.getLsbD 15
def epBoff (e : BitVec 64) : Nat := (e.extractLsb' 16 17).toNat
def epRows (e : BitVec 64) : Nat := (e.extractLsb' 33 5).toNat
def epPitch (e : BitVec 64) : Nat := (e.extractLsb' 38 10).toNat
def epSv (e : BitVec 64) : Nat := (e.extractLsb' 48 16).toNat

/-- The output type of a DFMT, or none where the code takes cause 0x33 (R295). -/
def epType (e : BitVec 64) : Option Ty :=
  match epDfmt e with
  | 0 => some (.f fmtE4m3)
  | 1 => some (.f fmtE5m2)
  | 5 => some (.i 8)
  | 6 => some (.f fmtBf16)
  | 7 => some (.f fmtF16)
  | 8 => some (.f fmtF32)
  | 9 => some (.f fmtF64)
  | 10 => some (.i 32)
  | _ => none

/-- The bytes between rows of a drain to memory (R297). -/
def epPitchBytes (e : BitVec 64) (sz : Nat) : Nat := if epPitch e = 0 then 16 * sz else 64 * epPitch e

/-- The windows that a row uses in a drain to a stream (R297). -/
def rowWindows (sz : Nat) : Nat := (16 * sz + 63) / 64

/-- The bytes of a bias vector (R295). -/
def biasBytes (acc : BitVec 2) : Nat := if acc = 2#2 then 128 else 64

/-! ## Elements (R296) -/

/-- A value rounded to an output type (R114, R115). -/
def Ty.ofNum (t : Ty) (sat : Bool) (v : Num) : Nat :=
  match t with
  | .f g => g.put sat v
  | .i n => sCode n (numToInt n v)

/-- An element of an INT32 tile drained without SCALE, as an output code. -/
def drainInt (t : Ty) (sat : Bool) (c : Nat) (bias : Option Nat) : Nat :=
  let v := match bias with
    | some b => clampTo 32 (sInt 32 c + sInt 32 b)
    | none => sInt 32 c
  convertElem (.i 32) t sat (sCode 32 v)

/-- The value of an element after scale and bias, in the working format. -/
def drainNum (w : Fmt) (acc : BitVec 2) (e : BitVec 64) (c : Nat) (bias : Option Nat) : Num :=
  let v0 := if acc = 1#2 then Num.ofInt (sInt 32 c) else w.num c
  let v1 := if epScale e then w.num (w.put false (v0.mul (fmtBf16.num (epSv e)))) else v0
  match bias with
  | some b => w.num (w.put false (v1.add (w.num b)))
  | none => v1

/-- Rows of sixteen. -/
def rowsOf {α : Type} (cs : List α) (n : Nat) : List (List α) := (List.range n).map fun i => (cs.drop (16 * i)).take 16

/-- The bytes of an output row. -/
def rowBytes (sz : Nat) (cs : List Nat) : List Byte := (cs.map fun c => leBytes c sz).flatten

/-! ## Writing (R297) -/

/-- The rows of a drain written to memory, a row at a time. -/
def State.writeRows (s : State) (p : Party) (a q : Nat) : List (List Byte) → State
  | [] => s
  | r :: rs => (s.storeCells p {} ((span (spPlace p.coreIx a) r.length).zip r)).writeRows p (a + q) q rs

/-- A row written to consecutive windows of a stream: `n` windows, the bytes beyond the row not written. -/
def State.streamRow (s : State) (p : Party) (w : Nat) (r : List Byte) : Nat → State
  | 0 => s
  | n + 1 =>
    let now := (r.take 64).map some
    (s.writeWindow p w (now ++ List.replicate (64 - now.length) none)).streamRow p w (r.drop 64) n

/-- The rows of a drain written to a stream. -/
def State.streamRows (s : State) (p : Party) (w n : Nat) : List (List Byte) → State
  | [] => s
  | r :: rs => (s.streamRow p w r n).streamRows p w n rs

/-- What of the destination's checks needs no size: the stream's causes (R80, R90), or tag, seal and permission of rs1 (R133). -/
def State.drainFirst (s : State) (p : Party) (e : BitVec 64) (c : Reg) : Tri Unit :=
  if epStrm e then Tri.unless ((s.ctx p).streamCause (epStream e) false true)
  else
    match checkCap p.isSup c (capAddr c).toNat 0 permStore false with
    | some (0x08, _) => .val ()
    | r => Tri.unless r

/-- The checks of the destination once the size is known: the stream's windows (R297), or the footprint against rs1. -/
def State.drainDest (s : State) (p : Party) (e : BitVec 64) (c : Reg) (sz : Nat) : Tri Unit :=
  if epStrm e then
    let x := (s.ctx p).stream (epStream e)
    Tri.ensure (x.pos + epRows e * rowWindows sz ≤ sdWindows (x.desc.getD 0)) 0x0E 0
  else
    Tri.unless (checkCap p.isSup c (capAddr c).toNat ((epRows e - 1) * epPitchBytes e sz + 16 * sz) permStore false)

/-- The fields of the word, the tile and the destination are in range (R295 to R297). -/
def drainOk (e : BitVec 64) (rs1 : BitVec 5) (c : Reg) (acc : BitVec 2) (sz : Nat) : Bool :=
  acc != 3#2 && (!epBias e || (epBoff e % 64 == 0 && epBoff e + biasBytes acc ≤ 0x20000)) &&
    (if epStrm e then rs1 == 0
      else (capAddr c).toNat + (epRows e - 1) * epPitchBytes e sz + 16 * sz ≤ 0x20000)

/-- The bias vector's codes (R295, R296), or none without BIAS. -/
def State.biasVector (s0 s : State) (p : Party) (e : BitVec 64) (acc : BitVec 2) : Tri (Option (List Nat) × State) :=
  if epBias e then
    (State.readBytes s0 s p .r (epBoff e) (biasBytes acc)).bind fun (bs, s1) =>
    let z := biasBytes acc / 16
    .val (some ((List.range 16).map fun j => leNat ((bs.drop (z * j)).take z)), s1)
  else .val (none, s)

/-- The cause of draining a poisoned tile (R292, R296), or a cause deferred to the context for that tile that it has not
taken (R292). -/
def drainPoison (c : Ctx) (n : BitVec 5) (x : Tile) : Tri Unit :=
  match c.deferred.find? fun d => d.tile == n with
  | some d => .trap d.cause d.addr
  | none => Tri.ensure (!x.poison) x.pcause x.faddr

/-- The output codes of a drain's rows, and the state after the tap point has taken its step; none where a table
read of the tap point fails. A NaN that was loaded comes out as the output type's canonical NaN (R296; DESIGN CHOICE,
log 104: R118's round trip keeps its payload, and R296 does not say that a drain of it is one). -/
def State.drainRows (s : State) (p : Party) (e : BitVec 64) (t : Ty) (acc : BitVec 2) (cs : List Nat)
    (bias : Option (List Nat)) : Option (List (List Nat) × State) :=
  let b (j : Nat) : Option Nat := bias.map fun l => l.getD j 0
  let each (f : Nat → Option Nat → Nat) : List (List Nat) :=
    (rowsOf cs (epRows e)).map fun r => ((List.range 16).zip r).map fun (j, c) => f c (b j)
  let w := if acc = 2#2 then fmtF64 else fmtF32
  if acc = 1#2 && !epScale e then some (each (drainInt t (epSat e)), s)
  else if !epTapen e then some (each fun c x => t.ofNum (epSat e) (drainNum w acc e c x), s)
  else
    (s.tapDrain p (epTap e) (each fun c x =>
      match drainNum w acc e c x with
      | .nan => if epScale e || x.isSome then w.nan else c
      | v => w.put false v)).map fun (ys, s1) =>
        (ys.map fun r => r.map fun y => t.ofNum (epSat e) (w.num y), s1)

/-- The tile after a drain: the next `mma` on it is a tile start (R279); with FREE it is zeroed and not live. -/
def Core.drained (k : Core) (md : Nat) (free : Bool) : Core :=
  { k with tiles := mapTiles k.tiles (pairTiles k.tiles md) fun _ x =>
      if free then { x with data := 0, live := false, conf := none } else { x with conf := none } }

/-- `mdrain` (R295 to R298, R332; the order of its causes DEDUCED, log 69). -/
def execMdrain (md : BitVec 5) (rs1 rs2 : BitVec 5) (s : State) : Out :=
  let p := s.cur
  let n := md.toNat
  settleNext s <|
    (s.matPre p (wordMdrain md rs1 rs2) 0 [rs1, rs2]).bind fun _ =>
    match s.tileWait p n with
    | some s1 => .stall s1
    | none =>
      (s.src p rs1).bind fun (c, s1) =>
      (s1.src p rs2).bind fun (r, s2) =>
      let e := capAddr r
      let k := s2.core p.coreIx
      let x := k.tiles.getD n {}
      (s2.drainFirst p e c).bind fun _ =>
      match epType e with
      | none => .trap 0x33 0
      | some t =>
        let sz := t.bits / 8
        (Tri.ensure (1 ≤ epRows e && epRows e ≤ 16) 0x33 0).bind fun _ =>
        (s2.drainDest p e c sz).bind fun _ =>
        (Tri.ensure (drainOk e rs1 c x.acc sz) 0x33 0).bind fun _ =>
        (drainPoison (s2.ctx p) md x).bind fun _ =>
        (Tri.ensure (!epTapen e || x.acc == 0#2) 0x33 0).bind fun _ =>
        let tap := s2.tap (cluOfCore p.coreIx) (epTap e)
        (Tri.ensure (!epTapen e ||
          (tap.usable (s2.ctx p).partid && (tap.cb == 0 || tap.brows.toNat == epRows e))) 0x37 0).bind fun _ =>
        (if epStrm e then
            Tri.unless (s2.windowFault p true ((s2.ctx p).stream (epStream e)).addrs)
          else
            (s2.reach p .w (capAddr c).toNat ((epRows e - 1) * epPitchBytes e sz + 16 * sz)).bind fun _ => .val ()).bind fun _ =>
        (s.issuePoint p).bind fun _ =>
        (State.biasVector s s2 p e x.acc).bind fun (bias, s2) =>
        match s2.drainRows p e t x.acc (tileCodes k.tiles n) bias with
        | none => .stall (takeTrap (s.tapFail p (epTap e)) p 0x37 0)
        | some (out, s3) =>
          let rows := out.map (rowBytes sz)
          let s4 :=
            if epStrm e then s3.streamRows p (epStream e) (rowWindows sz) rows
            else s3.writeRows p (capAddr c).toNat (epPitchBytes e sz) rows
          .val ((s4.setCore p.coreIx ((s4.core p.coreIx).drained n (epFree e))).mod p fun y => { y with mhold := none })

end Sys2Proof.Machine
end

