-- ==== Sys2Proof/Machine/MatGang.lean ====
section
/-! DEFINITION. Matrix gangs (15/R299 to R302). -/

namespace Sys2Proof.Machine

/-- Every context at the barrier becomes a member of a new gang, and its `mgang` completes (R299). -/
def State.formGang (s : State) (clu : Nat) : State :=
  let k := s.clu clu
  let ps := k.gang.atBarrier.map fun (core, party, _) => (core, party)
  let s1 := s.setClu clu { k with gang := { atBarrier := [], formed := true, members := ps, gen := k.gang.gen + 1 } }
  { s1 with ctxs := s1.ctxs.map fun (i, c) =>
      (i, if ps.any (fun x => x.2 == i) then { c with gangMember := true, gangCount := 0, pc := c.pc + 4 } else c) }

/-- `mgang` (R299): the context waits at the cluster's barrier until a context of each of its eight cores stands
there. -/
def execMgang (s : State) : Out :=
  let p := s.cur
  settle s <|
    (s.matPre p wordMgang 0 []).bind fun _ =>
    let c := s.ctx p
    let clu := cluOfCore p.coreIx
    let g := (s.clu clu).gang
    if c.gangMember then .val (s.advance p)
    else
      let other := (g.formed && g.members.any fun x => x.1 == p.coreIx) ||
        g.atBarrier.any fun (core, party, part) => (core == p.coreIx && party != p.ix) || part != c.partid
      (Tri.ensure (!other) 0x35 0).bind fun _ =>
      let at1 := if g.atBarrier.any fun x => x.2.1 == p.ix then g.atBarrier else g.atBarrier ++ [(p.coreIx, p.ix, c.partid)]
      let s1 := s.setClu clu { s.clu clu with gang := { g with atBarrier := at1 } }
      if at1.length < 8 then .stall s1 else .val (s1.formGang clu)

/-- The lead of a cluster's gang: its member on core 0 (R299). -/
def MGang.lead (g : MGang) : Option Nat := (g.members.find? fun x => x.1 % 8 == 0).map (·.2)

/-- A member's `mmag` takes a cause at issue: it counts as issued, and takes no part (R300). -/
def State.gangTrap (s : State) (p : Party) (cause : BitVec 6) (tval : BitVec 64) : Tri State :=
  if !((s.accSettled p).ctx p).acc.isEmpty then .stall (s.accSettled p)
  else .stall (takeTrap (s.mod p fun c => if c.gangMember then { c with gangCount := c.gangCount + 1 } else c) p cause tval)

/-- The checks of R281 and R282 for a part of a gang operation, under a class: the A pitch is the lead's. -/
def gangOk (k : Core) (c : MClass) (conf : TileConf) (w : BitVec 64) (md : Nat) (isLead : Bool) : Bool :=
  (k.issueTiles.getD md {}).acc == c.acc &&
    (!isLead || lineNeed (cfgFmt conf.fmtA) c.k ≤ (k.cb (mwAring w).toNat).pitch) &&
    lineNeed (cfgFmt conf.fmtB) c.k ≤ (k.cb (mwBring w).toNat).pitch

/-- A part entered into the core's queue, or the stall of a full queue in the state before the form. -/
def State.enterGang (s0 s : State) (p : Party) (md : BitVec 5) (gen n : Nat) (conf : TileConf) (first : Bool)
    (w : BitVec 64) (m : Option Nat) : Tri State :=
  let k := s.core p.coreIx
  if !k.queueRoom then .stall s0
  else
    let ts := pairTiles k.issueTiles md.toNat
    .val (((s.setCore p.coreIx (k.setConf ts (some conf))).enterQueue p
      { kind := .mmag gen n, md := md, first := first, conf := conf, aring := mwAring w, bring := mwBring w,
        rows := m.getD 0, tiles := ts }).mod p fun c => { c with gangCount := n })

/-- `mmag` (R300). A member other than the lead waits until the lead has issued its part, whose A format its class
check needs (DEDUCED, log 24). -/
def execMmag (md : BitVec 5) (rs1 rs2 : BitVec 5) (s : State) : Out :=
  let p := s.cur
  settleNext s <|
    (s.matPre p (wordMmag md rs1 rs2) 0 [rs1, rs2]).bind fun _ =>
    (s.src p rs1).bind fun (a, s1) =>
    let w := capAddr a
    let c := s1.ctx p
    let g := (s1.clu (cluOfCore p.coreIx)).gang
    let isLead := !c.gangMember || g.lead == some p.ix
    (if isLead then State.matRows s s1 p w rs2 else .val (some (mwRows w), s1)).bind fun (m, s2) =>
    let k := s2.core p.coreIx
    (if isLead then k.ringValid (mwAring w) else .val ()).bind fun _ =>
    (k.ringValid (mwBring w)).bind fun _ =>
    let n := c.gangCount + 1
    let (conf, first) := k.heldConf md.toNat c
    let leadParty := partyOf (g.lead.getD p.ix)
    let leadPart := if isLead then none else (s2.core leadParty.coreIx).gangPart g.gen n
    if !isLead && (s2.ctx leadParty).gangCount < n then .stall s
    else
      let conf1 : TileConf := match leadPart with
        | some o => { conf with fmtA := o.conf.fmtA }
        | none => conf
      let free := !isLead && leadPart.isNone
      match matClass (cfgFmt conf1.fmtA) (cfgFmt conf1.fmtB) with
      | none =>
        if free then
          if mwBad w || m.isNone then s.gangTrap p 0x33 0 else s.enterGang s2 p md g.gen n conf first w m
        else s.gangTrap p 0x30 (fmtTval (cfgFmt conf1.fmtA) (cfgFmt conf1.fmtB))
      | some cl =>
        if mwBad w || m.isNone || !(free || gangOk k cl conf1 w md.toNat isLead) then s.gangTrap p 0x33 0
        else if !c.gangMember then .trap 0x35 0
        else s.enterGang s2 p md g.gen n conf first w m

/-- The next gang operation of a cluster: the least among the parts that their queues would start next. -/
def State.nextGangOp (s : State) (clu : Nat) : Option (Nat × Nat) :=
  (List.range 8).foldl (fun (best : Option (Nat × Nat)) i =>
    match (s.core (clu * 8 + i)).nextOp with
    | some o =>
      match o.kind with
      | .mmag gen n =>
        match best with
        | some (g, m) => if gen < g || (gen == g && n < m) then some (gen, n) else best
        | none => some (gen, n)
      | _ => best
    | none => best) none

/-- Whether every member has issued its part of a gang operation or has left the gang (R300). -/
def State.allIssued (s : State) (clu gen n : Nat) : Bool :=
  let g := (s.clu clu).gang
  gen != g.gen || !g.formed || g.members.all fun x => n ≤ (s.ctx (partyOf x.2)).gangCount

/-- A part started: the lead's A slot, rows, A format and A scales are every member's (R300). -/
def MOp.startPart (o : MOp) (lead : Option MOp) : MOp :=
  match lead with
  | some l =>
    { o with
      conf := { o.conf with fmtA := l.conf.fmtA, sclA := l.conf.sclA }, rows := l.rows, aring := l.aring, acore := l.acore,
      aslot := l.aslot, started := true }
  | none => { o with started := true }

/-- GANG_OP_START (R300): once every member has issued its part or has left the gang, and has its slots, the
operation starts. -/
def execGangOpStart (die : Fin 8) (clu : Fin 256) (s : State) : Out :=
  let n := die.val * 256 + clu.val
  match s.nextGangOp n with
  | none => .next s
  | some (gen, m) =>
    let cores := (List.range 8).map fun i => n * 8 + i
    if !s.allIssued n gen m then .next s
    else
      let s1 := cores.foldl (fun s core => s.setCore core ((s.core core).takeNext core)) s
      let parts := cores.filterMap fun core => ((s1.core core).gangPart gen m).map fun o => (core, o)
      let lead := (parts.find? fun x => x.1 % 8 == 0).map (·.2)
      let ready := parts.all fun (core, o) =>
        ((s1.core core).nextOp.map (·.seq)) == some o.seq && o.bslot.isSome && (core % 8 != 0 || o.aslot.isSome)
      if !ready then .next s1
      else
        .next (parts.foldl (fun s (core, o) => s.setCore core ((s.core core).setOp (o.startPart lead)).joinNext) s1)

end Sys2Proof.Machine
end

