-- ==== Sys2Proof/Machine/Monitors.lean ====
section
/-! DEFINITION. The monitor (09/R182, R183). -/

namespace Sys2Proof.Machine

/-- `mon` (R182): arms the party's monitor on the dword. -/
def execMon (rs1 : BitVec 5) (s : State) : Out :=
  let p := s.cur
  settleNext s <|
    (s.exePre p (wordMon rs1) 0 [rs1]).bind fun _ =>
    (s.src p rs1).bind fun (c, s1) =>
    let a := (capAddr c).toNat
    (Tri.unless (checkCap p.isSup c a 8 permLoad false)).bind fun _ =>
    (s1.reach p .r a 8).bind fun qs =>
    (Tri.ensure (a % 8 == 0) 0x17 (BitVec.ofNat 64 a)).bind fun _ =>
    .val (s1.mod p fun x => { x with mon := { armed := qs.head?, event := false } })

/-- The end of a `monw` with a result; result 0 disarms the monitor (R183). -/
def State.endMonw (s : State) (p : Party) (rd : BitVec 5) (r : BitVec 64) : State :=
  (s.mod p fun c => { c.sync with waiting := none, mon := if r = 0 then {} else c.mon, pc := c.pc + 4 }).dest p rd (dataReg r)

/-- `monw` (R183). Its first turn starts the wait; each later turn of the waiting party finds the event, the end
of the bound, or neither. -/
def execMonw (rd rs1 : BitVec 5) (s : State) : Out :=
  let p := s.cur
  let c := s.ctx p
  let now := (s.core p.coreIx).cyc
  settle s <|
    (s.exePre p (wordMonw rd rs1) rd [rs1]).bind fun _ =>
    match c.waiting with
    | some w =>
      if c.mon.event then .val (s.endMonw p rd 0)
      else if w.start + w.bound ≤ now then .val (s.endMonw p rd 1)
      else .stall s
    | none =>
      (s.src p rs1).bind fun (b, s1) =>
      let bound := (capAddr b).toNat
      if c.mon.armed.isNone then .val (s1.endMonw p rd 2)
      else if c.mon.event then .val (s1.endMonw p rd 0)
      else if bound = 0 then .val (s1.endMonw p rd 1)
      else .val (s1.mod p fun x => { x with
        waiting := some { form := .monw, rd := rd, start := now, bound := bound, popped := c.poppedBy [rs1] } })

/-- MONW_TIMEOUT (R183): the bound of a waiting `monw` has passed with no event. -/
def execMonwTimeout (p : Party) (s : State) : Out :=
  let c := s.ctx p
  match c.waiting with
  | some w =>
    if w.form = .monw && !c.mon.event && w.start + w.bound ≤ (s.core p.coreIx).cyc then .next (s.endMonw p w.rd 1)
    else .next s
  | none => .next s

end Sys2Proof.Machine
end

