-- ==== Sys2Proof/Machine/Images.lean ====
section
/-! DEFINITION. The images that a pre-emption writes and a resumption reads (11/R247; 09/R167). A field's place within its
slot of the layout table is the model's, where the table gives the slot alone (DESIGN CHOICE, log 35). -/

namespace Sys2Proof.Machine

/-- The bytes of some dwords. -/
def dwordBytes (l : List (BitVec 64)) : List Byte := (l.map fun w => leBytes w.toNat 8).flatten

/-- The dwords of `n` × 64 bits, the least significant first. -/
def splitDwords (v : Nat) (n : Nat) : List (BitVec 64) := (List.range n).map fun i => BitVec.ofNat 64 (v / 2 ^ (64 * i))

/-- Dword `i` of an image. -/
def imageDword (bs : List Byte) (i : Nat) : BitVec 64 := BitVec.ofNat 64 (leNat ((bs.drop (8 * i)).take 8))

/-- `n` dwords of an image from dword `i` on, as one number. -/
def imageNat (bs : List Byte) (i n : Nat) : Nat := leNat ((bs.drop (8 * i)).take (8 * n))

/-! ## The context image -/

/-- The 272 bytes of a queue: 16 entries, their tags, their count. -/
def queueDwords (q : List Reg) : List (BitVec 64) :=
  let entry (i : Nat) : List (BitVec 64) := [capAddr (q.getD i 0), capMeta (q.getD i 0)]
  ((List.range 16).map entry).flatten ++
    [BitVec.ofNat 64 (((List.range 16).filter fun i => capTag (q.getD i 0)).map (2 ^ ·)).sum, BitVec.ofNat 64 q.length]

/-- The queue that an image holds from dword `i` on. -/
def imageQueue (bs : List Byte) (i : Nat) : List Reg :=
  (List.range (min 16 (imageDword bs (i + 33)).toNat)).map fun j =>
    mkCap ((imageDword bs (i + 32)).getLsbD j) (imageDword bs (i + 2 * j + 1)) (imageDword bs (i + 2 * j))

/-- The bits of a stream descriptor that R254 leaves zero, where its image holds the stream's status. -/
def bindingMask : BitVec 512 := ~~~((BitVec.allOnes 96).setWidth 512 <<< 416 ||| 0xFF00#512)

/-- The 128 bytes of a stream: its binding and position, and its window. -/
def streamDwords (x : Stream) : List (BitVec 64) :=
  let flags : Nat := (if x.desc.isSome then 1 else 0) + (if x.err then 2 else 0) + (if x.filled then 4 else 0) + (if x.used then 8 else 0)
  let b := (x.desc.getD 0).toNat + flags * 2 ^ 8 + x.pos % 2 ^ 64 * 2 ^ 416 + x.ovr.toNat * 2 ^ 480
  splitDwords b 8 ++ splitDwords x.window.toNat 8

/-- The stream that an image holds from dword `i` on; `x` is as it was saved. -/
def imageStream (x : Stream) (bs : List Byte) (i : Nat) : Stream :=
  let b : BitVec 512 := BitVec.ofNat 512 (imageNat bs i 8)
  { x with
    desc := if b.getLsbD 8 then some (b &&& bindingMask) else none
    err := b.getLsbD 9, filled := b.getLsbD 10, used := b.getLsbD 11
    pos := (b.extractLsb' 416 64).toNat, ovr := b.extractLsb' 480 32, window := BitVec.ofNat 512 (imageNat bs (i + 8) 8) }

/-- The bytes of a context image (R247) but for its live extent. -/
def SavedFiring.bytes (x : SavedFiring) : List Byte :=
  let c := x.ctx
  let regs := c.x.toList
  let tags := ((List.range 32).filter fun i => capTag (regs.getD i 0) && i != 0).map (2 ^ ·)
  dwordBytes ([c.pc, BitVec.ofNat 64 x.num, c.firing.part.setWidth 64, c.firing.cls.setWidth 64, c.firing.key,
      BitVec.ofNat 64 (2848 + x.live.length), 0, 0] ++
    [BitVec.ofNat 64 tags.sum, 0] ++ ((regs.drop 1).map fun r => [capAddr r, capMeta r]).flatten ++
    [c.fcsr.setWidth 64, c.fmtA, c.fmtB, c.sclA, c.sclB, c.kcls.setWidth 64, c.kkey, c.ltag.setWidth 64, c.fdep.setWidth 64,
      c.partid.setWidth 64, 0, 0, 0, 0, 0, 0] ++
    c.k.toList ++ [0, 0, 0, 0] ++ (c.v.toList.map fun v => splitDwords v.toNat 8).flatten ++
    (c.w.toList.map streamDwords).flatten ++ queueDwords c.qld ++ queueDwords c.qst)

/-- A context image whole: the live extent's bytes come last. -/
def SavedFiring.image (x : SavedFiring) : List Byte := x.bytes ++ x.live.map (·.2)

/-- A saved firing as its image holds it; what the layout has no slot for stays as it was saved. -/
def SavedFiring.ofImage (x : SavedFiring) (bs : List Byte) : SavedFiring :=
  let d := imageDword bs
  let c := x.ctx
  { x with
    num := (d 1).toNat % 4
    ctx := { c with
      pc := d 0
      x := Vector.ofFn fun (i : Fin 32) =>
        if i.val = 0 then 0 else mkCap ((d 8).getLsbD i.val) (d (9 + 2 * i.val)) (d (8 + 2 * i.val))
      fcsr := (d 72).setWidth 8, fmtA := d 73, fmtB := d 74, sclA := d 75, sclB := d 76, kcls := (d 77).setWidth 16
      kkey := d 78, ltag := (d 79).setWidth 12, fdep := (d 80).setWidth 4, partid := (d 81).setWidth 8
      k := Vector.ofFn fun (i : Fin 4) => d (88 + i.val)
      v := Vector.ofFn fun (i : Fin 8) => BitVec.ofNat 512 (imageNat bs (96 + 8 * i.val) 8)
      w := Vector.ofFn fun (i : Fin 8) => imageStream c.w[i] bs (160 + 16 * i.val)
      qld := imageQueue bs 288, qst := imageQueue bs 322 }
    live := (x.live.map (·.1)).zip (bs.drop 2848) }

/-! ## The core image -/

/-- The 16-byte descriptor of a buffer (R184). -/
def Cb.descWord (x : Cb) : Nat := x.base.toNat + x.ssz.toNat * 2 ^ 32 + x.scnt.toNat * 2 ^ 48

/-- A buffer that a core image holds from dword `i` on; its waiters are `x`'s. -/
def imageCb (x : Cb) (bs : List Byte) (i : Nat) : Cb :=
  let w := imageNat bs i 2
  let st := imageDword bs (i + 2)
  { x with
    base := BitVec.ofNat 17 w, ssz := BitVec.ofNat 16 (w / 2 ^ 32), scnt := BitVec.ofNat 8 (w / 2 ^ 48)
    filled := st.extractLsb' 0 8, free := st.extractLsb' 8 8, held := st.extractLsb' 16 8, pidx := st.extractLsb' 24 8
    cidx := st.extractLsb' 32 8, valid := st.getLsbD 63 }

/-- The selection engine's 64 bytes of state and its mask (R316). -/
def selDwords (x : SelFields) : List (BitVec 64) :=
  let small := x.below + x.above * 2 ^ 20 + x.lz * 2 ^ 40 + x.pl * 2 ^ 57
  [BitVec.ofNat 64 small, BitVec.ofNat 64 (x.lo + x.excl * 2 ^ 20), x.pfx, x.wbelow, x.wabove, x.lwz, x.lwo, 0] ++
    splitDwords x.mask.toNat 1024

/-- The engine's state that a core image holds. -/
def imageSel (bs : List Byte) : SelFields :=
  let d := imageDword bs
  { mask := BitVec.ofNat 65536 (imageNat bs 80 1024), pl := ((d 72).extractLsb' 57 7).toNat, pfx := d 74
    below := ((d 72).extractLsb' 0 20).toNat, above := ((d 72).extractLsb' 20 20).toNat, lz := ((d 72).extractLsb' 40 17).toNat
    wbelow := d 75, wabove := d 76, lo := ((d 73).extractLsb' 0 20).toNat, excl := ((d 73).extractLsb' 20 20).toNat
    lwz := d 77, lwo := d 78 }

/-- The tiles of an image that are live, ascending. -/
def CoreImage.live (x : CoreImage) : List Nat := (List.range 32).filter fun n => (x.tiles.getD n {}).live

/-- The code of a matrix operation's kind and the format of a `tcfg`. -/
def MKind.code : MKind → Nat
  | .tcfg f => 0 + 8 * f.toNat
  | .mzero => 1
  | .mload _ => 2
  | .mma => 3
  | .mmag _ _ => 4

/-- The 32 bytes of a queued matrix operation (R280): its kind and its small operands, its address, the gang operation that it
is a part of, and its stores; its formats, its scales and the bytes of an `mload` are kept beside (DESIGN CHOICE, log 35). -/
def MOp.dwords (o : MOp) : List (BitVec 64) :=
  let small := o.kind.code + 2 ^ 8 * o.md.toNat + 2 ^ 13 * o.first.toNat + 2 ^ 14 * o.orphan.toNat + 2 ^ 15 * o.sheet.toNat +
    2 ^ 16 * o.aring.toNat + 2 ^ 20 * o.bring.toNat + 2 ^ 24 * o.rows + 2 ^ 32 * o.ctx
  let part : Nat := match o.kind with
    | .mmag gen n => gen % 2 ^ 32 + 2 ^ 32 * n
    | _ => 0
  [BitVec.ofNat 64 small, o.addr, BitVec.ofNat 64 part, BitVec.ofNat 64 o.stores]

/-- A queued matrix operation that a core image holds from dword `i` on; what its 32 bytes do not hold is `o`'s. -/
def imageOp (o : MOp) (bs : List Byte) (i : Nat) : MOp :=
  let w := imageDword bs i
  let g := imageDword bs (i + 2)
  { o with
    kind := match (w.extractLsb' 0 3).toNat, o.kind with
      | 0, _ => .tcfg (w.extractLsb' 3 2)
      | 1, _ => .mzero
      | 2, .mload b => .mload b
      | 3, _ => .mma
      | 4, _ => .mmag (g.extractLsb' 0 32).toNat (g.extractLsb' 32 32).toNat
      | _, k => k
    md := w.extractLsb' 8 5, first := w.getLsbD 13, orphan := w.getLsbD 14, sheet := w.getLsbD 15
    aring := w.extractLsb' 16 4, bring := w.extractLsb' 20 4, rows := (w.extractLsb' 24 8).toNat
    ctx := (w.extractLsb' 32 32).toNat, addr := imageDword bs (i + 1), stores := (imageDword bs (i + 3)).toNat }

/-- The bytes of a core image (R247). -/
def CoreImage.bytes (x : CoreImage) : List Byte :=
  let tile (n : Nat) : List (BitVec 64) :=
    let t := x.tiles.getD n {}
    let f := t.conf.getD {}
    [t.status, f.fmtA, f.fmtB, f.sclA, f.sclB]
  dwordBytes ([BitVec.ofNat 64 (x.live.map (2 ^ ·)).sum, if x.sel.isSome then 1 else 0, 0, 0, 0, 0, 0, 0] ++
    (x.cbs.toList.map fun b => splitDwords b.descWord 2 ++ [b.stat, 0]).flatten ++
    (match x.sel with
      | some e => selDwords e
      | none => List.replicate 1032 0) ++
    ((List.range 32).map tile).flatten ++
    (x.live.map fun n => splitDwords (x.tiles.getD n {}).data.toNat 128).flatten ++
    (x.mq.map MOp.dwords).flatten) ++ x.slots.map (·.2)

/-- A tile that a core image holds; `n` is its number, `i` the dword of its data when it is live. -/
def imageTile (x : Tile) (bs : List Byte) (n : Nat) (data : Option Nat) : Tile :=
  let d := imageDword bs
  let i := 1104 + 5 * n
  let w := d i
  { x with
    acc := w.extractLsb' 0 2, live := w.getLsbD 2, poison := w.getLsbD 3, pcause := w.extractLsb' 4 6, reconf := w.getLsbD 10
    rerun := w.extractLsb' 11 5, kstep := w.extractLsb' 16 16
    conf := x.conf.map fun _ => { fmtA := d (i + 1), fmtB := d (i + 2), sclA := d (i + 3), sclB := d (i + 4) }
    data := match data with
      | some j => BitVec.ofNat 8192 (imageNat bs j 128)
      | none => 0 }

/-- A core image as its bytes hold it; what the layout has no slot for stays as it was saved. -/
def CoreImage.ofBytes (x : CoreImage) (bs : List Byte) : CoreImage :=
  let live := (List.range 32).filter fun n => (imageDword bs 0).getLsbD n
  let data (n : Nat) : Option Nat :=
    (live.findIdx? fun m => m == n).map fun j => 1264 + 128 * j
  { x with
    cbs := Vector.ofFn fun (b : Fin 16) => imageCb x.cbs[b] bs (8 + 4 * b.val)
    tiles := (List.range 32).foldl (fun t n =>
      let y := imageTile (t.getD n {}) bs n (data n)
      if y = {} && (t.find n).isNone then t else t.put n y) x.tiles
    sel := if imageDword bs 1 == 1 then some (imageSel bs) else none
    mq := x.mq.zipIdx.map fun (o, j) => imageOp o bs (1264 + 128 * live.length + 4 * j)
    slots := (x.slots.map (·.1)).zip (bs.drop (8 * (1264 + 128 * live.length + 4 * x.mq.length))) }

/-! ## Where they lie (R167, R247) -/

/-- The places of a core's overflow area from an offset on: the core image comes first there, then what lies beyond each
context's carve-out, in the order of the saved firings (DESIGN CHOICE, log 35). -/
def Core.overflowPlaces (k : Core) (off n : Nat) : List Nat := (span (k.ovfl.toNat + off) n).filter fun q => q < hbmTop

/-- The places of the context images of some saved firings, with `off` bytes of the overflow area used before. -/
def Core.contextPlaces (k : Core) (core off : Nat) : List SavedFiring → List (List Nat)
  | [] => []
  | x :: rest =>
    let n := 2848 + x.live.length
    let (o, l) := x.ctx.firing.carveRun.getD (0, 0)
    let n1 := min l n
    (span (spPlace core o) n1 ++ k.overflowPlaces off (n - n1)) :: k.contextPlaces core (off + (n - n1)) rest

/-- The cells of a core's images: the core image's bytes `bs`, then those of each saved firing. -/
def Core.imageCells (k : Core) (core : Nat) (bs : List Byte) : List (Nat × Byte) :=
  (k.overflowPlaces 0 bs.length).zip bs ++
    ((k.contextPlaces core bs.length k.saved).zip (k.saved.map SavedFiring.image)).flatMap fun x => x.1.zip x.2

/-- The images of a core written (R247). -/
def State.writeImages (s : State) (die core : Nat) (img : CoreImage) : State :=
  s.writeAt die (plainCells ((s.core core).imageCells core img.bytes)) false []

/-- The core image and the saved firings of a core as the bytes in memory hold them now (R249): a supervisor may have moved
them there. -/
def State.readImages (s : State) (die core : Nat) (img : CoreImage) : CoreImage × List SavedFiring :=
  let k := s.core core
  let n := img.bytes.length
  let bytes (qs : List Nat) : List Byte := qs.map fun q => s.cell die q
  let img1 := img.ofBytes (bytes (k.overflowPlaces 0 n))
  let holder := (k.saved.filter fun x => x.sel.isSome).getLast?.map (·.tag)
  (img1, (k.saved.zip (k.contextPlaces core n k.saved)).map fun x =>
    let y := x.1.ofImage (bytes x.2)
    { y with sel := match y.sel, img1.sel with
        | some e, some f => some (if holder == some y.tag then { e with toSelFields := f } else e)
        | e, _ => e })

end Sys2Proof.Machine
end

