-- ==== Sys2Proof/Machine/Supervisor.lean ====
section
/-! DEFINITION. Supervisor cores and their commands to parked contexts and homes (23/R374 to R377). -/

namespace Sys2Proof.Machine

/-! ## The two forms (R377) -/

/-- `xret` (R377). -/
def execXret (s : State) : Out :=
  let p := s.cur
  settle s <|
    (s.exePre p wordXret 0 []).bind fun _ =>
    (Tri.ensure (p.isSup && (s.ctx p).handler) 0x01 (wordTval wordXret)).bind fun _ =>
    .val (s.trapReturn p)

/-- `park` (R377): the core is held while its monitor is armed and has seen no event. -/
def execPark (s : State) : Out :=
  let p := s.cur
  let m := (s.ctx p).mon
  settleNext s <|
    (s.exePre p wordPark 0 []).bind fun _ =>
    (Tri.ensure p.isSup 0x01 (wordTval wordPark)).bind fun _ =>
    if m.armed.isSome && !m.event then .stall s else .val s

/-! ## Commands (R375) -/

/-- The code of a command. -/
def cmdCode (m : Message) : Nat := (payWord m.pay 0).toNat

/-- The oldest command that has reached a core, once those with a code that names none have been dropped, if it has the
code; and the state without it. -/
def State.takeCmd (s : State) (core code : Nat) : Option (Message × State) :=
  let k := s.core core
  match k.cmds.dropWhile fun m => 8 ≤ cmdCode m with
  | [] => none
  | m :: rest => if cmdCode m = code then some (m, s.setCore core { k with cmds := rest }) else none

/-- A command of a code carried out, if it is the next at its core. -/
def onCmd (s : State) (c : CoreId) (code : Nat) (f : Message → State → State) : Out :=
  match s.takeCmd c.ix code with
  | some (m, s1) => .next (f m s1)
  | none => .next s

/-- The context that a command names. -/
def cmdCtx (c : CoreId) (m : Message) : Party := .ctx c (Fin.ofNat 4 (m.key.extractLsb' 26 2).toNat)

/-- The actor that MOVE and UNPIN name. -/
def cmdActor (m : Message) : ActorName :=
  ((payWord m.pay 1).setWidth 8, (payWord m.pay 2).setWidth 16, payWord m.pay 3)

/-- RETRY (R374): the firing continues at epc. -/
def execRetry (c : CoreId) (s : State) : Out :=
  onCmd s c 2 fun m s1 =>
    let p := cmdCtx c m
    if (s1.ctx p).run == .parked then s1.mod p fun x => { x with run := .running, pc := x.epc } else s1

/-- ABANDON (R374): the firing ends with no trap message; the bit of a sheet is set (R231). -/
def execAbandon (c : CoreId) (s : State) : Out :=
  onCmd s c 3 fun m s1 =>
    let p := cmdCtx c m
    let x := s1.ctx p
    if x.run == .parked then
      let s2 := s1.endByTrap p
      if x.firing.sheet then s2.itemDone x.firing.record.item else s2
    else s1

/-- MOVE (R223, R375). -/
def execMove (c : CoreId) (s : State) : Out :=
  onCmd s c 4 fun m s1 => s1.moveOrder c.cluIx (cmdActor m) false

/-- UNPIN (R218, R375). -/
def execUnpin (c : CoreId) (s : State) : Out :=
  onCmd s c 5 fun m s1 =>
    match (s1.clu c.cluIx).entryOf (cmdActor m) with
    | some (_, h) => s1.setPin h.hostCore c.cluIx (cmdActor m) false
    | none => s1

/-- CLEAR_FAULTED_MARK (R42, R375). -/
def execClearFaultedMark (c : CoreId) (s : State) : Out :=
  onCmd s c 6 fun m s1 =>
    let n := cmdActor m
    s1.setDev { s1.dev with faulted := s1.dev.faulted.filter fun x => x != (n.1, n.2.1) }

/-- SETREG (R374, R375). -/
def execSetreg (c : CoreId) (s : State) : Out :=
  onCmd s c 7 fun m s1 =>
    let p := cmdCtx c m
    let x := payWord m.pay 1
    let r : BitVec 5 := x.extractLsb' 0 5
    if (s1.ctx p).run == .parked && r != 0 && r != 28 && r != 29 then
      s1.mod p fun y => y.setReg r (mkCap (x.getLsbD 8) (payWord m.pay 3) (payWord m.pay 2))
    else s1

end Sys2Proof.Machine
end

