-- ==== Sys2Proof/Machine/Preempt.lean ====
section
/-! DEFINITION. Pre-emption and resumption of a core (11/R242, R246 to R251; 09/R167, R183, R187, R192; 15/R280, R301;
17/R322; 19/R336). The bytes of the images are `Machine/Images.lean`'s; what their layout has no slot for is kept beside them
in the core (DESIGN CHOICE, log 35). -/

namespace Sys2Proof.Machine

/-- The four contexts. -/
def ctxNos : List (Fin 4) := [0, 1, 2, 3]

/-! ## PREEMPT (R246 to R248) -/

/-- Whether a context stands where a pre-emption may stop it: its firing is not ending, and no reply but that of a
`barwait` is outstanding. -/
def Ctx.stops (c : Ctx) : Bool :=
  c.run != .ending &&
    match c.waiting with
    | none => true
    | some w =>
      match w.form with
      | .barwait _ => true
      | .monw => true
      | _ => false

/-- A queued matrix operation must complete before a pre-emption: one that has started (R280), and a gang operation that
every member has issued (R301). -/
def State.mustComplete (s : State) (c : CoreId) (o : MOp) : Bool :=
  o.started ||
    match o.kind with
    | .mmag gen n => s.allIssued c.cluIx gen n
    | _ => false

/-- Whether a core stands where a pre-emption may stop it: those of its matrix operations have completed too. -/
def State.stops (s : State) (c : CoreId) : Bool :=
  !((s.core c.ix).mq.any fun o => s.mustComplete c o) && ctxNos.all fun k => (s.ctx (.ctx c k)).stops

/-- A registered `barwait` ends as a cancel ends it, and the form is left not executed (R192). -/
def State.withdrawBarwait (s : State) (p : Party) : State :=
  match (s.ctx p).waiting with
  | some w =>
    match w.form with
    | .barwait _ =>
      let cancel : Op :=
        { kind := .barcancel, addr := w.place, va := w.place, owner := w.owner, size := 16, v := BitVec.ofNat 64 w.id,
          rel := (s.ctx p).releaseAt p.ix 2 }
      (s.sendOp p cancel).2
    | _ => s
  | none => s

/-- The places of a class's live scratchpad extent (R167). -/
def livePlaces (core : Nat) (d : BitVec 512) : List Nat :=
  (span (descLxbase d * 64) (descLxlen d * 64)).filter (fun o => o < 0x20000) |>.map fun o => spPlace core o

/-- A context record as its image holds it: no wait, no walk and no armed monitor (R183, R246). A form left not executed
has popped nothing (R77): what a waiting form took of the load-data queue is back in it. -/
def Ctx.asSaved (c : Ctx) : Ctx :=
  { c with
    mon := {}, waiting := none, walk := none, mhold := none, cbput := none, held := false, part := [], body := none
    qld := (match c.waiting with
      | some w => w.popped
      | none => []) ++ c.qld }

/-- The access half of a party carries on, for at most `n` steps, with what it holds (R74). -/
def State.runAcc (s : State) (p : Party) : Nat → State
  | 0 => s
  | n + 1 => (s.accStep p).runAcc p n

/-- A release of a party whose firing is saved: where stores that the saved access half holds come before it, or its message
is held, it waits for the resumption and counts those stores (R177, R203, R247). -/
def Release.park (r : Release) (party issued tag : Nat) (held : Bool) : Release :=
  if r.party = party && r.saved.isNone && (held || issued < r.point) then
    { r with saved := some tag, point := r.point - issued } else r

/-- A release of a saved firing after its resumption: it counts the stores of the context that the firing has now. -/
def Release.unpark (r : Release) (party issued tag : Nat) : Release :=
  if r.saved = some tag then { r with saved := none, party := party, point := issued + r.point } else r

/-- The messages that a journalled firing of a party holds are those of the saved firing from now on (R247, R389). -/
def OutItem.park (i : OutItem) (party issued tag : Nat) : OutItem :=
  match i with
  | .msg m d r h => .msg m d (r.park party issued tag h) h
  | x => x

/-- The selection engine as a context that holds it has it, when a walk is loaded (R322): an engine that a `selld` has been
granted and has not loaded is not held. -/
def State.savedSel (s : State) (p : Party) : Option Sel :=
  let x := (s.clu (cluOfCore p.coreIx)).sel
  if x.holder = some p.ix && (x.granted.isNone || x.rewalk) then
    some { x with claims := [], undo := none, keepOnes := none, granted := none, rewalk := false } else none

/-- A keyed firing saved (R247), with the engine that it holds (R322). -/
def State.saveFiring (s : State) (c : CoreId) (k : Fin 4) (sel : Option Sel) : State :=
  let p := Party.ctx c k
  let x := s.ctx p
  let tag := s.dev.opSeq + 1
  let live := (livePlaces c.ix x.firing.desc).map fun q => (q, s.cell c.die.val q)
  let s1 := s.setDev { s.dev with opSeq := tag }
  let core := (s1.core c.ix).setActor x.firing.name fun a => { a with saved := true }
  let core1 := { core with
    saved := core.saved ++ [{ num := k.val, tag := tag, ctx := x.asSaved, live := live, sel := sel }],
    outq := core.outq.map fun i => i.park p.ix x.issued tag
    mq := core.mq.map fun o => if o.orphan || o.ctx != k.val then o else { o with ctx := tag + 8 } }
  ((s1.setCore c.ix core1).mapRels c.ix fun r => r.park p.ix x.issued tag false).mod p Ctx.idle

/-- A sheet put back at the bottom of a quire, its newest end (R46, R250): beyond 256 the oldest goes to the overflow area,
which always takes it (DESIGN CHOICE, log 19: no sheet is lost where the area is full). -/
def Core.pushBottom (k : Core) (x : Sheet) : Core :=
  if k.quire.length < 256 then { k with quire := k.quire ++ [x] }
  else { k with quire := k.quire.drop 1 ++ [x], quireOvf := k.quireOvf ++ k.quire.take 1 }

/-- The tile start of a dropped operation is the next queued operation's on the tile, if one is left; if none is, KSTEP is
what the tile start set it to (R279). -/
def Core.passStart (k : Core) (o : MOp) : Core :=
  if !o.first then k
  else
    match k.mq.find? fun x => o.seq < x.seq && x.tiles.contains o.md.toNat && (x.kind matches .mma | .mmag _ _) with
    | some x => k.setOp { x with first := true }
    | none =>
      if k.mq.any fun x => x.tiles.contains o.md.toNat then k
      else { k with tiles := mapTiles k.tiles (pairTiles k.tiles o.md.toNat) fun _ x => { x with kstep := 0 } }

/-- A release of a firing that is discarded: it waits for no store that the access half has not issued (R203, R250). -/
def Release.cut (r : Release) (party issued : Nat) (m : Map Nat) : Release :=
  if r.party = party && r.saved.isNone && issued < r.point then { r with point := issued, snap := some m } else r

/-- A sheet firing discarded (R250), parked or not (DESIGN CHOICE, log 118): its queued matrix operations are dropped
(R280). -/
def State.discardSheet (s0 : State) (c : CoreId) (k : Fin 4) : State :=
  let p := Party.ctx c k
  let x := s0.ctx p
  let s := s0.mapRels c.ix fun r => r.cut p.ix x.issued x.snap
  let core := (s.core c.ix).pushBottom x.firing.record
  let gone (o : MOp) : Bool := o.ctx == k.val && !o.orphan
  let core1 := core.rejoin (core.mq.filter fun o => !gone o)
  (s.setCore c.ix ((core.mq.filter gone).foldl Core.passStart core1)).mod p Ctx.idle

/-- A context of a pre-empted core stopped: its access half carries on as far as it can, its stores drain, it leaves the gang
and what it waits for, and its firing is saved or discarded. -/
def State.stopCtx (s : State) (c : CoreId) (k : Fin 4) : State :=
  let p := Party.ctx c k
  if (s.ctx p).run == .idle then s
  else
    let s0 := s.runAcc p (4 * (s.ctx p).acc.length)
    let s1 := (((s0.drainAll p).withdrawBarwait p).dissolveGang p).releaseSel p
    if (s1.ctx p).firing.sheet then s1.discardSheet c k else s1.saveFiring c k (s.savedSel p)

/-- The slots of a buffer that are HELD or FILLED, ascending (R184, R185). -/
def Cb.inUse (x : Cb) : List Nat :=
  if x.scnt = 0 then []
  else
    let n := x.scnt.toNat
    let used := (List.range (x.held.toNat + x.filled.toNat)).map fun j => (x.cidx.toNat + n * 256 - x.held.toNat + j) % n
    (List.range n).filter fun i => used.contains i

/-- The bytes of a core's FILLED and HELD slots, by ascending buffer and slot (R247). -/
def State.slotBytes (s : State) (c : CoreId) : List (Nat × Byte) :=
  ((s.core c.ix).cbs.toList.map fun x =>
    (x.inUse.map fun i => (span (x.base.toNat + i * x.ssz.toNat) x.ssz.toNat).map fun o =>
      let q := spPlace c.ix o
      (q, s.cell c.die.val q)).flatten).flatten

/-- A buffer without the waiters that a pre-emption ends: contexts and matrix operations (R187). -/
def Cb.unwait (x : Cb) : Cb :=
  let keep (l : List CbWaiter) : List CbWaiter := l.filter fun w =>
    match w with
    | .fill _ => true
    | _ => false
  { x with waitFilled := keep x.waitFilled, waitFree := keep x.waitFree }

/-- The inbox entries of a core's actors in the order of their arrival (R248). The message of a firing on a counter that is
already raised stays at the host: it is no entry that has arrived (DESIGN CHOICE, log 133; R248 does not name it). -/
def Core.spilled (k : Core) : List Message :=
  (byArrival ((k.actors.map fun a => ({ a with counters := [] } : Actor).messages).flatten ++ k.decs)).map fun m =>
    { m with reserve := false }

/-- A core whose actors' inbox entries have moved to the spill queue (R248): all of them, even where the queue has not the room
(DESIGN CHOICE, log 134). -/
def Core.spillInbox (k : Core) : Core :=
  let k1 : Core := { k with
    spill := k.spilled ++ k.spill, decs := [], diverting := true,
    actors := k.actors.map fun a => { a with ports := Vector.replicate 4 {}, unjournalled := [], ready := false }
    readyQ := [] }
  k.readyQ.foldl Core.evaluate k1

/-- A core pre-empted (R246 to R250): nothing enters its inbox by an emergency entry any more (R248). -/
def State.preemptCore (s : State) (c : CoreId) : State :=
  let n := c.cluIx
  let g := (s.clu n).gang
  let s1 := s.setClu n { s.clu n with gang := { g with atBarrier := g.atBarrier.filter fun x => x.1 != c.ix } }
  let s2 := ctxNos.foldl (fun s k => s.stopCtx c k) s1
  let k := s2.core c.ix
  let cbs := k.cbs.map Cb.unwait
  let image : CoreImage := { cbs := cbs, slots := s2.slotBytes c, tiles := k.tiles, mq := k.mq, sel := (k.saved.filterMap (·.sel)).getLast?.map (·.toSelFields) }
  let s3 := s2.writeImages c.die.val c.ix image
  s3.setCore c.ix { (s3.core c.ix).spillInbox with
    cbs := cbs, mq := [], image := some image, preempted := true, tokenBack := false, tokenOut := false }

/-- The cores that a pre-emption of a core takes: every member core of the gang that it is reserved for (R242). -/
def State.preemptSet (s : State) (c : CoreId) : List CoreId :=
  match (s.core c.ix).gangReserved with
  | none => [c]
  | some g => (s.cores.filter fun (i, k) => i < 16384 && k.gangReserved == some g).map fun x => coreIdOf x.1

/-- PREEMPT (R246): held until every firing of the core, or of every core of its gang, stands at a boundary; a core that is
pre-empted stays so. -/
def execPreempt (c : CoreId) (s : State) : Out :=
  let l := (s.preemptSet c).filter fun x => !(s.core x.ix).preempted
  if !l.all fun x => s.stops x then .next s
  else onCmd s c 0 fun _ s1 => l.foldl State.preemptCore s1

/-! ## RESUME (R249) -/

/-- Whether every member core of a core's gang is available again (R242): none stays pre-empted without a RESUME of its
own. -/
def State.gangAvailable (s : State) (c : CoreId) : Bool :=
  match (s.core c.ix).gangReserved with
  | none => true
  | some g =>
    s.cores.all fun (i, k) => k.gangReserved != some g || !k.preempted || i == c.ix || (s.takeCmd i 1).isSome

/-- The context that a saved firing is restored into: one of the same partition, its own number where that is free. -/
def State.seatFor (s : State) (c : CoreId) (x : SavedFiring) : Option (Fin 4) :=
  let ok (k : Fin 4) : Bool :=
    (s.ctx (.ctx c k)).run == .idle && slotPart (s.core c.ix).slots k.val == x.ctx.partid
  (Fin.ofNat 4 x.num :: ctxNos).find? ok

/-- A saved firing restored into a context: the record of the party's place in the ordering machine is the context's. -/
def State.seat (s : State) (c : CoreId) (x : SavedFiring) (k : Fin 4) : State :=
  let p := Party.ctx c k
  let b := s.ctx p
  let s1 := s.setCtx p { x.ctx with
    issued := b.issued, drained := b.drained, scopedDone := b.scopedDone ++ x.ctx.scopedDone, reply := b.reply,
    stealAfter := b.stealAfter }
  let core := (s1.core c.ix).setActor x.ctx.firing.name fun a => { a with saved := false }
  let ops := core.mq.map fun o => if o.orphan || o.ctx != x.tag + 8 then o else { o with ctx := k.val }
  (s1.setCore c.ix { core with mq := ops }).mapRels c.ix fun r => r.unpark p.ix b.issued x.tag

/-- A saved firing that must wait for the selection engine of the cluster: it held the engine, which another context holds
now (R322). -/
def State.waitsForSel (s : State) (c : CoreId) (x : SavedFiring) : Bool :=
  x.sel.isSome && (s.clu c.cluIx).sel.holder.isSome

/-- The engine held again by the context into which its holder is restored, with the saved state (R322). -/
def State.holdSel (s : State) (c : CoreId) (x : SavedFiring) (k : Fin 4) : State :=
  match x.sel with
  | some e =>
    let n := s.clu c.cluIx
    s.setClu c.cluIx { n with sel := { e with holder := some (Party.ctx c k).ix, claims := n.sel.claims } }
  | none => s

/-- Some saved firings restored in order, but for one that waits for the engine; none when one finds no context of its
partition. -/
def State.seatAll (s : State) (c : CoreId) : List SavedFiring → Option State
  | [] => some s
  | x :: rest =>
    if s.waitsForSel c x then
      let k := s.core c.ix
      (s.setCore c.ix { k with saved := k.saved ++ [x] }).seatAll c rest
    else
      match s.seatFor c x with
      | none => none
      | some k => ((s.seat c x k).holdSel c x k).seatAll c rest

/-- The work area of a core: its scratchpad outside the state area (R44). -/
def Core.isWork (k : Core) (core q : Nat) : Bool :=
  spPlace core 0 ≤ q && q < spPlace core 0x20000 &&
    !(spPlace core k.areaStart ≤ q && q < spPlace core (k.areaStart + k.areaSize))

/-- A cell of the work area: a byte of it, or the tag or poison mark of one. -/
def Core.workCell (k : Core) (core q : Nat) : Bool :=
  if q < 0x1000000000000000 then k.isWork core q
  else if q < 0x2000000000000000 then k.isWork core ((q - 0x1000000000000000) * 16)
  else k.isWork core ((q - 0x2000000000000000) * 32)

/-- The work area after a resumption (R249): zero, but for the bytes that the images restore. -/
def State.restoreWork (s : State) (c : CoreId) (bytes : List (Nat × Byte)) : State :=
  let k := s.core c.ix
  let v := (s.die c.die.val).view
  let put := bytes.filter fun x => k.isWork c.ix x.1
  let zero := ((v.mem.filter fun x => k.workCell c.ix x.1).map fun x => (x.1, 0#8)).filter fun x =>
    !(put.any fun y => y.1 == x.1)
  if zero ++ put = [] then s else s.writeAt c.die.val (zero ++ put) false []

/-- The buffers restored as saved; the copy requests that wait for a slot go on waiting. A slot that such a request has filled
since is not among those saved (DESIGN CHOICE, log 132: R249 restores the image, R203 lets copy requests go on). -/
def restoreCbs (old now : Vector Cb 16) : Vector Cb 16 :=
  Vector.zipWith (fun (a b : Cb) => { a with waitFilled := b.waitFilled, waitFree := b.waitFree }) old now

/-- The core image restored (R249): a queued operation of a firing names the firing's number until the firing has its context,
and its stores have drained. -/
def State.restoreCore (s : State) (c : CoreId) (img : CoreImage) : State :=
  let k := s.core c.ix
  s.setCore c.ix { k with
    saved := [], cbs := restoreCbs img.cbs k.cbs, tiles := img.tiles
    mq := img.mq.map fun o => { o with stores := 0 } }

/-- What a resumption leaves of the images: the core image, while the engine's holder is still to be restored. -/
def State.resumed (s : State) (c : CoreId) (img : CoreImage) : State :=
  let k := s.core c.ix
  s.setCore c.ix (Core.joinNext { k with
    image := if k.saved = [] then none else some img, preempted := false, diverting := k.spill != [] })

/-- A core resumed from its images as memory holds them (R249): none when a saved firing finds no context of its
partition. -/
def State.resume (s : State) (c : CoreId) (img : CoreImage) : Option State :=
  let (img, saved) := s.readImages c.die.val c.ix img
  let s1 := (s.restoreWork c ((saved.map (·.live)).flatten ++ img.slots)).restoreCore c img
  (s1.seatAll c saved).map fun s2 => s2.resumed c img

/-- RESUME (R249): it waits for contexts of the saved partitions and for the other cores of a gang (R242). A saved firing
that held the engine waits for it alone (R322): the core of a resumption that left it behind restores it once the engine is
free. -/
def execResumeCore (c : CoreId) (s : State) : Out :=
  let k := s.core c.ix
  match k.image with
  | none => onCmd s c 1 fun _ s1 => s1
  | some img =>
    if !k.preempted then
      match (s.setCore c.ix { k with saved := [] }).seatAll c k.saved with
      | none => .next s
      | some s1 => .next (s1.resumed c img)
    else if !s.gangAvailable c then .next s
    else
      match s.resume c img with
      | none => .next s
      | some _ => onCmd s c 1 fun _ s1 => (s1.resume c img).getD s1

end Sys2Proof.Machine
end

