-- ==== Sys2Proof/Machine/Rep.lean ====
section
/-! DEFINITION. `rep` (07/R155): one iteration of the body a turn, with the count in its register and the pc at the
form until the count is 0. -/

namespace Sys2Proof.Machine

/-- The effect of a permitted body: a custom-3 form, or a custom-2 form with sx = 0 (R155). -/
def bodyEffect : Instr → Option (State → Tri State)
  | .vadd ty src2 va sx mask vd sat => if sx = 1#1 then none else some (vadd ty src2 va sx mask vd sat)
  | .vsub ty src2 va sx mask vd sat => if sx = 1#1 then none else some (vsub ty src2 va sx mask vd sat)
  | .vmul ty src2 va sx mask vd sat => if sx = 1#1 then none else some (vmul ty src2 va sx mask vd sat)
  | .vfma ty src2 va sx mask vd sat => if sx = 1#1 then none else some (vfma ty src2 va sx mask vd sat)
  | .vfms ty src2 va sx mask vd sat => if sx = 1#1 then none else some (vfms ty src2 va sx mask vd sat)
  | .vmax ty src2 va sx mask vd => if sx = 1#1 then none else some (vmax ty src2 va sx mask vd)
  | .vmin ty src2 va sx mask vd => if sx = 1#1 then none else some (vmin ty src2 va sx mask vd)
  | .vabs ty va mask vd sat => some (vabs ty va mask vd sat)
  | .vneg ty va mask vd sat => some (vneg ty va mask vd sat)
  | .vclamp ty src2 va sx mask vd => if sx = 1#1 then none else some (vclamp ty src2 va sx mask vd)
  | .vcvt ty sty va mask vd sat => some (vcvt ty sty va mask vd sat)
  | .vrcp ty va mask vd => some (vrcp ty va mask vd)
  | .vrsq ty va mask vd => some (vrsq ty va mask vd)
  | .vexp2 ty va mask vd => some (vexp2 ty va mask vd)
  | .vredSum ty va mask vd sat => some (vredSum ty va mask vd sat)
  | .vredMax ty va mask vd => some (vredMax ty va mask vd)
  | .vredMin ty va mask vd => some (vredMin ty va mask vd)
  | .vcmpEq ty src2 va sx mask kd => if sx = 1#1 then none else some (vcmpEq ty src2 va sx mask kd)
  | .vcmpLt ty src2 va sx mask kd => if sx = 1#1 then none else some (vcmpLt ty src2 va sx mask kd)
  | .vcmpLe ty src2 va sx mask kd => if sx = 1#1 then none else some (vcmpLe ty src2 va sx mask kd)
  | .vsel ty src2 va sx mask vd => if sx = 1#1 then none else some (vsel ty src2 va sx mask vd)
  | .vand ty src2 va sx mask vd => if sx = 1#1 then none else some (vand ty src2 va sx mask vd)
  | .vor ty src2 va sx mask vd => if sx = 1#1 then none else some (vor ty src2 va sx mask vd)
  | .vxor ty src2 va sx mask vd => if sx = 1#1 then none else some (vxor ty src2 va sx mask vd)
  | .vshl ty src2 va sx mask vd sat => if sx = 1#1 then none else some (vshl ty src2 va sx mask vd sat)
  | .vshr ty src2 va sx mask vd sat => if sx = 1#1 then none else some (vshr ty src2 va sx mask vd sat)
  | .vmov ty va mask vd => some (vmov ty va mask vd)
  | .vsplat imm ty vd => some (vsplat imm ty vd)
  | .vaddi imm ty vd => some (vaddi imm ty vd)
  | .vmuli imm ty vd => some (vmuli imm ty vd)
  | .vmaxi imm ty vd => some (vmaxi imm ty vd)
  | _ => none

/-- The effect of a body's word, or none where the word is no permitted body (R155). -/
def repBody (w : BitVec 32) : Option (State → Tri State) :=
  let i := if w.extractLsb' 0 7 = 0x5B#7 then decodeCustom2 w else if w.extractLsb' 0 7 = 0x7B#7 then decodeCustom3 w else none
  match i with
  | some i => if i.wf then bodyEffect i else none
  | none => none

/-- The body of the `rep` at a party's pc: the word fetched at its start, or fetched now (R155). -/
def State.bodyWord (s : State) (p : Party) : Tri (BitVec 32) :=
  match (s.ctx p).body with
  | some b => .val b
  | none => s.fetchWord p ((s.ctx p).pc + 4)

/-- `rep` (R155): the next iteration, or the end. The body is fetched once. -/
def execRep (rs1 : BitVec 5) (s : State) : Out :=
  let p := s.cur
  let w := wordRep rs1
  let c := s.ctx p
  settle s <|
    (Tri.ensure (rs1 != 28 && rs1 != 29) 0x01 (wordTval w)).bind fun _ =>
    (s.exePre p w 0 [rs1]).bind fun _ =>
    (s.bodyWord p).bind fun b =>
    match repBody b with
    | none => .trap 0x01 (wordTval w)
    | some f =>
      let n := capAddr (c.reg rs1)
      if n = 0 then .val (s.mod p fun x => { x with pc := c.pc + 8, body := none })
      else
        match f s with
        | .val s1 => .val (s1.mod p fun x => { x.setReg rs1 (dataReg (n - 1)) with body := some b })
        | .stall s1 => .stall (s1.mod p fun x => { x with body := some b })
        | t => t

end Sys2Proof.Machine
end

