-- ==== Sys2Proof/Machine/Scoped.lean ====
section
/-! DEFINITION. The scoped forms and the fences (09/R178; 03/R57, R64). -/

namespace Sys2Proof.Machine

/-- The bytes of a size field (R64). -/
def sizeOf2 (sz : BitVec 2) : Nat := 2 ^ sz.toNat

/-- `lda` (R178). -/
def execLda (rd rs1 : BitVec 5) (sz : BitVec 2) (sc : BitVec 3) (s : State) : Out :=
  loadForm (wordLda rd rs1 sz sc) rd rs1 0 (sizeOf2 sz) (fun _ => .sext) false (some sc) s

/-- `stl` (R178): at dev or dom scope its entry is a release entry. -/
def execStl (rs1 rs2 : BitVec 5) (sz : BitVec 2) (sc : BitVec 3) (s : State) : Out :=
  storeForm (wordStl rs1 rs2 sz sc) rs1 rs2 0 (sizeOf2 sz) { release := 3 ≤ sc.toNat, isStl := true } true s

/-- A fence at a scope (R178): it takes its place behind the access half's instructions; at the issue point it holds
until its condition is met. -/
def fenceForm (sc : BitVec 3) (s : State) : Out :=
  let p := s.cur
  settleNext s <|
    if !(s.ctx p).acc.isEmpty then .val (s.mod p fun c => { c with acc := c.acc ++ [.fence sc] })
    else if s.fenceReady p sc then .val (s.mod p Ctx.sync)
    else .stall s

/-- `fence.SCOPE` (R178). -/
def execFenceScoped (sc : BitVec 3) (s : State) : Out := fenceForm sc s

/-- The base `fence` acts as `fence.dom` (R57). -/
def execFence (_fm _pred _succ : BitVec 4) (s : State) : Out := fenceForm 4 s

end Sys2Proof.Machine
end

