-- ==== Sys2Proof/Machine/Selection.lean ====
section
/-! DEFINITION. The selection engine: the column descriptor, the walk, and the five forms (17/R312 to R324). -/

namespace Sys2Proof.Machine

/-! ## The column descriptor (R313) -/

/-- The element type (R65). -/
def selTy (d : BitVec 512) : Ty := tyOf (d.extractLsb' 0 3)

def selNanin (d : BitVec 512) : Bool := d.getLsbD 3
def selZfold (d : BitVec 512) : Bool := d.getLsbD 4
def selWgt (d : BitVec 512) : Bool := d.getLsbD 5
def selN (d : BitVec 512) : Nat := (d.extractLsb' 16 17).toNat
def selW (d : BitVec 512) : Nat := (selTy d).bits
def selEsz (d : BitVec 512) : Nat := selW d / 8

/-- The addresses of the column and of the weights: the ADDR fields of CCAP and WCAP. -/
def selCol (d : BitVec 512) : Nat := (d.extractLsb' 128 64).toNat
def selWcol (d : BitVec 512) : Nat := (d.extractLsb' 256 64).toNat

/-- A resv bit is set, or N is out of range, or WCAP is given without WGT (R314). -/
def selMalformed (d : BitVec 512) : Bool :=
  d.extractLsb' 6 10 != 0 || d.extractLsb' 33 95 != 0 || d.extractLsb' 384 128 != 0 || selN d == 0 || 65536 < selN d ||
    (!selWgt d && d.extractLsb' 256 128 != 0)

/-! ## Reads of the column (R321) -/

/-- The bytes of a scratchpad that a party names at an address (R161). -/
def windowBytes (p : Party) (a n : Nat) : List Nat :=
  match windowPlace p a with
  | some q => span q n
  | none => []

/-- The places of the keys of some elements, and of the weights of some. -/
def selPlaces (p : Party) (d : BitVec 512) (keys weights : List Nat) : List Nat :=
  (keys.flatMap fun i => windowBytes p (selCol d + i * selEsz d) (selEsz d)) ++
    if selWgt d then weights.flatMap fun i => windowBytes p (selWcol d + 4 * i) 4 else []

/-- The Load steps of some places at a form (R321): one 32-byte block a turn, in any order (R166, R175); the form goes on once
all have been taken. `s` is the state before the form. -/
def State.columnRead (s : State) (p : Party) (qs : List Nat) : Tri Unit :=
  let c := s.ctx p
  if !c.acc.isEmpty then .stall s
  else
    match blocksLeft c.part qs with
    | [] => .val ()
    | bs =>
      let (f, s1) := s.fresh
      .stall (s1.mod p fun c => { c with part := c.part ++ s.blockCells p qs (pickOf f bs) })

/-- The state once the form has used what its Load steps read. -/
def State.columnDone (s : State) (p : Party) : State := s.mod p fun c => { c with part := [] }

/-- The code of element `i`, as the form's Load steps have read it. -/
def State.selElem (s : State) (p : Party) (d : BitVec 512) (i : Nat) : Nat :=
  leNat ((windowBytes p (selCol d + i * selEsz d) (selEsz d)).map fun q => s.seeBeside p (s.ctx p).part q)

/-- The key of element `i` (R129, R130). -/
def State.selKey (s : State) (p : Party) (d : BitVec 512) (i : Nat) : Nat :=
  imageKey (selTy d) (selZfold d) (s.selElem p d i)

/-- The weight of element `i`, widened to FP64; +0 without a weight column. -/
def State.selWeight (s : State) (p : Party) (d : BitVec 512) (i : Nat) : Nat :=
  if selWgt d then
    convertElem (.f fmtF32) (.f fmtF64) false (leNat ((windowBytes p (selWcol d + 4 * i) 4).map fun q => s.seeBeside p (s.ctx p).part q))
  else 0

/-- An FP64 sum of R316: to nearest, ties to even. -/
def add64 (a b : Nat) : Nat := (fmtF64.fadd .rne a b).code

/-- `wsum` of some elements in ascending order (R316). -/
def wsum (w : Nat → Nat) (l : List Nat) : Nat := l.foldl (fun a i => add64 a (w i)) 0

/-- The cause of reading the keys of some elements and the weights of some (R321): the access tables, with the bit of the
selection units (R383, R384), or a poisoned block (R386). -/
def State.selFault (s : State) (p : Party) (d : BitVec 512) (keys weights : List Nat) : Option (BitVec 6 × BitVec 64) :=
  let bytes (a n : Nat) : List (Nat × Nat) := (List.range n).map fun j => (a + j, (windowPlace p (a + j)).getD 0)
  let cells := (keys.map fun i => bytes (selCol d + i * selEsz d) (selEsz d)).flatten ++
    if selWgt d then (weights.map fun i => bytes (selWcol d + 4 * i) 4).flatten else []
  match cells.find? fun x => !s.permitted (targetOf x.2) (s.ctx p).partid 21 1 with
  | some x => some (0x13, BitVec.ofNat 64 x.1)
  | none =>
    (cells.find? fun x => s.cell p.die.val (poisonPlace x.2) != 0#8).map fun x => (0x19, BitVec.ofNat 64 (x.1 / 32 * 32))

/-! ## The engine (R315 to R319) -/

/-- A mask from the list of its members. -/
def maskOf (l : List Nat) : BitVec 65536 := BitVec.ofNat 65536 (l.foldl (fun a i => a ||| 1 <<< i) 0)

/-- The candidates, ascending. -/
def Sel.cands (k : Sel) : List Nat := (List.range (selN k.desc)).filter fun i => k.mask.getLsbD i

/-- `selld`'s state for a descriptor: `isNan` says which elements are NaN (R315). -/
def Sel.load (k : Sel) (holder : Nat) (d : BitVec 512) (isNan : Nat → Bool) : Sel :=
  let l := (List.range (selN d)).filter fun i => selNanin d || !isNan i
  { holder := some holder, claims := (k.unclaim holder).claims, desc := d, mask := maskOf l, pl := selW d,
    excl := selN d - l.length }

/-- `selstep`'s state (R317). -/
def Sel.step (k : Sel) (key w : Nat → Nat) : Sel :=
  let l := k.cands
  let z := l.filter fun i => !(key i).testBit (k.pl - 1)
  let o := l.filter fun i => (key i).testBit (k.pl - 1)
  { k with lz := z.length, lo := o.length, lwz := BitVec.ofNat 64 (wsum w z), lwo := BitVec.ofNat 64 (wsum w o) }

/-- The candidates that a cut takes out (R318). -/
def Sel.out (k : Sel) (key : Nat → Nat) (ones : Bool) : List Nat :=
  k.cands.filter fun i => (key i).testBit (k.pl - 1) != ones

/-- `selcut`'s state (R318). -/
def Sel.cut (k : Sel) (key w : Nat → Nat) (ones : Bool) : Sel :=
  let b := k.pl - 1
  let l := k.cands
  let g := k.out key ones
  let kept := l.filter fun i => (key i).testBit b == ones
  let sum (x : BitVec 64) : BitVec 64 := BitVec.ofNat 64 (add64 x.toNat (wsum w g))
  { k with
    below := if ones then k.below + g.length else k.below
    wbelow := if ones then sum k.wbelow else k.wbelow
    above := if ones then k.above else k.above + g.length
    wabove := if ones then k.wabove else sum k.wabove
    mask := maskOf kept
    pfx := if ones then k.pfx ||| (1#64 <<< b) else k.pfx &&& ~~~(1#64 <<< b)
    pl := b }

/-- An FP64 comparison `a ≥ b`, false with a NaN (R319). -/
def ge64 (a : Nat) (b : BitVec 64) : Bool :=
  let x := fmtF64.num a
  let y := fmtF64.num b.toNat
  y.lt x || y.eq x

/-- Whether a `selrun` of mode `m` keeps the zeros after a step (R319). -/
def Sel.keepsZeros (k : Sel) (m : Nat) (t : BitVec 64) : Bool :=
  match m with
  | 0 => t.toNat < k.below + k.lz
  | 1 => !(t.toNat < k.above + k.lo)
  | 2 => ge64 (add64 k.wbelow.toNat k.lwz.toNat) t
  | _ => !ge64 (add64 k.wabove.toNat k.lwo.toNat) t

/-- A `selrun` of mode `m` toward `t` ends before its first plane with rd = 1 (R319). -/
def Sel.outside (k : Sel) (m : Nat) (t : BitVec 64) : Bool :=
  let cnt := k.cands.length
  let inside (x : Nat) : Bool := x ≤ t.toNat && t.toNat < x + cnt
  cnt == 0 || (m == 0 && !inside k.below) || (m == 1 && !inside k.above)

/-- rd of a `selrun` whose planes are walked (R319). -/
def Sel.verdict (k : Sel) (w : Nat → Nat) (m : Nat) (t : BitVec 64) : Nat :=
  if m < 2 then 0
  else if ge64 (add64 (if m = 2 then k.wbelow else k.wabove).toNat (wsum w k.cands)) t then 0
  else 2

/-- The status word (R320). -/
def Sel.status (k : Sel) : BitVec 64 :=
  BitVec.ofNat 15 k.excl ++ BitVec.ofNat 17 (selN k.desc) ++ 0#10 ++ BitVec.ofBool (selWgt k.desc) ++
    BitVec.ofBool (selZfold k.desc) ++ BitVec.ofBool (selNanin k.desc) ++ k.desc.extractLsb' 0 3 ++ 0#1 ++
    BitVec.ofNat 7 (selW k.desc) ++ 0#1 ++ BitVec.ofNat 7 k.pl

/-- The value that a selector names (R320). -/
def Sel.value (k : Sel) (w : Nat → Nat) (n : Nat) : BitVec 64 :=
  match n with
  | 0 => k.pfx
  | 1 => BitVec.ofNat 64 (keyCode (selTy k.desc) k.pfx.toNat)
  | 2 => BitVec.ofNat 64 k.below
  | 3 => BitVec.ofNat 64 k.cands.length
  | 4 => BitVec.ofNat 64 k.above
  | 5 => k.wbelow
  | 6 => BitVec.ofNat 64 (wsum w k.cands)
  | 7 => k.wabove
  | 8 => BitVec.ofNat 64 k.lz
  | 9 => BitVec.ofNat 64 k.lo
  | 10 => k.lwz
  | 11 => k.lwo
  | _ => k.status

/-! ## The forms -/

/-- The engine of a party's cluster. -/
def State.sel (s : State) (p : Party) : Sel := (s.clu (cluOfCore p.coreIx)).sel

/-- The state with the engine of a party's cluster replaced. -/
def State.setSel (s : State) (p : Party) (k : Sel) : State :=
  let n := cluOfCore p.coreIx
  s.setClu n { s.clu n with sel := k }

/-- The engine as its holder has it, or cause 0x36 (R312). -/
def State.heldSel (s : State) (p : Party) : Tri Sel :=
  if (s.sel p).holder = some p.ix then .val (s.sel p) else .trap 0x36 0

/-- The checks of a column of `n` bytes under a capability of the descriptor (R314). -/
def selColumn (p : Party) (c : Reg) (n align : Nat) : Tri Unit :=
  let a := (capAddr c).toNat
  (Tri.unless (checkCap p.isSup c a n permLoad false)).bind fun _ =>
  (Tri.ensure (a % align == 0) 0x36 0).bind fun _ =>
  match windowPlace p a, windowPlace p (a + n - 1) with
  | some q, some r => Tri.ensure (spCore q == spCore r && spCore q / 8 == p.coreIx / 8) 0x36 0
  | _, _ => .trap 0x36 0

/-- The elements whose codes `selld` reads: those of a floating type, where NaN elements are excluded (R315). -/
def selReads (d : BitVec 512) : List Nat :=
  match selTy d with
  | .f _ => if selNanin d then [] else List.range (selN d)
  | .i _ => []

/-- The engine claimed by a party's `selld` that has passed its checks (R314), and whose walk is yet to start. -/
def State.claimSel (s : State) (p : Party) (d : BitVec 512) : State :=
  let k := s.sel p
  if k.holder = some p.ix && k.granted.isSome then s
  else
    (s.columnDone p).setSel p { k.unclaim p.ix with
      holder := some p.ix, granted := some d, rewalk := k.holder == some p.ix }

/-- A claimed engine set for a descriptor, once the elements are read (R315). `s0` is the state before the form. -/
def State.startSel (s0 s : State) (p : Party) (d : BitVec 512) : Tri State :=
  let s1 := s0.claimSel p d
  let isNan (i : Nat) : Bool :=
    match selTy d with
    | .f f => f.isNan (s1.selElem p d i)
    | .i _ => false
  (Tri.unless (s.selFault p d (selReads d) [])).bind fun _ =>
  (s1.columnRead p (selPlaces p d (selReads d) [])).bind fun _ =>
  .val ((s.setSel p ((s.sel p).load p.ix d isNan)).columnDone p)

/-- The descriptor of a party's `selld` that has passed its checks and may start its walk: its claim is first at a free
engine, or the engine has been granted to it (R312). -/
def Sel.ready (k : Sel) (p : Nat) : Option (BitVec 512) :=
  if k.holder = some p then k.granted
  else if k.holder.isNone then
    match k.claims with
    | (h, d) :: _ => if h = p then some d else none
    | [] => none
  else none

/-- The checks of `selld` at its issue (R314): the descriptor, read in the Load steps of its blocks with the tags of its
granules. -/
def State.selChecks (s0 s : State) (p : Party) (c : Reg) : Tri (BitVec 512 × State) :=
  let a := (capAddr c).toNat
  (Tri.unless (checkCap p.isSup c a 64 (permLoad ||| permLoadCap) false)).bind fun _ =>
  (Tri.ensure (a % 64 == 0) 0x36 0).bind fun _ =>
  (s.reach p .r a 64).bind fun qs =>
  (s.unpoisoned p a qs).bind fun _ =>
  (State.gather s0 s p (qs ++ [tagPlace (qs.getD 16 0), tagPlace (qs.getD 32 0)])).bind fun (bs, s1) =>
  let d : BitVec 512 := BitVec.ofNat 512 (leNat (bs.take 64))
  let tag (i : Nat) : Bool := bs.getD i 0 != 0#8
  (Tri.ensure (!selMalformed d) 0x36 0).bind fun _ =>
  (selColumn p (mkCap (tag 64) (d.extractLsb' 192 64) (d.extractLsb' 128 64)) (selN d * selEsz d) (selEsz d)).bind fun _ =>
  (if selWgt d then selColumn p (mkCap (tag 65) (d.extractLsb' 320 64) (d.extractLsb' 256 64)) (4 * selN d) 4
    else .val ()).bind fun _ =>
  .val (d, s1)

/-- `selld` (R314, R315). It waits while another context holds the engine or has an earlier claim (R312). -/
def execSelld (rs1 : BitVec 5) (s : State) : Out :=
  let p := s.cur
  let w := wordSelld rs1
  onUnit w s <| settleNext s <|
    (s.exePre p w 0 [rs1]).bind fun _ =>
    (s.src p rs1).bind fun (c, s1) =>
    let k := s1.sel p
    match k.ready p.ix with
    | some d => State.startSel s s1 p d
    | none =>
      if k.claims.any fun x => x.1 == p.ix then .stall s
      else
        (State.selChecks s s1 p c).bind fun (d, s2) =>
        if k.holder = some p.ix || (k.holder.isNone && k.claims == []) then State.startSel s s2 p d
        else .stall ((s.mod p fun x => { x with part := [] }).setSel p { k with claims := k.claims ++ [(p.ix, d)] })

/-- `selstep` (R317). -/
def execSelstep (rd : BitVec 5) (s : State) : Out :=
  let p := s.cur
  let w := wordSelstep rd
  onUnit w s <| exe0 w rd s fun s1 =>
    (s1.heldSel p).bind fun k =>
    (Tri.ensure (k.pl != 0) 0x36 0).bind fun _ =>
    (Tri.unless (s1.selFault p k.desc k.cands k.cands)).bind fun _ =>
    (s.columnRead p (selPlaces p k.desc k.cands k.cands)).bind fun _ =>
    let k1 := k.step (s1.selKey p k.desc) (s1.selWeight p k.desc)
    .val (dataReg (BitVec.ofNat 64 k1.lz), (s1.setSel p k1).columnDone p)

/-- The Load steps of a cut (R318, R321): the keys of the candidates, and then the weights of those taken out; `s` is the state
before the form. -/
def State.cutReads (s s1 : State) (p : Party) (k : Sel) (ones : Bool) : Tri Unit :=
  (Tri.unless (s1.selFault p k.desc k.cands [])).bind fun _ =>
  (s.columnRead p (selPlaces p k.desc k.cands [])).bind fun _ =>
  let g := k.out (s1.selKey p k.desc) ones
  (Tri.unless (s1.selFault p k.desc [] g)).bind fun _ =>
  s.columnRead p (selPlaces p k.desc k.cands g)

/-- `selcut` (R318). -/
def execSelcut (rs1 : BitVec 5) (s : State) : Out :=
  let p := s.cur
  let w := wordSelcut rs1
  onUnit w s <| exe1 w 0 rs1 s fun a s1 =>
    (s1.heldSel p).bind fun k =>
    (Tri.ensure ((capAddr a).toNat < 2 && k.pl != 0) 0x36 0).bind fun _ =>
    let ones := (capAddr a).getLsbD 0
    (State.cutReads s s1 p k ones).bind fun _ =>
    .val (0, (s1.setSel p (k.cut (s1.selKey p k.desc) (s1.selWeight p k.desc) ones)).columnDone p)

/-- One half of a plane of a `selrun` (R319): its step, and in a later turn its cut; `s` is the state before the form. -/
def State.planeHalf (s s1 : State) (p : Party) (k : Sel) (m : Nat) (t : BitVec 64) : Tri State :=
  let key := s1.selKey p k.desc
  let weight := s1.selWeight p k.desc
  let undo := some (k.undo.getD k.toSelFields)
  match k.keepOnes with
  | none =>
    (Tri.unless (s1.selFault p k.desc k.cands k.cands)).bind fun _ =>
    (s.columnRead p (selPlaces p k.desc k.cands k.cands)).bind fun _ =>
    let k1 := k.step key weight
    .val ((s.setSel p { k1 with undo := undo, keepOnes := some (!k1.keepsZeros m t) }).columnDone p)
  | some ones =>
    (State.cutReads s s1 p k ones).bind fun _ =>
    .val ((s.setSel p { k.cut key weight ones with undo := undo, keepOnes := none }).columnDone p)

/-- `selrun` (R319): the step or the cut of one plane a turn, and then its end; a pre-emption may fall between planes
(R322). -/
def execSelrun (rd rs1 rs2 : BitVec 5) (s : State) : Out :=
  let p := s.cur
  let w := wordSelrun rd rs1 rs2
  onUnit w s <| exe2 w rd rs1 rs2 s fun a b s1 =>
    (s1.heldSel p).bind fun k =>
    let m := (capAddr b).toNat
    let t := capAddr a
    (Tri.ensure (m < 4 && (m < 2 || selWgt k.desc)) 0x36 0).bind fun _ =>
    if k.undo.isNone && k.outside m t then .val (dataReg 1, s1)
    else if k.pl = 0 then
      let l := if m < 2 then [] else k.cands
      (Tri.unless (s1.selFault p k.desc [] l)).bind fun _ =>
      (s.columnRead p (selPlaces p k.desc [] l)).bind fun _ =>
      .val (dataReg (BitVec.ofNat 64 (k.verdict (s1.selWeight p k.desc) m t)),
        (s1.setSel p { k with undo := none, keepOnes := none }).columnDone p)
    else (State.planeHalf s s1 p k m t).bind fun s2 => .stall s2

/-- `selget` (R320). -/
def execSelget (rd rs1 : BitVec 5) (s : State) : Out :=
  let p := s.cur
  let w := wordSelget rd rs1
  onUnit w s <| exe1 w rd rs1 s fun a s1 =>
    (s1.heldSel p).bind fun k =>
    let n := (capAddr a).toNat % 256
    (Tri.ensure ((capAddr a).toNat < 512 && n ≤ 12) 0x36 0).bind fun _ =>
    let l := if n = 6 then k.cands else []
    (Tri.unless (s1.selFault p k.desc [] l)).bind fun _ =>
    (if n = 6 then s.columnRead p (selPlaces p k.desc [] l) else .val ()).bind fun _ =>
    let s2 := s1.columnDone p
    .val (dataReg (k.value (s1.selWeight p k.desc) n), if (capAddr a).getLsbD 8 then s2.releaseSel p else s2)

/-- SELECTION_ENGINE_GRANT (R312): the oldest waiting `selld` claims a free engine. -/
def execSelectionEngineGrant (die : Fin 8) (clu : Fin 256) (s : State) : Out :=
  let n := die.val * 256 + clu.val
  let k := s.clu n
  match k.sel.holder, k.sel.claims with
  | none, (h, d) :: rest => .next (s.setClu n { k with sel := { k.sel with holder := some h, granted := some d, claims := rest } })
  | _, _ => .next s

end Sys2Proof.Machine
end

