-- ==== Sys2Proof/Machine/System.lean ====
section
/-! DEFINITION. Boot, attestation, the host link, start-up and power (23/R392 to R397). An event that its rule does not
enable leaves the state as it is. -/

namespace Sys2Proof.Machine

/-! ## Start-up (R396) -/

/-- The piece of silicon that has a die number (01/R15). -/
def Device.siliconOf (d : Device) (die : Nat) : Nat := d.silicon.getD die die

/-- The units in start-up order are the base dies, stacks 0 to 7, and the nine compute dies (R396): a piece of silicon has
started. -/
def Device.siliconUp (d : Device) (n : Nat) : Bool := 9 + n < d.units

/-- The die that runs on a piece of silicon, if one does. -/
def Device.dieOn (d : Device) (n : Nat) : Option Nat := (List.range 8).find? fun i => d.siliconOf i == n

/-- The start of every cluster of a compute die is done, or it is the spare's, which is held idle. -/
def State.siliconDone (s : State) (n : Nat) : Bool :=
  match s.dev.dieOn n with
  | some d => 16 ≤ (s.die d).waves
  | none => true

/-- UNIT_START (R396): the next unit starts once the one before it is done. -/
def execUnitStart (s : State) : Out :=
  let n := s.dev.units
  if 18 ≤ n || !(n < 10 || s.siliconDone (n - 10)) then .next s
  else .next (s.setDev { s.dev with units := n + 1 })

/-- CLUSTER_WAVE_START (R396): 16 clusters start, 4,096 cycles of the die's supervisor core 0 after the wave before; the
cycle counts of their cores begin at 0 (03/R82). -/
def execClusterWaveStart (die : Fin 8) (s : State) : Out :=
  let d := die.val
  let x := s.die d
  let now := (s.core (20000 + 4 * d)).cyc
  if !s.dev.siliconUp (s.dev.siliconOf d) || x.failed || 16 ≤ x.waves || (x.waves != 0 && now < x.waveAt + 4096) then .next s
  else
    let first := d * 2048 + 128 * x.waves
    let s1 : State := { s with
      cores := s.cores.map fun (n, k) => (n, if first ≤ n && n < first + 128 then { k with cyc := 0 } else k) }
    .next (s1.setDie d { x with waves := x.waves + 1, waveAt := now })

/-! ## Boot (R392) -/

/-- A 256-bit digest as bytes, byte 0 first. -/
def digestList (d : BitVec 256) : List Byte := leBytes d.toNat 32

/-- Mask ROM accepts an offered image: its public key's digest is the fused root digest, its signature over the digest of
the body verifies, and its version is not below the fused minimum. -/
def imageAccepted (key sig body : List Byte) (version : Nat) : Bool :=
  sha3 key == Config.fusedRootDigest && Config.mldsaVerify key (digestList (sha3 body)) sig && Config.fusedMinVersion ≤ version

/-- A supervisor core leaves mask ROM at the image's start (DESIGN CHOICE, log 10). -/
def State.startSup (s : State) (p : Party) : State :=
  let s1 := s.setCore p.coreIx { s.core p.coreIx with cyc := 0 }
  s1.mod p fun c => { c with run := .running, pc := Config.firmwareBase p.die.val }

/-- Mask ROM of supervisor core 0 of a die, with its verified image installed at its place (R392; DESIGN CHOICE, log 10): the trap entry
is the dword at byte 8 (R376). -/
def State.installImage (s : State) (d : Nat) (body : List Byte) (version : Nat) : State :=
  let base := (Config.firmwareBase d).toNat
  let cells := ((span base body.length).zip body).filter fun c => isHbm c.1
  let s1 := s.writeAt d (plainCells cells) false []
  s1.setDie d { s1.die d with image := some (sha3 body, version, BitVec.ofNat 64 (leNat ((body.drop 8).take 8))) }

/-- POWER_ON (R392): a device without power comes up as `State.reset` has it. A supervisor core 0 in mask ROM takes the
image offered for its die, if it accepts it; a refused one leaves it in ROM, and the management port reports 0x3D. The
die's other supervisor cores follow once it has an image (DESIGN CHOICE, log 10). -/
def execPowerOn (s : State) : Out :=
  if !s.dev.powered then .next { State.reset with agenda := s.agenda }
  else
    match s.cur with
    | .sup die n =>
      let d := die.val
      let p := Party.sup die n
      if (s.ctx p).run != .idle || !s.dev.siliconUp (s.dev.siliconOf d) || (s.die d).failed then .next s
      else if (s.die d).image.isSome then .next (s.startSup p)
      else if n.val != 0 then .next s
      else
        match s.dev.mgmt.offered.find d with
        | none => .next s
        | some (key, sig, body, version) =>
          if imageAccepted key sig body version then .next ((s.installImage d body version).startSup p)
          else
            let m := s.dev.mgmt
            .next (s.setDev { s.dev with
              mgmt := { m with offered := m.offered.drop d, reports := m.reports ++ [(0x3D, d)] } })
    | _ => .next s

/-- POWER_DOWN (R392): the device holds no state. -/
def execPowerDown (s : State) : Out :=
  .next { State.reset with agenda := s.agenda, dev := { State.reset.dev with powered := false } }

/-! ## Attestation (R393, R394) -/

/-- The firmware digest of a die: that of its verified image. -/
def State.firmwareDigest (s : State) (d : Nat) : BitVec 256 :=
  match (s.die d).image with
  | some (x, _, _) => x
  | none => 0

/-- The targets of the access tables of a die: its regions, scratchpads and CSR blocks (R383). -/
def dieTargets (d : Nat) : List Nat :=
  ((List.range 48).map fun i => d * 48 + i) ++ ((List.range 2048).map fun i => 1000 + d * 2048 + i) ++
    (List.range 256).map fun i => targetCsr (d * 256 + i)

/-- The digest of a die's access tables. -/
def State.accessDigest (s : State) (d : Nat) : BitVec 256 :=
  sha3 ((dieTargets d).flatMap fun t => (List.range 64).flatMap fun i => leBytes (s.dev.access.getD (64 * t + i) 0).toNat 8)

/-- The digests of every armed tap point, in ascending order of cluster and tap point. -/
def State.tapDigests (s : State) : List Byte :=
  s.clusters.flatMap fun (_, k) => (k.taps.toList.filter fun t => t.ctl.getLsbD 0).flatMap fun t => digestList t.digest

/-- The contents of a report (R393); their order is the model's (DESIGN CHOICE, log 45). -/
def State.reportBody (s : State) : List Byte :=
  digestList s.dev.host.nonce ++ ((List.range 8).flatMap fun d => digestList (s.firmwareDigest d)) ++
    leBytes s.dev.num.toNat 2 ++
    leBytes (((List.range 8).find? fun d => s.dev.siliconOf d == 8).getD 8) 1 ++
    ((List.range 8).flatMap fun d => digestList (s.accessDigest d)) ++ s.tapDigests

/-- The seed of the alias key: SHA3-256(fused seed ‖ firmware digest), of die 0's firmware (DESIGN CHOICE, log 45). -/
def State.aliasSeed (s : State) : BitVec 256 := sha3 (digestList Config.fusedSeed ++ digestList (s.firmwareDigest 0))

/-- The device key (R393): the public key of the pair that the fused seed gives. -/
def deviceKey : List Byte := Config.mldsaPublicKey Config.fusedSeed

/-- The alias key's public key, and its signature by the device key (R393). -/
def State.aliasKey (s : State) : List Byte := Config.mldsaPublicKey s.aliasSeed
def State.aliasSignature (s : State) : List Byte := Config.mldsaSign Config.fusedSeed s.aliasKey

/-- ATTESTATION_REQUEST (R394): a nonce written while no report is being built starts one. -/
def execAttestationRequest (nonce : BitVec 256) (s : State) : Out :=
  let h := s.dev.host
  if h.building then .next s
  else .next (s.setDev { s.dev with host := { h with nonce := nonce, building := true, report := [], reportLen := 0 } })

/-- ATTESTATION_REPORT_READY (R393, R394): the report signed by the alias key, and its length. The management port gives it
too, with the alias key as the device key has signed it. -/
def execAttestationReportReady (s : State) : Out :=
  let h := s.dev.host
  if !h.building then .next s
  else
    let b := s.reportBody
    let r := b ++ Config.mldsaSign s.aliasSeed b
    let m := s.dev.mgmt
    .next (s.setDev { s.dev with
      host := { h with building := false, report := r, reportLen := r.length }
      mgmt := { m with attested := r, aliasKey := s.aliasKey, aliasSignature := s.aliasSignature } })

/-! ## The host link (R394, R395) -/

/-- The unit number of a page of the message window as a sender of messages. -/
def unitPage (part : BitVec 8) : Nat := 700000 + part.toNat

/-- The bytes of a host write as fields (R395): key, class, port and close, PRIO, LTAG, payload. -/
def hostMessage (part : BitVec 8) (w : BitVec 512) : Message :=
  { part := part, key := w.extractLsb' 0 64, cls := w.extractLsb' 64 16,
    hdr := mkHdr (w.extractLsb' 80 2) (if w.getLsbD 82 then 2 else 0) 0 (w.extractLsb' 88 8) (w.extractLsb' 96 12) 0 0,
    pay := w.extractLsb' 128 384 }

/-- The fields that are zero in a host write (R395). -/
def hostZeros (w : BitVec 512) : Bool := w.extractLsb' 83 5 == 0 && w.extractLsb' 108 4 == 0 && w.extractLsb' 112 16 == 0

/-- A host write reported to the supervisor of logical die 0 (01/R24). -/
def State.reportHost (s : State) (cause : BitVec 6) (part : BitVec 8) (cls : BitVec 16) (key : BitVec 64) : State :=
  s.report 0 { cause := cause, part := part, cls := cls, key := key, unit := 7, tuple := s.devTuple }

/-- A message of the host counted (R233) and routed (R209), once its home can be found: until then the window holds the write
and waits for the walk (R380). -/
def State.sendHost (s : State) (m : Message) : State :=
  let desc := (s.readDesc 0 m.part m.cls).1
  match if (routeRefusal desc m.cls m.hdr).isSome then none else s.homeMissing desc m.part m.key with
  | some va => s.askUnit 0 0 m.part va
  | none =>
  let h := s.dev.host
  let s0 := s.setDev { s.dev with host := { h with sent := countUp h.sent m.part (hdrLtag m.hdr) } }
  let (d, s00) := s0.readDesc 0 m.part m.cls
  let (home, s1) := s00.findHome 0 d m.part m.cls m.key
  let lost (c : BitVec 6) : State :=
    let h := s1.dev.host
    (s1.setDev { s1.dev with host := { h with recv := countUp h.recv m.part (hdrLtag m.hdr) } }).reportHost c m.part m.cls m.key
  match routeRefusal d m.cls m.hdr with
  | some c => lost c
  | none =>
    match home with
    | .at dev die clu => s1.unitSend (unitPage m.part) m (.home dev die clu) none
    | .unmapped => lost 0x24

/-- HOST_MESSAGE_WRITE (R395): a posted write of the host at an offset of a partition's page. -/
def execHostMessageWrite (part : BitVec 8) (off : BitVec 12) (bytes : List Byte) (s : State) : Out :=
  let w : BitVec 512 := BitVec.ofNat 512 (leNat bytes)
  if !s.permitted targetHost part 20 2 then .next (s.reportHost 0x13 part 0 0)
  else if bytes.length != 64 || off.toNat % 64 != 0 || !hostZeros w then
    let h := s.dev.host
    .next ((s.setDev { s.dev with host := { h with badWrites := h.badWrites + 1 } }).reportHost 0x25 part 0 0)
  else .next (s.sendHost (hostMessage part w))

/-- The 64 bytes that a host load reads: a free value where the access is refused or a block is poisoned (DESIGN CHOICE, log 46). -/
def State.hostRead (s : State) (part : BitVec 8) (q : Nat) : BitVec 512 × State :=
  let qs := span q 64
  let ok := s.permitted (targetOf q) part 20 1
  match if ok then s.unitBytes qs else none with
  | some bs => (BitVec.ofNat 512 (leNat bs), s)
  | none =>
    let n := s.dev.freeAt
    (BitVec.ofNat 512 ((List.range 8).foldl (fun v i => v + 2 ^ (64 * i) * (Config.freeValue (n + i)).toNat) 0),
      s.setDev { s.dev with freeAt := n + 8 })

/-- HOST_MEMORY_ACCESS (R394, R384): the host reads or writes an aligned 64-byte line of the device's HBM; a refused write
is discarded and reported. -/
def execHostMemoryAccess (part : BitVec 8) (q : BitVec 64) (wr : Option (BitVec 512)) (s : State) : Out :=
  let a := q.toNat / 64 * 64
  if hbmTop ≤ a then .next s
  else
    match wr with
    | some v =>
      if s.permitted (targetOf a) part 20 2 then
        .next (s.writeAt (homeDie a) (plainCells (bytesCells a v.toNat 64)) false [])
      else .next (s.reportHost 0x13 part 0 0)
    | none =>
      let (v, s1) := s.hostRead part a
      .next (s1.setDev { s1.dev with host := { s1.dev.host with read := v } })

/-! ## Power (R397) -/

/-- POWER_LIMIT_SET: a limit of at most 2,600 W. -/
def execPowerLimitSet (watts : Nat) (s : State) : Out :=
  if 2600 < watts then .next s
  else .next (s.setDev { s.dev with mgmt := { s.dev.mgmt with limit := watts, engaged := false } })

/-- POWER_LIMIT_ENGAGE: the limit is reached, and reported with cause 0x3C. The idle issue cycles are time alone. -/
def execPowerLimitEngage (s : State) : Out :=
  if s.dev.mgmt.engaged then .next s
  else
    .next ((s.setDev { s.dev with mgmt := { s.dev.mgmt with engaged := true } }).report 0
      { cause := 0x3C, unit := 10, tuple := s.devTuple })

end Sys2Proof.Machine
end

