-- ==== Sys2Proof/Machine/Translate.lean ====
section
/-! DEFINITION. Translation: the walker, and the forms that invalidate and probe (23/R378 to R382). -/

namespace Sys2Proof.Machine

/-! ## The walker (R380) -/

/-- An entry added to a cache of translations, unless it holds the page already. -/
def tlbAdd (l : List TlbEntry) (n seed : Nat) (e : TlbEntry) : List TlbEntry :=
  if l.any fun x => x.part == e.part && x.base == e.base && x.size == e.size then l else cacheAdd l n seed e

/-- The result of a walk fills the micro-TLB of a core and the TLB of its cluster. -/
def State.fillTlb (s : State) (core : Nat) (e : TlbEntry) : State :=
  let k := s.core core
  let s1 := s.setCore core { k with utlb := tlbAdd k.utlb 32 s.dev.freeAt e }
  let x := s1.clu (cluOfCore core)
  let s2 := s1.setClu (cluOfCore core) { x with tlb := tlbAdd x.tlb 1024 (s.dev.freeAt + 1) e }
  s2.setDev { s2.dev with freeAt := s2.dev.freeAt + 2 }

/-- The result of a walk fills the translations that units hold. -/
def State.fillUnit (s : State) (key die : Nat) (part : BitVec 8) (page : Nat) : State := s.holdPage key die part page

/-- PAGE_WALK (R380): the oldest pending page of a die's walker; the parties that wait for it ask no longer. -/
def execPageWalk (die : Fin 8) (s : State) : Out :=
  let d := s.die die.val
  match d.walks with
  | [] => .next s
  | r :: rest =>
    let e := s.walk die.val r.part r.page
    let s0 := r.units.foldl (fun s u => s.fillUnit u die.val r.part r.page) (s.setDie die.val { d with walks := rest })
    let s1 := r.cores.foldl (fun s c => s.fillTlb c e) s0
    let waits (c : Ctx) : Bool :=
      match c.walk with
      | some (p, va) => p == r.part.toNat && va / 0x10000 * 0x10000 == r.page
      | none => false
    .next { s1 with ctxs := s1.ctxs.map fun (i, c) =>
      (i, if r.cores.contains (coreOfParty i) && waits c then { c with walk := none } else c) }

/-! ## `atinv` (R381) -/

/-- The fields of X(rs1). -/
def invKind (x : BitVec 64) : Nat := (x.extractLsb' 0 2).toNat
def invPart (x : BitVec 64) : BitVec 8 := x.extractLsb' 8 8
def invScope (x : BitVec 64) : BitVec 3 := x.extractLsb' 16 3

/-- X(rs1) is one that the form takes. -/
def invOk (x : BitVec 64) : Bool :=
  2 ≤ (invScope x).toNat && (invScope x).toNat ≤ 4 && x.extractLsb' 2 6 == 0 && x.extractLsb' 19 45 == 0

/-- Whether the invalidation drops an entry of a TLB: every entry of the partition, or those of one page. -/
def invDrops (x : BitVec 64) (va : Nat) (e : TlbEntry) : Bool :=
  e.part == invPart x &&
    match invKind x with
    | 0 => e.base ≤ va && va < e.base + e.size
    | 1 => true
    | 3 => true
    | _ => false

/-- The keys of the table copies that the invalidation drops on a die: the partition's tables, and for KIND 11 those of
the bank store table. -/
def invTables (x : BitVec 64) (die : Nat) : List Nat :=
  match invKind x with
  | 2 => [copyKey die (invPart x).toNat]
  | 3 => [copyKey die (invPart x).toNat, copyKey die 256]
  | _ => []

/-- What one die drops. -/
def State.invalidateDie (s : State) (x : BitVec 64) (va die : Nat) : State :=
  let keep (l : List TlbEntry) : List TlbEntry := l.filter fun e => !invDrops x va e
  let s1 : State := { s with
    cores := s.cores.map fun (i, k) => (i, if dieOfCore i = die then { k with utlb := keep k.utlb } else k)
    clusters := s.clusters.map fun (i, k) => (i, if i / 256 = die then { k with tlb := keep k.tlb } else k)
    dev := { s.dev with pages := s.dev.pages.map fun (i, l) => (i, if i != 0 && (i - 1) / 64 = die then keep l else l) } }
  let s2 := s1.setDev { s1.dev with tables := (invTables x die).foldl (fun t k => t.drop k) s1.dev.tables }
  if 2 ≤ invKind x then
    let d := s2.die die
    s2.setDie die { d with bias := d.bias.filter fun (i, _) => i / 128 != (invPart x).toNat }
  else s2

/-- The invalidation in its scope, seen from a die. -/
def State.invalidate (s : State) (x : BitVec 64) (va die : Nat) : State :=
  let dies := if invScope x = 2#3 then [die] else [0, 1, 2, 3, 4, 5, 6, 7]
  dies.foldl (fun s d => s.invalidateDie x va d) s

/-- The mappings that homes are found by, walked anew where an invalidation of translations names them, whatever its scope:
one home stands for an actor on all of the device, and a change of an entry moves no home before the next invalidation that
names it (R27, R28; DESIGN CHOICE, log 89). -/
def State.renewHomes (s : State) (x : BitVec 64) (va die : Nat) : State :=
  s.setDev { s.dev with
    pages := s.dev.pages.map fun (i, l) =>
      (i, if i = 0 then
          l.map fun e => if invDrops x va { e with base := e.base / e.leaf * e.leaf, size := e.leaf } then
            s.homeWalk die e.part e.base else e
        else l) }

/-- Whether some old home has still to hand over an actor of the partition (R28). -/
def State.handoverPending (s : State) (part : BitVec 8) : Bool :=
  s.clusters.any fun (i, _) => (s.movedEntries i).any fun (_, h) => h.part == part

/-- `atinv` (R381): it waits for the release condition of its scope, and a change of mappings, which homes are found by from
then on, waits for the handovers of R28; then every unit in scope has dropped its matching entries. -/
def execAtinv (rs1 rs2 : BitVec 5) (s : State) : Out :=
  let p := s.cur
  let w := wordAtinv rs1 rs2
  onSup w s <| settleNext s <|
    (s.exePre p w 0 [rs1, rs2]).bind fun _ =>
    (s.src p rs1).bind fun (a, s1) =>
    let x := capAddr a
    (Tri.ensure (invOk x) 0x01 (wordTval w)).bind fun _ =>
    (s1.src p rs2).bind fun (b, s2) =>
    let va := (capAddr b).toNat
    if !s.released ((s.ctx p).releaseAt p.ix (invScope x)) then .stall s
    else
      let s1 := s.renewHomes x va p.die.val
      if invKind x != 2 && s1.handoverPending (invPart x) then .stall s1
      else .val ((s2.renewHomes x va p.die.val).invalidate x va p.die.val)

/-! ## `atprobe` (R382) -/

/-- The code of a hearth entry's state (R220). -/
def HearthState.code : HearthState → BitVec 2
  | .free => 0
  | .kindling => 1
  | .live => 2
  | .moving => 3

/-- The 128 bits of a hearth entry (R220). -/
def Hearth.word (h : Hearth) : BitVec 128 :=
  0#9 ++ h.fwd ++ BitVec.ofBool h.pin ++ BitVec.ofBool h.dest ++ h.state.code ++ h.host ++ h.key ++ h.cls ++ h.part

/-- The entry that a walk under a partition meets, with its level in bits 8:7. -/
def State.probeWalk (s : State) (die : Nat) (part : BitVec 8) (va : Nat) : BitVec 64 :=
  let (w, l) := s.walkFrom die va (s.peek64 die (s.ctbaseOf part + 0x401600)).toNat 3
  w.extractLsb' 9 55 ++ BitVec.ofNat 2 l ++ w.extractLsb' 0 7

/-- What `atprobe` answers; none for an operand that it refuses. -/
def State.probe (s : State) (die : Nat) (part : BitVec 8) (x : BitVec 64) : Option (BitVec 64) :=
  let kind := (x.extractLsb' 60 4).toNat
  let entry : BitVec 128 :=
    (((s.clu (die * 256 + (x.extractLsb' 0 8).toNat)).hearth.find (x.extractLsb' 8 12).toNat).getD {}).word
  if kind = 0 then
    if x.extractLsb' 52 8 = 0 then some (s.probeWalk die part (x.extractLsb' 0 52).toNat) else none
  else if x.extractLsb' 20 40 != 0 then none
  else if kind = 1 then some (entry.extractLsb' 0 64)
  else if kind = 2 then some (entry.extractLsb' 64 64)
  else none

/-- `atprobe` (R382). -/
def execAtprobe (rd rs1 : BitVec 5) (s : State) : Out :=
  let p := s.cur
  let w := wordAtprobe rd rs1
  onSup w s <| exe1 w rd rs1 s fun a s1 =>
    match s1.probe p.die.val (s1.ctx p).ctbsel (capAddr a) with
    | some v => .val (dataReg v, s1)
    | none => .trap 0x01 (wordTval w)

end Sys2Proof.Machine
end

