-- ==== Sys2Proof/Machine/Dispatch.lean ====
section
/-! DEFINITION. What each instruction does: one arm for each constructor of Instr, each a direct call of the
instruction's meaning. -/

namespace Sys2Proof.Machine

def exec (i : Instr) (s : State) : Host.Outcome State Fault Refusal :=
  match i with
  | .lui rd imm => Sys2Proof.Machine.execLui rd imm s
  | .auipc rd imm => Sys2Proof.Machine.execAuipc rd imm s
  | .jal rd off => Sys2Proof.Machine.execJal rd off s
  | .jalr rd rs1 imm => Sys2Proof.Machine.execJalr rd rs1 imm s
  | .beq rs1 rs2 off => Sys2Proof.Machine.execBeq rs1 rs2 off s
  | .bne rs1 rs2 off => Sys2Proof.Machine.execBne rs1 rs2 off s
  | .blt rs1 rs2 off => Sys2Proof.Machine.execBlt rs1 rs2 off s
  | .bge rs1 rs2 off => Sys2Proof.Machine.execBge rs1 rs2 off s
  | .bltu rs1 rs2 off => Sys2Proof.Machine.execBltu rs1 rs2 off s
  | .bgeu rs1 rs2 off => Sys2Proof.Machine.execBgeu rs1 rs2 off s
  | .lb rd rs1 imm => Sys2Proof.Machine.execLb rd rs1 imm s
  | .lh rd rs1 imm => Sys2Proof.Machine.execLh rd rs1 imm s
  | .lw rd rs1 imm => Sys2Proof.Machine.execLw rd rs1 imm s
  | .ld rd rs1 imm => Sys2Proof.Machine.execLd rd rs1 imm s
  | .lbu rd rs1 imm => Sys2Proof.Machine.execLbu rd rs1 imm s
  | .lhu rd rs1 imm => Sys2Proof.Machine.execLhu rd rs1 imm s
  | .lwu rd rs1 imm => Sys2Proof.Machine.execLwu rd rs1 imm s
  | .sb rs2 rs1 imm => Sys2Proof.Machine.execSb rs2 rs1 imm s
  | .sh rs2 rs1 imm => Sys2Proof.Machine.execSh rs2 rs1 imm s
  | .sw rs2 rs1 imm => Sys2Proof.Machine.execSw rs2 rs1 imm s
  | .sd rs2 rs1 imm => Sys2Proof.Machine.execSd rs2 rs1 imm s
  | .addi rd rs1 imm => Sys2Proof.Machine.execAddi rd rs1 imm s
  | .slti rd rs1 imm => Sys2Proof.Machine.execSlti rd rs1 imm s
  | .sltiu rd rs1 imm => Sys2Proof.Machine.execSltiu rd rs1 imm s
  | .xori rd rs1 imm => Sys2Proof.Machine.execXori rd rs1 imm s
  | .ori rd rs1 imm => Sys2Proof.Machine.execOri rd rs1 imm s
  | .andi rd rs1 imm => Sys2Proof.Machine.execAndi rd rs1 imm s
  | .slli rd rs1 sh => Sys2Proof.Machine.execSlli rd rs1 sh s
  | .srli rd rs1 sh => Sys2Proof.Machine.execSrli rd rs1 sh s
  | .srai rd rs1 sh => Sys2Proof.Machine.execSrai rd rs1 sh s
  | .add rd rs1 rs2 => Sys2Proof.Machine.execAdd rd rs1 rs2 s
  | .sll rd rs1 rs2 => Sys2Proof.Machine.execSll rd rs1 rs2 s
  | .slt rd rs1 rs2 => Sys2Proof.Machine.execSlt rd rs1 rs2 s
  | .sltu rd rs1 rs2 => Sys2Proof.Machine.execSltu rd rs1 rs2 s
  | .xor rd rs1 rs2 => Sys2Proof.Machine.execXor rd rs1 rs2 s
  | .srl rd rs1 rs2 => Sys2Proof.Machine.execSrl rd rs1 rs2 s
  | .or rd rs1 rs2 => Sys2Proof.Machine.execOr rd rs1 rs2 s
  | .and rd rs1 rs2 => Sys2Proof.Machine.execAnd rd rs1 rs2 s
  | .sub rd rs1 rs2 => Sys2Proof.Machine.execSub rd rs1 rs2 s
  | .sra rd rs1 rs2 => Sys2Proof.Machine.execSra rd rs1 rs2 s
  | .mul rd rs1 rs2 => Sys2Proof.Machine.execMul rd rs1 rs2 s
  | .mulh rd rs1 rs2 => Sys2Proof.Machine.execMulh rd rs1 rs2 s
  | .mulhsu rd rs1 rs2 => Sys2Proof.Machine.execMulhsu rd rs1 rs2 s
  | .mulhu rd rs1 rs2 => Sys2Proof.Machine.execMulhu rd rs1 rs2 s
  | .div rd rs1 rs2 => Sys2Proof.Machine.execDiv rd rs1 rs2 s
  | .divu rd rs1 rs2 => Sys2Proof.Machine.execDivu rd rs1 rs2 s
  | .rem rd rs1 rs2 => Sys2Proof.Machine.execRem rd rs1 rs2 s
  | .remu rd rs1 rs2 => Sys2Proof.Machine.execRemu rd rs1 rs2 s
  | .addiw rd rs1 imm => Sys2Proof.Machine.execAddiw rd rs1 imm s
  | .slliw rd rs1 sh => Sys2Proof.Machine.execSlliw rd rs1 sh s
  | .srliw rd rs1 sh => Sys2Proof.Machine.execSrliw rd rs1 sh s
  | .sraiw rd rs1 sh => Sys2Proof.Machine.execSraiw rd rs1 sh s
  | .addw rd rs1 rs2 => Sys2Proof.Machine.execAddw rd rs1 rs2 s
  | .subw rd rs1 rs2 => Sys2Proof.Machine.execSubw rd rs1 rs2 s
  | .sllw rd rs1 rs2 => Sys2Proof.Machine.execSllw rd rs1 rs2 s
  | .srlw rd rs1 rs2 => Sys2Proof.Machine.execSrlw rd rs1 rs2 s
  | .sraw rd rs1 rs2 => Sys2Proof.Machine.execSraw rd rs1 rs2 s
  | .mulw rd rs1 rs2 => Sys2Proof.Machine.execMulw rd rs1 rs2 s
  | .divw rd rs1 rs2 => Sys2Proof.Machine.execDivw rd rs1 rs2 s
  | .divuw rd rs1 rs2 => Sys2Proof.Machine.execDivuw rd rs1 rs2 s
  | .remw rd rs1 rs2 => Sys2Proof.Machine.execRemw rd rs1 rs2 s
  | .remuw rd rs1 rs2 => Sys2Proof.Machine.execRemuw rd rs1 rs2 s
  | .fence fm pred succ => Sys2Proof.Machine.execFence fm pred succ s
  | .ecall => Sys2Proof.Machine.execEcall s
  | .ebreak => Sys2Proof.Machine.execEbreak s
  | .csrrw rd csr rs1 => Sys2Proof.Machine.execCsrrw rd csr rs1 s
  | .csrrs rd csr rs1 => Sys2Proof.Machine.execCsrrs rd csr rs1 s
  | .csrrc rd csr rs1 => Sys2Proof.Machine.execCsrrc rd csr rs1 s
  | .csrrwi rd csr uimm => Sys2Proof.Machine.execCsrrwi rd csr uimm s
  | .csrrsi rd csr uimm => Sys2Proof.Machine.execCsrrsi rd csr uimm s
  | .csrrci rd csr uimm => Sys2Proof.Machine.execCsrrci rd csr uimm s
  | .faddS rd rs1 rs2 rm => Sys2Proof.Machine.execFaddS rd rs1 rs2 rm s
  | .faddD rd rs1 rs2 rm => Sys2Proof.Machine.execFaddD rd rs1 rs2 rm s
  | .fsubS rd rs1 rs2 rm => Sys2Proof.Machine.execFsubS rd rs1 rs2 rm s
  | .fsubD rd rs1 rs2 rm => Sys2Proof.Machine.execFsubD rd rs1 rs2 rm s
  | .fmulS rd rs1 rs2 rm => Sys2Proof.Machine.execFmulS rd rs1 rs2 rm s
  | .fmulD rd rs1 rs2 rm => Sys2Proof.Machine.execFmulD rd rs1 rs2 rm s
  | .fdivS rd rs1 rs2 rm => Sys2Proof.Machine.execFdivS rd rs1 rs2 rm s
  | .fdivD rd rs1 rs2 rm => Sys2Proof.Machine.execFdivD rd rs1 rs2 rm s
  | .fsqrtS rd rs1 rm => Sys2Proof.Machine.execFsqrtS rd rs1 rm s
  | .fsqrtD rd rs1 rm => Sys2Proof.Machine.execFsqrtD rd rs1 rm s
  | .fsgnjS rd rs1 rs2 => Sys2Proof.Machine.execFsgnjS rd rs1 rs2 s
  | .fsgnjD rd rs1 rs2 => Sys2Proof.Machine.execFsgnjD rd rs1 rs2 s
  | .fsgnjnS rd rs1 rs2 => Sys2Proof.Machine.execFsgnjnS rd rs1 rs2 s
  | .fsgnjnD rd rs1 rs2 => Sys2Proof.Machine.execFsgnjnD rd rs1 rs2 s
  | .fsgnjxS rd rs1 rs2 => Sys2Proof.Machine.execFsgnjxS rd rs1 rs2 s
  | .fsgnjxD rd rs1 rs2 => Sys2Proof.Machine.execFsgnjxD rd rs1 rs2 s
  | .fminS rd rs1 rs2 => Sys2Proof.Machine.execFminS rd rs1 rs2 s
  | .fminD rd rs1 rs2 => Sys2Proof.Machine.execFminD rd rs1 rs2 s
  | .fmaxS rd rs1 rs2 => Sys2Proof.Machine.execFmaxS rd rs1 rs2 s
  | .fmaxD rd rs1 rs2 => Sys2Proof.Machine.execFmaxD rd rs1 rs2 s
  | .fleS rd rs1 rs2 => Sys2Proof.Machine.execFleS rd rs1 rs2 s
  | .fleD rd rs1 rs2 => Sys2Proof.Machine.execFleD rd rs1 rs2 s
  | .fltS rd rs1 rs2 => Sys2Proof.Machine.execFltS rd rs1 rs2 s
  | .fltD rd rs1 rs2 => Sys2Proof.Machine.execFltD rd rs1 rs2 s
  | .feqS rd rs1 rs2 => Sys2Proof.Machine.execFeqS rd rs1 rs2 s
  | .feqD rd rs1 rs2 => Sys2Proof.Machine.execFeqD rd rs1 rs2 s
  | .fclassS rd rs1 => Sys2Proof.Machine.execFclassS rd rs1 s
  | .fclassD rd rs1 => Sys2Proof.Machine.execFclassD rd rs1 s
  | .fcvtWS rd rs1 rm => Sys2Proof.Machine.execFcvtWS rd rs1 rm s
  | .fcvtWuS rd rs1 rm => Sys2Proof.Machine.execFcvtWuS rd rs1 rm s
  | .fcvtLS rd rs1 rm => Sys2Proof.Machine.execFcvtLS rd rs1 rm s
  | .fcvtLuS rd rs1 rm => Sys2Proof.Machine.execFcvtLuS rd rs1 rm s
  | .fcvtWD rd rs1 rm => Sys2Proof.Machine.execFcvtWD rd rs1 rm s
  | .fcvtWuD rd rs1 rm => Sys2Proof.Machine.execFcvtWuD rd rs1 rm s
  | .fcvtLD rd rs1 rm => Sys2Proof.Machine.execFcvtLD rd rs1 rm s
  | .fcvtLuD rd rs1 rm => Sys2Proof.Machine.execFcvtLuD rd rs1 rm s
  | .fcvtSW rd rs1 rm => Sys2Proof.Machine.execFcvtSW rd rs1 rm s
  | .fcvtSWu rd rs1 rm => Sys2Proof.Machine.execFcvtSWu rd rs1 rm s
  | .fcvtSL rd rs1 rm => Sys2Proof.Machine.execFcvtSL rd rs1 rm s
  | .fcvtSLu rd rs1 rm => Sys2Proof.Machine.execFcvtSLu rd rs1 rm s
  | .fcvtDW rd rs1 rm => Sys2Proof.Machine.execFcvtDW rd rs1 rm s
  | .fcvtDWu rd rs1 rm => Sys2Proof.Machine.execFcvtDWu rd rs1 rm s
  | .fcvtDL rd rs1 rm => Sys2Proof.Machine.execFcvtDL rd rs1 rm s
  | .fcvtDLu rd rs1 rm => Sys2Proof.Machine.execFcvtDLu rd rs1 rm s
  | .fcvtSD rd rs1 rm => Sys2Proof.Machine.execFcvtSD rd rs1 rm s
  | .fcvtDS rd rs1 rm => Sys2Proof.Machine.execFcvtDS rd rs1 rm s
  | .fmaddS rd rs1 rs2 rs3 rm => Sys2Proof.Machine.execFmaddS rd rs1 rs2 rs3 rm s
  | .fmaddD rd rs1 rs2 rs3 rm => Sys2Proof.Machine.execFmaddD rd rs1 rs2 rs3 rm s
  | .fmsubS rd rs1 rs2 rs3 rm => Sys2Proof.Machine.execFmsubS rd rs1 rs2 rs3 rm s
  | .fmsubD rd rs1 rs2 rs3 rm => Sys2Proof.Machine.execFmsubD rd rs1 rs2 rs3 rm s
  | .fnmsubS rd rs1 rs2 rs3 rm => Sys2Proof.Machine.execFnmsubS rd rs1 rs2 rs3 rm s
  | .fnmsubD rd rs1 rs2 rs3 rm => Sys2Proof.Machine.execFnmsubD rd rs1 rs2 rs3 rm s
  | .fnmaddS rd rs1 rs2 rs3 rm => Sys2Proof.Machine.execFnmaddS rd rs1 rs2 rs3 rm s
  | .fnmaddD rd rs1 rs2 rs3 rm => Sys2Proof.Machine.execFnmaddD rd rs1 rs2 rs3 rm s
  | .cbase rd rs1 => Sys2Proof.Machine.execCbase rd rs1 s
  | .clen rd rs1 => Sys2Proof.Machine.execClen rd rs1 s
  | .cperm rd rs1 => Sys2Proof.Machine.execCperm rd rs1 s
  | .ctag rd rs1 => Sys2Proof.Machine.execCtag rd rs1 s
  | .cbnd rd rs1 rs2 => Sys2Proof.Machine.execCbnd rd rs1 rs2 s
  | .cbndx rd rs1 rs2 => Sys2Proof.Machine.execCbndx rd rs1 rs2 s
  | .cadd rd rs1 rs2 => Sys2Proof.Machine.execCadd rd rs1 rs2 s
  | .cset rd rs1 rs2 => Sys2Proof.Machine.execCset rd rs1 rs2 s
  | .candp rd rs1 rs2 => Sys2Proof.Machine.execCandp rd rs1 rs2 s
  | .cmv rd rs1 => Sys2Proof.Machine.execCmv rd rs1 s
  | .cclr rd rs1 => Sys2Proof.Machine.execCclr rd rs1 s
  | .csub rd rs1 rs2 => Sys2Proof.Machine.execCsub rd rs1 rs2 s
  | .cseal rd rs1 rs2 => Sys2Proof.Machine.execCseal rd rs1 rs2 s
  | .cunseal rd rs1 rs2 => Sys2Proof.Machine.execCunseal rd rs1 rs2 s
  | .caddi rd rs1 imm => Sys2Proof.Machine.execCaddi rd rs1 imm s
  | .clc rd rs1 imm => Sys2Proof.Machine.execClc rd rs1 imm s
  | .csc rs2 rs1 imm => Sys2Proof.Machine.execCsc rs2 rs1 imm s
  | .lda rd rs1 sz sc => Sys2Proof.Machine.execLda rd rs1 sz sc s
  | .stl rs1 rs2 sz sc => Sys2Proof.Machine.execStl rs1 rs2 sz sc s
  | .fenceScoped sc => Sys2Proof.Machine.execFenceScoped sc s
  | .taglk rd rs1 => Sys2Proof.Machine.execTaglk rd rs1 s
  | .tagins rd rs1 rs2 => Sys2Proof.Machine.execTagins rd rs1 rs2 s
  | .tagdel rs1 => Sys2Proof.Machine.execTagdel rs1 s
  | .tagpin rs1 => Sys2Proof.Machine.execTagpin rs1 s
  | .tagunpin rs1 => Sys2Proof.Machine.execTagunpin rs1 s
  | .cbinit bd rs1 => Sys2Proof.Machine.execCbinit bd rs1 s
  | .cbput bd => Sys2Proof.Machine.execCbput bd s
  | .cbget rd bs => Sys2Proof.Machine.execCbget rd bs s
  | .cbrel bd => Sys2Proof.Machine.execCbrel bd s
  | .cbstat rd bs => Sys2Proof.Machine.execCbstat rd bs s
  | .barinit rs1 rs2 => Sys2Proof.Machine.execBarinit rs1 rs2 s
  | .bararv rd rs1 rs2 => Sys2Proof.Machine.execBararv rd rs1 rs2 s
  | .bardrop rd rs1 => Sys2Proof.Machine.execBardrop rd rs1 s
  | .barwait rd rs1 rs2 => Sys2Proof.Machine.execBarwait rd rs1 rs2 s
  | .barrd rd rs1 => Sys2Proof.Machine.execBarrd rd rs1 s
  | .amoAddW rd rs1 rs2 => Sys2Proof.Machine.execAmoAddW rd rs1 rs2 s
  | .amoAddD rd rs1 rs2 => Sys2Proof.Machine.execAmoAddD rd rs1 rs2 s
  | .amoAddfW rd rs1 rs2 => Sys2Proof.Machine.execAmoAddfW rd rs1 rs2 s
  | .amoAddfD rd rs1 rs2 => Sys2Proof.Machine.execAmoAddfD rd rs1 rs2 s
  | .amoMinW rd rs1 rs2 => Sys2Proof.Machine.execAmoMinW rd rs1 rs2 s
  | .amoMinD rd rs1 rs2 => Sys2Proof.Machine.execAmoMinD rd rs1 rs2 s
  | .amoMaxW rd rs1 rs2 => Sys2Proof.Machine.execAmoMaxW rd rs1 rs2 s
  | .amoMaxD rd rs1 rs2 => Sys2Proof.Machine.execAmoMaxD rd rs1 rs2 s
  | .amoMinuW rd rs1 rs2 => Sys2Proof.Machine.execAmoMinuW rd rs1 rs2 s
  | .amoMinuD rd rs1 rs2 => Sys2Proof.Machine.execAmoMinuD rd rs1 rs2 s
  | .amoMaxuW rd rs1 rs2 => Sys2Proof.Machine.execAmoMaxuW rd rs1 rs2 s
  | .amoMaxuD rd rs1 rs2 => Sys2Proof.Machine.execAmoMaxuD rd rs1 rs2 s
  | .amoSwapW rd rs1 rs2 => Sys2Proof.Machine.execAmoSwapW rd rs1 rs2 s
  | .amoSwapD rd rs1 rs2 => Sys2Proof.Machine.execAmoSwapD rd rs1 rs2 s
  | .amoCasW rd rs1 rs2 => Sys2Proof.Machine.execAmoCasW rd rs1 rs2 s
  | .amoCasD rd rs1 rs2 => Sys2Proof.Machine.execAmoCasD rd rs1 rs2 s
  | .amoAndW rd rs1 rs2 => Sys2Proof.Machine.execAmoAndW rd rs1 rs2 s
  | .amoAndD rd rs1 rs2 => Sys2Proof.Machine.execAmoAndD rd rs1 rs2 s
  | .amoOrW rd rs1 rs2 => Sys2Proof.Machine.execAmoOrW rd rs1 rs2 s
  | .amoOrD rd rs1 rs2 => Sys2Proof.Machine.execAmoOrD rd rs1 rs2 s
  | .amoXorW rd rs1 rs2 => Sys2Proof.Machine.execAmoXorW rd rs1 rs2 s
  | .amoXorD rd rs1 rs2 => Sys2Proof.Machine.execAmoXorD rd rs1 rs2 s
  | .mon rs1 => Sys2Proof.Machine.execMon rs1 s
  | .monw rd rs1 => Sys2Proof.Machine.execMonw rd rs1 s
  | .bmov rd rs1 rs2 => Sys2Proof.Machine.execBmov rd rs1 rs2 s
  | .bfill rd rs1 rs2 => Sys2Proof.Machine.execBfill rd rs1 rs2 s
  | .rep rs1 => Sys2Proof.Machine.execRep rs1 s
  | .rgn xs => Sys2Proof.Machine.execRgn xs s
  | .wbind wd rs1 => Sys2Proof.Machine.execWbind wd rs1 s
  | .wstat rd ws => Sys2Proof.Machine.execWstat rd ws s
  | .wdrain wd => Sys2Proof.Machine.execWdrain wd s
  | .wunbind wd => Sys2Proof.Machine.execWunbind wd s
  | .vadd ty src2 va sx mask vd sat => Sys2Proof.Machine.execVadd ty src2 va sx mask vd sat s
  | .vsub ty src2 va sx mask vd sat => Sys2Proof.Machine.execVsub ty src2 va sx mask vd sat s
  | .vmul ty src2 va sx mask vd sat => Sys2Proof.Machine.execVmul ty src2 va sx mask vd sat s
  | .vfma ty src2 va sx mask vd sat => Sys2Proof.Machine.execVfma ty src2 va sx mask vd sat s
  | .vfms ty src2 va sx mask vd sat => Sys2Proof.Machine.execVfms ty src2 va sx mask vd sat s
  | .vmax ty src2 va sx mask vd => Sys2Proof.Machine.execVmax ty src2 va sx mask vd s
  | .vmin ty src2 va sx mask vd => Sys2Proof.Machine.execVmin ty src2 va sx mask vd s
  | .vabs ty va mask vd sat => Sys2Proof.Machine.execVabs ty va mask vd sat s
  | .vneg ty va mask vd sat => Sys2Proof.Machine.execVneg ty va mask vd sat s
  | .vclamp ty src2 va sx mask vd => Sys2Proof.Machine.execVclamp ty src2 va sx mask vd s
  | .vcvt ty sty va mask vd sat => Sys2Proof.Machine.execVcvt ty sty va mask vd sat s
  | .vrcp ty va mask vd => Sys2Proof.Machine.execVrcp ty va mask vd s
  | .vrsq ty va mask vd => Sys2Proof.Machine.execVrsq ty va mask vd s
  | .vexp2 ty va mask vd => Sys2Proof.Machine.execVexp2 ty va mask vd s
  | .vredSum ty va mask vd sat => Sys2Proof.Machine.execVredSum ty va mask vd sat s
  | .vredMax ty va mask vd => Sys2Proof.Machine.execVredMax ty va mask vd s
  | .vredMin ty va mask vd => Sys2Proof.Machine.execVredMin ty va mask vd s
  | .vcmpEq ty src2 va sx mask kd => Sys2Proof.Machine.execVcmpEq ty src2 va sx mask kd s
  | .vcmpLt ty src2 va sx mask kd => Sys2Proof.Machine.execVcmpLt ty src2 va sx mask kd s
  | .vcmpLe ty src2 va sx mask kd => Sys2Proof.Machine.execVcmpLe ty src2 va sx mask kd s
  | .vsel ty src2 va sx mask vd => Sys2Proof.Machine.execVsel ty src2 va sx mask vd s
  | .vand ty src2 va sx mask vd => Sys2Proof.Machine.execVand ty src2 va sx mask vd s
  | .vor ty src2 va sx mask vd => Sys2Proof.Machine.execVor ty src2 va sx mask vd s
  | .vxor ty src2 va sx mask vd => Sys2Proof.Machine.execVxor ty src2 va sx mask vd s
  | .vshl ty src2 va sx mask vd sat => Sys2Proof.Machine.execVshl ty src2 va sx mask vd sat s
  | .vshr ty src2 va sx mask vd sat => Sys2Proof.Machine.execVshr ty src2 va sx mask vd sat s
  | .vmov ty va mask vd => Sys2Proof.Machine.execVmov ty va mask vd s
  | .vsplat imm ty vd => Sys2Proof.Machine.execVsplat imm ty vd s
  | .vaddi imm ty vd => Sys2Proof.Machine.execVaddi imm ty vd s
  | .vmuli imm ty vd => Sys2Proof.Machine.execVmuli imm ty vd s
  | .vmaxi imm ty vd => Sys2Proof.Machine.execVmaxi imm ty vd s
  | .send rd rs1 rs2 => Sys2Proof.Machine.execSend rd rs1 rs2 s
  | .sendb rd xs => Sys2Proof.Machine.execSendb rd xs s
  | .decr rd rs1 rs2 => Sys2Proof.Machine.execDecr rd rs1 rs2 s
  | .carry rd xs => Sys2Proof.Machine.execCarry rd xs s
  | .mpop rd => Sys2Proof.Machine.execMpop rd s
  | .mpeek rd => Sys2Proof.Machine.execMpeek rd s
  | .mdrop => Sys2Proof.Machine.execMdrop s
  | .done => Sys2Proof.Machine.execDone s
  | .wait rs1 => Sys2Proof.Machine.execWait rs1 s
  | .bank => Sys2Proof.Machine.execBank s
  | .pin rs1 => Sys2Proof.Machine.execPin rs1 s
  | .spawn rd xs => Sys2Proof.Machine.execSpawn rd xs s
  | .lwait rd rs1 rs2 => Sys2Proof.Machine.execLwait rd rs1 rs2 s
  | .shpush rd xs => Sys2Proof.Machine.execShpush rd xs s
  | .cpost rd xs => Sys2Proof.Machine.execCpost rd xs s
  | .cpostNb rd xs => Sys2Proof.Machine.execCpostNb rd xs s
  | .cstat rd rs1 => Sys2Proof.Machine.execCstat rd rs1 s
  | .tcfg md rs1 => Sys2Proof.Machine.execTcfg md rs1 s
  | .mzero md => Sys2Proof.Machine.execMzero md s
  | .mload md rs1 => Sys2Proof.Machine.execMload md rs1 s
  | .mma md rs1 rs2 => Sys2Proof.Machine.execMma md rs1 rs2 s
  | .mmag md rs1 rs2 => Sys2Proof.Machine.execMmag md rs1 rs2 s
  | .mgang => Sys2Proof.Machine.execMgang s
  | .mdrain md rs1 rs2 => Sys2Proof.Machine.execMdrain md rs1 rs2 s
  | .msync => Sys2Proof.Machine.execMsync s
  | .mchk rd ms => Sys2Proof.Machine.execMchk rd ms s
  | .dkl rd rs1 rs2 => Sys2Proof.Machine.execDkl rd rs1 rs2 s
  | .selld rs1 => Sys2Proof.Machine.execSelld rs1 s
  | .selstep rd => Sys2Proof.Machine.execSelstep rd s
  | .selcut rs1 => Sys2Proof.Machine.execSelcut rs1 s
  | .selrun rd rs1 rs2 => Sys2Proof.Machine.execSelrun rd rs1 rs2 s
  | .selget rd rs1 => Sys2Proof.Machine.execSelget rd rs1 s
  | .seqmap rs1 rs2 => Sys2Proof.Machine.execSeqmap rs1 rs2 s
  | .steer rs1 rs2 => Sys2Proof.Machine.execSteer rs1 rs2 s
  | .taprd rd rs1 => Sys2Proof.Machine.execTaprd rd rs1 s
  | .xret => Sys2Proof.Machine.execXret s
  | .park => Sys2Proof.Machine.execPark s
  | .atinv rs1 rs2 => Sys2Proof.Machine.execAtinv rs1 rs2 s
  | .atprobe rd rs1 => Sys2Proof.Machine.execAtprobe rd rs1 s
  | .hintPoint hint => Sys2Proof.Machine.execHintPoint hint s
  | .preempt c => Sys2Proof.Machine.execPreempt c s
  | .resumeCore c => Sys2Proof.Machine.execResumeCore c s
  | .retry c => Sys2Proof.Machine.execRetry c s
  | .abandon c => Sys2Proof.Machine.execAbandon c s
  | .move c => Sys2Proof.Machine.execMove c s
  | .unpin c => Sys2Proof.Machine.execUnpin c s
  | .clearFaultedMark c => Sys2Proof.Machine.execClearFaultedMark c s
  | .setreg c => Sys2Proof.Machine.execSetreg c s
  | .sltgoRequest die n v => Sys2Proof.Machine.execSltgoRequest die n v s
  | .slotTableInstall c => Sys2Proof.Machine.execSlotTableInstall c s
  | .stareaWrite die n v => Sys2Proof.Machine.execStareaWrite die n v s
  | .spqWrite die n v => Sys2Proof.Machine.execSpqWrite die n v s
  | .qovfWrite die n v => Sys2Proof.Machine.execQovfWrite die n v s
  | .tapArm die n v => Sys2Proof.Machine.execTapArm die n v s
  | .tapDisarm die n v => Sys2Proof.Machine.execTapDisarm die n v s
  | .tapTablePointerWrite die n cap => Sys2Proof.Machine.execTapTablePointerWrite die n cap s
  | .registerWrite p csr v => Sys2Proof.Machine.execRegisterWrite p csr v s
  | .drain p => Sys2Proof.Machine.execDrain p s
  | .carryDelivery d e k => Sys2Proof.Machine.execCarryDelivery d e k s
  | .deliver ch => Sys2Proof.Machine.execDeliver ch s
  | .ownerAmo c => Sys2Proof.Machine.execOwnerAmo c s
  | .carriedCodeRun c => Sys2Proof.Machine.execCarriedCodeRun c s
  | .barrierInitOp c => Sys2Proof.Machine.execBarrierInitOp c s
  | .barrierArriveOp c => Sys2Proof.Machine.execBarrierArriveOp c s
  | .barrierWaitOp c => Sys2Proof.Machine.execBarrierWaitOp c s
  | .barrierCancel c => Sys2Proof.Machine.execBarrierCancel c s
  | .barrierReadOp c => Sys2Proof.Machine.execBarrierReadOp c s
  | .replyDelivery p => Sys2Proof.Machine.execReplyDelivery p s
  | .barwaitTimeout p => Sys2Proof.Machine.execBarwaitTimeout p s
  | .monwTimeout p => Sys2Proof.Machine.execMonwTimeout p s
  | .cbputEffect p => Sys2Proof.Machine.execCbputEffect p s
  | .streamWindowFill p w => Sys2Proof.Machine.execStreamWindowFill p w s
  | .homeMessageArrival die clu => Sys2Proof.Machine.execHomeMessageArrival die clu s
  | .kindleHostRetry die clu k => Sys2Proof.Machine.execKindleHostRetry die clu k s
  | .kindleStateInPlace c k => Sys2Proof.Machine.execKindleStateInPlace c k s
  | .bankIntent die clu => Sys2Proof.Machine.execBankIntent die clu s
  | .bankOrder c => Sys2Proof.Machine.execBankOrder c s
  | .shipOrder c => Sys2Proof.Machine.execShipOrder c s
  | .imageWritten die clu => Sys2Proof.Machine.execImageWritten die clu s
  | .bankRefused die clu => Sys2Proof.Machine.execBankRefused die clu s
  | .moveStateInPlace c => Sys2Proof.Machine.execMoveStateInPlace c s
  | .addrHomeHandover die clu => Sys2Proof.Machine.execAddrHomeHandover die clu s
  | .handoverMarker die clu => Sys2Proof.Machine.execHandoverMarker die clu s
  | .decrementApply c => Sys2Proof.Machine.execDecrementApply c s
  | .contextPick c k => Sys2Proof.Machine.execContextPick c k s
  | .firingEnd c k => Sys2Proof.Machine.execFiringEnd c k s
  | .stealServe c k => Sys2Proof.Machine.execStealServe c k s
  | .stealBackoffExpiry c k => Sys2Proof.Machine.execStealBackoffExpiry c k s
  | .quireRefill c => Sys2Proof.Machine.execQuireRefill c s
  | .launchExpansionStart die => Sys2Proof.Machine.execLaunchExpansionStart die s
  | .launchItem die => Sys2Proof.Machine.execLaunchItem die s
  | .launchSweep part => Sys2Proof.Machine.execLaunchSweep part s
  | .gangReserve die => Sys2Proof.Machine.execGangReserve die s
  | .gangStart part g => Sys2Proof.Machine.execGangStart part g s
  | .gangStartDelivery c => Sys2Proof.Machine.execGangStartDelivery c s
  | .gangRelease part g => Sys2Proof.Machine.execGangRelease part g s
  | .probeTokenSend c => Sys2Proof.Machine.execProbeTokenSend c s
  | .probeTokenForward c => Sys2Proof.Machine.execProbeTokenForward c s
  | .emergencyEntry c => Sys2Proof.Machine.execEmergencyEntry c s
  | .spillRedelivery c => Sys2Proof.Machine.execSpillRedelivery c s
  | .journalAppend c => Sys2Proof.Machine.execJournalAppend c s
  | .requestAccept p => Sys2Proof.Machine.execRequestAccept p s
  | .copyRead e k => Sys2Proof.Machine.execCopyRead e k s
  | .copyWrite e k => Sys2Proof.Machine.execCopyWrite e k s
  | .reduceElement e k => Sys2Proof.Machine.execReduceElement e k s
  | .orderedReduceApply e k => Sys2Proof.Machine.execOrderedReduceApply e k s
  | .cbfillSlotPut e k => Sys2Proof.Machine.execCbfillSlotPut e k s
  | .stamp e k => Sys2Proof.Machine.execStamp e k s
  | .wrenqEnqueue e k => Sys2Proof.Machine.execWrenqEnqueue e k s
  | .notify e k => Sys2Proof.Machine.execNotify e k s
  | .matrixOpStart c => Sys2Proof.Machine.execMatrixOpStart c s
  | .matrixOpRetire c mismatches => Sys2Proof.Machine.execMatrixOpRetire c mismatches s
  | .gangOpStart die clu => Sys2Proof.Machine.execGangOpStart die clu s
  | .selectionEngineGrant die clu => Sys2Proof.Machine.execSelectionEngineGrant die clu s
  | .pageWalk die => Sys2Proof.Machine.execPageWalk die s
  | .long f => Sys2Proof.Machine.execLong f s
  | .short f => Sys2Proof.Machine.execShort f s
  | .rereq f => Sys2Proof.Machine.execRereq f s
  | .msg f => Sys2Proof.Machine.execMsg f s
  | .sweep f => Sys2Proof.Machine.execSweep f s
  | .ack f => Sys2Proof.Machine.execAck f s
  | .doneResponse f => Sys2Proof.Machine.execDoneResponse f s
  | .rdata f => Sys2Proof.Machine.execRdata f s
  | .fwd f => Sys2Proof.Machine.execFwd f s
  | .drop f => Sys2Proof.Machine.execDrop f s
  | .mack f => Sys2Proof.Machine.execMack f s
  | .grant f => Sys2Proof.Machine.execGrant f s
  | .revoke f => Sys2Proof.Machine.execRevoke f s
  | .resume f => Sys2Proof.Machine.execResume f s
  | .setaside f => Sys2Proof.Machine.execSetaside f s
  | .clear f => Sys2Proof.Machine.execClear f s
  | .data f => Sys2Proof.Machine.execData f s
  | .damperGrant slot => Sys2Proof.Machine.execDamperGrant slot s
  | .tokenExpiry k => Sys2Proof.Machine.execTokenExpiry k s
  | .rereqTimeout die k => Sys2Proof.Machine.execRereqTimeout die k s
  | .prefixTrackerTimeout k => Sys2Proof.Machine.execPrefixTrackerTimeout k s
  | .damperSave part tag => Sys2Proof.Machine.execDamperSave part tag s
  | .damperRestore part tag => Sys2Proof.Machine.execDamperRestore part tag s
  | .switchSetAside port dev cls => Sys2Proof.Machine.execSwitchSetAside port dev cls s
  | .switchClear port dev cls => Sys2Proof.Machine.execSwitchClear port dev cls s
  | .switchCombine port => Sys2Proof.Machine.execSwitchCombine port s
  | .flitCrcFail port lane => Sys2Proof.Machine.execFlitCrcFail port lane s
  | .linkFailure port cls => Sys2Proof.Machine.execLinkFailure port cls s
  | .uncorrectableError x => Sys2Proof.Machine.execUncorrectableError x s
  | .correctedErrorThreshold unit => Sys2Proof.Machine.execCorrectedErrorThreshold unit s
  | .heartbeatTimeout die => Sys2Proof.Machine.execHeartbeatTimeout die s
  | .dieFailure die => Sys2Proof.Machine.execDieFailure die s
  | .hostMessageWrite part off bytes => Sys2Proof.Machine.execHostMessageWrite part off bytes s
  | .hostMemoryAccess part q wr => Sys2Proof.Machine.execHostMemoryAccess part q wr s
  | .attestationRequest nonce => Sys2Proof.Machine.execAttestationRequest nonce s
  | .attestationReportReady => Sys2Proof.Machine.execAttestationReportReady s
  | .powerOn => Sys2Proof.Machine.execPowerOn s
  | .clusterWaveStart die => Sys2Proof.Machine.execClusterWaveStart die s
  | .powerLimitSet watts => Sys2Proof.Machine.execPowerLimitSet watts s
  | .powerLimitEngage => Sys2Proof.Machine.execPowerLimitEngage s
  | .illegalInstruction w => Sys2Proof.Machine.execIllegalInstruction w s
  | .instructionFetchFault cause tval => Sys2Proof.Machine.execInstructionFetchFault cause tval s
  | .combinedDoneSplit f => Sys2Proof.Machine.execCombinedDoneSplit f s
  | .portUp port cls => Sys2Proof.Machine.execPortUp port cls s
  | .unitStart => Sys2Proof.Machine.execUnitStart s
  | .powerDown => Sys2Proof.Machine.execPowerDown s

end Sys2Proof.Machine
end

