-- ==== Sys2Proof/Machine/Halves.lean ====
section
/-! DEFINITION. The two halves of a party side by side (03/R74 to R77): the fetch and execution of the next instruction, and
the access half that runs ahead of the execute half along the way that the program takes. -/

namespace Sys2Proof.Machine

/-! ## What an instruction is to the two halves -/

/-- An instruction of the access half (R74): rd of a load and its address field; the address and the data field of a store;
a fence at a scope (R178). -/
inductive AccessForm where
  | load (rd rs1 : BitVec 5) (acq : Option (BitVec 3))
  | store (rs1 rs2 : BitVec 5)
  | fence (sc : BitVec 3)
  deriving DecidableEq, Repr

/-- The instructions of the access half (R74). -/
def accessForm (i : Instr) : Option AccessForm :=
  match i with
  | .lb rd rs1 _ => some (.load rd rs1 none)
  | .lh rd rs1 _ => some (.load rd rs1 none)
  | .lw rd rs1 _ => some (.load rd rs1 none)
  | .ld rd rs1 _ => some (.load rd rs1 none)
  | .lbu rd rs1 _ => some (.load rd rs1 none)
  | .lhu rd rs1 _ => some (.load rd rs1 none)
  | .lwu rd rs1 _ => some (.load rd rs1 none)
  | .clc rd rs1 _ => some (.load rd rs1 none)
  | .lda rd rs1 _ sc => some (.load rd rs1 (some sc))
  | .sb rs2 rs1 _ => some (.store rs1 rs2)
  | .sh rs2 rs1 _ => some (.store rs1 rs2)
  | .sw rs2 rs1 _ => some (.store rs1 rs2)
  | .sd rs2 rs1 _ => some (.store rs1 rs2)
  | .csc rs2 rs1 _ => some (.store rs1 rs2)
  | .stl rs1 rs2 _ _ => some (.store rs1 rs2)
  | .fence _ _ _ => some (.fence 4)
  | .fenceScoped sc => some (.fence sc)
  | _ => none

/-- A form whose result depends on registers alone: rd, its source fields, whether it may set the pc, and whether it takes
its rounding mode from fcsr. -/
structure RegForm where
  rd : BitVec 5 := 0
  srcs : List (BitVec 5) := []
  jump : Bool := false
  frm : Bool := false
  deriving DecidableEq, Repr

/-- The floating-point forms on registers alone (R60). -/
def floatForm (i : Instr) : Option RegForm :=
  match i with
  | .fsgnjS rd rs1 rs2 => some { rd := rd, srcs := [rs1, rs2] }
  | .fsgnjD rd rs1 rs2 => some { rd := rd, srcs := [rs1, rs2] }
  | .fsgnjnS rd rs1 rs2 => some { rd := rd, srcs := [rs1, rs2] }
  | .fsgnjnD rd rs1 rs2 => some { rd := rd, srcs := [rs1, rs2] }
  | .fsgnjxS rd rs1 rs2 => some { rd := rd, srcs := [rs1, rs2] }
  | .fsgnjxD rd rs1 rs2 => some { rd := rd, srcs := [rs1, rs2] }
  | .fminS rd rs1 rs2 => some { rd := rd, srcs := [rs1, rs2] }
  | .fminD rd rs1 rs2 => some { rd := rd, srcs := [rs1, rs2] }
  | .fmaxS rd rs1 rs2 => some { rd := rd, srcs := [rs1, rs2] }
  | .fmaxD rd rs1 rs2 => some { rd := rd, srcs := [rs1, rs2] }
  | .fleS rd rs1 rs2 => some { rd := rd, srcs := [rs1, rs2] }
  | .fleD rd rs1 rs2 => some { rd := rd, srcs := [rs1, rs2] }
  | .fltS rd rs1 rs2 => some { rd := rd, srcs := [rs1, rs2] }
  | .fltD rd rs1 rs2 => some { rd := rd, srcs := [rs1, rs2] }
  | .feqS rd rs1 rs2 => some { rd := rd, srcs := [rs1, rs2] }
  | .feqD rd rs1 rs2 => some { rd := rd, srcs := [rs1, rs2] }
  | .faddS rd rs1 rs2 rm => some { rd := rd, srcs := [rs1, rs2], frm := rm == 7 }
  | .faddD rd rs1 rs2 rm => some { rd := rd, srcs := [rs1, rs2], frm := rm == 7 }
  | .fsubS rd rs1 rs2 rm => some { rd := rd, srcs := [rs1, rs2], frm := rm == 7 }
  | .fsubD rd rs1 rs2 rm => some { rd := rd, srcs := [rs1, rs2], frm := rm == 7 }
  | .fmulS rd rs1 rs2 rm => some { rd := rd, srcs := [rs1, rs2], frm := rm == 7 }
  | .fmulD rd rs1 rs2 rm => some { rd := rd, srcs := [rs1, rs2], frm := rm == 7 }
  | .fdivS rd rs1 rs2 rm => some { rd := rd, srcs := [rs1, rs2], frm := rm == 7 }
  | .fdivD rd rs1 rs2 rm => some { rd := rd, srcs := [rs1, rs2], frm := rm == 7 }
  | .fclassS rd rs1 => some { rd := rd, srcs := [rs1] }
  | .fclassD rd rs1 => some { rd := rd, srcs := [rs1] }
  | .fsqrtS rd rs1 rm => some { rd := rd, srcs := [rs1], frm := rm == 7 }
  | .fsqrtD rd rs1 rm => some { rd := rd, srcs := [rs1], frm := rm == 7 }
  | .fcvtWS rd rs1 rm => some { rd := rd, srcs := [rs1], frm := rm == 7 }
  | .fcvtWuS rd rs1 rm => some { rd := rd, srcs := [rs1], frm := rm == 7 }
  | .fcvtLS rd rs1 rm => some { rd := rd, srcs := [rs1], frm := rm == 7 }
  | .fcvtLuS rd rs1 rm => some { rd := rd, srcs := [rs1], frm := rm == 7 }
  | .fcvtWD rd rs1 rm => some { rd := rd, srcs := [rs1], frm := rm == 7 }
  | .fcvtWuD rd rs1 rm => some { rd := rd, srcs := [rs1], frm := rm == 7 }
  | .fcvtLD rd rs1 rm => some { rd := rd, srcs := [rs1], frm := rm == 7 }
  | .fcvtLuD rd rs1 rm => some { rd := rd, srcs := [rs1], frm := rm == 7 }
  | .fcvtSW rd rs1 rm => some { rd := rd, srcs := [rs1], frm := rm == 7 }
  | .fcvtSWu rd rs1 rm => some { rd := rd, srcs := [rs1], frm := rm == 7 }
  | .fcvtSL rd rs1 rm => some { rd := rd, srcs := [rs1], frm := rm == 7 }
  | .fcvtSLu rd rs1 rm => some { rd := rd, srcs := [rs1], frm := rm == 7 }
  | .fcvtDW rd rs1 rm => some { rd := rd, srcs := [rs1], frm := rm == 7 }
  | .fcvtDWu rd rs1 rm => some { rd := rd, srcs := [rs1], frm := rm == 7 }
  | .fcvtDL rd rs1 rm => some { rd := rd, srcs := [rs1], frm := rm == 7 }
  | .fcvtDLu rd rs1 rm => some { rd := rd, srcs := [rs1], frm := rm == 7 }
  | .fcvtSD rd rs1 rm => some { rd := rd, srcs := [rs1], frm := rm == 7 }
  | .fcvtDS rd rs1 rm => some { rd := rd, srcs := [rs1], frm := rm == 7 }
  | .fmaddS rd rs1 rs2 rs3 rm => some { rd := rd, srcs := [rs1, rs2, rs3], frm := rm == 7 }
  | .fmaddD rd rs1 rs2 rs3 rm => some { rd := rd, srcs := [rs1, rs2, rs3], frm := rm == 7 }
  | .fmsubS rd rs1 rs2 rs3 rm => some { rd := rd, srcs := [rs1, rs2, rs3], frm := rm == 7 }
  | .fmsubD rd rs1 rs2 rs3 rm => some { rd := rd, srcs := [rs1, rs2, rs3], frm := rm == 7 }
  | .fnmsubS rd rs1 rs2 rs3 rm => some { rd := rd, srcs := [rs1, rs2, rs3], frm := rm == 7 }
  | .fnmsubD rd rs1 rs2 rs3 rm => some { rd := rd, srcs := [rs1, rs2, rs3], frm := rm == 7 }
  | .fnmaddS rd rs1 rs2 rs3 rm => some { rd := rd, srcs := [rs1, rs2, rs3], frm := rm == 7 }
  | .fnmaddD rd rs1 rs2 rs3 rm => some { rd := rd, srcs := [rs1, rs2, rs3], frm := rm == 7 }
  | _ => none

/-- The forms whose result depends on registers alone. -/
def registerForm (i : Instr) : Option RegForm :=
  match i with
  | .lui rd _ => some { rd := rd }
  | .auipc rd _ => some { rd := rd }
  | .jal rd _ => some { rd := rd, jump := true }
  | .jalr rd rs1 _ => some { rd := rd, srcs := [rs1], jump := true }
  | .beq rs1 rs2 _ => some { srcs := [rs1, rs2], jump := true }
  | .bne rs1 rs2 _ => some { srcs := [rs1, rs2], jump := true }
  | .blt rs1 rs2 _ => some { srcs := [rs1, rs2], jump := true }
  | .bge rs1 rs2 _ => some { srcs := [rs1, rs2], jump := true }
  | .bltu rs1 rs2 _ => some { srcs := [rs1, rs2], jump := true }
  | .bgeu rs1 rs2 _ => some { srcs := [rs1, rs2], jump := true }
  | .addi rd rs1 _ => some { rd := rd, srcs := [rs1] }
  | .slti rd rs1 _ => some { rd := rd, srcs := [rs1] }
  | .sltiu rd rs1 _ => some { rd := rd, srcs := [rs1] }
  | .xori rd rs1 _ => some { rd := rd, srcs := [rs1] }
  | .ori rd rs1 _ => some { rd := rd, srcs := [rs1] }
  | .andi rd rs1 _ => some { rd := rd, srcs := [rs1] }
  | .slli rd rs1 _ => some { rd := rd, srcs := [rs1] }
  | .srli rd rs1 _ => some { rd := rd, srcs := [rs1] }
  | .srai rd rs1 _ => some { rd := rd, srcs := [rs1] }
  | .addiw rd rs1 _ => some { rd := rd, srcs := [rs1] }
  | .slliw rd rs1 _ => some { rd := rd, srcs := [rs1] }
  | .srliw rd rs1 _ => some { rd := rd, srcs := [rs1] }
  | .sraiw rd rs1 _ => some { rd := rd, srcs := [rs1] }
  | .caddi rd rs1 _ => some { rd := rd, srcs := [rs1] }
  | .add rd rs1 rs2 => some { rd := rd, srcs := [rs1, rs2] }
  | .sll rd rs1 rs2 => some { rd := rd, srcs := [rs1, rs2] }
  | .slt rd rs1 rs2 => some { rd := rd, srcs := [rs1, rs2] }
  | .sltu rd rs1 rs2 => some { rd := rd, srcs := [rs1, rs2] }
  | .xor rd rs1 rs2 => some { rd := rd, srcs := [rs1, rs2] }
  | .srl rd rs1 rs2 => some { rd := rd, srcs := [rs1, rs2] }
  | .or rd rs1 rs2 => some { rd := rd, srcs := [rs1, rs2] }
  | .and rd rs1 rs2 => some { rd := rd, srcs := [rs1, rs2] }
  | .sub rd rs1 rs2 => some { rd := rd, srcs := [rs1, rs2] }
  | .sra rd rs1 rs2 => some { rd := rd, srcs := [rs1, rs2] }
  | .mul rd rs1 rs2 => some { rd := rd, srcs := [rs1, rs2] }
  | .mulh rd rs1 rs2 => some { rd := rd, srcs := [rs1, rs2] }
  | .mulhsu rd rs1 rs2 => some { rd := rd, srcs := [rs1, rs2] }
  | .mulhu rd rs1 rs2 => some { rd := rd, srcs := [rs1, rs2] }
  | .div rd rs1 rs2 => some { rd := rd, srcs := [rs1, rs2] }
  | .divu rd rs1 rs2 => some { rd := rd, srcs := [rs1, rs2] }
  | .rem rd rs1 rs2 => some { rd := rd, srcs := [rs1, rs2] }
  | .remu rd rs1 rs2 => some { rd := rd, srcs := [rs1, rs2] }
  | .addw rd rs1 rs2 => some { rd := rd, srcs := [rs1, rs2] }
  | .subw rd rs1 rs2 => some { rd := rd, srcs := [rs1, rs2] }
  | .sllw rd rs1 rs2 => some { rd := rd, srcs := [rs1, rs2] }
  | .srlw rd rs1 rs2 => some { rd := rd, srcs := [rs1, rs2] }
  | .sraw rd rs1 rs2 => some { rd := rd, srcs := [rs1, rs2] }
  | .mulw rd rs1 rs2 => some { rd := rd, srcs := [rs1, rs2] }
  | .divw rd rs1 rs2 => some { rd := rd, srcs := [rs1, rs2] }
  | .divuw rd rs1 rs2 => some { rd := rd, srcs := [rs1, rs2] }
  | .remw rd rs1 rs2 => some { rd := rd, srcs := [rs1, rs2] }
  | .remuw rd rs1 rs2 => some { rd := rd, srcs := [rs1, rs2] }
  | .cbnd rd rs1 rs2 => some { rd := rd, srcs := [rs1, rs2] }
  | .cbndx rd rs1 rs2 => some { rd := rd, srcs := [rs1, rs2] }
  | .cadd rd rs1 rs2 => some { rd := rd, srcs := [rs1, rs2] }
  | .cset rd rs1 rs2 => some { rd := rd, srcs := [rs1, rs2] }
  | .candp rd rs1 rs2 => some { rd := rd, srcs := [rs1, rs2] }
  | .csub rd rs1 rs2 => some { rd := rd, srcs := [rs1, rs2] }
  | .cseal rd rs1 rs2 => some { rd := rd, srcs := [rs1, rs2] }
  | .cunseal rd rs1 rs2 => some { rd := rd, srcs := [rs1, rs2] }
  | .cbase rd rs1 => some { rd := rd, srcs := [rs1] }
  | .clen rd rs1 => some { rd := rd, srcs := [rs1] }
  | .cperm rd rs1 => some { rd := rd, srcs := [rs1] }
  | .ctag rd rs1 => some { rd := rd, srcs := [rs1] }
  | .cmv rd rs1 => some { rd := rd, srcs := [rs1] }
  | .cclr rd rs1 => some { rd := rd, srcs := [rs1] }
  | .hintPoint _ => some {}
  | i => floatForm i

/-- The general registers that any other form of the execute half may write. -/
def writtenBy (i : Instr) : List (BitVec 5) :=
  match i with
  | .csrrw rd _ _ => [rd]
  | .csrrs rd _ _ => [rd]
  | .csrrc rd _ _ => [rd]
  | .csrrwi rd _ _ => [rd]
  | .csrrsi rd _ _ => [rd]
  | .csrrci rd _ _ => [rd]
  | .taglk rd _ => [rd]
  | .tagins rd _ _ => [rd]
  | .cbget rd _ => [rd]
  | .cbstat rd _ => [rd]
  | .bararv rd _ _ => [rd]
  | .barwait rd _ _ => [rd]
  | .bardrop rd _ => [rd]
  | .barrd rd _ => [rd]
  | .amoAddW rd _ _ => [rd]
  | .amoAddD rd _ _ => [rd]
  | .amoAddfW rd _ _ => [rd]
  | .amoAddfD rd _ _ => [rd]
  | .amoMinW rd _ _ => [rd]
  | .amoMinD rd _ _ => [rd]
  | .amoMaxW rd _ _ => [rd]
  | .amoMaxD rd _ _ => [rd]
  | .amoMinuW rd _ _ => [rd]
  | .amoMinuD rd _ _ => [rd]
  | .amoMaxuW rd _ _ => [rd]
  | .amoMaxuD rd _ _ => [rd]
  | .amoSwapW rd _ _ => [rd]
  | .amoSwapD rd _ _ => [rd]
  | .amoCasW rd _ _ => [rd]
  | .amoCasD rd _ _ => [rd]
  | .amoAndW rd _ _ => [rd]
  | .amoAndD rd _ _ => [rd]
  | .amoOrW rd _ _ => [rd]
  | .amoOrD rd _ _ => [rd]
  | .amoXorW rd _ _ => [rd]
  | .amoXorD rd _ _ => [rd]
  | .monw rd _ => [rd]
  | .bmov rd rs1 rs2 => [rd, rs1, rs2]
  | .bfill rd _ rs2 => [rd, rs2]
  | .rep rs1 => [rs1]
  | .wstat rd _ => [rd]
  | .send rd _ _ => [rd]
  | .decr rd _ _ => [rd]
  | .lwait rd _ _ => [rd]
  | .sendb rd _ => [rd]
  | .carry rd _ => [rd]
  | .spawn rd _ => [rd]
  | .shpush rd _ => [rd]
  | .cpost rd _ => [rd]
  | .cpostNb rd _ => [rd]
  | .mpop rd => rd :: [10, 11, 12, 13, 14, 15]
  | .mpeek rd => [rd]
  | .selstep rd => [rd]
  | .cstat rd _ => [rd]
  | .mchk rd _ => [rd]
  | .selget rd _ => [rd]
  | .taprd rd _ => [rd]
  | .atprobe rd _ => [rd]
  | .dkl rd _ _ => [rd]
  | .selrun rd _ _ => [rd]
  | _ => []

/-- A form after which the way on is not known, or none: it ends the firing, takes a cause, or leaves a handler. -/
def endsWay (i : Instr) : Bool :=
  match i with
  | .done => true
  | .wait _ => true
  | .bank => true
  | .ecall => true
  | .ebreak => true
  | .xret => true
  | _ => false

/-- A vector form whose destination names a stream: its window is a store of the party (R80, R261). -/
def writesWindow (i : Instr) (w : BitVec 32) : Bool :=
  match i with
  | .vcmpEq _ _ _ _ _ _ => false
  | .vcmpLt _ _ _ _ _ _ => false
  | .vcmpLe _ _ _ _ _ _ => false
  | _ => (w.extractLsb' 0 7 == 0x5B#7 && !w.getLsbD 11) || (w.extractLsb' 0 7 == 0x7B#7 && !w.getLsbD 12)

/-- A form of the execute half that the loads after it stand behind: one that makes Load or Store steps of its own at the
issue point (R152, R155, R173, R261), and one that may be an acquire (R192, R201). -/
def holdsLoads (i : Instr) (w : BitVec 32) : Bool :=
  match i with
  | .bmov _ _ _ => true
  | .bfill _ _ _ => true
  | .rep _ => true
  | .cbinit _ _ => true
  | .wbind _ _ => true
  | .sendb _ _ => true
  | .carry _ _ => true
  | .cpost _ _ => true
  | .cpostNb _ _ => true
  | .mload _ _ => true
  | .mdrain _ _ _ => true
  | .dkl _ _ _ => true
  | .selld _ => true
  | .selstep _ => true
  | .selcut _ => true
  | .selrun _ _ _ => true
  | .selget _ _ => true
  | .barwait _ _ _ => true
  | .cstat _ _ => true
  | i => writesWindow i w

/-- A form that writes a control and status register: the rounding mode after it is not known. -/
def writesCsr (i : Instr) : Bool :=
  match i with
  | .csrrw _ _ _ => true
  | .csrrs _ _ _ => true
  | .csrrc _ _ _ => true
  | .csrrwi _ _ _ => true
  | .csrrsi _ _ _ => true
  | .csrrci _ _ _ => true
  | _ => false

/-- A source field of a word names x28. -/
def popsWord (w : BitVec 32) : Bool := w.extractLsb' 15 5 == 28#5 || w.extractLsb' 20 5 == 28#5

/-! ## Running ahead (R74) -/

/-- What the access half knows at a place of the way on: the machine as the instructions before leave it, in so far as
that is known; the registers, x28 standing for the load-data queue, whose contents are not; whether none of those before can
take a cause any more and each has had what effect it has on memory; whether a load may be taken here; whether fcsr is
known. -/
structure Scout where
  t : State
  unknown : List (BitVec 5) := []
  sure : Bool := true
  loads : Bool := true
  frm : Bool := true

/-- The contents of some registers are known. -/
def Scout.knows (x : Scout) (rs : List (BitVec 5)) : Bool := !(rs.any fun r => x.unknown.contains r)

/-- A register written with a value that is known, or is not. -/
def Scout.wrote (x : Scout) (rd : BitVec 5) (known : Bool) : Scout :=
  let rest := x.unknown.filter fun r => r != rd
  { x with unknown := if known || rd == 0 || rd == 29 then rest else rd :: rest }

/-- Past a form on registers alone: none where it takes a cause, or where what it jumps on is not known. -/
noncomputable def Scout.pastRegister (x : Scout) (p : Party) (i : Instr) (f : RegForm) : Option Scout :=
  let c := x.t.ctx p
  let pops := (f.srcs.filter fun r => r == 28#5).length
  if x.knows f.srcs && (x.frm || !f.frm) && (pops == 0 || pops ≤ c.qld.length) then
    match exec i (x.t.mod p fun c => { c with qst := [] }) with
    | .next t1 =>
      let c1 := t1.ctx p
      if c1.run == .running && c1.pc != c.pc then some ({ x with t := t1 }.wrote f.rd true) else none
    | _ => none
  else if f.jump then none
  else
    let x1 := { x with t := x.t.advance p, sure := false }.wrote f.rd false
    some (if pops = 0 then x1 else { x1 with unknown := 28#5 :: x1.unknown })

/-- Past any other form of the execute half: it will have its effect in its turn. -/
def Scout.pastOther (x : Scout) (p : Party) (i : Instr) (w : BitVec 32) : Option Scout :=
  if endsWay i then none
  else
    let n : BitVec 64 := match i with
      | .rep _ => 8
      | _ => 4
    let x1 := (writtenBy i).foldl (fun x r => x.wrote r false)
      { x with
        t := x.t.mod p fun c => { c with pc := c.pc + n }, sure := false, loads := x.loads && !holdsLoads i w,
        frm := x.frm && !writesCsr i }
    some (if popsWord w then { x1 with unknown := 28#5 :: x1.unknown } else x1)

/-- Past an instruction of the way: what is done of a memory instruction, or the form of the execute half. -/
noncomputable def Scout.past (x : Scout) (p : Party) (a : Ahead) (i : Instr) : Option Scout :=
  match a.mark with
  | .loaded v =>
    match accessForm i with
    | some (.load rd _ _) => some ({ x with t := (x.t.mod p fun c => c.loaded rd v).advance p }.wrote rd true)
    | _ => none
  | .stored _ es => some { x with t := (x.t.mod p fun c => es.foldl Ctx.store c).advance p }
  | .passed => some { x with t := x.t.advance p }
  | _ =>
    match registerForm i with
    | some f => x.pastRegister p i f
    | none => x.pastOther p i a.word

/-- The instructions that the access half has looked at, replaced. -/
def State.setAhead (s : State) (p : Party) (l : List Ahead) : State := s.mod p fun c => { c with ahead := l }

/-- A page that the access half finds in no TLB is asked for, and no form waits for it (R380). -/
def State.askAhead (s : State) (p : Party) (part : BitVec 8) (va : Nat) : State :=
  (s.askWalk p part va).mod p fun c => { c with walk := (s.ctx p).walk }

/-- What a memory instruction asks of the access half where the way on is as a scout says: the checks are made in its state,
with something held before it. -/
noncomputable def Scout.hands (x : Scout) (p : Party) (i : Instr) (qst : List Reg) : State :=
  let t := x.t.mod p fun c => { c with acc := [.fence 0], qst := qst, walk := none, held := false }
  match exec i { t with cur := p } with
  | .next t1 => if ((t1.ctx p).run == .running && (t1.ctx p).pc == (t.ctx p).pc + 4) || (t1.ctx p).walk.isSome then t1 else t
  | _ => t

/-- The free values that checks made ahead have used are used up. -/
def State.keepFresh (s t : State) : State := s.setDev { s.dev with freeAt := t.dev.freeAt }

/-- The loads into x28 that are taken ahead: their data are in flight (R75). -/
def Ctx.queuedAhead (c : Ctx) : Nat :=
  (c.ahead.filter fun a =>
    match a.mark with
    | .loaded _ => a.word.extractLsb' 7 5 == 28#5
    | _ => false).length

/-- An `stl` among the stores taken ahead (R178). -/
def stlAhead (l : List Ahead) : Bool :=
  l.any fun a =>
    match a.mark with
    | .stored _ es => es.any fun e => e.isStl
    | _ => false

/-- A load ahead of the execute half: its address is known, no earlier form holds it, an `lda` is not held (R178), and a load
into x28 finds room (R75). Its datum is kept until the execute half comes to it. -/
noncomputable def State.loadAhead (s : State) (p : Party) (x : Scout) (before : List Ahead) (a : Ahead) (rest : List Ahead)
    (i : Instr) (rd rs1 : BitVec 5) (acq : Option (BitVec 3)) : State :=
  let c := s.ctx p
  let free := match acq with
    | none => true
    | some sc => s.acquireReady p sc && !stlAhead before
  if !(rs1 != 28#5 && rs1 != 29#5 && x.knows [rs1] && x.loads && free) || (rd == 28#5 && 16 ≤ c.qld.length + c.queuedAhead) then s
  else
    let t1 := x.hands p i []
    match (t1.ctx p).acc, (t1.ctx p).walk with
    | _, some (part, va) => s.askAhead p (BitVec.ofNat 8 part) va
    | _ :: .load _ qs k :: _, _ =>
      let got := match a.mark with
        | .part l => l
        | _ => []
      match blocksLeft got qs with
      | b :: b2 :: bs =>
        let (f, s1) := s.fresh
        s1.setAhead p (before ++ { a with mark := .part (got ++ x.t.blockCells p qs (pickOf f (b :: b2 :: bs))) } :: rest)
      | _ => s.setAhead p (before ++ { a with mark := .loaded (x.t.loadPlaces p got qs k) } :: rest)
    | _ :: .acquire _ qs k _ :: _, _ =>
      s.setAhead p (before ++ { a with mark := .loaded (x.t.loadPlaces p [] qs k) } :: rest)
    | _, _ => s

/-- A store ahead of the execute half: its address is known and its data are there; it takes them from the store-data queue
at once (R76), and is performed when none before it can take a cause. -/
noncomputable def State.storeAhead (s : State) (p : Party) (x : Scout) (before : List Ahead) (a : Ahead) (rest : List Ahead)
    (i : Instr) (rs1 rs2 : BitVec 5) : State :=
  let c := s.ctx p
  let data := if rs2 == 29#5 then !c.qst.isEmpty else rs2 != 28#5 && x.knows [rs2]
  if !(rs1 != 28#5 && rs1 != 29#5 && x.knows [rs1] && data) then s
  else
    let popped := if rs2 == 29#5 then c.qst.take 1 else []
    let t1 := x.hands p i popped
    match (t1.ctx p).acc, (t1.ctx p).walk with
    | _, some (part, va) => s.askAhead p (BitVec.ofNat 8 part) va
    | _ :: .store e :: l, _ =>
      let es := (AccItem.store e :: l).filterMap fun y =>
        match y with
        | .store e => some e
        | _ => none
      ((s.keepFresh t1).mod p fun c => { c with qst := c.qst.drop popped.length }).setAhead p
        (before ++ { a with mark := .stored popped es } :: rest)
    | _, _ => s

/-- A fence ahead of the execute half (R178): past `fence.core` every earlier load has its datum; past any other, none before
it can take a cause, and its condition holds. -/
def State.fenceAhead (s : State) (p : Party) (x : Scout) (before : List Ahead) (a : Ahead) (rest : List Ahead)
    (sc : BitVec 3) : State :=
  if sc == 0 || (x.sure && s.fenceReady p sc) then s.setAhead p (before ++ { a with mark := .passed } :: rest) else s

/-- One step of the access half ahead of the execute half, along the instructions that it has looked at: the first memory
instruction of which nothing is done, when it may go; a store taken, performed; else one instruction more is looked at. -/
noncomputable def State.scout (s : State) (p : Party) (x : Scout) (before : List Ahead) : List Ahead → State
  | [] =>
    match x.t.fetchWord p (x.t.ctx p).pc with
    | .val w => s.setAhead p (before ++ [{ pc := (x.t.ctx p).pc, word := w }])
    | .walk part va => s.askAhead p part va
    | _ => s
  | a :: rest =>
    match decode a.word with
    | none => s
    | some i =>
      let on : State :=
        match x.past p a i with
        | some y => s.scout p y (before ++ [a]) rest
        | none => s
      match accessForm i, a.mark with
      | some _, .loaded _ => on
      | some _, .passed => on
      | some _, .stored _ es =>
        if x.sure then
          (s.mod p fun c => es.foldl Ctx.store c).setAhead p (before ++ { a with mark := .passed } :: rest)
        else on
      | some (.load rd rs1 acq), _ => s.loadAhead p x before a rest i rd rs1 acq
      | some (.store rs1 rs2), _ => s.storeAhead p x before a rest i rs1 rs2
      | some (.fence sc), _ => s.fenceAhead p x before a rest sc
      | none, _ => on

/-- The instructions that the access half has looked at, from the pc on: where the program has gone another way, what was
done of them is undone. -/
def Ctx.alignAhead (c : Ctx) : Ctx :=
  match c.ahead with
  | [] => c
  | a :: rest =>
    if a.pc == c.pc then c
    else
      match rest with
      | b :: _ => if b.pc == c.pc then { c with ahead := rest } else c.dropAhead
      | [] => { c with ahead := [] }

/-- The access half of a firing takes a step ahead of the execute half, when nothing is held before (R74, R76). A cause that
it meets is left for its turn in program order. -/
noncomputable def State.runAhead (s0 : State) (p : Party) : State :=
  let s := s0.mod p fun c => { c.alignAhead with held := false }
  let c := s.ctx p
  if p.isSup || !c.acc.isEmpty || c.run != .running then s
  else s.scout p { t := { s with cur := p } } [] c.ahead

/-- A step of a party's access half alone (R74). -/
noncomputable def State.accessTurn (s : State) (p : Party) : State :=
  if (s.ctx p).acc.isEmpty then s.runAhead p else s.accStep p

/-! ## The instruction at the pc -/

/-- The first of the instructions that the access half has looked at is passed: the pc and the list move on. -/
def State.passHead (s : State) (p : Party) : State := (s.advance p).mod p Ctx.alignAhead

/-- A memory instruction at the pc that the access half has carried out ahead: a load's datum reaches its rd, x29 when it has
room; a store is handed on; none where nothing is done of it. -/
def State.passAhead (s : State) (p : Party) (i : Instr) : Option State :=
  match (s.ctx p).ahead with
  | [] => none
  | a :: _ =>
    match accessForm i, a.mark with
    | some (.load rd _ acq), .loaded v =>
      if (s.ctx p).pushHeld rd then some (s.mod p fun c => { c with held := true })
      else
        let s1 := match acq with
          | some sc => s.acquired p sc
          | none => s
        some ((s1.mod p fun c => c.loaded rd v).passHead p)
    | some (.store _ _), .stored _ es => some ((s.handStores p es).passHead p)
    | some (.store _ _), .passed => some (s.passHead p)
    | some (.fence _), .passed => some ((s.mod p Ctx.sync).passHead p)
    | _, _ => none

/-- The instruction at the pc of a party carried out: a memory instruction that the access half has carried out is passed,
and where the store-data queue holds the form, the access half goes on (R74, R76). -/
noncomputable def execHalves (s : State) (p : Party) (i : Instr) : Out :=
  let go (t : State) : State := if (t.ctx p).held then t.runAhead p else t
  match s.passAhead p i with
  | some t => .next (go t)
  | none =>
    match exec i s with
    | .next t => .next (go t)
    | o => o

/-- The word at a party's pc: the one that the access half has fetched, or fetched now. -/
def State.wordAt (s : State) (p : Party) : Tri (BitVec 32) :=
  match (s.ctx p).ahead with
  | a :: _ => .val a.word
  | [] => s.fetchWord p (s.ctx p).pc

/-- The fetch, decode and execution of a party's next instruction. -/
noncomputable def fetchExec (s0 : State) (p : Party) : Out :=
  let s := if (s0.ctx p).ahead.isEmpty then s0 else s0.mod p Ctx.alignAhead
  match s.wordAt p with
  | .val w =>
    match decode w with
    | some i => execHalves s p i
    | none => exec (.illegalInstruction w) s
  | .trap cause tval => exec (.instructionFetchFault cause tval) s
  | .stall s1 => .next s1
  | .walk part va => .next (s.askWalk p part va)

end Sys2Proof.Machine
end

