-- ==== Sys2Proof/Machine/Step.lean ====
section
/-! DEFINITION. One step of the machine: the next turn of the agenda, and the placing of an instruction where
a step fetches it. -/

namespace Sys2Proof.Machine

/-- A party's turn: the access half takes its step, and a running party executes its next instruction, or goes on waiting; an
idle context picks work and an ending one tries to end; a supervisor core in mask ROM boots. -/
noncomputable def runTurn (s : State) (p : Party) : Out :=
  let s := { s with cur := p }
  match (s.ctx p).run with
  | .running =>
    let s1 := (s.tick p.coreIx 1).accStep p
    match (s1.ctx p).waiting with
    | none => fetchExec s1 p
    | some w =>
      match w.form with
      | .monw => fetchExec s1 p
      | .barwait _ => exec (.barwaitTimeout p) s1
      | _ => .next s1
  | .idle =>
    match p with
    | .ctx c k => exec (.contextPick c k) s
    | .sup _ _ => exec .powerOn s
    | .handler _ => .next s
  | .ending =>
    match p with
    | .ctx c k => exec (.firingEnd c k) (s.accStep p)
    | _ => .next s
  | .parked => .next s
  | .halted => .next s

/-- One step: the first turn of the agenda, or the current party's turn when it is empty (DESIGN CHOICE, log 4). -/
noncomputable def step (s : State) : Host.Outcome State Fault Refusal :=
  if !s.dev.powered then
    match s.agenda with
    | .event .powerOn :: rest => exec .powerOn { s with agenda := rest }
    | _ => .fault .poweredDown
  else
    match s.agenda with
    | [] => runTurn s s.cur
    | .turn p :: rest => runTurn { s with agenda := rest } p
    | .access p :: rest => .next ({ s with agenda := rest }.accessTurn p)
    | .event i :: rest => exec i { s with agenda := rest }
    | .time clock n :: rest => .next ({ s with agenda := rest }.passTime clock n)

/-- The context that `withFetchWord` uses, the virtual address it fetches at, and the page behind it. -/
def placedParty : Party := .ctx ⟨0, 0, 0⟩ 0
def placedPc : BitVec 64 := 0x100000
def placedPage : Nat := 0x100000

/-- An instruction placed where the next step fetches it: context 0 of core (0, 0, 0) runs a firing at a page
that its core's TLB maps with R, W and X and that the access tables open to its partition, and the
instruction's bytes stand there (DESIGN CHOICE, log 14). -/
def State.withFetchWord (s : State) (nbits w : Nat) : State :=
  let w := w % 2 ^ nbits
  let part := (s.ctx placedParty).partid
  let k := s.core 0
  let e : TlbEntry := { part := part, base := placedPage, size := 0x10000, word := BitVec.ofNat 64 (placedPage + 0x1F) }
  let acc : BitVec 64 := 0x3000F ||| (part.setWidth 64 <<< 8)
  let s1 := s.setCore 0 { k with utlb := e :: k.utlb }
  let s2 := s1.setDev { s1.dev with powered := true, access := s1.dev.access.put 0 acc }
  let v := (s2.die 0).view
  let mem := (bytesCells placedPage w 4).foldl (fun m c => Memory.write m c.1 c.2) (v.mem.write (poisonPlace placedPage) 0#8)
  let s3 := s2.setDie 0 { s2.die 0 with view := { v with mem := mem } }
  { s3.mod placedParty fun c =>
      { c with
        run := .running, pc := placedPc, waiting := none, acc := [], accPart := [], ahead := [], held := false,
        part := [], body := none
        sb := c.sb.filter fun x =>
          !(x.cells.any fun y => (placedPage ≤ y.1 && y.1 < placedPage + 4) || y.1 == poisonPlace placedPage) } with
    cur := placedParty, agenda := [] }

end Sys2Proof.Machine
end

