-- ==== Sys2Proof/Laws/Fields.lean ====
section
/-! SUPPORT. Where the fields of an instruction word lie: the bits of a concatenation, for each arrangement of fields that
the encodings of 03/R51 to R67 use. -/

namespace Sys2Proof.Laws

/-- Bits above the lower part of a concatenation. -/
theorem extract_high {m n : Nat} (a : BitVec m) (b : BitVec n) (l k : Nat) (h : n ≤ l) :
    (a ++ b).extractLsb' l k = a.extractLsb' (l - n) k := by
  apply BitVec.eq_of_getLsbD_eq
  intro i hi
  simp only [BitVec.getLsbD_extractLsb', BitVec.getLsbD_append, hi, decide_true, Bool.true_and]
  rw [if_neg (by omega)]
  congr 1
  omega

/-- Bits within the lower part of a concatenation. -/
theorem extract_low {m n : Nat} (a : BitVec m) (b : BitVec n) (l k : Nat) (h : l + k ≤ n) :
    (a ++ b).extractLsb' l k = b.extractLsb' l k := by
  apply BitVec.eq_of_getLsbD_eq
  intro i hi
  simp only [BitVec.getLsbD_extractLsb', BitVec.getLsbD_append, hi, decide_true, Bool.true_and]
  rw [if_pos (by omega)]

/-- All bits of a vector. -/
theorem extract_all {n : Nat} (a : BitVec n) : a.extractLsb' 0 n = a := by
  apply BitVec.eq_of_getLsbD_eq
  intro i hi
  simp [hi]

/-- Two neighbouring parts of a vector joined. -/
theorem extract_join {w : Nat} (a : BitVec w) (l j k : Nat) :
    a.extractLsb' (l + j) k ++ a.extractLsb' l j = a.extractLsb' l (k + j) := by
  apply BitVec.eq_of_getLsbD_eq
  intro i hi
  simp only [BitVec.getLsbD_extractLsb', BitVec.getLsbD_append]
  split
  · simp [*]
  · rename_i h
    have h1 : l + j + (i - j) = l + i := by omega
    have h2 : i - j < k := by omega
    simp [h1, h2, hi]

theorem field0_12 (a0 : BitVec 20) (a1 : BitVec 5) (a2 : BitVec 7) :
    (a0 ++ a1 ++ a2 : BitVec 32).extractLsb' 12 20 = a0 :=
  (extract_high (m := 25) (n := 7) _ _ 12 20 (by decide)).trans <|
    (extract_high (m := 20) (n := 5) _ _ 5 20 (by decide)).trans <|
    extract_all a0

theorem field0_7 (a0 : BitVec 20) (a1 : BitVec 5) (a2 : BitVec 7) :
    (a0 ++ a1 ++ a2 : BitVec 32).extractLsb' 7 5 = a1 :=
  (extract_high (m := 25) (n := 7) _ _ 7 5 (by decide)).trans <|
    (extract_low (m := 20) (n := 5) _ _ 0 5 (by decide)).trans <|
    extract_all a1

theorem field0_0 (a0 : BitVec 20) (a1 : BitVec 5) (a2 : BitVec 7) :
    (a0 ++ a1 ++ a2 : BitVec 32).extractLsb' 0 7 = a2 :=
  (extract_low (m := 25) (n := 7) _ _ 0 7 (by decide)).trans <|
    extract_all a2

theorem field1_31 (a0 : BitVec 1) (a1 : BitVec 10) (a2 : BitVec 1) (a3 : BitVec 8) (a4 : BitVec 5) (a5 : BitVec 7) :
    (a0 ++ a1 ++ a2 ++ a3 ++ a4 ++ a5 : BitVec 32).extractLsb' 31 1 = a0 :=
  (extract_high (m := 25) (n := 7) _ _ 31 1 (by decide)).trans <|
    (extract_high (m := 20) (n := 5) _ _ 24 1 (by decide)).trans <|
    (extract_high (m := 12) (n := 8) _ _ 19 1 (by decide)).trans <|
    (extract_high (m := 11) (n := 1) _ _ 11 1 (by decide)).trans <|
    (extract_high (m := 1) (n := 10) _ _ 10 1 (by decide)).trans <|
    extract_all a0

theorem field1_21 (a0 : BitVec 1) (a1 : BitVec 10) (a2 : BitVec 1) (a3 : BitVec 8) (a4 : BitVec 5) (a5 : BitVec 7) :
    (a0 ++ a1 ++ a2 ++ a3 ++ a4 ++ a5 : BitVec 32).extractLsb' 21 10 = a1 :=
  (extract_high (m := 25) (n := 7) _ _ 21 10 (by decide)).trans <|
    (extract_high (m := 20) (n := 5) _ _ 14 10 (by decide)).trans <|
    (extract_high (m := 12) (n := 8) _ _ 9 10 (by decide)).trans <|
    (extract_high (m := 11) (n := 1) _ _ 1 10 (by decide)).trans <|
    (extract_low (m := 1) (n := 10) _ _ 0 10 (by decide)).trans <|
    extract_all a1

theorem field1_20 (a0 : BitVec 1) (a1 : BitVec 10) (a2 : BitVec 1) (a3 : BitVec 8) (a4 : BitVec 5) (a5 : BitVec 7) :
    (a0 ++ a1 ++ a2 ++ a3 ++ a4 ++ a5 : BitVec 32).extractLsb' 20 1 = a2 :=
  (extract_high (m := 25) (n := 7) _ _ 20 1 (by decide)).trans <|
    (extract_high (m := 20) (n := 5) _ _ 13 1 (by decide)).trans <|
    (extract_high (m := 12) (n := 8) _ _ 8 1 (by decide)).trans <|
    (extract_low (m := 11) (n := 1) _ _ 0 1 (by decide)).trans <|
    extract_all a2

theorem field1_12 (a0 : BitVec 1) (a1 : BitVec 10) (a2 : BitVec 1) (a3 : BitVec 8) (a4 : BitVec 5) (a5 : BitVec 7) :
    (a0 ++ a1 ++ a2 ++ a3 ++ a4 ++ a5 : BitVec 32).extractLsb' 12 8 = a3 :=
  (extract_high (m := 25) (n := 7) _ _ 12 8 (by decide)).trans <|
    (extract_high (m := 20) (n := 5) _ _ 5 8 (by decide)).trans <|
    (extract_low (m := 12) (n := 8) _ _ 0 8 (by decide)).trans <|
    extract_all a3

theorem field1_7 (a0 : BitVec 1) (a1 : BitVec 10) (a2 : BitVec 1) (a3 : BitVec 8) (a4 : BitVec 5) (a5 : BitVec 7) :
    (a0 ++ a1 ++ a2 ++ a3 ++ a4 ++ a5 : BitVec 32).extractLsb' 7 5 = a4 :=
  (extract_high (m := 25) (n := 7) _ _ 7 5 (by decide)).trans <|
    (extract_low (m := 20) (n := 5) _ _ 0 5 (by decide)).trans <|
    extract_all a4

theorem field1_0 (a0 : BitVec 1) (a1 : BitVec 10) (a2 : BitVec 1) (a3 : BitVec 8) (a4 : BitVec 5) (a5 : BitVec 7) :
    (a0 ++ a1 ++ a2 ++ a3 ++ a4 ++ a5 : BitVec 32).extractLsb' 0 7 = a5 :=
  (extract_low (m := 25) (n := 7) _ _ 0 7 (by decide)).trans <|
    extract_all a5

theorem field2_20 (a0 : BitVec 12) (a1 : BitVec 5) (a2 : BitVec 3) (a3 : BitVec 5) (a4 : BitVec 7) :
    (a0 ++ a1 ++ a2 ++ a3 ++ a4 : BitVec 32).extractLsb' 20 12 = a0 :=
  (extract_high (m := 25) (n := 7) _ _ 20 12 (by decide)).trans <|
    (extract_high (m := 20) (n := 5) _ _ 13 12 (by decide)).trans <|
    (extract_high (m := 17) (n := 3) _ _ 8 12 (by decide)).trans <|
    (extract_high (m := 12) (n := 5) _ _ 5 12 (by decide)).trans <|
    extract_all a0

theorem field2_15 (a0 : BitVec 12) (a1 : BitVec 5) (a2 : BitVec 3) (a3 : BitVec 5) (a4 : BitVec 7) :
    (a0 ++ a1 ++ a2 ++ a3 ++ a4 : BitVec 32).extractLsb' 15 5 = a1 :=
  (extract_high (m := 25) (n := 7) _ _ 15 5 (by decide)).trans <|
    (extract_high (m := 20) (n := 5) _ _ 8 5 (by decide)).trans <|
    (extract_high (m := 17) (n := 3) _ _ 3 5 (by decide)).trans <|
    (extract_low (m := 12) (n := 5) _ _ 0 5 (by decide)).trans <|
    extract_all a1

theorem field2_12 (a0 : BitVec 12) (a1 : BitVec 5) (a2 : BitVec 3) (a3 : BitVec 5) (a4 : BitVec 7) :
    (a0 ++ a1 ++ a2 ++ a3 ++ a4 : BitVec 32).extractLsb' 12 3 = a2 :=
  (extract_high (m := 25) (n := 7) _ _ 12 3 (by decide)).trans <|
    (extract_high (m := 20) (n := 5) _ _ 5 3 (by decide)).trans <|
    (extract_low (m := 17) (n := 3) _ _ 0 3 (by decide)).trans <|
    extract_all a2

theorem field2_7 (a0 : BitVec 12) (a1 : BitVec 5) (a2 : BitVec 3) (a3 : BitVec 5) (a4 : BitVec 7) :
    (a0 ++ a1 ++ a2 ++ a3 ++ a4 : BitVec 32).extractLsb' 7 5 = a3 :=
  (extract_high (m := 25) (n := 7) _ _ 7 5 (by decide)).trans <|
    (extract_low (m := 20) (n := 5) _ _ 0 5 (by decide)).trans <|
    extract_all a3

theorem field2_0 (a0 : BitVec 12) (a1 : BitVec 5) (a2 : BitVec 3) (a3 : BitVec 5) (a4 : BitVec 7) :
    (a0 ++ a1 ++ a2 ++ a3 ++ a4 : BitVec 32).extractLsb' 0 7 = a4 :=
  (extract_low (m := 25) (n := 7) _ _ 0 7 (by decide)).trans <|
    extract_all a4

theorem field3_31 (a0 : BitVec 1) (a1 : BitVec 6) (a2 : BitVec 5) (a3 : BitVec 5) (a4 : BitVec 3) (a5 : BitVec 4) (a6 : BitVec 1) (a7 : BitVec 7) :
    (a0 ++ a1 ++ a2 ++ a3 ++ a4 ++ a5 ++ a6 ++ a7 : BitVec 32).extractLsb' 31 1 = a0 :=
  (extract_high (m := 25) (n := 7) _ _ 31 1 (by decide)).trans <|
    (extract_high (m := 24) (n := 1) _ _ 24 1 (by decide)).trans <|
    (extract_high (m := 20) (n := 4) _ _ 23 1 (by decide)).trans <|
    (extract_high (m := 17) (n := 3) _ _ 19 1 (by decide)).trans <|
    (extract_high (m := 12) (n := 5) _ _ 16 1 (by decide)).trans <|
    (extract_high (m := 7) (n := 5) _ _ 11 1 (by decide)).trans <|
    (extract_high (m := 1) (n := 6) _ _ 6 1 (by decide)).trans <|
    extract_all a0

theorem field3_25 (a0 : BitVec 1) (a1 : BitVec 6) (a2 : BitVec 5) (a3 : BitVec 5) (a4 : BitVec 3) (a5 : BitVec 4) (a6 : BitVec 1) (a7 : BitVec 7) :
    (a0 ++ a1 ++ a2 ++ a3 ++ a4 ++ a5 ++ a6 ++ a7 : BitVec 32).extractLsb' 25 6 = a1 :=
  (extract_high (m := 25) (n := 7) _ _ 25 6 (by decide)).trans <|
    (extract_high (m := 24) (n := 1) _ _ 18 6 (by decide)).trans <|
    (extract_high (m := 20) (n := 4) _ _ 17 6 (by decide)).trans <|
    (extract_high (m := 17) (n := 3) _ _ 13 6 (by decide)).trans <|
    (extract_high (m := 12) (n := 5) _ _ 10 6 (by decide)).trans <|
    (extract_high (m := 7) (n := 5) _ _ 5 6 (by decide)).trans <|
    (extract_low (m := 1) (n := 6) _ _ 0 6 (by decide)).trans <|
    extract_all a1

theorem field3_20 (a0 : BitVec 1) (a1 : BitVec 6) (a2 : BitVec 5) (a3 : BitVec 5) (a4 : BitVec 3) (a5 : BitVec 4) (a6 : BitVec 1) (a7 : BitVec 7) :
    (a0 ++ a1 ++ a2 ++ a3 ++ a4 ++ a5 ++ a6 ++ a7 : BitVec 32).extractLsb' 20 5 = a2 :=
  (extract_high (m := 25) (n := 7) _ _ 20 5 (by decide)).trans <|
    (extract_high (m := 24) (n := 1) _ _ 13 5 (by decide)).trans <|
    (extract_high (m := 20) (n := 4) _ _ 12 5 (by decide)).trans <|
    (extract_high (m := 17) (n := 3) _ _ 8 5 (by decide)).trans <|
    (extract_high (m := 12) (n := 5) _ _ 5 5 (by decide)).trans <|
    (extract_low (m := 7) (n := 5) _ _ 0 5 (by decide)).trans <|
    extract_all a2

theorem field3_15 (a0 : BitVec 1) (a1 : BitVec 6) (a2 : BitVec 5) (a3 : BitVec 5) (a4 : BitVec 3) (a5 : BitVec 4) (a6 : BitVec 1) (a7 : BitVec 7) :
    (a0 ++ a1 ++ a2 ++ a3 ++ a4 ++ a5 ++ a6 ++ a7 : BitVec 32).extractLsb' 15 5 = a3 :=
  (extract_high (m := 25) (n := 7) _ _ 15 5 (by decide)).trans <|
    (extract_high (m := 24) (n := 1) _ _ 8 5 (by decide)).trans <|
    (extract_high (m := 20) (n := 4) _ _ 7 5 (by decide)).trans <|
    (extract_high (m := 17) (n := 3) _ _ 3 5 (by decide)).trans <|
    (extract_low (m := 12) (n := 5) _ _ 0 5 (by decide)).trans <|
    extract_all a3

theorem field3_12 (a0 : BitVec 1) (a1 : BitVec 6) (a2 : BitVec 5) (a3 : BitVec 5) (a4 : BitVec 3) (a5 : BitVec 4) (a6 : BitVec 1) (a7 : BitVec 7) :
    (a0 ++ a1 ++ a2 ++ a3 ++ a4 ++ a5 ++ a6 ++ a7 : BitVec 32).extractLsb' 12 3 = a4 :=
  (extract_high (m := 25) (n := 7) _ _ 12 3 (by decide)).trans <|
    (extract_high (m := 24) (n := 1) _ _ 5 3 (by decide)).trans <|
    (extract_high (m := 20) (n := 4) _ _ 4 3 (by decide)).trans <|
    (extract_low (m := 17) (n := 3) _ _ 0 3 (by decide)).trans <|
    extract_all a4

theorem field3_8 (a0 : BitVec 1) (a1 : BitVec 6) (a2 : BitVec 5) (a3 : BitVec 5) (a4 : BitVec 3) (a5 : BitVec 4) (a6 : BitVec 1) (a7 : BitVec 7) :
    (a0 ++ a1 ++ a2 ++ a3 ++ a4 ++ a5 ++ a6 ++ a7 : BitVec 32).extractLsb' 8 4 = a5 :=
  (extract_high (m := 25) (n := 7) _ _ 8 4 (by decide)).trans <|
    (extract_high (m := 24) (n := 1) _ _ 1 4 (by decide)).trans <|
    (extract_low (m := 20) (n := 4) _ _ 0 4 (by decide)).trans <|
    extract_all a5

theorem field3_7 (a0 : BitVec 1) (a1 : BitVec 6) (a2 : BitVec 5) (a3 : BitVec 5) (a4 : BitVec 3) (a5 : BitVec 4) (a6 : BitVec 1) (a7 : BitVec 7) :
    (a0 ++ a1 ++ a2 ++ a3 ++ a4 ++ a5 ++ a6 ++ a7 : BitVec 32).extractLsb' 7 1 = a6 :=
  (extract_high (m := 25) (n := 7) _ _ 7 1 (by decide)).trans <|
    (extract_low (m := 24) (n := 1) _ _ 0 1 (by decide)).trans <|
    extract_all a6

theorem field3_0 (a0 : BitVec 1) (a1 : BitVec 6) (a2 : BitVec 5) (a3 : BitVec 5) (a4 : BitVec 3) (a5 : BitVec 4) (a6 : BitVec 1) (a7 : BitVec 7) :
    (a0 ++ a1 ++ a2 ++ a3 ++ a4 ++ a5 ++ a6 ++ a7 : BitVec 32).extractLsb' 0 7 = a7 :=
  (extract_low (m := 25) (n := 7) _ _ 0 7 (by decide)).trans <|
    extract_all a7

theorem field4_25 (a0 : BitVec 7) (a1 : BitVec 5) (a2 : BitVec 5) (a3 : BitVec 3) (a4 : BitVec 5) (a5 : BitVec 7) :
    (a0 ++ a1 ++ a2 ++ a3 ++ a4 ++ a5 : BitVec 32).extractLsb' 25 7 = a0 :=
  (extract_high (m := 25) (n := 7) _ _ 25 7 (by decide)).trans <|
    (extract_high (m := 20) (n := 5) _ _ 18 7 (by decide)).trans <|
    (extract_high (m := 17) (n := 3) _ _ 13 7 (by decide)).trans <|
    (extract_high (m := 12) (n := 5) _ _ 10 7 (by decide)).trans <|
    (extract_high (m := 7) (n := 5) _ _ 5 7 (by decide)).trans <|
    extract_all a0

theorem field4_20 (a0 : BitVec 7) (a1 : BitVec 5) (a2 : BitVec 5) (a3 : BitVec 3) (a4 : BitVec 5) (a5 : BitVec 7) :
    (a0 ++ a1 ++ a2 ++ a3 ++ a4 ++ a5 : BitVec 32).extractLsb' 20 5 = a1 :=
  (extract_high (m := 25) (n := 7) _ _ 20 5 (by decide)).trans <|
    (extract_high (m := 20) (n := 5) _ _ 13 5 (by decide)).trans <|
    (extract_high (m := 17) (n := 3) _ _ 8 5 (by decide)).trans <|
    (extract_high (m := 12) (n := 5) _ _ 5 5 (by decide)).trans <|
    (extract_low (m := 7) (n := 5) _ _ 0 5 (by decide)).trans <|
    extract_all a1

theorem field4_15 (a0 : BitVec 7) (a1 : BitVec 5) (a2 : BitVec 5) (a3 : BitVec 3) (a4 : BitVec 5) (a5 : BitVec 7) :
    (a0 ++ a1 ++ a2 ++ a3 ++ a4 ++ a5 : BitVec 32).extractLsb' 15 5 = a2 :=
  (extract_high (m := 25) (n := 7) _ _ 15 5 (by decide)).trans <|
    (extract_high (m := 20) (n := 5) _ _ 8 5 (by decide)).trans <|
    (extract_high (m := 17) (n := 3) _ _ 3 5 (by decide)).trans <|
    (extract_low (m := 12) (n := 5) _ _ 0 5 (by decide)).trans <|
    extract_all a2

theorem field4_12 (a0 : BitVec 7) (a1 : BitVec 5) (a2 : BitVec 5) (a3 : BitVec 3) (a4 : BitVec 5) (a5 : BitVec 7) :
    (a0 ++ a1 ++ a2 ++ a3 ++ a4 ++ a5 : BitVec 32).extractLsb' 12 3 = a3 :=
  (extract_high (m := 25) (n := 7) _ _ 12 3 (by decide)).trans <|
    (extract_high (m := 20) (n := 5) _ _ 5 3 (by decide)).trans <|
    (extract_low (m := 17) (n := 3) _ _ 0 3 (by decide)).trans <|
    extract_all a3

theorem field4_7 (a0 : BitVec 7) (a1 : BitVec 5) (a2 : BitVec 5) (a3 : BitVec 3) (a4 : BitVec 5) (a5 : BitVec 7) :
    (a0 ++ a1 ++ a2 ++ a3 ++ a4 ++ a5 : BitVec 32).extractLsb' 7 5 = a4 :=
  (extract_high (m := 25) (n := 7) _ _ 7 5 (by decide)).trans <|
    (extract_low (m := 20) (n := 5) _ _ 0 5 (by decide)).trans <|
    extract_all a4

theorem field4_0 (a0 : BitVec 7) (a1 : BitVec 5) (a2 : BitVec 5) (a3 : BitVec 3) (a4 : BitVec 5) (a5 : BitVec 7) :
    (a0 ++ a1 ++ a2 ++ a3 ++ a4 ++ a5 : BitVec 32).extractLsb' 0 7 = a5 :=
  (extract_low (m := 25) (n := 7) _ _ 0 7 (by decide)).trans <|
    extract_all a5

theorem field5_26 (a0 : BitVec 6) (a1 : BitVec 6) (a2 : BitVec 5) (a3 : BitVec 3) (a4 : BitVec 5) (a5 : BitVec 7) :
    (a0 ++ a1 ++ a2 ++ a3 ++ a4 ++ a5 : BitVec 32).extractLsb' 26 6 = a0 :=
  (extract_high (m := 25) (n := 7) _ _ 26 6 (by decide)).trans <|
    (extract_high (m := 20) (n := 5) _ _ 19 6 (by decide)).trans <|
    (extract_high (m := 17) (n := 3) _ _ 14 6 (by decide)).trans <|
    (extract_high (m := 12) (n := 5) _ _ 11 6 (by decide)).trans <|
    (extract_high (m := 6) (n := 6) _ _ 6 6 (by decide)).trans <|
    extract_all a0

theorem field5_20 (a0 : BitVec 6) (a1 : BitVec 6) (a2 : BitVec 5) (a3 : BitVec 3) (a4 : BitVec 5) (a5 : BitVec 7) :
    (a0 ++ a1 ++ a2 ++ a3 ++ a4 ++ a5 : BitVec 32).extractLsb' 20 6 = a1 :=
  (extract_high (m := 25) (n := 7) _ _ 20 6 (by decide)).trans <|
    (extract_high (m := 20) (n := 5) _ _ 13 6 (by decide)).trans <|
    (extract_high (m := 17) (n := 3) _ _ 8 6 (by decide)).trans <|
    (extract_high (m := 12) (n := 5) _ _ 5 6 (by decide)).trans <|
    (extract_low (m := 6) (n := 6) _ _ 0 6 (by decide)).trans <|
    extract_all a1

theorem field5_15 (a0 : BitVec 6) (a1 : BitVec 6) (a2 : BitVec 5) (a3 : BitVec 3) (a4 : BitVec 5) (a5 : BitVec 7) :
    (a0 ++ a1 ++ a2 ++ a3 ++ a4 ++ a5 : BitVec 32).extractLsb' 15 5 = a2 :=
  (extract_high (m := 25) (n := 7) _ _ 15 5 (by decide)).trans <|
    (extract_high (m := 20) (n := 5) _ _ 8 5 (by decide)).trans <|
    (extract_high (m := 17) (n := 3) _ _ 3 5 (by decide)).trans <|
    (extract_low (m := 12) (n := 5) _ _ 0 5 (by decide)).trans <|
    extract_all a2

theorem field5_12 (a0 : BitVec 6) (a1 : BitVec 6) (a2 : BitVec 5) (a3 : BitVec 3) (a4 : BitVec 5) (a5 : BitVec 7) :
    (a0 ++ a1 ++ a2 ++ a3 ++ a4 ++ a5 : BitVec 32).extractLsb' 12 3 = a3 :=
  (extract_high (m := 25) (n := 7) _ _ 12 3 (by decide)).trans <|
    (extract_high (m := 20) (n := 5) _ _ 5 3 (by decide)).trans <|
    (extract_low (m := 17) (n := 3) _ _ 0 3 (by decide)).trans <|
    extract_all a3

theorem field5_7 (a0 : BitVec 6) (a1 : BitVec 6) (a2 : BitVec 5) (a3 : BitVec 3) (a4 : BitVec 5) (a5 : BitVec 7) :
    (a0 ++ a1 ++ a2 ++ a3 ++ a4 ++ a5 : BitVec 32).extractLsb' 7 5 = a4 :=
  (extract_high (m := 25) (n := 7) _ _ 7 5 (by decide)).trans <|
    (extract_low (m := 20) (n := 5) _ _ 0 5 (by decide)).trans <|
    extract_all a4

theorem field5_0 (a0 : BitVec 6) (a1 : BitVec 6) (a2 : BitVec 5) (a3 : BitVec 3) (a4 : BitVec 5) (a5 : BitVec 7) :
    (a0 ++ a1 ++ a2 ++ a3 ++ a4 ++ a5 : BitVec 32).extractLsb' 0 7 = a5 :=
  (extract_low (m := 25) (n := 7) _ _ 0 7 (by decide)).trans <|
    extract_all a5

theorem field6_28 (a0 : BitVec 4) (a1 : BitVec 4) (a2 : BitVec 4) (a3 : BitVec 5) (a4 : BitVec 3) (a5 : BitVec 5) (a6 : BitVec 7) :
    (a0 ++ a1 ++ a2 ++ a3 ++ a4 ++ a5 ++ a6 : BitVec 32).extractLsb' 28 4 = a0 :=
  (extract_high (m := 25) (n := 7) _ _ 28 4 (by decide)).trans <|
    (extract_high (m := 20) (n := 5) _ _ 21 4 (by decide)).trans <|
    (extract_high (m := 17) (n := 3) _ _ 16 4 (by decide)).trans <|
    (extract_high (m := 12) (n := 5) _ _ 13 4 (by decide)).trans <|
    (extract_high (m := 8) (n := 4) _ _ 8 4 (by decide)).trans <|
    (extract_high (m := 4) (n := 4) _ _ 4 4 (by decide)).trans <|
    extract_all a0

theorem field6_24 (a0 : BitVec 4) (a1 : BitVec 4) (a2 : BitVec 4) (a3 : BitVec 5) (a4 : BitVec 3) (a5 : BitVec 5) (a6 : BitVec 7) :
    (a0 ++ a1 ++ a2 ++ a3 ++ a4 ++ a5 ++ a6 : BitVec 32).extractLsb' 24 4 = a1 :=
  (extract_high (m := 25) (n := 7) _ _ 24 4 (by decide)).trans <|
    (extract_high (m := 20) (n := 5) _ _ 17 4 (by decide)).trans <|
    (extract_high (m := 17) (n := 3) _ _ 12 4 (by decide)).trans <|
    (extract_high (m := 12) (n := 5) _ _ 9 4 (by decide)).trans <|
    (extract_high (m := 8) (n := 4) _ _ 4 4 (by decide)).trans <|
    (extract_low (m := 4) (n := 4) _ _ 0 4 (by decide)).trans <|
    extract_all a1

theorem field6_20 (a0 : BitVec 4) (a1 : BitVec 4) (a2 : BitVec 4) (a3 : BitVec 5) (a4 : BitVec 3) (a5 : BitVec 5) (a6 : BitVec 7) :
    (a0 ++ a1 ++ a2 ++ a3 ++ a4 ++ a5 ++ a6 : BitVec 32).extractLsb' 20 4 = a2 :=
  (extract_high (m := 25) (n := 7) _ _ 20 4 (by decide)).trans <|
    (extract_high (m := 20) (n := 5) _ _ 13 4 (by decide)).trans <|
    (extract_high (m := 17) (n := 3) _ _ 8 4 (by decide)).trans <|
    (extract_high (m := 12) (n := 5) _ _ 5 4 (by decide)).trans <|
    (extract_low (m := 8) (n := 4) _ _ 0 4 (by decide)).trans <|
    extract_all a2

theorem field6_15 (a0 : BitVec 4) (a1 : BitVec 4) (a2 : BitVec 4) (a3 : BitVec 5) (a4 : BitVec 3) (a5 : BitVec 5) (a6 : BitVec 7) :
    (a0 ++ a1 ++ a2 ++ a3 ++ a4 ++ a5 ++ a6 : BitVec 32).extractLsb' 15 5 = a3 :=
  (extract_high (m := 25) (n := 7) _ _ 15 5 (by decide)).trans <|
    (extract_high (m := 20) (n := 5) _ _ 8 5 (by decide)).trans <|
    (extract_high (m := 17) (n := 3) _ _ 3 5 (by decide)).trans <|
    (extract_low (m := 12) (n := 5) _ _ 0 5 (by decide)).trans <|
    extract_all a3

theorem field6_12 (a0 : BitVec 4) (a1 : BitVec 4) (a2 : BitVec 4) (a3 : BitVec 5) (a4 : BitVec 3) (a5 : BitVec 5) (a6 : BitVec 7) :
    (a0 ++ a1 ++ a2 ++ a3 ++ a4 ++ a5 ++ a6 : BitVec 32).extractLsb' 12 3 = a4 :=
  (extract_high (m := 25) (n := 7) _ _ 12 3 (by decide)).trans <|
    (extract_high (m := 20) (n := 5) _ _ 5 3 (by decide)).trans <|
    (extract_low (m := 17) (n := 3) _ _ 0 3 (by decide)).trans <|
    extract_all a4

theorem field6_7 (a0 : BitVec 4) (a1 : BitVec 4) (a2 : BitVec 4) (a3 : BitVec 5) (a4 : BitVec 3) (a5 : BitVec 5) (a6 : BitVec 7) :
    (a0 ++ a1 ++ a2 ++ a3 ++ a4 ++ a5 ++ a6 : BitVec 32).extractLsb' 7 5 = a5 :=
  (extract_high (m := 25) (n := 7) _ _ 7 5 (by decide)).trans <|
    (extract_low (m := 20) (n := 5) _ _ 0 5 (by decide)).trans <|
    extract_all a5

theorem field6_0 (a0 : BitVec 4) (a1 : BitVec 4) (a2 : BitVec 4) (a3 : BitVec 5) (a4 : BitVec 3) (a5 : BitVec 5) (a6 : BitVec 7) :
    (a0 ++ a1 ++ a2 ++ a3 ++ a4 ++ a5 ++ a6 : BitVec 32).extractLsb' 0 7 = a6 :=
  (extract_low (m := 25) (n := 7) _ _ 0 7 (by decide)).trans <|
    extract_all a6

theorem field7_27 (a0 : BitVec 5) (a1 : BitVec 2) (a2 : BitVec 5) (a3 : BitVec 5) (a4 : BitVec 3) (a5 : BitVec 5) (a6 : BitVec 7) :
    (a0 ++ a1 ++ a2 ++ a3 ++ a4 ++ a5 ++ a6 : BitVec 32).extractLsb' 27 5 = a0 :=
  (extract_high (m := 25) (n := 7) _ _ 27 5 (by decide)).trans <|
    (extract_high (m := 20) (n := 5) _ _ 20 5 (by decide)).trans <|
    (extract_high (m := 17) (n := 3) _ _ 15 5 (by decide)).trans <|
    (extract_high (m := 12) (n := 5) _ _ 12 5 (by decide)).trans <|
    (extract_high (m := 7) (n := 5) _ _ 7 5 (by decide)).trans <|
    (extract_high (m := 5) (n := 2) _ _ 2 5 (by decide)).trans <|
    extract_all a0

theorem field7_25 (a0 : BitVec 5) (a1 : BitVec 2) (a2 : BitVec 5) (a3 : BitVec 5) (a4 : BitVec 3) (a5 : BitVec 5) (a6 : BitVec 7) :
    (a0 ++ a1 ++ a2 ++ a3 ++ a4 ++ a5 ++ a6 : BitVec 32).extractLsb' 25 2 = a1 :=
  (extract_high (m := 25) (n := 7) _ _ 25 2 (by decide)).trans <|
    (extract_high (m := 20) (n := 5) _ _ 18 2 (by decide)).trans <|
    (extract_high (m := 17) (n := 3) _ _ 13 2 (by decide)).trans <|
    (extract_high (m := 12) (n := 5) _ _ 10 2 (by decide)).trans <|
    (extract_high (m := 7) (n := 5) _ _ 5 2 (by decide)).trans <|
    (extract_low (m := 5) (n := 2) _ _ 0 2 (by decide)).trans <|
    extract_all a1

theorem field7_20 (a0 : BitVec 5) (a1 : BitVec 2) (a2 : BitVec 5) (a3 : BitVec 5) (a4 : BitVec 3) (a5 : BitVec 5) (a6 : BitVec 7) :
    (a0 ++ a1 ++ a2 ++ a3 ++ a4 ++ a5 ++ a6 : BitVec 32).extractLsb' 20 5 = a2 :=
  (extract_high (m := 25) (n := 7) _ _ 20 5 (by decide)).trans <|
    (extract_high (m := 20) (n := 5) _ _ 13 5 (by decide)).trans <|
    (extract_high (m := 17) (n := 3) _ _ 8 5 (by decide)).trans <|
    (extract_high (m := 12) (n := 5) _ _ 5 5 (by decide)).trans <|
    (extract_low (m := 7) (n := 5) _ _ 0 5 (by decide)).trans <|
    extract_all a2

theorem field7_15 (a0 : BitVec 5) (a1 : BitVec 2) (a2 : BitVec 5) (a3 : BitVec 5) (a4 : BitVec 3) (a5 : BitVec 5) (a6 : BitVec 7) :
    (a0 ++ a1 ++ a2 ++ a3 ++ a4 ++ a5 ++ a6 : BitVec 32).extractLsb' 15 5 = a3 :=
  (extract_high (m := 25) (n := 7) _ _ 15 5 (by decide)).trans <|
    (extract_high (m := 20) (n := 5) _ _ 8 5 (by decide)).trans <|
    (extract_high (m := 17) (n := 3) _ _ 3 5 (by decide)).trans <|
    (extract_low (m := 12) (n := 5) _ _ 0 5 (by decide)).trans <|
    extract_all a3

theorem field7_12 (a0 : BitVec 5) (a1 : BitVec 2) (a2 : BitVec 5) (a3 : BitVec 5) (a4 : BitVec 3) (a5 : BitVec 5) (a6 : BitVec 7) :
    (a0 ++ a1 ++ a2 ++ a3 ++ a4 ++ a5 ++ a6 : BitVec 32).extractLsb' 12 3 = a4 :=
  (extract_high (m := 25) (n := 7) _ _ 12 3 (by decide)).trans <|
    (extract_high (m := 20) (n := 5) _ _ 5 3 (by decide)).trans <|
    (extract_low (m := 17) (n := 3) _ _ 0 3 (by decide)).trans <|
    extract_all a4

theorem field7_7 (a0 : BitVec 5) (a1 : BitVec 2) (a2 : BitVec 5) (a3 : BitVec 5) (a4 : BitVec 3) (a5 : BitVec 5) (a6 : BitVec 7) :
    (a0 ++ a1 ++ a2 ++ a3 ++ a4 ++ a5 ++ a6 : BitVec 32).extractLsb' 7 5 = a5 :=
  (extract_high (m := 25) (n := 7) _ _ 7 5 (by decide)).trans <|
    (extract_low (m := 20) (n := 5) _ _ 0 5 (by decide)).trans <|
    extract_all a5

theorem field7_0 (a0 : BitVec 5) (a1 : BitVec 2) (a2 : BitVec 5) (a3 : BitVec 5) (a4 : BitVec 3) (a5 : BitVec 5) (a6 : BitVec 7) :
    (a0 ++ a1 ++ a2 ++ a3 ++ a4 ++ a5 ++ a6 : BitVec 32).extractLsb' 0 7 = a6 :=
  (extract_low (m := 25) (n := 7) _ _ 0 7 (by decide)).trans <|
    extract_all a6

theorem field8_30 (a0 : BitVec 2) (a1 : BitVec 2) (a2 : BitVec 3) (a3 : BitVec 5) (a4 : BitVec 5) (a5 : BitVec 3) (a6 : BitVec 5) (a7 : BitVec 7) :
    (a0 ++ a1 ++ a2 ++ a3 ++ a4 ++ a5 ++ a6 ++ a7 : BitVec 32).extractLsb' 30 2 = a0 :=
  (extract_high (m := 25) (n := 7) _ _ 30 2 (by decide)).trans <|
    (extract_high (m := 20) (n := 5) _ _ 23 2 (by decide)).trans <|
    (extract_high (m := 17) (n := 3) _ _ 18 2 (by decide)).trans <|
    (extract_high (m := 12) (n := 5) _ _ 15 2 (by decide)).trans <|
    (extract_high (m := 7) (n := 5) _ _ 10 2 (by decide)).trans <|
    (extract_high (m := 4) (n := 3) _ _ 5 2 (by decide)).trans <|
    (extract_high (m := 2) (n := 2) _ _ 2 2 (by decide)).trans <|
    extract_all a0

theorem field8_28 (a0 : BitVec 2) (a1 : BitVec 2) (a2 : BitVec 3) (a3 : BitVec 5) (a4 : BitVec 5) (a5 : BitVec 3) (a6 : BitVec 5) (a7 : BitVec 7) :
    (a0 ++ a1 ++ a2 ++ a3 ++ a4 ++ a5 ++ a6 ++ a7 : BitVec 32).extractLsb' 28 2 = a1 :=
  (extract_high (m := 25) (n := 7) _ _ 28 2 (by decide)).trans <|
    (extract_high (m := 20) (n := 5) _ _ 21 2 (by decide)).trans <|
    (extract_high (m := 17) (n := 3) _ _ 16 2 (by decide)).trans <|
    (extract_high (m := 12) (n := 5) _ _ 13 2 (by decide)).trans <|
    (extract_high (m := 7) (n := 5) _ _ 8 2 (by decide)).trans <|
    (extract_high (m := 4) (n := 3) _ _ 3 2 (by decide)).trans <|
    (extract_low (m := 2) (n := 2) _ _ 0 2 (by decide)).trans <|
    extract_all a1

theorem field8_25 (a0 : BitVec 2) (a1 : BitVec 2) (a2 : BitVec 3) (a3 : BitVec 5) (a4 : BitVec 5) (a5 : BitVec 3) (a6 : BitVec 5) (a7 : BitVec 7) :
    (a0 ++ a1 ++ a2 ++ a3 ++ a4 ++ a5 ++ a6 ++ a7 : BitVec 32).extractLsb' 25 3 = a2 :=
  (extract_high (m := 25) (n := 7) _ _ 25 3 (by decide)).trans <|
    (extract_high (m := 20) (n := 5) _ _ 18 3 (by decide)).trans <|
    (extract_high (m := 17) (n := 3) _ _ 13 3 (by decide)).trans <|
    (extract_high (m := 12) (n := 5) _ _ 10 3 (by decide)).trans <|
    (extract_high (m := 7) (n := 5) _ _ 5 3 (by decide)).trans <|
    (extract_low (m := 4) (n := 3) _ _ 0 3 (by decide)).trans <|
    extract_all a2

theorem field8_20 (a0 : BitVec 2) (a1 : BitVec 2) (a2 : BitVec 3) (a3 : BitVec 5) (a4 : BitVec 5) (a5 : BitVec 3) (a6 : BitVec 5) (a7 : BitVec 7) :
    (a0 ++ a1 ++ a2 ++ a3 ++ a4 ++ a5 ++ a6 ++ a7 : BitVec 32).extractLsb' 20 5 = a3 :=
  (extract_high (m := 25) (n := 7) _ _ 20 5 (by decide)).trans <|
    (extract_high (m := 20) (n := 5) _ _ 13 5 (by decide)).trans <|
    (extract_high (m := 17) (n := 3) _ _ 8 5 (by decide)).trans <|
    (extract_high (m := 12) (n := 5) _ _ 5 5 (by decide)).trans <|
    (extract_low (m := 7) (n := 5) _ _ 0 5 (by decide)).trans <|
    extract_all a3

theorem field8_15 (a0 : BitVec 2) (a1 : BitVec 2) (a2 : BitVec 3) (a3 : BitVec 5) (a4 : BitVec 5) (a5 : BitVec 3) (a6 : BitVec 5) (a7 : BitVec 7) :
    (a0 ++ a1 ++ a2 ++ a3 ++ a4 ++ a5 ++ a6 ++ a7 : BitVec 32).extractLsb' 15 5 = a4 :=
  (extract_high (m := 25) (n := 7) _ _ 15 5 (by decide)).trans <|
    (extract_high (m := 20) (n := 5) _ _ 8 5 (by decide)).trans <|
    (extract_high (m := 17) (n := 3) _ _ 3 5 (by decide)).trans <|
    (extract_low (m := 12) (n := 5) _ _ 0 5 (by decide)).trans <|
    extract_all a4

theorem field8_12 (a0 : BitVec 2) (a1 : BitVec 2) (a2 : BitVec 3) (a3 : BitVec 5) (a4 : BitVec 5) (a5 : BitVec 3) (a6 : BitVec 5) (a7 : BitVec 7) :
    (a0 ++ a1 ++ a2 ++ a3 ++ a4 ++ a5 ++ a6 ++ a7 : BitVec 32).extractLsb' 12 3 = a5 :=
  (extract_high (m := 25) (n := 7) _ _ 12 3 (by decide)).trans <|
    (extract_high (m := 20) (n := 5) _ _ 5 3 (by decide)).trans <|
    (extract_low (m := 17) (n := 3) _ _ 0 3 (by decide)).trans <|
    extract_all a5

theorem field8_7 (a0 : BitVec 2) (a1 : BitVec 2) (a2 : BitVec 3) (a3 : BitVec 5) (a4 : BitVec 5) (a5 : BitVec 3) (a6 : BitVec 5) (a7 : BitVec 7) :
    (a0 ++ a1 ++ a2 ++ a3 ++ a4 ++ a5 ++ a6 ++ a7 : BitVec 32).extractLsb' 7 5 = a6 :=
  (extract_high (m := 25) (n := 7) _ _ 7 5 (by decide)).trans <|
    (extract_low (m := 20) (n := 5) _ _ 0 5 (by decide)).trans <|
    extract_all a6

theorem field8_0 (a0 : BitVec 2) (a1 : BitVec 2) (a2 : BitVec 3) (a3 : BitVec 5) (a4 : BitVec 5) (a5 : BitVec 3) (a6 : BitVec 5) (a7 : BitVec 7) :
    (a0 ++ a1 ++ a2 ++ a3 ++ a4 ++ a5 ++ a6 ++ a7 : BitVec 32).extractLsb' 0 7 = a7 :=
  (extract_low (m := 25) (n := 7) _ _ 0 7 (by decide)).trans <|
    extract_all a7

theorem field9_28 (a0 : BitVec 4) (a1 : BitVec 3) (a2 : BitVec 5) (a3 : BitVec 5) (a4 : BitVec 3) (a5 : BitVec 5) (a6 : BitVec 7) :
    (a0 ++ a1 ++ a2 ++ a3 ++ a4 ++ a5 ++ a6 : BitVec 32).extractLsb' 28 4 = a0 :=
  (extract_high (m := 25) (n := 7) _ _ 28 4 (by decide)).trans <|
    (extract_high (m := 20) (n := 5) _ _ 21 4 (by decide)).trans <|
    (extract_high (m := 17) (n := 3) _ _ 16 4 (by decide)).trans <|
    (extract_high (m := 12) (n := 5) _ _ 13 4 (by decide)).trans <|
    (extract_high (m := 7) (n := 5) _ _ 8 4 (by decide)).trans <|
    (extract_high (m := 4) (n := 3) _ _ 3 4 (by decide)).trans <|
    extract_all a0

theorem field9_25 (a0 : BitVec 4) (a1 : BitVec 3) (a2 : BitVec 5) (a3 : BitVec 5) (a4 : BitVec 3) (a5 : BitVec 5) (a6 : BitVec 7) :
    (a0 ++ a1 ++ a2 ++ a3 ++ a4 ++ a5 ++ a6 : BitVec 32).extractLsb' 25 3 = a1 :=
  (extract_high (m := 25) (n := 7) _ _ 25 3 (by decide)).trans <|
    (extract_high (m := 20) (n := 5) _ _ 18 3 (by decide)).trans <|
    (extract_high (m := 17) (n := 3) _ _ 13 3 (by decide)).trans <|
    (extract_high (m := 12) (n := 5) _ _ 10 3 (by decide)).trans <|
    (extract_high (m := 7) (n := 5) _ _ 5 3 (by decide)).trans <|
    (extract_low (m := 4) (n := 3) _ _ 0 3 (by decide)).trans <|
    extract_all a1

theorem field9_20 (a0 : BitVec 4) (a1 : BitVec 3) (a2 : BitVec 5) (a3 : BitVec 5) (a4 : BitVec 3) (a5 : BitVec 5) (a6 : BitVec 7) :
    (a0 ++ a1 ++ a2 ++ a3 ++ a4 ++ a5 ++ a6 : BitVec 32).extractLsb' 20 5 = a2 :=
  (extract_high (m := 25) (n := 7) _ _ 20 5 (by decide)).trans <|
    (extract_high (m := 20) (n := 5) _ _ 13 5 (by decide)).trans <|
    (extract_high (m := 17) (n := 3) _ _ 8 5 (by decide)).trans <|
    (extract_high (m := 12) (n := 5) _ _ 5 5 (by decide)).trans <|
    (extract_low (m := 7) (n := 5) _ _ 0 5 (by decide)).trans <|
    extract_all a2

theorem field9_15 (a0 : BitVec 4) (a1 : BitVec 3) (a2 : BitVec 5) (a3 : BitVec 5) (a4 : BitVec 3) (a5 : BitVec 5) (a6 : BitVec 7) :
    (a0 ++ a1 ++ a2 ++ a3 ++ a4 ++ a5 ++ a6 : BitVec 32).extractLsb' 15 5 = a3 :=
  (extract_high (m := 25) (n := 7) _ _ 15 5 (by decide)).trans <|
    (extract_high (m := 20) (n := 5) _ _ 8 5 (by decide)).trans <|
    (extract_high (m := 17) (n := 3) _ _ 3 5 (by decide)).trans <|
    (extract_low (m := 12) (n := 5) _ _ 0 5 (by decide)).trans <|
    extract_all a3

theorem field9_12 (a0 : BitVec 4) (a1 : BitVec 3) (a2 : BitVec 5) (a3 : BitVec 5) (a4 : BitVec 3) (a5 : BitVec 5) (a6 : BitVec 7) :
    (a0 ++ a1 ++ a2 ++ a3 ++ a4 ++ a5 ++ a6 : BitVec 32).extractLsb' 12 3 = a4 :=
  (extract_high (m := 25) (n := 7) _ _ 12 3 (by decide)).trans <|
    (extract_high (m := 20) (n := 5) _ _ 5 3 (by decide)).trans <|
    (extract_low (m := 17) (n := 3) _ _ 0 3 (by decide)).trans <|
    extract_all a4

theorem field9_7 (a0 : BitVec 4) (a1 : BitVec 3) (a2 : BitVec 5) (a3 : BitVec 5) (a4 : BitVec 3) (a5 : BitVec 5) (a6 : BitVec 7) :
    (a0 ++ a1 ++ a2 ++ a3 ++ a4 ++ a5 ++ a6 : BitVec 32).extractLsb' 7 5 = a5 :=
  (extract_high (m := 25) (n := 7) _ _ 7 5 (by decide)).trans <|
    (extract_low (m := 20) (n := 5) _ _ 0 5 (by decide)).trans <|
    extract_all a5

theorem field9_0 (a0 : BitVec 4) (a1 : BitVec 3) (a2 : BitVec 5) (a3 : BitVec 5) (a4 : BitVec 3) (a5 : BitVec 5) (a6 : BitVec 7) :
    (a0 ++ a1 ++ a2 ++ a3 ++ a4 ++ a5 ++ a6 : BitVec 32).extractLsb' 0 7 = a6 :=
  (extract_low (m := 25) (n := 7) _ _ 0 7 (by decide)).trans <|
    extract_all a6

theorem field10_25 (a0 : BitVec 7) (a1 : BitVec 5) (a2 : BitVec 5) (a3 : BitVec 3) (a4 : BitVec 1) (a5 : BitVec 4) (a6 : BitVec 7) :
    (a0 ++ a1 ++ a2 ++ a3 ++ a4 ++ a5 ++ a6 : BitVec 32).extractLsb' 25 7 = a0 :=
  (extract_high (m := 25) (n := 7) _ _ 25 7 (by decide)).trans <|
    (extract_high (m := 21) (n := 4) _ _ 18 7 (by decide)).trans <|
    (extract_high (m := 20) (n := 1) _ _ 14 7 (by decide)).trans <|
    (extract_high (m := 17) (n := 3) _ _ 13 7 (by decide)).trans <|
    (extract_high (m := 12) (n := 5) _ _ 10 7 (by decide)).trans <|
    (extract_high (m := 7) (n := 5) _ _ 5 7 (by decide)).trans <|
    extract_all a0

theorem field10_20 (a0 : BitVec 7) (a1 : BitVec 5) (a2 : BitVec 5) (a3 : BitVec 3) (a4 : BitVec 1) (a5 : BitVec 4) (a6 : BitVec 7) :
    (a0 ++ a1 ++ a2 ++ a3 ++ a4 ++ a5 ++ a6 : BitVec 32).extractLsb' 20 5 = a1 :=
  (extract_high (m := 25) (n := 7) _ _ 20 5 (by decide)).trans <|
    (extract_high (m := 21) (n := 4) _ _ 13 5 (by decide)).trans <|
    (extract_high (m := 20) (n := 1) _ _ 9 5 (by decide)).trans <|
    (extract_high (m := 17) (n := 3) _ _ 8 5 (by decide)).trans <|
    (extract_high (m := 12) (n := 5) _ _ 5 5 (by decide)).trans <|
    (extract_low (m := 7) (n := 5) _ _ 0 5 (by decide)).trans <|
    extract_all a1

theorem field10_15 (a0 : BitVec 7) (a1 : BitVec 5) (a2 : BitVec 5) (a3 : BitVec 3) (a4 : BitVec 1) (a5 : BitVec 4) (a6 : BitVec 7) :
    (a0 ++ a1 ++ a2 ++ a3 ++ a4 ++ a5 ++ a6 : BitVec 32).extractLsb' 15 5 = a2 :=
  (extract_high (m := 25) (n := 7) _ _ 15 5 (by decide)).trans <|
    (extract_high (m := 21) (n := 4) _ _ 8 5 (by decide)).trans <|
    (extract_high (m := 20) (n := 1) _ _ 4 5 (by decide)).trans <|
    (extract_high (m := 17) (n := 3) _ _ 3 5 (by decide)).trans <|
    (extract_low (m := 12) (n := 5) _ _ 0 5 (by decide)).trans <|
    extract_all a2

theorem field10_12 (a0 : BitVec 7) (a1 : BitVec 5) (a2 : BitVec 5) (a3 : BitVec 3) (a4 : BitVec 1) (a5 : BitVec 4) (a6 : BitVec 7) :
    (a0 ++ a1 ++ a2 ++ a3 ++ a4 ++ a5 ++ a6 : BitVec 32).extractLsb' 12 3 = a3 :=
  (extract_high (m := 25) (n := 7) _ _ 12 3 (by decide)).trans <|
    (extract_high (m := 21) (n := 4) _ _ 5 3 (by decide)).trans <|
    (extract_high (m := 20) (n := 1) _ _ 1 3 (by decide)).trans <|
    (extract_low (m := 17) (n := 3) _ _ 0 3 (by decide)).trans <|
    extract_all a3

theorem field10_11 (a0 : BitVec 7) (a1 : BitVec 5) (a2 : BitVec 5) (a3 : BitVec 3) (a4 : BitVec 1) (a5 : BitVec 4) (a6 : BitVec 7) :
    (a0 ++ a1 ++ a2 ++ a3 ++ a4 ++ a5 ++ a6 : BitVec 32).extractLsb' 11 1 = a4 :=
  (extract_high (m := 25) (n := 7) _ _ 11 1 (by decide)).trans <|
    (extract_high (m := 21) (n := 4) _ _ 4 1 (by decide)).trans <|
    (extract_low (m := 20) (n := 1) _ _ 0 1 (by decide)).trans <|
    extract_all a4

theorem field10_7 (a0 : BitVec 7) (a1 : BitVec 5) (a2 : BitVec 5) (a3 : BitVec 3) (a4 : BitVec 1) (a5 : BitVec 4) (a6 : BitVec 7) :
    (a0 ++ a1 ++ a2 ++ a3 ++ a4 ++ a5 ++ a6 : BitVec 32).extractLsb' 7 4 = a5 :=
  (extract_high (m := 25) (n := 7) _ _ 7 4 (by decide)).trans <|
    (extract_low (m := 21) (n := 4) _ _ 0 4 (by decide)).trans <|
    extract_all a5

theorem field10_0 (a0 : BitVec 7) (a1 : BitVec 5) (a2 : BitVec 5) (a3 : BitVec 3) (a4 : BitVec 1) (a5 : BitVec 4) (a6 : BitVec 7) :
    (a0 ++ a1 ++ a2 ++ a3 ++ a4 ++ a5 ++ a6 : BitVec 32).extractLsb' 0 7 = a6 :=
  (extract_low (m := 25) (n := 7) _ _ 0 7 (by decide)).trans <|
    extract_all a6

theorem field11_25 (a0 : BitVec 7) (a1 : BitVec 5) (a2 : BitVec 1) (a3 : BitVec 4) (a4 : BitVec 3) (a5 : BitVec 5) (a6 : BitVec 7) :
    (a0 ++ a1 ++ a2 ++ a3 ++ a4 ++ a5 ++ a6 : BitVec 32).extractLsb' 25 7 = a0 :=
  (extract_high (m := 25) (n := 7) _ _ 25 7 (by decide)).trans <|
    (extract_high (m := 20) (n := 5) _ _ 18 7 (by decide)).trans <|
    (extract_high (m := 17) (n := 3) _ _ 13 7 (by decide)).trans <|
    (extract_high (m := 13) (n := 4) _ _ 10 7 (by decide)).trans <|
    (extract_high (m := 12) (n := 1) _ _ 6 7 (by decide)).trans <|
    (extract_high (m := 7) (n := 5) _ _ 5 7 (by decide)).trans <|
    extract_all a0

theorem field11_20 (a0 : BitVec 7) (a1 : BitVec 5) (a2 : BitVec 1) (a3 : BitVec 4) (a4 : BitVec 3) (a5 : BitVec 5) (a6 : BitVec 7) :
    (a0 ++ a1 ++ a2 ++ a3 ++ a4 ++ a5 ++ a6 : BitVec 32).extractLsb' 20 5 = a1 :=
  (extract_high (m := 25) (n := 7) _ _ 20 5 (by decide)).trans <|
    (extract_high (m := 20) (n := 5) _ _ 13 5 (by decide)).trans <|
    (extract_high (m := 17) (n := 3) _ _ 8 5 (by decide)).trans <|
    (extract_high (m := 13) (n := 4) _ _ 5 5 (by decide)).trans <|
    (extract_high (m := 12) (n := 1) _ _ 1 5 (by decide)).trans <|
    (extract_low (m := 7) (n := 5) _ _ 0 5 (by decide)).trans <|
    extract_all a1

theorem field11_19 (a0 : BitVec 7) (a1 : BitVec 5) (a2 : BitVec 1) (a3 : BitVec 4) (a4 : BitVec 3) (a5 : BitVec 5) (a6 : BitVec 7) :
    (a0 ++ a1 ++ a2 ++ a3 ++ a4 ++ a5 ++ a6 : BitVec 32).extractLsb' 19 1 = a2 :=
  (extract_high (m := 25) (n := 7) _ _ 19 1 (by decide)).trans <|
    (extract_high (m := 20) (n := 5) _ _ 12 1 (by decide)).trans <|
    (extract_high (m := 17) (n := 3) _ _ 7 1 (by decide)).trans <|
    (extract_high (m := 13) (n := 4) _ _ 4 1 (by decide)).trans <|
    (extract_low (m := 12) (n := 1) _ _ 0 1 (by decide)).trans <|
    extract_all a2

theorem field11_15 (a0 : BitVec 7) (a1 : BitVec 5) (a2 : BitVec 1) (a3 : BitVec 4) (a4 : BitVec 3) (a5 : BitVec 5) (a6 : BitVec 7) :
    (a0 ++ a1 ++ a2 ++ a3 ++ a4 ++ a5 ++ a6 : BitVec 32).extractLsb' 15 4 = a3 :=
  (extract_high (m := 25) (n := 7) _ _ 15 4 (by decide)).trans <|
    (extract_high (m := 20) (n := 5) _ _ 8 4 (by decide)).trans <|
    (extract_high (m := 17) (n := 3) _ _ 3 4 (by decide)).trans <|
    (extract_low (m := 13) (n := 4) _ _ 0 4 (by decide)).trans <|
    extract_all a3

theorem field11_12 (a0 : BitVec 7) (a1 : BitVec 5) (a2 : BitVec 1) (a3 : BitVec 4) (a4 : BitVec 3) (a5 : BitVec 5) (a6 : BitVec 7) :
    (a0 ++ a1 ++ a2 ++ a3 ++ a4 ++ a5 ++ a6 : BitVec 32).extractLsb' 12 3 = a4 :=
  (extract_high (m := 25) (n := 7) _ _ 12 3 (by decide)).trans <|
    (extract_high (m := 20) (n := 5) _ _ 5 3 (by decide)).trans <|
    (extract_low (m := 17) (n := 3) _ _ 0 3 (by decide)).trans <|
    extract_all a4

theorem field11_7 (a0 : BitVec 7) (a1 : BitVec 5) (a2 : BitVec 1) (a3 : BitVec 4) (a4 : BitVec 3) (a5 : BitVec 5) (a6 : BitVec 7) :
    (a0 ++ a1 ++ a2 ++ a3 ++ a4 ++ a5 ++ a6 : BitVec 32).extractLsb' 7 5 = a5 :=
  (extract_high (m := 25) (n := 7) _ _ 7 5 (by decide)).trans <|
    (extract_low (m := 20) (n := 5) _ _ 0 5 (by decide)).trans <|
    extract_all a5

theorem field11_0 (a0 : BitVec 7) (a1 : BitVec 5) (a2 : BitVec 1) (a3 : BitVec 4) (a4 : BitVec 3) (a5 : BitVec 5) (a6 : BitVec 7) :
    (a0 ++ a1 ++ a2 ++ a3 ++ a4 ++ a5 ++ a6 : BitVec 32).extractLsb' 0 7 = a6 :=
  (extract_low (m := 25) (n := 7) _ _ 0 7 (by decide)).trans <|
    extract_all a6

theorem field12_25 (a0 : BitVec 7) (a1 : BitVec 5) (a2 : BitVec 3) (a3 : BitVec 2) (a4 : BitVec 3) (a5 : BitVec 5) (a6 : BitVec 7) :
    (a0 ++ a1 ++ a2 ++ a3 ++ a4 ++ a5 ++ a6 : BitVec 32).extractLsb' 25 7 = a0 :=
  (extract_high (m := 25) (n := 7) _ _ 25 7 (by decide)).trans <|
    (extract_high (m := 20) (n := 5) _ _ 18 7 (by decide)).trans <|
    (extract_high (m := 17) (n := 3) _ _ 13 7 (by decide)).trans <|
    (extract_high (m := 15) (n := 2) _ _ 10 7 (by decide)).trans <|
    (extract_high (m := 12) (n := 3) _ _ 8 7 (by decide)).trans <|
    (extract_high (m := 7) (n := 5) _ _ 5 7 (by decide)).trans <|
    extract_all a0

theorem field12_20 (a0 : BitVec 7) (a1 : BitVec 5) (a2 : BitVec 3) (a3 : BitVec 2) (a4 : BitVec 3) (a5 : BitVec 5) (a6 : BitVec 7) :
    (a0 ++ a1 ++ a2 ++ a3 ++ a4 ++ a5 ++ a6 : BitVec 32).extractLsb' 20 5 = a1 :=
  (extract_high (m := 25) (n := 7) _ _ 20 5 (by decide)).trans <|
    (extract_high (m := 20) (n := 5) _ _ 13 5 (by decide)).trans <|
    (extract_high (m := 17) (n := 3) _ _ 8 5 (by decide)).trans <|
    (extract_high (m := 15) (n := 2) _ _ 5 5 (by decide)).trans <|
    (extract_high (m := 12) (n := 3) _ _ 3 5 (by decide)).trans <|
    (extract_low (m := 7) (n := 5) _ _ 0 5 (by decide)).trans <|
    extract_all a1

theorem field12_17 (a0 : BitVec 7) (a1 : BitVec 5) (a2 : BitVec 3) (a3 : BitVec 2) (a4 : BitVec 3) (a5 : BitVec 5) (a6 : BitVec 7) :
    (a0 ++ a1 ++ a2 ++ a3 ++ a4 ++ a5 ++ a6 : BitVec 32).extractLsb' 17 3 = a2 :=
  (extract_high (m := 25) (n := 7) _ _ 17 3 (by decide)).trans <|
    (extract_high (m := 20) (n := 5) _ _ 10 3 (by decide)).trans <|
    (extract_high (m := 17) (n := 3) _ _ 5 3 (by decide)).trans <|
    (extract_high (m := 15) (n := 2) _ _ 2 3 (by decide)).trans <|
    (extract_low (m := 12) (n := 3) _ _ 0 3 (by decide)).trans <|
    extract_all a2

theorem field12_15 (a0 : BitVec 7) (a1 : BitVec 5) (a2 : BitVec 3) (a3 : BitVec 2) (a4 : BitVec 3) (a5 : BitVec 5) (a6 : BitVec 7) :
    (a0 ++ a1 ++ a2 ++ a3 ++ a4 ++ a5 ++ a6 : BitVec 32).extractLsb' 15 2 = a3 :=
  (extract_high (m := 25) (n := 7) _ _ 15 2 (by decide)).trans <|
    (extract_high (m := 20) (n := 5) _ _ 8 2 (by decide)).trans <|
    (extract_high (m := 17) (n := 3) _ _ 3 2 (by decide)).trans <|
    (extract_low (m := 15) (n := 2) _ _ 0 2 (by decide)).trans <|
    extract_all a3

theorem field12_12 (a0 : BitVec 7) (a1 : BitVec 5) (a2 : BitVec 3) (a3 : BitVec 2) (a4 : BitVec 3) (a5 : BitVec 5) (a6 : BitVec 7) :
    (a0 ++ a1 ++ a2 ++ a3 ++ a4 ++ a5 ++ a6 : BitVec 32).extractLsb' 12 3 = a4 :=
  (extract_high (m := 25) (n := 7) _ _ 12 3 (by decide)).trans <|
    (extract_high (m := 20) (n := 5) _ _ 5 3 (by decide)).trans <|
    (extract_low (m := 17) (n := 3) _ _ 0 3 (by decide)).trans <|
    extract_all a4

theorem field12_7 (a0 : BitVec 7) (a1 : BitVec 5) (a2 : BitVec 3) (a3 : BitVec 2) (a4 : BitVec 3) (a5 : BitVec 5) (a6 : BitVec 7) :
    (a0 ++ a1 ++ a2 ++ a3 ++ a4 ++ a5 ++ a6 : BitVec 32).extractLsb' 7 5 = a5 :=
  (extract_high (m := 25) (n := 7) _ _ 7 5 (by decide)).trans <|
    (extract_low (m := 20) (n := 5) _ _ 0 5 (by decide)).trans <|
    extract_all a5

theorem field12_0 (a0 : BitVec 7) (a1 : BitVec 5) (a2 : BitVec 3) (a3 : BitVec 2) (a4 : BitVec 3) (a5 : BitVec 5) (a6 : BitVec 7) :
    (a0 ++ a1 ++ a2 ++ a3 ++ a4 ++ a5 ++ a6 : BitVec 32).extractLsb' 0 7 = a6 :=
  (extract_low (m := 25) (n := 7) _ _ 0 7 (by decide)).trans <|
    extract_all a6

theorem field13_25 (a0 : BitVec 7) (a1 : BitVec 5) (a2 : BitVec 5) (a3 : BitVec 3) (a4 : BitVec 2) (a5 : BitVec 3) (a6 : BitVec 7) :
    (a0 ++ a1 ++ a2 ++ a3 ++ a4 ++ a5 ++ a6 : BitVec 32).extractLsb' 25 7 = a0 :=
  (extract_high (m := 25) (n := 7) _ _ 25 7 (by decide)).trans <|
    (extract_high (m := 22) (n := 3) _ _ 18 7 (by decide)).trans <|
    (extract_high (m := 20) (n := 2) _ _ 15 7 (by decide)).trans <|
    (extract_high (m := 17) (n := 3) _ _ 13 7 (by decide)).trans <|
    (extract_high (m := 12) (n := 5) _ _ 10 7 (by decide)).trans <|
    (extract_high (m := 7) (n := 5) _ _ 5 7 (by decide)).trans <|
    extract_all a0

theorem field13_20 (a0 : BitVec 7) (a1 : BitVec 5) (a2 : BitVec 5) (a3 : BitVec 3) (a4 : BitVec 2) (a5 : BitVec 3) (a6 : BitVec 7) :
    (a0 ++ a1 ++ a2 ++ a3 ++ a4 ++ a5 ++ a6 : BitVec 32).extractLsb' 20 5 = a1 :=
  (extract_high (m := 25) (n := 7) _ _ 20 5 (by decide)).trans <|
    (extract_high (m := 22) (n := 3) _ _ 13 5 (by decide)).trans <|
    (extract_high (m := 20) (n := 2) _ _ 10 5 (by decide)).trans <|
    (extract_high (m := 17) (n := 3) _ _ 8 5 (by decide)).trans <|
    (extract_high (m := 12) (n := 5) _ _ 5 5 (by decide)).trans <|
    (extract_low (m := 7) (n := 5) _ _ 0 5 (by decide)).trans <|
    extract_all a1

theorem field13_15 (a0 : BitVec 7) (a1 : BitVec 5) (a2 : BitVec 5) (a3 : BitVec 3) (a4 : BitVec 2) (a5 : BitVec 3) (a6 : BitVec 7) :
    (a0 ++ a1 ++ a2 ++ a3 ++ a4 ++ a5 ++ a6 : BitVec 32).extractLsb' 15 5 = a2 :=
  (extract_high (m := 25) (n := 7) _ _ 15 5 (by decide)).trans <|
    (extract_high (m := 22) (n := 3) _ _ 8 5 (by decide)).trans <|
    (extract_high (m := 20) (n := 2) _ _ 5 5 (by decide)).trans <|
    (extract_high (m := 17) (n := 3) _ _ 3 5 (by decide)).trans <|
    (extract_low (m := 12) (n := 5) _ _ 0 5 (by decide)).trans <|
    extract_all a2

theorem field13_12 (a0 : BitVec 7) (a1 : BitVec 5) (a2 : BitVec 5) (a3 : BitVec 3) (a4 : BitVec 2) (a5 : BitVec 3) (a6 : BitVec 7) :
    (a0 ++ a1 ++ a2 ++ a3 ++ a4 ++ a5 ++ a6 : BitVec 32).extractLsb' 12 3 = a3 :=
  (extract_high (m := 25) (n := 7) _ _ 12 3 (by decide)).trans <|
    (extract_high (m := 22) (n := 3) _ _ 5 3 (by decide)).trans <|
    (extract_high (m := 20) (n := 2) _ _ 2 3 (by decide)).trans <|
    (extract_low (m := 17) (n := 3) _ _ 0 3 (by decide)).trans <|
    extract_all a3

theorem field13_10 (a0 : BitVec 7) (a1 : BitVec 5) (a2 : BitVec 5) (a3 : BitVec 3) (a4 : BitVec 2) (a5 : BitVec 3) (a6 : BitVec 7) :
    (a0 ++ a1 ++ a2 ++ a3 ++ a4 ++ a5 ++ a6 : BitVec 32).extractLsb' 10 2 = a4 :=
  (extract_high (m := 25) (n := 7) _ _ 10 2 (by decide)).trans <|
    (extract_high (m := 22) (n := 3) _ _ 3 2 (by decide)).trans <|
    (extract_low (m := 20) (n := 2) _ _ 0 2 (by decide)).trans <|
    extract_all a4

theorem field13_7 (a0 : BitVec 7) (a1 : BitVec 5) (a2 : BitVec 5) (a3 : BitVec 3) (a4 : BitVec 2) (a5 : BitVec 3) (a6 : BitVec 7) :
    (a0 ++ a1 ++ a2 ++ a3 ++ a4 ++ a5 ++ a6 : BitVec 32).extractLsb' 7 3 = a5 :=
  (extract_high (m := 25) (n := 7) _ _ 7 3 (by decide)).trans <|
    (extract_low (m := 22) (n := 3) _ _ 0 3 (by decide)).trans <|
    extract_all a5

theorem field13_0 (a0 : BitVec 7) (a1 : BitVec 5) (a2 : BitVec 5) (a3 : BitVec 3) (a4 : BitVec 2) (a5 : BitVec 3) (a6 : BitVec 7) :
    (a0 ++ a1 ++ a2 ++ a3 ++ a4 ++ a5 ++ a6 : BitVec 32).extractLsb' 0 7 = a6 :=
  (extract_low (m := 25) (n := 7) _ _ 0 7 (by decide)).trans <|
    extract_all a6

theorem field14_25 (a0 : BitVec 7) (a1 : BitVec 5) (a2 : BitVec 2) (a3 : BitVec 3) (a4 : BitVec 3) (a5 : BitVec 5) (a6 : BitVec 7) :
    (a0 ++ a1 ++ a2 ++ a3 ++ a4 ++ a5 ++ a6 : BitVec 32).extractLsb' 25 7 = a0 :=
  (extract_high (m := 25) (n := 7) _ _ 25 7 (by decide)).trans <|
    (extract_high (m := 20) (n := 5) _ _ 18 7 (by decide)).trans <|
    (extract_high (m := 17) (n := 3) _ _ 13 7 (by decide)).trans <|
    (extract_high (m := 14) (n := 3) _ _ 10 7 (by decide)).trans <|
    (extract_high (m := 12) (n := 2) _ _ 7 7 (by decide)).trans <|
    (extract_high (m := 7) (n := 5) _ _ 5 7 (by decide)).trans <|
    extract_all a0

theorem field14_20 (a0 : BitVec 7) (a1 : BitVec 5) (a2 : BitVec 2) (a3 : BitVec 3) (a4 : BitVec 3) (a5 : BitVec 5) (a6 : BitVec 7) :
    (a0 ++ a1 ++ a2 ++ a3 ++ a4 ++ a5 ++ a6 : BitVec 32).extractLsb' 20 5 = a1 :=
  (extract_high (m := 25) (n := 7) _ _ 20 5 (by decide)).trans <|
    (extract_high (m := 20) (n := 5) _ _ 13 5 (by decide)).trans <|
    (extract_high (m := 17) (n := 3) _ _ 8 5 (by decide)).trans <|
    (extract_high (m := 14) (n := 3) _ _ 5 5 (by decide)).trans <|
    (extract_high (m := 12) (n := 2) _ _ 2 5 (by decide)).trans <|
    (extract_low (m := 7) (n := 5) _ _ 0 5 (by decide)).trans <|
    extract_all a1

theorem field14_18 (a0 : BitVec 7) (a1 : BitVec 5) (a2 : BitVec 2) (a3 : BitVec 3) (a4 : BitVec 3) (a5 : BitVec 5) (a6 : BitVec 7) :
    (a0 ++ a1 ++ a2 ++ a3 ++ a4 ++ a5 ++ a6 : BitVec 32).extractLsb' 18 2 = a2 :=
  (extract_high (m := 25) (n := 7) _ _ 18 2 (by decide)).trans <|
    (extract_high (m := 20) (n := 5) _ _ 11 2 (by decide)).trans <|
    (extract_high (m := 17) (n := 3) _ _ 6 2 (by decide)).trans <|
    (extract_high (m := 14) (n := 3) _ _ 3 2 (by decide)).trans <|
    (extract_low (m := 12) (n := 2) _ _ 0 2 (by decide)).trans <|
    extract_all a2

theorem field14_15 (a0 : BitVec 7) (a1 : BitVec 5) (a2 : BitVec 2) (a3 : BitVec 3) (a4 : BitVec 3) (a5 : BitVec 5) (a6 : BitVec 7) :
    (a0 ++ a1 ++ a2 ++ a3 ++ a4 ++ a5 ++ a6 : BitVec 32).extractLsb' 15 3 = a3 :=
  (extract_high (m := 25) (n := 7) _ _ 15 3 (by decide)).trans <|
    (extract_high (m := 20) (n := 5) _ _ 8 3 (by decide)).trans <|
    (extract_high (m := 17) (n := 3) _ _ 3 3 (by decide)).trans <|
    (extract_low (m := 14) (n := 3) _ _ 0 3 (by decide)).trans <|
    extract_all a3

theorem field14_12 (a0 : BitVec 7) (a1 : BitVec 5) (a2 : BitVec 2) (a3 : BitVec 3) (a4 : BitVec 3) (a5 : BitVec 5) (a6 : BitVec 7) :
    (a0 ++ a1 ++ a2 ++ a3 ++ a4 ++ a5 ++ a6 : BitVec 32).extractLsb' 12 3 = a4 :=
  (extract_high (m := 25) (n := 7) _ _ 12 3 (by decide)).trans <|
    (extract_high (m := 20) (n := 5) _ _ 5 3 (by decide)).trans <|
    (extract_low (m := 17) (n := 3) _ _ 0 3 (by decide)).trans <|
    extract_all a4

theorem field14_7 (a0 : BitVec 7) (a1 : BitVec 5) (a2 : BitVec 2) (a3 : BitVec 3) (a4 : BitVec 3) (a5 : BitVec 5) (a6 : BitVec 7) :
    (a0 ++ a1 ++ a2 ++ a3 ++ a4 ++ a5 ++ a6 : BitVec 32).extractLsb' 7 5 = a5 :=
  (extract_high (m := 25) (n := 7) _ _ 7 5 (by decide)).trans <|
    (extract_low (m := 20) (n := 5) _ _ 0 5 (by decide)).trans <|
    extract_all a5

theorem field14_0 (a0 : BitVec 7) (a1 : BitVec 5) (a2 : BitVec 2) (a3 : BitVec 3) (a4 : BitVec 3) (a5 : BitVec 5) (a6 : BitVec 7) :
    (a0 ++ a1 ++ a2 ++ a3 ++ a4 ++ a5 ++ a6 : BitVec 32).extractLsb' 0 7 = a6 :=
  (extract_low (m := 25) (n := 7) _ _ 0 7 (by decide)).trans <|
    extract_all a6

theorem field15_27 (a0 : BitVec 5) (a1 : BitVec 3) (a2 : BitVec 5) (a3 : BitVec 4) (a4 : BitVec 1) (a5 : BitVec 2) (a6 : BitVec 4) (a7 : BitVec 1) (a8 : BitVec 7) :
    (a0 ++ a1 ++ a2 ++ a3 ++ a4 ++ a5 ++ a6 ++ a7 ++ a8 : BitVec 32).extractLsb' 27 5 = a0 :=
  (extract_high (m := 25) (n := 7) _ _ 27 5 (by decide)).trans <|
    (extract_high (m := 24) (n := 1) _ _ 20 5 (by decide)).trans <|
    (extract_high (m := 20) (n := 4) _ _ 19 5 (by decide)).trans <|
    (extract_high (m := 18) (n := 2) _ _ 15 5 (by decide)).trans <|
    (extract_high (m := 17) (n := 1) _ _ 13 5 (by decide)).trans <|
    (extract_high (m := 13) (n := 4) _ _ 12 5 (by decide)).trans <|
    (extract_high (m := 8) (n := 5) _ _ 8 5 (by decide)).trans <|
    (extract_high (m := 5) (n := 3) _ _ 3 5 (by decide)).trans <|
    extract_all a0

theorem field15_24 (a0 : BitVec 5) (a1 : BitVec 3) (a2 : BitVec 5) (a3 : BitVec 4) (a4 : BitVec 1) (a5 : BitVec 2) (a6 : BitVec 4) (a7 : BitVec 1) (a8 : BitVec 7) :
    (a0 ++ a1 ++ a2 ++ a3 ++ a4 ++ a5 ++ a6 ++ a7 ++ a8 : BitVec 32).extractLsb' 24 3 = a1 :=
  (extract_high (m := 25) (n := 7) _ _ 24 3 (by decide)).trans <|
    (extract_high (m := 24) (n := 1) _ _ 17 3 (by decide)).trans <|
    (extract_high (m := 20) (n := 4) _ _ 16 3 (by decide)).trans <|
    (extract_high (m := 18) (n := 2) _ _ 12 3 (by decide)).trans <|
    (extract_high (m := 17) (n := 1) _ _ 10 3 (by decide)).trans <|
    (extract_high (m := 13) (n := 4) _ _ 9 3 (by decide)).trans <|
    (extract_high (m := 8) (n := 5) _ _ 5 3 (by decide)).trans <|
    (extract_low (m := 5) (n := 3) _ _ 0 3 (by decide)).trans <|
    extract_all a1

theorem field15_19 (a0 : BitVec 5) (a1 : BitVec 3) (a2 : BitVec 5) (a3 : BitVec 4) (a4 : BitVec 1) (a5 : BitVec 2) (a6 : BitVec 4) (a7 : BitVec 1) (a8 : BitVec 7) :
    (a0 ++ a1 ++ a2 ++ a3 ++ a4 ++ a5 ++ a6 ++ a7 ++ a8 : BitVec 32).extractLsb' 19 5 = a2 :=
  (extract_high (m := 25) (n := 7) _ _ 19 5 (by decide)).trans <|
    (extract_high (m := 24) (n := 1) _ _ 12 5 (by decide)).trans <|
    (extract_high (m := 20) (n := 4) _ _ 11 5 (by decide)).trans <|
    (extract_high (m := 18) (n := 2) _ _ 7 5 (by decide)).trans <|
    (extract_high (m := 17) (n := 1) _ _ 5 5 (by decide)).trans <|
    (extract_high (m := 13) (n := 4) _ _ 4 5 (by decide)).trans <|
    (extract_low (m := 8) (n := 5) _ _ 0 5 (by decide)).trans <|
    extract_all a2

theorem field15_15 (a0 : BitVec 5) (a1 : BitVec 3) (a2 : BitVec 5) (a3 : BitVec 4) (a4 : BitVec 1) (a5 : BitVec 2) (a6 : BitVec 4) (a7 : BitVec 1) (a8 : BitVec 7) :
    (a0 ++ a1 ++ a2 ++ a3 ++ a4 ++ a5 ++ a6 ++ a7 ++ a8 : BitVec 32).extractLsb' 15 4 = a3 :=
  (extract_high (m := 25) (n := 7) _ _ 15 4 (by decide)).trans <|
    (extract_high (m := 24) (n := 1) _ _ 8 4 (by decide)).trans <|
    (extract_high (m := 20) (n := 4) _ _ 7 4 (by decide)).trans <|
    (extract_high (m := 18) (n := 2) _ _ 3 4 (by decide)).trans <|
    (extract_high (m := 17) (n := 1) _ _ 1 4 (by decide)).trans <|
    (extract_low (m := 13) (n := 4) _ _ 0 4 (by decide)).trans <|
    extract_all a3

theorem field15_14 (a0 : BitVec 5) (a1 : BitVec 3) (a2 : BitVec 5) (a3 : BitVec 4) (a4 : BitVec 1) (a5 : BitVec 2) (a6 : BitVec 4) (a7 : BitVec 1) (a8 : BitVec 7) :
    (a0 ++ a1 ++ a2 ++ a3 ++ a4 ++ a5 ++ a6 ++ a7 ++ a8 : BitVec 32).extractLsb' 14 1 = a4 :=
  (extract_high (m := 25) (n := 7) _ _ 14 1 (by decide)).trans <|
    (extract_high (m := 24) (n := 1) _ _ 7 1 (by decide)).trans <|
    (extract_high (m := 20) (n := 4) _ _ 6 1 (by decide)).trans <|
    (extract_high (m := 18) (n := 2) _ _ 2 1 (by decide)).trans <|
    (extract_low (m := 17) (n := 1) _ _ 0 1 (by decide)).trans <|
    extract_all a4

theorem field15_12 (a0 : BitVec 5) (a1 : BitVec 3) (a2 : BitVec 5) (a3 : BitVec 4) (a4 : BitVec 1) (a5 : BitVec 2) (a6 : BitVec 4) (a7 : BitVec 1) (a8 : BitVec 7) :
    (a0 ++ a1 ++ a2 ++ a3 ++ a4 ++ a5 ++ a6 ++ a7 ++ a8 : BitVec 32).extractLsb' 12 2 = a5 :=
  (extract_high (m := 25) (n := 7) _ _ 12 2 (by decide)).trans <|
    (extract_high (m := 24) (n := 1) _ _ 5 2 (by decide)).trans <|
    (extract_high (m := 20) (n := 4) _ _ 4 2 (by decide)).trans <|
    (extract_low (m := 18) (n := 2) _ _ 0 2 (by decide)).trans <|
    extract_all a5

theorem field15_8 (a0 : BitVec 5) (a1 : BitVec 3) (a2 : BitVec 5) (a3 : BitVec 4) (a4 : BitVec 1) (a5 : BitVec 2) (a6 : BitVec 4) (a7 : BitVec 1) (a8 : BitVec 7) :
    (a0 ++ a1 ++ a2 ++ a3 ++ a4 ++ a5 ++ a6 ++ a7 ++ a8 : BitVec 32).extractLsb' 8 4 = a6 :=
  (extract_high (m := 25) (n := 7) _ _ 8 4 (by decide)).trans <|
    (extract_high (m := 24) (n := 1) _ _ 1 4 (by decide)).trans <|
    (extract_low (m := 20) (n := 4) _ _ 0 4 (by decide)).trans <|
    extract_all a6

theorem field15_7 (a0 : BitVec 5) (a1 : BitVec 3) (a2 : BitVec 5) (a3 : BitVec 4) (a4 : BitVec 1) (a5 : BitVec 2) (a6 : BitVec 4) (a7 : BitVec 1) (a8 : BitVec 7) :
    (a0 ++ a1 ++ a2 ++ a3 ++ a4 ++ a5 ++ a6 ++ a7 ++ a8 : BitVec 32).extractLsb' 7 1 = a7 :=
  (extract_high (m := 25) (n := 7) _ _ 7 1 (by decide)).trans <|
    (extract_low (m := 24) (n := 1) _ _ 0 1 (by decide)).trans <|
    extract_all a7

theorem field15_0 (a0 : BitVec 5) (a1 : BitVec 3) (a2 : BitVec 5) (a3 : BitVec 4) (a4 : BitVec 1) (a5 : BitVec 2) (a6 : BitVec 4) (a7 : BitVec 1) (a8 : BitVec 7) :
    (a0 ++ a1 ++ a2 ++ a3 ++ a4 ++ a5 ++ a6 ++ a7 ++ a8 : BitVec 32).extractLsb' 0 7 = a8 :=
  (extract_low (m := 25) (n := 7) _ _ 0 7 (by decide)).trans <|
    extract_all a8

theorem field16_27 (a0 : BitVec 5) (a1 : BitVec 3) (a2 : BitVec 4) (a3 : BitVec 1) (a4 : BitVec 4) (a5 : BitVec 1) (a6 : BitVec 2) (a7 : BitVec 4) (a8 : BitVec 1) (a9 : BitVec 7) :
    (a0 ++ a1 ++ a2 ++ a3 ++ a4 ++ a5 ++ a6 ++ a7 ++ a8 ++ a9 : BitVec 32).extractLsb' 27 5 = a0 :=
  (extract_high (m := 25) (n := 7) _ _ 27 5 (by decide)).trans <|
    (extract_high (m := 24) (n := 1) _ _ 20 5 (by decide)).trans <|
    (extract_high (m := 20) (n := 4) _ _ 19 5 (by decide)).trans <|
    (extract_high (m := 18) (n := 2) _ _ 15 5 (by decide)).trans <|
    (extract_high (m := 17) (n := 1) _ _ 13 5 (by decide)).trans <|
    (extract_high (m := 13) (n := 4) _ _ 12 5 (by decide)).trans <|
    (extract_high (m := 12) (n := 1) _ _ 8 5 (by decide)).trans <|
    (extract_high (m := 8) (n := 4) _ _ 7 5 (by decide)).trans <|
    (extract_high (m := 5) (n := 3) _ _ 3 5 (by decide)).trans <|
    extract_all a0

theorem field16_24 (a0 : BitVec 5) (a1 : BitVec 3) (a2 : BitVec 4) (a3 : BitVec 1) (a4 : BitVec 4) (a5 : BitVec 1) (a6 : BitVec 2) (a7 : BitVec 4) (a8 : BitVec 1) (a9 : BitVec 7) :
    (a0 ++ a1 ++ a2 ++ a3 ++ a4 ++ a5 ++ a6 ++ a7 ++ a8 ++ a9 : BitVec 32).extractLsb' 24 3 = a1 :=
  (extract_high (m := 25) (n := 7) _ _ 24 3 (by decide)).trans <|
    (extract_high (m := 24) (n := 1) _ _ 17 3 (by decide)).trans <|
    (extract_high (m := 20) (n := 4) _ _ 16 3 (by decide)).trans <|
    (extract_high (m := 18) (n := 2) _ _ 12 3 (by decide)).trans <|
    (extract_high (m := 17) (n := 1) _ _ 10 3 (by decide)).trans <|
    (extract_high (m := 13) (n := 4) _ _ 9 3 (by decide)).trans <|
    (extract_high (m := 12) (n := 1) _ _ 5 3 (by decide)).trans <|
    (extract_high (m := 8) (n := 4) _ _ 4 3 (by decide)).trans <|
    (extract_low (m := 5) (n := 3) _ _ 0 3 (by decide)).trans <|
    extract_all a1

theorem field16_20 (a0 : BitVec 5) (a1 : BitVec 3) (a2 : BitVec 4) (a3 : BitVec 1) (a4 : BitVec 4) (a5 : BitVec 1) (a6 : BitVec 2) (a7 : BitVec 4) (a8 : BitVec 1) (a9 : BitVec 7) :
    (a0 ++ a1 ++ a2 ++ a3 ++ a4 ++ a5 ++ a6 ++ a7 ++ a8 ++ a9 : BitVec 32).extractLsb' 20 4 = a2 :=
  (extract_high (m := 25) (n := 7) _ _ 20 4 (by decide)).trans <|
    (extract_high (m := 24) (n := 1) _ _ 13 4 (by decide)).trans <|
    (extract_high (m := 20) (n := 4) _ _ 12 4 (by decide)).trans <|
    (extract_high (m := 18) (n := 2) _ _ 8 4 (by decide)).trans <|
    (extract_high (m := 17) (n := 1) _ _ 6 4 (by decide)).trans <|
    (extract_high (m := 13) (n := 4) _ _ 5 4 (by decide)).trans <|
    (extract_high (m := 12) (n := 1) _ _ 1 4 (by decide)).trans <|
    (extract_low (m := 8) (n := 4) _ _ 0 4 (by decide)).trans <|
    extract_all a2

theorem field16_19 (a0 : BitVec 5) (a1 : BitVec 3) (a2 : BitVec 4) (a3 : BitVec 1) (a4 : BitVec 4) (a5 : BitVec 1) (a6 : BitVec 2) (a7 : BitVec 4) (a8 : BitVec 1) (a9 : BitVec 7) :
    (a0 ++ a1 ++ a2 ++ a3 ++ a4 ++ a5 ++ a6 ++ a7 ++ a8 ++ a9 : BitVec 32).extractLsb' 19 1 = a3 :=
  (extract_high (m := 25) (n := 7) _ _ 19 1 (by decide)).trans <|
    (extract_high (m := 24) (n := 1) _ _ 12 1 (by decide)).trans <|
    (extract_high (m := 20) (n := 4) _ _ 11 1 (by decide)).trans <|
    (extract_high (m := 18) (n := 2) _ _ 7 1 (by decide)).trans <|
    (extract_high (m := 17) (n := 1) _ _ 5 1 (by decide)).trans <|
    (extract_high (m := 13) (n := 4) _ _ 4 1 (by decide)).trans <|
    (extract_low (m := 12) (n := 1) _ _ 0 1 (by decide)).trans <|
    extract_all a3

theorem field16_15 (a0 : BitVec 5) (a1 : BitVec 3) (a2 : BitVec 4) (a3 : BitVec 1) (a4 : BitVec 4) (a5 : BitVec 1) (a6 : BitVec 2) (a7 : BitVec 4) (a8 : BitVec 1) (a9 : BitVec 7) :
    (a0 ++ a1 ++ a2 ++ a3 ++ a4 ++ a5 ++ a6 ++ a7 ++ a8 ++ a9 : BitVec 32).extractLsb' 15 4 = a4 :=
  (extract_high (m := 25) (n := 7) _ _ 15 4 (by decide)).trans <|
    (extract_high (m := 24) (n := 1) _ _ 8 4 (by decide)).trans <|
    (extract_high (m := 20) (n := 4) _ _ 7 4 (by decide)).trans <|
    (extract_high (m := 18) (n := 2) _ _ 3 4 (by decide)).trans <|
    (extract_high (m := 17) (n := 1) _ _ 1 4 (by decide)).trans <|
    (extract_low (m := 13) (n := 4) _ _ 0 4 (by decide)).trans <|
    extract_all a4

theorem field16_14 (a0 : BitVec 5) (a1 : BitVec 3) (a2 : BitVec 4) (a3 : BitVec 1) (a4 : BitVec 4) (a5 : BitVec 1) (a6 : BitVec 2) (a7 : BitVec 4) (a8 : BitVec 1) (a9 : BitVec 7) :
    (a0 ++ a1 ++ a2 ++ a3 ++ a4 ++ a5 ++ a6 ++ a7 ++ a8 ++ a9 : BitVec 32).extractLsb' 14 1 = a5 :=
  (extract_high (m := 25) (n := 7) _ _ 14 1 (by decide)).trans <|
    (extract_high (m := 24) (n := 1) _ _ 7 1 (by decide)).trans <|
    (extract_high (m := 20) (n := 4) _ _ 6 1 (by decide)).trans <|
    (extract_high (m := 18) (n := 2) _ _ 2 1 (by decide)).trans <|
    (extract_low (m := 17) (n := 1) _ _ 0 1 (by decide)).trans <|
    extract_all a5

theorem field16_12 (a0 : BitVec 5) (a1 : BitVec 3) (a2 : BitVec 4) (a3 : BitVec 1) (a4 : BitVec 4) (a5 : BitVec 1) (a6 : BitVec 2) (a7 : BitVec 4) (a8 : BitVec 1) (a9 : BitVec 7) :
    (a0 ++ a1 ++ a2 ++ a3 ++ a4 ++ a5 ++ a6 ++ a7 ++ a8 ++ a9 : BitVec 32).extractLsb' 12 2 = a6 :=
  (extract_high (m := 25) (n := 7) _ _ 12 2 (by decide)).trans <|
    (extract_high (m := 24) (n := 1) _ _ 5 2 (by decide)).trans <|
    (extract_high (m := 20) (n := 4) _ _ 4 2 (by decide)).trans <|
    (extract_low (m := 18) (n := 2) _ _ 0 2 (by decide)).trans <|
    extract_all a6

theorem field16_8 (a0 : BitVec 5) (a1 : BitVec 3) (a2 : BitVec 4) (a3 : BitVec 1) (a4 : BitVec 4) (a5 : BitVec 1) (a6 : BitVec 2) (a7 : BitVec 4) (a8 : BitVec 1) (a9 : BitVec 7) :
    (a0 ++ a1 ++ a2 ++ a3 ++ a4 ++ a5 ++ a6 ++ a7 ++ a8 ++ a9 : BitVec 32).extractLsb' 8 4 = a7 :=
  (extract_high (m := 25) (n := 7) _ _ 8 4 (by decide)).trans <|
    (extract_high (m := 24) (n := 1) _ _ 1 4 (by decide)).trans <|
    (extract_low (m := 20) (n := 4) _ _ 0 4 (by decide)).trans <|
    extract_all a7

theorem field16_7 (a0 : BitVec 5) (a1 : BitVec 3) (a2 : BitVec 4) (a3 : BitVec 1) (a4 : BitVec 4) (a5 : BitVec 1) (a6 : BitVec 2) (a7 : BitVec 4) (a8 : BitVec 1) (a9 : BitVec 7) :
    (a0 ++ a1 ++ a2 ++ a3 ++ a4 ++ a5 ++ a6 ++ a7 ++ a8 ++ a9 : BitVec 32).extractLsb' 7 1 = a8 :=
  (extract_high (m := 25) (n := 7) _ _ 7 1 (by decide)).trans <|
    (extract_low (m := 24) (n := 1) _ _ 0 1 (by decide)).trans <|
    extract_all a8

theorem field16_0 (a0 : BitVec 5) (a1 : BitVec 3) (a2 : BitVec 4) (a3 : BitVec 1) (a4 : BitVec 4) (a5 : BitVec 1) (a6 : BitVec 2) (a7 : BitVec 4) (a8 : BitVec 1) (a9 : BitVec 7) :
    (a0 ++ a1 ++ a2 ++ a3 ++ a4 ++ a5 ++ a6 ++ a7 ++ a8 ++ a9 : BitVec 32).extractLsb' 0 7 = a9 :=
  (extract_low (m := 25) (n := 7) _ _ 0 7 (by decide)).trans <|
    extract_all a9

theorem field17_27 (a0 : BitVec 5) (a1 : BitVec 3) (a2 : BitVec 2) (a3 : BitVec 3) (a4 : BitVec 4) (a5 : BitVec 1) (a6 : BitVec 2) (a7 : BitVec 4) (a8 : BitVec 1) (a9 : BitVec 7) :
    (a0 ++ a1 ++ a2 ++ a3 ++ a4 ++ a5 ++ a6 ++ a7 ++ a8 ++ a9 : BitVec 32).extractLsb' 27 5 = a0 :=
  (extract_high (m := 25) (n := 7) _ _ 27 5 (by decide)).trans <|
    (extract_high (m := 24) (n := 1) _ _ 20 5 (by decide)).trans <|
    (extract_high (m := 20) (n := 4) _ _ 19 5 (by decide)).trans <|
    (extract_high (m := 18) (n := 2) _ _ 15 5 (by decide)).trans <|
    (extract_high (m := 17) (n := 1) _ _ 13 5 (by decide)).trans <|
    (extract_high (m := 13) (n := 4) _ _ 12 5 (by decide)).trans <|
    (extract_high (m := 10) (n := 3) _ _ 8 5 (by decide)).trans <|
    (extract_high (m := 8) (n := 2) _ _ 5 5 (by decide)).trans <|
    (extract_high (m := 5) (n := 3) _ _ 3 5 (by decide)).trans <|
    extract_all a0

theorem field17_24 (a0 : BitVec 5) (a1 : BitVec 3) (a2 : BitVec 2) (a3 : BitVec 3) (a4 : BitVec 4) (a5 : BitVec 1) (a6 : BitVec 2) (a7 : BitVec 4) (a8 : BitVec 1) (a9 : BitVec 7) :
    (a0 ++ a1 ++ a2 ++ a3 ++ a4 ++ a5 ++ a6 ++ a7 ++ a8 ++ a9 : BitVec 32).extractLsb' 24 3 = a1 :=
  (extract_high (m := 25) (n := 7) _ _ 24 3 (by decide)).trans <|
    (extract_high (m := 24) (n := 1) _ _ 17 3 (by decide)).trans <|
    (extract_high (m := 20) (n := 4) _ _ 16 3 (by decide)).trans <|
    (extract_high (m := 18) (n := 2) _ _ 12 3 (by decide)).trans <|
    (extract_high (m := 17) (n := 1) _ _ 10 3 (by decide)).trans <|
    (extract_high (m := 13) (n := 4) _ _ 9 3 (by decide)).trans <|
    (extract_high (m := 10) (n := 3) _ _ 5 3 (by decide)).trans <|
    (extract_high (m := 8) (n := 2) _ _ 2 3 (by decide)).trans <|
    (extract_low (m := 5) (n := 3) _ _ 0 3 (by decide)).trans <|
    extract_all a1

theorem field17_22 (a0 : BitVec 5) (a1 : BitVec 3) (a2 : BitVec 2) (a3 : BitVec 3) (a4 : BitVec 4) (a5 : BitVec 1) (a6 : BitVec 2) (a7 : BitVec 4) (a8 : BitVec 1) (a9 : BitVec 7) :
    (a0 ++ a1 ++ a2 ++ a3 ++ a4 ++ a5 ++ a6 ++ a7 ++ a8 ++ a9 : BitVec 32).extractLsb' 22 2 = a2 :=
  (extract_high (m := 25) (n := 7) _ _ 22 2 (by decide)).trans <|
    (extract_high (m := 24) (n := 1) _ _ 15 2 (by decide)).trans <|
    (extract_high (m := 20) (n := 4) _ _ 14 2 (by decide)).trans <|
    (extract_high (m := 18) (n := 2) _ _ 10 2 (by decide)).trans <|
    (extract_high (m := 17) (n := 1) _ _ 8 2 (by decide)).trans <|
    (extract_high (m := 13) (n := 4) _ _ 7 2 (by decide)).trans <|
    (extract_high (m := 10) (n := 3) _ _ 3 2 (by decide)).trans <|
    (extract_low (m := 8) (n := 2) _ _ 0 2 (by decide)).trans <|
    extract_all a2

theorem field17_19 (a0 : BitVec 5) (a1 : BitVec 3) (a2 : BitVec 2) (a3 : BitVec 3) (a4 : BitVec 4) (a5 : BitVec 1) (a6 : BitVec 2) (a7 : BitVec 4) (a8 : BitVec 1) (a9 : BitVec 7) :
    (a0 ++ a1 ++ a2 ++ a3 ++ a4 ++ a5 ++ a6 ++ a7 ++ a8 ++ a9 : BitVec 32).extractLsb' 19 3 = a3 :=
  (extract_high (m := 25) (n := 7) _ _ 19 3 (by decide)).trans <|
    (extract_high (m := 24) (n := 1) _ _ 12 3 (by decide)).trans <|
    (extract_high (m := 20) (n := 4) _ _ 11 3 (by decide)).trans <|
    (extract_high (m := 18) (n := 2) _ _ 7 3 (by decide)).trans <|
    (extract_high (m := 17) (n := 1) _ _ 5 3 (by decide)).trans <|
    (extract_high (m := 13) (n := 4) _ _ 4 3 (by decide)).trans <|
    (extract_low (m := 10) (n := 3) _ _ 0 3 (by decide)).trans <|
    extract_all a3

theorem field17_15 (a0 : BitVec 5) (a1 : BitVec 3) (a2 : BitVec 2) (a3 : BitVec 3) (a4 : BitVec 4) (a5 : BitVec 1) (a6 : BitVec 2) (a7 : BitVec 4) (a8 : BitVec 1) (a9 : BitVec 7) :
    (a0 ++ a1 ++ a2 ++ a3 ++ a4 ++ a5 ++ a6 ++ a7 ++ a8 ++ a9 : BitVec 32).extractLsb' 15 4 = a4 :=
  (extract_high (m := 25) (n := 7) _ _ 15 4 (by decide)).trans <|
    (extract_high (m := 24) (n := 1) _ _ 8 4 (by decide)).trans <|
    (extract_high (m := 20) (n := 4) _ _ 7 4 (by decide)).trans <|
    (extract_high (m := 18) (n := 2) _ _ 3 4 (by decide)).trans <|
    (extract_high (m := 17) (n := 1) _ _ 1 4 (by decide)).trans <|
    (extract_low (m := 13) (n := 4) _ _ 0 4 (by decide)).trans <|
    extract_all a4

theorem field17_14 (a0 : BitVec 5) (a1 : BitVec 3) (a2 : BitVec 2) (a3 : BitVec 3) (a4 : BitVec 4) (a5 : BitVec 1) (a6 : BitVec 2) (a7 : BitVec 4) (a8 : BitVec 1) (a9 : BitVec 7) :
    (a0 ++ a1 ++ a2 ++ a3 ++ a4 ++ a5 ++ a6 ++ a7 ++ a8 ++ a9 : BitVec 32).extractLsb' 14 1 = a5 :=
  (extract_high (m := 25) (n := 7) _ _ 14 1 (by decide)).trans <|
    (extract_high (m := 24) (n := 1) _ _ 7 1 (by decide)).trans <|
    (extract_high (m := 20) (n := 4) _ _ 6 1 (by decide)).trans <|
    (extract_high (m := 18) (n := 2) _ _ 2 1 (by decide)).trans <|
    (extract_low (m := 17) (n := 1) _ _ 0 1 (by decide)).trans <|
    extract_all a5

theorem field17_12 (a0 : BitVec 5) (a1 : BitVec 3) (a2 : BitVec 2) (a3 : BitVec 3) (a4 : BitVec 4) (a5 : BitVec 1) (a6 : BitVec 2) (a7 : BitVec 4) (a8 : BitVec 1) (a9 : BitVec 7) :
    (a0 ++ a1 ++ a2 ++ a3 ++ a4 ++ a5 ++ a6 ++ a7 ++ a8 ++ a9 : BitVec 32).extractLsb' 12 2 = a6 :=
  (extract_high (m := 25) (n := 7) _ _ 12 2 (by decide)).trans <|
    (extract_high (m := 24) (n := 1) _ _ 5 2 (by decide)).trans <|
    (extract_high (m := 20) (n := 4) _ _ 4 2 (by decide)).trans <|
    (extract_low (m := 18) (n := 2) _ _ 0 2 (by decide)).trans <|
    extract_all a6

theorem field17_8 (a0 : BitVec 5) (a1 : BitVec 3) (a2 : BitVec 2) (a3 : BitVec 3) (a4 : BitVec 4) (a5 : BitVec 1) (a6 : BitVec 2) (a7 : BitVec 4) (a8 : BitVec 1) (a9 : BitVec 7) :
    (a0 ++ a1 ++ a2 ++ a3 ++ a4 ++ a5 ++ a6 ++ a7 ++ a8 ++ a9 : BitVec 32).extractLsb' 8 4 = a7 :=
  (extract_high (m := 25) (n := 7) _ _ 8 4 (by decide)).trans <|
    (extract_high (m := 24) (n := 1) _ _ 1 4 (by decide)).trans <|
    (extract_low (m := 20) (n := 4) _ _ 0 4 (by decide)).trans <|
    extract_all a7

theorem field17_7 (a0 : BitVec 5) (a1 : BitVec 3) (a2 : BitVec 2) (a3 : BitVec 3) (a4 : BitVec 4) (a5 : BitVec 1) (a6 : BitVec 2) (a7 : BitVec 4) (a8 : BitVec 1) (a9 : BitVec 7) :
    (a0 ++ a1 ++ a2 ++ a3 ++ a4 ++ a5 ++ a6 ++ a7 ++ a8 ++ a9 : BitVec 32).extractLsb' 7 1 = a8 :=
  (extract_high (m := 25) (n := 7) _ _ 7 1 (by decide)).trans <|
    (extract_low (m := 24) (n := 1) _ _ 0 1 (by decide)).trans <|
    extract_all a8

theorem field17_0 (a0 : BitVec 5) (a1 : BitVec 3) (a2 : BitVec 2) (a3 : BitVec 3) (a4 : BitVec 4) (a5 : BitVec 1) (a6 : BitVec 2) (a7 : BitVec 4) (a8 : BitVec 1) (a9 : BitVec 7) :
    (a0 ++ a1 ++ a2 ++ a3 ++ a4 ++ a5 ++ a6 ++ a7 ++ a8 ++ a9 : BitVec 32).extractLsb' 0 7 = a9 :=
  (extract_low (m := 25) (n := 7) _ _ 0 7 (by decide)).trans <|
    extract_all a9

theorem field18_27 (a0 : BitVec 5) (a1 : BitVec 3) (a2 : BitVec 5) (a3 : BitVec 4) (a4 : BitVec 1) (a5 : BitVec 2) (a6 : BitVec 2) (a7 : BitVec 2) (a8 : BitVec 1) (a9 : BitVec 7) :
    (a0 ++ a1 ++ a2 ++ a3 ++ a4 ++ a5 ++ a6 ++ a7 ++ a8 ++ a9 : BitVec 32).extractLsb' 27 5 = a0 :=
  (extract_high (m := 25) (n := 7) _ _ 27 5 (by decide)).trans <|
    (extract_high (m := 24) (n := 1) _ _ 20 5 (by decide)).trans <|
    (extract_high (m := 22) (n := 2) _ _ 19 5 (by decide)).trans <|
    (extract_high (m := 20) (n := 2) _ _ 17 5 (by decide)).trans <|
    (extract_high (m := 18) (n := 2) _ _ 15 5 (by decide)).trans <|
    (extract_high (m := 17) (n := 1) _ _ 13 5 (by decide)).trans <|
    (extract_high (m := 13) (n := 4) _ _ 12 5 (by decide)).trans <|
    (extract_high (m := 8) (n := 5) _ _ 8 5 (by decide)).trans <|
    (extract_high (m := 5) (n := 3) _ _ 3 5 (by decide)).trans <|
    extract_all a0

theorem field18_24 (a0 : BitVec 5) (a1 : BitVec 3) (a2 : BitVec 5) (a3 : BitVec 4) (a4 : BitVec 1) (a5 : BitVec 2) (a6 : BitVec 2) (a7 : BitVec 2) (a8 : BitVec 1) (a9 : BitVec 7) :
    (a0 ++ a1 ++ a2 ++ a3 ++ a4 ++ a5 ++ a6 ++ a7 ++ a8 ++ a9 : BitVec 32).extractLsb' 24 3 = a1 :=
  (extract_high (m := 25) (n := 7) _ _ 24 3 (by decide)).trans <|
    (extract_high (m := 24) (n := 1) _ _ 17 3 (by decide)).trans <|
    (extract_high (m := 22) (n := 2) _ _ 16 3 (by decide)).trans <|
    (extract_high (m := 20) (n := 2) _ _ 14 3 (by decide)).trans <|
    (extract_high (m := 18) (n := 2) _ _ 12 3 (by decide)).trans <|
    (extract_high (m := 17) (n := 1) _ _ 10 3 (by decide)).trans <|
    (extract_high (m := 13) (n := 4) _ _ 9 3 (by decide)).trans <|
    (extract_high (m := 8) (n := 5) _ _ 5 3 (by decide)).trans <|
    (extract_low (m := 5) (n := 3) _ _ 0 3 (by decide)).trans <|
    extract_all a1

theorem field18_19 (a0 : BitVec 5) (a1 : BitVec 3) (a2 : BitVec 5) (a3 : BitVec 4) (a4 : BitVec 1) (a5 : BitVec 2) (a6 : BitVec 2) (a7 : BitVec 2) (a8 : BitVec 1) (a9 : BitVec 7) :
    (a0 ++ a1 ++ a2 ++ a3 ++ a4 ++ a5 ++ a6 ++ a7 ++ a8 ++ a9 : BitVec 32).extractLsb' 19 5 = a2 :=
  (extract_high (m := 25) (n := 7) _ _ 19 5 (by decide)).trans <|
    (extract_high (m := 24) (n := 1) _ _ 12 5 (by decide)).trans <|
    (extract_high (m := 22) (n := 2) _ _ 11 5 (by decide)).trans <|
    (extract_high (m := 20) (n := 2) _ _ 9 5 (by decide)).trans <|
    (extract_high (m := 18) (n := 2) _ _ 7 5 (by decide)).trans <|
    (extract_high (m := 17) (n := 1) _ _ 5 5 (by decide)).trans <|
    (extract_high (m := 13) (n := 4) _ _ 4 5 (by decide)).trans <|
    (extract_low (m := 8) (n := 5) _ _ 0 5 (by decide)).trans <|
    extract_all a2

theorem field18_15 (a0 : BitVec 5) (a1 : BitVec 3) (a2 : BitVec 5) (a3 : BitVec 4) (a4 : BitVec 1) (a5 : BitVec 2) (a6 : BitVec 2) (a7 : BitVec 2) (a8 : BitVec 1) (a9 : BitVec 7) :
    (a0 ++ a1 ++ a2 ++ a3 ++ a4 ++ a5 ++ a6 ++ a7 ++ a8 ++ a9 : BitVec 32).extractLsb' 15 4 = a3 :=
  (extract_high (m := 25) (n := 7) _ _ 15 4 (by decide)).trans <|
    (extract_high (m := 24) (n := 1) _ _ 8 4 (by decide)).trans <|
    (extract_high (m := 22) (n := 2) _ _ 7 4 (by decide)).trans <|
    (extract_high (m := 20) (n := 2) _ _ 5 4 (by decide)).trans <|
    (extract_high (m := 18) (n := 2) _ _ 3 4 (by decide)).trans <|
    (extract_high (m := 17) (n := 1) _ _ 1 4 (by decide)).trans <|
    (extract_low (m := 13) (n := 4) _ _ 0 4 (by decide)).trans <|
    extract_all a3

theorem field18_14 (a0 : BitVec 5) (a1 : BitVec 3) (a2 : BitVec 5) (a3 : BitVec 4) (a4 : BitVec 1) (a5 : BitVec 2) (a6 : BitVec 2) (a7 : BitVec 2) (a8 : BitVec 1) (a9 : BitVec 7) :
    (a0 ++ a1 ++ a2 ++ a3 ++ a4 ++ a5 ++ a6 ++ a7 ++ a8 ++ a9 : BitVec 32).extractLsb' 14 1 = a4 :=
  (extract_high (m := 25) (n := 7) _ _ 14 1 (by decide)).trans <|
    (extract_high (m := 24) (n := 1) _ _ 7 1 (by decide)).trans <|
    (extract_high (m := 22) (n := 2) _ _ 6 1 (by decide)).trans <|
    (extract_high (m := 20) (n := 2) _ _ 4 1 (by decide)).trans <|
    (extract_high (m := 18) (n := 2) _ _ 2 1 (by decide)).trans <|
    (extract_low (m := 17) (n := 1) _ _ 0 1 (by decide)).trans <|
    extract_all a4

theorem field18_12 (a0 : BitVec 5) (a1 : BitVec 3) (a2 : BitVec 5) (a3 : BitVec 4) (a4 : BitVec 1) (a5 : BitVec 2) (a6 : BitVec 2) (a7 : BitVec 2) (a8 : BitVec 1) (a9 : BitVec 7) :
    (a0 ++ a1 ++ a2 ++ a3 ++ a4 ++ a5 ++ a6 ++ a7 ++ a8 ++ a9 : BitVec 32).extractLsb' 12 2 = a5 :=
  (extract_high (m := 25) (n := 7) _ _ 12 2 (by decide)).trans <|
    (extract_high (m := 24) (n := 1) _ _ 5 2 (by decide)).trans <|
    (extract_high (m := 22) (n := 2) _ _ 4 2 (by decide)).trans <|
    (extract_high (m := 20) (n := 2) _ _ 2 2 (by decide)).trans <|
    (extract_low (m := 18) (n := 2) _ _ 0 2 (by decide)).trans <|
    extract_all a5

theorem field18_10 (a0 : BitVec 5) (a1 : BitVec 3) (a2 : BitVec 5) (a3 : BitVec 4) (a4 : BitVec 1) (a5 : BitVec 2) (a6 : BitVec 2) (a7 : BitVec 2) (a8 : BitVec 1) (a9 : BitVec 7) :
    (a0 ++ a1 ++ a2 ++ a3 ++ a4 ++ a5 ++ a6 ++ a7 ++ a8 ++ a9 : BitVec 32).extractLsb' 10 2 = a6 :=
  (extract_high (m := 25) (n := 7) _ _ 10 2 (by decide)).trans <|
    (extract_high (m := 24) (n := 1) _ _ 3 2 (by decide)).trans <|
    (extract_high (m := 22) (n := 2) _ _ 2 2 (by decide)).trans <|
    (extract_low (m := 20) (n := 2) _ _ 0 2 (by decide)).trans <|
    extract_all a6

theorem field18_8 (a0 : BitVec 5) (a1 : BitVec 3) (a2 : BitVec 5) (a3 : BitVec 4) (a4 : BitVec 1) (a5 : BitVec 2) (a6 : BitVec 2) (a7 : BitVec 2) (a8 : BitVec 1) (a9 : BitVec 7) :
    (a0 ++ a1 ++ a2 ++ a3 ++ a4 ++ a5 ++ a6 ++ a7 ++ a8 ++ a9 : BitVec 32).extractLsb' 8 2 = a7 :=
  (extract_high (m := 25) (n := 7) _ _ 8 2 (by decide)).trans <|
    (extract_high (m := 24) (n := 1) _ _ 1 2 (by decide)).trans <|
    (extract_low (m := 22) (n := 2) _ _ 0 2 (by decide)).trans <|
    extract_all a7

theorem field18_7 (a0 : BitVec 5) (a1 : BitVec 3) (a2 : BitVec 5) (a3 : BitVec 4) (a4 : BitVec 1) (a5 : BitVec 2) (a6 : BitVec 2) (a7 : BitVec 2) (a8 : BitVec 1) (a9 : BitVec 7) :
    (a0 ++ a1 ++ a2 ++ a3 ++ a4 ++ a5 ++ a6 ++ a7 ++ a8 ++ a9 : BitVec 32).extractLsb' 7 1 = a8 :=
  (extract_high (m := 25) (n := 7) _ _ 7 1 (by decide)).trans <|
    (extract_low (m := 24) (n := 1) _ _ 0 1 (by decide)).trans <|
    extract_all a8

theorem field18_0 (a0 : BitVec 5) (a1 : BitVec 3) (a2 : BitVec 5) (a3 : BitVec 4) (a4 : BitVec 1) (a5 : BitVec 2) (a6 : BitVec 2) (a7 : BitVec 2) (a8 : BitVec 1) (a9 : BitVec 7) :
    (a0 ++ a1 ++ a2 ++ a3 ++ a4 ++ a5 ++ a6 ++ a7 ++ a8 ++ a9 : BitVec 32).extractLsb' 0 7 = a9 :=
  (extract_low (m := 25) (n := 7) _ _ 0 7 (by decide)).trans <|
    extract_all a9

theorem field19_16 (a0 : BitVec 16) (a1 : BitVec 3) (a2 : BitVec 4) (a3 : BitVec 2) (a4 : BitVec 7) :
    (a0 ++ a1 ++ a2 ++ a3 ++ a4 : BitVec 32).extractLsb' 16 16 = a0 :=
  (extract_high (m := 25) (n := 7) _ _ 16 16 (by decide)).trans <|
    (extract_high (m := 23) (n := 2) _ _ 9 16 (by decide)).trans <|
    (extract_high (m := 19) (n := 4) _ _ 7 16 (by decide)).trans <|
    (extract_high (m := 16) (n := 3) _ _ 3 16 (by decide)).trans <|
    extract_all a0

theorem field19_13 (a0 : BitVec 16) (a1 : BitVec 3) (a2 : BitVec 4) (a3 : BitVec 2) (a4 : BitVec 7) :
    (a0 ++ a1 ++ a2 ++ a3 ++ a4 : BitVec 32).extractLsb' 13 3 = a1 :=
  (extract_high (m := 25) (n := 7) _ _ 13 3 (by decide)).trans <|
    (extract_high (m := 23) (n := 2) _ _ 6 3 (by decide)).trans <|
    (extract_high (m := 19) (n := 4) _ _ 4 3 (by decide)).trans <|
    (extract_low (m := 16) (n := 3) _ _ 0 3 (by decide)).trans <|
    extract_all a1

theorem field19_9 (a0 : BitVec 16) (a1 : BitVec 3) (a2 : BitVec 4) (a3 : BitVec 2) (a4 : BitVec 7) :
    (a0 ++ a1 ++ a2 ++ a3 ++ a4 : BitVec 32).extractLsb' 9 4 = a2 :=
  (extract_high (m := 25) (n := 7) _ _ 9 4 (by decide)).trans <|
    (extract_high (m := 23) (n := 2) _ _ 2 4 (by decide)).trans <|
    (extract_low (m := 19) (n := 4) _ _ 0 4 (by decide)).trans <|
    extract_all a2

theorem field19_7 (a0 : BitVec 16) (a1 : BitVec 3) (a2 : BitVec 4) (a3 : BitVec 2) (a4 : BitVec 7) :
    (a0 ++ a1 ++ a2 ++ a3 ++ a4 : BitVec 32).extractLsb' 7 2 = a3 :=
  (extract_high (m := 25) (n := 7) _ _ 7 2 (by decide)).trans <|
    (extract_low (m := 23) (n := 2) _ _ 0 2 (by decide)).trans <|
    extract_all a3

theorem field19_0 (a0 : BitVec 16) (a1 : BitVec 3) (a2 : BitVec 4) (a3 : BitVec 2) (a4 : BitVec 7) :
    (a0 ++ a1 ++ a2 ++ a3 ++ a4 : BitVec 32).extractLsb' 0 7 = a4 :=
  (extract_low (m := 25) (n := 7) _ _ 0 7 (by decide)).trans <|
    extract_all a4

theorem field20_15 (a0 : BitVec 17) (a1 : BitVec 3) (a2 : BitVec 5) (a3 : BitVec 7) :
    (a0 ++ a1 ++ a2 ++ a3 : BitVec 32).extractLsb' 15 17 = a0 :=
  (extract_high (m := 25) (n := 7) _ _ 15 17 (by decide)).trans <|
    (extract_high (m := 20) (n := 5) _ _ 8 17 (by decide)).trans <|
    (extract_high (m := 17) (n := 3) _ _ 3 17 (by decide)).trans <|
    extract_all a0

theorem field20_12 (a0 : BitVec 17) (a1 : BitVec 3) (a2 : BitVec 5) (a3 : BitVec 7) :
    (a0 ++ a1 ++ a2 ++ a3 : BitVec 32).extractLsb' 12 3 = a1 :=
  (extract_high (m := 25) (n := 7) _ _ 12 3 (by decide)).trans <|
    (extract_high (m := 20) (n := 5) _ _ 5 3 (by decide)).trans <|
    (extract_low (m := 17) (n := 3) _ _ 0 3 (by decide)).trans <|
    extract_all a1

theorem field20_7 (a0 : BitVec 17) (a1 : BitVec 3) (a2 : BitVec 5) (a3 : BitVec 7) :
    (a0 ++ a1 ++ a2 ++ a3 : BitVec 32).extractLsb' 7 5 = a2 :=
  (extract_high (m := 25) (n := 7) _ _ 7 5 (by decide)).trans <|
    (extract_low (m := 20) (n := 5) _ _ 0 5 (by decide)).trans <|
    extract_all a2

theorem field20_0 (a0 : BitVec 17) (a1 : BitVec 3) (a2 : BitVec 5) (a3 : BitVec 7) :
    (a0 ++ a1 ++ a2 ++ a3 : BitVec 32).extractLsb' 0 7 = a3 :=
  (extract_low (m := 25) (n := 7) _ _ 0 7 (by decide)).trans <|
    extract_all a3

end Sys2Proof.Laws
end

