-- ==== Sys2Proof/Laws/PerInstr.lean ====
section
/-! SUPPORT. The statements made for each instruction: decoding the word of a well-formed instruction gives it back
(03/R52). -/

set_option linter.unusedSimpArgs false

namespace Sys2Proof.Laws

/-- The instruction that a word's fields give is the decoder's answer where it is well-formed. -/
theorem decode_of_fields {w : BitVec 32} {i : Instr} (h : decodeFields w = some i) (hw : i.wf = true) :
    decode w = some i := by
  simp [decode, h, hw]

/-- The pieces of a split immediate joined. -/
theorem join_store (a : BitVec 12) : a.extractLsb' 5 7 ++ a.extractLsb' 0 5 = a :=
  (extract_join a 0 5 7).trans (extract_all a)
theorem join_branch (a : BitVec 12) :
    a.extractLsb' 11 1 ++ a.extractLsb' 10 1 ++ a.extractLsb' 4 6 ++ a.extractLsb' 0 4 = a := by
  rw [show a.extractLsb' 11 1 ++ a.extractLsb' 10 1 = a.extractLsb' 10 2 from extract_join a 10 1 1,
    show a.extractLsb' 10 2 ++ a.extractLsb' 4 6 = a.extractLsb' 4 8 from extract_join a 4 6 2,
    show a.extractLsb' 4 8 ++ a.extractLsb' 0 4 = a.extractLsb' 0 12 from extract_join a 0 4 8]
  exact extract_all a
theorem join_jal (a : BitVec 20) :
    a.extractLsb' 19 1 ++ a.extractLsb' 11 8 ++ a.extractLsb' 10 1 ++ a.extractLsb' 0 10 = a := by
  rw [show a.extractLsb' 19 1 ++ a.extractLsb' 11 8 = a.extractLsb' 11 9 from extract_join a 11 8 1,
    show a.extractLsb' 11 9 ++ a.extractLsb' 10 1 = a.extractLsb' 10 10 from extract_join a 10 1 9,
    show a.extractLsb' 10 10 ++ a.extractLsb' 0 10 = a.extractLsb' 0 20 from extract_join a 0 10 10]
  exact extract_all a

/-- The top bits of the words of `fence.d` and its kin. -/
theorem fence_top (sc : BitVec 3) :
    (8#4 ++ sc ++ 0#5 ++ 0#5 ++ 4#3 ++ 0#5 ++ 11#7 : BitVec 32).extractLsb' 30 2 = 2#2 :=
  (extract_high (m := 25) (n := 7) _ _ 30 2 (by decide)).trans <|
    (extract_high (m := 20) (n := 5) _ _ 23 2 (by decide)).trans <|
    (extract_high (m := 17) (n := 3) _ _ 18 2 (by decide)).trans <|
    (extract_high (m := 12) (n := 5) _ _ 15 2 (by decide)).trans <|
    (extract_high (m := 7) (n := 5) _ _ 10 2 (by decide)).trans <|
    (extract_high (m := 4) (n := 3) _ _ 5 2 (by decide)).trans (by decide)

theorem fields_decodeLui {w : BitVec 32} (h : w.extractLsb' 0 7 = 55#7) : decodeFields w = decodeLui w := by
  simp [decodeFields, h]

theorem fields_decodeAuipc {w : BitVec 32} (h : w.extractLsb' 0 7 = 23#7) : decodeFields w = decodeAuipc w := by
  simp [decodeFields, h]

theorem fields_decodeJal {w : BitVec 32} (h : w.extractLsb' 0 7 = 111#7) : decodeFields w = decodeJal w := by
  simp [decodeFields, h]

theorem fields_decodeJalr {w : BitVec 32} (h : w.extractLsb' 0 7 = 103#7) : decodeFields w = decodeJalr w := by
  simp [decodeFields, h]

theorem fields_decodeBranch {w : BitVec 32} (h : w.extractLsb' 0 7 = 99#7) : decodeFields w = decodeBranch w := by
  simp [decodeFields, h]

theorem fields_decodeLoad {w : BitVec 32} (h : w.extractLsb' 0 7 = 3#7) : decodeFields w = decodeLoad w := by
  simp [decodeFields, h]

theorem fields_decodeStore {w : BitVec 32} (h : w.extractLsb' 0 7 = 35#7) : decodeFields w = decodeStore w := by
  simp [decodeFields, h]

theorem fields_decodeOpImm {w : BitVec 32} (h : w.extractLsb' 0 7 = 19#7) : decodeFields w = decodeOpImm w := by
  simp [decodeFields, h]

theorem fields_decodeOp {w : BitVec 32} (h : w.extractLsb' 0 7 = 51#7) : decodeFields w = decodeOp w := by
  simp [decodeFields, h]

theorem fields_decodeOpImm32 {w : BitVec 32} (h : w.extractLsb' 0 7 = 27#7) : decodeFields w = decodeOpImm32 w := by
  simp [decodeFields, h]

theorem fields_decodeOp32 {w : BitVec 32} (h : w.extractLsb' 0 7 = 59#7) : decodeFields w = decodeOp32 w := by
  simp [decodeFields, h]

theorem fields_decodeMiscMem {w : BitVec 32} (h : w.extractLsb' 0 7 = 15#7) : decodeFields w = decodeMiscMem w := by
  simp [decodeFields, h]

theorem fields_decodeSystem {w : BitVec 32} (h : w.extractLsb' 0 7 = 115#7) : decodeFields w = decodeSystem w := by
  simp [decodeFields, h]

theorem fields_decodeOpFp {w : BitVec 32} (h : w.extractLsb' 0 7 = 83#7) : decodeFields w = decodeOpFp w := by
  simp [decodeFields, h]

theorem fields_decodeMadd {w : BitVec 32} (h : w.extractLsb' 0 7 = 67#7) : decodeFields w = decodeMadd w := by
  simp [decodeFields, h]

theorem fields_decodeMsub {w : BitVec 32} (h : w.extractLsb' 0 7 = 71#7) : decodeFields w = decodeMsub w := by
  simp [decodeFields, h]

theorem fields_decodeNmsub {w : BitVec 32} (h : w.extractLsb' 0 7 = 75#7) : decodeFields w = decodeNmsub w := by
  simp [decodeFields, h]

theorem fields_decodeNmadd {w : BitVec 32} (h : w.extractLsb' 0 7 = 79#7) : decodeFields w = decodeNmadd w := by
  simp [decodeFields, h]

theorem fields_decodeCustom0 {w : BitVec 32} (h : w.extractLsb' 0 7 = 11#7) : decodeFields w = decodeCustom0 w := by
  simp [decodeFields, h]

theorem fields_decodeCustom2 {w : BitVec 32} (h : w.extractLsb' 0 7 = 91#7) : decodeFields w = decodeCustom2 w := by
  simp [decodeFields, h]

theorem fields_decodeCustom3 {w : BitVec 32} (h : w.extractLsb' 0 7 = 123#7) : decodeFields w = decodeCustom3 w := by
  simp [decodeFields, h]

theorem fields_decodeCustom1 {w : BitVec 32} (h : w.extractLsb' 0 7 = 43#7) : decodeFields w = decodeCustom1 w := by
  simp [decodeFields, h]

/-- A well-formed instruction's word decodes to it; an instruction without an encoding has no word. -/
def RoundTrip.Statement (i : Instr) : Prop := i.wf = true → ∀ w, encode i = some w → decode w = some i

theorem RoundTrip.lui (rd : BitVec 5) (imm : BitVec 20) : RoundTrip.Statement (.lui rd imm) := by
  intro hw w h
  change some (wordLui rd imm) = some w at h
  cases h
  refine decode_of_fields ((fields_decodeLui ?_).trans ?_) hw <;> simp [-BitVec.reduceAppend, wordLui, decodeLui, field0_12, field0_7, field0_0]

theorem RoundTrip.auipc (rd : BitVec 5) (imm : BitVec 20) : RoundTrip.Statement (.auipc rd imm) := by
  intro hw w h
  change some (wordAuipc rd imm) = some w at h
  cases h
  refine decode_of_fields ((fields_decodeAuipc ?_).trans ?_) hw <;> simp [-BitVec.reduceAppend, wordAuipc, decodeAuipc, field0_12, field0_7, field0_0]

theorem RoundTrip.jal (rd : BitVec 5) (off : BitVec 20) : RoundTrip.Statement (.jal rd off) := by
  intro hw w h
  change some (wordJal rd off) = some w at h
  cases h
  refine decode_of_fields ((fields_decodeJal ?_).trans ?_) hw <;> simp [-BitVec.reduceAppend, wordJal, decodeJal, field1_31, field1_21, field1_20, field1_12, field1_7, field1_0, join_jal]

theorem RoundTrip.jalr (rd : BitVec 5) (rs1 : BitVec 5) (imm : BitVec 12) : RoundTrip.Statement (.jalr rd rs1 imm) := by
  intro hw w h
  change some (wordJalr rd rs1 imm) = some w at h
  cases h
  refine decode_of_fields ((fields_decodeJalr ?_).trans ?_) hw <;> simp [-BitVec.reduceAppend, wordJalr, decodeJalr, field2_20, field2_15, field2_12, field2_7, field2_0]

theorem RoundTrip.beq (rs1 : BitVec 5) (rs2 : BitVec 5) (off : BitVec 12) : RoundTrip.Statement (.beq rs1 rs2 off) := by
  intro hw w h
  change some (wordBeq rs1 rs2 off) = some w at h
  cases h
  refine decode_of_fields ((fields_decodeBranch ?_).trans ?_) hw <;> simp [-BitVec.reduceAppend, wordBeq, decodeBranch, field3_31, field3_25, field3_20, field3_15, field3_12, field3_8, field3_7, field3_0, join_branch]

theorem RoundTrip.bne (rs1 : BitVec 5) (rs2 : BitVec 5) (off : BitVec 12) : RoundTrip.Statement (.bne rs1 rs2 off) := by
  intro hw w h
  change some (wordBne rs1 rs2 off) = some w at h
  cases h
  refine decode_of_fields ((fields_decodeBranch ?_).trans ?_) hw <;> simp [-BitVec.reduceAppend, wordBne, decodeBranch, field3_31, field3_25, field3_20, field3_15, field3_12, field3_8, field3_7, field3_0, join_branch]

theorem RoundTrip.blt (rs1 : BitVec 5) (rs2 : BitVec 5) (off : BitVec 12) : RoundTrip.Statement (.blt rs1 rs2 off) := by
  intro hw w h
  change some (wordBlt rs1 rs2 off) = some w at h
  cases h
  refine decode_of_fields ((fields_decodeBranch ?_).trans ?_) hw <;> simp [-BitVec.reduceAppend, wordBlt, decodeBranch, field3_31, field3_25, field3_20, field3_15, field3_12, field3_8, field3_7, field3_0, join_branch]

theorem RoundTrip.bge (rs1 : BitVec 5) (rs2 : BitVec 5) (off : BitVec 12) : RoundTrip.Statement (.bge rs1 rs2 off) := by
  intro hw w h
  change some (wordBge rs1 rs2 off) = some w at h
  cases h
  refine decode_of_fields ((fields_decodeBranch ?_).trans ?_) hw <;> simp [-BitVec.reduceAppend, wordBge, decodeBranch, field3_31, field3_25, field3_20, field3_15, field3_12, field3_8, field3_7, field3_0, join_branch]

theorem RoundTrip.bltu (rs1 : BitVec 5) (rs2 : BitVec 5) (off : BitVec 12) : RoundTrip.Statement (.bltu rs1 rs2 off) := by
  intro hw w h
  change some (wordBltu rs1 rs2 off) = some w at h
  cases h
  refine decode_of_fields ((fields_decodeBranch ?_).trans ?_) hw <;> simp [-BitVec.reduceAppend, wordBltu, decodeBranch, field3_31, field3_25, field3_20, field3_15, field3_12, field3_8, field3_7, field3_0, join_branch]

theorem RoundTrip.bgeu (rs1 : BitVec 5) (rs2 : BitVec 5) (off : BitVec 12) : RoundTrip.Statement (.bgeu rs1 rs2 off) := by
  intro hw w h
  change some (wordBgeu rs1 rs2 off) = some w at h
  cases h
  refine decode_of_fields ((fields_decodeBranch ?_).trans ?_) hw <;> simp [-BitVec.reduceAppend, wordBgeu, decodeBranch, field3_31, field3_25, field3_20, field3_15, field3_12, field3_8, field3_7, field3_0, join_branch]

theorem RoundTrip.lb (rd : BitVec 5) (rs1 : BitVec 5) (imm : BitVec 12) : RoundTrip.Statement (.lb rd rs1 imm) := by
  intro hw w h
  change some (wordLb rd rs1 imm) = some w at h
  cases h
  refine decode_of_fields ((fields_decodeLoad ?_).trans ?_) hw <;> simp [-BitVec.reduceAppend, wordLb, decodeLoad, field2_20, field2_15, field2_12, field2_7, field2_0]

theorem RoundTrip.lh (rd : BitVec 5) (rs1 : BitVec 5) (imm : BitVec 12) : RoundTrip.Statement (.lh rd rs1 imm) := by
  intro hw w h
  change some (wordLh rd rs1 imm) = some w at h
  cases h
  refine decode_of_fields ((fields_decodeLoad ?_).trans ?_) hw <;> simp [-BitVec.reduceAppend, wordLh, decodeLoad, field2_20, field2_15, field2_12, field2_7, field2_0]

theorem RoundTrip.lw (rd : BitVec 5) (rs1 : BitVec 5) (imm : BitVec 12) : RoundTrip.Statement (.lw rd rs1 imm) := by
  intro hw w h
  change some (wordLw rd rs1 imm) = some w at h
  cases h
  refine decode_of_fields ((fields_decodeLoad ?_).trans ?_) hw <;> simp [-BitVec.reduceAppend, wordLw, decodeLoad, field2_20, field2_15, field2_12, field2_7, field2_0]

theorem RoundTrip.ld (rd : BitVec 5) (rs1 : BitVec 5) (imm : BitVec 12) : RoundTrip.Statement (.ld rd rs1 imm) := by
  intro hw w h
  change some (wordLd rd rs1 imm) = some w at h
  cases h
  refine decode_of_fields ((fields_decodeLoad ?_).trans ?_) hw <;> simp [-BitVec.reduceAppend, wordLd, decodeLoad, field2_20, field2_15, field2_12, field2_7, field2_0]

theorem RoundTrip.lbu (rd : BitVec 5) (rs1 : BitVec 5) (imm : BitVec 12) : RoundTrip.Statement (.lbu rd rs1 imm) := by
  intro hw w h
  change some (wordLbu rd rs1 imm) = some w at h
  cases h
  refine decode_of_fields ((fields_decodeLoad ?_).trans ?_) hw <;> simp [-BitVec.reduceAppend, wordLbu, decodeLoad, field2_20, field2_15, field2_12, field2_7, field2_0]

theorem RoundTrip.lhu (rd : BitVec 5) (rs1 : BitVec 5) (imm : BitVec 12) : RoundTrip.Statement (.lhu rd rs1 imm) := by
  intro hw w h
  change some (wordLhu rd rs1 imm) = some w at h
  cases h
  refine decode_of_fields ((fields_decodeLoad ?_).trans ?_) hw <;> simp [-BitVec.reduceAppend, wordLhu, decodeLoad, field2_20, field2_15, field2_12, field2_7, field2_0]

theorem RoundTrip.lwu (rd : BitVec 5) (rs1 : BitVec 5) (imm : BitVec 12) : RoundTrip.Statement (.lwu rd rs1 imm) := by
  intro hw w h
  change some (wordLwu rd rs1 imm) = some w at h
  cases h
  refine decode_of_fields ((fields_decodeLoad ?_).trans ?_) hw <;> simp [-BitVec.reduceAppend, wordLwu, decodeLoad, field2_20, field2_15, field2_12, field2_7, field2_0]

theorem RoundTrip.sb (rs2 : BitVec 5) (rs1 : BitVec 5) (imm : BitVec 12) : RoundTrip.Statement (.sb rs2 rs1 imm) := by
  intro hw w h
  change some (wordSb rs2 rs1 imm) = some w at h
  cases h
  refine decode_of_fields ((fields_decodeStore ?_).trans ?_) hw <;> simp [-BitVec.reduceAppend, wordSb, decodeStore, field4_25, field4_20, field4_15, field4_12, field4_7, field4_0, join_store]

theorem RoundTrip.sh (rs2 : BitVec 5) (rs1 : BitVec 5) (imm : BitVec 12) : RoundTrip.Statement (.sh rs2 rs1 imm) := by
  intro hw w h
  change some (wordSh rs2 rs1 imm) = some w at h
  cases h
  refine decode_of_fields ((fields_decodeStore ?_).trans ?_) hw <;> simp [-BitVec.reduceAppend, wordSh, decodeStore, field4_25, field4_20, field4_15, field4_12, field4_7, field4_0, join_store]

theorem RoundTrip.sw (rs2 : BitVec 5) (rs1 : BitVec 5) (imm : BitVec 12) : RoundTrip.Statement (.sw rs2 rs1 imm) := by
  intro hw w h
  change some (wordSw rs2 rs1 imm) = some w at h
  cases h
  refine decode_of_fields ((fields_decodeStore ?_).trans ?_) hw <;> simp [-BitVec.reduceAppend, wordSw, decodeStore, field4_25, field4_20, field4_15, field4_12, field4_7, field4_0, join_store]

theorem RoundTrip.sd (rs2 : BitVec 5) (rs1 : BitVec 5) (imm : BitVec 12) : RoundTrip.Statement (.sd rs2 rs1 imm) := by
  intro hw w h
  change some (wordSd rs2 rs1 imm) = some w at h
  cases h
  refine decode_of_fields ((fields_decodeStore ?_).trans ?_) hw <;> simp [-BitVec.reduceAppend, wordSd, decodeStore, field4_25, field4_20, field4_15, field4_12, field4_7, field4_0, join_store]

theorem RoundTrip.addi (rd : BitVec 5) (rs1 : BitVec 5) (imm : BitVec 12) : RoundTrip.Statement (.addi rd rs1 imm) := by
  intro hw w h
  change some (wordAddi rd rs1 imm) = some w at h
  cases h
  refine decode_of_fields ((fields_decodeOpImm ?_).trans ?_) hw <;> simp [-BitVec.reduceAppend, wordAddi, decodeOpImm, field2_20, field2_15, field2_12, field2_7, field2_0]

theorem RoundTrip.slti (rd : BitVec 5) (rs1 : BitVec 5) (imm : BitVec 12) : RoundTrip.Statement (.slti rd rs1 imm) := by
  intro hw w h
  change some (wordSlti rd rs1 imm) = some w at h
  cases h
  refine decode_of_fields ((fields_decodeOpImm ?_).trans ?_) hw <;> simp [-BitVec.reduceAppend, wordSlti, decodeOpImm, field2_20, field2_15, field2_12, field2_7, field2_0]

theorem RoundTrip.sltiu (rd : BitVec 5) (rs1 : BitVec 5) (imm : BitVec 12) : RoundTrip.Statement (.sltiu rd rs1 imm) := by
  intro hw w h
  change some (wordSltiu rd rs1 imm) = some w at h
  cases h
  refine decode_of_fields ((fields_decodeOpImm ?_).trans ?_) hw <;> simp [-BitVec.reduceAppend, wordSltiu, decodeOpImm, field2_20, field2_15, field2_12, field2_7, field2_0]

theorem RoundTrip.xori (rd : BitVec 5) (rs1 : BitVec 5) (imm : BitVec 12) : RoundTrip.Statement (.xori rd rs1 imm) := by
  intro hw w h
  change some (wordXori rd rs1 imm) = some w at h
  cases h
  refine decode_of_fields ((fields_decodeOpImm ?_).trans ?_) hw <;> simp [-BitVec.reduceAppend, wordXori, decodeOpImm, field2_20, field2_15, field2_12, field2_7, field2_0]

theorem RoundTrip.ori (rd : BitVec 5) (rs1 : BitVec 5) (imm : BitVec 12) : RoundTrip.Statement (.ori rd rs1 imm) := by
  intro hw w h
  change some (wordOri rd rs1 imm) = some w at h
  cases h
  refine decode_of_fields ((fields_decodeOpImm ?_).trans ?_) hw <;> simp [-BitVec.reduceAppend, wordOri, decodeOpImm, field2_20, field2_15, field2_12, field2_7, field2_0]

theorem RoundTrip.andi (rd : BitVec 5) (rs1 : BitVec 5) (imm : BitVec 12) : RoundTrip.Statement (.andi rd rs1 imm) := by
  intro hw w h
  change some (wordAndi rd rs1 imm) = some w at h
  cases h
  refine decode_of_fields ((fields_decodeOpImm ?_).trans ?_) hw <;> simp [-BitVec.reduceAppend, wordAndi, decodeOpImm, field2_20, field2_15, field2_12, field2_7, field2_0]

theorem RoundTrip.slli (rd : BitVec 5) (rs1 : BitVec 5) (sh : BitVec 6) : RoundTrip.Statement (.slli rd rs1 sh) := by
  intro hw w h
  change some (wordSlli rd rs1 sh) = some w at h
  cases h
  refine decode_of_fields ((fields_decodeOpImm ?_).trans ?_) hw <;> simp [-BitVec.reduceAppend, wordSlli, decodeOpImm, field5_26, field5_20, field5_15, field5_12, field5_7, field5_0]

theorem RoundTrip.srli (rd : BitVec 5) (rs1 : BitVec 5) (sh : BitVec 6) : RoundTrip.Statement (.srli rd rs1 sh) := by
  intro hw w h
  change some (wordSrli rd rs1 sh) = some w at h
  cases h
  refine decode_of_fields ((fields_decodeOpImm ?_).trans ?_) hw <;> simp [-BitVec.reduceAppend, wordSrli, decodeOpImm, field5_26, field5_20, field5_15, field5_12, field5_7, field5_0]

theorem RoundTrip.srai (rd : BitVec 5) (rs1 : BitVec 5) (sh : BitVec 6) : RoundTrip.Statement (.srai rd rs1 sh) := by
  intro hw w h
  change some (wordSrai rd rs1 sh) = some w at h
  cases h
  refine decode_of_fields ((fields_decodeOpImm ?_).trans ?_) hw <;> simp [-BitVec.reduceAppend, wordSrai, decodeOpImm, field5_26, field5_20, field5_15, field5_12, field5_7, field5_0]

theorem RoundTrip.add (rd : BitVec 5) (rs1 : BitVec 5) (rs2 : BitVec 5) : RoundTrip.Statement (.add rd rs1 rs2) := by
  intro hw w h
  change some (wordAdd rd rs1 rs2) = some w at h
  cases h
  refine decode_of_fields ((fields_decodeOp ?_).trans ?_) hw <;> simp [-BitVec.reduceAppend, wordAdd, decodeOp, decodeOpF0, field4_25, field4_20, field4_15, field4_12, field4_7, field4_0]

theorem RoundTrip.sll (rd : BitVec 5) (rs1 : BitVec 5) (rs2 : BitVec 5) : RoundTrip.Statement (.sll rd rs1 rs2) := by
  intro hw w h
  change some (wordSll rd rs1 rs2) = some w at h
  cases h
  refine decode_of_fields ((fields_decodeOp ?_).trans ?_) hw <;> simp [-BitVec.reduceAppend, wordSll, decodeOp, decodeOpF1, field4_25, field4_20, field4_15, field4_12, field4_7, field4_0]

theorem RoundTrip.slt (rd : BitVec 5) (rs1 : BitVec 5) (rs2 : BitVec 5) : RoundTrip.Statement (.slt rd rs1 rs2) := by
  intro hw w h
  change some (wordSlt rd rs1 rs2) = some w at h
  cases h
  refine decode_of_fields ((fields_decodeOp ?_).trans ?_) hw <;> simp [-BitVec.reduceAppend, wordSlt, decodeOp, decodeOpF2, field4_25, field4_20, field4_15, field4_12, field4_7, field4_0]

theorem RoundTrip.sltu (rd : BitVec 5) (rs1 : BitVec 5) (rs2 : BitVec 5) : RoundTrip.Statement (.sltu rd rs1 rs2) := by
  intro hw w h
  change some (wordSltu rd rs1 rs2) = some w at h
  cases h
  refine decode_of_fields ((fields_decodeOp ?_).trans ?_) hw <;> simp [-BitVec.reduceAppend, wordSltu, decodeOp, decodeOpF3, field4_25, field4_20, field4_15, field4_12, field4_7, field4_0]

theorem RoundTrip.xor (rd : BitVec 5) (rs1 : BitVec 5) (rs2 : BitVec 5) : RoundTrip.Statement (.xor rd rs1 rs2) := by
  intro hw w h
  change some (wordXor rd rs1 rs2) = some w at h
  cases h
  refine decode_of_fields ((fields_decodeOp ?_).trans ?_) hw <;> simp [-BitVec.reduceAppend, wordXor, decodeOp, decodeOpF4, field4_25, field4_20, field4_15, field4_12, field4_7, field4_0]

theorem RoundTrip.srl (rd : BitVec 5) (rs1 : BitVec 5) (rs2 : BitVec 5) : RoundTrip.Statement (.srl rd rs1 rs2) := by
  intro hw w h
  change some (wordSrl rd rs1 rs2) = some w at h
  cases h
  refine decode_of_fields ((fields_decodeOp ?_).trans ?_) hw <;> simp [-BitVec.reduceAppend, wordSrl, decodeOp, decodeOpF5, field4_25, field4_20, field4_15, field4_12, field4_7, field4_0]

theorem RoundTrip.or (rd : BitVec 5) (rs1 : BitVec 5) (rs2 : BitVec 5) : RoundTrip.Statement (.or rd rs1 rs2) := by
  intro hw w h
  change some (wordOr rd rs1 rs2) = some w at h
  cases h
  refine decode_of_fields ((fields_decodeOp ?_).trans ?_) hw <;> simp [-BitVec.reduceAppend, wordOr, decodeOp, decodeOpF6, field4_25, field4_20, field4_15, field4_12, field4_7, field4_0]

theorem RoundTrip.and (rd : BitVec 5) (rs1 : BitVec 5) (rs2 : BitVec 5) : RoundTrip.Statement (.and rd rs1 rs2) := by
  intro hw w h
  change some (wordAnd rd rs1 rs2) = some w at h
  cases h
  refine decode_of_fields ((fields_decodeOp ?_).trans ?_) hw <;> simp [-BitVec.reduceAppend, wordAnd, decodeOp, decodeOpF7, field4_25, field4_20, field4_15, field4_12, field4_7, field4_0]

theorem RoundTrip.sub (rd : BitVec 5) (rs1 : BitVec 5) (rs2 : BitVec 5) : RoundTrip.Statement (.sub rd rs1 rs2) := by
  intro hw w h
  change some (wordSub rd rs1 rs2) = some w at h
  cases h
  refine decode_of_fields ((fields_decodeOp ?_).trans ?_) hw <;> simp [-BitVec.reduceAppend, wordSub, decodeOp, decodeOpF0, field4_25, field4_20, field4_15, field4_12, field4_7, field4_0]

theorem RoundTrip.sra (rd : BitVec 5) (rs1 : BitVec 5) (rs2 : BitVec 5) : RoundTrip.Statement (.sra rd rs1 rs2) := by
  intro hw w h
  change some (wordSra rd rs1 rs2) = some w at h
  cases h
  refine decode_of_fields ((fields_decodeOp ?_).trans ?_) hw <;> simp [-BitVec.reduceAppend, wordSra, decodeOp, decodeOpF5, field4_25, field4_20, field4_15, field4_12, field4_7, field4_0]

theorem RoundTrip.mul (rd : BitVec 5) (rs1 : BitVec 5) (rs2 : BitVec 5) : RoundTrip.Statement (.mul rd rs1 rs2) := by
  intro hw w h
  change some (wordMul rd rs1 rs2) = some w at h
  cases h
  refine decode_of_fields ((fields_decodeOp ?_).trans ?_) hw <;> simp [-BitVec.reduceAppend, wordMul, decodeOp, decodeOpF0, field4_25, field4_20, field4_15, field4_12, field4_7, field4_0]

theorem RoundTrip.mulh (rd : BitVec 5) (rs1 : BitVec 5) (rs2 : BitVec 5) : RoundTrip.Statement (.mulh rd rs1 rs2) := by
  intro hw w h
  change some (wordMulh rd rs1 rs2) = some w at h
  cases h
  refine decode_of_fields ((fields_decodeOp ?_).trans ?_) hw <;> simp [-BitVec.reduceAppend, wordMulh, decodeOp, decodeOpF1, field4_25, field4_20, field4_15, field4_12, field4_7, field4_0]

theorem RoundTrip.mulhsu (rd : BitVec 5) (rs1 : BitVec 5) (rs2 : BitVec 5) : RoundTrip.Statement (.mulhsu rd rs1 rs2) := by
  intro hw w h
  change some (wordMulhsu rd rs1 rs2) = some w at h
  cases h
  refine decode_of_fields ((fields_decodeOp ?_).trans ?_) hw <;> simp [-BitVec.reduceAppend, wordMulhsu, decodeOp, decodeOpF2, field4_25, field4_20, field4_15, field4_12, field4_7, field4_0]

theorem RoundTrip.mulhu (rd : BitVec 5) (rs1 : BitVec 5) (rs2 : BitVec 5) : RoundTrip.Statement (.mulhu rd rs1 rs2) := by
  intro hw w h
  change some (wordMulhu rd rs1 rs2) = some w at h
  cases h
  refine decode_of_fields ((fields_decodeOp ?_).trans ?_) hw <;> simp [-BitVec.reduceAppend, wordMulhu, decodeOp, decodeOpF3, field4_25, field4_20, field4_15, field4_12, field4_7, field4_0]

theorem RoundTrip.div (rd : BitVec 5) (rs1 : BitVec 5) (rs2 : BitVec 5) : RoundTrip.Statement (.div rd rs1 rs2) := by
  intro hw w h
  change some (wordDiv rd rs1 rs2) = some w at h
  cases h
  refine decode_of_fields ((fields_decodeOp ?_).trans ?_) hw <;> simp [-BitVec.reduceAppend, wordDiv, decodeOp, decodeOpF4, field4_25, field4_20, field4_15, field4_12, field4_7, field4_0]

theorem RoundTrip.divu (rd : BitVec 5) (rs1 : BitVec 5) (rs2 : BitVec 5) : RoundTrip.Statement (.divu rd rs1 rs2) := by
  intro hw w h
  change some (wordDivu rd rs1 rs2) = some w at h
  cases h
  refine decode_of_fields ((fields_decodeOp ?_).trans ?_) hw <;> simp [-BitVec.reduceAppend, wordDivu, decodeOp, decodeOpF5, field4_25, field4_20, field4_15, field4_12, field4_7, field4_0]

theorem RoundTrip.rem (rd : BitVec 5) (rs1 : BitVec 5) (rs2 : BitVec 5) : RoundTrip.Statement (.rem rd rs1 rs2) := by
  intro hw w h
  change some (wordRem rd rs1 rs2) = some w at h
  cases h
  refine decode_of_fields ((fields_decodeOp ?_).trans ?_) hw <;> simp [-BitVec.reduceAppend, wordRem, decodeOp, decodeOpF6, field4_25, field4_20, field4_15, field4_12, field4_7, field4_0]

theorem RoundTrip.remu (rd : BitVec 5) (rs1 : BitVec 5) (rs2 : BitVec 5) : RoundTrip.Statement (.remu rd rs1 rs2) := by
  intro hw w h
  change some (wordRemu rd rs1 rs2) = some w at h
  cases h
  refine decode_of_fields ((fields_decodeOp ?_).trans ?_) hw <;> simp [-BitVec.reduceAppend, wordRemu, decodeOp, decodeOpF7, field4_25, field4_20, field4_15, field4_12, field4_7, field4_0]

theorem RoundTrip.addiw (rd : BitVec 5) (rs1 : BitVec 5) (imm : BitVec 12) : RoundTrip.Statement (.addiw rd rs1 imm) := by
  intro hw w h
  change some (wordAddiw rd rs1 imm) = some w at h
  cases h
  refine decode_of_fields ((fields_decodeOpImm32 ?_).trans ?_) hw <;> simp [-BitVec.reduceAppend, wordAddiw, decodeOpImm32, field2_20, field2_15, field2_12, field2_7, field2_0]

theorem RoundTrip.slliw (rd : BitVec 5) (rs1 : BitVec 5) (sh : BitVec 5) : RoundTrip.Statement (.slliw rd rs1 sh) := by
  intro hw w h
  change some (wordSlliw rd rs1 sh) = some w at h
  cases h
  refine decode_of_fields ((fields_decodeOpImm32 ?_).trans ?_) hw <;> simp [-BitVec.reduceAppend, wordSlliw, decodeOpImm32, field4_25, field4_20, field4_15, field4_12, field4_7, field4_0]

theorem RoundTrip.srliw (rd : BitVec 5) (rs1 : BitVec 5) (sh : BitVec 5) : RoundTrip.Statement (.srliw rd rs1 sh) := by
  intro hw w h
  change some (wordSrliw rd rs1 sh) = some w at h
  cases h
  refine decode_of_fields ((fields_decodeOpImm32 ?_).trans ?_) hw <;> simp [-BitVec.reduceAppend, wordSrliw, decodeOpImm32, field4_25, field4_20, field4_15, field4_12, field4_7, field4_0]

theorem RoundTrip.sraiw (rd : BitVec 5) (rs1 : BitVec 5) (sh : BitVec 5) : RoundTrip.Statement (.sraiw rd rs1 sh) := by
  intro hw w h
  change some (wordSraiw rd rs1 sh) = some w at h
  cases h
  refine decode_of_fields ((fields_decodeOpImm32 ?_).trans ?_) hw <;> simp [-BitVec.reduceAppend, wordSraiw, decodeOpImm32, field4_25, field4_20, field4_15, field4_12, field4_7, field4_0]

theorem RoundTrip.addw (rd : BitVec 5) (rs1 : BitVec 5) (rs2 : BitVec 5) : RoundTrip.Statement (.addw rd rs1 rs2) := by
  intro hw w h
  change some (wordAddw rd rs1 rs2) = some w at h
  cases h
  refine decode_of_fields ((fields_decodeOp32 ?_).trans ?_) hw <;> simp [-BitVec.reduceAppend, wordAddw, decodeOp32, field4_25, field4_20, field4_15, field4_12, field4_7, field4_0]

theorem RoundTrip.subw (rd : BitVec 5) (rs1 : BitVec 5) (rs2 : BitVec 5) : RoundTrip.Statement (.subw rd rs1 rs2) := by
  intro hw w h
  change some (wordSubw rd rs1 rs2) = some w at h
  cases h
  refine decode_of_fields ((fields_decodeOp32 ?_).trans ?_) hw <;> simp [-BitVec.reduceAppend, wordSubw, decodeOp32, field4_25, field4_20, field4_15, field4_12, field4_7, field4_0]

theorem RoundTrip.sllw (rd : BitVec 5) (rs1 : BitVec 5) (rs2 : BitVec 5) : RoundTrip.Statement (.sllw rd rs1 rs2) := by
  intro hw w h
  change some (wordSllw rd rs1 rs2) = some w at h
  cases h
  refine decode_of_fields ((fields_decodeOp32 ?_).trans ?_) hw <;> simp [-BitVec.reduceAppend, wordSllw, decodeOp32, field4_25, field4_20, field4_15, field4_12, field4_7, field4_0]

theorem RoundTrip.srlw (rd : BitVec 5) (rs1 : BitVec 5) (rs2 : BitVec 5) : RoundTrip.Statement (.srlw rd rs1 rs2) := by
  intro hw w h
  change some (wordSrlw rd rs1 rs2) = some w at h
  cases h
  refine decode_of_fields ((fields_decodeOp32 ?_).trans ?_) hw <;> simp [-BitVec.reduceAppend, wordSrlw, decodeOp32, field4_25, field4_20, field4_15, field4_12, field4_7, field4_0]

theorem RoundTrip.sraw (rd : BitVec 5) (rs1 : BitVec 5) (rs2 : BitVec 5) : RoundTrip.Statement (.sraw rd rs1 rs2) := by
  intro hw w h
  change some (wordSraw rd rs1 rs2) = some w at h
  cases h
  refine decode_of_fields ((fields_decodeOp32 ?_).trans ?_) hw <;> simp [-BitVec.reduceAppend, wordSraw, decodeOp32, field4_25, field4_20, field4_15, field4_12, field4_7, field4_0]

theorem RoundTrip.mulw (rd : BitVec 5) (rs1 : BitVec 5) (rs2 : BitVec 5) : RoundTrip.Statement (.mulw rd rs1 rs2) := by
  intro hw w h
  change some (wordMulw rd rs1 rs2) = some w at h
  cases h
  refine decode_of_fields ((fields_decodeOp32 ?_).trans ?_) hw <;> simp [-BitVec.reduceAppend, wordMulw, decodeOp32, field4_25, field4_20, field4_15, field4_12, field4_7, field4_0]

theorem RoundTrip.divw (rd : BitVec 5) (rs1 : BitVec 5) (rs2 : BitVec 5) : RoundTrip.Statement (.divw rd rs1 rs2) := by
  intro hw w h
  change some (wordDivw rd rs1 rs2) = some w at h
  cases h
  refine decode_of_fields ((fields_decodeOp32 ?_).trans ?_) hw <;> simp [-BitVec.reduceAppend, wordDivw, decodeOp32, field4_25, field4_20, field4_15, field4_12, field4_7, field4_0]

theorem RoundTrip.divuw (rd : BitVec 5) (rs1 : BitVec 5) (rs2 : BitVec 5) : RoundTrip.Statement (.divuw rd rs1 rs2) := by
  intro hw w h
  change some (wordDivuw rd rs1 rs2) = some w at h
  cases h
  refine decode_of_fields ((fields_decodeOp32 ?_).trans ?_) hw <;> simp [-BitVec.reduceAppend, wordDivuw, decodeOp32, field4_25, field4_20, field4_15, field4_12, field4_7, field4_0]

theorem RoundTrip.remw (rd : BitVec 5) (rs1 : BitVec 5) (rs2 : BitVec 5) : RoundTrip.Statement (.remw rd rs1 rs2) := by
  intro hw w h
  change some (wordRemw rd rs1 rs2) = some w at h
  cases h
  refine decode_of_fields ((fields_decodeOp32 ?_).trans ?_) hw <;> simp [-BitVec.reduceAppend, wordRemw, decodeOp32, field4_25, field4_20, field4_15, field4_12, field4_7, field4_0]

theorem RoundTrip.remuw (rd : BitVec 5) (rs1 : BitVec 5) (rs2 : BitVec 5) : RoundTrip.Statement (.remuw rd rs1 rs2) := by
  intro hw w h
  change some (wordRemuw rd rs1 rs2) = some w at h
  cases h
  refine decode_of_fields ((fields_decodeOp32 ?_).trans ?_) hw <;> simp [-BitVec.reduceAppend, wordRemuw, decodeOp32, field4_25, field4_20, field4_15, field4_12, field4_7, field4_0]

theorem RoundTrip.fence (fm : BitVec 4) (pred : BitVec 4) (succ : BitVec 4) : RoundTrip.Statement (.fence fm pred succ) := by
  intro hw w h
  change some (wordFence fm pred succ) = some w at h
  cases h
  refine decode_of_fields ((fields_decodeMiscMem ?_).trans ?_) hw <;> simp [-BitVec.reduceAppend, wordFence, decodeMiscMem, field6_28, field6_24, field6_20, field6_15, field6_12, field6_7, field6_0]

theorem RoundTrip.ecall : RoundTrip.Statement (.ecall) := by
  intro hw w h
  change some (wordEcall) = some w at h
  cases h
  refine decode_of_fields ((fields_decodeSystem ?_).trans ?_) hw <;> simp [-BitVec.reduceAppend, wordEcall, decodeSystem, field4_25, field4_20, field4_15, field4_12, field4_7, field4_0]

theorem RoundTrip.ebreak : RoundTrip.Statement (.ebreak) := by
  intro hw w h
  change some (wordEbreak) = some w at h
  cases h
  refine decode_of_fields ((fields_decodeSystem ?_).trans ?_) hw <;> simp [-BitVec.reduceAppend, wordEbreak, decodeSystem, field4_25, field4_20, field4_15, field4_12, field4_7, field4_0]

theorem RoundTrip.csrrw (rd : BitVec 5) (csr : BitVec 12) (rs1 : BitVec 5) : RoundTrip.Statement (.csrrw rd csr rs1) := by
  intro hw w h
  change some (wordCsrrw rd csr rs1) = some w at h
  cases h
  refine decode_of_fields ((fields_decodeSystem ?_).trans ?_) hw <;> simp [-BitVec.reduceAppend, wordCsrrw, decodeSystem, field2_20, field2_15, field2_12, field2_7, field2_0]

theorem RoundTrip.csrrs (rd : BitVec 5) (csr : BitVec 12) (rs1 : BitVec 5) : RoundTrip.Statement (.csrrs rd csr rs1) := by
  intro hw w h
  change some (wordCsrrs rd csr rs1) = some w at h
  cases h
  refine decode_of_fields ((fields_decodeSystem ?_).trans ?_) hw <;> simp [-BitVec.reduceAppend, wordCsrrs, decodeSystem, field2_20, field2_15, field2_12, field2_7, field2_0]

theorem RoundTrip.csrrc (rd : BitVec 5) (csr : BitVec 12) (rs1 : BitVec 5) : RoundTrip.Statement (.csrrc rd csr rs1) := by
  intro hw w h
  change some (wordCsrrc rd csr rs1) = some w at h
  cases h
  refine decode_of_fields ((fields_decodeSystem ?_).trans ?_) hw <;> simp [-BitVec.reduceAppend, wordCsrrc, decodeSystem, field2_20, field2_15, field2_12, field2_7, field2_0]

theorem RoundTrip.csrrwi (rd : BitVec 5) (csr : BitVec 12) (uimm : BitVec 5) : RoundTrip.Statement (.csrrwi rd csr uimm) := by
  intro hw w h
  change some (wordCsrrwi rd csr uimm) = some w at h
  cases h
  refine decode_of_fields ((fields_decodeSystem ?_).trans ?_) hw <;> simp [-BitVec.reduceAppend, wordCsrrwi, decodeSystem, field2_20, field2_15, field2_12, field2_7, field2_0]

theorem RoundTrip.csrrsi (rd : BitVec 5) (csr : BitVec 12) (uimm : BitVec 5) : RoundTrip.Statement (.csrrsi rd csr uimm) := by
  intro hw w h
  change some (wordCsrrsi rd csr uimm) = some w at h
  cases h
  refine decode_of_fields ((fields_decodeSystem ?_).trans ?_) hw <;> simp [-BitVec.reduceAppend, wordCsrrsi, decodeSystem, field2_20, field2_15, field2_12, field2_7, field2_0]

theorem RoundTrip.csrrci (rd : BitVec 5) (csr : BitVec 12) (uimm : BitVec 5) : RoundTrip.Statement (.csrrci rd csr uimm) := by
  intro hw w h
  change some (wordCsrrci rd csr uimm) = some w at h
  cases h
  refine decode_of_fields ((fields_decodeSystem ?_).trans ?_) hw <;> simp [-BitVec.reduceAppend, wordCsrrci, decodeSystem, field2_20, field2_15, field2_12, field2_7, field2_0]

theorem RoundTrip.faddS (rd : BitVec 5) (rs1 : BitVec 5) (rs2 : BitVec 5) (rm : BitVec 3) : RoundTrip.Statement (.faddS rd rs1 rs2 rm) := by
  intro hw w h
  change some (wordFaddS rd rs1 rs2 rm) = some w at h
  cases h
  refine decode_of_fields ((fields_decodeOpFp ?_).trans ?_) hw <;> simp [-BitVec.reduceAppend, wordFaddS, decodeOpFp, field4_25, field4_20, field4_15, field4_12, field4_7, field4_0]

theorem RoundTrip.faddD (rd : BitVec 5) (rs1 : BitVec 5) (rs2 : BitVec 5) (rm : BitVec 3) : RoundTrip.Statement (.faddD rd rs1 rs2 rm) := by
  intro hw w h
  change some (wordFaddD rd rs1 rs2 rm) = some w at h
  cases h
  refine decode_of_fields ((fields_decodeOpFp ?_).trans ?_) hw <;> simp [-BitVec.reduceAppend, wordFaddD, decodeOpFp, field4_25, field4_20, field4_15, field4_12, field4_7, field4_0]

theorem RoundTrip.fsubS (rd : BitVec 5) (rs1 : BitVec 5) (rs2 : BitVec 5) (rm : BitVec 3) : RoundTrip.Statement (.fsubS rd rs1 rs2 rm) := by
  intro hw w h
  change some (wordFsubS rd rs1 rs2 rm) = some w at h
  cases h
  refine decode_of_fields ((fields_decodeOpFp ?_).trans ?_) hw <;> simp [-BitVec.reduceAppend, wordFsubS, decodeOpFp, field4_25, field4_20, field4_15, field4_12, field4_7, field4_0]

theorem RoundTrip.fsubD (rd : BitVec 5) (rs1 : BitVec 5) (rs2 : BitVec 5) (rm : BitVec 3) : RoundTrip.Statement (.fsubD rd rs1 rs2 rm) := by
  intro hw w h
  change some (wordFsubD rd rs1 rs2 rm) = some w at h
  cases h
  refine decode_of_fields ((fields_decodeOpFp ?_).trans ?_) hw <;> simp [-BitVec.reduceAppend, wordFsubD, decodeOpFp, field4_25, field4_20, field4_15, field4_12, field4_7, field4_0]

theorem RoundTrip.fmulS (rd : BitVec 5) (rs1 : BitVec 5) (rs2 : BitVec 5) (rm : BitVec 3) : RoundTrip.Statement (.fmulS rd rs1 rs2 rm) := by
  intro hw w h
  change some (wordFmulS rd rs1 rs2 rm) = some w at h
  cases h
  refine decode_of_fields ((fields_decodeOpFp ?_).trans ?_) hw <;> simp [-BitVec.reduceAppend, wordFmulS, decodeOpFp, field4_25, field4_20, field4_15, field4_12, field4_7, field4_0]

theorem RoundTrip.fmulD (rd : BitVec 5) (rs1 : BitVec 5) (rs2 : BitVec 5) (rm : BitVec 3) : RoundTrip.Statement (.fmulD rd rs1 rs2 rm) := by
  intro hw w h
  change some (wordFmulD rd rs1 rs2 rm) = some w at h
  cases h
  refine decode_of_fields ((fields_decodeOpFp ?_).trans ?_) hw <;> simp [-BitVec.reduceAppend, wordFmulD, decodeOpFp, field4_25, field4_20, field4_15, field4_12, field4_7, field4_0]

theorem RoundTrip.fdivS (rd : BitVec 5) (rs1 : BitVec 5) (rs2 : BitVec 5) (rm : BitVec 3) : RoundTrip.Statement (.fdivS rd rs1 rs2 rm) := by
  intro hw w h
  change some (wordFdivS rd rs1 rs2 rm) = some w at h
  cases h
  refine decode_of_fields ((fields_decodeOpFp ?_).trans ?_) hw <;> simp [-BitVec.reduceAppend, wordFdivS, decodeOpFp, field4_25, field4_20, field4_15, field4_12, field4_7, field4_0]

theorem RoundTrip.fdivD (rd : BitVec 5) (rs1 : BitVec 5) (rs2 : BitVec 5) (rm : BitVec 3) : RoundTrip.Statement (.fdivD rd rs1 rs2 rm) := by
  intro hw w h
  change some (wordFdivD rd rs1 rs2 rm) = some w at h
  cases h
  refine decode_of_fields ((fields_decodeOpFp ?_).trans ?_) hw <;> simp [-BitVec.reduceAppend, wordFdivD, decodeOpFp, field4_25, field4_20, field4_15, field4_12, field4_7, field4_0]

theorem RoundTrip.fsqrtS (rd : BitVec 5) (rs1 : BitVec 5) (rm : BitVec 3) : RoundTrip.Statement (.fsqrtS rd rs1 rm) := by
  intro hw w h
  change some (wordFsqrtS rd rs1 rm) = some w at h
  cases h
  refine decode_of_fields ((fields_decodeOpFp ?_).trans ?_) hw <;> simp [-BitVec.reduceAppend, wordFsqrtS, decodeOpFp, field4_25, field4_20, field4_15, field4_12, field4_7, field4_0]

theorem RoundTrip.fsqrtD (rd : BitVec 5) (rs1 : BitVec 5) (rm : BitVec 3) : RoundTrip.Statement (.fsqrtD rd rs1 rm) := by
  intro hw w h
  change some (wordFsqrtD rd rs1 rm) = some w at h
  cases h
  refine decode_of_fields ((fields_decodeOpFp ?_).trans ?_) hw <;> simp [-BitVec.reduceAppend, wordFsqrtD, decodeOpFp, field4_25, field4_20, field4_15, field4_12, field4_7, field4_0]

theorem RoundTrip.fsgnjS (rd : BitVec 5) (rs1 : BitVec 5) (rs2 : BitVec 5) : RoundTrip.Statement (.fsgnjS rd rs1 rs2) := by
  intro hw w h
  change some (wordFsgnjS rd rs1 rs2) = some w at h
  cases h
  refine decode_of_fields ((fields_decodeOpFp ?_).trans ?_) hw <;> simp [-BitVec.reduceAppend, wordFsgnjS, decodeOpFp, field4_25, field4_20, field4_15, field4_12, field4_7, field4_0]

theorem RoundTrip.fsgnjD (rd : BitVec 5) (rs1 : BitVec 5) (rs2 : BitVec 5) : RoundTrip.Statement (.fsgnjD rd rs1 rs2) := by
  intro hw w h
  change some (wordFsgnjD rd rs1 rs2) = some w at h
  cases h
  refine decode_of_fields ((fields_decodeOpFp ?_).trans ?_) hw <;> simp [-BitVec.reduceAppend, wordFsgnjD, decodeOpFp, field4_25, field4_20, field4_15, field4_12, field4_7, field4_0]

theorem RoundTrip.fsgnjnS (rd : BitVec 5) (rs1 : BitVec 5) (rs2 : BitVec 5) : RoundTrip.Statement (.fsgnjnS rd rs1 rs2) := by
  intro hw w h
  change some (wordFsgnjnS rd rs1 rs2) = some w at h
  cases h
  refine decode_of_fields ((fields_decodeOpFp ?_).trans ?_) hw <;> simp [-BitVec.reduceAppend, wordFsgnjnS, decodeOpFp, field4_25, field4_20, field4_15, field4_12, field4_7, field4_0]

theorem RoundTrip.fsgnjnD (rd : BitVec 5) (rs1 : BitVec 5) (rs2 : BitVec 5) : RoundTrip.Statement (.fsgnjnD rd rs1 rs2) := by
  intro hw w h
  change some (wordFsgnjnD rd rs1 rs2) = some w at h
  cases h
  refine decode_of_fields ((fields_decodeOpFp ?_).trans ?_) hw <;> simp [-BitVec.reduceAppend, wordFsgnjnD, decodeOpFp, field4_25, field4_20, field4_15, field4_12, field4_7, field4_0]

theorem RoundTrip.fsgnjxS (rd : BitVec 5) (rs1 : BitVec 5) (rs2 : BitVec 5) : RoundTrip.Statement (.fsgnjxS rd rs1 rs2) := by
  intro hw w h
  change some (wordFsgnjxS rd rs1 rs2) = some w at h
  cases h
  refine decode_of_fields ((fields_decodeOpFp ?_).trans ?_) hw <;> simp [-BitVec.reduceAppend, wordFsgnjxS, decodeOpFp, field4_25, field4_20, field4_15, field4_12, field4_7, field4_0]

theorem RoundTrip.fsgnjxD (rd : BitVec 5) (rs1 : BitVec 5) (rs2 : BitVec 5) : RoundTrip.Statement (.fsgnjxD rd rs1 rs2) := by
  intro hw w h
  change some (wordFsgnjxD rd rs1 rs2) = some w at h
  cases h
  refine decode_of_fields ((fields_decodeOpFp ?_).trans ?_) hw <;> simp [-BitVec.reduceAppend, wordFsgnjxD, decodeOpFp, field4_25, field4_20, field4_15, field4_12, field4_7, field4_0]

theorem RoundTrip.fminS (rd : BitVec 5) (rs1 : BitVec 5) (rs2 : BitVec 5) : RoundTrip.Statement (.fminS rd rs1 rs2) := by
  intro hw w h
  change some (wordFminS rd rs1 rs2) = some w at h
  cases h
  refine decode_of_fields ((fields_decodeOpFp ?_).trans ?_) hw <;> simp [-BitVec.reduceAppend, wordFminS, decodeOpFp, field4_25, field4_20, field4_15, field4_12, field4_7, field4_0]

theorem RoundTrip.fminD (rd : BitVec 5) (rs1 : BitVec 5) (rs2 : BitVec 5) : RoundTrip.Statement (.fminD rd rs1 rs2) := by
  intro hw w h
  change some (wordFminD rd rs1 rs2) = some w at h
  cases h
  refine decode_of_fields ((fields_decodeOpFp ?_).trans ?_) hw <;> simp [-BitVec.reduceAppend, wordFminD, decodeOpFp, field4_25, field4_20, field4_15, field4_12, field4_7, field4_0]

theorem RoundTrip.fmaxS (rd : BitVec 5) (rs1 : BitVec 5) (rs2 : BitVec 5) : RoundTrip.Statement (.fmaxS rd rs1 rs2) := by
  intro hw w h
  change some (wordFmaxS rd rs1 rs2) = some w at h
  cases h
  refine decode_of_fields ((fields_decodeOpFp ?_).trans ?_) hw <;> simp [-BitVec.reduceAppend, wordFmaxS, decodeOpFp, field4_25, field4_20, field4_15, field4_12, field4_7, field4_0]

theorem RoundTrip.fmaxD (rd : BitVec 5) (rs1 : BitVec 5) (rs2 : BitVec 5) : RoundTrip.Statement (.fmaxD rd rs1 rs2) := by
  intro hw w h
  change some (wordFmaxD rd rs1 rs2) = some w at h
  cases h
  refine decode_of_fields ((fields_decodeOpFp ?_).trans ?_) hw <;> simp [-BitVec.reduceAppend, wordFmaxD, decodeOpFp, field4_25, field4_20, field4_15, field4_12, field4_7, field4_0]

theorem RoundTrip.fleS (rd : BitVec 5) (rs1 : BitVec 5) (rs2 : BitVec 5) : RoundTrip.Statement (.fleS rd rs1 rs2) := by
  intro hw w h
  change some (wordFleS rd rs1 rs2) = some w at h
  cases h
  refine decode_of_fields ((fields_decodeOpFp ?_).trans ?_) hw <;> simp [-BitVec.reduceAppend, wordFleS, decodeOpFp, field4_25, field4_20, field4_15, field4_12, field4_7, field4_0]

theorem RoundTrip.fleD (rd : BitVec 5) (rs1 : BitVec 5) (rs2 : BitVec 5) : RoundTrip.Statement (.fleD rd rs1 rs2) := by
  intro hw w h
  change some (wordFleD rd rs1 rs2) = some w at h
  cases h
  refine decode_of_fields ((fields_decodeOpFp ?_).trans ?_) hw <;> simp [-BitVec.reduceAppend, wordFleD, decodeOpFp, field4_25, field4_20, field4_15, field4_12, field4_7, field4_0]

theorem RoundTrip.fltS (rd : BitVec 5) (rs1 : BitVec 5) (rs2 : BitVec 5) : RoundTrip.Statement (.fltS rd rs1 rs2) := by
  intro hw w h
  change some (wordFltS rd rs1 rs2) = some w at h
  cases h
  refine decode_of_fields ((fields_decodeOpFp ?_).trans ?_) hw <;> simp [-BitVec.reduceAppend, wordFltS, decodeOpFp, field4_25, field4_20, field4_15, field4_12, field4_7, field4_0]

theorem RoundTrip.fltD (rd : BitVec 5) (rs1 : BitVec 5) (rs2 : BitVec 5) : RoundTrip.Statement (.fltD rd rs1 rs2) := by
  intro hw w h
  change some (wordFltD rd rs1 rs2) = some w at h
  cases h
  refine decode_of_fields ((fields_decodeOpFp ?_).trans ?_) hw <;> simp [-BitVec.reduceAppend, wordFltD, decodeOpFp, field4_25, field4_20, field4_15, field4_12, field4_7, field4_0]

theorem RoundTrip.feqS (rd : BitVec 5) (rs1 : BitVec 5) (rs2 : BitVec 5) : RoundTrip.Statement (.feqS rd rs1 rs2) := by
  intro hw w h
  change some (wordFeqS rd rs1 rs2) = some w at h
  cases h
  refine decode_of_fields ((fields_decodeOpFp ?_).trans ?_) hw <;> simp [-BitVec.reduceAppend, wordFeqS, decodeOpFp, field4_25, field4_20, field4_15, field4_12, field4_7, field4_0]

theorem RoundTrip.feqD (rd : BitVec 5) (rs1 : BitVec 5) (rs2 : BitVec 5) : RoundTrip.Statement (.feqD rd rs1 rs2) := by
  intro hw w h
  change some (wordFeqD rd rs1 rs2) = some w at h
  cases h
  refine decode_of_fields ((fields_decodeOpFp ?_).trans ?_) hw <;> simp [-BitVec.reduceAppend, wordFeqD, decodeOpFp, field4_25, field4_20, field4_15, field4_12, field4_7, field4_0]

theorem RoundTrip.fclassS (rd : BitVec 5) (rs1 : BitVec 5) : RoundTrip.Statement (.fclassS rd rs1) := by
  intro hw w h
  change some (wordFclassS rd rs1) = some w at h
  cases h
  refine decode_of_fields ((fields_decodeOpFp ?_).trans ?_) hw <;> simp [-BitVec.reduceAppend, wordFclassS, decodeOpFp, field4_25, field4_20, field4_15, field4_12, field4_7, field4_0]

theorem RoundTrip.fclassD (rd : BitVec 5) (rs1 : BitVec 5) : RoundTrip.Statement (.fclassD rd rs1) := by
  intro hw w h
  change some (wordFclassD rd rs1) = some w at h
  cases h
  refine decode_of_fields ((fields_decodeOpFp ?_).trans ?_) hw <;> simp [-BitVec.reduceAppend, wordFclassD, decodeOpFp, field4_25, field4_20, field4_15, field4_12, field4_7, field4_0]

theorem RoundTrip.fcvtWS (rd : BitVec 5) (rs1 : BitVec 5) (rm : BitVec 3) : RoundTrip.Statement (.fcvtWS rd rs1 rm) := by
  intro hw w h
  change some (wordFcvtWS rd rs1 rm) = some w at h
  cases h
  refine decode_of_fields ((fields_decodeOpFp ?_).trans ?_) hw <;> simp [-BitVec.reduceAppend, wordFcvtWS, decodeOpFp, field4_25, field4_20, field4_15, field4_12, field4_7, field4_0]

theorem RoundTrip.fcvtWuS (rd : BitVec 5) (rs1 : BitVec 5) (rm : BitVec 3) : RoundTrip.Statement (.fcvtWuS rd rs1 rm) := by
  intro hw w h
  change some (wordFcvtWuS rd rs1 rm) = some w at h
  cases h
  refine decode_of_fields ((fields_decodeOpFp ?_).trans ?_) hw <;> simp [-BitVec.reduceAppend, wordFcvtWuS, decodeOpFp, field4_25, field4_20, field4_15, field4_12, field4_7, field4_0]

theorem RoundTrip.fcvtLS (rd : BitVec 5) (rs1 : BitVec 5) (rm : BitVec 3) : RoundTrip.Statement (.fcvtLS rd rs1 rm) := by
  intro hw w h
  change some (wordFcvtLS rd rs1 rm) = some w at h
  cases h
  refine decode_of_fields ((fields_decodeOpFp ?_).trans ?_) hw <;> simp [-BitVec.reduceAppend, wordFcvtLS, decodeOpFp, field4_25, field4_20, field4_15, field4_12, field4_7, field4_0]

theorem RoundTrip.fcvtLuS (rd : BitVec 5) (rs1 : BitVec 5) (rm : BitVec 3) : RoundTrip.Statement (.fcvtLuS rd rs1 rm) := by
  intro hw w h
  change some (wordFcvtLuS rd rs1 rm) = some w at h
  cases h
  refine decode_of_fields ((fields_decodeOpFp ?_).trans ?_) hw <;> simp [-BitVec.reduceAppend, wordFcvtLuS, decodeOpFp, field4_25, field4_20, field4_15, field4_12, field4_7, field4_0]

theorem RoundTrip.fcvtWD (rd : BitVec 5) (rs1 : BitVec 5) (rm : BitVec 3) : RoundTrip.Statement (.fcvtWD rd rs1 rm) := by
  intro hw w h
  change some (wordFcvtWD rd rs1 rm) = some w at h
  cases h
  refine decode_of_fields ((fields_decodeOpFp ?_).trans ?_) hw <;> simp [-BitVec.reduceAppend, wordFcvtWD, decodeOpFp, field4_25, field4_20, field4_15, field4_12, field4_7, field4_0]

theorem RoundTrip.fcvtWuD (rd : BitVec 5) (rs1 : BitVec 5) (rm : BitVec 3) : RoundTrip.Statement (.fcvtWuD rd rs1 rm) := by
  intro hw w h
  change some (wordFcvtWuD rd rs1 rm) = some w at h
  cases h
  refine decode_of_fields ((fields_decodeOpFp ?_).trans ?_) hw <;> simp [-BitVec.reduceAppend, wordFcvtWuD, decodeOpFp, field4_25, field4_20, field4_15, field4_12, field4_7, field4_0]

theorem RoundTrip.fcvtLD (rd : BitVec 5) (rs1 : BitVec 5) (rm : BitVec 3) : RoundTrip.Statement (.fcvtLD rd rs1 rm) := by
  intro hw w h
  change some (wordFcvtLD rd rs1 rm) = some w at h
  cases h
  refine decode_of_fields ((fields_decodeOpFp ?_).trans ?_) hw <;> simp [-BitVec.reduceAppend, wordFcvtLD, decodeOpFp, field4_25, field4_20, field4_15, field4_12, field4_7, field4_0]

theorem RoundTrip.fcvtLuD (rd : BitVec 5) (rs1 : BitVec 5) (rm : BitVec 3) : RoundTrip.Statement (.fcvtLuD rd rs1 rm) := by
  intro hw w h
  change some (wordFcvtLuD rd rs1 rm) = some w at h
  cases h
  refine decode_of_fields ((fields_decodeOpFp ?_).trans ?_) hw <;> simp [-BitVec.reduceAppend, wordFcvtLuD, decodeOpFp, field4_25, field4_20, field4_15, field4_12, field4_7, field4_0]

theorem RoundTrip.fcvtSW (rd : BitVec 5) (rs1 : BitVec 5) (rm : BitVec 3) : RoundTrip.Statement (.fcvtSW rd rs1 rm) := by
  intro hw w h
  change some (wordFcvtSW rd rs1 rm) = some w at h
  cases h
  refine decode_of_fields ((fields_decodeOpFp ?_).trans ?_) hw <;> simp [-BitVec.reduceAppend, wordFcvtSW, decodeOpFp, field4_25, field4_20, field4_15, field4_12, field4_7, field4_0]

theorem RoundTrip.fcvtSWu (rd : BitVec 5) (rs1 : BitVec 5) (rm : BitVec 3) : RoundTrip.Statement (.fcvtSWu rd rs1 rm) := by
  intro hw w h
  change some (wordFcvtSWu rd rs1 rm) = some w at h
  cases h
  refine decode_of_fields ((fields_decodeOpFp ?_).trans ?_) hw <;> simp [-BitVec.reduceAppend, wordFcvtSWu, decodeOpFp, field4_25, field4_20, field4_15, field4_12, field4_7, field4_0]

theorem RoundTrip.fcvtSL (rd : BitVec 5) (rs1 : BitVec 5) (rm : BitVec 3) : RoundTrip.Statement (.fcvtSL rd rs1 rm) := by
  intro hw w h
  change some (wordFcvtSL rd rs1 rm) = some w at h
  cases h
  refine decode_of_fields ((fields_decodeOpFp ?_).trans ?_) hw <;> simp [-BitVec.reduceAppend, wordFcvtSL, decodeOpFp, field4_25, field4_20, field4_15, field4_12, field4_7, field4_0]

theorem RoundTrip.fcvtSLu (rd : BitVec 5) (rs1 : BitVec 5) (rm : BitVec 3) : RoundTrip.Statement (.fcvtSLu rd rs1 rm) := by
  intro hw w h
  change some (wordFcvtSLu rd rs1 rm) = some w at h
  cases h
  refine decode_of_fields ((fields_decodeOpFp ?_).trans ?_) hw <;> simp [-BitVec.reduceAppend, wordFcvtSLu, decodeOpFp, field4_25, field4_20, field4_15, field4_12, field4_7, field4_0]

theorem RoundTrip.fcvtDW (rd : BitVec 5) (rs1 : BitVec 5) (rm : BitVec 3) : RoundTrip.Statement (.fcvtDW rd rs1 rm) := by
  intro hw w h
  change some (wordFcvtDW rd rs1 rm) = some w at h
  cases h
  refine decode_of_fields ((fields_decodeOpFp ?_).trans ?_) hw <;> simp [-BitVec.reduceAppend, wordFcvtDW, decodeOpFp, field4_25, field4_20, field4_15, field4_12, field4_7, field4_0]

theorem RoundTrip.fcvtDWu (rd : BitVec 5) (rs1 : BitVec 5) (rm : BitVec 3) : RoundTrip.Statement (.fcvtDWu rd rs1 rm) := by
  intro hw w h
  change some (wordFcvtDWu rd rs1 rm) = some w at h
  cases h
  refine decode_of_fields ((fields_decodeOpFp ?_).trans ?_) hw <;> simp [-BitVec.reduceAppend, wordFcvtDWu, decodeOpFp, field4_25, field4_20, field4_15, field4_12, field4_7, field4_0]

theorem RoundTrip.fcvtDL (rd : BitVec 5) (rs1 : BitVec 5) (rm : BitVec 3) : RoundTrip.Statement (.fcvtDL rd rs1 rm) := by
  intro hw w h
  change some (wordFcvtDL rd rs1 rm) = some w at h
  cases h
  refine decode_of_fields ((fields_decodeOpFp ?_).trans ?_) hw <;> simp [-BitVec.reduceAppend, wordFcvtDL, decodeOpFp, field4_25, field4_20, field4_15, field4_12, field4_7, field4_0]

theorem RoundTrip.fcvtDLu (rd : BitVec 5) (rs1 : BitVec 5) (rm : BitVec 3) : RoundTrip.Statement (.fcvtDLu rd rs1 rm) := by
  intro hw w h
  change some (wordFcvtDLu rd rs1 rm) = some w at h
  cases h
  refine decode_of_fields ((fields_decodeOpFp ?_).trans ?_) hw <;> simp [-BitVec.reduceAppend, wordFcvtDLu, decodeOpFp, field4_25, field4_20, field4_15, field4_12, field4_7, field4_0]

theorem RoundTrip.fcvtSD (rd : BitVec 5) (rs1 : BitVec 5) (rm : BitVec 3) : RoundTrip.Statement (.fcvtSD rd rs1 rm) := by
  intro hw w h
  change some (wordFcvtSD rd rs1 rm) = some w at h
  cases h
  refine decode_of_fields ((fields_decodeOpFp ?_).trans ?_) hw <;> simp [-BitVec.reduceAppend, wordFcvtSD, decodeOpFp, field4_25, field4_20, field4_15, field4_12, field4_7, field4_0]

theorem RoundTrip.fcvtDS (rd : BitVec 5) (rs1 : BitVec 5) (rm : BitVec 3) : RoundTrip.Statement (.fcvtDS rd rs1 rm) := by
  intro hw w h
  change some (wordFcvtDS rd rs1 rm) = some w at h
  cases h
  refine decode_of_fields ((fields_decodeOpFp ?_).trans ?_) hw <;> simp [-BitVec.reduceAppend, wordFcvtDS, decodeOpFp, field4_25, field4_20, field4_15, field4_12, field4_7, field4_0]

theorem RoundTrip.fmaddS (rd : BitVec 5) (rs1 : BitVec 5) (rs2 : BitVec 5) (rs3 : BitVec 5) (rm : BitVec 3) : RoundTrip.Statement (.fmaddS rd rs1 rs2 rs3 rm) := by
  intro hw w h
  change some (wordFmaddS rd rs1 rs2 rs3 rm) = some w at h
  cases h
  refine decode_of_fields ((fields_decodeMadd ?_).trans ?_) hw <;> simp [-BitVec.reduceAppend, wordFmaddS, decodeMadd, field7_27, field7_25, field7_20, field7_15, field7_12, field7_7, field7_0]

theorem RoundTrip.fmaddD (rd : BitVec 5) (rs1 : BitVec 5) (rs2 : BitVec 5) (rs3 : BitVec 5) (rm : BitVec 3) : RoundTrip.Statement (.fmaddD rd rs1 rs2 rs3 rm) := by
  intro hw w h
  change some (wordFmaddD rd rs1 rs2 rs3 rm) = some w at h
  cases h
  refine decode_of_fields ((fields_decodeMadd ?_).trans ?_) hw <;> simp [-BitVec.reduceAppend, wordFmaddD, decodeMadd, field7_27, field7_25, field7_20, field7_15, field7_12, field7_7, field7_0]

theorem RoundTrip.fmsubS (rd : BitVec 5) (rs1 : BitVec 5) (rs2 : BitVec 5) (rs3 : BitVec 5) (rm : BitVec 3) : RoundTrip.Statement (.fmsubS rd rs1 rs2 rs3 rm) := by
  intro hw w h
  change some (wordFmsubS rd rs1 rs2 rs3 rm) = some w at h
  cases h
  refine decode_of_fields ((fields_decodeMsub ?_).trans ?_) hw <;> simp [-BitVec.reduceAppend, wordFmsubS, decodeMsub, field7_27, field7_25, field7_20, field7_15, field7_12, field7_7, field7_0]

theorem RoundTrip.fmsubD (rd : BitVec 5) (rs1 : BitVec 5) (rs2 : BitVec 5) (rs3 : BitVec 5) (rm : BitVec 3) : RoundTrip.Statement (.fmsubD rd rs1 rs2 rs3 rm) := by
  intro hw w h
  change some (wordFmsubD rd rs1 rs2 rs3 rm) = some w at h
  cases h
  refine decode_of_fields ((fields_decodeMsub ?_).trans ?_) hw <;> simp [-BitVec.reduceAppend, wordFmsubD, decodeMsub, field7_27, field7_25, field7_20, field7_15, field7_12, field7_7, field7_0]

theorem RoundTrip.fnmsubS (rd : BitVec 5) (rs1 : BitVec 5) (rs2 : BitVec 5) (rs3 : BitVec 5) (rm : BitVec 3) : RoundTrip.Statement (.fnmsubS rd rs1 rs2 rs3 rm) := by
  intro hw w h
  change some (wordFnmsubS rd rs1 rs2 rs3 rm) = some w at h
  cases h
  refine decode_of_fields ((fields_decodeNmsub ?_).trans ?_) hw <;> simp [-BitVec.reduceAppend, wordFnmsubS, decodeNmsub, field7_27, field7_25, field7_20, field7_15, field7_12, field7_7, field7_0]

theorem RoundTrip.fnmsubD (rd : BitVec 5) (rs1 : BitVec 5) (rs2 : BitVec 5) (rs3 : BitVec 5) (rm : BitVec 3) : RoundTrip.Statement (.fnmsubD rd rs1 rs2 rs3 rm) := by
  intro hw w h
  change some (wordFnmsubD rd rs1 rs2 rs3 rm) = some w at h
  cases h
  refine decode_of_fields ((fields_decodeNmsub ?_).trans ?_) hw <;> simp [-BitVec.reduceAppend, wordFnmsubD, decodeNmsub, field7_27, field7_25, field7_20, field7_15, field7_12, field7_7, field7_0]

theorem RoundTrip.fnmaddS (rd : BitVec 5) (rs1 : BitVec 5) (rs2 : BitVec 5) (rs3 : BitVec 5) (rm : BitVec 3) : RoundTrip.Statement (.fnmaddS rd rs1 rs2 rs3 rm) := by
  intro hw w h
  change some (wordFnmaddS rd rs1 rs2 rs3 rm) = some w at h
  cases h
  refine decode_of_fields ((fields_decodeNmadd ?_).trans ?_) hw <;> simp [-BitVec.reduceAppend, wordFnmaddS, decodeNmadd, field7_27, field7_25, field7_20, field7_15, field7_12, field7_7, field7_0]

theorem RoundTrip.fnmaddD (rd : BitVec 5) (rs1 : BitVec 5) (rs2 : BitVec 5) (rs3 : BitVec 5) (rm : BitVec 3) : RoundTrip.Statement (.fnmaddD rd rs1 rs2 rs3 rm) := by
  intro hw w h
  change some (wordFnmaddD rd rs1 rs2 rs3 rm) = some w at h
  cases h
  refine decode_of_fields ((fields_decodeNmadd ?_).trans ?_) hw <;> simp [-BitVec.reduceAppend, wordFnmaddD, decodeNmadd, field7_27, field7_25, field7_20, field7_15, field7_12, field7_7, field7_0]

theorem RoundTrip.cbase (rd : BitVec 5) (rs1 : BitVec 5) : RoundTrip.Statement (.cbase rd rs1) := by
  intro hw w h
  change some (wordCbase rd rs1) = some w at h
  cases h
  refine decode_of_fields ((fields_decodeCustom0 ?_).trans ?_) hw <;> simp [-BitVec.reduceAppend, wordCbase, decodeCustom0, decodeCustom0F0, field4_25, field4_20, field4_15, field4_12, field4_7, field4_0]

theorem RoundTrip.clen (rd : BitVec 5) (rs1 : BitVec 5) : RoundTrip.Statement (.clen rd rs1) := by
  intro hw w h
  change some (wordClen rd rs1) = some w at h
  cases h
  refine decode_of_fields ((fields_decodeCustom0 ?_).trans ?_) hw <;> simp [-BitVec.reduceAppend, wordClen, decodeCustom0, decodeCustom0F0, field4_25, field4_20, field4_15, field4_12, field4_7, field4_0]

theorem RoundTrip.cperm (rd : BitVec 5) (rs1 : BitVec 5) : RoundTrip.Statement (.cperm rd rs1) := by
  intro hw w h
  change some (wordCperm rd rs1) = some w at h
  cases h
  refine decode_of_fields ((fields_decodeCustom0 ?_).trans ?_) hw <;> simp [-BitVec.reduceAppend, wordCperm, decodeCustom0, decodeCustom0F0, field4_25, field4_20, field4_15, field4_12, field4_7, field4_0]

theorem RoundTrip.ctag (rd : BitVec 5) (rs1 : BitVec 5) : RoundTrip.Statement (.ctag rd rs1) := by
  intro hw w h
  change some (wordCtag rd rs1) = some w at h
  cases h
  refine decode_of_fields ((fields_decodeCustom0 ?_).trans ?_) hw <;> simp [-BitVec.reduceAppend, wordCtag, decodeCustom0, decodeCustom0F0, field4_25, field4_20, field4_15, field4_12, field4_7, field4_0]

theorem RoundTrip.cbnd (rd : BitVec 5) (rs1 : BitVec 5) (rs2 : BitVec 5) : RoundTrip.Statement (.cbnd rd rs1 rs2) := by
  intro hw w h
  change some (wordCbnd rd rs1 rs2) = some w at h
  cases h
  refine decode_of_fields ((fields_decodeCustom0 ?_).trans ?_) hw <;> simp [-BitVec.reduceAppend, wordCbnd, decodeCustom0, decodeCustom0F0, field4_25, field4_20, field4_15, field4_12, field4_7, field4_0]

theorem RoundTrip.cbndx (rd : BitVec 5) (rs1 : BitVec 5) (rs2 : BitVec 5) : RoundTrip.Statement (.cbndx rd rs1 rs2) := by
  intro hw w h
  change some (wordCbndx rd rs1 rs2) = some w at h
  cases h
  refine decode_of_fields ((fields_decodeCustom0 ?_).trans ?_) hw <;> simp [-BitVec.reduceAppend, wordCbndx, decodeCustom0, decodeCustom0F0, field4_25, field4_20, field4_15, field4_12, field4_7, field4_0]

theorem RoundTrip.cadd (rd : BitVec 5) (rs1 : BitVec 5) (rs2 : BitVec 5) : RoundTrip.Statement (.cadd rd rs1 rs2) := by
  intro hw w h
  change some (wordCadd rd rs1 rs2) = some w at h
  cases h
  refine decode_of_fields ((fields_decodeCustom0 ?_).trans ?_) hw <;> simp [-BitVec.reduceAppend, wordCadd, decodeCustom0, decodeCustom0F0, field4_25, field4_20, field4_15, field4_12, field4_7, field4_0]

theorem RoundTrip.cset (rd : BitVec 5) (rs1 : BitVec 5) (rs2 : BitVec 5) : RoundTrip.Statement (.cset rd rs1 rs2) := by
  intro hw w h
  change some (wordCset rd rs1 rs2) = some w at h
  cases h
  refine decode_of_fields ((fields_decodeCustom0 ?_).trans ?_) hw <;> simp [-BitVec.reduceAppend, wordCset, decodeCustom0, decodeCustom0F0, field4_25, field4_20, field4_15, field4_12, field4_7, field4_0]

theorem RoundTrip.candp (rd : BitVec 5) (rs1 : BitVec 5) (rs2 : BitVec 5) : RoundTrip.Statement (.candp rd rs1 rs2) := by
  intro hw w h
  change some (wordCandp rd rs1 rs2) = some w at h
  cases h
  refine decode_of_fields ((fields_decodeCustom0 ?_).trans ?_) hw <;> simp [-BitVec.reduceAppend, wordCandp, decodeCustom0, decodeCustom0F0, field4_25, field4_20, field4_15, field4_12, field4_7, field4_0]

theorem RoundTrip.cmv (rd : BitVec 5) (rs1 : BitVec 5) : RoundTrip.Statement (.cmv rd rs1) := by
  intro hw w h
  change some (wordCmv rd rs1) = some w at h
  cases h
  refine decode_of_fields ((fields_decodeCustom0 ?_).trans ?_) hw <;> simp [-BitVec.reduceAppend, wordCmv, decodeCustom0, decodeCustom0F0, field4_25, field4_20, field4_15, field4_12, field4_7, field4_0]

theorem RoundTrip.cclr (rd : BitVec 5) (rs1 : BitVec 5) : RoundTrip.Statement (.cclr rd rs1) := by
  intro hw w h
  change some (wordCclr rd rs1) = some w at h
  cases h
  refine decode_of_fields ((fields_decodeCustom0 ?_).trans ?_) hw <;> simp [-BitVec.reduceAppend, wordCclr, decodeCustom0, decodeCustom0F0, field4_25, field4_20, field4_15, field4_12, field4_7, field4_0]

theorem RoundTrip.csub (rd : BitVec 5) (rs1 : BitVec 5) (rs2 : BitVec 5) : RoundTrip.Statement (.csub rd rs1 rs2) := by
  intro hw w h
  change some (wordCsub rd rs1 rs2) = some w at h
  cases h
  refine decode_of_fields ((fields_decodeCustom0 ?_).trans ?_) hw <;> simp [-BitVec.reduceAppend, wordCsub, decodeCustom0, decodeCustom0F0, field4_25, field4_20, field4_15, field4_12, field4_7, field4_0]

theorem RoundTrip.cseal (rd : BitVec 5) (rs1 : BitVec 5) (rs2 : BitVec 5) : RoundTrip.Statement (.cseal rd rs1 rs2) := by
  intro hw w h
  change some (wordCseal rd rs1 rs2) = some w at h
  cases h
  refine decode_of_fields ((fields_decodeCustom0 ?_).trans ?_) hw <;> simp [-BitVec.reduceAppend, wordCseal, decodeCustom0, decodeCustom0F0, field4_25, field4_20, field4_15, field4_12, field4_7, field4_0]

theorem RoundTrip.cunseal (rd : BitVec 5) (rs1 : BitVec 5) (rs2 : BitVec 5) : RoundTrip.Statement (.cunseal rd rs1 rs2) := by
  intro hw w h
  change some (wordCunseal rd rs1 rs2) = some w at h
  cases h
  refine decode_of_fields ((fields_decodeCustom0 ?_).trans ?_) hw <;> simp [-BitVec.reduceAppend, wordCunseal, decodeCustom0, decodeCustom0F0, field4_25, field4_20, field4_15, field4_12, field4_7, field4_0]

theorem RoundTrip.caddi (rd : BitVec 5) (rs1 : BitVec 5) (imm : BitVec 12) : RoundTrip.Statement (.caddi rd rs1 imm) := by
  intro hw w h
  change some (wordCaddi rd rs1 imm) = some w at h
  cases h
  refine decode_of_fields ((fields_decodeCustom0 ?_).trans ?_) hw <;> simp [-BitVec.reduceAppend, wordCaddi, decodeCustom0, decodeCustom0F1, field2_20, field2_15, field2_12, field2_7, field2_0]

theorem RoundTrip.clc (rd : BitVec 5) (rs1 : BitVec 5) (imm : BitVec 12) : RoundTrip.Statement (.clc rd rs1 imm) := by
  intro hw w h
  change some (wordClc rd rs1 imm) = some w at h
  cases h
  refine decode_of_fields ((fields_decodeCustom0 ?_).trans ?_) hw <;> simp [-BitVec.reduceAppend, wordClc, decodeCustom0, decodeCustom0F2, field2_20, field2_15, field2_12, field2_7, field2_0]

theorem RoundTrip.csc (rs2 : BitVec 5) (rs1 : BitVec 5) (imm : BitVec 12) : RoundTrip.Statement (.csc rs2 rs1 imm) := by
  intro hw w h
  change some (wordCsc rs2 rs1 imm) = some w at h
  cases h
  refine decode_of_fields ((fields_decodeCustom0 ?_).trans ?_) hw <;> simp [-BitVec.reduceAppend, wordCsc, decodeCustom0, decodeCustom0F3, field4_25, field4_20, field4_15, field4_12, field4_7, field4_0, join_store]

theorem RoundTrip.lda (rd : BitVec 5) (rs1 : BitVec 5) (sz : BitVec 2) (sc : BitVec 3) : RoundTrip.Statement (.lda rd rs1 sz sc) := by
  intro hw w h
  change some (wordLda rd rs1 sz sc) = some w at h
  cases h
  refine decode_of_fields ((fields_decodeCustom0 ?_).trans ?_) hw <;> simp [-BitVec.reduceAppend, wordLda, decodeCustom0, decodeCustom0F4, field8_30, field8_28, field8_25, field8_20, field8_15, field8_12, field8_7, field8_0]

theorem RoundTrip.stl (rs1 : BitVec 5) (rs2 : BitVec 5) (sz : BitVec 2) (sc : BitVec 3) : RoundTrip.Statement (.stl rs1 rs2 sz sc) := by
  intro hw w h
  change some (wordStl rs1 rs2 sz sc) = some w at h
  cases h
  refine decode_of_fields ((fields_decodeCustom0 ?_).trans ?_) hw <;> simp [-BitVec.reduceAppend, wordStl, decodeCustom0, decodeCustom0F4, field8_30, field8_28, field8_25, field8_20, field8_15, field8_12, field8_7, field8_0]

theorem RoundTrip.fenceScoped (sc : BitVec 3) : RoundTrip.Statement (.fenceScoped sc) := by
  intro hw w h
  change some (wordFenceScoped sc) = some w at h
  cases h
  refine decode_of_fields ((fields_decodeCustom0 ?_).trans ?_) hw <;> simp [-BitVec.reduceAppend, wordFenceScoped, decodeCustom0, decodeCustom0F4, field9_28, field9_25, field9_20, field9_15, field9_12, field9_7, field9_0, fence_top]

theorem RoundTrip.taglk (rd : BitVec 5) (rs1 : BitVec 5) : RoundTrip.Statement (.taglk rd rs1) := by
  intro hw w h
  change some (wordTaglk rd rs1) = some w at h
  cases h
  refine decode_of_fields ((fields_decodeCustom0 ?_).trans ?_) hw <;> simp [-BitVec.reduceAppend, wordTaglk, decodeCustom0, decodeCustom0F5, field4_25, field4_20, field4_15, field4_12, field4_7, field4_0]

theorem RoundTrip.tagins (rd : BitVec 5) (rs1 : BitVec 5) (rs2 : BitVec 5) : RoundTrip.Statement (.tagins rd rs1 rs2) := by
  intro hw w h
  change some (wordTagins rd rs1 rs2) = some w at h
  cases h
  refine decode_of_fields ((fields_decodeCustom0 ?_).trans ?_) hw <;> simp [-BitVec.reduceAppend, wordTagins, decodeCustom0, decodeCustom0F5, field4_25, field4_20, field4_15, field4_12, field4_7, field4_0]

theorem RoundTrip.tagdel (rs1 : BitVec 5) : RoundTrip.Statement (.tagdel rs1) := by
  intro hw w h
  change some (wordTagdel rs1) = some w at h
  cases h
  refine decode_of_fields ((fields_decodeCustom0 ?_).trans ?_) hw <;> simp [-BitVec.reduceAppend, wordTagdel, decodeCustom0, decodeCustom0F5, field4_25, field4_20, field4_15, field4_12, field4_7, field4_0]

theorem RoundTrip.tagpin (rs1 : BitVec 5) : RoundTrip.Statement (.tagpin rs1) := by
  intro hw w h
  change some (wordTagpin rs1) = some w at h
  cases h
  refine decode_of_fields ((fields_decodeCustom0 ?_).trans ?_) hw <;> simp [-BitVec.reduceAppend, wordTagpin, decodeCustom0, decodeCustom0F5, field4_25, field4_20, field4_15, field4_12, field4_7, field4_0]

theorem RoundTrip.tagunpin (rs1 : BitVec 5) : RoundTrip.Statement (.tagunpin rs1) := by
  intro hw w h
  change some (wordTagunpin rs1) = some w at h
  cases h
  refine decode_of_fields ((fields_decodeCustom0 ?_).trans ?_) hw <;> simp [-BitVec.reduceAppend, wordTagunpin, decodeCustom0, decodeCustom0F5, field4_25, field4_20, field4_15, field4_12, field4_7, field4_0]

theorem RoundTrip.cbinit (bd : BitVec 4) (rs1 : BitVec 5) : RoundTrip.Statement (.cbinit bd rs1) := by
  intro hw w h
  change some (wordCbinit bd rs1) = some w at h
  cases h
  refine decode_of_fields ((fields_decodeCustom0 ?_).trans ?_) hw <;> simp [-BitVec.reduceAppend, wordCbinit, decodeCustom0, decodeCustom0F5, field10_25, field10_20, field10_15, field10_12, field10_11, field10_7, field10_0]

theorem RoundTrip.cbput (bd : BitVec 4) : RoundTrip.Statement (.cbput bd) := by
  intro hw w h
  change some (wordCbput bd) = some w at h
  cases h
  refine decode_of_fields ((fields_decodeCustom0 ?_).trans ?_) hw <;> simp [-BitVec.reduceAppend, wordCbput, decodeCustom0, decodeCustom0F5, field10_25, field10_20, field10_15, field10_12, field10_11, field10_7, field10_0]

theorem RoundTrip.cbget (rd : BitVec 5) (bs : BitVec 4) : RoundTrip.Statement (.cbget rd bs) := by
  intro hw w h
  change some (wordCbget rd bs) = some w at h
  cases h
  refine decode_of_fields ((fields_decodeCustom0 ?_).trans ?_) hw <;> simp [-BitVec.reduceAppend, wordCbget, decodeCustom0, decodeCustom0F5, field11_25, field11_20, field11_19, field11_15, field11_12, field11_7, field11_0]

theorem RoundTrip.cbrel (bd : BitVec 4) : RoundTrip.Statement (.cbrel bd) := by
  intro hw w h
  change some (wordCbrel bd) = some w at h
  cases h
  refine decode_of_fields ((fields_decodeCustom0 ?_).trans ?_) hw <;> simp [-BitVec.reduceAppend, wordCbrel, decodeCustom0, decodeCustom0F5, field10_25, field10_20, field10_15, field10_12, field10_11, field10_7, field10_0]

theorem RoundTrip.cbstat (rd : BitVec 5) (bs : BitVec 4) : RoundTrip.Statement (.cbstat rd bs) := by
  intro hw w h
  change some (wordCbstat rd bs) = some w at h
  cases h
  refine decode_of_fields ((fields_decodeCustom0 ?_).trans ?_) hw <;> simp [-BitVec.reduceAppend, wordCbstat, decodeCustom0, decodeCustom0F5, field11_25, field11_20, field11_19, field11_15, field11_12, field11_7, field11_0]

theorem RoundTrip.barinit (rs1 : BitVec 5) (rs2 : BitVec 5) : RoundTrip.Statement (.barinit rs1 rs2) := by
  intro hw w h
  change some (wordBarinit rs1 rs2) = some w at h
  cases h
  refine decode_of_fields ((fields_decodeCustom0 ?_).trans ?_) hw <;> simp [-BitVec.reduceAppend, wordBarinit, decodeCustom0, decodeCustom0F6, field4_25, field4_20, field4_15, field4_12, field4_7, field4_0]

theorem RoundTrip.bararv (rd : BitVec 5) (rs1 : BitVec 5) (rs2 : BitVec 5) : RoundTrip.Statement (.bararv rd rs1 rs2) := by
  intro hw w h
  change some (wordBararv rd rs1 rs2) = some w at h
  cases h
  refine decode_of_fields ((fields_decodeCustom0 ?_).trans ?_) hw <;> simp [-BitVec.reduceAppend, wordBararv, decodeCustom0, decodeCustom0F6, field4_25, field4_20, field4_15, field4_12, field4_7, field4_0]

theorem RoundTrip.bardrop (rd : BitVec 5) (rs1 : BitVec 5) : RoundTrip.Statement (.bardrop rd rs1) := by
  intro hw w h
  change some (wordBardrop rd rs1) = some w at h
  cases h
  refine decode_of_fields ((fields_decodeCustom0 ?_).trans ?_) hw <;> simp [-BitVec.reduceAppend, wordBardrop, decodeCustom0, decodeCustom0F6, field4_25, field4_20, field4_15, field4_12, field4_7, field4_0]

theorem RoundTrip.barwait (rd : BitVec 5) (rs1 : BitVec 5) (rs2 : BitVec 5) : RoundTrip.Statement (.barwait rd rs1 rs2) := by
  intro hw w h
  change some (wordBarwait rd rs1 rs2) = some w at h
  cases h
  refine decode_of_fields ((fields_decodeCustom0 ?_).trans ?_) hw <;> simp [-BitVec.reduceAppend, wordBarwait, decodeCustom0, decodeCustom0F6, field4_25, field4_20, field4_15, field4_12, field4_7, field4_0]

theorem RoundTrip.barrd (rd : BitVec 5) (rs1 : BitVec 5) : RoundTrip.Statement (.barrd rd rs1) := by
  intro hw w h
  change some (wordBarrd rd rs1) = some w at h
  cases h
  refine decode_of_fields ((fields_decodeCustom0 ?_).trans ?_) hw <;> simp [-BitVec.reduceAppend, wordBarrd, decodeCustom0, decodeCustom0F6, field4_25, field4_20, field4_15, field4_12, field4_7, field4_0]

theorem RoundTrip.amoAddW (rd : BitVec 5) (rs1 : BitVec 5) (rs2 : BitVec 5) : RoundTrip.Statement (.amoAddW rd rs1 rs2) := by
  intro hw w h
  change some (wordAmoAddW rd rs1 rs2) = some w at h
  cases h
  refine decode_of_fields ((fields_decodeCustom0 ?_).trans ?_) hw <;> simp [-BitVec.reduceAppend, wordAmoAddW, decodeCustom0, decodeCustom0F6, field4_25, field4_20, field4_15, field4_12, field4_7, field4_0]

theorem RoundTrip.amoAddD (rd : BitVec 5) (rs1 : BitVec 5) (rs2 : BitVec 5) : RoundTrip.Statement (.amoAddD rd rs1 rs2) := by
  intro hw w h
  change some (wordAmoAddD rd rs1 rs2) = some w at h
  cases h
  refine decode_of_fields ((fields_decodeCustom0 ?_).trans ?_) hw <;> simp [-BitVec.reduceAppend, wordAmoAddD, decodeCustom0, decodeCustom0F6, field4_25, field4_20, field4_15, field4_12, field4_7, field4_0]

theorem RoundTrip.amoAddfW (rd : BitVec 5) (rs1 : BitVec 5) (rs2 : BitVec 5) : RoundTrip.Statement (.amoAddfW rd rs1 rs2) := by
  intro hw w h
  change some (wordAmoAddfW rd rs1 rs2) = some w at h
  cases h
  refine decode_of_fields ((fields_decodeCustom0 ?_).trans ?_) hw <;> simp [-BitVec.reduceAppend, wordAmoAddfW, decodeCustom0, decodeCustom0F6, field4_25, field4_20, field4_15, field4_12, field4_7, field4_0]

theorem RoundTrip.amoAddfD (rd : BitVec 5) (rs1 : BitVec 5) (rs2 : BitVec 5) : RoundTrip.Statement (.amoAddfD rd rs1 rs2) := by
  intro hw w h
  change some (wordAmoAddfD rd rs1 rs2) = some w at h
  cases h
  refine decode_of_fields ((fields_decodeCustom0 ?_).trans ?_) hw <;> simp [-BitVec.reduceAppend, wordAmoAddfD, decodeCustom0, decodeCustom0F6, field4_25, field4_20, field4_15, field4_12, field4_7, field4_0]

theorem RoundTrip.amoMinW (rd : BitVec 5) (rs1 : BitVec 5) (rs2 : BitVec 5) : RoundTrip.Statement (.amoMinW rd rs1 rs2) := by
  intro hw w h
  change some (wordAmoMinW rd rs1 rs2) = some w at h
  cases h
  refine decode_of_fields ((fields_decodeCustom0 ?_).trans ?_) hw <;> simp [-BitVec.reduceAppend, wordAmoMinW, decodeCustom0, decodeCustom0F6, field4_25, field4_20, field4_15, field4_12, field4_7, field4_0]

theorem RoundTrip.amoMinD (rd : BitVec 5) (rs1 : BitVec 5) (rs2 : BitVec 5) : RoundTrip.Statement (.amoMinD rd rs1 rs2) := by
  intro hw w h
  change some (wordAmoMinD rd rs1 rs2) = some w at h
  cases h
  refine decode_of_fields ((fields_decodeCustom0 ?_).trans ?_) hw <;> simp [-BitVec.reduceAppend, wordAmoMinD, decodeCustom0, decodeCustom0F6, field4_25, field4_20, field4_15, field4_12, field4_7, field4_0]

theorem RoundTrip.amoMaxW (rd : BitVec 5) (rs1 : BitVec 5) (rs2 : BitVec 5) : RoundTrip.Statement (.amoMaxW rd rs1 rs2) := by
  intro hw w h
  change some (wordAmoMaxW rd rs1 rs2) = some w at h
  cases h
  refine decode_of_fields ((fields_decodeCustom0 ?_).trans ?_) hw <;> simp [-BitVec.reduceAppend, wordAmoMaxW, decodeCustom0, decodeCustom0F6, field4_25, field4_20, field4_15, field4_12, field4_7, field4_0]

theorem RoundTrip.amoMaxD (rd : BitVec 5) (rs1 : BitVec 5) (rs2 : BitVec 5) : RoundTrip.Statement (.amoMaxD rd rs1 rs2) := by
  intro hw w h
  change some (wordAmoMaxD rd rs1 rs2) = some w at h
  cases h
  refine decode_of_fields ((fields_decodeCustom0 ?_).trans ?_) hw <;> simp [-BitVec.reduceAppend, wordAmoMaxD, decodeCustom0, decodeCustom0F6, field4_25, field4_20, field4_15, field4_12, field4_7, field4_0]

theorem RoundTrip.amoMinuW (rd : BitVec 5) (rs1 : BitVec 5) (rs2 : BitVec 5) : RoundTrip.Statement (.amoMinuW rd rs1 rs2) := by
  intro hw w h
  change some (wordAmoMinuW rd rs1 rs2) = some w at h
  cases h
  refine decode_of_fields ((fields_decodeCustom0 ?_).trans ?_) hw <;> simp [-BitVec.reduceAppend, wordAmoMinuW, decodeCustom0, decodeCustom0F6, field4_25, field4_20, field4_15, field4_12, field4_7, field4_0]

theorem RoundTrip.amoMinuD (rd : BitVec 5) (rs1 : BitVec 5) (rs2 : BitVec 5) : RoundTrip.Statement (.amoMinuD rd rs1 rs2) := by
  intro hw w h
  change some (wordAmoMinuD rd rs1 rs2) = some w at h
  cases h
  refine decode_of_fields ((fields_decodeCustom0 ?_).trans ?_) hw <;> simp [-BitVec.reduceAppend, wordAmoMinuD, decodeCustom0, decodeCustom0F6, field4_25, field4_20, field4_15, field4_12, field4_7, field4_0]

theorem RoundTrip.amoMaxuW (rd : BitVec 5) (rs1 : BitVec 5) (rs2 : BitVec 5) : RoundTrip.Statement (.amoMaxuW rd rs1 rs2) := by
  intro hw w h
  change some (wordAmoMaxuW rd rs1 rs2) = some w at h
  cases h
  refine decode_of_fields ((fields_decodeCustom0 ?_).trans ?_) hw <;> simp [-BitVec.reduceAppend, wordAmoMaxuW, decodeCustom0, decodeCustom0F6, field4_25, field4_20, field4_15, field4_12, field4_7, field4_0]

theorem RoundTrip.amoMaxuD (rd : BitVec 5) (rs1 : BitVec 5) (rs2 : BitVec 5) : RoundTrip.Statement (.amoMaxuD rd rs1 rs2) := by
  intro hw w h
  change some (wordAmoMaxuD rd rs1 rs2) = some w at h
  cases h
  refine decode_of_fields ((fields_decodeCustom0 ?_).trans ?_) hw <;> simp [-BitVec.reduceAppend, wordAmoMaxuD, decodeCustom0, decodeCustom0F6, field4_25, field4_20, field4_15, field4_12, field4_7, field4_0]

theorem RoundTrip.amoSwapW (rd : BitVec 5) (rs1 : BitVec 5) (rs2 : BitVec 5) : RoundTrip.Statement (.amoSwapW rd rs1 rs2) := by
  intro hw w h
  change some (wordAmoSwapW rd rs1 rs2) = some w at h
  cases h
  refine decode_of_fields ((fields_decodeCustom0 ?_).trans ?_) hw <;> simp [-BitVec.reduceAppend, wordAmoSwapW, decodeCustom0, decodeCustom0F6, field4_25, field4_20, field4_15, field4_12, field4_7, field4_0]

theorem RoundTrip.amoSwapD (rd : BitVec 5) (rs1 : BitVec 5) (rs2 : BitVec 5) : RoundTrip.Statement (.amoSwapD rd rs1 rs2) := by
  intro hw w h
  change some (wordAmoSwapD rd rs1 rs2) = some w at h
  cases h
  refine decode_of_fields ((fields_decodeCustom0 ?_).trans ?_) hw <;> simp [-BitVec.reduceAppend, wordAmoSwapD, decodeCustom0, decodeCustom0F6, field4_25, field4_20, field4_15, field4_12, field4_7, field4_0]

theorem RoundTrip.amoCasW (rd : BitVec 5) (rs1 : BitVec 5) (rs2 : BitVec 5) : RoundTrip.Statement (.amoCasW rd rs1 rs2) := by
  intro hw w h
  change some (wordAmoCasW rd rs1 rs2) = some w at h
  cases h
  refine decode_of_fields ((fields_decodeCustom0 ?_).trans ?_) hw <;> simp [-BitVec.reduceAppend, wordAmoCasW, decodeCustom0, decodeCustom0F6, field4_25, field4_20, field4_15, field4_12, field4_7, field4_0]

theorem RoundTrip.amoCasD (rd : BitVec 5) (rs1 : BitVec 5) (rs2 : BitVec 5) : RoundTrip.Statement (.amoCasD rd rs1 rs2) := by
  intro hw w h
  change some (wordAmoCasD rd rs1 rs2) = some w at h
  cases h
  refine decode_of_fields ((fields_decodeCustom0 ?_).trans ?_) hw <;> simp [-BitVec.reduceAppend, wordAmoCasD, decodeCustom0, decodeCustom0F6, field4_25, field4_20, field4_15, field4_12, field4_7, field4_0]

theorem RoundTrip.amoAndW (rd : BitVec 5) (rs1 : BitVec 5) (rs2 : BitVec 5) : RoundTrip.Statement (.amoAndW rd rs1 rs2) := by
  intro hw w h
  change some (wordAmoAndW rd rs1 rs2) = some w at h
  cases h
  refine decode_of_fields ((fields_decodeCustom0 ?_).trans ?_) hw <;> simp [-BitVec.reduceAppend, wordAmoAndW, decodeCustom0, decodeCustom0F6, field4_25, field4_20, field4_15, field4_12, field4_7, field4_0]

theorem RoundTrip.amoAndD (rd : BitVec 5) (rs1 : BitVec 5) (rs2 : BitVec 5) : RoundTrip.Statement (.amoAndD rd rs1 rs2) := by
  intro hw w h
  change some (wordAmoAndD rd rs1 rs2) = some w at h
  cases h
  refine decode_of_fields ((fields_decodeCustom0 ?_).trans ?_) hw <;> simp [-BitVec.reduceAppend, wordAmoAndD, decodeCustom0, decodeCustom0F6, field4_25, field4_20, field4_15, field4_12, field4_7, field4_0]

theorem RoundTrip.amoOrW (rd : BitVec 5) (rs1 : BitVec 5) (rs2 : BitVec 5) : RoundTrip.Statement (.amoOrW rd rs1 rs2) := by
  intro hw w h
  change some (wordAmoOrW rd rs1 rs2) = some w at h
  cases h
  refine decode_of_fields ((fields_decodeCustom0 ?_).trans ?_) hw <;> simp [-BitVec.reduceAppend, wordAmoOrW, decodeCustom0, decodeCustom0F6, field4_25, field4_20, field4_15, field4_12, field4_7, field4_0]

theorem RoundTrip.amoOrD (rd : BitVec 5) (rs1 : BitVec 5) (rs2 : BitVec 5) : RoundTrip.Statement (.amoOrD rd rs1 rs2) := by
  intro hw w h
  change some (wordAmoOrD rd rs1 rs2) = some w at h
  cases h
  refine decode_of_fields ((fields_decodeCustom0 ?_).trans ?_) hw <;> simp [-BitVec.reduceAppend, wordAmoOrD, decodeCustom0, decodeCustom0F6, field4_25, field4_20, field4_15, field4_12, field4_7, field4_0]

theorem RoundTrip.amoXorW (rd : BitVec 5) (rs1 : BitVec 5) (rs2 : BitVec 5) : RoundTrip.Statement (.amoXorW rd rs1 rs2) := by
  intro hw w h
  change some (wordAmoXorW rd rs1 rs2) = some w at h
  cases h
  refine decode_of_fields ((fields_decodeCustom0 ?_).trans ?_) hw <;> simp [-BitVec.reduceAppend, wordAmoXorW, decodeCustom0, decodeCustom0F6, field4_25, field4_20, field4_15, field4_12, field4_7, field4_0]

theorem RoundTrip.amoXorD (rd : BitVec 5) (rs1 : BitVec 5) (rs2 : BitVec 5) : RoundTrip.Statement (.amoXorD rd rs1 rs2) := by
  intro hw w h
  change some (wordAmoXorD rd rs1 rs2) = some w at h
  cases h
  refine decode_of_fields ((fields_decodeCustom0 ?_).trans ?_) hw <;> simp [-BitVec.reduceAppend, wordAmoXorD, decodeCustom0, decodeCustom0F6, field4_25, field4_20, field4_15, field4_12, field4_7, field4_0]

theorem RoundTrip.mon (rs1 : BitVec 5) : RoundTrip.Statement (.mon rs1) := by
  intro hw w h
  change some (wordMon rs1) = some w at h
  cases h
  refine decode_of_fields ((fields_decodeCustom0 ?_).trans ?_) hw <;> simp [-BitVec.reduceAppend, wordMon, decodeCustom0, decodeCustom0F6, field4_25, field4_20, field4_15, field4_12, field4_7, field4_0]

theorem RoundTrip.monw (rd : BitVec 5) (rs1 : BitVec 5) : RoundTrip.Statement (.monw rd rs1) := by
  intro hw w h
  change some (wordMonw rd rs1) = some w at h
  cases h
  refine decode_of_fields ((fields_decodeCustom0 ?_).trans ?_) hw <;> simp [-BitVec.reduceAppend, wordMonw, decodeCustom0, decodeCustom0F6, field4_25, field4_20, field4_15, field4_12, field4_7, field4_0]

theorem RoundTrip.bmov (rd : BitVec 5) (rs1 : BitVec 5) (rs2 : BitVec 5) : RoundTrip.Statement (.bmov rd rs1 rs2) := by
  intro hw w h
  change some (wordBmov rd rs1 rs2) = some w at h
  cases h
  refine decode_of_fields ((fields_decodeCustom0 ?_).trans ?_) hw <;> simp [-BitVec.reduceAppend, wordBmov, decodeCustom0, decodeCustom0F7, field4_25, field4_20, field4_15, field4_12, field4_7, field4_0]

theorem RoundTrip.bfill (rd : BitVec 5) (rs1 : BitVec 5) (rs2 : BitVec 5) : RoundTrip.Statement (.bfill rd rs1 rs2) := by
  intro hw w h
  change some (wordBfill rd rs1 rs2) = some w at h
  cases h
  refine decode_of_fields ((fields_decodeCustom0 ?_).trans ?_) hw <;> simp [-BitVec.reduceAppend, wordBfill, decodeCustom0, decodeCustom0F7, field4_25, field4_20, field4_15, field4_12, field4_7, field4_0]

theorem RoundTrip.rep (rs1 : BitVec 5) : RoundTrip.Statement (.rep rs1) := by
  intro hw w h
  change some (wordRep rs1) = some w at h
  cases h
  refine decode_of_fields ((fields_decodeCustom0 ?_).trans ?_) hw <;> simp [-BitVec.reduceAppend, wordRep, decodeCustom0, decodeCustom0F7, field4_25, field4_20, field4_15, field4_12, field4_7, field4_0]

theorem RoundTrip.rgn (xs : BitVec 3) : RoundTrip.Statement (.rgn xs) := by
  intro hw w h
  change some (wordRgn xs) = some w at h
  cases h
  refine decode_of_fields ((fields_decodeCustom0 ?_).trans ?_) hw <;> simp [-BitVec.reduceAppend, wordRgn, decodeCustom0, decodeCustom0F7, field12_25, field12_20, field12_17, field12_15, field12_12, field12_7, field12_0]

theorem RoundTrip.wbind (wd : BitVec 3) (rs1 : BitVec 5) : RoundTrip.Statement (.wbind wd rs1) := by
  intro hw w h
  change some (wordWbind wd rs1) = some w at h
  cases h
  refine decode_of_fields ((fields_decodeCustom0 ?_).trans ?_) hw <;> simp [-BitVec.reduceAppend, wordWbind, decodeCustom0, decodeCustom0F7, field13_25, field13_20, field13_15, field13_12, field13_10, field13_7, field13_0]

theorem RoundTrip.wstat (rd : BitVec 5) (ws : BitVec 3) : RoundTrip.Statement (.wstat rd ws) := by
  intro hw w h
  change some (wordWstat rd ws) = some w at h
  cases h
  refine decode_of_fields ((fields_decodeCustom0 ?_).trans ?_) hw <;> simp [-BitVec.reduceAppend, wordWstat, decodeCustom0, decodeCustom0F7, field14_25, field14_20, field14_18, field14_15, field14_12, field14_7, field14_0]

theorem RoundTrip.wdrain (wd : BitVec 3) : RoundTrip.Statement (.wdrain wd) := by
  intro hw w h
  change some (wordWdrain wd) = some w at h
  cases h
  refine decode_of_fields ((fields_decodeCustom0 ?_).trans ?_) hw <;> simp [-BitVec.reduceAppend, wordWdrain, decodeCustom0, decodeCustom0F7, field13_25, field13_20, field13_15, field13_12, field13_10, field13_7, field13_0]

theorem RoundTrip.wunbind (wd : BitVec 3) : RoundTrip.Statement (.wunbind wd) := by
  intro hw w h
  change some (wordWunbind wd) = some w at h
  cases h
  refine decode_of_fields ((fields_decodeCustom0 ?_).trans ?_) hw <;> simp [-BitVec.reduceAppend, wordWunbind, decodeCustom0, decodeCustom0F7, field13_25, field13_20, field13_15, field13_12, field13_10, field13_7, field13_0]

theorem RoundTrip.vadd (ty : BitVec 3) (src2 : BitVec 5) (va : BitVec 4) (sx : BitVec 1) (mask : BitVec 2) (vd : BitVec 4) (sat : BitVec 1) : RoundTrip.Statement (.vadd ty src2 va sx mask vd sat) := by
  intro hw w h
  change some (wordVadd ty src2 va sx mask vd sat) = some w at h
  cases h
  refine decode_of_fields ((fields_decodeCustom2 ?_).trans ?_) hw <;> simp [-BitVec.reduceAppend, wordVadd, decodeCustom2, field15_27, field15_24, field15_19, field15_15, field15_14, field15_12, field15_8, field15_7, field15_0]

theorem RoundTrip.vsub (ty : BitVec 3) (src2 : BitVec 5) (va : BitVec 4) (sx : BitVec 1) (mask : BitVec 2) (vd : BitVec 4) (sat : BitVec 1) : RoundTrip.Statement (.vsub ty src2 va sx mask vd sat) := by
  intro hw w h
  change some (wordVsub ty src2 va sx mask vd sat) = some w at h
  cases h
  refine decode_of_fields ((fields_decodeCustom2 ?_).trans ?_) hw <;> simp [-BitVec.reduceAppend, wordVsub, decodeCustom2, field15_27, field15_24, field15_19, field15_15, field15_14, field15_12, field15_8, field15_7, field15_0]

theorem RoundTrip.vmul (ty : BitVec 3) (src2 : BitVec 5) (va : BitVec 4) (sx : BitVec 1) (mask : BitVec 2) (vd : BitVec 4) (sat : BitVec 1) : RoundTrip.Statement (.vmul ty src2 va sx mask vd sat) := by
  intro hw w h
  change some (wordVmul ty src2 va sx mask vd sat) = some w at h
  cases h
  refine decode_of_fields ((fields_decodeCustom2 ?_).trans ?_) hw <;> simp [-BitVec.reduceAppend, wordVmul, decodeCustom2, field15_27, field15_24, field15_19, field15_15, field15_14, field15_12, field15_8, field15_7, field15_0]

theorem RoundTrip.vfma (ty : BitVec 3) (src2 : BitVec 5) (va : BitVec 4) (sx : BitVec 1) (mask : BitVec 2) (vd : BitVec 4) (sat : BitVec 1) : RoundTrip.Statement (.vfma ty src2 va sx mask vd sat) := by
  intro hw w h
  change some (wordVfma ty src2 va sx mask vd sat) = some w at h
  cases h
  refine decode_of_fields ((fields_decodeCustom2 ?_).trans ?_) hw <;> simp [-BitVec.reduceAppend, wordVfma, decodeCustom2, field15_27, field15_24, field15_19, field15_15, field15_14, field15_12, field15_8, field15_7, field15_0]

theorem RoundTrip.vfms (ty : BitVec 3) (src2 : BitVec 5) (va : BitVec 4) (sx : BitVec 1) (mask : BitVec 2) (vd : BitVec 4) (sat : BitVec 1) : RoundTrip.Statement (.vfms ty src2 va sx mask vd sat) := by
  intro hw w h
  change some (wordVfms ty src2 va sx mask vd sat) = some w at h
  cases h
  refine decode_of_fields ((fields_decodeCustom2 ?_).trans ?_) hw <;> simp [-BitVec.reduceAppend, wordVfms, decodeCustom2, field15_27, field15_24, field15_19, field15_15, field15_14, field15_12, field15_8, field15_7, field15_0]

theorem RoundTrip.vmax (ty : BitVec 3) (src2 : BitVec 5) (va : BitVec 4) (sx : BitVec 1) (mask : BitVec 2) (vd : BitVec 4) : RoundTrip.Statement (.vmax ty src2 va sx mask vd) := by
  intro hw w h
  change some (wordVmax ty src2 va sx mask vd) = some w at h
  cases h
  refine decode_of_fields ((fields_decodeCustom2 ?_).trans ?_) hw <;> simp [-BitVec.reduceAppend, wordVmax, decodeCustom2, field15_27, field15_24, field15_19, field15_15, field15_14, field15_12, field15_8, field15_7, field15_0]

theorem RoundTrip.vmin (ty : BitVec 3) (src2 : BitVec 5) (va : BitVec 4) (sx : BitVec 1) (mask : BitVec 2) (vd : BitVec 4) : RoundTrip.Statement (.vmin ty src2 va sx mask vd) := by
  intro hw w h
  change some (wordVmin ty src2 va sx mask vd) = some w at h
  cases h
  refine decode_of_fields ((fields_decodeCustom2 ?_).trans ?_) hw <;> simp [-BitVec.reduceAppend, wordVmin, decodeCustom2, field15_27, field15_24, field15_19, field15_15, field15_14, field15_12, field15_8, field15_7, field15_0]

theorem RoundTrip.vabs (ty : BitVec 3) (va : BitVec 4) (mask : BitVec 2) (vd : BitVec 4) (sat : BitVec 1) : RoundTrip.Statement (.vabs ty va mask vd sat) := by
  intro hw w h
  change some (wordVabs ty va mask vd sat) = some w at h
  cases h
  refine decode_of_fields ((fields_decodeCustom2 ?_).trans ?_) hw <;> simp [-BitVec.reduceAppend, wordVabs, decodeCustom2, field16_27, field16_24, field16_20, field16_19, field16_15, field16_14, field16_12, field16_8, field16_7, field16_0]

theorem RoundTrip.vneg (ty : BitVec 3) (va : BitVec 4) (mask : BitVec 2) (vd : BitVec 4) (sat : BitVec 1) : RoundTrip.Statement (.vneg ty va mask vd sat) := by
  intro hw w h
  change some (wordVneg ty va mask vd sat) = some w at h
  cases h
  refine decode_of_fields ((fields_decodeCustom2 ?_).trans ?_) hw <;> simp [-BitVec.reduceAppend, wordVneg, decodeCustom2, field16_27, field16_24, field16_20, field16_19, field16_15, field16_14, field16_12, field16_8, field16_7, field16_0]

theorem RoundTrip.vclamp (ty : BitVec 3) (src2 : BitVec 5) (va : BitVec 4) (sx : BitVec 1) (mask : BitVec 2) (vd : BitVec 4) : RoundTrip.Statement (.vclamp ty src2 va sx mask vd) := by
  intro hw w h
  change some (wordVclamp ty src2 va sx mask vd) = some w at h
  cases h
  refine decode_of_fields ((fields_decodeCustom2 ?_).trans ?_) hw <;> simp [-BitVec.reduceAppend, wordVclamp, decodeCustom2, field15_27, field15_24, field15_19, field15_15, field15_14, field15_12, field15_8, field15_7, field15_0]

theorem RoundTrip.vcvt (ty : BitVec 3) (sty : BitVec 3) (va : BitVec 4) (mask : BitVec 2) (vd : BitVec 4) (sat : BitVec 1) : RoundTrip.Statement (.vcvt ty sty va mask vd sat) := by
  intro hw w h
  change some (wordVcvt ty sty va mask vd sat) = some w at h
  cases h
  refine decode_of_fields ((fields_decodeCustom2 ?_).trans ?_) hw <;> simp [-BitVec.reduceAppend, wordVcvt, decodeCustom2, field17_27, field17_24, field17_22, field17_19, field17_15, field17_14, field17_12, field17_8, field17_7, field17_0]

theorem RoundTrip.vrcp (ty : BitVec 3) (va : BitVec 4) (mask : BitVec 2) (vd : BitVec 4) : RoundTrip.Statement (.vrcp ty va mask vd) := by
  intro hw w h
  change some (wordVrcp ty va mask vd) = some w at h
  cases h
  refine decode_of_fields ((fields_decodeCustom2 ?_).trans ?_) hw <;> simp [-BitVec.reduceAppend, wordVrcp, decodeCustom2, field16_27, field16_24, field16_20, field16_19, field16_15, field16_14, field16_12, field16_8, field16_7, field16_0]

theorem RoundTrip.vrsq (ty : BitVec 3) (va : BitVec 4) (mask : BitVec 2) (vd : BitVec 4) : RoundTrip.Statement (.vrsq ty va mask vd) := by
  intro hw w h
  change some (wordVrsq ty va mask vd) = some w at h
  cases h
  refine decode_of_fields ((fields_decodeCustom2 ?_).trans ?_) hw <;> simp [-BitVec.reduceAppend, wordVrsq, decodeCustom2, field16_27, field16_24, field16_20, field16_19, field16_15, field16_14, field16_12, field16_8, field16_7, field16_0]

theorem RoundTrip.vexp2 (ty : BitVec 3) (va : BitVec 4) (mask : BitVec 2) (vd : BitVec 4) : RoundTrip.Statement (.vexp2 ty va mask vd) := by
  intro hw w h
  change some (wordVexp2 ty va mask vd) = some w at h
  cases h
  refine decode_of_fields ((fields_decodeCustom2 ?_).trans ?_) hw <;> simp [-BitVec.reduceAppend, wordVexp2, decodeCustom2, field16_27, field16_24, field16_20, field16_19, field16_15, field16_14, field16_12, field16_8, field16_7, field16_0]

theorem RoundTrip.vredSum (ty : BitVec 3) (va : BitVec 4) (mask : BitVec 2) (vd : BitVec 4) (sat : BitVec 1) : RoundTrip.Statement (.vredSum ty va mask vd sat) := by
  intro hw w h
  change some (wordVredSum ty va mask vd sat) = some w at h
  cases h
  refine decode_of_fields ((fields_decodeCustom2 ?_).trans ?_) hw <;> simp [-BitVec.reduceAppend, wordVredSum, decodeCustom2, field16_27, field16_24, field16_20, field16_19, field16_15, field16_14, field16_12, field16_8, field16_7, field16_0]

theorem RoundTrip.vredMax (ty : BitVec 3) (va : BitVec 4) (mask : BitVec 2) (vd : BitVec 4) : RoundTrip.Statement (.vredMax ty va mask vd) := by
  intro hw w h
  change some (wordVredMax ty va mask vd) = some w at h
  cases h
  refine decode_of_fields ((fields_decodeCustom2 ?_).trans ?_) hw <;> simp [-BitVec.reduceAppend, wordVredMax, decodeCustom2, field16_27, field16_24, field16_20, field16_19, field16_15, field16_14, field16_12, field16_8, field16_7, field16_0]

theorem RoundTrip.vredMin (ty : BitVec 3) (va : BitVec 4) (mask : BitVec 2) (vd : BitVec 4) : RoundTrip.Statement (.vredMin ty va mask vd) := by
  intro hw w h
  change some (wordVredMin ty va mask vd) = some w at h
  cases h
  refine decode_of_fields ((fields_decodeCustom2 ?_).trans ?_) hw <;> simp [-BitVec.reduceAppend, wordVredMin, decodeCustom2, field16_27, field16_24, field16_20, field16_19, field16_15, field16_14, field16_12, field16_8, field16_7, field16_0]

theorem RoundTrip.vcmpEq (ty : BitVec 3) (src2 : BitVec 5) (va : BitVec 4) (sx : BitVec 1) (mask : BitVec 2) (kd : BitVec 2) : RoundTrip.Statement (.vcmpEq ty src2 va sx mask kd) := by
  intro hw w h
  change some (wordVcmpEq ty src2 va sx mask kd) = some w at h
  cases h
  refine decode_of_fields ((fields_decodeCustom2 ?_).trans ?_) hw <;> simp [-BitVec.reduceAppend, wordVcmpEq, decodeCustom2, field18_27, field18_24, field18_19, field18_15, field18_14, field18_12, field18_10, field18_8, field18_7, field18_0]

theorem RoundTrip.vcmpLt (ty : BitVec 3) (src2 : BitVec 5) (va : BitVec 4) (sx : BitVec 1) (mask : BitVec 2) (kd : BitVec 2) : RoundTrip.Statement (.vcmpLt ty src2 va sx mask kd) := by
  intro hw w h
  change some (wordVcmpLt ty src2 va sx mask kd) = some w at h
  cases h
  refine decode_of_fields ((fields_decodeCustom2 ?_).trans ?_) hw <;> simp [-BitVec.reduceAppend, wordVcmpLt, decodeCustom2, field18_27, field18_24, field18_19, field18_15, field18_14, field18_12, field18_10, field18_8, field18_7, field18_0]

theorem RoundTrip.vcmpLe (ty : BitVec 3) (src2 : BitVec 5) (va : BitVec 4) (sx : BitVec 1) (mask : BitVec 2) (kd : BitVec 2) : RoundTrip.Statement (.vcmpLe ty src2 va sx mask kd) := by
  intro hw w h
  change some (wordVcmpLe ty src2 va sx mask kd) = some w at h
  cases h
  refine decode_of_fields ((fields_decodeCustom2 ?_).trans ?_) hw <;> simp [-BitVec.reduceAppend, wordVcmpLe, decodeCustom2, field18_27, field18_24, field18_19, field18_15, field18_14, field18_12, field18_10, field18_8, field18_7, field18_0]

theorem RoundTrip.vsel (ty : BitVec 3) (src2 : BitVec 5) (va : BitVec 4) (sx : BitVec 1) (mask : BitVec 2) (vd : BitVec 4) : RoundTrip.Statement (.vsel ty src2 va sx mask vd) := by
  intro hw w h
  change some (wordVsel ty src2 va sx mask vd) = some w at h
  cases h
  refine decode_of_fields ((fields_decodeCustom2 ?_).trans ?_) hw <;> simp [-BitVec.reduceAppend, wordVsel, decodeCustom2, field15_27, field15_24, field15_19, field15_15, field15_14, field15_12, field15_8, field15_7, field15_0]

theorem RoundTrip.vand (ty : BitVec 3) (src2 : BitVec 5) (va : BitVec 4) (sx : BitVec 1) (mask : BitVec 2) (vd : BitVec 4) : RoundTrip.Statement (.vand ty src2 va sx mask vd) := by
  intro hw w h
  change some (wordVand ty src2 va sx mask vd) = some w at h
  cases h
  refine decode_of_fields ((fields_decodeCustom2 ?_).trans ?_) hw <;> simp [-BitVec.reduceAppend, wordVand, decodeCustom2, field15_27, field15_24, field15_19, field15_15, field15_14, field15_12, field15_8, field15_7, field15_0]

theorem RoundTrip.vor (ty : BitVec 3) (src2 : BitVec 5) (va : BitVec 4) (sx : BitVec 1) (mask : BitVec 2) (vd : BitVec 4) : RoundTrip.Statement (.vor ty src2 va sx mask vd) := by
  intro hw w h
  change some (wordVor ty src2 va sx mask vd) = some w at h
  cases h
  refine decode_of_fields ((fields_decodeCustom2 ?_).trans ?_) hw <;> simp [-BitVec.reduceAppend, wordVor, decodeCustom2, field15_27, field15_24, field15_19, field15_15, field15_14, field15_12, field15_8, field15_7, field15_0]

theorem RoundTrip.vxor (ty : BitVec 3) (src2 : BitVec 5) (va : BitVec 4) (sx : BitVec 1) (mask : BitVec 2) (vd : BitVec 4) : RoundTrip.Statement (.vxor ty src2 va sx mask vd) := by
  intro hw w h
  change some (wordVxor ty src2 va sx mask vd) = some w at h
  cases h
  refine decode_of_fields ((fields_decodeCustom2 ?_).trans ?_) hw <;> simp [-BitVec.reduceAppend, wordVxor, decodeCustom2, field15_27, field15_24, field15_19, field15_15, field15_14, field15_12, field15_8, field15_7, field15_0]

theorem RoundTrip.vshl (ty : BitVec 3) (src2 : BitVec 5) (va : BitVec 4) (sx : BitVec 1) (mask : BitVec 2) (vd : BitVec 4) (sat : BitVec 1) : RoundTrip.Statement (.vshl ty src2 va sx mask vd sat) := by
  intro hw w h
  change some (wordVshl ty src2 va sx mask vd sat) = some w at h
  cases h
  refine decode_of_fields ((fields_decodeCustom2 ?_).trans ?_) hw <;> simp [-BitVec.reduceAppend, wordVshl, decodeCustom2, field15_27, field15_24, field15_19, field15_15, field15_14, field15_12, field15_8, field15_7, field15_0]

theorem RoundTrip.vshr (ty : BitVec 3) (src2 : BitVec 5) (va : BitVec 4) (sx : BitVec 1) (mask : BitVec 2) (vd : BitVec 4) (sat : BitVec 1) : RoundTrip.Statement (.vshr ty src2 va sx mask vd sat) := by
  intro hw w h
  change some (wordVshr ty src2 va sx mask vd sat) = some w at h
  cases h
  refine decode_of_fields ((fields_decodeCustom2 ?_).trans ?_) hw <;> simp [-BitVec.reduceAppend, wordVshr, decodeCustom2, field15_27, field15_24, field15_19, field15_15, field15_14, field15_12, field15_8, field15_7, field15_0]

theorem RoundTrip.vmov (ty : BitVec 3) (va : BitVec 4) (mask : BitVec 2) (vd : BitVec 4) : RoundTrip.Statement (.vmov ty va mask vd) := by
  intro hw w h
  change some (wordVmov ty va mask vd) = some w at h
  cases h
  refine decode_of_fields ((fields_decodeCustom2 ?_).trans ?_) hw <;> simp [-BitVec.reduceAppend, wordVmov, decodeCustom2, field16_27, field16_24, field16_20, field16_19, field16_15, field16_14, field16_12, field16_8, field16_7, field16_0]

theorem RoundTrip.vsplat (imm : BitVec 16) (ty : BitVec 3) (vd : BitVec 4) : RoundTrip.Statement (.vsplat imm ty vd) := by
  intro hw w h
  change some (wordVsplat imm ty vd) = some w at h
  cases h
  refine decode_of_fields ((fields_decodeCustom3 ?_).trans ?_) hw <;> simp [-BitVec.reduceAppend, wordVsplat, decodeCustom3, field19_16, field19_13, field19_9, field19_7, field19_0]

theorem RoundTrip.vaddi (imm : BitVec 16) (ty : BitVec 3) (vd : BitVec 4) : RoundTrip.Statement (.vaddi imm ty vd) := by
  intro hw w h
  change some (wordVaddi imm ty vd) = some w at h
  cases h
  refine decode_of_fields ((fields_decodeCustom3 ?_).trans ?_) hw <;> simp [-BitVec.reduceAppend, wordVaddi, decodeCustom3, field19_16, field19_13, field19_9, field19_7, field19_0]

theorem RoundTrip.vmuli (imm : BitVec 16) (ty : BitVec 3) (vd : BitVec 4) : RoundTrip.Statement (.vmuli imm ty vd) := by
  intro hw w h
  change some (wordVmuli imm ty vd) = some w at h
  cases h
  refine decode_of_fields ((fields_decodeCustom3 ?_).trans ?_) hw <;> simp [-BitVec.reduceAppend, wordVmuli, decodeCustom3, field19_16, field19_13, field19_9, field19_7, field19_0]

theorem RoundTrip.vmaxi (imm : BitVec 16) (ty : BitVec 3) (vd : BitVec 4) : RoundTrip.Statement (.vmaxi imm ty vd) := by
  intro hw w h
  change some (wordVmaxi imm ty vd) = some w at h
  cases h
  refine decode_of_fields ((fields_decodeCustom3 ?_).trans ?_) hw <;> simp [-BitVec.reduceAppend, wordVmaxi, decodeCustom3, field19_16, field19_13, field19_9, field19_7, field19_0]

theorem RoundTrip.send (rd : BitVec 5) (rs1 : BitVec 5) (rs2 : BitVec 5) : RoundTrip.Statement (.send rd rs1 rs2) := by
  intro hw w h
  change some (wordSend rd rs1 rs2) = some w at h
  cases h
  refine decode_of_fields ((fields_decodeCustom1 ?_).trans ?_) hw <;> simp [-BitVec.reduceAppend, wordSend, decodeCustom1, decodeCustom1F0, field4_25, field4_20, field4_15, field4_12, field4_7, field4_0]

theorem RoundTrip.sendb (rd : BitVec 5) (xs : BitVec 3) : RoundTrip.Statement (.sendb rd xs) := by
  intro hw w h
  change some (wordSendb rd xs) = some w at h
  cases h
  refine decode_of_fields ((fields_decodeCustom1 ?_).trans ?_) hw <;> simp [-BitVec.reduceAppend, wordSendb, decodeCustom1, decodeCustom1F0, field12_25, field12_20, field12_17, field12_15, field12_12, field12_7, field12_0]

theorem RoundTrip.decr (rd : BitVec 5) (rs1 : BitVec 5) (rs2 : BitVec 5) : RoundTrip.Statement (.decr rd rs1 rs2) := by
  intro hw w h
  change some (wordDecr rd rs1 rs2) = some w at h
  cases h
  refine decode_of_fields ((fields_decodeCustom1 ?_).trans ?_) hw <;> simp [-BitVec.reduceAppend, wordDecr, decodeCustom1, decodeCustom1F0, field4_25, field4_20, field4_15, field4_12, field4_7, field4_0]

theorem RoundTrip.carry (rd : BitVec 5) (xs : BitVec 3) : RoundTrip.Statement (.carry rd xs) := by
  intro hw w h
  change some (wordCarry rd xs) = some w at h
  cases h
  refine decode_of_fields ((fields_decodeCustom1 ?_).trans ?_) hw <;> simp [-BitVec.reduceAppend, wordCarry, decodeCustom1, decodeCustom1F0, field12_25, field12_20, field12_17, field12_15, field12_12, field12_7, field12_0]

theorem RoundTrip.mpop (rd : BitVec 5) : RoundTrip.Statement (.mpop rd) := by
  intro hw w h
  change some (wordMpop rd) = some w at h
  cases h
  refine decode_of_fields ((fields_decodeCustom1 ?_).trans ?_) hw <;> simp [-BitVec.reduceAppend, wordMpop, decodeCustom1, decodeCustom1F0, field4_25, field4_20, field4_15, field4_12, field4_7, field4_0]

theorem RoundTrip.mpeek (rd : BitVec 5) : RoundTrip.Statement (.mpeek rd) := by
  intro hw w h
  change some (wordMpeek rd) = some w at h
  cases h
  refine decode_of_fields ((fields_decodeCustom1 ?_).trans ?_) hw <;> simp [-BitVec.reduceAppend, wordMpeek, decodeCustom1, decodeCustom1F0, field4_25, field4_20, field4_15, field4_12, field4_7, field4_0]

theorem RoundTrip.mdrop : RoundTrip.Statement (.mdrop) := by
  intro hw w h
  change some (wordMdrop) = some w at h
  cases h
  refine decode_of_fields ((fields_decodeCustom1 ?_).trans ?_) hw <;> simp [-BitVec.reduceAppend, wordMdrop, decodeCustom1, decodeCustom1F0, field4_25, field4_20, field4_15, field4_12, field4_7, field4_0]

theorem RoundTrip.done : RoundTrip.Statement (.done) := by
  intro hw w h
  change some (wordDone) = some w at h
  cases h
  refine decode_of_fields ((fields_decodeCustom1 ?_).trans ?_) hw <;> simp [-BitVec.reduceAppend, wordDone, decodeCustom1, decodeCustom1F0, field4_25, field4_20, field4_15, field4_12, field4_7, field4_0]

theorem RoundTrip.wait (rs1 : BitVec 5) : RoundTrip.Statement (.wait rs1) := by
  intro hw w h
  change some (wordWait rs1) = some w at h
  cases h
  refine decode_of_fields ((fields_decodeCustom1 ?_).trans ?_) hw <;> simp [-BitVec.reduceAppend, wordWait, decodeCustom1, decodeCustom1F0, field4_25, field4_20, field4_15, field4_12, field4_7, field4_0]

theorem RoundTrip.bank : RoundTrip.Statement (.bank) := by
  intro hw w h
  change some (wordBank) = some w at h
  cases h
  refine decode_of_fields ((fields_decodeCustom1 ?_).trans ?_) hw <;> simp [-BitVec.reduceAppend, wordBank, decodeCustom1, decodeCustom1F0, field4_25, field4_20, field4_15, field4_12, field4_7, field4_0]

theorem RoundTrip.pin (rs1 : BitVec 5) : RoundTrip.Statement (.pin rs1) := by
  intro hw w h
  change some (wordPin rs1) = some w at h
  cases h
  refine decode_of_fields ((fields_decodeCustom1 ?_).trans ?_) hw <;> simp [-BitVec.reduceAppend, wordPin, decodeCustom1, decodeCustom1F0, field4_25, field4_20, field4_15, field4_12, field4_7, field4_0]

theorem RoundTrip.spawn (rd : BitVec 5) (xs : BitVec 3) : RoundTrip.Statement (.spawn rd xs) := by
  intro hw w h
  change some (wordSpawn rd xs) = some w at h
  cases h
  refine decode_of_fields ((fields_decodeCustom1 ?_).trans ?_) hw <;> simp [-BitVec.reduceAppend, wordSpawn, decodeCustom1, decodeCustom1F1, field12_25, field12_20, field12_17, field12_15, field12_12, field12_7, field12_0]

theorem RoundTrip.lwait (rd : BitVec 5) (rs1 : BitVec 5) (rs2 : BitVec 5) : RoundTrip.Statement (.lwait rd rs1 rs2) := by
  intro hw w h
  change some (wordLwait rd rs1 rs2) = some w at h
  cases h
  refine decode_of_fields ((fields_decodeCustom1 ?_).trans ?_) hw <;> simp [-BitVec.reduceAppend, wordLwait, decodeCustom1, decodeCustom1F1, field4_25, field4_20, field4_15, field4_12, field4_7, field4_0]

theorem RoundTrip.shpush (rd : BitVec 5) (xs : BitVec 3) : RoundTrip.Statement (.shpush rd xs) := by
  intro hw w h
  change some (wordShpush rd xs) = some w at h
  cases h
  refine decode_of_fields ((fields_decodeCustom1 ?_).trans ?_) hw <;> simp [-BitVec.reduceAppend, wordShpush, decodeCustom1, decodeCustom1F1, field12_25, field12_20, field12_17, field12_15, field12_12, field12_7, field12_0]

theorem RoundTrip.cpost (rd : BitVec 5) (xs : BitVec 3) : RoundTrip.Statement (.cpost rd xs) := by
  intro hw w h
  change some (wordCpost rd xs) = some w at h
  cases h
  refine decode_of_fields ((fields_decodeCustom1 ?_).trans ?_) hw <;> simp [-BitVec.reduceAppend, wordCpost, decodeCustom1, decodeCustom1F1, field12_25, field12_20, field12_17, field12_15, field12_12, field12_7, field12_0]

theorem RoundTrip.cpostNb (rd : BitVec 5) (xs : BitVec 3) : RoundTrip.Statement (.cpostNb rd xs) := by
  intro hw w h
  change some (wordCpostNb rd xs) = some w at h
  cases h
  refine decode_of_fields ((fields_decodeCustom1 ?_).trans ?_) hw <;> simp [-BitVec.reduceAppend, wordCpostNb, decodeCustom1, decodeCustom1F1, field12_25, field12_20, field12_17, field12_15, field12_12, field12_7, field12_0]

theorem RoundTrip.cstat (rd : BitVec 5) (rs1 : BitVec 5) : RoundTrip.Statement (.cstat rd rs1) := by
  intro hw w h
  change some (wordCstat rd rs1) = some w at h
  cases h
  refine decode_of_fields ((fields_decodeCustom1 ?_).trans ?_) hw <;> simp [-BitVec.reduceAppend, wordCstat, decodeCustom1, decodeCustom1F1, field4_25, field4_20, field4_15, field4_12, field4_7, field4_0]

theorem RoundTrip.tcfg (md : BitVec 5) (rs1 : BitVec 5) : RoundTrip.Statement (.tcfg md rs1) := by
  intro hw w h
  change some (wordTcfg md rs1) = some w at h
  cases h
  refine decode_of_fields ((fields_decodeCustom1 ?_).trans ?_) hw <;> simp [-BitVec.reduceAppend, wordTcfg, decodeCustom1, decodeCustom1F2, field4_25, field4_20, field4_15, field4_12, field4_7, field4_0]

theorem RoundTrip.mzero (md : BitVec 5) : RoundTrip.Statement (.mzero md) := by
  intro hw w h
  change some (wordMzero md) = some w at h
  cases h
  refine decode_of_fields ((fields_decodeCustom1 ?_).trans ?_) hw <;> simp [-BitVec.reduceAppend, wordMzero, decodeCustom1, decodeCustom1F2, field4_25, field4_20, field4_15, field4_12, field4_7, field4_0]

theorem RoundTrip.mload (md : BitVec 5) (rs1 : BitVec 5) : RoundTrip.Statement (.mload md rs1) := by
  intro hw w h
  change some (wordMload md rs1) = some w at h
  cases h
  refine decode_of_fields ((fields_decodeCustom1 ?_).trans ?_) hw <;> simp [-BitVec.reduceAppend, wordMload, decodeCustom1, decodeCustom1F2, field4_25, field4_20, field4_15, field4_12, field4_7, field4_0]

theorem RoundTrip.mma (md : BitVec 5) (rs1 : BitVec 5) (rs2 : BitVec 5) : RoundTrip.Statement (.mma md rs1 rs2) := by
  intro hw w h
  change some (wordMma md rs1 rs2) = some w at h
  cases h
  refine decode_of_fields ((fields_decodeCustom1 ?_).trans ?_) hw <;> simp [-BitVec.reduceAppend, wordMma, decodeCustom1, decodeCustom1F2, field4_25, field4_20, field4_15, field4_12, field4_7, field4_0]

theorem RoundTrip.mmag (md : BitVec 5) (rs1 : BitVec 5) (rs2 : BitVec 5) : RoundTrip.Statement (.mmag md rs1 rs2) := by
  intro hw w h
  change some (wordMmag md rs1 rs2) = some w at h
  cases h
  refine decode_of_fields ((fields_decodeCustom1 ?_).trans ?_) hw <;> simp [-BitVec.reduceAppend, wordMmag, decodeCustom1, decodeCustom1F2, field4_25, field4_20, field4_15, field4_12, field4_7, field4_0]

theorem RoundTrip.mgang : RoundTrip.Statement (.mgang) := by
  intro hw w h
  change some (wordMgang) = some w at h
  cases h
  refine decode_of_fields ((fields_decodeCustom1 ?_).trans ?_) hw <;> simp [-BitVec.reduceAppend, wordMgang, decodeCustom1, decodeCustom1F2, field4_25, field4_20, field4_15, field4_12, field4_7, field4_0]

theorem RoundTrip.mdrain (md : BitVec 5) (rs1 : BitVec 5) (rs2 : BitVec 5) : RoundTrip.Statement (.mdrain md rs1 rs2) := by
  intro hw w h
  change some (wordMdrain md rs1 rs2) = some w at h
  cases h
  refine decode_of_fields ((fields_decodeCustom1 ?_).trans ?_) hw <;> simp [-BitVec.reduceAppend, wordMdrain, decodeCustom1, decodeCustom1F2, field4_25, field4_20, field4_15, field4_12, field4_7, field4_0]

theorem RoundTrip.msync : RoundTrip.Statement (.msync) := by
  intro hw w h
  change some (wordMsync) = some w at h
  cases h
  refine decode_of_fields ((fields_decodeCustom1 ?_).trans ?_) hw <;> simp [-BitVec.reduceAppend, wordMsync, decodeCustom1, decodeCustom1F2, field4_25, field4_20, field4_15, field4_12, field4_7, field4_0]

theorem RoundTrip.mchk (rd : BitVec 5) (ms : BitVec 5) : RoundTrip.Statement (.mchk rd ms) := by
  intro hw w h
  change some (wordMchk rd ms) = some w at h
  cases h
  refine decode_of_fields ((fields_decodeCustom1 ?_).trans ?_) hw <;> simp [-BitVec.reduceAppend, wordMchk, decodeCustom1, decodeCustom1F2, field4_25, field4_20, field4_15, field4_12, field4_7, field4_0]

theorem RoundTrip.dkl (rd : BitVec 5) (rs1 : BitVec 5) (rs2 : BitVec 5) : RoundTrip.Statement (.dkl rd rs1 rs2) := by
  intro hw w h
  change some (wordDkl rd rs1 rs2) = some w at h
  cases h
  refine decode_of_fields ((fields_decodeCustom1 ?_).trans ?_) hw <;> simp [-BitVec.reduceAppend, wordDkl, decodeCustom1, decodeCustom1F2, field4_25, field4_20, field4_15, field4_12, field4_7, field4_0]

theorem RoundTrip.selld (rs1 : BitVec 5) : RoundTrip.Statement (.selld rs1) := by
  intro hw w h
  change some (wordSelld rs1) = some w at h
  cases h
  refine decode_of_fields ((fields_decodeCustom1 ?_).trans ?_) hw <;> simp [-BitVec.reduceAppend, wordSelld, decodeCustom1, decodeCustom1F3, field4_25, field4_20, field4_15, field4_12, field4_7, field4_0]

theorem RoundTrip.selstep (rd : BitVec 5) : RoundTrip.Statement (.selstep rd) := by
  intro hw w h
  change some (wordSelstep rd) = some w at h
  cases h
  refine decode_of_fields ((fields_decodeCustom1 ?_).trans ?_) hw <;> simp [-BitVec.reduceAppend, wordSelstep, decodeCustom1, decodeCustom1F3, field4_25, field4_20, field4_15, field4_12, field4_7, field4_0]

theorem RoundTrip.selcut (rs1 : BitVec 5) : RoundTrip.Statement (.selcut rs1) := by
  intro hw w h
  change some (wordSelcut rs1) = some w at h
  cases h
  refine decode_of_fields ((fields_decodeCustom1 ?_).trans ?_) hw <;> simp [-BitVec.reduceAppend, wordSelcut, decodeCustom1, decodeCustom1F3, field4_25, field4_20, field4_15, field4_12, field4_7, field4_0]

theorem RoundTrip.selrun (rd : BitVec 5) (rs1 : BitVec 5) (rs2 : BitVec 5) : RoundTrip.Statement (.selrun rd rs1 rs2) := by
  intro hw w h
  change some (wordSelrun rd rs1 rs2) = some w at h
  cases h
  refine decode_of_fields ((fields_decodeCustom1 ?_).trans ?_) hw <;> simp [-BitVec.reduceAppend, wordSelrun, decodeCustom1, decodeCustom1F3, field4_25, field4_20, field4_15, field4_12, field4_7, field4_0]

theorem RoundTrip.selget (rd : BitVec 5) (rs1 : BitVec 5) : RoundTrip.Statement (.selget rd rs1) := by
  intro hw w h
  change some (wordSelget rd rs1) = some w at h
  cases h
  refine decode_of_fields ((fields_decodeCustom1 ?_).trans ?_) hw <;> simp [-BitVec.reduceAppend, wordSelget, decodeCustom1, decodeCustom1F3, field4_25, field4_20, field4_15, field4_12, field4_7, field4_0]

theorem RoundTrip.seqmap (rs1 : BitVec 5) (rs2 : BitVec 5) : RoundTrip.Statement (.seqmap rs1 rs2) := by
  intro hw w h
  change some (wordSeqmap rs1 rs2) = some w at h
  cases h
  refine decode_of_fields ((fields_decodeCustom1 ?_).trans ?_) hw <;> simp [-BitVec.reduceAppend, wordSeqmap, decodeCustom1, decodeCustom1F4, field4_25, field4_20, field4_15, field4_12, field4_7, field4_0]

theorem RoundTrip.steer (rs1 : BitVec 5) (rs2 : BitVec 5) : RoundTrip.Statement (.steer rs1 rs2) := by
  intro hw w h
  change some (wordSteer rs1 rs2) = some w at h
  cases h
  refine decode_of_fields ((fields_decodeCustom1 ?_).trans ?_) hw <;> simp [-BitVec.reduceAppend, wordSteer, decodeCustom1, decodeCustom1F4, field4_25, field4_20, field4_15, field4_12, field4_7, field4_0]

theorem RoundTrip.taprd (rd : BitVec 5) (rs1 : BitVec 5) : RoundTrip.Statement (.taprd rd rs1) := by
  intro hw w h
  change some (wordTaprd rd rs1) = some w at h
  cases h
  refine decode_of_fields ((fields_decodeCustom1 ?_).trans ?_) hw <;> simp [-BitVec.reduceAppend, wordTaprd, decodeCustom1, decodeCustom1F4, field4_25, field4_20, field4_15, field4_12, field4_7, field4_0]

theorem RoundTrip.xret : RoundTrip.Statement (.xret) := by
  intro hw w h
  change some (wordXret) = some w at h
  cases h
  refine decode_of_fields ((fields_decodeCustom1 ?_).trans ?_) hw <;> simp [-BitVec.reduceAppend, wordXret, decodeCustom1, decodeCustom1F5, field4_25, field4_20, field4_15, field4_12, field4_7, field4_0]

theorem RoundTrip.park : RoundTrip.Statement (.park) := by
  intro hw w h
  change some (wordPark) = some w at h
  cases h
  refine decode_of_fields ((fields_decodeCustom1 ?_).trans ?_) hw <;> simp [-BitVec.reduceAppend, wordPark, decodeCustom1, decodeCustom1F5, field4_25, field4_20, field4_15, field4_12, field4_7, field4_0]

theorem RoundTrip.atinv (rs1 : BitVec 5) (rs2 : BitVec 5) : RoundTrip.Statement (.atinv rs1 rs2) := by
  intro hw w h
  change some (wordAtinv rs1 rs2) = some w at h
  cases h
  refine decode_of_fields ((fields_decodeCustom1 ?_).trans ?_) hw <;> simp [-BitVec.reduceAppend, wordAtinv, decodeCustom1, decodeCustom1F5, field4_25, field4_20, field4_15, field4_12, field4_7, field4_0]

theorem RoundTrip.atprobe (rd : BitVec 5) (rs1 : BitVec 5) : RoundTrip.Statement (.atprobe rd rs1) := by
  intro hw w h
  change some (wordAtprobe rd rs1) = some w at h
  cases h
  refine decode_of_fields ((fields_decodeCustom1 ?_).trans ?_) hw <;> simp [-BitVec.reduceAppend, wordAtprobe, decodeCustom1, decodeCustom1F5, field4_25, field4_20, field4_15, field4_12, field4_7, field4_0]

theorem RoundTrip.hintPoint (hint : BitVec 17) : RoundTrip.Statement (.hintPoint hint) := by
  intro hw w h
  change some (wordHintPoint hint) = some w at h
  cases h
  refine decode_of_fields ((fields_decodeCustom1 ?_).trans ?_) hw <;> simp [-BitVec.reduceAppend, wordHintPoint, decodeCustom1, decodeCustom1F6, field20_15, field20_12, field20_7, field20_0]

theorem RoundTrip.preempt (c : CoreId) : RoundTrip.Statement (.preempt c) := fun _ _ h => nomatch h

theorem RoundTrip.resumeCore (c : CoreId) : RoundTrip.Statement (.resumeCore c) := fun _ _ h => nomatch h

theorem RoundTrip.retry (c : CoreId) : RoundTrip.Statement (.retry c) := fun _ _ h => nomatch h

theorem RoundTrip.abandon (c : CoreId) : RoundTrip.Statement (.abandon c) := fun _ _ h => nomatch h

theorem RoundTrip.move (c : CoreId) : RoundTrip.Statement (.move c) := fun _ _ h => nomatch h

theorem RoundTrip.unpin (c : CoreId) : RoundTrip.Statement (.unpin c) := fun _ _ h => nomatch h

theorem RoundTrip.clearFaultedMark (c : CoreId) : RoundTrip.Statement (.clearFaultedMark c) := fun _ _ h => nomatch h

theorem RoundTrip.setreg (c : CoreId) : RoundTrip.Statement (.setreg c) := fun _ _ h => nomatch h

theorem RoundTrip.sltgoRequest (die : Fin 8) (n : Fin 4) (v : BitVec 64) : RoundTrip.Statement (.sltgoRequest die n v) := fun _ _ h => nomatch h

theorem RoundTrip.slotTableInstall (c : CoreId) : RoundTrip.Statement (.slotTableInstall c) := fun _ _ h => nomatch h

theorem RoundTrip.stareaWrite (die : Fin 8) (n : Fin 4) (v : BitVec 64) : RoundTrip.Statement (.stareaWrite die n v) := fun _ _ h => nomatch h

theorem RoundTrip.spqWrite (die : Fin 8) (n : Fin 4) (v : BitVec 64) : RoundTrip.Statement (.spqWrite die n v) := fun _ _ h => nomatch h

theorem RoundTrip.qovfWrite (die : Fin 8) (n : Fin 4) (v : BitVec 64) : RoundTrip.Statement (.qovfWrite die n v) := fun _ _ h => nomatch h

theorem RoundTrip.tapArm (die : Fin 8) (n : Fin 4) (v : BitVec 64) : RoundTrip.Statement (.tapArm die n v) := fun _ _ h => nomatch h

theorem RoundTrip.tapDisarm (die : Fin 8) (n : Fin 4) (v : BitVec 64) : RoundTrip.Statement (.tapDisarm die n v) := fun _ _ h => nomatch h

theorem RoundTrip.tapTablePointerWrite (die : Fin 8) (n : Fin 4) (cap : BitVec 129) : RoundTrip.Statement (.tapTablePointerWrite die n cap) := fun _ _ h => nomatch h

theorem RoundTrip.registerWrite (p : Party) (csr : BitVec 12) (v : BitVec 64) : RoundTrip.Statement (.registerWrite p csr v) := fun _ _ h => nomatch h

theorem RoundTrip.drain (p : Party) : RoundTrip.Statement (.drain p) := fun _ _ h => nomatch h

theorem RoundTrip.carryDelivery (d e : Fin 8) (i : Nat) : RoundTrip.Statement (.carryDelivery d e i) := fun _ _ h => nomatch h

theorem RoundTrip.deliver (ch : Chan) : RoundTrip.Statement (.deliver ch) := fun _ _ h => nomatch h

theorem RoundTrip.ownerAmo (c : CoreId) : RoundTrip.Statement (.ownerAmo c) := fun _ _ h => nomatch h

theorem RoundTrip.carriedCodeRun (c : CoreId) : RoundTrip.Statement (.carriedCodeRun c) := fun _ _ h => nomatch h

theorem RoundTrip.barrierInitOp (c : CoreId) : RoundTrip.Statement (.barrierInitOp c) := fun _ _ h => nomatch h

theorem RoundTrip.barrierArriveOp (c : CoreId) : RoundTrip.Statement (.barrierArriveOp c) := fun _ _ h => nomatch h

theorem RoundTrip.barrierWaitOp (c : CoreId) : RoundTrip.Statement (.barrierWaitOp c) := fun _ _ h => nomatch h

theorem RoundTrip.barrierCancel (c : CoreId) : RoundTrip.Statement (.barrierCancel c) := fun _ _ h => nomatch h

theorem RoundTrip.barrierReadOp (c : CoreId) : RoundTrip.Statement (.barrierReadOp c) := fun _ _ h => nomatch h

theorem RoundTrip.replyDelivery (p : Party) : RoundTrip.Statement (.replyDelivery p) := fun _ _ h => nomatch h

theorem RoundTrip.barwaitTimeout (p : Party) : RoundTrip.Statement (.barwaitTimeout p) := fun _ _ h => nomatch h

theorem RoundTrip.monwTimeout (p : Party) : RoundTrip.Statement (.monwTimeout p) := fun _ _ h => nomatch h

theorem RoundTrip.cbputEffect (p : Party) : RoundTrip.Statement (.cbputEffect p) := fun _ _ h => nomatch h

theorem RoundTrip.streamWindowFill (p : Party) (w : Fin 8) : RoundTrip.Statement (.streamWindowFill p w) := fun _ _ h => nomatch h

theorem RoundTrip.homeMessageArrival (die : Fin 8) (clu : Fin 256) : RoundTrip.Statement (.homeMessageArrival die clu) := fun _ _ h => nomatch h

theorem RoundTrip.kindleHostRetry (die : Fin 8) (clu : Fin 256) (i : Nat) : RoundTrip.Statement (.kindleHostRetry die clu i) := fun _ _ h => nomatch h

theorem RoundTrip.kindleStateInPlace (c : CoreId) (i : Nat) : RoundTrip.Statement (.kindleStateInPlace c i) := fun _ _ h => nomatch h

theorem RoundTrip.bankIntent (die : Fin 8) (clu : Fin 256) : RoundTrip.Statement (.bankIntent die clu) := fun _ _ h => nomatch h

theorem RoundTrip.bankOrder (c : CoreId) : RoundTrip.Statement (.bankOrder c) := fun _ _ h => nomatch h

theorem RoundTrip.shipOrder (c : CoreId) : RoundTrip.Statement (.shipOrder c) := fun _ _ h => nomatch h

theorem RoundTrip.imageWritten (die : Fin 8) (clu : Fin 256) : RoundTrip.Statement (.imageWritten die clu) := fun _ _ h => nomatch h

theorem RoundTrip.bankRefused (die : Fin 8) (clu : Fin 256) : RoundTrip.Statement (.bankRefused die clu) := fun _ _ h => nomatch h

theorem RoundTrip.moveStateInPlace (c : CoreId) : RoundTrip.Statement (.moveStateInPlace c) := fun _ _ h => nomatch h

theorem RoundTrip.addrHomeHandover (die : Fin 8) (clu : Fin 256) : RoundTrip.Statement (.addrHomeHandover die clu) := fun _ _ h => nomatch h

theorem RoundTrip.handoverMarker (die : Fin 8) (clu : Fin 256) : RoundTrip.Statement (.handoverMarker die clu) := fun _ _ h => nomatch h

theorem RoundTrip.decrementApply (c : CoreId) : RoundTrip.Statement (.decrementApply c) := fun _ _ h => nomatch h

theorem RoundTrip.contextPick (c : CoreId) (k : Fin 4) : RoundTrip.Statement (.contextPick c k) := fun _ _ h => nomatch h

theorem RoundTrip.firingEnd (c : CoreId) (k : Fin 4) : RoundTrip.Statement (.firingEnd c k) := fun _ _ h => nomatch h

theorem RoundTrip.stealServe (c : CoreId) (k : Fin 4) : RoundTrip.Statement (.stealServe c k) := fun _ _ h => nomatch h

theorem RoundTrip.stealBackoffExpiry (c : CoreId) (k : Fin 4) : RoundTrip.Statement (.stealBackoffExpiry c k) := fun _ _ h => nomatch h

theorem RoundTrip.quireRefill (c : CoreId) : RoundTrip.Statement (.quireRefill c) := fun _ _ h => nomatch h

theorem RoundTrip.launchExpansionStart (die : Fin 8) : RoundTrip.Statement (.launchExpansionStart die) := fun _ _ h => nomatch h

theorem RoundTrip.launchItem (die : Fin 8) : RoundTrip.Statement (.launchItem die) := fun _ _ h => nomatch h

theorem RoundTrip.launchSweep (part : BitVec 8) : RoundTrip.Statement (.launchSweep part) := fun _ _ h => nomatch h

theorem RoundTrip.gangReserve (die : Fin 8) : RoundTrip.Statement (.gangReserve die) := fun _ _ h => nomatch h

theorem RoundTrip.gangStart (part : BitVec 8) (g : Nat) : RoundTrip.Statement (.gangStart part g) := fun _ _ h => nomatch h

theorem RoundTrip.gangStartDelivery (c : CoreId) : RoundTrip.Statement (.gangStartDelivery c) := fun _ _ h => nomatch h

theorem RoundTrip.gangRelease (part : BitVec 8) (g : Nat) : RoundTrip.Statement (.gangRelease part g) := fun _ _ h => nomatch h

theorem RoundTrip.probeTokenSend (c : CoreId) : RoundTrip.Statement (.probeTokenSend c) := fun _ _ h => nomatch h

theorem RoundTrip.probeTokenForward (c : CoreId) : RoundTrip.Statement (.probeTokenForward c) := fun _ _ h => nomatch h

theorem RoundTrip.emergencyEntry (c : CoreId) : RoundTrip.Statement (.emergencyEntry c) := fun _ _ h => nomatch h

theorem RoundTrip.spillRedelivery (c : CoreId) : RoundTrip.Statement (.spillRedelivery c) := fun _ _ h => nomatch h

theorem RoundTrip.journalAppend (c : CoreId) : RoundTrip.Statement (.journalAppend c) := fun _ _ h => nomatch h

theorem RoundTrip.requestAccept (p : Party) : RoundTrip.Statement (.requestAccept p) := fun _ _ h => nomatch h

theorem RoundTrip.copyRead (e : EngineId) (i : Nat) : RoundTrip.Statement (.copyRead e i) := fun _ _ h => nomatch h

theorem RoundTrip.copyWrite (e : EngineId) (i : Nat) : RoundTrip.Statement (.copyWrite e i) := fun _ _ h => nomatch h

theorem RoundTrip.reduceElement (e : EngineId) (i : Nat) : RoundTrip.Statement (.reduceElement e i) := fun _ _ h => nomatch h

theorem RoundTrip.orderedReduceApply (e : EngineId) (i : Nat) : RoundTrip.Statement (.orderedReduceApply e i) := fun _ _ h => nomatch h

theorem RoundTrip.cbfillSlotPut (e : EngineId) (i : Nat) : RoundTrip.Statement (.cbfillSlotPut e i) := fun _ _ h => nomatch h

theorem RoundTrip.stamp (e : EngineId) (i : Nat) : RoundTrip.Statement (.stamp e i) := fun _ _ h => nomatch h

theorem RoundTrip.wrenqEnqueue (e : EngineId) (i : Nat) : RoundTrip.Statement (.wrenqEnqueue e i) := fun _ _ h => nomatch h

theorem RoundTrip.notify (e : EngineId) (i : Nat) : RoundTrip.Statement (.notify e i) := fun _ _ h => nomatch h

theorem RoundTrip.matrixOpStart (c : CoreId) : RoundTrip.Statement (.matrixOpStart c) := fun _ _ h => nomatch h

theorem RoundTrip.matrixOpRetire (c : CoreId) (mismatches : Nat) : RoundTrip.Statement (.matrixOpRetire c mismatches) := fun _ _ h => nomatch h

theorem RoundTrip.gangOpStart (die : Fin 8) (clu : Fin 256) : RoundTrip.Statement (.gangOpStart die clu) := fun _ _ h => nomatch h

theorem RoundTrip.selectionEngineGrant (die : Fin 8) (clu : Fin 256) : RoundTrip.Statement (.selectionEngineGrant die clu) := fun _ _ h => nomatch h

theorem RoundTrip.pageWalk (die : Fin 8) : RoundTrip.Statement (.pageWalk die) := fun _ _ h => nomatch h

theorem RoundTrip.long (f : Flit) : RoundTrip.Statement (.long f) := fun _ _ h => nomatch h

theorem RoundTrip.short (f : Flit) : RoundTrip.Statement (.short f) := fun _ _ h => nomatch h

theorem RoundTrip.rereq (f : Flit) : RoundTrip.Statement (.rereq f) := fun _ _ h => nomatch h

theorem RoundTrip.msg (f : Flit) : RoundTrip.Statement (.msg f) := fun _ _ h => nomatch h

theorem RoundTrip.sweep (f : Flit) : RoundTrip.Statement (.sweep f) := fun _ _ h => nomatch h

theorem RoundTrip.ack (f : Flit) : RoundTrip.Statement (.ack f) := fun _ _ h => nomatch h

theorem RoundTrip.doneResponse (f : Flit) : RoundTrip.Statement (.doneResponse f) := fun _ _ h => nomatch h

theorem RoundTrip.rdata (f : Flit) : RoundTrip.Statement (.rdata f) := fun _ _ h => nomatch h

theorem RoundTrip.fwd (f : Flit) : RoundTrip.Statement (.fwd f) := fun _ _ h => nomatch h

theorem RoundTrip.drop (f : Flit) : RoundTrip.Statement (.drop f) := fun _ _ h => nomatch h

theorem RoundTrip.mack (f : Flit) : RoundTrip.Statement (.mack f) := fun _ _ h => nomatch h

theorem RoundTrip.grant (f : Flit) : RoundTrip.Statement (.grant f) := fun _ _ h => nomatch h

theorem RoundTrip.revoke (f : Flit) : RoundTrip.Statement (.revoke f) := fun _ _ h => nomatch h

theorem RoundTrip.resume (f : Flit) : RoundTrip.Statement (.resume f) := fun _ _ h => nomatch h

theorem RoundTrip.setaside (f : Flit) : RoundTrip.Statement (.setaside f) := fun _ _ h => nomatch h

theorem RoundTrip.clear (f : Flit) : RoundTrip.Statement (.clear f) := fun _ _ h => nomatch h

theorem RoundTrip.data (f : Flit) : RoundTrip.Statement (.data f) := fun _ _ h => nomatch h

theorem RoundTrip.damperGrant (slot : Nat) : RoundTrip.Statement (.damperGrant slot) := fun _ _ h => nomatch h

theorem RoundTrip.tokenExpiry (i : Nat) : RoundTrip.Statement (.tokenExpiry i) := fun _ _ h => nomatch h

theorem RoundTrip.rereqTimeout (die : Fin 8) (i : Nat) : RoundTrip.Statement (.rereqTimeout die i) := fun _ _ h => nomatch h

theorem RoundTrip.prefixTrackerTimeout (i : Nat) : RoundTrip.Statement (.prefixTrackerTimeout i) := fun _ _ h => nomatch h

theorem RoundTrip.damperSave (part : BitVec 8) (tag : BitVec 12) : RoundTrip.Statement (.damperSave part tag) := fun _ _ h => nomatch h

theorem RoundTrip.damperRestore (part : BitVec 8) (tag : BitVec 12) : RoundTrip.Statement (.damperRestore part tag) := fun _ _ h => nomatch h

theorem RoundTrip.switchSetAside (port : Fin 128) (dev : BitVec 12) (cls : Fin 4) : RoundTrip.Statement (.switchSetAside port dev cls) := fun _ _ h => nomatch h

theorem RoundTrip.switchClear (port : Fin 128) (dev : BitVec 12) (cls : Fin 4) : RoundTrip.Statement (.switchClear port dev cls) := fun _ _ h => nomatch h

theorem RoundTrip.switchCombine (port : Fin 128) : RoundTrip.Statement (.switchCombine port) := fun _ _ h => nomatch h

theorem RoundTrip.flitCrcFail (port : Fin 128) (lane : Fin 2) : RoundTrip.Statement (.flitCrcFail port lane) := fun _ _ h => nomatch h

theorem RoundTrip.linkFailure (port : Fin 128) (cls : Fin 4) : RoundTrip.Statement (.linkFailure port cls) := fun _ _ h => nomatch h

theorem RoundTrip.uncorrectableError (x : Struck) : RoundTrip.Statement (.uncorrectableError x) := fun _ _ h => nomatch h

theorem RoundTrip.correctedErrorThreshold (unit : Nat) : RoundTrip.Statement (.correctedErrorThreshold unit) := fun _ _ h => nomatch h

theorem RoundTrip.heartbeatTimeout (die : Fin 8) : RoundTrip.Statement (.heartbeatTimeout die) := fun _ _ h => nomatch h

theorem RoundTrip.dieFailure (die : Fin 8) : RoundTrip.Statement (.dieFailure die) := fun _ _ h => nomatch h

theorem RoundTrip.hostMessageWrite (part : BitVec 8) (off : BitVec 12) (bytes : List (BitVec 8)) : RoundTrip.Statement (.hostMessageWrite part off bytes) := fun _ _ h => nomatch h

theorem RoundTrip.hostMemoryAccess (part : BitVec 8) (q : BitVec 64) (wr : Option (BitVec 512)) : RoundTrip.Statement (.hostMemoryAccess part q wr) := fun _ _ h => nomatch h

theorem RoundTrip.attestationRequest (nonce : BitVec 256) : RoundTrip.Statement (.attestationRequest nonce) := fun _ _ h => nomatch h

theorem RoundTrip.attestationReportReady : RoundTrip.Statement (.attestationReportReady) := fun _ _ h => nomatch h

theorem RoundTrip.powerOn : RoundTrip.Statement (.powerOn) := fun _ _ h => nomatch h

theorem RoundTrip.clusterWaveStart (die : Fin 8) : RoundTrip.Statement (.clusterWaveStart die) := fun _ _ h => nomatch h

theorem RoundTrip.powerLimitSet (watts : Nat) : RoundTrip.Statement (.powerLimitSet watts) := fun _ _ h => nomatch h

theorem RoundTrip.powerLimitEngage : RoundTrip.Statement (.powerLimitEngage) := fun _ _ h => nomatch h

theorem RoundTrip.illegalInstruction (w : BitVec 32) : RoundTrip.Statement (.illegalInstruction w) := fun _ _ h => nomatch h

theorem RoundTrip.instructionFetchFault (cause : BitVec 6) (tval : BitVec 64) : RoundTrip.Statement (.instructionFetchFault cause tval) := fun _ _ h => nomatch h

theorem RoundTrip.combinedDoneSplit (f : Flit) : RoundTrip.Statement (.combinedDoneSplit f) := fun _ _ h => nomatch h

theorem RoundTrip.portUp (port : Fin 128) (cls : Fin 4) : RoundTrip.Statement (.portUp port cls) := fun _ _ h => nomatch h

theorem RoundTrip.unitStart : RoundTrip.Statement (.unitStart) := fun _ _ h => nomatch h

theorem RoundTrip.powerDown : RoundTrip.Statement (.powerDown) := fun _ _ h => nomatch h

end Sys2Proof.Laws
end

