-- ==== Sys2Proof/Safety.lean ====
section
/-! DEFINITION. The terms of claims: what counts as a safe state and a safe step, when an instruction's operands are there,
and how a completed instruction leaves its party. -/

namespace Sys2Proof.Machine

/-! ## Safe states and steps -/

/-- Every die view's memory is in its canonical form. -/
def State.memoriesWf (s : State) : Prop := ∀ d, ((s.die d).view.mem).wf = true

/-- A step that does not stop. -/
def Safe (s : State) : Prop := ∃ t, step s = .next t

/-! ## Operands -/

/-- A form of the execute half may run: rd is not x28, no source field is x29, no load of the access half has yet to write a
register that it names, and the store-data queue does not hold it (R74 to R76). -/
def State.exeReady (s : State) (rd : BitVec 5) (rs : List (BitVec 5)) : Prop :=
  rd ≠ 28#5 ∧ 29#5 ∉ rs ∧ (s.ctx s.cur).awaits (rd :: rs) = false ∧ (s.ctx s.cur).pushHeld rd = false

/-- A form of the access half may be taken: no address field is x29, and no earlier load has yet to write a register that it
names (R74, R76). `other` is its rd or its data field. -/
def State.memReady (s : State) (other : BitVec 5) (rs : List (BitVec 5)) : Prop :=
  29#5 ∉ rs ∧ (s.ctx s.cur).awaits (other :: rs) = false

/-- A load may be taken: the access half may take it, and one into x29 finds room in the store-data queue (R76). -/
def State.loadReady (s : State) (rd : BitVec 5) (rs : List (BitVec 5)) : Prop :=
  s.memReady rd rs ∧ (s.ctx s.cur).pushHeld rd = false

/-- A source field of the current party gives a value, and leaves a state (R68, R75). -/
def State.gives (s : State) (r : BitVec 5) (a : Reg) (t : State) : Prop := s.src s.cur r = .val (a, t)

/-- The data field of a store of the current party gives a value, and leaves a state (R76). -/
def State.givesData (s : State) (r : BitVec 5) (a : Reg) (t : State) : Prop := s.storeSrc s.cur r = .val (a, t)

/-- A load of `n` bytes at address `a` through the register `c` passes every check, and `qs` are the places of its bytes:
the capability, the places with the right to read them, and poison (R133, R205, R379, R384, R386). -/
def State.loadable (s : State) (p : Party) (c : Reg) (a n : Nat) (capAcc : Bool) (qs : List Nat) : Prop :=
  checkCap p.isSup c a n permLoad capAcc = none ∧ s.places p .r a n = .at qs ∧ s.poisonedFrom p.die.val a qs = none

/-- A store of `n` bytes passes every check, and `qs` are the places of its bytes. -/
def State.storable (s : State) (p : Party) (c : Reg) (a n : Nat) (perms : BitVec 11) (capAcc : Bool) (qs : List Nat) : Prop :=
  checkCap p.isSup c a n perms capAcc = none ∧ s.places p .w a n = .at qs

/-- An access of `n` bytes with the rights `perms` and `need` passes every check but poison. -/
def State.reaches (s : State) (p : Party) (c : Reg) (a n : Nat) (perms : BitVec 11) (need : Need) (qs : List Nat) : Prop :=
  checkCap p.isSup c a n perms false = none ∧ s.places p need a n = .at qs

/-! ## Operations at their owner -/

/-- The oldest operation at a core's handler context is `o`, and may be taken: the die holds the last write of each byte of
its operand and no block of it is poisoned (R175, R386). -/
def State.offers (s : State) (c : CoreId) (o : Op) : Prop :=
  s.opHead c.ix = some o ∧ s.holdsLast c.die.val (span o.addr o.size) = true ∧
    s.poisonedFrom c.die.val o.va (span o.addr o.size) = none

/-- The state once the oldest operation of a core is taken: it is gone from the inbox, and counts one received item. -/
def State.took (s : State) (c : CoreId) (o : Op) : State := (s.popOp c.ix).recvUp c.ix o.part o.ltag

/-! ## Completion -/

/-- How a form that completes leaves the machine: rd of the current party receives a value, and its pc moves on, from the
state `t` that its sources left. -/
def State.wrote (s t : State) (rd : BitVec 5) (v : Reg) : State := (t.dest s.cur rd v).advance s.cur

/-- The current party's pc has moved past one instruction and no exception has been taken: what tells a completed form from
one that is held, and from one that takes a cause. -/
def State.completed (s t : State) : Prop :=
  (t.ctx s.cur).pc = (s.ctx s.cur).pc + 4 ∧ (t.ctx s.cur).handler = (s.ctx s.cur).handler

/-- A party's turn is a firing's, not a supervisor core's. -/
def State.inFiring (s : State) : Prop := s.cur.isSup = false

/-- Nothing of the machine but the record of one party differs. -/
def State.onlyParty (s t : State) (p : Party) : Prop :=
  t.cur = s.cur ∧ t.agenda = s.agenda ∧ t.cores = s.cores ∧ t.clusters = s.clusters ∧ t.dies = s.dies ∧ t.dev = s.dev ∧
    ∀ q, q ≠ p → t.ctx q = s.ctx q

/-- Of a party's record, nothing but its registers, its queues of load and store data and its pc differs. -/
def Ctx.onlyRegs (c d : Ctx) : Prop := d = { c with x := d.x, qld := d.qld, qst := d.qst, pc := d.pc }

end Sys2Proof.Machine
end

