-- ==== Sys2Proof/Certificates/Slice0/Obligations.lean ====
section
/-! DEFINITION. The statements about the model, for the provers. Each docstring names the rule of spec/ that the statement
formalises, or says that it is the model's. -/

open Sys2Proof Sys2Proof.Machine

/-- After reset every access-table entry reads 0, every supervisor core is in mask ROM, no context runs, no actor is hosted, no message or sheet stands in an inbox, a queue, a home or on its way, no operation is in flight, and every memory is canonical. That bytes which nothing has written read as 0 is the model's choice (DESIGN CHOICE, log 2), as are the registers without a reset value (DESIGN CHOICE, log 3). -/
def Obligations.ResetIsAsTheSpecSays : Prop :=
  (∀ k, State.reset.dev.access.getD k 0 = 0) ∧
    (∀ d n, (State.reset.ctx (.sup d n)).run = .idle) ∧
    (∀ c k, (State.reset.ctx (.ctx c k)).run = .idle) ∧
    (∀ n, (State.reset.core n).actors = [] ∧ (State.reset.core n).inboxCount = 0 ∧ (State.reset.core n).decs = [] ∧
      (State.reset.core n).spill = [] ∧ (State.reset.core n).incoming = [] ∧ (State.reset.core n).opInbox = [] ∧
      (State.reset.core n).cmds = [] ∧ (State.reset.core n).quire = [] ∧ (State.reset.core n).quireOvf = [] ∧
      (State.reset.core n).outq = [] ∧ (State.reset.core n).fifo = []) ∧
    (∀ n, (State.reset.clu n).hearth = [] ∧ (State.reset.clu n).homeQ = [] ∧ (State.reset.clu n).full = [] ∧
      (State.reset.clu n).toHost = []) ∧
    State.reset.dev.ops = [] ∧ State.reset.dev.unitMsgs = [] ∧ State.reset.dev.msgHeld = [] ∧ State.reset.dev.engines = [] ∧
    (∀ d, (State.reset.die d).held = []) ∧
    (∀ d, (State.reset.die d).image = none) ∧ State.reset.dev.units = 0 ∧ State.reset.memoriesWf

/-- Words written out from the encoding examples of 03_rules_word.md decode to the instruction each stands for: words of the major opcodes 0x0B, 0x2B, 0x73, 0x0F, 0x33 and 0x13. The word of all zeros and the word of all ones are no instruction. -/
def Obligations.TableWordsDecode : Prop :=
  decode 0xFF03128B = some (.caddi 5 6 0xFF0) ∧ decode 0x007302AB = some (.send 5 6 7) ∧
    decode 0x0000502B = some .xret ∧ decode 0x0273628B = some (.bararv 5 6 7) ∧
    decode 0x00000073 = some .ecall ∧ decode 0x00100073 = some .ebreak ∧ decode 0x0FF0000F = some (.fence 0 15 15) ∧
    decode 0x007302B3 = some (.add 5 6 7) ∧ decode 0x00A30293 = some (.addi 5 6 10) ∧
    decode 0x7674400B = some (.stl 8 7 3 3) ∧ decode 0x5E63E28B = some (.amoCasD 5 7 6) ∧
    decode 0x00000000 = none ∧ decode 0xFFFFFFFF = none

/-- For every instruction of the table whose fields hold no excluded value, with every operand at every value its encoding admits, decoding its word gives the instruction: no bit of an encoding is dropped. -/
def Obligations.EncodedInstructionDecodesBack : Prop :=
  ∀ i : Instr, i.wf = true → ∀ w, encode i = some w → decode w = some i

/-- Whatever word decodes to an instruction is that instruction's word, and the instruction is well-formed: no two words mean one instruction, and no word with an excluded or nonzero fixed field decodes. -/
def Obligations.DecodedWordIsTheEncoding : Prop :=
  ∀ (w : BitVec 32) (i : Instr), decode w = some i → i.wf = true ∧ encode i = some w

/-- With the agenda empty and the current party running and in no wait, a step adds one to the count cyc of its core (the model's choice of what a turn costs, DESIGN CHOICE, log 5), lets the access half take one step of what it holds (nothing, where it holds nothing: log 6), fetches the word at the pc and is exec of the instruction that the word decodes to, at that state; where the store-data queue has just held the instruction, the access half then runs ahead of it, and an instruction that it has run ahead is passed over with what is left of it: its datum for a load, its hand-on for a store (log 113). The word is the one that the access half has fetched, where it has looked ahead. A word that is no instruction runs as the illegal-instruction row, a fetch that fails as the fetch-fault row, and one whose translation is missing asks for its walk. The next state is whatever exec gives: the pc is moved by the instruction itself. -/
def Obligations.StepRunsTheDecodedInstruction : Prop :=
  ∀ s : State, s.dev.powered = true → s.agenda = [] → (s.ctx s.cur).run = .running → (s.ctx s.cur).waiting = none →
    let s1 := (s.tick s.cur.coreIx 1).accStep s.cur
    let s2 := if (s1.ctx s.cur).ahead.isEmpty then s1 else s1.mod s.cur Ctx.alignAhead
    let go (t : State) : State := if (t.ctx s.cur).held then t.runAhead s.cur else t
    ((s.ctx s.cur).acc = [] → s1 = s.tick s.cur.coreIx 1) ∧
    ((s1.ctx s.cur).ahead = [] → s2 = s1) ∧
    ((s2.ctx s.cur).ahead = [] → s2.wordAt s.cur = s2.fetchWord s.cur (s2.ctx s.cur).pc ∧
      ∀ i, s2.passAhead s.cur i = none) ∧
    (∀ a rest, (s2.ctx s.cur).ahead = a :: rest → s2.wordAt s.cur = .val a.word) ∧
    (∀ w i, s2.wordAt s.cur = .val w → decode w = some i →
      (∀ t, s2.passAhead s.cur i = some t → step s = .next (go t)) ∧
      (s2.passAhead s.cur i = none →
        (∀ t, exec i s2 = .next t → step s = .next (go t)) ∧
        (∀ f, exec i s2 = .fault f → step s = exec i s2) ∧ ∀ r, exec i s2 = .refused r → step s = exec i s2)) ∧
    (∀ w, s2.wordAt s.cur = .val w → decode w = none → step s = exec (.illegalInstruction w) s2) ∧
    (∀ c t, s2.wordAt s.cur = .trap c t → step s = exec (.instructionFetchFault c t) s2) ∧
    (∀ part va, s2.wordAt s.cur = .walk part va → step s = .next (s2.askWalk s.cur part va))

/-- The first turn of the agenda is what a step takes (the agenda is the model's, DESIGN CHOICE, log 4): a background step is exec of its row, and the passing of time adds to one unit's clock alone. A powered-down device takes no step but the return of power: the step is the fault poweredDown; at the return of power the machine is as after reset, the agenda apart. R392 powers the device down; that the model has a fault for it, and the state that the return of power gives, are log 54 (DEDUCED), and the agenda is log 4 (DESIGN CHOICE). -/
def Obligations.TurnsOfTheAgenda : Prop :=
  (∀ (s : State) (rest : List Turn), s.dev.powered = true →
    (∀ i, s.agenda = .event i :: rest → step s = exec i { s with agenda := rest }) ∧
    (∀ c n, s.agenda = .time c n :: rest → step s = .next ({ s with agenda := rest }.passTime c n))) ∧
  (∀ s : State, s.dev.powered = false →
    ((∀ rest, s.agenda ≠ .event .powerOn :: rest) → step s = .fault .poweredDown) ∧
    (∀ rest, s.agenda = .event .powerOn :: rest → step s = .next { State.reset with agenda := rest }))

/-- A source field other than x28 reads its register and x0 reads zero untagged; x28 pops the head of the load-data queue, which becomes the rest of it, with nothing else changed; at an empty queue the form waits while a load into x28 is in flight, and takes cause 0x0B when none is. A destination other than x29 is a register, and a write of x0 is discarded; x29 pushes the store-data queue while it has room for one of its 16 entries, with nothing else of the party changed; a form that would push a full queue is held, shown for addi and add: its pc, its registers and the queues stay as they were, and the access half may go on. Nothing but the party's record changes. -/
def Obligations.SourceAndDestinationFields : Prop :=
  ∀ (s : State) (r rd rs1 rs2 : BitVec 5) (v : Reg) (imm : BitVec 12),
    (r ≠ 28#5 → s.gives r ((s.ctx s.cur).reg r) s) ∧ (s.ctx s.cur).reg 0#5 = 0 ∧
    ((s.ctx s.cur).qld = [] → (s.ctx s.cur).loadInFlight = false → s.src s.cur 28#5 = .trap 0x0B 0) ∧
    ((s.ctx s.cur).qld = [] → (s.ctx s.cur).loadInFlight = true → s.src s.cur 28#5 = .stall s) ∧
    ((s.ctx s.cur).acc = [] → (s.ctx s.cur).loadInFlight = false) ∧
    (∀ a rest, (s.ctx s.cur).qld = a :: rest → s.gives 28#5 a (s.setCtx s.cur { s.ctx s.cur with qld := rest })) ∧
    (rd ≠ 29#5 → rd ≠ 0#5 → ((s.dest s.cur rd v).ctx s.cur).reg rd = v) ∧
    (rd ≠ 29#5 → ∀ q, q ≠ rd → ((s.dest s.cur rd v).ctx s.cur).reg q = (s.ctx s.cur).reg q) ∧
    ((s.dest s.cur 0#5 v).ctx s.cur = s.ctx s.cur) ∧
    ((s.ctx s.cur).qst.length < 16 →
      (s.dest s.cur 29#5 v).ctx s.cur = { s.ctx s.cur with qst := (s.ctx s.cur).qst ++ [v] }) ∧
    (16 ≤ (s.ctx s.cur).qst.length → (s.ctx s.cur).awaits [29#5, rs1, rs2] = false → 29#5 ∉ [rs1, rs2] →
      exec (.add 29#5 rs1 rs2) s = .next (s.setCtx s.cur { s.ctx s.cur with held := true }) ∧
      exec (.addi 29#5 rs1 imm) s = .next (s.setCtx s.cur { s.ctx s.cur with held := true })) ∧
    s.onlyParty (s.dest s.cur rd v) s.cur

/-- Where their operands are there, add, sub, sll, slt, sltu, xor, srl, sra, or, and, addw, subw, sllw, srlw, sraw complete: rd receives the result that the rule gives, untagged, and the pc moves past the instruction. Shift amounts are the low six bits of the second operand, or five for the 32-bit forms, whose results are sign-extended. Where their operand is there, addi, slti, sltiu, xori, ori, andi, addiw, slli, srli, srai, slliw, srliw, sraiw complete with the results that the rule gives, the immediate sign-extended; lui writes its immediate times 2^12, sign-extended, and auipc the pc plus that. -/
def Obligations.IntegerArithmeticResults : Prop :=
  (∀ (s s1 s2 : State) (rd rs1 rs2 : BitVec 5) (a b : Reg), s.exeReady rd [rs1, rs2] → s.gives rs1 a s1 →
    s1.src s.cur rs2 = .val (b, s2) →
    let x := capAddr a
    let y := capAddr b
    let is (i : Instr) (v : BitVec 64) : Prop := exec i s = .next (s.wrote s2 rd (dataReg v))
    is (.add rd rs1 rs2) (x + y) ∧
    is (.sub rd rs1 rs2) (x - y) ∧
    is (.sll rd rs1 rs2) (x <<< (y.toNat % 64)) ∧
    is (.slt rd rs1 rs2) (if x.toInt < y.toInt then 1 else 0) ∧
    is (.sltu rd rs1 rs2) (if x.toNat < y.toNat then 1 else 0) ∧
    is (.xor rd rs1 rs2) (x ^^^ y) ∧
    is (.srl rd rs1 rs2) (x >>> (y.toNat % 64)) ∧
    is (.sra rd rs1 rs2) (x.sshiftRight (y.toNat % 64)) ∧
    is (.or rd rs1 rs2) (x ||| y) ∧
    is (.and rd rs1 rs2) (x &&& y) ∧
    is (.addw rd rs1 rs2) (((x + y).setWidth 32).signExtend 64) ∧
    is (.subw rd rs1 rs2) (((x - y).setWidth 32).signExtend 64) ∧
    is (.sllw rd rs1 rs2) ((x.setWidth 32 <<< (y.toNat % 32)).signExtend 64) ∧
    is (.srlw rd rs1 rs2) ((x.setWidth 32 >>> (y.toNat % 32)).signExtend 64) ∧
    is (.sraw rd rs1 rs2) (((x.setWidth 32).sshiftRight (y.toNat % 32)).signExtend 64)) ∧
  (∀ (s s1 : State) (rd rs1 : BitVec 5) (a : Reg) (imm : BitVec 12) (k : BitVec 6) (j : BitVec 5) (up : BitVec 20),
    s.exeReady rd [rs1] → s.gives rs1 a s1 →
    let x := capAddr a
    let i := imm.signExtend 64
    let is (n : Instr) (v : BitVec 64) : Prop := exec n s = .next (s.wrote s1 rd (dataReg v))
    is (.addi rd rs1 imm) (x + i) ∧
    is (.slti rd rs1 imm) (if x.toInt < i.toInt then 1 else 0) ∧
    is (.sltiu rd rs1 imm) (if x.toNat < i.toNat then 1 else 0) ∧
    is (.xori rd rs1 imm) (x ^^^ i) ∧
    is (.ori rd rs1 imm) (x ||| i) ∧
    is (.andi rd rs1 imm) (x &&& i) ∧
    is (.addiw rd rs1 imm) (((x + i).setWidth 32).signExtend 64) ∧
    is (.slli rd rs1 k) (x <<< k.toNat) ∧
    is (.srli rd rs1 k) (x >>> k.toNat) ∧
    is (.srai rd rs1 k) (x.sshiftRight k.toNat) ∧
    is (.slliw rd rs1 j) ((x.setWidth 32 <<< j.toNat).signExtend 64) ∧
    is (.srliw rd rs1 j) ((x.setWidth 32 >>> j.toNat).signExtend 64) ∧
    is (.sraiw rd rs1 j) (((x.setWidth 32).sshiftRight j.toNat).signExtend 64) ∧
    exec (.lui rd up) s = .next (s.wrote s rd (dataReg ((up ++ 0#12).signExtend 64))) ∧
    exec (.auipc rd up) s = .next (s.wrote s rd (dataReg ((s.ctx s.cur).pc + (up ++ 0#12).signExtend 64))))

/-- Where their operands are there, mul, mulh, mulhsu, mulhu and mulw complete with the low or high half of the product, and div, divu, rem and remu and their 32-bit forms complete. The quotient is rounded toward zero and the remainder has the sign of the dividend; a divisor of 0 gives a quotient of all ones and the dividend as the remainder; on signed overflow the quotient is the dividend and the remainder 0. No cause is taken. -/
def Obligations.MultiplyAndDivideResults : Prop :=
  ∀ (s s1 s2 : State) (rd rs1 rs2 : BitVec 5) (a b : Reg), s.exeReady rd [rs1, rs2] → s.gives rs1 a s1 →
    s1.src s.cur rs2 = .val (b, s2) →
    let x := capAddr a
    let y := capAddr b
    let u := x.setWidth 32
    let v := y.setWidth 32
    let is (i : Instr) (v : BitVec 64) : Prop := exec i s = .next (s.wrote s2 rd (dataReg v))
    is (.mul rd rs1 rs2) (x * y) ∧
    is (.mulh rd rs1 rs2) (BitVec.ofInt 64 (x.toInt * y.toInt / 2 ^ 64)) ∧
    is (.mulhsu rd rs1 rs2) (BitVec.ofInt 64 (x.toInt * y.toNat / 2 ^ 64)) ∧
    is (.mulhu rd rs1 rs2) (BitVec.ofNat 64 (x.toNat * y.toNat / 2 ^ 64)) ∧
    is (.mulw rd rs1 rs2) (((x * y).setWidth 32).signExtend 64) ∧
    is (.div rd rs1 rs2) (if y = 0 then -1 else BitVec.ofInt 64 (x.toInt.tdiv y.toInt)) ∧
    is (.divu rd rs1 rs2) (if y = 0 then -1 else BitVec.ofNat 64 (x.toNat / y.toNat)) ∧
    is (.rem rd rs1 rs2) (if y = 0 then x else BitVec.ofInt 64 (x.toInt.tmod y.toInt)) ∧
    is (.remu rd rs1 rs2) (if y = 0 then x else BitVec.ofNat 64 (x.toNat % y.toNat)) ∧
    is (.divw rd rs1 rs2) ((if v = 0 then -1 else BitVec.ofInt 32 (u.toInt.tdiv v.toInt)).signExtend 64) ∧
    is (.divuw rd rs1 rs2) ((if v = 0 then -1 else BitVec.ofNat 32 (u.toNat / v.toNat)).signExtend 64) ∧
    is (.remw rd rs1 rs2) ((if v = 0 then u else BitVec.ofInt 32 (u.toInt.tmod v.toInt)).signExtend 64) ∧
    is (.remuw rd rs1 rs2) ((if v = 0 then u else BitVec.ofNat 32 (u.toNat % v.toNat)).signExtend 64)

/-- Where add, sub, sltu, mul, div, addi, slli, addiw, lui and auipc complete, no register but rd changes, nor fcsr, a CSR, a queue that their fields do not name, another party, a core, a cluster, the device, or any byte of any memory; the party reads every byte as before. -/
def Obligations.IntegerFormsChangeNothingElse : Prop :=
  ∀ (s s1 s2 : State) (rd rs1 rs2 : BitVec 5) (a b : Reg) (imm : BitVec 12) (k : BitVec 6) (up : BitVec 20),
    s.exeReady rd [rs1, rs2] → s.gives rs1 a s1 → s1.src s.cur rs2 = .val (b, s2) →
    ∀ i ∈ [Instr.add rd rs1 rs2, .sub rd rs1 rs2, .sltu rd rs1 rs2, .mul rd rs1 rs2, .div rd rs1 rs2, .addi rd rs1 imm,
        .slli rd rs1 k, .addiw rd rs1 imm, .lui rd up, .auipc rd up], ∀ t, exec i s = .next t →
      s.onlyParty t s.cur ∧ (s.ctx s.cur).onlyRegs (t.ctx s.cur) ∧
      (rd ≠ 29#5 → ∀ q, q ≠ rd → (t.ctx s.cur).reg q = (s.ctx s.cur).reg q) ∧
      (28#5 ∉ [rs1, rs2] → (t.ctx s.cur).qld = (s.ctx s.cur).qld) ∧
      (rd ≠ 29#5 → (t.ctx s.cur).qst = (s.ctx s.cur).qst) ∧
      (∀ d q, t.cell d q = s.cell d q) ∧ ∀ q, t.see s.cur q = s.see s.cur q

/-- Where their operands are there, beq, bne, blt, bge, bltu and bgeu complete: to the pc plus twice the sign-extended offset field where their relation holds, to the next instruction otherwise; jal goes to the pc plus its offset and jalr to rs1 plus its immediate with bit 0 cleared, and both write pc + 4 to rd untagged. A target that is no multiple of 4 takes cause 0x04 with the target. -/
def Obligations.BranchesAndJumps : Prop :=
  ∀ (s s1 s2 : State) (rd rs1 rs2 : BitVec 5) (a b : Reg) (off : BitVec 12) (jo : BitVec 20) (imm : BitVec 12),
    s.exeReady rd [rs1, rs2] → s.gives rs1 a s1 → s1.src s.cur rs2 = .val (b, s2) →
    let x := capAddr a
    let y := capAddr b
    let pc := (s.ctx s.cur).pc
    let goes (i : Instr) (taken : Prop) : Prop :=
      let t := pc + (off ++ 0#1).signExtend 64
      (taken → t.extractLsb' 0 2 = 0#2 → exec i s = .next (s2.setPc s.cur t)) ∧
      (taken → t.extractLsb' 0 2 ≠ 0#2 → exec i s = .next (takeTrap s s.cur 0x04 t)) ∧
      (¬taken → exec i s = .next (s2.advance s.cur))
    let jumps (i : Instr) (s' : State) (t : BitVec 64) : Prop :=
      (t.extractLsb' 0 2 = 0#2 → exec i s = .next ((s'.setPc s.cur t).dest s.cur rd (dataReg (pc + 4)))) ∧
      (t.extractLsb' 0 2 ≠ 0#2 → exec i s = .next (takeTrap s s.cur 0x04 t))
    goes (.beq rs1 rs2 off) (x = y) ∧ goes (.bne rs1 rs2 off) (x ≠ y) ∧ goes (.blt rs1 rs2 off) (x.toInt < y.toInt) ∧
    goes (.bge rs1 rs2 off) (y.toInt ≤ x.toInt) ∧ goes (.bltu rs1 rs2 off) (x.toNat < y.toNat) ∧
    goes (.bgeu rs1 rs2 off) (y.toNat ≤ x.toNat) ∧
    jumps (.jal rd jo) s (pc + (jo ++ 0#1).signExtend 64) ∧
    jumps (.jalr rd rs1 imm) s1 ((x + imm.signExtend 64) &&& ~~~1#64)

/-- ecall takes cause 0x03 and ebreak cause 0x02, a word that is no instruction takes cause 0x01 with the word as tval, and a failed fetch its cause; a hint point changes nothing but the pc. -/
def Obligations.CausesOfTheirOwn : Prop :=
  ∀ (s : State) (w : BitVec 32) (c : BitVec 6) (t : BitVec 64) (h : BitVec 17),
    exec .ecall s = .next (takeTrap s s.cur 0x03 0) ∧ exec .ebreak s = .next (takeTrap s s.cur 0x02 0) ∧
    exec (.illegalInstruction w) s = .next (takeTrap s s.cur 0x01 (w.setWidth 64)) ∧
    exec (.instructionFetchFault c t) s = .next (takeTrap s s.cur c t) ∧
    exec (.hintPoint h) s = .next (s.advance s.cur)

/-- Where the field is there, the capability covers the access, every byte has a place that the party may read and no block of it is poisoned, lb, lh, lw, lbu, lhu, lwu and ld complete their issue. Where the access half holds nothing and the bytes lie in one 32-byte block, the datum is the bytes that the party sees, the first least significant, sign- or zero-extended to 64 bits and untagged: rd receives it, and into x28 it joins the load-data queue where there is room, and into x29 the store-data queue; otherwise the access half holds the load and the pc moves on (that a list stands for what the access half holds is log 6, DEDUCED). clc at a multiple of 16 gives the granule, whose tag is kept where the authorising register holds LOADCAP. lda does the same at a multiple of its size where no acquire condition holds it, into x28 too: every stl of the party has drained, and at dev and dom scope each is installed or superseded in every die view; its datum is sign-extended; behind an instruction that is held, and into x28 without room, it takes its place in the access half. A load that the access half holds first, and whose bytes lie in one block, gives its register, or the load-data queue where there is room, the bytes that the party sees then; an lda that it holds first does so once its condition lets it go, in one step, and until then nothing of it is done. -/
def Obligations.LoadResults : Prop :=
  ∀ (s s1 : State) (rd rs1 : BitVec 5) (c : Reg) (imm : BitVec 12) (sz : BitVec 2) (sc : BitVec 3) (qs : List Nat),
    s.loadReady rd [rs1] → s.gives rs1 c s1 →
    let x := s1.ctx s.cur
    let le (ps : List Nat) : Nat := leNat (ps.map (s1.see s.cur))
    let oneBlock : Prop := ∀ q ∈ qs, blockOf q = blockOf (qs.headD 0)
    let got (i : Instr) (v : Reg) (k : LoadKind) : Prop :=
      (x.acc = [] → oneBlock → (rd ≠ 28#5 → exec i s = .next (s.wrote s1 rd v)) ∧
        (rd = 28#5 → x.qld.length < 16 →
          exec i s = .next ((s1.mod s.cur fun x => { x with qld := x.qld ++ [v] }).advance s.cur))) ∧
      (x.acc ≠ [] ∨ ¬oneBlock ∨ (rd = 28#5 ∧ 16 ≤ x.qld.length) →
        exec i s = .next ((s1.mod s.cur fun x => { x with acc := x.acc ++ [.load rd qs k] }).advance s.cur))
    let a := (capAddr c + imm.signExtend 64).toNat
    let signed (i : Instr) (n : Nat) : Prop := s1.loadable s.cur c a n false qs →
      got i (dataReg ((BitVec.ofNat (8 * n) (le qs)).signExtend 64)) .sext
    let plain (i : Instr) (n : Nat) : Prop := s1.loadable s.cur c a n false qs → got i (dataReg (BitVec.ofNat 64 (le qs))) .zext
    signed (.lb rd rs1 imm) 1 ∧ signed (.lh rd rs1 imm) 2 ∧ signed (.lw rd rs1 imm) 4 ∧
    plain (.lbu rd rs1 imm) 1 ∧ plain (.lhu rd rs1 imm) 2 ∧ plain (.lwu rd rs1 imm) 4 ∧ plain (.ld rd rs1 imm) 8 ∧
    (s1.loadable s.cur c a 16 true qs → got (.clc rd rs1 imm)
      (mkCap (s1.see s.cur (tagPlace (qs.headD 0)) != 0 && hasPerms c permLoadCap) (BitVec.ofNat 64 (le (qs.drop 8)))
        (BitVec.ofNat 64 (le (qs.take 8)))) (.cap (hasPerms c permLoadCap))) ∧
    (let n := 2 ^ sz.toNat
      let y := s.ctx s.cur
      let drained := ∀ e ∈ y.sb, e.isStl = false
      let everywhere := 3 ≤ sc.toNat → ∀ d < 8, ∀ w ∈ y.scopedDone, w.2 ≤ (s.die d).view.ord.getD w.1 0
      let v := dataReg ((BitVec.ofNat (8 * n) (le qs)).signExtend 64)
      s1.loadable s.cur c (capAddr c).toNat n false qs → (capAddr c).toNat % n = 0 → y.acc = [] → oneBlock →
      (drained → everywhere → (rd ≠ 28#5 → exec (.lda rd rs1 sz sc) s = .next (s.wrote (s1.acquired s.cur sc) rd v)) ∧
        (rd = 28#5 → x.qld.length < 16 → exec (.lda rd rs1 sz sc) s =
          .next (((s1.acquired s.cur sc).mod s.cur fun x => { x with qld := x.qld ++ [v] }).advance s.cur))) ∧
      ((¬drained ∨ ¬everywhere) → (rd ≠ 28#5 ∨ x.qld.length < 16) → exec (.lda rd rs1 sz sc) s = .next s)) ∧
    (s1.loadable s.cur c (capAddr c).toNat (2 ^ sz.toNat) false qs → (capAddr c).toNat % 2 ^ sz.toNat = 0 →
      (x.acc ≠ [] ∨ (rd = 28#5 ∧ 16 ≤ x.qld.length)) → exec (.lda rd rs1 sz sc) s =
        .next ((s1.mod s.cur fun x => { x with acc := x.acc ++ [.acquire rd qs .sext sc] }).advance s.cur)) ∧
    (∀ k rest, (s.ctx s.cur).acc = .load rd qs k :: rest → (s.ctx s.cur).accPart = [] →
      oneBlock → (rd = 28#5 → (s.ctx s.cur).qld.length < 16) →
      s.accStep s.cur = s.setCtx s.cur ({ s.ctx s.cur with acc := rest }.loaded rd (s.loadPlaces s.cur [] qs k))) ∧
    (∀ k rest, (s.ctx s.cur).acc = .acquire rd qs k sc :: rest → (rd = 28#5 → (s.ctx s.cur).qld.length < 16) →
      s.accStep s.cur = if s.acquireReady s.cur sc then
          (s.acquired s.cur sc).mod s.cur (fun c => { c with acc := rest }.loaded rd (s.loadPlaces s.cur [] qs k))
        else s)

/-- Where their operands are there, the capability covers the access and every byte has a place that the party may write, sb, sh, sw and sd complete with the low bytes of the data register, the least significant at the lowest address. Where the access half holds nothing, bytes in one 32-byte block are appended to the store buffer as one entry with the tags of their granules cleared, bytes in several blocks as one entry each, and the party sees the bytes at once; behind an instruction that the access half holds the store waits. csc at a multiple of 16 appends the granule and its tag as one entry; a tagged datum needs STORECAP, and one without GLOBAL goes to the own core's scratchpad alone. A data field that names x29 takes the head of the store-data queue: of a store that completes the queue is the rest of it, shown for sb, sh, sw, sd, csc and stl; at an empty queue, with no load into x29 on its way, each of them takes cause 0x0C. stl at a multiple of its size appends a scoped store, a release entry at dev and dom scope. Where the access half holds nothing, fence at core scope (SCOPE 0 of R64) completes; at clu and die scope it is held while the store buffer holds a store; at dev scope, while a store of the party is not drained, or not installed or superseded where the release condition needs it; at dom scope, and the base fence, also while the party has a copy request in the command FIFO or an operation in flight. A fence that completes changes nothing but the pc and the freshness of windows read early, and a held fence changes nothing. Behind instructions that the access half holds, a fence joins them and the pc moves on; that one list of the access half takes fences with loads and stores is log 6 (DEDUCED). -/
def Obligations.StoresOfEveryKind : Prop :=
  (∀ (s s1 s2 : State) (rs1 rs2 : BitVec 5) (c v : Reg) (imm : BitVec 12) (sz : BitVec 2) (sc : BitVec 3) (qs : List Nat),
    s.memReady (dataField rs2) [rs1] → s.gives rs1 c s1 →
    let a := (capAddr c + imm.signExtend 64).toNat
    let x := s2.ctx s.cur
    (rs2 = 29#5 → (s.ctx s.cur).qst = [] → (s.ctx s.cur).awaits [29#5] = false →
      ∀ i ∈ [Instr.sb rs2 rs1 imm, .sh rs2 rs1 imm, .sw rs2 rs1 imm, .sd rs2 rs1 imm, .csc rs2 rs1 imm, .stl rs1 rs2 sz sc],
        exec i s = .next (takeTrap s s.cur 0x0C 0)) ∧
    (rs2 = 29#5 → ∀ w rest, (s.ctx s.cur).qst = w :: rest → s1.storeSrc s.cur rs2 =
      .val (w, s1.mod s.cur fun x => { x with qst := rest })) ∧
    (s1.storeSrc s.cur rs2 = .val (v, s2) →
    let put (i : Instr) (n : Nat) : Prop := s2.storable s.cur c a n permStore false qs →
      let cells := qs.zip (leBytes (capAddr v).toNat n)
      let t := (s2.storeCells s.cur {} cells).advance s.cur
      exec i s = .next t ∧ (t.ctx s.cur).qst = x.qst ∧
      (x.acc = [] → qs.Nodup → (∀ q ∈ qs, q < tagPlace 0) →
        ∀ k, k < n → t.see s.cur (qs.getD k 0) = (leBytes (capAddr v).toNat n).getD k 0) ∧
      (x.acc = [] → (∀ q ∈ qs, q / 32 = qs.headD 0 / 32) → (t.ctx s.cur).sb = x.sb ++ [{ cells := plainCells cells }]) ∧
      (x.acc ≠ [] → (t.ctx s.cur).sb = x.sb ∧ ∃ es : List StoreEntry, (t.ctx s.cur).acc = x.acc ++ es.map .store)
    put (.sb rs2 rs1 imm) 1 ∧ put (.sh rs2 rs1 imm) 2 ∧ put (.sw rs2 rs1 imm) 4 ∧ put (.sd rs2 rs1 imm) 8 ∧
    (s2.storable s.cur c a 16 (permStore ||| (if capTag v then permStoreCap else 0)) true qs →
      (capTag v = true → hasPerms v permGlobal = true ∨ inOwnScratchpad s.cur a = true) →
      (x.acc = [] → exec (.csc rs2 rs1 imm) s = .next ((s2.mod s.cur fun x => x.store { cells := granuleCells qs v }).advance s.cur)) ∧
      (x.acc ≠ [] → exec (.csc rs2 rs1 imm) s =
        .next ((s2.mod s.cur fun x => { x with acc := x.acc ++ [.store { cells := granuleCells qs v }] }).advance s.cur)) ∧
      ∀ t, exec (.csc rs2 rs1 imm) s = .next t → (t.ctx s.cur).qst = x.qst) ∧
    ((capAddr c).toNat % 2 ^ sz.toNat = 0 → s2.storable s.cur c (capAddr c).toNat (2 ^ sz.toNat) permStore false qs →
      ∃ t, exec (.stl rs1 rs2 sz sc) s = .next t ∧ (t.ctx s.cur).qst = x.qst))) ∧
  (∀ (s : State) (rs1 rs2 : BitVec 5) (sz : BitVec 2) (sc : BitVec 3) (fm pr su : BitVec 4),
    let n := 2 ^ sz.toNat
    let x := s.ctx s.cur
    let done : Out := .next ((s.mod s.cur Ctx.sync).advance s.cur)
    let released := s.issuedReleased s.cur = true
    let quiet := released ∧ (∀ r ∈ (s.core s.cur.coreIx).fifo, r.issuer ≠ s.cur.ix) ∧ s.opsOf s.cur = false
    (∀ (s1 s2 : State) (c v : Reg) (qs : List Nat), s.memReady (dataField rs2) [rs1] → s.gives rs1 c s1 → s1.storeSrc s.cur rs2 = .val (v, s2) →
      s2.storable s.cur c (capAddr c).toNat n permStore false qs → (capAddr c).toNat % n = 0 →
      exec (.stl rs1 rs2 sz sc) s = .next ((s2.storeCells s.cur { release := 3 ≤ sc.toNat, isStl := true }
        (qs.zip (leBytes (capAddr v).toNat n))).advance s.cur)) ∧
    (x.acc = [] →
      (sc = 0 → exec (.fenceScoped sc) s = done) ∧
      (sc = 1 ∨ sc = 2 → exec (.fenceScoped sc) s = if x.sb = [] then done else .next s) ∧
      (sc = 3 → (released → exec (.fenceScoped sc) s = done) ∧ (¬released → exec (.fenceScoped sc) s = .next s)) ∧
      (4 ≤ sc.toNat → (quiet → exec (.fenceScoped sc) s = done) ∧ (¬quiet → exec (.fenceScoped sc) s = .next s)) ∧
      (quiet → exec (.fence fm pr su) s = done) ∧ (¬quiet → exec (.fence fm pr su) s = .next s)) ∧
    (x.acc ≠ [] →
      exec (.fenceScoped sc) s = .next ((s.mod s.cur fun x => { x with acc := x.acc ++ [.fence sc] }).advance s.cur) ∧
      exec (.fence fm pr su) s = .next ((s.mod s.cur fun x => { x with acc := x.acc ++ [.fence 4] }).advance s.cur)))

/-- Where lb, lh, lw, lbu, lhu, lwu, ld, clc, lda, sb, sh, sw, sd, csc and stl complete with their operands there, no other party, core, cluster, die or device record changes but, for a store across a 32-byte block, the count of free values that the model uses (log 56), nor any register but a load's rd, none at all where rd is x29, nor any byte of any memory; a load into x29 leaves the load-data queue as its fields do, and no load or store leaves the store-data queue shorter but a store from x29. The party sees every byte as before but, of a store, the bytes at the places of its address, and the tags of their granules and the poison marks of their blocks, which a store clears. -/
def Obligations.LoadsAndStoresChangeNothingElse : Prop :=
  ∀ (s s1 s2 t : State) (rd rs1 rs2 : BitVec 5) (c v : Reg) (imm : BitVec 12) (sz : BitVec 2) (sc : BitVec 3),
    s.gives rs1 c s1 → s1.storeSrc s.cur rs2 = .val (v, s2) →
    let a := (capAddr c + imm.signExtend 64).toNat
    let storeAt (a n : Nat) : Prop := ∀ qs, s2.places s.cur .w a n = .at qs →
      ∀ q, q ∉ qs → q ∉ qs.map tagPlace → q ∉ qs.map poisonPlace → t.see s.cur q = s.see s.cur q
    let party : Prop := (s.setDev { s.dev with freeAt := t.dev.freeAt }).onlyParty t s.cur ∧ ∀ d q, t.cell d q = s.cell d q
    let completes (i : Instr) : Prop := exec i s = .next t ∧ s.completed t
    (∀ i ∈ [Instr.lb rd rs1 imm, .lh rd rs1 imm, .lw rd rs1 imm, .lbu rd rs1 imm, .lhu rd rs1 imm, .lwu rd rs1 imm,
        .ld rd rs1 imm, .clc rd rs1 imm, .lda rd rs1 sz sc], completes i →
      s.onlyParty t s.cur ∧ (∀ d q, t.cell d q = s.cell d q) ∧
      (∀ q, q ≠ rd ∨ rd = 29#5 → (t.ctx s.cur).reg q = (s.ctx s.cur).reg q) ∧
      (rd ≠ 29#5 → (t.ctx s.cur).qst = (s.ctx s.cur).qst) ∧
      (rd ≠ 28#5 → rs1 ≠ 28#5 → (t.ctx s.cur).qld = (s.ctx s.cur).qld) ∧ ∀ q, t.see s.cur q = s.see s.cur q) ∧
    (∀ i n, (i, n) ∈ [(Instr.sb rs2 rs1 imm, 1), (.sh rs2 rs1 imm, 2), (.sw rs2 rs1 imm, 4), (.sd rs2 rs1 imm, 8),
        (.csc rs2 rs1 imm, 16)] → completes i →
      party ∧ (∀ q, (t.ctx s.cur).reg q = (s.ctx s.cur).reg q) ∧ storeAt a n ∧
      (rs2 ≠ 29#5 → (t.ctx s.cur).qst = (s.ctx s.cur).qst)) ∧
    (completes (.stl rs1 rs2 sz sc) →
      party ∧ (∀ q, (t.ctx s.cur).reg q = (s.ctx s.cur).reg q) ∧ storeAt (capAddr c).toNat (2 ^ sz.toNat) ∧
      (rs2 ≠ 29#5 → (t.ctx s.cur).qst = (s.ctx s.cur).qst))

/-- Where its operands are there, the capability has LOAD and STORE over the aligned operand and the party may read and write its places, every atomic completes its issue: one operation with the operand, the low bytes of rs2, and for cas the low bytes of rd, goes to the owner of the place as a release. With rd = x0 the party goes on at once; otherwise it waits for the reply, and the pc stays; the entries that it popped from the load-data queue are kept for the case that a cause ends the wait. -/
def Obligations.AtomicsAreSentToTheirOwner : Prop :=
  ∀ (s s1 s2 : State) (rd rs1 rs2 : BitVec 5) (c v : Reg) (q : Nat) (qs : List Nat), s.exeReady rd [rs1, rs2] →
    s.gives rs1 c s1 → s1.src s.cur rs2 = .val (v, s2) →
    let a := (capAddr c).toNat
    let op (k : BitVec 4) (n : Nat) (e : BitVec 64) : Op :=
      { kind := .amo k, va := a, addr := q, owner := ownerOf q, size := n, v := BitVec.ofNat 64 ((capAddr v).toNat % 2 ^ (8 * n)),
        e := e, rel := (s2.ctx s.cur).releaseAt s.cur.ix (ownerScope s.cur.coreIx (ownerOf q)) }
    let sent (i : Instr) (o : Op) (f : WaitForm) : Prop :=
      s2.reaches s.cur c a o.size (permLoad ||| permStore) .rw (q :: qs) → a % o.size = 0 →
      exec i s = .next (if rd = 0#5 then s2.post s.cur o else s2.await s.cur o { form := f, rd := rd, popped := (s.ctx s.cur).poppedBy [rs1, rs2] })
    sent (.amoAddW rd rs1 rs2) (op 0 4 0) .amoW ∧ sent (.amoAddD rd rs1 rs2) (op 0 8 0) .amoD ∧
    sent (.amoAddfW rd rs1 rs2) (op 1 4 0) .amoW ∧ sent (.amoAddfD rd rs1 rs2) (op 1 8 0) .amoD ∧
    sent (.amoMinW rd rs1 rs2) (op 2 4 0) .amoW ∧ sent (.amoMinD rd rs1 rs2) (op 2 8 0) .amoD ∧
    sent (.amoMaxW rd rs1 rs2) (op 3 4 0) .amoW ∧ sent (.amoMaxD rd rs1 rs2) (op 3 8 0) .amoD ∧
    sent (.amoMinuW rd rs1 rs2) (op 4 4 0) .amoW ∧ sent (.amoMinuD rd rs1 rs2) (op 4 8 0) .amoD ∧
    sent (.amoMaxuW rd rs1 rs2) (op 5 4 0) .amoW ∧ sent (.amoMaxuD rd rs1 rs2) (op 5 8 0) .amoD ∧
    sent (.amoSwapW rd rs1 rs2) (op 6 4 0) .amoW ∧ sent (.amoSwapD rd rs1 rs2) (op 6 8 0) .amoD ∧
    sent (.amoAndW rd rs1 rs2) (op 8 4 0) .amoW ∧ sent (.amoAndD rd rs1 rs2) (op 8 8 0) .amoD ∧
    sent (.amoOrW rd rs1 rs2) (op 9 4 0) .amoW ∧ sent (.amoOrD rd rs1 rs2) (op 9 8 0) .amoD ∧
    sent (.amoXorW rd rs1 rs2) (op 10 4 0) .amoW ∧ sent (.amoXorD rd rs1 rs2) (op 10 8 0) .amoD ∧
    (rd ≠ 29#5 → sent (.amoCasW rd rs1 rs2) (op 7 4 (BitVec.ofNat 64 ((capAddr ((s2.ctx s.cur).reg rd)).toNat % 2 ^ 32))) .amoW ∧
      sent (.amoCasD rd rs1 rs2) (op 7 8 (capAddr ((s2.ctx s.cur).reg rd))) .amoD)

/-- An operation posted joins those in flight, counts one sent item of the issuer's launch tag and moves the pc on. One that is awaited leaves the pc, and the party waits with the number of its own operation; the number is one that no earlier operation has. No register, memory, die or cluster changes. The numbers are the model's. A reply to the operation that a party waits for writes rd, untagged and for the 32-bit atomics sign-extended, and moves the pc past the form; except after lwait, bararv and bardrop, windows read early are then read again; a reply with a fault takes its cause at the form, with the entries that the form had popped back in the load-data queue, once what the access half holds before the form is done (log 116, DEDUCED); one that no waiting form asked for is discarded. A monw past its bound without an event ends with 1, and a barwait past its bound ends with 1 and the phase of its operand in bits 7:4, with a cancel sent behind it. -/
def Obligations.OperationsAndReplies : Prop :=
  (∀ (s : State) (p : Party) (o : Op) (w : Waiting),
    let n := s.dev.opSeq + 1
    let sent (t : State) (o' : Op) : Prop :=
      t.dev = { s.dev with opSeq := n, ops := s.dev.ops ++ [o'] } ∧ t.clusters = s.clusters ∧ t.dies = s.dies ∧
        t.core p.coreIx = { s.core p.coreIx with sent := (t.core p.coreIx).sent } ∧ (∀ q : Party, q ≠ p → t.ctx q = s.ctx q) ∧
        ∀ k : Nat, k ≠ p.coreIx → t.core k = s.core k
    sent (s.post p o) (o.issuedBy p (s.ctx p) n) ∧
    (s.post p o).ctx p = { s.ctx p with pc := (s.ctx p).pc + 4 } ∧
    (o.kind ≠ .barcancel → ((s.post p o).core p.coreIx).sent = countUp (s.core p.coreIx).sent (s.ctx p).partid (s.ctx p).ltag) ∧
    sent (s.await p o w) ({ o with reply := true }.issuedBy p (s.ctx p) n) ∧
    ((s.await p o w).ctx p) = { s.ctx p with waiting := some { w with
      id := n, pc := (s.ctx p).pc, start := (s.core p.coreIx).cyc, place := o.addr, owner := o.owner } }) ∧
  (∀ (s : State) (p : Party) (r : Reply) (rest : List Reply) (w : Waiting),
    let t := s.setCtx p { s.ctx p with reply := rest }
    let result : Reg := if w.form = .amoW then dataReg ((r.val.setWidth 32).signExtend 64) else dataReg r.val
    ((s.ctx p).reply = r :: rest →
      ((s.ctx p).waiting = some w → w.id = r.id → r.fault = none →
        exec (.replyDelivery p) s =
          .next ((t.mod p fun c =>
            { (if w.form = .lwait ∨ w.form = .bar then c else c.sync) with waiting := none, pc := w.pc + 4 }).dest p w.rd result)) ∧
      ((s.ctx p).waiting = some w → w.id = r.id → r.fault.isSome → ((s.accSettled p).ctx p).acc ≠ [] →
        exec (.replyDelivery p) s = .next (s.accSettled p)) ∧
      ((s.ctx p).waiting = some w → w.id = r.id → ((s.accSettled p).ctx p).acc = [] → ∀ (c : BitVec 6) (v : BitVec 64), r.fault = some (c, v) →
        exec (.replyDelivery p) s = .next (takeTrap (t.mod p fun x => { x with waiting := none, qld := w.popped ++ x.qld }) p c v)) ∧
      (((s.ctx p).waiting = none ∨ ∃ w : Waiting, (s.ctx p).waiting = some w ∧ w.id ≠ r.id) → exec (.replyDelivery p) s = .next t)) ∧
    ((s.ctx p).waiting = some w → w.start + w.bound ≤ (s.core p.coreIx).cyc →
      (w.form = .monw → (s.ctx p).mon.event = false → exec (.monwTimeout p) s = .next (s.endMonw p w.rd 1)) ∧
      (∀ ph : BitVec 4, w.form = .barwait ph → ∃ u : State, exec (.barwaitTimeout p) s = .next u ∧
        (u.ctx p).waiting = none ∧ (u.ctx p).pc = w.pc + 4 ∧
        (w.rd ≠ 0#5 → w.rd ≠ 29#5 → (u.ctx p).reg w.rd = dataReg (1 + 16 * ph.setWidth 64)) ∧
        ∃ o : Op, u.dev.ops = s.dev.ops ++ [o] ∧ o.kind = .barcancel ∧ o.v = BitVec.ofNat 64 w.id ∧ o.addr = w.place)))

/-- Where an atomic is the oldest operation of a core whose die holds the last write of its operand, unpoisoned, the owner takes it in one step: the sum, the float sum rounded once, the smaller or larger as signed or unsigned values, the new value, or the bits together are written, and cas writes only where the operand equals the expected value. The tag of the granule clears with the write, the reply is the old value, and the operation counts as received. -/
def Obligations.AtomicResults : Prop :=
  ∀ (s : State) (c : CoreId) (o : Op) (k : BitVec 4), s.offers c o → o.kind = .amo k → o.size = 4 ∨ o.size = 8 →
    let n := o.size
    let t := s.took c o
    let old := t.peek c.die.val o.addr n
    let v := o.v.toNat
    let sg (x : Nat) : Int := if 2 ^ (8 * n - 1) ≤ x then (x : Int) - 2 ^ (8 * n) else x
    let f := if n = 4 then fmtF32 else fmtF64
    let writes (x : Nat) : Prop := exec (.ownerAmo c) s =
      .next ((t.ownerWrite c.die.val o.addr x n).replyTo o (BitVec.ofNat 64 old) none)
    (k = 0 → writes ((old + v) % 2 ^ (8 * n))) ∧ (k = 1 → writes (f.put false ((f.num old).add (f.num v)))) ∧
    (k = 2 → writes (if sg v < sg old then v else old)) ∧ (k = 3 → writes (if sg old < sg v then v else old)) ∧
    (k = 4 → writes (min old v)) ∧ (k = 5 → writes (max old v)) ∧ (k = 6 → writes v) ∧
    (k = 7 → old = o.e.toNat → writes v) ∧
    (k = 7 → old ≠ o.e.toNat → exec (.ownerAmo c) s = .next (t.replyTo o (BitVec.ofNat 64 old) none)) ∧
    (k = 8 → writes (old &&& v)) ∧ (k = 9 → writes (old ||| v)) ∧ (k = 10 → writes (old ^^^ v))

/-- mon arms the party's monitor on the aligned dword it may read, with no event. monw of a monitor that is not armed ends with 2, of one with an event with 0 and the monitor disarmed, and with a bound of 0 with 1; otherwise the party waits. An installation of the dword in the die's view sets the event of every armed monitor of the die on it. park passes on where the monitor is not armed or has its event, and holds the supervisor core otherwise. -/
def Obligations.MonitorForms : Prop :=
  ∀ (s s1 : State) (rd rs1 : BitVec 5) (c : Reg) (q : Nat) (qs : List Nat),
    (s.exeReady 0#5 [rs1] → s.gives rs1 c s1 → s1.reaches s.cur c (capAddr c).toNat 8 permLoad .r (q :: qs) →
      (capAddr c).toNat % 8 = 0 →
      exec (.mon rs1) s = .next ((s1.mod s.cur fun x => { x with mon := { armed := some q, event := false } }).advance s.cur)) ∧
    (s.exeReady rd [rs1] → s.gives rs1 c s1 → (s.ctx s.cur).waiting = none →
      ((s.ctx s.cur).mon.armed = none → exec (.monw rd rs1) s = .next (s1.endMonw s.cur rd 2)) ∧
      ((s.ctx s.cur).mon.armed ≠ none → (s.ctx s.cur).mon.event = true → exec (.monw rd rs1) s = .next (s1.endMonw s.cur rd 0)) ∧
      ((s.ctx s.cur).mon.armed ≠ none → (s.ctx s.cur).mon.event = false →
        (capAddr c = 0 → exec (.monw rd rs1) s = .next (s1.endMonw s.cur rd 1)) ∧
        (capAddr c ≠ 0 →
          let popped := (s.ctx s.cur).poppedBy [rs1]
          let wt : Waiting :=
            { form := .monw, rd := rd, start := (s.core s.cur.coreIx).cyc, bound := (capAddr c).toNat, popped := popped }
          exec (.monw rd rs1) s = .next (s1.mod s.cur fun x => { x with waiting := some wt })))) ∧
    (s.exeReady rd [rs1] → (s.ctx s.cur).waiting ≠ none → (s.ctx s.cur).mon.event = true →
      exec (.monw rd rs1) s = .next (s.endMonw s.cur rd 0)) ∧
    (∀ r : BitVec 64, ((s.endMonw s.cur rd r).ctx s.cur).pc = (s.ctx s.cur).pc + 4 ∧
      ((s.endMonw s.cur rd r).ctx s.cur).waiting = none ∧
      ((s.endMonw s.cur rd r).ctx s.cur).mon = (if r = 0 then {} else (s.ctx s.cur).mon) ∧
      (rd ≠ 0#5 → rd ≠ 29#5 → ((s.endMonw s.cur rd r).ctx s.cur).reg rd = dataReg r)) ∧
    (s.exeReady 0#5 [] → s.cur.isSup = true →
      (((s.ctx s.cur).mon.armed = none ∨ (s.ctx s.cur).mon.event = true) → exec .park s = .next (s.advance s.cur)) ∧
      ((s.ctx s.cur).mon.armed ≠ none → (s.ctx s.cur).mon.event = false → exec .park s = .next s)) ∧
    (∀ (d o : Nat) (cells : List (Nat × Byte)) (a : Nat) (b : Byte) (p : Party), p.die.val = d → (a, b) ∈ cells →
      (s.die d).view.ord.getD a 0 < o → (s.ctx p).mon.armed = some (a / 8 * 8) →
      ((s.install d o cells).ctx p).mon.event = true)

/-- With their operands there, the capability over an aligned 16-byte object in a scratchpad that the party may read and write, and a count between 1 and 65,535, the barrier forms complete their issue: one operation, a release at die scope, goes to the owner of the object. barinit is posted; bararv and bardrop are posted with rd = x0; barrd and barwait are awaited, barwait with the phase of its operand and the bound in its high half; with a bound of 0 barwait ends at once with 1 and the phase of its operand, and sends a cancel behind the wait. An object elsewhere or not aligned takes cause 0x16 in all five, and a count out of range in barinit and bararv. At the owner, barinit writes the object with the count as both counts, phase 0, and ends every wait at it with 2. An arrival at a valid object with enough remaining lowers the remaining count; the last arrival of a phase starts the next with the expected count less the drops, ends every wait with 16 times the new phase, and returns 1. More than remain sets OVR and returns 2; an invalid object is not written and returns 3. A wait for the phase in progress is registered and WAITCNT rises; for another phase it ends at once. A cancel takes back a wait that is still registered and lowers WAITCNT alone, and barrd returns the first dword. -/
def Obligations.Barriers : Prop :=
  (∀ (s s1 s2 : State) (rd rs1 rs2 : BitVec 5) (c v : Reg) (q : Nat) (qs : List Nat), s.gives rs1 c s1 →
    s1.src s.cur rs2 = .val (v, s2) →
    let p := s.cur
    let a := (capAddr c).toNat
    let n := (capAddr v).toNat
    let op (t : State) (k : OpKind) (m : Nat) : Op :=
      { kind := k, va := a, addr := q, owner := spCore q, size := 16, v := BitVec.ofNat 64 m, rel := (t.ctx p).releaseAt p.ix 2 }
    let ok (t : State) (rd : BitVec 5) (rs : List (BitVec 5)) : Prop :=
      s.exeReady rd rs ∧ t.reaches p c a 16 (permLoad ||| permStore) .rw (q :: qs) ∧ a % 16 = 0 ∧ isSp q = true
    let popped := (s.ctx p).poppedBy
    let sent (t : State) (o : Op) (rs : List (BitVec 5)) : State :=
      if rd = 0#5 then t.post p o else t.await p o { form := .bar, rd := rd, popped := popped rs }
    (ok s2 0#5 [rs1, rs2] → 1 ≤ n → n ≤ 65535 → exec (.barinit rs1 rs2) s = .next (s2.post p (op s2 .barinit n))) ∧
    (ok s2 rd [rs1, rs2] → 1 ≤ n → n ≤ 65535 → exec (.bararv rd rs1 rs2) s = .next (sent s2 (op s2 .bararv n) [rs1, rs2])) ∧
    (ok s1 rd [rs1] → exec (.bardrop rd rs1) s = .next (sent s1 (op s1 .bardrop 1) [rs1])) ∧
    (ok s1 rd [rs1] → exec (.barrd rd rs1) s = .next (s1.await p (op s1 .barrd 0) { form := .barrd, rd := rd, popped := popped [rs1] })) ∧
    (ok s2 rd [rs1, rs2] → 2 ^ 32 ≤ n → exec (.barwait rd rs1 rs2) s = .next (s2.await p (op s2 .barwait (n % 16))
      { form := .barwait (BitVec.ofNat 4 n), rd := rd, bound := n / 2 ^ 32, popped := popped [rs1, rs2] })) ∧
    (ok s2 rd [rs1, rs2] → n < 2 ^ 32 → ∃ u : State, exec (.barwait rd rs1 rs2) s = .next u ∧
      (u.ctx p).waiting = none ∧ (u.ctx p).pc = (s2.ctx p).pc + 4 ∧
      (rd ≠ 0#5 → rd ≠ 29#5 → (u.ctx p).reg rd = dataReg (1 + 16 * (BitVec.ofNat 4 n).setWidth 64)) ∧
      ∃ o x : Op, u.dev.ops = s2.dev.ops ++ [o, x] ∧ o.kind = .barwait ∧ o.owner = spCore q ∧ o.v = BitVec.ofNat 64 (n % 16) ∧
        x.kind = .barcancel ∧ x.owner = spCore q ∧ x.addr = q ∧ x.v = BitVec.ofNat 64 o.id) ∧
    (n = 0 ∨ 65535 < n →
      (ok s2 0#5 [rs1, rs2] → exec (.barinit rs1 rs2) s = .next (takeTrap s p 0x16 (BitVec.ofNat 64 n))) ∧
      (ok s2 rd [rs1, rs2] → exec (.bararv rd rs1 rs2) s = .next (takeTrap s p 0x16 (BitVec.ofNat 64 n)))) ∧
    (a % 16 ≠ 0 ∨ isSp q = false →
      let bad : Out := .next (takeTrap s p 0x16 (BitVec.ofNat 64 a))
      (s1.reaches p c a 16 (permLoad ||| permStore) .rw (q :: qs) → s.exeReady rd [rs1] →
        exec (.bardrop rd rs1) s = bad ∧ exec (.barrd rd rs1) s = bad) ∧
      (s2.reaches p c a 16 (permLoad ||| permStore) .rw (q :: qs) →
        (s.exeReady 0#5 [rs1, rs2] → exec (.barinit rs1 rs2) s = bad) ∧
        (s.exeReady rd [rs1, rs2] → exec (.bararv rd rs1 rs2) s = bad ∧ exec (.barwait rd rs1 rs2) s = bad)))) ∧
  (∀ (s : State) (c : CoreId) (o : Op), s.offers c o →
    let d := c.die.val
    let t := s.took c o
    let b := t.barObj d o.addr
    let st (b : BarObj) (res : BitVec 64) : BitVec 64 :=
      res + 16 * b.phase.setWidth 64 + 0x10000 * b.remain.setWidth 64 + 0x100000000 * b.expect.setWidth 64
    let n : BitVec 16 := o.v.setWidth 16
    (o.kind = .barinit → exec (.barrierInitOp c) s = .next ((t.setBar d o.addr
      { expect := n, remain := n, drops := 0, phase := 0, ovr := false, waitcnt := 0, invalid := false }).endWaits c.ix o.addr 2)) ∧
    (o.kind = .bararv ∨ o.kind = .bardrop →
      let drops := if o.kind = .bardrop then b.drops + 1 else b.drops
      (b.invalid = true → exec (.barrierArriveOp c) s = .next (t.replyTo o (st b 3) none)) ∧
      (b.invalid = false → b.remain.toNat < o.v.toNat → exec (.barrierArriveOp c) s =
        .next ((t.setBar d o.addr { b with ovr := true }).replyTo o (st b 2) none)) ∧
      (b.invalid = false → o.v.toNat < b.remain.toNat →
        let b1 := { b with remain := b.remain - n, drops := drops }
        exec (.barrierArriveOp c) s = .next ((t.setBar d o.addr b1).replyTo o (st b1 0) none)) ∧
      (b.invalid = false → o.v.toNat = b.remain.toNat →
        let b1 := { b with expect := b.expect - drops, remain := b.expect - drops, drops := 0, phase := b.phase + 1, waitcnt := 0 }
        exec (.barrierArriveOp c) s =
          .next (((t.setBar d o.addr b1).endWaits c.ix o.addr (16 * b1.phase.setWidth 64)).replyTo o (st b1 1) none))) ∧
    (o.kind = .barwait →
      (b.invalid = true → exec (.barrierWaitOp c) s = .next (t.replyTo o (3 + 16 * b.phase.setWidth 64) none)) ∧
      (b.invalid = false → b.phase.toNat ≠ o.v.toNat →
        exec (.barrierWaitOp c) s = .next (t.replyTo o (16 * b.phase.setWidth 64) none)) ∧
      (b.invalid = false → b.phase.toNat = o.v.toNat → exec (.barrierWaitOp c) s = .next
        ((t.setCore c.ix { t.core c.ix with barWaits := (t.core c.ix).barWaits ++ [(o.addr, o.issuer, o.id)] }).setBar d o.addr
          { b with waitcnt := b.waitcnt + 1 }))) ∧
    (o.kind = .barrd → exec (.barrierReadOp c) s = .next (t.replyTo o (t.peek64 d o.addr) none)) ∧
    (o.kind = .barcancel →
      let u := s.popOp c.ix
      let mine (x : Nat × Nat × Nat) : Bool := x == (o.addr, o.issuer, o.v.toNat)
      ((u.core c.ix).barWaits.any mine = true → exec (.barrierCancel c) s = .next
        ((u.setCore c.ix { u.core c.ix with barWaits := (u.core c.ix).barWaits.filter fun x => !mine x }).ownerWrite d (o.addr + 8)
          ((u.barObj d o.addr).waitcnt - 1).toNat 2)) ∧
      ((u.core c.ix).barWaits.any mine = false → exec (.barrierCancel c) s = .next u)))

/-- With three registers that are different and none of x0, x28 and x29, and nothing held by the access half, bmov and bfill with a count of 0 move on; with any other count and their accesses passing, one byte is written at the destination, the pointers move up by one with tag and metadata kept, and the count falls by one, while the pc stays; other registers are unchanged. rep, whose body is fetched once, passes over the body with a count of 0, and otherwise runs the body once and lowers the count. rgn, in a sheet, makes a resume record from the four registers of its field and the next pc, in effect once the earlier stores have drained; elsewhere it takes cause 0x0F. -/
def Obligations.BlockMovesAndRegionMarks : Prop :=
  ∀ (s : State) (rd rs1 rs2 : BitVec 5),
    let p := s.cur
    let c := s.ctx p
    let bump (r : Reg) : Reg := capWithAddr r (capAddr r + 1)
    (c.acc = [] → [rd, rs1, rs2].Nodup → (∀ r ∈ [rd, rs1, rs2], r ≠ 0#5 ∧ r ≠ 28#5 ∧ r ≠ 29#5) →
      let n := capAddr (c.reg rs2)
      let a := (capAddr (c.reg rs1)).toNat
      let q := (capAddr (c.reg rd)).toNat
      let moves (i : Instr) (z : Nat) (b : Byte) : Prop := ∃ t, exec i s = .next t ∧ (t.ctx p).pc = c.pc ∧
        (t.ctx p).sb = c.sb ++ [{ cells := plainCells [(z, b)] }] ∧ (t.ctx p).reg rd = bump (c.reg rd) ∧
        (t.ctx p).reg rs2 = dataReg (n - 1) ∧ (∀ r, r ∉ [rd, rs1, rs2] → (t.ctx p).reg r = c.reg r) ∧ s.onlyParty t p ∧
        (t.ctx p).reg rs1 = (if i = .bmov rd rs1 rs2 then bump (c.reg rs1) else c.reg rs1)
      (n = 0 → exec (.bmov rd rs1 rs2) s = .next (s.advance p) ∧ exec (.bfill rd rs1 rs2) s = .next (s.advance p)) ∧
      (n ≠ 0 → ∀ z w, s.storable p (c.reg rd) q 1 permStore false [z] →
        moves (.bfill rd rs1 rs2) z (BitVec.ofNat 8 ((capAddr (c.reg rs1)).toNat / 2 ^ (8 * (q % 8)))) ∧
        (s.loadable p (c.reg rs1) a 1 false [w] → moves (.bmov rd rs1 rs2) z (s.see p w)))) ∧
    (∀ (b : BitVec 32) (f : State → Tri State), rs1 ≠ 28#5 → s.exeReady 0#5 [rs1] →
      (c.body = some b ∨ (c.body = none ∧ s.fetchWord p (c.pc + 4) = .val b)) → repBody b = some f →
      (capAddr (c.reg rs1) = 0 → exec (.rep rs1) s = .next (s.mod p fun x => { x with pc := c.pc + 8, body := none })) ∧
      (∀ s1, capAddr (c.reg rs1) ≠ 0 → f s = .val s1 → exec (.rep rs1) s =
        .next (s1.mod p fun x => { x.setReg rs1 (dataReg (capAddr (c.reg rs1) - 1)) with body := some b }))) ∧
    (∀ xs : BitVec 3, c.acc = [] →
      let r (i : Nat) : Reg := c.reg (BitVec.ofNat 5 (4 * xs.toNat + i))
      let mark : Resume :=
        { rpc := c.pc + 4, rxs := BitVec.ofNat 5 (4 * xs.toNat), rva := capAddr (r 0), rvb := capAddr (r 1),
          rvc := capAddr (r 2), rvd := capAddr (r 3) }
      (c.firing.sheet = true → ∃ t, exec (.rgn xs) s = .next t ∧ (t.ctx p).pc = c.pc + 4 ∧ (∀ x, (t.ctx p).reg x = c.reg x) ∧
        (c.issued ≤ c.drained → (t.ctx p).firing.record.resume = mark) ∧
        (c.drained < c.issued → (t.ctx p).firing.pendingMarks.getLast? = some (mark, c.issued))) ∧
      (c.firing.sheet = false → exec (.rgn xs) s = .next (takeTrap s p 0x0F 0)))

/-- Where the CSR is in the table, an S CSR is accessed in supervisor mode, an RO CSR is not written and the operand is there, the CSR forms complete: rd receives the old value untagged, and the CSR is written with the operand, the old value with the operand's bits set, or with them cleared. The set and clear forms with rs1 = x0 or a zero immediate write nothing. -/
def Obligations.CsrForms : Prop :=
  ∀ (s s1 : State) (rd rs1 u : BitVec 5) (n : BitVec 12) (r : Csr) (a : Reg), csrOf n = some r → (r.sup = true → s.cur.isSup = true) →
    let p := s.cur
    (s.exeReady rd [rs1] → s.gives rs1 a s1 →
      let old := s1.readCsr p r
      let v := capAddr a
      let does (i : Instr) (w : BitVec 32) (x : BitVec 64) (k : Option Reg) : Prop := r.ro = false →
        ∀ t, s1.writeCsr p r x k (w.setWidth 64) = .val t → exec i s = .next (s.wrote t rd (dataReg old))
      does (.csrrw rd n rs1) (wordCsrrw rd n rs1) v (some a) ∧
      (rs1 ≠ 0#5 → does (.csrrs rd n rs1) (wordCsrrs rd n rs1) (old ||| v) none ∧
        does (.csrrc rd n rs1) (wordCsrrc rd n rs1) (old &&& ~~~v) none) ∧
      (rs1 = 0#5 → exec (.csrrs rd n rs1) s = .next (s.wrote s1 rd (dataReg old)) ∧
        exec (.csrrc rd n rs1) s = .next (s.wrote s1 rd (dataReg old)))) ∧
    (s.exeReady rd [] →
      let old := s.readCsr p r
      let v : BitVec 64 := u.setWidth 64
      let does (i : Instr) (w : BitVec 32) (x : BitVec 64) : Prop := r.ro = false →
        ∀ t, s.writeCsr p r x none (w.setWidth 64) = .val t → exec i s = .next (s.wrote t rd (dataReg old))
      does (.csrrwi rd n u) (wordCsrrwi rd n u) v ∧
      (u ≠ 0#5 → does (.csrrsi rd n u) (wordCsrrsi rd n u) (old ||| v) ∧ does (.csrrci rd n u) (wordCsrrci rd n u) (old &&& ~~~v)) ∧
      (u = 0#5 → exec (.csrrsi rd n u) s = .next (s.wrote s rd (dataReg old)) ∧
        exec (.csrrci rd n u) s = .next (s.wrote s rd (dataReg old))))

/-- A CSR number that is not in the table, an S CSR outside supervisor mode, and a write of an RO CSR, take cause 0x01 with the instruction word, before any cause of the load-data queue, and nothing is read or written: shown for csrrw, csrrs and csrrci. An integer form that names x28 as rd, or x29 as a source, takes cause 0x01 with its word as tval, in the state before it; shown for add, addi, mul, lui and csrrw, one of each operand shape. -/
def Obligations.PrivilegedAndReservedFields : Prop :=
  (∀ (s : State) (rd rs1 u : BitVec 5) (n : BitVec 12),
    let p := s.cur
    let bad (writes : Prop) : Prop := csrOf n = none ∨ ∃ r, csrOf n = some r ∧ ((r.sup = true ∧ p.isSup = false) ∨ (r.ro = true ∧ writes))
    (s.exeReady rd [rs1] →
      (bad True → exec (.csrrw rd n rs1) s = .next (takeTrap s p 0x01 ((wordCsrrw rd n rs1).setWidth 64))) ∧
      (bad (rs1 ≠ 0#5) → exec (.csrrs rd n rs1) s = .next (takeTrap s p 0x01 ((wordCsrrs rd n rs1).setWidth 64)))) ∧
    (s.exeReady rd [] → bad (u ≠ 0#5) → exec (.csrrci rd n u) s = .next (takeTrap s p 0x01 ((wordCsrrci rd n u).setWidth 64)))) ∧
  (∀ (s : State) (rd rs1 rs2 : BitVec 5) (imm : BitVec 12) (up : BitVec 20),
    ((rd = 28#5 ∨ 29#5 ∈ [rs1, rs2]) →
      exec (.add rd rs1 rs2) s = .next (takeTrap s s.cur 0x01 ((wordAdd rd rs1 rs2).setWidth 64)) ∧
      exec (.mul rd rs1 rs2) s = .next (takeTrap s s.cur 0x01 ((wordMul rd rs1 rs2).setWidth 64))) ∧
    ((rd = 28#5 ∨ 29#5 ∈ [rs1]) →
      exec (.addi rd rs1 imm) s = .next (takeTrap s s.cur 0x01 ((wordAddi rd rs1 imm).setWidth 64)) ∧
      exec (.csrrw rd imm rs1) s = .next (takeTrap s s.cur 0x01 ((wordCsrrw rd imm rs1).setWidth 64))) ∧
    exec (.lui 28#5 up) s = .next (takeTrap s s.cur 0x01 ((wordLui 28#5 up).setWidth 64)))

/-- A write of fflags, frm or fcsr changes those bits of fcsr alone; fmtA keeps bits 4:0 and sclA its two 17-bit fields; a supervisor core's cause keeps six bits, epc and tval all, and ctbase, of the partition that ctbsel names, a 64 KiB aligned address (that the bits below 64 KiB read as zero after a write is log 60, DEDUCED). A slot word keeps CTX, DONEE and PART in the staged table, and acdat writes the access-table entry that acsel selects. REGISTER_WRITE makes the same writes. What was written is read back; KCLS, KKEY, LTAG, FDEP and PARTID read the firing's registers, and CYC the core's cycles. -/
def Obligations.CsrContents : Prop :=
  ∀ (s : State) (p : Party) (v w : BitVec 64) (cap : Option Reg) (k : Fin 16),
    let c := s.ctx p
    let becomes (r : Csr) (t : State) : Prop := s.writeCsr p r v cap w = .val t
    becomes .fflags (s.setCtx p { c with fcsr := c.fcsr.extractLsb' 5 3 ++ v.extractLsb' 0 5 }) ∧
    becomes .frm (s.setCtx p { c with fcsr := v.extractLsb' 0 3 ++ c.fcsr.extractLsb' 0 5 }) ∧
    becomes .fcsr (s.setCtx p { c with fcsr := v.setWidth 8 }) ∧
    becomes .fmtA (s.setCtx p { c with fmtA := v &&& 0x1F }) ∧ becomes .sclA (s.setCtx p { c with sclA := v &&& 0x0001FFFF0001FFFF }) ∧
    becomes .cause (s.setCtx p { c with cause := v.setWidth 6 }) ∧ becomes .epc (s.setCtx p { c with epc := v }) ∧
    becomes .tval (s.setCtx p { c with tval := v }) ∧
    becomes .ctbase (s.setDev { s.dev with ctbase := s.dev.ctbase.put c.ctbsel.toNat (v / 0x10000 * 0x10000) }) ∧
    becomes (.slot k) (s.setCtx p { c with staged := c.staged.set k.val (v &&& 0xFF3F) }) ∧
    (∀ e, accessSelected p.die.val c.acsel = some e →
      becomes .acdat (s.setDev { s.dev with access := s.dev.access.put e (v &&& 0xFFFF0F) })) ∧
    (∀ r t, r ∈ [Csr.fcsr, .epc, .tval] → becomes r t →
      t.readCsr p r = (if r = .fcsr then v &&& 0xFF else v)) ∧
    s.readCsr p .kcls = c.kcls.setWidth 64 ∧ s.readCsr p .kkey = c.kkey ∧ s.readCsr p .ltag = c.ltag.setWidth 64 ∧
    s.readCsr p .fdep = c.fdep.setWidth 64 ∧ s.readCsr p .partid = c.partid.setWidth 64 ∧
    s.readCsr p .cyc = BitVec.ofNat 64 (s.core p.coreIx).cyc ∧
    (∀ n r t, csrOf n = some r → (r.sup = true → p.isSup = true) → r.ro = false →
      s.writeCsr p r v (some (dataReg v)) 0 = .val t → exec (.registerWrite p n v) s = .next t)

/-- A write of sltgo with GO by a supervisor core leaves the named core's table pending where the staged table passes the five tests, and otherwise sets ERR and keeps the installed table. The pending table is installed at the start of a walk once every context whose partition changes is idle, and until then nothing changes; a second GO before that replaces the pending table (log 63). STAREA is written where no actor is hosted and its fields are 64-byte multiples within the scratchpad; SPQ and QOVF are written while their areas hold no entry, 64 KiB aligned (the dropped low bits are log 60, DEDUCED). Where the rules give a refused write cause 0x01, the row of the table leaves the state, and the form that writes takes the cause (log 1). -/
def Obligations.SlotTablesAndConfigurationWords : Prop :=
  ∀ (s : State) (d : Fin 8) (n : Fin 4) (v : BitVec 64) (c : CoreId) (t : List (BitVec 64)),
    let p := Party.sup d n
    let x := s.ctx p
    let core := coreSelected d.val v
    let named := v &&& 0x7FF00
    let i := coreSelected d.val x.ccsel
    (slotsRejected x.staged.toList = false → exec (.sltgoRequest d n v) s =
      .next ((s.setCore core { s.core core with pendSlots := some x.staged.toList }).setCtx p { x with sltgo := named })) ∧
    (slotsRejected x.staged.toList = true → exec (.sltgoRequest d n v) s = .next (s.setCtx p { x with sltgo := named ||| 2 })) ∧
    ((s.core c.ix).pendSlots = some t →
      let moved (k : Fin 4) : Prop := slotPart t k.val ≠ slotPart (s.core c.ix).slots k.val
      ((s.core c.ix).walkAt = 0 → (∀ k, moved k → (s.ctx (.ctx c k)).run = .idle) → exec (.slotTableInstall c) s =
        .next (s.setCore c.ix { s.core c.ix with slots := t, pendSlots := none })) ∧
      ((s.core c.ix).walkAt ≠ 0 ∨ (∃ k, moved k ∧ (s.ctx (.ctx c k)).run ≠ .idle) → exec (.slotTableInstall c) s = .next s)) ∧
    ((s.core i).actors = [] → v &&& ~~~0x0001FFC00001FFC0#64 = 0#64 →
      (v.extractLsb' 0 17).toNat + (v.extractLsb' 32 17).toNat ≤ 0x20000 →
      exec (.stareaWrite d n v) s = .next (s.setCore i { s.core i with starea := v })) ∧
    ((s.core i).actors ≠ [] → exec (.stareaWrite d n v) s = .next s) ∧
    ((s.core i).spill = [] → exec (.spqWrite d n v) s = .next (s.setCore i { s.core i with spq := v / 0x10000 * 0x10000 })) ∧
    ((s.core i).spill ≠ [] → exec (.spqWrite d n v) s = .next s) ∧
    ((s.core i).quireOvf = [] → exec (.qovfWrite d n v) s = .next (s.setCore i { s.core i with qovf := v / 0x10000 * 0x10000 })) ∧
    ((s.core i).quireOvf ≠ [] → exec (.qovfWrite d n v) s = .next s)

/-- A write of CTL that sets EN arms the tap point that tapsel selects where the point is not armed, the shape is not refused and every byte of its tables reads without an error: the accumulators and counts clear and the digest is SHA3-256 of the configuration. A write with EN = 0 disarms it and discards the accumulation in progress. PTBL and VTBL are written through an unsealed capability with PROBE whose bounds cover the table, while the point is not armed. In a firing whose partition the tap point is armed for, with reserved bits zero, seqmap of rows within the 256 maps those rows to the slot and no other; steer through an unsealed capability with STEER sets the slot's entry; taprd takes the oldest record or looks at it, or answers NOREC at an empty queue, and gives the sum of squares of a row or the CUR word. At a tap point that is not armed for the partition each takes cause 0x37, and in a supervisor core cause 0x01 before any other (DESIGN CHOICE, log 11). -/
def Obligations.TapPoints : Prop :=
  (∀ (s : State) (d : Fin 8) (n : Fin 4) (v : BitVec 64) (cap : BitVec 129),
    let sel := (s.ctx (.sup d n)).tapsel
    let clu := d.val * 256 + (sel.extractLsb' 8 8).toNat
    let i := (sel.extractLsb' 0 3).toNat
    let w := (sel.extractLsb' 3 5).toNat
    let t := s.tap clu i
    let en := v ||| 1
    let need := 4 * ctlWidth t.ctl * (if w = 1 then 16 else 8)
    (∀ bs, ctlEn t.ctl = false → t.armRefused en = false → s.digestBytes d.val t en = some bs → exec (.tapArm d n v) s = .next (s.setTap clu i
      { ctl := en, ptbl := t.ptbl, vtbl := t.vtbl, ptop := t.ptop, vtop := t.vtop, thr := t.thr, digest := sha3 bs })) ∧
    (ctlEn t.ctl = true ∨ t.armRefused en = true → exec (.tapArm d n v) s = .next s) ∧
    (∃ u, exec (.tapDisarm d n v) s = .next (s.setTap clu i u) ∧ ctlEn u.ctl = false ∧ u.a = [] ∧ u.q = [] ∧ u.y = [] ∧ u.cb = 0 ∧
      u.ptbl = t.ptbl ∧ u.vtbl = t.vtbl ∧ u.thr = t.thr ∧ u.recs = t.recs) ∧
    (ctlEn t.ctl = false → capTag cap = true → capOtype cap = 0 → hasPerms cap permProbe = true →
      capBase cap ≤ (capAddr cap).toNat → ((capAddr cap).toNat + need : Nat) ≤ capTop cap →
      (w = 1 → exec (.tapTablePointerWrite d n cap) s =
        .next (s.setTap clu i { t with ptbl := capAddr cap, ptop := (capTop cap).toNat })) ∧
      (w = 2 → exec (.tapTablePointerWrite d n cap) s =
        .next (s.setTap clu i { t with vtbl := capAddr cap, vtop := (capTop cap).toNat }))) ∧
    (ctlEn t.ctl = true ∨ capTag cap = false → exec (.tapTablePointerWrite d n cap) s = .next s)) ∧
  (∀ (s : State) (rd rs1 rs2 : BitVec 5),
    let p := s.cur
    let lacks (i : Instr) (w : BitVec 32) : Prop := exec i s = .next (takeTrap s p 0x01 (w.setWidth 64))
    (p.isSup = true → lacks (.seqmap rs1 rs2) (wordSeqmap rs1 rs2) ∧ lacks (.steer rs1 rs2) (wordSteer rs1 rs2) ∧
      lacks (.taprd rd rs1) (wordTaprd rd rs1)) ∧
    ∀ (s1 s2 : State) (a b : Reg), s.gives rs1 a s1 → s1.src s.cur rs2 = .val (b, s2) →
    let clu := cluOfCore p.coreIx
    let part := (s.ctx p).partid
    let x := capAddr a
    let y := capAddr b
    let refused (i : Instr) : Prop := exec i s = .next (takeTrap s p 0x37 0)
    (s.exeReady 0#5 [rs1, rs2] → s.inFiring →
      let n := (x.extractLsb' 0 3).toNat
      let t := s.tap clu n
      let f := (x.extractLsb' 8 8).toNat
      let m := (x.extractLsb' 16 9).toNat
      (t.usable part = false → refused (.seqmap rs1 rs2)) ∧
      (t.usable part = true → x.extractLsb' 25 39 = 0 → x.extractLsb' 4 4 = 0 → y.extractLsb' 8 56 = 0 → f + m ≤ 256 →
        ∃ u : Tap, exec (.seqmap rs1 rs2) s = .next (s.wrote (s2.setTap clu n u) 0#5 0) ∧
          (∀ r : Nat, u.map.getD r 255 = if f ≤ r ∧ r < f + m then y.setWidth 8 else t.map.getD r 255) ∧
          (x.getLsbD 3 = false → { u with map := t.map } = t) ∧
          (x.getLsbD 3 = true → u.rb = 0 ∧ u.cb = 0 ∧ u.a = [] ∧ u.recs = t.recs))) ∧
    (s.exeReady 0#5 [rs1, rs2] → s.inFiring → capTag a = true → capOtype a = 0 → hasPerms a permSteer = true → hasPerms a permSuper = false →
      let n := (y.extractLsb' 0 3).toNat
      let t := s.tap clu n
      let slot := y.extractLsb' 8 8
      let e : SteerEntry := { on := y.getLsbD 19, vidx := y.extractLsb' 16 3, alpha := y.extractLsb' 32 16 }
      let u : Tap := { t with steer := t.steer.put slot.toNat e }
      (t.usable part = false → refused (.steer rs1 rs2)) ∧
      (t.usable part = true → y.extractLsb' 3 5 = 0 → y.extractLsb' 20 12 = 0 → y.extractLsb' 48 16 = 0 → slot ≠ 255 →
        (e.on = true → e.vidx.toNat < ctlNvec t.ctl) → exec (.steer rs1 rs2) s = .next (s.wrote (s2.setTap clu n u) 0#5 0))) ∧
    (s.exeReady 0#5 [rs1, rs2] → s.inFiring → capTag a = false → exec (.steer rs1 rs2) s = .next (takeTrap s p 0x05 (rs1.setWidth 64))) ∧
    (s.exeReady rd [rs1] → s.inFiring →
      let n := (x.extractLsb' 0 3).toNat
      let t := s.tap clu n
      let oldest := dataReg (t.recs.headD (BitVec.allOnes 64))
      (t.usable part = false → refused (.taprd rd rs1)) ∧
      (t.usable part = true → x.extractLsb' 3 5 = 0 → x.extractLsb' 10 6 = 0 → x.extractLsb' 24 40 = 0 →
        (x.extractLsb' 8 2 = 0 → exec (.taprd rd rs1) s = .next (s.wrote (s1.setTap clu n { t with recs := t.recs.drop 1 }) rd oldest)) ∧
        (x.extractLsb' 8 2 = 1 → exec (.taprd rd rs1) s = .next (s.wrote s1 rd oldest)) ∧
        (x.extractLsb' 8 2 = 2 → exec (.taprd rd rs1) s = .next (s.wrote s1 rd (dataReg (t.ssq.getD (x.extractLsb' 16 8).toNat 0)))) ∧
        (x.extractLsb' 8 2 = 3 → exec (.taprd rd rs1) s = .next (s.wrote s1 rd
          (dataReg (t.lost ++ 0#5 ++ BitVec.ofNat 6 t.recs.length ++ t.brows ++ t.cb ++ t.rb)))))))

/-- Where their operands are there and the rounding mode, of the form or of frm where the form says 7, is one of the five, fadd, fsub, fmul, fdiv, fsqrt and the four fused forms complete in both precisions: rd receives the operation rounded once, untagged, sign-extended from bit 31 in single precision, and its flags are added to fflags. A mode of 5 or 6, and a frm of 5 to 7 that the form uses, takes cause 0x01 with the instruction word in each of these forms and in every conversion: all the forms that have a rounding field. -/
def Obligations.FpArithmeticResults : Prop :=
  ∀ (s s1 s2 s3 : State) (rd rs1 rs2 rs3 : BitVec 5) (rm : BitVec 3) (m : Rm) (a b c : Reg), s.gives rs1 a s1 →
    s1.src s.cur rs2 = .val (b, s2) → s2.src s.cur rs3 = .val (c, s3) →
    let value (f : Fmt) (o : FpOut) : Reg :=
      if f.width = 32 then dataReg ((BitVec.ofNat 32 o.code).signExtend 64) else dataReg (BitVec.ofNat 64 o.code)
    let flags (t : State) (o : FpOut) : State := t.mod s.cur fun x => { x with fcsr := x.fcsr ||| o.flags.setWidth 8 }
    let mode : Prop := (s.ctx s.cur).rounding rm = some m
    let one (i : Instr) (f : Fmt) (o : FpOut) : Prop := s.exeReady rd [rs1] → mode →
      exec i s = .next (s.wrote (flags s1 o) rd (value f o))
    let two (i : Instr) (f : Fmt) (o : FpOut) : Prop := s.exeReady rd [rs1, rs2] → mode →
      exec i s = .next (s.wrote (flags s2 o) rd (value f o))
    let three (i : Instr) (f : Fmt) (o : FpOut) : Prop := s.exeReady rd [rs1, rs2, rs3] → mode →
      exec i s = .next (s.wrote (flags s3 o) rd (value f o))
    two (.faddS rd rs1 rs2 rm) fmtF32 (fmtF32.fadd m (fpIn fmtF32 a) (fpIn fmtF32 b)) ∧
    two (.faddD rd rs1 rs2 rm) fmtF64 (fmtF64.fadd m (fpIn fmtF64 a) (fpIn fmtF64 b)) ∧
    two (.fsubS rd rs1 rs2 rm) fmtF32 (fmtF32.fsub m (fpIn fmtF32 a) (fpIn fmtF32 b)) ∧
    two (.fsubD rd rs1 rs2 rm) fmtF64 (fmtF64.fsub m (fpIn fmtF64 a) (fpIn fmtF64 b)) ∧
    two (.fmulS rd rs1 rs2 rm) fmtF32 (fmtF32.fmul m (fpIn fmtF32 a) (fpIn fmtF32 b)) ∧
    two (.fmulD rd rs1 rs2 rm) fmtF64 (fmtF64.fmul m (fpIn fmtF64 a) (fpIn fmtF64 b)) ∧
    two (.fdivS rd rs1 rs2 rm) fmtF32 (fmtF32.fdiv m (fpIn fmtF32 a) (fpIn fmtF32 b)) ∧
    two (.fdivD rd rs1 rs2 rm) fmtF64 (fmtF64.fdiv m (fpIn fmtF64 a) (fpIn fmtF64 b)) ∧
    one (.fsqrtS rd rs1 rm) fmtF32 (fmtF32.fsqrt m (fpIn fmtF32 a)) ∧
    one (.fsqrtD rd rs1 rm) fmtF64 (fmtF64.fsqrt m (fpIn fmtF64 a)) ∧
    three (.fmaddS rd rs1 rs2 rs3 rm) fmtF32 (fmtF32.fma m false false (fpIn fmtF32 a) (fpIn fmtF32 b) (fpIn fmtF32 c)) ∧
    three (.fmaddD rd rs1 rs2 rs3 rm) fmtF64 (fmtF64.fma m false false (fpIn fmtF64 a) (fpIn fmtF64 b) (fpIn fmtF64 c)) ∧
    three (.fmsubS rd rs1 rs2 rs3 rm) fmtF32 (fmtF32.fma m false true (fpIn fmtF32 a) (fpIn fmtF32 b) (fpIn fmtF32 c)) ∧
    three (.fmsubD rd rs1 rs2 rs3 rm) fmtF64 (fmtF64.fma m false true (fpIn fmtF64 a) (fpIn fmtF64 b) (fpIn fmtF64 c)) ∧
    three (.fnmsubS rd rs1 rs2 rs3 rm) fmtF32 (fmtF32.fma m true false (fpIn fmtF32 a) (fpIn fmtF32 b) (fpIn fmtF32 c)) ∧
    three (.fnmsubD rd rs1 rs2 rs3 rm) fmtF64 (fmtF64.fma m true false (fpIn fmtF64 a) (fpIn fmtF64 b) (fpIn fmtF64 c)) ∧
    three (.fnmaddS rd rs1 rs2 rs3 rm) fmtF32 (fmtF32.fma m true true (fpIn fmtF32 a) (fpIn fmtF32 b) (fpIn fmtF32 c)) ∧
    three (.fnmaddD rd rs1 rs2 rs3 rm) fmtF64 (fmtF64.fma m true true (fpIn fmtF64 a) (fpIn fmtF64 b) (fpIn fmtF64 c)) ∧
    ((rm = 5 ∨ rm = 6 ∨ (rm = 7 ∧ 5 ≤ ((s.ctx s.cur).fcsr.extractLsb' 5 3).toNat)) →
      let bad (i : Instr) (w : BitVec 32) : Prop := exec i s = .next (takeTrap s s.cur 0x01 (w.setWidth 64))
      (s.exeReady rd [rs1] → bad (.fsqrtS rd rs1 rm) (wordFsqrtS rd rs1 rm) ∧
        bad (.fsqrtD rd rs1 rm) (wordFsqrtD rd rs1 rm) ∧
        bad (.fcvtWS rd rs1 rm) (wordFcvtWS rd rs1 rm) ∧
        bad (.fcvtWD rd rs1 rm) (wordFcvtWD rd rs1 rm) ∧
        bad (.fcvtWuS rd rs1 rm) (wordFcvtWuS rd rs1 rm) ∧
        bad (.fcvtWuD rd rs1 rm) (wordFcvtWuD rd rs1 rm) ∧
        bad (.fcvtLS rd rs1 rm) (wordFcvtLS rd rs1 rm) ∧
        bad (.fcvtLD rd rs1 rm) (wordFcvtLD rd rs1 rm) ∧
        bad (.fcvtLuS rd rs1 rm) (wordFcvtLuS rd rs1 rm) ∧
        bad (.fcvtLuD rd rs1 rm) (wordFcvtLuD rd rs1 rm) ∧
        bad (.fcvtSW rd rs1 rm) (wordFcvtSW rd rs1 rm) ∧
        bad (.fcvtSWu rd rs1 rm) (wordFcvtSWu rd rs1 rm) ∧
        bad (.fcvtSL rd rs1 rm) (wordFcvtSL rd rs1 rm) ∧
        bad (.fcvtSLu rd rs1 rm) (wordFcvtSLu rd rs1 rm) ∧
        bad (.fcvtDW rd rs1 rm) (wordFcvtDW rd rs1 rm) ∧
        bad (.fcvtDWu rd rs1 rm) (wordFcvtDWu rd rs1 rm) ∧
        bad (.fcvtDL rd rs1 rm) (wordFcvtDL rd rs1 rm) ∧
        bad (.fcvtDLu rd rs1 rm) (wordFcvtDLu rd rs1 rm) ∧
        bad (.fcvtSD rd rs1 rm) (wordFcvtSD rd rs1 rm) ∧
        bad (.fcvtDS rd rs1 rm) (wordFcvtDS rd rs1 rm)) ∧
      (s.exeReady rd [rs1, rs2] → bad (.faddS rd rs1 rs2 rm) (wordFaddS rd rs1 rs2 rm) ∧
        bad (.faddD rd rs1 rs2 rm) (wordFaddD rd rs1 rs2 rm) ∧
        bad (.fsubS rd rs1 rs2 rm) (wordFsubS rd rs1 rs2 rm) ∧
        bad (.fsubD rd rs1 rs2 rm) (wordFsubD rd rs1 rs2 rm) ∧
        bad (.fmulS rd rs1 rs2 rm) (wordFmulS rd rs1 rs2 rm) ∧
        bad (.fmulD rd rs1 rs2 rm) (wordFmulD rd rs1 rs2 rm) ∧
        bad (.fdivS rd rs1 rs2 rm) (wordFdivS rd rs1 rs2 rm) ∧
        bad (.fdivD rd rs1 rs2 rm) (wordFdivD rd rs1 rs2 rm)) ∧
      (s.exeReady rd [rs1, rs2, rs3] → bad (.fmaddS rd rs1 rs2 rs3 rm) (wordFmaddS rd rs1 rs2 rs3 rm) ∧
        bad (.fmaddD rd rs1 rs2 rs3 rm) (wordFmaddD rd rs1 rs2 rs3 rm) ∧
        bad (.fmsubS rd rs1 rs2 rs3 rm) (wordFmsubS rd rs1 rs2 rs3 rm) ∧
        bad (.fmsubD rd rs1 rs2 rs3 rm) (wordFmsubD rd rs1 rs2 rs3 rm) ∧
        bad (.fnmsubS rd rs1 rs2 rs3 rm) (wordFnmsubS rd rs1 rs2 rs3 rm) ∧
        bad (.fnmsubD rd rs1 rs2 rs3 rm) (wordFnmsubD rd rs1 rs2 rs3 rm) ∧
        bad (.fnmaddS rd rs1 rs2 rs3 rm) (wordFnmaddS rd rs1 rs2 rs3 rm) ∧
        bad (.fnmaddD rd rs1 rs2 rs3 rm) (wordFnmaddD rd rs1 rs2 rs3 rm)))

/-- Where their operands are there, fsgnj, fsgnjn and fsgnjx complete: rd receives the bits of rs1 below the sign with the sign of rs2, its inverse, or the exclusive-or of both, the single-precision result sign-extended from bit 31. NaNs keep their bits, and fcsr does not change. -/
def Obligations.SignInjectionForms : Prop :=
  ∀ (s s1 s2 : State) (rd rs1 rs2 : BitVec 5) (a b : Reg), s.exeReady rd [rs1, rs2] → s.gives rs1 a s1 →
    s1.src s.cur rs2 = .val (b, s2) →
    let x := capAddr a
    let y := capAddr b
    let single (i : Instr) (g : Bool) : Prop := exec i s =
      .next (s.wrote s2 rd (dataReg ((BitVec.ofBool g ++ x.extractLsb' 0 31 : BitVec 32).signExtend 64)))
    let dbl (i : Instr) (g : Bool) : Prop := exec i s = .next (s.wrote s2 rd (dataReg (BitVec.ofBool g ++ x.extractLsb' 0 63)))
    single (.fsgnjS rd rs1 rs2) (y.getLsbD 31) ∧ single (.fsgnjnS rd rs1 rs2) (!y.getLsbD 31) ∧
    single (.fsgnjxS rd rs1 rs2) (x.getLsbD 31 ^^ y.getLsbD 31) ∧
    dbl (.fsgnjD rd rs1 rs2) (y.getLsbD 63) ∧ dbl (.fsgnjnD rd rs1 rs2) (!y.getLsbD 63) ∧
    dbl (.fsgnjxD rd rs1 rs2) (x.getLsbD 63 ^^ y.getLsbD 63) ∧
    (s2.ctx s.cur).fcsr = (s.ctx s.cur).fcsr ∧ ∀ v, ((s.wrote s2 rd v).ctx s.cur).fcsr = (s.ctx s.cur).fcsr

/-- Where their operands are there, fmin, fmax, feq, flt, fle and fclass complete with the operand, the 0 or 1, or the class mask that the rule gives, and add the flags. A relation with a NaN operand is 0; feq raises NV only for a signalling NaN, flt and fle for any NaN. With one NaN operand fmin and fmax return the other, with two the canonical NaN. fclass sets exactly one of bits 9:0, and raises no flag. Of other codes, whose order is that of their sign and magnitude bits, feq, flt and fle hold as those compare, fmin and fmax return the smaller or larger operand, −0 being less than +0, with no flag, and fclass sets the bit that the exponent, the mantissa and the sign bits name. Where their operand and mode are there, the conversions complete. To an integer: a value that rounds into the range is written, with NX where it is inexact, and otherwise the bound of the range, or the largest value for a NaN, with NV; 32-bit results are sign-extended. From an integer and between the formats: the value rounded once, with its flags, and NV for a signalling NaN. The integer that a value rounds to is less than one away from it; it is not larger in magnitude toward zero, not above it downward, not below it upward, and in the two modes to nearest at most one half away, a tie going to the even integer or to the larger magnitude; it is inexact where it differs from the value. Between the formats an infinity keeps its sign without a flag, and a NaN becomes the canonical NaN. -/
def Obligations.FpComparisonsAndConversions : Prop :=
  ((∀ (s s1 s2 : State) (rd rs1 rs2 : BitVec 5) (a b : Reg), s.gives rs1 a s1 → s1.src s.cur rs2 = .val (b, s2) →
    let value (f : Fmt) (o : FpOut) : Reg :=
      if f.width = 32 then dataReg ((BitVec.ofNat 32 o.code).signExtend 64) else dataReg (BitVec.ofNat 64 o.code)
    let two (i : Instr) (v : Reg) (fl : BitVec 5) : Prop := s.exeReady rd [rs1, rs2] → exec i s =
      .next (s.wrote (s2.mod s.cur fun x => { x with fcsr := x.fcsr ||| fl.setWidth 8 }) rd v)
    two (.fminS rd rs1 rs2) (value fmtF32 (fmtF32.minmax false (fpIn fmtF32 a) (fpIn fmtF32 b))) (fmtF32.minmax false (fpIn fmtF32 a) (fpIn fmtF32 b)).flags ∧
    two (.fminD rd rs1 rs2) (value fmtF64 (fmtF64.minmax false (fpIn fmtF64 a) (fpIn fmtF64 b))) (fmtF64.minmax false (fpIn fmtF64 a) (fpIn fmtF64 b)).flags ∧
    two (.fmaxS rd rs1 rs2) (value fmtF32 (fmtF32.minmax true (fpIn fmtF32 a) (fpIn fmtF32 b))) (fmtF32.minmax true (fpIn fmtF32 a) (fpIn fmtF32 b)).flags ∧
    two (.fmaxD rd rs1 rs2) (value fmtF64 (fmtF64.minmax true (fpIn fmtF64 a) (fpIn fmtF64 b))) (fmtF64.minmax true (fpIn fmtF64 a) (fpIn fmtF64 b)).flags ∧
    two (.feqS rd rs1 rs2) (dataReg (BitVec.ofNat 64 (fmtF32.compare 0 (fpIn fmtF32 a) (fpIn fmtF32 b)).code)) (fmtF32.compare 0 (fpIn fmtF32 a) (fpIn fmtF32 b)).flags ∧
    two (.feqD rd rs1 rs2) (dataReg (BitVec.ofNat 64 (fmtF64.compare 0 (fpIn fmtF64 a) (fpIn fmtF64 b)).code)) (fmtF64.compare 0 (fpIn fmtF64 a) (fpIn fmtF64 b)).flags ∧
    two (.fltS rd rs1 rs2) (dataReg (BitVec.ofNat 64 (fmtF32.compare 1 (fpIn fmtF32 a) (fpIn fmtF32 b)).code)) (fmtF32.compare 1 (fpIn fmtF32 a) (fpIn fmtF32 b)).flags ∧
    two (.fltD rd rs1 rs2) (dataReg (BitVec.ofNat 64 (fmtF64.compare 1 (fpIn fmtF64 a) (fpIn fmtF64 b)).code)) (fmtF64.compare 1 (fpIn fmtF64 a) (fpIn fmtF64 b)).flags ∧
    two (.fleS rd rs1 rs2) (dataReg (BitVec.ofNat 64 (fmtF32.compare 2 (fpIn fmtF32 a) (fpIn fmtF32 b)).code)) (fmtF32.compare 2 (fpIn fmtF32 a) (fpIn fmtF32 b)).flags ∧
    two (.fleD rd rs1 rs2) (dataReg (BitVec.ofNat 64 (fmtF64.compare 2 (fpIn fmtF64 a) (fpIn fmtF64 b)).code)) (fmtF64.compare 2 (fpIn fmtF64 a) (fpIn fmtF64 b)).flags ∧
    (s.exeReady rd [rs1] → exec (.fclassS rd rs1) s = .next (s.wrote s1 rd (dataReg (BitVec.ofNat 64 (fmtF32.fclass (fpIn fmtF32 a)))))) ∧
    (s.exeReady rd [rs1] → exec (.fclassD rd rs1) s = .next (s.wrote s1 rd (dataReg (BitVec.ofNat 64 (fmtF64.fclass (fpIn fmtF64 a))))))) ∧
  ∀ f ∈ [fmtF32, fmtF64], ∀ a b : Nat,
    (∃ k, k < 10 ∧ f.fclass a = 2 ^ k) ∧
    (f.isNan a = true ∨ f.isNan b = true → (f.compare 0 a b).code = 0 ∧ (f.compare 1 a b).code = 0 ∧ (f.compare 2 a b).code = 0) ∧
    ((f.compare 0 a b).flags = (if f.isSnan a || f.isSnan b then 0x10 else 0)) ∧
    ((f.compare 1 a b).flags = (if f.isNan a || f.isNan b then 0x10 else 0)) ∧
    ((f.compare 2 a b).flags = (f.compare 1 a b).flags) ∧
    (∀ w, f.isNan a = true → f.isNan b = false → (f.minmax w a b).code = b ∧ (f.minmax w b a).code = b) ∧
    (∀ w, f.isNan a = true → f.isNan b = true → (f.minmax w a b).code = f.nan) ∧
    (∀ w, (f.minmax w a b).flags = (if f.isSnan a || f.isSnan b then 0x10 else 0)) ∧
    let sign (c : Nat) : Bool := 2 ^ (f.width - 1) ≤ c
    let mag (c : Nat) : Nat := c % 2 ^ (f.width - 1)
    let ex (c : Nat) : Nat := mag c / 2 ^ f.mbits
    let man (c : Nat) : Nat := c % 2 ^ f.mbits
    let top : Nat := 2 ^ f.ebits - 1
    let key (c : Nat) : Int := if sign c then -(mag c : Int) else mag c
    (a < 2 ^ f.width → b < 2 ^ f.width →
      (f.isNan a = decide (ex a = top ∧ man a ≠ 0)) ∧ (f.isSnan a = (f.isNan a && decide (man a < 2 ^ (f.mbits - 1)))) ∧
      (f.isNan a = false → f.isNan b = false →
        (f.compare 0 a b).code = (if key a = key b then 1 else 0) ∧ (f.compare 1 a b).code = (if key a < key b then 1 else 0) ∧
        (f.compare 2 a b).code = (if key a ≤ key b then 1 else 0) ∧
        (key a < key b → (f.minmax false a b).code = a ∧ (f.minmax true a b).code = b ∧ (f.minmax false b a).code = a ∧
          (f.minmax true b a).code = b) ∧
        (key a = key b → sign a = true → (f.minmax false a b).code = a ∧ (f.minmax true a b).code = b ∧
          (f.minmax false b a).code = a ∧ (f.minmax true b a).code = b)) ∧
      f.fclass a = 2 ^ (if ex a = top then (if man a = 0 then (if sign a then 0 else 7)
          else if man a < 2 ^ (f.mbits - 1) then 8 else 9)
        else if ex a = 0 then (if man a = 0 then (if sign a then 3 else 4) else if sign a then 2 else 5)
        else if sign a then 1 else 6))) ∧
  (∀ (s s1 : State) (rd rs1 : BitVec 5) (rm : BitVec 3) (m : Rm) (a : Reg), s.exeReady rd [rs1] → s.gives rs1 a s1 →
    (s.ctx s.cur).rounding rm = some m →
    let x := capAddr a
    let out (i : Instr) (v : Reg) (fl : BitVec 5) : Prop := exec i s =
      .next (s.wrote (s1.mod s.cur fun c => { c with fcsr := c.fcsr ||| fl.setWidth 8 }) rd v)
    let toInt (i : Instr) (f : Fmt) (k : IntKind) : Prop :=
      let wide (v : Int) : Reg :=
        if k = .w ∨ k = .wu then dataReg ((BitVec.ofInt 32 v).signExtend 64) else dataReg (BitVec.ofInt 64 v)
      let lo := k.range.1
      let hi := k.range.2
      (f.num (fpIn f a) = .nan → out i (wide hi) 0x10) ∧
      (∀ neg, f.num (fpIn f a) = .inf neg → out i (wide (if neg then lo else hi)) 0x10) ∧
      (∀ neg mant e, f.num (fpIn f a) = .fin neg mant e →
        let r := roundInt m neg mant e
        (r.1 < lo → out i (wide lo) 0x10) ∧ (hi < r.1 → out i (wide hi) 0x10) ∧
        (lo ≤ r.1 → r.1 ≤ hi → out i (wide r.1) (if r.2 then 1 else 0)))
    let ofInt (i : Instr) (f : Fmt) (v : Int) : Prop :=
      out i (fpOutReg f (f.finish m (decide (v < 0)) v.natAbs 0).code) (f.finish m (decide (v < 0)) v.natAbs 0).flags
    toInt (.fcvtWS rd rs1 rm) fmtF32 .w ∧
    toInt (.fcvtWD rd rs1 rm) fmtF64 .w ∧
    toInt (.fcvtWuS rd rs1 rm) fmtF32 .wu ∧
    toInt (.fcvtWuD rd rs1 rm) fmtF64 .wu ∧
    toInt (.fcvtLS rd rs1 rm) fmtF32 .l ∧
    toInt (.fcvtLD rd rs1 rm) fmtF64 .l ∧
    toInt (.fcvtLuS rd rs1 rm) fmtF32 .lu ∧
    toInt (.fcvtLuD rd rs1 rm) fmtF64 .lu ∧
    ofInt (.fcvtSW rd rs1 rm) fmtF32 ((x.setWidth 32).toInt) ∧
    ofInt (.fcvtSWu rd rs1 rm) fmtF32 (((x.setWidth 32).toNat : Int)) ∧
    ofInt (.fcvtSL rd rs1 rm) fmtF32 (x.toInt) ∧
    ofInt (.fcvtSLu rd rs1 rm) fmtF32 ((x.toNat : Int)) ∧
    ofInt (.fcvtDW rd rs1 rm) fmtF64 ((x.setWidth 32).toInt) ∧
    ofInt (.fcvtDWu rd rs1 rm) fmtF64 (((x.setWidth 32).toNat : Int)) ∧
    ofInt (.fcvtDL rd rs1 rm) fmtF64 (x.toInt) ∧
    ofInt (.fcvtDLu rd rs1 rm) fmtF64 ((x.toNat : Int)) ∧
    out (.fcvtSD rd rs1 rm) (fpOutReg fmtF32 (fmtF64.convert fmtF32 m (fpIn fmtF64 a)).code) (fmtF64.convert fmtF32 m (fpIn fmtF64 a)).flags ∧
    out (.fcvtDS rd rs1 rm) (fpOutReg fmtF64 (fmtF32.convert fmtF64 m (fpIn fmtF32 a)).code) (fmtF32.convert fmtF64 m (fpIn fmtF32 a)).flags ∧
    (∀ (rm : Rm) (neg : Bool) (mant : Nat) (e : Int),
      let v : Rat := (if neg then -(mant : Rat) else mant) * (2 : Rat) ^ e
      let r : Rat := (roundInt rm neg mant e).1
      let size (v : Rat) : Rat := if v < 0 then -v else v
      size (r - v) < 1 ∧ ((roundInt rm neg mant e).2 = false ↔ r = v) ∧ (rm = .rtz → size r ≤ size v) ∧
      (rm = .rdn → r ≤ v) ∧ (rm = .rup → v ≤ r) ∧
      (rm = .rne ∨ rm = .rmm → 2 * size (r - v) ≤ 1 ∧ (2 * size (r - v) = 1 →
        if rm = .rne then (roundInt rm neg mant e).1 % 2 = 0 else size v < size r))) ∧
    ∀ f ∈ [fmtF32, fmtF64], ∀ g ∈ [fmtF32, fmtF64], ∀ (rm : Rm) (x : Nat),
      (∀ neg mant e, f.num x = .fin neg mant e → f.convert g rm x = g.finish rm neg mant e) ∧
      (∀ neg, f.num x = .inf neg → f.convert g rm x = ⟨g.code neg g.infMag, 0⟩) ∧
      (f.num x = .nan → f.convert g rm x = ⟨g.nan, if f.isSnan x then 0x10 else 0⟩))

/-- In single and double precision, a value that a finite code has is that code, with no flag. Without overflow the result is a code such that no code lies strictly between it and the value; it is not larger in magnitude toward zero, not above the value downward, not below it upward, and in the two modes to nearest no code is nearer, a tie going to an even mantissa or to the larger magnitude; NX tells whether it is inexact. On overflow the magnitude of the value exceeds that of every code, OF and NX are raised, and the result is the infinity or the largest finite code of its sign, as the mode says. Of codes with finite values, fadd, fsub, fmul and the fused forms are the rounding of the exact sum, difference, product, or product and sum; fdiv and fsqrt are the rounding of a value that is the exact quotient or root where it is even in its last place, and lies on the same side of every shorter one where it is odd. A division of a nonzero value by zero is an infinity with DZ, and a NaN operand gives the canonical NaN. -/
def Obligations.RoundingOfResults : Prop :=
  ∀ f ∈ [fmtF32, fmtF64],
    let val (neg : Bool) (m : Nat) (e : Int) : Rat := (if neg then -(m : Rat) else m) * (2 : Rat) ^ e
    let has (c : Nat) (v : Rat) : Prop := ∃ s n g, f.num c = .fin s n g ∧ v = val s n g
    let size (v : Rat) : Rat := if v < 0 then -v else v
    (∀ (rm : Rm) (neg : Bool) (m : Nat) (e : Int),
      let o := f.finish rm neg m e
      let v := val neg m e
      (∀ c, c < 2 ^ f.width → has c v → f.neg c = neg → o.code = c ∧ o.flags = 0) ∧
      (o.flags &&& 4 = 0 → ∃ u, has o.code u ∧ (∀ d w, has d w → ¬(v < w ∧ w < u) ∧ ¬(u < w ∧ w < v)) ∧
        (rm = .rtz → size u ≤ size v) ∧ (rm = .rdn → u ≤ v) ∧ (rm = .rup → v ≤ u) ∧
        (rm = .rne ∨ rm = .rmm → ∀ d w, has d w → size (u - v) ≤ size (w - v) ∧ (size (u - v) = size (w - v) → w ≠ u →
          if rm = .rne then f.man o.code % 2 = 0 else size w < size u)) ∧ (o.flags &&& 1 = 0 ↔ u = v)) ∧
      (o.flags &&& 4 ≠ 0 → o.flags = 5 ∧ (∀ d w, has d w → size w < size v) ∧
        o.code = f.code neg (if rm = .rtz ∨ (rm = .rdn ∧ neg = false) ∨ (rm = .rup ∧ neg = true) then f.maxMag else f.infMag))) ∧
    (∀ (rm : Rm) (a b c : Nat) (x y z : Rat), has a x → has b y → has c z →
      let rounds (o : FpOut) (v : Rat) : Prop := ∃ neg m e, val neg m e = v ∧ o = f.finish rm neg m e
      rounds (f.fadd rm a b) (x + y) ∧ rounds (f.fsub rm a b) (x - y) ∧ rounds (f.fmul rm a b) (x * y) ∧
      rounds (f.fma rm false false a b c) (x * y + z) ∧ rounds (f.fma rm false true a b c) (x * y - z) ∧
      rounds (f.fma rm true false a b c) (-(x * y) + z) ∧ rounds (f.fma rm true true a b c) (-(x * y) - z) ∧
      (x ≠ 0 → y ≠ 0 → ∃ q h, f.fdiv rm a b = f.finish rm (f.neg a != f.neg b) q h ∧ 2 ^ (f.mbits + 2) ≤ q ∧
        (q % 2 = 0 → val false q h = size x / size y) ∧
        (q % 2 = 1 → val false (q - 1) h < size x / size y ∧ size x / size y < val false (q + 1) h)) ∧
      (0 < x → ∃ q h, f.fsqrt rm a = f.finish rm false q h ∧ 2 ^ (f.mbits + 2) ≤ q ∧
        (q % 2 = 0 → val false q h ^ 2 = x) ∧ (q % 2 = 1 → val false (q - 1) h ^ 2 < x ∧ x < val false (q + 1) h ^ 2)) ∧
      (x ≠ 0 → y = 0 → f.fdiv rm a b = ⟨f.code (f.neg a != f.neg b) f.infMag, 8⟩)) ∧
    ∀ (rm : Rm) (a b : Nat), f.isNan a = true ∨ f.isNan b = true →
      (f.fadd rm a b).code = f.nan ∧ (f.fsub rm a b).code = f.nan ∧ (f.fmul rm a b).code = f.nan ∧ (f.fdiv rm a b).code = f.nan

/-- Where their operands are there, whatever their tag, cbase, clen, cperm and ctag complete with the base modulo 2^64, the length, the object type above the permissions, and the tag, untagged; an untagged exponent above 44 reads as 44, so every length lies below 2^64. csub gives 1 where both are tagged and the second's bounds and permissions lie within the first's, else 0. cmv copies the register with its tag, and cclr clears the tag. -/
def Obligations.CapabilityFieldsAndMoves : Prop :=
  (∀ (s s1 s2 : State) (rd rs1 rs2 : BitVec 5) (a b : Reg), s.gives rs1 a s1 → s1.src s.cur rs2 = .val (b, s2) →
    let is (i : Instr) (v : Reg) : Prop := s.exeReady rd [rs1] → exec i s = .next (s.wrote s1 rd v)
    is (.cbase rd rs1) (dataReg (BitVec.ofInt 64 (capBase a))) ∧ is (.clen rd rs1) (dataReg (BitVec.ofInt 64 (capTop a - capBase a))) ∧
    is (.cperm rd rs1) (dataReg ((capPerms a).setWidth 64 + 0x10000 * (capOtype a).setWidth 64)) ∧
    is (.ctag rd rs1) (dataReg (if capTag a then 1 else 0)) ∧ is (.cmv rd rs1) a ∧
    is (.cclr rd rs1) (mkCap false (capMeta a) (capAddr a)) ∧
    (s.exeReady rd [rs1, rs2] → exec (.csub rd rs1 rs2) s = .next (s.wrote s2 rd (dataReg
      (if capTag a = true ∧ capTag b = true ∧ capBase a ≤ capBase b ∧ capTop b ≤ capTop a ∧ capPerms a &&& capPerms b = capPerms b
        then 1 else 0))))) ∧
  ∀ r : Reg, capTop r - capBase r < 2 ^ 64 ∧ 0 ≤ capTop r - capBase r

/-- Where their operands are there and the source is not a sealed capability, cadd, caddi and cset complete with the source at the new address, modulo 2^64, its tag kept where it was set and the address is representable; candp gives the source with the permissions that both name. A tagged sealed source takes cause 0x06 with the number of rs1. No result is tagged unless its source is, and none has a permission that its source lacks. A supervisor core holds sealing authority for every object type from 1 to 127, and a firing for the types from 1 to 127 whose entry of its partition's seal map, at ctbase + 0x400000 + 4t as the cluster reads it, is bound to its class and has zero in its reserved bits. Where the operands are there and the party holds the authority, cseal of a tagged unsealed capability completes with the object type set and nothing else changed, and cunseal of one sealed with that type with the type cleared. An untagged source takes 0x05, a want of authority 0x07 with the number of rs2, and a seal of another kind 0x06 with the number of rs1. -/
def Obligations.SealingAndDerivation : Prop :=
  (∀ (s s1 s2 : State) (rd rs1 rs2 : BitVec 5) (imm : BitVec 12) (a b : Reg), s.gives rs1 a s1 → s1.src s.cur rs2 = .val (b, s2) →
    let at' (n : BitVec 64) : Reg := mkCap (capTag a && representable a n.toNat) (capMeta a) n
    let fewer : Reg := mkCap (capTag a) ((capPerms a &&& (capAddr b).setWidth 11) ++ (capMeta a).extractLsb' 0 53) (capAddr a)
    let isSealed : Prop := capTag a = true ∧ capOtype a ≠ 0
    (¬isSealed → s.exeReady rd [rs1, rs2] →
      exec (.cadd rd rs1 rs2) s = .next (s.wrote s2 rd (at' (capAddr a + capAddr b))) ∧
      exec (.cset rd rs1 rs2) s = .next (s.wrote s2 rd (at' (capAddr b))) ∧
      exec (.candp rd rs1 rs2) s = .next (s.wrote s2 rd fewer)) ∧
    (¬isSealed → s.exeReady rd [rs1] → exec (.caddi rd rs1 imm) s = .next (s.wrote s1 rd (at' (capAddr a + imm.signExtend 64)))) ∧
    (isSealed → s.exeReady rd [rs1, rs2] →
      exec (.cadd rd rs1 rs2) s = .next (takeTrap s s.cur 0x06 (rs1.setWidth 64)) ∧
      exec (.cset rd rs1 rs2) s = .next (takeTrap s s.cur 0x06 (rs1.setWidth 64)) ∧
      exec (.candp rd rs1 rs2) s = .next (takeTrap s s.cur 0x06 (rs1.setWidth 64))) ∧
    (isSealed → s.exeReady rd [rs1] → exec (.caddi rd rs1 imm) s = .next (takeTrap s s.cur 0x06 (rs1.setWidth 64))) ∧
    (∀ v ∈ [at' (capAddr b), fewer], (capTag v = true → capTag a = true) ∧ capPerms a &&& capPerms v = capPerms v ∧
      capOtype v = capOtype a)) ∧
  (∀ (s s1 s2 s3 : State) (rd rs1 rs2 : BitVec 5) (a b : Reg), s.exeReady rd [rs1, rs2] → s.gives rs1 a s1 →
    s1.src s.cur rs2 = .val (b, s2) →
    let t := (capAddr b).toNat
    let typed (x : BitVec 7) : Reg := mkCap true ((capMeta a).extractLsb' 7 57 ++ x) (capAddr a)
    let trap (i : Instr) (c : BitVec 6) (r : BitVec 5) : Prop := exec i s = .next (takeTrap s s.cur c (r.setWidth 64))
    (s.cur.isSup = true → s2.sealing s.cur t = (decide (1 ≤ t ∧ t ≤ 127), s2)) ∧
    (t = 0 ∨ 127 < t → s2.sealing s.cur t = (false, s2)) ∧
    (s.inFiring → 1 ≤ t → t ≤ 127 →
      let x := s2.ctx s.cur
      let at' := s2.ctbaseOf x.partid + 0x400000 + 4 * t
      let entry (w : BitVec 64) : BitVec 32 := w.extractLsb' (at' % 8 * 8) 32
      ∀ w u, s2.tableDword s.cur.die.val x.partid (at' / 8 * 8) = (w, u) →
        s2.sealing s.cur t = ((entry w).getLsbD 31 && (entry w).extractLsb' 16 15 == 0 && (entry w).extractLsb' 0 16 == x.kcls, u)) ∧
    (capTag a = true → s2.sealing s.cur t = (true, s3) →
      (capOtype a = 0 → exec (.cseal rd rs1 rs2) s = .next (s.wrote s3 rd (typed (BitVec.ofNat 7 t)))) ∧
      (capOtype a = BitVec.ofNat 7 t → exec (.cunseal rd rs1 rs2) s = .next (s.wrote s3 rd (typed 0))) ∧
      (capOtype a ≠ 0 → trap (.cseal rd rs1 rs2) 0x06 rs1) ∧ (capOtype a ≠ BitVec.ofNat 7 t → trap (.cunseal rd rs1 rs2) 0x06 rs1)) ∧
    (capTag a = true → s2.sealing s.cur t = (false, s3) → trap (.cseal rd rs1 rs2) 0x07 rs2 ∧ trap (.cunseal rd rs1 rs2) 0x07 rs2) ∧
    (capTag a = false → trap (.cseal rd rs1 rs2) 0x05 rs1 ∧ trap (.cunseal rd rs1 rs2) 0x05 rs1))

/-- cbnd and cbndx complete exactly where the narrowing gives a value, and take its cause otherwise. A value has the tag, the address and the permissions of its source and no seal; its bounds lie within the source's and cover the region asked for, and cbndx gives exactly that region. For a tagged unsealed source whose bounds cover a region of fewer than 2^20 bytes at its address, both give exactly that region. An untagged source takes 0x05, a sealed one 0x06, and a region outside the bounds 0x08, with the number of rs1 (for 0x08 that is log 114, DESIGN CHOICE). -/
def Obligations.NarrowingNeverWidens : Prop :=
  (∀ (s s1 s2 : State) (rd rs1 rs2 : BitVec 5) (a b : Reg), s.exeReady rd [rs1, rs2] → s.gives rs1 a s1 →
    s1.src s.cur rs2 = .val (b, s2) → ∀ x : Bool,
    let i : Instr := if x then .cbndx rd rs1 rs2 else .cbnd rd rs1 rs2
    (∀ v, narrow x a (capAddr b) rs1 = .val v → exec i s = .next (s.wrote s2 rd v)) ∧
    (∀ c t, narrow x a (capAddr b) rs1 = .trap c t → exec i s = .next (takeTrap s s.cur c t))) ∧
  ∀ (x : Bool) (r : Reg) (len : BitVec 64) (rs : BitVec 5),
    let lo : Int := (capAddr r).toNat
    let hi : Int := lo + len.toNat
    (∀ v, narrow x r len rs = .val v →
      capTag r = true ∧ capTag v = true ∧ capOtype v = 0 ∧ capPerms v = capPerms r ∧ capAddr v = capAddr r ∧
      capBase r ≤ capBase v ∧ capTop v ≤ capTop r ∧ capBase v ≤ lo ∧ hi ≤ capTop v ∧
      (x = true → capBase v = lo ∧ capTop v = hi)) ∧
    (capTag r = true → capOtype r = 0 → capBase r ≤ lo → hi ≤ capTop r → len.toNat < 2 ^ 20 →
      ∃ v, narrow x r len rs = .val v ∧ capBase v = lo ∧ capTop v = hi) ∧
    (capTag r = false → narrow x r len rs = .trap 0x05 (rs.setWidth 64)) ∧
    (capTag r = true → capOtype r ≠ 0 → narrow x r len rs = .trap 0x06 (rs.setWidth 64)) ∧
    (capTag r = true → capOtype r = 0 → lo < capBase r ∨ capTop r < hi → narrow x r len rs = .trap 0x08 (rs.setWidth 64))

/-- In a firing whose operands are there, taglk completes with the slot that holds the key for the partition, made the most recent, or with bit 63 set and the victim it offers, or with bits 63 and 62 set where there is none. tagins into a slot that it may take installs the key, unpinned and most recent, and answers whether it replaced one; a key that another slot holds is answered with that slot and nothing changes. tagdel frees an unpinned slot, tagpin adds a pin and tagunpin takes one. A slot number from 64, a slot of another partition, a tagdel of a pinned slot, a tagpin of an invalid one or of one with 255 pins, and a tagunpin of one without a pin, take cause 0x14; on a supervisor core each form takes cause 0x01, before any other (the model's choice, log 11). In a firing, cbinit of a valid descriptor at a readable 16-byte address, once its bytes are read, with no pending copy that fills the buffer, makes the buffer valid and all its slots free, and keeps who waits. cbput, once the party's stores have drained, those that the access half holds among them, turns one free slot into a filled one and moves the producer on; cbget turns one filled slot into a held one and gives the scratchpad offset of the slot; cbrel frees a held one; cbstat gives the counts and indexes. A form whose slot another waiter is first for, or that finds none, waits and joins the waiters once, in order, and a cbput that waits takes effect later by itself (log 64, DEDUCED). A cbput, a cbget and a cbrel of a buffer that is not valid, and a cbrel with nothing held, take cause 0x15; on a supervisor core the forms take cause 0x01 (log 11). -/
def Obligations.TagTableAndCircularBuffers : Prop :=
  ((∀ (s s1 s2 : State) (rd rs1 rs2 : BitVec 5) (a b : Reg), s.gives rs1 a s1 → s1.src s.cur rs2 = .val (b, s2) → s.inFiring →
    let k := s.cur.coreIx
    let part := (s.ctx s.cur).partid
    let t := (s.core k).tagTable
    let key := capAddr a
    let n := (capAddr b).toNat
    let i := key.toNat
    let foreign (j : Nat) : Prop := (slotAt t j).valid = true ∧ (slotAt t j).part ≠ part
    let slotForm (f : Instr) (x : TagSlot → Prop) (t' : Vector TagSlot 64) : Prop := s.exeReady 0#5 [rs1] → i < 64 → ¬foreign i →
      x (slotAt t i) → exec f s = .next (s.wrote (s1.setTags k t') 0#5 0)
    (s.exeReady rd [rs1] →
      (∀ j, holds t part key = some j → exec (.taglk rd rs1) s = .next (s.wrote (s1.setTags k (touch t j)) rd (dataReg (BitVec.ofNat 64 j)))) ∧
      (holds t part key = none →
        (∀ j, victimOf t part = some j →
          exec (.taglk rd rs1) s = .next (s.wrote (s1.setTags k t) rd (dataReg (BitVec.ofNat 64 (2 ^ 63 + j))))) ∧
        (victimOf t part = none → exec (.taglk rd rs1) s = .next (s.wrote (s1.setTags k t) rd (dataReg 0xC000000000000000))))) ∧
    (s.exeReady rd [rs1, rs2] → n < 64 → ¬foreign n →
      (holds t part key = none → (slotAt t n).pin = 0 → exec (.tagins rd rs1 rs2) s =
        .next (s.wrote (s2.setTags k ((touch t n).setIfInBounds n { key := key, valid := true, pin := 0, part := part, age := 0 })) rd
          (dataReg (if (slotAt t n).valid then 1 else 0)))) ∧
      (∀ j, holds t part key = some j → j ≠ n → (slotAt t n).pin = 0 →
        exec (.tagins rd rs1 rs2) s = .next (s.wrote (s2.setTags k t) rd (dataReg (BitVec.ofNat 64 (2 ^ 63 + j)))))) ∧
    (s.exeReady rd [rs1, rs2] → 64 ≤ n ∨ foreign n → exec (.tagins rd rs1 rs2) s = .next (takeTrap s s.cur 0x14 (capAddr b))) ∧
    slotForm (.tagdel rs1) (fun x => x.valid = true ∧ x.pin = 0)
      ((t.map fun y => if y.valid && (slotAt t i).age < y.age then { y with age := y.age - 1 } else y).setIfInBounds i
        { slotAt t i with valid := false, age := 0 }) ∧
    slotForm (.tagpin rs1) (fun x => x.valid = true ∧ x.pin ≠ 255) (t.setIfInBounds i { slotAt t i with pin := (slotAt t i).pin + 1 }) ∧
    slotForm (.tagunpin rs1) (fun x => x.pin ≠ 0) (t.setIfInBounds i { slotAt t i with pin := (slotAt t i).pin - 1 }) ∧
    (s.exeReady 0#5 [rs1] →
      (64 ≤ i ∨ foreign i ∨ (slotAt t i).pin ≠ 0 → exec (.tagdel rs1) s = .next (takeTrap s s.cur 0x14 key)) ∧
      (64 ≤ i ∨ foreign i ∨ (slotAt t i).valid = false ∨ (slotAt t i).pin = 255 →
        exec (.tagpin rs1) s = .next (takeTrap s s.cur 0x14 key)) ∧
      (64 ≤ i ∨ foreign i ∨ (slotAt t i).pin = 0 → exec (.tagunpin rs1) s = .next (takeTrap s s.cur 0x14 key)))) ∧
  ∀ (s : State) (rd rs1 rs2 : BitVec 5), s.cur.isSup = true →
    let illegal (i : Instr) (w : BitVec 32) : Prop := exec i s = .next (takeTrap s s.cur 0x01 (w.setWidth 64))
    illegal (.taglk rd rs1) (wordTaglk rd rs1) ∧ illegal (.tagins rd rs1 rs2) (wordTagins rd rs1 rs2) ∧
    illegal (.tagdel rs1) (wordTagdel rs1) ∧ illegal (.tagpin rs1) (wordTagpin rs1) ∧ illegal (.tagunpin rs1) (wordTagunpin rs1)) ∧
  ((∀ (s : State) (rd rs1 : BitVec 5) (n : BitVec 4), s.inFiring →
    let p := s.cur
    let k := s.core p.coreIx
    let x := k.cb n.toNat
    let me := ctxWaiter p
    let stores := (s.ctx p).storeCount
    let next (i : BitVec 8) : BitVec 8 := if i + 1 = x.scnt then 0 else i + 1
    let put (y : Cb) : State := s.setCore p.coreIx (k.setCb n.toNat y)
    let first (l : List CbWaiter) : Prop := l = [] ∨ l.head? = some me
    let others (l : List CbWaiter) : List CbWaiter := l.filter fun y => y != me
    let filledSlot : Cb :=
      { x with free := x.free - 1, filled := x.filled + 1, pidx := next x.pidx, waitFree := others x.waitFree }
    (∀ (s1 s2 : State) (c : Reg) (bs : List Byte) (y : Cb), s.exeReady 0#5 [rs1] → s.gives rs1 c s1 →
      checkCap p.isSup c (capAddr c).toNat 16 permLoad false = none → (capAddr c).toNat % 16 = 0 →
      State.readBytes s s1 p .r (capAddr c).toNat 16 = .val (bs, s2) → descCb bs = some y →
      s2.fillPending p.coreIx n.toNat = false → exec (.cbinit n rs1) s = .next ((s2.setCore p.coreIx
        ((s2.core p.coreIx).setCb n.toNat { y with waitFilled := x.waitFilled, waitFree := x.waitFree })).advance p)) ∧
    (s.exeReady 0#5 [] → x.valid = true → (s.ctx p).drained = stores → x.free ≠ 0 → first x.waitFree →
      let t := (put filledSlot).mod p fun c => { c with cbput := none, pc := c.pc + 4 }
      exec (.cbput n) s = .next t ∧ (∀ m, (s.ctx p).cbput = some (n, m) → exec (.cbputEffect p) s = .next t)) ∧
    (s.exeReady 0#5 [] → x.valid = true → ((s.ctx p).drained ≠ stores ∨ x.free = 0 ∨ ¬first x.waitFree) →
      (∃ t, exec (.cbput n) s = .next t ∧ (t.ctx p).pc = (s.ctx p).pc ∧ (t.ctx p).cbput = some (n, stores) ∧
        (n.toNat < k.cbs.toList.length → ((t.core p.coreIx).cb n.toNat).filled = x.filled)) ∧
      (∀ m, (s.ctx p).cbput = some (n, m) → exec (.cbputEffect p) s = .next s)) ∧
    (s.exeReady rd [] → x.valid = true →
      (x.filled ≠ 0 → first x.waitFilled → exec (.cbget rd n) s = .next (s.wrote (((put
        { x with filled := x.filled - 1, held := x.held + 1, cidx := next x.cidx, waitFilled := others x.waitFilled }).mod p Ctx.sync)) rd
          (dataReg (BitVec.ofNat 64 (x.base.toNat + x.cidx.toNat * x.ssz.toNat))))) ∧
      (x.filled = 0 ∨ ¬first x.waitFilled → exec (.cbget rd n) s = .next (put
        { x with waitFilled := if x.waitFilled.contains me then x.waitFilled else x.waitFilled ++ [me] }))) ∧
    (s.exeReady 0#5 [] →
      (x.valid = true → x.held ≠ 0 → exec (.cbrel n) s = .next ((put { x with held := x.held - 1, free := x.free + 1 }).advance p)) ∧
      (x.valid = false ∨ x.held = 0 → exec (.cbrel n) s = .next (takeTrap s p 0x15 (n.setWidth 64)))) ∧
    (x.valid = false → (s.exeReady 0#5 [] → exec (.cbput n) s = .next (takeTrap s p 0x15 (n.setWidth 64))) ∧
      (s.exeReady rd [] → exec (.cbget rd n) s = .next (takeTrap s p 0x15 (n.setWidth 64)))) ∧
    (s.exeReady rd [] → exec (.cbstat rd n) s =
      .next (s.wrote s rd (dataReg (BitVec.ofBool x.valid ++ 0#23 ++ x.cidx ++ x.pidx ++ x.held ++ x.free ++ x.filled))))) ∧
  ∀ (s : State) (rd rs1 : BitVec 5) (n : BitVec 4), s.cur.isSup = true → s.exeReady rd [rs1] →
    let illegal (i : Instr) (w : BitVec 32) : Prop := exec i s = .next (takeTrap s s.cur 0x01 (w.setWidth 64))
    illegal (.cbinit n rs1) (wordCbinit n rs1) ∧ illegal (.cbput n) (wordCbput n) ∧ illegal (.cbget rd n) (wordCbget rd n) ∧
    illegal (.cbrel n) (wordCbrel n) ∧ illegal (.cbstat rd n) (wordCbstat rd n))

/-- In a firing, wbind of a readable 64-byte descriptor at a multiple of 64 that is not malformed, whose footprint the capability covers with the permissions of its direction, binds the stream at position 0 with nothing read; a malformed one unbinds it and sets ERR. wstat gives the status word of a bound stream, or ERR alone. wdrain of a bound stream holds while a store of its windows remains in the store buffer or with the access half, and otherwise discards a window read of a stream that is not an OUT stream; an unbound one takes 0x0E. wunbind unbinds, keeps ERR and drains nothing. A window of a live stream that is not OUT may be read early, a 32-byte block a turn in any order, with the bytes that the party sees and 0 for lanes outside the image; once every block of the window at the position is read, FILLED is 1 at once (R260). A namespace number of 8 to 15 is a vector register: it reads its value, and a write keeps the lanes that are not written. A number of 0 to 7 is a stream: a form that names it as a source waits until every 32-byte block of its window is read, one block a turn, and then reads the window; a source that is an IN stream goes on by one window. The written bytes of a stream destination are stored at the addresses of the window at its position, bytes in one block as one entry with the tags of their granules cleared, the party sees them at once where no address repeats, lanes outside the image are not stored, and the stream goes on by one window. An unbound or exhausted stream takes 0x0E, and one of the other direction 0x0D. A scalar second operand is the same in every lane. -/
def Obligations.StreamsAndVectorOperands : Prop :=
  (∀ (s s1 s2 : State) (rd rs1 : BitVec 5) (n : BitVec 3) (c : Reg) (bs : List Byte), s.inFiring →
    let p := s.cur
    let x := (s.ctx p).stream n.toNat
    let held : Prop := (∃ e ∈ (s.ctx p).sb, e.stream = some n) ∨ ∃ e, AccItem.store e ∈ (s.ctx p).acc ∧ e.stream = some n
    let lets (t : State) (y : Stream) : State := t.mod p fun k => k.bindStream n.toNat y
    (s.exeReady 0#5 [rs1] → s.gives rs1 c s1 → checkCap p.isSup c (capAddr c).toNat 64 permLoad false = none →
      State.readBytes s s1 p .r (capAddr c).toNat 64 = .val (bs, s2) →
      let d : BitVec 512 := BitVec.ofNat 512 (leNat bs)
      let lo := (sdFootprint d).1
      let hi := (sdFootprint d).2
      let perms : BitVec 11 := if sdDir d = 1 then permLoad else if sdDir d = 2 then permStore else permLoad ||| permStore
      ((capAddr c).toNat % 64 = 0 → sdMalformed d = false → checkCap p.isSup c lo.toNat (hi - lo).toNat perms false = none →
        exec (.wbind n rs1) s = .next ((lets s2 { desc := some d }).advance p)) ∧
      ((capAddr c).toNat % 64 ≠ 0 ∨ sdMalformed d = true → exec (.wbind n rs1) s = .next ((lets s2 { err := true }).advance p))) ∧
    (s.exeReady rd [] →
      (∀ d, x.desc = some d → exec (.wstat rd n) s = .next (s.wrote s rd (dataReg (x.ovr ++ BitVec.ofNat 24 x.pos ++ 0#1 ++
        BitVec.ofBool x.filled ++ BitVec.ofBool (sdConv d) ++ BitVec.ofBool x.err ++ BitVec.ofBool (decide (sdWindows d ≤ x.pos)) ++
        BitVec.ofNat 2 (sdDir d) ++ 1#1)))) ∧
      (x.desc = none → exec (.wstat rd n) s = .next (s.wrote s rd (dataReg (if x.err then 16 else 0))))) ∧
    (s.exeReady 0#5 [] → ∀ d, x.desc = some d →
      (2 ≤ sdDir d → held → exec (.wdrain n) s = .next s) ∧
      (sdDir d = 2 → ¬held → exec (.wdrain n) s = .next (s.advance p)) ∧
      (sdDir d ≠ 2 → (sdDir d = 1 ∨ ¬held) → x.pos < sdWindows d → exec (.wdrain n) s = .next
        ((s.mod p fun k => k.setStream n.toNat { x with filled := false, used := false, window := 0, early := [] }).advance p)) ∧
      exec (.wunbind n) s = .next ((lets s { err := x.err }).advance p)) ∧
    (s.exeReady 0#5 [] → x.desc = none →
      exec (.wdrain n) s = .next (takeTrap s p 0x0E 0) ∧ exec (.wunbind n) s = .next (s.advance p)) ∧
    (∀ (q : Party) (w : Fin 8) (d : BitVec 512),
      let y := (s.ctx q).stream w.val
      y.desc = some d → y.pos < sdWindows d → sdDir d ≠ 2 → ∃ n, y.pos ≤ n ∧ n < sdWindows d ∧
        (let read (cells : List (Nat × Byte)) : Stream :=
            ({ y with early := y.early.put n (y.early.getD n [] ++ cells) } : Stream).settled q
          let refused := (n = y.pos ∧ y.filled = true) ∨ s.windowFault q false (sdAddrs d n) ≠ none
          let free := s.setDev { s.dev with freeAt := s.dev.freeAt + 1 }
          (refused → exec (.streamWindowFill q w) s = .next s) ∧
          (¬refused → y.blocksLeft q d n = [] → exec (.streamWindowFill q w) s =
            .next (free.mod q fun c => c.setStream w.val (read []))) ∧
          (¬refused → y.blocksLeft q d n ≠ [] → ∃ b ∈ y.blocksLeft q d n, ∃ t, exec (.streamWindowFill q w) s = .next t ∧
            (s.setDev { s.dev with freeAt := t.dev.freeAt }).onlyParty t q ∧ t.ctx q = (s.ctx q).setStream w.val
              (read (s.blockCells q (windowPlaces q d n) b))))) ∧
    (∀ (q : Party) (y : Stream) (d : BitVec 512), y.desc = some d → y.pos < sdWindows d → sdDir d ≠ 2 →
      (y.filled = false → (y.early.find y.pos).isSome → y.blocksLeft q d y.pos = [] → y.settled q = y.complete q d) ∧
      (y.filled = true ∨ (y.early.find y.pos).isNone ∨ y.blocksLeft q d y.pos ≠ [] → y.settled q = y)) ∧
    (∀ (q : Party) (y : Stream) (d : BitVec 512), y.desc = some d →
      y.early.getD y.pos [] = (windowPlaces q d y.pos).map (fun z => (z, s.see q z)) →
      (y.complete q d).filled = true ∧ (y.complete q d).pos = y.pos ∧ (y.complete q d).window =
        BitVec.ofNat 512 (leNat ((sdAddrs d y.pos).map fun a => (a.map fun a => s.see q (spPlace q.coreIx a)).getD 0)))) ∧
  (∀ (s : State) (w : BitVec 32) (va vd b : BitVec 4) (r : BitVec 5) (i : VIn) (t : State) (bits : Nat) (out : List (Option Nat)),
    let c := s.ctx s.cur
    let z := s.vecWrite s.cur vd bits out
    (s.vecRead s.cur w { va := some va, b := .vec b, vd := some vd } = .val (i, t) →
      let ks := distinct ((nsStream va).toList ++ (nsStream b).toList)
      ∃ u, s.windowsRead s.cur ks = .val u ∧ i.a = (u.ctx s.cur).vecVal va ∧ i.b = (u.ctx s.cur).vecVal b ∧ i.scalar = false ∧
        t = s.mod s.cur fun c => { c with w := (u.ctx s.cur).w }.afterReads s.cur ks) ∧
    (s.vecRead s.cur w { va := some va, b := .scalar r, vd := some vd } = .val (i, t) →
      let ks := (nsStream va).toList
      ∃ u x y, s.windowsRead s.cur ks = .val u ∧ s.gives r x y ∧ i.a = (u.ctx s.cur).vecVal va ∧ i.scalar = true ∧
        i.x = capAddr x ∧ t = y.mod s.cur fun c => { c with w := (u.ctx s.cur).w }.afterReads s.cur ks) ∧
    (∀ k, ((c.stream k).filled = true → s.windowsRead s.cur [k] = .val s) ∧
      ∀ d, (c.stream k).filled = false → (c.stream k).desc = some d → s.windowFault s.cur false (sdAddrs d (c.stream k).pos) = none →
        ((c.stream k).blocksLeft s.cur d (c.stream k).pos = [] →
          s.windowsRead s.cur [k] = .val (s.mod s.cur fun c => c.setStream k ((c.stream k).complete s.cur d))) ∧
        ((c.stream k).blocksLeft s.cur d (c.stream k).pos ≠ [] → ∃ u, s.windowsRead s.cur [k] = .stall u ∧
          (u.ctx s.cur).pc = c.pc ∧ (u.ctx s.cur).x = c.x ∧ (u.ctx s.cur).v = c.v)) ∧
    (∀ k, k < 8 → (c.afterReads s.cur [k]).stream k =
      (if (c.stream k).dir = 1 then (c.stream k).advance s.cur else { c.stream k with used := true }) ∧
      ∀ j, j ≠ k → (c.afterReads s.cur [k]).stream j = c.stream j) ∧
    (8 ≤ vd.toNat → s.onlyParty z s.cur ∧ (z.ctx s.cur).sb = c.sb ∧ (z.ctx s.cur).w = c.w ∧
      (∀ n : BitVec 4, 8 ≤ n.toNat → n ≠ vd → (z.ctx s.cur).vecVal n = c.vecVal n) ∧
      (bits ∈ [8, 16, 32, 64] → out.length = 512 / bits → (∀ o ∈ out, ∀ v, o = some v → v < 2 ^ bits) → ∀ l, l < 512 / bits →
        (lanesOf bits ((z.ctx s.cur).vecVal vd)).getD l 0 = (out.getD l none).getD ((lanesOf bits (c.vecVal vd)).getD l 0))) ∧
    (vd.toNat < 8 → ∀ d, (c.stream vd.toNat).desc = some d → bits ∈ [8, 16, 32, 64] → out.length = 512 / bits →
      let at' (j : Nat) : Option Nat := (sdAddrs d (c.stream vd.toNat).pos).getD j none
      let byte (j : Nat) : Option Byte := (out.getD (j / (bits / 8)) none).map fun v => BitVec.ofNat 8 (v / 2 ^ (8 * (j % (bits / 8))))
      let cells : List (Nat × Byte) := (List.range 64).filterMap fun j =>
        (at' j).bind fun a => (byte j).map fun x => (spPlace s.cur.coreIx a, x)
      (z.ctx s.cur).stream vd.toNat = (c.stream vd.toNat).advance s.cur ∧
      ((c.stream vd.toNat).advance s.cur).pos = (c.stream vd.toNat).pos + 1 ∧
      (z.ctx s.cur).v = c.v ∧ (z.ctx s.cur).x = c.x ∧
      (c.acc = [] → cells ≠ [] → (∀ y ∈ cells, y.1 / 32 = (cells.headD (0, 0)).1 / 32) → (z.ctx s.cur).sb =
        c.sb ++ [{ cells := plainCells cells, stream := some (BitVec.ofNat 3 vd.toNat) }]) ∧
      (c.acc = [] → (cells.map (·.1)).Nodup → (∀ y ∈ cells, y.1 < tagPlace 0) → ∀ y ∈ cells, z.see s.cur y.1 = y.2) ∧
      (∀ q, q ∉ cells.map (·.1) → q ∉ cells.map (fun y => tagPlace y.1) → q ∉ cells.map (fun y => poisonPlace y.1) →
        z.see s.cur q = s.see s.cur q)) ∧
    (∀ k rd wr, (c.stream k).live = false → c.streamCause k rd wr = some (0x0E, 0)) ∧
    (∀ k, (c.stream k).live = true → c.streamCause k true false = (if (c.stream k).dir = 2 then some (0x0D, 0) else none) ∧
      c.streamCause k false true = (if (c.stream k).dir = 1 then some (0x0D, 0) else none)))

/-- Where their operands are read, the arithmetic, minimum, maximum, clamp, bit, shift, fused, absolute, negate, move and function forms complete: each lane that the mask lets through receives the form's function of the lanes of va, of the second operand and of vd as it stood, and the other lanes are not written. The pc moves on, and nothing else changes but the streams named. On integer lanes add, subtract, multiply, absolute, negate and left shift are exact modulo 2^w, or clamped to the range with sat = 1; minimum, maximum and clamp are by signed value; a right shift fills with zeros, or with sat = 1 is arithmetic with rounding. On lanes of f32, bf16, f16 and f64 whose operands are finite, add, subtract, multiply and the fused forms are the exact value rounded once to nearest, ties to even, which overflows to the infinity, or to the largest finite value with sat = 1; minimum, maximum and clamp give the values of that name, −0 being less than +0, and absolute and negate change the sign bit alone; a NaN operand gives the canonical NaN in add, multiply, minimum, maximum and clamp. vrcp of a zero is an infinity and of an infinity a zero, vrsq of a zero is an infinity and of a negative value the canonical NaN, vexp2 of a zero is 1, and vrcp of 4 in f32 is 0.25. -/
def Obligations.VectorLaneResults : Prop :=
  ∀ (s s1 : State) (ty : BitVec 3) (src2 : BitVec 5) (va vd : BitVec 4) (sx : BitVec 1) (mask : BitVec 2) (sf : BitVec 1) (i : VIn),
    let g := tyOf ty
    let b := g.bits
    let snd : VSrc := if sx = 1#1 then .scalar src2 else .vec (src2.setWidth 4)
    let lane (v : BitVec 512) (l : Nat) : Nat := v.toNat / 2 ^ (b * l) % 2 ^ b
    let second (l : Nat) : Nat := if i.scalar then i.x.toNat % 2 ^ b else lane i.b l
    let on (l : Nat) : Bool := mask = 0 || ((s.ctx s.cur).k.toList.getD mask.toNat 0).getLsbD l
    let lanes (n : Instr) (w : BitVec 32) (u : VUse) (f : Nat → Nat → Nat → Nat) : Prop :=
      s.vecRead s.cur w u = .val (i, s1) → exec n s = .next ((s1.vecWrite s.cur vd b ((List.range (512 / b)).map fun l =>
        if on l then some (f (lane i.a l) (second l) (lane i.c l)) else none)).advance s.cur)
    lanes (.vadd ty src2 va sx mask vd sf) (wordVadd ty src2 va sx mask vd sf) { va := some va, b := snd, vd := some vd } (fun x y _ => (elemAdd g (sf == 1#1)) x y) ∧
    lanes (.vsub ty src2 va sx mask vd sf) (wordVsub ty src2 va sx mask vd sf) { va := some va, b := snd, vd := some vd } (fun x y _ => (elemSub g (sf == 1#1)) x y) ∧
    lanes (.vmul ty src2 va sx mask vd sf) (wordVmul ty src2 va sx mask vd sf) { va := some va, b := snd, vd := some vd } (fun x y _ => (elemMul g (sf == 1#1)) x y) ∧
    lanes (.vmax ty src2 va sx mask vd) (wordVmax ty src2 va sx mask vd) { va := some va, b := snd, vd := some vd } (fun x y _ => (elemMinMax true g) x y) ∧
    lanes (.vmin ty src2 va sx mask vd) (wordVmin ty src2 va sx mask vd) { va := some va, b := snd, vd := some vd } (fun x y _ => (elemMinMax false g) x y) ∧
    lanes (.vclamp ty src2 va sx mask vd) (wordVclamp ty src2 va sx mask vd) { va := some va, b := snd, vd := some vd } (fun x y _ => (elemClamp g) x y) ∧
    lanes (.vand ty src2 va sx mask vd) (wordVand ty src2 va sx mask vd) { va := some va, b := snd, vd := some vd } (fun x y _ => (fun x y => x &&& y) x y) ∧
    lanes (.vor ty src2 va sx mask vd) (wordVor ty src2 va sx mask vd) { va := some va, b := snd, vd := some vd } (fun x y _ => (fun x y => x ||| y) x y) ∧
    lanes (.vxor ty src2 va sx mask vd) (wordVxor ty src2 va sx mask vd) { va := some va, b := snd, vd := some vd } (fun x y _ => (fun x y => x ^^^ y) x y) ∧
    lanes (.vshl ty src2 va sx mask vd sf) (wordVshl ty src2 va sx mask vd sf) { va := some va, b := snd, vd := some vd } (fun x y _ => (elemShl g (sf == 1#1)) x y) ∧
    lanes (.vshr ty src2 va sx mask vd sf) (wordVshr ty src2 va sx mask vd sf) { va := some va, b := snd, vd := some vd } (fun x y _ => (elemShr g (sf == 1#1)) x y) ∧
    lanes (.vfma ty src2 va sx mask vd sf) (wordVfma ty src2 va sx mask vd sf) { va := some va, b := snd, vd := some vd, readVd := true } (elemFma g (sf == 1#1)) ∧
    lanes (.vfms ty src2 va sx mask vd sf) (wordVfms ty src2 va sx mask vd sf) { va := some va, b := snd, vd := some vd, readVd := true } (elemFms g (sf == 1#1)) ∧
    lanes (.vabs ty va mask vd sf) (wordVabs ty va mask vd sf) { va := some va, vd := some vd } (fun x _ _ => elemAbs g (sf == 1#1) x) ∧
    lanes (.vneg ty va mask vd sf) (wordVneg ty va mask vd sf) { va := some va, vd := some vd } (fun x _ _ => elemNeg g (sf == 1#1) x) ∧
    lanes (.vrcp ty va mask vd) (wordVrcp ty va mask vd) { va := some va, vd := some vd } (fun x _ _ => elemFun 0 g x) ∧
    lanes (.vrsq ty va mask vd) (wordVrsq ty va mask vd) { va := some va, vd := some vd } (fun x _ _ => elemFun 1 g x) ∧
    lanes (.vexp2 ty va mask vd) (wordVexp2 ty va mask vd) { va := some va, vd := some vd } (fun x _ _ => elemFun 2 g x) ∧
    lanes (.vmov ty va mask vd) (wordVmov ty va mask vd) { va := some va, vd := some vd } (fun x _ _ => id x) ∧
    (∀ n ∈ [8, 32], ∀ (st : Bool) (x y : Nat), x < 2 ^ n → y < 2 ^ n →
      let sg (c : Nat) : Int := if 2 ^ (n - 1) ≤ c then (c : Int) - 2 ^ n else c
      let code (v : Int) : Nat := (v % 2 ^ n).toNat
      let limit (v : Int) : Int := if st then max (-(2 ^ (n - 1))) (min (2 ^ (n - 1) - 1) v) else v
      let sh := y % n
      elemAdd (.i n) st x y = code (limit (sg x + sg y)) ∧ elemSub (.i n) st x y = code (limit (sg x - sg y)) ∧
      elemMul (.i n) st x y = code (limit (sg x * sg y)) ∧ elemAbs (.i n) st x = code (limit (sg x).natAbs) ∧
      elemNeg (.i n) st x = code (limit (-(sg x))) ∧ elemShl (.i n) st x y = code (limit (sg x * 2 ^ sh)) ∧
      elemShr (.i n) false x y = x / 2 ^ sh ∧
      elemShr (.i n) true x y = (if sh = 0 then x else code ((sg x + 2 ^ (sh - 1)) / 2 ^ sh)) ∧
      elemMinMax true (.i n) x y = (if sg x < sg y then y else x) ∧ elemMinMax false (.i n) x y = (if sg y < sg x then y else x) ∧
      elemClamp (.i n) x y = code (min (max (sg x) (-(sg y))) (sg y))) ∧
    (∀ f ∈ [fmtF32, fmtBf16, fmtF16, fmtF64],
      let val (neg : Bool) (m : Nat) (e : Int) : Rat := (if neg then -(m : Rat) else m) * (2 : Rat) ^ e
      let has (c : Nat) (v : Rat) : Prop := ∃ s n g, f.num c = .fin s n g ∧ v = val s n g
      let size (v : Rat) : Rat := if v < 0 then -v else v
      let sign (c : Nat) : Bool := 2 ^ (f.width - 1) ≤ c
      let mag (c : Nat) : Nat := c % 2 ^ (f.width - 1)
      let key (c : Nat) : Int := if sign c then -(mag c : Int) else mag c
      (∀ (st neg : Bool) (m : Nat) (e : Int),
        let c := f.put st (.fin neg m e)
        let v := val neg m e
        let big : Rat := (2 - (2 : Rat) ^ (-(f.mbits + 1 : Int))) * (2 : Rat) ^ f.bias
        (size v < big → ∃ u, has c u ∧ (u = 0 → f.neg c = neg) ∧ ∀ d w, has d w →
          size (u - v) ≤ size (w - v) ∧ (size (u - v) = size (w - v) → w ≠ u → f.man c % 2 = 0)) ∧
        (big ≤ size v → c = f.code neg (if st then f.maxMag else f.infMag))) ∧
      (∀ (st : Bool) (a b c : Nat) (x y z : Rat), a < 2 ^ f.width → b < 2 ^ f.width → has a x → has b y → has c z →
        let rounds (r : Nat) (v : Rat) : Prop := ∃ neg m e, val neg m e = v ∧ r = f.put st (.fin neg m e)
        rounds (elemAdd (.f f) st a b) (x + y) ∧ rounds (elemSub (.f f) st a b) (x - y) ∧
        rounds (elemMul (.f f) st a b) (x * y) ∧ rounds (elemFma (.f f) st a b c) (x * y + z) ∧
        rounds (elemFms (.f f) st a b c) (x * y - z) ∧
        (x ≠ 0 → x + y = 0 → elemAdd (.f f) st a b = 0) ∧ (x = 0 → y = 0 → elemAdd (.f f) st a b = if sign a && sign b then a else 0) ∧
        (key a < key b → elemMinMax true (.f f) a b = b ∧ elemMinMax false (.f f) a b = a) ∧
        (key b < key a → elemMinMax true (.f f) a b = a ∧ elemMinMax false (.f f) a b = b) ∧
        (key a = key b → sign b = true → elemMinMax true (.f f) a b = a ∧ elemMinMax false (.f f) a b = b) ∧
        has (elemClamp (.f f) a b) (min (max x (-y)) y) ∧
        elemAbs (.f f) st a = mag a ∧ elemNeg (.f f) st a = (if sign a then mag a else 2 ^ (f.width - 1) + a)) ∧
      (∀ (st : Bool) (a b : Nat), f.isNan a = true ∨ f.isNan b = true → elemAdd (.f f) st a b = f.nan ∧
        elemSub (.f f) st a b = f.nan ∧ elemMul (.f f) st a b = f.nan ∧ elemMinMax true (.f f) a b = f.nan ∧
        elemMinMax false (.f f) a b = f.nan ∧ elemClamp (.f f) a b = f.nan) ∧
      (∀ neg, elemFun 0 (.f f) (f.code neg 0) = f.code neg f.infMag ∧ elemFun 0 (.f f) (f.code neg f.infMag) = f.code neg 0 ∧
        elemFun 1 (.f f) (f.code neg 0) = f.code neg f.infMag ∧ elemFun 2 (.f f) (f.code neg 0) = f.bias * 2 ^ f.mbits) ∧
      (∀ a x, has a x → x < 0 → elemFun 1 (.f f) a = f.nan)) ∧
    elemFun 0 (.f fmtF32) 0x40800000 = 0x3E800000

/-- Where their operands are read: vcmp writes to its mask the lanes whose relation holds and that the mask lets through, and zeros elsewhere; vsel writes each lane from the second operand where the mask bit is set and from va elsewhere; vcvt converts each lane that the mask lets through and that the source has; a reduction pairs lane l with lane l + h at each step, with the identity for lanes that are masked off, writes lane 0 and zeroes the rest; vsplat, vaddi, vmuli and vmaxi combine each lane of vd with the immediate. Relations compare signed integers, or the values of floats, and are false for a NaN; a conversion between float types rounds the value once to nearest, ties to even (e4m3 overflows beyond 464, to NaN, or to 448 with sat = 1), one to an integer rounds to nearest, ties to even, and clamps, and a NaN gives 0; INT32 to INT8 clamps with sat = 1 and takes the low byte otherwise; the identities of the reductions are −0 or 0, and the ends of the range. The functions that add, multiply and order lanes are pinned by VectorLaneResults. -/
def Obligations.VectorMaskReductionAndImmediateResults : Prop :=
  ∀ (s : State) (ty sty : BitVec 3) (src2 : BitVec 5) (va vd : BitVec 4) (sx : BitVec 1) (mask kd : BitVec 2) (sf : BitVec 1)
      (imm : BitVec 16),
    let p := s.cur
    let g := tyOf ty
    let b := g.bits
    let snd : VSrc := if sx = 1#1 then .scalar src2 else .vec (src2.setWidth 4)
    let lane (v : BitVec 512) (l : Nat) : Nat := v.toNat / 2 ^ (b * l) % 2 ^ b
    let second (i : VIn) (l : Nat) : Nat := if i.scalar then i.x.toNat % 2 ^ b else lane i.b l
    let on (l : Nat) : Bool := mask = 0 || ((s.ctx p).k.toList.getD mask.toNat 0).getLsbD l
    let tree (f : Nat → Nat → Nat) (l : List Nat) : Nat := (redTree f 6 l).headD 0
    (∀ i s1, s.vecRead p (wordVcmpEq ty src2 va sx mask kd) { va := some va, b := snd } = .val (i, s1) → ∃ t, exec (.vcmpEq ty src2 va sx mask kd) s = .next t ∧
      (t.ctx p).pc = (s1.ctx p).pc + 4 ∧ (t.ctx p).v = (s1.ctx p).v ∧ (∀ l, l < 64 →
        ((t.ctx p).k.toList.getD kd.toNat 0).getLsbD l = (decide (l < 512 / b) && on l && elemCompare 0 g (lane i.a l) (second i l)))) ∧
    (∀ i s1, s.vecRead p (wordVcmpLt ty src2 va sx mask kd) { va := some va, b := snd } = .val (i, s1) → ∃ t, exec (.vcmpLt ty src2 va sx mask kd) s = .next t ∧
      (t.ctx p).pc = (s1.ctx p).pc + 4 ∧ (t.ctx p).v = (s1.ctx p).v ∧ (∀ l, l < 64 →
        ((t.ctx p).k.toList.getD kd.toNat 0).getLsbD l = (decide (l < 512 / b) && on l && elemCompare 1 g (lane i.a l) (second i l)))) ∧
    (∀ i s1, s.vecRead p (wordVcmpLe ty src2 va sx mask kd) { va := some va, b := snd } = .val (i, s1) → ∃ t, exec (.vcmpLe ty src2 va sx mask kd) s = .next t ∧
      (t.ctx p).pc = (s1.ctx p).pc + 4 ∧ (t.ctx p).v = (s1.ctx p).v ∧ (∀ l, l < 64 →
        ((t.ctx p).k.toList.getD kd.toNat 0).getLsbD l = (decide (l < 512 / b) && on l && elemCompare 2 g (lane i.a l) (second i l)))) ∧
    (∀ i s1, s.vecRead p (wordVredSum ty va mask vd sf) { va := some va, vd := some vd } = .val (i, s1) → exec (.vredSum ty va mask vd sf) s =
      .next ((s1.vecWrite p vd b (some (tree (elemAdd g (sf == 1#1)) ((List.range (512 / b)).map fun l => if on l then lane i.a l else identSum g)) ::
        List.replicate (512 / b - 1) (some 0))).advance p)) ∧
    (∀ i s1, s.vecRead p (wordVredMax ty va mask vd) { va := some va, vd := some vd } = .val (i, s1) → exec (.vredMax ty va mask vd) s =
      .next ((s1.vecWrite p vd b (some (tree (elemMinMax true g) ((List.range (512 / b)).map fun l => if on l then lane i.a l else identMax g)) ::
        List.replicate (512 / b - 1) (some 0))).advance p)) ∧
    (∀ i s1, s.vecRead p (wordVredMin ty va mask vd) { va := some va, vd := some vd } = .val (i, s1) → exec (.vredMin ty va mask vd) s =
      .next ((s1.vecWrite p vd b (some (tree (elemMinMax false g) ((List.range (512 / b)).map fun l => if on l then lane i.a l else identMin g)) ::
        List.replicate (512 / b - 1) (some 0))).advance p)) ∧
    (∀ i s1, s.vecRead p (wordVsplat imm ty vd) { vd := some vd, readVd := false } = .val (i, s1) → exec (.vsplat imm ty vd) s =
      .next ((s1.vecWrite p vd b ((List.range (512 / b)).map fun l => some ((fun _ y => y) (lane i.c l) (immLane ty imm l)))).advance p)) ∧
    (∀ i s1, s.vecRead p (wordVaddi imm ty vd) { vd := some vd, readVd := true } = .val (i, s1) → exec (.vaddi imm ty vd) s =
      .next ((s1.vecWrite p vd b ((List.range (512 / b)).map fun l => some ((elemAdd g false) (lane i.c l) (immLane ty imm l)))).advance p)) ∧
    (∀ i s1, s.vecRead p (wordVmuli imm ty vd) { vd := some vd, readVd := true } = .val (i, s1) → exec (.vmuli imm ty vd) s =
      .next ((s1.vecWrite p vd b ((List.range (512 / b)).map fun l => some ((elemMul g false) (lane i.c l) (immLane ty imm l)))).advance p)) ∧
    (∀ i s1, s.vecRead p (wordVmaxi imm ty vd) { vd := some vd, readVd := true } = .val (i, s1) → exec (.vmaxi imm ty vd) s =
      .next ((s1.vecWrite p vd b ((List.range (512 / b)).map fun l => some ((elemMinMax true g) (lane i.c l) (immLane ty imm l)))).advance p)) ∧
    (∀ i s1, s.vecRead p (wordVsel ty src2 va sx mask vd) { va := some va, b := snd, vd := some vd } = .val (i, s1) →
      exec (.vsel ty src2 va sx mask vd) s = .next ((s1.vecWrite p vd b ((List.range (512 / b)).map fun l =>
        some (if ((s.ctx p).k.toList.getD mask.toNat 0).getLsbD l then second i l else lane i.a l))).advance p)) ∧
    (∀ i s1, s.vecRead p (wordVcvt ty sty va mask vd sf) { va := some va, vd := some vd } = .val (i, s1) →
      exec (.vcvt ty sty va mask vd sf) s = .next ((s1.vecWrite p vd b ((List.range (512 / b)).map fun l =>
        if on l then ((lanesOf (tyOf sty).bits i.a)[l]?).map (convertElem (tyOf sty) g (sf == 1#1)) else none)).advance p)) ∧
    (∀ (f : Nat → Nat → Nat) (l : List Nat), l.length ∈ [2, 4, 8, 16, 32, 64] → ∃ m : List Nat, m.length = l.length / 2 ∧
      (∀ j, j < m.length → m.getD j 0 = f (l.getD j 0) (l.getD (j + l.length / 2) 0)) ∧ tree f l = tree f m) ∧
    (∀ (f : Nat → Nat → Nat) (x : Nat), tree f [x] = x) ∧
    (∀ f ∈ [fmtF32, fmtBf16, fmtF16, fmtF64, fmtE4m3, fmtE5m2],
      let val (neg : Bool) (m : Nat) (e : Int) : Rat := (if neg then -(m : Rat) else m) * (2 : Rat) ^ e
      let has (c : Nat) (v : Rat) : Prop := ∃ s n g, f.num c = .fin s n g ∧ v = val s n g
      let size (v : Rat) : Rat := if v < 0 then -v else v
      (∀ h ∈ [fmtF32, fmtBf16, fmtF16, fmtF64, fmtE4m3, fmtE5m2], h ≠ f → ∀ (st : Bool) (c : Nat),
        (∀ neg m e, f.num c = .fin neg m e → convertElem (.f f) (.f h) st c = h.put st (.fin neg m e)) ∧
        (∀ neg, f.num c = .inf neg → h ≠ fmtE4m3 → convertElem (.f f) (.f h) st c = h.code neg h.infMag) ∧
        (f.num c = .nan → h = fmtE4m3 → convertElem (.f f) (.f h) st c = if f.neg c then 0xFF else 0x7F)) ∧
      (∀ n ∈ [8, 32], ∀ (st : Bool) (c : Nat) (v : Rat), has c v → ∃ r : Int,
        2 * size (r - v) ≤ 1 ∧ (2 * size (r - v) = 1 → r % 2 = 0) ∧
        convertElem (.f f) (.i n) st c = (max (-(2 ^ (n - 1))) (min (2 ^ (n - 1) - 1) r) % 2 ^ n).toNat) ∧
      (∀ n ∈ [8, 32], ∀ (st : Bool) (c : Nat),
        let sg : Int := if 2 ^ (n - 1) ≤ c then (c : Int) - 2 ^ n else c
        (f.num c = .nan → convertElem (.f f) (.i n) st c = 0) ∧
        convertElem (.i n) (.f f) st c = f.put st (.fin (decide (sg < 0)) sg.natAbs 0)) ∧
      (∀ (a b : Nat) (x y : Rat), has a x → has b y →
        elemCompare 0 (.f f) a b = decide (x = y) ∧ elemCompare 1 (.f f) a b = decide (x < y) ∧
        elemCompare 2 (.f f) a b = decide (x ≤ y)) ∧
      (∀ a b k, f.isNan a = true ∨ f.isNan b = true → elemCompare k (.f f) a b = false) ∧
      identSum (.f f) = 2 ^ (f.width - 1)) ∧
    (∀ (st neg : Bool) (m : Nat) (e : Int),
      let val (neg : Bool) (m : Nat) (e : Int) : Rat := (if neg then -(m : Rat) else m) * (2 : Rat) ^ e
      let size (v : Rat) : Rat := if v < 0 then -v else v
      let c := fmtE4m3.put st (.fin neg m e)
      (464 < size (val neg m e) → c = if st then (if neg then 0xFE else 0x7E) else if neg then 0xFF else 0x7F) ∧
      (size (val neg m e) ≤ 464 → ∃ s n g, fmtE4m3.num c = .fin s n g ∧ ∀ d s' n' g', fmtE4m3.num d = .fin s' n' g' →
        size (val s n g - val neg m e) ≤ size (val s' n' g' - val neg m e))) ∧
    (∀ n ∈ [8, 32], ∀ a b : Nat, a < 2 ^ n → b < 2 ^ n →
      let sg (c : Nat) : Int := if 2 ^ (n - 1) ≤ c then (c : Int) - 2 ^ n else c
      elemCompare 0 (.i n) a b = decide (sg a = sg b) ∧ elemCompare 1 (.i n) a b = decide (sg a < sg b) ∧
      elemCompare 2 (.i n) a b = decide (sg a ≤ sg b) ∧ identSum (.i n) = 0 ∧ sg (identMax (.i n)) = -(2 ^ (n - 1)) ∧
      sg (identMin (.i n)) = 2 ^ (n - 1) - 1) ∧
    (∀ f ∈ [fmtF32, fmtBf16, fmtF16, fmtF64], f.num (identMax (.f f)) = .inf true ∧ f.num (identMin (.f f)) = .inf false) ∧
    (∀ (st : Bool) (c : Nat), c < 2 ^ 32 →
      let sg : Int := if 2 ^ 31 ≤ c then (c : Int) - 2 ^ 32 else c
      convertElem (.i 32) (.i 8) st c = (if st then (max (-128) (min 127 sg) % 256).toNat else c % 256) ∧
      (c < 2 ^ 8 → convertElem (.i 8) (.i 32) st c = if 128 ≤ c then c + (2 ^ 32 - 2 ^ 8) else c)) ∧
    (∀ l, (fmtBf16.isNan imm.toNat = false → immLane 0 imm l = imm.toNat * 2 ^ 16) ∧ immLane 1 imm l = imm.toNat ∧
      immLane 2 imm l = imm.toNat ∧ immLane 5 imm l = (imm.signExtend 32).toNat ∧
      ∀ u ∈ [3, 4, 6], immLane u imm l = if l % 2 = 0 then imm.toNat % 256 else imm.toNat / 256)

/-- With their operands there and a well-formed route word, send, sendb and decr wait while the outbound queue holds 16 entries. With room, a message of the key and the class, port and priority of the route word, of the party's partition, depth and launch tag, and with x10 to x15, the 48 bytes read, or the amount to take off, joins the outbound queue for its home as a release, and counts as sent; rd reads 0. A message that the routing refuses, or whose ADDR key is not mapped (0x24), joins nothing: it counts as sent and as received, and the mailbox takes a record with the cause, the class, the key and the core. Where the home of an ADDR key waits for the walk of its page, the form is not executed and the walk is asked for (R380; that a unit walks before it routes is log 117, DEDUCED). A send of a supervisor core to class 0xFFFF goes to the core that its key names; decr and sendb to that class are discarded as messages to no class. A route word with a bit that must be zero takes 0x26 with the number of its register. -/
def Obligations.MessagesAreSent : Prop :=
  ∀ (s s1 s2 s3 : State) (rd rs1 rs2 : BitVec 5) (xs : BitVec 3) (kv r : Reg) (bs : List Byte), s.gives rs1 kv s1 →
    s1.src s.cur rs2 = .val (r, s2) →
    let p := s.cur
    let n := p.coreIx
    let x (i : Nat) : Reg := (s.ctx p).reg (BitVec.ofNat 5 (4 * xs.toNat + i))
    let hdr (w : BitVec 64) (kind : BitVec 2) (amount : BitVec 32) (c : Ctx) : BitVec 64 :=
      amount ++ 0#4 ++ (if p.isSup then 0 else c.ltag) ++ w.extractLsb' 19 8 ++ (if p.isSup then 0 else c.fdep) ++ kind ++ w.extractLsb' 16 2
    let msg (key w : BitVec 64) (kind : BitVec 2) (amount : BitVec 32) (pay : BitVec 384) (c : Ctx) : Message :=
      { part := if p.isSup then c.ctbsel else c.partid, cls := w.setWidth 16, key := key, hdr := hdr w kind amount c, pay := pay }
    let sends (i : Instr) (commands : Bool) (t : State) (m : Message) : Prop :=
      (16 ≤ (s.core n).outq.length → exec i s = .next s) ∧
      ((s.core n).outq.length < 16 → (commands = true ∧ p.isSup = true ∧ m.cls = 0xFFFF) →
        let d := Dest.command (m.key.extractLsb' 14 12).toNat (m.key.extractLsb' 0 14).toNat
        ∃ u, exec i s = .next u ∧ (u.core n).outq = (s.core n).outq ++
          [.msg m d ((t.ctx p).releaseAt p.ix (t.destScope n m.name d)) false] ∧ (u.ctx p).pc = (s.ctx p).pc + 4) ∧
      ((s.core n).outq.length < 16 → ¬(commands = true ∧ p.isSup = true ∧ m.cls = 0xFFFF) →
        let none' := p.isSup = true ∧ m.cls = 0xFFFF
        let d := if none' then 0 else (t.readDesc p.die.val m.part m.cls).1
        let t' := if none' then t else (t.readDesc p.die.val m.part m.cls).2
        let found : Prop := t'.homeMissing d m.part m.key = none
        let held := (t.ctx p).holdsSends p
        let f := (t.ctx p).firing
        let home := t'.homeOf p.die.val d m.part m.cls m.key
        let record (c : BitVec 6) : MailRec :=
          { cause := c, part := m.part, cls := m.cls, key := m.key, unit := 0, tuple := tupleOfCore n s.dev.num }
        let counted := (t'.sentUp n m.part (hdrLtag m.hdr)).recvUp n m.part (hdrLtag m.hdr)
        let refused (c : BitVec 6) : Prop := exec i s = .next (s.wrote (counted.report p.die.val (record c)) rd 0)
        (none' → routeRefusal d m.cls m.hdr = some 0x24) ∧
        (∀ va, t'.homeMissing d m.part m.key = some va → exec i s = .next (s.askUnit 0 p.die.val m.part va)) ∧
        (∀ dev die clu, found → routeRefusal d m.cls m.hdr = none → home = .at dev die clu →
          ∃ u, exec i s = .next u ∧ (u.core n).outq = (s.core n).outq ++
            [.msg (if held then { m with sender := some (f.part, f.cls, f.key) } else m) (.home dev die clu)
              ((t.ctx p).releaseAt p.ix (t'.destScope n m.name (.home dev die clu))) held] ∧
            (u.core n).sent = countUp (s.core n).sent m.part (hdrLtag m.hdr) ∧ u.dies = s.dies ∧
            (u.ctx p).pc = (s.ctx p).pc + 4 ∧ (rd ≠ 29#5 → (u.ctx p).reg rd = 0)) ∧
        (∀ c, found → routeRefusal d m.cls m.hdr = some c → refused c) ∧
        (found → routeRefusal d m.cls m.hdr = none → home = .unmapped → refused 0x24))
    (s.exeReady rd [rs1, rs2] →
      let w := capAddr r
      let c := s2.ctx p
      let kind : BitVec 2 := if w.getLsbD 18 then 2 else 0
      let regs : BitVec 384 := capAddr (c.reg 15) ++ capAddr (c.reg 14) ++ capAddr (c.reg 13) ++ capAddr (c.reg 12) ++
        capAddr (c.reg 11) ++ capAddr (c.reg 10)
      ((s.ctx p).awaits payloadRegs = false →
        (w.extractLsb' 27 37 = 0#37 → sends (.send rd rs1 rs2) true s2 (msg (capAddr kv) w kind 0 regs c)) ∧
        (w.extractLsb' 27 37 ≠ 0#37 → exec (.send rd rs1 rs2) s = .next (takeTrap s p 0x26 (rs2.setWidth 64)))) ∧
      (w.extractLsb' 27 5 = 0#5 → w.getLsbD 18 = false →
        sends (.decr rd rs1 rs2) false s2 (msg (capAddr kv) w 1 (w.extractLsb' 32 32) 0 c))) ∧
    (s.exeReady rd [] → (s.ctx p).awaits (xsRegs xs) = false → checkCap p.isSup (x 2) (capAddr (x 2)).toNat 48 permLoad false = none →
      State.readBytes s s p .r (capAddr (x 2)).toNat 48 = .val (bs, s3) → (capAddr (x 1)).extractLsb' 27 37 = 0#37 →
      capAddr (x 3) = 0#64 → sends (.sendb rd xs) false s3 (msg (capAddr (x 0)) (capAddr (x 1))
        (if (capAddr (x 1)).getLsbD 18 then 2 else 0) 0 (BitVec.ofNat 384 (leNat bs)) (s.ctx p)))

/-- In a firing, mpop gives the header of the next message not yet taken, takes it and writes its payload to x10 to x15; mpeek gives the header alone and mdrop takes the message alone; with none left, mpop and mpeek give all ones. done ends any firing that the access half holds no store of, whose matrix operations have ended without a cause, and whose stores have drained where a fault message of a sequence trap is to go; wait and bank so end a keyed firing, with the address after the form as the handler of a counter below the count, or with the intent to bank. pin sets or clears the pin of the actor at its host. Each of these forms takes 0x27 in a supervisor core, and wait, bank and pin, forms of a keyed firing, in a sheet as well. -/
def Obligations.FiringForms : Prop :=
  (∀ (s : State) (rd rs1 : BitVec 5) (a : Reg), s.inFiring →
    let p := s.cur
    let f := (s.ctx p).firing
    let pay (m : Message) (c : Ctx) : Ctx :=
      (((((c.setReg 10 (dataReg (payWord m.pay 0))).setReg 11 (dataReg (payWord m.pay 1))).setReg 12 (dataReg (payWord m.pay 2))).setReg
        13 (dataReg (payWord m.pay 3))).setReg 14 (dataReg (payWord m.pay 4))).setReg 15 (dataReg (payWord m.pay 5))
    let take (c : Ctx) : Ctx := { c with firing := { c.firing with untaken := c.firing.untaken.drop 1 } }
    let synced (t : State) : Prop := (s.ctx p).acc.any AccItem.isStore = false ∧ t.opsQueued p = false ∧ (t.ctx p).deferred = [] ∧
      ((t.ctx p).reportsSeq = true → t.released ((t.ctx p).releaseAt p.ix 2) = true)
    let ends (t : State) (g : Firing → Firing) : State :=
      (t.deliverSeq p).mod p fun c => { c with run := .ending, firing := g c.firing }
    (s.exeReady rd [] →
      (∀ m rest, f.untaken = m :: rest →
        ((s.ctx p).awaits payloadRegs = false →
          exec (.mpop rd) s = .next (s.wrote (s.mod p fun c => pay m (take c.sync)) rd (dataReg m.hdr))) ∧
        exec (.mpeek rd) s = .next (s.wrote s rd (dataReg m.hdr))) ∧
      (f.untaken = [] → ((s.ctx p).awaits payloadRegs = false → exec (.mpop rd) s = .next (s.wrote (s.mod p Ctx.sync) rd (dataReg (-1)))) ∧
        exec (.mpeek rd) s = .next (s.wrote s rd (dataReg (-1))))) ∧
    (s.exeReady 0#5 [] → exec .mdrop s = .next (s.wrote (s.mod p take) 0#5 0) ∧
      (synced s → exec .done s = .next (ends s id) ∧
        (f.sheet = false → exec .bank s = .next (ends s fun g => { g with bankAfter := true }))) ∧
      (f.sheet = true → exec .bank s = .next (takeTrap s p 0x27 0))) ∧
    (s.exeReady 0#5 [rs1] → ∀ t, s.gives rs1 a t →
      (f.sheet = false → (capAddr a).toNat < counterCount f.desc → synced t → exec (.wait rs1) s =
        .next (ends t fun g => { g with waitCounter := some ((capAddr a).toNat, (s.ctx p).pc + 4) })) ∧
      (f.sheet = false → counterCount f.desc ≤ (capAddr a).toNat → exec (.wait rs1) s = .next (takeTrap s p 0x27 0)) ∧
      (f.sheet = false → ∀ y, (t.core p.coreIx).actor (f.part, f.cls, f.key) = some y →
        exec (.pin rs1) s = .next (s.wrote (t.setPin p.coreIx y.home (f.part, f.cls, f.key) ((capAddr a).getLsbD 0)) 0#5 0)) ∧
      (f.sheet = true → exec (.wait rs1) s = .next (takeTrap s p 0x27 0) ∧ exec (.pin rs1) s = .next (takeTrap s p 0x27 0)))) ∧
  ∀ (s t : State) (rd rs1 : BitVec 5) (a : Reg), s.cur.isSup = true →
    let refused (i : Instr) : Prop := exec i s = .next (takeTrap s s.cur 0x27 0)
    (s.exeReady rd [] → refused (.mpop rd) ∧ refused (.mpeek rd)) ∧
    (s.exeReady 0#5 [] → refused .mdrop ∧ refused .done ∧ refused .bank) ∧
    (s.exeReady 0#5 [rs1] → s.gives rs1 a t → refused (.wait rs1) ∧ refused (.pin rs1))

/-- spawn of a well-formed range record of depth one more than its firing's, or of any depth in a supervisor core, whose list or count it may read, takes a free record of the pool and answers its number times 65,536; it answers 1 where no record is free, and 2 in a firing of depth 15. shpush in a firing puts its sheet, with the firing's launch tag and depth, at the bottom of the quire and counts it as sent, answers 0 with room on chip, 1 where the oldest goes to the overflow area, and 2 with none (the room of that area is log 19, DESIGN CHOICE). lwait in a keyed firing asks the sweep root and waits for the answer (that the request reaches the root, and the answer stands queued, in the issuing step is log 66, DEDUCED). carry puts one operation with the 24 bytes of code in the outbound queue for the owner of the scratchpad block, waits while the queue is full, and with rd = x0 goes on at once. -/
def Obligations.LaunchAndCarryForms : Prop :=
  ∀ (s s1 s2 : State) (rd rs1 rs2 : BitVec 5) (xs : BitVec 3) (a b : Reg) (qs : List Nat) (bs : List Byte),
    let p := s.cur
    let c := s.ctx p
    let n := p.coreIx
    let x (i : Nat) : Reg := c.reg (BitVec.ofNat 5 (4 * xs.toNat + i))
    let w := capAddr (x 0)
    let launch : LaunchRec :=
      { part := if p.isSup then c.ctbsel else c.partid, w0 := w, w1 := capAddr (x 1), w2 := capAddr (x 2), w3 := x 3,
        core := n, sup := p.isSup }
    (s.exeReady rd [] →
      (c.awaits (xsRegs xs) = false → p.isSup = false → c.fdep = 15 → exec (.spawn rd xs) s = .next (s.wrote s rd (dataReg 2))) ∧
      (c.awaits (xsRegs xs) = false → recMalformed w = false → (p.isSup = true ∨ (c.fdep ≠ 15 ∧ recDepth w = c.fdep + 1)) →
        (recCsrc w = 1 → checkCap p.isSup (x 3) (capAddr (x 3)).toNat 64 permLoad false = none) →
        (recCsrc w = 2 → checkCap p.isSup (x 3) (capAddr (x 3)).toNat 8 permLoad false = none) →
        ((s.die p.die.val).freeRecord (recDepth w).toNat = none → exec (.spawn rd xs) s = .next (s.wrote s rd (dataReg 1))) ∧
        (∀ m : Nat, (s.die p.die.val).freeRecord (recDepth w).toNat = some m → ∃ t : State, exec (.spawn rd xs) s = .next t ∧
          ((t.die p.die.val).pool.find m) = some launch ∧
          (t.ctx p).pc = c.pc + 4 ∧ (rd ≠ 0#5 → rd ≠ 29#5 → (t.ctx p).reg rd = dataReg (BitVec.ofNat 64 (m * 0x10000)))))) ∧
    (s.exeReady rd [] → c.awaits (xsRegs xs) = false → p.isSup = false →
      let y : Sheet :=
        { part := c.partid, d0 := w.extractLsb' 32 32 ++ c.fdep ++ c.ltag ++ w.extractLsb' 0 16, d1 := capAddr (x 1),
          d2 := capAddr (x 2), d3 := capAddr (x 3) }
      let k := s.core n
      let pushed (k' : Core) (v : BitVec 64) : Prop :=
        exec (.shpush rd xs) s = .next (s.wrote ((s.setCore n k').sentUp n c.partid c.ltag) rd (dataReg v))
      (k.quire.length < 256 → pushed { k with quire := k.quire ++ [y] } 0) ∧
      (256 ≤ k.quire.length → k.quireOvf.length < k.quireRoom →
        pushed { k with quire := k.quire.drop 1 ++ [y], quireOvf := k.quireOvf ++ k.quire.take 1 } 1) ∧
      (256 ≤ k.quire.length → k.quireRoom ≤ k.quireOvf.length → exec (.shpush rd xs) s = .next (s.wrote s rd (dataReg 2)))) ∧
    (s.exeReady rd [rs1, rs2] → p.isSup = false → c.firing.sheet = false → s.gives rs1 a s1 → s1.src p rs2 = .val (b, s2) →
      ∃ t : State, exec (.lwait rd rs1 rs2) s = .next t ∧ (t.ctx p).pc = c.pc ∧
        (∃ wt : Waiting, (t.ctx p).waiting = some wt ∧ wt.form = .lwait ∧ wt.rd = rd ∧ wt.pc = c.pc ∧
          (t.ctx p).reply = (s2.ctx p).reply ++ [{ id := wt.id, val := if 256 ≤ s.noticeCount c.partid then 1 else 0 }]) ∧
        let armed : Notice :=
          { part := c.partid, tag := (capAddr a).setWidth 12, port := (capAddr b).setWidth 2, cls := c.kcls, key := c.kkey }
        t.dev.notices = (if 256 ≤ s.noticeCount c.partid then s.dev.notices else s.dev.notices ++ [armed])) ∧
    (s.exeReady rd [] → c.awaits (xsRegs xs) = false →
      let q := (capAddr (x 0)).toNat
      let code := (capAddr (x 1)).toNat
      ∀ z : Nat, s.reaches p (x 0) q 32 (permLoad ||| permStore) .rw qs → checkCap p.isSup (x 1) code 24 (permLoad ||| permExec) false = none →
        State.readBytes s s p .r code 24 = .val (bs, s1) → q % 32 = 0 → windowPlace p q = some z → code % 4 = 0 →
        (16 ≤ (s.core n).outq.length → exec (.carry rd xs) s = .next s) ∧
        ((s.core n).outq.length < 16 → ∃ (t : State) (o : Op), exec (.carry rd xs) s = .next t ∧
          (t.core n).outq = (s.core n).outq ++ [.carry o] ∧ o.kind = .carry ∧ o.addr = z ∧ o.owner = spCore z ∧ o.size = 32 ∧
          o.pay = BitVec.ofNat 64 q ++ capAddr (x 3) ++ capAddr (x 2) ++ BitVec.ofNat 192 (leNat bs) ∧
          (t.core n).sent = countUp (s.core n).sent o.part o.ltag ∧
          (rd = 0#5 → (t.ctx p).pc = c.pc + 4 ∧ (t.ctx p).waiting = c.waiting) ∧
          (rd ≠ 0#5 → (t.ctx p).pc = c.pc ∧ ∃ wt : Waiting, (t.ctx p).waiting = some wt ∧ wt.form = .carry ∧ wt.rd = rd ∧ wt.id = o.id)))

/-- In a firing whose operands are there and pass the form's checks, tcfg, mzero, mload, mma and mmag enter the core's matrix queue with their operands sampled, after the operations that stand there, and the pc moves on; at a full queue of eight they wait and change nothing. tcfg, mzero and mload drop the configuration held for their tiles, so that the next mma is a tile start; the first mma of a tile samples the format and scale CSRs of its context, and the configuration that it samples is held for the mma and mmag that follow. M is ROWS, or with ROWS = 0 what a well-formed deckle gives. A pair of formats without a class takes 0x30. A member of a gang waits for the lead's part, whose A format its class is found with (log 24, DEDUCED). mgang of the eighth context at the cluster's barrier forms the gang and every member goes on; a member passes. dkl gives an extent, or the product of the extents. -/
def Obligations.MatrixFormsAtIssue : Prop :=
  ∀ (s s1 s2 : State) (md rd rs1 rs2 : BitVec 5) (a b : Reg), s.inFiring → s.gives rs1 a s1 → s1.src s.cur rs2 = .val (b, s2) →
    let p := s.cur
    let n := p.coreIx
    let k := s.core n
    let t := k.issueTiles
    let v := capAddr a
    let pair := pairTiles t md.toNat
    let acc := (t.getD md.toNat {}).acc
    let enters (i : Instr) (kind : MKind) (ts : List Nat) (conf : Option TileConf) (o' : MOp → Prop) : Prop :=
      (8 ≤ k.mq.length → exec i s = .next s) ∧
      (k.mq.length < 8 → ∃ u o, exec i s = .next u ∧ (u.core n).mq = k.mq ++ [o] ∧ (u.ctx p).pc = (s.ctx p).pc + 4 ∧
        o.kind = kind ∧ o.md = md ∧ o.tiles = ts ∧ o.ctx = ctxNoOf p ∧ o.stores = (s.ctx p).storeCount ∧ o.addr = (s.ctx p).pc ∧
        o.started = false ∧ o' o ∧ (∀ j, ((u.core n).tiles.getD j {}).data = (k.tiles.getD j {}).data) ∧
        ∀ j ∈ ts, ((u.core n).tiles.getD j {}).conf = conf)
    (s.exeReady 0#5 [rs1] → v.toNat < 3 → ¬(v = 2 ∧ md.getLsbD 0 = true) →
      enters (.tcfg md rs1) (.tcfg (v.setWidth 2)) (tcfgTiles t md.toNat (v.setWidth 2)) none fun _ => True) ∧
    (s.exeReady 0#5 [] → acc ≠ 3#2 → enters (.mzero md) .mzero pair none fun _ => True) ∧
    (s.exeReady 0#5 [rs1] → acc ≠ 3#2 → v.toNat % 64 = 0 →
      let len := if acc = 2#2 then 2048 else 1024
      ∀ bs s3, v.toNat + len ≤ 0x20000 → checkCap p.isSup a v.toNat len permLoad false = none →
      State.readBytes s s1 p .r v.toNat len = .val (bs, s3) →
      enters (.mload md rs1) (.mload (BitVec.ofNat 16384 (leNat bs))) pair none fun _ => True) ∧
    (s.exeReady 0#5 [rs1, rs2] → mwBad v = false → (k.cb (mwBring v).toNat).valid = true →
      let held := (k.tiles.getD md.toNat {}).conf
      let now : TileConf := { fmtA := (s.ctx p).fmtA, fmtB := (s.ctx p).fmtB, sclA := (s.ctx p).sclA, sclB := (s.ctx p).sclB }
      let conf := held.getD now
      let g := (s.clu (cluOfCore n)).gang
      let num := (s.ctx p).gangCount + 1
      let rowsAre (m : Nat) (s3 : State) : Prop := (mwRows v ≠ 0 ∧ m = mwRows v ∧ s3 = s1) ∨
        (mwRows v = 0 ∧ (capAddr b).toNat % 64 = 0 ∧ ∃ d s4 e, State.readDeckle s s2 p b = .val (d, s4) ∧ dkMalformed d = false ∧
          mwDdim v < dkRank d ∧ State.extent s s4 p b (capAddr b).toNat d (mwDdim v) = .val (e, s3) ∧ m = min 16 (e - mwRow0 v))
      let fits (f : BitVec 64) (r : BitVec 4) (c : MClass) : Prop := lineNeed (cfgFmt f) c.k ≤ (k.cb r.toNat).pitch
      ((k.cb (mwAring v).toNat).valid = true → ∀ m s3, rowsAre m s3 →
        (∀ c, matClass (cfgFmt conf.fmtA) (cfgFmt conf.fmtB) = some c → acc = c.acc → fits conf.fmtA (mwAring v) c →
          fits conf.fmtB (mwBring v) c → enters (.mma md rs1 rs2) .mma pair (some conf) fun o =>
            o.conf = conf ∧ o.first = held.isNone ∧ o.aring = mwAring v ∧ o.bring = mwBring v ∧ o.rows = m) ∧
        (∀ c, (s.ctx p).gangMember = true → g.lead = some p.ix →
          matClass (cfgFmt conf.fmtA) (cfgFmt conf.fmtB) = some c → acc = c.acc → fits conf.fmtA (mwAring v) c →
          fits conf.fmtB (mwBring v) c → enters (.mmag md rs1 rs2) (.mmag g.gen num) pair (some conf) fun o =>
            o.conf = conf ∧ o.rows = m) ∧
        (matClass (cfgFmt conf.fmtA) (cfgFmt conf.fmtB) = none → exec (.mma md rs1 rs2) s =
          .next (takeTrap s p 0x30 (BitVec.ofNat 64 (cfgFmt conf.fmtA + 16 * cfgFmt conf.fmtB))))) ∧
      (∀ q, (s.ctx p).gangMember = true → g.lead = some q → q ≠ p.ix →
        ((s.ctx (partyOf q)).gangCount < num → exec (.mmag md rs1 rs2) s = .next s) ∧
        (∀ l c, num ≤ (s.ctx (partyOf q)).gangCount → (s.core (partyOf q).coreIx).gangPart g.gen num = some l →
          matClass (cfgFmt l.conf.fmtA) (cfgFmt conf.fmtB) = some c → acc = c.acc → fits conf.fmtB (mwBring v) c →
          enters (.mmag md rs1 rs2) (.mmag g.gen num) pair (some conf) fun o => o.conf = conf ∧ o.rows = mwRows v))) ∧
    (s.exeReady 0#5 [] →
      let c := cluOfCore n
      let g := (s.clu c).gang
      ((s.ctx p).gangMember = true → exec .mgang s = .next (s.advance p)) ∧
      ((s.ctx p).gangMember = false → (g.formed = true → ∀ x ∈ g.members, x.1 ≠ n) →
        (∀ x ∈ g.atBarrier, x.1 ≠ n ∧ x.2.1 ≠ p.ix ∧ x.2.2 = (s.ctx p).partid) →
        (g.atBarrier.length < 7 →
          let g' : MGang := { g with atBarrier := g.atBarrier ++ [(n, p.ix, (s.ctx p).partid)] }
          exec .mgang s = .next (s.setClu c { s.clu c with gang := g' })) ∧
        (g.atBarrier.length = 7 → ∃ u, exec .mgang s = .next u ∧ (u.clu c).gang.formed = true ∧ (u.clu c).gang.atBarrier = [] ∧
          (u.clu c).gang.members = g.atBarrier.map (fun x => (x.1, x.2.1)) ++ [(n, p.ix)] ∧
          ∀ q, s.ctxs.find q.ix ≠ none → q.ix ∈ (u.clu c).gang.members.map (·.2) →
            (u.ctx q).gangMember = true ∧ (u.ctx q).pc = (s.ctx q).pc + 4))) ∧
    (s.exeReady rd [rs1, rs2] → v.toNat % 64 = 0 →
      ∀ d s3, State.readDeckle s s2 p a = .val (d, s3) → dkMalformed d = false →
      let i := (capAddr b).toNat
      (i < dkRank d → i < 8 → ∀ x s4, State.extent s s3 p a v.toNat d i = .val (x, s4) →
        exec (.dkl rd rs1 rs2) s = .next (s.wrote s4 rd (dataReg (BitVec.ofNat 64 x)))) ∧
      (i = 8 → ∀ x s4, State.extentProduct s s3 p a v.toNat d (dkRank d) = .val (x, s4) →
        exec (.dkl rd rs1 rs2) s = .next (s.wrote s4 rd (dataReg (BitVec.ofNat 64 (min x (2 ^ 64 - 1)))))))

/-- The first operation of a core's queue that has a slot still to take takes a filled slot of its A ring, then one of its B ring, which become held; while none is to be had it stands among those who wait for the ring. The first operation that has not started starts once it has its slots. Operations retire from the front, those of different tiles too (log 70, DESIGN CHOICE): tcfg sets the tile's format and clears its status, mzero and mload write the tile and make it live, and an mma, once its party's earlier stores have drained, of a tile that is poisoned changes no tile. A part of a gang operation waits until the lead's part is the oldest of its queue and the lead's earlier stores have drained; what the lead then reads of A every part has. A gang operation starts for all its members together once each has issued it and has its slots. msync passes once no operation of the party is queued and the stores before a fault message of a sequence trap have drained, takes the oldest deferred cause, and mchk gives the status of a tile that no queued operation names. -/
def Obligations.MatrixOperations : Prop :=
  ∀ (s : State) (c : CoreId) (o : MOp) (rest : List MOp) (mm : Nat),
    let n := c.ix
    let k := s.core n
    let gets (k : Core) (r : BitVec 4) : Prop := (k.cb r.toNat).canGet .matrix = true
    let out (k : Core) (r : BitVec 4) : Core := k.setCb r.toNat ((k.cb r.toNat).takeFilled .matrix)
    let waits (k : Core) (r : BitVec 4) : Core :=
      k.setCb r.toNat { k.cb r.toNat with waitFilled := joinWait (k.cb r.toNat).waitFilled .matrix }
    let slot (k : Core) (r : BitVec 4) : Nat := (k.cb r.toNat).slotAddr (k.cb r.toNat).cidx
    let starts (k : Core) : Prop :=
      (∀ x, k.nextOp = some x → (∃ f, x.kind = .tcfg f) ∨ x.kind = .mzero ∨ (∃ b, x.kind = .mload b) ∨ (x.kind = .mma ∧ x.bslot ≠ none) →
        exec (.matrixOpStart c) s = .next (s.setCore n (k.setOp { x with started := true }))) ∧
      (k.nextOp = none ∨ (∃ x, k.nextOp = some x ∧ ((x.kind = .mma ∧ x.bslot = none) ∨ ∃ g i, x.kind = .mmag g i)) →
        exec (.matrixOpStart c) s = .next (s.setCore n k))
    let needsA : Prop := o.aslot = none ∧ (o.kind = .mma ∨ n % 8 = 0)
    let takesB (k : Core) (o : MOp) : Prop :=
      (¬gets k o.bring → starts ((waits k o.bring).setOp o).joinNext) ∧
      (gets k o.bring → starts ((out k o.bring).setOp { o with bslot := some (slot k o.bring) }).joinNext)
    let retires (k' : Core) : Prop := ∃ u, exec (.matrixOpRetire c mm) s = .next u ∧ u.core n = k' ∧ (∀ j, j ≠ n → u.core j = s.core j) ∧
      u.ctxs = s.ctxs ∧ u.dies = s.dies
    (k.slotOp = none → starts k) ∧
    (k.slotOp = some o → o.bslot = none →
      let oa := { o with aslot := some (slot k o.aring) }
      (needsA → ¬gets k o.aring → starts ((waits k o.aring).setOp o).joinNext) ∧
      (needsA → gets k o.aring → takesB ((out k o.aring).setOp oa).joinNext oa) ∧
      (¬needsA → takesB (k.setOp o).joinNext o)) ∧
    (k.mq = o :: rest → o.started = true →
      (∀ f, o.kind = .tcfg f → retires { k with mq := rest, tiles := tcfgStep k.tiles o.md.toNat f }) ∧
      (o.kind = .mzero → retires { k with mq := rest, tiles := writeStep k.tiles o.md.toNat 0 }) ∧
      (∀ b, o.kind = .mload b → retires { k with mq := rest, tiles := writeStep k.tiles o.md.toNat b }) ∧
      (o.kind = .mma → (s.ctx (.ctx c (Fin.ofNat 4 o.ctx))).drained < o.stores → exec (.matrixOpRetire c mm) s = .next s) ∧
      (o.kind = .mma → o.stores ≤ (s.ctx (.ctx c (Fin.ofNat 4 o.ctx))).drained → o.first = false →
        (k.tiles.getD o.md.toNat {}).poison = true → ∃ u, exec (.matrixOpRetire c mm) s = .next u ∧
          (u.core n).mq = rest ∧ (u.core n).tiles = k.tiles)) ∧
    (k.mq = o :: rest → o.started = false → exec (.matrixOpRetire c mm) s = .next s) ∧
    (k.mq = o :: rest → o.started = true → ∀ gen m, o.kind = .mmag gen m →
      let q := c.die.val * 256 + c.clu.val
      (o.akstep = none → ∀ l, (s.core o.acore).gangPart gen m = some l →
        ((s.core o.acore).mq.head?.map (·.seq) ≠ some l.seq ∨
          (s.ctx (.ctx (coreIdOf o.acore) (Fin.ofNat 4 l.ctx))).drained < l.stores) → exec (.matrixOpRetire c mm) s = .next s) ∧
      (∀ v cells, s.leadRead o gen m = some (v, cells) →
        ((s.ctx (.ctx c (Fin.ofNat 4 o.ctx))).drained < o.stores → exec (.matrixOpRetire c mm) s = .next s) ∧
        (o.stores ≤ (s.ctx (.ctx c (Fin.ofNat 4 o.ctx))).drained → o.first = false → (k.tiles.getD o.md.toNat {}).poison = true →
          ∃ u, exec (.matrixOpRetire c mm) s = .next u ∧ (u.core n).tiles = k.tiles ∧
            ∀ j, j < 8 → q * 8 + j ≠ n → ∀ x, (u.core (q * 8 + j)).gangPart gen m = some x → x.akstep = some v ∧ x.acells = some cells))) ∧
    (∀ (t : Map Tile) (m f), (tcfgStep t m f).getD m {} = { acc := f, reconf := (t.getD m {}).live, conf := (t.getD m {}).conf }) ∧
    (∀ (t : Map Tile) (m b), (t.getD m {}).acc ≠ 3#2 → ((writeStep t m b).getD m {}).data = b.setWidth 8192 ∧ ((writeStep t m b).getD m {}).live = true ∧
      ((writeStep t m b).getD m {}).poison = false ∧ ((writeStep t m b).getD m {}).acc = (t.getD m {}).acc) ∧
    (∀ (die : Fin 8) (clu : Fin 256) (gen m : Nat),
      let q := die.val * 256 + clu.val
      let cores := (List.range 8).map fun i => q * 8 + i
      s.nextGangOp q = some (gen, m) →
      (s.allIssued q gen m = false → exec (.gangOpStart die clu) s = .next s) ∧
      (s.allIssued q gen m = true →
        let s1 := cores.foldl (fun s core => s.setCore core ((s.core core).takeNext core)) s
        let ready := ∀ core ∈ cores, ∀ x, (s1.core core).gangPart gen m = some x →
          ((s1.core core).nextOp.map (·.seq)) = some x.seq ∧ x.bslot ≠ none ∧ (core % 8 = 0 → x.aslot ≠ none)
        (¬ready → exec (.gangOpStart die clu) s = .next s1) ∧
        (ready → ∃ u, exec (.gangOpStart die clu) s = .next u ∧ ∀ core ∈ cores, ∀ x, (s1.core core).gangPart gen m = some x →
          ∃ y ∈ (u.core core).mq, y.seq = x.seq ∧ y.started = true ∧ y.bslot = x.bslot))) ∧
    (∀ rd ms : BitVec 5, s.inFiring →
      let p := s.cur
      let quiet := (s.ctx p).reportsSeq = true → s.released ((s.ctx p).releaseAt p.ix 2) = true
      (s.exeReady 0#5 [] →
        (s.opsQueued p = false → (s.ctx p).deferred = [] → quiet → exec .msync s = .next ((s.deliverSeq p).advance p)) ∧
        (s.opsQueued p = false → (s.ctx p).deferred = [] → ¬quiet → exec .msync s = .next s) ∧
        (s.opsQueued p = false → ∀ d ds, (s.ctx p).deferred = d :: ds → exec .msync s = .next (takeTrap s p d.cause d.addr)) ∧
        (s.opsQueued p = true → exec .msync s = .next s)) ∧
      (s.exeReady rd [] → (∀ o ∈ (s.core p.coreIx).mq, ms.toNat ∉ o.tiles) →
        let x := (s.core p.coreIx).tiles.getD ms.toNat {}
        exec (.mchk rd ms) s = .next (s.wrote (s.mod p fun y => { y with mhold := none }) rd (dataReg
          (0#32 ++ x.kstep ++ x.rerun ++ BitVec.ofBool x.reconf ++ x.pcause ++ BitVec.ofBool x.poison ++ BitVec.ofBool x.live ++ x.acc)))))

/-- mdrain of a tile that no queued operation names, to memory, without bias or tap, completes where its word, its destination and its tile are in range, the tile is not poisoned, no cause is deferred for it, the party may write the rows and the access half holds nothing: the rows are stored at their pitch with their elements converted, and with FREE the tile is zeroed and no longer live. In the context that holds the selection engine a form first reads its columns, one block a turn in any order, each turn leaving the form in its place; once they are read selstep counts the candidates on each side of the next plane, selcut keeps one side, selrun takes the step and then the cut of each plane by its mode and gives its verdict after the last, and selget gives a value and releases the engine with bit 8; in any other context they take 0x36. selld whose descriptor and columns pass their checks claims a free engine that no other claims, reads the codes that it needs in the same way, and loads it; while another context holds it the claim waits with the descriptor, and the grant gives a free engine to the oldest claim, whose selld then loads it. -/
def Obligations.DrainsAndSelection : Prop :=
  ∀ (s s1 s2 : State) (md rd rs1 rs2 : BitVec 5) (a b : Reg) (qs : List Nat), s.inFiring → s.gives rs1 a s1 → s1.src s.cur rs2 = .val (b, s2) →
    let p := s.cur
    let n := p.coreIx
    let e := capAddr b
    let x := (s.core n).tiles.getD md.toNat {}
    let at' := (capAddr a).toNat
    let free : Prop := (s.ctx p).acc = []
    (∀ t, s.exeReady 0#5 [rs1, rs2] → free → (∀ o ∈ (s.core n).mq, md.toNat ∉ o.tiles) → epType e = some t → epStrm e = false →
      epTapen e = false → epBias e = false → 1 ≤ epRows e → epRows e ≤ 16 → x.acc ≠ 3#2 → x.poison = false →
      (∀ d ∈ (s.ctx p).deferred, d.tile ≠ md) →
      let sz := t.bits / 8
      let pitch := if epPitch e = 0 then 16 * sz else 64 * epPitch e
      let len := (epRows e - 1) * pitch + 16 * sz
      at' + len ≤ 0x20000 → s2.storable p a at' len permStore false qs →
      ∃ u rows, s2.drainRows p e t x.acc (tileCodes (s.core n).tiles md.toNat) none = some (rows, s2) ∧ rows.length = epRows e ∧
        exec (.mdrain md rs1 rs2) s = .next u ∧ (u.ctx p).pc = (s.ctx p).pc + 4 ∧
        (u.ctx p).sb = ((s2.writeRows p at' pitch (rows.map (rowBytes sz))).ctx p).sb ∧
        (u.core n).tiles = mapTiles (s.core n).tiles (pairTiles (s.core n).tiles md.toNat) (fun _ y =>
          if epFree e then { y with data := 0, live := false, conf := none } else { y with conf := none })) ∧
    (∀ k : Sel, s.sel p = k →
      let keyOf (t : State) (i : Nat) : Nat := t.selKey p k.desc i
      let weight (t : State) (i : Nat) : Nat := t.selWeight p k.desc i
      let sound (t : State) (ks ws : List Nat) : Prop := t.selFault p k.desc ks ws = none
      let left (ks ws : List Nat) : List Nat := blocksLeft (s.ctx p).part (selPlaces p k.desc ks ws)
      let turn (i : Instr) (ks ws : List Nat) : Prop := left ks ws ≠ [] → exec i s = .next (s.fresh.2.mod p fun c =>
        { c with part := c.part ++ s.blockCells p (selPlaces p k.desc ks ws) (pickOf s.fresh.1 (left ks ws)) })
      let done' (u : State) : State := u.mod p fun c => { c with part := [] }
      (k.holder = some p.ix →
        (s.exeReady rd [] → free → k.pl ≠ 0 → sound s k.cands k.cands →
          turn (.selstep rd) k.cands k.cands ∧
          (left k.cands k.cands = [] → exec (.selstep rd) s = .next (s.wrote (done' (s.setSel p (k.step (keyOf s) (weight s)))) rd
            (dataReg (BitVec.ofNat 64 (k.step (keyOf s) (weight s)).lz))))) ∧
        (s.exeReady 0#5 [rs1] → free → at' < 2 → k.pl ≠ 0 → sound s1 k.cands [] →
          let gone := k.out (keyOf s1) (at' == 1)
          turn (.selcut rs1) k.cands [] ∧
          (left k.cands [] = [] → sound s1 [] gone →
            turn (.selcut rs1) k.cands gone ∧
            (left k.cands gone = [] → exec (.selcut rs1) s =
              .next (s.wrote (done' (s1.setSel p (k.cut (keyOf s1) (weight s1) (at' == 1)))) 0#5 0)))) ∧
        (s.exeReady rd [rs1, rs2] → e.toNat < 4 → (2 ≤ e.toNat → selWgt k.desc = true) →
          let m := e.toNat
          let t := capAddr a
          let ends := k.undo = none ∧ k.outside m t = true
          let undo := some (k.undo.getD k.toSelFields)
          (ends → exec (.selrun rd rs1 rs2) s = .next (s.wrote s2 rd (dataReg 1))) ∧
          (¬ends → free → k.pl ≠ 0 → k.keepOnes = none → sound s2 k.cands k.cands →
            let k1 := k.step (keyOf s2) (weight s2)
            turn (.selrun rd rs1 rs2) k.cands k.cands ∧
            (left k.cands k.cands = [] → exec (.selrun rd rs1 rs2) s =
              .next (done' (s.setSel p { k1 with undo := undo, keepOnes := some (!k1.keepsZeros m t) })))) ∧
          (∀ ones, ¬ends → free → k.pl ≠ 0 → k.keepOnes = some ones → sound s2 k.cands [] →
            let gone := k.out (keyOf s2) ones
            turn (.selrun rd rs1 rs2) k.cands [] ∧
            (left k.cands [] = [] → sound s2 [] gone →
              turn (.selrun rd rs1 rs2) k.cands gone ∧
              (left k.cands gone = [] → exec (.selrun rd rs1 rs2) s =
                .next (done' (s.setSel p { k.cut (keyOf s2) (weight s2) ones with undo := undo, keepOnes := none }))))) ∧
          (¬ends → free → k.pl = 0 →
            let ws := if m < 2 then [] else k.cands
            sound s2 [] ws →
            turn (.selrun rd rs1 rs2) [] ws ∧
            (left [] ws = [] → exec (.selrun rd rs1 rs2) s = .next (s.wrote (done' (s2.setSel p { k with undo := none, keepOnes := none }))
              rd (dataReg (BitVec.ofNat 64 (k.verdict (weight s2) m t))))))) ∧
        (s.exeReady rd [rs1] → at' < 512 → at' % 256 ≤ 12 → (at' % 256 = 6 → free) →
          let ws := if at' % 256 = 6 then k.cands else []
          sound s1 [] ws →
          turn (.selget rd rs1) [] ws ∧
          (left [] ws = [] → exec (.selget rd rs1) s = .next (s.wrote
            (if (capAddr a).getLsbD 8 then (done' s1).releaseSel p else done' s1) rd (dataReg (k.value (weight s1) (at' % 256))))))) ∧
      (k.holder ≠ some p.ix →
        let refused (i : Instr) : Prop := exec i s = .next (takeTrap s p 0x36 0)
        (s.exeReady rd [] → refused (.selstep rd)) ∧ (s.exeReady 0#5 [rs1] → refused (.selcut rs1)) ∧
        (s.exeReady rd [rs1] → refused (.selget rd rs1)) ∧ (s.exeReady rd [rs1, rs2] → refused (.selrun rd rs1 rs2)))) ∧
    (s.exeReady 0#5 [rs1] →
      let k := s.sel p
      let mine (d : BitVec 512) : State := if k.holder = some p.ix ∧ k.granted ≠ none then s else
        (s.mod p fun c => { c with part := [] }).setSel p { k with
          holder := some p.ix, granted := some d, claims := k.claims.filter (fun y => y.1 ≠ p.ix), rewalk := k.holder = some p.ix }
      let loads (t : State) (d : BitVec 512) : Prop :=
        let m := mine d
        let qs := selPlaces p d (selReads d) []
        let left := blocksLeft (m.ctx p).part qs
        t.selFault p d (selReads d) [] = none → free →
        (left ≠ [] → exec (.selld rs1) s = .next (m.fresh.2.mod p fun c =>
          { c with part := c.part ++ m.blockCells p qs (pickOf m.fresh.1 left) })) ∧
        (left = [] → ∃ u, exec (.selld rs1) s = .next u ∧
          (u.sel p).holder = some p.ix ∧ (u.sel p).desc = d ∧ (u.sel p).pl = selW d ∧ (u.sel p).granted = none ∧
          (selN d ≤ 65536 → ∀ i, i ∈ (u.sel p).cands ↔ i < selN d ∧ (selNanin d = true ∨ ∀ f, selTy d = .f f → f.isNan (m.selElem p d i) = false)) ∧
          (u.ctx p).pc = (s.ctx p).pc + 4)
      (∀ d t, State.selChecks s s1 p a = .val (d, t) →
        (k.holder = none → k.claims = [] → loads t d) ∧
        (∀ h, k.holder = some h → h ≠ p.ix → (∀ y ∈ k.claims, y.1 ≠ p.ix) → exec (.selld rs1) s =
          .next ((s.mod p fun y => { y with part := [] }).setSel p { k with claims := k.claims ++ [(p.ix, d)] }))) ∧
      (∀ h, k.holder = some h → h ≠ p.ix → (∃ y ∈ k.claims, y.1 = p.ix) → exec (.selld rs1) s = .next s) ∧
      (∀ d, k.holder = some p.ix → k.granted = some d → loads s1 d)) ∧
    (∀ (die : Fin 8) (clu : Fin 256) (h : Nat) (d : BitVec 512) (rest : List (Nat × BitVec 512)),
      let m := die.val * 256 + clu.val
      let k := s.clu m
      k.sel.holder = none → k.sel.claims = (h, d) :: rest → exec (.selectionEngineGrant die clu) s =
        .next (s.setClu m { k with sel := { k.sel with holder := some h, granted := some d, claims := rest } }))

/-- Of a descriptor of at most 65,536 elements: a step counts the candidates with a 0 and with a 1 in the next plane, which make up all of them, with the sums of their weights in ascending order, and changes no candidate, prefix or rank. A cut keeps the candidates with the chosen bit, counts the others below when ones are kept and above when zeros are, with their weights, writes the bit into the prefix and moves on one plane; the elements below, kept and above stay as many. The candidates of the planes walked agree with the prefix. A walk by rank from below or from above keeps the rank among the candidates at each plane, and keeps a candidate; a walk that begins with the rank outside, or with no candidate, ends at once. The verdict is 0 by rank, and by weight 0 where the sum reaches the target and 2 where it does not. -/
def Obligations.SelectionWalk : Prop :=
  ∀ (k : Sel) (key w : Nat → Nat), selN k.desc ≤ 65536 → k.pl ≠ 0 → k.pl ≤ 64 →
    let bit (i : Nat) : Bool := (key i).testBit (k.pl - 1)
    let sum (l : List Nat) : Nat := l.foldl (fun x i => (fmtF64.fadd .rne x (w i)).code) 0
    let zeros := k.cands.filter fun i => !bit i
    let ones := k.cands.filter bit
    let agrees (k : Sel) : Prop := ∀ i ∈ k.cands, ∀ b, k.pl ≤ b → b < 64 → (key i).testBit b = k.pfx.getLsbD b
    let t := k.step key w
    (t.lz = zeros.length ∧ t.lo = ones.length ∧ t.lz + t.lo = k.cands.length ∧ t.lwz = BitVec.ofNat 64 (sum zeros) ∧
      t.lwo = BitVec.ofNat 64 (sum ones) ∧ t.mask = k.mask ∧ t.pfx = k.pfx ∧ t.pl = k.pl ∧ t.below = k.below ∧ t.above = k.above) ∧
    (∀ o : Bool,
      let c := k.cut key w o
      let gone := if o then zeros else ones
      let more (x : BitVec 64) : BitVec 64 := BitVec.ofNat 64 (fmtF64.fadd .rne x.toNat (sum gone)).code
      (∀ i, i ∈ c.cands ↔ i ∈ k.cands ∧ bit i = o) ∧ c.pl = k.pl - 1 ∧ c.pfx.getLsbD (k.pl - 1) = o ∧
      (∀ b, b ≠ k.pl - 1 → c.pfx.getLsbD b = k.pfx.getLsbD b) ∧
      c.below = k.below + (if o then zeros.length else 0) ∧ c.above = k.above + (if o then 0 else ones.length) ∧
      c.wbelow = (if o then more k.wbelow else k.wbelow) ∧ c.wabove = (if o then k.wabove else more k.wabove) ∧
      c.below + c.cands.length + c.above = k.below + k.cands.length + k.above ∧ (agrees k → agrees c)) ∧
    (∀ r : BitVec 64,
      let z := t.cut key w (!t.keepsZeros 0 r)
      let y := t.cut key w (!t.keepsZeros 1 r)
      t.keepsZeros 2 r = ge64 (fmtF64.fadd .rne k.wbelow.toNat (sum zeros)).code r ∧
      t.keepsZeros 3 r = !ge64 (fmtF64.fadd .rne k.wabove.toNat (sum ones)).code r ∧
      (k.below ≤ r.toNat → r.toNat < k.below + k.cands.length → z.below ≤ r.toNat ∧ r.toNat < z.below + z.cands.length) ∧
      (k.above ≤ r.toNat → r.toNat < k.above + k.cands.length → y.above ≤ r.toNat ∧ r.toNat < y.above + y.cands.length) ∧
      (k.outside 0 r = true ↔ ¬(k.below ≤ r.toNat ∧ r.toNat < k.below + k.cands.length)) ∧
      (k.outside 1 r = true ↔ ¬(k.above ≤ r.toNat ∧ r.toNat < k.above + k.cands.length)) ∧
      (k.outside 2 r = true ↔ k.cands = []) ∧ (k.outside 3 r = true ↔ k.cands = []) ∧
      k.verdict w 0 r = 0 ∧ k.verdict w 1 r = 0 ∧
      k.verdict w 2 r = (if ge64 (fmtF64.fadd .rne k.wbelow.toNat (sum k.cands)).code r then 0 else 2) ∧
      k.verdict w 3 r = (if ge64 (fmtF64.fadd .rne k.wabove.toNat (sum k.cands)).code r then 0 else 2)) ∧
    k.value w 0 = k.pfx ∧ k.value w 2 = BitVec.ofNat 64 k.below ∧ k.value w 3 = BitVec.ofNat 64 k.cands.length ∧
    k.value w 4 = BitVec.ofNat 64 k.above ∧ k.value w 6 = BitVec.ofNat 64 (sum k.cands)

/-- In a supervisor core whose handler flag is set, xret sets pc to epc and clears the flag; elsewhere it takes cause 0x01. In a supervisor core whose stores have met the release condition of the scope, and where no handover of the partition is due or the change is of tables alone, atinv completes, every micro-TLB and every other unit of its scope holds no translation that its operands name, the micro-TLBs of other dies keep theirs, and the mappings that homes are found by are walked anew where the operands name them and are as before elsewhere (DESIGN CHOICE, log 89); while handovers are due it waits, and homes are found by the changed mapping; until its release condition holds it waits. An X(rs1) that it does not take is cause 0x01 before X(rs2) is read. atprobe of a form that it takes answers the walk's entry or a half of the hearth entry and changes nothing else. park holds its core while its monitor is armed and has seen no event. In a firing the four S forms take cause 0x01. -/
def Obligations.SupervisorForms : Prop :=
  ∀ (s s1 s2 : State) (rd rs1 rs2 : BitVec 5) (a b : Reg),
    let p := s.cur
    let c := s.ctx p
    (s.exeReady 0#5 [] →
      (p.isSup = true → c.handler = true → exec .xret s = .next (s.setCtx p { c with pc := c.epc, handler := false })) ∧
      (p.isSup = false ∨ c.handler = false → exec .xret s = .next (takeTrap s p 0x01 (wordXret.setWidth 64))) ∧
      (p.isSup = false → exec .park s = .next (takeTrap s p 0x01 (wordPark.setWidth 64))) ∧
      (p.isSup = true → (c.mon.armed = none ∨ c.mon.event = true) → exec .park s = .next (s.advance p)) ∧
      (p.isSup = true → c.mon.armed ≠ none → c.mon.event = false → exec .park s = .next s)) ∧
    (p.isSup = false → exec (.atinv rs1 rs2) s = .next (takeTrap s p 0x01 ((wordAtinv rs1 rs2).setWidth 64)) ∧
      exec (.atprobe rd rs1) s = .next (takeTrap s p 0x01 ((wordAtprobe rd rs1).setWidth 64))) ∧
    (s.exeReady 0#5 [rs1, rs2] →
      (p.isSup = true → s.gives rs1 a s1 → invOk (capAddr a) = false →
        exec (.atinv rs1 rs2) s = .next (takeTrap s p 0x01 ((wordAtinv rs1 rs2).setWidth 64))) ∧
      (p.isSup = true → s.gives rs1 a s1 → s1.src p rs2 = .val (b, s2) →
        let x := capAddr a
        let va := (capAddr b).toNat
        let ready := s.released (c.releaseAt p.ix (invScope x))
        let renewed (t : State) (e : TlbEntry) : TlbEntry :=
          if invDrops x va { e with base := e.base / e.leaf * e.leaf, size := e.leaf } then t.homeWalk p.die.val e.part e.base else e
        (invOk x = true → ready = false → exec (.atinv rs1 rs2) s = .next s) ∧
        let homes := s.renewHomes x va p.die.val
        (homes.dev.pages.getD 0 [] = (s.dev.pages.getD 0 []).map (renewed s)) ∧
        (invOk x = true → ready = true → invKind x ≠ 2 → homes.handoverPending (invPart x) = true → exec (.atinv rs1 rs2) s = .next homes) ∧
        (invOk x = true → ready = true → (invKind x = 2 ∨ homes.handoverPending (invPart x) = false) →
          ∃ t : State, exec (.atinv rs1 rs2) s = .next t ∧ (t.ctx p).pc = (s2.ctx p).pc + 4 ∧
            t.dev.pages.getD 0 [] = (s2.dev.pages.getD 0 []).map (renewed s2) ∧
            (∀ u, u ≠ 0 → u ≤ 512 → (invScope x ≠ 2 ∨ (u - 1) / 64 = p.die.val) → ∀ e ∈ t.dev.pages.getD u [], invDrops x va e = false) ∧
            ∀ i : Nat, i < 16384 → (t.core i).utlb = (s2.core i).utlb.filter fun e =>
              !((invScope x != 2 || dieOfCore i == p.die.val) && invDrops x va e)))) ∧
    (s.exeReady rd [rs1] → s.gives rs1 a s1 →
      let x := capAddr a
      let e : Hearth := ((s1.clu (p.die.val * 256 + (x.extractLsb' 0 8).toNat)).hearth.find (x.extractLsb' 8 12).toNat).getD {}
      let answers (v : BitVec 64) : Prop := exec (.atprobe rd rs1) s = .next (s.wrote s1 rd (dataReg v))
      (p.isSup = true →
        (x.extractLsb' 52 12 = 0 → answers (s1.probeWalk p.die.val (s1.ctx p).ctbsel (x.extractLsb' 0 52).toNat)) ∧
        (x.extractLsb' 20 44 = 0x10000000000#44 → answers (e.word.extractLsb' 0 64)) ∧
        (x.extractLsb' 20 44 = 0x20000000000#44 → answers (e.word.extractLsb' 64 64)) ∧
        (3 ≤ (x.extractLsb' 60 4).toNat → exec (.atprobe rd rs1) s = .next (takeTrap s p 0x01 ((wordAtprobe rd rs1).setWidth 64)))))

/-- The oldest command at a core is carried out and gone. RETRY makes a parked context run again at its epc. ABANDON ends its firing, and no message enters the outbound queue. SETREG writes a register of a parked context other than x0, x28 and x29. A context that is not parked is left alone. MOVE starts the move of a live actor that is not pinned, UNPIN clears the actor's pin, and CLEAR_FAULTED_MARK the mark of its class. A command of another code is not taken. PREEMPT takes a core, or every core of the gang that it is reserved for, that is not pre-empted yet, and waits until each of them stands at a boundary. Then every context of each core becomes idle, its matrix queue is empty, arrivals go to its spill queue, and it is pre-empted, with an image. The image is what the model keeps beside the bytes that it writes (log 35, DESIGN CHOICE), and waiting forms stop as log 87 (DEDUCED) says. Of a core without a gang whose access halves hold nothing and that runs no sheet, the image holds the tiles, the whole matrix queue in order, and each buffer with the copy requests that wait for its slots but no other waiter. RESUME, where a gang's other cores are available and the saved firings find contexts of their partitions, restores from the images as memory holds them the tiles, the queue and the buffers, and a saved firing with its registers, pc and streams, and ends the pre-emption; until then it waits, a core of a gang for the others too (log 88, DEDUCED). A saved firing that held the selection engine stays behind while another context holds it. -/
def Obligations.CommandsAndPreemption : Prop :=
  (∀ (s : State) (c : CoreId) (m : Message) (rest : List Message), (s.core c.ix).cmds = m :: rest →
    let code := (payWord m.pay 0).toNat
    let s1 := s.setCore c.ix { s.core c.ix with cmds := rest }
    let q := Party.ctx c (Fin.ofNat 4 (m.key.extractLsb' 26 2).toNat)
    let parked := (s.ctx q).run = .parked
    let n : ActorName := ((payWord m.pay 1).setWidth 8, (payWord m.pay 2).setWidth 16, payWord m.pay 3)
    let r : BitVec 5 := (payWord m.pay 1).extractLsb' 0 5
    (code = 2 → (parked → exec (.retry c) s = .next (s1.mod q fun x => { x with run := .running, pc := x.epc })) ∧
      (¬parked → exec (.retry c) s = .next s1)) ∧
    (code = 3 → (parked → ∃ t : State, exec (.abandon c) s = .next t ∧ (t.ctx q).run = .idle ∧ (t.core c.ix).cmds = rest ∧
        ∀ i ∈ (t.core c.ix).outq, i ∈ (s.core c.ix).outq) ∧
      (¬parked → exec (.abandon c) s = .next s1)) ∧
    (code = 4 → ∀ (i : Nat) (h : Hearth), (s.clu c.cluIx).entryOf n = some (i, h) →
      (h.state = .live → h.pin = false → ∃ (t : State) (e : Hearth), exec (.move c) s = .next t ∧ (t.clu c.cluIx).hearth.find i = some e ∧ e.state = .moving ∧
        e.dest = false ∧ e.name = n) ∧
      (h.pin = true → exec (.move c) s = .next s1)) ∧
    (code = 5 → ∀ (i : Nat) (h : Hearth), (s.clu c.cluIx).entryOf n = some (i, h) → ∃ t : State, exec (.unpin c) s = .next t ∧
      (t.clu c.cluIx).hearth.find i = some { h with pin := false } ∧ ∀ a ∈ (t.core h.hostCore).actors, a.name = n → a.pin = false) ∧
    (code = 6 → exec (.clearFaultedMark c) s =
      .next (s1.setDev { s.dev with faulted := s.dev.faulted.filter fun x => x != (n.1, n.2.1) })) ∧
    (code = 7 → (parked → r ≠ 0 → r ≠ 28 → r ≠ 29 → exec (.setreg c) s = .next (s1.setCtx q ((s.ctx q).setReg r
        (mkCap ((payWord m.pay 1).getLsbD 8) (payWord m.pay 3) (payWord m.pay 2))))) ∧
      (¬parked ∨ r = 0 ∨ r = 28 ∨ r = 29 → exec (.setreg c) s = .next s1)) ∧
    (∀ z : Nat × Instr, z ∈ [(2, Instr.retry c), (3, .abandon c), (4, .move c), (5, .unpin c), (6, .clearFaultedMark c), (7, .setreg c)] →
      code ≠ z.1 → code < 8 → exec z.2 s = .next s)) ∧
  (∀ (s : State) (c : CoreId) (m : Message) (rest : List Message), (s.core c.ix).cmds = m :: rest →
    let k := s.core c.ix
    let code := (payWord m.pay 0).toNat
    let s1 := s.setCore c.ix { k with cmds := rest }
    let l := (s.preemptSet c).filter fun x => !(s.core x.ix).preempted
    let bare (b : Cb) : Cb := { b with waitFilled := [], waitFree := [] }
    (code = 0 →
      ((∃ x ∈ l, s.stops x = false) → exec (.preempt c) s = .next s) ∧
      ((∀ x ∈ l, s.stops x = true) → ∃ t : State, exec (.preempt c) s = .next t ∧ (t.core c.ix).cmds = rest ∧
        (∀ x ∈ l, (t.core x.ix).preempted = true ∧ (t.core x.ix).diverting = true ∧ (t.core x.ix).mq = [] ∧ (t.core x.ix).image ≠ none ∧
          ∀ n : Fin 4, (t.ctx (.ctx x n)).run = .idle) ∧
        (k.gangReserved = none → k.preempted = false →
          (∀ n : Fin 4, (s.ctx (.ctx c n)).acc = [] ∧ ((s.ctx (.ctx c n)).run = .idle ∨ (s.ctx (.ctx c n)).firing.sheet = false)) →
          ∃ i : CoreImage, (t.core c.ix).image = some i ∧ i.tiles = k.tiles ∧ i.mq.map (fun o => { o with ctx := 0 }) = k.mq.map (fun o => { o with ctx := 0 }) ∧
            ∀ n : Fin 16, bare i.cbs[n] = bare k.cbs[n] ∧ ∀ w ∈ i.cbs[n].waitFilled ++ i.cbs[n].waitFree, ∃ r, w = .fill r))) ∧
    (code = 0 → k.gangReserved = none → k.preempted = true → exec (.preempt c) s = .next s1) ∧
    (code = 1 → k.image = none → exec (.resumeCore c) s = .next s1) ∧
    (code = 1 → k.preempted = true → ∀ i0 : CoreImage, k.image = some i0 →
      let i := (s.readImages c.die.val c.ix i0).1
      let saved := (s.readImages c.die.val c.ix i0).2
      let back (t : State) : Prop := (t.core c.ix).preempted = false ∧ (t.core c.ix).tiles = i.tiles ∧ (t.core c.ix).mq.length = i.mq.length ∧
        (t.core c.ix).diverting = (k.spill != []) ∧ (t.core c.ix).cmds = rest ∧
        ∀ n : Fin 16, bare (t.core c.ix).cbs[n] = bare i.cbs[n] ∧ (t.core c.ix).cbs[n].waitFree = k.cbs[n].waitFree
      let heldFor (x : SavedFiring) : Prop := x.sel ≠ none ∧ (s.clu c.cluIx).sel.holder ≠ none
      (s.gangAvailable c = false ∨ s.resume c i0 = none → exec (.resumeCore c) s = .next s) ∧
      (s.gangAvailable c = true → saved = [] → ∃ t : State, exec (.resumeCore c) s = .next t ∧ back t ∧ (t.core c.ix).image = none) ∧
      (∀ (x : SavedFiring) (j : Fin 4), s.gangAvailable c = true → saved = [x] → s.seatFor c x = some j → ¬heldFor x →
        ∃ t : State, exec (.resumeCore c) s = .next t ∧ back t ∧ (t.core c.ix).image = none ∧ (t.core c.ix).saved = [] ∧
          let y := t.ctx (.ctx c j)
          y.pc = x.ctx.pc ∧ y.x = x.ctx.x ∧ y.run = x.ctx.run ∧ y.w = x.ctx.w ∧ y.firing = x.ctx.firing ∧ y.qld = x.ctx.qld ∧ y.qst = x.ctx.qst) ∧
      (∀ x : SavedFiring, s.gangAvailable c = true → saved = [x] → heldFor x →
        ∃ t : State, exec (.resumeCore c) s = .next t ∧ back t ∧ (t.core c.ix).image ≠ none ∧ (t.core c.ix).saved = [x])))

/-- A well-formed request without stamp, target record and deckle, whose source may be read and destination written with COPY over LEN bytes, without overlap on this device, and without a notice from a sheet, passes the checks. A request that passes them enters the command FIFO with the next sequence number, which rd receives, and the release condition at dev: at a FIFO of eight cpost waits and cpost.nb writes 0. A malformed w0 takes cause 0x18. cstat gives 3 for a number that is not among the last 256 issued, and otherwise the status, 0 while the request is pending. The oldest request of a FIFO enters its engine's pending set once its release condition holds and the engine has translated what it reads at acceptance, and not before. -/
def Obligations.CopyRequests : Prop :=
  ∀ (s s1 : State) (rd rs1 : BitVec 5) (xs : BitVec 3) (a : Reg),
    let p := s.cur
    let c := s.ctx p
    let k := s.core p.coreIx
    let x (u : State) (i : Nat) : Reg := (u.ctx p).reg (BitVec.ofNat 5 (4 * xs.toNat + i))
    let w := capAddr (x s 0)
    let far := reqDev w ≠ s.dev.num
    let remote (t : Bool) : BitVec 11 := if reqDev w != s.dev.num && t then permRemote else 0
    let src := (capAddr (x s 1)).toNat
    let dst := (capAddr (x s 2)).toNat
    (reqMalformed w s.dev.num = false → reqStamp w = false → reqTgt w = false → reqOp w ≠ 5 →
      checkCap p.isSup (x s 1) src (reqLen w) (permLoad ||| permCopy ||| remote (srcRemote (reqOp w))) false = none →
      checkCap p.isSup (x s 2) dst (reqLen w) (permStore ||| permCopy ||| remote (dstRemote (reqOp w))) false = none →
      (far ∨ src + reqLen w ≤ dst ∨ dst + reqLen w ≤ src) → (reqNotify w = true → p.isSup = true ∨ c.firing.sheet = false) →
      s.checkRequest p xs = .val s) ∧
    (s.exeReady rd [] → c.awaits (xsRegs xs) = false →
      (reqMalformed w s.dev.num = true → exec (.cpost rd xs) s = .next (takeTrap s p 0x18 0) ∧
        exec (.cpostNb rd xs) s = .next (takeTrap s p 0x18 0)) ∧
      (∀ u : State, s.checkRequest p xs = .val u →
        (8 ≤ k.fifo.length → exec (.cpost rd xs) s = .next s ∧ exec (.cpostNb rd xs) s = .next (s.wrote u rd 0)) ∧
        (k.fifo.length < 8 → ∀ i ∈ [Instr.cpost rd xs, .cpostNb rd xs], ∃ (t : State) (r : Request), exec i s = .next t ∧
          let y := u.core p.coreIx
          (t.core p.coreIx).fifo = y.fifo ++ [r] ∧ (t.core p.coreIx).nextSeq = y.nextSeq + 1 ∧
          r.seq = y.nextSeq ∧ r.w0 = capAddr (x u 0) ∧ r.src = x u 1 ∧ r.dst = x u 2 ∧ r.w3 = x u 3 ∧ r.issuer = p.ix ∧
          r.rel.point = (u.ctx p).storeCount ∧ r.rel.scope = 3#3 ∧
          (rd ≠ 0#5 → rd ≠ 29#5 → (t.ctx p).reg rd = dataReg (BitVec.ofNat 64 y.nextSeq)) ∧ (t.ctx p).pc = (u.ctx p).pc + 4 ∧
          (reqNotify (capAddr (x u 0)) = false → (t.core p.coreIx).sent = y.sent)))) ∧
    (s.exeReady rd [rs1] → s.gives rs1 a s1 →
      let n := (capAddr a).toNat
      exec (.cstat rd rs1) s = .next (s.wrote s1 rd (dataReg
        (if 1 ≤ n ∧ n < k.nextSeq ∧ k.nextSeq ≤ n + 256 then k.status.getD n 0 else 3)))) ∧
    (∀ (q : Party) (r : Request) (rest : List Request), (s.core q.coreIx).fifo = r :: rest → reqDev r.w0 = s.dev.num →
      (s.released r.rel = false → exec (.requestAccept q) s = .next s) ∧
      let new : Pending := { engine := s.engineFor r, req := r, id := s.dev.opSeq + 1, len := reqLen r.w0, far := false, farDev := reqDev r.w0 }
      (reqTgt r.w0 = false → reqOp r.w0 ≠ 4 → reqOp r.w0 ≠ 5 → s.acceptMissing new = none) ∧
      (∀ va, s.released r.rel = true → s.acceptMissing new = some va → exec (.requestAccept q) s = .next (s.askUnit new.tlbKey new.die r.part va)) ∧
      (s.released r.rel = true → s.acceptMissing new = none → ∃ (t : State) (e : Pending), exec (.requestAccept q) s = .next t ∧ (t.core q.coreIx).fifo = rest ∧
        t.dev.engines = s.dev.engines ++ [e] ∧ e.req = r ∧ e.engine = cluOfCore r.core ∧ e.role = .own ∧ e.far = false ∧
        (reqTgt r.w0 = false → reqOp r.w0 ≠ 4 → reqOp r.w0 ≠ 5 → e.err = none ∧ e.len = reqLen r.w0)))

/-- For a request of this device at its engine that meets no error: a step whose translations the engine does not hold asks the walker for one. A Read takes any chunk that has not been read, within an aligned block of both sides, from the views of the home dies (log 90, DEDUCED: the places of the chunks); every unread byte is in some such chunk. A Write installs any chunk that has been read and whose destination, with that of every byte below it, has passed its checks, with the tags it clears. A reduction's elements are updated in ascending order, one a step, once the view of their home holds their last writes, and not before, integers by their sum in the width. A full or last slot of a CBFILL becomes filled; a stamp writes the sequence number as a release once the payload is seen everywhere, and not before; an ordered contribution whose bytes are all read is staged, and a group whose ranks are all there is taken together and applied in ascending rank, one element a step. A WRENQ whose payload is written and seen everywhere sends its data message to the target's port, where the class routes it, and is then finishing (the message's depth and the moment: log 91, DEDUCED; that it counts as sent: log 129, DESIGN CHOICE); while the engine cannot find the message's home the step asks for a walk. A request of this device that is ready leaves the pending set once its writes are seen everywhere, and not before; cstat then reports 1, or 2 with the error code and OFF; and with NOTIFY its completion message, a notice with SUB 1 that holds the number and the status, goes to its port, where the class routes it. -/
def Obligations.CopyStepsAndEndings : Prop :=
  (∀ (s : State) (e : EngineId) (i : Nat) (q : Pending) (qs : List Nat) (d : Nat), s.pend e i = some q → q.err = none →
    q.role = .own → q.far = false → q.finishing = false → q.arrival = none → qs ≠ [] → (∀ z ∈ qs, homeDie z = d) →
    let v := s.fresh.1.toNat
    let s1 := s.fresh.2
    let found (u : State) (need : Need) (a n : Nat) : Prop := u.engMissing q a n = none ∧ u.engReach q need a n = (qs.map some, none)
    let clean (u : State) : Prop := ∀ z ∈ qs, u.cell (homeDie z) (poisonPlace z) = 0#8
    let asks (u : State) (a n : Nat) (j : Instr) : Prop :=
      ∀ va, u.engMissing q a n = some va → exec j s = .next (u.askUnit q.tlbKey q.die q.req.part va)
    let put (u : State) (bs : List Byte) (rel : Bool) (prior : Map Nat) : State := u.writeAt d (plainCells (qs.zip bs)) rel prior
    (∀ o n : Nat, q.nextRead v = some (o, n) →
      asks s (q.srcAt o) n (.copyRead e i) ∧
      (found s .r (q.srcAt o) n → clean s →
        let bs := qs.map fun z => s.cell (homeDie z) z
        exec (.copyRead e i) s = .next (s1.setPend { q with
          unread := cutSpan q.unread o (o + qs.length), chunks := q.chunks ++ [(o, bs)] }))) ∧
    (∀ v o n : Nat, q.nextRead v = some (o, n) → n ≤ 32 - q.srcAt o % 32 ∧ (q.op ≠ 3 → q.op ≠ 6 → n ≤ 32 - q.dstAt o % 32)) ∧
    (∀ x : Nat, 0 < q.elem → x < q.len → x < 2 ^ 32 → (∃ y ∈ q.unread, y.1 ≤ x ∧ x < y.2) →
      ∃ v o n : Nat, q.nextRead v = some (o, n) ∧ o ≤ x ∧ x < o + n) ∧
    (q.op ≠ 3 → q.op ≠ 6 →
      let l := s1.toCheck q
      let n := q.ready.length
      let pick := v % max 1 (n + l.length)
      (n + l.length = 0 → exec (.copyWrite e i) s = .next s1) ∧
      (∀ (o m : Nat) (bs : List Byte), q.ready[pick]? = some (o, m, qs.zip bs) → bs.length = qs.length →
        let u := put s1 bs false []
        exec (.copyWrite e i) s = .next (u.setPend { q with
          writes := noteWrites q.writes qs u.dev.wseq, unwritten := cutSpan q.unwritten o (o + m), ready := q.ready.eraseIdx pick })) ∧
      (∀ (o : Nat) (bs : List Byte), l.head? = some (o, bs) → o = q.checkedTo ∧ bs.length ≤ 32 - q.dstAt o % 32) ∧
      (∀ (o : Nat) (bs : List Byte), l.head? = some (o, bs) → pick = n →
        asks s1 (q.dstAt o) bs.length (.copyWrite e i) ∧
        (found s1 .w (q.dstAt o) bs.length →
          let u := put s1 bs false []
          exec (.copyWrite e i) s = .next (u.setPend { q with
            writes := noteWrites q.writes qs u.dev.wseq, unwritten := cutSpan q.unwritten o (o + bs.length)
            chunks := trimPieces q.chunks o (o + bs.length), checkedTo := max q.checkedTo (o + bs.length) })))) ∧
    (q.op = 3 → reqOrdred q.req.w0 = false →
      let o := q.wrote
      let bs := piecesAt q.chunks o q.elem
      o < q.len → o < 2 ^ 32 → meets q.unread o (o + q.elem) = false →
      asks s (q.dstAt o) q.elem (.reduceElement e i) ∧
      (s.engMissing q (q.dstAt o) q.elem = none → s.elemsCurrent q (q.dstAt o) q.elem = false → exec (.reduceElement e i) s = .next s) ∧
      (found s .w (q.dstAt o) q.elem → clean s → s.elemsCurrent q (q.dstAt o) q.elem = true →
        let old := leNat (qs.map fun z => s.cell (homeDie z) z)
        let u := put s (leBytes (reduceOp (reqRtype q.req.w0) old (leNat bs)) q.elem) false []
        exec (.reduceElement e i) s = .next (u.setPend { q with
          writes := noteWrites q.writes qs u.dev.wseq, unwritten := cutSpan q.unwritten o (o + q.elem)
          chunks := trimPieces q.chunks o (o + q.elem), prior := BitVec.ofNat 64 old }))) ∧
    (∀ old v : Nat, reduceOp 3 old v = (old + v) % 2 ^ 32 ∧ reduceOp 4 old v = (old + v) % 2 ^ 64) ∧
    (∀ (n b : Nat) (x : Cb) (sl : BitVec 8), q.slot = some sl → s.fillBuffer q = some (n, b, x) → b < 16 →
      let ends := min q.len (q.slotBase + x.ssz.toNat)
      q.slotBase < ends → meets q.unwritten q.slotBase ends = false → ∃ t : State, exec (.cbfillSlotPut e i) s = .next t ∧
        ((t.core n).cb b).filled = x.filled + 1 ∧ ((t.core n).cb b).free = x.free - 1) ∧
    (q.stampHere = true → q.payloadDone = true →
      let a := (capAddr q.req.w3).toNat
      (s.seenEverywhere q.writes = false → exec (.stamp e i) s = .next s) ∧
      (s.seenEverywhere q.writes = true →
        asks s a 8 (.stamp e i) ∧
        (found s .w a 8 →
          let u := put s (leBytes (BitVec.ofNat 64 q.req.seq).toNat 8) true q.writes
          exec (.stamp e i) s = .next (u.setPend { q with finishing := true, stamp := noteWrites [] qs u.dev.wseq })))) ∧
    (∀ z : Nat, q.op = 3 → reqOrdred q.req.w0 = true → q.unread = [] → s.engMissing q (q.dstAt 0) 1 = none →
      s.unitPlace q.req.core q.die q.req.sup q.req.part q.unit .w (q.dstAt 0) = .at z →
      let h := homeDie z
      let w := capAddr q.req.w3
      let g := rankGroup w
      let l := (s.die h).group g z
      let u := s.beginGroup h g z
      (q.staged = false → l = [] → rankOf w < rankCount w → ((s.die h).staged.map fun x => x.bytes.length).sum + q.len ≤ Config.stagingBytes h →
        ∃ (t : State) (x : Staged), exec (.orderedReduceApply e i) s = .next t ∧ (t.die h).staged = (s.die h).staged ++ [x] ∧ x.req = q.id ∧
          x.group = g ∧ x.dest = z ∧ x.rank = rankOf w ∧ x.count = rankCount w ∧ x.bytes = piecesAt q.chunks 0 q.len) ∧
      (∀ x0 : Staged, ((s.die h).staged.map (·.req)).Nodup → (s.die h).whole g z = [] → (l.find? fun x => x.rank == 0) = some x0 → x0.count ≠ 0 →
        (∀ r < x0.count, ∃ x ∈ l, x.rank = r) → ∀ r < x0.count, ∀ x : Staged, (l.find? fun y => y.rank == r) = some x →
          { x with begun := true } ∈ (u.die h).whole g z) ∧
      (q.staged = true → (u.die h).whole g z = [] → exec (.orderedReduceApply e i) s = .next u) ∧
      (∀ (x : Staged) (y : Pending), q.staged = true → nextRank ((u.die h).whole g z) = some x →
        (u.dev.engines.find? fun y => y.id == x.req) = some y →
        let n := rtypeSize (reqRtype x.w0)
        let a := y.dstAt x.applied
        u.engMissing y a n = none →
        (u.elemsCurrent y a n = false → exec (.orderedReduceApply e i) s = .next u) ∧
        (∀ old m t, u.elemsCurrent y a n = true → u.reduceElem y y.writes x.applied ((x.bytes.drop x.applied).take n) = .inr (old, m, t) →
          exec (.orderedReduceApply e i) s = .next ((t.setStaged h { x with applied := x.applied + n }).setPend
            { y with writes := m, unwritten := cutSpan y.unwritten x.applied (x.applied + n) })))) ∧
    (∀ (l : List Staged) (x : Staged), nextRank l = some x →
      x ∈ l ∧ x.applied < x.bytes.length ∧ ∀ y ∈ l, y.applied < y.bytes.length → x.rank ≤ y.rank)) ∧
  (∀ (s : State) (e : EngineId) (i : Nat) (q : Pending), s.pend e i = some q → q.role = .own → q.far = false →
    let routes (u : State) (m : Message) (dest : Dest) : Prop :=
      let d := (s.readDesc q.die m.part m.cls).1
      routeRefusal d m.cls m.hdr = none ∧ ∃ dev die clu : Nat,
        ((u.readDesc q.die m.part m.cls).2.findHome q.die d m.part m.cls m.key).1 = .at dev die clu ∧ dest = .home dev die clu
    let unknown (m : Message) : Option Nat :=
      let r := s.readDesc q.die m.part m.cls
      if routeRefusal r.1 m.cls m.hdr = none then r.2.homeMissing r.1 m.part m.key else none
    let asks (m : Message) (va : Nat) : State := (s.readDesc q.die m.part m.cls).2.askUnit 0 q.die m.part va
    let sent (t : State) (m : Message) (dest : Dest) : Prop := ∃ u : UnitMsg, t.dev.unitMsgs = s.dev.unitMsgs ++ [u] ∧ u.m = m ∧ u.dest = dest
    let enq : Message :=
      { part := q.req.part, cls := tgtClass q.target, key := tgtKey q.target,
        hdr := mkHdr (tgtPort q.target) 0 q.req.depth 0 q.req.ltag 0 0,
        pay := mkPay (capAddr q.req.dst) (BitVec.ofNat 64 q.len) 0 0 0 0 }
    (q.finishing = false → q.op = 4 → q.payloadDone = true →
      (s.seenEverywhere q.writes = false → exec (.wrenqEnqueue e i) s = .next s) ∧
      (∀ va, s.seenEverywhere q.writes = true → unknown enq = some va → exec (.wrenqEnqueue e i) s = .next (asks enq va)) ∧
      (s.seenEverywhere q.writes = true → unknown enq = none → ∃ t : State, exec (.wrenqEnqueue e i) s = .next t ∧
        (∀ x ∈ t.dev.engines, x.id = q.id → x.finishing = true) ∧
        let u := s.setPend { q with finishing := true }
        ∀ dest : Dest, routes (u.sentUp q.req.core q.req.part q.req.ltag) enq dest → sent t enq dest)) ∧
    ((q.finishing = true ∨ (q.payloadDone = true ∧ q.stampHere = false ∧ q.op ≠ 4)) →
      let k := s.core q.req.core
      let u := (s.dropPend q).setCore q.req.core { k with status := k.status.put q.req.seq q.status }
      (s.seenEverywhere q.writes = false ∨ s.seenEverywhere q.stamp = false → exec (.notify e i) s = .next s) ∧
      let tells := reqNotify q.req.w0 = true ∧ q.silent = false
      (∀ va, s.seenEverywhere q.writes = true → s.seenEverywhere q.stamp = true → tells → unknown q.completion = some va →
        exec (.notify e i) s = .next (asks q.completion va)) ∧
      (s.seenEverywhere q.writes = true → s.seenEverywhere q.stamp = true → (tells → unknown q.completion = none) →
        ∃ t : State, exec (.notify e i) s = .next t ∧
        (∀ x ∈ t.dev.engines, x.id ≠ q.id) ∧
        (q.err = none → (t.core q.req.core).status.find q.req.seq = some 1) ∧
        (∀ (code : BitVec 8) (off : Nat), q.err = some (code, off) →
          (t.core q.req.core).status.find q.req.seq = some (BitVec.ofNat 32 off ++ 0#16 ++ code ++ 2#8)) ∧
        (tells → ∀ dest : Dest, routes u q.completion dest → sent t q.completion dest))) ∧
    (q.completion.part = q.req.part ∧ hdrKind q.completion.hdr = 3 ∧ hdrSub q.completion.hdr = 1 ∧
      payWord q.completion.pay 0 = BitVec.ofNat 64 q.req.seq ∧ payWord q.completion.pay 1 = q.status ∧
      (reqTgt q.req.w0 = false → q.completion.cls = q.req.cls ∧ q.completion.key = q.req.key ∧
        hdrPort q.completion.hdr = (reqNport q.req.w0).toNat)))

/-- Drain takes the oldest store of a party: its cells are the next write in coherence order, installed in the view of the party's die alone and placed last in the carry channel to every other die, HBM cells alone; with an empty store buffer nothing changes. A carry entry that no earlier entry of its channel shares a cell with, and whose prior HBM writes the view holds where it is a release, is installed and leaves the channel; any other stays. A page walk takes the oldest page asked for, every core that asked, and every other unit that asked, holds a translation of what the walk found, and the parties that waited for it wait no longer, at the same pc. Where its release condition holds, the destination's die works and there is room, delivery moves: the head of an outbound queue to its home or, a carry, to its owner; an operation behind no earlier one of its issuer for the same owner to its owner's inbox; a unit's message behind no earlier one of the unit for the same home, or of a page of the host window behind no earlier one, to that home; and the head of a channel from a home to its host, where it joins the port of its actor and is counted. A message that is held, or whose condition does not hold, stays, as does one at the head of a channel to a host of another die than its origin's while some die's view lacks a write that its release names. -/
def Obligations.MemoryStepsAndDeliveries : Prop :=
  (∀ (s : State) (p : Party),
    let c := s.ctx p
    let d := p.die.val
    let o := s.dev.wseq + 1
    (c.sb = [] → exec (.drain p) s = .next s) ∧
    (∀ (e : StoreEntry) (rest : List StoreEntry), c.sb = e :: rest → ∃ t : State, exec (.drain p) s = .next t ∧ (t.ctx p).sb = rest ∧ (t.ctx p).drained = c.drained + 1 ∧
      (t.ctx p).x = c.x ∧ (t.ctx p).pc = c.pc ∧ t.dev.wseq = o ∧ (t.die d).view = (s.die d).view.install o e.cells ∧
      (∀ f : Nat, f ≠ d → t.die f = s.die f) ∧
      let put : CarryEntry :=
        { cells := e.cells.filter fun x => isHbm x.1, ord := o, release := e.release, prior := (s.die d).view.ord }
      ∀ f : Nat, f < 8 → f ≠ d → (t.die d).carry.getD f [] = (s.die d).carry.getD f [] ++ (if put.cells = [] then [] else [put])) ∧
    (∀ (a b : Fin 8) (i : Nat) (e : CarryEntry), ((s.die a.val).carry.getD b.val [])[i]? = some e →
      let l := (s.die a.val).carry.getD b.val []
      let free := (∀ x ∈ l.take i, ∀ y ∈ x.cells, ∀ z ∈ e.cells, z.1 ≠ y.1) ∧
        (e.release = true → ∀ x ∈ e.prior, isHbm x.1 = true → x.2 ≤ (s.die b.val).view.ord.getD x.1 0)
      (a = b ∨ ¬free → exec (.carryDelivery a b i) s = .next s) ∧
      (a ≠ b → free → ∃ t : State, exec (.carryDelivery a b i) s = .next t ∧ (t.die b.val).view = (s.die b.val).view.install e.ord e.cells ∧
        (t.die a.val).carry.getD b.val [] = l.eraseIdx i ∧ ∀ f : Nat, f ≠ b.val → (t.die f).view = (s.die f).view)) ∧
    (∀ die : Fin 8, let w := (s.die die.val).walks
      (w = [] → exec (.pageWalk die) s = .next s) ∧
      (∀ (r : WalkReq) (rest : List WalkReq), w = r :: rest → ∃ t : State, exec (.pageWalk die) s = .next t ∧ (t.die die.val).walks = rest ∧
        let e := s.walk die.val r.part r.page
        (∀ n ∈ r.cores, ∃ x ∈ (t.core n).utlb, x.part = e.part ∧ x.base = e.base ∧ x.size = e.size) ∧
        (∀ u ∈ r.units, ∃ x ∈ t.dev.pages.getD u [], x.hit r.part r.page = true ∨ x = s.pageFor u die.val r.part r.page) ∧
        ∀ (q : Party) (va : Nat), coreOfParty q.ix ∈ r.cores → (s.ctx q).walk = some (r.part.toNat, va) → va / 0x10000 * 0x10000 = r.page →
          t.ctx q = { s.ctx q with walk := none }))) ∧
  (∀ (s : State) (p : Party) (i : Nat),
    let n := p.coreIx
    let here (dev d : Nat) : Prop := dev = s.dev.num.toNat ∧ (s.die d).failed = false
    (∀ (m : Message) (dest : Dest) (r : Release) (held : Bool) (rest : List OutItem), (s.core n).outq = .msg m dest r held :: rest →
      (held = true ∨ s.released r = false → exec (.deliver (.out p)) s = .next s) ∧
      (∀ dev d u : Nat, held = false → s.released r = true → dest = .home dev d u → here dev d → s.homeTakes (d * 256 + u) m = true → m.sender = none →
        ∃ t : State, exec (.deliver (.out p)) s = .next t ∧ (t.core n).outq = rest ∧
          (t.clu (d * 256 + u)).homeQ = (s.clu (d * 256 + u)).homeQ ++ [.msg { m with origin := n, prior := r.snap.getD [] }])) ∧
    (∀ (o : Op) (rest : List OutItem), (s.core n).outq = .carry o :: rest → s.released o.rel = true → (s.die (dieOfCore o.owner)).failed = false →
      (s.core o.owner).inboxCount < 64 → ∃ t : State, exec (.deliver (.out p)) s = .next t ∧ (t.core n).outq = rest ∧
        (t.core o.owner).opInbox = (s.core o.owner).opInbox ++ [o]) ∧
    (∀ o : Op, s.dev.ops[i]? = some o →
      (s.released o.rel = false → exec (.deliver (.op i)) s = .next s) ∧
      (s.released o.rel = true → (∀ x ∈ s.dev.ops.take i, x.issuer = o.issuer → x.owner ≠ o.owner) →
        (s.die (dieOfCore o.owner)).failed = false → (s.core o.owner).inboxCount < 64 → ∃ t : State, exec (.deliver (.op i)) s = .next t ∧
          t.dev.ops = s.dev.ops.eraseIdx i ∧ (t.core o.owner).opInbox = (s.core o.owner).opInbox ++ [o])) ∧
    (∀ (u : UnitMsg) (dev d c : Nat), s.dev.unitMsgs[i]? = some u → u.rel = none → u.dest = .home dev d c → here dev d → u.m.sender = none →
      (∀ x ∈ s.dev.unitMsgs.take i, x.unit = u.unit → x.dest ≠ u.dest ∧ u.unit < 700000) → s.homeTakes (d * 256 + c) u.m = true →
      ∃ t : State, exec (.deliver (.unit i)) s = .next t ∧ t.dev.unitMsgs = s.dev.unitMsgs.eraseIdx i ∧
        (t.clu (d * 256 + c)).homeQ = (s.clu (d * 256 + c)).homeQ ++ [.msg u.m]) ∧
    (∀ (home : Nat) (c : CoreId) (m : Message) (rest : List HostItem) (a : Actor), (s.clu home).toHost.getD c.ix [] = .msg m :: rest →
      (s.die c.die.val).failed = false →
      (dieOfCore m.origin ≠ c.die.val → s.seenEverywhere m.prior = false → exec (.deliver (.hosted home c)) s = .next s) ∧
      ((dieOfCore m.origin = c.die.val ∨ s.seenEverywhere m.prior = true) → (s.core c.ix).diverting = false → (s.core c.ix).inboxCount < 64 →
      (s.core c.ix).actor m.name = some a → descJrnl a.desc = false → portKind a.desc (hdrPort m.hdr) ≠ 3 → hdrKind m.hdr ≠ 1 → m.item = none →
      ∃ (t : State) (b : Actor), exec (.deliver (.hosted home c)) s = .next t ∧ (t.clu home).toHost.getD c.ix [] = rest ∧
        (t.core c.ix).actor m.name = some b ∧ b.count = a.count + 1 ∧
        (b.port (hdrPort m.hdr)).q = (a.port (hdrPort m.hdr)).q ++ [{ m with arrived := (s.core c.ix).arrivals }])))

/-- Carried code at the head of a core's inbox whose run ends at done leaves the handler context idle with no store waiting, and answers the carry with x11; one whose first word is done answers its first argument. The oldest message of an actor that waits for its journal entry gets it where the area has room; where none has, the full area is reported once for its class. After a resumption the oldest message of the spill queue leaves it for the inbox while that has room, and arrivals enter the inbox again once the spill queue is empty. A core that is full and held back for 4,096 cycles sends a token along; one that is full and held back passes the oldest token on, any other discards it; a token that is back, and an unused reserve entry, let the core take what is held back at its input on the channel that was held back first (log 30, DESIGN CHOICE), such as an operation, but not while its arrivals go to the spill queue. -/
def Obligations.InboxEvents : Prop :=
  ∀ (s : State) (c : CoreId),
    let n := c.ix
    let k := s.core n
    (∀ o : Op, s.opHead n = some o → o.kind = .carry → s.holdsLast c.die.val (span o.addr 32) = true →
      let p := Party.handler c
      let words := (List.range 6).map fun i => o.pay.extractLsb' (32 * i) 32
      let s1 : State :=
        { ((s.took c o).mod p fun x => x.startCarried o) with cur := p }
      let answers (t : State) (v : BitVec 64) : Prop := t.cur = s.cur ∧ (t.ctx p).run = .idle ∧ (t.ctx p).sb = [] ∧
        (o.reply = true → partyOf o.issuer ≠ p → (t.ctx (partyOf o.issuer)).reply.getLast? = some { id := o.id, val := v })
      (∀ s2 : State, runCarried p s1 0 words = .finished s2 → ∃ t : State, exec (.carriedCodeRun c) s = .next t ∧ answers t (capAddr ((s2.ctx p).reg 11))) ∧
      (o.pay.extractLsb' 0 32 = 0x0E00002B#32 → ∃ t : State, exec (.carriedCodeRun c) s = .next t ∧ answers t (o.pay.extractLsb' 192 64)) ∧
      (∀ i : Nat, runCarried p s1 0 words = .faulted i → o.reply = true → exec (.carriedCodeRun c) s =
        .next ((s.took c o).replyTo o 0 (some (0x28, BitVec.ofNat 64 i))))) ∧
    let waits := k.actors.filter fun x => x.unjournalled != []
    (waits = [] → exec (.journalAppend c) s = .next s) ∧
    (∀ (a : Actor) (m : Message) (rest : List Message) (e : BankEntry), waits.find? s.journalRoom = some a → a.unjournalled = m :: rest →
      (s.bankStore (descBankh a.desc)).2.bankOf (descBankh a.desc) a.name = some e → ∃ (t : State) (b : Actor), exec (.journalAppend c) s = .next t ∧
        t.bankOf (descBankh a.desc) a.name = some { e with journal := e.journal ++ [.delivered m] } ∧
        (t.core n).actor a.name = some b ∧ b.unjournalled = rest) ∧
    (∀ a : Actor, waits.find? s.journalRoom = none → (waits.find? fun a => !s.fullReported a) = some a →
      exec (.journalAppend c) s = .next ((s.setCore n (k.setActor a.name fun x => { x with journalFull := true })).report 0
        { cause := 0x2D, part := a.part, cls := a.cls, key := a.key, unit := 9, tuple := s.dev.num ++ 0#14 })) ∧
    (k.preempted = false → k.diverting = true →
      (k.spill = [] → exec (.spillRedelivery c) s = .next (s.setCore n { k with diverting := false, spillReported := false })) ∧
      (∀ (m : Message) (rest : List Message), k.spill = m :: rest →
        (k.inboxCount < 64 → ∃ t : State, exec (.spillRedelivery c) s = .next t ∧ (t.core n).spill = rest ∧ (t.core n).diverting = (rest != [])) ∧
        (64 ≤ k.inboxCount → exec (.spillRedelivery c) s = .next s))) ∧
    (∀ d h : Nat, k.heldSince = some h → h + 4096 ≤ k.cyc → 64 ≤ k.inboxCount → k.tokenOut = false → k.reserveUsed = false → s.headCore n = some d →
      ∃ t : State, exec (.probeTokenSend c) s = .next t ∧ (t.core n).tokenOut = true ∧
        (d = n → (t.core n).tokenBack = true) ∧ (d ≠ n → (t.core d).tokens = (s.core d).tokens ++ [n])) ∧
    (∀ (o : Nat) (rest : List Nat), k.tokens = o :: rest →
      (k.inboxCount < 64 → ∃ t : State, exec (.probeTokenForward c) s = .next t ∧ (t.core n).tokens = rest ∧ (t.core o).tokenOut = false) ∧
      (∀ d : Nat, 64 ≤ k.inboxCount → k.heldSince ≠ none → s.headCore n = some d → d ≠ n → ∃ t : State, exec (.probeTokenForward c) s = .next t ∧
        (t.core n).tokens = rest ∧ (if d = o then (t.core d).tokenBack = true else (t.core d).tokens = (s.core d).tokens ++ [o]))) ∧
    (k.tokenBack = false ∨ k.reserveUsed = true ∨ k.diverting = true ∨ k.preempted = true → exec (.emergencyEntry c) s = .next s) ∧
    (k.tokenBack = true → k.reserveUsed = false → k.diverting = false → k.preempted = false →
      (k.blocked = [] → exec (.emergencyEntry c) s = .next (s.setCore n { k with tokenBack := false, tokenOut := false })) ∧
      (∀ (i : Nat) (o : Op) (rest : List Nat), k.blocked = chanOp o.id :: rest → (s.dev.ops.findIdx? fun x => x.id == o.id) = some i →
        s.dev.ops[i]? = some o → o.owner = n → s.released o.rel = true → (∀ x ∈ s.dev.ops.take i, x.issuer = o.issuer → x.owner ≠ n) →
        ∃ t : State, exec (.emergencyEntry c) s = .next t ∧ t.dev.ops = s.dev.ops.eraseIdx i ∧
          (t.core n).opInbox = k.opInbox ++ [{ o with reserve := true }] ∧ (t.core n).tokenBack = false ∧ (t.core n).tokenOut = false ∧
          (t.core n).blocked = k.blocked.filter fun x => x != chanOp o.id))

/-- A message at the head of a home's events is forwarded to the host of a live entry with FWD one up, joins the buffer of an entry that is not live, makes a kindling entry where the actor has none and the table has room, and otherwise waits, behind the messages for its actor that wait already; those are tried again in their order. A bank intent whose count agrees with FWD moves the entry and sends the bank order, in one step of the home (log 84, DESIGN CHOICE); any other is refused. An image written frees the entry, or kindles it again when messages wait. A refused bank makes the entry live, and its buffer is forwarded. A handover marker puts the old home's messages first, those that have gone ahead of it before the others. A host chosen for a kindling entry takes the actor in. An actor whose home has moved is banked; an entry with nothing live goes to the new home with its messages, once none is on its way to the old one (log 89, DESIGN CHOICE). An event of another kind at the head is left. A kindle whose state is in place makes the actor hosted and its entry live; one that finds no room waits for a host again (log 26, DESIGN CHOICE), and one whose initial image the die has still to translate asks for a walk. A bank order with room in the store writes the image, clears the live marker and the journal, and forgets the actor. A ship order hands the actor with its state to its new host, which takes it in where its state area has room and its inbox room for what the actor's ports hold (log 123, DESIGN CHOICE). A decrement below CURRENT writes the difference and is received; one that reaches it queues a counter firing with the counter's handler, with OVR where it passes it, and one with DELTA 0 is received alone. -/
def Obligations.HomesAndHosts : Prop :=
  (∀ (s : State) (die : Fin 8) (clu : Fin 256) (rest : List HomeEvent),
    let home := die.val * 256 + clu.val
    let k := s.clu home
    let chan (t : State) (h : Hearth) : List HostItem := (t.clu home).toHost.getD h.hostCore []
    let entry (t : State) (i : Nat) (h : Hearth) : Prop := (t.clu home).hearth.find i = some h
    (∀ m : Message, k.homeQ = .msg m :: rest →
      let first := ∀ x ∈ k.full, x.name ≠ m.name
      (∀ (i : Nat) (h : Hearth), first → k.entryOf m.name = some (i, h) → h.state = .live → h.hostDev = none → ∃ t : State, exec (.homeMessageArrival die clu) s = .next t ∧
        (t.clu home).homeQ = rest ∧ chan t h = chan s h ++ [.msg m] ∧ entry t i { h with fwd := h.fwd + 1 }) ∧
      (∀ (i : Nat) (h : Hearth), first → k.entryOf m.name = some (i, h) → h.state ≠ .live → ∃ t : State, exec (.homeMessageArrival die clu) s = .next t ∧
        (t.clu home).homeQ = rest ∧ entry t i { h with buffer := h.buffer ++ [m] }) ∧
      (∀ i : Nat, first → k.entryOf m.name = none → k.freeHearth = some i → ∃ (t : State) (e : Hearth), exec (.homeMessageArrival die clu) s = .next t ∧
        entry t i e ∧ e.state = .kindling ∧ e.buffer = [m] ∧ e.name = m.name ∧ e.fwd = 0) ∧
      (¬first ∨ (k.entryOf m.name = none ∧ k.freeHearth = none) → ∃ t : State, exec (.homeMessageArrival die clu) s = .next t ∧
        (t.clu home).full = k.full ++ [m]) ∧
      exec (.bankIntent die clu) s = .next s ∧ exec (.handoverMarker die clu) s = .next s) ∧
    (∀ (p : BitVec 8) (cl : BitVec 16) (y : BitVec 64) (count : BitVec 16) (host : Nat), k.homeQ = .intent p cl y count host :: rest →
      (∀ (i : Nat) (h : Hearth), k.entryOf (p, cl, y) = some (i, h) → h.state = .live → h.fwd = count → ∃ t : State, exec (.bankIntent die clu) s = .next t ∧
        (t.clu home).homeQ = rest ∧ chan t h = chan s h ++ [.bank p cl y] ∧ entry t i { h with state := .moving, dest := true }) ∧
      ((∀ (i : Nat) (h : Hearth), k.entryOf (p, cl, y) = some (i, h) → h.state ≠ .live ∨ h.fwd ≠ count) → ∃ t : State, exec (.bankIntent die clu) s = .next t ∧
        (t.clu home).toHost.getD host [] = k.toHost.getD host [] ++ [.refused p cl y] ∧ (t.clu home).hearth = k.hearth)) ∧
    (∀ (p : BitVec 8) (cl : BitVec 16) (y : BitVec 64) (ms : List Message) (i : Nat) (h : Hearth), k.homeQ = .imageWritten p cl y ms :: rest → k.entryOf (p, cl, y) = some (i, h) → h.leaving = false →
      (ms ++ h.buffer = [] → ∃ t : State, exec (.imageWritten die clu) s = .next t ∧ (t.clu home).hearth.find i = none) ∧
      (ms ++ h.buffer ≠ [] → ∃ (t : State) (e : Hearth), exec (.imageWritten die clu) s = .next t ∧ entry t i e ∧ e.state = .kindling ∧
        e.buffer = ms ++ h.buffer ∧ e.fwd = 0 ∧ e.pin = false)) ∧
    (∀ (p : BitVec 8) (cl : BitVec 16) (y : BitVec 64) (i : Nat) (h : Hearth), k.homeQ = .bankRefused p cl y :: rest → k.entryOf (p, cl, y) = some (i, h) → h.hostDev = none → ∃ t : State, exec (.bankRefused die clu) s = .next t ∧
      chan t h = chan s h ++ h.buffer.map .msg ∧ ∃ e : Hearth, entry t i e ∧ e.state = .live ∧ e.buffer = [] ∧
        e.fwd = h.fwd + BitVec.ofNat 16 h.buffer.length) ∧
    (∀ (p : BitVec 8) (cl : BitVec 16) (y : BitVec 64) (ms : List Message) (i : Nat) (h : Hearth), k.entryOf (p, cl, y) = some (i, h) → h.handover = true →
      (k.homeQ = .marker p cl y ms true :: rest → ∃ (t : State) (e : Hearth), exec (.handoverMarker die clu) s = .next t ∧
        entry t i e ∧ e.buffer = h.handed ++ ms ++ h.buffer ∧ e.handed = [] ∧ e.handover = false ∧ e.state = h.state) ∧
      (k.homeQ = .marker p cl y ms false :: rest → ∃ t : State, exec (.handoverMarker die clu) s = .next t ∧
        entry t i { h with handed := h.handed ++ ms })) ∧
    (∀ (j i : Nat) (h : Hearth) (d : BitVec 512) (s1 : State) (n : Nat), k.unchosen[j]? = some i → entry s i h → h.chosen = false → h.handover = false → h.state = .kindling → s.isFaulted h.name = false →
      s.movedAway home h.name = false →
      s.readDesc die.val h.part h.cls = (d, s1) → s1.pickHost home (runSize d) h.part none = some n → ∃ t : State, exec (.kindleHostRetry die clu j) s = .next t ∧
        (t.core n).incoming = (s.core n).incoming ++ [{ home := home, part := h.part, cls := h.cls, key := h.key }] ∧
        entry t i { h with chosen := true, host := BitVec.ofNat 11 n, hostDie := die.val }) ∧
    (∀ (j i : Nat) (m : Message) (h : Hearth), k.unchosen[j]? = none → k.full[j - k.unchosen.length]? = some m →
      ((∃ x ∈ k.full.take (j - k.unchosen.length), x.name = m.name) → exec (.kindleHostRetry die clu j) s = .next s) ∧
      ((∀ x ∈ k.full.take (j - k.unchosen.length), x.name ≠ m.name) → k.entryOf m.name = some (i, h) → h.state = .live → h.hostDev = none → ∃ t : State,
        exec (.kindleHostRetry die clu j) s = .next t ∧ (t.clu home).full = k.full.eraseIdx (j - k.unchosen.length) ∧
        chan t h = chan s h ++ [.msg m])) ∧
    (s.movedEntries home = [] → exec (.addrHomeHandover die clu) s = .next s) ∧
    (∀ (i : Nat) (h : Hearth), s.movedEntries home = [(i, h)] → h.state = .live → ∃ t : State, exec (.addrHomeHandover die clu) s = .next t ∧
      chan t h = chan s h ++ [.bank h.part h.cls h.key] ∧ entry t i { h with state := .moving, dest := true, leaving := true }) ∧
    (∀ (i : Nat) (h : Hearth) (d : BitVec 512) (u : State) (e c : Nat), s.movedEntries home = [(i, h)] → h.state = .kindling → h.chosen = false → h.handover = false →
      home ∉ s.goingTo h.name → s.readDesc die.val h.part h.cls = (d, u) →
      (u.setClu home { u.clu home with hearth := k.hearth.drop i }).homeOf die.val d h.part h.cls h.key = .at u.dev.num.toNat e c →
      e * 256 + c ≠ home → ∃ t : State, exec (.addrHomeHandover die clu) s = .next t ∧ (t.clu home).hearth.find i = none ∧
        (t.clu (e * 256 + c)).homeQ = (s.clu (e * 256 + c)).homeQ ++ [.marker h.part h.cls h.key (h.buffer.map fun m => m.through e) true])) ∧
  (∀ (s : State) (c : CoreId),
    let n := c.ix
    let k := s.core n
    (∀ (i : Nat) (x : Incoming) (s1 : State), k.incoming[i]? = some x → x.shipped = none → x.gang = none → s.initMissing n x.name = none → s.kindleAt n x.home x.name false = (true, s1) →
      ∃ t : State, exec (.kindleStateInPlace c i) s = .next t ∧
        (∃ a ∈ (t.core n).actors, a.name = x.name ∧ a.home = x.home ∧ a.size = windowSize a.desc ∧ a.running = false) ∧
        (t.core n).incoming = k.incoming.eraseIdx i ∧
        ∀ (j : Nat) (h : Hearth), (s.clu x.home).entryOf x.name = some (j, h) → ∃ e : Hearth, (t.clu x.home).hearth.find j = some e ∧ e.state = .live ∧ e.buffer = []) ∧
    (∀ (i : Nat) (x : Incoming), k.incoming[i]? = some x → x.shipped = none → x.gang = none →
      (∀ va : Nat, s.initMissing n x.name = some va → exec (.kindleStateInPlace c i) s = .next (s.askUnit (unitKey c.die.val 22) c.die.val x.part va)) ∧
      (∀ s1 : State, s.initMissing n x.name = none → s.kindleAt n x.home x.name false = (false, s1) →
        (s1.isFaulted x.name = true ∨ ∀ a ∈ (s1.core n).actors, a.intent = false) → ∃ t : State, exec (.kindleStateInPlace c i) s = .next t ∧
          (t.core n).incoming = (s1.core n).incoming.eraseIdx i ∧
          ∀ (j : Nat) (h : Hearth), (s1.clu x.home).entryOf x.name = some (j, h) → (t.clu x.home).hearth.find j = some { h with chosen := false })) ∧
    (∀ (a : Actor) (w : BitVec 256) (s1 : State) (e : BankEntry), k.ordered HostOrder.isBank = some a → s.bankStore (descBankh a.desc) = (some w, s1) →
      s1.bankOf (descBankh a.desc) a.name = some e →
      let img := s1.windowImage n a
      s1.bankRoom (descBankh a.desc) w (BankEntry.bytes { image := some img } - e.bytes) = true → ∃ t : State, exec (.bankOrder c) s = .next t ∧
        t.bankOf (descBankh a.desc) a.name = some
          { e with image := some img, live := none, jpos := e.jpos + e.journal.length, journal := [] } ∧
        (∀ b ∈ (t.core n).actors, b.name ≠ a.name) ∧
        (t.clu a.home).homeQ = (s.clu a.home).homeQ ++ [.imageWritten a.part a.cls a.key (k.heldFor a.name)]) ∧
    (∀ (a : Actor) (dest : Nat), k.ordered HostOrder.isShip = some a → a.order = .ship dest → ∃ (t : State) (x : Incoming) (b : Actor), exec (.shipOrder c) s = .next t ∧
      (t.core dest).incoming = (s.core dest).incoming ++ [x] ∧ x.home = a.home ∧ x.name = a.name ∧
      x.shipped = some (b, s.windowImage n a) ∧ b.ports = a.ports ∧ b.pin = a.pin ∧ b.counters = a.counters ∧
      ∀ y ∈ (t.core n).actors, y.name ≠ a.name) ∧
    (∀ (i : Nat) (x : Incoming) (a : Actor) (bs : List Byte), (k.incoming.findIdx? fun x => x.shipped.isSome) = some i → k.incoming[i]? = some x → x.shipped = some (a, bs) →
      x.placed = false → s.fits n (runSize a.desc) [] = true →
      (k.inboxCount ≠ 0 → 64 < k.inboxCount + a.messages.length → exec (.moveStateInPlace c) s = .next s) ∧
      ((k.inboxCount = 0 ∨ k.inboxCount + a.messages.length ≤ 64) → x.later = [] → ∃ t : State, exec (.moveStateInPlace c) s = .next t ∧ (t.core n).incoming = k.incoming.eraseIdx i ∧
        (∃ b ∈ (t.core n).actors, b.name = a.name ∧ b.size = a.size ∧ b.pin = a.pin) ∧
        ∀ (j : Nat) (h : Hearth), (s.clu x.home).entryOf a.name = some (j, h) → ∃ e : Hearth, (t.clu x.home).hearth.find j = some e ∧ e.state = .live ∧
          e.host = BitVec.ofNat 11 n)) ∧
    (∀ (m : Message) (a : Actor), (k.decs.find? fun m => match k.actor m.name with
        | some a => !a.running && !a.saved
        | none => false) = some m → k.actor m.name = some a → (hdrPrio m.hdr).toNat < counterCount a.desc →
      let s0 := s.setCore n { k with decs := k.decs.erase m }
      let q := spPlace n (a.off + descCtoff a.desc * 16 + 16 * (hdrPrio m.hdr).toNat)
      let delta := hdrDelta m.hdr
      let now := s.peek c.die.val (q + 4) 4
      let put (v : Nat) : State := s0.writeAt c.die.val (plainCells (bytesCells (q + 4) v 4)) false []
      (delta = 0 → exec (.decrementApply c) s = .next (s0.recvAll n [m])) ∧
      (delta ≠ 0 → delta < now → exec (.decrementApply c) s = .next ((put (now - delta)).recvAll n [m])) ∧
      (delta ≠ 0 → now ≤ delta → ∃ (t : State) (b : Actor), exec (.decrementApply c) s = .next t ∧ t.dies = (put (s.peek c.die.val q 4)).dies ∧
        (t.core n).actor a.name = some b ∧ b.counters = a.counters ++ [(s.peek64 c.die.val (q + 8),
          { m with hdr := if now < delta then m.hdr ||| 0x10000000 else m.hdr })] ∧ (t.core n).recv = k.recv)))

/-- A context that may pick starts, of its partition, the oldest ready actor's next firing or the newest sheet; where both wait, one pick in four is a sheet's. A keyed firing starts at its entry with the first message's class, key, tag, depth, header and payload, the state window in x3 and the other registers zero; a sheet of a valid sheet class at its entry with its four dwords. A firing that ends, once its stores have drained, leaves the context idle and the actor not running, and wait writes the counter's handler. A thief takes the older half of the first victim's sheets of its partition, or asks no more for 256 cycles. A quire below 64 sheets is filled up to 128 with the newest of its overflow area. -/
def Obligations.SchedulingEvents : Prop :=
  ∀ (s : State) (c : CoreId) (k : Fin 4),
    let n := c.ix
    let core := s.core n
    let p := Party.ctx c k
    let x := s.ctx p
    let f := x.firing
    let part := slotPart core.slots k.val
    let keyed := core.readyQ.any fun y => y.1 == part
    let all := core.quireOvf ++ core.quire
    let sheets := all.any fun y => y.part == part
    let turn := core.pickCtr.getD part.toNat 0
    (s.mayPick c k = false → exec (.contextPick c k) s = .next s) ∧
    (s.mayPick c k = true → keyed = true → (sheets = true → turn ≠ 3) → ∀ (name : ActorName) (a : Actor) (pick : Pick), (core.readyQ.find? fun y => y.1 == part) = some name →
      core.actor name = some a → a.nextPick = some pick → ∃ t : State, exec (.contextPick c k) s = .next t ∧
        let ms := (a.consume pick).1
        let m := ms.headD {}
        let y := t.ctx p
        y.run = .running ∧ y.pc = a.entryFor pick ∧ y.kcls = m.cls ∧ y.kkey = m.key ∧ y.ltag = hdrLtag m.hdr ∧ y.fdep = hdrDepth m.hdr ∧
          y.partid = a.part ∧ y.firing.consumed = ms ∧ y.firing.untaken = ms.drop 1 ∧ y.reg 3 = windowCap a.off a.size ∧
          y.reg 9 = dataReg m.hdr ∧ y.reg 10 = dataReg (payWord m.pay 0) ∧ y.reg 15 = dataReg (payWord m.pay 5) ∧
          (∀ r : BitVec 5, r ≠ 3 → (r.toNat < 9 ∨ 15 < r.toNat) → y.reg r = 0) ∧
          (∃ b : Actor, (t.core n).actor name = some b ∧ b.running = true ∧ b.ready = false) ∧ (t.core n).readyQ = core.readyQ.erase name) ∧
    (s.mayPick c k = true → sheets = true → (keyed = true → turn = 3) → ∀ (y : Sheet) (q : Core) (d : BitVec 512) (s1 : State), core.popSheet part = some (y, q) →
      s.readDesc c.die.val part (y.d0.extractLsb' 0 16) = (d, s1) → sheetRefusal d (y.d0.extractLsb' 0 16) = none → y.resume.rpc = 0 →
      ∃ t : State, exec (.contextPick c k) s = .next t ∧
        let z := t.ctx p
        z.run = .running ∧ z.pc = descEntry d ∧ z.firing.sheet = true ∧ z.kkey = y.d1 ∧ z.reg 9 = dataReg y.d0 ∧ z.reg 10 = dataReg y.d1 ∧
          z.reg 11 = dataReg y.d2 ∧ z.reg 12 = dataReg y.d3 ∧ z.reg 13 = 0 ∧ (t.core n).quire = q.quire) ∧
    ((x.run ≠ .ending ∨ x.sb ≠ [] ∨ x.waiting ≠ none) → exec (.firingEnd c k) s = .next s) ∧
    (x.run = .ending → x.sb = [] → x.waiting = none → f.sheet = false → descJrnl f.desc = false → f.bankAfter = false →
      ∃ t : State, exec (.firingEnd c k) s = .next t ∧ (t.ctx p).run = .idle ∧ (t.ctx p).firing = {} ∧
        (∀ a : Actor, core.actor f.name = some a → ∃ b : Actor, (t.core n).actor f.name = some b ∧ b.running = false ∧ b.ports = a.ports) ∧
        (f.waitCounter = none → t.dies = s.dies) ∧
        (∀ (i : Nat) (h : BitVec 64), f.waitCounter = some (i, h) → t.dies = (s.writeAt c.die.val
          (plainCells (bytesCells (spPlace n (f.winOff + descCtoff f.desc * 16 + 16 * i + 8)) h.toNat 8)) false []).dies)) ∧
    (s.mayPick c k = true → keyed = false → sheets = false → x.stealAfter ≤ core.cyc →
      ((stealOrder c).find? (fun v => (s.core v).yields part != []) = none →
        exec (.stealServe c k) s = .next (s.setCtx p { x with stealAfter := core.cyc + 256 })) ∧
      (∀ v : Nat, (stealOrder c).find? (fun v => (s.core v).yields part != []) = some v → v ≠ n →
        let ys := (s.core v).yields part
        core.quire.length + ys.length ≤ 256 → ∃ t : State, exec (.stealServe c k) s = .next t ∧ (t.core n).quire = core.quire ++ ys ∧
          ((t.core v).quireOvf ++ (t.core v).quire).filter (fun y => y.part == part) =
            (((s.core v).quireOvf ++ (s.core v).quire).filter fun y => y.part == part).drop ys.length)) ∧
    (core.cyc < x.stealAfter → exec (.stealServe c k) s = .next s ∧ exec (.stealBackoffExpiry c k) s = .next s) ∧
    (x.stealAfter ≤ core.cyc → exec (.stealBackoffExpiry c k) s = .next (s.setCtx p { x with stealAfter := 0 })) ∧
    (core.quire.length < 64 → core.quireOvf ≠ [] →
      let keep := core.quireOvf.length - min (128 - core.quire.length) core.quireOvf.length
      exec (.quireRefill c) s = .next (s.setCore n { core with
        quire := core.quireOvf.drop keep ++ core.quire, quireOvf := core.quireOvf.take keep })) ∧
    (64 ≤ core.quire.length ∨ core.quireOvf = [] → exec (.quireRefill c) s = .next s)

/-- The expansion of the lowest record that has not started reads its count and class once: a count that cannot be read (log 82, DEDUCED), or is too large, or a class that would discard the items, ends the record, as does a count of 0; otherwise its items are to be made. An item of a record with items left goes to its home with the key, the index and the record's number, and counts as sent; a sheet goes to the next core of its record's own rotation that serves the partition (log 124, DESIGN CHOICE: where the rotation begins), and while that core has no room no other takes it. A sweep root (log 33, DESIGN CHOICE) starts a sweep of a partition at most once in 65,536 cycles, and reads every unit at a moment of its own (log 31, DESIGN CHOICE); once the last is read, on a device that is its own domain, a tag whose sums are equal and idle at two sweeps has ended, and its notices are armed no longer; any other keeps them. A member core on a die of a gang that is armed and has not started is reserved. On device DEVBASE, once every member core of its own is reserved for the gang and free, a gang of a class whose port 0 is a count port starts, and every member core takes its member actor in with its notice (log 34, DESIGN CHOICE: the parts on other devices); until then nothing happens. A delivery waits for room in the inbox, and for an entry that the actor has already to go (log 125, DESIGN CHOICE). A member that its core takes in is pinned and live at its home. When ARM is clear, a known gang is forgotten and its cores are reserved for it no longer. -/
def Obligations.LaunchesAndGangs : Prop :=
  (∀ (s : State) (die : Fin 8),
    let d := die.val
    let pool := (s.die d).pool
    (∀ (i : Nat) (r : LaunchRec), (pool.find? fun x => !x.2.started) = some (i, r) →
      let gone : Prop := ∃ t : State, exec (.launchExpansionStart die) s = .next t ∧ (t.die d).pool.find i = none
      (∀ va : Nat, s.launcherMissing d r = some va → exec (.launchExpansionStart die) s = .next (s.askUnit (unitKey d 23) d r.part va)) ∧
      (s.launcherMissing d r = none → s.launchCount d r = none → gone) ∧
      (∀ n : Nat, s.launcherMissing d r = none → s.launchCount d r = some n → (1048575 < n → gone) ∧
        (n ≤ 1048575 → ∀ (desc : BitVec 512) (s1 : State), s.readDesc d r.part (recClass r.w0) = (desc, s1) → (launchRefusal desc r ≠ none ∨ n = 0 → gone) ∧
          (launchRefusal desc r = none → n ≠ 0 → ∃ t : State, exec (.launchExpansionStart die) s = .next t ∧
            (t.die d).pool.find i = some { r with started := true, n := n, desc := desc })))) ∧
    ((pool.filter fun x => x.2.itemsLeft) = [] → exec (.launchItem die) s = .next s) ∧
    (∀ (n : Nat) (r : LaunchRec) (dev h clu : Nat), (pool.filter fun x => x.2.itemsLeft) = [(n, r)] → pool.find n = some r → descSheet r.desc = false →
      s.homeMissing r.desc r.part (r.key r.item) = none → (s.launcherSent d r.part (recLtag r.w0)).homeOf d r.desc r.part (recClass r.w0) (r.w1 + BitVec.ofNat 64 r.item) = .at dev h clu → ∃ (t : State) (u : UnitMsg), exec (.launchItem die) s = .next t ∧
        t.dev.unitMsgs = s.dev.unitMsgs ++ [u] ∧ u.dest = .home dev h clu ∧ u.m.key = r.w1 + BitVec.ofNat 64 r.item ∧
        u.m.cls = recClass r.w0 ∧ u.m.part = r.part ∧ hdrLtag u.m.hdr = recLtag r.w0 ∧ hdrDepth u.m.hdr = recDepth r.w0 ∧
        payWord u.m.pay 0 = r.w2 ∧ payWord u.m.pay 1 = BitVec.ofNat 64 r.item ∧ payWord u.m.pay 3 = BitVec.ofNat 64 n ∧
        (t.die d).sent = countUp (s.die d).sent r.part (recLtag r.w0) ∧
        (r.again = [] → (t.die d).pool.find n = some { r with next := r.next + 1 }) ∧ (t.die d).nextRec = n + 1) ∧
    (∀ (n c : Nat) (r : LaunchRec), (pool.filter fun x => x.2.itemsLeft) = [(n, r)] → pool.find n = some r → descSheet r.desc = true →
      s.nextServing d r.nextCore r.part = some c →
      let core := d * 2048 + c
      let y := r.sheet d n r.item
      ((s.core core).pushSheet y = none → ∃ t : State, exec (.launchItem die) s = .next t ∧ (t.die d).pool = pool ∧ t.cores = s.cores) ∧
      (∀ z k, (s.core core).pushSheet y = some (z, k) → ∃ t : State, exec (.launchItem die) s = .next t ∧ t.core core = k ∧
        (t.die d).sent = countUp (s.die d).sent r.part (recLtag r.w0) ∧
        (r.again = [] → (t.die d).pool.find n = some { r with next := r.next + 1, nextCore := (c + 1) % 2048 }))) ∧
    (∀ part : BitVec 8,
      let now := (s.core (s.rootOf part)).cyc
      let due := s.dev.sweepAt.getD part.toNat 0 + 65536
      (s.dev.sweeping.find part.toNat = none →
        (now < due → exec (.launchSweep part) s = .next s) ∧
        (due ≤ now → ∃ (t : State) (y : Sweeping), exec (.launchSweep part) s = .next t ∧ t.dev.sweeping.find part.toNat = some y ∧
          y.left = s.sweepUnits ∧ y.sums = [] ∧ (∀ x ∈ s.dev.notices, x.part = part → x.tag ∈ y.tags) ∧
          t.dev.sweepAt.find part.toNat = some now ∧ t.dev.notices = s.dev.notices)) ∧
      (∀ x : Sweeping, s.dev.sweeping.find part.toNat = some x →
        (x.left ≠ [] → ∃ (t : State) (u : Nat), u ∈ x.left ∧ exec (.launchSweep part) s = .next t ∧ t.dev.notices = s.dev.notices ∧
          t.dev.sweeping.find part.toNat = some { x with
            left := x.left.erase u
            sums := x.tags.foldl (fun m g => m.put g.toNat ((m.getD g.toNat SweepSum.none).add (s.unitSum u part g))) x.sums }) ∧
        (∀ tag : BitVec 12, x.left = [] → x.tags = [tag] → (∀ y ∈ s.dev.domain, y = s.dev.num) →
          let key := tagKey part tag
          let sum := x.sums.getD tag.toNat SweepSum.none
          let ended := s.dev.sweeps.find key = some sum ∧ sum.idle = true ∧ sum.sent = sum.recv
          (ended → ∃ t : State, exec (.launchSweep part) s = .next t ∧ t.dev.sweeping.find part.toNat = none ∧ t.dev.sweeps.find key = none ∧
            ∀ y ∈ t.dev.notices, y.part = part → y.tag ≠ tag) ∧
          (¬ended → ∃ t : State, exec (.launchSweep part) s = .next t ∧ t.dev.sweeping.find part.toNat = none ∧
            t.dev.sweeps.find key = some sum ∧ t.dev.notices = s.dev.notices))))) ∧
  (∀ (s : State) (die : Fin 8) (c : CoreId) (part : BitVec 8) (g : Nat),
    let d := (s.gangDesc part g).1
    let id := gangId part g
    (∃ t : State, exec (.gangReserve die) s = .next t ∧ t.ctxs = s.ctxs ∧
      (g < 64 → part.toNat ∈ s.dev.ctbase.map (·.1) → gdArm d = true → s.gangHere d = true →
        (∀ y ∈ s.dev.gangs, y.part = part → y.index = g → y.started = false) →
        ∀ n ∈ gangCores d, n / 2048 = die.val → ∃ i : Nat, (t.core n).gangReserved = some i)) ∧
    (∀ (x : Gang) (cls : BitVec 512) (s1 : State), (s.dev.gangs.find? fun x => x.part == part && x.index == g && !x.started) = some x →
      let free := ∀ n ∈ gangCores x.desc, (s.core n).gangReserved = some id ∧ s.memberFree n = true
      (s.dev.num ≠ gdDevbase x.desc ∨ ¬free → exec (.gangStart part g) s = .next s) ∧
      (s.dev.num = gdDevbase x.desc → s.gangHere x.desc = true → free → s.readDesc 0 part (gdClass x.desc) = (cls, s1) → gangClassOk cls (gdClass x.desc) = true →
        s1.gangMissing part x.desc = none → ∃ t : State, exec (.gangStart part g) s = .next t ∧ (∀ y ∈ t.dev.gangs, y.part = part → y.index = g → y.started = true) ∧
          ∀ n ∈ gangCores x.desc, ∃ y ∈ (t.core n).incoming, y.gang ≠ none ∧ y.part = part ∧ y.cls = gdClass x.desc)) ∧
    ((s.dev.gangs.find? fun x => x.part == part && x.index == g && !x.started) = none → exec (.gangStart part g) s = .next s) ∧
    (∀ (i : Nat) (x : Incoming) (m : Message) (desc : BitVec 512) (s0 : State) (h clu j : Nat) (s1 : State), ((s.core c.ix).incoming.findIdx? fun x => x.gang.isSome) = some i → (s.core c.ix).incoming[i]? = some x →
      x.gang = some m → (s.readDesc c.die.val x.part x.cls).1 = desc →
      let u := (s.readDesc c.die.val x.part x.cls).2
      u.homeMissing desc x.part x.key = none → s.initMissing c.ix x.name = none →
      u.findHome c.die.val desc x.part x.cls x.key = (.at s.dev.num.toNat h clu, s0) →
      let home := h * 256 + clu
      (64 ≤ (s0.core c.ix).inboxCount ∨ (s0.clu home).entryOf x.name ≠ none ∨ (s0.clu home).freeHearth = none →
        exec (.gangStartDelivery c) s = .next s0) ∧
      ((s0.core c.ix).inboxCount < 64 → (s0.clu home).entryOf x.name = none → (s0.clu home).freeHearth = some j → s0.kindleAt c.ix home x.name true = (true, s1) →
      ∃ (t : State) (e : Hearth), exec (.gangStartDelivery c) s = .next t ∧ (t.clu home).hearth.find j = some e ∧ e.state = .live ∧ e.pin = true ∧ e.name = x.name ∧
        e.hostDie = c.die.val ∧ (t.core c.ix).incoming = (s.core c.ix).incoming.eraseIdx i)) ∧
    (gdArm d = false → (∃ y ∈ s.dev.gangs, y.part = part ∧ y.index = g) → ∃ t : State, exec (.gangRelease part g) s = .next t ∧
      (∀ y ∈ t.dev.gangs, ¬(y.part = part ∧ y.index = g)) ∧ ∀ n : Nat, (t.core n).gangReserved ≠ some id) ∧
    (gdArm d = true → exec (.gangRelease part g) s = .next (s.gangDesc part g).2))

/-- A flit that is malformed, or of a type that is not listed, is discarded and reported; one that holds no data and is poisoned is reported with the hand-off (log 111, DESIGN CHOICE). A LONG or SHORT enters a request of the other device, to serve or to receive, and a LONG that writes registers it with its bytes past the prefix; at a full Damper it is held back. Until its pages are translated the request asks for walks; its first page, or every page of a SHORT, then decides: an error is answered with OFF 0, a page of a peer device with FWD, a LONG is acknowledged, a SHORT that writes has its data ready, a SHORT that reads is answered with the bytes once they are read, and a poisoned SHORT with error 0x03. DATA under a live token reaches its request, and under a void one nothing. A grant slot in turn grants up to 64 KiB of the record that it chooses, once the pages are translated, and is not taken where the next page faults; a token that expires has its range granted again, or on the fourth time its record is dropped; so is a tracked write that is silent. Saving and restoring a tag act on its records by their state, and a restored record goes on from what the save area holds; REREQ renews a saved record that has been restored, and changes nothing for a record that is not saved (log 92, DEDUCED). The places of what these flits carry are the model's (DESIGN CHOICE, log 39), and so is the area (log 112). -/
def Obligations.FabricRequests : Prop :=
  ∀ (s : State) (f : Flit) (qs : List Nat) (d : Nat), qs ≠ [] → (∀ z ∈ qs, homeDie z = d) →
    let g := s.goodFlit f
    let is (vc typ : Nat) : Prop := flitResvOk f = true ∧ flitVc f = vc ∧ flitType f = typ
    let w0 := flitWord f 0
    let addr := flitWord f 1
    let now := s.clock clockDamper
    let same (x r : DRec) : Prop := x.own = r.own ∧ x.src = r.src ∧ x.reqno = r.reqno
    (∀ i ∈ [Instr.long f, .short f, .data f, .rereq f, .ack f, .grant f, .msg f, .sweep f, .rdata f, .fwd f, .drop f, .mack f, .revoke f,
        .resume f, .setaside f, .clear f, .doneResponse f, .combinedDoneSplit f],
      let listed := flitResvOk f = true ∧ flitListed (flitVc f) (flitType f) = true
      (¬listed → exec i s = .next (g.discardFlit f)) ∧
      (listed → f.poison = true → flitHoldsData f = false → exec i s = .next (g.reportHandOff handOffLink))) ∧
    (∀ (e : Pending) (v : State), (g.unholdFlit f).entryFor f = (e, v) →
      let w := v.addPend e
      (e.farDev = flitSrc f ∧ e.reqno = flitReq f ∧ e.arrival = some f ∧ e.req.w0 = w0 ∧ e.len = reqLen w0 ∧ e.req.part = flitPart f) ∧
      (srcRemote (reqOp w0) = true → e.role = .serve ∧ capAddr e.req.src = addr) ∧
      (srcRemote (reqOp w0) = false → e.role = .recv ∧ capAddr e.req.dst = addr) ∧
      (is 0 0 → f.poison = false →
        (srcRemote (reqOp w0) = true → exec (.long f) s = .next (w.checkArrival e f)) ∧
        (srcRemote (reqOp w0) = false → reqPrefix w0 = false →
          (65536 ≤ s.dev.damper.length → exec (.long f) s = .next (g.holdFlit f)) ∧
          (s.dev.damper.length < 65536 → ∃ r : DRec, r.src = flitSrc f ∧ r.reqno = flitReq f ∧ r.addr = addr ∧
            r.next = reqPrefixLen w0 ∧ r.left = reqLen w0 - reqPrefixLen w0 ∧ r.checked = false ∧
            (reqPrefixLen w0 < reqLen w0 → r.state = (if s.tagSaved (flitPart f) (flitLtag f) then .saved else .waiting)) ∧
            exec (.long f) s = .next (((w.setDev { w.dev with damper := s.dev.damper ++ [r] }).noteSaved r).checkArrival e f))))) ∧
    (is 0 1 → ∀ (e : Pending) (v : State), g.entryFor f = (e, v) → exec (.short f) s = .next ((v.addPend e).checkArrival e f)) ∧
    (∀ (e : EngineId) (i : Nat) (p : Pending), s.pend e i = some p → p.arrival = some f → p.finishing = false →
      let off := s.dropArrival p
      let first := s.firstPage f
      let write := p.role ≠ .serve
      let ends (t : State) : Prop := exec (.copyRead e i) s = .next t ∧ exec (.copyWrite e i) s = .next t
      let short := reqShort p.req.w0
      let held := s.engMissing p addr.toNat p.arrivalLen = none
      (first = .noWindow → ends (off.answerError f 0x08 0)) ∧
      (∀ va : Nat, first ≠ .noWindow → s.engMissing p addr.toNat p.arrivalLen = some va → ends (s.askUnit p.tlbKey p.die p.req.part va)) ∧
      (held → first = .translation → ends (off.answerError f 0x01 0)) ∧
      (held → first = .access → ends (off.answerError f 0x02 0)) ∧
      (∀ dev : BitVec 12, held → first = .peer dev → ends (off.answerFwd f dev)) ∧
      (∀ z : Nat, held → first = .at z → short = false → (∀ r ∈ s.dev.prefixes, r.of p = false) →
        let u := s.setPend { p with arrival := none }
        ends ((u.setDev { u.dev with damper := s.dev.damper.map fun r => if r.of p then { r with checked := true } else r }).answer f 1 0 0 0)) ∧
      (∀ z : Nat, held → first = .at z → short = true →
        let found (need : Need) : List (Option Nat) × Option UnitPlace := s.engReach p need addr.toNat p.len
        (∀ c : UnitPlace, (found (if p.role == .serve then .r else .w)).2 = some c → ends (off.answerError f c.code 0)) ∧
        (found (if p.role == .serve then .r else .w) = (qs.map some, none) →
          (f.poison = true → ends ((off.reportHandOff handOffLink).answerError f 0x03 0)) ∧
          (f.poison = false → p.role = .serve → ends (s.setPend { p with arrival := none })) ∧
          (f.poison = false → write → p.op = 3 → p.dstAt 0 = addr.toNat →
            ((∃ z ∈ qs, s.cell (homeDie z) (poisonPlace z) ≠ 0#8) → ends (off.answerError f 0x03 0)) ∧
            ((∀ z ∈ qs, s.cell (homeDie z) (poisonPlace z) = 0#8) →
              ends (s.setPend { p with arrival := none, unread := [], chunks := [(0, shortData f p.len)] }))) ∧
          (f.poison = false → p.role = .recv → p.op = 2 → p.far = true → p.err = none → p.ready = [] → p.dstAt 0 = addr.toNat → ∃ x : Pending,
            ends (s.setPend x) ∧ x.id = p.id ∧ x.arrival = none ∧ x.err = none ∧ x.unread = [] ∧ x.unwritten = p.unwritten ∧
            (x.ready.map fun y => y.2.2).flatten = qs.zip (shortData f p.len))))) ∧
    (∀ (e : EngineId) (i : Nat) (p : Pending), s.pend e i = some p → p.arrival = none → p.finishing = false → p.role = .serve →
      reqShort p.req.w0 = true → p.err = none → p.unread = [] →
      exec (.copyWrite e i) s = .next ((s.fresh.2.dropPend p).sendOnPlane p.reqno
        { hdr := ({ p.head s.dev.num 1 2 with bytes := p.len } : FlitHead).bits, pay := BitVec.ofNat 512 (leNat (piecesAt p.copy 0 p.len)) })) ∧
    (is 3 0 → flitToken f ≠ 0 →
      ((∀ r ∈ s.dev.damper, r.holds f = false) → exec (.data f) s = .next g) ∧
      (∀ (r : DRec) (p : Pending) (tk : BitVec 16) (lo hi : Nat), (s.dev.damper.find? fun r => r.holds f) = some r → g.pendOf r = some p →
        r.token = some (tk, lo, hi) →
        let off := lo + 64 * flitChunk f
        let u := g.swapRec { r with state := .flowing }
        (f.poison = true → exec (.data f) s = .next ((u.reportHandOff handOffLink).noteFault p 0x03 off)) ∧
        (f.poison = false → exec (.data f) s = .next (u.setPend (p.landed off ((flitData f).take (hi - off))))))) ∧
    (∀ (p : Pending) (o x : Nat) (bs : List Byte),
      let lies (l : List (Nat × Nat)) : Prop := ∃ y ∈ l, y.1 ≤ x ∧ x < y.2
      lies (p.landed o bs).unread ↔ lies p.unread ∧ ¬(o ≤ x ∧ x < o + bs.length)) ∧
    (is 0 2 → f.poison = false → let found := s.dev.damper.find? fun r => r.src == flitSrc f && r.reqno == flitReq f
      (found = none → exec (.rereq f) s = .next (g.answer f 1 4 0 0)) ∧
      (∀ r : DRec, found = some r → r.state = .saved → r.resumed = true → ∃ t : State, exec (.rereq f) s = .next t ∧
        t.dev.damper.getLast? = some { r with state := (if r.left = 0 then .finishing else .waiting), resumed := false }) ∧
      (∀ r : DRec, found = some r → r.state = .saved → r.resumed = false → exec (.rereq f) s = .next (g.answer f 1 0 0 0)) ∧
      (∀ r : DRec, found = some r → r.state ≠ .saved → exec (.rereq f) s = .next g)) ∧
    (∀ slot : Nat,
      (slot ≠ s.dev.damperSlot ∨ 1024 ≤ s.liveTokens.length ∨ s.choose slot = none → exec (.damperGrant slot) s = .next s) ∧
      (∀ r : DRec, slot = s.dev.damperSlot → s.liveTokens.length < 1024 → s.choose slot = some r →
        let hi := r.next + min 65536 (s.grantable r)
        let grants : Prop := ∃ t : State, exec (.damperGrant slot) s = .next t ∧ t.dev.damperSlot = (slot + 1) % 8 ∧
          ∃ x ∈ t.dev.damper, same x r ∧ x.state = .granted ∧ x.next = hi ∧ x.left = r.left - (hi - r.next) ∧
            ∃ tk : BitVec 16, x.token = some (tk, r.next, hi)
        (r.own = true ∨ s.pendOf r = none → grants) ∧
        (∀ p : Pending, r.own = false → s.pendOf r = some p →
          let a := r.addr.toNat + r.next
          let fault := s.rangeFault r.part .w r.addr.toNat r.next hi
          (∀ va : Nat, s.engMissing p a (hi - r.next) = some va → exec (.damperGrant slot) s = .next (s.askUnit p.tlbKey p.die p.req.part va)) ∧
          (s.engMissing p a (hi - r.next) = none → fault = none → grants) ∧
          (∀ e : BitVec 8, s.engMissing p a (hi - r.next) = none → fault = some (e, r.next) →
            exec (.damperGrant slot) s = .next (s.noteFault p e (s.errAt p r.next)))))) ∧
    (∀ (i : Nat) (r : DRec) (tk : BitVec 16) (lo hi : Nat), s.dev.damper[i]? = some r → r.token = some (tk, lo, hi) →
      (r.state ≠ .granted ∨ now < r.since + 65536 → exec (.tokenExpiry i) s = .next s) ∧
      (r.state = .granted → r.since + 65536 ≤ now → r.exp < 3 → ∃ t : State, exec (.tokenExpiry i) s = .next t ∧ t.dev.damper.getLast? =
        some { r with token := none, next := lo, left := r.left + (hi - lo), exp := r.exp + 1, state := .waiting }) ∧
      (r.state = .granted → r.since + 65536 ≤ now → 3 ≤ r.exp → ∃ t : State, exec (.tokenExpiry i) s = .next t ∧ ∀ x ∈ t.dev.damper, ¬same x r)) ∧
    (∀ (i : Nat) (r : DRec), s.dev.prefixes[i]? = some r →
      (s.pendOf r = none → exec (.prefixTrackerTimeout i) s = .next s) ∧
      (∀ p : Pending, s.pendOf r = some p →
        (p.unwritten = [] ∨ now < r.since + 65536 → exec (.prefixTrackerTimeout i) s = .next s) ∧
        (p.unwritten ≠ [] → r.since + 65536 ≤ now → r.own = false → ∃ t : State, exec (.prefixTrackerTimeout i) s = .next t ∧
          ∀ x ∈ t.dev.prefixes, x.is r.src r.reqno = false))) ∧
    (∀ (part : BitVec 8) (tag : BitVec 12),
      (∃ t : State, exec (.damperSave part tag) s = .next t ∧ (part, tag) ∈ t.dev.damperSaved) ∧
      (∃ t : State, exec (.damperRestore part tag) s = .next t ∧ (part, tag) ∉ t.dev.damperSaved) ∧
      ∀ r : DRec, s.dev.damper = [r] → r.part = part → r.ltag = tag →
        (r.state = .waiting → ∃ t : State, exec (.damperSave part tag) s = .next t ∧ t.dev.damper = [{ r with state := .saved, resumed := false }] ∧
          ∃ x ∈ t.dev.damperArea, x.is r = true ∧ x.next = r.next ∧ x.left = r.left ∧ x.exp = r.exp) ∧
        (r.state = .flowing → ∃ t : State, exec (.damperSave part tag) s = .next t ∧ t.dev.damper = [{ r with saveAfter := true }]) ∧
        (∀ x : DSaved, r.state = .saved → (s.dev.damperArea.find? fun x => x.is r) = some x → ∃ t : State,
          exec (.damperRestore part tag) s = .next t ∧ t.dev.damper = [{ r with next := x.next, left := x.left, exp := x.exp, resumed := true }]))

/-- For a live request of this device that the flit names: ACK is noted, DONE ends it with its status and prior value, RDATA gives a short read its bytes, or error 0x03 where they are poisoned, FWD sends it once to the new holder and ends it the second time, DROP ends it with error 0x04 at the offset that DROP tells (log 93, DEDUCED), GRANT opens the range under the token in its payload, REVOKE holds it, and RESUME, or 2^20 silent cycles, has REREQ sent. A flit that names no request changes nothing. The token in GRANT, the offset in DROP and the payload in MACK are the model's places (log 39, DESIGN CHOICE). MACK acknowledges the flit that it names, whose message is then marked sent and whose launch item is done (log 121, DESIGN CHOICE). The DONE of a combined flit is split: each component receives the prior value with the addends before it. -/
def Obligations.FabricResponses : Prop :=
  ∀ (s : State) (f : Flit) (p : Pending),
    let g := s.goodFlit f
    let is (vc typ : Nat) : Prop := flitResvOk f = true ∧ f.poison = false ∧ flitVc f = vc ∧ flitType f = typ
    let heard := s.clock (clockFlue p.die)
    let again (u : State) : State := (u.setPend { p with heard := heard }).sendOnPlane p.reqno { hdr := (p.head s.dev.num 0 2).bits, pay := 0 }
    let failed : Prop := (flitWord f 0).extractLsb' 0 2 = 2#2
    (g.ownReq f = some p →
      (is 1 0 → p.gets = false → exec (.ack f) s = .next (g.setPend { p with heard := heard, answered := true })) ∧
      (is 1 1 → g.combinedOf (flitReq f) (flitSrc f) = none →
        (¬failed → p.gets = false → exec (.doneResponse f) s =
          .next (g.setPend { p with heard := heard, finishing := true, prior := flitWord f 1 })) ∧
        (failed → p.gets = false → exec (.doneResponse f) s =
          .next (g.failPend p ((flitWord f 0).extractLsb' 8 8) ((flitWord f 0).extractLsb' 32 32).toNat))) ∧
      (flitResvOk f = true → flitVc f = 1 → flitType f = 2 → p.gets = true → reqShort p.req.w0 = true → p.answered = false →
        (f.poison = true → exec (.rdata f) s = .next ((g.reportHandOff handOffLink).failPend p 0x03 0)) ∧
        (f.poison = false → exec (.rdata f) s =
          .next (g.setPend { ({ p with heard := heard } : Pending).landed 0 ((flitData f).take p.len) with answered := true }))) ∧
      (is 1 3 → let dev : BitVec 12 := (flitWord f 0).setWidth 12
        (p.redirected = true → exec (.fwd f) s = .next (g.failPend p 0x01 0)) ∧
        (p.redirected = false → g.reachable dev = false → exec (.fwd f) s = .next (g.failPend p 0x07 0)) ∧
        (p.redirected = false → g.reachable dev = true → ∃ t : State, exec (.fwd f) s = .next t ∧
          ∀ x ∈ t.dev.engines, x.id = p.id → x.farDev = dev ∧ x.farAddr = flitWord f 1 ∧ x.redirected = true ∧ x.token = 0 ∧ x.lo = p.preLen ∧
            x.hi = p.preLen ∧ x.unsent = p.firstFlits))) ∧
    (g.sender f = some p →
      (is 1 4 → (p.role = .serve → exec (.drop f) s = .next (g.dropPend p)) ∧
        (p.role = .own → exec (.drop f) s = .next (g.failPend p 0x04 (if flitBytes f = 8 then (flitWord f 0).toNat else p.lo)))) ∧
      (is 2 0 → p.role = .own →
        let lo := (flitWord f 0).toNat
        let hi := min p.len (lo + (flitWord f 1).toNat)
        exec (.grant f) s = .next (g.setPend { p with
          heard := heard, token := (flitWord f 2).setWidth 16, lo := lo, hi := hi, rangeOk := false
          unsent := (p.unsent.filter fun x => x.1 == 0) ++ (List.range ((hi - lo + 63) / 64)).map fun i => ((flitWord f 2).setWidth 16, i)
          copy := p.copy.filter fun x => x.1 < p.preLen || lo < x.1 + x.2.length })) ∧
      (is 2 1 → exec (.revoke f) s = .next (g.setPend { p with hi := p.lo, unsent := p.unsent.filter fun x => x.1 == 0 })) ∧
      (is 2 2 → exec (.resume f) s = .next (again g))) ∧
    (g.ownReq f = none → g.sender f = none →
      (is 1 0 → exec (.ack f) s = .next g) ∧ (is 1 2 → exec (.rdata f) s = .next g) ∧ (is 1 3 → exec (.fwd f) s = .next g) ∧
      (is 1 4 → exec (.drop f) s = .next g) ∧ (is 2 0 → exec (.grant f) s = .next g) ∧ (is 2 1 → exec (.revoke f) s = .next g) ∧
      (is 2 2 → exec (.resume f) s = .next g)) ∧
    (∀ (die : Fin 8) (i : Nat), (s.dev.engines.filter fun p => 5000 ≤ p.engine && p.die == die.val && p.sends && !p.finishing &&
        !reqPrefix p.req.w0 && (p.role == .serve || !reqShort p.req.w0))[i]? = some p →
      (heard < p.heard + 2 ^ 20 → exec (.rereqTimeout die i) s = .next s) ∧
      (p.heard + 2 ^ 20 ≤ heard → exec (.rereqTimeout die i) s = .next (again s))) ∧
    (is 1 5 → let d := (flitSrc f).toNat
      (s.dev.unacked.find d = none → exec (.mack f) s = .next g) ∧
      (∀ (pl : Nat) (l : List Counted), s.dev.unacked.find d = some (pl, l) →
        ((l.find? fun x => x.flit.pay == f.pay) = none → exec (.mack f) s = .next g) ∧
        (∀ x : Counted, (l.find? fun x => x.flit.pay == f.pay) = some x →
          let rest := l.erase x
          let told (t : State) : State := match x.mark with
            | some m => (t.markSent m).itemDone m.item
            | none => t
          (rest ≠ [] → exec (.mack f) s = .next (told (g.setDev { g.dev with unacked := s.dev.unacked.put d (pl, rest) }))) ∧
          (rest = [] → s.dev.msgHeld = [] → exec (.mack f) s = .next (told (g.setDev { g.dev with unacked := s.dev.unacked.drop d })))))) ∧
    (is 1 1 →
      (g.combinedOf (flitReq f) (flitSrc f) = none → exec (.combinedDoneSplit f) s = .next g) ∧
      (g.combinedOf (flitReq f) (flitSrc f) ≠ none → exec (.doneResponse f) s = .next g) ∧
      (∀ (n : Nat) (g0 g1 : Flit) (p0 p1 : Pending), g.combinedOf (flitReq f) (flitSrc f) = some (n, [g0, g1]) → (g.switch n).combined ≠ [] →
        combineBytes g1 = combineBytes g0 → ¬failed →
        let y := g.switch n
        let u := g.setSwitch n { y with combined := y.combined.filter fun c => !(c.1 == flitReq f && c.2 == [g0, g1]) }
        let own (z : Flit) (p : Pending) : Prop := u.combinedOf (flitReq z) (flitSrc f) = none ∧ p.gets = false ∧
          (s.dev.engines.find? fun p => p.role == .own && p.far && !p.finishing && p.farDev == flitSrc f && p.reqno == flitReq z) = some p
        let m := 2 ^ (8 * combineBytes g0)
        own g0 p0 → own g1 p1 → p0.id ≠ p1.id → ∃ t : State, exec (.combinedDoneSplit f) s = .next t ∧
          (∀ x ∈ t.dev.engines, x.id = p0.id → x.finishing = true ∧ x.prior = BitVec.ofNat 64 ((flitWord f 1).toNat % m)) ∧
          ∀ x ∈ t.dev.engines, x.id = p1.id → x.finishing = true ∧ x.prior = BitVec.ofNat 64 (((flitWord f 1).toNat + addend g0) % m)))

/-- A MSG of a class that routes it reaches its home where that has room, and is held back at its port where it has none, or behind an earlier message of its device; a report of a SWEEP is kept. SETASIDE stops a flow at its port and CLEAR lets it go. A flow that has held more than half of an output's entries for 4,096 cycles, of the request or bulk class, goes to a set-aside queue, and its port is told; once that queue is empty the port sends again. Fetching reductions of one element in a queue become one flit with the sum of their addends, while a wait buffer entry is free. A lane fails with its sixteenth resend in a row, and a flit that comes whole ends the runs of both lanes (log 95, DESIGN CHOICE); a port without a lane, or a class of whose links is short in a direction that a free value gives (log 130, DESIGN CHOICE), is down; it is up again once every class is routed, which is short in no direction, and a lane is left. The places of what SWEEP carries are log 32's, those in SETASIDE and CLEAR log 39's, and the switch acts on the own port at once by log 98 (the first three DESIGN CHOICE, the last DEDUCED). -/
def Obligations.FabricPorts : Prop :=
  ∀ (s : State) (f : Flit) (port : Fin 128) (dev : BitVec 12) (cls : Fin 4) (lane : Fin 2),
    let g := s.goodFlit f
    let is (vc typ : Nat) : Prop := flitResvOk f = true ∧ f.poison = false ∧ flitVc f = vc ∧ flitType f = typ
    let m := msgOf f
    let at' := (flitWord f 2).toNat % 128
    let flow : BitVec 12 × Nat := ((flitWord f 0).setWidth 12, (flitWord f 1).toNat % 4)
    let n := port.val
    let x := s.port n
    let y := s.switch n
    let k := x.resends.getD lane.val 0
    let mine (z : Flit) : Bool := flitDst z == dev && flitVc z == cls.val
    let aside : Bool := y.asides.any fun a => a.1 == dev && a.2.1 == cls.val
    let empty : Bool := y.asides.any fun a => a.1 == dev && a.2.1 == cls.val && a.2.2 == []
    (is 0 3 → ¬(hdrKind m.hdr = 3 ∧ hdrSub m.hdr = 4) →
      let u := g.unholdFlit f
      (g.heldBefore f = true → exec (.msg f) s = .next (g.holdFlit f)) ∧
      (∀ va : Nat, g.heldBefore f = false → g.fromMissing m = some va → exec (.msg f) s = .next ((g.askUnit 0 0 m.part va).holdFlit f)) ∧
      (∀ (d : BitVec 512) (u1 u2 : State) (die clu : Nat), g.heldBefore f = false → m.cls ≠ 0xFFFF#16 → g.fromMissing m = none → u.readDesc 0 m.part m.cls = (d, u1) →
        routeRefusal d m.cls m.hdr = none → u1.findHome 0 d m.part m.cls m.key = (.at u2.dev.num.toNat die clu, u2) →
        let home := die * 256 + clu
        let room := (u2.die die).failed = false ∧ u2.homeTakes home m = true
        (room → ∃ t : State, exec (.msg f) s = .next t ∧ (t.clu home).homeQ = (u2.clu home).homeQ ++ [.msg m]) ∧
        (¬room → exec (.msg f) s = .next (g.holdFlit f)))) ∧
    (is 0 4 → (flitWord f 2).getLsbD 1 = true → ∃ t : State, exec (.sweep f) s = .next t ∧
      t.dev.sweepIn.find (sweepKey (flitSrc f) (tagKey (flitPart f) ((flitWord f 0).setWidth 12))) = some
        { sent := (flitWord f 1).extractLsb' 0 32, recv := (flitWord f 1).extractLsb' 32 32, idle := (flitWord f 2).getLsbD 0 }) ∧
    (is 0 4 → (flitWord f 2).getLsbD 1 = false → ∃ t : State, exec (.sweep f) s = .next t ∧ t.dev.sweepIn = s.dev.sweepIn ∧ t.dev.notices = s.dev.notices) ∧
    (is 2 3 → ∃ t : State, exec (.setaside f) s = .next t ∧ (t.port at').setAside.contains flow = true ∧
      (t.port at').waiting = (s.port at').waiting) ∧
    (is 2 4 → ∃ t : State, exec (.clear f) s = .next t ∧ (t.port at').setAside = (s.port at').setAside.filter (fun z => z != flow) ∧
      ∀ z : Flit, (s.port at').waiting = [z] → flitDst z = flow.1 → flitVc z = flow.2 → (s.switch at').room at' flow.2 = true →
        (t.port at').waiting = []) ∧
    (∀ t0 : Nat, (cls.val = 0 ∨ cls.val = 3) → y.since.find (flowKey dev cls.val) = some t0 → t0 + 4096 ≤ s.clock (clockSwitch n) →
      y.hogs n dev cls.val = true → aside = false → ∃ t : State, exec (.switchSetAside port dev cls) s = .next t ∧
        (t.switch n).queue = y.queue.filter (fun g => !mine g) ∧
        (t.switch n).asides = y.asides ++ [(dev, cls.val, y.queue.filter mine)] ∧ (t.port n).setAside.contains (dev, cls.val) = true) ∧
    ((cls.val = 1 ∨ cls.val = 2 ∨ aside = true ∨ y.since.find (flowKey dev cls.val) = none) → exec (.switchSetAside port dev cls) s = .next s) ∧
    (empty = false → exec (.switchClear port dev cls) s = .next s) ∧
    (empty = true → ∃ t : State, exec (.switchClear port dev cls) s = .next t ∧ (t.port n).setAside = x.setAside.filter (fun z => z != (dev, cls.val)) ∧
      ∀ a ∈ (t.switch n).asides, ¬(a.1 = dev ∧ a.2.1 = cls.val)) ∧
    ((y.queue.find? fun g => 2 ≤ (y.queue.filter (mayCombine g)).length) = none ∨ Config.waitEntries n < y.combined.length →
      exec (.switchCombine port) s = .next s) ∧
    (∀ g : Flit, (y.queue.find? fun g => 2 ≤ (y.queue.filter (mayCombine g)).length) = some g → y.combined.length ≤ Config.waitEntries n →
      let l := y.queue.filter (mayCombine g)
      ∃ (t : State) (z : Flit), exec (.switchCombine port) s = .next t ∧ (t.switch n).combined = y.combined ++ [(flitReq g, l)] ∧
        (t.switch n).queue.length + l.length = y.queue.length + 1 ∧ z ∈ (t.switch n).queue ∧ flitReq z = flitReq g ∧
        addend z = (l.map addend).foldl (· + ·) 0 % 2 ^ (8 * combineBytes g)) ∧
    ((g.port (s.flitPlane f)).resends = []) ∧
    ((lane.val ∈ x.lanesDown → exec (.flitCrcFail port lane) s = .next s) ∧
      (k < 16 → lane.val ∉ x.lanesDown → exec (.flitCrcFail port lane) s = .next (s.setPort n { x with resends := x.resends.put lane.val (k + 1) })) ∧
      (16 ≤ k → x.lanesDown = [] → exec (.flitCrcFail port lane) s =
        .next (s.setPort n { x with resends := x.resends.drop lane.val, lanesDown := [lane.val] })) ∧
      (∀ o : Nat, 16 ≤ k → x.lanesDown = [o] → o ≠ lane.val → ∃ t : State, exec (.flitCrcFail port lane) s = .next t ∧ (t.port n).down = true ∧
        (t.port n).lanesDown = [o, lane.val])) ∧
    (let dir := s.fresh.1.toNat % 4
      ∃ t : State, exec (.linkFailure port cls) s = .next t ∧ (t.port n).down = true ∧ cls.val ∈ (t.port n).classesDown ∧
        (t.port n).usableOf dir cls.val = x.usableOf dir cls.val - 1 ∧
        ∀ d c : Nat, c < 4 → (d ≠ dir ∨ c ≠ cls.val) → (t.port n).usableOf d c = x.usableOf d c) ∧
    (∀ d c : Nat, d ∈ x.shortIn c ↔ d < 4 ∧ x.usableOf d c < classReserve c) ∧
    (let dir := pickOf s.fresh.1 (x.shortIn cls.val)
      let short : Prop := ∃ d ∈ x.shortIn cls.val, d ≠ dir
      ∃ t : State, exec (.portUp port cls) s = .next t ∧ (t.port n).usableOf dir cls.val = classReserve cls.val ∧
        (∀ d c : Nat, c < 4 → (d ≠ dir ∨ c ≠ cls.val) → (t.port n).usableOf d c = x.usableOf d c) ∧
        (short → (t.port n).classesDown = x.classesDown) ∧
        (¬short → (t.port n).classesDown = x.classesDown.filter (fun z => z != cls.val)) ∧
        (t.port n).down = (x.down && !(decide ((t.port n).classesDown = []) && decide (x.lanesDown.length < 2))))

/-- An uncorrectable error of a block poisons it through its home die and is reported with cause 0x38 and the hand-off, 0 from HBM, 1 from SRAM, and 3 where a copy has installed the block and a free value says that its end-to-end code does not match (numbers of the model, log 111, DESIGN CHOICE); one that strikes an entry loses it, what log 49 (DEDUCED) names, unless its class is journalled, and the items that it held count as received (log 41, DEDUCED); one that strikes a die's control state fails the die, as do a heartbeat 2^24 cycles old and DIE_FAILURE. With the spare free, DIE_FAILURE leaves the die's number with the spare, the die working, nothing held and no sweep begun, in one step (log 42, DEDUCED). Corrected errors of a unit are counted by windows of 2^32 of its cycles that begin at its multiples (log 48, DEDUCED), and the first beyond 1,024 is reported with cause 0x3B. An entry that is not there is not struck. -/
def Obligations.ErrorsAndDieLoss : Prop :=
  ∀ (s : State) (die : Fin 8) (clu : Fin 256) (c : CoreId) (i unit q : Nat),
    let d := die.val
    let k := s.core c.ix
    let home := d * 256 + clu.val
    let fails (x : Instr) : Prop := ((s.die d).failed = true → exec x s = .next s) ∧
      ((s.die d).failed = false → ∃ t : State, exec x s = .next t ∧ (t.die d).failed = true ∧ (t.die d).walks = [])
    let copied : Prop := ∃ y ∈ s.dev.engines, ∃ z ∈ y.writes, z.1 / 32 = q / 32
    let strikes (u : State) (n : BitVec 64) : Prop := exec (.uncorrectableError (.block q)) s =
      .next ((u.writeAt (homeDie q) [(poisonPlace q, 1#8)] false []).report 0
        { cause := 0x38, src := 2, unit := 10, tuple := s.dev.num ++ 0#14, d0 := n })
    (isHbm q = true ∨ isSp q = true →
      (¬copied → strikes s (if isHbm q then 0 else 1)) ∧
      (copied → strikes s.fresh.2 (if s.fresh.1.getLsbD 0 then 3 else if isHbm q then 0 else 1))) ∧
    (isHbm q = false → isSp q = false → exec (.uncorrectableError (.block q)) s = .next s) ∧
    (∀ m : Message, k.inbox[i]? = some m → s.journalled (dieOfCore c.ix) m.part m.cls = false → ∃ t : State, exec (.uncorrectableError (.inbox c i)) s = .next t ∧
      (t.core c.ix).decs = k.decs.erase m ∧ (isItem m.hdr = true → (t.core c.ix).recv = countUp k.recv m.part (hdrLtag m.hdr))) ∧
    (∀ m : Message, k.spill[i]? = some m → s.journalled (dieOfCore c.ix) m.part m.cls = false → ∃ t : State, exec (.uncorrectableError (.spill c i)) s = .next t ∧
      (t.core c.ix).spill = k.spill.eraseIdx i) ∧
    (∀ h : Hearth, (s.clu home).hearth.find i = some h → s.journalled d h.part h.cls = false → ∃ t : State,
      exec (.uncorrectableError (.hearth die clu i)) s = .next t ∧ (t.clu home).hearth.find i = some { h with buffer := [] }) ∧
    (k.inbox[i]? = none → exec (.uncorrectableError (.inbox c i)) s = .next s) ∧
    fails (.uncorrectableError (.control die)) ∧
    (s.clock (clockBase d) < (s.die d).heartbeat + 2 ^ 24 → exec (.heartbeatTimeout die) s = .next s) ∧
    ((s.die d).heartbeat + 2 ^ 24 ≤ s.clock (clockBase d) → fails (.heartbeatTimeout die)) ∧
    (s.dev.spareUsed = true → fails (.dieFailure die)) ∧
    (s.dev.spareUsed = false → ∃ t : State, exec (.dieFailure die) s = .next t ∧ (t.die d).failed = false ∧ t.dev.spareUsed = true ∧
      t.dev.siliconOf d = 8 ∧ (t.die d).held = [] ∧ t.dev.sweeps = [] ∧ t.dev.sweeping = []) ∧
    (let w := s.clock (clockUnit unit) / 2 ^ 32
      let n := (if s.dev.errWindow.getD unit 0 = w then s.dev.errCounts.getD unit 0 else 0) + 1
      let s1 : State := s.setDev { s.dev with errCounts := s.dev.errCounts.put unit n, errWindow := s.dev.errWindow.put unit w }
      exec (.correctedErrorThreshold unit) s = .next (if n = 1025 then
        s1.report 0 { cause := 0x3B, src := 2, unit := 10, tuple := s.dev.num ++ 0#14, d0 := BitVec.ofNat 64 unit } else s1))

/-- The next unit starts once the one before it is done, in an order that log 51 (DESIGN CHOICE) completes; a die's waves of 16 clusters start 4,096 cycles apart, the cycle counts of their cores from 0. A supervisor core 0 in mask ROM whose die has started runs the offered image that ROM accepts, at a pc that log 10 (DESIGN CHOICE) names, and leaves a refused one, with a report; once its die has an image a supervisor core starts. Powering down leaves the state of reset, without power. A nonce starts a report while none is being built, and the report is its contents with their signature; the management port gives it too, with the alias key and its signature by the device key. A host message that the host window admits, which is asked before any other fault (log 53, DESIGN CHOICE), is counted as sent and routed once the walk by which its home is found is done; a malformed one is counted. The host writes and reads aligned lines of HBM as the access tables admit it. A power limit of up to 2,600 W is set, a higher one ignored (log 52, DESIGN CHOICE), and reaching the limit is reported once. -/
def Obligations.StartUpAndTheHost : Prop :=
  ∀ (s : State) (die : Fin 8) (n : Fin 4) (part : BitVec 8) (off : BitVec 12) (bytes : List Byte) (nonce : BitVec 256) (q : BitVec 64) (v : BitVec 512) (watts : Nat),
    let d := die.val
    let x := s.die d
    let h := s.dev.host
    let p := Party.sup die n
    let up := s.dev.siliconUp (s.dev.siliconOf d)
    let now := (s.core (20000 + 4 * d)).cyc
    let a := q.toNat / 64 * 64
    let rom := s.dev.powered = true ∧ s.cur = p ∧ (s.ctx p).run = .idle ∧ up = true ∧ x.failed = false
    let boots (t : State) : Prop := (t.ctx p).run = .running ∧ (t.ctx p).pc = Config.firmwareBase d ∧ (t.core p.coreIx).cyc = 0
    (s.dev.units < 10 → exec .unitStart s = .next (s.setDev { s.dev with units := s.dev.units + 1 })) ∧
    (10 ≤ s.dev.units → s.dev.units < 18 → s.siliconDone (s.dev.units - 10) = true →
      exec .unitStart s = .next (s.setDev { s.dev with units := s.dev.units + 1 })) ∧
    (18 ≤ s.dev.units → exec .unitStart s = .next s) ∧
    (up = true → x.failed = false → x.waves < 16 → (x.waves = 0 ∨ x.waveAt + 4096 ≤ now) → exec (.clusterWaveStart die) s =
      .next (({ s with cores := s.cores.map fun (m, k) =>
        (m, if d * 2048 + 128 * x.waves ≤ m && m < d * 2048 + 128 * x.waves + 128 then { k with cyc := 0 } else k) } : State).setDie d
        { x with waves := x.waves + 1, waveAt := now })) ∧
    (up = false ∨ x.failed = true ∨ 16 ≤ x.waves → exec (.clusterWaveStart die) s = .next s) ∧
    (rom → x.image ≠ none → ∃ t : State, exec .powerOn s = .next t ∧ boots t) ∧
    (rom → x.image = none → n = 0 → ∀ (key sig body : List Byte) (version : Nat), s.dev.mgmt.offered.find d = some (key, sig, body, version) →
      (imageAccepted key sig body version = true → ∃ (t : State) (e : BitVec 64), exec .powerOn s = .next t ∧ boots t ∧ (t.die d).image = some (sha3 body, version, e)) ∧
      (imageAccepted key sig body version = false → ∃ t : State, exec .powerOn s = .next t ∧ t.ctxs = s.ctxs ∧
        t.dev.mgmt.offered.find d = none ∧ t.dev.mgmt.reports = s.dev.mgmt.reports ++ [(0x3D, d)])) ∧
    (rom → x.image = none → s.dev.mgmt.offered.find d = none → exec .powerOn s = .next s) ∧
    exec .powerDown s = .next { State.reset with agenda := s.agenda, dev := { State.reset.dev with powered := false } } ∧
    (h.building = true → exec (.attestationRequest nonce) s = .next s ∧ ∃ t : State, exec .attestationReportReady s = .next t ∧
      t.dev.host.building = false ∧ t.dev.host.report = s.reportBody ++ Config.mldsaSign s.aliasSeed s.reportBody ∧
      t.dev.host.reportLen = t.dev.host.report.length ∧ t.dev.mgmt.attested = t.dev.host.report ∧ t.dev.mgmt.aliasKey = Config.mldsaPublicKey s.aliasSeed ∧
      t.dev.mgmt.aliasSignature = Config.mldsaSign Config.fusedSeed t.dev.mgmt.aliasKey) ∧
    (h.building = false → exec .attestationReportReady s = .next s ∧ ∃ t : State, exec (.attestationRequest nonce) s = .next t ∧
      t.dev.host.building = true ∧ t.dev.host.nonce = nonce) ∧
    (s.permitted targetHost part 20 2 = true →
      let w : BitVec 512 := BitVec.ofNat 512 (leNat bytes)
      let m := hostMessage part w
      (bytes.length ≠ 64 ∨ off.toNat % 64 ≠ 0 ∨ hostZeros w = false → ∃ t : State, exec (.hostMessageWrite part off bytes) s = .next t ∧
        t.dev.host.badWrites = h.badWrites + 1 ∧ t.dev.host.sent = h.sent) ∧
      let walk := if routeRefusal (s.readDesc 0 part m.cls).1 m.cls m.hdr = none then s.homeMissing (s.readDesc 0 part m.cls).1 part m.key else none
      (∀ va : Nat, bytes.length = 64 → off.toNat % 64 = 0 → hostZeros w = true → walk = some va →
        exec (.hostMessageWrite part off bytes) s = .next (s.askUnit 0 0 part va)) ∧
      (bytes.length = 64 → off.toNat % 64 = 0 → hostZeros w = true → walk = none → ∃ t : State, exec (.hostMessageWrite part off bytes) s = .next t ∧
        t.dev.host.sent = countUp h.sent part (w.extractLsb' 96 12) ∧
        ∀ (desc : BitVec 512) (s1 s2 : State) (dev e c : Nat), routeRefusal desc m.cls m.hdr = none →
          (s.setDev { s.dev with host := { h with sent := countUp h.sent part (w.extractLsb' 96 12) } }).readDesc 0 part m.cls = (desc, s1) →
          s1.findHome 0 desc part m.cls m.key = (.at dev e c, s2) → ∃ u : UnitMsg, t.dev.unitMsgs = s.dev.unitMsgs ++ [u] ∧ u.m = m ∧ u.dest = .home dev e c)) ∧
    (s.permitted targetHost part 20 2 = false → exec (.hostMessageWrite part off bytes) s = .next (s.reportHost 0x13 part 0 0)) ∧
    (a < hbmTop →
      (s.permitted (targetOf a) part 20 2 = true → exec (.hostMemoryAccess part q (some v)) s =
        .next (s.writeAt (homeDie a) (plainCells (bytesCells a v.toNat 64)) false [])) ∧
      (s.permitted (targetOf a) part 20 2 = false → exec (.hostMemoryAccess part q (some v)) s = .next (s.reportHost 0x13 part 0 0)) ∧
      (s.permitted (targetOf a) part 20 1 = true → (∀ z ∈ span a 64, s.cell (homeDie z) (poisonPlace z) = 0#8) →
        exec (.hostMemoryAccess part q none) s = .next (s.setDev { s.dev with host := { h with
          read := BitVec.ofNat 512 (leNat ((span a 64).map fun z => s.cell (homeDie z) z)) } }))) ∧
    (watts ≤ 2600 → exec (.powerLimitSet watts) s = .next (s.setDev { s.dev with mgmt := { s.dev.mgmt with limit := watts, engaged := false } })) ∧
    (2600 < watts → exec (.powerLimitSet watts) s = .next s) ∧
    (s.dev.mgmt.engaged = true → exec .powerLimitEngage s = .next s) ∧
    (s.dev.mgmt.engaged = false → exec .powerLimitEngage s =
      .next ((s.setDev { s.dev with mgmt := { s.dev.mgmt with engaged := true } }).report 0 { cause := 0x3C, unit := 10, tuple := s.dev.num ++ 0#14 }))

/-- A supervisor core that meets a cause saves cause, pc and tval, sets its handler flag, leaves the form that it was in and goes to the trap entry of its image; with the flag set it halts with its saved values as they were (log 115, DESIGN CHOICE), and the management port reports 0x3E. A context first does every earlier memory form of its access half (log 116, DEDUCED), and waits where one of them waits; then it saves cause, pc and tval with every earlier store drained (log 13, DEDUCED), and leaves the form, with what its stores had popped back in the store-data queue. Where its class has a trap port and no trap message started it, the firing ends and a notice with SUB 2 that holds them is the last message of the outbound queue, beyond its 16 where it is full (log 55, DEDUCED); any other firing parks at the same pc and is reported, with cause 0x2F and the original cause where a trap message started it. -/
def Obligations.TakingACause : Prop :=
  ∀ (s : State) (cause : BitVec 6) (tval : BitVec 64),
    (∀ (d : Fin 8) (n : Fin 4), let p := Party.sup d n
      let c := s.ctx p
      (∀ img : BitVec 256 × Nat × BitVec 64, c.handler = false → (s.die d.val).image = some img →
        takeTrap s p cause tval = s.setCtx p { c with
          waiting := none, cbput := none, held := false, part := [], body := none, walk := none, mhold := none, ahead := []
          qst := c.taken ++ c.qst, cause := cause, epc := c.pc, tval := tval, handler := true, pc := img.2.2 }) ∧
      (c.handler = true → let t := takeTrap s p cause tval
        t.ctx p = { c with run := .halted } ∧ t.dev.mgmt.reports = s.dev.mgmt.reports ++ [(0x3E, d.val)] ∧ t.dies = s.dies ∧ t.cores = s.cores)) ∧
    (∀ (k : CoreId) (j : Fin 4), let p := Party.ctx k j
      let c := s.ctx p
      let f := c.firing
      let t := takeTrap s p cause tval
      let s0 := s.accSettled p
      ((s0.ctx p).acc ≠ [] → t = s0) ∧
      ((s0.ctx p).acc = [] →
      (t.ctx p).cause = cause ∧ (t.ctx p).epc = c.pc ∧ (t.ctx p).tval = tval ∧ (t.ctx p).sb = [] ∧ (t.ctx p).deferred = [] ∧
      (f.sheet = false → descTrapp f.desc = true → f.trapStarted = false → (t.ctx p).run = .idle ∧
        (descValid f.desc = true → descMalformed f.desc c.kcls = false → descSheet f.desc = false → descPlace f.desc = 0#2 →
          ∃ (m : Message) (dest : Dest) (r : Release), (t.core k.ix).outq.getLast? = some (.msg m dest r false) ∧ m.cls = c.kcls ∧ m.key = c.kkey ∧ m.part = c.partid ∧
            hdrKind m.hdr = 3 ∧ hdrSub m.hdr = 2 ∧ hdrPort m.hdr = descTrapix f.desc ∧ hdrLtag m.hdr = c.ltag ∧
            payWord m.pay 0 = cause.setWidth 64 ∧ payWord m.pay 1 = tval ∧ payWord m.pay 2 = c.pc)) ∧
      ((f.sheet = true ∨ descTrapp f.desc = false ∨ f.trapStarted = true) →
        (t.ctx p).run = .parked ∧ (t.ctx p).pc = c.pc ∧ (t.ctx p).firing.key = f.key ∧ (c.acc = [] → (t.ctx p).x = c.x) ∧
        (c.sb = [] → c.seqTraps = [] → c.acc = [] → s.undoSel p = s → s.leaveQueues p = s → t = (s.setCtx p { c with
            run := .parked, cause := cause, epc := c.pc, tval := tval, deferred := [], mon := {}, waiting := none, cbput := none, held := false, accPart := []
            part := [], body := none, walk := none, mhold := none, ahead := [], qst := c.taken ++ c.qst }).report
          k.die.val
          { cause := if f.trapStarted then 0x2F else cause, src := 0, part := c.partid, cls := c.kcls, ctx := BitVec.ofNat 2 j.val, unit := 0,
            tuple := tupleOfCore k.ix s.dev.num, key := c.kkey, epc := c.pc, tval := tval,
            d0 := if f.trapStarted then cause.setWidth 64 else 0 }))))

/-- If each die view lists its bytes in strictly rising order of address and none that reads as an unlisted one, and a step answers a next state, then so does each view of that state. The form is the model's (DESIGN CHOICE, log 2): equal memories are equal data. -/
def Obligations.EveryStepKeepsMemoriesCanonical : Prop :=
  ∀ s t : State, s.memoriesWf → step s = .next t → t.memoriesWf
end

