-- ==== Sys2Proof/Laws/Exec.lean ====
section
/-! SUPPORT. What the dispatcher calls for each constructor: one equation each, so that no proof unfolds it. -/

namespace Sys2Proof.Machine

variable (s : State)

theorem exec_lui (rd : BitVec 5) (imm : BitVec 20) : exec (.lui rd imm) s = execLui rd imm s :=
  rfl
theorem exec_auipc (rd : BitVec 5) (imm : BitVec 20) : exec (.auipc rd imm) s = execAuipc rd imm s :=
  rfl
theorem exec_jal (rd : BitVec 5) (off : BitVec 20) : exec (.jal rd off) s = execJal rd off s :=
  rfl
theorem exec_jalr (rd : BitVec 5) (rs1 : BitVec 5) (imm : BitVec 12) : exec (.jalr rd rs1 imm) s = execJalr rd rs1 imm s :=
  rfl
theorem exec_beq (rs1 : BitVec 5) (rs2 : BitVec 5) (off : BitVec 12) : exec (.beq rs1 rs2 off) s = execBeq rs1 rs2 off s :=
  rfl
theorem exec_bne (rs1 : BitVec 5) (rs2 : BitVec 5) (off : BitVec 12) : exec (.bne rs1 rs2 off) s = execBne rs1 rs2 off s :=
  rfl
theorem exec_blt (rs1 : BitVec 5) (rs2 : BitVec 5) (off : BitVec 12) : exec (.blt rs1 rs2 off) s = execBlt rs1 rs2 off s :=
  rfl
theorem exec_bge (rs1 : BitVec 5) (rs2 : BitVec 5) (off : BitVec 12) : exec (.bge rs1 rs2 off) s = execBge rs1 rs2 off s :=
  rfl
theorem exec_bltu (rs1 : BitVec 5) (rs2 : BitVec 5) (off : BitVec 12) : exec (.bltu rs1 rs2 off) s = execBltu rs1 rs2 off s :=
  rfl
theorem exec_bgeu (rs1 : BitVec 5) (rs2 : BitVec 5) (off : BitVec 12) : exec (.bgeu rs1 rs2 off) s = execBgeu rs1 rs2 off s :=
  rfl
theorem exec_lb (rd : BitVec 5) (rs1 : BitVec 5) (imm : BitVec 12) : exec (.lb rd rs1 imm) s = execLb rd rs1 imm s :=
  rfl
theorem exec_lh (rd : BitVec 5) (rs1 : BitVec 5) (imm : BitVec 12) : exec (.lh rd rs1 imm) s = execLh rd rs1 imm s :=
  rfl
theorem exec_lw (rd : BitVec 5) (rs1 : BitVec 5) (imm : BitVec 12) : exec (.lw rd rs1 imm) s = execLw rd rs1 imm s :=
  rfl
theorem exec_ld (rd : BitVec 5) (rs1 : BitVec 5) (imm : BitVec 12) : exec (.ld rd rs1 imm) s = execLd rd rs1 imm s :=
  rfl
theorem exec_lbu (rd : BitVec 5) (rs1 : BitVec 5) (imm : BitVec 12) : exec (.lbu rd rs1 imm) s = execLbu rd rs1 imm s :=
  rfl
theorem exec_lhu (rd : BitVec 5) (rs1 : BitVec 5) (imm : BitVec 12) : exec (.lhu rd rs1 imm) s = execLhu rd rs1 imm s :=
  rfl
theorem exec_lwu (rd : BitVec 5) (rs1 : BitVec 5) (imm : BitVec 12) : exec (.lwu rd rs1 imm) s = execLwu rd rs1 imm s :=
  rfl
theorem exec_sb (rs2 : BitVec 5) (rs1 : BitVec 5) (imm : BitVec 12) : exec (.sb rs2 rs1 imm) s = execSb rs2 rs1 imm s :=
  rfl
theorem exec_sh (rs2 : BitVec 5) (rs1 : BitVec 5) (imm : BitVec 12) : exec (.sh rs2 rs1 imm) s = execSh rs2 rs1 imm s :=
  rfl
theorem exec_sw (rs2 : BitVec 5) (rs1 : BitVec 5) (imm : BitVec 12) : exec (.sw rs2 rs1 imm) s = execSw rs2 rs1 imm s :=
  rfl
theorem exec_sd (rs2 : BitVec 5) (rs1 : BitVec 5) (imm : BitVec 12) : exec (.sd rs2 rs1 imm) s = execSd rs2 rs1 imm s :=
  rfl
theorem exec_addi (rd : BitVec 5) (rs1 : BitVec 5) (imm : BitVec 12) : exec (.addi rd rs1 imm) s = execAddi rd rs1 imm s :=
  rfl
theorem exec_slti (rd : BitVec 5) (rs1 : BitVec 5) (imm : BitVec 12) : exec (.slti rd rs1 imm) s = execSlti rd rs1 imm s :=
  rfl
theorem exec_sltiu (rd : BitVec 5) (rs1 : BitVec 5) (imm : BitVec 12) : exec (.sltiu rd rs1 imm) s = execSltiu rd rs1 imm s :=
  rfl
theorem exec_xori (rd : BitVec 5) (rs1 : BitVec 5) (imm : BitVec 12) : exec (.xori rd rs1 imm) s = execXori rd rs1 imm s :=
  rfl
theorem exec_ori (rd : BitVec 5) (rs1 : BitVec 5) (imm : BitVec 12) : exec (.ori rd rs1 imm) s = execOri rd rs1 imm s :=
  rfl
theorem exec_andi (rd : BitVec 5) (rs1 : BitVec 5) (imm : BitVec 12) : exec (.andi rd rs1 imm) s = execAndi rd rs1 imm s :=
  rfl
theorem exec_slli (rd : BitVec 5) (rs1 : BitVec 5) (sh : BitVec 6) : exec (.slli rd rs1 sh) s = execSlli rd rs1 sh s :=
  rfl
theorem exec_srli (rd : BitVec 5) (rs1 : BitVec 5) (sh : BitVec 6) : exec (.srli rd rs1 sh) s = execSrli rd rs1 sh s :=
  rfl
theorem exec_srai (rd : BitVec 5) (rs1 : BitVec 5) (sh : BitVec 6) : exec (.srai rd rs1 sh) s = execSrai rd rs1 sh s :=
  rfl
theorem exec_add (rd : BitVec 5) (rs1 : BitVec 5) (rs2 : BitVec 5) : exec (.add rd rs1 rs2) s = execAdd rd rs1 rs2 s :=
  rfl
theorem exec_sll (rd : BitVec 5) (rs1 : BitVec 5) (rs2 : BitVec 5) : exec (.sll rd rs1 rs2) s = execSll rd rs1 rs2 s :=
  rfl
theorem exec_slt (rd : BitVec 5) (rs1 : BitVec 5) (rs2 : BitVec 5) : exec (.slt rd rs1 rs2) s = execSlt rd rs1 rs2 s :=
  rfl
theorem exec_sltu (rd : BitVec 5) (rs1 : BitVec 5) (rs2 : BitVec 5) : exec (.sltu rd rs1 rs2) s = execSltu rd rs1 rs2 s :=
  rfl
theorem exec_xor (rd : BitVec 5) (rs1 : BitVec 5) (rs2 : BitVec 5) : exec (.xor rd rs1 rs2) s = execXor rd rs1 rs2 s :=
  rfl
theorem exec_srl (rd : BitVec 5) (rs1 : BitVec 5) (rs2 : BitVec 5) : exec (.srl rd rs1 rs2) s = execSrl rd rs1 rs2 s :=
  rfl
theorem exec_or (rd : BitVec 5) (rs1 : BitVec 5) (rs2 : BitVec 5) : exec (.or rd rs1 rs2) s = execOr rd rs1 rs2 s :=
  rfl
theorem exec_and (rd : BitVec 5) (rs1 : BitVec 5) (rs2 : BitVec 5) : exec (.and rd rs1 rs2) s = execAnd rd rs1 rs2 s :=
  rfl
theorem exec_sub (rd : BitVec 5) (rs1 : BitVec 5) (rs2 : BitVec 5) : exec (.sub rd rs1 rs2) s = execSub rd rs1 rs2 s :=
  rfl
theorem exec_sra (rd : BitVec 5) (rs1 : BitVec 5) (rs2 : BitVec 5) : exec (.sra rd rs1 rs2) s = execSra rd rs1 rs2 s :=
  rfl
theorem exec_mul (rd : BitVec 5) (rs1 : BitVec 5) (rs2 : BitVec 5) : exec (.mul rd rs1 rs2) s = execMul rd rs1 rs2 s :=
  rfl
theorem exec_mulh (rd : BitVec 5) (rs1 : BitVec 5) (rs2 : BitVec 5) : exec (.mulh rd rs1 rs2) s = execMulh rd rs1 rs2 s :=
  rfl
theorem exec_mulhsu (rd : BitVec 5) (rs1 : BitVec 5) (rs2 : BitVec 5) : exec (.mulhsu rd rs1 rs2) s = execMulhsu rd rs1 rs2 s :=
  rfl
theorem exec_mulhu (rd : BitVec 5) (rs1 : BitVec 5) (rs2 : BitVec 5) : exec (.mulhu rd rs1 rs2) s = execMulhu rd rs1 rs2 s :=
  rfl
theorem exec_div (rd : BitVec 5) (rs1 : BitVec 5) (rs2 : BitVec 5) : exec (.div rd rs1 rs2) s = execDiv rd rs1 rs2 s :=
  rfl
theorem exec_divu (rd : BitVec 5) (rs1 : BitVec 5) (rs2 : BitVec 5) : exec (.divu rd rs1 rs2) s = execDivu rd rs1 rs2 s :=
  rfl
theorem exec_rem (rd : BitVec 5) (rs1 : BitVec 5) (rs2 : BitVec 5) : exec (.rem rd rs1 rs2) s = execRem rd rs1 rs2 s :=
  rfl
theorem exec_remu (rd : BitVec 5) (rs1 : BitVec 5) (rs2 : BitVec 5) : exec (.remu rd rs1 rs2) s = execRemu rd rs1 rs2 s :=
  rfl
theorem exec_addiw (rd : BitVec 5) (rs1 : BitVec 5) (imm : BitVec 12) : exec (.addiw rd rs1 imm) s = execAddiw rd rs1 imm s :=
  rfl
theorem exec_slliw (rd : BitVec 5) (rs1 : BitVec 5) (sh : BitVec 5) : exec (.slliw rd rs1 sh) s = execSlliw rd rs1 sh s :=
  rfl
theorem exec_srliw (rd : BitVec 5) (rs1 : BitVec 5) (sh : BitVec 5) : exec (.srliw rd rs1 sh) s = execSrliw rd rs1 sh s :=
  rfl
theorem exec_sraiw (rd : BitVec 5) (rs1 : BitVec 5) (sh : BitVec 5) : exec (.sraiw rd rs1 sh) s = execSraiw rd rs1 sh s :=
  rfl
theorem exec_addw (rd : BitVec 5) (rs1 : BitVec 5) (rs2 : BitVec 5) : exec (.addw rd rs1 rs2) s = execAddw rd rs1 rs2 s :=
  rfl
theorem exec_subw (rd : BitVec 5) (rs1 : BitVec 5) (rs2 : BitVec 5) : exec (.subw rd rs1 rs2) s = execSubw rd rs1 rs2 s :=
  rfl
theorem exec_sllw (rd : BitVec 5) (rs1 : BitVec 5) (rs2 : BitVec 5) : exec (.sllw rd rs1 rs2) s = execSllw rd rs1 rs2 s :=
  rfl
theorem exec_srlw (rd : BitVec 5) (rs1 : BitVec 5) (rs2 : BitVec 5) : exec (.srlw rd rs1 rs2) s = execSrlw rd rs1 rs2 s :=
  rfl
theorem exec_sraw (rd : BitVec 5) (rs1 : BitVec 5) (rs2 : BitVec 5) : exec (.sraw rd rs1 rs2) s = execSraw rd rs1 rs2 s :=
  rfl
theorem exec_mulw (rd : BitVec 5) (rs1 : BitVec 5) (rs2 : BitVec 5) : exec (.mulw rd rs1 rs2) s = execMulw rd rs1 rs2 s :=
  rfl
theorem exec_divw (rd : BitVec 5) (rs1 : BitVec 5) (rs2 : BitVec 5) : exec (.divw rd rs1 rs2) s = execDivw rd rs1 rs2 s :=
  rfl
theorem exec_divuw (rd : BitVec 5) (rs1 : BitVec 5) (rs2 : BitVec 5) : exec (.divuw rd rs1 rs2) s = execDivuw rd rs1 rs2 s :=
  rfl
theorem exec_remw (rd : BitVec 5) (rs1 : BitVec 5) (rs2 : BitVec 5) : exec (.remw rd rs1 rs2) s = execRemw rd rs1 rs2 s :=
  rfl
theorem exec_remuw (rd : BitVec 5) (rs1 : BitVec 5) (rs2 : BitVec 5) : exec (.remuw rd rs1 rs2) s = execRemuw rd rs1 rs2 s :=
  rfl
theorem exec_fence (fm : BitVec 4) (pred : BitVec 4) (succ : BitVec 4) : exec (.fence fm pred succ) s = execFence fm pred succ s :=
  rfl
theorem exec_ecall : exec .ecall s = execEcall s :=
  rfl
theorem exec_ebreak : exec .ebreak s = execEbreak s :=
  rfl
theorem exec_csrrw (rd : BitVec 5) (csr : BitVec 12) (rs1 : BitVec 5) : exec (.csrrw rd csr rs1) s = execCsrrw rd csr rs1 s :=
  rfl
theorem exec_csrrs (rd : BitVec 5) (csr : BitVec 12) (rs1 : BitVec 5) : exec (.csrrs rd csr rs1) s = execCsrrs rd csr rs1 s :=
  rfl
theorem exec_csrrc (rd : BitVec 5) (csr : BitVec 12) (rs1 : BitVec 5) : exec (.csrrc rd csr rs1) s = execCsrrc rd csr rs1 s :=
  rfl
theorem exec_csrrwi (rd : BitVec 5) (csr : BitVec 12) (uimm : BitVec 5) : exec (.csrrwi rd csr uimm) s = execCsrrwi rd csr uimm s :=
  rfl
theorem exec_csrrsi (rd : BitVec 5) (csr : BitVec 12) (uimm : BitVec 5) : exec (.csrrsi rd csr uimm) s = execCsrrsi rd csr uimm s :=
  rfl
theorem exec_csrrci (rd : BitVec 5) (csr : BitVec 12) (uimm : BitVec 5) : exec (.csrrci rd csr uimm) s = execCsrrci rd csr uimm s :=
  rfl
theorem exec_faddS (rd : BitVec 5) (rs1 : BitVec 5) (rs2 : BitVec 5) (rm : BitVec 3) : exec (.faddS rd rs1 rs2 rm) s = execFaddS rd rs1 rs2 rm s :=
  rfl
theorem exec_faddD (rd : BitVec 5) (rs1 : BitVec 5) (rs2 : BitVec 5) (rm : BitVec 3) : exec (.faddD rd rs1 rs2 rm) s = execFaddD rd rs1 rs2 rm s :=
  rfl
theorem exec_fsubS (rd : BitVec 5) (rs1 : BitVec 5) (rs2 : BitVec 5) (rm : BitVec 3) : exec (.fsubS rd rs1 rs2 rm) s = execFsubS rd rs1 rs2 rm s :=
  rfl
theorem exec_fsubD (rd : BitVec 5) (rs1 : BitVec 5) (rs2 : BitVec 5) (rm : BitVec 3) : exec (.fsubD rd rs1 rs2 rm) s = execFsubD rd rs1 rs2 rm s :=
  rfl
theorem exec_fmulS (rd : BitVec 5) (rs1 : BitVec 5) (rs2 : BitVec 5) (rm : BitVec 3) : exec (.fmulS rd rs1 rs2 rm) s = execFmulS rd rs1 rs2 rm s :=
  rfl
theorem exec_fmulD (rd : BitVec 5) (rs1 : BitVec 5) (rs2 : BitVec 5) (rm : BitVec 3) : exec (.fmulD rd rs1 rs2 rm) s = execFmulD rd rs1 rs2 rm s :=
  rfl
theorem exec_fdivS (rd : BitVec 5) (rs1 : BitVec 5) (rs2 : BitVec 5) (rm : BitVec 3) : exec (.fdivS rd rs1 rs2 rm) s = execFdivS rd rs1 rs2 rm s :=
  rfl
theorem exec_fdivD (rd : BitVec 5) (rs1 : BitVec 5) (rs2 : BitVec 5) (rm : BitVec 3) : exec (.fdivD rd rs1 rs2 rm) s = execFdivD rd rs1 rs2 rm s :=
  rfl
theorem exec_fsqrtS (rd : BitVec 5) (rs1 : BitVec 5) (rm : BitVec 3) : exec (.fsqrtS rd rs1 rm) s = execFsqrtS rd rs1 rm s :=
  rfl
theorem exec_fsqrtD (rd : BitVec 5) (rs1 : BitVec 5) (rm : BitVec 3) : exec (.fsqrtD rd rs1 rm) s = execFsqrtD rd rs1 rm s :=
  rfl
theorem exec_fsgnjS (rd : BitVec 5) (rs1 : BitVec 5) (rs2 : BitVec 5) : exec (.fsgnjS rd rs1 rs2) s = execFsgnjS rd rs1 rs2 s :=
  rfl
theorem exec_fsgnjD (rd : BitVec 5) (rs1 : BitVec 5) (rs2 : BitVec 5) : exec (.fsgnjD rd rs1 rs2) s = execFsgnjD rd rs1 rs2 s :=
  rfl
theorem exec_fsgnjnS (rd : BitVec 5) (rs1 : BitVec 5) (rs2 : BitVec 5) : exec (.fsgnjnS rd rs1 rs2) s = execFsgnjnS rd rs1 rs2 s :=
  rfl
theorem exec_fsgnjnD (rd : BitVec 5) (rs1 : BitVec 5) (rs2 : BitVec 5) : exec (.fsgnjnD rd rs1 rs2) s = execFsgnjnD rd rs1 rs2 s :=
  rfl
theorem exec_fsgnjxS (rd : BitVec 5) (rs1 : BitVec 5) (rs2 : BitVec 5) : exec (.fsgnjxS rd rs1 rs2) s = execFsgnjxS rd rs1 rs2 s :=
  rfl
theorem exec_fsgnjxD (rd : BitVec 5) (rs1 : BitVec 5) (rs2 : BitVec 5) : exec (.fsgnjxD rd rs1 rs2) s = execFsgnjxD rd rs1 rs2 s :=
  rfl
theorem exec_fminS (rd : BitVec 5) (rs1 : BitVec 5) (rs2 : BitVec 5) : exec (.fminS rd rs1 rs2) s = execFminS rd rs1 rs2 s :=
  rfl
theorem exec_fminD (rd : BitVec 5) (rs1 : BitVec 5) (rs2 : BitVec 5) : exec (.fminD rd rs1 rs2) s = execFminD rd rs1 rs2 s :=
  rfl
theorem exec_fmaxS (rd : BitVec 5) (rs1 : BitVec 5) (rs2 : BitVec 5) : exec (.fmaxS rd rs1 rs2) s = execFmaxS rd rs1 rs2 s :=
  rfl
theorem exec_fmaxD (rd : BitVec 5) (rs1 : BitVec 5) (rs2 : BitVec 5) : exec (.fmaxD rd rs1 rs2) s = execFmaxD rd rs1 rs2 s :=
  rfl
theorem exec_fleS (rd : BitVec 5) (rs1 : BitVec 5) (rs2 : BitVec 5) : exec (.fleS rd rs1 rs2) s = execFleS rd rs1 rs2 s :=
  rfl
theorem exec_fleD (rd : BitVec 5) (rs1 : BitVec 5) (rs2 : BitVec 5) : exec (.fleD rd rs1 rs2) s = execFleD rd rs1 rs2 s :=
  rfl
theorem exec_fltS (rd : BitVec 5) (rs1 : BitVec 5) (rs2 : BitVec 5) : exec (.fltS rd rs1 rs2) s = execFltS rd rs1 rs2 s :=
  rfl
theorem exec_fltD (rd : BitVec 5) (rs1 : BitVec 5) (rs2 : BitVec 5) : exec (.fltD rd rs1 rs2) s = execFltD rd rs1 rs2 s :=
  rfl
theorem exec_feqS (rd : BitVec 5) (rs1 : BitVec 5) (rs2 : BitVec 5) : exec (.feqS rd rs1 rs2) s = execFeqS rd rs1 rs2 s :=
  rfl
theorem exec_feqD (rd : BitVec 5) (rs1 : BitVec 5) (rs2 : BitVec 5) : exec (.feqD rd rs1 rs2) s = execFeqD rd rs1 rs2 s :=
  rfl
theorem exec_fclassS (rd : BitVec 5) (rs1 : BitVec 5) : exec (.fclassS rd rs1) s = execFclassS rd rs1 s :=
  rfl
theorem exec_fclassD (rd : BitVec 5) (rs1 : BitVec 5) : exec (.fclassD rd rs1) s = execFclassD rd rs1 s :=
  rfl
theorem exec_fcvtWS (rd : BitVec 5) (rs1 : BitVec 5) (rm : BitVec 3) : exec (.fcvtWS rd rs1 rm) s = execFcvtWS rd rs1 rm s :=
  rfl
theorem exec_fcvtWuS (rd : BitVec 5) (rs1 : BitVec 5) (rm : BitVec 3) : exec (.fcvtWuS rd rs1 rm) s = execFcvtWuS rd rs1 rm s :=
  rfl
theorem exec_fcvtLS (rd : BitVec 5) (rs1 : BitVec 5) (rm : BitVec 3) : exec (.fcvtLS rd rs1 rm) s = execFcvtLS rd rs1 rm s :=
  rfl
theorem exec_fcvtLuS (rd : BitVec 5) (rs1 : BitVec 5) (rm : BitVec 3) : exec (.fcvtLuS rd rs1 rm) s = execFcvtLuS rd rs1 rm s :=
  rfl
theorem exec_fcvtWD (rd : BitVec 5) (rs1 : BitVec 5) (rm : BitVec 3) : exec (.fcvtWD rd rs1 rm) s = execFcvtWD rd rs1 rm s :=
  rfl
theorem exec_fcvtWuD (rd : BitVec 5) (rs1 : BitVec 5) (rm : BitVec 3) : exec (.fcvtWuD rd rs1 rm) s = execFcvtWuD rd rs1 rm s :=
  rfl
theorem exec_fcvtLD (rd : BitVec 5) (rs1 : BitVec 5) (rm : BitVec 3) : exec (.fcvtLD rd rs1 rm) s = execFcvtLD rd rs1 rm s :=
  rfl
theorem exec_fcvtLuD (rd : BitVec 5) (rs1 : BitVec 5) (rm : BitVec 3) : exec (.fcvtLuD rd rs1 rm) s = execFcvtLuD rd rs1 rm s :=
  rfl
theorem exec_fcvtSW (rd : BitVec 5) (rs1 : BitVec 5) (rm : BitVec 3) : exec (.fcvtSW rd rs1 rm) s = execFcvtSW rd rs1 rm s :=
  rfl
theorem exec_fcvtSWu (rd : BitVec 5) (rs1 : BitVec 5) (rm : BitVec 3) : exec (.fcvtSWu rd rs1 rm) s = execFcvtSWu rd rs1 rm s :=
  rfl
theorem exec_fcvtSL (rd : BitVec 5) (rs1 : BitVec 5) (rm : BitVec 3) : exec (.fcvtSL rd rs1 rm) s = execFcvtSL rd rs1 rm s :=
  rfl
theorem exec_fcvtSLu (rd : BitVec 5) (rs1 : BitVec 5) (rm : BitVec 3) : exec (.fcvtSLu rd rs1 rm) s = execFcvtSLu rd rs1 rm s :=
  rfl
theorem exec_fcvtDW (rd : BitVec 5) (rs1 : BitVec 5) (rm : BitVec 3) : exec (.fcvtDW rd rs1 rm) s = execFcvtDW rd rs1 rm s :=
  rfl
theorem exec_fcvtDWu (rd : BitVec 5) (rs1 : BitVec 5) (rm : BitVec 3) : exec (.fcvtDWu rd rs1 rm) s = execFcvtDWu rd rs1 rm s :=
  rfl
theorem exec_fcvtDL (rd : BitVec 5) (rs1 : BitVec 5) (rm : BitVec 3) : exec (.fcvtDL rd rs1 rm) s = execFcvtDL rd rs1 rm s :=
  rfl
theorem exec_fcvtDLu (rd : BitVec 5) (rs1 : BitVec 5) (rm : BitVec 3) : exec (.fcvtDLu rd rs1 rm) s = execFcvtDLu rd rs1 rm s :=
  rfl
theorem exec_fcvtSD (rd : BitVec 5) (rs1 : BitVec 5) (rm : BitVec 3) : exec (.fcvtSD rd rs1 rm) s = execFcvtSD rd rs1 rm s :=
  rfl
theorem exec_fcvtDS (rd : BitVec 5) (rs1 : BitVec 5) (rm : BitVec 3) : exec (.fcvtDS rd rs1 rm) s = execFcvtDS rd rs1 rm s :=
  rfl
theorem exec_fmaddS (rd : BitVec 5) (rs1 : BitVec 5) (rs2 : BitVec 5) (rs3 : BitVec 5) (rm : BitVec 3) : exec (.fmaddS rd rs1 rs2 rs3 rm) s = execFmaddS rd rs1 rs2 rs3 rm s :=
  rfl
theorem exec_fmaddD (rd : BitVec 5) (rs1 : BitVec 5) (rs2 : BitVec 5) (rs3 : BitVec 5) (rm : BitVec 3) : exec (.fmaddD rd rs1 rs2 rs3 rm) s = execFmaddD rd rs1 rs2 rs3 rm s :=
  rfl
theorem exec_fmsubS (rd : BitVec 5) (rs1 : BitVec 5) (rs2 : BitVec 5) (rs3 : BitVec 5) (rm : BitVec 3) : exec (.fmsubS rd rs1 rs2 rs3 rm) s = execFmsubS rd rs1 rs2 rs3 rm s :=
  rfl
theorem exec_fmsubD (rd : BitVec 5) (rs1 : BitVec 5) (rs2 : BitVec 5) (rs3 : BitVec 5) (rm : BitVec 3) : exec (.fmsubD rd rs1 rs2 rs3 rm) s = execFmsubD rd rs1 rs2 rs3 rm s :=
  rfl
theorem exec_fnmsubS (rd : BitVec 5) (rs1 : BitVec 5) (rs2 : BitVec 5) (rs3 : BitVec 5) (rm : BitVec 3) : exec (.fnmsubS rd rs1 rs2 rs3 rm) s = execFnmsubS rd rs1 rs2 rs3 rm s :=
  rfl
theorem exec_fnmsubD (rd : BitVec 5) (rs1 : BitVec 5) (rs2 : BitVec 5) (rs3 : BitVec 5) (rm : BitVec 3) : exec (.fnmsubD rd rs1 rs2 rs3 rm) s = execFnmsubD rd rs1 rs2 rs3 rm s :=
  rfl
theorem exec_fnmaddS (rd : BitVec 5) (rs1 : BitVec 5) (rs2 : BitVec 5) (rs3 : BitVec 5) (rm : BitVec 3) : exec (.fnmaddS rd rs1 rs2 rs3 rm) s = execFnmaddS rd rs1 rs2 rs3 rm s :=
  rfl
theorem exec_fnmaddD (rd : BitVec 5) (rs1 : BitVec 5) (rs2 : BitVec 5) (rs3 : BitVec 5) (rm : BitVec 3) : exec (.fnmaddD rd rs1 rs2 rs3 rm) s = execFnmaddD rd rs1 rs2 rs3 rm s :=
  rfl
theorem exec_cbase (rd : BitVec 5) (rs1 : BitVec 5) : exec (.cbase rd rs1) s = execCbase rd rs1 s :=
  rfl
theorem exec_clen (rd : BitVec 5) (rs1 : BitVec 5) : exec (.clen rd rs1) s = execClen rd rs1 s :=
  rfl
theorem exec_cperm (rd : BitVec 5) (rs1 : BitVec 5) : exec (.cperm rd rs1) s = execCperm rd rs1 s :=
  rfl
theorem exec_ctag (rd : BitVec 5) (rs1 : BitVec 5) : exec (.ctag rd rs1) s = execCtag rd rs1 s :=
  rfl
theorem exec_cbnd (rd : BitVec 5) (rs1 : BitVec 5) (rs2 : BitVec 5) : exec (.cbnd rd rs1 rs2) s = execCbnd rd rs1 rs2 s :=
  rfl
theorem exec_cbndx (rd : BitVec 5) (rs1 : BitVec 5) (rs2 : BitVec 5) : exec (.cbndx rd rs1 rs2) s = execCbndx rd rs1 rs2 s :=
  rfl
theorem exec_cadd (rd : BitVec 5) (rs1 : BitVec 5) (rs2 : BitVec 5) : exec (.cadd rd rs1 rs2) s = execCadd rd rs1 rs2 s :=
  rfl
theorem exec_cset (rd : BitVec 5) (rs1 : BitVec 5) (rs2 : BitVec 5) : exec (.cset rd rs1 rs2) s = execCset rd rs1 rs2 s :=
  rfl
theorem exec_candp (rd : BitVec 5) (rs1 : BitVec 5) (rs2 : BitVec 5) : exec (.candp rd rs1 rs2) s = execCandp rd rs1 rs2 s :=
  rfl
theorem exec_cmv (rd : BitVec 5) (rs1 : BitVec 5) : exec (.cmv rd rs1) s = execCmv rd rs1 s :=
  rfl
theorem exec_cclr (rd : BitVec 5) (rs1 : BitVec 5) : exec (.cclr rd rs1) s = execCclr rd rs1 s :=
  rfl
theorem exec_csub (rd : BitVec 5) (rs1 : BitVec 5) (rs2 : BitVec 5) : exec (.csub rd rs1 rs2) s = execCsub rd rs1 rs2 s :=
  rfl
theorem exec_cseal (rd : BitVec 5) (rs1 : BitVec 5) (rs2 : BitVec 5) : exec (.cseal rd rs1 rs2) s = execCseal rd rs1 rs2 s :=
  rfl
theorem exec_cunseal (rd : BitVec 5) (rs1 : BitVec 5) (rs2 : BitVec 5) : exec (.cunseal rd rs1 rs2) s = execCunseal rd rs1 rs2 s :=
  rfl
theorem exec_caddi (rd : BitVec 5) (rs1 : BitVec 5) (imm : BitVec 12) : exec (.caddi rd rs1 imm) s = execCaddi rd rs1 imm s :=
  rfl
theorem exec_clc (rd : BitVec 5) (rs1 : BitVec 5) (imm : BitVec 12) : exec (.clc rd rs1 imm) s = execClc rd rs1 imm s :=
  rfl
theorem exec_csc (rs2 : BitVec 5) (rs1 : BitVec 5) (imm : BitVec 12) : exec (.csc rs2 rs1 imm) s = execCsc rs2 rs1 imm s :=
  rfl
theorem exec_lda (rd : BitVec 5) (rs1 : BitVec 5) (sz : BitVec 2) (sc : BitVec 3) : exec (.lda rd rs1 sz sc) s = execLda rd rs1 sz sc s :=
  rfl
theorem exec_stl (rs1 : BitVec 5) (rs2 : BitVec 5) (sz : BitVec 2) (sc : BitVec 3) : exec (.stl rs1 rs2 sz sc) s = execStl rs1 rs2 sz sc s :=
  rfl
theorem exec_fenceScoped (sc : BitVec 3) : exec (.fenceScoped sc) s = execFenceScoped sc s :=
  rfl
theorem exec_taglk (rd : BitVec 5) (rs1 : BitVec 5) : exec (.taglk rd rs1) s = execTaglk rd rs1 s :=
  rfl
theorem exec_tagins (rd : BitVec 5) (rs1 : BitVec 5) (rs2 : BitVec 5) : exec (.tagins rd rs1 rs2) s = execTagins rd rs1 rs2 s :=
  rfl
theorem exec_tagdel (rs1 : BitVec 5) : exec (.tagdel rs1) s = execTagdel rs1 s :=
  rfl
theorem exec_tagpin (rs1 : BitVec 5) : exec (.tagpin rs1) s = execTagpin rs1 s :=
  rfl
theorem exec_tagunpin (rs1 : BitVec 5) : exec (.tagunpin rs1) s = execTagunpin rs1 s :=
  rfl
theorem exec_cbinit (bd : BitVec 4) (rs1 : BitVec 5) : exec (.cbinit bd rs1) s = execCbinit bd rs1 s :=
  rfl
theorem exec_cbput (bd : BitVec 4) : exec (.cbput bd) s = execCbput bd s :=
  rfl
theorem exec_cbget (rd : BitVec 5) (bs : BitVec 4) : exec (.cbget rd bs) s = execCbget rd bs s :=
  rfl
theorem exec_cbrel (bd : BitVec 4) : exec (.cbrel bd) s = execCbrel bd s :=
  rfl
theorem exec_cbstat (rd : BitVec 5) (bs : BitVec 4) : exec (.cbstat rd bs) s = execCbstat rd bs s :=
  rfl
theorem exec_barinit (rs1 : BitVec 5) (rs2 : BitVec 5) : exec (.barinit rs1 rs2) s = execBarinit rs1 rs2 s :=
  rfl
theorem exec_bararv (rd : BitVec 5) (rs1 : BitVec 5) (rs2 : BitVec 5) : exec (.bararv rd rs1 rs2) s = execBararv rd rs1 rs2 s :=
  rfl
theorem exec_bardrop (rd : BitVec 5) (rs1 : BitVec 5) : exec (.bardrop rd rs1) s = execBardrop rd rs1 s :=
  rfl
theorem exec_barwait (rd : BitVec 5) (rs1 : BitVec 5) (rs2 : BitVec 5) : exec (.barwait rd rs1 rs2) s = execBarwait rd rs1 rs2 s :=
  rfl
theorem exec_barrd (rd : BitVec 5) (rs1 : BitVec 5) : exec (.barrd rd rs1) s = execBarrd rd rs1 s :=
  rfl
theorem exec_amoAddW (rd : BitVec 5) (rs1 : BitVec 5) (rs2 : BitVec 5) : exec (.amoAddW rd rs1 rs2) s = execAmoAddW rd rs1 rs2 s :=
  rfl
theorem exec_amoAddD (rd : BitVec 5) (rs1 : BitVec 5) (rs2 : BitVec 5) : exec (.amoAddD rd rs1 rs2) s = execAmoAddD rd rs1 rs2 s :=
  rfl
theorem exec_amoAddfW (rd : BitVec 5) (rs1 : BitVec 5) (rs2 : BitVec 5) : exec (.amoAddfW rd rs1 rs2) s = execAmoAddfW rd rs1 rs2 s :=
  rfl
theorem exec_amoAddfD (rd : BitVec 5) (rs1 : BitVec 5) (rs2 : BitVec 5) : exec (.amoAddfD rd rs1 rs2) s = execAmoAddfD rd rs1 rs2 s :=
  rfl
theorem exec_amoMinW (rd : BitVec 5) (rs1 : BitVec 5) (rs2 : BitVec 5) : exec (.amoMinW rd rs1 rs2) s = execAmoMinW rd rs1 rs2 s :=
  rfl
theorem exec_amoMinD (rd : BitVec 5) (rs1 : BitVec 5) (rs2 : BitVec 5) : exec (.amoMinD rd rs1 rs2) s = execAmoMinD rd rs1 rs2 s :=
  rfl
theorem exec_amoMaxW (rd : BitVec 5) (rs1 : BitVec 5) (rs2 : BitVec 5) : exec (.amoMaxW rd rs1 rs2) s = execAmoMaxW rd rs1 rs2 s :=
  rfl
theorem exec_amoMaxD (rd : BitVec 5) (rs1 : BitVec 5) (rs2 : BitVec 5) : exec (.amoMaxD rd rs1 rs2) s = execAmoMaxD rd rs1 rs2 s :=
  rfl
theorem exec_amoMinuW (rd : BitVec 5) (rs1 : BitVec 5) (rs2 : BitVec 5) : exec (.amoMinuW rd rs1 rs2) s = execAmoMinuW rd rs1 rs2 s :=
  rfl
theorem exec_amoMinuD (rd : BitVec 5) (rs1 : BitVec 5) (rs2 : BitVec 5) : exec (.amoMinuD rd rs1 rs2) s = execAmoMinuD rd rs1 rs2 s :=
  rfl
theorem exec_amoMaxuW (rd : BitVec 5) (rs1 : BitVec 5) (rs2 : BitVec 5) : exec (.amoMaxuW rd rs1 rs2) s = execAmoMaxuW rd rs1 rs2 s :=
  rfl
theorem exec_amoMaxuD (rd : BitVec 5) (rs1 : BitVec 5) (rs2 : BitVec 5) : exec (.amoMaxuD rd rs1 rs2) s = execAmoMaxuD rd rs1 rs2 s :=
  rfl
theorem exec_amoSwapW (rd : BitVec 5) (rs1 : BitVec 5) (rs2 : BitVec 5) : exec (.amoSwapW rd rs1 rs2) s = execAmoSwapW rd rs1 rs2 s :=
  rfl
theorem exec_amoSwapD (rd : BitVec 5) (rs1 : BitVec 5) (rs2 : BitVec 5) : exec (.amoSwapD rd rs1 rs2) s = execAmoSwapD rd rs1 rs2 s :=
  rfl
theorem exec_amoCasW (rd : BitVec 5) (rs1 : BitVec 5) (rs2 : BitVec 5) : exec (.amoCasW rd rs1 rs2) s = execAmoCasW rd rs1 rs2 s :=
  rfl
theorem exec_amoCasD (rd : BitVec 5) (rs1 : BitVec 5) (rs2 : BitVec 5) : exec (.amoCasD rd rs1 rs2) s = execAmoCasD rd rs1 rs2 s :=
  rfl
theorem exec_amoAndW (rd : BitVec 5) (rs1 : BitVec 5) (rs2 : BitVec 5) : exec (.amoAndW rd rs1 rs2) s = execAmoAndW rd rs1 rs2 s :=
  rfl
theorem exec_amoAndD (rd : BitVec 5) (rs1 : BitVec 5) (rs2 : BitVec 5) : exec (.amoAndD rd rs1 rs2) s = execAmoAndD rd rs1 rs2 s :=
  rfl
theorem exec_amoOrW (rd : BitVec 5) (rs1 : BitVec 5) (rs2 : BitVec 5) : exec (.amoOrW rd rs1 rs2) s = execAmoOrW rd rs1 rs2 s :=
  rfl
theorem exec_amoOrD (rd : BitVec 5) (rs1 : BitVec 5) (rs2 : BitVec 5) : exec (.amoOrD rd rs1 rs2) s = execAmoOrD rd rs1 rs2 s :=
  rfl
theorem exec_amoXorW (rd : BitVec 5) (rs1 : BitVec 5) (rs2 : BitVec 5) : exec (.amoXorW rd rs1 rs2) s = execAmoXorW rd rs1 rs2 s :=
  rfl
theorem exec_amoXorD (rd : BitVec 5) (rs1 : BitVec 5) (rs2 : BitVec 5) : exec (.amoXorD rd rs1 rs2) s = execAmoXorD rd rs1 rs2 s :=
  rfl
theorem exec_mon (rs1 : BitVec 5) : exec (.mon rs1) s = execMon rs1 s :=
  rfl
theorem exec_monw (rd : BitVec 5) (rs1 : BitVec 5) : exec (.monw rd rs1) s = execMonw rd rs1 s :=
  rfl
theorem exec_bmov (rd : BitVec 5) (rs1 : BitVec 5) (rs2 : BitVec 5) : exec (.bmov rd rs1 rs2) s = execBmov rd rs1 rs2 s :=
  rfl
theorem exec_bfill (rd : BitVec 5) (rs1 : BitVec 5) (rs2 : BitVec 5) : exec (.bfill rd rs1 rs2) s = execBfill rd rs1 rs2 s :=
  rfl
theorem exec_rep (rs1 : BitVec 5) : exec (.rep rs1) s = execRep rs1 s :=
  rfl
theorem exec_rgn (xs : BitVec 3) : exec (.rgn xs) s = execRgn xs s :=
  rfl
theorem exec_wbind (wd : BitVec 3) (rs1 : BitVec 5) : exec (.wbind wd rs1) s = execWbind wd rs1 s :=
  rfl
theorem exec_wstat (rd : BitVec 5) (ws : BitVec 3) : exec (.wstat rd ws) s = execWstat rd ws s :=
  rfl
theorem exec_wdrain (wd : BitVec 3) : exec (.wdrain wd) s = execWdrain wd s :=
  rfl
theorem exec_wunbind (wd : BitVec 3) : exec (.wunbind wd) s = execWunbind wd s :=
  rfl
theorem exec_vadd (ty : BitVec 3) (src2 : BitVec 5) (va : BitVec 4) (sx : BitVec 1) (mask : BitVec 2) (vd : BitVec 4) (sat : BitVec 1) : exec (.vadd ty src2 va sx mask vd sat) s = execVadd ty src2 va sx mask vd sat s :=
  rfl
theorem exec_vsub (ty : BitVec 3) (src2 : BitVec 5) (va : BitVec 4) (sx : BitVec 1) (mask : BitVec 2) (vd : BitVec 4) (sat : BitVec 1) : exec (.vsub ty src2 va sx mask vd sat) s = execVsub ty src2 va sx mask vd sat s :=
  rfl
theorem exec_vmul (ty : BitVec 3) (src2 : BitVec 5) (va : BitVec 4) (sx : BitVec 1) (mask : BitVec 2) (vd : BitVec 4) (sat : BitVec 1) : exec (.vmul ty src2 va sx mask vd sat) s = execVmul ty src2 va sx mask vd sat s :=
  rfl
theorem exec_vfma (ty : BitVec 3) (src2 : BitVec 5) (va : BitVec 4) (sx : BitVec 1) (mask : BitVec 2) (vd : BitVec 4) (sat : BitVec 1) : exec (.vfma ty src2 va sx mask vd sat) s = execVfma ty src2 va sx mask vd sat s :=
  rfl
theorem exec_vfms (ty : BitVec 3) (src2 : BitVec 5) (va : BitVec 4) (sx : BitVec 1) (mask : BitVec 2) (vd : BitVec 4) (sat : BitVec 1) : exec (.vfms ty src2 va sx mask vd sat) s = execVfms ty src2 va sx mask vd sat s :=
  rfl
theorem exec_vmax (ty : BitVec 3) (src2 : BitVec 5) (va : BitVec 4) (sx : BitVec 1) (mask : BitVec 2) (vd : BitVec 4) : exec (.vmax ty src2 va sx mask vd) s = execVmax ty src2 va sx mask vd s :=
  rfl
theorem exec_vmin (ty : BitVec 3) (src2 : BitVec 5) (va : BitVec 4) (sx : BitVec 1) (mask : BitVec 2) (vd : BitVec 4) : exec (.vmin ty src2 va sx mask vd) s = execVmin ty src2 va sx mask vd s :=
  rfl
theorem exec_vabs (ty : BitVec 3) (va : BitVec 4) (mask : BitVec 2) (vd : BitVec 4) (sat : BitVec 1) : exec (.vabs ty va mask vd sat) s = execVabs ty va mask vd sat s :=
  rfl
theorem exec_vneg (ty : BitVec 3) (va : BitVec 4) (mask : BitVec 2) (vd : BitVec 4) (sat : BitVec 1) : exec (.vneg ty va mask vd sat) s = execVneg ty va mask vd sat s :=
  rfl
theorem exec_vclamp (ty : BitVec 3) (src2 : BitVec 5) (va : BitVec 4) (sx : BitVec 1) (mask : BitVec 2) (vd : BitVec 4) : exec (.vclamp ty src2 va sx mask vd) s = execVclamp ty src2 va sx mask vd s :=
  rfl
theorem exec_vcvt (ty : BitVec 3) (sty : BitVec 3) (va : BitVec 4) (mask : BitVec 2) (vd : BitVec 4) (sat : BitVec 1) : exec (.vcvt ty sty va mask vd sat) s = execVcvt ty sty va mask vd sat s :=
  rfl
theorem exec_vrcp (ty : BitVec 3) (va : BitVec 4) (mask : BitVec 2) (vd : BitVec 4) : exec (.vrcp ty va mask vd) s = execVrcp ty va mask vd s :=
  rfl
theorem exec_vrsq (ty : BitVec 3) (va : BitVec 4) (mask : BitVec 2) (vd : BitVec 4) : exec (.vrsq ty va mask vd) s = execVrsq ty va mask vd s :=
  rfl
theorem exec_vexp2 (ty : BitVec 3) (va : BitVec 4) (mask : BitVec 2) (vd : BitVec 4) : exec (.vexp2 ty va mask vd) s = execVexp2 ty va mask vd s :=
  rfl
theorem exec_vredSum (ty : BitVec 3) (va : BitVec 4) (mask : BitVec 2) (vd : BitVec 4) (sat : BitVec 1) : exec (.vredSum ty va mask vd sat) s = execVredSum ty va mask vd sat s :=
  rfl
theorem exec_vredMax (ty : BitVec 3) (va : BitVec 4) (mask : BitVec 2) (vd : BitVec 4) : exec (.vredMax ty va mask vd) s = execVredMax ty va mask vd s :=
  rfl
theorem exec_vredMin (ty : BitVec 3) (va : BitVec 4) (mask : BitVec 2) (vd : BitVec 4) : exec (.vredMin ty va mask vd) s = execVredMin ty va mask vd s :=
  rfl
theorem exec_vcmpEq (ty : BitVec 3) (src2 : BitVec 5) (va : BitVec 4) (sx : BitVec 1) (mask : BitVec 2) (kd : BitVec 2) : exec (.vcmpEq ty src2 va sx mask kd) s = execVcmpEq ty src2 va sx mask kd s :=
  rfl
theorem exec_vcmpLt (ty : BitVec 3) (src2 : BitVec 5) (va : BitVec 4) (sx : BitVec 1) (mask : BitVec 2) (kd : BitVec 2) : exec (.vcmpLt ty src2 va sx mask kd) s = execVcmpLt ty src2 va sx mask kd s :=
  rfl
theorem exec_vcmpLe (ty : BitVec 3) (src2 : BitVec 5) (va : BitVec 4) (sx : BitVec 1) (mask : BitVec 2) (kd : BitVec 2) : exec (.vcmpLe ty src2 va sx mask kd) s = execVcmpLe ty src2 va sx mask kd s :=
  rfl
theorem exec_vsel (ty : BitVec 3) (src2 : BitVec 5) (va : BitVec 4) (sx : BitVec 1) (mask : BitVec 2) (vd : BitVec 4) : exec (.vsel ty src2 va sx mask vd) s = execVsel ty src2 va sx mask vd s :=
  rfl
theorem exec_vand (ty : BitVec 3) (src2 : BitVec 5) (va : BitVec 4) (sx : BitVec 1) (mask : BitVec 2) (vd : BitVec 4) : exec (.vand ty src2 va sx mask vd) s = execVand ty src2 va sx mask vd s :=
  rfl
theorem exec_vor (ty : BitVec 3) (src2 : BitVec 5) (va : BitVec 4) (sx : BitVec 1) (mask : BitVec 2) (vd : BitVec 4) : exec (.vor ty src2 va sx mask vd) s = execVor ty src2 va sx mask vd s :=
  rfl
theorem exec_vxor (ty : BitVec 3) (src2 : BitVec 5) (va : BitVec 4) (sx : BitVec 1) (mask : BitVec 2) (vd : BitVec 4) : exec (.vxor ty src2 va sx mask vd) s = execVxor ty src2 va sx mask vd s :=
  rfl
theorem exec_vshl (ty : BitVec 3) (src2 : BitVec 5) (va : BitVec 4) (sx : BitVec 1) (mask : BitVec 2) (vd : BitVec 4) (sat : BitVec 1) : exec (.vshl ty src2 va sx mask vd sat) s = execVshl ty src2 va sx mask vd sat s :=
  rfl
theorem exec_vshr (ty : BitVec 3) (src2 : BitVec 5) (va : BitVec 4) (sx : BitVec 1) (mask : BitVec 2) (vd : BitVec 4) (sat : BitVec 1) : exec (.vshr ty src2 va sx mask vd sat) s = execVshr ty src2 va sx mask vd sat s :=
  rfl
theorem exec_vmov (ty : BitVec 3) (va : BitVec 4) (mask : BitVec 2) (vd : BitVec 4) : exec (.vmov ty va mask vd) s = execVmov ty va mask vd s :=
  rfl
theorem exec_vsplat (imm : BitVec 16) (ty : BitVec 3) (vd : BitVec 4) : exec (.vsplat imm ty vd) s = execVsplat imm ty vd s :=
  rfl
theorem exec_vaddi (imm : BitVec 16) (ty : BitVec 3) (vd : BitVec 4) : exec (.vaddi imm ty vd) s = execVaddi imm ty vd s :=
  rfl
theorem exec_vmuli (imm : BitVec 16) (ty : BitVec 3) (vd : BitVec 4) : exec (.vmuli imm ty vd) s = execVmuli imm ty vd s :=
  rfl
theorem exec_vmaxi (imm : BitVec 16) (ty : BitVec 3) (vd : BitVec 4) : exec (.vmaxi imm ty vd) s = execVmaxi imm ty vd s :=
  rfl
theorem exec_send (rd : BitVec 5) (rs1 : BitVec 5) (rs2 : BitVec 5) : exec (.send rd rs1 rs2) s = execSend rd rs1 rs2 s :=
  rfl
theorem exec_sendb (rd : BitVec 5) (xs : BitVec 3) : exec (.sendb rd xs) s = execSendb rd xs s :=
  rfl
theorem exec_decr (rd : BitVec 5) (rs1 : BitVec 5) (rs2 : BitVec 5) : exec (.decr rd rs1 rs2) s = execDecr rd rs1 rs2 s :=
  rfl
theorem exec_carry (rd : BitVec 5) (xs : BitVec 3) : exec (.carry rd xs) s = execCarry rd xs s :=
  rfl
theorem exec_mpop (rd : BitVec 5) : exec (.mpop rd) s = execMpop rd s :=
  rfl
theorem exec_mpeek (rd : BitVec 5) : exec (.mpeek rd) s = execMpeek rd s :=
  rfl
theorem exec_mdrop : exec .mdrop s = execMdrop s :=
  rfl
theorem exec_done : exec .done s = execDone s :=
  rfl
theorem exec_wait (rs1 : BitVec 5) : exec (.wait rs1) s = execWait rs1 s :=
  rfl
theorem exec_bank : exec .bank s = execBank s :=
  rfl
theorem exec_pin (rs1 : BitVec 5) : exec (.pin rs1) s = execPin rs1 s :=
  rfl
theorem exec_spawn (rd : BitVec 5) (xs : BitVec 3) : exec (.spawn rd xs) s = execSpawn rd xs s :=
  rfl
theorem exec_lwait (rd : BitVec 5) (rs1 : BitVec 5) (rs2 : BitVec 5) : exec (.lwait rd rs1 rs2) s = execLwait rd rs1 rs2 s :=
  rfl
theorem exec_shpush (rd : BitVec 5) (xs : BitVec 3) : exec (.shpush rd xs) s = execShpush rd xs s :=
  rfl
theorem exec_cpost (rd : BitVec 5) (xs : BitVec 3) : exec (.cpost rd xs) s = execCpost rd xs s :=
  rfl
theorem exec_cpostNb (rd : BitVec 5) (xs : BitVec 3) : exec (.cpostNb rd xs) s = execCpostNb rd xs s :=
  rfl
theorem exec_cstat (rd : BitVec 5) (rs1 : BitVec 5) : exec (.cstat rd rs1) s = execCstat rd rs1 s :=
  rfl
theorem exec_tcfg (md : BitVec 5) (rs1 : BitVec 5) : exec (.tcfg md rs1) s = execTcfg md rs1 s :=
  rfl
theorem exec_mzero (md : BitVec 5) : exec (.mzero md) s = execMzero md s :=
  rfl
theorem exec_mload (md : BitVec 5) (rs1 : BitVec 5) : exec (.mload md rs1) s = execMload md rs1 s :=
  rfl
theorem exec_mma (md : BitVec 5) (rs1 : BitVec 5) (rs2 : BitVec 5) : exec (.mma md rs1 rs2) s = execMma md rs1 rs2 s :=
  rfl
theorem exec_mmag (md : BitVec 5) (rs1 : BitVec 5) (rs2 : BitVec 5) : exec (.mmag md rs1 rs2) s = execMmag md rs1 rs2 s :=
  rfl
theorem exec_mgang : exec .mgang s = execMgang s :=
  rfl
theorem exec_mdrain (md : BitVec 5) (rs1 : BitVec 5) (rs2 : BitVec 5) : exec (.mdrain md rs1 rs2) s = execMdrain md rs1 rs2 s :=
  rfl
theorem exec_msync : exec .msync s = execMsync s :=
  rfl
theorem exec_mchk (rd : BitVec 5) (ms : BitVec 5) : exec (.mchk rd ms) s = execMchk rd ms s :=
  rfl
theorem exec_dkl (rd : BitVec 5) (rs1 : BitVec 5) (rs2 : BitVec 5) : exec (.dkl rd rs1 rs2) s = execDkl rd rs1 rs2 s :=
  rfl
theorem exec_selld (rs1 : BitVec 5) : exec (.selld rs1) s = execSelld rs1 s :=
  rfl
theorem exec_selstep (rd : BitVec 5) : exec (.selstep rd) s = execSelstep rd s :=
  rfl
theorem exec_selcut (rs1 : BitVec 5) : exec (.selcut rs1) s = execSelcut rs1 s :=
  rfl
theorem exec_selrun (rd : BitVec 5) (rs1 : BitVec 5) (rs2 : BitVec 5) : exec (.selrun rd rs1 rs2) s = execSelrun rd rs1 rs2 s :=
  rfl
theorem exec_selget (rd : BitVec 5) (rs1 : BitVec 5) : exec (.selget rd rs1) s = execSelget rd rs1 s :=
  rfl
theorem exec_seqmap (rs1 : BitVec 5) (rs2 : BitVec 5) : exec (.seqmap rs1 rs2) s = execSeqmap rs1 rs2 s :=
  rfl
theorem exec_steer (rs1 : BitVec 5) (rs2 : BitVec 5) : exec (.steer rs1 rs2) s = execSteer rs1 rs2 s :=
  rfl
theorem exec_taprd (rd : BitVec 5) (rs1 : BitVec 5) : exec (.taprd rd rs1) s = execTaprd rd rs1 s :=
  rfl
theorem exec_xret : exec .xret s = execXret s :=
  rfl
theorem exec_park : exec .park s = execPark s :=
  rfl
theorem exec_atinv (rs1 : BitVec 5) (rs2 : BitVec 5) : exec (.atinv rs1 rs2) s = execAtinv rs1 rs2 s :=
  rfl
theorem exec_atprobe (rd : BitVec 5) (rs1 : BitVec 5) : exec (.atprobe rd rs1) s = execAtprobe rd rs1 s :=
  rfl
theorem exec_hintPoint (hint : BitVec 17) : exec (.hintPoint hint) s = execHintPoint hint s :=
  rfl
theorem exec_preempt (c : CoreId) : exec (.preempt c) s = execPreempt c s :=
  rfl
theorem exec_resumeCore (c : CoreId) : exec (.resumeCore c) s = execResumeCore c s :=
  rfl
theorem exec_retry (c : CoreId) : exec (.retry c) s = execRetry c s :=
  rfl
theorem exec_abandon (c : CoreId) : exec (.abandon c) s = execAbandon c s :=
  rfl
theorem exec_move (c : CoreId) : exec (.move c) s = execMove c s :=
  rfl
theorem exec_unpin (c : CoreId) : exec (.unpin c) s = execUnpin c s :=
  rfl
theorem exec_clearFaultedMark (c : CoreId) : exec (.clearFaultedMark c) s = execClearFaultedMark c s :=
  rfl
theorem exec_setreg (c : CoreId) : exec (.setreg c) s = execSetreg c s :=
  rfl
theorem exec_sltgoRequest (die : Fin 8) (n : Fin 4) (v : BitVec 64) : exec (.sltgoRequest die n v) s = execSltgoRequest die n v s :=
  rfl
theorem exec_slotTableInstall (c : CoreId) : exec (.slotTableInstall c) s = execSlotTableInstall c s :=
  rfl
theorem exec_stareaWrite (die : Fin 8) (n : Fin 4) (v : BitVec 64) : exec (.stareaWrite die n v) s = execStareaWrite die n v s :=
  rfl
theorem exec_spqWrite (die : Fin 8) (n : Fin 4) (v : BitVec 64) : exec (.spqWrite die n v) s = execSpqWrite die n v s :=
  rfl
theorem exec_qovfWrite (die : Fin 8) (n : Fin 4) (v : BitVec 64) : exec (.qovfWrite die n v) s = execQovfWrite die n v s :=
  rfl
theorem exec_tapArm (die : Fin 8) (n : Fin 4) (v : BitVec 64) : exec (.tapArm die n v) s = execTapArm die n v s :=
  rfl
theorem exec_tapDisarm (die : Fin 8) (n : Fin 4) (v : BitVec 64) : exec (.tapDisarm die n v) s = execTapDisarm die n v s :=
  rfl
theorem exec_tapTablePointerWrite (die : Fin 8) (n : Fin 4) (cap : BitVec 129) : exec (.tapTablePointerWrite die n cap) s = execTapTablePointerWrite die n cap s :=
  rfl
theorem exec_registerWrite (p : Party) (csr : BitVec 12) (v : BitVec 64) : exec (.registerWrite p csr v) s = execRegisterWrite p csr v s :=
  rfl
theorem exec_drain (p : Party) : exec (.drain p) s = execDrain p s :=
  rfl
theorem exec_carryDelivery (d e : Fin 8) (i : Nat) : exec (.carryDelivery d e i) s = execCarryDelivery d e i s :=
  rfl
theorem exec_deliver (ch : Chan) : exec (.deliver ch) s = execDeliver ch s :=
  rfl
theorem exec_ownerAmo (c : CoreId) : exec (.ownerAmo c) s = execOwnerAmo c s :=
  rfl
theorem exec_carriedCodeRun (c : CoreId) : exec (.carriedCodeRun c) s = execCarriedCodeRun c s :=
  rfl
theorem exec_barrierInitOp (c : CoreId) : exec (.barrierInitOp c) s = execBarrierInitOp c s :=
  rfl
theorem exec_barrierArriveOp (c : CoreId) : exec (.barrierArriveOp c) s = execBarrierArriveOp c s :=
  rfl
theorem exec_barrierWaitOp (c : CoreId) : exec (.barrierWaitOp c) s = execBarrierWaitOp c s :=
  rfl
theorem exec_barrierCancel (c : CoreId) : exec (.barrierCancel c) s = execBarrierCancel c s :=
  rfl
theorem exec_barrierReadOp (c : CoreId) : exec (.barrierReadOp c) s = execBarrierReadOp c s :=
  rfl
theorem exec_replyDelivery (p : Party) : exec (.replyDelivery p) s = execReplyDelivery p s :=
  rfl
theorem exec_barwaitTimeout (p : Party) : exec (.barwaitTimeout p) s = execBarwaitTimeout p s :=
  rfl
theorem exec_monwTimeout (p : Party) : exec (.monwTimeout p) s = execMonwTimeout p s :=
  rfl
theorem exec_cbputEffect (p : Party) : exec (.cbputEffect p) s = execCbputEffect p s :=
  rfl
theorem exec_streamWindowFill (p : Party) (w : Fin 8) : exec (.streamWindowFill p w) s = execStreamWindowFill p w s :=
  rfl
theorem exec_homeMessageArrival (die : Fin 8) (clu : Fin 256) : exec (.homeMessageArrival die clu) s = execHomeMessageArrival die clu s :=
  rfl
theorem exec_kindleHostRetry (die : Fin 8) (clu : Fin 256) (i : Nat) : exec (.kindleHostRetry die clu i) s = execKindleHostRetry die clu i s :=
  rfl
theorem exec_kindleStateInPlace (c : CoreId) (i : Nat) : exec (.kindleStateInPlace c i) s = execKindleStateInPlace c i s :=
  rfl
theorem exec_bankIntent (die : Fin 8) (clu : Fin 256) : exec (.bankIntent die clu) s = execBankIntent die clu s :=
  rfl
theorem exec_bankOrder (c : CoreId) : exec (.bankOrder c) s = execBankOrder c s :=
  rfl
theorem exec_shipOrder (c : CoreId) : exec (.shipOrder c) s = execShipOrder c s :=
  rfl
theorem exec_imageWritten (die : Fin 8) (clu : Fin 256) : exec (.imageWritten die clu) s = execImageWritten die clu s :=
  rfl
theorem exec_bankRefused (die : Fin 8) (clu : Fin 256) : exec (.bankRefused die clu) s = execBankRefused die clu s :=
  rfl
theorem exec_moveStateInPlace (c : CoreId) : exec (.moveStateInPlace c) s = execMoveStateInPlace c s :=
  rfl
theorem exec_addrHomeHandover (die : Fin 8) (clu : Fin 256) : exec (.addrHomeHandover die clu) s = execAddrHomeHandover die clu s :=
  rfl
theorem exec_handoverMarker (die : Fin 8) (clu : Fin 256) : exec (.handoverMarker die clu) s = execHandoverMarker die clu s :=
  rfl
theorem exec_decrementApply (c : CoreId) : exec (.decrementApply c) s = execDecrementApply c s :=
  rfl
theorem exec_contextPick (c : CoreId) (k : Fin 4) : exec (.contextPick c k) s = execContextPick c k s :=
  rfl
theorem exec_firingEnd (c : CoreId) (k : Fin 4) : exec (.firingEnd c k) s = execFiringEnd c k s :=
  rfl
theorem exec_stealServe (c : CoreId) (k : Fin 4) : exec (.stealServe c k) s = execStealServe c k s :=
  rfl
theorem exec_stealBackoffExpiry (c : CoreId) (k : Fin 4) : exec (.stealBackoffExpiry c k) s = execStealBackoffExpiry c k s :=
  rfl
theorem exec_quireRefill (c : CoreId) : exec (.quireRefill c) s = execQuireRefill c s :=
  rfl
theorem exec_launchExpansionStart (die : Fin 8) : exec (.launchExpansionStart die) s = execLaunchExpansionStart die s :=
  rfl
theorem exec_launchItem (die : Fin 8) : exec (.launchItem die) s = execLaunchItem die s :=
  rfl
theorem exec_launchSweep (part : BitVec 8) : exec (.launchSweep part) s = execLaunchSweep part s :=
  rfl
theorem exec_gangReserve (die : Fin 8) : exec (.gangReserve die) s = execGangReserve die s :=
  rfl
theorem exec_gangStart (part : BitVec 8) (g : Nat) : exec (.gangStart part g) s = execGangStart part g s :=
  rfl
theorem exec_gangStartDelivery (c : CoreId) : exec (.gangStartDelivery c) s = execGangStartDelivery c s :=
  rfl
theorem exec_gangRelease (part : BitVec 8) (g : Nat) : exec (.gangRelease part g) s = execGangRelease part g s :=
  rfl
theorem exec_probeTokenSend (c : CoreId) : exec (.probeTokenSend c) s = execProbeTokenSend c s :=
  rfl
theorem exec_probeTokenForward (c : CoreId) : exec (.probeTokenForward c) s = execProbeTokenForward c s :=
  rfl
theorem exec_emergencyEntry (c : CoreId) : exec (.emergencyEntry c) s = execEmergencyEntry c s :=
  rfl
theorem exec_spillRedelivery (c : CoreId) : exec (.spillRedelivery c) s = execSpillRedelivery c s :=
  rfl
theorem exec_journalAppend (c : CoreId) : exec (.journalAppend c) s = execJournalAppend c s :=
  rfl
theorem exec_requestAccept (p : Party) : exec (.requestAccept p) s = execRequestAccept p s :=
  rfl
theorem exec_copyRead (e : EngineId) (i : Nat) : exec (.copyRead e i) s = execCopyRead e i s :=
  rfl
theorem exec_copyWrite (e : EngineId) (i : Nat) : exec (.copyWrite e i) s = execCopyWrite e i s :=
  rfl
theorem exec_reduceElement (e : EngineId) (i : Nat) : exec (.reduceElement e i) s = execReduceElement e i s :=
  rfl
theorem exec_orderedReduceApply (e : EngineId) (i : Nat) : exec (.orderedReduceApply e i) s = execOrderedReduceApply e i s :=
  rfl
theorem exec_cbfillSlotPut (e : EngineId) (i : Nat) : exec (.cbfillSlotPut e i) s = execCbfillSlotPut e i s :=
  rfl
theorem exec_stamp (e : EngineId) (i : Nat) : exec (.stamp e i) s = execStamp e i s :=
  rfl
theorem exec_wrenqEnqueue (e : EngineId) (i : Nat) : exec (.wrenqEnqueue e i) s = execWrenqEnqueue e i s :=
  rfl
theorem exec_notify (e : EngineId) (i : Nat) : exec (.notify e i) s = execNotify e i s :=
  rfl
theorem exec_matrixOpStart (c : CoreId) : exec (.matrixOpStart c) s = execMatrixOpStart c s :=
  rfl
theorem exec_matrixOpRetire (c : CoreId) (mismatches : Nat) : exec (.matrixOpRetire c mismatches) s = execMatrixOpRetire c mismatches s :=
  rfl
theorem exec_gangOpStart (die : Fin 8) (clu : Fin 256) : exec (.gangOpStart die clu) s = execGangOpStart die clu s :=
  rfl
theorem exec_selectionEngineGrant (die : Fin 8) (clu : Fin 256) : exec (.selectionEngineGrant die clu) s = execSelectionEngineGrant die clu s :=
  rfl
theorem exec_pageWalk (die : Fin 8) : exec (.pageWalk die) s = execPageWalk die s :=
  rfl
theorem exec_long (f : Flit) : exec (.long f) s = execLong f s :=
  rfl
theorem exec_short (f : Flit) : exec (.short f) s = execShort f s :=
  rfl
theorem exec_rereq (f : Flit) : exec (.rereq f) s = execRereq f s :=
  rfl
theorem exec_msg (f : Flit) : exec (.msg f) s = execMsg f s :=
  rfl
theorem exec_sweep (f : Flit) : exec (.sweep f) s = execSweep f s :=
  rfl
theorem exec_ack (f : Flit) : exec (.ack f) s = execAck f s :=
  rfl
theorem exec_doneResponse (f : Flit) : exec (.doneResponse f) s = execDoneResponse f s :=
  rfl
theorem exec_rdata (f : Flit) : exec (.rdata f) s = execRdata f s :=
  rfl
theorem exec_fwd (f : Flit) : exec (.fwd f) s = execFwd f s :=
  rfl
theorem exec_drop (f : Flit) : exec (.drop f) s = execDrop f s :=
  rfl
theorem exec_mack (f : Flit) : exec (.mack f) s = execMack f s :=
  rfl
theorem exec_grant (f : Flit) : exec (.grant f) s = execGrant f s :=
  rfl
theorem exec_revoke (f : Flit) : exec (.revoke f) s = execRevoke f s :=
  rfl
theorem exec_resume (f : Flit) : exec (.resume f) s = execResume f s :=
  rfl
theorem exec_setaside (f : Flit) : exec (.setaside f) s = execSetaside f s :=
  rfl
theorem exec_clear (f : Flit) : exec (.clear f) s = execClear f s :=
  rfl
theorem exec_data (f : Flit) : exec (.data f) s = execData f s :=
  rfl
theorem exec_damperGrant (slot : Nat) : exec (.damperGrant slot) s = execDamperGrant slot s :=
  rfl
theorem exec_tokenExpiry (i : Nat) : exec (.tokenExpiry i) s = execTokenExpiry i s :=
  rfl
theorem exec_rereqTimeout (die : Fin 8) (i : Nat) : exec (.rereqTimeout die i) s = execRereqTimeout die i s :=
  rfl
theorem exec_prefixTrackerTimeout (i : Nat) : exec (.prefixTrackerTimeout i) s = execPrefixTrackerTimeout i s :=
  rfl
theorem exec_damperSave (part : BitVec 8) (tag : BitVec 12) : exec (.damperSave part tag) s = execDamperSave part tag s :=
  rfl
theorem exec_damperRestore (part : BitVec 8) (tag : BitVec 12) : exec (.damperRestore part tag) s = execDamperRestore part tag s :=
  rfl
theorem exec_switchSetAside (port : Fin 128) (dev : BitVec 12) (cls : Fin 4) : exec (.switchSetAside port dev cls) s = execSwitchSetAside port dev cls s :=
  rfl
theorem exec_switchClear (port : Fin 128) (dev : BitVec 12) (cls : Fin 4) : exec (.switchClear port dev cls) s = execSwitchClear port dev cls s :=
  rfl
theorem exec_switchCombine (port : Fin 128) : exec (.switchCombine port) s = execSwitchCombine port s :=
  rfl
theorem exec_flitCrcFail (port : Fin 128) (lane : Fin 2) : exec (.flitCrcFail port lane) s = execFlitCrcFail port lane s :=
  rfl
theorem exec_linkFailure (port : Fin 128) (cls : Fin 4) : exec (.linkFailure port cls) s = execLinkFailure port cls s :=
  rfl
theorem exec_uncorrectableError (x : Struck) : exec (.uncorrectableError x) s = execUncorrectableError x s :=
  rfl
theorem exec_correctedErrorThreshold (unit : Nat) : exec (.correctedErrorThreshold unit) s = execCorrectedErrorThreshold unit s :=
  rfl
theorem exec_heartbeatTimeout (die : Fin 8) : exec (.heartbeatTimeout die) s = execHeartbeatTimeout die s :=
  rfl
theorem exec_dieFailure (die : Fin 8) : exec (.dieFailure die) s = execDieFailure die s :=
  rfl
theorem exec_hostMessageWrite (part : BitVec 8) (off : BitVec 12) (bytes : List (BitVec 8)) : exec (.hostMessageWrite part off bytes) s = execHostMessageWrite part off bytes s :=
  rfl
theorem exec_hostMemoryAccess (part : BitVec 8) (q : BitVec 64) (wr : Option (BitVec 512)) : exec (.hostMemoryAccess part q wr) s = execHostMemoryAccess part q wr s :=
  rfl
theorem exec_attestationRequest (nonce : BitVec 256) : exec (.attestationRequest nonce) s = execAttestationRequest nonce s :=
  rfl
theorem exec_attestationReportReady : exec .attestationReportReady s = execAttestationReportReady s :=
  rfl
theorem exec_powerOn : exec .powerOn s = execPowerOn s :=
  rfl
theorem exec_clusterWaveStart (die : Fin 8) : exec (.clusterWaveStart die) s = execClusterWaveStart die s :=
  rfl
theorem exec_powerLimitSet (watts : Nat) : exec (.powerLimitSet watts) s = execPowerLimitSet watts s :=
  rfl
theorem exec_powerLimitEngage : exec .powerLimitEngage s = execPowerLimitEngage s :=
  rfl
theorem exec_illegalInstruction (w : BitVec 32) : exec (.illegalInstruction w) s = execIllegalInstruction w s :=
  rfl
theorem exec_instructionFetchFault (cause : BitVec 6) (tval : BitVec 64) : exec (.instructionFetchFault cause tval) s = execInstructionFetchFault cause tval s :=
  rfl
theorem exec_combinedDoneSplit (f : Flit) : exec (.combinedDoneSplit f) s = execCombinedDoneSplit f s :=
  rfl
theorem exec_portUp (port : Fin 128) (cls : Fin 4) : exec (.portUp port cls) s = execPortUp port cls s :=
  rfl
theorem exec_unitStart : exec .unitStart s = execUnitStart s :=
  rfl
theorem exec_powerDown : exec .powerDown s = execPowerDown s :=
  rfl

end Sys2Proof.Machine
end

