-- ==== Sys2Proof/Laws/Map.lean ====
section
/-! SUPPORT. Laws of sparse tables and of memory: what a read gives after a write, and that every operation keeps the
canonical form. -/

namespace Sys2Proof.Machine

/-! ## Tables -/

@[simp] theorem Map.find_nil {α : Type} (i : Nat) : Map.find ([] : Map α) i = none := rfl

/-- A table reads what was put under the key. -/
@[simp] theorem Map.find_put_same {α : Type} (m : Map α) (i : Nat) (v : α) : (m.put i v).find i = some v := by
  induction m with
  | nil => simp [Map.put, Map.find]
  | cons e m ih =>
    obtain ⟨k, w⟩ := e
    by_cases h1 : i < k
    · simp [Map.put, Map.find, h1]
    · by_cases h2 : i = k
      · simp [Map.put, Map.find, h2]
      · have h3 : ¬ k = i := fun h => h2 h.symm
        simp [Map.put, Map.find, h1, h2, h3, ih]

/-- A table reads as before under every other key. -/
theorem Map.find_put_other {α : Type} (m : Map α) {i j : Nat} (v : α) (h : j ≠ i) : (m.put i v).find j = m.find j := by
  have h' : ¬ i = j := fun e => h e.symm
  induction m with
  | nil => simp [Map.put, Map.find, h']
  | cons e m ih =>
    obtain ⟨k, w⟩ := e
    by_cases h1 : i < k
    · simp [Map.put, Map.find, h1, h']
    · by_cases h2 : i = k
      · subst h2
        simp [Map.put, Map.find, h']
      · simp [Map.put, Map.find, h1, h2, ih]

@[simp] theorem Map.getD_put_same {α : Type} (m : Map α) (i : Nat) (v d : α) : (m.put i v).getD i d = v := by
  simp [Map.getD]

theorem Map.getD_put_other {α : Type} (m : Map α) {i j : Nat} (v d : α) (h : j ≠ i) :
    (m.put i v).getD j d = m.getD j d := by
  simp [Map.getD, Map.find_put_other m v h]

/-- What a key reads as after a put, by the key. -/
theorem Map.getD_put {α : Type} (m : Map α) (i j : Nat) (v d : α) :
    (m.put i v).getD j d = if j = i then v else m.getD j d := by
  by_cases h : j = i
  · simp [h]
  · simp [h, Map.getD_put_other m v d h]

/-- A table lists nothing under a key that was dropped. -/
@[simp] theorem Map.find_drop_same {α : Type} (m : Map α) (i : Nat) : (m.drop i).find i = none := by
  induction m with
  | nil => rfl
  | cons e m ih => by_cases h : e.1 = i <;> simp [Map.drop, Map.find, h, ih]

/-- A table reads as before under every key but the one dropped. -/
theorem Map.find_drop_other {α : Type} (m : Map α) {i j : Nat} (h : j ≠ i) : (m.drop i).find j = m.find j := by
  induction m with
  | nil => rfl
  | cons e m ih =>
    by_cases h1 : e.1 = i
    · have h2 : ¬ e.1 = j := fun h3 => h (h3.symm.trans h1)
      simp [Map.drop, Map.find, h1, ih, show ¬ i = j from fun h3 => h h3.symm]
    · by_cases h2 : e.1 = j <;> simp [Map.drop, Map.find, h1, h2, ih, h]

@[simp] theorem Map.getD_drop_same {α : Type} (m : Map α) (i : Nat) (d : α) : (m.drop i).getD i d = d := by
  simp [Map.getD]

/-! ## Memory -/

/-- Memory reads the byte that was written. -/
@[simp] theorem Memory.read_write_same (m : Memory) (i : Nat) (v : Byte) (h : m.wf = true) :
    (m.write i v).read i = v := by
  have key : ∀ (m : Memory) (lo : Option Nat), Memory.above lo m = true → (∀ l, lo = some l → l < i ∨ True) →
      (Memory.write m i v).read i = v := by
    intro m
    induction m with
    | nil =>
      intro lo _ _
      by_cases hv : v = Memory.unlisted <;> simp [Memory.write, Memory.read, hv]
    | cons e m ih =>
      obtain ⟨k, w⟩ := e
      intro lo ha _
      have hm : Memory.above (some k) m = true := by
        simp only [Memory.above, Bool.and_eq_true] at ha
        exact ha.2
      have gap : ∀ (m : Memory) (l : Nat), Memory.above (some l) m = true → i ≤ l → Memory.read m i = Memory.unlisted := by
        intro m
        induction m with
        | nil => intro l _ _; rfl
        | cons e m ih2 =>
          obtain ⟨k2, w2⟩ := e
          intro l h2 hl
          simp only [Memory.above, Bool.and_eq_true, decide_eq_true_eq] at h2
          have : ¬ k2 = i := by omega
          simp only [Memory.read, this, if_false]
          exact ih2 k2 h2.2 (by omega)
      by_cases h1 : i < k
      · by_cases hv : v = Memory.unlisted
        · have hk : ¬ k = i := by omega
          simp only [Memory.write, h1, hv, if_true, Memory.read, hk, if_false]
          exact gap m k hm (by omega)
        · simp [Memory.write, h1, hv, Memory.read]
      · by_cases h2 : i = k
        · subst h2
          by_cases hv : v = Memory.unlisted
          · simp only [Memory.write, Nat.lt_irrefl, if_false, if_true, hv]
            exact gap m i hm (Nat.le_refl i)
          · simp [Memory.write, hv, Memory.read]
        · have hk : ¬ k = i := fun h => h2 h.symm
          simp only [Memory.write, h1, h2, if_false, Memory.read, hk]
          exact ih (some k) hm (fun _ _ => Or.inr trivial)
  exact key m none h (fun _ _ => Or.inr trivial)

/-- Every other byte reads as before. -/
theorem Memory.read_write_other (m : Memory) {i j : Nat} (v : Byte) (h : j ≠ i) : (m.write i v).read j = m.read j := by
  have h' : ¬ i = j := fun e => h e.symm
  induction m with
  | nil => by_cases hv : v = Memory.unlisted <;> simp [Memory.write, Memory.read, hv, h']
  | cons e m ih =>
    obtain ⟨k, w⟩ := e
    by_cases h1 : i < k
    · by_cases hv : v = Memory.unlisted <;> simp [Memory.write, Memory.read, h1, hv, h']
    · by_cases h2 : i = k
      · subst h2
        by_cases hv : v = Memory.unlisted <;> simp [Memory.write, Memory.read, hv, h']
      · simp [Memory.write, Memory.read, h1, h2, ih]

/-- A bound that is weaker than another. -/
theorem Memory.above_none {m : Memory} {lo : Option Nat} (h : Memory.above lo m = true) : Memory.above none m = true := by
  cases m with
  | nil => rfl
  | cons e m =>
    obtain ⟨k, w⟩ := e
    simp only [Memory.above, Bool.and_eq_true, Bool.true_and] at h ⊢
    exact ⟨h.1.2, h.2⟩

/-- A lower bound still holds further down. -/
theorem Memory.above_lower {m : Memory} {l k : Nat} (h : Memory.above (some k) m = true) (hl : l < k) :
    Memory.above (some l) m = true := by
  cases m with
  | nil => rfl
  | cons e m =>
    obtain ⟨a, w⟩ := e
    simp only [Memory.above, Bool.and_eq_true, decide_eq_true_eq] at h ⊢
    exact ⟨⟨by omega, h.1.2⟩, h.2⟩

/-- A list is canonical above a bound when its first cell is, and the rest is above that. -/
theorem Memory.above_cons {m : Memory} {lo : Option Nat} {k : Nat} {w : Byte} :
    Memory.above lo ((k, w) :: m) = true ↔
      (∀ l, lo = some l → l < k) ∧ w ≠ Memory.unlisted ∧ Memory.above (some k) m = true := by
  cases lo <;> simp [Memory.above, and_assoc]

/-- A write keeps a lower bound that is below the address. -/
theorem Memory.write_above {m : Memory} {lo : Option Nat} {i : Nat} {v : Byte} (h : Memory.above lo m = true)
    (hi : ∀ l, lo = some l → l < i) : Memory.above lo (m.write i v) = true := by
  induction m generalizing lo with
  | nil =>
    by_cases hv : v = Memory.unlisted
    · simp [Memory.write, hv, Memory.above]
    · simpa only [Memory.write, hv, if_false] using Memory.above_cons.mpr ⟨hi, hv, rfl⟩
  | cons e m ih =>
    obtain ⟨k, w⟩ := e
    obtain ⟨hk, hw, hm⟩ := Memory.above_cons.mp h
    by_cases h1 : i < k
    · by_cases hv : v = Memory.unlisted
      · simpa only [Memory.write, h1, hv, if_true] using h
      · simpa only [Memory.write, h1, hv, if_true, if_false] using
          Memory.above_cons.mpr ⟨hi, hv, Memory.above_cons.mpr ⟨fun l hl => by injection hl with hl; omega, hw, hm⟩⟩
    · by_cases h2 : i = k
      · subst h2
        by_cases hv : v = Memory.unlisted
        · simp only [Memory.write, Nat.lt_irrefl, if_false, if_true, hv]
          cases lo with
          | none => exact Memory.above_none hm
          | some l => exact Memory.above_lower hm (hi l rfl)
        · simpa only [Memory.write, Nat.lt_irrefl, if_false, if_true, hv] using Memory.above_cons.mpr ⟨hi, hv, hm⟩
      · simpa only [Memory.write, h1, h2, if_false] using
          Memory.above_cons.mpr ⟨hk, hw, ih hm fun l hl => by injection hl with hl; omega⟩

/-- A write keeps the canonical form. -/
theorem Memory.write_wf {m : Memory} {i : Nat} {v : Byte} (h : m.wf = true) : (m.write i v).wf = true :=
  Memory.write_above h (fun _ hl => nomatch hl)

/-- Dropping cells keeps the canonical form. -/
theorem Memory.filter_above {m : Memory} {lo : Option Nat} (f : Host.Cell → Bool) (h : Memory.above lo m = true) :
    Memory.above lo (m.filter f) = true := by
  induction m generalizing lo with
  | nil => rfl
  | cons e m ih =>
    obtain ⟨k, w⟩ := e
    have h0 := h
    simp only [Memory.above, Bool.and_eq_true] at h
    by_cases hf : f (k, w) = true
    · simp only [List.filter, hf, Memory.above, Bool.and_eq_true]
      exact ⟨h.1, ih h.2⟩
    · simp only [List.filter, hf]
      cases lo with
      | none => exact ih (Memory.above_none h.2)
      | some l =>
        have hl : l < k := by simpa using h.1.1
        exact ih (Memory.above_lower h.2 hl)

end Sys2Proof.Machine
end

