-- ==== Sys2Proof/Laws/State.lean ====
section
/-! SUPPORT. What each update of the state does to each of its fields, and what the accessors read after it. -/

namespace Sys2Proof.Machine

variable (s : State)

/-! ## setCtx -/

@[simp] theorem State.setCtx_cur (p : Party) (c : Ctx) : (s.setCtx p c).cur = s.cur := rfl
@[simp] theorem State.setCtx_agenda (p : Party) (c : Ctx) : (s.setCtx p c).agenda = s.agenda := rfl
@[simp] theorem State.setCtx_cores (p : Party) (c : Ctx) : (s.setCtx p c).cores = s.cores := rfl
@[simp] theorem State.setCtx_clusters (p : Party) (c : Ctx) : (s.setCtx p c).clusters = s.clusters := rfl
@[simp] theorem State.setCtx_dies (p : Party) (c : Ctx) : (s.setCtx p c).dies = s.dies := rfl
@[simp] theorem State.setCtx_dev (p : Party) (c : Ctx) : (s.setCtx p c).dev = s.dev := rfl
@[simp] theorem State.setCtx_core (p : Party) (c : Ctx) (m : Nat) : (s.setCtx p c).core m = s.core m := rfl
@[simp] theorem State.setCtx_clu (p : Party) (c : Ctx) (m : Nat) : (s.setCtx p c).clu m = s.clu m := rfl
@[simp] theorem State.setCtx_die (p : Party) (c : Ctx) (m : Nat) : (s.setCtx p c).die m = s.die m := rfl

/-! ## setCore -/

@[simp] theorem State.setCore_cur (n : Nat) (k : Core) : (s.setCore n k).cur = s.cur := rfl
@[simp] theorem State.setCore_agenda (n : Nat) (k : Core) : (s.setCore n k).agenda = s.agenda := rfl
@[simp] theorem State.setCore_ctxs (n : Nat) (k : Core) : (s.setCore n k).ctxs = s.ctxs := rfl
@[simp] theorem State.setCore_clusters (n : Nat) (k : Core) : (s.setCore n k).clusters = s.clusters := rfl
@[simp] theorem State.setCore_dies (n : Nat) (k : Core) : (s.setCore n k).dies = s.dies := rfl
@[simp] theorem State.setCore_dev (n : Nat) (k : Core) : (s.setCore n k).dev = s.dev := rfl
@[simp] theorem State.setCore_ctx (n : Nat) (k : Core) (q : Party) : (s.setCore n k).ctx q = s.ctx q := rfl
@[simp] theorem State.setCore_clu (n : Nat) (k : Core) (m : Nat) : (s.setCore n k).clu m = s.clu m := rfl
@[simp] theorem State.setCore_die (n : Nat) (k : Core) (m : Nat) : (s.setCore n k).die m = s.die m := rfl

/-! ## setClu -/

@[simp] theorem State.setClu_cur (n : Nat) (k : Cluster) : (s.setClu n k).cur = s.cur := rfl
@[simp] theorem State.setClu_agenda (n : Nat) (k : Cluster) : (s.setClu n k).agenda = s.agenda := rfl
@[simp] theorem State.setClu_ctxs (n : Nat) (k : Cluster) : (s.setClu n k).ctxs = s.ctxs := rfl
@[simp] theorem State.setClu_cores (n : Nat) (k : Cluster) : (s.setClu n k).cores = s.cores := rfl
@[simp] theorem State.setClu_dies (n : Nat) (k : Cluster) : (s.setClu n k).dies = s.dies := rfl
@[simp] theorem State.setClu_dev (n : Nat) (k : Cluster) : (s.setClu n k).dev = s.dev := rfl
@[simp] theorem State.setClu_ctx (n : Nat) (k : Cluster) (q : Party) : (s.setClu n k).ctx q = s.ctx q := rfl
@[simp] theorem State.setClu_core (n : Nat) (k : Cluster) (m : Nat) : (s.setClu n k).core m = s.core m := rfl
@[simp] theorem State.setClu_die (n : Nat) (k : Cluster) (m : Nat) : (s.setClu n k).die m = s.die m := rfl

/-! ## setDie -/

@[simp] theorem State.setDie_cur (n : Nat) (d : Die) : (s.setDie n d).cur = s.cur := rfl
@[simp] theorem State.setDie_agenda (n : Nat) (d : Die) : (s.setDie n d).agenda = s.agenda := rfl
@[simp] theorem State.setDie_ctxs (n : Nat) (d : Die) : (s.setDie n d).ctxs = s.ctxs := rfl
@[simp] theorem State.setDie_cores (n : Nat) (d : Die) : (s.setDie n d).cores = s.cores := rfl
@[simp] theorem State.setDie_clusters (n : Nat) (d : Die) : (s.setDie n d).clusters = s.clusters := rfl
@[simp] theorem State.setDie_dev (n : Nat) (d : Die) : (s.setDie n d).dev = s.dev := rfl
@[simp] theorem State.setDie_ctx (n : Nat) (d : Die) (q : Party) : (s.setDie n d).ctx q = s.ctx q := rfl
@[simp] theorem State.setDie_core (n : Nat) (d : Die) (m : Nat) : (s.setDie n d).core m = s.core m := rfl
@[simp] theorem State.setDie_clu (n : Nat) (d : Die) (m : Nat) : (s.setDie n d).clu m = s.clu m := rfl

/-! ## setDev -/

@[simp] theorem State.setDev_cur (d : Device) : (s.setDev d).cur = s.cur := rfl
@[simp] theorem State.setDev_agenda (d : Device) : (s.setDev d).agenda = s.agenda := rfl
@[simp] theorem State.setDev_ctxs (d : Device) : (s.setDev d).ctxs = s.ctxs := rfl
@[simp] theorem State.setDev_cores (d : Device) : (s.setDev d).cores = s.cores := rfl
@[simp] theorem State.setDev_clusters (d : Device) : (s.setDev d).clusters = s.clusters := rfl
@[simp] theorem State.setDev_dies (d : Device) : (s.setDev d).dies = s.dies := rfl
@[simp] theorem State.setDev_dev (d : Device) : (s.setDev d).dev = d := rfl
@[simp] theorem State.setDev_ctx (d : Device) (q : Party) : (s.setDev d).ctx q = s.ctx q := rfl
@[simp] theorem State.setDev_core (d : Device) (m : Nat) : (s.setDev d).core m = s.core m := rfl
@[simp] theorem State.setDev_clu (d : Device) (m : Nat) : (s.setDev d).clu m = s.clu m := rfl
@[simp] theorem State.setDev_die (d : Device) (m : Nat) : (s.setDev d).die m = s.die m := rfl

/-! ## Reading what was set -/

@[simp] theorem State.ctx_setCtx_same (p : Party) (c : Ctx) : (s.setCtx p c).ctx p = c := by simp [State.ctx, State.setCtx]
@[simp] theorem State.core_setCore_same (n : Nat) (k : Core) : (s.setCore n k).core n = k := by
  simp [State.core, State.setCore]
@[simp] theorem State.clu_setClu_same (n : Nat) (k : Cluster) : (s.setClu n k).clu n = k := by
  simp [State.clu, State.setClu]
@[simp] theorem State.die_setDie_same (n : Nat) (d : Die) : (s.setDie n d).die n = d := by simp [State.die, State.setDie]

theorem State.core_setCore_other {n m : Nat} (k : Core) (h : m ≠ n) : (s.setCore n k).core m = s.core m := by
  simp [State.core, State.setCore, Map.getD_put_other _ _ _ h]
theorem State.clu_setClu_other {n m : Nat} (k : Cluster) (h : m ≠ n) : (s.setClu n k).clu m = s.clu m := by
  simp [State.clu, State.setClu, Map.getD_put_other _ _ _ h]
theorem State.die_setDie_other {n m : Nat} (d : Die) (h : m ≠ n) : (s.setDie n d).die m = s.die m := by
  simp [State.die, State.setDie, Map.getD_put_other _ _ _ h]

/-- A party's key names it. -/
theorem Party.ix_injective {p q : Party} (h : p.ix = q.ix) : p = q := by
  have core : ∀ c d : CoreId, c.ix = d.ix → c = d := by
    intro ⟨⟨a, ha⟩, ⟨b, hb⟩, ⟨c, hc⟩⟩ ⟨⟨x, hx⟩, ⟨y, hy⟩, ⟨z, hz⟩⟩ h
    simp only [CoreId.ix, CoreId.cluIx] at h
    simp only [CoreId.mk.injEq, Fin.mk.injEq]
    omega
  have below : ∀ c : CoreId, c.ix < 16384 := by
    intro ⟨⟨a, ha⟩, ⟨b, hb⟩, ⟨c, hc⟩⟩
    simp only [CoreId.ix, CoreId.cluIx]
    omega
  cases p with
  | ctx c k =>
    have hc := below c
    have hk := k.isLt
    cases q with
    | ctx d l =>
      have hl := l.isLt
      simp only [Party.ix] at h
      have h1 := core c d (by omega)
      have h2 : k = l := Fin.ext (by omega)
      rw [h1, h2]
    | handler d => simp only [Party.ix] at h; omega
    | sup d n => simp only [Party.ix] at h; omega
  | handler c =>
    have hc := below c
    cases q with
    | ctx d l =>
      have hl := l.isLt
      simp only [Party.ix] at h; omega
    | handler d =>
      simp only [Party.ix] at h
      rw [core c d (by omega)]
    | sup d n => simp only [Party.ix] at h; omega
  | sup d n =>
    have hn := n.isLt
    cases q with
    | ctx c k =>
      have hc := below c
      have hk := k.isLt
      simp only [Party.ix] at h; omega
    | handler c =>
      have hc := below c
      simp only [Party.ix] at h; omega
    | sup e m =>
      have hm := m.isLt
      simp only [Party.ix] at h
      have h1 : d = e := Fin.ext (by omega)
      have h2 : n = m := Fin.ext (by omega)
      rw [h1, h2]

theorem State.ctx_setCtx_other {p q : Party} (c : Ctx) (h : q ≠ p) : (s.setCtx p c).ctx q = s.ctx q := by
  have h1 : q.ix ≠ p.ix := fun e => h (Party.ix_injective e)
  simp [State.ctx, State.setCtx, Map.getD_put_other _ _ _ h1]

end Sys2Proof.Machine
end

