-- ==== Sys2Proof/Laws/Ops.lean ====
section
/-! SUPPORT. What each shared operation of the meanings can do, said once: parts in sequence, source and destination fields
with the queues, the pc, the ends of an instruction, and the operand forms over them. -/

namespace Sys2Proof.Machine

/-! ## Parts -/

@[simp] theorem Tri.bind_val {α β : Type} (a : α) (f : α → Tri β) : (Tri.val a).bind f = f a := rfl
@[simp] theorem Tri.bind_trap {α β : Type} (c : BitVec 6) (t : BitVec 64) (f : α → Tri β) :
    (Tri.trap c t).bind f = .trap c t := rfl
@[simp] theorem Tri.bind_stall {α β : Type} (s : State) (f : α → Tri β) : (Tri.stall s).bind f = .stall s := rfl
@[simp] theorem Tri.bind_walk {α β : Type} (p : BitVec 8) (a : Nat) (f : α → Tri β) : (Tri.walk p a).bind f = .walk p a := rfl
@[simp] theorem Tri.ensure_true (c : BitVec 6) (t : BitVec 64) : Tri.ensure true c t = .val () := rfl
@[simp] theorem Tri.ensure_false (c : BitVec 6) (t : BitVec 64) : Tri.ensure false c t = .trap c t := rfl
@[simp] theorem Tri.unless_none : Tri.unless none = .val () := rfl
@[simp] theorem Tri.unless_some (c : BitVec 6) (t : BitVec 64) : Tri.unless (some (c, t)) = .trap c t := rfl

@[simp] theorem settle_val (s t : State) : settle s (.val t) = .next t := rfl
@[simp] theorem settle_trap (s : State) (c : BitVec 6) (t : BitVec 64) : settle s (.trap c t) = .next (takeTrap s s.cur c t) := rfl
@[simp] theorem settle_stall (s t : State) : settle s (.stall t) = .next t := rfl
@[simp] theorem settle_walk (s : State) (p : BitVec 8) (a : Nat) : settle s (.walk p a) = .next (s.askWalk s.cur p a) := rfl
@[simp] theorem settleNext_val (s t : State) : settleNext s (.val t) = .next (t.advance s.cur) := rfl
@[simp] theorem settleNext_trap (s : State) (c : BitVec 6) (t : BitVec 64) :
    settleNext s (.trap c t) = .next (takeTrap s s.cur c t) := rfl
@[simp] theorem settleNext_stall (s t : State) : settleNext s (.stall t) = .next t := rfl
@[simp] theorem settleNext_walk (s : State) (p : BitVec 8) (a : Nat) : settleNext s (.walk p a) = .next (s.askWalk s.cur p a) := rfl

/-! ## Registers -/

@[simp] theorem Ctx.reg_zero (c : Ctx) : c.reg 0 = 0 := rfl
@[simp] theorem Ctx.setReg_zero (c : Ctx) (v : Reg) : c.setReg 0 v = c := rfl

/-- A register other than x0 reads what was written. -/
theorem Ctx.reg_setReg_same (c : Ctx) {r : BitVec 5} (v : Reg) (h : r ≠ 0#5) : (c.setReg r v).reg r = v := by
  simp [Ctx.reg, Ctx.setReg, h]

/-- Every other register reads as before. -/
theorem Ctx.reg_setReg_other (c : Ctx) {r q : BitVec 5} (v : Reg) (h : q ≠ r) : (c.setReg r v).reg q = c.reg q := by
  unfold Ctx.setReg
  split
  · rfl
  · have h1 : r.toNat ≠ q.toNat := fun e => h (BitVec.eq_of_toNat_eq e.symm)
    simp only [Ctx.reg]
    split
    · rfl
    · exact Vector.getElem_set_ne r.isLt q.isLt h1

/-! ## A party's record changed -/

@[simp] theorem State.mod_ctx (s : State) (p : Party) (f : Ctx → Ctx) : (s.mod p f).ctx p = f (s.ctx p) := by simp [State.mod]
theorem State.mod_ctx_other (s : State) {p q : Party} (f : Ctx → Ctx) (h : q ≠ p) : (s.mod p f).ctx q = s.ctx q := by
  simp [State.mod, State.ctx_setCtx_other s _ h]
@[simp] theorem State.mod_cur (s : State) (p : Party) (f : Ctx → Ctx) : (s.mod p f).cur = s.cur := rfl
@[simp] theorem State.mod_agenda (s : State) (p : Party) (f : Ctx → Ctx) : (s.mod p f).agenda = s.agenda := rfl
@[simp] theorem State.mod_cores (s : State) (p : Party) (f : Ctx → Ctx) : (s.mod p f).cores = s.cores := rfl
@[simp] theorem State.mod_clusters (s : State) (p : Party) (f : Ctx → Ctx) : (s.mod p f).clusters = s.clusters := rfl
@[simp] theorem State.mod_dies (s : State) (p : Party) (f : Ctx → Ctx) : (s.mod p f).dies = s.dies := rfl
@[simp] theorem State.mod_dev (s : State) (p : Party) (f : Ctx → Ctx) : (s.mod p f).dev = s.dev := rfl

/-! ## Source and destination fields (R75, R76) -/

/-- Any field but x28 reads its register and changes nothing. -/
theorem State.src_register (s : State) (p : Party) {r : BitVec 5} (h : r ≠ 28#5) : s.src p r = .val ((s.ctx p).reg r, s) := by
  simp [State.src, h]

/-- A source field of x28 at an empty queue takes 0x0B when no load into x28 is in flight, and waits when one is. -/
theorem State.src_empty (s : State) (p : Party) (h : (s.ctx p).qld = []) :
    s.src p 28#5 = if (s.ctx p).loadInFlight then .stall s else .trap 0x0B 0 := by
  simp [State.src, h]

/-- A source field of x28 pops the load-data queue. -/
theorem State.src_pop (s : State) (p : Party) {v : Reg} {rest : List Reg} (h : (s.ctx p).qld = v :: rest) :
    s.src p 28#5 = .val (v, s.mod p fun c => { c with qld := rest }) := by
  simp [State.src, h]

/-- What a source field can do: a value, with nothing but the party's record changed; the wait for a load in flight; or
cause 0x0B. -/
theorem State.src_cases (s : State) (p : Party) (r : BitVec 5) :
    (∃ v t, s.src p r = .val (v, t) ∧ t.cur = s.cur ∧ t.agenda = s.agenda ∧ t.cores = s.cores ∧ t.clusters = s.clusters ∧
      t.dies = s.dies ∧ t.dev = s.dev) ∨ s.src p r = .stall s ∨ s.src p r = .trap 0x0B 0 := by
  by_cases h : r = 28#5
  · subst h
    cases hq : (s.ctx p).qld with
    | nil =>
      rw [s.src_empty p hq]
      split
      · exact .inr (.inl rfl)
      · exact .inr (.inr rfl)
    | cons v rest => exact .inl ⟨v, _, s.src_pop p hq, rfl, rfl, rfl, rfl, rfl, rfl⟩
  · exact .inl ⟨_, s, s.src_register p h, rfl, rfl, rfl, rfl, rfl, rfl⟩

@[simp] theorem State.dest_cur (s : State) (p : Party) (rd : BitVec 5) (v : Reg) : (s.dest p rd v).cur = s.cur := rfl
@[simp] theorem State.dest_cores (s : State) (p : Party) (rd : BitVec 5) (v : Reg) : (s.dest p rd v).cores = s.cores := rfl
@[simp] theorem State.dest_clusters (s : State) (p : Party) (rd : BitVec 5) (v : Reg) :
    (s.dest p rd v).clusters = s.clusters := rfl
@[simp] theorem State.dest_dies (s : State) (p : Party) (rd : BitVec 5) (v : Reg) : (s.dest p rd v).dies = s.dies := rfl
@[simp] theorem State.dest_dev (s : State) (p : Party) (rd : BitVec 5) (v : Reg) : (s.dest p rd v).dev = s.dev := rfl

/-- Any destination but x29 is a register. -/
theorem State.dest_register (s : State) (p : Party) {rd : BitVec 5} (v : Reg) (h : rd ≠ 29#5) :
    (s.dest p rd v).ctx p = (s.ctx p).setReg rd v := by
  simp [State.dest, Ctx.result, h]

@[simp] theorem State.advance_cur (s : State) (p : Party) : (s.advance p).cur = s.cur := rfl
@[simp] theorem State.advance_cores (s : State) (p : Party) : (s.advance p).cores = s.cores := rfl
@[simp] theorem State.advance_clusters (s : State) (p : Party) : (s.advance p).clusters = s.clusters := rfl
@[simp] theorem State.advance_dies (s : State) (p : Party) : (s.advance p).dies = s.dies := rfl
@[simp] theorem State.advance_dev (s : State) (p : Party) : (s.advance p).dev = s.dev := rfl
@[simp] theorem State.advance_ctx (s : State) (p : Party) :
    (s.advance p).ctx p = { s.ctx p with pc := (s.ctx p).pc + 4 } := by
  simp [State.advance]
@[simp] theorem State.setPc_ctx (s : State) (p : Party) (a : BitVec 64) : (s.setPc p a).ctx p = { s.ctx p with pc := a } := by
  simp [State.setPc]

/-! ## The execute half -/

/-- A form of the execute half may run: rd is not x28, no source field is x29, no register is awaited, and the store-data
queue does not hold it. -/
theorem State.exePre_ok (s : State) (p : Party) (w : BitVec 32) {rd : BitVec 5} {rs : List (BitVec 5)} (h1 : rd ≠ 28#5)
    (h2 : 29#5 ∉ rs) (h3 : (s.ctx p).awaits (rd :: rs) = false) (h4 : (s.ctx p).pushHeld rd = false) :
    s.exePre p w rd rs = .val () := by
  have h5 : (rs.any fun r => r == 29#5) = false := by
    simp only [List.any_eq_false, beq_iff_eq]
    intro x hx e
    exact h2 (e ▸ hx)
  simp [State.exePre, h1, h3, h4, h5]

/-- A form that names x28 as rd, or x29 as a source, takes cause 0x01 with its word. -/
theorem State.exePre_trap (s : State) (p : Party) (w : BitVec 32) {rd : BitVec 5} {rs : List (BitVec 5)}
    (h : rd = 28#5 ∨ 29#5 ∈ rs) : s.exePre p w rd rs = .trap 0x01 (wordTval w) := by
  have h4 : (decide (rd = 28#5) || rs.any fun r => r == 29#5) = true := by
    rcases h with h | h
    · simp [h]
    · simp only [Bool.or_eq_true, List.any_eq_true, beq_iff_eq]
      exact .inr ⟨_, h, rfl⟩
  unfold State.exePre
  rw [if_pos h4]

/-- A form of the access half may be taken. -/
theorem State.memPre_ok (s : State) (p : Party) (w : BitVec 32) {other : BitVec 5} {rs : List (BitVec 5)} (h1 : 29#5 ∉ rs)
    (h2 : (s.ctx p).awaits (other :: rs) = false) : s.memPre p w other rs = .val () := by
  have h4 : (rs.any fun r => r == 29#5) = false := by
    simp only [List.any_eq_false, beq_iff_eq]
    intro x hx e
    exact h1 (e ▸ hx)
  simp [State.memPre, h2, h4]

/-- Where the access half holds nothing, no register is awaited and no load into x28 is in flight. -/
theorem Ctx.awaits_nil {c : Ctx} (h : c.acc = []) (rs : List (BitVec 5)) : c.awaits rs = false := by simp [Ctx.awaits, h]
theorem Ctx.loadInFlight_nil {c : Ctx} (h : c.acc = []) : c.loadInFlight = false := by simp [Ctx.loadInFlight, h]

/-- A register awaited among some is awaited among more, and x0 is never awaited. -/
theorem Ctx.awaits_sub {c : Ctx} {rs qs : List (BitVec 5)} (h : c.awaits rs = false) (hs : ∀ r ∈ qs, r ∈ rs ∨ r = 0#5) :
    c.awaits qs = false := by
  simp only [Ctx.awaits, List.any_eq_false] at h ⊢
  intro i hi h1
  have h2 := h i hi
  cases i with
  | load rd ps k =>
    simp only [Bool.and_eq_true, bne_iff_ne, ne_eq, List.contains_iff_mem] at h1 h2
    rcases hs rd h1.2 with h3 | h3
    · exact h2 ⟨h1.1, h3⟩
    · exact h1.1.2 h3
  | acquire rd ps k sc =>
    simp only [Bool.and_eq_true, bne_iff_ne, ne_eq, List.contains_iff_mem] at h1 h2
    rcases hs rd h1.2 with h3 | h3
    · exact h2 ⟨h1.1, h3⟩
    · exact h1.1.2 h3
  | store e => simp at h1
  | fence sc => simp at h1

/-- A form that pushes nothing is held by the store-data queue only where one that pushes is. -/
theorem Ctx.pushHeld_x0 (c : Ctx) : c.pushHeld 0#5 = false := by simp [Ctx.pushHeld]

/-- An integer form of one source that may run writes its result and moves on. -/
theorem alu1_ok {w : BitVec 32} {rd rs1 : BitVec 5} {f : BitVec 64 → BitVec 64} {s s1 : State} {a : Reg}
    (h : s.exePre s.cur w rd [rs1] = .val ()) (ha : s.src s.cur rs1 = .val (a, s1)) :
    alu1 w rd rs1 f s = .next ((s1.dest s.cur rd (dataReg (f (capAddr a)))).advance s.cur) := by
  simp [alu1, exe1, h, ha]

/-- An integer form of two sources that may run writes its result and moves on. -/
theorem alu2_ok {w : BitVec 32} {rd rs1 rs2 : BitVec 5} {f : BitVec 64 → BitVec 64 → BitVec 64} {s s1 s2 : State} {a b : Reg}
    (h : s.exePre s.cur w rd [rs1, rs2] = .val ()) (ha : s.src s.cur rs1 = .val (a, s1))
    (hb : s1.src s.cur rs2 = .val (b, s2)) :
    alu2 w rd rs1 rs2 f s = .next ((s2.dest s.cur rd (dataReg (f (capAddr a) (capAddr b)))).advance s.cur) := by
  simp [alu2, exe2, h, ha, hb]

/-- A jump goes to an aligned target, and takes cause 0x04 with any other. -/
theorem State.jump_cases (s : State) (p : Party) (t : BitVec 64) :
    s.jump p t = if t.extractLsb' 0 2 = 0#2 then .val (s.setPc p t) else .trap 0x04 t := by
  unfold State.jump
  by_cases h : t.extractLsb' 0 2 = 0#2
  · simp [h]
  · have h1 : (t.extractLsb' 0 2 == 0#2) = false := by simpa using h
    rw [h1, if_neg h]
    rfl

end Sys2Proof.Machine
end

