-- ==== Sys2Proof/Laws/Forms.lean ====
section
/-! SUPPORT. How the operand forms complete: the forms of the execute half over zero to three sources, the floating-point
forms, the loads, the stores, the fences and the atomics. -/

namespace Sys2Proof.Machine

/-- The access half may take a form. -/
theorem State.memPre_ready {s : State} {other : BitVec 5} {rs : List (BitVec 5)} (h : s.memReady other rs) (w : BitVec 32) :
    s.memPre s.cur w other rs = .val () := s.memPre_ok s.cur w h.1 h.2

/-- A load finds room for what it pushes. -/
theorem State.pushRoom_ok {s : State} {p : Party} {rd : BitVec 5} (h : (s.ctx p).pushHeld rd = false) :
    s.pushRoom p rd = .val () := by simp [State.pushRoom, h]

/-- The execute half may run. -/
theorem State.exePre_ready {s : State} {rd : BitVec 5} {rs : List (BitVec 5)} (h : s.exeReady rd rs) (w : BitVec 32) :
    s.exePre s.cur w rd rs = .val () := s.exePre_ok s.cur w h.1 h.2.1 h.2.2.1 h.2.2.2

theorem State.reach_at {s : State} {p : Party} {need : Need} {a n : Nat} {qs : List Nat} (h : s.places p need a n = .at qs) :
    s.reach p need a n = .val qs := by simp [State.reach, h]

theorem State.unpoisoned_ok {s : State} {p : Party} {a : Nat} {qs : List Nat} (h : s.poisonedFrom p.die.val a qs = none) :
    s.unpoisoned p a qs = .val () := by simp [State.unpoisoned, h]

/-- A source read leaves the current party current. -/
theorem State.gives_cur {s t : State} {r : BitVec 5} {a : Reg} (h : s.gives r a t) : t.cur = s.cur := by
  rcases s.src_cases s.cur r with ⟨v, u, h1, h2, _⟩ | h1 | h1
  · rw [State.gives, h1] at h; cases h; exact h2
  · rw [State.gives, h1] at h; cases h
  · rw [State.gives, h1] at h; cases h

/-- A load that passes its checks. -/
theorem loadForm_ok {w : BitVec 32} {rd rs1 : BitVec 5} {off : BitVec 64} {n : Nat} {kind : Reg → LoadKind}
    {capAcc : Bool} {s s1 : State} {c : Reg} {qs : List Nat} (h : s.loadReady rd [rs1]) (hc : s.gives rs1 c s1)
    (hl : s1.loadable s.cur c (capAddr c + off).toNat n capAcc qs) :
    loadForm w rd rs1 off n kind capAcc none s = .next ((s1.loadDest s.cur rd qs (kind c)).advance s.cur) := by
  have hc' : s.src s.cur rs1 = .val (c, s1) := hc
  unfold loadForm
  simp only [State.memPre_ready h.1, State.pushRoom_ok h.2, Tri.bind_val, hc', hl.1, Tri.unless_none, State.reach_at hl.2.1,
    Option.isNone_none,
    Bool.true_or, Tri.ensure_true, State.unpoisoned_ok hl.2.2, settleNext_val]

/-- An `lda` that passes its checks: with nothing before it in the access half, and room in the load-data queue, it waits until
its scope lets it go; otherwise it takes its place in the access half, and synchronizes and loads there in one step. -/
theorem loadForm_acquire {w : BitVec 32} {rd rs1 : BitVec 5} {n : Nat} {kind : Reg → LoadKind} {sc : BitVec 3}
    {s s1 : State} {c : Reg} {qs : List Nat} (h : s.loadReady rd [rs1]) (hc : s.gives rs1 c s1)
    (hl : s1.loadable s.cur c (capAddr c + 0).toNat n false qs) (ha : (capAddr c + 0).toNat % n = 0) :
    loadForm w rd rs1 0 n kind false (some sc) s =
      if (s1.ctx s.cur).acc = [] ∧ (rd = 28#5 → (s1.ctx s.cur).qld.length < 16) then
        if s.acquireReady s.cur sc then .next (((s1.acquired s.cur sc).loadDest s.cur rd qs (kind c)).advance s.cur)
        else .next s
      else .next ((s1.mod s.cur fun x => { x with acc := x.acc ++ [.acquire rd qs (kind c) sc] }).advance s.cur) := by
  have hc' : s.src s.cur rs1 = .val (c, s1) := hc
  have h5 : (((some sc : Option (BitVec 3)).isNone) || (capAddr c + 0).toNat % n == 0) = true := by
    rw [ha]; rfl
  unfold loadForm
  simp only [State.memPre_ready h.1, State.pushRoom_ok h.2, Tri.bind_val, hc', hl.1, Tri.unless_none, State.reach_at hl.2.1, h5,
    Tri.ensure_true, State.unpoisoned_ok hl.2.2]
  cases hq : (s1.ctx s.cur).acc with
  | nil =>
    by_cases hd : rd = 28#5
    · by_cases h16 : 16 ≤ (s1.ctx s.cur).qld.length
      · simp [hd, h16, Nat.not_lt.mpr h16]
      · by_cases hr : s.acquireReady s.cur sc <;> simp [hd, h16, hr, Nat.not_le.mp h16]
    · by_cases hr : s.acquireReady s.cur sc <;> simp [hd, hr]
  | cons x xs => simp

/-- A store that passes its checks. -/
theorem storeForm_ok {w : BitVec 32} {rs1 rs2 : BitVec 5} {off : BitVec 64} {n : Nat} {e : StoreEntry} {aligned : Bool}
    {s s1 s2 : State} {c v : Reg} {qs : List Nat} (h : s.memReady (dataField rs2) [rs1]) (hc : s.gives rs1 c s1)
    (hv : s1.storeSrc s.cur rs2 = .val (v, s2)) (hl : s2.storable s.cur c (capAddr c + off).toNat n permStore false qs)
    (ha : aligned = true → (capAddr c + off).toNat % n = 0) :
    storeForm w rs1 rs2 off n e aligned s =
      .next ((s2.storeCells s.cur e (qs.zip (leBytes (capAddr v).toNat n))).advance s.cur) := by
  have h5 : (!aligned || (capAddr c + off).toNat % n == 0) = true := by
    cases aligned <;> simp_all
  have hc' : s.src s.cur rs1 = .val (c, s1) := hc
  unfold storeForm
  simp only [State.memPre_ready h, Tri.bind_val, hc', hv, hl.1, Tri.unless_none, State.reach_at hl.2, h5, Tri.ensure_true,
    settleNext_val]

/-- A fence with nothing before it in the access half waits until its scope lets it go; behind an instruction that is held it
takes its place. -/
theorem fenceForm_cases (sc : BitVec 3) (s : State) :
    fenceForm sc s =
      if (s.ctx s.cur).acc = [] then .next (if s.fenceReady s.cur sc then (s.mod s.cur Ctx.sync).advance s.cur else s)
      else .next ((s.mod s.cur fun c => { c with acc := c.acc ++ [.fence sc] }).advance s.cur) := by
  unfold fenceForm
  cases hq : (s.ctx s.cur).acc with
  | nil => by_cases hf : s.fenceReady s.cur sc <;> simp [hf, hq]
  | cons x xs => simp [hq]

/-- The forms over their sources. -/
theorem exe0_ok {w : BitVec 32} {rd : BitVec 5} {s t : State} {v : Reg} {f : State → Tri (Reg × State)} (h : s.exeReady rd [])
    (hf : f s = .val (v, t)) : exe0 w rd s f = .next (s.wrote t rd v) := by
  simp [exe0, State.exePre_ready h, hf, State.wrote]

theorem exe1_ok {w : BitVec 32} {rd rs1 : BitVec 5} {s s1 t : State} {a v : Reg} {f : Reg → State → Tri (Reg × State)}
    (h : s.exeReady rd [rs1]) (ha : s.gives rs1 a s1) (hf : f a s1 = .val (v, t)) :
    exe1 w rd rs1 s f = .next (s.wrote t rd v) := by
  have ha' : s.src s.cur rs1 = .val (a, s1) := ha
  simp [exe1, State.exePre_ready h, ha', hf, State.wrote]

theorem exe2_ok {w : BitVec 32} {rd rs1 rs2 : BitVec 5} {s s1 s2 t : State} {a b v : Reg}
    {f : Reg → Reg → State → Tri (Reg × State)} (h : s.exeReady rd [rs1, rs2]) (ha : s.gives rs1 a s1)
    (hb : s1.src s.cur rs2 = .val (b, s2)) (hf : f a b s2 = .val (v, t)) :
    exe2 w rd rs1 rs2 s f = .next (s.wrote t rd v) := by
  have ha' : s.src s.cur rs1 = .val (a, s1) := ha
  simp [exe2, State.exePre_ready h, ha', hb, hf, State.wrote]

theorem exe3_ok {w : BitVec 32} {rd rs1 rs2 rs3 : BitVec 5} {s s1 s2 s3 t : State} {a b c v : Reg}
    {f : Reg → Reg → Reg → State → Tri (Reg × State)} (h : s.exeReady rd [rs1, rs2, rs3]) (ha : s.gives rs1 a s1)
    (hb : s1.src s.cur rs2 = .val (b, s2)) (hc : s2.src s.cur rs3 = .val (c, s3)) (hf : f a b c s3 = .val (v, t)) :
    exe3 w rd rs1 rs2 rs3 s f = .next (s.wrote t rd v) := by
  have ha' : s.src s.cur rs1 = .val (a, s1) := ha
  simp [exe3, State.exePre_ready h, ha', hb, hc, hf, State.wrote]

/-- An atomic that passes its checks is sent to the owner of its place. -/
theorem amoForm_ok {w : BitVec 32} {oooo : BitVec 4} {n : Nat} {rd rs1 rs2 : BitVec 5} {s s1 s2 : State} {c v : Reg}
    {q : Nat} {qs : List Nat} (h : s.exeReady rd (if oooo = 7#4 then [rs1, rs2, rd] else [rs1, rs2])) (hc : s.gives rs1 c s1)
    (hv : s1.src s.cur rs2 = .val (v, s2))
    (hl : s2.reaches s.cur c (capAddr c).toNat n (permLoad ||| permStore) .rw (q :: qs)) (ha : (capAddr c).toNat % n = 0) :
    amoForm w oooo n rd rs1 rs2 s = .next (s2.postOrAwait s.cur rd
      { kind := .amo oooo, va := (capAddr c).toNat, addr := q, owner := ownerOf q, size := n,
        v := BitVec.ofNat 64 ((capAddr v).toNat % 2 ^ (8 * n)),
        e := if oooo == 7 then BitVec.ofNat 64 ((capAddr ((s2.ctx s.cur).reg rd)).toNat % 2 ^ (8 * n)) else 0,
        rel := (s2.ctx s.cur).releaseAt s.cur.ix (ownerScope s.cur.coreIx (ownerOf q)) }
      { form := if n = 4 then .amoW else .amoD, rd := rd, popped := (s.ctx s.cur).poppedBy [rs1, rs2] }) := by
  have hc' : s.src s.cur rs1 = .val (c, s1) := hc
  have hp : s.exePre s.cur w rd (if oooo == 7 then [rs1, rs2, rd] else [rs1, rs2]) = .val () := by
    have := State.exePre_ready h w
    simpa using this
  unfold amoForm
  simp only [hp, Tri.bind_val, hc', hv, hl.1, Tri.unless_none, State.reach_at hl.2, ha, beq_self_eq_true, Tri.ensure_true,
    List.headD_cons, settle_val]

/-! ## Floating point -/

theorem fp1_ok {w : BitVec 32} {rd rs1 : BitVec 5} {rm : BitVec 3} {s s1 : State} {a : Reg} {m : Rm} {f : Rm → Reg → Reg × BitVec 5}
    (h : s.exeReady rd [rs1]) (hm : (s.ctx s.cur).rounding rm = some m) (ha : s.gives rs1 a s1) :
    fp1 w rd rs1 rm s f = .next (s.wrote (s1.accrue s.cur (f m a).2) rd (f m a).1) := by
  have ha' : s.src s.cur rs1 = .val (a, s1) := ha
  simp [fp1, State.exePre_ready h, State.roundMode, hm, ha', State.wrote]

theorem fp2_ok {w : BitVec 32} {rd rs1 rs2 : BitVec 5} {rm : BitVec 3} {s s1 s2 : State} {a b : Reg} {m : Rm}
    {f : Rm → Reg → Reg → Reg × BitVec 5} (h : s.exeReady rd [rs1, rs2]) (hm : (s.ctx s.cur).rounding rm = some m)
    (ha : s.gives rs1 a s1) (hb : s1.src s.cur rs2 = .val (b, s2)) :
    fp2 w rd rs1 rs2 rm s f = .next (s.wrote (s2.accrue s.cur (f m a b).2) rd (f m a b).1) := by
  have ha' : s.src s.cur rs1 = .val (a, s1) := ha
  simp [fp2, State.exePre_ready h, State.roundMode, hm, ha', hb, State.wrote]

theorem fp3_ok {w : BitVec 32} {rd rs1 rs2 rs3 : BitVec 5} {rm : BitVec 3} {s s1 s2 s3 : State} {a b c : Reg} {m : Rm}
    {f : Rm → Reg → Reg → Reg → Reg × BitVec 5} (h : s.exeReady rd [rs1, rs2, rs3])
    (hm : (s.ctx s.cur).rounding rm = some m) (ha : s.gives rs1 a s1) (hb : s1.src s.cur rs2 = .val (b, s2))
    (hc : s2.src s.cur rs3 = .val (c, s3)) :
    fp3 w rd rs1 rs2 rs3 rm s f = .next (s.wrote (s3.accrue s.cur (f m a b c).2) rd (f m a b c).1) := by
  have ha' : s.src s.cur rs1 = .val (a, s1) := ha
  simp [fp3, State.exePre_ready h, State.roundMode, hm, ha', hb, hc, State.wrote]

end Sys2Proof.Machine
end

