-- ==== Sys2Proof/Laws/Mem.lean ====
section
/-! SUPPORT. Every operation that writes memory keeps each die view's memory canonical: installing a write, carrying it,
draining a store buffer, a mailbox record, and taking an exception. -/

namespace Sys2Proof.Machine

/-- The invariant depends on the dies alone. -/
theorem State.memoriesWf_congr {s t : State} (h : t.dies = s.dies) (hs : s.memoriesWf) : t.memoriesWf := by
  intro d
  have := hs d
  simp only [State.die] at this ⊢
  rw [h]
  exact this

/-- A die replaced by one whose memory is canonical. -/
theorem State.setDie_wf {s : State} {n : Nat} {x : Die} (hs : s.memoriesWf) (hx : x.view.mem.wf = true) :
    (s.setDie n x).memoriesWf := by
  intro d
  by_cases h : d = n
  · subst h
    simpa using hx
  · rw [State.die_setDie_other s x h]
    exact hs d

/-- A view that installs a write. -/
theorem View.install_wf {v : View} {o : Nat} {cells : List (Nat × Byte)} (h : v.mem.wf = true) :
    (v.install o cells).mem.wf = true := by
  induction cells generalizing v with
  | nil => exact h
  | cons c cells ih =>
    obtain ⟨q, b⟩ := c
    simp only [View.install]
    split
    · exact ih (v := { mem := v.mem.write q b, ord := v.ord.put q o }) (Memory.write_wf h)
    · exact ih h

/-- A die that installs a write. -/
theorem State.install_wf {s : State} {d o : Nat} {cells : List (Nat × Byte)} (h : s.memoriesWf) :
    (s.install d o cells).memoriesWf :=
  State.memoriesWf_congr (s := s.setDie d { s.die d with view := (s.die d).view.install o cells }) rfl
    (State.setDie_wf h (View.install_wf (h d)))

/-- A write placed in the carry channels. -/
theorem State.carryOut_wf {s : State} {d : Nat} {t : CarryEntry} (h : s.memoriesWf) : (s.carryOut d t).memoriesWf := by
  unfold State.carryOut
  dsimp only
  split
  · exact h
  · exact State.setDie_wf h (h d)

/-- A write in the view of its owner's die. -/
theorem State.writeAt_wf {s : State} {d : Nat} {cells : List (Nat × Byte)} {r : Bool} {prior : Map Nat} (h : s.memoriesWf) :
    (s.writeAt d cells r prior).memoriesWf :=
  State.carryOut_wf (State.install_wf (State.memoriesWf_congr (s := s) rfl h))

/-- A Drain step. -/
theorem State.drainOne_wf {s : State} {p : Party} (h : s.memoriesWf) : (s.drainOne p).memoriesWf := by
  unfold State.drainOne
  dsimp only
  split
  · exact h
  · refine State.memoriesWf_congr (s := State.carryOut (State.install { s with dev := { s.dev with wseq := s.dev.wseq + 1 } }
      p.die.val (s.dev.wseq + 1) _) p.die.val _) rfl ?_
    exact State.carryOut_wf (State.install_wf (State.memoriesWf_congr (s := s) rfl h))

/-- Drain steps. -/
theorem State.drainN_wf {p : Party} (n : Nat) {s : State} (h : s.memoriesWf) : (s.drainN p n).memoriesWf := by
  induction n generalizing s with
  | zero => exact h
  | succ n ih => exact ih (State.drainOne_wf h)

theorem State.drainAll_wf {s : State} {p : Party} (h : s.memoriesWf) : (s.drainAll p).memoriesWf := State.drainN_wf _ h

/-- A mailbox record. -/
theorem State.report_wf {s : State} {d : Nat} {r : MailRec} (h : s.memoriesWf) : (s.report d r).memoriesWf := by
  unfold State.report
  dsimp only
  split
  · exact State.writeAt_wf h
  · exact State.writeAt_wf (State.writeAt_wf h)

/-- Stores enter the store buffer and no view. -/
theorem State.storeCells_dies (s : State) (p : Party) (e : StoreEntry) (cells : List (Nat × Byte)) :
    (s.storeCells p e cells).dies = s.dies := by
  unfold State.storeCells
  dsimp only
  split <;> rfl

/-- What the state window is rolled back to. -/
theorem State.rollback_wf {s : State} {p : Party} (h : s.memoriesWf) : (s.rollback p).memoriesWf := by
  unfold State.rollback
  dsimp only
  split
  · exact h
  · exact State.writeAt_wf h

end Sys2Proof.Machine
end

