-- ==== Sys2Proof/Tests/Slice0.lean ====
section
/-! SUPPORT. Tests on small states: ill-formed terms, words from the tables of the spec, single steps whose results come from its
rules and worked cases, and for each statement with hypotheses states that meet them. -/

namespace Sys2Proof.Machine.Tests

set_option Elab.async false

/-! ## States of the tests -/

def c0 : CoreId := ⟨0, 0, 0⟩
def p0 : Party := .ctx c0 0
def sup0 : Party := .sup 0 0

/-- Every permission but SUPER. -/
def perms : BitVec 11 := 0x3FF

/-- A number as a data word, and a capability over [base, base + len) with every permission but SUPER. -/
def num (k : Nat) : Reg := dataReg (BitVec.ofNat 64 k)
def cap (base len : Nat) : Reg := regionCap perms base len
def big : Reg := cap 0 0x20000

/-- A running record with some registers. -/
def rec' (l : List (BitVec 5 × Reg)) : Ctx := l.foldl (fun c x => c.setReg x.1 x.2) { run := .running, pc := 0x100 }

/-- The machine with one party that runs, and with core 0's scratchpad and the first GiB of HBM open to partition 0. -/
def with' (p : Party) (c : Ctx) : State :=
  let s := State.reset.setCtx p c
  { s.setDev { s.dev with access := [(64000, 0x3FF_000F#64 ||| 0xFF0000#64), (0, 0xFF000F#64)] } with cur := p }

/-- A firing with x6 = 3, x7 = 2, x8 a capability to the scratchpad, x9 the same at 32, and x12 to x15 small. -/
def regs0 : List (BitVec 5 × Reg) :=
  [(6, num 3), (7, num 2), (8, cap 0 0x20000), (9, capWithAddr (cap 0 0x20000) 32), (12, num 5), (13, num 6), (14, num 7)]
def sA : State := with' p0 (rec' regs0)

/-- The same in a supervisor core, and in a sheet. -/
def sS : State := with' sup0 (rec' regs0)
def sQ : State := with' p0 { rec' regs0 with firing := { sheet := true } }

/-- A part gives a value of which `f` holds; a form answers a next state of which `f` holds. -/
def given {α : Type} (t : Tri α) (f : α → Bool) : Bool :=
  match t with
  | .val a => f a
  | _ => false
def causes {α : Type} (t : Tri α) (c : BitVec 6) (v : BitVec 64) : Bool :=
  match t with
  | .trap d w => d == c && w == v
  | _ => false
def after (i : Instr) (s : State) (f : State → Bool) : Bool :=
  match exec i s with
  | .next t => f t
  | _ => false

/-- One form leaves a number in a register of the current party and moves on. -/
def leaves (i : Instr) (s : State) (r : BitVec 5) (k : Nat) : Bool :=
  after i s fun t => (t.ctx s.cur).reg r == num k && (t.ctx s.cur).pc == 0x104

/-- One form takes a cause, and saves it with the pc of the form. -/
def traps (i : Instr) (s : State) (c : BitVec 6) (v : BitVec 64) : Bool :=
  after i s fun t => (t.ctx s.cur).cause == c && (t.ctx s.cur).tval == v && (t.ctx s.cur).epc == 0x100

/-! ## Well-formed instructions (03/R53): each check refuses a term, and so does the decoder its word -/

theorem ill_rounding : (Instr.faddS 5 6 7 5).wf = false ∧ (Instr.faddS 5 6 7 7).wf = true ∧ decode 0x007352D3 = none := by decide +kernel
theorem ill_quad : (Instr.cpost 5 7).wf = false ∧ (Instr.cpost 5 1).wf = true ∧ (Instr.rgn 7).wf = false := by decide
theorem ill_scope : (Instr.fenceScoped 5).wf = false ∧ (Instr.fenceScoped 4).wf = true ∧ (Instr.lda 7 8 3 5).wf = false := by decide
theorem ill_source : (Instr.vadd 0 16 0 0 0 8 0).wf = false ∧ (Instr.vadd 0 15 0 0 0 8 0).wf = true := by decide
theorem ill_type : (Instr.vadd 3 0 0 0 0 8 0).wf = false ∧ (Instr.vfma 5 0 0 0 0 8 0).wf = false ∧ (Instr.vshl 0 0 0 0 0 8 0).wf = false := by decide
theorem ill_sat : (Instr.vabs 0 0 0 8 1).wf = false ∧ (Instr.vredSum 6 0 0 8 0).wf = false ∧ (Instr.vredSum 5 0 0 8 1).wf = true := by decide

/-! ## Decoding: words written out field by field from the tables and examples of 03 and 04 -/

theorem word_base : decode (0b0000000#7 ++ 7#5 ++ 6#5 ++ 0b000#3 ++ 5#5 ++ 0b0110011#7) = some (.add 5 6 7) ∧
    decode (0b0100000#7 ++ 7#5 ++ 6#5 ++ 0b000#3 ++ 5#5 ++ 0b0110011#7) = some (.sub 5 6 7) ∧
    decode (24#12 ++ 6#5 ++ 0b011#3 ++ 5#5 ++ 0b0000011#7) = some (.ld 5 6 24) := by decide +kernel
theorem word_examples : decode 0x01833283 = some (.ld 5 6 24) ∧ decode 0x0001BE03 = some (.ld 28 3 0) ∧
    decode 0x01CE02B3 = some (.add 5 28 28) ∧ decode 0x3404438B = some (.lda 7 8 3 2) ∧ decode 0x8800400B = some (.fenceScoped 4) := by decide +kernel
theorem word_vector : decode 0x1958AA5B = some (.vfma 1 11 1 0 2 10 0) ∧ decode 0x1064485B = some (.vmul 0 12 8 1 0 8 0) ∧
    decode 0x4030727B = some (.vsplat 0x4030 3 9) ∧ decode 0x3FC010FB = some (.vaddi 0x3FC0 0 8) := by decide +kernel
theorem word_capability : decode 0xFF03128B = some (.caddi 5 6 0xFF0) ∧ decode 0x0873028B = some (.cbnd 5 6 7) ∧
    decode 0x0103228B = some (.clc 5 6 16) ∧ decode 0x0273300B = some (.csc 7 6 32) := by decide +kernel
theorem word_block_and_table : decode 0x0073728B = some (.bmov 5 6 7) ∧ decode 0x0402F00B = some (.rep 5) ∧
    decode 0x0003528B = some (.taglk 5 6) ∧ decode 0x1003518B = some (.cbinit 3 6) := by decide +kernel
theorem word_memory : decode (0b0101111#7 ++ 6#5 ++ 7#5 ++ 0b110#3 ++ 5#5 ++ 0b0001011#7) = some (.amoCasD 5 7 6) := by decide +kernel
theorem word_matrix : decode 0x0673222B = some (.mma 4 6 7) ∧ decode 0x067332AB = some (.selrun 5 6 7) ∧
    decode 0x0073402B = some (.seqmap 6 7) := by decide +kernel
theorem word_messages : decode 0x007302AB = some (.send 5 6 7) ∧ decode 0x060802AB = some (.carry 5 4) ∧
    decode 0x0E00002B = some .done := by decide +kernel
theorem word_supervisor : decode 0x0473502B = some (.atinv 6 7) ∧ decode 0x0000502B = some .xret ∧ decode 0x060352AB = some (.atprobe 5 6) := by decide +kernel


/-! ## Witnesses: the step, the fields, the integer forms -/

theorem witness_EncodedInstructionDecodesBack : ∃ w, (Instr.add 5 6 7).wf = true ∧ encode (.add 5 6 7) = some w := ⟨_, by decide, rfl⟩
theorem witness_DecodedWordIsTheEncoding : decode 0x007302B3 = some (.add 5 6 7) := by decide +kernel

def sW (w : Nat) : State := State.reset.withFetchWord 32 w
/-- A misaligned pc. -/
def sM : State := (sW 0).mod p0 fun c => { c with pc := 0x100002 }
theorem witness_StepRunsTheDecodedInstruction : (∀ w ∈ [0x007302B3, 0], (sW w).dev.powered = true ∧ (sW w).agenda = [] ∧
      ((sW w).ctx (sW w).cur).run = .running ∧ ((sW w).ctx (sW w).cur).waiting = none ∧
      given (((sW w).tick (sW w).cur.coreIx 1).fetchWord (sW w).cur ((sW w).ctx (sW w).cur).pc) (· == BitVec.ofNat 32 w) = true) ∧
    decode 0x007302B3 = some (.add 5 6 7) ∧ decode 0 = none ∧ (sM.ctx sM.cur).run = .running ∧
    (sM.tick sM.cur.coreIx 1).fetchWord sM.cur (sM.ctx sM.cur).pc = .trap 0x04 0x100002 := by
  refine ⟨by decide +kernel, by decide +kernel, by decide +kernel, by decide +kernel, rfl⟩

/-- Words that the access half has fetched: a load that it has carried out, and no instruction; and a page in no TLB. -/
def sAhead (w : BitVec 32) (m : AheadMark) : State := (sW 0x01833283).mod p0 fun c => { c with ahead := [{ pc := 0x100000, word := w, mark := m }] }
def sNoPage : State := (sW 0).setCore 0 { (sW 0).core 0 with utlb := [] }
theorem witness_StepRunsTheDecodedInstruction_ahead :
    (∀ s ∈ [sAhead 0x01833283 (.loaded (num 9)), sAhead 0 .none, sNoPage], s.dev.powered = true ∧ s.agenda = [] ∧
      (s.ctx s.cur).run = .running ∧ (s.ctx s.cur).waiting = none) ∧
    given ((sAhead 0x01833283 (.loaded (num 9))).wordAt p0) (· == 0x01833283) = true ∧ decode 0x01833283 = some (.ld 5 6 24) ∧
    ((sAhead 0x01833283 (.loaded (num 9))).passAhead p0 (.ld 5 6 24)).isSome = true ∧ given ((sAhead 0 .none).wordAt p0) (· == 0) = true ∧
    (match sNoPage.wordAt p0 with | .walk _ va => va == 0x100000 | _ => false) = true := by
  and_intros <;> decide +kernel

theorem test_first_step : (match step (sW 0x00A30293) with
    | .next t => (t.ctx p0).reg 5 == num 10 && (t.ctx p0).pc == 0x100004 && (t.core 0).cyc == 1
    | _ => false) = true := by decide +kernel
theorem test_undecoded_step : (match step (sW 0) with
    | .next t => (t.ctx p0).cause == 1 && (t.ctx p0).tval == 0 && (t.ctx p0).run == .parked
    | _ => false) = true := by decide +kernel

def sT : State := { sA with agenda := [.event .powerDown, .time 3 7] }
theorem witness_TurnsOfTheAgenda : sT.dev.powered = true ∧ sT.agenda = .event .powerDown :: [.time 3 7] ∧
    ({ sT with agenda := [.time 3 7] } : State).agenda = .time 3 7 :: [] ∧
    ({ sT with dev := { sT.dev with powered := false } } : State).dev.powered = false := by decide +kernel

/-- A firing whose load-data queue holds 9, and whose store-data queue is empty. -/
def sL : State := with' p0 { rec' regs0 with qld := [num 9] }
/-- The same with a load into x28 in flight, and with a full store-data queue. -/
def sLoad (rd : BitVec 5) (qs : List Nat) : State := with' p0 { rec' regs0 with acc := [.load rd qs .zext] }
def sFull : State := with' p0 { rec' regs0 with qst := List.replicate 16 0 }
theorem witness_SourceAndDestinationFields : (sA.ctx sA.cur).qld = [] ∧ (sA.ctx sA.cur).loadInFlight = false ∧ (sA.ctx sA.cur).acc = [] ∧
    ((sLoad 28 [0]).ctx (sLoad 28 [0]).cur).loadInFlight = true ∧ ((sLoad 28 [0]).ctx (sLoad 28 [0]).cur).qld = [] ∧ (sL.ctx sL.cur).qld = num 9 :: [] ∧
    (sA.ctx sA.cur).qst.length < 16 ∧ 16 ≤ (sFull.ctx sFull.cur).qst.length ∧ (sFull.ctx sFull.cur).awaits [29, 6, 7] = false := by
  decide +kernel
theorem test_queue_heads : leaves (.add 5 28 6) sL 5 12 = true ∧ traps (.add 5 28 6) sA 0x0B 0 = true := by decide +kernel

theorem witness_IntegerArithmeticResults : sA.exeReady 5 [6, 7] ∧ sA.gives 6 (num 3) sA ∧ sA.src sA.cur 7 = .val (num 2, sA) ∧ sA.exeReady 31 [6] :=
  ⟨by unfold State.exeReady; decide, rfl, rfl, by unfold State.exeReady; decide⟩
theorem witness_MultiplyAndDivideResults : sA.exeReady 0 [6, 0] ∧ sA.gives 6 (num 3) sA ∧ sA.src sA.cur 0 = .val (0, sA) :=
  ⟨by unfold State.exeReady; decide, rfl, rfl⟩
theorem witness_IntegerFormsChangeNothingElse : sA.exeReady 5 [6, 7] ∧ sA.gives 6 (num 3) sA ∧ sA.src sA.cur 7 = .val (num 2, sA) ∧
    after (.div 5 6 7) sA (fun _ => true) = true := ⟨by unfold State.exeReady; decide, rfl, rfl, by decide +kernel⟩

/-- 07/R134, R135: wrap, sign, the corners of division, and the 32-bit forms. -/
def minInt : Reg := dataReg 0x8000000000000000
def sD : State := with' p0 (rec' [(6, minInt), (7, dataReg (-1)), (8, dataReg 0x80000000)])
theorem test_add_sub : leaves (.add 5 7 7) sD 5 (2 ^ 64 - 2) = true ∧ leaves (.sub 5 0 7) sD 5 1 = true := by decide +kernel
theorem test_compare : leaves (.slt 5 7 0) sD 5 1 = true ∧ leaves (.sltu 5 7 0) sD 5 0 = true ∧ leaves (.sltiu 5 6 0xFFF) sD 5 1 = true := by decide +kernel
theorem test_shift : leaves (.sra 5 6 7) sD 5 (2 ^ 64 - 1) = true ∧ leaves (.srl 5 6 7) sD 5 1 = true ∧ leaves (.sllw 5 8 0) sD 5 (2 ^ 64 - 2 ^ 31) = true := by decide +kernel
theorem test_division_by_zero : leaves (.div 5 6 0) sD 5 (2 ^ 64 - 1) = true ∧ leaves (.rem 5 6 0) sD 5 (2 ^ 63) = true := by decide +kernel
theorem test_division_overflow : leaves (.div 5 6 7) sD 5 (2 ^ 63) = true ∧ leaves (.rem 5 6 7) sD 5 0 = true ∧
    leaves (.divw 5 8 7) sD 5 (2 ^ 64 - 2 ^ 31) = true := by decide +kernel
theorem test_multiply_high : leaves (.mulh 5 7 7) sD 5 0 = true ∧ leaves (.mulhu 5 7 7) sD 5 (2 ^ 64 - 2) = true ∧ leaves (.mulhsu 5 7 7) sD 5 (2 ^ 64 - 1) = true := by decide +kernel
theorem test_upper : leaves (.lui 5 0x80000) sA 5 (2 ^ 64 - 2 ^ 31) = true ∧ leaves (.auipc 5 1) sA 5 0x1100 = true := by decide +kernel
theorem test_source_is_destination : leaves (.sub 6 6 7) sA 6 1 = true ∧ leaves (.addi 0 6 1) sA 0 0 = true := by decide +kernel

theorem witness_BranchesAndJumps : sA.exeReady 1 [6, 6] ∧ sA.gives 6 (num 3) sA ∧ sA.src sA.cur 6 = .val (num 3, sA) ∧ capAddr (num 3) = capAddr (num 3) ∧
    ((sA.ctx sA.cur).pc + ((4#12 ++ 0#1 : BitVec 13)).signExtend 64).extractLsb' 0 2 = 0#2 ∧
    ((sA.ctx sA.cur).pc + ((3#12 ++ 0#1 : BitVec 13)).signExtend 64).extractLsb' 0 2 ≠ 0#2 :=
  ⟨by unfold State.exeReady; decide, rfl, rfl, rfl, by decide, by decide⟩
theorem test_branches : after (.beq 6 6 0xFFC) sA (fun t => (t.ctx p0).pc == 0xF8) = true ∧ after (.bne 6 6 4) sA (fun t => (t.ctx p0).pc == 0x104) = true ∧
    traps (.bge 6 7 1) sA 0x04 0x102 = true := by decide +kernel
theorem test_jumps : after (.jal 1 4) sA (fun t => (t.ctx p0).pc == 0x108 && (t.ctx p0).reg 1 == num 0x104) = true ∧
    after (.jalr 6 6 1) sA (fun t => (t.ctx p0).pc == 4 && (t.ctx p0).reg 6 == num 0x104) = true := by decide +kernel
theorem test_own_causes : traps .ecall sA 3 0 = true ∧ traps .ebreak sA 2 0 = true ∧ traps (.illegalInstruction 7) sA 1 7 = true := by decide +kernel

/-! ## Witnesses: loads, stores, ordering, atomics, the monitor, barriers -/

/-- Places of core 0's scratchpad. -/
def sp (off n : Nat) : List Nat := span (spPlace 0 off) n
def big32 : Reg := capWithAddr big 32

/-- A firing whose scoped store waits in the store buffer. -/
def sB : State := with' p0 { rec' regs0 with sb := [{ cells := [(spPlace 0 64, 0x81)], isStl := true }], issued := 1 }
/-- The 17th datum of a full load-data queue. -/
def sF : State := with' p0 { rec' regs0 with qld := List.replicate 16 0 }
theorem witness_LoadResults : sA.memReady 5 [8] ∧ sA.gives 8 big sA ∧ sA.loadable p0 big 0 1 false (sp 0 1) ∧ sA.loadable p0 big 0x1FFF8 8 false (sp 0x1FFF8 8) ∧
    sA.loadable p0 big 16 16 true (sp 16 16) ∧ sA.memReady 28 [8] ∧ (sA.ctx sA.cur).qld.length < 16 ∧ 16 ≤ (sF.ctx sF.cur).qld.length ∧
    (∀ q ∈ sp 0x1FFF8 8, blockOf q = blockOf ((sp 0x1FFF8 8).headD 0)) ∧ blockOf (spPlace 0 33) ≠ blockOf ((sp 28 8).headD 0) ∧
    (sA.ctx sA.cur).acc = [] ∧ (sA.ctx sA.cur).sb = [] ∧ (∃ e ∈ (sB.ctx sB.cur).sb, e.isStl = true) ∧ (sA.ctx sA.cur).scopedDone = [] ∧
    (capAddr big32).toNat % 8 = 0 ∧ sA.loadable p0 big32 32 8 false (sp 32 8) ∧
    ((sLoad 5 (sp 32 8)).ctx p0).acc = .load 5 (sp 32 8) .zext :: [] ∧ ((sLoad 5 (sp 32 8)).ctx p0).accPart = [] :=
  ⟨by unfold State.memReady; decide, rfl, ⟨by decide +kernel, rfl, by decide +kernel⟩, ⟨by decide +kernel, rfl, by decide +kernel⟩,
    ⟨by decide +kernel, rfl, by decide +kernel⟩, by unfold State.memReady; decide, by decide +kernel, by decide +kernel, by decide +kernel, by decide +kernel,
    rfl, rfl, by decide +kernel, rfl, by decide +kernel, ⟨by decide +kernel, rfl, by decide +kernel⟩, rfl, rfl⟩
/-- A load into x29, an lda that the access half holds, and one that waits until its stores are everywhere. -/
def sAcq (qs : List Nat) : State := with' p0 { rec' regs0 with acc := [.acquire 5 qs .sext 3] }
theorem witness_LoadResults_held : sA.loadReady 29 [8] ∧ sA.loadReady 5 [8] ∧ ¬sFull.loadReady 29 [8] ∧ ((sAcq (sp 32 8)).ctx p0).acc = .acquire 5 (sp 32 8) .sext 3 :: [] ∧
    ((sAcq (sp 32 8)).acquireReady p0 3 = true) ∧ (∃ w ∈ ((with' p0 { rec' regs0 with scopedDone := [(spPlace 0 64, 9)] }).ctx p0).scopedDone,
      ((with' p0 { rec' regs0 with scopedDone := [(spPlace 0 64, 9)] }).die 1).view.ord.getD w.1 0 < w.2) ∧
    ((sLoad 5 [0]).ctx p0).acc ≠ [] ∧ (sLoad 5 [0]).loadReady 7 [8] ∧ (sLoad 5 [0]).gives 8 big (sLoad 5 [0]) := by
  unfold State.loadReady State.memReady
  refine ⟨by decide +kernel, by decide +kernel, by decide +kernel, rfl, by decide +kernel, ⟨(spPlace 0 64, 9), by decide +kernel, by decide +kernel⟩, by decide +kernel, by decide +kernel, rfl⟩
theorem test_load_into_the_store_data : after (.ld 29 8 16) sA (fun t => (t.ctx p0).qst == [num 0] && (t.ctx p0).pc == 0x104) = true ∧
    after (.ld 29 8 16) sFull (fun t => (t.ctx p0).qst.length == 16 && (t.ctx p0).pc == 0x100) = true := by decide +kernel
/-- R166, R175: a load that crosses a block boundary is in flight after its issue. -/
theorem test_split_load : after (.ld 5 8 28) sA (fun t => (t.ctx p0).pc == 0x104 && (t.ctx p0).acc == [.load 5 (sp 28 8) .zext]) = true := by decide +kernel

theorem witness_StoresOfEveryKind : sA.memReady 0 [8] ∧ sA.gives 8 big sA ∧ sA.storeSrc sA.cur 6 = .val (num 3, sA) ∧
    sA.storable p0 big 0x1FFFF 1 permStore false (sp 0x1FFFF 1) ∧ (sp 0x1FFFF 1).Nodup ∧ (∀ q ∈ sp 0x1FFFF 1, q < tagPlace 0) ∧
    capTag big = true ∧ inOwnScratchpad sA.cur 16 = true ∧ sA.storable p0 big 16 16 (permStore ||| permStoreCap) true (sp 16 16) ∧
    sA.gives 9 big32 sA ∧ sA.storable p0 big32 32 8 permStore false (sp 32 8) ∧ (capAddr big32).toNat % 8 = 0 ∧ (sA.ctx sA.cur).acc = [] ∧
    ((sLoad 5 [0]).ctx p0).acc ≠ [] ∧ (sA.ctx sA.cur).sb = [] ∧ (sB.ctx sB.cur).sb ≠ [] ∧ sA.issuedReleased sA.cur = true ∧ sB.issuedReleased sB.cur = false ∧
    (sA.core sA.cur.coreIx).fifo = [] ∧ sA.opsOf sA.cur = false ∧ (∀ q ∈ sp 64 8, q / 32 = (sp 64 8).headD 0 / 32) :=
  ⟨by unfold State.memReady; decide, rfl, rfl, ⟨by decide +kernel, rfl⟩, by decide +kernel, by decide +kernel, by decide +kernel, by decide +kernel,
    ⟨by decide +kernel, rfl⟩, rfl, ⟨by decide +kernel, rfl⟩, by decide +kernel, rfl, by decide +kernel, rfl, by decide +kernel, by decide +kernel,
    by decide +kernel, rfl, by decide +kernel, by decide +kernel⟩
/-- A firing whose store-data queue holds 9, and one with a load into x29 on its way. -/
def sX29 : State := with' p0 { rec' regs0 with qst := [num 9, num 4] }
theorem witness_StoresOfEveryKind_queue : sX29.memReady (dataField 29) [8] ∧ sX29.gives 8 big sX29 ∧ (sX29.ctx p0).qst = num 9 :: [num 4] ∧
    (∃ t, sX29.storeSrc p0 29 = .val (num 9, t) ∧ t.storable p0 big 16 8 permStore false (sp 16 8)) ∧ sA.memReady (dataField 29) [8] ∧ (sA.ctx p0).qst = [] ∧
    (sA.ctx p0).awaits [29] = false ∧ ((sLoad 29 [0]).ctx p0).awaits [29] = true := by
  unfold State.memReady
  exact ⟨by decide +kernel, rfl, rfl, ⟨_, rfl, ⟨by decide +kernel, rfl⟩⟩, by decide +kernel, rfl, by decide +kernel, by decide +kernel⟩
/-- R76: a store from x29 takes the head of the queue, and cause 0x0C where the queue is empty. -/
theorem test_store_data : after (.sd 29 8 16) sX29 (fun t => (t.ctx p0).qst == [num 4] && t.see p0 (spPlace 0 16) == 9 && (t.ctx p0).pc == 0x104) = true ∧
    traps (.sd 29 8 16) sA 0x0C 0 = true ∧ traps (.stl 8 29 3 0) sA 0x0C 0 = true ∧ after (.sd 29 8 16) (sLoad 29 [0]) (fun t => (t.ctx p0).pc == 0x100) = true := by decide +kernel
theorem witness_LoadsAndStoresChangeNothingElse : sA.gives 8 big sA ∧ sA.storeSrc sA.cur 6 = .val (num 3, sA) ∧
    (∀ i ∈ [Instr.lb 5 8 0, .lh 5 8 2, .lw 5 8 0, .lbu 29 8 0, .lhu 28 8 0, .ld 5 8 16, .lwu 5 8 0, .clc 5 8 16, .lda 5 8 3 0, .sb 6 8 0, .sh 6 8 2, .sw 6 8 4,
        .sd 6 8 8, .csc 6 8 16, .stl 8 6 3 0],
      after i sA (fun t => (t.ctx p0).pc == 0x104 && !(t.ctx p0).handler) = true) := ⟨rfl, rfl, by decide +kernel⟩

/-- 07/R137: sign and zero extension, a store read back before it drains, and a load beyond the capability. -/
theorem test_store_then_load : after (.sd 7 8 16) sA (fun t => after (.lw 5 8 16) { t with cur := p0 } fun u => (u.ctx p0).reg 5 == num 2) = true := by decide +kernel
theorem test_extension : leaves (.lb 5 8 64) sB 5 (2 ^ 64 - 127) = true ∧ leaves (.lbu 5 8 64) sB 5 0x81 = true := by decide +kernel
theorem test_load_bounds : traps (.ld 5 9 0x7FF) sA 0 0 = false ∧ traps (.lw 5 6 0) sA 0x05 3 = true := by decide +kernel
theorem test_load_capability_alignment : traps (.clc 5 8 8) sA 0x0A 8 = true := by decide +kernel

theorem witness_AtomicsAreSentToTheirOwner : sA.exeReady 5 [9, 6] ∧ sA.gives 9 big32 sA ∧ sA.src sA.cur 6 = .val (num 3, sA) ∧
    sA.reaches p0 big32 32 4 (permLoad ||| permStore) .rw (spPlace 0 32 :: sp 33 3) ∧ sA.reaches p0 big32 32 8 (permLoad ||| permStore) .rw (spPlace 0 32 :: sp 33 7) ∧
    (capAddr big32).toNat % 8 = 0 :=
  ⟨by unfold State.exeReady; decide, rfl, rfl, ⟨by decide +kernel, rfl⟩, ⟨by decide +kernel, rfl⟩, by decide +kernel⟩

/-- A party that waits for a reply, and one that has it, with and without a fault, or has another. -/
def wt (f : WaitForm) : Waiting := { form := f, rd := 5, id := 7, start := 0, bound := 0, pc := 0x200, place := spPlace 0 32 }
def sR (r : Reply) (f : WaitForm) : State := with' p0 { rec' regs0 with waiting := some (wt f), reply := [r] }
/-- A party that waits for a reply while the access half holds a fence. -/
def sRH : State := with' p0 { rec' regs0 with waiting := some (wt .bar), reply := [{ id := 7, fault := some (0x28, 1) }], sb := [{ cells := [(spPlace 0 64, 1)] }], issued := 1, acc := [.fence 3] }
theorem witness_OperationsAndReplies_held : (sRH.ctx p0).waiting = some (wt .bar) ∧ ((sRH.accSettled p0).ctx p0).acc ≠ [] ∧
    (((sR { id := 7, fault := some (0x28, 1) } .bar).accSettled p0).ctx p0).acc = [] := by
  refine ⟨rfl, by decide +kernel, by decide +kernel⟩
theorem witness_OperationsAndReplies : ((sR { id := 7, val := 0x80000000 } .amoW).ctx p0).reply = { id := 7, val := 0x80000000 } :: [] ∧
    ((sR { id := 7, fault := some (0x28, 1) } .bar).ctx p0).waiting = some (wt .bar) ∧ (wt .bar).id = 7 ∧
    (∃ w : Waiting, ((sR { id := 8 } .bar).ctx p0).waiting = some w ∧ w.id ≠ 8) ∧ ((with' p0 { rec' regs0 with reply := [{ id := 8 }] }).ctx p0).waiting = none ∧
    (wt .monw).start + (wt .monw).bound ≤ ((sR { id := 8 } .monw).core 0).cyc ∧ ((sR { id := 8 } .monw).ctx p0).mon.event = false ∧
    ((sR { id := 8 } (.barwait 5)).ctx p0).waiting = some (wt (.barwait 5)) := by
  refine ⟨rfl, rfl, rfl, ⟨_, rfl, by decide⟩, rfl, by decide +kernel, rfl, rfl⟩
theorem test_reply_extends : after (.replyDelivery p0) (sR { id := 7, val := 0x80000000 } .amoW)
    (fun t => (t.ctx p0).reg 5 == dataReg 0xFFFFFFFF80000000 && (t.ctx p0).pc == 0x204 && (t.ctx p0).waiting == none) = true := by decide +kernel
theorem test_barwait_bound : after (.barwaitTimeout p0) (sR { id := 8 } (.barwait 5))
    (fun t => (t.ctx p0).reg 5 == num 0x51 && t.dev.ops.length == 1) = true := by decide +kernel

/-- An operation at the head of core 0's inbox, whose operand is the dword 0xFFFFFFFE at offset 32. -/
def opAt (k : OpKind) (n : Nat) (v e : BitVec 64) : Op := { kind := k, addr := spPlace 0 32, va := 32, owner := 0, size := n, v := v, e := e, issuer := p0.ix, id := 7, reply := true }
def sO (o : Op) : State :=
  let s := with' p0 { rec' regs0 with waiting := some (wt .bar) }
  let s1 := s.setCore 0 { s.core 0 with opInbox := [o] }
  s1.setDie 0 { s1.die 0 with view := { (s1.die 0).view with mem := [(spPlace 0 32, 0xFE), (spPlace 0 33, 0xFF), (spPlace 0 34, 0xFF), (spPlace 0 35, 0xFF)] } }
theorem witness_AtomicResults : ∀ z ∈ [((0 : BitVec 4), (4 : Nat), (0 : BitVec 64)), (7, 8, 0xFFFFFFFE), (7, 8, 5), (10, 4, 0)],
    let o := opAt (.amo z.1) z.2.1 3 z.2.2
    (sO o).opHead c0.ix = some o ∧ (sO o).holdsLast c0.die.val (span o.addr o.size) = true ∧ (sO o).poisonedFrom c0.die.val o.va (span o.addr o.size) = none := by
  decide +kernel
def owner (o : Op) (i : Instr) (old new : Nat) : Bool :=
  after i (sO o) fun t => t.peek 0 (spPlace 0 32) o.size == new && ((t.ctx p0).reply.map fun r => r.val.toNat) == [old] && (t.core 0).opInbox == []
theorem test_owner_add : owner (opAt (.amo 0) 4 3 0) (.ownerAmo c0) 0xFFFFFFFE 1 = true := by decide +kernel
theorem test_owner_min : owner (opAt (.amo 2) 4 3 0) (.ownerAmo c0) 0xFFFFFFFE 0xFFFFFFFE = true ∧ owner (opAt (.amo 4) 4 3 0) (.ownerAmo c0) 0xFFFFFFFE 3 = true := by decide +kernel
theorem test_owner_cas : owner (opAt (.amo 7) 8 3 0xFFFFFFFE) (.ownerAmo c0) 0xFFFFFFFE 3 = true ∧ owner (opAt (.amo 7) 8 3 5) (.ownerAmo c0) 0xFFFFFFFE 0xFFFFFFFE = true := by decide +kernel

/-- Monitors: armed at offset 32 with and without an event. -/
def sN (m : Monitor) (p : Party) (w : Option Waiting) : State := with' p { rec' regs0 with mon := m, waiting := w }
def armed : Monitor := { armed := some (spPlace 0 32), event := false }
def seen : Monitor := { armed := some (spPlace 0 32), event := true }
theorem witness_MonitorForms : sA.exeReady 5 [9] ∧ sA.exeReady 0 [] ∧ sA.gives 9 big32 sA ∧ sA.reaches p0 big32 32 8 permLoad .r (spPlace 0 32 :: sp 33 7) ∧
    (sA.ctx p0).waiting = none ∧ (sA.ctx p0).mon.armed = none ∧ ((sN seen p0 none).ctx p0).mon.event = true ∧
    ((sN armed p0 none).ctx p0).mon.event = false ∧ capAddr ((sN armed p0 none).ctx p0 |>.reg 0) = 0 ∧ capAddr big32 ≠ 0 ∧
    ((sN seen p0 (some (wt .monw))).ctx p0).waiting ≠ none ∧ (sN seen sup0 none).cur.isSup = true ∧ ((sN armed sup0 none).ctx sup0).mon.armed ≠ none ∧
    ((sN armed p0 none).die 0).view.ord.getD (spPlace 0 39) 0 < 1 ∧ spPlace 0 39 / 8 * 8 = spPlace 0 32 :=
  ⟨by unfold State.exeReady; decide, by unfold State.exeReady; decide, rfl, ⟨by decide +kernel, rfl⟩, rfl, rfl, rfl, rfl, by decide +kernel, by decide +kernel,
    by decide +kernel, rfl, by decide +kernel, by decide +kernel, by decide⟩
theorem test_monitor_event : (((sN armed p0 none).install 0 1 [(spPlace 0 39, 5)]).ctx p0).mon.event = true := by decide +kernel

/-- A barrier object at offset 32 that expects 2 and has one left, in phase 15, with one wait registered. -/
def sX (o : Op) (w : List Nat) : State :=
  let s := sO o
  let s1 := s.setBar 0 (spPlace 0 32) { expect := 2, remain := 1, drops := 0, phase := 15, ovr := false, waitcnt := 1, invalid := false }
  s1.setCore 0 { s1.core 0 with barWaits := w.map fun n => (spPlace 0 32, p0.ix, n) }
theorem witness_Barriers : sA.gives 9 big32 sA ∧ sA.src sA.cur 6 = .val (num 3, sA) ∧ sA.exeReady 5 [9, 6] ∧ sA.exeReady 5 [9] ∧
    sA.reaches p0 big32 32 16 (permLoad ||| permStore) .rw (spPlace 0 32 :: sp 33 15) ∧ isSp (spPlace 0 32) = true ∧ (capAddr big32).toNat % 16 = 0 ∧
    sA.src sA.cur 0 = .val (0, sA) ∧ (∀ o ∈ [opAt .barinit 16 2 0, opAt .bararv 16 1 0, opAt .bararv 16 2 0, opAt .bardrop 16 1 0, opAt .barwait 16 15 0,
        opAt .barwait 16 14 0, opAt .barrd 16 0 0, opAt .barcancel 16 7 0],
      (sX o [7]).opHead 0 = some o ∧ (sX o [7]).holdsLast 0 (span o.addr o.size) = true ∧ (sX o [7]).poisonedFrom 0 o.va (span o.addr o.size) = none ∧
      (((sX o [7]).took c0 o).barObj 0 o.addr).invalid = false ∧ (((sX o [7]).took c0 o).barObj 0 o.addr).remain.toNat = 1) ∧
    (((sO (opAt .bararv 16 1 0)).took c0 (opAt .bararv 16 1 0)).barObj 0 (spPlace 0 32)).expect = 0xFFFE :=
  ⟨rfl, rfl, by unfold State.exeReady; decide, by unfold State.exeReady; decide, ⟨by decide +kernel, rfl⟩, by decide, by decide +kernel, rfl, by decide +kernel, by decide +kernel⟩
theorem witness_Barriers_atIssue : (with' p0 (rec' [(9, big32), (6, num (5 * 2 ^ 32 + 3))])).src p0 6 = .val (num (5 * 2 ^ 32 + 3), with' p0 (rec' [(9, big32), (6, num (5 * 2 ^ 32 + 3))])) ∧
    2 ^ 32 ≤ (capAddr (num (5 * 2 ^ 32 + 3))).toNat ∧ (capAddr (num 3)).toNat < 2 ^ 32 ∧ 65535 < (capAddr (num 65536)).toNat ∧
    (capAddr (capWithAddr big 40)).toNat % 16 ≠ 0 ∧ sA.reaches p0 (capWithAddr big 40) 40 16 (permLoad ||| permStore) .rw (spPlace 0 40 :: sp 41 15) :=
  ⟨rfl, by decide +kernel, by decide +kernel, by decide +kernel, by decide +kernel, ⟨by decide +kernel, rfl⟩⟩
theorem test_barwait_without_a_bound : after (.barwait 5 9 6) sA (fun t => (t.ctx p0).reg 5 == num 0x31 && (t.ctx p0).pc == 0x104 && (t.ctx p0).waiting == none &&
    t.dev.ops.length == 2) = true := by decide +kernel
theorem test_last_arrival : after (.barrierArriveOp c0) (sX (opAt .bararv 16 1 0) [7])
    (fun t => (t.barObj 0 (spPlace 0 32)).phase == 0 && (t.barObj 0 (spPlace 0 32)).remain == 2 && (t.core 0).barWaits == []) = true := by decide +kernel
theorem test_arrival_beyond : after (.barrierArriveOp c0) (sX (opAt .bararv 16 2 0) [])
    (fun t => (t.barObj 0 (spPlace 0 32)).ovr && ((t.ctx p0).reply.map fun r => r.val.toNat % 4) == [2]) = true := by decide +kernel
theorem test_barrier_count : traps (.bararv 5 9 0) sA 0x16 0 = true := by decide +kernel

/-- Block moves: x5, x6 and x7 are two places and a count. -/
def sK (n : Nat) (f : Firing) (z : Nat) : State := with' p0 { rec' [(5, cap 0 64), (6, capWithAddr (cap 0 64) 32), (7, num n)] with firing := f, issued := z }
/-- A rep of x5 whose body is vaddi.f32 v0, 1.5, in the page of withFetchWord. -/
def sP (n : Nat) : State :=
  let s := State.reset.withFetchWord 32 0x0402F00B
  (s.writeAt 0 (bytesCells 0x100004 0x3FC010FB 4) false []).mod p0 fun c => c.setReg 5 (num n)
theorem witness_BlockMovesAndRegionMarks : ((sK 2 {} 0).ctx p0).acc = [] ∧ [(5 : BitVec 5), 6, 7].Nodup ∧
    capAddr (((sK 0 {} 0).ctx p0).reg 7) = 0 ∧ capAddr (((sK 2 {} 0).ctx p0).reg 7) ≠ 0 ∧ (sK 2 {} 0).storable p0 (cap 0 64) 0 1 permStore false [spPlace 0 0] ∧
    (sK 2 {} 0).loadable p0 (capWithAddr (cap 0 64) 32) 32 1 false [spPlace 0 32] ∧ ((sK 2 { sheet := true } 0).ctx p0).firing.sheet = true ∧
    ((sK 2 { sheet := true } 0).ctx p0).issued ≤ ((sK 2 {} 0).ctx p0).drained ∧ ((sK 2 { sheet := true } 1).ctx p0).drained < ((sK 2 { sheet := true } 1).ctx p0).issued ∧
    ((sK 2 {} 0).ctx p0).firing.sheet = false ∧ (sP 2).exeReady 0 [5] ∧ ((sP 2).ctx p0).body = none ∧
    given ((sP 2).fetchWord p0 (((sP 2).ctx p0).pc + 4)) (· == 0x3FC010FB) = true ∧ capAddr (((sP 0).ctx p0).reg 5) = 0 ∧ capAddr (((sP 2).ctx p0).reg 5) ≠ 0 ∧
    (match repBody 0x3FC010FB with | some f => given (f (sP 2)) (fun _ => true) | none => false) = true :=
  ⟨rfl, by decide, by decide +kernel, by decide +kernel, ⟨by decide +kernel, rfl⟩, ⟨by decide +kernel, rfl, by decide +kernel⟩, rfl, by decide +kernel, by decide +kernel,
    rfl, by unfold State.exeReady; decide, rfl, by decide +kernel, by decide +kernel, by decide +kernel, by decide +kernel⟩
theorem test_block_move : after (.bmov 5 6 7) (sK 2 {} 0) (fun t => (t.ctx p0).reg 7 == num 1 && (t.ctx p0).reg 5 == capWithAddr (cap 0 64) 1 && (t.ctx p0).pc == 0x100) = true := by decide +kernel
theorem test_rep : (match step (sP 2) with
    | .next t => (t.ctx p0).reg 5 == num 1 && (t.ctx p0).pc == 0x100000 && (t.ctx p0).v.toList.headD 0 % 2 ^ 32 == 0x3FC00000
    | _ => false) = true ∧ (match step (sP 0) with
    | .next t => (t.ctx p0).pc == 0x100008
    | _ => false) = true := by decide +kernel
theorem test_region_mark_outside_a_sheet : traps (.rgn 1) (sK 2 {} 0) 0x0F 0 = true := by decide +kernel

/-! ## Witnesses: CSRs, slot tables, tap points -/

theorem witness_CsrForms : csrOf 0x003 = some .fcsr ∧ csrOf 0x5C1 = some .epc ∧ csrOf 0xCC4 = some .fdep ∧ Csr.ro .fcsr = false ∧ Csr.sup .fcsr = false ∧
    sS.cur.isSup = true ∧ sA.exeReady 5 [6] ∧ sA.exeReady 5 [] ∧ sA.gives 6 (num 3) sA ∧ (6 : BitVec 5) ≠ 0 ∧ (∃ t, sA.writeCsr p0 .fcsr 0xFF (some (num 3)) 0 = .val t) ∧
    (∃ t, sS.writeCsr sup0 .epc 0 none 0 = .val t) :=
  ⟨rfl, rfl, rfl, rfl, rfl, rfl, by unfold State.exeReady; decide, by unfold State.exeReady; decide, rfl, by decide, ⟨_, rfl⟩, ⟨_, rfl⟩⟩
theorem test_csr_set : after (.csrrs 5 0x003 6) sA (fun t => (t.ctx p0).reg 5 == num 0 && (t.ctx p0).fcsr == 3) = true ∧
    after (.csrrwi 5 0x002 31) sA (fun t => (t.ctx p0).fcsr == 0xE0) = true := by decide +kernel
theorem test_csr_counts : leaves (.csrrs 5 0xCC5 0) sA 5 0 = true := by decide +kernel

theorem witness_PrivilegedAndReservedFields : csrOf 0x000 = none ∧ (∃ r, csrOf 0x5C0 = some r ∧ r.sup = true ∧ sA.cur.isSup = false) ∧
    (∃ r, csrOf 0xCC1 = some r ∧ r.ro = true) ∧ sA.exeReady 5 [6] ∧ sA.exeReady 5 [] :=
  ⟨rfl, ⟨.cause, rfl, rfl, rfl⟩, ⟨.kcls, rfl, rfl⟩, by unfold State.exeReady; decide, by unfold State.exeReady; decide⟩
theorem test_privileged_csr : traps (.csrrw 5 0x5C0 6) sA 1 ((wordCsrrw 5 0x5C0 6).setWidth 64) = true ∧
    after (.csrrw 5 0x5C1 6) sS (fun t => (t.ctx sup0).epc == 3) = true := by decide +kernel
theorem test_read_only_csr : traps (.csrrw 5 0xCC1 28) sA 1 ((wordCsrrw 5 0xCC1 28).setWidth 64) = true := by decide +kernel
theorem test_reserved_fields : traps (.add 28 6 7) sA 1 ((wordAdd 28 6 7).setWidth 64) = true ∧ traps (.add 5 29 7) sA 1 ((wordAdd 5 29 7).setWidth 64) = true := by decide +kernel

theorem witness_CsrContents : accessSelected 0 0 = some 0 ∧ accessSelected 7 0x80000 = some ((1000 + 14336) * 64) ∧
    (∃ t, sS.writeCsr sup0 .fcsr 0x1FF none 0 = .val t) ∧ csrOf 0x800 = some .fmtA ∧ Csr.ro .fmtA = false ∧
    (∃ t, sA.writeCsr p0 .fmtA 31 (some (dataReg 31)) 0 = .val t) := ⟨by decide, by decide, ⟨_, rfl⟩, rfl, rfl, ⟨_, rfl⟩⟩

/-- A staged table that gives every context and the handler a slot, one that leaves context 3 out, and cores in each case of the words. -/
def goodSlots : Vector (BitVec 64) 16 := #v[0x38, 0x39, 0x3A, 0x3B, 0x38, 0x39, 0x3A, 0x3B, 0x38, 0x39, 0x3A, 0x3B, 0x38, 0x39, 0x3A, 0x3C]
def badSlots : Vector (BitVec 64) 16 := goodSlots.map fun x => if x = 0x3B then 0x38 else x
def sSlots (v : Vector (BitVec 64) 16) : State := with' sup0 { rec' regs0 with staged := v }
def sCore (f : Core → Core) : State := sS.setCore 0 (f (sS.core 0))
def moveTable : List (BitVec 64) := goodSlots.toList.map fun x => if x = 0x38 then 0x138 else x
theorem witness_SlotTablesAndConfigurationWords : slotsRejected (sSlots goodSlots |>.ctx sup0).staged.toList = false ∧
    slotsRejected (sSlots badSlots |>.ctx sup0).staged.toList = true ∧
    (let s := sCore fun k => { k with pendSlots := some moveTable }
     (s.core 0).pendSlots = some moveTable ∧ (s.core 0).walkAt = 0 ∧ (s.ctx (.ctx c0 0)).run = .idle ∧ slotPart moveTable 0 ≠ slotPart (s.core 0).slots 0) ∧
    (sS.core 0).actors = [] ∧ ((sCore fun k => { k with actors := [{}] }).core 0).actors ≠ [] ∧
    (0x0001FFC000000040 : BitVec 64) &&& ~~~0x0001FFC00001FFC0#64 = 0#64 ∧
    ((0x0001FFC000000040 : BitVec 64).extractLsb' 0 17).toNat + ((0x0001FFC000000040 : BitVec 64).extractLsb' 32 17).toNat = 0x20000 ∧
    (sS.core 0).spill = [] ∧ ((sCore fun k => { k with spill := [{}] }).core 0).spill ≠ [] ∧ (sS.core 0).quireOvf = [] ∧
    ((sCore fun k => { k with quireOvf := [{}] }).core 0).quireOvf ≠ [] := by decide +kernel
theorem test_slot_table_rejected : after (.sltgoRequest 0 0 1) (sSlots badSlots) (fun t => (t.ctx sup0).sltgo == 2 && (t.core 0).pendSlots == none) = true := by decide +kernel

/-- A tap point that is not armed, of which the tables have room for one column block, and one armed for partition 0. -/
def bare : Tap := { ptop := 1024, vtop := 512 }
def live : Tap := { bare with ctl := 0x2201, recs := [9] }
def sTap (t : Tap) (p : Party) : State :=
  (with' p (rec' [(6, num 0x20000), (7, num 5), (8, cap 0 0x20000), (9, num 0x10500), (10, mkCap false (capMeta big) 0)])).setTap 0 0 t
theorem witness_TapPoints : ctlEn bare.ctl = false ∧ bare.armRefused (0x2000 ||| 1) = false ∧ (((sTap bare sup0).digestBytes 0 bare (0x2000 ||| 1)).isSome = true) ∧
    ctlEn live.ctl = true ∧ capTag big = true ∧ capOtype big = 0 ∧ hasPerms big permProbe = true ∧ capBase big ≤ (capAddr big).toNat ∧
    ((capAddr big).toNat + 0 : Nat) ≤ capTop big ∧ (sTap live p0).inFiring ∧ (sTap live p0).exeReady 5 [6, 7] ∧ (sTap live p0).gives 6 (num 0x20000) (sTap live p0) ∧
    (sTap live p0).src p0 7 = .val (num 5, sTap live p0) ∧ live.usable 0 = true ∧ bare.usable 0 = false ∧ hasPerms big permSteer = true ∧ hasPerms big permSuper = false ∧
    (0 + 2 : Nat) ≤ 256 ∧ (sTap live sup0).cur.isSup = true :=
  ⟨by decide, by decide, by decide +kernel, by decide, by decide, by decide, by decide, by decide, by decide, rfl, by unfold State.exeReady; decide, rfl, rfl, by decide,
    by decide, by decide, by decide, by decide, rfl⟩
theorem test_tap_refused : traps (.taprd 5 0) (sTap bare p0) 0x37 0 = true ∧ leaves (.taprd 5 0) (sTap live p0) 5 9 = true := by decide +kernel
theorem test_row_map : after (.seqmap 6 7) (sTap live p0) (fun t => (t.tap 0 0).map.getD 0 255 == 5 && (t.tap 0 0).map.getD 1 255 == 5 && (t.tap 0 0).map.getD 2 255 == 255) = true := by decide +kernel
theorem test_steer_needs_a_tag : traps (.steer 10 7) (sTap live p0) 0x05 10 = true := by decide +kernel

/-! ## Witnesses: floating point and capabilities -/

/-- x6 = 1.5 and x7 = −2 in single precision, x8 = 1.5 and x9 = −2 in double, x10 a signalling NaN; x11 = 0x7F800000, and frm = 0. -/
def sFp (frm : BitVec 3) : State := with' p0 { rec' [(6, num 0x3FC00000), (7, num 0xC0000000), (8, num 0x3FF8000000000000), (9, num 0xC000000000000000),
  (10, num 0x7FA00000), (11, num 0x7F800000)] with fcsr := frm ++ 0#5 }
theorem witness_FpArithmeticResults : (sFp 0).exeReady 5 [6, 7, 8] ∧ (sFp 0).exeReady 5 [6, 7] ∧ (sFp 0).exeReady 5 [6] ∧ (sFp 0).gives 6 (num 0x3FC00000) (sFp 0) ∧
    (sFp 0).src p0 7 = .val (num 0xC0000000, sFp 0) ∧ (sFp 0).src p0 8 = .val (num 0x3FF8000000000000, sFp 0) ∧ ((sFp 0).ctx p0).rounding 4 = some .rmm ∧
    ((sFp 4).ctx p0).rounding 7 = some .rmm ∧ 5 ≤ (((sFp 5).ctx p0).fcsr.extractLsb' 5 3).toNat :=
  ⟨by unfold State.exeReady; decide, by unfold State.exeReady; decide, by unfold State.exeReady; decide, rfl, rfl, rfl, by decide, by decide, by decide⟩
theorem test_fp_sum : leaves (.faddS 5 6 7 0) (sFp 0) 5 (2 ^ 64 - 2 ^ 32 + 0xBF000000) = true ∧ leaves (.fmulD 5 8 9 0) (sFp 0) 5 0xC008000000000000 = true := by decide +kernel
theorem test_fp_flags : after (.fdivS 5 6 0 0) (sFp 0) (fun t => (t.ctx p0).reg 5 == num 0x7F800000 && (t.ctx p0).fcsr == 8) = true ∧
    after (.fsqrtD 5 9 0) (sFp 0) (fun t => (t.ctx p0).reg 5 == num 0x7FF8000000000000 && (t.ctx p0).fcsr == 16) = true := by decide +kernel
theorem test_fp_mode : traps (.faddS 5 6 7 7) (sFp 5) 1 ((wordFaddS 5 6 7 7).setWidth 64) = true ∧
    traps (.fcvtDWu 5 6 7) (sFp 6) 1 ((wordFcvtDWu 5 6 7).setWidth 64) = true := by decide +kernel
theorem witness_SignInjectionForms : (sFp 0).exeReady 0 [6, 7] ∧ (sFp 0).gives 6 (num 0x3FC00000) (sFp 0) ∧ (sFp 0).src p0 7 = .val (num 0xC0000000, sFp 0) :=
  ⟨by unfold State.exeReady; decide, rfl, rfl⟩
theorem witness_FpComparisonsAndConversions : (sFp 0).exeReady 5 [10, 7] ∧ (sFp 0).gives 10 (num 0x7FA00000) (sFp 0) ∧ (sFp 0).src p0 7 = .val (num 0xC0000000, sFp 0) ∧
    fmtF32.isNan 0x7FA00000 = true ∧ fmtF32.isNan 0xC0000000 = false ∧ fmtF64.isNan 0x7FF8000000000000 = true ∧
    (sFp 0).exeReady 5 [10] ∧ (sFp 0).exeReady 5 [11] ∧ (sFp 0).gives 6 (num 0x3FC00000) (sFp 0) ∧ ((sFp 0).ctx p0).rounding 0 = some .rne ∧
    fmtF32.num 0x7FA00000 = .nan ∧ fmtF32.num 0x7F800000 = .inf false ∧ fmtF32.num 0x3FC00000 = .fin false 0xC00000 (-23) ∧
    (roundInt .rne false 0xC00000 (-23)).1 = 2 ∧ IntKind.w.range.1 ≤ 2 ∧ 2 ≤ IntKind.w.range.2 ∧ (roundInt .rne true 1 64).1 < IntKind.w.range.1 ∧
    IntKind.w.range.2 < (roundInt .rne false 1 31).1 :=
  ⟨by unfold State.exeReady; decide, rfl, rfl, by decide, by decide, by decide, by unfold State.exeReady; decide, by unfold State.exeReady; decide, rfl, by decide, by decide,
    by decide, by decide, by decide, by decide, by decide, by decide, by decide⟩
/-- 1.5 and 2^128 in single precision: one exact, one beyond every code; 1.5 and a NaN as operands. -/
theorem witness_RoundingOfResults : (fmtF32.finish .rne false 3 (-1)).flags &&& 4 = 0 ∧ (fmtF32.finish .rtz false 1 128).flags &&& 4 ≠ 0 ∧
    fmtF32.neg (fmtF32.finish .rne false 3 (-1)).code = false ∧ fmtF32.num 0x3FC00000 = .fin false 0xC00000 (-23) ∧
    (0 : Rat) < (0xC00000 : Rat) * 2 ^ (-23 : Int) ∧ fmtF32.num 0 = .fin false 0 (-149) ∧ fmtF32.isNan 0x7FA00000 = true :=
  ⟨by decide, by decide, by decide, by decide, by norm_num, by decide, by decide⟩
/-- −2 < 1.5 and −0 = +0 in single precision: operands of the ordered cases; 0.5 lies between the integers 0 and 1. -/
theorem witness_FpComparisonsAndConversions_ordered : (0x3FC00000 : Nat) < 2 ^ fmtF32.width ∧ (0xC0000000 : Nat) < 2 ^ fmtF32.width ∧
    fmtF32.isNan 0x3FC00000 = false ∧ fmtF32.isNan 0x80000000 = false ∧ -((0xC0000000 % 2 ^ 31 : Nat) : Int) < ((0x3FC00000 % 2 ^ 31 : Nat) : Int) ∧
    -((0x80000000 % 2 ^ 31 : Nat) : Int) = ((0 % 2 ^ 31 : Nat) : Int) ∧ (2 ^ (fmtF32.width - 1) ≤ (0x80000000 : Nat)) ∧
    fmtF64.num 0x7FF0000000000000 = .inf false ∧ (roundInt .rne false 1 (-1)) = (0, true) := by decide
theorem test_fp_order : leaves (.fltS 5 7 6) (sFp 0) 5 1 = true ∧ leaves (.fmaxS 5 7 6) (sFp 0) 5 0x3FC00000 = true ∧ leaves (.fclassS 5 7) (sFp 0) 5 2 = true := by decide +kernel
theorem test_fp_nan : after (.fminS 5 10 7) (sFp 0) (fun t => (t.ctx p0).reg 5 == dataReg 0xFFFFFFFFC0000000 && (t.ctx p0).fcsr == 16) = true ∧
    leaves (.feqS 5 10 10) (sFp 0) 5 0 = true ∧ leaves (.fclassS 5 10) (sFp 0) 5 256 = true := by decide +kernel
theorem test_fp_to_integer : after (.fcvtWS 5 6 0) (sFp 0) (fun t => (t.ctx p0).reg 5 == num 2 && (t.ctx p0).fcsr == 1) = true ∧
    after (.fcvtWuS 5 7 0) (sFp 0) (fun t => (t.ctx p0).reg 5 == num 0 && (t.ctx p0).fcsr == 16) = true := by decide +kernel
/-- 06: round trips through binary32. -/
theorem test_round_trips : convertElem (tyOf 3) (tyOf 0) false 0xFF = 0xFFF00000 ∧ convertElem (tyOf 0) (tyOf 3) false 0xFFF00000 = 0xFF ∧
    convertElem (tyOf 4) (tyOf 0) false 0x7D = 0x7FA00000 ∧ convertElem (tyOf 0) (tyOf 4) false 0x7FA00000 = 0x7D ∧
    convertElem (tyOf 1) (tyOf 0) false 0xFF81 = 0xFF810000 ∧ convertElem (tyOf 0) (tyOf 1) false 0xFF810000 = 0xFF81 := by decide +kernel
/-- 06: the LC8 block. -/
def lcBlock : List Byte := [0x0F, 0x02, 0x40, 0x7A, 0x18, 0x06] ++ List.replicate 12 0 ++ [0x96, 0x77, 0x3F, 0x06] ++ List.replicate 10 0
theorem test_lc8 : lc8Len 0x0F 0x02 = some 32 ∧ ((lc8Block lcBlock).map fun l => (l.take 9).map fun v => fmtF64.put false v) =
    some [0x3FF0000000000000, 0x4008000000000000, 0xBFE4000000000000, 0x3FFE000000000000, 0x8000000000000000, 0x3FD2000000000000, 0x3F3C000000000000,
      0x3FF0000000000000, 0x3FF0000000000000] := by decide +kernel
/-- 06: the FP64 dot product in its defined order. -/
theorem test_fma_chain : [(0x3FF0000000000000, 0x4340000000000000), (0x3FF0000000000000, 0x3FF0000000000000), (0x3FF0000000000000, 0xC340000000000000),
    (0x3FF0000000000000, 0x3FF0000000000000)].foldl (fun c z => fmtF64.fmaW z.1 z.2 c) 0 = 0x3FF0000000000000 := by decide +kernel

/-- x8 a capability to the scratchpad, x9 a sealed one of type 3, x10 an untagged one, x6 = 3 and x7 = 16. -/
def shut : Reg := mkCap true (mkMeta perms 0 0 0x20000 3) 0
def sC (p : Party) (x6 : Nat) : State := with' p (rec' [(6, num x6), (7, num 16), (8, big), (9, shut), (10, capUntag big)])
theorem witness_CapabilityFieldsAndMoves : (sC p0 3).exeReady 5 [8] ∧ (sC p0 3).exeReady 5 [8, 9] ∧ (sC p0 3).gives 8 big (sC p0 3) ∧ (sC p0 3).src p0 9 = .val (shut, sC p0 3) :=
  ⟨by unfold State.exeReady; decide, by unfold State.exeReady; decide, rfl, rfl⟩
theorem test_capability_fields : leaves (.clen 5 8) (sC p0 3) 5 0x20000 = true ∧ leaves (.cperm 5 9) (sC p0 3) 5 0x303FF = true ∧ leaves (.csub 5 8 9) (sC p0 3) 5 1 = true := by decide +kernel
/-- 04: the widest capability. -/
theorem test_widest : capBase (mkCap true (mkMeta perms 44 0 0xFFFFF 0) 0x123456789ABC) = 0 ∧ capTop (mkCap true (mkMeta perms 44 0 0xFFFFF 0) 0x123456789ABC) = 0xFFFFF00000000000 := by decide +kernel

theorem witness_SealingAndDerivation : (sC p0 3).gives 8 big (sC p0 3) ∧ (sC p0 3).src p0 7 = .val (num 16, sC p0 3) ∧ ¬(capTag big = true ∧ capOtype big ≠ 0) ∧ (sC p0 3).exeReady 5 [8, 7] ∧
    (sC p0 3).exeReady 5 [8] ∧ (capTag shut = true ∧ capOtype shut ≠ 0) ∧ (sC sup0 3).cur.isSup = true ∧ (sC sup0 3).sealing sup0 3 = (true, sC sup0 3) ∧
    (sC sup0 0).sealing sup0 0 = (false, sC sup0 0) ∧ capOtype shut = BitVec.ofNat 7 3 ∧ capOtype big ≠ BitVec.ofNat 7 3 ∧ capTag (capUntag big) = false :=
  ⟨rfl, rfl, by decide, by unfold State.exeReady; decide, by unfold State.exeReady; decide, by decide, rfl, rfl, rfl, by decide, by decide, by decide⟩
theorem test_sealed : traps (.caddi 5 9 8) (sC p0 3) 6 9 = true ∧ traps (.ld 5 9 0) (sC p0 3) 6 0 = true := by decide +kernel
theorem test_seal_and_back : after (.cseal 5 8 6) (sC sup0 3) (fun t => (t.ctx sup0).reg 5 == shut) = true ∧ after (.cunseal 5 9 6) (sC sup0 3) (fun t => (t.ctx sup0).reg 5 == big) = true ∧
    traps (.cseal 5 8 6) (sC sup0 0) 7 6 = true := by decide +kernel
theorem test_tag_lost : after (.addi 5 8 16) (sC p0 3) (fun t => !capTag ((t.ctx p0).reg 5)) = true ∧ after (.caddi 5 8 16) (sC p0 3) (fun t => capTag ((t.ctx p0).reg 5)) = true := by decide +kernel

theorem witness_NarrowingNeverWidens : (sC p0 3).exeReady 5 [8, 7] ∧ (sC p0 3).gives 8 big (sC p0 3) ∧ (sC p0 3).src p0 7 = .val (num 16, sC p0 3) ∧ given (narrow true big 16 8) (fun v => capTop v == 16) = true ∧
    causes (narrow false shut 16 9) 6 9 = true ∧ capBase big ≤ ((capAddr big).toNat : Int) ∧ ((capAddr big).toNat : Int) + 0x20000 ≤ capTop big ∧
    capTop big < ((capAddr big).toNat : Int) + 0x20001 :=
  ⟨by unfold State.exeReady; decide, rfl, rfl, by decide +kernel, by decide +kernel, by decide, by decide, by decide⟩
theorem test_narrow : after (.cbnd 5 8 7) (sC p0 3) (fun t => capTop ((t.ctx p0).reg 5) == 16) = true ∧ traps (.cbnd 5 10 7) (sC p0 3) 5 10 = true := by decide +kernel

/-! ## Witnesses: the tag table, circular buffers, streams, vectors -/

/-- `n` bytes of a number at an offset of core 0's scratchpad. -/
def poke (off v n : Nat) (s : State) : State := s.writeAt 0 (bytesCells (spPlace 0 off) v n) false []

/-- A tag table: slot 0 holds key 3, slot 1 key 9 pinned, slot 2 another partition's; and one all of whose slots are pinned. -/
def table : Vector TagSlot 64 := ((Vector.replicate 64 ({} : TagSlot)).setIfInBounds 0 { key := 3, valid := true, age := 1 }).setIfInBounds 1
  { key := 9, valid := true, pin := 1 } |>.setIfInBounds 2 { key := 3, valid := true, part := 1, age := 2 }
def pinned : Vector TagSlot 64 := Vector.replicate 64 { valid := true, pin := 255 }
def sG (t : Vector TagSlot 64) (a b : Nat) : State :=
  let s := with' p0 (rec' [(6, num a), (7, num b), (8, capWithAddr big 0x40)])
  s.setCore 0 { s.core 0 with tagTable := t }
/-- Buffer 3: two slots of 64 bytes at 0x100, with some filled, free and held. -/
def ring (filled free held : BitVec 8) : Cb := { base := 0x100, ssz := 64, scnt := 2, filled := filled, free := free, held := held, pidx := 1, cidx := 1, valid := true }
def sCb (x : Cb) (issued : Nat) (cbput : Option (BitVec 4 × Nat)) : State :=
  let s := with' p0 { rec' [(8, capWithAddr big 0x40)] with issued := issued, cbput := cbput }
  s.setCore 0 ((s.core 0).setCb 3 x)
/-- The same with the descriptor of a buffer of two 64-byte slots at 0x100 stored at 0x40. -/
def sInit : State := poke 0x40 0x00020040_00000100 8 (sCb {} 0 none)
theorem witness_TagTableAndCircularBuffers :
    (sG table 3 0).inFiring ∧ (sG table 3 0).gives 6 (num 3) (sG table 3 0) ∧ (sG table 3 0).src p0 7 = .val (num 0, sG table 3 0) ∧
    (sG table 3 0).exeReady 5 [6, 7] ∧ (sG table 3 0).exeReady 5 [6] ∧ (sG table 3 0).exeReady 0 [6] ∧
    holds table 0 3 = some 0 ∧ holds table 0 4 = none ∧ victimOf table 0 = some 3 ∧ holds pinned 0 4 = none ∧ victimOf pinned 0 = none ∧
    (slotAt table 63).pin = 0 ∧ (slotAt table 0).valid = true ∧ (slotAt table 1).pin ≠ 255 ∧ (slotAt table 1).pin ≠ 0 ∧
    ((slotAt table 2).valid = true ∧ (slotAt table 2).part ≠ 0) ∧ (0 : Nat) ≠ 63 ∧ 64 ≤ (BitVec.toNat (64 : BitVec 64)) ∧
    sInit.gives 8 (capWithAddr big 0x40) sInit ∧ sInit.loadable p0 (capWithAddr big 0x40) 0x40 16 false (sp 0x40 16) ∧
    ((descCb ((sp 0x40 16).map (sInit.see p0))).isSome = true) ∧ sInit.fillPending 0 3 = false ∧
    ((sCb (ring 0 1 1) 0 none).core 0).cb 3 = ring 0 1 1 ∧ ((sCb (ring 0 1 1) 0 none).ctx p0).drained = ((sCb (ring 0 1 1) 0 none).ctx p0).issued ∧
    ((sCb (ring 0 1 1) 1 (some (3, 1))).ctx p0).drained ≠ ((sCb (ring 0 1 1) 1 none).ctx p0).issued ∧ ((sCb (ring 0 1 1) 1 (some (3, 1))).ctx p0).cbput = some (3, 1) ∧
    (ring 0 0 2).free = 0 ∧ (ring 1 1 0).filled ≠ 0 ∧ (ring 0 1 1).held ≠ 0 ∧ (ring 0 2 0).held = 0 ∧ (({} : Cb).valid = false) ∧
    (slotAt pinned 0).pin = 255 ∧ sS.cur.isSup = true := by
  unfold State.exeReady
  refine ⟨rfl, rfl, rfl, ?_⟩
  and_intros
  all_goals first | decide +kernel | rfl
theorem test_tag_lookup : leaves (.taglk 5 6) (sG table 9 0) 5 1 = true ∧ leaves (.taglk 5 6) (sG table 4 0) 5 (2 ^ 63 + 3) = true ∧ leaves (.taglk 5 6) (sG pinned 4 0) 5 (2 ^ 63 + 2 ^ 62) = true := by decide +kernel
theorem test_tag_insert : leaves (.tagins 5 6 7) (sG table 4 0) 5 1 = true ∧ traps (.tagins 5 6 7) (sG table 4 2) 0x14 2 = true := by decide +kernel
theorem test_buffer_init : after (.cbinit 3 8) sInit (fun t => ((t.core 0).cb 3) == { base := 0x100, ssz := 64, scnt := 2, free := 2, valid := true }) = true := by decide +kernel
theorem test_buffer_get : after (.cbget 5 3) (sCb (ring 1 1 0) 0 none) (fun t => (t.ctx p0).reg 5 == num 0x140 && ((t.core 0).cb 3).cidx == 0 && ((t.core 0).cb 3).held == 1) = true := by decide +kernel
theorem test_buffer_put_waits : after (.cbput 3) (sCb (ring 0 1 1) 1 none) (fun t => (t.ctx p0).pc == 0x100 && ((t.core 0).cb 3).filled == 0) = true ∧
    after (.cbput 3) (sCb (ring 0 1 1) 0 none) (fun t => (t.ctx p0).pc == 0x104 && ((t.core 0).cb 3).filled == 1 && ((t.core 0).cb 3).pidx == 0) = true := by decide +kernel

/-- Stream descriptors: an IN, an OUT and an INOUT of two windows from 0x200, and one with a DIR of 0. -/
def sd (dir : Nat) : BitVec 512 := BitVec.ofNat 512 (0x02000020 + dir + 2 ^ 64 * (64 * 2 ^ 32 + 2))
def sV (d : BitVec 512) (pos : Nat) (x : Ctx → Ctx) : State := with' p0 (x ((rec' [(6, num 0x40000000), (8, capWithAddr big 0x40)]).setStream 2 { desc := some d, pos := pos }))
/-- The first of the two blocks of a read of 64 bytes at 0x40 has been read; the descriptor stands in both. -/
def sBind (d : BitVec 512) : State :=
  let s := poke 0x40 d.toNat 64 (with' p0 (rec' [(8, capWithAddr big 0x40)]))
  s.mod p0 fun c => { c with part := (sp 0x40 32).map fun q => (q, s.cell 0 q) }
/-- Stream 2 with the bytes of its second window read, or all but one block. -/
def sWin (n : Nat) : State := (sV (sd 1) 1 id).mod p0 fun c => c.setStream 2
  { c.stream 2 with early := [(1, ((windowPlaces p0 (sd 1) 1).take n).map fun q => (q, 0x3F))] }
/-- v0 holds sixteen ones, v1 sixteen twos in single precision; k1 lets lanes 0 and 15 through. -/
def ones : BitVec 512 := BitVec.ofNat 512 ((List.range 16).foldl (fun a l => a + 0x3F800000 * 2 ^ (32 * l)) 0)
def twos : BitVec 512 := BitVec.ofNat 512 ((List.range 16).foldl (fun a l => a + 0x40000000 * 2 ^ (32 * l)) 0)
def sVec : State := sV (sd 1) 0 fun c => { c with v := (c.v.setIfInBounds 0 ones).setIfInBounds 1 twos, k := c.k.setIfInBounds 1 0x8001 }
theorem witness_StreamsAndVectorOperands : (sBind (sd 1)).inFiring ∧ (sBind (sd 1)).exeReady 0 [8] ∧ (sBind (sd 1)).gives 8 (capWithAddr big 0x40) (sBind (sd 1)) ∧
    checkCap false (capWithAddr big 0x40) 0x40 64 permLoad false = none ∧
    given (State.readBytes (sBind (sd 1)) (sBind (sd 1)) p0 .r 0x40 64) (fun x => BitVec.ofNat 512 (leNat x.1) == sd 1) = true ∧
    sdMalformed (sd 1) = false ∧ sdMalformed (sd 0) = true ∧
    sdFootprint (sd 1) = (0x200, 0x280) ∧ checkCap false (capWithAddr big 0x40) 0x200 0x80 permLoad false = none ∧
    ((sV (sd 1) 0 id).ctx p0).stream 2 = { desc := some (sd 1) } ∧ sdWindows (sd 1) = 2 ∧ sdDir (sd 2) = 2 ∧ sdDir (sd 3) = 3 ∧
    ((sV (sd 1) 0 id).ctx p0).stream 3 = {} ∧ (∃ e ∈ ((sV (sd 2) 0 fun c => c.store { stream := some 2 }).ctx p0).sb, e.stream = some 2) ∧
    (sV (sd 1) 1 id).windowFault p0 false (sdAddrs (sd 1) 1) = none ∧
    given (sVec.vecRead p0 0 { va := some 8, b := .vec 9, vd := some 10 }) (fun x => x.1.a == ones) = true ∧
    given (sVec.vecRead p0 0 { va := some 8, b := .scalar 6, vd := some 10 }) (fun x => x.1.x == 0x40000000) = true ∧
    ((sV (sd 1) 2 id).ctx p0).stream 2 ≠ {} ∧ (((sV (sd 1) 2 id).ctx p0).stream 2).live = false ∧ (((sV (sd 1) 1 id).ctx p0).stream 2).live = true ∧
    (((sWin 64).ctx p0).stream 2).blocksLeft p0 (sd 1) 1 = [] ∧ (((sWin 32).ctx p0).stream 2).blocksLeft p0 (sd 1) 1 ≠ [] ∧
    ((((sWin 64).ctx p0).stream 2).complete p0 (sd 1)).filled = true ∧
    (((sV (sd 2) 0 id).ctx p0).stream 2).desc = some (sd 2) ∧ ((sV (sd 2) 0 id).ctx p0).acc = [] ∧ ((sdAddrs (sd 2) 0).take 32).all (·.isSome) = true ∧
    ((sdAddrs (sd 2) 0).filterMap id).Nodup ∧ (List.replicate 8 (some 1) ++ List.replicate 8 (none : Option Nat)).length = 512 / 32 := by
  refine ⟨rfl, by unfold State.exeReady; decide, rfl, ?_⟩
  and_intros <;> decide +kernel
theorem test_bind : after (.wbind 2 8) (sBind (sd 1)) (fun t => ((t.ctx p0).stream 2).desc == some (sd 1)) = true ∧
    after (.wbind 2 8) (sBind (sd 0)) (fun t => ((t.ctx p0).stream 2).desc == none && ((t.ctx p0).stream 2).err) = true := by decide +kernel
theorem test_stream_ends : traps (.vmov 0 2 0 8) (sV (sd 1) 2 id) 0x0E 0 = true ∧ traps (.vmov 0 8 0 2) (sV (sd 1) 0 id) 0x0D 0 = true := by decide +kernel
/-- A stream whose current window Load steps have read whole, and one that lacks a block: only the first shows it (R260). -/
def sEarly (n : Nat) : Stream := { desc := some (sd 1), pos := 1, early := [(1, ((windowPlaces p0 (sd 1) 1).take n).map fun q => (q, 0x3F))] }
theorem witness_StreamsAndVectorOperands_settled : (sEarly 64).desc = some (sd 1) ∧ (sEarly 64).pos < sdWindows (sd 1) ∧ sdDir (sd 1) ≠ 2 ∧
    (sEarly 64).filled = false ∧ ((sEarly 64).early.find 1).isSome = true ∧ (sEarly 64).blocksLeft p0 (sd 1) 1 = [] ∧ (sEarly 32).blocksLeft p0 (sd 1) 1 ≠ [] ∧
    ((sEarly 64).settled p0).filled = true ∧ ((sEarly 32).settled p0).filled = false ∧
    (sWin 0).windowFault p0 false (sdAddrs (sd 1) 1) = none ∧ ((sV (sd 1) 3 id).windowFault p0 false (sdAddrs (sd 1) 1)) = none ∧
    (sEarly 64).early.getD 1 [] = (windowPlaces p0 (sd 1) 1).map (fun z => (z, (poke 0x240 (2 ^ 512 / 255 * 0x3F) 64 sA).see p0 z)) := by
  and_intros <;> decide +kernel
/-- A window is read once all its blocks are there, and the form waits until then. -/
theorem test_stream_fill : after (.vmov 0 2 0 8) (sWin 64) (fun t => ((t.ctx p0).stream 2).pos == 2 && (t.ctx p0).pc == 0x104 &&
      (t.ctx p0).vecVal 8 == BitVec.ofNat 512 (leNat (List.replicate 64 0x3F))) = true ∧
    after (.vmov 0 2 0 8) (sWin 32) (fun t => (t.ctx p0).pc == 0x100 && (t.ctx p0).vecVal 8 == 0) = true := by decide +kernel

theorem witness_VectorLaneResults : given (sVec.vecRead p0 (wordVadd 0 9 8 0 1 10 0) { va := some 8, b := .vec 9, vd := some 10 }) (fun _ => true) = true ∧
    given (sVec.vecRead p0 (wordVfma 0 6 8 1 0 9 0) { va := some 8, b := .scalar 6, vd := some 9, readVd := true }) (fun x => x.1.c == twos) = true := by decide +kernel
/-- Lanes of the clauses on values: −1 and 5 as INT8, 1.5 and −2 in BF16, a NaN, and a value that overflows. -/
theorem witness_VectorLaneResults_lanes : (0xFF : Nat) < 2 ^ 8 ∧ (5 : Nat) < 2 ^ 8 ∧ fmtBf16.num 0x3FC0 = .fin false 0xC0 (-7) ∧ fmtBf16.num 0xC000 = .fin true 0x80 (-6) ∧
    fmtBf16.isNan 0x7FC0 = true ∧ elemAdd (.i 8) true 0x7F 5 = 0x7F ∧ elemAdd (.f fmtBf16) false 0x3FC0 0xC000 = 0xBF00 ∧
    elemMinMax false (.f fmtBf16) 0x3FC0 0xC000 = 0xC000 ∧ elemAdd (.f fmtBf16) true 0x7F7F 0x7F7F = 0x7F7F ∧ elemAdd (.f fmtBf16) false 0x7F7F 0x7F7F = 0x7F80 := by decide +kernel
theorem test_vector_mask : after (.vadd 0 9 8 0 1 10 0) sVec (fun t => (lanesOf 32 ((t.ctx p0).vecVal 10)) == 0x40400000 :: List.replicate 14 0 ++ [0x40400000]) = true := by decide +kernel
theorem test_vector_scalar : after (.vmul 0 6 9 1 0 9 0) sVec (fun t => (lanesOf 32 ((t.ctx p0).vecVal 9)) == List.replicate 16 0x40800000) = true := by decide +kernel
theorem witness_VectorMaskReductionAndImmediateResults : given (sVec.vecRead p0 (wordVcmpEq 0 9 8 0 0 1) { va := some 8, b := .vec 9 }) (fun _ => true) = true ∧
    given (sVec.vecRead p0 (wordVredSum 0 8 0 10 0) { va := some 8, vd := some 10 }) (fun _ => true) = true ∧
    given (sVec.vecRead p0 (wordVsplat 0x3FC0 0 8) { vd := some 8 }) (fun _ => true) = true ∧ (List.replicate 2 0).length ∈ [2, 4, 8, 16, 32, 64] := by decide +kernel
theorem test_reduction : after (.vredSum 0 8 0 10 0) sVec (fun t => (lanesOf 32 ((t.ctx p0).vecVal 10)) == 0x41800000 :: List.replicate 15 0) = true := by decide +kernel
theorem test_vector_compare : after (.vcmpLt 0 9 8 0 1 2) sVec (fun t => (t.ctx p0).k.toList.getD 2 0 == 0x8001) = true := by decide +kernel
theorem test_vector_immediate : after (.vaddi 0x3FC0 0 8) sVec (fun t => (lanesOf 32 ((t.ctx p0).vecVal 8)) == List.replicate 16 0x40200000) = true := by decide +kernel

/-! ## Witnesses: messages, firings, launches, matrix forms -/

/-- Class 4: valid, pinned to die 0 and cluster 0, port 0 a count port of one, port 1 a counter port of one; and class 5, a sheet class. -/
def desc4 : BitVec 512 := BitVec.ofNat 512 (0x1000 + 2 ^ 128 * 5 + 2 ^ 144 * 6 + 2 ^ 192 * 4 + 2 ^ 208 + 2 ^ 219 * 2 + 2 ^ 345 + 2 ^ 383)
def desc5 : BitVec 512 := BitVec.ofNat 512 (0x2000 + 2 ^ 192 * 5 + 2 ^ 219 * 2 + 2 ^ 222 + 2 ^ 345 + 2 ^ 383)
/-- Class 6: an address class with a count port of one, homed where its key's page is. -/
def desc6 : BitVec 512 := BitVec.ofNat 512 (0x3000 + 2 ^ 128 * 5 + 2 ^ 192 * 6 + 2 ^ 219 + 2 ^ 383)
/-- A machine whose die 0 holds the three in its tables. -/
def withTables (s : State) : State :=
  s.setDev { s.dev with tables := [(0, (List.range 8).map (fun i => (256 + 8 * i, desc4.extractLsb' (64 * i) 64)) ++
    (List.range 8).map (fun i => (320 + 8 * i, desc5.extractLsb' (64 * i) 64)) ++
    (List.range 8).map fun i => (384 + 8 * i, desc6.extractLsb' (64 * i) 64))] }
/-- x6 is a key, x7 a route word for class 4, x4 the class 9 that is not there, x8 a capability; x12 to x15 a message for sendb. -/
def regsM : List (BitVec 5 × Reg) := [(4, num 9), (6, num 77), (7, num 4), (8, cap 0 0x20000), (11, num 3), (12, num 77), (13, num 4), (14, cap 0 0x20000)]
def sMsg (p : Party) (f : Ctx → Ctx) : State := withTables (with' p (f (rec' regsM)))
/-- Core 0 with something changed. -/
def at0 (s : State) (f : Core → Core) : State := s.setCore 0 (f (s.core 0))
def fullOut : List OutItem := List.replicate 16 (.carry { kind := .carry })
theorem witness_MessagesAreSent : (sMsg p0 id).gives 6 (num 77) (sMsg p0 id) ∧ (sMsg p0 id).src p0 7 = .val (num 4, sMsg p0 id) ∧ (sMsg p0 id).exeReady 5 [6, 7] ∧
    ((sMsg p0 id).core 0).outq.length < 16 ∧ 16 ≤ ((at0 (sMsg p0 id) fun k => { k with outq := fullOut }).core 0).outq.length ∧
    routeRefusal ((sMsg p0 id).readDesc 0 0 4).1 4 0 = none ∧ ((sMsg p0 id).readDesc 0 0 4).2.homeOf 0 desc4 0 4 77 = .at 0 0 0 ∧
    routeRefusal ((sMsg p0 id).readDesc 0 0 9).1 9 0 = some 0x20 ∧ (num 4 |> capAddr).extractLsb' 27 37 = 0#37 ∧ (num (2 ^ 27) |> capAddr).extractLsb' 27 37 ≠ 0#37 ∧
    (num 0xFFFF |> capAddr).setWidth 16 = 0xFFFF#16 ∧ (sMsg sup0 id).cur.isSup = true ∧ (sMsg p0 id).exeReady 5 [] ∧
    ((sMsg p0 id).readDesc 0 0 6).2.homeOf 0 desc6 0 6 0xDEAD0000 = .unmapped ∧ routeRefusal desc6 6 0 = none ∧
    ((sMsg p0 id).ctx p0).awaits payloadRegs = false ∧ ((sMsg p0 id).ctx p0).awaits (xsRegs 3) = false ∧ checkCap false (cap 0 0x20000) 0 48 permLoad false = none ∧
    (let s := sMsg p0 fun c => { c with part := (sp 0 32).map fun q => (q, 0) }
     given (State.readBytes s s p0 .r 0 48) (fun x => x.1.length == 48) = true) ∧ capAddr ((sMsg p0 id |>.ctx p0).reg 15) = 0 := by
  unfold State.exeReady State.gives
  refine ⟨rfl, rfl, ?_⟩
  and_intros <;> decide +kernel
/-- The page of an address key is held as not mapped, or is not held. -/
def sUnmapped : State := (sMsg p0 id).setDev { (sMsg p0 id).dev with pages := [(0, [{ part := 0, base := 0xDEAD0000, size := 0x10000 }])] }
theorem witness_MessagesAreSent_addressKeys : (sMsg p0 id).homeMissing desc6 0 0xDEAD0000 = some 0xDEAD0000 ∧ sUnmapped.homeMissing desc6 0 0xDEAD0000 = none ∧
    routeRefusal desc6 6 0 = none ∧ sUnmapped.homeOf 0 desc6 0 6 0xDEAD0000 = .unmapped ∧ (sMsg p0 id).homeMissing desc4 0 77 = none := by
  and_intros <;> decide +kernel
theorem test_send_waits_for_its_page : after (.send 5 6 7) (sMsg p0 fun c => (c.setReg 6 (num 0xDEAD0000)).setReg 7 (num 6))
    (fun t => (t.ctx p0).pc == 0x100 && (t.core 0).outq == [] && (t.die 0).walks.map (·.page) == [0xDEAD0000]) = true := by decide +kernel
theorem test_send : after (.send 5 6 7) (sMsg p0 id) (fun t => ((t.core 0).outq.map fun i => match i with
    | .msg m (.home d e c) _ h => m.key == 77 && m.cls == 4 && payWord m.pay 1 == 3 && d == 0 && e == 0 && c == 0 && !h
    | _ => false) == [true]) = true := by decide +kernel
theorem test_send_refused : after (.send 5 6 4) (sMsg p0 id) (fun t => (t.core 0).outq == [] && (t.ctx p0).pc == 0x104) = true ∧
    traps (.send 5 6 8) (sMsg p0 fun c => c.setReg 8 (num (2 ^ 27))) 0x26 8 = true := by decide +kernel

/-- A firing of class 4 with one message not yet taken. -/
def inFire (sheet : Bool) (l : List Message) : State :=
  at0 (sMsg p0 fun c => { c.setReg 7 (num 1) with firing := { sheet := sheet, cls := 4, key := 77, desc := desc4, untaken := l } }) fun k =>
    { k with actors := [{ cls := 4, key := 77, desc := desc4, running := true }] }
theorem witness_FiringForms : (inFire false [{}]).inFiring ∧ (inFire false [{}]).exeReady 5 [] ∧ ((inFire false [{}]).ctx p0).firing.untaken = {} :: [] ∧
    ((inFire false []).ctx p0).firing.untaken = [] ∧ (inFire false []).exeReady 0 [] ∧ (inFire false []).opsQueued p0 = false ∧ ((inFire false []).ctx p0).deferred = [] ∧
    ((inFire true []).ctx p0).firing.sheet = true ∧ (inFire false []).exeReady 0 [7] ∧ (inFire false []).gives 0 0 (inFire false []) ∧
    (capAddr (0 : Reg)).toNat < counterCount desc4 ∧ (inFire false []).gives 7 (num 1) (inFire false []) ∧ counterCount desc4 ≤ (capAddr (num 1)).toNat ∧
    (((inFire false []).core 0).actor (0, 4, 77)).isSome = true ∧ ((inFire false []).ctx p0).acc = [] ∧ ((inFire false []).ctx p0).reportsSeq = false ∧
    ((inFire false [{}]).ctx p0).awaits payloadRegs = false ∧ sS.exeReady 5 [] ∧ sS.exeReady 0 [6] ∧ sS.gives 6 (num 3) sS ∧ sS.cur.isSup = true := by
  unfold State.exeReady State.gives
  refine ⟨rfl, ?_⟩
  and_intros
  all_goals first | decide +kernel | rfl
theorem test_mpop : after (.mpop 5) (inFire false [{ hdr := 9, pay := 42 }]) (fun t => (t.ctx p0).reg 5 == num 9 && (t.ctx p0).reg 10 == num 42 && (t.ctx p0).firing.untaken == []) = true ∧
    leaves (.mpop 5) (inFire false []) 5 (2 ^ 64 - 1) = true := by decide +kernel
theorem test_done : after .done (inFire false []) (fun t => (t.ctx p0).run == .ending) = true ∧ traps .bank (inFire true []) 0x27 0 = true := by decide +kernel

/-- x4 to x7: a range record of class 4 and depth 1; x12 to x15: a carry to offset 32 with the code at 64. -/
def sLau (f : Ctx → Ctx) (g : Core → Core) : State := at0 (with' p0 (f (rec' [(4, num (4 + 2 ^ 20 + 3 * 2 ^ 40)), (5, num 100),
  (12, capWithAddr (regionCap 0x3FF 0 0x20000) 32), (13, capWithAddr (regionCap 0x3FF 0 0x20000) 64), (14, num 1), (15, num 2)]))) g
/-- A pool with every record in use. -/
def fullPool : Map LaunchRec := (List.range' 0 4096).map fun i => (i, {})
theorem find_in_run (r : LaunchRec) (n : Nat) : ∀ b i : Nat, b ≤ i → i < b + n → Map.find ((List.range' b n).map fun i => (i, r)) i = some r := by
  induction n with
  | zero => intro b i h1 h2; omega
  | succ n ih =>
    intro b i h1 h2
    simp only [List.range'_succ, List.map_cons, Map.find]
    split
    · rfl
    · exact ih (b + 1) i (by omega) (by omega)
theorem full_pool_of (d : Die) (h : ∀ i < 4096, (d.pool.find i).isNone = false) : d.freeRecord 1 = none := by
  have h1 : (List.range 3136).find? (fun n => (d.pool.find n).isNone) = none := List.find?_eq_none.mpr fun x hx => by
    have := List.mem_range.mp hx
    simp only [h x (by omega), Bool.false_eq_true, not_false_eq_true]
  have h2 : ((List.range 64).map fun i => 3136 + 64 * (1 - 1) + i).find? (fun n => (d.pool.find n).isNone) = none :=
    List.find?_eq_none.mpr fun x hx => by
      obtain ⟨y, hy, rfl⟩ := List.mem_map.mp hx
      have := List.mem_range.mp hy
      simp only [h _ (by omega : 3136 + 64 * (1 - 1) + y < 4096), Bool.false_eq_true, not_false_eq_true]
  unfold Die.freeRecord
  simp only [h1, h2, Nat.one_ne_zero, if_false]
theorem full_pool_has_no_room : Die.freeRecord { pool := fullPool } 1 = none :=
  full_pool_of _ fun i hi => by
    have e := find_in_run {} 4096 0 i (Nat.zero_le i) (by omega)
    exact congrArg Option.isNone e
theorem witness_LaunchAndCarryForms : (sLau id id).exeReady 8 [] ∧ ((sLau (fun c => { c with fdep := 15 }) id).ctx p0).fdep = 15 ∧
    recMalformed (capAddr (((sLau id id).ctx p0).reg 4)) = false ∧ recDepth (capAddr (((sLau id id).ctx p0).reg 4)) = ((sLau id id).ctx p0).fdep + 1 ∧
    recCsrc (capAddr (((sLau id id).ctx p0).reg 4)) = 0 ∧ ((sLau id id).die 0).freeRecord 1 = some 0 ∧
    Die.freeRecord { pool := fullPool } 1 = none ∧
    ((sLau id id).core 0).quire.length < 256 ∧ 256 ≤ ((sLau id fun k => { k with quire := List.replicate 256 {}, qovf := 2 ^ 48 }).core 0).quire.length ∧
    ((sLau id fun k => { k with quire := List.replicate 256 {}, qovf := 2 ^ 48 }).core 0).quireOvf.length < ((sLau id fun k => { k with quire := List.replicate 256 {}, qovf := 2 ^ 48 }).core 0).quireRoom ∧
    ((sLau id fun k => { k with quire := List.replicate 256 {} }).core 0).quireRoom ≤ 0 ∧ (sLau id id).gives 5 (num 100) (sLau id id) ∧ (sLau id id).exeReady 8 [5, 0] ∧
    (sLau id id).src p0 0 = .val (0, sLau id id) ∧ ((sLau id id).ctx p0).firing.sheet = false ∧
    (sLau id id).reaches p0 (((sLau id id).ctx p0).reg 12) 32 32 (permLoad ||| permStore) .rw (sp 32 32) ∧
    checkCap false (((sLau id id).ctx p0).reg 13) 64 24 (permLoad ||| permExec) false = none ∧ ((sLau id id).ctx p0).awaits (xsRegs 1) = false ∧
    given (State.readBytes (sLau id id) (sLau id id) p0 .r 64 24) (fun x => x.1.length == 24) = true ∧ windowPlace p0 32 = some (spPlace 0 32) ∧ 16 ≤ ((sLau id fun k => { k with outq := fullOut }).core 0).outq.length :=
  ⟨by unfold State.exeReady; decide, rfl, by decide +kernel, by decide +kernel, by decide +kernel, by decide +kernel, full_pool_has_no_room, by decide +kernel, by decide +kernel, by decide +kernel,
    by decide +kernel, rfl, by unfold State.exeReady; decide, rfl, rfl, ⟨by decide +kernel, rfl⟩, by decide +kernel, by decide +kernel, by decide +kernel, by decide +kernel, by decide +kernel⟩
theorem test_spawn : leaves (.spawn 8 1) (sLau id id) 8 0 = true ∧ leaves (.spawn 8 1) (sLau (fun c => { c with fdep := 15 }) id) 8 2 = true := by decide +kernel
theorem test_shpush : after (.shpush 8 1) (sLau id id) (fun t => ((t.core 0).quire.map fun y => y.d1) == [100] && (t.ctx p0).reg 8 == num 0) = true := by decide +kernel
theorem test_carry : after (.carry 0 3) (sLau id id) (fun t => ((t.core 0).outq.map fun i => match i with
    | .carry o => o.addr == spPlace 0 32 && o.owner == 0
    | _ => false) == [true] && (t.ctx p0).pc == 0x104) = true := by decide +kernel

/-- Two rings of two filled slots of 2,048 bytes, buffers 1 and 2; tile 4 in format F32; x6 the operand word of 16 rows of them; x9 a capability
to a deckle of rank 1 and extent 5 at 0x40. -/
def ring2 : Cb := { base := 0x1000, ssz := 2048, scnt := 2, filled := 2, valid := true }
def sMat (f : Ctx → Ctx) (g : Core → Core) : State :=
  let s := with' p0 (f { rec' [(6, num 0x1021), (7, num 0), (8, cap 0 0x20000), (9, capWithAddr (cap 0 0x20000) 0x40), (10, num 8)] with fmtA := 6, fmtB := 6 })
  poke 0x40 (16 + 2 ^ 64 * 5) 64 (at0 s fun k => g ((k.setCb 1 ring2).setCb 2 ring2))
/-- The same with bytes read already by a form that takes its blocks in turn. -/
def sRead (off n : Nat) : State := (sMat id id).mod p0 fun c => { c with part := (sp off n).map fun q => (q, 0) }
/-- The same at the eighth arrival at the cluster's barrier, and in a member of a gang that it leads. -/
def seven : MGang := { atBarrier := (List.range 7).map fun i => (i + 1, 5 * (i + 1), 0) }
def sGang (g : MGang) (m : Bool) : State :=
  let s := sMat (fun c => { c with gangMember := m }) id
  s.setClu 0 { s.clu 0 with gang := g }
def nop (n : Nat) : MOp := { kind := .mzero, seq := n, tiles := [4], md := 4 }
theorem given_val {α : Type} {t : Tri α} {f : α → Bool} (h : given t f = true) : ∃ a, t = .val a ∧ f a = true := by
  unfold given at h
  split at h
  · exact ⟨_, rfl, h⟩
  · cases h
/-- What has been read of some places leaves the blocks of the others. -/
theorem blocks_left_of_rest (xs ys : List Nat) : blocksLeft (xs.map fun q => (q, (0 : Byte))) (xs ++ ys) = blocksLeft (xs.map fun q => (q, 0)) ys := by
  have h : xs.filter (fun q => !(xs.map fun q => (q, (0 : Byte))).any fun x => x.1 == q) = [] :=
    List.filter_eq_nil_iff.mpr fun q hq => by simp [hq]
  unfold blocksLeft
  rw [List.filter_append, h, List.nil_append]
/-- A read goes on once the bytes not yet read lie in one block. -/
theorem read_ends (s : State) (p : Party) (a n : Nat) (xs ys : List Nat) (v : Nat) (h : s.reach p .r a n = .val (xs ++ ys))
    (h2 : s.unpoisoned p a (xs ++ ys) = .val ()) (e : (s.ctx p).acc = []) (b : (s.ctx p).part = xs.map fun q => (q, 0))
    (c : blocksLeft (xs.map fun q => (q, (0 : Byte))) ys = [v]) : ∃ x, State.readBytes s s p .r a n = .val x := by
  unfold State.readBytes
  rw [h]
  simp only [Tri.bind, h2, State.gather, e, List.isEmpty_nil, Bool.not_true, Bool.false_eq_true, if_false]
  rw [b, blocks_left_of_rest, c]
  simp only [Tri.val.injEq, exists_eq']
theorem given_eq {α : Type} [DecidableEq α] {t : Tri α} {a : α} (h : given t (fun x => decide (x = a)) = true) : t = .val a := by
  obtain ⟨b, rfl, e⟩ := given_val h
  rw [of_decide_eq_true e]
theorem tile_part : ((sRead 0 992).ctx p0).part = (sp 0 992).map fun q => (q, 0) := by simp only [sRead, State.mod_ctx]
theorem tile_bytes : ∃ x, State.readBytes (sRead 0 992) (sRead 0 992) p0 .r 0 1024 = .val x :=
  read_ends _ p0 0 1024 (sp 0 992) (sp 992 32) (blockOf (spPlace 0 992)) (given_eq (by decide +kernel)) (given_eq (by decide +kernel)) (by decide +kernel) tile_part (by decide +kernel)
theorem witness_MatrixFormsAtIssue : (sMat id id).inFiring ∧ (sMat id id).gives 6 (num 0x1021) (sMat id id) ∧ (sMat id id).src p0 7 = .val (num 0, sMat id id) ∧
    (sMat id id).exeReady 0 [7] ∧ (sMat id id).exeReady 0 [] ∧ (sMat id id).exeReady 0 [6, 7] ∧ (sMat id id).exeReady 5 [9, 7] ∧
    (sMat id id).gives 7 (num 0) (sMat id id) ∧ (sMat id id).gives 8 (cap 0 0x20000) (sMat id id) ∧ checkCap false (cap 0 0x20000) 0 1024 permLoad false = none ∧
    (∃ x, State.readBytes (sRead 0 992) (sRead 0 992) p0 .r 0 1024 = .val x) ∧
    8 ≤ ((sMat id fun k => { k with mq := List.replicate 8 (nop 0) }).core 0).mq.length ∧ ((sMat id id).core 0).mq.length < 8 ∧
    (((sMat id id).core 0).issueTiles.getD 4 {}).acc = 0 ∧ mwBad 0x1021 = false ∧ mwRows 0x1021 = 16 ∧ (((sMat id id).core 0).cb (mwAring 0x1021).toNat).valid = true ∧
    (((sMat id id).core 0).cb (mwBring 0x1021).toNat).valid = true ∧ (matClass (cfgFmt 6) (cfgFmt 6)).isSome = true ∧ (matClass (cfgFmt 6) (cfgFmt 8)).isNone = true ∧
    lineNeed 6 32 ≤ ring2.pitch ∧ ((sGang { members := [(0, 0)] } true).clu 0).gang.lead = some p0.ix ∧ ((sGang { members := [(0, 0)] } true).ctx p0).gangMember = true ∧
    seven.atBarrier.length = 7 ∧ (∀ x ∈ seven.atBarrier, x.1 ≠ 0 ∧ x.2.2 = ((sGang seven false).ctx p0).partid) ∧ seven.formed = false ∧
    ((sGang { members := [(0, 5)] } true).clu 0).gang.lead ≠ some p0.ix ∧ (sMat id id).gives 9 (capWithAddr (cap 0 0x20000) 0x40) (sMat id id) ∧
    (let c := capWithAddr (cap 0 0x20000) 0x40
     let s := sRead 96 32
     given (State.readDeckle s s p0 c) (fun x => !dkMalformed x.1 && dkRank x.1 == 1 && given (State.extent s x.2 p0 c 64 x.1 0) (fun y => y.1 == 5) &&
       given (State.extentProduct s x.2 p0 c 64 x.1 1) (fun y => y.1 == 5)) = true) := by
  unfold State.exeReady State.gives
  refine ⟨rfl, rfl, rfl, ?_⟩
  and_intros
  all_goals first | exact tile_bytes | decide +kernel | rfl
theorem test_mma_enters : after (.mma 4 6 7) (sMat id id) (fun t => ((t.core 0).mq.map fun o => (o.md.toNat, o.rows, o.first)) == [(4, 16, true)] && (t.ctx p0).pc == 0x104) = true ∧
    traps (.mma 4 6 7) (sMat (fun c => { c with fmtB := 8 }) id) 0x30 0x86 = true := by decide +kernel
theorem test_gang_forms : after .mgang (sGang seven false) (fun t => (t.clu 0).gang.formed && (t.ctx p0).gangMember && (t.ctx p0).pc == 0x104 && (t.clu 0).gang.members.length == 8) = true := by decide +kernel
theorem test_dkl : leaves (.dkl 5 9 7) (sRead 96 32) 5 5 = true ∧ leaves (.dkl 5 9 10) (sRead 96 32) 5 5 = true := by decide +kernel

/-! ## Witnesses: matrix operations, drains, the selection engine, supervisor forms, commands -/

/-- A queue of one operation, started or not. -/
def sOp (o : MOp) (f : Core → Core) : State := sMat id fun k => f { k with mq := [o] }
def opOf (k : MKind) (st : Bool) : MOp := { kind := k, md := 4, tiles := [4], started := st, aring := 1, bring := 2, rows := 16, stores := 0, conf := { fmtA := 6, fmtB := 6 } }
def poisonTile (k : Core) : Core := { k with tiles := [(4, { poison := true, live := true, acc := 0 })] }
/-- The gang of core 0 alone, whose first operation waits to start. -/
def sGo : State :=
  let s := at0 (sGang { formed := true, members := [(0, 0)] } true) fun k => { k with mq := [opOf (.mmag 0 1) false] }
  s.mod p0 fun c => { c with gangCount := 1 }
/-- The B ring without a filled slot; and the slots that the parts of the gang's operation may take, taken. -/
def emptyRing (k : Core) : Core := k.setCb 2 { ring2 with filled := 0, free := 2 }
def slotsOf (s : State) : State := ((List.range 8).map fun i => 0 * 8 + i).foldl (fun s core => s.setCore core ((s.core core).takeNext core)) s
theorem witness_MatrixOperations :
    (∀ x ∈ [MKind.tcfg 2, .mzero, .mload 5], ((sOp (opOf x false) id).core 0).nextOp = some (opOf x false) ∧ ((sOp (opOf x true) id).core 0).mq = opOf x true :: []) ∧
    ((sOp (opOf .mma false) id).core 0).nextOp = some (opOf .mma false) ∧ (opOf .mma false).aslot = none ∧ (opOf .mma false).stores ≤ ((sOp (opOf .mma false) id).ctx p0).drained ∧
    ((sOp { opOf .mma false with stores := 1 } id).ctx p0).drained < 1 ∧ (((sOp (opOf .mma false) id).core 0).cb 1).canGet .matrix = true ∧
    (((sOp (opOf .mma false) id).core 0).cb 2).canGet .matrix = true ∧ (((sOp (opOf .mma true) poisonTile).core 0).tiles.getD 4 {}).poison = true ∧
    (opOf .mma true).first = false ∧ (({} : Tile).acc ≠ 3#2) ∧ sGo.nextGangOp 0 = some (0, 1) ∧ sGo.allIssued 0 0 1 = true ∧
    ((List.range 8).filterMap (fun i => ((sGo.core i).gangPart 0 1).map fun o => (i, o))) = [(0, opOf (.mmag 0 1) false)] ∧
    ((sGo.core 0).nextOp.map (·.seq)) = some 0 ∧ (((slotsOf sGo).core 0).gangPart 0 1).any (fun x => x.aslot.isSome && x.bslot.isSome && x.seq == 0) = true ∧
    (((slotsOf (at0 sGo emptyRing)).core 0).gangPart 0 1).any (fun x => x.aslot.isSome && x.bslot.isNone) = true ∧
    ((emptyRing ((sOp (opOf .mma false) id).core 0)).cb 2).canGet .matrix = false ∧ ((sMat id id).ctx p0).deferred = [] ∧ ((sMat id id).ctx p0).reportsSeq = false ∧
    (sMat id id).exeReady 0 [] ∧ (sMat id id).opsQueued p0 = false ∧ ((sMat (fun c => { c with deferred := [{ cause := 0x34, addr := 0x80, tile := 4 }] }) id).ctx p0).deferred ≠ [] ∧
    (sOp (opOf .mzero false) id).opsQueued p0 = true ∧ (∀ o ∈ ((sOp (opOf .mzero false) id).core 0).mq, (5 : BitVec 5).toNat ∉ o.tiles) := by
  unfold State.exeReady
  and_intros <;> decide +kernel
/-- The lead's part of a gang operation at the head of core 0's queue, started, with and without what the lead has read. -/
def sLeadOp (v : Option Nat) (stores : Nat) : State := at0 (sOp { opOf (.mmag 0 1) true with akstep := v, acells := v.map fun _ => [], stores := stores } poisonTile) id
theorem witness_MatrixOperations_gang : ((sOp (opOf .mma false) id).core 0).slotOp = some (opOf .mma false) ∧ ((sOp (opOf .mzero false) id).core 0).slotOp = none ∧
    ((emptyRing ((sOp (opOf .mma false) id).core 0)).cb 2).canGet .matrix = false ∧ ((((sOp (opOf .mma false) id).core 0).setCb 1 { ring2 with filled := 0, free := 2 }).cb 1).canGet .matrix = false ∧
    ((sLeadOp none 1).core 0).gangPart 0 1 = some { opOf (.mmag 0 1) true with stores := 1 } ∧ ((sLeadOp none 1).ctx p0).drained < 1 ∧
    (sLeadOp (some 3) 0).leadRead { opOf (.mmag 0 1) true with akstep := some 3, acells := some [] } 0 1 = some (3, []) ∧
    (((sLeadOp (some 3) 0).core 0).tiles.getD 4 {}).poison = true ∧ ((sLeadOp (some 3) 0).core 0).mq = { opOf (.mmag 0 1) true with akstep := some 3, acells := some [] } :: [] := by
  and_intros <;> decide +kernel
theorem test_mma_takes_slots : after (.matrixOpStart c0) (sOp (opOf .mma false) id) (fun t => ((t.core 0).mq.map fun o => (o.started, o.aslot)) == [(true, some 0x1000)] &&
    ((t.core 0).cb 1).filled == 1 && ((t.core 0).cb 1).held == 1) = true := by decide +kernel
theorem test_tcfg_retires : after (.matrixOpRetire c0 0) (sOp (opOf (.tcfg 2) true) id) (fun t => ((t.core 0).tiles.getD 4 {}).acc == 2 && ((t.core 0).tiles.getD 5 {}).acc == 3 && (t.core 0).mq == []) = true := by decide +kernel
theorem test_msync : traps .msync (sMat (fun c => { c with deferred := [{ cause := 0x34, addr := 0x80, tile := 4 }] }) id) 0x34 0x80 = true := by decide +kernel
theorem test_mchk : leaves (.mchk 5 4) (at0 (sMat id id) poisonTile) 5 12 = true := by decide +kernel

/-- Tile 4 holds 1.5 at row 0, column 1; x7 is the word of a drain of one row to BF16. -/
def sDr : State := at0 (with' p0 (rec' [(7, num (6 + 2 ^ 33)), (8, cap 0 0x20000)])) fun k => { k with tiles := [(4, { data := 0x3FC00000 <<< 32, live := true })] }
/-- The column 1, 2, −1, 0.5 at 0x1000, its descriptor at 0x80, and the engine as that descriptor loads it. -/
def selDesc : BitVec 512 := BitVec.ofNat 512 (8 + 4 * 2 ^ 16 + 2 ^ 128 * 0x1000 + 2 ^ 192 * (capMeta big).toNat)
def sSel0 (k : Sel) : State :=
  let s := with' p0 (rec' [(6, num 1), (7, num 0), (8, capWithAddr big 0x80)])
  let s1 := poke 0x1000 0x3F000000_BF800000_40000000_3F800000 16 (poke 0x80 selDesc.toNat 64 s)
  (s1.writeAt 0 [(tagPlace (spPlace 0 0x90), 1)] false []).setSel p0 k
/-- The same with the column's block read by the form at the pc. -/
def sSel (k : Sel) : State := (sSel0 k).mod p0 fun c => { c with part := (sp 0x1000 32).map fun q => (q, (sSel0 k).cell 0 q) }
def loaded : Sel := ({} : Sel).load p0.ix selDesc fun _ => false
/-- The engine at its last plane, with its walk begun. -/
def walked : Sel := { loaded with pl := 0, undo := some loaded.toSelFields }
/-- The first block of the descriptor has been read, with the tag of the column's capability. -/
def sSelRead (k : Sel) : State :=
  let s := sSel0 k
  s.mod p0 fun c => { c with part := (tagPlace (spPlace 0 0x90) :: sp 0x80 32).map fun q => (q, s.cell 0 q) }
theorem witness_DrainsAndSelection : sDr.inFiring ∧ sDr.gives 8 (cap 0 0x20000) sDr ∧ sDr.src p0 7 = .val (num (6 + 2 ^ 33), sDr) ∧ sDr.exeReady 0 [8, 7] ∧
    (∀ o ∈ (sDr.core 0).mq, (4 : BitVec 5).toNat ∉ o.tiles) ∧ (epType (6 + 2 ^ 33)).isSome = true ∧ epStrm (6 + 2 ^ 33) = false ∧ epTapen (6 + 2 ^ 33) = false ∧ epBias (6 + 2 ^ 33) = false ∧
    epRows (6 + 2 ^ 33) = 1 ∧ ((sDr.core 0).tiles.getD 4 {}).acc ≠ 3#2 ∧ ((sDr.core 0).tiles.getD 4 {}).poison = false ∧ sDr.storable p0 (cap 0 0x20000) 0 32 permStore false (sp 0 32) ∧
    (sSel loaded).sel p0 = loaded ∧ loaded.holder = some p0.ix ∧ loaded.pl ≠ 0 ∧ (sSel loaded).exeReady 5 [6, 7] ∧ (sSel loaded).exeReady 5 [6] ∧ (sSel loaded).exeReady 5 [] ∧
    (sSel loaded).selFault p0 selDesc loaded.cands loaded.cands = none ∧ (sSel loaded).selFault p0 selDesc [] [] = none ∧ blocksLeft ((sSel loaded).ctx p0).part (selPlaces p0 selDesc loaded.cands loaded.cands) = [] ∧
    blocksLeft ((sSel0 loaded).ctx p0).part (selPlaces p0 selDesc loaded.cands loaded.cands) ≠ [] ∧ loaded.keepOnes = none ∧ ({ loaded with keepOnes := some false } : Sel).keepOnes = some false ∧ ((sSel loaded).ctx p0).acc = [] ∧ (sDr.ctx p0).acc = [] ∧
    (sDr.ctx p0).deferred = [] ∧ loaded.undo = none ∧ loaded.outside 0 4 = true ∧ loaded.outside 0 1 = false ∧ walked.pl = 0 ∧ walked.undo ≠ none ∧ (sSel loaded).gives 6 (num 1) (sSel loaded) ∧ (sSel loaded).src p0 7 = .val (num 0, sSel loaded) ∧
    (capAddr (num 1)).toNat < 2 ∧ (sSel {}).sel p0 = {} ∧ (sSel {}).exeReady 0 [8] ∧ (sSel {}).gives 8 (capWithAddr big 0x80) (sSel {}) ∧
    given (State.selChecks (sSelRead {}) (sSelRead {}) p0 (capWithAddr big 0x80)) (fun x => x.1 == selDesc && x.2.selFault p0 selDesc (selReads selDesc) [] == none) = true ∧
    selN selDesc ≤ 65536 ∧ selNanin selDesc = true ∧ ({ loaded with holder := some 3 } : Sel).holder = some 3 ∧ 3 ≠ p0.ix ∧ (∀ y ∈ loaded.claims, y.1 ≠ p0.ix) ∧
    (∃ y ∈ ({ loaded with holder := some 3, claims := [(p0.ix, selDesc)] } : Sel).claims, y.1 = p0.ix) ∧ ({ loaded with granted := some selDesc } : Sel).granted = some selDesc ∧
    ((sSel { claims := [(2, selDesc)] }).clu 0).sel.holder = none ∧ ((sSel { claims := [(2, selDesc)] }).clu 0).sel.claims = (2, selDesc) :: [] := by
  unfold State.exeReady State.storable
  refine ⟨rfl, rfl, rfl, ?_⟩
  and_intros
  all_goals first | decide +kernel | rfl
theorem witness_SelectionWalk : selN loaded.desc ≤ 65536 ∧ loaded.pl ≠ 0 ∧ loaded.pl ≤ 64 ∧ loaded.cands = [0, 1, 2, 3] ∧
    (∀ i ∈ loaded.cands, ∀ b, loaded.pl ≤ b → b < 64 → ((fun i : Nat => i) i).testBit b = loaded.pfx.getLsbD b) ∧
    loaded.below ≤ (1 : BitVec 64).toNat ∧ (1 : BitVec 64).toNat < loaded.below + loaded.cands.length ∧ loaded.above ≤ (1 : BitVec 64).toNat ∧
    (1 : BitVec 64).toNat < loaded.above + loaded.cands.length := by
  and_intros <;> decide +kernel
theorem test_drain : after (.mdrain 4 8 7) sDr (fun t => (t.ctx p0).pc == 0x104 && (t.peek 0 (spPlace 0 2) 2 == 0x3FC0 || t.see p0 (spPlace 0 3) == 0x3F)) = true := by decide +kernel
theorem test_select : leaves (.selstep 5) (sSel loaded) 5 1 = true ∧ after (.selrun 5 6 7) (sSel loaded) (fun t => (t.sel p0).keepOnes == some true && (t.sel p0).pl == 32 && (t.sel p0).lz == 1 && (t.ctx p0).pc == 0x100) = true ∧
    after (.selrun 5 6 7) (sSel { loaded with keepOnes := some true }) (fun t => (t.sel p0).cands == [0, 1, 3] && (t.sel p0).pl == 31 && (t.ctx p0).pc == 0x100) = true ∧
    leaves (.selrun 5 6 7) (sSel walked) 5 0 = true := by decide +kernel
theorem witness_DrainsAndSelection_granted :
    (let s := sSel { holder := some p0.ix, granted := some selDesc }
     (s.sel p0).holder = some p0.ix ∧ (s.sel p0).granted = some selDesc ∧ s.selFault p0 selDesc (selReads selDesc) [] = none ∧
      blocksLeft (s.ctx p0).part (selPlaces p0 selDesc (selReads selDesc) []) = []) ∧
    (let d := selDesc - 8
     blocksLeft ((sSel0 { holder := some p0.ix, granted := some d }).ctx p0).part (selPlaces p0 d (selReads d) []) ≠ [] ∧
      (sSel0 { holder := some p0.ix, granted := some d }).selFault p0 d (selReads d) [] = none) ∧
    (sSel loaded).selFault p0 selDesc [] (loaded.out ((sSel loaded).selKey p0 selDesc) true) = none := by
  and_intros <;> decide +kernel
theorem test_selld : after (.selld 8) (sSel { holder := some p0.ix, granted := some selDesc }) (fun t => (t.sel p0).cands == [0, 1, 2, 3] && (t.sel p0).pl == 32 &&
    (t.ctx p0).pc == 0x104) = true := by decide +kernel
theorem test_select_refused : traps (.selstep 5) (sSel {}) 0x36 0 = true := by decide +kernel

/-- A supervisor core in its handler; x6 an invalidation of partition 0 on the die, x7 a probe of the first hearth entry. -/
def sSup (h : Bool) (x6 : Nat) (issued : Nat) : State := with' sup0 { rec' [(6, num x6), (7, num (2 ^ 60))] with handler := h, epc := 0x200, issued := issued }
/-- An entry of cluster 3 whose actor's home is gone. -/
def movedHome (s : State) : State := (withTables s).setClu 3 { s.clu 3 with hearth := [(0, { cls := 6, key := 5, state := .live })] }
theorem witness_SupervisorForms : (sSup true 0x20001 0).exeReady 0 [] ∧ (sSup true 0 0).cur.isSup = true ∧ ((sSup true 0 0).ctx sup0).handler = true ∧ ((sSup false 0 0).ctx sup0).handler = false ∧
    sA.cur.isSup = false ∧ sA.exeReady 0 [6, 7] ∧ (sSup true 0x20001 0).exeReady 0 [6, 7] ∧ (sSup true 0x20001 0).gives 6 (num 0x20001) (sSup true 0x20001 0) ∧
    (sSup true 0x20001 0).src sup0 7 = .val (num (2 ^ 60), sSup true 0x20001 0) ∧ invOk 0x20001 = true ∧ invOk 0x10001 = false ∧ invKind 0x20002 = 2 ∧
    (sSup true 0x20001 0).released (((sSup true 0x20001 0).ctx sup0).releaseAt sup0.ix 2) = true ∧ (sSup true 0x20001 1).released (((sSup true 0x20001 1).ctx sup0).releaseAt sup0.ix 2) = false ∧
    (movedHome (sSup true 0x20001 0)).handoverPending 0 = true ∧ (sSup true 0x20001 0).handoverPending 0 = false ∧ (sSup true 0x20001 0).exeReady 5 [6] ∧
    (num 0x20001 |> capAddr).extractLsb' 52 12 = 0 ∧ (num (2 ^ 60) |> capAddr).extractLsb' 20 44 = 0x10000000000#44 ∧ 3 ≤ ((num (3 * 2 ^ 60) |> capAddr).extractLsb' 60 4).toNat :=
  ⟨by unfold State.exeReady; decide, rfl, rfl, rfl, rfl, by unfold State.exeReady; decide, by unfold State.exeReady; decide, rfl, rfl, by decide, by decide, by decide, by decide +kernel,
    by decide +kernel, by decide +kernel, by decide +kernel, by unfold State.exeReady; decide, by decide, by decide, by decide⟩
theorem test_xret : after .xret (sSup true 0 0) (fun t => (t.ctx sup0).pc == 0x200 && !(t.ctx sup0).handler) = true ∧ traps .xret sA 1 0x502B = true := by decide +kernel
theorem witness_SupervisorForms_homes : ((movedHome (sSup true 0x20001 0)).renewHomes 0x20001 (2 ^ 60) 0).handoverPending 0 = true ∧
    ((sSup true 0x20001 0).renewHomes 0x20001 (2 ^ 60) 0).handoverPending 0 = false ∧ (sSup true 0x10001 0).gives 6 (num 0x10001) (sSup true 0x10001 0) := by
  refine ⟨by decide +kernel, by decide +kernel, rfl⟩
theorem test_atinv : after (.atinv 6 7) (at0 (sSup true 0x20001 0) fun k => { k with utlb := [{ part := 0 }, { part := 1 }] }) (fun t => (t.core 0).utlb.length == 1 && (t.ctx sup0).pc == 0x104) = true ∧
    after (.atinv 6 7) (sSup true 0x20001 1) (fun t => (t.ctx sup0).pc == 0x100) = true := by decide +kernel

/-- Core 0 with a command of a code and two operands, its context 0 in a run state. -/
def sCmd (r : RunState) (code a b : Nat) (f : Core → Core) : State :=
  at0 (with' p0 { rec' regs0 with run := r, epc := 0x300 }) fun k =>
    f { k with cmds := [{ cls := 0xFFFF, pay := mkPay (BitVec.ofNat 64 code) (BitVec.ofNat 64 a) (BitVec.ofNat 64 b) 0 0 0 }] }
/-- The same with the actor of class 4 and key 77 in entry 0 of cluster 0, pinned or not. -/
def sAct (code : Nat) (pin : Bool) : State :=
  let m : Message := { pay := mkPay (BitVec.ofNat 64 code) 0 4 77 0 0 }
  let s := sCmd .idle code 0 0 fun k => { k with cmds := [m], actors := [{ cls := 4, key := 77, desc := desc4, pin := pin }] }
  s.setClu 0 { s.clu 0 with hearth := [(0, { cls := 4, key := 77, state := .live, pin := pin })] }
/-- A pre-empted core with an image of nothing, and with a saved firing of a partition, or of one that held the engine. -/
def sBack (l : List SavedFiring) (e : Option SelFields) : State :=
  sCmd .idle 1 0 0 fun k => { k with preempted := true, image := some { sel := e }, saved := l }
def oneSaved (part : BitVec 8) : SavedFiring := { ctx := { partid := part } }
theorem witness_CommandsAndPreemption : (∀ z ∈ [2, 3, 6, 7, 0, 1], ((sCmd .parked z 5 9 id).core 0).cmds.length = 1 ∧
      (((sCmd .parked z 5 9 id).core 0).cmds.map fun m => (payWord m.pay 0).toNat) = [z]) ∧
    ((sCmd .parked 2 5 9 id).ctx p0).run = .parked ∧ ((sCmd .idle 2 5 9 id).ctx p0).run ≠ .parked ∧ (5 : BitVec 5) ≠ 0 ∧ (5 : BitVec 5) ≠ 28 ∧ (5 : BitVec 5) ≠ 29 ∧
    (∀ z ∈ [4, 5], ((sAct z false).clu 0).entryOf (0, 4, 77) = some (0, { cls := 4, key := 77, state := .live })) ∧ (((sAct 4 true).clu 0).entryOf (0, 4, 77)).map (fun x => x.2.pin) = some true ∧
    (sCmd .idle 0 0 0 id).preemptSet c0 = [c0] ∧ (sCmd .idle 0 0 0 id).stops c0 = true ∧
    (sCmd .ending 0 0 0 id).stops c0 = false ∧ ((sCmd .idle 0 0 0 id).core 0).preempted = false ∧
    ((sCmd .idle 0 0 0 fun k => { k with preempted := true }).core 0).preempted = true ∧ ((sCmd .idle 0 0 0 id).core 0).gangReserved = none ∧
    ((sCmd .idle 1 0 0 id).core 0).image = none ∧
    ((sBack [] none).core 0).image = some {} ∧ ((sBack [] none).core 0).preempted = true ∧ (sBack [] none).gangAvailable c0 = true ∧
    ((sBack [] none).readImages 0 0 {}).2.length = 0 ∧ ((sBack [oneSaved 0] none).readImages 0 0 {}).2.length = 1 ∧
    (((sBack [oneSaved 0] none).readImages 0 0 {}).2.map fun x => (sBack [oneSaved 0] none).seatFor c0 x) = [some 0] ∧
    ((sBack [oneSaved 0] none).readImages 0 0 {}).1.sel = none ∧ ((sBack [oneSaved 0] none).clu 0).sel.holder = none ∧
    (let s := (sBack [{ oneSaved 0 with sel := some {} }] none).setClu 0 { ({} : Cluster) with sel := { holder := some 9 } }
     ((s.readImages 0 0 {}).2.map (·.sel.isSome)) = [true] ∧ (s.clu 0).sel.holder ≠ none ∧ s.gangAvailable c0 = true) ∧
    (((sBack [oneSaved 0] none).readImages 0 0 {}).2.map (·.num)) = [0] ∧ ((sSel loaded).clu 0).sel.holder ≠ none ∧
    (let s := at0 (sBack [] none) fun k => { k with gangReserved := some 7 }
     (s.setCore 1 { s.core 1 with gangReserved := some 7, preempted := true }).gangAvailable c0) = false := by
  and_intros <;> decide +kernel
theorem test_retry : after (.retry c0) (sCmd .parked 2 0 0 id) (fun t => (t.ctx p0).run == .running && (t.ctx p0).pc == 0x300 && (t.core 0).cmds == []) = true := by decide +kernel
theorem test_setreg : after (.setreg c0) (sCmd .parked 7 5 9 id) (fun t => (t.ctx p0).reg 5 == mkCap false 0 9) = true := by decide +kernel
theorem test_preempt : after (.preempt c0) (sCmd .running 0 0 0 id) (fun t => (t.core 0).preempted && (t.core 0).diverting && (t.ctx p0).run == .idle && (t.core 0).saved.length == 1) = true := by decide +kernel

/-! ## Witnesses: copy requests, memory steps, deliveries, inboxes -/

/-- x4 to x7: a copy of 64 bytes from 0x100 to 0x200; x12 the same word with a bit that op 0 may not have; x8 the number 1. -/
def sCopy (x4 : Nat) (f : Core → Core) : State := at0 (with' p0 (rec' [(4, num x4), (5, capWithAddr (cap 0 0x20000) 0x100), (6, capWithAddr (cap 0 0x20000) 0x200), (8, num 1)])) f
def w64 : Nat := 64 * 2 ^ 32
def rq (op w3 rel : Nat) : Request :=
  { w0 := BitVec.ofNat 64 (op + w64), src := capWithAddr (cap 0 0x20000) 0x100, dst := capWithAddr (cap 0 0x20000) 0x200, w3 := num w3, seq := 3, rel := { point := rel },
    cls := 4, key := 77 }
/-- The oldest request reads its target record at acceptance, in a page that the engine has not translated. -/
def newPend (s : State) (r : Request) : Pending := { engine := s.engineFor r, req := r, id := s.dev.opSeq + 1, len := reqLen r.w0, far := false, farDev := reqDev r.w0 }
theorem witness_CopyRequests_acceptance : (sCopy w64 id).acceptMissing (newPend (sCopy w64 id) (rq 0 0 0)) = none ∧
    (sCopy w64 id).acceptMissing (newPend (sCopy w64 id) { rq 4 0 0 with w3 := cap 0x50000 64 }) = some 0x50000 := by
  and_intros <;> decide +kernel
theorem witness_CopyRequests : (sCopy w64 id).exeReady 9 [8] ∧ (sCopy w64 id).exeReady 9 [] ∧ (sCopy w64 id).gives 8 (num 1) (sCopy w64 id) ∧
    reqMalformed (BitVec.ofNat 64 w64) 0 = false ∧ reqMalformed (BitVec.ofNat 64 (7 + w64)) 0 = true ∧ reqStamp (BitVec.ofNat 64 w64) = false ∧ reqTgt (BitVec.ofNat 64 w64) = false ∧
    reqOp (BitVec.ofNat 64 w64) ≠ 5 ∧ checkCap false (capWithAddr (cap 0 0x20000) 0x100) 0x100 64 (permLoad ||| permCopy) false = none ∧
    checkCap false (capWithAddr (cap 0 0x20000) 0x200) 0x200 64 (permStore ||| permCopy) false = none ∧ reqDev (BitVec.ofNat 64 w64) = 0 ∧
    given ((sCopy w64 id).checkRequest p0 1) (fun _ => true) = true ∧ ((sCopy w64 id).core 0).fifo.length < 8 ∧
    8 ≤ ((sCopy w64 fun k => { k with fifo := List.replicate 8 (rq 0 0 0) }).core 0).fifo.length ∧
    ((sCopy w64 fun k => { k with fifo := [rq 0 0 0] }).core p0.coreIx).fifo = rq 0 0 0 :: [] ∧ reqDev (rq 0 0 0).w0 = (sCopy w64 id).dev.num ∧
    (sCopy w64 id).released (rq 0 0 1).rel = false ∧ (sCopy w64 id).released (rq 0 0 0).rel = true ∧ reqTgt (rq 0 0 0).w0 = false ∧ reqOp (rq 0 0 0).w0 ≠ 4 ∧
    1 ≤ ((sCopy w64 fun k => { k with nextSeq := 2 }).core 0).nextSeq ∧ ((sCopy w64 id).ctx p0).awaits (xsRegs 1) = false := by
  unfold State.exeReady State.gives
  and_intros
  all_goals first | decide +kernel | rfl
theorem test_cpost : after (.cpost 9 1) (sCopy w64 id) (fun t => (t.ctx p0).reg 9 == num 1 && ((t.core 0).fifo.map fun r => (r.seq, r.core)) == [(1, 0)] && (t.core 0).nextSeq == 2) = true ∧
    traps (.cpostNb 9 1) (sCopy (7 + w64) id) 0x18 0 = true := by decide +kernel
theorem test_cstat : leaves (.cstat 9 8) (sCopy w64 fun k => { k with nextSeq := 2, status := [(1, 1)] }) 9 1 = true ∧ leaves (.cstat 9 8) (sCopy w64 id) 9 3 = true := by decide +kernel

/-- The engine of cluster 0 with one request, whose source bytes are 1 to 64; buffer 3 of core 0 is a ring of two slots. -/
def sEng (q : Pending) : State :=
  let s := poke 0x100 (leNat ((List.range 64).map fun i => BitVec.ofNat 8 (i + 1))) 64 (withTables (with' p0 (rec' [])))
  at0 (s.setDev { s.dev with engines := [q] }) fun k => k.setCb 3 (ring 0 1 0)
def eng0 : EngineId := .clu 0 0
def pq (op w3 : Nat) : Pending := { req := rq op w3 0, id := 1, len := 64, unread := [(0, 64)], unwritten := [(0, 64)] }
def four : List Byte := [1, 2, 3, 4]
/-- A pending CBFILL of buffer 3, whose slot is granted and full; a stamp whose payload is written; an ordered contribution whose bytes are read, and staged. -/
def fillQ : Pending := { pq 6 3 with slot := some 0, unread := [], unwritten := [] }
def stampQ : Pending := { pq 0x80 0 with unread := [], unwritten := [], req := { rq 0x80 0 0 with w3 := capWithAddr (cap 0 0x20000) 0x300 } }
def ordQ (n : Nat) (staged : Bool) : Pending :=
  { pq 0x203 0 with
    req := { rq 0x203 0x10000 0 with w0 := BitVec.ofNat 64 (0x203 + n * 2 ^ 32) }, len := n, unread := [], unwritten := [(0, n)], staged := staged }
/-- Its group staged, of `count` ranks, in one state before and in another while it is applied. -/
def sOrd (count : Nat) (begun : Bool) : State :=
  let s := sEng (ordQ 4 true)
  s.setDie 0 { s.die 0 with staged :=
    [{ req := 1, group := 0, dest := spPlace 0 0x200, rank := 0, count := count, w0 := (ordQ 4 true).req.w0, bytes := four, begun := begun }] }
/-- The places of `n` bytes that a request reaches, all in memory. -/
def finds (q : Pending) (need : Need) (a n : Nat) (qs : List Nat) : Bool :=
  (sEng q).engMissing q a n == none && (sEng q).engReach q need a n == (qs.map some, none) && !qs.isEmpty && qs.all (homeDie · == 0) &&
    qs.all fun z => (sEng q).cell 0 (poisonPlace z) == 0
/-- A request of 32 bytes that has read nothing, four bytes read, and four that have passed their checks; a reduction with one element read. -/
def fresh32 : Pending := { pq 0 0 with len := 32, unread := [(0, 32)], unwritten := [(0, 32)] }
def moving : Pending := { pq 0 0 with unread := [(4, 64)], chunks := [(0, four)] }
def checked : Pending := { pq 0 0 with unread := [(4, 64)], checkedTo := 4, ready := [(0, 4, (sp 0x200 4).zip four)] }
def adding : Pending := { pq 3 0 with unread := [(4, 64)], chunks := [(0, four)] }
/-- A request whose source lies in a page that no engine has translated. -/
def unheld : Pending := { pq 0 0 with req := { rq 0 0 0 with src := cap 0x50000 64 } }
/-- A write of the reduction's first byte that die 1 has and die 0 lacks. -/
def sLate : State := let s := sEng adding; s.setDie 1 { s.die 1 with view := { (s.die 1).view with ord := [(spPlace 0 0x200, 5)] } }
theorem next_read_of_32 (v : Nat) : fresh32.nextRead v = some (0, 32) := by
  have h : ∀ x < 32, (spanAt fresh32.readSpans x).map (fun (x, lo, hi) => fresh32.chunkAt x lo hi) = some (0, 32) := by decide +kernel
  have e : (fresh32.readSpans.map fun (a, b) => b - a).sum = 32 := by decide +kernel
  unfold Pending.nextRead
  simp only [e]
  exact h _ (Nat.mod_lt _ (by decide))
theorem witness_CopyStepsAndEndings : (sEng fresh32).pend eng0 0 = some fresh32 ∧ fresh32.err = none ∧ fresh32.role = .own ∧ fresh32.far = false ∧ fresh32.arrival = none ∧
    (∀ v, fresh32.nextRead v = some (0, 32)) ∧ fresh32.srcAt 0 = 0x100 ∧ finds fresh32 .r 0x100 32 (sp 0x100 32) = true ∧ moving.finishing = false ∧ moving.op = 0 ∧
    (sEng unheld).engMissing unheld 0x50000 32 = some 0x50000 ∧ 0 < fresh32.elem ∧ (∃ y ∈ fresh32.unread, y.1 ≤ 31 ∧ 31 < y.2) ∧
    (sEng moving).toCheck moving = [(0, four)] ∧ moving.ready = [] ∧ finds moving .w 0x200 4 (sp 0x200 4) = true ∧ (sEng checked).toCheck checked = [] ∧
    checked.ready = [(0, 4, (sp 0x200 4).zip four)] ∧ fresh32.ready.length + ((sEng fresh32).toCheck fresh32).length = 0 ∧
    adding.op = 3 ∧ reqOrdred adding.req.w0 = false ∧ adding.wrote = 0 ∧ meets adding.unread 0 adding.elem = false ∧ piecesAt adding.chunks 0 adding.elem = four ∧
    (sEng adding).elemsCurrent adding (adding.dstAt 0) 4 = true ∧
    sLate.elemsCurrent adding (adding.dstAt 0) 4 = false ∧ finds adding .w 0x200 4 (sp 0x200 4) = true ∧
    (sEng fillQ).fillBuffer fillQ = some (0, 3, ring 0 1 0) ∧ fillQ.slot = some 0 ∧ fillQ.slotBase < min fillQ.len (fillQ.slotBase + (ring 0 1 0).ssz.toNat) ∧
    meets fillQ.unwritten 0 64 = false ∧ fillQ.finishing = false ∧
    stampQ.stampHere = true ∧ stampQ.payloadDone = true ∧ stampQ.role = .own ∧ stampQ.finishing = false ∧ (sEng stampQ).seenEverywhere stampQ.writes = true ∧
    (sEng stampQ).seenEverywhere [(1000, 5)] = false ∧ finds stampQ .w 0x300 8 (sp 0x300 8) = true := by
  and_intros
  all_goals first | exact next_read_of_32 | decide +kernel
theorem witness_CopyStepsAndEndings_ordered :
    (ordQ 0 false).op = 3 ∧ reqOrdred (ordQ 0 false).req.w0 = true ∧ (ordQ 0 false).unread = [] ∧ (sEng (ordQ 0 false)).engMissing (ordQ 0 false) ((ordQ 0 false).dstAt 0) 1 = none ∧
    (sEng (ordQ 0 false)).unitPlace 0 0 false 0 (ordQ 0 false).unit .w ((ordQ 0 false).dstAt 0) = .at (spPlace 0 0x200) ∧ ((sEng (ordQ 0 false)).die 0).group 0 (spPlace 0 0x200) = [] ∧
    rankOf 0x10000 < rankCount 0x10000 ∧ (((sEng (ordQ 0 false)).die 0).staged.map fun x => x.bytes.length).sum + (ordQ 0 false).len ≤ Config.stagingBytes 0 ∧
    (ordQ 4 true).staged = true ∧ (((sOrd 1 false).die 0).staged.map (·.req)).Nodup ∧ ((sOrd 1 false).die 0).whole 0 (spPlace 0 0x200) = [] ∧
    ((((sOrd 1 false).die 0).group 0 (spPlace 0 0x200)).find? fun x => x.rank == 0).map (·.count) = some 1 ∧
    (∀ r < 1, ∃ x ∈ ((sOrd 1 false).die 0).group 0 (spPlace 0 0x200), x.rank = r) ∧
    ((((sOrd 2 false).beginGroup 0 0 (spPlace 0 0x200)).die 0).whole 0 (spPlace 0 0x200) = []) ∧
    (nextRank ((((sOrd 1 true).beginGroup 0 0 (spPlace 0 0x200)).die 0).whole 0 (spPlace 0 0x200))).map (·.req) = some 1 ∧
    ((sOrd 1 true).dev.engines.find? fun y => y.id == 1) = some (ordQ 4 true) ∧ (sOrd 1 true).engMissing (ordQ 4 true) ((ordQ 4 true).dstAt 0) 4 = none ∧
    (sOrd 1 true).elemsCurrent (ordQ 4 true) ((ordQ 4 true).dstAt 0) 4 = true ∧
    (match (sOrd 1 true).reduceElem (ordQ 4 true) (ordQ 4 true).writes 0 four with | .inr _ => true | .inl _ => false) = true := by
  and_intros
  all_goals first | exact Nat.le_trans (Nat.le_of_eq (by decide +kernel : _ = 0)) (Nat.zero_le _) | decide +kernel
theorem witness_CopyStepsAndEndings_ends : { pq 4 0 with unwritten := [] }.op = 4 ∧ { pq 4 0 with unwritten := [] }.payloadDone = true ∧
    routeRefusal ((sEng (pq 0 0)).readDesc 0 0 4).1 4 (pq 0 0).completion.hdr = none ∧ (sEng (pq 0 0)).homeOf 0 desc4 0 4 77 = .at 0 0 0 ∧
    ((sEng (pq 0 0)).readDesc 0 0 4).2.homeMissing desc4 0 77 = none ∧ ((sEng (pq 0 0)).readDesc 0 0 6).2.homeMissing desc6 0 0xDEAD0000 = some 0xDEAD0000 ∧
    { pq 0 0 with finishing := true }.finishing = true ∧ reqNotify { pq 0x40 0 with finishing := true }.req.w0 = true ∧ (pq 0x40 0).silent = false := by
  and_intros <;> decide +kernel
theorem test_engines_ask_for_walks : after (.reduceElement eng0 0) (sEng { adding with req := { rq 3 0 0 with dst := cap 0x50000 64 } })
    (fun t => (t.die 0).walks.map (fun r => (r.page, r.units)) == [(0x50000, [adding.tlbKey])]) = true := by decide +kernel
theorem test_copy_moves : (let t := (sEng moving).installOne moving 0
    t.peek 0 (spPlace 0 0x200) 4 == 0x04030201 && (t.dev.engines.map fun p => p.unwritten) == [[(4, 64)]]) = true := by decide +kernel
theorem test_reduce : after (.reduceElement eng0 0) (sEng { adding with req := { rq 3 0 0 with w0 := BitVec.ofNat 64 (3 + 3 * 2 ^ 28 + w64), dst := capWithAddr (cap 0 0x20000) 0x100 } })
    (fun t => t.peek 0 (spPlace 0 0x100) 4 == 0x08060402 && (t.dev.engines.map fun p => p.wrote) == [4]) = true := by decide +kernel
theorem test_notify : after (.notify eng0 0) (sEng { pq 0x40 0 with finishing := true }) (fun t => (t.dev.unitMsgs.map fun u => (u.m.key.toNat, hdrSub u.m.hdr, hdrKind u.m.hdr)) == [(77, 1, 3)] &&
    t.dev.engines == [] && (t.core 0).status.find 3 == some 1) = true := by decide +kernel

/-- A store of HBM that waits to drain; a carry channel from die 0 to die 1 with two entries of different cells; page 0x20000 asked for; the four kinds of channel. -/
def sHbm : State := with' p0 { rec' regs0 with sb := [{ cells := [(0x40, 7)] }], issued := 1 }
def sChan : State := sHbm.setDie 0 { sHbm.die 0 with carry := [(1, [{ cells := [(0x40, 1)], ord := 1 }, { cells := [(0x80, 2)], ord := 2, release := true, prior := [(0x40, 1)] }])] }
def sWalk : State :=
  let s := with' p0 { rec' regs0 with walk := some (0, 0x20008) }
  s.setDie 0 { s.die 0 with walks := [{ part := 0, page := 0x20000, cores := [0] }] }
def msg4 : Message := { cls := 4, key := 77 }
def sOut (i : OutItem) : State := at0 (withTables (with' p0 (rec' []))) fun k => { k with outq := [i] }
def sHost : State :=
  let s := at0 (sMsg p0 id) fun k => { k with actors := [{ cls := 4, key := 77, desc := desc4 }] }
  s.setClu 0 { s.clu 0 with toHost := [(0, [.msg msg4])] }
/-- A message of another die's core at the head of a channel, with a write that its release names. -/
def sFarHead (ord : Nat) : State :=
  let s := sHost.setClu 0 { sHost.clu 0 with toHost := [(0, [.msg { msg4 with origin := 2048, prior := [(0x40, 1)] }])] }
  (List.range 8).foldl (fun s d => s.setDie d { s.die d with view := { (s.die d).view with ord := [(0x40, ord)] } }) s
theorem witness_MemoryStepsAndDeliveries_origin : dieOfCore 2048 ≠ 0 ∧ (sFarHead 0).seenEverywhere [(0x40, 1)] = false ∧ (sFarHead 1).seenEverywhere [(0x40, 1)] = true ∧
    (let s := sWalk.setDie 0 { sWalk.die 0 with walks := [{ part := 0, page := 0x20000, cores := [0], units := [3] }] }
     (s.die 0).walks = { part := 0, page := 0x20000, cores := [0], units := [3] } :: []) := by
  and_intros <;> decide +kernel
theorem test_message_waits_for_its_release : after (.deliver (.hosted 0 c0)) (sFarHead 0) (fun t => ((t.clu 0).toHost.getD 0 []).length == 1) = true ∧
    after (.deliver (.hosted 0 c0)) (sFarHead 1) (fun t => ((t.clu 0).toHost.getD 0 []).length == 0) = true := by decide +kernel
theorem witness_MemoryStepsAndDeliveries : (sHbm.ctx p0).sb = { cells := [(0x40, 7)] } :: [] ∧ (sA.ctx p0).sb = [] ∧
    ((sChan.die 0).carry.getD 1 [])[0]? = some { cells := [(0x40, 1)], ord := 1 } ∧ (0 : Fin 8) ≠ 1 ∧
    ((((sChan.die 0).carry.getD 1 [])[1]?).map fun e => e.prior.all fun x => x.2 ≤ (sChan.die 1).view.ord.getD x.1 0) = some false ∧
    (sWalk.die 0).walks = { part := 0, page := 0x20000, cores := [0] } :: [] ∧ (sWalk.ctx p0).walk = some (0, 0x20008) ∧
    ((sOut (.msg msg4 (.home 0 0 0) {} false)).core 0).outq = .msg msg4 (.home 0 0 0) {} false :: [] ∧ sA.released { point := 1 } = false ∧ sA.released {} = true ∧
    (sA.die 0).failed = false ∧ sA.homeTakes 0 msg4 = true ∧ msg4.sender = none ∧ ((sOut (.carry { kind := .carry })).core 0).outq = .carry { kind := .carry } :: [] ∧
    (sA.core 0).inboxCount < 64 ∧ ((sHost.clu 0).toHost.getD 0 []) = .msg msg4 :: [] ∧ (sHost.core 0).diverting = false ∧ ((sHost.core 0).actor msg4.name).isSome = true ∧
    descJrnl desc4 = false ∧ portKind desc4 0 ≠ 3 ∧ hdrKind msg4.hdr ≠ 1 ∧ msg4.item = none ∧
    (let u : UnitMsg := { m := msg4, dest := .home 0 0 0 }
     (sA.setDev { sA.dev with unitMsgs := [u] }).dev.unitMsgs[0]? = some u ∧ u.rel = none ∧ u.unit < 700000) := by
  decide +kernel
theorem test_drain_and_carry : after (.drain p0) sHbm (fun t => (t.die 0).view.mem == [(0x40, 7)] && (t.die 1).view.mem == [] && (t.ctx p0).sb == [] &&
    ((t.die 0).carry.getD 3 []).length == 1) = true ∧
    after (.carryDelivery 0 1 0) sChan (fun t => (t.die 1).view.mem == [(0x40, 1)] && ((t.die 0).carry.getD 1 []).length == 1) = true ∧
    after (.carryDelivery 0 1 1) sChan (fun t => (t.die 1).view.mem == [] && ((t.die 0).carry.getD 1 []).length == 2) = true := by decide +kernel
theorem test_deliveries : after (.deliver (.out p0)) (sOut (.msg msg4 (.home 0 0 0) {} false)) (fun t => (t.clu 0).homeQ == [.msg msg4] && (t.core 0).outq == []) = true ∧
    after (.deliver (.hosted 0 c0)) sHost (fun t => ((t.core 0).actors.map fun a => (a.count, (a.port 0).q.length)) == [(1, 1)]) = true := by decide +kernel

/-- Carried code at the head of core 0's inbox: done alone, and an addition and done; a message that waits for its journal entry; a full inbox. -/
def carried (ws : BitVec 192) : Op :=
  { kind := .carry, addr := spPlace 0 32, va := 32, owner := 0, size := 32, issuer := p0.ix, id := 7, reply := true, pay := 5#64 ++ 4#64 ++ 9#64 ++ ws }
def codeDone : BitVec 192 := 0x0E00002B
def codeAdd : BitVec 192 := 0x0E00002B_00C585B3
def sJour : State :=
  let s := at0 sA fun k => { k with actors := [{ cls := 4, key := 77, desc := desc4, unjournalled := [msg4] }] }
  s.setDev { s.dev with tables := [(256, [(0x100008, 2 ^ 48), (0x100018, 2 ^ 63)])], bank := [{ store := 0, cls := 4, key := 77 }] }
def packed (k : Core) : Core := { k with heldSince := some 0, cyc := 5000, opInbox := List.replicate 64 { kind := .barrd }, outq := [.carry { kind := .carry, owner := 9 }] }
/-- The runs of the two codes end at done. -/
def finishes (ws : BitVec 192) (v : Nat) : Bool :=
  let o := carried ws
  let s1 := (((sO o).took c0 o).mod (.handler c0) fun x => x.startCarried o)
  match runCarried (.handler c0) { s1 with cur := .handler c0 } 0 ((List.range 6).map fun i => o.pay.extractLsb' (32 * i) 32) with
  | .finished s2 => capAddr ((s2.ctx (.handler c0)).reg 11) == BitVec.ofNat 64 v
  | _ => false
theorem witness_InboxEvents : (sO (carried codeDone)).opHead 0 = some (carried codeDone) ∧ (sO (carried codeDone)).holdsLast 0 (span (spPlace 0 32) 32) = true ∧
    (carried codeDone).pay.extractLsb' 0 32 = 0x0E00002B#32 ∧ finishes codeDone 9 = true ∧ finishes codeAdd 13 = true ∧
    (((sJour.core 0).actors.filter fun x => x.unjournalled != []).find? sJour.journalRoom).isSome = true ∧ ((sJour.bankStore 0).2.bankOf 0 (0, 4, 77)).isSome = true ∧
    (let s := { sJour with dev := { sJour.dev with bank := [] } }
     (((s.core 0).actors.filter fun x => x.unjournalled != []).find? s.journalRoom) = none ∧ (((s.core 0).actors.find? fun a => !s.fullReported a).isSome = true)) ∧
    (let k := (at0 sA fun k => { k with diverting := true, spill := [msg4] }).core 0
     k.preempted = false ∧ k.diverting = true ∧ k.spill = msg4 :: [] ∧ k.inboxCount < 64) ∧ 64 ≤ ((at0 sA packed).core 0).inboxCount ∧
    ((at0 sA packed).core 0).heldSince = some 0 ∧ 0 + 4096 ≤ ((at0 sA packed).core 0).cyc ∧ ((at0 sA packed).core 0).tokenOut = false ∧ ((at0 sA packed).core 0).reserveUsed = false ∧
    (at0 sA packed).headCore 0 = some 9 ∧ ((at0 sA fun k => { k with tokens := [3] }).core 0).tokens = 3 :: [] ∧ 9 ≠ 0 ∧
    ((at0 sA fun k => { k with tokenBack := true }).core 0).tokenBack = true ∧ ((at0 sA fun k => { k with tokenBack := true }).core 0).blocked = [] ∧
    ((at0 sA fun k => { k with tokenBack := true, blocked := [chanOp 7] }).core 0).blocked = chanOp 7 :: [] ∧
    (([{ kind := .barrd, id := 7 }] : List Op).findIdx? fun x => x.id == 7) = some 0 := by
  decide +kernel
theorem test_carried : after (.carriedCodeRun c0) (sO (carried codeAdd)) (fun t => ((t.ctx p0).reply.map fun r => (r.id, r.val.toNat)) == [(7, 13)] && (t.ctx (.handler c0)).run == .idle) = true := by decide +kernel
theorem test_token : after (.probeTokenSend c0) (at0 sA packed) (fun t => (t.core 0).tokenOut && (t.core 9).tokens == [0]) = true := by decide +kernel

/-! ## Witnesses: homes, hosts, scheduling, launches, gangs -/

def name4 : ActorName := (0, 4, 77)
/-- Cluster 0 with one event and, in entry 0, an actor of class 4; core 0 has a state area and die 0 a bank store. -/
def ent (st : HearthState) (fwd : BitVec 16) (bf : List Message) : Hearth := { cls := 4, key := 77, state := st, fwd := fwd, buffer := bf }
def sHome (ev : List HomeEvent) (h : List (Nat × Hearth)) (f : Core → Core) : State :=
  let s := at0 (sMsg p0 id) fun k => f { k with starea := 0x0001FFC000000040 }
  let s1 := s.setDev { s.dev with tables := s.dev.tables ++ [(256, [(0x100000, 2 ^ 48), (0x100008, 2 ^ 48), (0x100018, 2 ^ 63)])], bank := [{ store := 0, cls := 4, key := 77, live := some 0 }] }
  s1.setClu 0 { s1.clu 0 with homeQ := ev, hearth := h }
def hosted (o : HostOrder) (run : Bool) : Actor := { cls := 4, key := 77, desc := desc4, off := 0x40, size := 16, order := o, running := run }
def hosts (a : Actor) (k : Core) : Core := { k with actors := [a] }
def coming (x : Incoming) (k : Core) : Core := { k with incoming := [x] }
def in4 : Incoming := { cls := 4, key := 77 }
def decr (delta : BitVec 32) : Message := { msg4 with hdr := delta ++ 0#28 ++ 5#4 }
def noEntry : List (Nat × Hearth) := []
/-- An entry that waits for its actor's earlier messages from its home before. -/
def awaited : Hearth := { ent .kindling 0 [msg4] with handover := true }
theorem witness_HomesAndHosts :
    (∀ st ∈ [HearthState.live, .kindling, .moving], ((sHome [.msg msg4] [(0, ent st 0 [])] id).clu 0).entryOf msg4.name = some (0, ent st 0 [])) ∧
    ((sHome [.msg msg4] noEntry id).clu 0).homeQ = .msg msg4 :: [] ∧ ((sHome [.msg msg4] noEntry id).clu 0).entryOf msg4.name = none ∧ ((sHome [.msg msg4] noEntry id).clu 0).freeHearth = some 0 ∧
    ((sHome [.intent 0 4 77 2 0] [(0, ent .live 2 [])] id).clu 0).homeQ = .intent 0 4 77 2 0 :: [] ∧ ((sHome [] [(0, ent .live 2 [])] id).clu 0).entryOf (0, 4, 77) = some (0, ent .live 2 []) ∧
    ((sHome [.imageWritten 0 4 77 [msg4]] [(0, ent .moving 2 [])] id).clu 0).homeQ = .imageWritten 0 4 77 [msg4] :: [] ∧ (ent .moving 2 []).leaving = false ∧ [msg4] ++ (ent .moving 2 []).buffer ≠ [] ∧
    (∀ x ∈ ((sHome [.msg msg4] [] id).clu 0).full, x.name ≠ msg4.name) ∧
    ((sHome [.bankRefused 0 4 77] [(0, ent .moving 2 [])] id).clu 0).homeQ = .bankRefused 0 4 77 :: [] ∧ ((sHome [.marker 0 4 77 [] true] [(0, awaited)] id).clu 0).homeQ = .marker 0 4 77 [] true :: [] ∧
    ((sHome [.marker 0 4 77 [msg4] false] [(0, awaited)] id).clu 0).homeQ = .marker 0 4 77 [msg4] false :: [] ∧ ((sHome [.marker 0 4 77 [] true] [(0, awaited)] id).clu 0).entryOf name4 = some (0, awaited) ∧ awaited.handover = true ∧
    (let s := sHome [] [(0, ent .kindling 0 [msg4])] id
     (s.clu 0).unchosen[0]? = some 0 ∧ (ent .kindling 0 [msg4]).chosen = false ∧ (ent .kindling 0 [msg4]).handover = false ∧ s.isFaulted name4 = false ∧ s.movedAway 0 name4 = false ∧
       s.readDesc 0 0 4 = (desc4, s) ∧ s.pickHost 0 (runSize desc4) 0 none = some 0 ∧ s.movedEntries 0 = []) ∧
    (let k := ((sHome [] [(0, ent .live 2 [])] id).clu 0)
     let k1 := { k with full := [msg4, msg4] }
     k1.unchosen[0]? = none ∧ k1.full[0 - k1.unchosen.length]? = some msg4 ∧ (∀ x ∈ k1.full.take (0 - k1.unchosen.length), x.name ≠ msg4.name) ∧
       k1.full[1 - k1.unchosen.length]? = some msg4 ∧ (∃ x ∈ k1.full.take (1 - k1.unchosen.length), x.name = msg4.name)) ∧
    (movedHome sA).movedEntries 3 = [(0, { cls := 6, key := 5, state := .live })] ∧
    ((sHome [] [(0, ent .kindling 0 [])] (coming in4)).core 0).incoming[0]? = some in4 ∧ in4.shipped = none ∧ in4.gang = none ∧
    ((sHome [] [(0, ent .kindling 0 [])] (coming in4)).kindleAt 0 0 name4 false).1 = true ∧
    (∀ o ∈ [HostOrder.bank, .ship 5], ((sHome [] [] (hosts (hosted o false))).core 0).ordered (if o = .bank then HostOrder.isBank else HostOrder.isShip) = some (hosted o false)) ∧
    (let s := sHome [] [] (hosts (hosted .bank false))
     (s.bankStore 0).1 = some (2 ^ 255 + 2 ^ 112 + 2 ^ 48) ∧ (s.bankOf 0 name4).isSome = true ∧
       s.bankRoom 0 (2 ^ 255 + 2 ^ 112 + 2 ^ 48) (BankEntry.bytes { image := some (s.windowImage 0 (hosted .bank false)) }) = true) ∧
    (let x := { in4 with shipped := some (hosted .none false, List.replicate 16 0) }
     ((sHome [] [] (coming x)).core 0).incoming.findIdx? (fun x => x.shipped.isSome) = some 0) ∧ (sHome [] [] id).fits 0 (runSize desc4) [] = true ∧
    (let s := sHome [] [] fun k => { hosts (hosted .none false) k with decs := [decr 3] }
     (((s.core 0).decs.find? fun m => match (s.core 0).actor m.name with
        | some a => !a.running && !a.saved
        | none => false) = some (decr 3)) ∧ (s.core 0).actor (decr 3).name = some (hosted .none false) ∧ (hdrPrio (decr 3).hdr).toNat < counterCount desc4 ∧ hdrDelta (decr 3).hdr = 3) := by
  and_intros <;> decide +kernel
/-- Class 7 is kindled from an image at 0x50000. -/
def desc7 : BitVec 512 := BitVec.ofNat 512 (0x1000 + 2 ^ 128 * 5 + 2 ^ 192 * 7 + 2 ^ 208 + 2 ^ 219 + 2 ^ 345 + 2 ^ 383 + 2 ^ 320 * 0 + 2 ^ 64 * 0x50000)
def sInit7 : State :=
  let s := sHome [] noEntry (coming { cls := 7, key := 77 })
  s.setDev { s.dev with tables := s.dev.tables.map fun x => if x.1 = 0 then (0, x.2 ++ (List.range 8).map fun i => (448 + 8 * i, desc7.extractLsb' (64 * i) 64)) else x }
/-- A host whose inbox is nearly full, to which an actor with a message is shipped. -/
def loaded4 (n : Nat) : Actor := { hosted .none false with ports := (Vector.replicate 4 {}).setIfInBounds 0 { q := List.replicate n msg4 } }
def sShip (n m : Nat) : State := sHome [] noEntry fun k => { hosts (loaded4 n) k with incoming := [{ in4 with key := 78, shipped := some ({ loaded4 m with key := 78 }, List.replicate 16 0) }] }
/-- An entry of an address actor, not live, whose home is another cluster now. -/
def sMoved : State :=
  let s := withTables sA
  let e : TlbEntry := { part := 0, base := 0x80000, size := 0x10000, word := BitVec.ofNat 64 (0x80000 + 0x1F) }
  (s.setDev { s.dev with pages := [(0, [e])] }).setClu 3 { s.clu 3 with hearth := [(0, { cls := 6, key := 0x80000, state := .kindling, buffer := [msg4] })] }
theorem witness_HomesAndHosts_more : (ent .live 2 []).hostDev = none ∧ ent .live 2 [] ≠ ent .moving 2 [] ∧ (sHome [] noEntry (coming in4)).initMissing 0 in4.name = none ∧
    sInit7.initMissing 0 (0, 7, 77) = some 0x50000 ∧
    (((sShip 63 2).core 0).inboxCount ≠ 0 ∧ 64 < ((sShip 63 2).core 0).inboxCount + ({ loaded4 2 with key := 78 } : Actor).messages.length) ∧
    (((sShip 2 2).core 0).inboxCount + ({ loaded4 2 with key := 78 } : Actor).messages.length ≤ 64) ∧ (sShip 2 2).fits 0 (runSize desc4) [] = true ∧
    sMoved.movedEntries 3 = [(0, { cls := 6, key := 0x80000, state := .kindling, buffer := [msg4] })] ∧ 3 ∉ sMoved.goingTo (0, 6, 0x80000) ∧
    ((sMoved.setClu 3 { sMoved.clu 3 with hearth := [] }).homeOf 0 desc6 0 6 0x80000 != .at 0 0 3) = true ∧
    (match (sMoved.setClu 3 { sMoved.clu 3 with hearth := [] }).homeOf 0 desc6 0 6 0x80000 with | .at d e c => d == 0 && e * 256 + c != 3 | .unmapped => false) = true := by
  and_intros <;> decide +kernel
theorem test_shipped_state_waits_for_room : after (.moveStateInPlace c0) (sShip 63 2) (fun t => (t.core 0).incoming.length == 1) = true ∧
    after (.moveStateInPlace c0) (sShip 2 2) (fun t => (t.core 0).incoming.length == 0 && (t.core 0).inboxCount == 4) = true := by decide +kernel
theorem test_handover : after (.addrHomeHandover 0 3) sMoved (fun t => (t.clu 3).hearth == [] && (t.clusters.map fun c => c.2.homeQ.length).sum == 1) = true := by decide +kernel
theorem test_markers : after (.handoverMarker 0 0) (sHome [.marker 0 4 77 [msg4] false] [(0, awaited)] id) (fun t => (t.clu 0).hearth == [(0, { awaited with handed := [msg4] })]) = true := by decide +kernel
theorem test_forward : after (.homeMessageArrival 0 0) (sHome [.msg msg4] [(0, ent .live 2 [])] id) (fun t => (t.clu 0).toHost.getD 0 [] == [.msg msg4] && (t.clu 0).hearth == [(0, ent .live 3 [])]) = true ∧
    after (.bankIntent 0 0) (sHome [.intent 0 4 77 2 0] [(0, ent .live 2 [])] id) (fun t => (t.clu 0).toHost.getD 0 [] == [.bank 0 4 77] && ((t.clu 0).hearth.map fun h => h.2.state) == [.moving]) = true := by decide +kernel
theorem test_bank_and_kindle : after (.bankOrder c0) (sHome [] [] (hosts (hosted .bank false))) (fun t => (t.core 0).actors == [] && (t.dev.bank.map fun e => (e.image, e.live)) == [(some (List.replicate 16 0), none)]) = true ∧
    after (.kindleStateInPlace c0 0) (sHome [] [(0, ent .kindling 0 [])] (coming in4)) (fun t => ((t.clu 0).hearth.map fun h => h.2.state) == [.live] && ((t.core 0).actors.map fun a => a.size) == [16]) = true := by decide +kernel
theorem test_decrement : after (.decrementApply c0) (poke 0x40 (5 * 2 ^ 32 + 5) 8 (sHome [] [] fun k => { hosts (hosted .none false) k with decs := [decr 3] })) (fun t => t.peek 0 (spPlace 0 0x44) 4 == 2 && (t.core 0).decs == []) = true := by decide +kernel

/-- Core 0, whose first wave runs, with a ready actor of a message or with sheets, and its context idle or ending. -/
def woken (s : State) : State := s.setDie 0 { s.die 0 with waves := 1 }
def ready4 : Actor := { hosted .none false with ports := (Vector.replicate 4 {}).setIfInBounds 0 { q := [{ msg4 with hdr := 0, pay := 11 }] }, ready := true }
def sheet5 : Sheet := { d0 := 5, d1 := 21, d2 := 22 }
def sPick (f : Core → Core) : State :=
  let s := at0 (sMsg p0 id) f
  woken (s.setCtx p0 {})
def queued (k : Core) : Core := { hosts ready4 k with readyQ := [name4] }
def sEnd (w : Option (Nat × BitVec 64)) : State :=
  at0 (with' p0 { run := .ending, firing := { cls := 4, key := 77, desc := desc4, winOff := 0x40, winSize := 16, waitCounter := w } }) (hosts (hosted .none true))
theorem witness_SchedulingEvents : (sPick queued).mayPick c0 0 = true ∧ sA.mayPick c0 0 = false ∧ (((sPick queued).core 0).readyQ.any fun y => y.1 == slotPart ((sPick queued).core 0).slots 0) = true ∧
    ((sPick queued).core 0).quire = [] ∧ ((sPick queued).core 0).actor name4 = some ready4 ∧ ready4.nextPick.isSome = true ∧
    (let s := sPick fun k => { k with quire := [sheet5] }
     s.mayPick c0 0 = true ∧ ((s.core 0).popSheet 0).map (·.1) = some sheet5 ∧ (s.readDesc 0 0 5).1 = desc5 ∧ sheetRefusal desc5 5 = none ∧ sheet5.resume.rpc = 0 ∧ (s.core 0).readyQ = []) ∧
    ((sEnd none).ctx p0).run = .ending ∧ ((sEnd none).ctx p0).sb = [] ∧ ((sEnd none).ctx p0).waiting = none ∧ ((sEnd none).ctx p0).firing.sheet = false ∧
    descJrnl ((sEnd none).ctx p0).firing.desc = false ∧ ((sEnd none).ctx p0).firing.bankAfter = false ∧ (sA.ctx p0).run ≠ .ending ∧ ((sEnd (some (0, 0x500))).ctx p0).firing.waitCounter = some (0, 0x500) ∧
    (let s := sPick id
     s.mayPick c0 0 = true ∧ (s.core 0).readyQ = [] ∧ (s.core 0).quire = [] ∧ (s.ctx p0).stealAfter ≤ (s.core 0).cyc ∧ (stealOrder c0).find? (fun v => (s.core v).yields 0 != []) = none) ∧
    (let s := (sPick id).setCore 1 { (sPick id).core 1 with quire := [sheet5, sheet5, sheet5] }
     (stealOrder c0).find? (fun v => (s.core v).yields (slotPart (s.core 0).slots 0) != []) = some 1 ∧ 1 ≠ c0.ix ∧ (s.core 0).quire.length + ((s.core 1).yields 0).length ≤ 256) ∧
    (sA.core 0).cyc < (((sA.mod p0 fun c => { c with stealAfter := 9 }).ctx p0).stealAfter) ∧ ((at0 sA fun k => { k with quireOvf := [sheet5] }).core 0).quireOvf ≠ [] ∧ (sA.core 0).quire.length < 64 ∧
    64 ≤ ((at0 sA fun k => { k with quire := List.replicate 64 sheet5 }).core 0).quire.length := by
  decide +kernel
theorem test_keyed_pick : after (.contextPick c0 0) (sPick queued) (fun t => (t.ctx p0).pc == 0x1000 && (t.ctx p0).reg 10 == num 11 && (t.ctx p0).kkey == 77 && (t.core 0).readyQ == []) = true := by decide +kernel
theorem test_sheet_pick : after (.contextPick c0 0) (sPick fun k => { k with quire := [sheet5] }) (fun t => (t.ctx p0).pc == 0x2000 && (t.ctx p0).reg 10 == num 21 && (t.ctx p0).firing.sheet) = true := by decide +kernel
theorem test_steal : after (.stealServe c0 0) ((sPick id).setCore 1 { (sPick id).core 1 with quire := [sheet5, { sheet5 with d1 := 2 }, { sheet5 with d1 := 3 }] })
    (fun t => ((t.core 0).quire.map fun y => y.d1) == [21, 2] && ((t.core 1).quire.map fun y => y.d1) == [3]) = true := by decide +kernel
theorem test_firing_end : after (.firingEnd c0 0) (sEnd none) (fun t => (t.ctx p0).run == .idle && ((t.core 0).actors.map fun a => a.running) == [false]) = true := by decide +kernel

/-- Die 0 with a record of three items of class 4, not started, started, or with a count that is too large or absent. -/
def rec4 (cls n : Nat) (st : Bool) : LaunchRec := { w0 := BitVec.ofNat 64 (cls + 2 ^ 20 + n * 2 ^ 40), w1 := 100, w2 := 7, started := st, n := n, desc := if st then desc4 else 0 }
def sPool (r : LaunchRec) : State :=
  let s := sMsg p0 id
  s.setDie 0 { s.die 0 with pool := [(2, r)] }
/-- A gang of core 0 alone of class 4, in slot 1 of partition 0's gang table; armed, known and reserved. -/
def gang1 (arm : Nat) : BitVec 512 := BitVec.ofNat 512 (4 + 2 ^ 40 + 2 ^ 53 + 2 ^ 77 + arm * 2 ^ 85 + 2 ^ 128 * 77 + 2 ^ 192 * 5)
def sArm (arm : Nat) (f : Core → Core) (started : Bool) : State :=
  let s := sHome [] [] f
  let s1 := s.setCtx p0 {}
  let gt := (List.range 8).map fun i => (0x400240 + 8 * i, (gang1 arm).extractLsb' (64 * i) 64)
  s1.setDev { s1.dev with ctbase := [(0, 0)], gangs := [{ part := 0, index := 1, desc := gang1 1, started := started }], tables := s1.dev.tables.map fun x => if x.1 = 0 then (0, x.2 ++ gt) else x }
def kept (k : Core) : Core := { k with gangReserved := some (gangId 0 1) }
def notice : Incoming := { in4 with gang := some msg4 }
/-- The root of partition 0 at a cycle, with a sweep gathered of one tag that its last sweep found idle; or none. -/
def idleSum : SweepSum := { idle := true }
def sSweep (cyc : Nat) (x : Map Sweeping) : State :=
  let s := sA.setCore 20000 { sA.core 20000 with cyc := cyc }
  s.setDev { s.dev with notices := [{ tag := 3 }], sweeps := [(tagKey 0 3, idleSum)], sweeping := x, sweepAt := [(0, 100)] }
def member : State := sArm 1 (coming notice) true
theorem witness_LaunchesAndGangs : ((sPool (rec4 4 3 false)).die 0).pool.find? (fun x => !x.2.started) = some (2, rec4 4 3 false) ∧ (sPool (rec4 4 3 false)).launchCount 0 (rec4 4 3 false) = some 3 ∧
    ((sPool (rec4 4 3 false)).readDesc 0 0 (recClass (rec4 4 3 false).w0)).1 = desc4 ∧ (sPool (rec4 4 3 false)).launcherMissing 0 (rec4 4 3 false) = none ∧
    (sPool (rec4 4 3 true)).homeMissing desc4 0 100 = none ∧ launchRefusal desc4 (rec4 4 3 false) = none ∧ launchRefusal 0 (rec4 9 3 false) ≠ none ∧
    (sPool (rec4 4 0 false)).launchCount 0 (rec4 4 0 false) = some 0 ∧ (sPool (rec4 4 3 false)).launchCount 0 { rec4 4 0 false with w0 := 2 ^ 18 } = none ∧
    (((sPool (rec4 4 3 false)).die 0).pool.filter fun x => x.2.itemsLeft) = [] ∧ (((sPool (rec4 4 3 true)).die 0).pool.filter fun x => x.2.itemsLeft) = [(2, rec4 4 3 true)] ∧
    ((sPool (rec4 4 3 true)).die 0).pool.find 2 = some (rec4 4 3 true) ∧ descSheet desc4 = false ∧ ((sPool (rec4 4 3 true)).launcherSent 0 0 (recLtag (rec4 4 3 true).w0)).homeOf 0 desc4 0 4 100 = .at 0 0 0 ∧
    (let s := sSweep 65700 []
     (s.dev.sweeping.find 0 = none) ∧ s.dev.sweepAt.getD 0 0 + 65536 ≤ (s.core (s.rootOf 0)).cyc) ∧
    (let s := sSweep 65000 []
     (s.dev.sweeping.find 0 = none) ∧ (s.core (s.rootOf 0)).cyc < s.dev.sweepAt.getD 0 0 + 65536) ∧
    (∃ x, (sSweep 65700 [(0, { tags := [3], left := [0, 50000] })]).dev.sweeping.find 0 = some x ∧ x.left ≠ []) ∧
    (∃ x, (sSweep 65700 [(0, { tags := [3], sums := [(3, idleSum)] })]).dev.sweeping.find 0 = some x ∧ x.left = [] ∧ x.tags = [3] ∧ x.sums.getD 3 SweepSum.none = idleSum) ∧
    (∀ x ∈ sA.dev.domain, x = sA.dev.num) ∧ (sSweep 65700 []).dev.sweeps.find (tagKey 0 3) = some idleSum ∧ idleSum.idle = true ∧ idleSum.sent = idleSum.recv ∧
    (∃ x, (sSweep 65700 [(0, { tags := [3], sums := [(3, { idleSum with recv := 1 })] })]).dev.sweeping.find 0 = some x ∧ x.left = [] ∧ x.tags = [3] ∧ x.sums.getD 3 SweepSum.none ≠ idleSum) ∧
    ((sArm 1 id false).gangDesc 0 1).1 = gang1 1 ∧ gdArm (gang1 1) = true ∧ (sArm 1 id false).gangHere (gang1 1) = true ∧ (0 : BitVec 8).toNat ∈ (sArm 1 id false).dev.ctbase.map (·.1) ∧
    (∀ y ∈ (sArm 1 id false).dev.gangs, y.part = 0 → y.index = 1 → y.started = false) ∧
    gangCores (gang1 1) = [0] ∧ ((sArm 1 kept false).dev.gangs.find? fun x => x.part == 0 && x.index == 1 && !x.started).isSome = true ∧ gdDevbase (gang1 1) = (sArm 1 kept false).dev.num ∧
    ((sArm 1 kept false).core 0).gangReserved = some (gangId 0 1) ∧ (sArm 1 kept false).memberFree 0 = true ∧ gangClassOk desc4 (gdClass (gang1 1)) = true ∧
    ((sArm 1 kept true).dev.gangs.find? fun x => x.part == 0 && x.index == 1 && !x.started) = none ∧ (member.core 0).incoming.findIdx? (fun x => x.gang.isSome) = some 0 ∧
    member.readDesc 0 0 4 = (desc4, member) ∧ member.findHome 0 desc4 0 4 77 = (.at member.dev.num.toNat 0 0, member) ∧
    (member.clu 0).entryOf notice.name = none ∧ (member.clu 0).freeHearth = some 0 ∧ (member.kindleAt 0 0 notice.name true).1 = true ∧
    gdArm (gang1 0) = false ∧ ((sArm 0 id true).gangDesc 0 1).1 = gang1 0 ∧ (∃ y ∈ (sArm 0 id true).dev.gangs, y.part = 0 ∧ y.index = 1) := by
  and_intros <;> decide +kernel
/-- Records of sheets: class 5, two items, at a die whose cores 0 and 1 serve partition 0; a count at 0x50000. -/
def recS : LaunchRec := { rec4 5 2 true with desc := desc5 }
theorem witness_LaunchesAndGangs_sheets : (((sPool recS).die 0).pool.filter fun x => x.2.itemsLeft) = [(2, recS)] ∧ descSheet recS.desc = true ∧
    (sPool recS).nextServing 0 recS.nextCore 0 = some 0 ∧ (((sPool recS).core 0).pushSheet (recS.sheet 0 2 0)).isSome = true ∧
    (((at0 (sPool recS) fun k => { k with quire := List.replicate 256 {} }).core 0).pushSheet (recS.sheet 0 2 0)) = none ∧ recS.again = [] ∧
    (sPool (rec4 4 3 false)).launcherMissing 0 { rec4 4 0 false with w0 := 4 + 2 ^ 20 + 2 * 2 ^ 18, w3 := cap 0x50000 64 } = some 0x50000 := by
  and_intros <;> decide +kernel
theorem test_sheet_rotation : after (.launchItem 0) (sPool recS) (fun t => ((t.die 0).pool.map fun r => (r.2.next, r.2.nextCore)) == [(1, 1)] && (t.core 0).quire.length == 1) = true ∧
    after (.launchItem 0) (at0 (sPool recS) fun k => { k with quire := List.replicate 256 {} }) (fun t => ((t.die 0).pool.map fun r => (r.2.next, r.2.nextCore)) == [(0, 0)]) = true := by decide +kernel
/-- A start notice that waits: for an entry that the actor has to go, and for room in the inbox. -/
def heldMember (h : List (Nat × Hearth)) (n : Nat) : State :=
  let s := sArm 1 (fun k => { coming notice k with actors := if n = 0 then [] else [{ loaded4 n with key := 5 }] }) true
  s.setClu 0 { s.clu 0 with hearth := h }
theorem witness_LaunchesAndGangs_waits : (member.readDesc 0 0 4).2.homeMissing desc4 0 77 = none ∧ member.initMissing 0 notice.name = none ∧
    ((heldMember [(0, ent .moving 2 [])] 0).clu 0).entryOf notice.name ≠ none ∧ 64 ≤ ((heldMember noEntry 64).core 0).inboxCount ∧ (member.core 0).inboxCount < 64 ∧
    (sArm 1 kept false).gangMissing 0 (gang1 1) = none ∧ (sArm 1 kept false).gangHere (gang1 1) = true := by
  and_intros <;> decide +kernel
theorem test_gang_notice_waits : after (.gangStartDelivery c0) (heldMember [(0, ent .moving 2 [])] 0) (fun t => (t.core 0).incoming.length == 1) = true ∧
    after (.gangStartDelivery c0) member (fun t => (t.core 0).incoming == [] && (t.core 0).inboxCount == 1 && ((t.clu 0).hearth.map fun h => (h.2.pin, h.2.state)) == [(true, .live)]) = true := by decide +kernel
theorem test_launch_item : after (.launchItem 0) (sPool (rec4 4 3 true)) (fun t => (t.dev.unitMsgs.map fun u => (u.m.key.toNat, (payWord u.m.pay 3).toNat)) == [(100, 2)] && ((t.die 0).pool.map fun r => r.2.next) == [1]) = true := by decide +kernel
theorem test_gang_starts : after (.gangStart 0 1) (sArm 1 kept false) (fun t => ((t.core 0).incoming.map fun x => (x.cls.toNat, x.key.toNat, x.gang.isSome)) == [(4, 77, true)] && (t.dev.gangs.map fun g => g.started) == [true]) = true ∧
    after (.gangRelease 0 1) (sArm 0 kept true) (fun t => (t.core 0).gangReserved == none && t.dev.gangs == []) = true := by decide +kernel

/-! ## Witnesses: the fabric -/

/-- A flit to device 0 from device 5: its class, type, request number, token, byte count and payload. -/
def fl (vc : BitVec 2) (typ : BitVec 5) (req : BitVec 24) (token : BitVec 16) (n : Nat) (a b c e : BitVec 64) : Flit :=
  let h : FlitHead := { vc := vc, typ := typ, src := 5, dst := 0, bytes := n, req := req, token := token }
  { hdr := h.bits, pay := flitPay a b c 0 e 0 0 0 }
/-- What the flue engines of die 0 have translated: 0x300000 to itself with R, W and X, 0x310000 not mapped, 0x320000 to HBM that
no table opens, 0x330000 at device 7. -/
def pagesF : Map (List TlbEntry) := [(20, [{ base := 0x300000, size := 0x10000, word := 0x30001F }, { base := 0x310000, size := 0x10000 },
  { base := 0x320000, size := 0x10000, word := 0x7F000001F }, { base := 0x330000, size := 0x10000, word := 0x007000000330003F }])]
def sFab (f : Device → Device) : State :=
  let s := withTables (with' p0 { rec' [] with run := .idle })
  s.setDev (f { s.dev with domain := [0, 5], pages := pagesF })
def wr (n : Nat) : BitVec 64 := BitVec.ofNat 64 (2 + n * 2 ^ 32)
def rdWord (n : Nat) : BitVec 64 := BitVec.ofNat 64 (1 + 5 * 2 ^ 16 + n * 2 ^ 32)
def addW (n : Nat) : BitVec 64 := BitVec.ofNat 64 (3 + 3 * 2 ^ 28 + n * 2 ^ 32)
def page3 : BitVec 64 := 0x300000
/-- The entry of a request of device 5 with its flit. -/
def entry (f : Flit) (checked : Bool) : Pending :=
  let w0 := flitWord f 0
  let read := srcRemote (reqOp w0)
  { farPending f (if read then .serve else .recv) (farRequest f w0 (if read then flitWord f 1 else 0) (if read then 0 else flitWord f 1) 0 0) 4 with
    unread := fullSpan (reqLen w0), unwritten := fullSpan (reqLen w0), arrival := if checked then none else some f }
/-- It is alone in its engine, before its checks and after them. -/
def sEntry (f : Flit) (checked : Bool) (g : Device → Device) : State := sFab fun d => g { d with engines := [entry f checked] }
def flueF : EngineId := .flue 0 9
def longW : Flit := fl 0 0 9 0 16 (wr 128) page3 0 0
def shortOf (w a data : BitVec 64) : Flit := fl 0 1 9 0 64 w a 0 data
theorem witness_FabricRequests_flits : flitResvOk { fl 0 0 9 0 16 0 0 0 0 with hdr := 0x80 } = false ∧ flitListed 0 5 = false ∧
    (let f := { fl 1 0 9 0 0 0 0 0 0 with poison := true }
     flitResvOk f = true ∧ flitListed (flitVc f) (flitType f) = true ∧ f.poison = true ∧ flitHoldsData f = false) ∧
    (flitResvOk longW = true ∧ flitVc longW = 0 ∧ flitType longW = 0 ∧ longW.poison = false ∧ srcRemote (reqOp (flitWord longW 0)) = false ∧
      reqPrefix (flitWord longW 0) = false ∧ (sFab id).dev.damper.length < 65536 ∧ reqPrefixLen (wr 0x10000) < reqLen (wr 0x10000)) ∧
    (let f := fl 0 0 9 0 16 (rdWord 128) page3 0 0
     flitVc f = 0 ∧ flitType f = 0 ∧ srcRemote (reqOp (flitWord f 0)) = true) ∧
    (let f := shortOf (wr 4) page3 0x04030201
     flitResvOk f = true ∧ flitVc f = 0 ∧ flitType f = 1) := by
  and_intros <;> decide +kernel
theorem damper_of_a_full_table : 65536 ≤ (sFab fun d => { d with damper := List.replicate 65536 {} }).dev.damper.length := Nat.le_of_eq (List.length_replicate ..).symm
def arrives (f : Flit) (w : UnitPlace) : Bool :=
  (sEntry f false id).pend flueF 0 == some (entry f false) && (entry f false).arrival == some f && !(entry f false).finishing &&
    (sEntry f false id).engMissing (entry f false) (flitWord f 1).toNat (entry f false).arrivalLen == none && (sEntry f false id).firstPage f == w
theorem witness_FabricRequests_arrivals : (sEntry (shortOf (wr 4) 0x100 0) false id).firstPage (shortOf (wr 4) 0x100 0) = .noWindow ∧
    (let f := shortOf (wr 4) 0x340000 0
     (sEntry f false id).firstPage f ≠ .noWindow ∧ (sEntry f false id).engMissing (entry f false) 0x340000 (entry f false).arrivalLen = some 0x340000) ∧
    arrives (shortOf (wr 4) 0x310000 0) .translation = true ∧ arrives (shortOf (wr 4) 0x320000 0) .access = true ∧ arrives (shortOf (wr 4) 0x330000 0) (.peer 7) = true ∧
    (arrives longW (.at 0x300000) = true ∧ reqShort (entry longW false).req.w0 = false ∧ (∀ r ∈ (sEntry longW false id).dev.prefixes, r.of (entry longW false) = false)) ∧
    (let f := shortOf (wr 4) 0x30FFFE 0
     arrives f (.at 0x30FFFE) = true ∧ reqShort (entry f false).req.w0 = true ∧ ((sEntry f false id).engReach (entry f false) .w 0x30FFFE 4).2 = some .translation) ∧
    (let f := shortOf (rdWord 4) page3 0
     arrives f (.at 0x300000) = true ∧ (entry f false).role = .serve ∧ (sEntry f false id).engReach (entry f false) .r 0x300000 4 = ((span 0x300000 4).map some, none)) ∧
    (let f := shortOf (wr 4) page3 0x04030201
     let p := entry f false
     arrives f (.at 0x300000) = true ∧ (sEntry f false id).engReach p .w 0x300000 4 = ((span 0x300000 4).map some, none) ∧ p.role = .recv ∧ p.op = 2 ∧ p.far = true ∧
       p.err = none ∧ p.ready = [] ∧ p.dstAt 0 = 0x300000 ∧ p.len = 4) ∧
    (let f := shortOf (addW 4) page3 7
     let p := entry f false
     let s := sEntry f false id
     arrives f (.at 0x300000) = true ∧ s.engReach p .w 0x300000 4 = ((span 0x300000 4).map some, none) ∧ p.op = 3 ∧ p.dstAt 0 = 0x300000 ∧ p.role ≠ .serve ∧
       (∀ z ∈ span 0x300000 4, s.cell (homeDie z) (poisonPlace z) = 0#8) ∧
       ∃ z ∈ span 0x300000 4, (s.writeAt 0 [(poisonPlace 0x300000, 1#8)] false []).cell (homeDie z) (poisonPlace z) ≠ 0#8) ∧
    span 0x300000 4 ≠ [] ∧ (∀ z ∈ span 0x300000 4, homeDie z = 0) ∧
    (let f := shortOf (rdWord 4) page3 0
     let p := { entry f true with unread := [] }
     p.arrival = none ∧ p.role = .serve ∧ p.err = none ∧ p.unread = [] ∧ p.finishing = false ∧ reqShort p.req.w0 = true) := by
  and_intros <;> decide +kernel

/-- Records of a write of 128 bytes from device 5: waiting, granted and saved. -/
def dr (st : DState) (tk : Option (BitVec 16 × Nat × Nat)) : DRec := { src := 5, reqno := 9, left := 128, state := st, token := tk, w0 := wr 128, addr := page3 }
def sRec (st : DState) (tk : Option (BitVec 16 × Nat × Nat)) : State := sEntry longW true fun d => { d with damper := [dr st tk], clocks := [(clockDamper, 70000)] }
/-- A waiting record alone, at an address. -/
def sWait (a : BitVec 64) : State :=
  let f := fl 0 0 9 0 16 (wr 128) a 0 0
  sEntry f true fun d => { d with damper := [{ dr .waiting none with addr := a }] }
theorem witness_FabricRequests_records :
    (let f := fl 3 0 9 7 4 1 0 0 0
     let s := sRec .flowing (some (7, 0, 128))
     flitResvOk f = true ∧ flitVc f = 3 ∧ flitType f = 0 ∧ flitToken f ≠ 0 ∧ (s.dev.damper.find? fun r => r.holds f) = some (dr .flowing (some (7, 0, 128))) ∧
       (s.goodFlit f).pendOf (dr .flowing (some (7, 0, 128))) = some (entry longW true) ∧ (∀ r ∈ (sFab id).dev.damper, r.holds f = false)) ∧
    (let f := fl 0 2 9 0 0 0 0 0 0
     flitResvOk f = true ∧ flitVc f = 0 ∧ flitType f = 2 ∧ ((sFab id).dev.damper.find? fun r => r.src == flitSrc f && r.reqno == flitReq f) = none ∧
       ∀ st ∈ [DState.saved, .waiting], ((sRec st none).dev.damper.find? fun r => r.src == flitSrc f && r.reqno == flitReq f) = some (dr st none)) ∧
    (let s := sRec .waiting none
     s.dev.damperSlot = 0 ∧ s.liveTokens.length < 1024 ∧ s.choose 0 = some (dr .waiting none) ∧ (sFab id).choose 0 = none ∧
       (sFab fun d => { d with damper := [dr .waiting none] }).pendOf (dr .waiting none) = none ∧
       s.pendOf (dr .waiting none) = some (entry longW true) ∧ (dr .waiting none).own = false ∧ s.grantable (dr .waiting none) = 128 ∧
       s.engMissing (entry longW true) 0x300000 128 = none ∧ s.rangeFault 0 .w 0x300000 0 128 = none) ∧
    (∀ x ∈ [(0x310000#64, some (1#8, 0)), (0x320000, some (2, 0))], ((sWait x.1).engMissing (entry (fl 0 0 9 0 16 (wr 128) x.1 0 0) true) x.1.toNat 128 = none ∧
       (sWait x.1).rangeFault 0 .w x.1.toNat 0 128 = x.2 ∧ (sWait x.1).choose 0 = some { dr .waiting none with addr := x.1 })) ∧
    (sWait 0x340000).engMissing (entry (fl 0 0 9 0 16 (wr 128) 0x340000 0 0) true) 0x340000 128 = some 0x340000 ∧
    ((sRec .granted (some (7, 0, 128))).dev.damper[0]? = some (dr .granted (some (7, 0, 128))) ∧ 0 + 65536 ≤ (sRec .granted none).clock clockDamper ∧ (sFab id).clock clockDamper < 65536 ∧
      (dr .granted none).exp < 3 ∧ 3 ≤ { dr .granted none with exp := 3 }.exp) ∧
    (let s := sEntry longW true fun d => { d with prefixes := [dr .waiting none], clocks := [(clockDamper, 70000)] }
     s.dev.prefixes[0]? = some (dr .waiting none) ∧ s.pendOf (dr .waiting none) = some (entry longW true) ∧ (entry longW true).unwritten ≠ [] ∧
       (sFab id).pendOf (dr .waiting none) = none) ∧
    (let s := (sRec .saved none).setDev { (sRec .saved none).dev with damperArea := [{ src := 5, reqno := 9, own := false, next := 64, left := 64, exp := 1 }] }
     s.dev.damper = [dr .saved none] ∧ (s.dev.damperArea.find? fun x => x.is (dr .saved none)) = some { src := 5, reqno := 9, own := false, next := 64, left := 64, exp := 1 }) ∧
    ((sRec .waiting none).dev.damper = [dr .waiting none] ∧ (sRec .flowing none).dev.damper = [dr .flowing none]) := by
  and_intros <;> decide +kernel
/-- A short write and a DATA flit reach memory in two steps: what arrives, and what is installed. -/
theorem test_short_write : after (.copyRead flueF 0) (sEntry (shortOf (wr 4) page3 0x04030201) false id)
    (fun t => (t.dev.engines.map fun p => (p.ready.map fun x => x.2.2).flatten) == [[(0x300000, 1), (0x300001, 2), (0x300002, 3), (0x300003, 4)]] &&
      (t.installOne (t.dev.engines.getD 0 { req := {} }) 0).peek 0 0x300000 4 == 0x04030201) = true := by decide +kernel
theorem test_grant_slot : after (.damperGrant 0) (sRec .waiting none) (fun t => (t.dev.damper.map fun r => (r.state, r.next, r.left)) == [(.granted, 128, 0)] && t.dev.damperSlot == 1) = true ∧
    after (.tokenExpiry 0) (sRec .granted (some (7, 0, 128))) (fun t => (t.dev.damper.map fun r => (r.state, r.left, r.exp)) == [(.waiting, 256, 1)]) = true := by decide +kernel
theorem test_data : after (.data (fl 3 0 9 7 4 0x44332211 0 0 0)) (sRec .flowing (some (7, 0, 128)))
      (fun t => (t.dev.engines.map fun p => (p.chunks, p.unread)) == [([(0, [0x11, 0x22, 0x33, 0x44])], [(4, 128)])]) = true ∧
    after (.data (fl 3 0 9 8 4 0x44332211 0 0 0)) (sRec .flowing (some (7, 0, 128))) (fun t => (t.dev.engines.map fun p => (p.chunks, p.unread)) == [([], [(0, 128)])]) = true := by decide +kernel

/-- This device's own write of 128 bytes, and short read of 4, at device 5; a served read; messages not yet acknowledged; a combined request. -/
def far (w : BitVec 64) (n : Nat) : Pending := { engine := 5000, req := { w0 := w, src := num 0x100, dst := num 0x100 }, id := 4, len := n, far := true, reqno := 9, farDev := 5 }
def sDom (f : Device → Device) : State := sA.setDev (f { sA.dev with domain := [0, 5] })
def sFar (p : Pending) (f : Device → Device) : State := sDom fun d => f { d with engines := [p] }
def fetchAdd (req : BitVec 24) (v : BitVec 64) : Flit := { fl 0 1 req 0 64 (BitVec.ofNat 64 (3 + 2 ^ 28 + 3 * 2 ^ 28 + 8 * 2 ^ 32)) page3 0 v with hdr :=
  ({ vc := 0, typ := 1, src := 0, dst := 5, bytes := 64, req := req } : FlitHead).bits }
def sComb : State := sDom fun d => { d with engines := [{ far (wr 8) 8 with reqno := 1, id := 1 }, { far (wr 8) 8 with reqno := 2, id := 2 }], switches := [(3, { combined := [(1, [fetchAdd 1 10, fetchAdd 2 20])] })] }
/-- A message that device 5 has yet to acknowledge, by its payload. -/
def counted (n : BitVec 512) : Counted := { flit := { hdr := 0, pay := n } }
theorem witness_FabricResponses :
    (∀ z ∈ [((1 : BitVec 2), (0 : BitVec 5)), (1, 1), (1, 2), (1, 3), (1, 4), (2, 0), (2, 1), (2, 2), (1, 5)],
      let f := fl z.1 z.2 9 0 0 5 0x300 0 0
      flitResvOk f = true ∧ flitVc f = z.1.toNat ∧ flitType f = z.2.toNat ∧ (sFar (far (wr 128) 128) id).ownReq f = some (far (wr 128) 128) ∧
        (sFar (far (wr 128) 128) id).sender f = some (far (wr 128) 128) ∧ (sFar (far (wr 128) 128) id).combinedOf (flitReq f) (flitSrc f) = none ∧ (sDom id).ownReq f = none ∧ (sDom id).sender f = none) ∧
    flitWord (fl 1 1 9 0 0 0x402 0 0 0) 0 &&& 3 = 2 ∧ (far (wr 128) 128).gets = false ∧
    (let p := far (rdWord 4) 4
     (sFar p id).ownReq (fl 1 2 9 0 4 1 0 0 0) = some p ∧ p.gets = true ∧ reqShort p.req.w0 = true ∧ p.answered = false) ∧
    (far (wr 128) 128).redirected = false ∧ (sDom id).reachable 7 = false ∧ (sDom id).reachable 5 = true ∧
    (sFar { far (wr 128) 128 with role := .serve } id).sender (fl 1 4 9 0 0 0 0 0 0) = some { far (wr 128) 128 with role := .serve } ∧ (far (wr 128) 128).role = .own ∧
    (let s := sFar (far (wr 128) 128) fun d => { d with clocks := [(clockFlue 0, 0x100000)] }
     (s.dev.engines.filter fun p => 5000 ≤ p.engine && p.die == (0 : Fin 8).val && p.sends && !p.finishing && !reqPrefix p.req.w0 && (p.role == .serve || !reqShort p.req.w0))[0]? = some (far (wr 128) 128) ∧
       0x100000 ≤ s.clock (clockFlue 0)) ∧
    (sDom id).dev.unacked.find 5 = none ∧ (∀ l ∈ [[counted 5], [counted 5, counted 6], [counted 7]], (sDom fun d => { d with unacked := [(5, (0, l))] }).dev.unacked.find 5 = some (0, l)) ∧
    (sDom id).dev.msgHeld = [] ∧ (fl 1 5 9 0 0 5 0 0 0).pay = 5 ∧ ([counted 5, counted 6].find? fun x => x.flit.pay == 5) = some (counted 5) ∧ [counted 5].erase (counted 5) = [] ∧
    ([counted 7].find? fun x => x.flit.pay == 5) = none ∧ (fl 1 4 9 0 8 64 0 0 0 |> flitBytes) = 8 ∧
    sComb.combinedOf 1 5 = some (3, [fetchAdd 1 10, fetchAdd 2 20]) ∧ (sComb.switch 3).combined ≠ [] ∧ combineBytes (fetchAdd 2 20) = combineBytes (fetchAdd 1 10) ∧
    (let u := sComb.setSwitch 3 { sComb.switch 3 with combined := (sComb.switch 3).combined.filter fun c => !(c.1 == 1 && c.2 == [fetchAdd 1 10, fetchAdd 2 20]) }
     u.combinedOf 1 5 = none ∧ u.combinedOf 2 5 = none) ∧
    ((sComb.dev.engines.filter fun p => p.role == .own && p.far && !p.finishing && p.farDev == 5).map fun p => (p.reqno, p.id, p.gets)) == [(1, 1, false), (2, 2, false)] := by
  and_intros <;> decide +kernel
theorem test_done_and_grant : after (.doneResponse (fl 1 1 9 0 0 1 8 0 0)) (sFar (far (wr 128) 128) id) (fun t => (t.dev.engines.map fun p => (p.finishing, p.prior)) == [(true, 8)]) = true ∧
    after (.grant (fl 2 0 9 0 16 64 64 6 0)) (sFar (far (wr 128) 128) id) (fun t => (t.dev.engines.map fun p => (p.lo, p.hi, p.token)) == [(64, 128, 6)]) = true := by decide +kernel
theorem test_combined_done : after (.combinedDoneSplit (fl 1 1 1 0 0 1 3 0 0)) sComb (fun t => (t.dev.engines.map fun p => (p.finishing, p.prior.toNat)) == [(true, 3), (true, 13)]) = true := by decide +kernel

/-- Port 3: a flow to device 5 of class 0 that is set aside; a queue of two reductions of one element; a lane that failed fifteen times in a row. -/
def sPort (x : Port) (y : Switch) : State := sFab fun d => { d with ports := [(3, x)], switches := [(3, y)], clocks := [(clockSwitch 3, 5000)] }
def lots : Switch := { queue := List.replicate (classReserve 0 + Config.switchEntries 12) (fetchAdd 1 10), since := [(flowKey 5 0, 0)] }
theorem lots_hogs : lots.hogs 3 5 0 = true := by
  have h : (flitDst (fetchAdd 1 10) == 5 && flitVc (fetchAdd 1 10) == 0) = true := by decide +kernel
  have e : lots.queue = List.replicate (classReserve 0 + Config.switchEntries 12) (fetchAdd 1 10) := rfl
  unfold Switch.hogs
  rw [e, List.filter_replicate_of_pos (p := fun f => flitDst f == 5 && flitVc f == 0) h, List.length_replicate]
  exact decide_eq_true (show classReserve 0 + Config.switchEntries (3 * 4 + 0) < 2 * (classReserve 0 + Config.switchEntries 12) from
    (by omega : 16 + Config.switchEntries 12 < 2 * (16 + Config.switchEntries 12)))
theorem lots_is_there : (sPort {} lots).switch 3 = lots ∧ lots.since.find (flowKey 5 0) = some 0 ∧ 0 + 4096 ≤ (sPort {} lots).clock (clockSwitch 3) ∧ lots.asides = [] := ⟨rfl, rfl, by decide, rfl⟩
theorem witness_FabricPorts :
    (let f : Flit := { fl 0 3 0 4 0 77 0 0 0 with pay := flitPay 77 0 0 0 0 0 0 0 }
     flitVc f = 0 ∧ flitType f = 3 ∧ (msgOf f).cls = 4 ∧ hdrKind (msgOf f).hdr ≠ 3 ∧ ((sFab id).readDesc 0 0 4).1 = desc4 ∧ routeRefusal desc4 4 (msgOf f).hdr = none ∧
       (sFab id).unholdFlit f = sFab id ∧ (sFab id).goodFlit f = sFab id ∧ (sFab id).heldBefore f = false ∧ (sFab id).findHome 0 desc4 0 4 77 = (.at (sFab id).dev.num.toNat 0 0, sFab id) ∧
       ((sFab id).die 0).failed = false ∧ (sFab id).homeTakes 0 (msgOf f) = true ∧ ((sFab fun d => { d with ports := [(7, { held := [f] })] }).heldBefore { f with hdr := f.hdr + 2 ^ 100 }) = true ∧
       (sFab id).fromMissing (msgOf f) = none ∧ (sFab id).fromMissing { msgOf f with cls := 6, key := 0xDEAD0000 } = some 0xDEAD0000) ∧
    flitWord (fl 0 4 0 0 0 3 0 2 0) 2 &&& 2 = 2 ∧ flitWord (fl 0 4 0 0 0 3 0 1 0) 2 &&& 2 = 0 ∧ flitType (fl 2 3 0 0 0 5 0 3 0) = 3 ∧ flitType (fl 2 4 0 0 0 5 0 3 0) = 4 ∧
    (({ asides := [(5, 0, [])] } : Switch).asides.any fun a => a.1 == 5 && a.2.1 == 0) = true ∧ (({} : Switch).asides.any fun a => a.1 == 5 && a.2.1 == 0) = false ∧
    (let y : Switch := { queue := [fetchAdd 1 10, fetchAdd 2 20] }
     (y.queue.find? fun g => 2 ≤ (y.queue.filter (mayCombine g)).length) = some (fetchAdd 1 10)) ∧
    ((({} : Switch).queue.find? fun g => 2 ≤ (({} : Switch).queue.filter (mayCombine g)).length) = none) ∧
    (({ asides := [(5, 0, [])] } : Switch).asides.any fun a => a.1 == 5 && a.2.1 == 0 && a.2.2 == []) = true ∧ (0 ≤ Config.waitEntries 3) ∧
    (let g := fl 0 0 9 0 16 0 0 0 0
     flitDst g = 0 ∧ flitVc g = 0 ∧ ((sPort { waiting := [g] } {}).port 3).waiting = [g] ∧ ((sPort { waiting := [g] } {}).switch 3).room 3 0 = true) ∧
    (({ resends := [(1, 15)] } : Port).resends.getD 1 0 = 15) ∧ (({ resends := [(1, 16)] } : Port).resends.getD 1 0 = 16) ∧ ({} : Port).lanesDown = [] ∧ ({ lanesDown := [0] } : Port).lanesDown = [0] ∧ 0 ≠ (1 : Fin 2).val := by
  and_intros <;> decide +kernel
theorem test_combine : after (.switchCombine 3) (sPort {} { queue := [fetchAdd 1 10, fetchAdd 2 20] }) (fun t => ((t.switch 3).queue.map addend) == [30] && ((t.switch 3).combined.map fun c => c.2.length) == [2]) = true := by decide +kernel
theorem test_port : after (.flitCrcFail 3 1) (sPort { resends := [(1, 16)], lanesDown := [0] } {}) (fun t => (t.port 3).down && (t.port 3).lanesDown == [0, 1]) = true ∧
    after (.flitCrcFail 3 1) (sPort { resends := [(1, 15)] } {}) (fun t => (t.port 3).resends == [(1, 16)] && (t.port 3).lanesDown == []) = true := by decide +kernel
/-- A class short in two directions is still short once one is whole; whole in all, it is not. -/
def shortPort : Port := { down := true, classesDown := [1], usable := [(1, 3), (13, 2)] }
theorem witness_FabricPorts_directions : shortPort.shortIn 1 = [0, 3] ∧ (∃ d ∈ shortPort.shortIn 1, d ≠ 0) ∧ ({ shortPort with usable := [(13, 2)] } : Port).shortIn 1 = [3] ∧
    ¬(∃ d ∈ ({ shortPort with usable := [(13, 2)] } : Port).shortIn 1, d ≠ 3) := by
  decide +kernel

/-! ## Witnesses: errors, start-up, the host, causes, the memories' form -/

/-- Core 0 hosts an actor with a message, spills another, and die 0's heartbeat is 2^24 cycles old; cluster 0 holds an entry. -/
def sErr (failed spare : Bool) : State :=
  let s := sHome [] [(0, ent .live 0 [msg4])] fun k => { hosts ready4 k with spill := [msg4] }
  let s1 := s.setDie 0 { s.die 0 with failed := failed }
  s1.setDev { s1.dev with spareUsed := spare, clocks := [(clockBase 0, 0x1000000)] }
theorem witness_ErrorsAndDieLoss : isHbm 0x40 = true ∧ isSp (spPlace 0 32) = true ∧ isHbm 0x7000000000 = false ∧ isSp 0x7000000000 = false ∧
    (((sErr false true).core 0).inbox[0]?).isSome = true ∧ (sErr false true).journalled 0 0 4 = false ∧ ((sErr false true).core 0).spill[0]? = some msg4 ∧
    ((sErr false true).clu 0).hearth.find 0 = some (ent .live 0 [msg4]) ∧ ((sErr false true).core 0).inbox[7]? = none ∧ ((sErr true true).die 0).failed = true ∧
    ((sErr false true).die 0).failed = false ∧ sA.clock (clockBase 0) < (sA.die 0).heartbeat + 0x1000000 ∧ ((sErr false true).die 0).heartbeat + 0x1000000 ≤ (sErr false true).clock (clockBase 0) ∧
    (sErr false true).dev.spareUsed = true ∧ (sErr false false).dev.spareUsed = false ∧ (∀ q : Nat, ¬∃ y ∈ sA.dev.engines, ∃ z ∈ y.writes, z.1 / 32 = q / 32) ∧
    (∃ y ∈ (sEng { pq 0 0 with writes := [(0x45, 9)] }).dev.engines, ∃ z ∈ y.writes, z.1 / 32 = 0x40 / 32) := by
  refine ⟨?_, ?_, ?_, ?_, ?_, ?_, ?_, ?_, ?_, ?_, ?_, ?_, ?_, ?_, ?_, fun q => ?_, ?_⟩
  case refine_16 => exact fun ⟨y, hy, _⟩ => nomatch hy
  all_goals
  decide +kernel
theorem test_poison : after (.uncorrectableError (.block (spPlace 0 0x45))) sA (fun t => t.cell 0 (poisonPlace (spPlace 0 0x5F)) == 1 && t.cell 0 (poisonPlace (spPlace 0 0x60)) == 0) = true := by decide +kernel
theorem test_die_failure : after (.dieFailure 0) (sErr false true) (fun t => (t.die 0).failed) = true ∧ after (.dieFailure 0) (sErr false false) (fun t => !(t.die 0).failed && t.dev.siliconOf 0 == 8) = true := by decide +kernel

/-- The device with some units started, at supervisor core 0 of die 0 in mask ROM, with an image verified or offered. -/
def sUp (units : Nat) (image : Option (BitVec 256 × Nat × BitVec 64)) (offer : Bool) : State :=
  let s := withTables State.reset
  let s1 := s.setDie 0 { s.die 0 with image := image }
  s1.setDev { s1.dev with units := units, mgmt := { s1.dev.mgmt with offered := if offer then [(0, ([], [], [], 0))] else [] }, access := [(50000 * 64, 0x100007), (0, 0x100007)] }
def hostLine : List Byte := leBytes (77 + 2 ^ 64 * 4) 64
theorem witness_StartUpAndTheHost : (sUp 3 none false).dev.units < 10 ∧ ((10 : Nat) ≤ (sUp 11 none false).dev.units ∧ (sUp 11 none false).siliconDone 8 = true) ∧ 18 ≤ (sUp 18 none false).dev.units ∧
    (sUp 18 none false).dev.siliconUp ((sUp 18 none false).dev.siliconOf 0) = true ∧ (sUp 3 none false).dev.siliconUp 0 = false ∧ ((sUp 18 none false).die 0).failed = false ∧ ((sUp 18 none false).die 0).waves = 0 ∧
    ((sUp 18 none false).dev.powered = true ∧ (sUp 18 none false).cur = .sup 0 0 ∧ ((sUp 18 none false).ctx (.sup 0 0)).run = .idle) ∧ ((sUp 18 (some (0, 1, 0x80)) false).die 0).image ≠ none ∧
    (sUp 18 none true).dev.mgmt.offered.find 0 = some ([], [], [], 0) ∧ (sUp 18 none false).dev.mgmt.offered.find 0 = none ∧ (sUp 18 none false).dev.host.building = false ∧
    (sUp 18 none false).permitted targetHost 0 20 2 = true ∧ (sUp 18 none false).permitted targetHost 1 20 2 = false ∧ hostLine.length = 64 ∧ hostZeros (BitVec.ofNat 512 (leNat hostLine)) = true ∧
    hostZeros (BitVec.ofNat 512 (leNat (List.replicate 64 255))) = false ∧ (hostMessage 0 (BitVec.ofNat 512 (leNat hostLine))).cls = 4 ∧
    routeRefusal desc4 4 (hostMessage 0 (BitVec.ofNat 512 (leNat hostLine))).hdr = none ∧ (sUp 18 none false).permitted (targetOf 0x40) 0 20 2 = true ∧ (sUp 18 none false).permitted (targetOf 0x40) 1 20 2 = false ∧
    (sUp 18 none false).permitted (targetOf 0x40) 0 20 1 = true ∧ (∀ z ∈ span 0x40 64, (sUp 18 none false).cell (homeDie z) (poisonPlace z) = 0#8) ∧
    (let s := sUp 18 none false
     let s1 := s.setDev { s.dev with host := { s.dev.host with sent := countUp s.dev.host.sent 0 0 } }
     s.homeMissing desc4 0 77 = none ∧ s.homeMissing desc6 0 0xDEAD0000 = some 0xDEAD0000 ∧ ((s1.readDesc 0 0 4).1 = desc4) ∧ ((s1.readDesc 0 0 4).2.findHome 0 desc4 0 4 77).1 = .at s1.dev.num.toNat 0 0) := by
  and_intros <;> decide +kernel
theorem test_host_message : after (.hostMessageWrite 0 0 hostLine) (sUp 18 none false) (fun t => (t.dev.unitMsgs.map fun u => (u.m.key.toNat, u.m.cls.toNat)) == [(77, 4)]) = true := by decide +kernel
theorem test_host_memory : after (.hostMemoryAccess 0 0x45 (some 9)) (sUp 18 none false) (fun t => t.peek 0 0x40 8 == 9) = true := by decide +kernel
theorem test_starts : after .unitStart (sUp 3 none false) (fun t => t.dev.units == 4) = true ∧ after (.powerLimitSet 2601) (sUp 18 none false) (fun t => t.dev.mgmt.limit == 2600) = true := by decide +kernel

/-- Supervisor core 0 of die 0 with an image, and a firing of a class with a trap port. -/
def sTrap (h : Bool) : State :=
  let s := with' sup0 { rec' [] with handler := h }
  s.setDie 0 { s.die 0 with image := some (0, 1, 0x80) }
def descTrap7 : BitVec 512 := desc4 ||| 2 ^ 223 ||| 3 * 2 ^ 192
def sPort' (started : Bool) : State := at0 (sMsg p0 fun c => { c with kcls := 7, kkey := 77, firing := { cls := 7, key := 77, desc := descTrap7, trapStarted := started } }) (hosts { hosted .none true with cls := 7, desc := descTrap7 })
/-- A device-scope fence of the access half behind a store that another die has not. -/
def sHeldFence : State := with' p0 { rec' regs0 with sb := [{ cells := [(0x40, 7)] }], issued := 1, acc := [.fence 3] }
theorem witness_TakingACause : ((sTrap false).ctx sup0).handler = false ∧ ((sTrap false).die 0).image = some (0, 1, 0x80) ∧ ((sTrap true).ctx sup0).handler = true ∧
    ((sPort' false).ctx p0).firing.sheet = false ∧ descTrapp ((sPort' false).ctx p0).firing.desc = true ∧ ((sPort' false).ctx p0).firing.trapStarted = false ∧ descValid descTrap7 = true ∧
    descMalformed descTrap7 7 = false ∧ descSheet descTrap7 = false ∧ ((sPort' true).ctx p0).firing.trapStarted = true ∧ (let s := sA.leaveQueues p0
     (s.ctx p0).sb = [] ∧ (s.ctx p0).seqTraps = [] ∧ (s.ctx p0).acc = [] ∧ s.undoSel p0 = s ∧ s.leaveQueues p0 = s) ∧
    ((sA.accSettled p0).ctx p0).acc = [] ∧ ((sHeldFence.accSettled p0).ctx p0).acc ≠ [] ∧
    (let d := descTrap7 - 2 ^ 220 + 2 ^ 332
     descPlace d = 0#2 ∧ descMalformed d 7 = false ∧ descTrapp d = true ∧ descValid d = true) := by
  decide +kernel
theorem test_supervisor_cause : ((takeTrap (sTrap false) sup0 5 9).ctx sup0).pc = 0x80 ∧ ((takeTrap (sTrap true) sup0 5 9).ctx sup0).run = .halted := by decide +kernel
theorem test_context_cause : ((takeTrap sA p0 5 9).ctx p0).run = .parked ∧ ((takeTrap (sPort' false) p0 5 9).ctx p0).run = .idle := by decide +kernel

theorem witness_EveryStepKeepsMemoriesCanonical : State.reset.memoriesWf ∧ (match step State.reset with
    | .next _ => true
    | _ => false) = true := ⟨fun _ => rfl, by decide +kernel⟩
theorem witness_CausesOfTheirOwn : sA.cur.isSup = false ∧ sA.exeReady 0 [] := ⟨rfl, by unfold State.exeReady; decide⟩

end Sys2Proof.Machine.Tests
end

section
/-! PROOFS. The scheduling of a core: how a context picks, what the start and the end of a firing leave, and what a steal and
a refill of the quire move (01/R33 to R35, R45 to R47; 11/R215, R216, R237 to R239). -/

namespace Sys2Proof.Machine

/-! ## Registers at the start of a firing -/

section
variable (c : Ctx) (r : BitVec 5) (v : Reg)

/-- A register write changes the register file alone. -/
theorem Ctx.setReg_eq : c.setReg r v = { c with x := (c.setReg r v).x } := by
  unfold Ctx.setReg
  split <;> rfl

@[simp] theorem Ctx.setReg_run : (c.setReg r v).run = c.run := by rw [Ctx.setReg_eq]
@[simp] theorem Ctx.setReg_pc : (c.setReg r v).pc = c.pc := by rw [Ctx.setReg_eq]
@[simp] theorem Ctx.setReg_kcls : (c.setReg r v).kcls = c.kcls := by rw [Ctx.setReg_eq]
@[simp] theorem Ctx.setReg_kkey : (c.setReg r v).kkey = c.kkey := by rw [Ctx.setReg_eq]
@[simp] theorem Ctx.setReg_ltag : (c.setReg r v).ltag = c.ltag := by rw [Ctx.setReg_eq]
@[simp] theorem Ctx.setReg_fdep : (c.setReg r v).fdep = c.fdep := by rw [Ctx.setReg_eq]
@[simp] theorem Ctx.setReg_partid : (c.setReg r v).partid = c.partid := by rw [Ctx.setReg_eq]
@[simp] theorem Ctx.setReg_firing : (c.setReg r v).firing = c.firing := by rw [Ctx.setReg_eq]

end

/-- A context whose register file is fresh reads zero everywhere. -/
theorem Ctx.reg_of_zeros {c : Ctx} (h : c.x = Vector.replicate 32 0) (r : BitVec 5) : c.reg r = 0 := by
  simp [Ctx.reg, h]

/-- A payload goes to x10 to x15 alone. -/
theorem Ctx.reg_setPayload_other (c : Ctx) (m : BitVec 384) {r : BitVec 5} (h : r.toNat < 10 ∨ 15 < r.toNat) :
    (c.setPayload m).reg r = c.reg r := by
  have apart : ∀ q : BitVec 5, 10 ≤ q.toNat → q.toNat ≤ 15 → r ≠ q := by
    rintro q h1 h2 rfl
    omega
  unfold Ctx.setPayload
  rw [Ctx.reg_setReg_other _ _ (apart 15 (by decide) (by decide)), Ctx.reg_setReg_other _ _ (apart 14 (by decide) (by decide)),
    Ctx.reg_setReg_other _ _ (apart 13 (by decide) (by decide)), Ctx.reg_setReg_other _ _ (apart 12 (by decide) (by decide)),
    Ctx.reg_setReg_other _ _ (apart 11 (by decide) (by decide)), Ctx.reg_setReg_other _ _ (apart 10 (by decide) (by decide))]

/-- x10 holds the first dword of a payload. -/
theorem Ctx.reg_setPayload_first (c : Ctx) (m : BitVec 384) : (c.setPayload m).reg 10 = dataReg (payWord m 0) := by
  unfold Ctx.setPayload
  rw [Ctx.reg_setReg_other _ _ (by decide), Ctx.reg_setReg_other _ _ (by decide), Ctx.reg_setReg_other _ _ (by decide),
    Ctx.reg_setReg_other _ _ (by decide), Ctx.reg_setReg_other _ _ (by decide), Ctx.reg_setReg_same _ _ (by decide)]

/-- x15 holds the last dword of a payload. -/
theorem Ctx.reg_setPayload_last (c : Ctx) (m : BitVec 384) : (c.setPayload m).reg 15 = dataReg (payWord m 5) :=
  Ctx.reg_setReg_same _ _ (by decide)

section
variable (c : Ctx) (a : Actor) (pick : Pick) (entry : BitVec 64) (ms : List Message) (carve : Option Nat)

/-- What the CSRs and the firing of a context hold at the start of a keyed firing (R34). -/
theorem Ctx.startKeyed_fields :
    let y := c.startKeyed a pick entry ms carve
    let m := ms.headD {}
    y.run = .running ∧ y.pc = entry ∧ y.kcls = m.cls ∧ y.kkey = m.key ∧ y.ltag = hdrLtag m.hdr ∧
      y.fdep = hdrDepth m.hdr ∧ y.partid = a.part ∧ y.firing.consumed = ms ∧ y.firing.untaken = ms.drop 1 := by
  simp [Ctx.startKeyed, Ctx.setPayload, Ctx.fresh]

/-- Outside the payload's registers, x3 and x9 alone are not zero at the start of a keyed firing (R34). -/
theorem Ctx.reg_startKeyed {r : BitVec 5} (h : r.toNat < 10 ∨ 15 < r.toNat) :
    (c.startKeyed a pick entry ms carve).reg r =
      if r = 9 then dataReg (ms.headD {}).hdr else if r = 3 then windowCap a.off a.size else 0 := by
  unfold Ctx.startKeyed
  rw [Ctx.reg_setPayload_other _ _ h]
  by_cases h9 : r = 9
  · subst h9
    exact Ctx.reg_setReg_same _ _ (by decide)
  · rw [Ctx.reg_setReg_other _ _ h9, if_neg h9]
    by_cases h3 : r = 3
    · subst h3
      exact Ctx.reg_setReg_same _ _ (by decide)
    · rw [Ctx.reg_setReg_other _ _ h3, if_neg h3]
      exact Ctx.reg_of_zeros rfl r

/-- The payload of the first message at the start of a keyed firing (R34). -/
theorem Ctx.reg_startKeyed_payload :
    (c.startKeyed a pick entry ms carve).reg 10 = dataReg (payWord (ms.headD {}).pay 0) ∧
      (c.startKeyed a pick entry ms carve).reg 15 = dataReg (payWord (ms.headD {}).pay 5) :=
  ⟨Ctx.reg_setPayload_first _ _, Ctx.reg_setPayload_last _ _⟩

end

/-- A sheet without a resume record starts at its class's entry, with its four dwords in x9 to x12 (R45). -/
theorem Ctx.startSheet_fresh (c : Ctx) {y : Sheet} (d : BitVec 512) (h : y.resume.rpc = 0) :
    let z := c.startSheet y d
    z.run = .running ∧ z.pc = descEntry d ∧ z.firing.sheet = true ∧ z.kkey = y.d1 ∧ z.reg 9 = dataReg y.d0 ∧
      z.reg 10 = dataReg y.d1 ∧ z.reg 11 = dataReg y.d2 ∧ z.reg 12 = dataReg y.d3 ∧ z.reg 13 = 0 := by
  simp only [Ctx.startSheet, h, if_true, Ctx.setReg_run, Ctx.setReg_pc, Ctx.setReg_firing, Ctx.setReg_kkey, true_and]
  refine ⟨rfl, ?_, ?_, ?_, ?_, ?_⟩
  · rw [Ctx.reg_setReg_other _ _ (by decide), Ctx.reg_setReg_other _ _ (by decide), Ctx.reg_setReg_other _ _ (by decide),
      Ctx.reg_setReg_same _ _ (by decide)]
  · rw [Ctx.reg_setReg_other _ _ (by decide), Ctx.reg_setReg_other _ _ (by decide), Ctx.reg_setReg_same _ _ (by decide)]
  · rw [Ctx.reg_setReg_other _ _ (by decide), Ctx.reg_setReg_same _ _ (by decide)]
  · exact Ctx.reg_setReg_same _ _ (by decide)
  · rw [Ctx.reg_setReg_other _ _ (by decide), Ctx.reg_setReg_other _ _ (by decide), Ctx.reg_setReg_other _ _ (by decide),
      Ctx.reg_setReg_other _ _ (by decide)]
    exact Ctx.reg_of_zeros rfl 13

/-! ## Hosted actors -/

@[simp] theorem Actor.setPort_name (a : Actor) (p : Nat) (q : PortQ) : (a.setPort p q).name = a.name := rfl

/-- An actor keeps its name when a firing consumes its messages. -/
theorem Actor.consume_name (a : Actor) (pick : Pick) : (a.consume pick).2.name = a.name := by
  cases pick with
  | trap p => rfl
  | counter => rfl
  | topk p => rfl
  | group ps =>
    exact List.foldlRecOn (motive := fun acc : List Message × Actor => acc.2.name = a.name) ps _ rfl fun _ ih _ _ => ih

/-- An actor found under a name has it. -/
theorem Core.name_of_actor {k : Core} {n : ActorName} {a : Actor} (h : k.actor n = some a) : a.name = n := by
  simpa using List.find?_some h

/-- The actors that a core hosts decide what it finds under a name. -/
theorem Core.actor_congr {k l : Core} (h : k.actors = l.actors) (n : ActorName) : k.actor n = l.actor n := by
  simp [Core.actor, h]

/-- The actor of a name reads as it was changed, where the change keeps the name. -/
theorem Core.actor_setActor (k : Core) {n : ActorName} {f : Actor → Actor} (hf : ∀ a, a.name = n → (f a).name = n) :
    (k.setActor n f).actor n = (k.actor n).map f := by
  unfold Core.actor Core.setActor
  induction k.actors with
  | nil => rfl
  | cons a l ih =>
    by_cases h : a.name = n
    · simp [h, hf a h]
    · simpa [h] using ih

/-- Evaluating an actor changes at most its mark in the ready queue (R33). -/
theorem Core.actor_evaluate {k : Core} {n : ActorName} {a : Actor} (h : k.actor n = some a) :
    ∃ r : Bool, (k.evaluate n).actor n = some { a with ready := r } := by
  unfold Core.evaluate
  rw [h]
  dsimp only
  split
  · exact ⟨a.ready, h⟩
  · split
    · refine ⟨true, ?_⟩
      have changed := k.actor_setActor (n := n) (f := fun a => { a with ready := true }) fun _ e => e
      rw [h] at changed
      exact changed
    · exact ⟨a.ready, h⟩

/-- At the end of its firing an actor is no longer running, and keeps its ports (R33). -/
theorem Core.actor_endRun {k : Core} {n : ActorName} {a : Actor} (h : k.actor n = some a) :
    ∃ b : Actor, (k.endRun n).actor n = some b ∧ b.running = false ∧ b.ports = a.ports := by
  have changed := k.actor_setActor (n := n) (f := fun a => { a with running := false, saved := false }) fun _ e => e
  rw [h] at changed
  obtain ⟨r, hr⟩ := Core.actor_evaluate changed
  exact ⟨_, hr, rfl, rfl⟩

/-! ## Class descriptors read through the copies -/

/-- A read through the copies leaves the cores and the parties. -/
theorem State.copyDword_keeps (s : State) (die key q : Nat) :
    (s.copyDword die key q).2.cores = s.cores ∧ (s.copyDword die key q).2.ctxs = s.ctxs := by
  unfold State.copyDword
  dsimp only
  split <;> exact ⟨rfl, rfl⟩

theorem State.tableWords_keeps (s : State) (die : Nat) (part : BitVec 8) (q n : Nat) :
    (s.tableWords die part q n).2.cores = s.cores ∧ (s.tableWords die part q n).2.ctxs = s.ctxs := by
  induction n generalizing s q with
  | zero => exact ⟨rfl, rfl⟩
  | succ n ih =>
    obtain ⟨hcores, hctxs⟩ := s.copyDword_keeps die part.toNat q
    obtain ⟨rest_cores, rest_ctxs⟩ := ih (s.copyDword die part.toNat q).2 (q + 8)
    exact ⟨rest_cores.trans hcores, rest_ctxs.trans hctxs⟩

@[simp] theorem State.readDesc_core (s : State) (die : Nat) (part : BitVec 8) (cls : BitVec 16) (n : Nat) :
    ((s.readDesc die part cls).2).core n = s.core n := by
  simp only [State.core, State.readDesc, State.tableWords_keeps]

@[simp] theorem State.readDesc_ctx (s : State) (die : Nat) (part : BitVec 8) (cls : BitVec 16) (p : Party) :
    ((s.readDesc die part cls).2).ctx p = s.ctx p := by
  simp only [State.ctx, State.readDesc, State.tableWords_keeps]

/-- A read through the copies depends on the views and the copies alone. -/
theorem State.copyDword_congr {s t : State} (hd : t.dies = s.dies) (hv : t.dev = s.dev) (die key q : Nat) :
    (t.copyDword die key q).1 = (s.copyDword die key q).1 ∧
      (t.copyDword die key q).2.dies = (s.copyDword die key q).2.dies ∧
      (t.copyDword die key q).2.dev = (s.copyDword die key q).2.dev := by
  have peek : ∀ n q, State.peek t die q n = State.peek s die q n := by
    intro n
    induction n with
    | zero => exact fun _ => rfl
    | succ n ih => intro q; simp [State.peek, State.cell, State.die, hd, ih]
  unfold State.copyDword
  rw [hv]
  dsimp only
  split
  · exact ⟨rfl, hd, hv⟩
  · simp [State.peek64, peek, hd]

theorem State.tableWords_congr {s t : State} (hd : t.dies = s.dies) (hv : t.dev = s.dev) (die : Nat) (part : BitVec 8)
    (q n : Nat) : (t.tableWords die part q n).1 = (s.tableWords die part q n).1 := by
  induction n generalizing s t q with
  | zero => rfl
  | succ n ih =>
    obtain ⟨hw, hd1, hv1⟩ := State.copyDword_congr hd hv die part.toNat q
    have rest := ih hd1 hv1 (q + 8)
    simp only [State.tableWords, State.tableDword, hw, rest]

/-- A class descriptor depends on the views and the copies alone. -/
theorem State.readDesc_congr {s t : State} (hd : t.dies = s.dies) (hv : t.dev = s.dev) (die : Nat) (part : BitVec 8)
    (cls : BitVec 16) : (t.readDesc die part cls).1 = (s.readDesc die part cls).1 := by
  simp only [State.readDesc, State.ctbaseOf, hv, State.tableWords_congr hd hv]

/-! ## Picks (R238) -/

/-- The partition of a context (R86). -/
abbrev State.partOf (s : State) (c : CoreId) (k : Fin 4) : BitVec 8 := slotPart (s.core c.ix).slots k.val

/-- A ready actor of a partition waits at a core. -/
abbrev Core.keyedWaits (k : Core) (part : BitVec 8) : Bool := k.readyQ.any fun x => x.1 == part

/-- A sheet of a partition waits at a core. -/
abbrev Core.sheetsWait (k : Core) (part : BitVec 8) : Bool := (k.quireOvf ++ k.quire).any fun x => x.part == part

/-- A core's pick counter of a partition; at 3 it is the sheets' turn. -/
abbrev Core.pickTurn (k : Core) (part : BitVec 8) : Nat := k.pickCtr.getD part.toNat 0

/-- Two states that differ in the pick counters of a core at most. -/
structure State.SameButPicks (s t : State) (n : Nat) : Prop where
  core : ∃ m : Map Nat, t.core n = { s.core n with pickCtr := m }
  ctxs : t.ctxs = s.ctxs
  dies : t.dies = s.dies
  dev : t.dev = s.dev

theorem State.SameButPicks.ctx {s t : State} {n : Nat} (h : s.SameButPicks t n) (p : Party) : t.ctx p = s.ctx p := by
  simp only [State.ctx, h.ctxs]

theorem State.SameButPicks.refl (s : State) (n : Nat) : s.SameButPicks s n := ⟨⟨_, rfl⟩, rfl, rfl, rfl⟩

theorem State.SameButPicks.put (s : State) (n : Nat) (m : Map Nat) :
    s.SameButPicks (s.setCore n { s.core n with pickCtr := m }) n :=
  ⟨⟨m, State.core_setCore_same _ _ _⟩, rfl, rfl, rfl⟩

/-- A context that may not pick stays as it is. -/
theorem execContextPick_none {s : State} {c : CoreId} {k : Fin 4} (h : s.mayPick c k = false) :
    execContextPick c k s = .next s := by
  simp [execContextPick, h]

section
variable {s : State} {c : CoreId} {k : Fin 4} (may : s.mayPick c k = true)
include may

/-- A pick takes a keyed firing where one waits, unless a sheet waits too and it is the sheets' turn. -/
theorem execContextPick_keyed (hk : (s.core c.ix).keyedWaits (s.partOf c k) = true)
    (ht : (s.core c.ix).sheetsWait (s.partOf c k) = true → (s.core c.ix).pickTurn (s.partOf c k) ≠ 3) :
    ∃ u : State, s.SameButPicks u c.ix ∧ execContextPick c k s = .next (u.pickKeyed (.ctx c k) (s.partOf c k)) := by
  unfold execContextPick
  simp only [may, hk, Bool.not_true, Bool.false_eq_true, if_false, Bool.true_and, if_true]
  split
  next both => exact ⟨_, .put s c.ix _, by rw [if_neg (ht both)]⟩
  next => exact ⟨s, .refl s c.ix, rfl⟩

/-- A pick takes a sheet where one waits, unless a keyed firing waits too and it is not the sheets' turn. -/
theorem execContextPick_sheet (hs : (s.core c.ix).sheetsWait (s.partOf c k) = true)
    (ht : (s.core c.ix).keyedWaits (s.partOf c k) = true → (s.core c.ix).pickTurn (s.partOf c k) = 3) :
    ∃ u : State, s.SameButPicks u c.ix ∧ execContextPick c k s = .next (u.pickSheet (.ctx c k) (s.partOf c k)) := by
  unfold execContextPick
  simp only [may, hs, Bool.not_true, Bool.false_eq_true, if_false, Bool.and_true, if_true]
  split
  next keyed => exact ⟨_, .put s c.ix _, by rw [if_pos (ht keyed)]⟩
  next => exact ⟨s, .refl s c.ix, rfl⟩

end

/-- An actor whose firing on some pick has started, with the firing's number on the device. -/
def Actor.started (a : Actor) (pick : Pick) (seq : Nat) : Actor :=
  { (a.consume pick).2 with ready := false, running := true, lastFired := seq }

theorem Actor.started_name (a : Actor) (pick : Pick) (seq : Nat) : (a.started pick seq).name = a.name := a.consume_name pick

/-- A core once an actor has left its ready queue for a firing. -/
def Core.startFiring (k : Core) (n : ActorName) (b : Actor) : Core :=
  ({ k with readyQ := k.readyQ.erase n } : Core).setActor n fun _ => b

theorem Core.actor_startFiring {k : Core} {n : ActorName} {a b : Actor} (ha : k.actor n = some a) (hb : b.name = n) :
    (k.startFiring n b).actor n = some b := by
  have found : ({ k with readyQ := k.readyQ.erase n } : Core).actor n = some a := ha
  rw [Core.startFiring, Core.actor_setActor _ fun _ _ => hb, found, Option.map_some]

/-- The oldest ready actor of a partition leaves the ready queue, and its next firing starts in a context. -/
theorem State.pickKeyed_start {s : State} {p : Party} {part : BitVec 8} {n : ActorName} {a : Actor} {pick : Pick}
    (hn : ((s.core p.coreIx).readyQ.find? fun x => x.1 == part) = some n) (ha : (s.core p.coreIx).actor n = some a)
    (hp : a.nextPick = some pick) :
    ∃ (u : State) (seq : Nat), (u.core p.coreIx).actor n = some (a.started pick seq) ∧
      (u.core p.coreIx).readyQ = (s.core p.coreIx).readyQ.erase n ∧ u.ctx p = s.ctx p ∧
      s.pickKeyed p part =
        u.mod p fun c => c.startKeyed a pick (a.entryFor pick) (a.consume pick).1 (s.takeCarve p.coreIx a.desc) := by
  have found : ({ s.core p.coreIx with readyQ := (s.core p.coreIx).readyQ.erase n } : Core).actor n = some a := ha
  refine ⟨(s.setDev { s.dev with fireSeq := s.dev.fireSeq + 1 }).setCore p.coreIx
    ((s.core p.coreIx).startFiring n (a.started pick (s.dev.fireSeq + 1))), s.dev.fireSeq + 1, ?_, ?_, rfl, ?_⟩
  · rw [State.core_setCore_same]
    exact Core.actor_startFiring ha ((a.started_name pick _).trans (Core.name_of_actor ha))
  · rw [State.core_setCore_same]
    rfl
  · simp only [State.pickKeyed, hn, found, hp]
    rfl

/-- The newest sheet of a partition, of a class that its pick accepts, starts in a context. -/
theorem State.pickSheet_start {s : State} {p : Party} {part : BitVec 8} {y : Sheet} {q : Core} {d : BitVec 512}
    (hy : (s.core p.coreIx).popSheet part = some (y, q))
    (hd : (s.readDesc p.die.val part (y.d0.extractLsb' 0 16)).1 = d) (hr : sheetRefusal d (y.d0.extractLsb' 0 16) = none) :
    ∃ u : State, u.core p.coreIx = q ∧ u.ctx p = s.ctx p ∧ s.pickSheet p part = u.mod p fun c => c.startSheet y d := by
  have same : ((s.setCore p.coreIx q).readDesc p.die.val part (y.d0.extractLsb' 0 16)).1 = d :=
    (State.readDesc_congr (s := s) (t := s.setCore p.coreIx q) rfl rfl _ _ _).trans hd
  refine ⟨((s.setCore p.coreIx q).readDesc p.die.val part (y.d0.extractLsb' 0 16)).2, ?_, ?_, ?_⟩
  · rw [State.readDesc_core, State.core_setCore_same]
  · rw [State.readDesc_ctx, State.setCore_ctx]
  · simp only [State.pickSheet, hy, same, hr]

/-- What a pop takes does not depend on the pick counters. -/
theorem Core.popSheet_pickCtr {k : Core} {part : BitVec 8} {y : Sheet} {q : Core} (m : Map Nat)
    (h : k.popSheet part = some (y, q)) :
    ({ k with pickCtr := m } : Core).popSheet part = some (y, { q with pickCtr := m }) := by
  unfold Core.popSheet at h ⊢
  dsimp only at h ⊢
  split at h
  next x l hl =>
    cases h
    simp
  next hl =>
    simp only [Option.map_eq_some_iff] at h
    obtain ⟨⟨x, l⟩, hx, he⟩ := h
    cases he
    simp [hx]

/-! ## The end of a firing (R35, R215, R216) -/

/-- A table whose values are changed key by key. -/
theorem Map.find_map {α : Type} (m : Map α) (g : Nat → α → α) (i : Nat) :
    Map.find (m.map fun e => (e.1, g e.1 e.2)) i = (m.find i).map (g i) := by
  induction m with
  | nil => rfl
  | cons e m ih =>
    obtain ⟨k, v⟩ := e
    by_cases h : k = i
    · subst h
      simp [Map.find]
    · simpa [Map.find, h] using ih

theorem Map.getD_map {α : Type} (m : Map α) (g : Nat → α → α) (i : Nat) (d : α) (h : g i d = d) :
    Map.getD (m.map fun e => (e.1, g e.1 e.2)) i d = g i (m.getD i d) := by
  unfold Map.getD
  rw [Map.find_map]
  cases m.find i with
  | none => exact h.symm
  | some v => rfl

/-- A party's record, by its key, once a die has installed a write of some places (R182). -/
def Ctx.sees (c : Ctx) (key die : Nat) (qs : List Nat) : Ctx :=
  if dieOfParty key = die then { c with mon := c.mon.see qs } else c

/-- Of a party's record, an installation changes the monitor alone (R182). -/
theorem State.install_ctx (s : State) (d o : Nat) (cells : List (Nat × Byte)) (p : Party) :
    (s.install d o cells).ctx p =
      (s.ctx p).sees p.ix d ((cells.filter fun x => (s.die d).view.ord.getD x.1 0 < o).map (·.1)) := by
  have table : (s.install d o cells).ctxs = s.ctxs.map fun e => (e.1,
    e.2.sees e.1 d ((cells.filter fun x => (s.die d).view.ord.getD x.1 0 < o).map (·.1))) := rfl
  unfold State.ctx
  rw [table]
  refine Map.getD_map s.ctxs (fun key c => c.sees key d _) p.ix {} ?_
  unfold Ctx.sees
  split <;> rfl

theorem Ctx.sees_firing (c : Ctx) (key die : Nat) (qs : List Nat) : (c.sees key die qs).firing = c.firing := by
  unfold Ctx.sees
  split <;> rfl

theorem State.carryOut_ctxs (s : State) (d : Nat) (t : CarryEntry) : (s.carryOut d t).ctxs = s.ctxs := by
  unfold State.carryOut
  dsimp only
  split <;> rfl

theorem State.carryOut_cores (s : State) (d : Nat) (t : CarryEntry) : (s.carryOut d t).cores = s.cores := by
  unfold State.carryOut
  dsimp only
  split <;> rfl

/-- A write at a die leaves every party in its firing. -/
theorem State.writeAt_firing (s : State) (d : Nat) (cells : List (Nat × Byte)) (r : Bool) (prior : Map Nat) (p : Party) :
    ((s.writeAt d cells r prior).ctx p).firing = (s.ctx p).firing := by
  have carried : (s.writeAt d cells r prior).ctx p =
      (State.install { s with dev := { s.dev with wseq := s.dev.wseq + 1 } } d (s.dev.wseq + 1) cells).ctx p := by
    simp only [State.ctx, State.writeAt, State.carryOut_ctxs]
  rw [carried, State.install_ctx, Ctx.sees_firing]
  rfl

theorem State.writeAt_cores (s : State) (d : Nat) (cells : List (Nat × Byte)) (r : Bool) (prior : Map Nat) :
    (s.writeAt d cells r prior).cores = s.cores := State.carryOut_cores _ _ _

theorem State.commitWait_none {s : State} {p : Party} (h : (s.ctx p).firing.waitCounter = none) : s.commitWait p = s := by
  simp only [State.commitWait, h]

/-- `wait` writes the counter's HANDLER (R216). -/
theorem State.commitWait_some {s : State} {p : Party} {i : Nat} {a : BitVec 64}
    (h : (s.ctx p).firing.waitCounter = some (i, a)) :
    s.commitWait p = s.writeAt p.die.val (plainCells (bytesCells (spPlace p.coreIx
      ((s.ctx p).firing.winOff + descCtoff (s.ctx p).firing.desc * 16 + 16 * i + 8)) a.toNat 8)) false [] := by
  simp only [State.commitWait, h]

theorem State.commitWait_cores (s : State) (p : Party) : (s.commitWait p).cores = s.cores := by
  unfold State.commitWait
  dsimp only
  split
  · rfl
  · exact State.writeAt_cores _ _ _ _ _

theorem State.commitWait_firing (s : State) (p : Party) : ((s.commitWait p).ctx p).firing = (s.ctx p).firing := by
  unfold State.commitWait
  dsimp only
  split
  · rfl
  · exact State.writeAt_firing _ _ _ _ _ _

/-- A class without a journal has nothing to commit to one. -/
theorem State.commitJournal_unjournalled {s : State} {p : Party} (h : descJrnl (s.ctx p).firing.desc = false) :
    s.commitJournal p = s := by
  simp [State.commitJournal, h]

theorem State.recvAll_dies (s : State) (n : Nat) (ms : List Message) : (s.recvAll n ms).dies = s.dies := by
  induction ms generalizing s with
  | nil => rfl
  | cons m ms ih =>
    rw [State.recvAll, ih]
    split <;> rfl

/-- Counting received items leaves a core's actors. -/
theorem State.recvAll_actors (s : State) (n : Nat) (ms : List Message) :
    ((s.recvAll n ms).core n).actors = (s.core n).actors := by
  induction ms generalizing s with
  | nil => rfl
  | cons m ms ih =>
    rw [State.recvAll, ih]
    split
    · simp [State.recvUp]
    · rfl

/-- The release of the selection engine changes the clusters alone. -/
theorem State.releaseSel_eq (s : State) (p : Party) : s.releaseSel p = { s with clusters := (s.releaseSel p).clusters } := by
  unfold State.releaseSel
  dsimp only
  split
  · rfl
  · split <;> rfl

/-- The end of a gang changes the cluster and the members' records alone. -/
theorem State.dissolveGang_eq (s : State) (p : Party) :
    s.dissolveGang p = { s with clusters := (s.dissolveGang p).clusters, ctxs := (s.dissolveGang p).ctxs } := by
  unfold State.dissolveGang
  dsimp only
  split <;> rfl

/-- The end of a keyed firing without `bank` changes its core alone. -/
theorem State.endKeyed_done (s : State) (n : Nat) {f : Firing} (h : f.bankAfter = false) :
    s.endKeyed n f = s.setCore n ((s.core n).endRun f.name) := by
  simp [State.endKeyed, h]

/-- A firing does not end before its form has ended it, its stores have drained and nothing is awaited. -/
theorem execFiringEnd_waits {s : State} {c : CoreId} {k : Fin 4}
    (h : (s.ctx (.ctx c k)).run ≠ .ending ∨ (s.ctx (.ctx c k)).sb ≠ [] ∨ (s.ctx (.ctx c k)).waiting ≠ none) :
    execFiringEnd c k s = .next s := by
  have held : ((s.ctx (.ctx c k)).run != .ending || (s.ctx (.ctx c k)).sb != [] ||
      (s.ctx (.ctx c k)).waiting.isSome) = true := by
    simpa [Option.isSome_iff_ne_none, or_assoc] using h
  simp only [execFiringEnd, held, if_true]

/-- The end of a keyed firing that keeps no journal and does not bank: the machine as `wait` leaves it, with the context idle,
the actor no longer running and the memories untouched. -/
theorem execFiringEnd_keyed {s : State} {c : CoreId} {k : Fin 4} (hr : (s.ctx (.ctx c k)).run = .ending)
    (hb : (s.ctx (.ctx c k)).sb = []) (hw : (s.ctx (.ctx c k)).waiting = none) (hs : (s.ctx (.ctx c k)).firing.sheet = false)
    (hj : descJrnl (s.ctx (.ctx c k)).firing.desc = false) (ha : (s.ctx (.ctx c k)).firing.bankAfter = false) :
    ∃ u : State, u.dies = (s.commitWait (.ctx c k)).dies ∧ (u.core c.ix).actors = (s.core c.ix).actors ∧
      execFiringEnd c k s = .next ((u.mod (.ctx c k) Ctx.idle).setCore c.ix
        ((u.core c.ix).endRun (s.ctx (.ctx c k)).firing.name)) := by
  let s1 := (s.commitWait (.ctx c k)).recvAll c.ix (s.ctx (.ctx c k)).firing.consumed
  have commit : (s.commitWait (.ctx c k)).commitJournal (.ctx c k) = s.commitWait (.ctx c k) :=
    State.commitJournal_unjournalled (by rw [State.commitWait_firing, hj])
  refine ⟨(s1.releaseSel (.ctx c k)).dissolveGang (.ctx c k), ?_, ?_, ?_⟩
  · rw [State.dissolveGang_eq, State.releaseSel_eq]
    exact State.recvAll_dies _ _ _
  · rw [State.dissolveGang_eq, State.releaseSel_eq]
    refine (State.recvAll_actors _ _ _).trans ?_
    simp only [State.core, State.commitWait_cores]
  · simp only [execFiringEnd, hr, hb, hw, hs, commit, State.endKeyed_done _ _ ha]
    rfl

/-! ## Steals (R47) -/

/-- Sheets that a quire has room for on chip lie behind those it holds. -/
theorem Core.pushSheet_room {k : Core} (x : Sheet) (h : k.quire.length < 256) :
    k.pushSheet x = some (true, { k with quire := k.quire ++ [x] }) := by
  simp [Core.pushSheet, h]

/-- A fold that pushes and counts sheets pushes and counts them all where the quire has room for them. -/
theorem Core.foldl_push_room {g : Nat × Core → Sheet → Nat × Core}
    (hg : ∀ acc x, acc.2.quire.length < 256 → g acc x = (acc.1 + 1, { acc.2 with quire := acc.2.quire ++ [x] }))
    (l : List Sheet) (n : Nat) (k : Core) (h : k.quire.length + l.length ≤ 256) :
    l.foldl g (n, k) = (n + l.length, { k with quire := k.quire ++ l }) := by
  induction l generalizing n k with
  | nil => simp
  | cons x l ih =>
    have hl : k.quire.length + (l.length + 1) ≤ 256 := h
    rw [List.foldl_cons, hg (n, k) x (by dsimp only; omega), ih]
    · simp [Nat.add_comm, Nat.add_left_comm]
    · simp only [List.length_append, List.length_cons, List.length_nil]
      omega

/-- What is left of a partition's sheets in a list, and how many are still to leave, once the oldest have left. -/
theorem Core.dropOldest_go (part : BitVec 8) (n : Nat) (l : List Sheet) :
    (Core.dropOldest.go part n l).1.filter (fun y => y.part == part) = (l.filter fun y => y.part == part).drop n ∧
      (Core.dropOldest.go part n l).2 = n - (l.filter fun y => y.part == part).length := by
  induction l generalizing n with
  | nil => simp [Core.dropOldest.go]
  | cons y l ih =>
    by_cases hy : (y.part == part) = true
    · cases n with
      | zero =>
        obtain ⟨hf, hn⟩ := ih 0
        rw [List.drop_zero] at hf
        simp [Core.dropOldest.go, hy, hf, hn]
      | succ n =>
        obtain ⟨hf, hn⟩ := ih n
        simp [Core.dropOldest.go, hy, hf, hn]
    · obtain ⟨hf, hn⟩ := ih n
      simp [Core.dropOldest.go, hy, hf, hn]

/-- The sheets that leave a victim are its partition's oldest. -/
theorem Core.dropOldest_filter (k : Core) (part : BitVec 8) (n : Nat) :
    ((k.dropOldest part n).quireOvf ++ (k.dropOldest part n).quire).filter (fun y => y.part == part) =
      ((k.quireOvf ++ k.quire).filter fun y => y.part == part).drop n := by
  obtain ⟨hf, hn⟩ := Core.dropOldest_go part n k.quireOvf
  simp only [Core.dropOldest, List.filter_append, hf, hn, (Core.dropOldest_go part _ k.quire).1, List.drop_append]

/-- A round without a victim: no request for 256 cycles. -/
theorem State.steal_none {s : State} {p : Party} {c : CoreId} {part : BitVec 8}
    (h : ((stealOrder c).find? fun v => (s.core v).yields part != []) = none) :
    s.steal p c part = s.setCtx p { s.ctx p with stealAfter := (s.core c.ix).cyc + 256 } := by
  simp only [State.steal, h]
  rfl

/-- A round with a victim whose sheets the thief has room for on chip. -/
theorem State.steal_some {s : State} {p : Party} {c : CoreId} {part : BitVec 8} {v : Nat}
    (h : ((stealOrder c).find? fun v => (s.core v).yields part != []) = some v) (hv : v ≠ c.ix)
    (room : (s.core c.ix).quire.length + ((s.core v).yields part).length ≤ 256) :
    s.steal p c part = (s.setCore c.ix { s.core c.ix with quire := (s.core c.ix).quire ++ (s.core v).yields part }).setCore v
      ((s.core v).dropOldest part ((s.core v).yields part).length) := by
  simp only [State.steal, h]
  rw [Core.foldl_push_room (fun acc x hx => by rw [Core.pushSheet_room x hx]) _ _ _ room]
  simp only [State.core_setCore_other s _ hv, Nat.zero_add]

section
variable {s : State} {c : CoreId} {k : Fin 4}

/-- A victim is asked for an idle context with no keyed work, no sheets and no back-off. -/
theorem execStealServe_asks (may : s.mayPick c k = true)
    (hk : (s.core c.ix).keyedWaits (s.partOf c k) = false)
    (hs : (s.core c.ix).sheetsWait (s.partOf c k) = false)
    (hc : (s.ctx (.ctx c k)).stealAfter ≤ (s.core c.ix).cyc) :
    execStealServe c k s = .next (s.steal (.ctx c k) c (s.partOf c k)) := by
  simp only [execStealServe, may, hk, hs, hc, Bool.not_false, Bool.and_true, decide_true, if_true]

/-- No victim is asked during the back-off, and the back-off goes on. -/
theorem steal_backedOff (h : (s.core c.ix).cyc < (s.ctx (.ctx c k)).stealAfter) :
    execStealServe c k s = .next s ∧ execStealBackoffExpiry c k s = .next s := by
  have later := Nat.not_le.mpr h
  exact ⟨by simp [execStealServe, later], by simp [execStealBackoffExpiry, later]⟩

/-- The back-off ends. -/
theorem execStealBackoffExpiry_over (h : (s.ctx (.ctx c k)).stealAfter ≤ (s.core c.ix).cyc) :
    execStealBackoffExpiry c k s = .next (s.setCtx (.ctx c k) { s.ctx (.ctx c k) with stealAfter := 0 }) := by
  simp only [execStealBackoffExpiry, h, if_true]
  rfl

/-! ## The refill of the quire (R239) -/

/-- The newest sheets of the overflow area move back. -/
theorem execQuireRefill_refills (hq : (s.core c.ix).quire.length < 64) (ho : (s.core c.ix).quireOvf ≠ []) :
    let core := s.core c.ix
    let kept := core.quireOvf.length - min (128 - core.quire.length) core.quireOvf.length
    execQuireRefill c s = .next (s.setCore c.ix { core with
      quire := core.quireOvf.drop kept ++ core.quire, quireOvf := core.quireOvf.take kept }) := by
  simp [execQuireRefill, hq, ho]

/-- Nothing moves while 64 sheets are on chip, or none in the overflow area. -/
theorem execQuireRefill_rests (h : 64 ≤ (s.core c.ix).quire.length ∨ (s.core c.ix).quireOvf = []) :
    execQuireRefill c s = .next s := by
  rcases h with hq | ho
  · simp [execQuireRefill, Nat.not_lt.mpr hq]
  · simp [execQuireRefill, ho]

end

/-! ## The statement on picks, steals and the end of a firing -/

/-- CONTEXT_PICK of a keyed firing: what the context, the actor and the ready queue are after it. -/
theorem contextPick_keyed {s : State} {c : CoreId} {k : Fin 4} {name : ActorName} {a : Actor} {pick : Pick}
    (may : s.mayPick c k = true) (hk : (s.core c.ix).keyedWaits (s.partOf c k) = true)
    (ht : (s.core c.ix).sheetsWait (s.partOf c k) = true → (s.core c.ix).pickTurn (s.partOf c k) ≠ 3)
    (hn : ((s.core c.ix).readyQ.find? fun y => y.1 == s.partOf c k) = some name)
    (ha : (s.core c.ix).actor name = some a) (hp : a.nextPick = some pick) :
    ∃ (t : State) (carve : Option Nat), exec (.contextPick c k) s = .next t ∧
      t.ctx (.ctx c k) = (s.ctx (.ctx c k)).startKeyed a pick (a.entryFor pick) (a.consume pick).1 carve ∧
      (∃ b : Actor, (t.core c.ix).actor name = some b ∧ b.running = true ∧ b.ready = false) ∧
      (t.core c.ix).readyQ = (s.core c.ix).readyQ.erase name := by
  obtain ⟨u, hu, hexec⟩ := execContextPick_keyed may hk ht
  obtain ⟨m, hcore⟩ := hu.core
  obtain ⟨w, seq, hactor, hready, hctx, hpick⟩ := State.pickKeyed_start (s := u) (p := .ctx c k) (n := name)
    (part := s.partOf c k) (by simpa only [Party.coreIx, hcore] using hn)
    ((Core.actor_congr (by rw [Party.coreIx, hcore]) name).trans ha) hp
  rw [Party.coreIx, hcore] at hready
  refine ⟨_, u.takeCarve (Party.ctx c k).coreIx a.desc, (exec_contextPick s c k).trans (hexec.trans (congrArg _ hpick)),
    ?_, ⟨_, hactor, rfl, rfl⟩, hready⟩
  rw [State.mod_ctx, hctx, hu.ctx]

/-- CONTEXT_PICK of a sheet: what the context and the quire are after it. -/
theorem contextPick_sheet {s s1 : State} {c : CoreId} {k : Fin 4} {y : Sheet} {q : Core} {d : BitVec 512}
    (may : s.mayPick c k = true) (hs : (s.core c.ix).sheetsWait (s.partOf c k) = true)
    (ht : (s.core c.ix).keyedWaits (s.partOf c k) = true → (s.core c.ix).pickTurn (s.partOf c k) = 3)
    (hy : (s.core c.ix).popSheet (s.partOf c k) = some (y, q))
    (hd : s.readDesc c.die.val (s.partOf c k) (y.d0.extractLsb' 0 16) = (d, s1))
    (hr : sheetRefusal d (y.d0.extractLsb' 0 16) = none) :
    ∃ t : State, exec (.contextPick c k) s = .next t ∧ t.ctx (.ctx c k) = (s.ctx (.ctx c k)).startSheet y d ∧
      (t.core c.ix).quire = q.quire := by
  obtain ⟨u, hu, hexec⟩ := execContextPick_sheet may hs ht
  obtain ⟨m, hcore⟩ := hu.core
  have popped := Core.popSheet_pickCtr m hy
  rw [← hcore] at popped
  obtain ⟨w, hw, hctx, hpick⟩ := State.pickSheet_start (s := u) (p := .ctx c k) popped
    ((State.readDesc_congr hu.dies hu.dev _ _ _).trans (congrArg Prod.fst hd)) hr
  refine ⟨_, (exec_contextPick s c k).trans (hexec.trans (congrArg _ hpick)), ?_, ?_⟩
  · rw [State.mod_ctx, hctx, hu.ctx]
  · exact (congrArg Core.quire hw :)

/-- FIRING_END of a keyed firing that keeps no journal and does not bank. -/
theorem firingEnd_keyed {s : State} {c : CoreId} {k : Fin 4} (hr : (s.ctx (.ctx c k)).run = .ending)
    (hb : (s.ctx (.ctx c k)).sb = []) (hw : (s.ctx (.ctx c k)).waiting = none) (hs : (s.ctx (.ctx c k)).firing.sheet = false)
    (hj : descJrnl (s.ctx (.ctx c k)).firing.desc = false) (ha : (s.ctx (.ctx c k)).firing.bankAfter = false) :
    ∃ t : State, exec (.firingEnd c k) s = .next t ∧ (t.ctx (.ctx c k)).run = .idle ∧ (t.ctx (.ctx c k)).firing = {} ∧
      (∀ a : Actor, (s.core c.ix).actor (s.ctx (.ctx c k)).firing.name = some a →
        ∃ b : Actor, (t.core c.ix).actor (s.ctx (.ctx c k)).firing.name = some b ∧ b.running = false ∧
          b.ports = a.ports) ∧
      t.dies = (s.commitWait (.ctx c k)).dies := by
  obtain ⟨u, hdies, hactors, hexec⟩ := execFiringEnd_keyed hr hb hw hs hj ha
  have idle := u.mod_ctx (.ctx c k) Ctx.idle
  refine ⟨_, (exec_firingEnd s c k).trans hexec, (congrArg Ctx.run idle :), (congrArg Ctx.firing idle :),
    fun a found => ?_, hdies⟩
  rw [State.core_setCore_same]
  exact Core.actor_endRun ((Core.actor_congr hactors _).trans found)

/-- Settles O52: a pick, the end of a firing, a steal, the back-off and the refill each by what its step leaves. -/
theorem schedulingEvents : Obligations.SchedulingEvents := by
  intro s c k n core p x f part keyed all sheets turn
  refine ⟨?none, ?keyedPick, ?sheetPick, ?waits, ?ends, ?steals, ?backedOff, ?backOffOver, ?refills, ?rests⟩
  case none => exact execContextPick_none
  case keyedPick =>
    intro may hk ht name a pick hn ha hp
    obtain ⟨t, carve, hexec, hctx, hactor, hready⟩ := contextPick_keyed may hk ht hn ha hp
    refine ⟨t, hexec, ?_⟩
    intro ms m y
    have hy : y = x.startKeyed a pick (a.entryFor pick) ms carve := hctx
    obtain ⟨hrun, hpc, hcls, hkey, htag, hdep, hpart, hcons, huntaken⟩ :=
      x.startKeyed_fields a pick (a.entryFor pick) ms carve
    obtain ⟨h10, h15⟩ := x.reg_startKeyed_payload a pick (a.entryFor pick) ms carve
    rw [hy]
    refine ⟨hrun, hpc, hcls, hkey, htag, hdep, hpart, hcons, huntaken, ?_, ?_, h10, h15, ?_, hactor, hready⟩
    · exact x.reg_startKeyed a pick _ ms carve (r := 3) (by decide)
    · exact x.reg_startKeyed a pick _ ms carve (r := 9) (by decide)
    · intro r h3 hrange
      have h9 : r ≠ 9 := by
        rintro rfl
        simp at hrange
      rw [x.reg_startKeyed a pick _ ms carve (by omega), if_neg h9, if_neg h3]
  case sheetPick =>
    intro may hs ht y q d s1 hy hd hr hresume
    obtain ⟨t, hexec, hctx, hquire⟩ := contextPick_sheet may hs ht hy hd hr
    refine ⟨t, hexec, ?_⟩
    intro z
    have hz : z = x.startSheet y d := hctx
    obtain ⟨hrun, hpc, hsheet, hkey, h9, h10, h11, h12, h13⟩ := x.startSheet_fresh d hresume
    rw [hz]
    exact ⟨hrun, hpc, hsheet, hkey, h9, h10, h11, h12, h13, hquire⟩
  case waits => exact execFiringEnd_waits
  case ends =>
    intro hr hb hw hs hj ha
    obtain ⟨t, hexec, hrun, hfiring, hactor, hdies⟩ := firingEnd_keyed hr hb hw hs hj ha
    refine ⟨t, hexec, hrun, hfiring, hactor, fun h => ?_, fun i a h => ?_⟩
    · rw [hdies, State.commitWait_none h]
    · rw [hdies, State.commitWait_some h]
      rfl
  case steals =>
    intro may hk hs hc
    have asks := (exec_stealServe s c k).trans (execStealServe_asks may hk hs hc)
    refine ⟨fun hv => asks.trans (congrArg _ (State.steal_none hv)), ?_⟩
    intro v hv hne ys room
    refine ⟨_, asks.trans (congrArg _ (State.steal_some hv hne room)), ?_, ?_⟩
    · rw [State.core_setCore_other _ _ hne.symm, State.core_setCore_same]
    · rw [State.core_setCore_same]
      exact Core.dropOldest_filter _ _ _
  case backedOff => exact steal_backedOff
  case backOffOver => exact execStealBackoffExpiry_over
  case refills => exact execQuireRefill_refills
  case rests => exact execQuireRefill_rests

end Sys2Proof.Machine
end

section
/-! PROOFS. The decoder and the encoder answer each other (03/R52, R53): a word that decodes is the word of what it decodes to,
and the word of a well-formed instruction decodes to it. -/

namespace Sys2Proof.Laws

/-! ## What a decoder answers has the word -/

/-- What a decoder answers for a word is, where it answers, an instruction with that word. -/
def Faithful (w : BitVec 32) (r : Option Instr) : Prop := ∀ i, r = some i → encode i = some w

theorem Faithful.miss (w : BitVec 32) : Faithful w none := fun _ h => nomatch h

/-- An instruction whose word holds every bit of another word. -/
theorem Faithful.hit {w v : BitVec 32} {i : Instr} (h : encode i = some v) (hv : v = w.extractLsb' 0 32) :
    Faithful w (some i) := by
  rintro _ ⟨⟩
  rw [h, hv, extract_all]

/-- A test of a decoder: where it fails the rest decides, and where it holds the branch does. -/
theorem Faithful.ite {w : BitVec 32} {c : Prop} {_ : Decidable c} {r q : Option Instr} (rest : Faithful w q)
    (branch : c → Faithful w r) : Faithful w (if c then r else q) := by
  split
  next h => exact branch h
  next => exact rest

/-- Two pieces joined are the part of a word that the pieces are. -/
theorem join_eq_extract {n m k l : Nat} {a : BitVec m} {b : BitVec k} {w : BitVec n}
    (ha : a = w.extractLsb' (l + k) m) (hb : b = w.extractLsb' l k) : a ++ b = w.extractLsb' l (m + k) := by
  rw [ha, hb, extract_join]

/-! The pieces of a split immediate, taken out of it again. -/

theorem split_store (a : BitVec 7) (b : BitVec 5) :
    (a ++ b : BitVec 12).extractLsb' 5 7 = a ∧ (a ++ b : BitVec 12).extractLsb' 0 5 = b := by
  constructor
  · exact (extract_high a b 5 7 (by decide)).trans (extract_all a)
  · exact (extract_low a b 0 5 (by decide)).trans (extract_all b)

theorem split_branch (a b : BitVec 1) (c : BitVec 6) (d : BitVec 4) :
    (a ++ b ++ c ++ d : BitVec 12).extractLsb' 11 1 = a ∧ (a ++ b ++ c ++ d : BitVec 12).extractLsb' 10 1 = b ∧
      (a ++ b ++ c ++ d : BitVec 12).extractLsb' 4 6 = c ∧ (a ++ b ++ c ++ d : BitVec 12).extractLsb' 0 4 = d := by
  refine ⟨?_, ?_, ?_, ?_⟩
  · rw [extract_high, extract_high, extract_high]; exacts [extract_all a, by decide, by decide, by decide]
  · rw [extract_high, extract_high, extract_low]; exacts [extract_all b, by decide, by decide, by decide]
  · rw [extract_high, extract_low]; exacts [extract_all c, by decide, by decide]
  · rw [extract_low]; exacts [extract_all d, by decide]

theorem split_jal (a : BitVec 1) (b : BitVec 8) (c : BitVec 1) (d : BitVec 10) :
    (a ++ b ++ c ++ d : BitVec 20).extractLsb' 19 1 = a ∧ (a ++ b ++ c ++ d : BitVec 20).extractLsb' 11 8 = b ∧
      (a ++ b ++ c ++ d : BitVec 20).extractLsb' 10 1 = c ∧ (a ++ b ++ c ++ d : BitVec 20).extractLsb' 0 10 = d := by
  refine ⟨?_, ?_, ?_, ?_⟩
  · rw [extract_high, extract_high, extract_high]; exacts [extract_all a, by decide, by decide, by decide]
  · rw [extract_high, extract_high, extract_low]; exacts [extract_all b, by decide, by decide, by decide]
  · rw [extract_high, extract_low]; exacts [extract_all c, by decide, by decide]
  · rw [extract_low]; exacts [extract_all d, by decide]

/-- At every leaf of the decoder's tests stands nothing, or an instruction whose word has the tested fields where the tests
found them and its operands where the decoder took them. -/
theorem faithful_decodeFields (w : BitVec 32) : Faithful w (decodeFields w) := by
  unfold decodeFields decodeCustom1 decodeCustom1F6 decodeCustom1F5 decodeCustom1F4 decodeCustom1F3
    decodeCustom1F2 decodeCustom1F1 decodeCustom1F0 decodeCustom3 decodeCustom2 decodeCustom0
    decodeCustom0F7 decodeCustom0F6 decodeCustom0F5 decodeCustom0F4 decodeCustom0F3 decodeCustom0F2
    decodeCustom0F1 decodeCustom0F0 decodeNmadd decodeNmsub decodeMsub decodeMadd decodeOpFp
    decodeSystem decodeMiscMem decodeOp32 decodeOpImm32 decodeOp decodeOpF7 decodeOpF6 decodeOpF5
    decodeOpF4 decodeOpF3 decodeOpF2 decodeOpF1 decodeOpF0 decodeOpImm decodeStore decodeLoad
    decodeBranch decodeJalr decodeJal decodeAuipc decodeLui
  repeat' refine .ite ?_ fun h => ?_
  any_goals exact .miss w
  all_goals refine .hit rfl ?_
  all_goals repeat' refine join_eq_extract ?_ ?_
  all_goals simp only [Nat.reduceAdd, *, split_store, split_branch, split_jal]

/-- What the decoder answers comes from the fields, and is well-formed. -/
theorem wf_of_decode {w : BitVec 32} {i : Instr} (h : decode w = some i) : decodeFields w = some i ∧ i.wf = true := by
  unfold decode at h
  split at h
  next j hj =>
    split at h
    next wf => cases h; exact ⟨hj, wf⟩
    next => cases h
  next => cases h

/-- Settles O4: the decoder tests for well-formedness, and every leaf of its tests gives back the word. -/
theorem decodedWordIsTheEncoding : Obligations.DecodedWordIsTheEncoding := by
  intro w i h
  obtain ⟨fields, wf⟩ := wf_of_decode h
  exact ⟨wf, faithful_decodeFields w i fields⟩

/-! ## The word of an instruction decodes to it -/

/-- Every row of the opcode table keeps its round trip: one law for each constructor, in the order of the constructors. -/
theorem roundTrip (i : Instr) : RoundTrip.Statement i :=
  i.rec
    RoundTrip.lui RoundTrip.auipc RoundTrip.jal RoundTrip.jalr RoundTrip.beq RoundTrip.bne RoundTrip.blt
    RoundTrip.bge RoundTrip.bltu RoundTrip.bgeu RoundTrip.lb RoundTrip.lh RoundTrip.lw RoundTrip.ld RoundTrip.lbu
    RoundTrip.lhu RoundTrip.lwu RoundTrip.sb RoundTrip.sh RoundTrip.sw RoundTrip.sd RoundTrip.addi RoundTrip.slti
    RoundTrip.sltiu RoundTrip.xori RoundTrip.ori RoundTrip.andi RoundTrip.slli RoundTrip.srli RoundTrip.srai
    RoundTrip.add RoundTrip.sll RoundTrip.slt RoundTrip.sltu RoundTrip.xor RoundTrip.srl RoundTrip.or RoundTrip.and
    RoundTrip.sub RoundTrip.sra RoundTrip.mul RoundTrip.mulh RoundTrip.mulhsu RoundTrip.mulhu RoundTrip.div
    RoundTrip.divu RoundTrip.rem RoundTrip.remu RoundTrip.addiw RoundTrip.slliw RoundTrip.srliw RoundTrip.sraiw
    RoundTrip.addw RoundTrip.subw RoundTrip.sllw RoundTrip.srlw RoundTrip.sraw RoundTrip.mulw RoundTrip.divw
    RoundTrip.divuw RoundTrip.remw RoundTrip.remuw RoundTrip.fence RoundTrip.ecall RoundTrip.ebreak RoundTrip.csrrw
    RoundTrip.csrrs RoundTrip.csrrc RoundTrip.csrrwi RoundTrip.csrrsi RoundTrip.csrrci RoundTrip.faddS
    RoundTrip.faddD RoundTrip.fsubS RoundTrip.fsubD RoundTrip.fmulS RoundTrip.fmulD RoundTrip.fdivS RoundTrip.fdivD
    RoundTrip.fsqrtS RoundTrip.fsqrtD RoundTrip.fsgnjS RoundTrip.fsgnjD RoundTrip.fsgnjnS RoundTrip.fsgnjnD
    RoundTrip.fsgnjxS RoundTrip.fsgnjxD RoundTrip.fminS RoundTrip.fminD RoundTrip.fmaxS RoundTrip.fmaxD
    RoundTrip.fleS RoundTrip.fleD RoundTrip.fltS RoundTrip.fltD RoundTrip.feqS RoundTrip.feqD RoundTrip.fclassS
    RoundTrip.fclassD RoundTrip.fcvtWS RoundTrip.fcvtWuS RoundTrip.fcvtLS RoundTrip.fcvtLuS RoundTrip.fcvtWD
    RoundTrip.fcvtWuD RoundTrip.fcvtLD RoundTrip.fcvtLuD RoundTrip.fcvtSW RoundTrip.fcvtSWu RoundTrip.fcvtSL
    RoundTrip.fcvtSLu RoundTrip.fcvtDW RoundTrip.fcvtDWu RoundTrip.fcvtDL RoundTrip.fcvtDLu RoundTrip.fcvtSD
    RoundTrip.fcvtDS RoundTrip.fmaddS RoundTrip.fmaddD RoundTrip.fmsubS RoundTrip.fmsubD RoundTrip.fnmsubS
    RoundTrip.fnmsubD RoundTrip.fnmaddS RoundTrip.fnmaddD RoundTrip.cbase RoundTrip.clen RoundTrip.cperm
    RoundTrip.ctag RoundTrip.cbnd RoundTrip.cbndx RoundTrip.cadd RoundTrip.cset RoundTrip.candp RoundTrip.cmv
    RoundTrip.cclr RoundTrip.csub RoundTrip.cseal RoundTrip.cunseal RoundTrip.caddi RoundTrip.clc RoundTrip.csc
    RoundTrip.lda RoundTrip.stl RoundTrip.fenceScoped RoundTrip.taglk RoundTrip.tagins RoundTrip.tagdel
    RoundTrip.tagpin RoundTrip.tagunpin RoundTrip.cbinit RoundTrip.cbput RoundTrip.cbget RoundTrip.cbrel
    RoundTrip.cbstat RoundTrip.barinit RoundTrip.bararv RoundTrip.bardrop RoundTrip.barwait RoundTrip.barrd
    RoundTrip.amoAddW RoundTrip.amoAddD RoundTrip.amoAddfW RoundTrip.amoAddfD RoundTrip.amoMinW RoundTrip.amoMinD
    RoundTrip.amoMaxW RoundTrip.amoMaxD RoundTrip.amoMinuW RoundTrip.amoMinuD RoundTrip.amoMaxuW RoundTrip.amoMaxuD
    RoundTrip.amoSwapW RoundTrip.amoSwapD RoundTrip.amoCasW RoundTrip.amoCasD RoundTrip.amoAndW RoundTrip.amoAndD
    RoundTrip.amoOrW RoundTrip.amoOrD RoundTrip.amoXorW RoundTrip.amoXorD RoundTrip.mon RoundTrip.monw
    RoundTrip.bmov RoundTrip.bfill RoundTrip.rep RoundTrip.rgn RoundTrip.wbind RoundTrip.wstat RoundTrip.wdrain
    RoundTrip.wunbind RoundTrip.vadd RoundTrip.vsub RoundTrip.vmul RoundTrip.vfma RoundTrip.vfms RoundTrip.vmax
    RoundTrip.vmin RoundTrip.vabs RoundTrip.vneg RoundTrip.vclamp RoundTrip.vcvt RoundTrip.vrcp RoundTrip.vrsq
    RoundTrip.vexp2 RoundTrip.vredSum RoundTrip.vredMax RoundTrip.vredMin RoundTrip.vcmpEq RoundTrip.vcmpLt
    RoundTrip.vcmpLe RoundTrip.vsel RoundTrip.vand RoundTrip.vor RoundTrip.vxor RoundTrip.vshl RoundTrip.vshr
    RoundTrip.vmov RoundTrip.vsplat RoundTrip.vaddi RoundTrip.vmuli RoundTrip.vmaxi RoundTrip.send RoundTrip.sendb
    RoundTrip.decr RoundTrip.carry RoundTrip.mpop RoundTrip.mpeek RoundTrip.mdrop RoundTrip.done RoundTrip.wait
    RoundTrip.bank RoundTrip.pin RoundTrip.spawn RoundTrip.lwait RoundTrip.shpush RoundTrip.cpost RoundTrip.cpostNb
    RoundTrip.cstat RoundTrip.tcfg RoundTrip.mzero RoundTrip.mload RoundTrip.mma RoundTrip.mmag RoundTrip.mgang
    RoundTrip.mdrain RoundTrip.msync RoundTrip.mchk RoundTrip.dkl RoundTrip.selld RoundTrip.selstep
    RoundTrip.selcut RoundTrip.selrun RoundTrip.selget RoundTrip.seqmap RoundTrip.steer RoundTrip.taprd
    RoundTrip.xret RoundTrip.park RoundTrip.atinv RoundTrip.atprobe RoundTrip.hintPoint RoundTrip.preempt
    RoundTrip.resumeCore RoundTrip.retry RoundTrip.abandon RoundTrip.move RoundTrip.unpin
    RoundTrip.clearFaultedMark RoundTrip.setreg RoundTrip.sltgoRequest RoundTrip.slotTableInstall
    RoundTrip.stareaWrite RoundTrip.spqWrite RoundTrip.qovfWrite RoundTrip.tapArm RoundTrip.tapDisarm
    RoundTrip.tapTablePointerWrite RoundTrip.registerWrite RoundTrip.drain RoundTrip.carryDelivery
    RoundTrip.deliver RoundTrip.ownerAmo RoundTrip.carriedCodeRun RoundTrip.barrierInitOp RoundTrip.barrierArriveOp
    RoundTrip.barrierWaitOp RoundTrip.barrierCancel RoundTrip.barrierReadOp RoundTrip.replyDelivery
    RoundTrip.barwaitTimeout RoundTrip.monwTimeout RoundTrip.cbputEffect RoundTrip.streamWindowFill
    RoundTrip.homeMessageArrival RoundTrip.kindleHostRetry RoundTrip.kindleStateInPlace RoundTrip.bankIntent
    RoundTrip.bankOrder RoundTrip.shipOrder RoundTrip.imageWritten RoundTrip.bankRefused RoundTrip.moveStateInPlace
    RoundTrip.addrHomeHandover RoundTrip.handoverMarker RoundTrip.decrementApply RoundTrip.contextPick
    RoundTrip.firingEnd RoundTrip.stealServe RoundTrip.stealBackoffExpiry RoundTrip.quireRefill
    RoundTrip.launchExpansionStart RoundTrip.launchItem RoundTrip.launchSweep RoundTrip.gangReserve
    RoundTrip.gangStart RoundTrip.gangStartDelivery RoundTrip.gangRelease RoundTrip.probeTokenSend
    RoundTrip.probeTokenForward RoundTrip.emergencyEntry RoundTrip.spillRedelivery RoundTrip.journalAppend
    RoundTrip.requestAccept RoundTrip.copyRead RoundTrip.copyWrite RoundTrip.reduceElement
    RoundTrip.orderedReduceApply RoundTrip.cbfillSlotPut RoundTrip.stamp RoundTrip.wrenqEnqueue RoundTrip.notify
    RoundTrip.matrixOpStart RoundTrip.matrixOpRetire RoundTrip.gangOpStart RoundTrip.selectionEngineGrant
    RoundTrip.pageWalk RoundTrip.long RoundTrip.short RoundTrip.rereq RoundTrip.msg RoundTrip.sweep RoundTrip.ack
    RoundTrip.doneResponse RoundTrip.rdata RoundTrip.fwd RoundTrip.drop RoundTrip.mack RoundTrip.grant
    RoundTrip.revoke RoundTrip.resume RoundTrip.setaside RoundTrip.clear RoundTrip.data RoundTrip.damperGrant
    RoundTrip.tokenExpiry RoundTrip.rereqTimeout RoundTrip.prefixTrackerTimeout RoundTrip.damperSave
    RoundTrip.damperRestore RoundTrip.switchSetAside RoundTrip.switchClear RoundTrip.switchCombine
    RoundTrip.flitCrcFail RoundTrip.linkFailure RoundTrip.uncorrectableError RoundTrip.correctedErrorThreshold
    RoundTrip.heartbeatTimeout RoundTrip.dieFailure RoundTrip.hostMessageWrite RoundTrip.hostMemoryAccess
    RoundTrip.attestationRequest RoundTrip.attestationReportReady RoundTrip.powerOn RoundTrip.clusterWaveStart
    RoundTrip.powerLimitSet RoundTrip.powerLimitEngage RoundTrip.illegalInstruction RoundTrip.instructionFetchFault
    RoundTrip.combinedDoneSplit RoundTrip.portUp RoundTrip.unitStart RoundTrip.powerDown

/-- Settles O3: the round trips of the rows, taken together. -/
theorem encodedInstructionDecodesBack : Obligations.EncodedInstructionDecodesBack := roundTrip

/-- Settles O2: the words are those of well-formed instructions, and the two words of one digit match no major opcode. -/
theorem tableWordsDecode : Obligations.TableWordsDecode :=
  ⟨roundTrip (.caddi 5 6 0xFF0) rfl _ rfl, roundTrip (.send 5 6 7) rfl _ rfl, roundTrip .xret rfl _ rfl,
    roundTrip (.bararv 5 6 7) rfl _ rfl, roundTrip .ecall rfl _ rfl, roundTrip .ebreak rfl _ rfl,
    roundTrip (.fence 0 15 15) rfl _ rfl, roundTrip (.add 5 6 7) rfl _ rfl, roundTrip (.addi 5 6 10) rfl _ rfl,
    roundTrip (.stl 8 7 3 3) rfl _ rfl, roundTrip (.amoCasD 5 7 6) rfl _ rfl, rfl, rfl⟩

end Sys2Proof.Laws
end

section
/-! PROOFS. The turn of a running party: the clock, the access half, the fetch, and the instruction that the word decodes to
(03/R51, R52, R74; 07/R139; 23/R379). -/

namespace Sys2Proof.Machine

/-! ## What a step of the access half leaves of a wait -/

@[simp] theorem Ctx.setReg_waiting (c : Ctx) (r : BitVec 5) (v : Reg) : (c.setReg r v).waiting = c.waiting := by
  rw [Ctx.setReg_eq]

@[simp] theorem Ctx.result_waiting (c : Ctx) (rd : BitVec 5) (v : Reg) : (c.result rd v).waiting = c.waiting := by
  unfold Ctx.result
  split
  · rfl
  · exact c.setReg_waiting rd v

@[simp] theorem Ctx.loaded_waiting (c : Ctx) (rd : BitVec 5) (v : Reg) : (c.loaded rd v).waiting = c.waiting := by
  unfold Ctx.loaded
  split
  · rfl
  · exact c.result_waiting rd v

@[simp] theorem State.acquired_waiting (s : State) (p : Party) (sc : BitVec 3) :
    ((s.acquired p sc).ctx p).waiting = (s.ctx p).waiting := by
  simp [State.acquired, Ctx.sync]

/-- The access half neither begins nor ends a wait of its party. -/
@[simp] theorem State.accStep_waiting (s : State) (p : Party) : ((s.accStep p).ctx p).waiting = (s.ctx p).waiting := by
  unfold State.accStep
  dsimp only
  split
  case h_1 => rfl
  case h_2 rd qs k rest _ =>
    split
    · rfl
    · split
      · exact (congrArg Ctx.waiting (State.mod_ctx _ _ _) :)
      · simp
  case h_3 => split <;> simp
  case h_4 => simp [Ctx.store]
  case h_5 => split <;> simp [Ctx.sync]

/-- Where the access half holds nothing it does nothing. -/
theorem State.accStep_nil {s : State} {p : Party} (h : (s.ctx p).acc = []) : s.accStep p = s := by
  simp [State.accStep, h]

/-! ## The turn of a running party -/

/-- A step of a running party that waits for nothing fetches, decodes and executes. -/
theorem step_running {s : State} (powered : s.dev.powered = true) (agenda : s.agenda = [])
    (running : (s.ctx s.cur).run = .running) (free : (s.ctx s.cur).waiting = none) :
    step s = fetchExec ((s.tick s.cur.coreIx 1).accStep s.cur) s.cur := by
  have still : (((s.tick s.cur.coreIx 1).accStep s.cur).ctx s.cur).waiting = none := by
    rw [State.accStep_waiting]
    exact free
  have turn : step s = runTurn s s.cur := by simp [step, powered, agenda]
  rw [turn]
  unfold runTurn
  simp only [running, still]

/-- A state with what the access half has done ahead set by the party's pc, as a fetch finds it (R74). -/
def State.aligned (s : State) (p : Party) : State :=
  if (s.ctx p).ahead.isEmpty then s else s.mod p Ctx.alignAhead

/-- Where the store-data queue has just held a form, the access half goes on (R74, R76). -/
noncomputable def State.goOn (s : State) (p : Party) : State := if (s.ctx p).held then s.runAhead p else s

section
variable {s : State} {p : Party}

/-- Where the access half has looked at nothing ahead, the word is fetched, and no instruction is passed. -/
theorem State.wordAt_fetch (h : (s.ctx p).ahead = []) : s.wordAt p = s.fetchWord p (s.ctx p).pc := by
  simp only [State.wordAt, h]

theorem State.passAhead_nil (h : (s.ctx p).ahead = []) (i : Instr) : s.passAhead p i = none := by
  simp only [State.passAhead, h]

/-- Where it has looked ahead, its word stands for the fetch. -/
theorem State.wordAt_ahead {a : Ahead} {rest : List Ahead} (h : (s.ctx p).ahead = a :: rest) : s.wordAt p = .val a.word := by
  simp only [State.wordAt, h]

variable {w : BitVec 32} {i : Instr}

theorem execHalves_passed {t : State} (h : s.passAhead p i = some t) : execHalves s p i = .next (t.goOn p) := by
  simp only [execHalves, h, State.goOn]

theorem execHalves_next {t : State} (h : s.passAhead p i = none) (he : exec i s = .next t) :
    execHalves s p i = .next (t.goOn p) := by
  simp only [execHalves, h, he, State.goOn]

theorem execHalves_fault {f : Fault} (h : s.passAhead p i = none) (he : exec i s = .fault f) :
    execHalves s p i = .fault f := by
  simp only [execHalves, h, he]

theorem execHalves_refused {r : Refusal} (h : s.passAhead p i = none) (he : exec i s = .refused r) :
    execHalves s p i = .refused r := by
  simp only [execHalves, h, he]

/-- What a fetch that gives an instruction, a word that is none, a cause, or a missing translation leads to. -/
theorem fetchExec_instr (hw : (s.aligned p).wordAt p = .val w) (hd : decode w = some i) :
    fetchExec s p = execHalves (s.aligned p) p i := by
  unfold State.aligned at *
  simp only [fetchExec, hw, hd]

theorem fetchExec_illegal (hw : (s.aligned p).wordAt p = .val w) (hd : decode w = none) :
    fetchExec s p = exec (.illegalInstruction w) (s.aligned p) := by
  unfold State.aligned at *
  simp only [fetchExec, hw, hd]

theorem fetchExec_fault {c : BitVec 6} {t : BitVec 64} (hw : (s.aligned p).wordAt p = .trap c t) :
    fetchExec s p = exec (.instructionFetchFault c t) (s.aligned p) := by
  unfold State.aligned at *
  simp only [fetchExec, hw]

theorem fetchExec_walk {part : BitVec 8} {va : Nat} (hw : (s.aligned p).wordAt p = .walk part va) :
    fetchExec s p = .next ((s.aligned p).askWalk p part va) := by
  unfold State.aligned at *
  simp only [fetchExec, hw]

end

/-- Settles O5: a step is the clock's, the access half's, and then what the fetch and the two halves make of the word. -/
theorem stepRunsTheDecodedInstruction : Obligations.StepRunsTheDecodedInstruction := by
  intro s powered agenda running free s1 s2 go
  have turn : step s = fetchExec s1 s.cur := step_running powered agenda running free
  refine ⟨?accIdle, ?notAhead, ?fetches, ?ahead, ?decodes, ?illegal, ?faults, ?walks⟩
  case accIdle => exact State.accStep_nil (s := s.tick s.cur.coreIx 1)
  case notAhead =>
    intro h
    exact if_pos (by rw [h]; rfl)
  case fetches => exact fun h => ⟨State.wordAt_fetch h, State.passAhead_nil h⟩
  case ahead => exact fun a rest => State.wordAt_ahead
  case decodes =>
    intro w i hw hd
    have halves : step s = execHalves s2 s.cur i := turn.trans (fetchExec_instr hw hd)
    refine ⟨fun t h => halves.trans (execHalves_passed h), fun h => ⟨fun t he => ?_, fun f he => ?_, fun r he => ?_⟩⟩
    · exact halves.trans (execHalves_next h he)
    · exact halves.trans ((execHalves_fault h he).trans he.symm)
    · exact halves.trans ((execHalves_refused h he).trans he.symm)
  case illegal => exact fun w hw hd => turn.trans (fetchExec_illegal hw hd)
  case faults => exact fun c t hw => turn.trans (fetchExec_fault hw)
  case walks => exact fun part va hw => turn.trans (fetchExec_walk hw)

/-- Settles O12: each of these forms is its cause, or the next pc, and nothing else. -/
theorem causesOfTheirOwn : Obligations.CausesOfTheirOwn := fun s w c t h =>
  ⟨exec_ecall s, exec_ebreak s, exec_illegalInstruction s w, exec_instructionFetchFault s c t, exec_hintPoint s h⟩

end Sys2Proof.Machine
end

section
/-! PROOFS. What source and destination fields do, and the frame of the integer forms (03/R68, R74 to R76; 07/R134). -/

namespace Sys2Proof.Machine

/-! ## Changes to one party -/

section
variable {s t u : State} {p : Party}

theorem State.onlyParty.refl (s : State) (p : Party) : s.onlyParty s p := ⟨rfl, rfl, rfl, rfl, rfl, rfl, fun _ _ => rfl⟩

theorem State.onlyParty.trans (h : s.onlyParty t p) (k : t.onlyParty u p) : s.onlyParty u p := by
  obtain ⟨hcur, hagenda, hcores, hclusters, hdies, hdev, hctx⟩ := h
  obtain ⟨kcur, kagenda, kcores, kclusters, kdies, kdev, kctx⟩ := k
  exact ⟨kcur.trans hcur, kagenda.trans hagenda, kcores.trans hcores, kclusters.trans hclusters, kdies.trans hdies,
    kdev.trans hdev, fun q hq => (kctx q hq).trans (hctx q hq)⟩

/-- A change of one record changes that party alone. -/
theorem State.mod_onlyParty (s : State) (p : Party) (f : Ctx → Ctx) : s.onlyParty (s.mod p f) p :=
  ⟨rfl, rfl, rfl, rfl, rfl, rfl, fun _ hq => s.mod_ctx_other f hq⟩

theorem State.onlyParty.dies (h : s.onlyParty t p) : t.dies = s.dies := h.2.2.2.2.1

/-- The bytes of a die depend on the dies alone. -/
theorem State.cell_congr (h : t.dies = s.dies) (d q : Nat) : t.cell d q = s.cell d q := by
  simp only [State.cell, State.die, h]

/-- What a party sees depends on the dies and its store buffer alone (R175). -/
theorem State.see_congr (hd : t.dies = s.dies) (hb : (t.ctx p).sb = (s.ctx p).sb) (q : Nat) : t.see p q = s.see p q := by
  simp only [State.see, hb, State.cell_congr hd]

end

/-! ## Source fields -/

/-- Of the machine, nothing but the load-data queue of one party differs: what source fields do (R75). -/
def State.popped (s t : State) (p : Party) : Prop := s.onlyParty t p ∧ ∃ l, t.ctx p = { s.ctx p with qld := l }

section
variable {s t u : State} {p : Party}

theorem State.popped.refl (s : State) (p : Party) : s.popped s p := ⟨.refl s p, _, rfl⟩

theorem State.popped.trans (h : s.popped t p) (k : t.popped u p) : s.popped u p := by
  obtain ⟨hp, l, hl⟩ := h
  obtain ⟨kp, m, hm⟩ := k
  exact ⟨hp.trans kp, m, by rw [hm, hl]⟩

/-- A source field that gives a value pops the load-data queue at most, and a register pops nothing. -/
theorem State.src_popped {r : BitVec 5} {a : Reg} (h : s.src p r = .val (a, t)) :
    s.popped t p ∧ (r ≠ 28#5 → t = s) := by
  by_cases hr : r = 28#5
  · subst hr
    refine ⟨?_, fun h => absurd rfl h⟩
    cases hq : (s.ctx p).qld with
    | nil =>
      rw [s.src_empty p hq] at h
      split at h <;> cases h
    | cons v rest =>
      rw [s.src_pop p hq] at h
      cases h
      exact ⟨s.mod_onlyParty p _, rest, s.mod_ctx p _⟩
  · rw [s.src_register p hr] at h
    cases h
    exact ⟨.refl s p, fun _ => rfl⟩

end

/-! ## The execute half before its operands -/

section
variable {s : State} {rd : BitVec 5} {rs qs : List (BitVec 5)}

/-- A form of fewer sources may run where one of more may. -/
theorem State.exeReady_sub (h : s.exeReady rd rs) (hs : ∀ r ∈ qs, r ∈ rs) : s.exeReady rd qs := by
  obtain ⟨hrd, hrs, hawaits, hheld⟩ := h
  refine ⟨hrd, fun h => hrs (hs _ h), Ctx.awaits_sub hawaits fun r hr => .inl ?_, hheld⟩
  rcases List.mem_cons.mp hr with rfl | hr
  · exact List.mem_cons_self
  · exact List.mem_cons_of_mem _ (hs r hr)

/-- A form that would push a full store-data queue is held (R76). -/
theorem State.exePre_held (s : State) (p : Party) (w : BitVec 32) (h16 : 16 ≤ (s.ctx p).qst.length) (hrs : 29#5 ∉ rs)
    (ha : (s.ctx p).awaits (29#5 :: rs) = false) :
    s.exePre p w 29#5 rs = .stall (s.setCtx p { s.ctx p with held := true }) := by
  have named : (rs.any fun r => r == 29#5) = false := by
    simp only [List.any_eq_false, beq_iff_eq]
    rintro x hx rfl
    exact hrs hx
  have full : (s.ctx p).pushHeld 29#5 = true := by simp [Ctx.pushHeld, h16]
  simp only [State.exePre, named, ha, full]
  rfl

end

section
variable {s : State} {w : BitVec 32} {rd rs1 rs2 : BitVec 5}

/-- What every form of the execute half meets first ends it where it gives no value. -/
theorem alu1_stall {f : BitVec 64 → BitVec 64} {t : State} (h : s.exePre s.cur w rd [rs1] = .stall t) :
    alu1 w rd rs1 f s = .next t := by
  simp [alu1, exe1, h]

theorem alu2_stall {f : BitVec 64 → BitVec 64 → BitVec 64} {t : State} (h : s.exePre s.cur w rd [rs1, rs2] = .stall t) :
    alu2 w rd rs1 rs2 f s = .next t := by
  simp [alu2, exe2, h]

theorem exe0_refused {f : State → Tri (Reg × State)} (h : rd = 28#5) :
    exe0 w rd s f = .next (takeTrap s s.cur 0x01 (wordTval w)) := by
  simp [exe0, s.exePre_trap s.cur w (.inl h : rd = 28#5 ∨ 29#5 ∈ [])]

theorem alu1_refused {f : BitVec 64 → BitVec 64} (h : rd = 28#5 ∨ 29#5 ∈ [rs1]) :
    alu1 w rd rs1 f s = .next (takeTrap s s.cur 0x01 (wordTval w)) := by
  simp [alu1, exe1, s.exePre_trap s.cur w h]

theorem alu2_refused {f : BitVec 64 → BitVec 64 → BitVec 64} (h : rd = 28#5 ∨ 29#5 ∈ [rs1, rs2]) :
    alu2 w rd rs1 rs2 f s = .next (takeTrap s s.cur 0x01 (wordTval w)) := by
  simp [alu2, exe2, s.exePre_trap s.cur w h]

end

/-! ## The statement on source and destination fields -/

/-- x29 as a destination joins the store-data queue (R76). -/
theorem State.dest_push (s : State) (p : Party) (v : Reg) :
    (s.dest p 29#5 v).ctx p = { s.ctx p with qst := (s.ctx p).qst ++ [v] } := by
  simp [State.dest, Ctx.result]

/-- Settles O7: each field by the law of its read or write, and the held forms by what they meet first. -/
theorem sourceAndDestinationFields : Obligations.SourceAndDestinationFields := by
  intro s r rd rs1 rs2 v imm
  refine ⟨s.src_register s.cur, rfl, ?empty, ?awaited, Ctx.loadInFlight_nil, fun a rest => s.src_pop s.cur, ?written, ?kept,
    s.dest_register s.cur v (by decide), fun _ => s.dest_push s.cur v, ?held, s.mod_onlyParty s.cur _⟩
  case empty =>
    intro hq hl
    rw [s.src_empty s.cur hq, hl]
    rfl
  case awaited =>
    intro hq hl
    rw [s.src_empty s.cur hq, hl]
    rfl
  case written =>
    intro h29 h0
    rw [s.dest_register s.cur v h29]
    exact Ctx.reg_setReg_same _ v h0
  case kept =>
    intro h29 q hq
    rw [s.dest_register s.cur v h29]
    exact Ctx.reg_setReg_other _ v hq
  case held =>
    intro h16 ha hrs
    have one : (s.ctx s.cur).awaits [29#5, rs1] = false := Ctx.awaits_sub ha (by simp +contextual)
    exact ⟨(exec_add s 29#5 rs1 rs2).trans (alu2_stall (s.exePre_held s.cur _ h16 hrs ha)),
      (exec_addi s 29#5 rs1 imm).trans (alu1_stall (s.exePre_held s.cur _ h16 (by simp_all) one))⟩

/-! ## What a result leaves of a party's record -/

section
variable (c : Ctx) {rd q : BitVec 5} (v : Reg)

/-- A result writes its register alone, and none where it is x29. -/
theorem Ctx.reg_result_other (h : q ≠ rd ∨ rd = 29#5) : (c.result rd v).reg q = c.reg q := by
  unfold Ctx.result
  split
  next => rfl
  next h29 => exact c.reg_setReg_other v (h.resolve_right h29)

theorem Ctx.result_qst (h : rd ≠ 29#5) : (c.result rd v).qst = c.qst := by
  rw [Ctx.result, if_neg h, Ctx.setReg_eq]

theorem Ctx.result_qld : (c.result rd v).qld = c.qld := by
  unfold Ctx.result
  split
  · rfl
  · rw [Ctx.setReg_eq]

theorem Ctx.result_sb : (c.result rd v).sb = c.sb := by
  unfold Ctx.result
  split
  · rfl
  · rw [Ctx.setReg_eq]

/-- A result changes registers and the store-data queue alone. -/
theorem Ctx.result_onlyRegs : c.onlyRegs (c.result rd v) := by
  unfold Ctx.result
  split
  · rfl
  · rw [Ctx.setReg_eq]
    rfl

end

/-! ## The statement on the frame of the integer forms -/

/-- The record of the party after a form that completes with `v` for rd. -/
theorem State.wrote_ctx (s u : State) (rd : BitVec 5) (v : Reg) :
    (s.wrote u rd v).ctx s.cur = { (u.ctx s.cur).result rd v with pc := ((u.ctx s.cur).result rd v).pc + 4 } := by
  rw [State.wrote, State.advance_ctx, State.dest, State.mod_ctx]

section
variable {s s1 s2 : State} {rd rs1 rs2 : BitVec 5} {a b : Reg}

/-- A form that completes from a state that its sources left changes its party alone. -/
theorem State.popped.wrote_onlyParty {u : State} (h : s.popped u s.cur) (v : Reg) : s.onlyParty (s.wrote u rd v) s.cur :=
  h.1.trans ((u.mod_onlyParty s.cur _).trans (State.mod_onlyParty _ _ _))

/-- Of that party, it changes registers, queues and the pc alone. -/
theorem State.popped.wrote_onlyRegs {u : State} (h : s.popped u s.cur) (v : Reg) :
    (s.ctx s.cur).onlyRegs ((s.wrote u rd v).ctx s.cur) := by
  obtain ⟨_, l, hl⟩ := h
  rw [State.wrote_ctx, Ctx.result_onlyRegs (u.ctx s.cur) v, hl]
  rfl

/-- The integer forms of the statement complete, each from the state before its sources, after the first or after both. -/
theorem integerForms_wrote {imm : BitVec 12} {k : BitVec 6} {up : BitVec 20} (ready : s.exeReady rd [rs1, rs2])
    (ha : s.gives rs1 a s1) (hb : s1.src s.cur rs2 = .val (b, s2)) :
    ∀ i ∈ [Instr.add rd rs1 rs2, .sub rd rs1 rs2, .sltu rd rs1 rs2, .mul rd rs1 rs2, .div rd rs1 rs2, .addi rd rs1 imm,
        .slli rd rs1 k, .addiw rd rs1 imm, .lui rd up, .auipc rd up],
      ∃ u ∈ [s, s1, s2], ∃ v, exec i s = .next (s.wrote u rd v) := by
  have none : s.exeReady rd [] := State.exeReady_sub ready (by simp)
  have one : s.exeReady rd [rs1] := State.exeReady_sub ready (by simp)
  have two (w f) : ∃ u ∈ [s, s1, s2], ∃ v, alu2 w rd rs1 rs2 f s = .next (s.wrote u rd v) :=
    ⟨s2, by simp, _, alu2_ok (State.exePre_ready ready w) ha hb⟩
  have single (w f) : ∃ u ∈ [s, s1, s2], ∃ v, alu1 w rd rs1 f s = .next (s.wrote u rd v) :=
    ⟨s1, by simp, _, alu1_ok (State.exePre_ready one w) ha⟩
  simp only [List.forall_mem_cons, exec_add, exec_sub, exec_sltu, exec_mul, exec_div, exec_addi, exec_slli, exec_addiw,
    exec_lui, exec_auipc]
  exact ⟨two _ _, two _ _, two _ _, two _ _, two _ _, single _ _, single _ _, single _ _,
    ⟨s, by simp, _, exe0_ok none rfl⟩, ⟨s, by simp, _, exe0_ok none rfl⟩, by simp⟩

end

/-- Settles O10: each form completes from a state that its sources left, and such a completion has the frame. -/
theorem integerFormsChangeNothingElse : Obligations.IntegerFormsChangeNothingElse := by
  intro s s1 s2 rd rs1 rs2 a b imm k up ready ha hb i hi t ht
  obtain ⟨hp1, same1⟩ := State.src_popped ha
  obtain ⟨hp2, same2⟩ := State.src_popped hb
  obtain ⟨u, hu, v, he⟩ := integerForms_wrote ready ha hb i hi
  have hp : s.popped u s.cur := by
    rcases (by simpa using hu : u = s ∨ u = s1 ∨ u = s2) with rfl | rfl | rfl
    exacts [.refl _ _, hp1, hp1.trans hp2]
  obtain rfl : s.wrote u rd v = t := by rw [he] at ht; exact Host.Outcome.next.inj ht
  have party := hp.wrote_onlyParty (rd := rd) v
  have regs := hp.wrote_onlyRegs (rd := rd) v
  have sb : ((s.wrote u rd v).ctx s.cur).sb = (s.ctx s.cur).sb := by rw [regs]
  have hctx := s.wrote_ctx u rd v
  obtain ⟨_, l, hl⟩ := hp
  refine ⟨party, regs, fun _ q hq => ?reg, fun h28 => ?qld, fun h29 => ?qst, State.cell_congr party.dies,
    State.see_congr party.dies sb⟩
  case reg =>
    rw [hctx]
    exact ((u.ctx s.cur).reg_result_other v (.inl hq)).trans (by rw [hl]; rfl)
  case qld =>
    rw [hctx]
    refine (u.ctx s.cur).result_qld v |>.trans ?_
    obtain ⟨hrs1, hrs2⟩ : rs1 ≠ 28#5 ∧ rs2 ≠ 28#5 := by simpa [eq_comm] using h28
    obtain rfl := same1 hrs1
    obtain rfl := same2 hrs2
    rcases (by simpa using hu : u = s2) with rfl
    rfl
  case qst =>
    rw [hctx]
    exact ((u.ctx s.cur).result_qst v h29).trans (by rw [hl])

end Sys2Proof.Machine
end

section
/-! PROOFS. The CSRs: the refusals of the CSR forms, what their writes keep, slot tables and configuration words (03/R82 to R88,
R90; 07/R138). -/

namespace Sys2Proof.Machine

/-! ## The refusals of a CSR form -/

section
variable {p : Party} {w : BitVec 32} {n : BitVec 12} {writes : Bool}

/-- A CSR that is not there, that the mode does not reach, or that is read only and written, is refused (R82). -/
theorem csrGate_refused (h : csrOf n = none ∨ ∃ r, csrOf n = some r ∧
    ((r.sup = true ∧ p.isSup = false) ∨ (r.ro = true ∧ writes = true))) :
    csrGate p w n writes = .trap 0x01 (wordTval w) := by
  unfold csrGate
  rcases h with h | ⟨r, h, hr⟩
  · rw [h]
  · have refused : ((r.sup && !p.isSup) || (r.ro && writes)) = true := by
      simpa [Bool.and_eq_true] using hr
    rw [h]
    exact if_pos refused

variable {s : State} {rd rs1 u : BitVec 5} {o : CsrOp}

/-- A CSR form with a register operand meets the refusal before its operand (R90). -/
theorem csrReg_refused (ready : s.exeReady rd [rs1])
    (h : csrGate s.cur w n (o == .write || rs1 != 0) = .trap 0x01 (wordTval w)) :
    csrReg w rd n rs1 o s = .next (takeTrap s s.cur 0x01 (wordTval w)) := by
  simp only [csrReg, State.exePre_ready ready, h, Tri.bind_val, Tri.bind_trap, settleNext_trap]

theorem csrImm_refused (ready : s.exeReady rd [])
    (h : csrGate s.cur w n (o == .write || u != 0) = .trap 0x01 (wordTval w)) :
    csrImm w rd n u o s = .next (takeTrap s s.cur 0x01 (wordTval w)) := by
  simp only [csrImm, State.exePre_ready ready, State.csrAccess, h, Tri.bind_val, Tri.bind_trap, settleNext_trap]

/-- A CSR form that names x28 as rd, or x29 as its operand, takes cause 0x01. -/
theorem csrReg_reserved (h : rd = 28#5 ∨ 29#5 ∈ [rs1]) :
    csrReg w rd n rs1 o s = .next (takeTrap s s.cur 0x01 (wordTval w)) := by
  simp [csrReg, s.exePre_trap s.cur w h]

end

/-- Settles O23: the gate of the CSR forms comes before their operand, and the test of the queue fields before all else. -/
theorem privilegedAndReservedFields : Obligations.PrivilegedAndReservedFields := by
  refine ⟨?_, ?_⟩
  · intro s rd rs1 u n p bad
    refine ⟨fun ready => ⟨fun h => ?_, fun h => ?_⟩, fun ready h => ?_⟩
    · exact (exec_csrrw s rd n rs1).trans (csrReg_refused ready (csrGate_refused (by simpa [bad] using h)))
    · exact (exec_csrrs s rd n rs1).trans (csrReg_refused ready (csrGate_refused (by simpa [bad] using h)))
    · exact (exec_csrrci s rd n u).trans (csrImm_refused ready (csrGate_refused (by simpa [bad] using h)))
  · intro s rd rs1 rs2 imm up
    refine ⟨fun h => ⟨?_, ?_⟩, fun h => ⟨?_, ?_⟩, ?_⟩
    · exact (exec_add s rd rs1 rs2).trans (alu2_refused h)
    · exact (exec_mul s rd rs1 rs2).trans (alu2_refused h)
    · exact (exec_addi s rd rs1 imm).trans (alu1_refused h)
    · exact (exec_csrrw s rd imm rs1).trans (csrReg_reserved h)
    · exact (exec_lui s 28#5 up).trans (exe0_refused rfl)

/-! ## The contents of the CSRs -/

/-- The mask of an address of 64 KiB drops its low 16 bits. -/
theorem keep_areaMask (v : BitVec 64) : keep areaMask v = v / 0x10000 * 0x10000 := by
  have shift : v / 0x10000#64 * 0x10000#64 = v >>> 16 <<< 16 := by
    apply BitVec.eq_of_toNat_eq
    simp [BitVec.toNat_udiv, BitVec.toNat_mul, BitVec.toNat_shiftLeft, BitVec.toNat_ushiftRight, Nat.shiftLeft_eq,
      Nat.shiftRight_eq_div_pow]
  refine Eq.trans ?_ shift.symm
  apply BitVec.eq_of_getLsbD_eq
  intro i hi
  have mask : ∀ j : Fin 64, areaMask.getLsbD j = decide (16 ≤ j.val) := by decide
  have bit : areaMask.getLsbD i = decide (16 ≤ i) := mask ⟨i, hi⟩
  simp only [keep, BitVec.getLsbD_and, BitVec.getLsbD_shiftLeft, BitVec.getLsbD_ushiftRight, bit, hi, decide_true,
    Bool.true_and]
  by_cases h16 : 16 ≤ i
  · simp [h16, Nat.not_lt.mpr h16]
  · simp [h16, Nat.not_le.mp h16]

/-- REGISTER_WRITE writes as a CSR form does, where the mode permits it (R138). -/
theorem execRegisterWrite_val {s t : State} {p : Party} {n : BitVec 12} {r : Csr} {v : BitVec 64} (hn : csrOf n = some r)
    (sup : r.sup = true → p.isSup = true) (ro : r.ro = false) (h : s.writeCsr p r v (some (dataReg v)) 0 = .val t) :
    execRegisterWrite p n v s = .next t := by
  have permitted : ¬((r.sup && !p.isSup) || r.ro) = true := by
    cases hs : r.sup <;> simp_all
  simp only [execRegisterWrite, hn, permitted, h]
  rfl

/-- A write of acdat goes to the entry that acsel selects (R383). -/
theorem State.writeCsr_acdat {s : State} {p : Party} {e : Nat} (v w : BitVec 64) (cap : Option Reg)
    (h : accessSelected p.die.val (s.ctx p).acsel = some e) :
    s.writeCsr p .acdat v cap w = .val (s.setDev { s.dev with access := s.dev.access.put e (v &&& 0xFFFF0F) }) := by
  simp only [State.writeCsr, h]
  rfl

/-- fcsr, epc and tval read back what was written, fcsr its eight bits. -/
theorem State.readCsr_writeCsr {s t : State} {p : Party} {r : Csr} {v w : BitVec 64} {cap : Option Reg}
    (hr : r ∈ [Csr.fcsr, .epc, .tval]) (h : s.writeCsr p r v cap w = .val t) :
    t.readCsr p r = if r = .fcsr then v &&& 0xFF else v := by
  simp only [List.mem_cons, List.not_mem_nil, or_false] at hr
  rcases hr with rfl | rfl | rfl
  · cases h
    simp only [State.readCsr, State.ctx_setCtx_same, if_true]
    apply BitVec.eq_of_toNat_eq
    have low : v.toNat &&& 255 = v.toNat % 256 := Nat.and_two_pow_sub_one_eq_mod v.toNat 8
    simp [low]
    omega
  · cases h
    simp [State.readCsr]
  · cases h
    simp [State.readCsr]

/-- Settles O24: each write by its row, and each read by its field. -/
theorem csrContents : Obligations.CsrContents := by
  intro s p v w cap k c becomes
  refine ⟨rfl, rfl, ?fcsr, rfl, rfl, ?cause, rfl, rfl, ?ctbase, rfl, fun e => State.writeCsr_acdat v w cap,
    fun r t => State.readCsr_writeCsr, rfl, rfl, rfl, rfl, rfl, rfl, ?writes⟩
  case fcsr => exact congrArg (fun x => Tri.val (s.setCtx p { c with fcsr := x })) (BitVec.setWidth_eq_extractLsb' (by decide)).symm
  case cause => exact congrArg (fun x => Tri.val (s.setCtx p { c with cause := x })) (BitVec.setWidth_eq_extractLsb' (by decide)).symm
  case ctbase =>
    refine congrArg (fun x => Tri.val (s.setDev { s.dev with ctbase := s.dev.ctbase.put c.ctbsel.toNat x })) ?_
    exact keep_areaMask v
  case writes =>
    exact fun n r t hn sup ro h => (exec_registerWrite s p n v).trans (execRegisterWrite_val hn sup ro h)

/-! ## Slot tables (R87) -/

section
variable {s : State} {d : Fin 8} {n : Fin 4} {v : BitVec 64}

/-- GO leaves the other fields of a write of sltgo as they are. -/
theorem coreSelected_go (d : Nat) (v : BitVec 64) : coreSelected d (v ||| 1) = coreSelected d v := by
  have clu : (v ||| 1).extractLsb' 8 8 = v.extractLsb' 8 8 := by
    rw [BitVec.extractLsb'_or]
    exact BitVec.or_zero
  have core : (v ||| 1).extractLsb' 16 3 = v.extractLsb' 16 3 := by
    rw [BitVec.extractLsb'_or]
    exact BitVec.or_zero
  rw [coreSelected, clu, core, coreSelected]

theorem keep_go (v : BitVec 64) : keep 0x7FF00 (v ||| 1) = v &&& 0x7FF00 := by
  rw [keep, BitVec.and_comm, BitVec.and_or_distrib_left, BitVec.and_comm]
  exact BitVec.or_zero

theorem go_set (v : BitVec 64) : (v ||| 1).getLsbD 0 = true := by simp

/-- A staged table that passes the tests waits at the named core. -/
theorem execSltgoRequest_pending (h : slotsRejected (s.ctx (.sup d n)).staged.toList = false) :
    execSltgoRequest d n v s = .next ((s.setCore (coreSelected d.val v)
      { s.core (coreSelected d.val v) with pendSlots := some (s.ctx (.sup d n)).staged.toList }).setCtx (.sup d n)
        { s.ctx (.sup d n) with sltgo := v &&& 0x7FF00 }) := by
  simp only [execSltgoRequest, State.writeSltgo, go_set, h, keep_go, Party.die, coreSelected_go]
  rfl

/-- A staged table that fails one sets ERR. -/
theorem execSltgoRequest_rejected (h : slotsRejected (s.ctx (.sup d n)).staged.toList = true) :
    execSltgoRequest d n v s =
      .next (s.setCtx (.sup d n) { s.ctx (.sup d n) with sltgo := v &&& 0x7FF00 ||| 2 }) := by
  simp only [execSltgoRequest, State.writeSltgo, go_set, h, keep_go]
  rfl

end

section
variable {s : State} {c : CoreId} {t : List (BitVec 64)}

/-- Context `k` of a core changes its partition where a slot table is installed. -/
def State.moves (s : State) (c : CoreId) (t : List (BitVec 64)) (k : Fin 4) : Prop :=
  slotPart t k.val ≠ slotPart (s.core c.ix).slots k.val

/-- The pending table is installed at the start of a walk, once every context whose partition changes is idle. -/
theorem execSlotTableInstall_installs (pending : (s.core c.ix).pendSlots = some t) (walk : (s.core c.ix).walkAt = 0)
    (idle : ∀ k, s.moves c t k → (s.ctx (.ctx c k)).run = .idle) :
    execSlotTableInstall c s = .next (s.setCore c.ix { s.core c.ix with slots := t, pendSlots := none }) := by
  have all : ([(0 : Fin 4), 1, 2, 3].all fun i =>
      !(slotPart t i.val != slotPart (s.core c.ix).slots i.val) || (s.ctx (.ctx c i)).run == .idle) = true := by
    refine List.all_eq_true.mpr fun k _ => ?_
    have := idle k
    simpa [State.moves, or_iff_not_imp_left] using this
  simp only [execSlotTableInstall, pending, walk, all]
  rfl

/-- Until then nothing changes. -/
theorem execSlotTableInstall_waits (pending : (s.core c.ix).pendSlots = some t)
    (busy : (s.core c.ix).walkAt ≠ 0 ∨ ∃ k, s.moves c t k ∧ (s.ctx (.ctx c k)).run ≠ .idle) :
    execSlotTableInstall c s = .next s := by
  have contexts : ∀ k : Fin 4, k ∈ [(0 : Fin 4), 1, 2, 3] := by decide
  have held : ((s.core c.ix).walkAt = 0 && [(0 : Fin 4), 1, 2, 3].all fun i =>
      !(slotPart t i.val != slotPart (s.core c.ix).slots i.val) || (s.ctx (.ctx c i)).run == .idle) = false := by
    rcases busy with walk | ⟨k, moved, running⟩
    · exact Bool.and_eq_false_iff.mpr (.inl (decide_eq_false walk))
    · refine Bool.and_eq_false_iff.mpr (.inr (List.all_eq_false.mpr ⟨k, contexts k, ?_⟩))
      simpa [State.moves] using ⟨moved, running⟩
  simp only [execSlotTableInstall, pending, held]
  rfl

end

/-! ## The configuration words (R88) -/

section
variable {s : State} {d : Fin 8} {n : Fin 4} {f : Core → Option Core}

/-- A write of a configuration word goes to the core that ccsel names, and leaves the state where it is refused. -/
theorem configStep_some {k : Core} (h : f (s.core (coreSelected d.val (s.ctx (.sup d n)).ccsel)) = some k) :
    configStep s d n f = .next (s.setCore (coreSelected d.val (s.ctx (.sup d n)).ccsel) k) := by
  simp only [configStep, h]

theorem configStep_none (h : f (s.core (coreSelected d.val (s.ctx (.sup d n)).ccsel)) = none) :
    configStep s d n f = .next s := by
  simp only [configStep, h]

end

section
variable {k : Core} {v : BitVec 64}

theorem Core.writeStarea_some (actors : k.actors = []) (aligned : v &&& ~~~0x0001FFC00001FFC0#64 = 0#64)
    (within : (v.extractLsb' 0 17).toNat + (v.extractLsb' 32 17).toNat ≤ 0x20000) :
    k.writeStarea v = some { k with starea := v } := by
  simp only [Core.writeStarea, actors]
  have := Nat.not_lt.mpr within
  simp_all

theorem Core.writeStarea_none (actors : k.actors ≠ []) : k.writeStarea v = none := by
  simp [Core.writeStarea, actors]

theorem Core.writeSpq_some (spill : k.spill = []) : k.writeSpq v = some { k with spq := v / 0x10000 * 0x10000 } := by
  simp only [Core.writeSpq, spill, keep_areaMask]
  rfl

theorem Core.writeSpq_none (spill : k.spill ≠ []) : k.writeSpq v = none := by
  simp [Core.writeSpq, spill]

theorem Core.writeQovf_some (ovf : k.quireOvf = []) : k.writeQovf v = some { k with qovf := v / 0x10000 * 0x10000 } := by
  simp only [Core.writeQovf, ovf, keep_areaMask]
  rfl

theorem Core.writeQovf_none (ovf : k.quireOvf ≠ []) : k.writeQovf v = none := by
  simp [Core.writeQovf, ovf]

end

/-- Settles O25: the tests of sltgo, the installation at the walk, and each configuration word by its own write. -/
theorem slotTablesAndConfigurationWords : Obligations.SlotTablesAndConfigurationWords := by
  intro s d n v c t p x core named i
  refine ⟨?pending, ?rejected, ?install, ?starea, ?stareaKept, ?spq, ?spqKept, ?qovf, ?qovfKept⟩
  case pending => exact fun h => (exec_sltgoRequest s d n v).trans (execSltgoRequest_pending h)
  case rejected => exact fun h => (exec_sltgoRequest s d n v).trans (execSltgoRequest_rejected h)
  case install =>
    exact fun pending => ⟨fun walk idle => (exec_slotTableInstall s c).trans (execSlotTableInstall_installs pending walk idle),
      fun busy => (exec_slotTableInstall s c).trans (execSlotTableInstall_waits pending busy)⟩
  case starea =>
    exact fun actors aligned within => (exec_stareaWrite s d n v).trans
      (configStep_some (Core.writeStarea_some actors aligned within))
  case stareaKept => exact fun h => (exec_stareaWrite s d n v).trans (configStep_none (Core.writeStarea_none h))
  case spq => exact fun h => (exec_spqWrite s d n v).trans (configStep_some (Core.writeSpq_some h))
  case spqKept => exact fun h => (exec_spqWrite s d n v).trans (configStep_none (Core.writeSpq_none h))
  case qovf => exact fun h => (exec_qovfWrite s d n v).trans (configStep_some (Core.writeQovf_some h))
  case qovfKept => exact fun h => (exec_qovfWrite s d n v).trans (configStep_none (Core.writeQovf_none h))

end Sys2Proof.Machine
end

section
/-! PROOFS. The frame of the loads and stores (03/R76; 07/R137, R149; 09/R165, R175, R178). -/

namespace Sys2Proof.Machine

/-! ## What taking an exception leaves of the pc -/

section
variable (c : Ctx) (rd : BitVec 5) (v : Reg)

@[simp] theorem Ctx.result_pc : (c.result rd v).pc = c.pc := by
  unfold Ctx.result
  split
  · rfl
  · exact c.setReg_pc rd v

@[simp] theorem Ctx.loaded_pc : (c.loaded rd v).pc = c.pc := by
  unfold Ctx.loaded
  split
  · rfl
  · exact c.result_pc rd v

@[simp] theorem Ctx.sees_pc (key die : Nat) (qs : List Nat) : (c.sees key die qs).pc = c.pc := by
  unfold Ctx.sees
  split <;> rfl

end

/-- A party's record, by its key, once a gang of some members is dissolved (R301). -/
def Ctx.leavesGang (c : Ctx) (key : Nat) (members : List Nat) : Ctx :=
  if members.any (fun x => x == key) then { c with gangMember := false } else c

theorem Ctx.leavesGang_pc (c : Ctx) (key : Nat) (members : List Nat) : (c.leavesGang key members).pc = c.pc := by
  unfold Ctx.leavesGang
  split <;> rfl

/-- A field that a change of every value keeps reads as before. -/
theorem Map.getD_map_field {α β : Type} (m : Map α) (g : Nat → α → α) (F : α → β) (h : ∀ i v, F (g i v) = F v) (i : Nat)
    (d : α) : F (Map.getD (m.map fun e => (e.1, g e.1 e.2)) i d) = F (m.getD i d) := by
  unfold Map.getD
  rw [Map.find_map]
  cases m.find i with
  | none => rfl
  | some v => exact h i v

section
variable (s : State) (p : Party)

@[simp] theorem State.acquired_pc (sc : BitVec 3) : ((s.acquired p sc).ctx p).pc = (s.ctx p).pc := by
  simp [State.acquired, Ctx.sync]

@[simp] theorem State.forceAcc_pc (l : List AccItem) : ((s.forceAcc p l).ctx p).pc = (s.ctx p).pc := by
  induction l generalizing s with
  | nil => simp [State.forceAcc]
  | cons i rest ih =>
    cases i with
    | load rd qs k => simp [State.forceAcc, ih]
    | acquire rd qs k sc =>
      unfold State.forceAcc
      dsimp only
      split <;> simp [ih]
    | store e => simp [State.forceAcc, ih, Ctx.store]
    | fence sc =>
      unfold State.forceAcc
      dsimp only
      split <;> simp [ih, Ctx.sync]

theorem State.undoSel_ctxs : (s.undoSel p).ctxs = s.ctxs := by
  unfold State.undoSel
  dsimp only
  split
  · rw [State.releaseSel_eq]
  · split
    · rfl
    · split <;> rfl

@[simp] theorem State.undoSel_ctx (q : Party) : (s.undoSel p).ctx q = s.ctx q := by
  simp only [State.ctx, State.undoSel_ctxs]

@[simp] theorem State.leaveQueues_ctx (q : Party) : (s.leaveQueues p).ctx q = s.ctx q := rfl

@[simp] theorem State.writeAt_pc (d : Nat) (cells : List (Nat × Byte)) (r : Bool) (prior : Map Nat) :
    ((s.writeAt d cells r prior).ctx p).pc = (s.ctx p).pc := by
  have carried : (s.writeAt d cells r prior).ctx p =
      (State.install { s with dev := { s.dev with wseq := s.dev.wseq + 1 } } d (s.dev.wseq + 1) cells).ctx p := by
    simp only [State.ctx, State.writeAt, State.carryOut_ctxs]
  rw [carried, State.install_ctx, Ctx.sees_pc]
  rfl

@[simp] theorem State.drainOne_pc : ((s.drainOne p).ctx p).pc = (s.ctx p).pc := by
  unfold State.drainOne
  dsimp only
  split
  · rfl
  · refine (congrArg Ctx.pc (State.ctx_setCtx_same _ p _) :).trans ?_
    simp only [State.ctx, State.carryOut_ctxs]
    exact (congrArg Ctx.pc (State.install_ctx _ _ _ _ p)).trans (Ctx.sees_pc _ _ _ _)

@[simp] theorem State.drainAll_pc : ((s.drainAll p).ctx p).pc = (s.ctx p).pc := by
  have many : ∀ n (s : State), ((s.drainN p n).ctx p).pc = (s.ctx p).pc := by
    intro n
    induction n with
    | zero => exact fun _ => rfl
    | succ n ih => exact fun s => (ih _).trans (s.drainOne_pc p)
  exact many _ s

@[simp] theorem State.report_pc (d : Nat) (r : MailRec) : ((s.report d r).ctx p).pc = (s.ctx p).pc := by
  unfold State.report
  dsimp only
  split <;> simp

@[simp] theorem State.sentUp_ctx (n : Nat) (part : BitVec 8) (tag : BitVec 12) : (s.sentUp n part tag).ctx p = s.ctx p := rfl
@[simp] theorem State.recvUp_ctx (n : Nat) (part : BitVec 8) (tag : BitVec 12) : (s.recvUp n part tag).ctx p = s.ctx p := rfl

@[simp] theorem State.recvAll_ctx (n : Nat) (ms : List Message) : (s.recvAll n ms).ctx p = s.ctx p := by
  induction ms generalizing s with
  | nil => rfl
  | cons m ms ih =>
    rw [State.recvAll, ih]
    split <;> rfl

@[simp] theorem State.findHome_ctx (die : Nat) (d : BitVec 512) (part : BitVec 8) (cls : BitVec 16) (key : BitVec 64) :
    ((s.findHome die d part cls key).2).ctx p = s.ctx p := by
  unfold State.findHome State.holdPage
  dsimp only
  split
  · split <;> rfl
  · rfl

@[simp] theorem State.pushMsg_pc (q : Party) (d : BitVec 512) (m : Message) (held : Bool) :
    ((s.pushMsg q d m held).ctx p).pc = (s.ctx p).pc := by
  unfold State.pushMsg
  dsimp only
  split
  · simp [State.reportDiscard]
  · split
    · simp [State.reportDiscard]
    next h =>
      have := State.findHome_ctx (s.sentUp q.coreIx m.part (hdrLtag m.hdr)) p (dieOfCore q.coreIx) d m.part m.cls m.key
      rw [h] at this
      simp [this]

@[simp] theorem State.deliverSeq_pc : ((s.deliverSeq p).ctx p).pc = (s.ctx p).pc := by
  unfold State.deliverSeq
  dsimp only
  refine List.foldlRecOn (motive := fun t : State => (t.ctx p).pc = (s.ctx p).pc) _ _ ?_ fun t ht x _ => ?_
  · simp
  · split <;> simp [ht]

@[simp] theorem State.rollback_pc : ((s.rollback p).ctx p).pc = (s.ctx p).pc := by
  unfold State.rollback
  dsimp only
  split <;> simp

@[simp] theorem State.dropHeld_ctx (q : Party) : (s.dropHeld p).ctx q = s.ctx q := by simp [State.dropHeld]

@[simp] theorem State.releaseSel_ctx (q : Party) : (s.releaseSel p).ctx q = s.ctx q := by
  rw [State.releaseSel_eq]
  rfl

@[simp] theorem State.dissolveGang_pc (q : Party) : ((s.dissolveGang p).ctx q).pc = (s.ctx q).pc := by
  unfold State.dissolveGang
  dsimp only
  split
  · exact Map.getD_map_field s.ctxs (fun key c => c.leavesGang key _) Ctx.pc (fun key c => c.leavesGang_pc key _) q.ix {}
  · rfl

@[simp] theorem State.orphanOps_ctx (q : Party) : (s.orphanOps p).ctx q = s.ctx q := by
  unfold State.orphanOps
  split <;> rfl

@[simp] theorem State.endByTrap_pc : ((s.endByTrap p).ctx p).pc = (s.ctx p).pc := by
  unfold State.endByTrap
  dsimp only
  split
  · simp [Ctx.idle]
  · simp [Ctx.idle]

@[simp] theorem State.parkTrap_pc (cause : BitVec 6) (tval : BitVec 64) :
    ((s.parkTrap p cause tval).ctx p).pc = (s.ctx p).pc := by
  unfold State.parkTrap
  extract_lets x s1
  rw [State.report_pc]
  exact (congrArg Ctx.pc (s.ctx_setCtx_same p _) :)

/-- The cause of a firing context leaves its pc: it waits for the access half, or ends the firing, or parks. -/
theorem takeTrap_ctx_pc (c : CoreId) (k : Fin 4) (cause : BitVec 6) (tval : BitVec 64) :
    ((takeTrap s (.ctx c k) cause tval).ctx (.ctx c k)).pc = (s.ctx (.ctx c k)).pc := by
  unfold takeTrap
  dsimp -zeta only
  generalize Party.ctx c k = p
  extract_lets s0 s1 x f m
  have settled : (s0.ctx p).pc = (s.ctx p).pc := State.forceAcc_pc _ _ _
  have record : (s1.ctx p).pc = (s.ctx p).pc := by
    simp [s1, Ctx.trapRecord, Ctx.leaveForm, Ctx.dropAhead, settled]
  clear_value s1 x f m
  split
  · exact settled
  · split
    · rw [State.pushMsg_pc, State.endByTrap_pc, record]
    · rw [State.parkTrap_pc, record]

end

/-- The pc of the next instruction is another. -/
theorem pc_next_ne (a : BitVec 64) : a ≠ a + 4 := by
  bv_omega

/-- A form that takes a cause does not complete: the pc stays, or a supervisor core's handler flag rises. -/
theorem State.takeTrap_not_completed (s : State) (cause : BitVec 6) (tval : BitVec 64) :
    ¬s.completed (takeTrap s s.cur cause tval) := by
  rintro ⟨hpc, hhandler⟩
  cases hp : s.cur with
  | ctx c k =>
    rw [hp, takeTrap_ctx_pc] at hpc
    exact pc_next_ne _ hpc
  | handler c =>
    rw [hp] at hpc
    exact pc_next_ne _ hpc
  | sup d n =>
    rw [hp] at hpc hhandler
    cases hflag : (s.ctx (.sup d n)).handler with
    | true => simp [takeTrap, State.supTrap, hflag] at hpc
    | false => simp [takeTrap, State.supTrap, hflag] at hhandler

/-- A party that asks for the walk of a page stays where it is (R380). -/
theorem State.askWalk_pc (s : State) (p : Party) (part : BitVec 8) (va : Nat) :
    ((s.askWalk p part va).ctx p).pc = (s.ctx p).pc := by
  unfold State.askWalk
  dsimp only
  split
  · simp
  · split <;> simp

/-! ## What completes, part by part -/

/-- Parts whose stalls leave the party's pc where it is. -/
def Tri.Holds {α : Type} (T : Tri α) (s : State) : Prop := ∀ t, T = .stall t → (t.ctx s.cur).pc = (s.ctx s.cur).pc

/-- A form whose parts are these has completed. -/
def State.Completes (s : State) (T : Tri State) (t : State) : Prop := settleNext s T = .next t ∧ s.completed t

section
variable {s t : State}

/-- A form that has completed got a value of every part. -/
theorem State.Completes.bind {α : Type} {T : Tri α} {f : α → Tri State} (hT : T.Holds s) (h : s.Completes (T.bind f) t) :
    ∃ a, T = .val a ∧ s.Completes (f a) t := by
  obtain ⟨hsettle, hdone⟩ := h
  cases T with
  | val a => exact ⟨a, rfl, hsettle, hdone⟩
  | trap c v =>
    cases hsettle
    exact absurd hdone (s.takeTrap_not_completed c v)
  | stall u =>
    cases hsettle
    exact absurd ((hT _ rfl).symm.trans hdone.1) (pc_next_ne _)
  | walk part va =>
    cases hsettle
    exact absurd ((s.askWalk_pc s.cur part va).symm.trans hdone.1) (pc_next_ne _)

/-- What it leaves is the last part's state with the pc moved on. -/
theorem State.Completes.val {T : Tri State} (hT : T.Holds s) (h : s.Completes T t) :
    ∃ u, T = .val u ∧ t = u.advance s.cur := by
  have h' : s.Completes (T.bind .val) t := by
    cases T <;> exact h
  obtain ⟨u, hu, hsettle, _⟩ := h'.bind hT
  exact ⟨u, hu, (Host.Outcome.next.inj hsettle).symm⟩

end

section
variable (s : State) (w : BitVec 32) (r rd : BitVec 5) (rs : List (BitVec 5))

theorem State.memPre_holds : (s.memPre s.cur w rd rs).Holds s := by
  intro t h
  unfold State.memPre at h
  split at h
  · cases h
  · split at h <;> cases h
    rfl

theorem State.pushRoom_holds : (s.pushRoom s.cur rd).Holds s := by
  intro t h
  unfold State.pushRoom at h
  split at h <;> cases h
  exact (congrArg Ctx.pc (s.mod_ctx s.cur _) :)

theorem State.src_holds : (s.src s.cur r).Holds s := by
  intro t h
  rcases s.src_cases s.cur r with ⟨v, u, hu, _⟩ | hu | hu
  · rw [hu] at h
    cases h
  · rw [hu] at h
    cases h
    rfl
  · rw [hu] at h
    cases h

theorem Tri.unless_holds (x : Option (BitVec 6 × BitVec 64)) : (Tri.unless x).Holds s := by
  intro t h
  cases x <;> cases h

theorem Tri.ensure_holds (ok : Bool) (c : BitVec 6) (v : BitVec 64) : (Tri.ensure ok c v).Holds s := by
  intro t h
  cases ok <;> cases h

theorem State.reach_holds (u : State) (p : Party) (need : Need) (a n : Nat) : (u.reach p need a n).Holds s := by
  intro t h
  unfold State.reach at h
  split at h <;> cases h

theorem State.unpoisoned_holds (u : State) (p : Party) (a : Nat) (qs : List Nat) : (u.unpoisoned p a qs).Holds s := by
  intro t h
  unfold State.unpoisoned at h
  split at h <;> cases h

theorem Tri.val_holds (u : State) : (Tri.val u).Holds s := by
  intro t h
  cases h

end

/-! ## What a load leaves of the machine -/

/-- What a load with destination rd and address field rs1 leaves: nothing but its party's record differs, and of that record
neither the store buffer nor what its fields do not name. -/
structure State.LoadFrame (s t : State) (p : Party) (rd rs1 : BitVec 5) : Prop where
  party : s.onlyParty t p
  sb : (t.ctx p).sb = (s.ctx p).sb
  reg : ∀ q, q ≠ rd ∨ rd = 29#5 → (t.ctx p).reg q = (s.ctx p).reg q
  qst : rd ≠ 29#5 → (t.ctx p).qst = (s.ctx p).qst
  qld : rd ≠ 28#5 → rs1 ≠ 28#5 → (t.ctx p).qld = (s.ctx p).qld

section
variable {s t u : State} {p : Party} {rd rs1 : BitVec 5}

theorem State.LoadFrame.trans (h : s.LoadFrame t p rd rs1) (k : t.LoadFrame u p rd rs1) : s.LoadFrame u p rd rs1 :=
  ⟨h.party.trans k.party, k.sb.trans h.sb, fun q hq => (k.reg q hq).trans (h.reg q hq), fun hd => (k.qst hd).trans (h.qst hd),
    fun hd hs => (k.qld hd hs).trans (h.qld hd hs)⟩

/-- A change of the record that leaves its registers, queues and store buffer. -/
theorem State.LoadFrame.mod {f : Ctx → Ctx} (hx : (f (s.ctx p)).x = (s.ctx p).x) (hb : (f (s.ctx p)).sb = (s.ctx p).sb)
    (hst : (f (s.ctx p)).qst = (s.ctx p).qst) (hld : (f (s.ctx p)).qld = (s.ctx p).qld) :
    s.LoadFrame (s.mod p f) p rd rs1 := by
  refine ⟨s.mod_onlyParty p f, ?_, fun q _ => ?_, fun _ => ?_, fun _ _ => ?_⟩
  · rw [State.mod_ctx, hb]
  · rw [State.mod_ctx, Ctx.reg, hx, Ctx.reg]
  · rw [State.mod_ctx, hst]
  · rw [State.mod_ctx, hld]

theorem State.LoadFrame.src {c : Reg} (h : s.src p rs1 = .val (c, t)) : s.LoadFrame t p rd rs1 := by
  obtain ⟨⟨party, l, hl⟩, same⟩ := State.src_popped h
  refine ⟨party, ?_, fun q _ => ?_, fun _ => ?_, fun _ hs => ?_⟩
  · rw [hl]
  · rw [hl]
    rfl
  · rw [hl]
  · rw [same hs]

theorem State.LoadFrame.acquired (s : State) (p : Party) (rd rs1 : BitVec 5) (sc : BitVec 3) :
    s.LoadFrame (s.acquired p sc) p rd rs1 := .mod rfl rfl rfl rfl

theorem State.LoadFrame.advance (s : State) (p : Party) (rd rs1 : BitVec 5) : s.LoadFrame (s.advance p) p rd rs1 :=
  .mod rfl rfl rfl rfl

/-- The access half takes the load or holds it. -/
theorem State.LoadFrame.loadDest (s : State) (p : Party) (rd rs1 : BitVec 5) (qs : List Nat) (k : LoadKind) :
    s.LoadFrame (s.loadDest p rd qs k) p rd rs1 := by
  unfold State.loadDest
  extract_lets c
  split
  · refine ⟨s.mod_onlyParty p _, ?_, fun q hq => ?_, fun hd => ?_, fun hd _ => ?_⟩
    all_goals rw [State.mod_ctx, Ctx.loaded]
    · split
      · rfl
      · exact Ctx.result_sb _ _
    · split
      · rfl
      · exact Ctx.reg_result_other _ _ hq
    · split
      · rfl
      · exact Ctx.result_qst _ _ hd
    · rw [if_neg hd]
      exact Ctx.result_qld _ _
  · exact .mod rfl rfl rfl rfl

end

/-- A load that completes has the frame of its fields. -/
theorem loadForm_frame {w : BitVec 32} {rd rs1 : BitVec 5} {off : BitVec 64} {n : Nat} {kind : Reg → LoadKind}
    {capAcc : Bool} {acq : Option (BitVec 3)} {s t : State} (h : loadForm w rd rs1 off n kind capAcc acq s = .next t)
    (done : s.completed t) : s.LoadFrame t s.cur rd rs1 := by
  unfold loadForm at h
  obtain ⟨_, _, h⟩ := State.Completes.bind (s.memPre_holds w rd [rs1]) ⟨h, done⟩
  obtain ⟨_, _, h⟩ := h.bind (s.pushRoom_holds rd)
  obtain ⟨⟨c, s1⟩, hc, h⟩ := h.bind (s.src_holds rs1)
  obtain ⟨_, _, h⟩ := h.bind (Tri.unless_holds s _)
  obtain ⟨qs, _, h⟩ := h.bind (s.reach_holds _ _ _ _ _)
  obtain ⟨_, _, h⟩ := h.bind (Tri.ensure_holds s _ _ _)
  obtain ⟨_, _, h⟩ := h.bind (s.unpoisoned_holds _ _ _ _)
  have fetched : s.LoadFrame s1 s.cur rd rs1 := .src hc
  cases acq with
  | none =>
    obtain ⟨u, hu, rfl⟩ := h.val (Tri.val_holds s _)
    cases hu
    exact fetched.trans ((State.LoadFrame.loadDest s1 s.cur rd rs1 qs _).trans (.advance _ _ _ _))
  | some sc =>
    dsimp only at h
    split at h
    · obtain ⟨u, hu, rfl⟩ := h.val (Tri.val_holds s _)
      cases hu
      exact fetched.trans (.trans (.mod rfl rfl rfl rfl) (.advance _ _ _ _))
    · split at h
      · obtain ⟨u, hu, rfl⟩ := h.val (Tri.val_holds s _)
        cases hu
        exact fetched.trans ((State.LoadFrame.acquired s1 s.cur rd rs1 sc).trans
          ((State.LoadFrame.loadDest _ s.cur rd rs1 qs _).trans (.advance _ _ _ _)))
      · obtain ⟨u, hu, _⟩ := h.val fun t ht => by cases ht; rfl
        cases hu

/-! ## What a party sees past new stores -/

/-- An entry that writes no cell of a place. -/
def StoreEntry.spares (e : StoreEntry) (q : Nat) : Prop := ∀ x ∈ e.cells, x.1 ≠ q

/-- Entries that spare a place do not decide what is newest there. -/
theorem State.see_newest_append {q : Nat} {es : List StoreEntry} (h : ∀ e ∈ es, e.spares q) (sb : List StoreEntry) :
    State.see.newest q (sb ++ es) = State.see.newest q sb := by
  have none : State.see.newest q es = none := by
    induction es with
    | nil => rfl
    | cons e es ih =>
      obtain ⟨he, hes⟩ := List.forall_mem_cons.mp h
      have miss : (e.cells.find? fun x => x.1 == q) = none := by
        simpa [List.find?_eq_none, StoreEntry.spares] using he
      simp [State.see.newest, ih hes, miss]
  induction sb with
  | nil => exact none
  | cons e sb ih => simp only [List.cons_append, State.see.newest, ih]

theorem Ctx.foldl_store (es : List StoreEntry) (c : Ctx) :
    es.foldl Ctx.store c = { c with sb := c.sb ++ es, issued := c.issued + es.length } := by
  induction es generalizing c with
  | nil => simp
  | cons e es ih => simp [ih, Ctx.store, Nat.add_comm, Nat.add_left_comm]

/-! ## What a store leaves of the machine -/

/-- What a store with data field rs2 leaves: nothing but its party's record and the count of free values differs, of that
record neither a register nor a queue that its fields do not name, and the party sees every place as before but those given. -/
structure State.StoreFrame (s t : State) (p : Party) (rs2 : BitVec 5) (places : Nat → Prop) : Prop where
  party : (s.setDev { s.dev with freeAt := t.dev.freeAt }).onlyParty t p
  reg : ∀ q, (t.ctx p).reg q = (s.ctx p).reg q
  qst : rs2 ≠ 29#5 → (t.ctx p).qst = (s.ctx p).qst
  see : ∀ q, ¬places q → t.see p q = s.see p q

section
variable {s t u : State} {p : Party} {rs2 : BitVec 5} {places : Nat → Prop}

/-- A change of the party alone leaves the count of free values too. -/
theorem State.onlyParty.freeAt (h : s.onlyParty t p) : (s.setDev { s.dev with freeAt := t.dev.freeAt }).onlyParty t p := by
  obtain ⟨hcur, hagenda, hcores, hclusters, hdies, hdev, hctx⟩ := h
  exact ⟨hcur, hagenda, hcores, hclusters, hdies, by rw [hdev]; rfl, hctx⟩

theorem State.StoreFrame.dies (h : s.StoreFrame t p rs2 places) : t.dies = s.dies := h.party.dies

theorem State.StoreFrame.trans (h : s.StoreFrame t p rs2 places) (k : t.StoreFrame u p rs2 places) :
    s.StoreFrame u p rs2 places := by
  obtain ⟨hcur, hagenda, hcores, hclusters, hdies, hdev, hctx⟩ := h.party
  obtain ⟨kcur, kagenda, kcores, kclusters, kdies, kdev, kctx⟩ := k.party
  refine ⟨⟨kcur.trans hcur, kagenda.trans hagenda, kcores.trans hcores, kclusters.trans hclusters, kdies.trans hdies, ?_,
    fun q hq => (kctx q hq).trans (hctx q hq)⟩, fun q => (k.reg q).trans (h.reg q), fun hd => (k.qst hd).trans (h.qst hd),
    fun q hq => (k.see q hq).trans (h.see q hq)⟩
  rw [kdev, State.setDev_dev, hdev]
  rfl

/-- A change of the party alone that keeps its registers, the queue of store data and the store buffer. -/
theorem State.StoreFrame.of_party (party : s.onlyParty t p) (reg : ∀ q, (t.ctx p).reg q = (s.ctx p).reg q)
    (qst : rs2 ≠ 29#5 → (t.ctx p).qst = (s.ctx p).qst) (sb : (t.ctx p).sb = (s.ctx p).sb) :
    s.StoreFrame t p rs2 places :=
  ⟨party.freeAt, reg, qst, fun q _ => State.see_congr party.dies sb q⟩

theorem State.StoreFrame.advance (s : State) (p : Party) : s.StoreFrame (s.advance p) p rs2 places :=
  .of_party (s.mod_onlyParty p _) (fun q => by rw [State.advance_ctx]; rfl) (fun _ => by rw [State.advance_ctx])
    (by rw [State.advance_ctx])

theorem State.StoreFrame.fresh (s : State) (p : Party) : s.StoreFrame s.fresh.2 p rs2 places :=
  ⟨⟨rfl, rfl, rfl, rfl, rfl, rfl, fun _ _ => rfl⟩, fun _ => rfl, fun _ => rfl, fun _ _ => rfl⟩

theorem State.StoreFrame.src {r : BitVec 5} {c : Reg} (h : s.src p r = .val (c, t)) : s.StoreFrame t p rs2 places := by
  obtain ⟨⟨party, l, hl⟩, _⟩ := State.src_popped h
  exact .of_party party (fun q => by rw [hl]; rfl) (fun _ => by rw [hl]) (by rw [hl])

theorem State.StoreFrame.storeSrc {v : Reg} (h : s.storeSrc p rs2 = .val (v, t)) : s.StoreFrame t p rs2 places := by
  unfold State.storeSrc at h
  split at h
  next h29 =>
    split at h
    · split at h <;> cases h
    · cases h
      exact .of_party (s.mod_onlyParty p _) (fun q => by rw [State.mod_ctx]; rfl) (fun hd => absurd h29 hd)
        (by rw [State.mod_ctx])
  next => exact .src h

/-- Entries handed to the access half leave every place that they spare. -/
theorem State.StoreFrame.handStores {es : List StoreEntry} (h : ∀ q, ¬places q → ∀ e ∈ es, e.spares q) (s : State) (p : Party) :
    s.StoreFrame (s.handStores p es) p rs2 places := by
  have only : s.onlyParty (s.handStores p es) p := s.mod_onlyParty p _
  cases hacc : (s.ctx p).acc.isEmpty with
  | false =>
    have held : (s.handStores p es).ctx p = { s.ctx p with acc := (s.ctx p).acc ++ es.map .store } :=
      (s.mod_ctx p _).trans (if_neg (Bool.eq_false_iff.mp hacc))
    exact .of_party only (fun q => by rw [held]; rfl) (fun _ => by rw [held]) (by rw [held])
  | true =>
    have taken : (s.handStores p es).ctx p =
        { s.ctx p with sb := (s.ctx p).sb ++ es, issued := (s.ctx p).issued + es.length } :=
      (s.mod_ctx p _).trans ((if_pos hacc).trans (Ctx.foldl_store es _))
    refine ⟨only.freeAt, fun q => by rw [taken]; rfl, fun _ => by rw [taken], fun q hq => ?_⟩
    simp only [State.see, taken, State.see_newest_append (h q hq)]
    rfl

end

/-! ## The places that a store's entries write -/

theorem mem_of_mem_distinct {x : Nat} {l : List Nat} (h : x ∈ distinct l) : x ∈ l := by
  induction l with
  | nil => exact h
  | cons y l ih =>
    rcases List.mem_cons.mp h with rfl | h
    · exact List.mem_cons_self
    · exact List.mem_cons_of_mem _ (ih (List.mem_of_mem_filter h))

/-- The places that a write of some bytes touches: theirs, those of their granules' tags, and of their blocks' poison marks. -/
def touched (qs : List Nat) (q : Nat) : Prop := q ∈ qs ∨ q ∈ qs.map tagPlace ∨ q ∈ qs.map poisonPlace

theorem touched_of_mem_plainCells {cells : List (Nat × Byte)} {x : Nat × Byte} (h : x ∈ plainCells cells) :
    touched (cells.map (·.1)) x.1 := by
  simp only [plainCells, List.mem_append] at h
  rcases h with (h | h) | h
  · exact .inl (List.mem_map_of_mem h)
  · obtain ⟨y, hy, rfl⟩ := List.mem_map.mp h
    exact .inr (.inl (mem_of_mem_distinct hy))
  · obtain ⟨y, hy, rfl⟩ := List.mem_map.mp h
    exact .inr (.inr (mem_of_mem_distinct (List.mem_of_mem_filter hy)))

theorem touched_mono {qs rs : List Nat} (h : ∀ q ∈ qs, q ∈ rs) {q : Nat} (ht : touched qs q) : touched rs q := by
  rcases ht with ht | ht | ht
  · exact .inl (h q ht)
  · exact .inr (.inl (List.map_subset _ h ht))
  · exact .inr (.inr (List.map_subset _ h ht))

/-- The entries of a store of some bytes touch nothing else. -/
theorem storeEntries_spares {e0 e : StoreEntry} {cells : List (Nat × Byte)} {qs : List Nat} (hc : ∀ x ∈ cells, x.1 ∈ qs)
    (he : e ∈ storeEntries e0 cells) {q : Nat} (hq : ¬touched qs q) : e.spares q := by
  rintro x hx rfl
  obtain ⟨b, _, rfl⟩ := List.mem_map.mp he
  refine hq (touched_mono (fun q h => ?_) (touched_of_mem_plainCells hx))
  obtain ⟨y, hy, rfl⟩ := List.mem_map.mp h
  exact hc y (List.mem_of_mem_filter hy)

theorem mem_of_mem_ordered {α : Type} {x : α} {l : List α} {n : Nat} (h : x ∈ ordered n l) : x ∈ l := by
  induction l generalizing n with
  | nil => exact h
  | cons y l ih =>
    simp only [ordered, List.mem_append, List.mem_cons] at h
    rcases h with h | rfl | h
    · exact List.mem_cons_of_mem _ (ih (List.mem_of_mem_take h))
    · exact List.mem_cons_self
    · exact List.mem_cons_of_mem _ (ih (List.mem_of_mem_drop h))

/-- A party's store of some bytes, in any order of its blocks. -/
theorem State.StoreFrame.storeCells {rs2 : BitVec 5} {qs : List Nat} {cells : List (Nat × Byte)} (hc : ∀ x ∈ cells, x.1 ∈ qs)
    (s : State) (p : Party) (e : StoreEntry) : s.StoreFrame (s.storeCells p e cells) p rs2 (touched qs) := by
  unfold State.storeCells
  extract_lets es
  split
  · exact .handStores (fun q hq e he => storeEntries_spares hc he hq) s p
  · exact .trans (.fresh s p)
      (.handStores (fun q hq e he => storeEntries_spares hc (mem_of_mem_ordered he) hq) s.fresh.2 p)

/-! ## The forms -/

theorem State.storeSrc_holds {u : State} {p : Party} {r : BitVec 5} {a : Reg × State} (h : u.storeSrc p r = .val a) (s : State) :
    (u.storeSrc p r).Holds s := by
  intro t ht
  rw [h] at ht
  cases ht

theorem State.reach_val {s : State} {p : Party} {need : Need} {a n : Nat} {qs : List Nat} (h : s.reach p need a n = .val qs) :
    s.places p need a n = .at qs := by
  unfold State.reach at h
  split at h <;> cases h
  assumption

/-- The places of an access of one byte or more are not none. -/
theorem State.places_ne_nil {s : State} {p : Party} {need : Need} {a n : Nat} {qs : List Nat}
    (h : s.places p need a (n + 1) = .at qs) : qs ≠ [] := by
  unfold State.places at h
  split at h
  · cases h
  · unfold State.placesFrom at h
    split at h
    · cases h
    · cases h
    · split at h
      · cases h
        exact List.cons_ne_nil _ _
      next other => exact absurd h (other qs)

/-- What a store form leaves that has completed: it found the places of its bytes, and has the frame of its fields there. -/
def State.StoresTo (s s2 t : State) (rs2 : BitVec 5) (a n : Nat) : Prop :=
  ∃ qs, s2.places s.cur .w a n = .at qs ∧ s.StoreFrame t s.cur rs2 (touched qs)

section
variable {s s1 s2 t : State} {rs1 rs2 : BitVec 5} {c v : Reg}

/-- A store that completes has the frame of its fields. -/
theorem storeForm_frame {w : BitVec 32} {off : BitVec 64} {n : Nat} {e : StoreEntry} {aligned : Bool}
    (hc : s.gives rs1 c s1) (hv : s1.storeSrc s.cur rs2 = .val (v, s2)) (h : storeForm w rs1 rs2 off n e aligned s = .next t)
    (done : s.completed t) : s.StoresTo s2 t rs2 (capAddr c + off).toNat n := by
  unfold storeForm at h
  obtain ⟨_, _, h⟩ := State.Completes.bind (s.memPre_holds w (dataField rs2) [rs1]) ⟨h, done⟩
  obtain ⟨_, hsrc, h⟩ := h.bind (s.src_holds rs1)
  cases hc.symm.trans hsrc
  obtain ⟨_, hdata, h⟩ := h.bind (State.storeSrc_holds hv s)
  cases hv.symm.trans hdata
  obtain ⟨_, _, h⟩ := h.bind (Tri.unless_holds s _)
  obtain ⟨qs, hqs, h⟩ := h.bind (s.reach_holds _ _ _ _ _)
  obtain ⟨_, _, h⟩ := h.bind (Tri.ensure_holds s _ _ _)
  obtain ⟨_, hu, rfl⟩ := h.val (Tri.val_holds s _)
  cases hu
  exact ⟨qs, State.reach_val hqs, (State.StoreFrame.src hc).trans ((State.StoreFrame.storeSrc hv).trans
    ((State.StoreFrame.storeCells (fun x hx => (List.of_mem_zip hx).1) s2 s.cur e).trans (.advance _ _)))⟩

/-- The entry of a granule touches its bytes and its tag. -/
theorem granuleCells_spares {qs : List Nat} (hqs : qs ≠ []) {q : Nat} (hq : ¬touched qs q) (e : StoreEntry) (v : Reg) :
    StoreEntry.spares { e with cells := granuleCells qs v } q := by
  rintro x hx rfl
  rcases List.mem_append.mp hx with hx | hx
  · exact hq (.inl (List.of_mem_zip hx).1)
  · cases List.mem_singleton.mp hx
    cases qs with
    | nil => exact hqs rfl
    | cons a qs => exact hq (.inr (.inl List.mem_cons_self))

/-- csc that completes has the frame of its fields. -/
theorem execCsc_frame {imm : BitVec 12} (hc : s.gives rs1 c s1) (hv : s1.storeSrc s.cur rs2 = .val (v, s2))
    (h : execCsc rs2 rs1 imm s = .next t) (done : s.completed t) :
    s.StoresTo s2 t rs2 (capAddr c + imm.signExtend 64).toNat 16 := by
  unfold execCsc at h
  obtain ⟨_, _, h⟩ := State.Completes.bind (s.memPre_holds _ (dataField rs2) [rs1]) ⟨h, done⟩
  obtain ⟨_, hsrc, h⟩ := h.bind (s.src_holds rs1)
  cases hc.symm.trans hsrc
  obtain ⟨_, hdata, h⟩ := h.bind (State.storeSrc_holds hv s)
  cases hv.symm.trans hdata
  obtain ⟨_, _, h⟩ := h.bind (Tri.unless_holds s _)
  obtain ⟨_, _, h⟩ := h.bind (Tri.ensure_holds s _ _ _)
  obtain ⟨qs, hqs, h⟩ := h.bind (s.reach_holds _ _ _ _ _)
  obtain ⟨_, hu, rfl⟩ := h.val (Tri.val_holds s _)
  cases hu
  have found := State.reach_val hqs
  refine ⟨qs, found, (State.StoreFrame.src hc).trans ((State.StoreFrame.storeSrc hv).trans
    ((State.StoreFrame.handStores (fun q hq e he => ?_) s2 s.cur).trans (.advance _ _)))⟩
  cases List.mem_singleton.mp he
  exact granuleCells_spares (State.places_ne_nil found) hq {} v

/-- The loads are one form (R137). -/
theorem exec_load {i : Instr} {rd : BitVec 5} {imm : BitVec 12} {sz : BitVec 2} {sc : BitVec 3}
    (hi : i ∈ [Instr.lb rd rs1 imm, .lh rd rs1 imm, .lw rd rs1 imm, .lbu rd rs1 imm, .lhu rd rs1 imm, .lwu rd rs1 imm,
      .ld rd rs1 imm, .clc rd rs1 imm, .lda rd rs1 sz sc]) :
    ∃ w off n kind capAcc acq, exec i s = loadForm w rd rs1 off n kind capAcc acq s := by
  simp only [List.mem_cons, List.not_mem_nil, or_false] at hi
  rcases hi with rfl | rfl | rfl | rfl | rfl | rfl | rfl | rfl | rfl
  · exact ⟨_, _, _, _, _, _, exec_lb s rd rs1 imm⟩
  · exact ⟨_, _, _, _, _, _, exec_lh s rd rs1 imm⟩
  · exact ⟨_, _, _, _, _, _, exec_lw s rd rs1 imm⟩
  · exact ⟨_, _, _, _, _, _, exec_lbu s rd rs1 imm⟩
  · exact ⟨_, _, _, _, _, _, exec_lhu s rd rs1 imm⟩
  · exact ⟨_, _, _, _, _, _, exec_lwu s rd rs1 imm⟩
  · exact ⟨_, _, _, _, _, _, exec_ld s rd rs1 imm⟩
  · exact ⟨_, _, _, _, _, _, exec_clc s rd rs1 imm⟩
  · exact ⟨_, _, _, _, _, _, exec_lda s rd rs1 sz sc⟩

/-- Every store form that completes has the frame of its fields. -/
theorem exec_store_frame {i : Instr} {n : Nat} {imm : BitVec 12}
    (hi : (i, n) ∈ [(Instr.sb rs2 rs1 imm, 1), (.sh rs2 rs1 imm, 2), (.sw rs2 rs1 imm, 4), (.sd rs2 rs1 imm, 8),
      (.csc rs2 rs1 imm, 16)])
    (hc : s.gives rs1 c s1) (hv : s1.storeSrc s.cur rs2 = .val (v, s2)) (h : exec i s = .next t) (done : s.completed t) :
    s.StoresTo s2 t rs2 (capAddr c + imm.signExtend 64).toNat n := by
  simp only [List.mem_cons, List.not_mem_nil, or_false, Prod.mk.injEq] at hi
  rcases hi with ⟨rfl, rfl⟩ | ⟨rfl, rfl⟩ | ⟨rfl, rfl⟩ | ⟨rfl, rfl⟩ | ⟨rfl, rfl⟩
  · exact storeForm_frame hc hv ((exec_sb s rs2 rs1 imm).symm.trans h) done
  · exact storeForm_frame hc hv ((exec_sh s rs2 rs1 imm).symm.trans h) done
  · exact storeForm_frame hc hv ((exec_sw s rs2 rs1 imm).symm.trans h) done
  · exact storeForm_frame hc hv ((exec_sd s rs2 rs1 imm).symm.trans h) done
  · exact execCsc_frame hc hv ((exec_csc s rs2 rs1 imm).symm.trans h) done

/-- What the frame of a load says of it. -/
theorem State.LoadFrame.changes {p : Party} {rd : BitVec 5} (h : s.LoadFrame t p rd rs1) :
    s.onlyParty t p ∧ (∀ d q, t.cell d q = s.cell d q) ∧
      (∀ q, q ≠ rd ∨ rd = 29#5 → (t.ctx p).reg q = (s.ctx p).reg q) ∧ (rd ≠ 29#5 → (t.ctx p).qst = (s.ctx p).qst) ∧
      (rd ≠ 28#5 → rs1 ≠ 28#5 → (t.ctx p).qld = (s.ctx p).qld) ∧ ∀ q, t.see p q = s.see p q :=
  ⟨h.party, State.cell_congr h.party.dies, h.reg, h.qst, h.qld, State.see_congr h.party.dies h.sb⟩

/-- What the frame of a store says of it. -/
theorem State.StoresTo.changes {a n : Nat} (h : s.StoresTo s2 t rs2 a n) :
    ((s.setDev { s.dev with freeAt := t.dev.freeAt }).onlyParty t s.cur ∧ ∀ d q, t.cell d q = s.cell d q) ∧
      (∀ q, (t.ctx s.cur).reg q = (s.ctx s.cur).reg q) ∧
      (∀ qs, s2.places s.cur .w a n = .at qs → ∀ q, q ∉ qs → q ∉ qs.map tagPlace → q ∉ qs.map poisonPlace →
        t.see s.cur q = s.see s.cur q) ∧ (rs2 ≠ 29#5 → (t.ctx s.cur).qst = (s.ctx s.cur).qst) := by
  obtain ⟨qs, found, frame⟩ := h
  refine ⟨⟨frame.party, State.cell_congr frame.dies⟩, frame.reg, fun rs hrs q hbyte htag hpoison => ?_, frame.qst⟩
  cases found.symm.trans hrs
  exact frame.see q fun ht => ht.elim hbyte fun ht => ht.elim htag hpoison

end

/-- Settles O15: a form that completes got a value of each of its parts, and each of those leaves all but its own fields. -/
theorem loadsAndStoresChangeNothingElse : Obligations.LoadsAndStoresChangeNothingElse := by
  intro s s1 s2 t rd rs1 rs2 c v imm sz sc hc hv a storeAt party completes
  refine ⟨fun i hi hdone => ?loads, fun i n hi hdone => ?stores, fun hdone => ?stl⟩
  all_goals obtain ⟨h, done⟩ := hdone
  case loads =>
    obtain ⟨_, _, _, _, _, _, form⟩ := exec_load (s := s) hi
    exact (loadForm_frame (form.symm.trans h) done).changes
  case stores => exact (exec_store_frame hi hc hv h done).changes
  case stl =>
    have stored := storeForm_frame hc hv ((exec_stl s rs1 rs2 sz sc).symm.trans h) done
    rw [show capAddr c + 0 = capAddr c from BitVec.add_zero _] at stored
    exact stored.changes

end Sys2Proof.Machine
end

section
/-! PROOFS. Exact values and their arithmetic, the codes of a format in order, and the rounding between neighbouring codes
(05/R60, R100 to R102, R113 to R115, R119). -/

namespace Sys2Proof.Machine

/-! ## Exact values -/

/-- The rational number ± m × 2^e. -/
def ratVal (neg : Bool) (m : Nat) (e : Int) : ℚ := (if neg then -(m : ℚ) else m) * (2 : ℚ) ^ e

/-- A magnitude with a sign. -/
def withSign (neg : Bool) (x : ℚ) : ℚ := if neg then -x else x

/-- An exact value that is finite and equals a rational number. -/
def Num.HasVal (a : Num) (x : ℚ) : Prop := ∃ s m e, a = .fin s m e ∧ x = ratVal s m e

section
variable {a b : Num} {x y : ℚ} {s t : Bool} {m n : Nat} {e g q : Int}

@[simp] theorem withSign_false : withSign false x = x := rfl
@[simp] theorem withSign_true : withSign true x = -x := rfl

@[simp] theorem abs_withSign : |withSign s x| = |x| := by
  cases s
  · rfl
  · exact abs_neg x

@[simp] theorem withSign_withSign : withSign s (withSign s x) = x := by
  cases s
  · rfl
  · exact neg_neg x

@[simp] theorem withSign_inj : withSign s x = withSign s y ↔ x = y := by
  cases s
  · rfl
  · exact neg_inj

theorem withSign_sub : withSign s x - withSign s y = withSign s (x - y) := by
  cases s
  · rfl
  · simp only [withSign_true]
    ring

theorem withSign_mul : withSign s x * withSign t y = withSign (s != t) (x * y) := by
  cases s
  · cases t <;> simp
  · cases t <;> simp

theorem ratVal_eq_withSign : ratVal s m e = withSign s (m * 2 ^ e) := by
  cases s
  · rfl
  · exact neg_mul _ _

@[simp] theorem ratVal_eq_zero : ratVal s m e = 0 ↔ m = 0 := by
  rw [ratVal, mul_eq_zero, or_iff_left (zpow_ne_zero e two_ne_zero)]
  cases s <;> simp

theorem Num.HasVal.ne_nan (h : a.HasVal x) : a ≠ .nan := by
  obtain ⟨_, _, _, rfl, _⟩ := h
  exact Num.noConfusion

theorem Num.HasVal.unique (h : a.HasVal x) (k : a.HasVal y) : x = y := by
  obtain ⟨_, _, _, rfl, rfl⟩ := h
  obtain ⟨_, _, _, heq, rfl⟩ := k
  cases heq
  rfl

theorem Num.HasVal.negate (h : a.HasVal x) : a.negate.HasVal (-x) := by
  obtain ⟨s, m, e, rfl, rfl⟩ := h
  refine ⟨!s, m, e, rfl, ?_⟩
  cases s <;> simp [ratVal]

/-- The product is exact (R119). -/
theorem Num.HasVal.mul (h : a.HasVal x) (k : b.HasVal y) : (a.mul b).HasVal (x * y) := by
  obtain ⟨s, m, e, rfl, rfl⟩ := h
  obtain ⟨t, n, g, rfl, rfl⟩ := k
  refine ⟨s != t, m * n, e + g, rfl, ?_⟩
  rw [ratVal_eq_withSign, ratVal_eq_withSign, ratVal_eq_withSign, withSign_mul, zpow_add₀ two_ne_zero, Nat.cast_mul,
    mul_mul_mul_comm]

/-- A value as an integer in units of 2^q. -/
theorem scaled_mul_zpow (h : q ≤ e) : (scaled s m e q : ℚ) * 2 ^ q = ratVal s m e := by
  obtain ⟨k, rfl⟩ := Int.le.dest h
  unfold ratVal scaled
  rw [add_sub_cancel_left, Int.toNat_natCast, zpow_add₀ two_ne_zero, zpow_natCast]
  cases s <;> simp <;> ring

/-- An integer in units of 2^q as a value. -/
theorem ratVal_natAbs (v : Int) : ratVal (decide (v < 0)) v.natAbs q = v * 2 ^ q := by
  unfold ratVal
  congr 1
  rcases lt_or_ge v 0 with hv | hv
  · rw [decide_eq_true hv, Nat.cast_natAbs, abs_of_neg hv]
    simp
  · rw [decide_eq_false hv.not_gt, Nat.cast_natAbs, abs_of_nonneg hv]
    simp

theorem minUnit_le_left : (if e < g then e else g) ≤ e := by split <;> omega
theorem minUnit_le_right : (if e < g then e else g) ≤ g := by split <;> omega

/-- The sum is exact (R119), whatever the sign of a zero. -/
theorem Num.HasVal.addMode (h : a.HasVal x) (k : b.HasVal y) (down : Bool) : (a.addMode down b).HasVal (x + y) := by
  obtain ⟨s, m, e, rfl, rfl⟩ := h
  obtain ⟨t, n, g, rfl, rfl⟩ := k
  rw [← scaled_mul_zpow minUnit_le_left, ← scaled_mul_zpow minUnit_le_right, ← add_mul]
  simp only [Num.addMode, ← Int.cast_add]
  generalize (if e < g then e else g) = q
  split
  next hv => exact ⟨_, 0, 0, rfl, by simp [hv, ratVal]⟩
  next => exact ⟨_, _, _, rfl, (ratVal_natAbs _).symm⟩

/-- Finite values are ordered as the rationals are. -/
theorem Num.HasVal.lt (h : a.HasVal x) (k : b.HasVal y) : a.lt b = decide (x < y) := by
  obtain ⟨s, m, e, rfl, rfl⟩ := h
  obtain ⟨t, n, g, rfl, rfl⟩ := k
  rw [← scaled_mul_zpow minUnit_le_left, ← scaled_mul_zpow (s := t) (m := n) minUnit_le_right]
  exact decide_eq_decide.mpr (Int.cast_lt.symm.trans (mul_lt_mul_iff_left₀ (zpow_pos two_pos _)).symm)

theorem Num.HasVal.eq (h : a.HasVal x) (k : b.HasVal y) : a.eq b = decide (x = y) := by
  rw [Num.eq, h.lt k, k.lt h, bne_iff_ne.mpr h.ne_nan, bne_iff_ne.mpr k.ne_nan, Bool.eq_iff_iff]
  simp only [Bool.true_and, Bool.and_eq_true, Bool.not_eq_true', decide_eq_false_iff_not, decide_eq_true_eq, not_lt]
  exact ⟨fun h => le_antisymm h.2 h.1, fun h => ⟨h.ge, h.le⟩⟩

end

/-! ## The codes of a format in order (R100 to R102) -/

/-- A format with an exponent and a mantissa field. -/
abbrev Fmt.proper (f : Fmt) : Prop := 0 < f.ebits ∧ 0 < f.mbits

/-- The value of a magnitude code, as if the exponent range were unbounded above. -/
def Fmt.magVal (f : Fmt) (k : Nat) : ℚ :=
  if k / 2 ^ f.mbits = 0 then (k : ℚ) * (2 : ℚ) ^ (1 - (f.bias : Int) - f.mbits)
  else ((2 ^ f.mbits + k % 2 ^ f.mbits : Nat) : ℚ) * (2 : ℚ) ^ (((k / 2 ^ f.mbits : Nat) : Int) - f.bias - f.mbits)

section
variable (f : Fmt) {c k : Nat} {x : ℚ}

/-- The code of significand `s` at exponent `E`; the significand may reach the next power of two. -/
theorem Fmt.magVal_significand {E s : Nat} (hs : s ≤ 2 ^ (f.mbits + 1)) (hE : E = 0 ∨ 2 ^ f.mbits ≤ s) :
    f.magVal (E * 2 ^ f.mbits + s) = s * (2 : ℚ) ^ ((E : Int) + 1 - f.bias - f.mbits) := by
  have hM : 0 < 2 ^ f.mbits := Nat.two_pow_pos _
  rw [pow_succ] at hs
  unfold Fmt.magVal
  rcases lt_or_ge s (2 ^ f.mbits) with low | normal
  · obtain rfl := hE.resolve_right low.not_ge
    rw [zero_mul, zero_add, if_pos (Nat.div_eq_of_lt low)]
    simp
  · obtain ⟨d, rfl⟩ := Nat.exists_eq_add_of_le normal
    rcases (by omega : d < 2 ^ f.mbits ∨ d = 2 ^ f.mbits) with hd | rfl
    · have split : E * 2 ^ f.mbits + (2 ^ f.mbits + d) = d + 2 ^ f.mbits * (E + 1) := by ring
      rw [split, Nat.add_mul_div_left _ _ hM, Nat.add_mul_mod_self_left, Nat.div_eq_of_lt hd, Nat.mod_eq_of_lt hd,
        if_neg (by omega), zero_add]
      push_cast
      rfl
    · have split : E * 2 ^ f.mbits + (2 ^ f.mbits + 2 ^ f.mbits) = 2 ^ f.mbits * (E + 2) := by ring
      rw [split, Nat.mul_div_cancel_left _ hM, Nat.mul_mod_right, if_neg (by omega),
        show ((E + 2 : Nat) : Int) - f.bias - f.mbits = (E + 1 - f.bias - f.mbits) + 1 by push_cast; ring,
        zpow_add_one₀ two_ne_zero]
      push_cast
      ring

/-- Every magnitude code has a significand and an exponent. -/
theorem Fmt.exists_significand (k : Nat) :
    ∃ E s, k = E * 2 ^ f.mbits + s ∧ s < 2 ^ (f.mbits + 1) ∧ (E = 0 ∨ 2 ^ f.mbits ≤ s) := by
  have hdiv := Nat.div_add_mod' k (2 ^ f.mbits)
  have hmod := Nat.mod_lt k (Nat.two_pow_pos f.mbits)
  rw [pow_succ]
  rcases hE : k / 2 ^ f.mbits with _ | E
  · rw [hE] at hdiv
    exact ⟨0, k, by omega, by omega, .inl rfl⟩
  · rw [hE, add_mul, one_mul] at hdiv
    exact ⟨E, 2 ^ f.mbits + k % 2 ^ f.mbits, by omega, by omega, .inr (by omega)⟩

theorem Fmt.magVal_strictMono : StrictMono f.magVal := by
  refine strictMono_nat_of_lt_succ fun k => ?_
  obtain ⟨E, s, rfl, hs, hE⟩ := f.exists_significand k
  rw [add_assoc, f.magVal_significand hs.le hE, f.magVal_significand hs (hE.imp_right (by omega))]
  exact mul_lt_mul_of_pos_right (Nat.cast_lt.mpr s.lt_succ_self) (zpow_pos two_pos _)

@[simp] theorem Fmt.magVal_zero : f.magVal 0 = 0 := by simp [Fmt.magVal]

theorem Fmt.magVal_nonneg : 0 ≤ f.magVal k := f.magVal_zero ▸ f.magVal_strictMono.monotone k.zero_le

end

section
variable {f : Fmt} {c k : Nat} {x : ℚ} {neg : Bool}

theorem Fmt.infMag_lt_signBit : f.infMag < f.signBit := by
  rw [Fmt.infMag, Fmt.signBit, pow_add]
  exact Nat.mul_lt_mul_of_pos_right (Nat.sub_lt (Nat.two_pow_pos _) Nat.one_pos) (Nat.two_pow_pos _)

theorem Fmt.proper.infMag_pos (hf : f.proper) : 0 < f.infMag :=
  Nat.mul_pos (Nat.sub_pos_of_lt (Nat.one_lt_two_pow hf.1.ne')) (Nat.two_pow_pos _)

theorem Fmt.signBit_pos : 0 < f.signBit := Nat.two_pow_pos _

theorem Fmt.mag_lt_signBit : f.mag c < f.signBit := Nat.mod_lt _ f.signBit_pos

/-- The largest finite code is a code. -/
theorem Fmt.proper.maxMag_lt_signBit (hf : f.proper) : f.maxMag < f.signBit := by
  have hinf := f.infMag_lt_signBit
  have hpos := hf.infMag_pos
  unfold Fmt.maxMag
  split <;> omega

theorem Fmt.mag_code (hk : k < f.signBit) : f.mag (f.code neg k) = k := by
  unfold Fmt.mag Fmt.code
  cases neg
  · simp [Nat.mod_eq_of_lt hk]
  · simp [Nat.mod_eq_of_lt hk]

theorem Fmt.neg_code (hk : k < f.signBit) : f.neg (f.code neg k) = neg := by
  unfold Fmt.neg Fmt.code
  cases neg
  · simp [Nat.div_eq_of_lt hk]
  · simp [Nat.add_div_left _ f.signBit_pos, Nat.div_eq_of_lt hk]

/-- A code within the width is its sign and its magnitude. -/
theorem Fmt.code_neg_mag (hc : c < 2 ^ f.width) : f.code (f.neg c) (f.mag c) = c := by
  have hwidth : 2 ^ f.width = 2 * f.signBit := by
    rw [Fmt.width, Fmt.signBit, add_assoc, pow_add, pow_one]
  have hdiv : c / f.signBit < 2 := Nat.div_lt_of_lt_mul (mul_comm 2 f.signBit ▸ hwidth ▸ hc)
  have hsplit := Nat.div_add_mod c f.signBit
  unfold Fmt.code Fmt.neg Fmt.mag
  rcases Nat.le_one_iff_eq_zero_or_eq_one.mp (Nat.le_of_lt_succ hdiv) with h | h
  · rw [h] at hsplit ⊢
    simpa using hsplit
  · rw [h] at hsplit ⊢
    simpa using hsplit

theorem Fmt.exp_eq_mag_div : f.exp c = f.mag c / 2 ^ f.mbits := by
  rw [Fmt.exp, Fmt.mag, Fmt.signBit, add_comm, pow_add, Nat.mod_mul_right_div_self]

theorem Fmt.man_eq_mag_mod : f.man c = f.mag c % 2 ^ f.mbits :=
  (Nat.mod_mod_of_dvd _ (pow_dvd_pow 2 (Nat.le_add_left _ _))).symm

/-- The codes beyond the largest finite one are the NaNs and the infinities (R102). -/
theorem Fmt.proper.special_iff (hf : f.proper) : f.isNan c = true ∨ f.isInf c = true ↔ f.maxMag < f.mag c := by
  have hpos := hf.infMag_pos
  have hlt := f.mag_lt_signBit (c := c)
  unfold Fmt.isNan Fmt.isInf Fmt.maxMag
  cases f.special
  · simp
    omega
  · have : 2 ≤ f.signBit := Nat.le_self_pow (by have := hf.1; omega) 2
    simp
    omega
  · simp
    omega

/-- A code that is not special has the value of its magnitude with its sign. -/
theorem Fmt.proper.num_finite (hf : f.proper) (h : f.mag c ≤ f.maxMag) :
    (f.num c).HasVal (withSign (f.neg c) (f.magVal (f.mag c))) := by
  have plain : ¬(f.isNan c = true ∨ f.isInf c = true) := fun special => (hf.special_iff.mp special).not_ge h
  obtain ⟨hnan, hinf⟩ := not_or.mp plain
  unfold Fmt.num Fmt.magVal
  rw [if_neg hnan, if_neg hinf, Fmt.exp_eq_mag_div]
  split
  next hE =>
    refine ⟨_, _, _, rfl, ?_⟩
    rw [ratVal_eq_withSign, Fmt.man_eq_mag_mod, Nat.mod_eq_of_lt ((Nat.div_eq_zero_iff_lt (Nat.two_pow_pos _)).mp hE)]
  next => exact ⟨_, _, _, rfl, by rw [ratVal_eq_withSign, Fmt.man_eq_mag_mod]⟩

/-- The finite codes and their values. -/
theorem Fmt.proper.hasVal_iff (hf : f.proper) :
    (f.num c).HasVal x ↔ f.mag c ≤ f.maxMag ∧ x = withSign (f.neg c) (f.magVal (f.mag c)) := by
  refine ⟨fun h => ?_, fun ⟨hle, hx⟩ => hx ▸ hf.num_finite hle⟩
  have hle : f.mag c ≤ f.maxMag := by
    by_contra hgt
    obtain ⟨s, m, e, heq, _⟩ := h
    unfold Fmt.num at heq
    rcases hf.special_iff.mpr (not_le.mp hgt) with hnan | hinf
    · rw [if_pos hnan] at heq
      cases heq
    · rw [if_pos hinf] at heq
      split at heq <;> cases heq
  exact ⟨hle, h.unique (hf.num_finite hle)⟩

/-- A code built from a sign and a finite magnitude has their value. -/
theorem Fmt.proper.code_hasVal (hf : f.proper) (hk : k ≤ f.maxMag) :
    (f.num (f.code neg k)).HasVal (withSign neg (f.magVal k)) := by
  have hlt := hk.trans_lt hf.maxMag_lt_signBit
  refine hf.hasVal_iff.mpr ?_
  rw [Fmt.mag_code hlt, Fmt.neg_code hlt]
  exact ⟨hk, rfl⟩

/-- A finite value is not a NaN. -/
theorem Fmt.isNan_of_hasVal (h : (f.num c).HasVal x) : f.isNan c = false := by
  by_contra hnan
  rw [Bool.not_eq_false] at hnan
  exact h.ne_nan (by rw [Fmt.num, if_pos hnan])

end

/-! ## Rounding to a unit (R60) -/

/-- Whether a magnitude of `s` units and the fraction `t` of one rounds away from zero. -/
def roundsAway (rm : Rm) (neg : Bool) (s : Nat) (t : ℚ) : Bool :=
  match rm with
  | .rne => decide (1 / 2 < t ∨ t = 1 / 2 ∧ s % 2 = 1)
  | .rtz => false
  | .rdn => neg && decide (t ≠ 0)
  | .rup => !neg && decide (t ≠ 0)
  | .rmm => decide (1 / 2 ≤ t)

/-- What `s` units and the fraction `t` of one round to. -/
def roundedTo (rm : Rm) (neg : Bool) (s : Nat) (t : ℚ) : Nat := if roundsAway rm neg s t then s + 1 else s

section
variable {rm : Rm} {neg : Bool} {m s r k : Nat} {t : ℚ} {e q : Int}

@[simp] theorem roundsAway_zero : roundsAway rm neg s 0 = false := by
  cases rm <;> simp [roundsAway]

@[simp] theorem roundedTo_zero : roundedTo rm neg s 0 = s := by simp [roundedTo]

theorem roundedTo_cases : roundsAway rm neg s t = true ∧ roundedTo rm neg s t = s + 1 ∨
    roundsAway rm neg s t = false ∧ roundedTo rm neg s t = s := by
  unfold roundedTo
  cases roundsAway rm neg s t
  · exact .inr ⟨rfl, rfl⟩
  · exact .inl ⟨rfl, rfl⟩

/-- Rounding keeps a multiple of two units apart. -/
theorem roundedTo_add {a : Nat} (ha : a % 2 = 0) : roundedTo rm neg (a + s) t = a + roundedTo rm neg s t := by
  have same : roundsAway rm neg (a + s) t = roundsAway rm neg s t := by
    unfold roundsAway
    rw [Nat.add_mod, ha, zero_add, Nat.mod_mod]
  unfold roundedTo
  rw [same]
  split <;> rfl

/-- The model's test on the bits below the unit is the test on the fraction. -/
theorem roundsUp_eq_roundsAway (k : Nat) : roundsUp rm neg s r (k + 1) = roundsAway rm neg s (r / 2 ^ (k + 1)) := by
  have unit : (0 : ℚ) < 2 ^ (k + 1) := by positivity
  have half : (1 / 2 : ℚ) * 2 ^ (k + 1) = (2 ^ k : Nat) := by push_cast; ring
  have above : (1 / 2 : ℚ) < r / 2 ^ (k + 1) ↔ 2 ^ k < r := by rw [lt_div_iff₀ unit, half, Nat.cast_lt]
  have least : (1 / 2 : ℚ) ≤ r / 2 ^ (k + 1) ↔ 2 ^ k ≤ r := by rw [le_div_iff₀ unit, half, Nat.cast_le]
  have middle : (r / 2 ^ (k + 1) : ℚ) = 1 / 2 ↔ r = 2 ^ k := by rw [div_eq_iff unit.ne', half, Nat.cast_inj]
  have none : (r / 2 ^ (k + 1) : ℚ) = 0 ↔ r = 0 := by rw [div_eq_zero_iff, or_iff_left unit.ne', Nat.cast_eq_zero]
  rw [Bool.eq_iff_iff]
  cases rm <;> simp [roundsUp, roundsAway, above, least, middle, none, -one_div]

/-- What the rounding to units of 2^q keeps: the value is `s` units and a fraction `t`, and the mode decides. -/
theorem roundAt_spec (rm : Rm) (neg : Bool) (m : Nat) (e q : Int) :
    ∃ (s : Nat) (t : ℚ), 0 ≤ t ∧ t < 1 ∧ (m : ℚ) * 2 ^ e = (s + t) * 2 ^ q ∧
      roundAt rm neg m e q = (roundedTo rm neg s t, decide (t ≠ 0)) := by
  unfold roundAt
  split
  next h =>
    obtain ⟨k, rfl⟩ := Int.le.dest h
    refine ⟨m * 2 ^ k, 0, le_rfl, one_pos, ?_, by simp⟩
    rw [zpow_add₀ two_ne_zero, zpow_natCast]
    push_cast
    ring
  next h =>
    obtain ⟨k, hk⟩ : ∃ k : Nat, q = e + (k + 1 : Nat) := ⟨(q - e).toNat - 1, by omega⟩
    have hbits : (q - e).toNat = k + 1 := by omega
    have unit : (0 : ℚ) < 2 ^ (k + 1) := by positivity
    have hlt := Nat.mod_lt m (Nat.two_pow_pos (k + 1))
    have hsplit : (m : ℚ) = 2 ^ (k + 1) * (m / 2 ^ (k + 1) : Nat) + (m % 2 ^ (k + 1) : Nat) := by
      exact_mod_cast (Nat.div_add_mod m (2 ^ (k + 1))).symm
    have rest : ((m % 2 ^ (k + 1) : Nat) / 2 ^ (k + 1) : ℚ) ≠ 0 ↔ m % 2 ^ (k + 1) ≠ 0 := by
      rw [div_ne_zero_iff, and_iff_left unit.ne', Nat.cast_ne_zero]
    refine ⟨m / 2 ^ (k + 1), (m % 2 ^ (k + 1) : Nat) / 2 ^ (k + 1), by positivity, ?_, ?_, ?_⟩
    · rw [div_lt_one unit]
      exact_mod_cast hlt
    · rw [hk, zpow_add₀ two_ne_zero, zpow_natCast]
      nth_rw 1 [hsplit]
      field_simp
    · have inexact : (m % 2 ^ (k + 1) != 0) = decide (m % 2 ^ (k + 1) ≠ 0) := by rw [Bool.eq_iff_iff]; simp
      simp only [hbits, roundsUp_eq_roundsAway, roundedTo, rest, inexact]

end

/-! ## Rounding to a code (R114) -/

/-- A magnitude lies the fraction `t` above a code, on the way to the next one. -/
structure Fmt.Between (f : Fmt) (v : ℚ) (lo : Nat) (t : ℚ) : Prop where
  nonneg : 0 ≤ t
  lt_one : t < 1
  value : v = f.magVal lo + t * (f.magVal (lo + 1) - f.magVal lo)

section
variable (f : Fmt) (rm : Rm) (neg : Bool) (m : Nat) (e : Int)

/-- The power of two below a magnitude, and the next. -/
theorem log2_bounds {m : Nat} (hm : m ≠ 0) (e : Int) :
    (2 : ℚ) ^ (e + m.log2) ≤ m * 2 ^ e ∧ (m : ℚ) * 2 ^ e < 2 ^ (e + m.log2 + 1) := by
  have unit : (0 : ℚ) < 2 ^ e := zpow_pos two_pos _
  rw [add_assoc, zpow_add₀ two_ne_zero, zpow_add₀ two_ne_zero, zpow_add_one₀ two_ne_zero, zpow_natCast, ← pow_succ,
    mul_comm, mul_comm ((2 : ℚ) ^ e), mul_le_mul_iff_left₀ unit, mul_lt_mul_iff_left₀ unit]
  exact ⟨by exact_mod_cast Nat.log2_self_le hm, by exact_mod_cast Nat.lt_log2_self⟩

/-- The significand and the exponent of the unit in which `Fmt.round` rounds are those of a code. -/
theorem Fmt.significand_of_unit {top q : Int} {s : Nat} {t : ℚ} (h0 : 0 ≤ t) (h1 : t < 1)
    (hlow : (2 : ℚ) ^ top ≤ (s + t) * 2 ^ q) (hhigh : (s + t) * 2 ^ q < (2 : ℚ) ^ (top + 1)) (hq : top - f.mbits ≤ q) :
    s < 2 ^ (f.mbits + 1) ∧ (q = top - f.mbits → 2 ^ f.mbits ≤ s) := by
  have unit : (0 : ℚ) < 2 ^ q := zpow_pos two_pos _
  constructor
  · have hcap : (2 : ℚ) ^ (top + 1) ≤ (2 ^ (f.mbits + 1) : Nat) * 2 ^ q := by
      push_cast
      rw [← zpow_natCast, ← zpow_add₀ two_ne_zero]
      exact zpow_le_zpow_right₀ one_le_two (by push_cast; omega)
    have := lt_of_mul_lt_mul_right (hhigh.trans_le hcap) unit.le
    exact_mod_cast (le_add_of_nonneg_right h0).trans_lt this
  · rintro rfl
    have hfloor : ((2 ^ f.mbits : Nat) : ℚ) * 2 ^ (top - f.mbits : Int) = 2 ^ top := by
      push_cast
      rw [← zpow_natCast, ← zpow_add₀ two_ne_zero]
      congr 1
      ring
    have := le_of_mul_le_mul_right (hfloor.trans_le hlow) unit
    have : ((2 ^ f.mbits : Nat) : ℚ) < (s + 1 : Nat) := by push_cast at *; linarith
    exact Nat.le_of_lt_succ (Nat.cast_lt.mp this)

/-- A magnitude of `s` units and a fraction, where the unit is that of a code, lies above that code. -/
theorem Fmt.between_of_unit {E s : Nat} {t : ℚ} (h0 : 0 ≤ t) (h1 : t < 1) (hs : s < 2 ^ (f.mbits + 1))
    (hE : E = 0 ∨ 2 ^ f.mbits ≤ s) :
    f.Between ((s + t) * (2 : ℚ) ^ ((E : Int) + 1 - f.bias - f.mbits)) (E * 2 ^ f.mbits + s) t := by
  refine ⟨h0, h1, ?_⟩
  rw [add_assoc (E * _), f.magVal_significand hs.le hE, f.magVal_significand hs (hE.imp_right (by omega))]
  push_cast
  ring

/-- What `Fmt.round` gives: the code below the value or the next one, as the mode says; `nx` where it is not the value. -/
theorem Fmt.proper.round_spec {f : Fmt} (hf : f.proper) : ∃ (lo : Nat) (t : ℚ), f.Between (m * 2 ^ e) lo t ∧
    (f.round rm neg m e).mag = roundedTo rm neg lo t ∧ (f.round rm neg m e).nx = decide (t ≠ 0) ∧
    (f.round rm neg m e).of = decide (f.maxMag < roundedTo rm neg lo t) ∧
    ((f.round rm neg m e).nx = false → (f.round rm neg m e).uf = false) := by
  unfold Fmt.round
  split
  next hm => exact ⟨0, 0, ⟨le_rfl, one_pos, by simp [hm]⟩, by simp⟩
  next hm =>
    extract_lets top emin q
    obtain ⟨s, t, h0, h1, hv, hround⟩ := roundAt_spec rm neg m e q
    obtain ⟨hlow, hhigh⟩ := log2_bounds hm e
    rw [hv] at hlow hhigh
    obtain ⟨hs, hnormal⟩ := f.significand_of_unit h0 h1 hlow hhigh (by omega)
    obtain ⟨E, hE⟩ : ∃ E : Nat, q = E + 1 - f.bias - f.mbits := ⟨(q + f.mbits + f.bias - 1).toNat, by omega⟩
    have hcode : (q + f.mbits + f.bias - 1).toNat = E := by omega
    have hkind : E = 0 ∨ 2 ^ f.mbits ≤ s := by
      rcases Nat.eq_zero_or_pos E with hzero | hpos
      · exact .inl hzero
      · exact .inr (hnormal (by omega))
    have heven : E * 2 ^ f.mbits % 2 = 0 :=
      Nat.mod_eq_zero_of_dvd ((dvd_pow_self 2 hf.2.ne').mul_left E)
    refine ⟨E * 2 ^ f.mbits + s, t, ?_, ?_⟩
    · rw [hv, hE]
      exact f.between_of_unit h0 h1 hs hkind
    · rw [hround, hcode, roundedTo_add heven]
      exact ⟨rfl, rfl, rfl, fun h => (congrArg (_ && ·) h).trans (Bool.and_false _)⟩

end

/-! ## What a rounded magnitude is to the value -/

section
variable {f : Fmt} {rm : Rm} {neg : Bool} {v t : ℚ} {lo j : Nat}

theorem Fmt.gap_pos : 0 < f.magVal (lo + 1) - f.magVal lo := sub_pos.mpr (f.magVal_strictMono lo.lt_succ_self)

theorem Fmt.magVal_le_or_ge (j lo : Nat) :
    j ≤ lo ∧ f.magVal j ≤ f.magVal lo ∨ lo + 1 ≤ j ∧ f.magVal (lo + 1) ≤ f.magVal j := by
  rcases le_or_gt j lo with h | h
  · exact .inl ⟨h, f.magVal_strictMono.monotone h⟩
  · exact .inr ⟨h, f.magVal_strictMono.monotone h⟩

namespace Fmt.Between

section
variable (h : f.Between v lo t)
include h

theorem low_le : f.magVal lo ≤ v := by
  have := mul_nonneg h.nonneg (f.gap_pos (lo := lo)).le
  linarith [h.value]

theorem lt_high : v < f.magVal (lo + 1) := by
  have := mul_lt_mul_of_pos_right h.lt_one (f.gap_pos (lo := lo))
  linarith [h.value]

theorem eq_low_iff : v = f.magVal lo ↔ t = 0 := by
  rw [h.value, add_eq_left, mul_eq_zero, or_iff_left f.gap_pos.ne']

/-- A value that a code has is not rounded. -/
theorem of_exact (hv : v = f.magVal j) : lo = j ∧ t = 0 := by
  have low : lo ≤ j := f.magVal_strictMono.le_iff_le.mp (hv ▸ h.low_le)
  have high : j < lo + 1 := f.magVal_strictMono.lt_iff_lt.mp (hv ▸ h.lt_high)
  obtain rfl := le_antisymm low (Nat.le_of_lt_succ high)
  exact ⟨rfl, h.eq_low_iff.mp hv⟩

/-- Away from zero the result is not below the value, and else not above it. -/
theorem away_le (ha : roundsAway rm neg lo t = true) : v ≤ f.magVal (roundedTo rm neg lo t) := by
  rw [roundedTo, if_pos ha]
  exact h.lt_high.le

theorem toward_le (ha : roundsAway rm neg lo t = false) : f.magVal (roundedTo rm neg lo t) ≤ v := by
  rw [roundedTo, ha]
  exact h.low_le

theorem rounded_eq_iff : f.magVal (roundedTo rm neg lo t) = v ↔ t = 0 := by
  refine ⟨fun heq => (h.of_exact heq.symm).2, ?_⟩
  rintro rfl
  rw [roundedTo_zero]
  exact (h.eq_low_iff.mpr rfl).symm

/-- No code lies strictly between the value and the result. -/
theorem not_between (j : Nat) : ¬(v < f.magVal j ∧ f.magVal j < f.magVal (roundedTo rm neg lo t)) ∧
    ¬(f.magVal (roundedTo rm neg lo t) < f.magVal j ∧ f.magVal j < v) := by
  have low := h.low_le
  have high := h.lt_high
  rcases roundedTo_cases (rm := rm) (neg := neg) (s := lo) (t := t) with ⟨_, hk⟩ | ⟨_, hk⟩ <;> rw [hk]
  all_goals
    rcases f.magVal_le_or_ge j lo with ⟨_, hj⟩ | ⟨_, hj⟩
    · exact ⟨fun h => by linarith, fun h => by linarith⟩
    · exact ⟨fun h => by linarith, fun h => by linarith⟩

/-- Rounding down to the code below, where the fraction is at most a half: no code is nearer, and a tie is at the half. -/
theorem low_nearest (ht : t ≤ 1 / 2) (j : Nat) : |f.magVal lo - v| ≤ |f.magVal j - v| ∧
    (|f.magVal lo - v| = |f.magVal j - v| → j ≠ lo → t = 1 / 2) := by
  have gap := f.gap_pos (lo := lo)
  have low := h.low_le
  have high := h.lt_high
  have half := mul_le_mul_of_nonneg_right ht gap.le
  have hv := h.value
  rw [abs_of_nonpos (sub_nonpos.mpr low)]
  rcases f.magVal_le_or_ge j lo with ⟨hle, hj⟩ | ⟨_, hj⟩
  · rw [abs_of_nonpos (by linarith)]
    refine ⟨by linarith, fun heq hne => absurd ?_ hne⟩
    exact f.magVal_strictMono.injective (by linarith)
  · rw [abs_of_nonneg (by linarith)]
    refine ⟨by linarith, fun heq _ => ?_⟩
    exact mul_right_cancel₀ gap.ne' (by linarith)

/-- Rounding up to the next code, where the fraction is at least a half. -/
theorem high_nearest (ht : 1 / 2 ≤ t) (j : Nat) : |f.magVal (lo + 1) - v| ≤ |f.magVal j - v| ∧
    (|f.magVal (lo + 1) - v| = |f.magVal j - v| → j ≠ lo + 1 → t = 1 / 2 ∧ f.magVal j < f.magVal (lo + 1)) := by
  have gap := f.gap_pos (lo := lo)
  have low := h.low_le
  have high := h.lt_high
  have half := mul_le_mul_of_nonneg_right ht gap.le
  have hv := h.value
  rw [abs_of_nonneg (sub_nonneg.mpr high.le)]
  rcases f.magVal_le_or_ge j lo with ⟨_, hj⟩ | ⟨hle, hj⟩
  · rw [abs_of_nonpos (by linarith)]
    exact ⟨by linarith, fun heq _ => ⟨mul_right_cancel₀ gap.ne' (by linarith), by linarith⟩⟩
  · rw [abs_of_nonneg (by linarith)]
    refine ⟨by linarith, fun heq hne => absurd ?_ hne⟩
    exact f.magVal_strictMono.injective (by linarith)

/-- In the two modes to nearest no code is nearer than the result, and a tie goes to an even code or to the larger one. -/
theorem nearest (hrm : rm = .rne ∨ rm = .rmm) (j : Nat) :
    |f.magVal (roundedTo rm neg lo t) - v| ≤ |f.magVal j - v| ∧
    (|f.magVal (roundedTo rm neg lo t) - v| = |f.magVal j - v| → j ≠ roundedTo rm neg lo t →
      if rm = .rne then roundedTo rm neg lo t % 2 = 0 else f.magVal j < f.magVal (roundedTo rm neg lo t)) := by
  rcases roundedTo_cases (rm := rm) (neg := neg) (s := lo) (t := t) with ⟨ha, hk⟩ | ⟨ha, hk⟩ <;> rw [hk]
  · have ht : 1 / 2 ≤ t := by
      rcases hrm with rfl | rfl
      · rcases of_decide_eq_true ha with hlt | ⟨heq, _⟩
        exacts [hlt.le, heq.ge]
      · exact of_decide_eq_true ha
    obtain ⟨hle, htie⟩ := h.high_nearest ht j
    refine ⟨hle, fun heq hne => ?_⟩
    obtain ⟨hhalf, hlt⟩ := htie heq hne
    rcases hrm with rfl | rfl
    · rcases of_decide_eq_true ha with hgt | ⟨_, hodd⟩
      · exact absurd hhalf hgt.ne'
      · rw [if_pos rfl]
        omega
    · exact hlt
  · rcases hrm with rfl | rfl
    · obtain ⟨hle, hodd⟩ := not_or.mp (of_decide_eq_false ha)
      obtain ⟨hnear, htie⟩ := h.low_nearest (not_lt.mp hle) j
      refine ⟨hnear, fun heq hne => ?_⟩
      have := mt (And.intro (htie heq hne)) hodd
      rw [if_pos rfl]
      omega
    · have hlt := not_le.mp (of_decide_eq_false ha)
      obtain ⟨hnear, htie⟩ := h.low_nearest hlt.le j
      exact ⟨hnear, fun heq hne => absurd (htie heq hne) hlt.ne⟩

/-- Beyond the largest finite code the value is larger than every one. -/
theorem magVal_lt_of_overflow {top : Nat} (hover : top < roundedTo rm neg lo t) (hj : j ≤ top) : f.magVal j < v := by
  have mono := f.magVal_strictMono.monotone
  rcases roundedTo_cases (rm := rm) (neg := neg) (s := lo) (t := t) with ⟨ha, hk⟩ | ⟨_, hk⟩ <;> rw [hk] at hover
  · refine ((mono (show j ≤ lo by omega)).trans h.low_le).lt_of_ne fun heq => ?_
    obtain ⟨_, rfl⟩ := h.of_exact heq.symm
    simp at ha
  · exact (f.magVal_strictMono (show j < lo by omega)).trans_le h.low_le

end

end Fmt.Between

/-! ## What `Fmt.finish` and `Fmt.put` give -/

/-- The largest finite magnitude or infinity, as the mode says (R140). -/
def Fmt.overflowMag (f : Fmt) (rm : Rm) (neg : Bool) : Nat :=
  if rm = .rtz ∨ (rm = .rdn ∧ neg = false) ∨ (rm = .rup ∧ neg = true) then f.maxMag else f.infMag

/-- The magnitude that a conversion with overflow gives (R115). -/
def Fmt.putOverflow (f : Fmt) (sat : Bool) : Nat :=
  match f.special with
  | .ieee => if sat then f.maxMag else f.infMag
  | .oneNan => if sat then f.maxMag else f.signBit - 1
  | .none => f.maxMag

/-- A value without overflow is the code that it rounds to, with NX where that is inexact; with overflow OF and NX are raised. -/
theorem Fmt.proper.finish_spec (hf : f.proper) (rm : Rm) (neg : Bool) (m : Nat) (e : Int) :
    ∃ lo t, f.Between (m * 2 ^ e) lo t ∧
      (f.maxMag < roundedTo rm neg lo t ∧ f.finish rm neg m e = ⟨f.code neg (f.overflowMag rm neg), 5⟩ ∨
        roundedTo rm neg lo t ≤ f.maxMag ∧ ∃ fl : BitVec 5,
          f.finish rm neg m e = ⟨f.code neg (roundedTo rm neg lo t), fl⟩ ∧
          fl &&& 4 = 0 ∧ (fl &&& 1 = 0 ↔ t = 0) ∧ (t = 0 → fl = 0)) := by
  obtain ⟨lo, t, hbetween, hmag, hnx, hof, huf⟩ := hf.round_spec rm neg m e
  refine ⟨lo, t, hbetween, ?_⟩
  simp only [Fmt.finish, hof, hmag, hnx]
  rcases lt_or_ge f.maxMag (roundedTo rm neg lo t) with hover | hfits
  · refine .inl ⟨hover, ?_⟩
    rw [if_pos (decide_eq_true hover)]
    cases rm <;> simp [Fmt.overflowMag, flagOF, flagNX]
  · refine .inr ⟨hfits, ?_⟩
    rw [if_neg (by simpa using hfits)]
    refine ⟨_, rfl, ?_⟩
    rcases eq_or_ne t 0 with rfl | ht
    · rw [huf (by simpa using hnx)]
      simp
    · cases (f.round rm neg m e).uf <;> simp [ht, flagNX, flagUF]

/-- A value that does not overflow is put as the code that it rounds to (R114, R115). -/
theorem Fmt.proper.put_spec (hf : f.proper) (sat neg : Bool) (m : Nat) (e : Int) :
    ∃ lo t, f.Between (m * 2 ^ e) lo t ∧ (roundedTo .rne neg lo t ≤ f.maxMag →
        f.put sat (.fin neg m e) = f.code neg (roundedTo .rne neg lo t)) ∧
      (f.maxMag < roundedTo .rne neg lo t → f.put sat (.fin neg m e) =
        f.code neg (f.putOverflow sat)) := by
  obtain ⟨lo, t, hbetween, hmag, _, hof, _⟩ := hf.round_spec .rne neg m e
  refine ⟨lo, t, hbetween, fun hfits => ?_, fun hover => ?_⟩
  · rw [Fmt.put, hof, if_neg (by simpa using hfits), hmag]
  · rw [Fmt.put, hof, if_pos (decide_eq_true hover)]
    unfold Fmt.putOverflow
    cases f.special <;> rfl

end

/-! ## Signed results -/

theorem ite_neg_eq_abs (x : ℚ) : (if x < 0 then -x else x) = |x| := by
  split
  next h => exact (abs_of_neg h).symm
  next h => exact (abs_of_nonneg (not_lt.mp h)).symm

section
variable {f : Fmt} {rm : Rm} {neg sat : Bool} {v w t : ℚ} {m lo k c d : Nat} {e : Int}

/-- On the side of a sign, a finite code has the value of a magnitude or lies on the other side of zero. -/
theorem Fmt.proper.hasVal_cases (hf : f.proper) (hd : (f.num d).HasVal w) (neg : Bool) :
    ∃ j ≤ f.maxMag, |w| = f.magVal j ∧ (w = withSign neg (f.magVal j) ∨ withSign neg w < 0) := by
  obtain ⟨hle, rfl⟩ := hf.hasVal_iff.mp hd
  refine ⟨f.mag d, hle, by rw [abs_withSign, abs_of_nonneg f.magVal_nonneg], ?_⟩
  by_cases hs : f.neg d = neg
  · exact .inl (by rw [hs])
  · rw [Bool.eq_not_of_ne hs]
    rcases (f.magVal_nonneg (k := f.mag d)).eq_or_lt with hzero | hpos
    · exact .inl (by cases neg <;> simp [← hzero])
    · exact .inr (by cases neg <;> simpa using hpos)

namespace Fmt.Between

section
variable (h : f.Between v lo t)
include h

theorem value_nonneg : 0 ≤ v := f.magVal_nonneg.trans h.low_le

theorem le_rounded (ha : t ≠ 0 → roundsAway rm neg lo t = true) : v ≤ f.magVal (roundedTo rm neg lo t) := by
  rcases eq_or_ne t 0 with ht | ht
  · exact (h.rounded_eq_iff.mpr ht).ge
  · exact h.away_le (ha ht)

theorem signed_not_between (hf : f.proper) (hd : (f.num d).HasVal w) :
    ¬(withSign neg v < w ∧ w < withSign neg (f.magVal (roundedTo rm neg lo t))) ∧
      ¬(withSign neg (f.magVal (roundedTo rm neg lo t)) < w ∧ w < withSign neg v) := by
  have hv := h.value_nonneg
  have hu := f.magVal_nonneg (k := roundedTo rm neg lo t)
  obtain ⟨j, _, _, rfl | hside⟩ := hf.hasVal_cases hd neg
  · obtain ⟨hup, hdown⟩ := h.not_between (rm := rm) (neg := neg) j
    cases neg
    · exact ⟨hup, hdown⟩
    · simp only [withSign_true, neg_lt_neg_iff]
      exact ⟨fun h => hdown h.symm, fun h => hup h.symm⟩
  · cases neg
    · simp only [withSign_false] at *
      exact ⟨fun h => by linarith, fun h => by linarith⟩
    · simp only [withSign_true] at *
      exact ⟨fun h => by linarith, fun h => by linarith⟩

/-- The rounding toward zero is not larger in magnitude, and the directed ones keep their side. -/
theorem signed_directed :
    (rm = .rtz → |withSign neg (f.magVal (roundedTo rm neg lo t))| ≤ |withSign neg v|) ∧
      (rm = .rdn → withSign neg (f.magVal (roundedTo rm neg lo t)) ≤ withSign neg v) ∧
      (rm = .rup → withSign neg v ≤ withSign neg (f.magVal (roundedTo rm neg lo t))) := by
  refine ⟨?_, ?_, ?_⟩
  · rintro rfl
    rw [abs_withSign, abs_withSign, abs_of_nonneg f.magVal_nonneg, abs_of_nonneg h.value_nonneg]
    exact h.toward_le rfl
  · rintro rfl
    cases neg
    · exact h.toward_le rfl
    · exact neg_le_neg (h.le_rounded fun ht => decide_eq_true ht)
  · rintro rfl
    cases neg
    · exact h.le_rounded fun ht => decide_eq_true ht
    · exact neg_le_neg (h.toward_le rfl)

/-- Of all codes none is nearer than a result rounded to nearest, and a tie goes to an even code or to the larger magnitude. -/
theorem signed_nearest (hf : f.proper) (hrm : rm = .rne ∨ rm = .rmm) (hd : (f.num d).HasVal w) :
    |withSign neg (f.magVal (roundedTo rm neg lo t)) - withSign neg v| ≤ |w - withSign neg v| ∧
      (|withSign neg (f.magVal (roundedTo rm neg lo t)) - withSign neg v| = |w - withSign neg v| →
        w ≠ withSign neg (f.magVal (roundedTo rm neg lo t)) →
        if rm = .rne then roundedTo rm neg lo t % 2 = 0 else |w| < |withSign neg (f.magVal (roundedTo rm neg lo t))|) := by
  rw [withSign_sub, abs_withSign, abs_withSign, abs_of_nonneg (f.magVal_nonneg (k := roundedTo rm neg lo t))]
  obtain ⟨j, _, habs, rfl | hside⟩ := hf.hasVal_cases hd neg
  · obtain ⟨hnear, htie⟩ := h.nearest (neg := neg) hrm j
    rw [habs, withSign_sub, abs_withSign]
    exact ⟨hnear, fun heq hne => htie heq fun hj => hne (by rw [hj])⟩
  · have farther : |f.magVal (roundedTo rm neg lo t) - v| < |w - withSign neg v| := by
      have hv := h.value_nonneg
      calc |f.magVal (roundedTo rm neg lo t) - v| ≤ |f.magVal 0 - v| := (h.nearest hrm 0).1
        _ = v := by rw [f.magVal_zero, zero_sub, abs_neg, abs_of_nonneg hv]
        _ < |withSign neg w - v| := by rw [abs_of_neg (by linarith)]; linarith
        _ = |w - withSign neg v| := by rw [← abs_withSign (s := neg), ← withSign_sub, withSign_withSign]
    exact ⟨farther.le, fun heq => absurd heq farther.ne⟩

/-- A value that a finite code of its sign has is not rounded. -/
theorem of_code (hf : f.proper) (hc : (f.num c).HasVal (withSign neg v)) (hneg : f.neg c = neg) :
    lo = f.mag c ∧ t = 0 ∧ lo ≤ f.maxMag := by
  obtain ⟨hle, hval⟩ := hf.hasVal_iff.mp hc
  rw [hneg, withSign_inj] at hval
  obtain ⟨rfl, ht⟩ := h.of_exact hval
  exact ⟨rfl, ht, hle⟩

end

end Fmt.Between

theorem Fmt.proper.man_code_even_iff (hf : f.proper) (hk : k < f.signBit) : f.man (f.code neg k) % 2 = 0 ↔ k % 2 = 0 := by
  rw [Fmt.man_eq_mag_mod, Fmt.mag_code hk, Nat.mod_mod_of_dvd _ (dvd_pow_self 2 hf.2.ne')]

/-- A value that a finite code has rounds to that code, with no flag. -/
theorem Fmt.proper.finish_exact (hf : f.proper) (hc : c < 2 ^ f.width) (h : (f.num c).HasVal (ratVal neg m e))
    (hneg : f.neg c = neg) : f.finish rm neg m e = ⟨c, 0⟩ := by
  rw [ratVal_eq_withSign] at h
  obtain ⟨lo, t, hbetween, hspec⟩ := hf.finish_spec rm neg m e
  obtain ⟨rfl, rfl, hle⟩ := hbetween.of_code hf h hneg
  rw [roundedTo_zero] at hspec
  obtain ⟨hover, _⟩ | ⟨_, fl, heq, _, _, hfl⟩ := hspec
  · exact absurd hle hover.not_ge
  · rw [heq, hfl rfl, ← hneg, Fmt.code_neg_mag hc]

/-- A value that a finite code has is put as that code. -/
theorem Fmt.proper.put_exact (hf : f.proper) (hc : c < 2 ^ f.width) (h : (f.num c).HasVal (ratVal neg m e))
    (hneg : f.neg c = neg) : f.put sat (.fin neg m e) = c := by
  rw [ratVal_eq_withSign] at h
  obtain ⟨lo, t, hbetween, hput, _⟩ := hf.put_spec sat neg m e
  obtain ⟨rfl, rfl, hle⟩ := hbetween.of_code hf h hneg
  rw [hput (by rwa [roundedTo_zero]), roundedTo_zero, ← hneg, Fmt.code_neg_mag hc]

/-- Without overflow the result is a code next to the value, as the mode says; NX tells whether it is inexact. -/
theorem Fmt.proper.finish_fits (hf : f.proper) (hof : (f.finish rm neg m e).flags &&& 4 = 0) :
    ∃ lo t, f.Between (m * 2 ^ e) lo t ∧ roundedTo rm neg lo t < f.signBit ∧
      (f.num (f.finish rm neg m e).code).HasVal (withSign neg (f.magVal (roundedTo rm neg lo t))) ∧
      (f.finish rm neg m e).code = f.code neg (roundedTo rm neg lo t) ∧
      ((f.finish rm neg m e).flags &&& 1 = 0 ↔ withSign neg (f.magVal (roundedTo rm neg lo t)) = ratVal neg m e) := by
  obtain ⟨lo, t, hbetween, ⟨_, heq⟩ | ⟨hle, fl, heq, _, hnx, _⟩⟩ := hf.finish_spec rm neg m e
  · rw [heq] at hof
    exact absurd hof (by decide : ¬(5 : BitVec 5) &&& 4 = 0)
  · refine ⟨lo, t, hbetween, hle.trans_lt hf.maxMag_lt_signBit, ?_⟩
    rw [heq]
    rw [ratVal_eq_withSign, withSign_inj]
    exact ⟨hf.code_hasVal hle, rfl, hnx.trans hbetween.rounded_eq_iff.symm⟩

/-- On overflow the value is larger in magnitude than every code, and the result is as the mode says. -/
theorem Fmt.proper.finish_overflow (hf : f.proper) (hof : (f.finish rm neg m e).flags &&& 4 ≠ 0) :
    f.finish rm neg m e = ⟨f.code neg (f.overflowMag rm neg), 5⟩ ∧
      ∀ d w, (f.num d).HasVal w → |w| < |ratVal neg m e| := by
  obtain ⟨lo, t, hbetween, ⟨hover, heq⟩ | ⟨_, fl, heq, hfl, _⟩⟩ := hf.finish_spec rm neg m e
  · refine ⟨heq, fun d w hd => ?_⟩
    obtain ⟨j, hj, habs, _⟩ := hf.hasVal_cases hd false
    rw [habs, ratVal_eq_withSign, abs_withSign, abs_of_nonneg hbetween.value_nonneg]
    exact hbetween.magVal_lt_of_overflow hover hj
  · rw [heq] at hof
    exact absurd hfl hof

end

end Sys2Proof.Machine
end

section
/-! PROOFS. The operations of the base forms: sums, products, quotients and roots as the rounding of exact values (05/R113, R114;
07/R140, R141). -/

namespace Sys2Proof.Machine

/-! ## The exact operand of a rounding: sums, products, quotients and roots (R119, R141) -/

section
variable {f : Fmt} {rm : Rm} {a b c : Nat} {u : Num} {x y z : ℚ} {s : Bool} {m n p : Nat} {e g : Int}

/-- A result that is the rounding of an exact value. -/
def Fmt.Rounds (f : Fmt) (rm : Rm) (o : FpOut) (x : ℚ) : Prop := ∃ neg m e, ratVal neg m e = x ∧ o = f.finish rm neg m e

theorem Fmt.rounds_result (h : u.HasVal x) : f.Rounds rm (f.result rm false u) x := by
  obtain ⟨s, m, e, rfl, rfl⟩ := h
  exact ⟨s, m, e, rfl, by simp [Fmt.result]⟩

theorem Num.HasVal.beq_nan (h : u.HasVal x) : (u == .nan) = false := beq_eq_false_iff_ne.mpr h.ne_nan

theorem Fmt.isSnan_of_hasVal (h : (f.num a).HasVal x) : f.isSnan a = false := by
  rw [Fmt.isSnan, f.isNan_of_hasVal h, Bool.false_and]

theorem Fmt.num_of_isNan (h : f.isNan a = true) : f.num a = .nan := if_pos h

/-- The sign of a finite value is that of its code. -/
theorem Fmt.num_sign (h : f.num a = .fin s m e) : s = f.neg a := by
  unfold Fmt.num at h
  split at h
  · cases h
  split at h
  · cases h
  split at h <;> cases h <;> rfl

theorem Fmt.proper.hasVal_flip (hf : f.proper) (h : (f.num a).HasVal x) : (f.num (f.flip a)).HasVal (-x) := by
  obtain ⟨hle, rfl⟩ := hf.hasVal_iff.mp h
  have hflip : -withSign (f.neg a) (f.magVal (f.mag a)) = withSign (!f.neg a) (f.magVal (f.mag a)) := by
    cases f.neg a <;> simp
  rw [hflip]
  exact hf.code_hasVal hle

theorem Fmt.isNan_flip : f.isNan (f.flip a) = f.isNan a := by
  simp only [Fmt.isNan, Fmt.flip, Fmt.mag_code Fmt.mag_lt_signBit]

theorem Fmt.fadd_rounds (ha : (f.num a).HasVal x) (hb : (f.num b).HasVal y) : f.Rounds rm (f.fadd rm a b) (x + y) := by
  have sum := ha.addMode hb (rm == .rdn)
  simp only [Fmt.fadd, Fmt.isSnan_of_hasVal ha, Fmt.isSnan_of_hasVal hb, sum.beq_nan, Bool.false_and, Bool.or_false]
  exact f.rounds_result sum

theorem Fmt.proper.fsub_rounds (hf : f.proper) (ha : (f.num a).HasVal x) (hb : (f.num b).HasVal y) :
    f.Rounds rm (f.fsub rm a b) (x - y) :=
  sub_eq_add_neg x y ▸ f.fadd_rounds ha (hf.hasVal_flip hb)

theorem Fmt.fmul_rounds (ha : (f.num a).HasVal x) (hb : (f.num b).HasVal y) : f.Rounds rm (f.fmul rm a b) (x * y) := by
  have product := ha.mul hb
  simp only [Fmt.fmul, Fmt.isSnan_of_hasVal ha, Fmt.isSnan_of_hasVal hb, product.beq_nan, Bool.false_and, Bool.or_false]
  exact f.rounds_result product

/-- A value with its sign inverted where a fused form says so. -/
theorem Num.HasVal.negateIf (h : u.HasVal x) (neg : Bool) : (if neg then u.negate else u).HasVal (withSign neg x) := by
  cases neg
  · exact h
  · exact h.negate

/-- The fused forms round ± (a × b) ± c once. -/
theorem Fmt.fma_rounds (negProd negC : Bool) (ha : (f.num a).HasVal x) (hb : (f.num b).HasVal y) (hc : (f.num c).HasVal z) :
    f.Rounds rm (f.fma rm negProd negC a b c) (withSign negProd (x * y) + withSign negC z) := by
  have product := ha.mul hb
  have sum := (product.negateIf negProd).addMode (hc.negateIf negC) (rm == .rdn)
  simp only [Fmt.fma, Fmt.isSnan_of_hasVal ha, Fmt.isSnan_of_hasVal hb, Fmt.isSnan_of_hasVal hc, product.beq_nan, sum.beq_nan,
    Bool.false_and, Bool.or_false]
  exact f.rounds_result sum

theorem Num.nan_operand {v : Num} (h : u = .nan ∨ v = .nan) (down : Bool) (p : Nat) :
    u.addMode down v = .nan ∧ u.mul v = .nan ∧ u.div p v = .nan := by
  rcases h with rfl | rfl
  · exact ⟨rfl, rfl, rfl⟩
  · cases u <;> exact ⟨rfl, rfl, rfl⟩

/-- A NaN operand gives the canonical NaN (R113). -/
theorem Fmt.nan_operand (h : f.isNan a = true ∨ f.isNan b = true) :
    (f.fadd rm a b).code = f.nan ∧ (f.fmul rm a b).code = f.nan ∧ (f.fdiv rm a b).code = f.nan := by
  obtain ⟨hadd, hmul, hdiv⟩ := Num.nan_operand (h.imp f.num_of_isNan f.num_of_isNan) (rm == .rdn) (f.mbits + 1)
  refine ⟨by rw [Fmt.fadd, hadd]; rfl, by rw [Fmt.fmul, hmul]; rfl, ?_⟩
  simp only [Fmt.fdiv, hdiv, Fmt.result]
  split
  · split <;> rfl
  · rfl

/-! ## Quotients -/

/-- A number whose last bit is sticky: half of it is the number without that bit, and the bit says that there was more. -/
def sticky (d : Nat) (whole : Prop) [Decidable whole] : Nat := 2 * d + if whole then 0 else 1

theorem sticky_even {d : Nat} {whole : Prop} [Decidable whole] (h : sticky d whole % 2 = 0) :
    whole ∧ sticky d whole = 2 * d := by
  unfold sticky at *
  split at h
  next hwhole => exact ⟨hwhole, if_pos hwhole ▸ rfl⟩
  next => omega

theorem sticky_odd {d : Nat} {whole : Prop} [Decidable whole] (h : sticky d whole % 2 = 1) :
    ¬whole ∧ sticky d whole = 2 * d + 1 := by
  unfold sticky at *
  split at h
  next => omega
  next hwhole => exact ⟨hwhole, if_neg hwhole ▸ rfl⟩

/-- A quotient of magnitudes keeps all but what lies below its last bit, which is sticky. -/
theorem quotient_spec (p : Nat) (hm : m ≠ 0) (hn : n ≠ 0) (e g : Int) :
    ∃ d r k : Nat, quotient p m n e g = (sticky d (r = 0), e - g - k - 1) ∧ 2 ^ (p + 1) ≤ d ∧ r < n ∧
      (m * 2 ^ e : ℚ) / (n * 2 ^ g) = (2 * d + 2 * (r / n)) * 2 ^ (e - g - k - 1) := by
  refine ⟨m * 2 ^ (p + 4 + n.log2) / n, m * 2 ^ (p + 4 + n.log2) % n, p + 4 + n.log2, rfl, ?_, Nat.mod_lt _ (by omega), ?_⟩
  · rw [Nat.le_div_iff_mul_le (by omega)]
    calc 2 ^ (p + 1) * n ≤ 2 ^ (p + 1) * 2 ^ (n.log2 + 1) := Nat.mul_le_mul_left _ Nat.lt_log2_self.le
      _ ≤ 2 ^ (p + 4 + n.log2) := by rw [← pow_add]; exact Nat.pow_le_pow_right two_pos (by omega)
      _ ≤ m * 2 ^ (p + 4 + n.log2) := Nat.le_mul_of_pos_left _ (by omega)
  · generalize p + 4 + n.log2 = k
    have hsplit : (m : ℚ) * 2 ^ k = n * (m * 2 ^ k / n : Nat) + (m * 2 ^ k % n : Nat) := by
      exact_mod_cast (Nat.div_add_mod (m * 2 ^ k) n).symm
    have hn' : (n : ℚ) ≠ 0 := Nat.cast_ne_zero.mpr hn
    have hparts : 2 * ((m * 2 ^ k / n : Nat) : ℚ) + 2 * ((m * 2 ^ k % n : Nat) / n) = 2 * (m * 2 ^ k / n) := by
      rw [hsplit]
      field_simp
    rw [hparts, zpow_sub_one₀ two_ne_zero, zpow_sub₀ two_ne_zero, zpow_sub₀ two_ne_zero, zpow_natCast]
    field_simp

/-- `fdiv` of finite nonzero values rounds a number that is the quotient, or on its side of every shorter one. -/
theorem Fmt.fdiv_spec (ha : (f.num a).HasVal x) (hb : (f.num b).HasVal y) (hx : x ≠ 0) (hy : y ≠ 0) :
    ∃ q h, f.fdiv rm a b = f.finish rm (f.neg a != f.neg b) q h ∧ 2 ^ (f.mbits + 2) ≤ q ∧
      (q % 2 = 0 → ratVal false q h = |x| / |y|) ∧
      (q % 2 = 1 → ratVal false (q - 1) h < |x| / |y| ∧ |x| / |y| < ratVal false (q + 1) h) := by
  have hsa := Fmt.isSnan_of_hasVal ha
  have hsb := Fmt.isSnan_of_hasVal hb
  obtain ⟨s, m, e, hna, rfl⟩ := ha
  obtain ⟨t, n, g, hnb, rfl⟩ := hb
  have hm : m ≠ 0 := mt ratVal_eq_zero.mpr hx
  have hn : n ≠ 0 := mt ratVal_eq_zero.mpr hy
  obtain ⟨d, r, k, hq, hd, hr, hval⟩ := quotient_spec (f.mbits + 1) hm hn e g
  have hmag : |ratVal s m e| / |ratVal t n g| = (2 * d + 2 * (r / n)) * 2 ^ (e - g - k - 1) := by
    rw [ratVal_eq_withSign, ratVal_eq_withSign, abs_withSign, abs_withSign, abs_of_nonneg (by positivity),
      abs_of_nonneg (by positivity), hval]
  have unit : (0 : ℚ) < 2 ^ (e - g - k - 1) := zpow_pos two_pos _
  have hn' : (0 : ℚ) < n := by positivity
  rw [hmag]
  refine ⟨sticky d (r = 0), e - g - k - 1, ?_, ?_, fun heven => ?_, fun hodd => ?_⟩
  · rw [← Fmt.num_sign hna, ← Fmt.num_sign hnb]
    simp [Fmt.fdiv, hna, hnb, Num.div, hm, hn, hq, hsa, hsb, Fmt.result]
  · rw [pow_succ]
    unfold sticky
    omega
  · obtain ⟨rfl, heq⟩ := sticky_even heven
    rw [heq, ratVal_eq_withSign]
    simp
  · obtain ⟨hinexact, heq⟩ := sticky_odd hodd
    rw [heq, ratVal_eq_withSign, ratVal_eq_withSign, withSign_false, withSign_false, mul_lt_mul_iff_left₀ unit,
      mul_lt_mul_iff_left₀ unit]
    have hpos : (0 : ℚ) < r / n := by positivity
    have hlt : (r : ℚ) / n < 1 := (div_lt_one hn').mpr (Nat.cast_lt.mpr hr)
    push_cast [Nat.add_sub_cancel]
    constructor <;> linarith

/-- A nonzero value divided by zero is an infinity, and raises DZ. -/
theorem Fmt.fdiv_zero (ha : (f.num a).HasVal x) (hb : (f.num b).HasVal 0) (hx : x ≠ 0) :
    f.fdiv rm a b = ⟨f.code (f.neg a != f.neg b) f.infMag, 8⟩ := by
  have hsa := Fmt.isSnan_of_hasVal ha
  have hsb := Fmt.isSnan_of_hasVal hb
  obtain ⟨s, m, e, hna, rfl⟩ := ha
  obtain ⟨t, n, g, hnb, hzero⟩ := hb
  have hm : m ≠ 0 := mt ratVal_eq_zero.mpr hx
  obtain rfl := ratVal_eq_zero.mp hzero.symm
  rw [← Fmt.num_sign hna, ← Fmt.num_sign hnb]
  simp [Fmt.fdiv, hna, hnb, Num.div, hm, hsa, hsb, Fmt.result, flagDZ]

/-! ## Square roots -/

theorem isqrtBits_spec (x n r : Nat) (hlow : r * r ≤ x) (hhigh : x < (r + 2 ^ n) * (r + 2 ^ n)) :
    isqrtBits x n r = Nat.sqrt x := by
  induction n generalizing r with
  | zero => exact Nat.eq_sqrt.mpr ⟨hlow, hhigh⟩
  | succ n ih =>
    rw [isqrtBits]
    split
    next h => exact ih _ h (by rw [add_assoc, ← mul_two, ← pow_succ]; exact hhigh)
    next h => exact ih _ hlow (not_le.mp h)

theorem isqrt_eq_sqrt (x : Nat) : isqrt x = Nat.sqrt x := by
  refine isqrtBits_spec x _ 0 x.zero_le ?_
  rw [zero_add, ← pow_add]
  exact Nat.lt_log2_self.trans_le (Nat.pow_le_pow_right two_pos (by omega))

/-- The root of a magnitude with an even exponent keeps all but what lies below its last bit, which is sticky. -/
theorem rootOf_even (p : Nat) (hm : m ≠ 0) (i : Int) :
    ∃ (X : Nat) (h : Int), rootOf p m (2 * i) = (sticky (Nat.sqrt X) (Nat.sqrt X * Nat.sqrt X = X), h) ∧
      2 ^ p ≤ Nat.sqrt X ∧
      (m * 2 ^ (2 * i) : ℚ) = 4 * X * (2 ^ h) ^ 2 := by
  refine ⟨m * 2 ^ (2 * (p + 4)), i - (p + 4 : Nat) - 1, ?_, ?_, ?_⟩
  · have half : 2 * i / 2 = i := Int.mul_ediv_cancel_left _ two_ne_zero
    simp only [rootOf, Int.mul_emod_right, if_true, half, isqrt_eq_sqrt]
    rfl
  · rw [Nat.le_sqrt, ← pow_add]
    exact (Nat.pow_le_pow_right two_pos (by omega)).trans (Nat.le_mul_of_pos_left _ (by omega))
  · rw [two_mul i, zpow_add₀ two_ne_zero, zpow_sub_one₀ two_ne_zero, zpow_sub₀ two_ne_zero, zpow_natCast,
      mul_comm 2 (p + 4)]
    push_cast
    rw [pow_mul]
    generalize (2 : ℚ) ^ i = u
    field_simp
    ring

/-- An odd exponent is made even first. -/
theorem rootOf_spec (p : Nat) (hm : m ≠ 0) (e : Int) :
    ∃ (X : Nat) (h : Int), rootOf p m e = (sticky (Nat.sqrt X) (Nat.sqrt X * Nat.sqrt X = X), h) ∧ 2 ^ p ≤ Nat.sqrt X ∧
      (m * 2 ^ e : ℚ) = 4 * X * (2 ^ h) ^ 2 := by
  rcases Int.even_or_odd' e with ⟨i, rfl | rfl⟩
  · exact rootOf_even p hm i
  · obtain ⟨X, h, hroot, hbits, hval⟩ := rootOf_even p (Nat.mul_ne_zero two_ne_zero hm) i
    refine ⟨X, h, ?_, hbits, ?_⟩
    · rw [← hroot]
      have odd : (2 * i + 1) % 2 ≠ 0 := by omega
      simp only [rootOf, Int.mul_emod_right, if_true, if_neg odd, add_sub_cancel_right]
    · rw [← hval, zpow_add_one₀ two_ne_zero]
      push_cast
      ring

/-- `fsqrt` of a positive value rounds a number that is the root, or on its side of every shorter one. -/
theorem Fmt.fsqrt_spec (ha : (f.num a).HasVal x) (hx : 0 < x) :
    ∃ q h, f.fsqrt rm a = f.finish rm false q h ∧ 2 ^ (f.mbits + 2) ≤ q ∧ (q % 2 = 0 → ratVal false q h ^ 2 = x) ∧
      (q % 2 = 1 → ratVal false (q - 1) h ^ 2 < x ∧ x < ratVal false (q + 1) h ^ 2) := by
  have hsa := Fmt.isSnan_of_hasVal ha
  obtain ⟨s, m, e, hna, rfl⟩ := ha
  have hm : m ≠ 0 := mt ratVal_eq_zero.mpr hx.ne'
  obtain rfl : s = false := by
    by_contra hs
    rw [Bool.not_eq_false] at hs
    have : (0 : ℚ) ≤ m * 2 ^ e := by positivity
    rw [ratVal_eq_withSign, hs, withSign_true] at hx
    linarith
  obtain ⟨X, h, hroot, hbits, hval⟩ := rootOf_spec (f.mbits + 1) hm e
  have unit : (0 : ℚ) < (2 ^ h) ^ 2 := by positivity
  have square (d : ℕ) : ratVal false d h ^ 2 = (d * d : Nat) * (2 ^ h) ^ 2 := by
    rw [ratVal_eq_withSign, withSign_false]
    push_cast
    ring
  have hvalue : ratVal false m e = (4 * X : Nat) * (2 ^ h) ^ 2 := by
    rw [ratVal_eq_withSign, withSign_false, hval]
    push_cast
    rfl
  rw [hvalue]
  refine ⟨sticky (Nat.sqrt X) (Nat.sqrt X * Nat.sqrt X = X), h, ?_, ?_, fun heven => ?_, fun hodd => ?_⟩
  · simp [Fmt.fsqrt, hna, Num.sqrt, hm, hroot, hsa, Fmt.result]
  · rw [pow_succ]
    unfold sticky
    omega
  · obtain ⟨hexact, heq⟩ := sticky_even heven
    rw [square, heq, mul_mul_mul_comm, hexact, show 2 * 2 = 4 from rfl]
  · obtain ⟨hinexact, heq⟩ := sticky_odd hodd
    have hlow := (Nat.sqrt_le X).lt_of_ne hinexact
    have hhigh := Nat.lt_succ_sqrt X
    rw [Nat.succ_eq_add_one] at hhigh
    rw [square, square, mul_lt_mul_iff_left₀ unit, mul_lt_mul_iff_left₀ unit, Nat.cast_lt, Nat.cast_lt, heq,
      Nat.add_sub_cancel]
    constructor <;> linarith

end

/-! ## The statement on rounding -/

/-- Settles O30: the magnitude is rounded to one of the two codes around it, and the operations round their exact values. -/
theorem roundingOfResults : Obligations.RoundingOfResults := by
  intro f hf val has size
  have proper : f.proper := by
    revert f
    decide
  have size_eq (v : ℚ) : size v = |v| := ite_neg_eq_abs v
  simp only [size_eq]
  refine ⟨fun rm neg m e => ⟨?codes, ?fits, ?overflow⟩, fun rm a b c x y z hx hy hz => ?arithmetic,
    fun rm a b hnan => ?nan⟩
  case codes =>
    intro c hc hv hneg
    have := proper.finish_exact (rm := rm) hc hv hneg
    exact ⟨congrArg FpOut.code this, congrArg FpOut.flags this⟩
  case fits =>
    intro hof
    obtain ⟨lo, t, hbetween, hcode, hvalue, heq, hnx⟩ := proper.finish_fits hof
    obtain ⟨hrtz, hrdn, hrup⟩ := hbetween.signed_directed (rm := rm) (neg := neg)
    have hval : val neg m e = withSign neg (m * 2 ^ e) := ratVal_eq_withSign
    rw [hval]
    refine ⟨_, hvalue, fun d w hd => hbetween.signed_not_between proper hd, hrtz, hrdn, hrup, fun hrm d w hd => ?_, ?_⟩
    · obtain ⟨hnear, htie⟩ := hbetween.signed_nearest (neg := neg) proper hrm hd
      refine ⟨hnear, fun hdist hne => ?_⟩
      simp only [heq, proper.man_code_even_iff hcode]
      exact htie hdist hne
    · exact hnx.trans (by rw [ratVal_eq_withSign])
  case overflow =>
    intro hof
    obtain ⟨heq, hlarger⟩ := proper.finish_overflow hof
    rw [heq]
    exact ⟨rfl, hlarger, rfl⟩
  case arithmetic =>
    refine ⟨f.fadd_rounds hx hy, proper.fsub_rounds hx hy, f.fmul_rounds hx hy, f.fma_rounds false false hx hy hz, ?_,
      f.fma_rounds true false hx hy hz, ?_, f.fdiv_spec hx hy, f.fsqrt_spec hx, fun hx0 hy0 => ?_⟩
    · exact sub_eq_add_neg (x * y) z ▸ f.fma_rounds false true hx hy hz
    · exact sub_eq_add_neg (-(x * y)) z ▸ f.fma_rounds true true hx hy hz
    · exact f.fdiv_zero hx (hy0 ▸ hy) hx0
  case nan =>
    obtain ⟨hadd, hmul, hdiv⟩ := f.nan_operand (rm := rm) hnan
    obtain ⟨hsub, _⟩ := f.nan_operand (rm := rm) (a := a) (b := f.flip b) (by rwa [Fmt.isNan_flip])
    exact ⟨hadd, hsub, hmul, hdiv⟩

end Sys2Proof.Machine
end

section
/-! PROOFS. The vector forms that compare, select, convert, reduce and take immediates, and the conversions of elements
(05/R115, R116, R124; 13/R270 to R273, R275). -/

namespace Sys2Proof.Machine

/-! ## Lanes (R78, R266) -/

/-- Lane `l` of a 512-bit value, `b` bits each. -/
def vecLane (b : Nat) (v : BitVec 512) (l : Nat) : Nat := v.toNat / 2 ^ (b * l) % 2 ^ b

/-- Lane `l` of the second operand: a scalar is the same in every lane. -/
def VIn.secondLane (i : VIn) (b l : Nat) : Nat := if i.scalar then i.x.toNat % 2 ^ b else vecLane b i.b l

section
variable {b l : Nat} {v : BitVec 512} {i : VIn}

theorem lanesOf_eq_map : lanesOf b v = (List.range (512 / b)).map (vecLane b v) := rfl

theorem VIn.bLanes_eq_map : i.bLanes b = (List.range (512 / b)).map (i.secondLane b) := by
  unfold VIn.bLanes VIn.secondLane
  split
  · simp [List.map_const']
  · rfl

theorem range_zip_map {α : Type} (n : Nat) (g : Nat → α) :
    (List.range n).zip ((List.range n).map g) = (List.range n).map fun l => (l, g l) := by
  simpa using List.zip_map' (f := id) (g := g) (l := List.range n)

/-- The bits of packed one-bit lanes. -/
theorem packLanes_testBit (bs : List Bool) (l : Nat) : (packLanes 1 (bs.map Bool.toNat)).testBit l = bs.getD l false := by
  induction bs generalizing l with
  | nil => simp [packLanes]
  | cons b bs ih =>
    have hbit : packLanes 1 ((b :: bs).map Bool.toNat) = Nat.bit b (packLanes 1 (bs.map Bool.toNat)) := by
      rw [Nat.bit_val, add_comm]
      rfl
    rw [hbit]
    cases l with
    | zero => exact Nat.testBit_bit_zero _ _
    | succ l => exact (Nat.testBit_bit_succ l b _).trans (ih l)

/-- A mask register written is read back. -/
theorem mask_written (k : Vector (BitVec 64) 4) (kd : BitVec 2) (m : BitVec 64) :
    (k.setIfInBounds kd.toNat m).toList.getD kd.toNat 0 = m := by
  have place : kd.toNat < 4 := kd.isLt
  simp [place]

/-- A mask register made of `n` lanes: a bit is set where the lane is there and its test holds. -/
theorem getLsbD_packLanes (n : Nat) (test : Nat → Bool) (hl : l < 64) :
    (BitVec.ofNat 64 (packLanes 1 ((List.range n).map fun l => if test l then 1 else 0))).getLsbD l =
      (decide (l < n) && test l) := by
  have bits : (List.range n).map (fun l => if test l then 1 else 0) = ((List.range n).map test).map Bool.toNat := by
    rw [List.map_map]
    refine List.map_congr_left fun l _ => ?_
    cases h : test l <;> simp [h]
  rw [BitVec.getLsbD_ofNat, decide_eq_true hl, Bool.true_and, bits, packLanes_testBit, List.getD_eq_getElem?_getD]
  rcases lt_or_ge l n with h | h
  · simp [h]
  · simp [h.not_gt]

end

/-! ## The shared forms where their operands are read (R270 to R273, R275) -/

section
variable {s s1 : State} {i : VIn} {w : BitVec 32} {ty sty : BitVec 3} {src2 : BitVec 5} {va vd : BitVec 4} {sx : BitVec 1}
  {mask kd : BitVec 2} {imm : BitVec 16}

/-- A comparison writes its mask alone: the lanes whose relation holds and that the mask lets through (R271). -/
theorem vecCompare_spec {kind : Nat} (h : s.vecRead s.cur w { va := some va, b := vsrc src2 sx } = .val (i, s1)) :
    ∃ t, settleNext s (vecCompare w kind ty src2 va sx mask kd s) = .next t ∧
      (t.ctx s.cur).pc = (s1.ctx s.cur).pc + 4 ∧ (t.ctx s.cur).v = (s1.ctx s.cur).v ∧
      ∀ l, l < 64 → ((t.ctx s.cur).k.toList.getD kd.toNat 0).getLsbD l =
        (decide (l < 512 / (tyOf ty).bits) && (s.ctx s.cur).maskOn mask l &&
          elemCompare kind (tyOf ty) (vecLane (tyOf ty).bits i.a l) (i.secondLane (tyOf ty).bits l)) := by
  simp only [vecCompare, h, Tri.bind_val, settleNext_val, lanesOf_eq_map, VIn.bLanes_eq_map, List.zip_map', range_zip_map,
    List.map_map, Function.comp_def]
  refine ⟨_, rfl, ?_⟩
  rw [State.advance_ctx, State.mod_ctx]
  refine ⟨rfl, rfl, fun l hl => ?_⟩
  refine (congrArg (BitVec.getLsbD · l) (mask_written _ kd _)).trans ?_
  rw [getLsbD_packLanes _ _ hl, Bool.and_assoc]

/-- A reduction writes the result of its tree to lane 0 and zero to the others (R273). -/
theorem vecReduce_val {op : Ty → Nat → Nat → Nat} {ident : Ty → Nat}
    (h : s.vecRead s.cur w { va := some va, vd := some vd } = .val (i, s1)) :
    vecReduce w ty va mask vd op ident s = .val (s1.vecWrite s.cur vd (tyOf ty).bits
      (some ((redTree (op (tyOf ty)) 6 ((List.range (512 / (tyOf ty).bits)).map fun l =>
          if (s.ctx s.cur).maskOn mask l then vecLane (tyOf ty).bits i.a l else ident (tyOf ty))).headD 0) ::
        List.replicate (512 / (tyOf ty).bits - 1) (some 0))) := by
  simp only [vecReduce, h, Tri.bind_val, lanesOf_eq_map, range_zip_map, List.map_map, Function.comp_def]

/-- A selection writes every lane (R272). -/
theorem vecSelect_val (h : s.vecRead s.cur w { va := some va, b := vsrc src2 sx, vd := some vd } = .val (i, s1)) :
    vecSelect w ty src2 va sx mask vd s = .val (s1.vecWrite s.cur vd (tyOf ty).bits ((List.range (512 / (tyOf ty).bits)).map
      fun l => some (if ((s.ctx s.cur).k.toList.getD mask.toNat 0).getLsbD l then i.secondLane (tyOf ty).bits l
        else vecLane (tyOf ty).bits i.a l))) := by
  simp only [vecSelect, h, Tri.bind_val, lanesOf_eq_map, VIn.bLanes_eq_map, List.zip_map', range_zip_map, List.map_map,
    Function.comp_def]

/-- A conversion writes the lanes that the mask lets through and that the source has (R270). -/
theorem vecConvert_val {sat : Bool} (h : s.vecRead s.cur w { va := some va, vd := some vd } = .val (i, s1)) :
    vecConvert w ty sty va mask vd sat s = .val (s1.vecWrite s.cur vd (tyOf ty).bits
      ((List.range (512 / (tyOf ty).bits)).map fun l => if (s.ctx s.cur).maskOn mask l then
        ((lanesOf (tyOf sty).bits i.a)[l]?).map (convertElem (tyOf sty) (tyOf ty) sat) else none)) := by
  simp only [vecConvert, h, Tri.bind_val]

/-- A form with an immediate combines every lane with it (R275). -/
theorem vecImm_val {readVd : Bool} {op : Ty → Nat → Nat → Nat}
    (h : s.vecRead s.cur w { vd := some vd, readVd := readVd } = .val (i, s1)) :
    vecImm w imm ty vd readVd op s = .val (s1.vecWrite s.cur vd (tyOf ty).bits ((List.range (512 / (tyOf ty).bits)).map
      fun l => some (op (tyOf ty) (vecLane (tyOf ty).bits i.c l) (immLane ty imm l)))) := by
  simp only [vecImm, h, Tri.bind_val, lanesOf_eq_map, range_zip_map, List.map_map, Function.comp_def]

end

/-! ## The tree of a reduction (R124) -/

/-- One step of the tree: lane `l` paired with lane `l + h`. -/
def pairHalves (f : Nat → Nat → Nat) (l : List Nat) : List Nat :=
  ((l.take (l.length / 2)).zip (l.drop (l.length / 2))).map fun (x, y) => f x y

section
variable {f : Nat → Nat → Nat} {l : List Nat} {n j : Nat}

theorem length_pairHalves : (pairHalves f l).length = l.length / 2 := by
  simp [pairHalves]
  omega

theorem getD_pairHalves (hj : j < l.length / 2) :
    (pairHalves f l).getD j 0 = f (l.getD j 0) (l.getD (j + l.length / 2) 0) := by
  have low : j < l.length := by omega
  have high : j + l.length / 2 < l.length := by omega
  have place : j < (pairHalves f l).length := by rwa [length_pairHalves]
  rw [List.getD_eq_getElem _ _ place, List.getD_eq_getElem _ _ low, List.getD_eq_getElem _ _ high]
  simp [pairHalves, add_comm]

theorem redTree_succ_of_two (h : 2 ≤ l.length) : redTree f (n + 1) l = redTree f n (pairHalves f l) :=
  if_neg (by omega)

theorem redTree_short (h : l.length < 2) : redTree f n l = l := by
  cases n with
  | zero => rfl
  | succ n => exact if_pos (by omega)

/-- More steps than the lanes need change nothing. -/
theorem redTree_enough (h : l.length ≤ 2 ^ n) : redTree f (n + 1) l = redTree f n l := by
  induction n generalizing l with
  | zero =>
    have short : l.length < 2 := by omega
    rw [redTree_short short, redTree_short short]
  | succ n ih =>
    rcases lt_or_ge l.length 2 with short | long
    · rw [redTree_short short, redTree_short short]
    · rw [redTree_succ_of_two long, redTree_succ_of_two long, ih]
      rw [length_pairHalves]
      rw [pow_succ] at h
      omega

end

/-! ## Rounding to integers (R115) -/

section
variable {rm : Rm} {neg : Bool} {s m n : Nat} {t x : ℚ} {e v : Int} {c : Nat} {f h : Fmt} {sat : Bool}

/-- Rounding to nearest is within half a unit, and a tie goes to an even number. -/
theorem roundedTo_rne_near (h0 : 0 ≤ t) (h1 : t < 1) : 2 * |(roundedTo .rne neg s t : ℚ) - (s + t)| ≤ 1 ∧
    (2 * |(roundedTo .rne neg s t : ℚ) - (s + t)| = 1 → roundedTo .rne neg s t % 2 = 0) := by
  rcases roundedTo_cases (rm := .rne) (neg := neg) (s := s) (t := t) with ⟨ha, hk⟩ | ⟨ha, hk⟩ <;> rw [hk]
  · rcases of_decide_eq_true ha with hlt | ⟨rfl, hodd⟩
    · rw [abs_of_nonneg (by push_cast; linarith)]
      push_cast
      exact ⟨by linarith, fun h => by linarith⟩
    · refine ⟨?_, fun _ => by omega⟩
      push_cast
      norm_num
  · obtain ⟨hle, heven⟩ := not_or.mp (of_decide_eq_false ha)
    rw [sub_add_cancel_left, abs_neg, abs_of_nonneg h0]
    refine ⟨by linarith, fun htie => ?_⟩
    have := mt (And.intro (by linarith : t = 1 / 2)) heven
    omega

/-- A value rounded to an integer is rounded in its magnitude. -/
theorem roundInt_spec (rm : Rm) (neg : Bool) (m : Nat) (e : Int) : ∃ (s : Nat) (t : ℚ), 0 ≤ t ∧ t < 1 ∧
    ratVal neg m e = withSign neg (s + t) ∧
    (roundInt rm neg m e).1 = if neg then -(roundedTo rm neg s t : Int) else roundedTo rm neg s t := by
  obtain ⟨s, t, h0, h1, hval, hround⟩ := roundAt_spec rm neg m e 0
  rw [zpow_zero, mul_one] at hval
  exact ⟨s, t, h0, h1, by rw [ratVal_eq_withSign, hval], by rw [roundInt, hround]⟩

/-- The nearest integer, ties to even. -/
theorem roundInt_rne_near (neg : Bool) (m : Nat) (e : Int) : 2 * |((roundInt .rne neg m e).1 : ℚ) - ratVal neg m e| ≤ 1 ∧
    (2 * |((roundInt .rne neg m e).1 : ℚ) - ratVal neg m e| = 1 → (roundInt .rne neg m e).1 % 2 = 0) := by
  obtain ⟨s, t, h0, h1, hval, hround⟩ := roundInt_spec .rne neg m e
  obtain ⟨hnear, heven⟩ := roundedTo_rne_near (neg := neg) (s := s) h0 h1
  have hcast : ((roundInt .rne neg m e).1 : ℚ) = withSign neg (roundedTo .rne neg s t) := by
    rw [hround]
    cases neg <;> simp
  rw [hcast, hval, withSign_sub, abs_withSign]
  refine ⟨hnear, fun htie => ?_⟩
  have := heven htie
  rw [hround]
  split <;> omega

theorem clampTo_eq (n : Nat) (v : Int) : clampTo n v = max (-(2 ^ (n - 1))) (min (2 ^ (n - 1) - 1) v) := by
  have hpos : (0 : Int) < 2 ^ (n - 1) := by positivity
  unfold clampTo clampInt
  push_cast
  generalize (2 : Int) ^ (n - 1) = b at hpos
  split
  · omega
  · split <;> omega

/-! ## Conversions of elements (R114 to R116) -/

theorem convertElem_float (hne : h ≠ f) (hc : f.isNan c = false) :
    convertElem (.f f) (.f h) sat c = h.put sat (f.num c) := by
  unfold convertElem
  rw [if_neg fun heq => hne (Ty.f.inj heq).symm]
  exact if_neg (by rw [hc]; exact Bool.false_ne_true)

theorem convertElem_nan (hne : h ≠ f) (hc : f.isNan c = true) : convertElem (.f f) (.f h) sat c = nanConvert f h c := by
  unfold convertElem
  rw [if_neg fun heq => hne (Ty.f.inj heq).symm]
  exact if_pos hc

theorem convertElem_int : convertElem (.f f) (.i n) sat c = sCode n (numToInt n (f.num c)) := rfl

theorem Fmt.isNan_of_num_ne (hc : f.num c ≠ .nan) : f.isNan c = false := by
  by_contra hnan
  exact hc (Fmt.num_of_isNan (by simpa using hnan))

theorem Fmt.isNan_of_num (hc : f.num c = .nan) : f.isNan c = true := by
  by_contra hnan
  unfold Fmt.num at hc
  rw [if_neg hnan] at hc
  split at hc
  · cases hc
  · split at hc <;> cases hc

/-- The sign and the magnitude of an infinity. -/
theorem Fmt.num_inf (hc : f.num c = .inf neg) : neg = f.neg c ∧ f.mag c = f.infMag := by
  unfold Fmt.num at hc
  split at hc
  · cases hc
  split at hc
  next hinf =>
    cases hc
    exact ⟨rfl, by simpa [Fmt.isInf] using (Bool.and_eq_true_iff.mp hinf).2⟩
  next => split at hc <;> cases hc

/-- A float as an integer of `n` bits: the nearest integer, ties to even, in the range. -/
theorem convertElem_int_spec (hx : (f.num c).HasVal x) : ∃ r : Int,
    2 * |(r : ℚ) - x| ≤ 1 ∧ (2 * |(r : ℚ) - x| = 1 → r % 2 = 0) ∧
    convertElem (.f f) (.i n) sat c = (max (-(2 ^ (n - 1))) (min (2 ^ (n - 1) - 1) r) % 2 ^ n).toNat := by
  obtain ⟨s, m, e, heq, rfl⟩ := hx
  obtain ⟨hnear, heven⟩ := roundInt_rne_near s m e
  refine ⟨(roundInt .rne s m e).1, hnear, heven, ?_⟩
  rw [convertElem_int, heq, numToInt, clampTo_eq, sCode]
  push_cast
  rfl

/-! ## Relations (R271) -/

theorem elemCompare_float {a b : Nat} {y : ℚ} (ha : (f.num a).HasVal x) (hb : (f.num b).HasVal y) :
    elemCompare 0 (.f f) a b = decide (x = y) ∧ elemCompare 1 (.f f) a b = decide (x < y) ∧
      elemCompare 2 (.f f) a b = decide (x ≤ y) := by
  refine ⟨ha.eq hb, ha.lt hb, ?_⟩
  rw [show elemCompare 2 (.f f) a b = ((f.num a).lt (f.num b) || (f.num a).eq (f.num b)) from rfl, ha.lt hb, ha.eq hb,
    ← Bool.decide_or]
  exact decide_eq_decide.mpr le_iff_lt_or_eq.symm

/-- No relation holds of a NaN. -/
theorem elemCompare_nan {a b : Nat} (k : Nat) (hnan : f.isNan a = true ∨ f.isNan b = true) :
    elemCompare k (.f f) a b = false := by
  have hlt : (f.num a).lt (f.num b) = false := by
    rcases hnan with h | h
    · rw [Fmt.num_of_isNan h]
      rfl
    · rw [Fmt.num_of_isNan h]
      cases f.num a <;> rfl
  have heq : (f.num a).eq (f.num b) = false := by
    rcases hnan with h | h <;> simp [Num.eq, Fmt.num_of_isNan h]
  unfold elemCompare
  simp only [hlt, heq]
  split <;> rfl

theorem sInt_inj {a b : Nat} (ha : a < 2 ^ n) (hb : b < 2 ^ n) : sInt n a = sInt n b ↔ a = b := by
  unfold sInt
  have := Int.natCast_pow 2 n
  generalize (2 : Int) ^ n = w at *
  generalize 2 ^ n = u at *
  split <;> split <;> omega

theorem elemCompare_integer {a b : Nat} (ha : a < 2 ^ n) (hb : b < 2 ^ n) :
    elemCompare 0 (.i n) a b = decide (sInt n a = sInt n b) ∧ elemCompare 1 (.i n) a b = decide (sInt n a < sInt n b) ∧
      elemCompare 2 (.i n) a b = decide (sInt n a ≤ sInt n b) := by
  have heq : (a == b) = decide (sInt n a = sInt n b) := by
    rw [Bool.eq_iff_iff, beq_iff_eq, decide_eq_true_eq, sInt_inj ha hb]
  refine ⟨heq, rfl, ?_⟩
  rw [show elemCompare 2 (.i n) a b = (decide (sInt n a < sInt n b) || a == b) from rfl, heq, ← Bool.decide_or]
  exact decide_eq_decide.mpr le_iff_lt_or_eq.symm

/-! ## Overflow to nearest, and E4M3 (R115) -/

/-- Rounding to nearest passes a code where the value passes the middle, or is the middle above an odd code. -/
theorem Fmt.Between.rne_above_iff {lo top : Nat} {v : ℚ} (hv : f.Between v lo t) : top < roundedTo .rne neg lo t ↔
    f.magVal top + f.magVal (top + 1) < 2 * v ∨ 2 * v = f.magVal top + f.magVal (top + 1) ∧ top % 2 = 1 := by
  have gap := f.gap_pos (lo := top)
  have low := hv.low_le
  have high := hv.lt_high
  have mono := f.magVal_strictMono.monotone
  have choice := roundedTo_cases (rm := .rne) (neg := neg) (s := lo) (t := t)
  rcases lt_trichotomy lo top with hlt | rfl | hgt
  · have := mono (show lo + 1 ≤ top by omega)
    constructor
    · omega
    · rintro (h | ⟨h, _⟩) <;> linarith
  · have hval := hv.value
    have half : t = 1 / 2 ↔ 2 * v = f.magVal lo + f.magVal (lo + 1) := by
      rw [hval]
      constructor
      · rintro rfl
        ring
      · intro h
        exact mul_right_cancel₀ gap.ne' (by linarith)
    have above : 1 / 2 < t ↔ f.magVal lo + f.magVal (lo + 1) < 2 * v := by
      rw [hval, ← mul_lt_mul_iff_left₀ gap]
      constructor <;> intro h <;> linarith
    rw [← half, ← above]
    rcases choice with ⟨ha, hk⟩ | ⟨ha, hk⟩ <;> rw [hk]
    · exact iff_of_true lo.lt_succ_self (of_decide_eq_true ha)
    · exact iff_of_false lo.lt_irrefl (of_decide_eq_false ha)
  · have := mono (show top + 1 ≤ lo by omega)
    exact iff_of_true (by omega) (.inl (by linarith))

/-- E4M3 overflows beyond 464, the middle of 448 and the next step. -/
theorem e4m3_overflow_iff {lo : Nat} {v : ℚ} (hv : fmtE4m3.Between v lo t) :
    fmtE4m3.maxMag < roundedTo .rne neg lo t ↔ 464 < v := by
  have largest : fmtE4m3.magVal fmtE4m3.maxMag = 448 := by norm_num [Fmt.magVal, Fmt.maxMag, Fmt.signBit, fmtE4m3]
  have next : fmtE4m3.magVal (fmtE4m3.maxMag + 1) = 480 := by norm_num [Fmt.magVal, Fmt.maxMag, Fmt.signBit, fmtE4m3]
  have even : fmtE4m3.maxMag % 2 = 0 := by decide
  rw [hv.rne_above_iff, largest, next, even]
  constructor
  · rintro (h | ⟨_, h⟩)
    · linarith
    · cases h
  · exact fun h => .inl (by linarith)

/-! ## BF16 immediates as binary32 (R116) -/

/-- A BF16 code is the upper half of a binary32 code of the same value. -/
theorem fp32_magVal_shift (k : Nat) : fmtF32.magVal (k * 2 ^ 16) = fmtBf16.magVal k := by
  obtain ⟨E, s, rfl, hs, hE⟩ := fmtBf16.exists_significand k
  have wide : (E * 2 ^ fmtBf16.mbits + s) * 2 ^ 16 = E * 2 ^ fmtF32.mbits + s * 2 ^ 16 := by
    simp only [fmtBf16, fmtF32]
    ring
  have exponent : (E : Int) + 1 - fmtBf16.bias - fmtBf16.mbits = (E + 1 - fmtF32.bias - fmtF32.mbits) + (16 : Nat) := by
    simp only [fmtBf16, fmtF32]
    push_cast
    ring
  simp only [fmtBf16] at hs hE
  rw [wide, fmtF32.magVal_significand (by simp only [fmtF32]; omega) (hE.imp_right fun h => by simp only [fmtF32]; omega),
    fmtBf16.magVal_significand hs.le hE, exponent, zpow_add₀ two_ne_zero, zpow_natCast]
  push_cast
  ring

/-- Widening a BF16 code to binary32 appends 16 zero bits. -/
theorem convertElem_bf16_f32 (hc : c < 2 ^ 16) (hnan : fmtBf16.isNan c = false) :
    convertElem (.f fmtBf16) (.f fmtF32) sat c = c * 2 ^ 16 := by
  have narrow : fmtBf16.proper := by decide
  have proper : fmtF32.proper := by decide
  have wide (s : Bool) (k : Nat) : fmtF32.code s (k * 2 ^ 16) = fmtBf16.code s k * 2 ^ 16 := by
    cases s
    · simp [Fmt.code]
    · simp [Fmt.code, Fmt.signBit, fmtF32, fmtBf16]
      ring
  have hcode : c * 2 ^ 16 = fmtF32.code (fmtBf16.neg c) (fmtBf16.mag c * 2 ^ 16) := by
    rw [wide, Fmt.code_neg_mag hc]
  rw [convertElem_float (by decide) hnan]
  rcases hnum : fmtBf16.num c with _ | s | ⟨s, m, e⟩
  · exact absurd (Fmt.isNan_of_num hnum) (by simp [hnan])
  · obtain ⟨rfl, hmag⟩ := Fmt.num_inf hnum
    rw [hcode, hmag]
    rfl
  · have hvalue : (fmtBf16.num c).HasVal (ratVal s m e) := ⟨s, m, e, hnum, rfl⟩
    obtain ⟨hle, hval⟩ := narrow.hasVal_iff.mp hvalue
    have fits : fmtBf16.mag c * 2 ^ 16 ≤ fmtF32.maxMag := (Nat.mul_le_mul_right _ hle).trans (by decide)
    have same : (fmtF32.num (c * 2 ^ 16)).HasVal (ratVal s m e) := by
      rw [hcode, hval, ← fp32_magVal_shift]
      exact proper.code_hasVal fits
    have sign : fmtF32.neg (c * 2 ^ 16) = s := by
      rw [hcode, Fmt.neg_code (fits.trans_lt proper.maxMag_lt_signBit), Fmt.num_sign hnum]
    exact proper.put_exact (by simp only [Fmt.width, fmtF32]; omega) same sign

end

/-! ## The statement on comparisons, reductions, conversions and immediates -/

section
variable {f h : Fmt} {neg sat : Bool} {m c n l : Nat} {e : Int} {imm : BitVec 16}

/-- A float converted to another float type is rounded once; an infinity and a NaN keep their kind (R115, R116). -/
theorem convertElem_float_cases (hne : h ≠ f) :
    (∀ neg m e, f.num c = .fin neg m e → convertElem (.f f) (.f h) sat c = h.put sat (.fin neg m e)) ∧
      (∀ neg, f.num c = .inf neg → h.special = .ieee → convertElem (.f f) (.f h) sat c = h.code neg h.infMag) ∧
      (f.num c = .nan → h = fmtE4m3 → convertElem (.f f) (.f h) sat c = if f.neg c then 0xFF else 0x7F) := by
  refine ⟨fun neg m e hc => ?_, fun neg hc hspecial => ?_, fun hc hh => ?_⟩
  · rw [convertElem_float hne (Fmt.isNan_of_num_ne (by simp [hc])), hc]
  · rw [convertElem_float hne (Fmt.isNan_of_num_ne (by simp [hc])), hc, Fmt.put, hspecial]
  · subst hh
    rw [convertElem_nan hne (Fmt.isNan_of_num hc)]
    cases hs : f.neg c <;> simp [nanConvert, hs, fmtE4m3, Fmt.code, Fmt.signBit]

/-- Of the element types E4M3 alone has no infinities (R102). -/
theorem special_eq_ieee : ∀ h ∈ [fmtF32, fmtBf16, fmtF16, fmtF64, fmtE4m3, fmtE5m2], h ≠ fmtE4m3 → h.special = .ieee := by
  decide

/-- Beyond 464 a value overflows E4M3, to NaN or to 448. -/
theorem put_e4m3_overflow (hv : 464 < |ratVal neg m e|) : fmtE4m3.put sat (.fin neg m e) =
    if sat then (if neg then 0xFE else 0x7E) else if neg then 0xFF else 0x7F := by
  have proper : fmtE4m3.proper := by decide
  obtain ⟨lo, t, hbetween, _, hover⟩ := proper.put_spec sat neg m e
  rw [ratVal_eq_withSign, abs_withSign, abs_of_nonneg hbetween.value_nonneg] at hv
  rw [hover ((e4m3_overflow_iff hbetween).mpr hv)]
  cases sat <;> cases neg <;> rfl

/-- Up to 464 a value is put as a finite E4M3 code, and none is nearer. -/
theorem put_e4m3_nearest (hv : |ratVal neg m e| ≤ 464) :
    ∃ x, (fmtE4m3.num (fmtE4m3.put sat (.fin neg m e))).HasVal x ∧
      ∀ d w, (fmtE4m3.num d).HasVal w → |x - ratVal neg m e| ≤ |w - ratVal neg m e| := by
  have proper : fmtE4m3.proper := by decide
  obtain ⟨lo, t, hbetween, hfits, _⟩ := proper.put_spec sat neg m e
  rw [ratVal_eq_withSign, abs_withSign, abs_of_nonneg hbetween.value_nonneg] at hv
  have hle := not_lt.mp (mt (e4m3_overflow_iff (neg := neg) hbetween).mp hv.not_gt)
  rw [hfits hle, ratVal_eq_withSign]
  exact ⟨_, proper.code_hasVal hle, fun d w hd => (hbetween.signed_nearest proper (.inl rfl) hd).1⟩

/-- An INT32 narrowed to INT8, and an INT8 widened. -/
theorem convertElem_int32_int8 : convertElem (.i 32) (.i 8) sat c =
    if sat then (max (-128) (min 127 (sInt 32 c)) % 256).toNat else c % 256 := by
  cases sat
  · rfl
  · exact congrArg (sCode 8) (clampTo_eq 8 _)

theorem convertElem_int8_int32 (hc : c < 2 ^ 8) :
    convertElem (.i 8) (.i 32) sat c = if 128 ≤ c then c + (2 ^ 32 - 2 ^ 8) else c := by
  rw [show convertElem (.i 8) (.i 32) sat c = sCode 32 (sInt 8 c) from rfl]
  unfold sCode sInt
  split
  · split <;> omega
  · split <;> omega

/-- The identities of the reductions over integers are 0 and the ends of the range (R124). -/
theorem sInt_ident (hn : n ∈ [8, 32]) : identSum (.i n) = 0 ∧ sInt n (identMax (.i n)) = -(2 ^ (n - 1)) ∧
    sInt n (identMin (.i n)) = 2 ^ (n - 1) - 1 := by
  revert n
  decide

end

/-- Settles O37: each form by what its shared operation writes, the functions of lanes by the rounding of exact values. -/
theorem vectorMaskReductionAndImmediateResults : Obligations.VectorMaskReductionAndImmediateResults := by
  intro s ty sty src2 va vd sx mask kd sf imm p g b snd lane second on tree
  refine ⟨fun i s1 h => ?cmpEq, fun i s1 h => ?cmpLt, fun i s1 h => ?cmpLe, fun i s1 h => ?redSum, fun i s1 h => ?redMax,
    fun i s1 h => ?redMin, fun i s1 h => ?splat, fun i s1 h => ?addi, fun i s1 h => ?muli, fun i s1 h => ?maxi,
    fun i s1 h => ?sel, fun i s1 h => ?cvt, fun f l hl => ?step, fun f x => ?single, fun f hf => ?floats,
    fun sat neg m e => ?e4m3, fun n hn a c ha hc => ?integers, by decide, fun sat c hc => ?narrow, fun l => ?immediates⟩
  case cmpEq =>
    rw [exec_vcmpEq]
    exact vecCompare_spec h
  case cmpLt =>
    rw [exec_vcmpLt]
    exact vecCompare_spec h
  case cmpLe =>
    rw [exec_vcmpLe]
    exact vecCompare_spec h
  case redSum => exact (exec_vredSum s ty va mask vd sf).trans (congrArg (settleNext s) (vecReduce_val h))
  case redMax => exact (exec_vredMax s ty va mask vd).trans (congrArg (settleNext s) (vecReduce_val h))
  case redMin => exact (exec_vredMin s ty va mask vd).trans (congrArg (settleNext s) (vecReduce_val h))
  case splat => exact (exec_vsplat s imm ty vd).trans (congrArg (settleNext s) (vecImm_val h))
  case addi => exact (exec_vaddi s imm ty vd).trans (congrArg (settleNext s) (vecImm_val h))
  case muli => exact (exec_vmuli s imm ty vd).trans (congrArg (settleNext s) (vecImm_val h))
  case maxi => exact (exec_vmaxi s imm ty vd).trans (congrArg (settleNext s) (vecImm_val h))
  case sel => exact (exec_vsel s ty src2 va sx mask vd).trans (congrArg (settleNext s) (vecSelect_val h))
  case cvt => exact (exec_vcvt s ty sty va mask vd sf).trans (congrArg (settleNext s) (vecConvert_val h))
  case step =>
    have bounds : 2 ≤ l.length ∧ l.length ≤ 2 ^ 6 := by
      simp only [List.mem_cons, List.not_mem_nil, or_false] at hl
      omega
    refine ⟨pairHalves f l, length_pairHalves, fun j hj => getD_pairHalves (length_pairHalves (f := f) ▸ hj), ?_⟩
    have enough : (pairHalves f l).length ≤ 2 ^ 5 := by
      rw [length_pairHalves]
      omega
    exact congrArg (List.headD · 0) ((redTree_succ_of_two bounds.1).trans (redTree_enough enough).symm)
  case single => exact congrArg (List.headD · 0) (redTree_short (l := [x]) Nat.one_lt_two)
  case floats =>
    intro val has size
    have size_eq (v : ℚ) : size v = |v| := ite_neg_eq_abs v
    simp only [size_eq]
    refine ⟨fun h hh hne sat c => ?_, fun n _ sat c v hv => convertElem_int_spec hv, fun n _ sat c => ⟨fun hc => ?_, rfl⟩,
      fun a c x y ha hc => elemCompare_float ha hc, fun a c k hnan => elemCompare_nan k hnan, ?_⟩
    · obtain ⟨hfin, hinf, hnan⟩ := convertElem_float_cases (c := c) (sat := sat) hne
      exact ⟨hfin, fun neg hc he4m3 => hinf neg hc (special_eq_ieee h hh he4m3), hnan⟩
    · simp [convertElem_int, hc, numToInt, sCode]
    · exact congrArg (2 ^ ·) (by rw [Fmt.width, add_assoc, Nat.add_sub_cancel_left])
  case e4m3 =>
    intro val size c
    have size_eq (v : ℚ) : size v = |v| := ite_neg_eq_abs v
    simp only [size_eq]
    refine ⟨put_e4m3_overflow, fun hv => ?_⟩
    obtain ⟨x, ⟨s, n, g, hnum, rfl⟩, hnear⟩ := put_e4m3_nearest (sat := sat) hv
    exact ⟨s, n, g, hnum, fun d s' n' g' hd => hnear d _ ⟨s', n', g', hd, rfl⟩⟩
  case integers =>
    obtain ⟨heq, hlt, hle⟩ := elemCompare_integer ha hc
    exact ⟨heq, hlt, hle, sInt_ident hn⟩
  case narrow => exact ⟨convertElem_int32_int8, convertElem_int8_int32⟩
  case immediates =>
    refine ⟨convertElem_bf16_f32 imm.isLt, rfl, rfl, rfl, fun u hu => ?_⟩
    simp only [List.mem_cons, List.not_mem_nil, or_false] at hu
    rcases hu with rfl | rfl | rfl <;> rfl

end Sys2Proof.Machine
end

section
/-! PROOFS. The integer forms, with their multiplications and divisions, and the branches and jumps (03/R58; 07/R134 to R136). -/

namespace Sys2Proof.Machine

/-! ## Operations on words -/

section
variable (a b : BitVec 64)

/-- The shift amounts are the low six and the low five bits of the operand. -/
theorem shift64_eq : shift64 b = b.toNat % 64 := by simp [shift64]

theorem shift32_eq : shift32 b = b.toNat % 32 := by simp [shift32]

theorem setIf_slt : setIf (a.slt b) = if a.toInt < b.toInt then 1 else 0 := by simp [setIf, BitVec.slt]

theorem setIf_ult : setIf (a.ult b) = if a.toNat < b.toNat then 1 else 0 := by simp [setIf, BitVec.ult]

/-- A relation that is the negation of a signed or unsigned order. -/
theorem not_slt_iff : (!a.slt b) = true ↔ b.toInt ≤ a.toInt := by simp [BitVec.slt]

theorem not_ult_iff : (!a.ult b) = true ↔ b.toNat ≤ a.toNat := by simp [BitVec.ult]

end

/-- A quotient of all ones is −1. -/
theorem allOnes_eq_neg_one (w : Nat) : BitVec.allOnes w = -1 := BitVec.neg_one_eq_allOnes.symm

/-! ## The integer forms -/

section
variable {s s1 s2 : State} {rd rs1 rs2 : BitVec 5} {a b : Reg}

/-- An integer form of two sources whose operands are there writes its result. -/
theorem alu2_wrote (ready : s.exeReady rd [rs1, rs2]) (ha : s.gives rs1 a s1) (hb : s1.src s.cur rs2 = .val (b, s2))
    {w : BitVec 32} {f : BitVec 64 → BitVec 64 → BitVec 64} {v : BitVec 64} (hv : f (capAddr a) (capAddr b) = v) :
    alu2 w rd rs1 rs2 f s = .next (s.wrote s2 rd (dataReg v)) :=
  hv ▸ alu2_ok (State.exePre_ready ready w) ha hb

/-- An integer form of one source whose operand is there writes its result. -/
theorem alu1_wrote (ready : s.exeReady rd [rs1]) (ha : s.gives rs1 a s1) {w : BitVec 32} {f : BitVec 64 → BitVec 64}
    {v : BitVec 64} (hv : f (capAddr a) = v) : alu1 w rd rs1 f s = .next (s.wrote s1 rd (dataReg v)) :=
  hv ▸ alu1_ok (State.exePre_ready ready w) ha

end

/-- Settles O8: each form is an operation on its operands, and its operation is the one that R134 names. -/
theorem integerArithmeticResults : Obligations.IntegerArithmeticResults := by
  refine ⟨?registers, ?immediates⟩
  case registers =>
    intro s s1 s2 rd rs1 rs2 a b ready ha hb x y is
    have two {w : BitVec 32} {f : BitVec 64 → BitVec 64 → BitVec 64} {v : BitVec 64} (hv : f x y = v) :
        alu2 w rd rs1 rs2 f s = .next (s.wrote s2 rd (dataReg v)) := alu2_wrote ready ha hb hv
    simp only [is, exec_add, exec_sub, exec_sll, exec_slt, exec_sltu, exec_xor, exec_srl, exec_sra, exec_or, exec_and, exec_addw,
      exec_subw, exec_sllw, exec_srlw, exec_sraw, ← shift64_eq, ← shift32_eq, ← setIf_slt, ← setIf_ult]
    exact ⟨two rfl, two rfl, two rfl, two rfl, two rfl, two rfl, two rfl, two rfl, two rfl, two rfl, two rfl, two rfl, two rfl,
      two rfl, two rfl⟩
  case immediates =>
    intro s s1 rd rs1 a imm k j up ready ha x i is
    have none : s.exeReady rd [] := State.exeReady_sub ready (by simp)
    have one {w : BitVec 32} {f : BitVec 64 → BitVec 64} {v : BitVec 64} (hv : f x = v) :
        alu1 w rd rs1 f s = .next (s.wrote s1 rd (dataReg v)) := alu1_wrote ready ha hv
    simp only [is, exec_addi, exec_slti, exec_sltiu, exec_xori, exec_ori, exec_andi, exec_addiw, exec_slli, exec_srli, exec_srai,
      exec_slliw, exec_srliw, exec_sraiw, exec_lui, exec_auipc, ← setIf_slt, ← setIf_ult]
    exact ⟨one rfl, one rfl, one rfl, one rfl, one rfl, one rfl, one rfl, one rfl, one rfl, one rfl, one rfl, one rfl, one rfl,
      exe0_ok none rfl, exe0_ok none rfl⟩

/-- Settles O9: the quotients and remainders of the model are those of R135, with all ones written as −1. -/
theorem multiplyAndDivideResults : Obligations.MultiplyAndDivideResults := by
  intro s s1 s2 rd rs1 rs2 a b ready ha hb x y u v is
  have two {w : BitVec 32} {f : BitVec 64 → BitVec 64 → BitVec 64} {v : BitVec 64} (hv : f x y = v) :
      alu2 w rd rs1 rs2 f s = .next (s.wrote s2 rd (dataReg v)) := alu2_wrote ready ha hb hv
  simp only [is, exec_mul, exec_mulh, exec_mulhsu, exec_mulhu, exec_mulw, exec_div, exec_divu, exec_rem, exec_remu, exec_divw,
    exec_divuw, exec_remw, exec_remuw, ← allOnes_eq_neg_one]
  exact ⟨two rfl, two rfl, two rfl, two rfl, two rfl, two rfl, two rfl, two rfl, two rfl, two rfl, two rfl, two rfl, two rfl⟩

/-! ## Branches and jumps -/

section
variable {s s1 s2 : State} {rd rs1 rs2 : BitVec 5} {a b : Reg} {t : BitVec 64}

/-- A form that writes no register may run where one that writes some may. -/
theorem State.exeReady_x0 {rs : List (BitVec 5)} (h : s.exeReady rd rs) : s.exeReady 0#5 rs := by
  obtain ⟨_, hrs, hawaits, _⟩ := h
  exact ⟨by decide, hrs, Ctx.awaits_sub hawaits (by simp +contextual), Ctx.pushHeld_x0 _⟩

/-- A branch whose relation holds goes to its target, or takes cause 0x04 with it; any other goes to the next instruction. -/
theorem branchForm_goes (ready : s.exeReady 0#5 [rs1, rs2]) (ha : s.gives rs1 a s1) (hb : s1.src s.cur rs2 = .val (b, s2))
    {w : BitVec 32} {off : BitVec 12} {test : BitVec 64 → BitVec 64 → Bool} {taken : Prop}
    (ht : test (capAddr a) (capAddr b) = true ↔ taken) :
    let t := (s.ctx s.cur).pc + (off ++ 0#1).signExtend 64
    (taken → t.extractLsb' 0 2 = 0#2 → branchForm w rs1 rs2 off test s = .next (s2.setPc s.cur t)) ∧
      (taken → t.extractLsb' 0 2 ≠ 0#2 → branchForm w rs1 rs2 off test s = .next (takeTrap s s.cur 0x04 t)) ∧
      (¬taken → branchForm w rs1 rs2 off test s = .next (s2.advance s.cur)) := by
  intro t
  have form : branchForm w rs1 rs2 off test s =
      settle s (if test (capAddr a) (capAddr b) then s2.jump s.cur t else .val (s2.advance s.cur)) := by
    have ha' : s.src s.cur rs1 = .val (a, s1) := ha
    have pre : s.exePre s.cur w 0 [rs1, rs2] = .val () := State.exePre_ready ready w
    simp only [branchForm, pre, Tri.bind_val, ha', hb, t]
  rw [← ht, form, s2.jump_cases s.cur t]
  refine ⟨fun h h0 => ?_, fun h h0 => ?_, fun h => ?_⟩
  · rw [if_pos h, if_pos h0, settle_val]
  · rw [if_pos h, if_neg h0, settle_trap]
  · rw [if_neg h, settle_val]

/-- A jump that links writes the address of the next instruction, or takes cause 0x04 with its target. -/
theorem State.jumpLink_goes (hpc : (s1.ctx s.cur).pc = (s.ctx s.cur).pc) (t : BitVec 64) :
    (t.extractLsb' 0 2 = 0#2 → settle s (s1.jumpLink s.cur rd t) =
        .next ((s1.setPc s.cur t).dest s.cur rd (dataReg ((s.ctx s.cur).pc + 4)))) ∧
      (t.extractLsb' 0 2 ≠ 0#2 → settle s (s1.jumpLink s.cur rd t) = .next (takeTrap s s.cur 0x04 t)) := by
  refine ⟨fun h => ?_, fun h => ?_⟩
  · simp only [State.jumpLink, s1.jump_cases s.cur t, if_pos h, hpc, Tri.bind_val, settle_val]
  · simp only [State.jumpLink, s1.jump_cases s.cur t, if_neg h, Tri.bind_trap, settle_trap]

end

/-- Settles O11: the six relations are those of their branches, and the two jumps differ in their target alone. -/
theorem branchesAndJumps : Obligations.BranchesAndJumps := by
  intro s s1 s2 rd rs1 rs2 a b off jo imm ready ha hb x y pc goes jumps
  have none : s.exeReady rd [] := State.exeReady_sub ready (by simp)
  have one : s.exeReady rd [rs1] := State.exeReady_sub ready (by simp)
  have noRd : s.exeReady 0#5 [rs1, rs2] := State.exeReady_x0 ready
  have branch {w : BitVec 32} {test : BitVec 64 → BitVec 64 → Bool} {taken : Prop} (ht : test x y = true ↔ taken) :=
    branchForm_goes noRd ha hb (w := w) (off := off) ht
  refine ⟨?beq, ?bne, ?blt, ?bge, ?bltu, ?bgeu, ?jal, ?jalr⟩
  case beq => exact branch beq_iff_eq
  case bne => exact branch bne_iff_ne
  case blt => exact branch BitVec.slt_iff_toInt_lt
  case bge => exact branch (test := fun a b => !a.slt b) (not_slt_iff x y)
  case bltu => exact branch BitVec.ult_iff_toNat_lt
  case bgeu => exact branch (test := fun a b => !a.ult b) (not_ult_iff x y)
  case jal =>
    have form (t : BitVec 64) (h : t = pc + (jo ++ 0#1).signExtend 64) :
        exec (.jal rd jo) s = settle s (s.jumpLink s.cur rd t) := by
      simp only [exec_jal, execJal, State.exePre_ready none, Tri.bind_val, h, pc]
    simp only [jumps, form _ rfl]
    exact State.jumpLink_goes rfl _
  case jalr =>
    obtain ⟨⟨_, l, hl⟩, _⟩ := State.src_popped ha
    have ha' : s.src s.cur rs1 = .val (a, s1) := ha
    simp only [jumps, exec_jalr, execJalr, State.exePre_ready one, Tri.bind_val, ha']
    exact State.jumpLink_goes (by rw [hl]) _

end Sys2Proof.Machine
end

section
/-! PROOFS. The capability forms: fields, copies and comparisons, derivation and sealing, and narrowing (03/R68 to R71; 07/R145 to
R148, R150, R151). -/

namespace Sys2Proof.Machine

/-! ## The fields of a register made of fields (R68, R69) -/

section
variable (tag : Bool) (m a : BitVec 64) (r : Reg)

/-- The bits of a register: ADDR, META and TAG. -/
theorem getLsbD_mkCap (i : Nat) : (mkCap tag m a).getLsbD i =
    if i < 64 then a.getLsbD i else if i < 128 then m.getLsbD (i - 64) else (BitVec.ofBool tag).getLsbD (i - 128) := by
  refine (BitVec.getLsbD_append (x := BitVec.ofBool tag ++ m) (y := a)).trans ?_
  rw [BitVec.getLsbD_append]
  have inMeta : i - 64 < 64 ↔ i < 128 := by omega
  simp only [inMeta, Nat.sub_sub]

@[simp] theorem capAddr_mkCap : capAddr (mkCap tag m a) = a := by
  apply BitVec.eq_of_getLsbD_eq
  intro i hi
  simp [capAddr, getLsbD_mkCap, hi]

@[simp] theorem capMeta_mkCap : capMeta (mkCap tag m a) = m := by
  apply BitVec.eq_of_getLsbD_eq
  intro i hi
  have inMeta : 64 + i < 128 := by omega
  simp only [capMeta, BitVec.getLsbD_extractLsb', hi, decide_true, Bool.true_and, getLsbD_mkCap, inMeta, if_true]
  simp

@[simp] theorem capTag_mkCap : capTag (mkCap tag m a) = tag := by
  rw [capTag, getLsbD_mkCap]
  simp

/-- Each field of the metadata is read from META. -/
theorem extract_eq_meta {i n : Nat} (h : i + n ≤ 64) : r.extractLsb' (64 + i) n = (capMeta r).extractLsb' i n := by
  apply BitVec.eq_of_getLsbD_eq
  intro j hj
  have inside : i + j < 64 := by omega
  simp [capMeta, hj, inside, Nat.add_assoc]

theorem capPerms_eq_meta : capPerms r = (capMeta r).extractLsb' 53 11 := extract_eq_meta r (i := 53) (by decide)

theorem capOtype_eq_meta : capOtype r = (capMeta r).extractLsb' 0 7 := extract_eq_meta r (i := 0) (by decide)

end

section
variable (perms : BitVec 11) (e b l : Nat) (otype : BitVec 7)

/-- The bits of META: object type, length, base, exponent and permissions. -/
theorem getLsbD_mkMeta (i : Nat) : (mkMeta perms e b l otype).getLsbD i =
    if i < 7 then otype.getLsbD i else if i < 27 then (BitVec.ofNat 20 l).getLsbD (i - 7)
    else if i < 47 then (BitVec.ofNat 20 b).getLsbD (i - 27) else if i < 53 then (BitVec.ofNat 6 e).getLsbD (i - 47)
    else perms.getLsbD (i - 53) := by
  refine (BitVec.getLsbD_append (x := perms ++ BitVec.ofNat 6 e ++ BitVec.ofNat 20 b ++ BitVec.ofNat 20 l) (y := otype)).trans ?_
  rw [BitVec.getLsbD_append, BitVec.getLsbD_append, BitVec.getLsbD_append]
  have h20 : i - 7 < 20 ↔ i < 27 := by omega
  have h40 : i - 27 < 20 ↔ i < 47 := by omega
  have h46 : i - 47 < 6 ↔ i < 53 := by omega
  simp only [Nat.sub_sub, h20, h40, h46]

@[simp] theorem capPerms_mkMeta (tag : Bool) (a : BitVec 64) : capPerms (mkCap tag (mkMeta perms e b l otype) a) = perms := by
  apply BitVec.eq_of_getLsbD_eq
  intro i hi
  have h7 : ¬53 + i < 7 := by omega
  have h27 : ¬53 + i < 27 := by omega
  have h47 : ¬53 + i < 47 := by omega
  simp [capPerms_eq_meta, getLsbD_mkMeta, hi, h7, h27, h47]

@[simp] theorem capOtype_mkMeta (tag : Bool) (a : BitVec 64) : capOtype (mkCap tag (mkMeta perms e b l otype) a) = otype := by
  apply BitVec.eq_of_getLsbD_eq
  intro i hi
  simp [capOtype_eq_meta, getLsbD_mkMeta, hi]

/-- The exponent and the base and length fields of a register made of fields. -/
theorem exponent_mkMeta (tag : Bool) (a : BitVec 64) :
    (mkCap tag (mkMeta perms e b l otype) a).extractLsb' 111 6 = BitVec.ofNat 6 e := by
  rw [extract_eq_meta _ (i := 47) (by decide), capMeta_mkCap]
  apply BitVec.eq_of_getLsbD_eq
  intro i hi
  have h7 : ¬47 + i < 7 := by omega
  have h27 : ¬47 + i < 27 := by omega
  have h53 : 47 + i < 53 := by omega
  simp [getLsbD_mkMeta, hi, h7, h27, h53]

theorem base_mkMeta (tag : Bool) (a : BitVec 64) :
    (mkCap tag (mkMeta perms e b l otype) a).extractLsb' 91 20 = BitVec.ofNat 20 b := by
  rw [extract_eq_meta _ (i := 27) (by decide), capMeta_mkCap]
  apply BitVec.eq_of_getLsbD_eq
  intro i hi
  have h7 : ¬27 + i < 7 := by omega
  have h47 : 27 + i < 47 := by omega
  simp [getLsbD_mkMeta, hi, h7, h47]

theorem length_mkMeta (tag : Bool) (a : BitVec 64) :
    (mkCap tag (mkMeta perms e b l otype) a).extractLsb' 71 20 = BitVec.ofNat 20 l := by
  rw [extract_eq_meta _ (i := 7) (by decide), capMeta_mkCap]
  apply BitVec.eq_of_getLsbD_eq
  intro i hi
  have h27 : 7 + i < 27 := by omega
  simp [getLsbD_mkMeta, hi, h27]

end

/-! ## The statement on fields, copies and comparisons (R145, R146, R148) -/

/-- The length of a capability fits in 64 bits, whatever its exponent. -/
theorem capLength_lt (r : Reg) : capLength r < 2 ^ 64 := by
  have field : (r.extractLsb' 71 20).toNat < 2 ^ 20 := (r.extractLsb' 71 20).isLt
  have exponent : 2 ^ capE r ≤ 2 ^ 44 := Nat.pow_le_pow_right (by decide) (Nat.min_le_right _ _)
  calc capLength r ≤ (r.extractLsb' 71 20).toNat * 2 ^ 44 := Nat.mul_le_mul_left _ exponent
    _ < 2 ^ 64 := by omega

theorem capTop_sub_capBase (r : Reg) : capTop r - capBase r = capLength r := by simp [capTop]

/-- The object type and the permissions as `cperm` gives them. -/
theorem cperm_word (o : BitVec 7) (p : BitVec 11) :
    ((o ++ 0#5 ++ p).setWidth 64 : BitVec 64) = p.setWidth 64 + 0x10000 * o.setWidth 64 := by
  apply BitVec.eq_of_toNat_eq
  have ho := o.isLt
  have hp := p.isLt
  have low : (o ++ 0#5 ++ p).toNat = o.toNat * 2 ^ 16 + p.toNat := by
    rw [BitVec.toNat_append, BitVec.toNat_append, ← Nat.shiftLeft_add_eq_or_of_lt hp]
    simp [Nat.shiftLeft_eq]
    omega
  simp only [BitVec.toNat_setWidth, BitVec.toNat_add, BitVec.toNat_mul, low]
  simp
  omega

section
variable {s s1 s2 : State} {rd rs1 rs2 : BitVec 5} {a b v : Reg} {w : BitVec 32} {c : BitVec 6} {t : BitVec 64}

/-- A form whose operation takes a cause takes it. -/
theorem exe1_trap {f : Reg → State → Tri (Reg × State)} (ready : s.exeReady rd [rs1]) (ha : s.gives rs1 a s1)
    (hf : f a s1 = .trap c t) : exe1 w rd rs1 s f = .next (takeTrap s s.cur c t) := by
  have ha' : s.src s.cur rs1 = .val (a, s1) := ha
  simp [exe1, State.exePre_ready ready, ha', hf]

theorem exe2_trap {f : Reg → Reg → State → Tri (Reg × State)} (ready : s.exeReady rd [rs1, rs2]) (ha : s.gives rs1 a s1)
    (hb : s1.src s.cur rs2 = .val (b, s2)) (hf : f a b s2 = .trap c t) :
    exe2 w rd rs1 rs2 s f = .next (takeTrap s s.cur c t) := by
  have ha' : s.src s.cur rs1 = .val (a, s1) := ha
  simp [exe2, State.exePre_ready ready, ha', hb, hf]

end

/-- Settles O31: each form writes the field that it reads, and the two forms of a field agree. -/
theorem capabilityFieldsAndMoves : Obligations.CapabilityFieldsAndMoves := by
  refine ⟨?forms, fun r => ?lengths⟩
  case forms =>
    intro s s1 s2 rd rs1 rs2 a b ha hb is
    refine ⟨fun ready => ?cbase, fun ready => ?clen, fun ready => ?cperm, fun ready => ?ctag, fun ready => ?cmv, fun ready => ?cclr,
      fun ready => ?csub⟩
    case cbase => exact (exec_cbase s rd rs1).trans (exe1_ok ready ha rfl)
    case clen =>
      rw [capTop_sub_capBase, BitVec.ofInt_natCast]
      exact (exec_clen s rd rs1).trans (exe1_ok ready ha rfl)
    case cperm =>
      rw [← cperm_word]
      exact (exec_cperm s rd rs1).trans (exe1_ok ready ha rfl)
    case ctag => exact (exec_ctag s rd rs1).trans (exe1_ok ready ha rfl)
    case cmv => exact (exec_cmv s rd rs1).trans (exe1_ok ready ha rfl)
    case cclr => exact (exec_cclr s rd rs1).trans (exe1_ok ready ha rfl)
    case csub =>
      refine (exec_csub s rd rs1 rs2).trans (exe2_ok ready ha hb (congrArg (fun v => Tri.val (dataReg v, s2)) ?_))
      simp only [hasPerms, Bool.and_eq_true, decide_eq_true_eq, beq_iff_eq, and_assoc]
  case lengths =>
    rw [capTop_sub_capBase]
    exact ⟨by exact_mod_cast capLength_lt r, Int.natCast_nonneg _⟩

/-! ## The statement on derivation and sealing (R146, R150, R151) -/

/-- A source that is not sealed passes, and a tagged sealed one takes cause 0x06. -/
theorem notSealed_cases (r : Reg) (rs1 : BitVec 5) : (¬(capTag r = true ∧ capOtype r ≠ 0) → notSealed r rs1 = .val ()) ∧
    ((capTag r = true ∧ capOtype r ≠ 0) → notSealed r rs1 = .trap 0x06 (rs1.setWidth 64)) := by
  have test : (capTag r && capOtype r != 0) = true ↔ capTag r = true ∧ capOtype r ≠ 0 := by simp
  refine ⟨fun h => ?_, fun h => ?_⟩
  · rw [notSealed, Bool.eq_false_iff.mpr (mt test.mp h)]
    rfl
  · rw [notSealed, test.mpr h]
    rfl

/-- The permissions and the object type of metadata made of permissions and the rest. -/
theorem extract_perms_append (p : BitVec 11) (m : BitVec 53) :
    (p ++ m : BitVec 64).extractLsb' 53 11 = p ∧ (p ++ m : BitVec 64).extractLsb' 0 7 = m.extractLsb' 0 7 := by
  have bits (i : Nat) : (p ++ m : BitVec 64).getLsbD i = if i < 53 then m.getLsbD i else p.getLsbD (i - 53) :=
    BitVec.getLsbD_append
  refine ⟨BitVec.eq_of_getLsbD_eq fun i hi => ?_, BitVec.eq_of_getLsbD_eq fun i hi => ?_⟩
  · rw [BitVec.getLsbD_extractLsb', bits]
    simp [hi]
  · have low : 0 + i < 53 := by omega
    rw [BitVec.getLsbD_extractLsb', bits, BitVec.getLsbD_extractLsb', if_pos low]

/-- A capability moved to another address keeps its permissions and its object type, and is tagged only where it was. -/
theorem moved_fields (r : Reg) (n : BitVec 64) : (capTag (moved r n) = true → capTag r = true) ∧
    capPerms (moved r n) = capPerms r ∧ capOtype (moved r n) = capOtype r := by
  refine ⟨fun h => ?_, ?_, ?_⟩
  · rw [moved, capTag_mkCap] at h
    exact (Bool.and_eq_true_iff.mp h).1
  · rw [capPerms_eq_meta, moved, capMeta_mkCap, capPerms_eq_meta]
  · rw [capOtype_eq_meta, moved, capMeta_mkCap, capOtype_eq_meta]

/-- A capability with other permissions has those, and keeps its tag and its object type. -/
theorem capWithPerms_fields (r : Reg) (p : BitVec 11) : capTag (capWithPerms r p) = capTag r ∧
    capPerms (capWithPerms r p) = p ∧ capOtype (capWithPerms r p) = capOtype r := by
  refine ⟨capTag_mkCap .., ?_, ?_⟩
  · rw [capPerms_eq_meta, capWithPerms, capMeta_mkCap]
    exact (extract_perms_append p _).1
  · rw [capOtype_eq_meta, capWithPerms, capMeta_mkCap, capOtype_eq_meta]
    refine (extract_perms_append p _).2.trans (BitVec.eq_of_getLsbD_eq fun i hi => ?_)
    simp [hi]

section
variable {s s1 s2 s3 : State} {p : Party} {rd rs1 rs2 : BitVec 5} {a b : Reg} {t : Nat}

/-- A supervisor core holds the authority for every object type (R150). -/
theorem State.sealing_sup (h : p.isSup = true) : s.sealing p t = (decide (1 ≤ t ∧ t ≤ 127), s) := by
  unfold State.sealing
  by_cases ht : t = 0 ∨ 127 < t
  · have none : ¬(1 ≤ t ∧ t ≤ 127) := by omega
    simp [ht, none]
  · have some : 1 ≤ t ∧ t ≤ 127 := by omega
    simp [ht, h, some]

/-- No party holds it for a number that is no object type. -/
theorem State.sealing_none (h : t = 0 ∨ 127 < t) : s.sealing p t = (false, s) := by simp [State.sealing, h]

/-- A class that is bound under a condition is some class where the condition holds and it is that one. -/
theorem ite_some_beq {α : Type} [BEq α] (c : Bool) (x y : α) : ((if c then some x else none) == some y) = (c && x == y) := by
  cases c <;> rfl

/-- A firing holds it where the seal map of its partition binds the type to its class. -/
theorem State.sealing_firing (h : p.isSup = false) (ht : ¬(t = 0 ∨ 127 < t)) : s.sealing p t =
    ((s.sealClass p.die.val (s.ctx p).partid t).1 == some (s.ctx p).kcls, (s.sealClass p.die.val (s.ctx p).partid t).2) := by
  simp [State.sealing, h, ht]

/-- The sealing forms test the tag of their source, then the authority, then its seal. -/
theorem sealForm_cases {w : BitVec 32} {undo : Bool} (ready : s.exeReady rd [rs1, rs2]) (ha : s.gives rs1 a s1)
    (hb : s1.src s.cur rs2 = .val (b, s2)) :
    let t := (capAddr b).toNat
    let trap (c : BitVec 6) (r : BitVec 5) : Prop := sealForm w rd rs1 rs2 undo s = .next (takeTrap s s.cur c (r.setWidth 64))
    (capTag a = false → trap 0x05 rs1) ∧
    (capTag a = true → s2.sealing s.cur t = (false, s3) → trap 0x07 rs2) ∧
    (capTag a = true → s2.sealing s.cur t = (true, s3) → capOtype a ≠ (if undo then BitVec.ofNat 7 t else 0) → trap 0x06 rs1) ∧
    (capTag a = true → s2.sealing s.cur t = (true, s3) → capOtype a = (if undo then BitVec.ofNat 7 t else 0) →
      sealForm w rd rs1 rs2 undo s = .next (s.wrote s3 rd
        (mkCap true ((capMeta a).extractLsb' 7 57 ++ (if undo then 0 else BitVec.ofNat 7 t)) (capAddr a)))) := by
  intro t trap
  refine ⟨fun tag => ?_, fun tag held => ?_, fun tag held other => ?_, fun tag held same => ?_⟩
  · exact exe2_trap ready ha hb (by simp [tag, regTval])
  · exact exe2_trap ready ha hb (by simp [tag, t, held, regTval])
  · refine exe2_trap ready ha hb ?_
    simp only [tag, held, beq_eq_false_iff_ne.mpr other, Tri.ensure_true, Tri.ensure_false, Tri.bind_val, Tri.bind_trap, regTval, t]
  · refine exe2_ok ready ha hb ?_
    simp only [tag, held, beq_iff_eq.mpr same, Tri.ensure_true, Tri.bind_val, capWithOtype, t]

end

/-- Settles O32: derivation and sealing by the cases of their tests. -/
theorem sealingAndDerivation : Obligations.SealingAndDerivation := by
  refine ⟨?derive, ?sealing⟩
  case derive =>
    intro s s1 s2 rd rs1 rs2 imm a b ha hb at' fewer isSealed
    obtain ⟨pass, refuse⟩ := notSealed_cases a rs1
    refine ⟨fun h ready => ⟨?_, ?_, ?_⟩, fun h ready => ?_, fun h ready => ⟨?_, ?_, ?_⟩, fun h ready => ?_, ?weaker⟩
    · exact (exec_cadd s rd rs1 rs2).trans (exe2_ok ready ha hb (by rw [pass h]; rfl))
    · exact (exec_cset s rd rs1 rs2).trans (exe2_ok ready ha hb (by rw [pass h]; rfl))
    · exact (exec_candp s rd rs1 rs2).trans (exe2_ok ready ha hb (by rw [pass h]; rfl))
    · exact (exec_caddi s rd rs1 imm).trans (exe1_ok ready ha (by rw [pass h]; rfl))
    · exact (exec_cadd s rd rs1 rs2).trans (exe2_trap ready ha hb (by rw [refuse h]; rfl))
    · exact (exec_cset s rd rs1 rs2).trans (exe2_trap ready ha hb (by rw [refuse h]; rfl))
    · exact (exec_candp s rd rs1 rs2).trans (exe2_trap ready ha hb (by rw [refuse h]; rfl))
    · exact (exec_caddi s rd rs1 imm).trans (exe1_trap ready ha (by rw [refuse h]; rfl))
    case weaker =>
      obtain ⟨movedTag, movedPerms, movedType⟩ := moved_fields a (capAddr b)
      obtain ⟨fewerTag, fewerPerms, fewerType⟩ := capWithPerms_fields a (capPerms a &&& (capAddr b).setWidth 11)
      simp only [List.forall_mem_cons, List.not_mem_nil, false_implies, implies_true, and_true]
      refine ⟨⟨movedTag, ?_, movedType⟩, ⟨fun h => fewerTag ▸ h, ?_, fewerType⟩⟩
      · exact (congrArg (capPerms a &&& ·) movedPerms).trans ((BitVec.and_self).trans movedPerms.symm)
      · refine (congrArg (capPerms a &&& ·) fewerPerms).trans (Eq.trans ?_ fewerPerms.symm)
        rw [← BitVec.and_assoc, BitVec.and_self]
  case sealing =>
    intro s s1 s2 s3 rd rs1 rs2 a b ready ha hb t typed trap
    obtain ⟨sealUntagged, sealWant, sealOther, sealDone⟩ :=
      sealForm_cases (s3 := s3) (w := wordCseal rd rs1 rs2) (undo := false) ready ha hb
    obtain ⟨unsealUntagged, unsealWant, unsealOther, unsealDone⟩ :=
      sealForm_cases (s3 := s3) (w := wordCunseal rd rs1 rs2) (undo := true) ready ha hb
    refine ⟨State.sealing_sup, State.sealing_none, ?firing, fun tag held => ⟨sealDone tag held, unsealDone tag held,
      sealOther tag held, unsealOther tag held⟩, fun tag want => ⟨sealWant tag want, unsealWant tag want⟩,
      fun tag => ⟨sealUntagged tag, unsealUntagged tag⟩⟩
    case firing =>
      intro firing h1 h127 x place entry w u read
      rw [State.sealing_firing firing (by omega)]
      simp only [State.sealClass, place, x] at read ⊢
      rw [read]
      exact congrArg (·, u) (ite_some_beq _ _ _)

/-! ## The statement on narrowing (R147) -/

section
variable {lo hi e n k : Nat}

theorem le_roundUp {m : Nat} (x : Nat) (hm : 0 < m) : x ≤ roundUp x m := by
  have floor := Nat.div_add_mod' (x + m - 1) m
  have rest := Nat.mod_lt (x + m - 1) hm
  rw [roundUp]
  omega

theorem roundUp_one (x : Nat) : roundUp x 1 = x := by simp [roundUp]

/-- The exponent of a narrowing is at most 44, and its length field holds the region rounded outward. -/
theorem boundExp_some (h : boundExp lo hi e n = some k) : k < e + n ∧
    (roundUp hi (2 ^ k) - lo / 2 ^ k * 2 ^ k) / 2 ^ k ≤ 2 ^ 20 - 1 := by
  induction n generalizing e with
  | zero => cases h
  | succ n ih =>
    rw [boundExp] at h
    split at h
    next fits =>
      cases h
      exact ⟨by omega, fits⟩
    next =>
      obtain ⟨hk, fits⟩ := ih h
      exact ⟨by omega, fits⟩

/-- A region of fewer than 2^20 bytes has the exponent 0. -/
theorem boundExp_small (h : hi - lo < 2 ^ 20) : boundExp lo hi 0 (n + 1) = some 0 := by
  have fits : (roundUp hi (2 ^ 0) - lo / 2 ^ 0 * 2 ^ 0) / 2 ^ 0 ≤ 2 ^ 20 - 1 := by
    simp only [Nat.pow_zero, roundUp_one, Nat.div_one, Nat.mul_one]
    omega
  rw [boundExp, if_pos fits]

end

section
variable (perms : BitVec 11) (a : BitVec 64) {e : Nat} (he : e < 45)
include he

/-- The exponent of a register made of fields is the one given. -/
theorem capE_mkMeta (b l : Nat) : capE (mkCap true (mkMeta perms e b l 0) a) = e := by
  rw [capE, capExp, exponent_mkMeta, BitVec.toNat_ofNat, Nat.mod_eq_of_lt (by omega)]
  omega

/-- A capability whose base field is that of its address rounded down has that base. -/
theorem capBase_mkMeta (l : Nat) : capBase (mkCap true (mkMeta perms e (a.toNat / 2 ^ e) l 0) a) = ↑(a.toNat / 2 ^ e * 2 ^ e) := by
  have field : a.toNat % 2 ^ (e + 20) / 2 ^ e = a.toNat / 2 ^ e % 2 ^ 20 := by rw [Nat.pow_add, Nat.mod_mul_right_div_self]
  have low : a.toNat % 2 ^ (e + 20) = a.toNat % 2 ^ e + 2 ^ e * (a.toNat / 2 ^ e % 2 ^ 20) := by rw [Nat.pow_add, Nat.mod_mul]
  have whole := Nat.div_add_mod' a.toNat (2 ^ e)
  have below := Nat.mod_le a.toNat (2 ^ (e + 20))
  simp only [capBase, capE_mkMeta perms a he, capAddr_mkCap, base_mkMeta, BitVec.toNat_ofNat, field, Nat.lt_irrefl, if_false,
    Int.sub_zero]
  rw [← Int.natCast_add]
  congr 1
  rw [Nat.mul_comm (2 ^ e)] at low
  omega

/-- Its length is that of its length field. -/
theorem capLength_mkMeta {b l : Nat} (hl : l < 2 ^ 20) : capLength (mkCap true (mkMeta perms e b l 0) a) = l * 2 ^ e := by
  rw [capLength, capE_mkMeta perms a he, length_mkMeta, BitVec.toNat_ofNat, Nat.mod_eq_of_lt hl]

end

/-- The bounds of a capability narrowed to [`lo`, `hi`) at its address `lo`: both rounded outward to the exponent. -/
theorem bounds_narrowed {perms : BitVec 11} {a : BitVec 64} {hi e : Nat} (hhi : a.toNat ≤ hi)
    (h : boundExp a.toNat hi 0 45 = some e) :
    let l := a.toNat / 2 ^ e * 2 ^ e
    let v := mkCap true (mkMeta perms e (l / 2 ^ e) ((roundUp hi (2 ^ e) - l) / 2 ^ e) 0) a
    capBase v = l ∧ capTop v = roundUp hi (2 ^ e) := by
  intro l v
  obtain ⟨he, fits⟩ := boundExp_some h
  change (roundUp hi (2 ^ e) - l) / 2 ^ e ≤ 2 ^ 20 - 1 at fits
  have pos : 0 < 2 ^ e := Nat.two_pow_pos e
  have field : l / 2 ^ e = a.toNat / 2 ^ e := Nat.mul_div_cancel _ pos
  have base : capBase v = l := by
    simp only [v, field]
    exact capBase_mkMeta perms a (by omega) _
  have ordered : l ≤ roundUp hi (2 ^ e) := (Nat.div_mul_le_self _ _).trans (hhi.trans (le_roundUp hi pos))
  have whole : 2 ^ e ∣ roundUp hi (2 ^ e) - l := Nat.dvd_sub (Nat.dvd_mul_left ..) (Nat.dvd_mul_left ..)
  refine ⟨base, ?_⟩
  rw [capTop, base, capLength_mkMeta perms a (by omega) (by omega), Nat.div_mul_cancel whole]
  omega

/-- A test passes on the way to a value. -/
theorem Tri.ensure_bind_val {α : Type} {ok : Bool} {c : BitVec 6} {t : BitVec 64} {f : Unit → Tri α} {v : α} :
    (Tri.ensure ok c t).bind f = .val v ↔ ok = true ∧ f () = .val v := by
  cases ok <;> simp

section
variable {x : Bool} {r v : Reg} {len : BitVec 64} {rs : BitVec 5}

/-- What a narrowing is: the tests of its source and of its region, and the value between its rounded bounds. -/
theorem narrow_val_iff : narrow x r len rs = .val v ↔ capTag r = true ∧ capOtype r = 0 ∧
      let lo := (capAddr r).toNat
      let hi := lo + len.toNat
      (capBase r ≤ lo ∧ (hi : Int) ≤ capTop r) ∧ ∃ e, boundExp lo hi 0 45 = some e ∧
        let l := lo / 2 ^ e * 2 ^ e
        let h := roundUp hi (2 ^ e)
        (capBase r ≤ l ∧ (h : Int) ≤ capTop r) ∧ (x = true → l = lo ∧ h = hi) ∧
          mkCap true (mkMeta (capPerms r) e (l / 2 ^ e) ((h - l) / 2 ^ e) 0) (capAddr r) = v := by
  simp only [narrow, Tri.ensure_bind_val, beq_iff_eq, Bool.and_eq_true, decide_eq_true_eq]
  refine and_congr_right fun _ => and_congr_right fun _ => and_congr_right fun _ => ?_
  cases boundExp (capAddr r).toNat ((capAddr r).toNat + len.toNat) 0 45 with
  | none => simp
  | some e =>
    have exact_iff (y z : Bool) : (!y || z) = true ↔ (y = true → z = true) := by cases y <;> simp
    simp only [Tri.ensure_bind_val, Bool.and_eq_true, decide_eq_true_eq, exact_iff, beq_iff_eq, Tri.val.injEq, Option.some.injEq,
      exists_eq_left']

/-- The causes of a narrowing, of its source and of its region. -/
theorem narrow_untagged (tag : capTag r = false) : narrow x r len rs = .trap 0x05 (rs.setWidth 64) := by
  simp [narrow, tag, regTval]

theorem narrow_sealed (tag : capTag r = true) (type : capOtype r ≠ 0) : narrow x r len rs = .trap 0x06 (rs.setWidth 64) := by
  simp only [narrow, tag, beq_eq_false_iff_ne.mpr type, Tri.ensure_true, Tri.ensure_false, Tri.bind_val, Tri.bind_trap, regTval]

theorem narrow_outside (tag : capTag r = true) (type : capOtype r = 0)
    (outside : ¬(capBase r ≤ (capAddr r).toNat ∧ (((capAddr r).toNat + len.toNat : Nat) : Int) ≤ capTop r)) :
    narrow x r len rs = .trap 0x08 (rs.setWidth 64) := by
  have test : (decide (capBase r ≤ (capAddr r).toNat) && decide ((((capAddr r).toNat + len.toNat : Nat) : Int) ≤ capTop r)) = false :=
    Bool.eq_false_iff.mpr fun h => outside (by simpa only [Bool.and_eq_true, decide_eq_true_eq] using h)
  simp only [narrow, tag, beq_iff_eq.mpr type, test, Tri.ensure_true, Tri.ensure_false, Tri.bind_val, Tri.bind_trap, regTval]

end

/-- Settles O33: a narrowing's value is made between its bounds rounded outward, and those lie within the source's. -/
theorem narrowingNeverWidens : Obligations.NarrowingNeverWidens := by
  refine ⟨?forms, fun x r len rs => ?narrowed⟩
  case forms =>
    intro s s1 s2 rd rs1 rs2 a b ready ha hb x i
    refine ⟨fun v hv => ?_, fun c t ht => ?_⟩
    · cases x
      · exact (exec_cbnd s rd rs1 rs2).trans (exe2_ok ready ha hb (by rw [hv]; rfl))
      · exact (exec_cbndx s rd rs1 rs2).trans (exe2_ok ready ha hb (by rw [hv]; rfl))
    · cases x
      · exact (exec_cbnd s rd rs1 rs2).trans (exe2_trap ready ha hb (by rw [ht]; rfl))
      · exact (exec_cbndx s rd rs1 rs2).trans (exe2_trap ready ha hb (by rw [ht]; rfl))
  case narrowed =>
    intro lo hi
    have hi_eq : hi = (((capAddr r).toNat + len.toNat : Nat) : Int) := (Int.natCast_add ..).symm
    rw [hi_eq]
    refine ⟨fun v hv => ?value, fun tag type hlo hhi small => ?small, narrow_untagged, narrow_sealed, fun tag type outside => ?_⟩
    case value =>
      obtain ⟨tag, type, _, e, he, ⟨low, high⟩, exactly, rfl⟩ := narrow_val_iff.mp hv
      obtain ⟨base, top⟩ := bounds_narrowed (perms := capPerms r) (Nat.le_add_right _ _) he
      refine ⟨tag, capTag_mkCap .., capOtype_mkMeta .., capPerms_mkMeta .., capAddr_mkCap .., ?_, ?_, ?_, ?_, fun hx => ?_⟩
      · rwa [base]
      · rwa [top]
      · rw [base]
        exact Int.ofNat_le.mpr (Nat.div_mul_le_self _ _)
      · rw [top]
        exact_mod_cast le_roundUp _ (Nat.two_pow_pos e)
      · obtain ⟨hl, hh⟩ := exactly hx
        rw [base, top, hl, hh]
        exact ⟨rfl, rfl⟩
    case small =>
      have he := boundExp_small (lo := (capAddr r).toNat) (hi := (capAddr r).toNat + len.toNat) (n := 44) (by omega)
      obtain ⟨base, top⟩ := bounds_narrowed (perms := capPerms r) (Nat.le_add_right _ _) he
      have low : (capAddr r).toNat / 2 ^ 0 * 2 ^ 0 = (capAddr r).toNat := by rw [Nat.pow_zero, Nat.div_one, Nat.mul_one]
      have high : roundUp ((capAddr r).toNat + len.toNat) (2 ^ 0) = (capAddr r).toNat + len.toNat := roundUp_one _
      have value := (narrow_val_iff (x := x) (rs := rs)).mpr
        ⟨tag, type, ⟨hlo, hhi⟩, 0, he, ⟨low.symm ▸ hlo, high.symm ▸ hhi⟩, fun _ => ⟨low, high⟩, rfl⟩
      exact ⟨_, value, base.trans (congrArg _ low), top.trans (congrArg _ high)⟩
    · exact narrow_outside tag type (by omega)

end Sys2Proof.Machine
end

section
/-! PROOFS. What the CSR forms read and write where they are permitted (03/R82, R88; 07/R138). -/

namespace Sys2Proof.Machine

section
variable {p : Party} {w : BitVec 32} {n : BitVec 12} {r : Csr} {writes : Bool}

/-- A CSR that is there, that the mode reaches, and that is not read only where it is written, is permitted (R82). -/
theorem csrGate_ok (hn : csrOf n = some r) (sup : r.sup = true → p.isSup = true) (ro : writes = true → r.ro = false) :
    csrGate p w n writes = .val r := by
  have permitted : ((r.sup && !p.isSup) || (r.ro && writes)) = false := by
    rw [Bool.or_eq_false_iff, Bool.and_eq_false_imp, Bool.and_eq_false_imp]
    refine ⟨fun h => by rw [sup h]; rfl, fun h => ?_⟩
    cases writes with
    | false => rfl
    | true => exact absurd h (by rw [ro rfl]; decide)
  rw [csrGate, hn]
  exact if_neg (by rw [permitted]; decide)

end

section
variable {s s1 t : State} {p : Party} {r : Csr} {v w : BitVec 64} {cap : Option Reg}

/-- A write of the configuration word that ccsel selects gives a value where the core gives a record. -/
theorem State.writeCsr_ccdat (h : s.writeCsr p .ccdat v cap w = .val t) : ∃ k,
    (s.core (coreSelected p.die.val (s.ctx p).ccsel)).writeConfig ((s.ctx p).ccsel.extractLsb' 0 3).toNat v = some k := by
  simp only [State.writeCsr] at h
  split at h
  next k hk => exact ⟨k, hk⟩
  next => cases h

/-- A write of a word of a tap point gives a value only where the word is not read only (R326). -/
theorem State.writeTap_val {d : Nat} {sel : BitVec 64} (h : s.writeTap d sel v cap w = .val t) :
    (3 ≤ tapWordSelected sel && tapWordSelected sel ≤ 7) = false := by
  by_contra closed
  simp only [State.writeTap, Bool.eq_true_of_not_eq_false closed, if_true] at h
  cases h

/-- A write that gives a value is not closed whatever its value. -/
theorem State.csrClosed_of_writeCsr (h : s.writeCsr p r v cap w = .val t) : s.csrClosed p r = false := by
  cases r
  case ccdat =>
    obtain ⟨k, hk⟩ := State.writeCsr_ccdat h
    have given : ∀ o : Option Core, o = none → o ≠ some k := fun o ho => by rw [ho]; nofun
    simp only [State.csrClosed]
    split
    next word =>
      rw [word] at hk
      exact bne_eq_false_iff_eq.mpr (not_not.mp fun held => given _ (Core.writeStarea_none held) hk)
    next word =>
      rw [word] at hk
      exact bne_eq_false_iff_eq.mpr (not_not.mp fun held => given _ (Core.writeSpq_none held) hk)
    next word =>
      rw [word] at hk
      exact bne_eq_false_iff_eq.mpr (not_not.mp fun held => given _ (Core.writeQovf_none held) hk)
    next => rfl
  case tapdat => exact State.writeTap_val h
  all_goals rfl

/-- Whether a write is closed does not depend on the load-data queue. -/
theorem State.popped.csrClosed (h : s.popped t p) (r : Csr) : t.csrClosed p r = s.csrClosed p r := by
  obtain ⟨⟨_, _, cores, _⟩, l, hl⟩ := h
  cases r <;> simp only [State.csrClosed, hl, State.core, cores]

end

section
variable {s s1 t : State} {rd rs1 u : BitVec 5} {n : BitVec 12} {r : Csr} {a : Reg} {w : BitVec 32} {o : CsrOp}

/-- A form with a register operand that writes: rd gets the old value, and the CSR what the operation makes of it. -/
theorem csrReg_writes (ready : s.exeReady rd [rs1]) (ha : s.gives rs1 a s1) (hn : csrOf n = some r)
    (sup : r.sup = true → s.cur.isSup = true) (ro : r.ro = false) (writes : (o == .write || rs1 != 0) = true)
    (h : s1.writeCsr s.cur r (o.apply (s1.readCsr s.cur r) (capAddr a)) (if o = .write then some a else none) (w.setWidth 64) =
      .val t) :
    csrReg w rd n rs1 o s = .next (s.wrote t rd (dataReg (s1.readCsr s.cur r))) := by
  have ha' : s.src s.cur rs1 = .val (a, s1) := ha
  have opened : s.csrClosed s.cur r = false := ((State.src_popped ha).1.csrClosed r).symm.trans (State.csrClosed_of_writeCsr h)
  simp only [csrReg, State.exePre_ready ready, Tri.bind_val, writes, csrGate_ok (w := w) (writes := true) hn sup fun _ => ro, opened,
    Bool.and_false, Bool.not_false, Tri.ensure_true, ha', State.csrAccess, if_true, wordTval, h]
  rfl

/-- A form with a register operand that writes nothing. -/
theorem csrReg_reads (ready : s.exeReady rd [rs1]) (ha : s.gives rs1 a s1) (hn : csrOf n = some r)
    (sup : r.sup = true → s.cur.isSup = true) (writes : (o == .write || rs1 != 0) = false) :
    csrReg w rd n rs1 o s = .next (s.wrote s1 rd (dataReg (s1.readCsr s.cur r))) := by
  have ha' : s.src s.cur rs1 = .val (a, s1) := ha
  simp only [csrReg, State.exePre_ready ready, Tri.bind_val, writes, csrGate_ok (w := w) (writes := false) hn sup nofun,
    Bool.false_and, Bool.not_false, Tri.ensure_true, ha', State.csrAccess]
  rfl

/-- A form with an immediate operand that writes. -/
theorem csrImm_writes (ready : s.exeReady rd []) (hn : csrOf n = some r) (sup : r.sup = true → s.cur.isSup = true)
    (ro : r.ro = false) (writes : (o == .write || u != 0) = true)
    (h : s.writeCsr s.cur r (o.apply (s.readCsr s.cur r) (u.setWidth 64)) none (w.setWidth 64) = .val t) :
    csrImm w rd n u o s = .next (s.wrote t rd (dataReg (s.readCsr s.cur r))) := by
  simp only [csrImm, State.exePre_ready ready, Tri.bind_val, writes, csrGate_ok (w := w) (writes := true) hn sup fun _ => ro,
    State.csrAccess, if_true, wordTval, h]
  rfl

/-- A form with an immediate operand that writes nothing. -/
theorem csrImm_reads (ready : s.exeReady rd []) (hn : csrOf n = some r) (sup : r.sup = true → s.cur.isSup = true)
    (writes : (o == .write || u != 0) = false) :
    csrImm w rd n u o s = .next (s.wrote s rd (dataReg (s.readCsr s.cur r))) := by
  simp only [csrImm, State.exePre_ready ready, Tri.bind_val, writes, csrGate_ok (w := w) (writes := false) hn sup nofun,
    State.csrAccess]
  rfl

end

/-- Settles O22: each form writes or only reads, by its operation and its operand field. -/
theorem csrForms : Obligations.CsrForms := by
  intro s s1 rd rs1 u n r a hn sup p
  refine ⟨fun ready ha => ?registers, fun ready => ?immediates⟩
  case registers =>
    intro old v does
    refine ⟨fun ro t h => ?_, fun h0 => ⟨fun ro t h => ?_, fun ro t h => ?_⟩, fun h0 => ⟨?_, ?_⟩⟩
    · exact (exec_csrrw s rd n rs1).trans (csrReg_writes ready ha hn sup ro rfl h)
    · exact (exec_csrrs s rd n rs1).trans (csrReg_writes ready ha hn sup ro (by simpa using h0) h)
    · exact (exec_csrrc s rd n rs1).trans (csrReg_writes ready ha hn sup ro (by simpa using h0) h)
    · exact (exec_csrrs s rd n rs1).trans (csrReg_reads ready ha hn sup (by simp [h0]))
    · exact (exec_csrrc s rd n rs1).trans (csrReg_reads ready ha hn sup (by simp [h0]))
  case immediates =>
    intro old v does
    refine ⟨fun ro t h => ?_, fun h0 => ⟨fun ro t h => ?_, fun ro t h => ?_⟩, fun h0 => ⟨?_, ?_⟩⟩
    · exact (exec_csrrwi s rd n u).trans (csrImm_writes ready hn sup ro rfl h)
    · exact (exec_csrrsi s rd n u).trans (csrImm_writes ready hn sup ro (by simpa using h0) h)
    · exact (exec_csrrci s rd n u).trans (csrImm_writes ready hn sup ro (by simpa using h0) h)
    · exact (exec_csrrsi s rd n u).trans (csrImm_reads ready hn sup (by simp [h0]))
    · exact (exec_csrrci s rd n u).trans (csrImm_reads ready hn sup (by simp [h0]))

end Sys2Proof.Machine
end

section
/-! PROOFS. One step of a block move, of a repeated body, and a region mark (07/R152 to R157). -/

namespace Sys2Proof.Machine

section
variable {s : State} {p : Party} {rd rs1 rs2 : BitVec 5}

/-- Three different registers that are no queue and not x0, with nothing in the access half: a block move may take its step. -/
theorem State.blockPre_ok (w : BitVec 32) (acc : (s.ctx p).acc = []) (different : [rd, rs1, rs2].Nodup)
    (plain : ∀ r ∈ [rd, rs1, rs2], r ≠ 0#5 ∧ r ≠ 28#5 ∧ r ≠ 29#5) : s.blockPre p w rd rs1 rs2 = .val () := by
  simp only [List.nodup_cons, List.mem_cons, List.not_mem_nil, or_false, not_or, not_false_eq_true, List.nodup_nil, and_true] at different
  simp only [List.forall_mem_cons, List.not_mem_nil, false_implies, implies_true, and_true] at plain
  obtain ⟨⟨hd1, hd2⟩, h12⟩ := different
  obtain ⟨⟨d0, d28, d29⟩, ⟨a0, a28, a29⟩, b0, b28, b29⟩ := plain
  have pre : s.exePre p w 0#5 [rd, rs1, rs2] = .val () := s.exePre_ok p w (by decide)
    (by simp [Ne.symm d29, Ne.symm a29, Ne.symm b29]) (Ctx.awaits_nil acc _) (Ctx.pushHeld_x0 _)
  simp [State.blockPre, State.issuePoint, pre, acc, hd1, hd2, h12, d0, d28, d29, a0, a28, a29, b0, b28, b29]

/-- The byte of a register that a fill writes at an address. -/
theorem extract_byte (v : BitVec 64) (k : Nat) : v.extractLsb' (8 * k) 8 = BitVec.ofNat 8 (v.toNat / 2 ^ (8 * k)) := by
  apply BitVec.eq_of_toNat_eq
  simp [Nat.shiftRight_eq_div_pow]

@[simp] theorem Ctx.setReg_sb (c : Ctx) (r : BitVec 5) (v : Reg) : (c.setReg r v).sb = c.sb := by rw [Ctx.setReg_eq]

/-- The record of a party after one byte of a block move: the store and its pointers and count (R152). -/
def Ctx.moved (c : Ctx) (rd rs2 : BitVec 5) (z : Nat) (b : Byte) : Ctx :=
  ((c.store { cells := plainCells [(z, b)] }).setReg rd (stepPtr (c.reg rd))).setReg rs2 (dataReg (capAddr (c.reg rs2) - 1))

theorem State.blockStore_eq (s : State) (p : Party) (rd rs2 : BitVec 5) (z : Nat) (b : Byte) :
    s.blockStore p rd rs2 z b = s.mod p fun c => c.moved rd rs2 z b := rfl

section
variable {c : Ctx} {z : Nat} {b : Byte}

theorem Ctx.moved_pc_sb : (c.moved rd rs2 z b).pc = c.pc ∧
    (c.moved rd rs2 z b).sb = c.sb ++ [{ cells := plainCells [(z, b)] }] := by
  simp [Ctx.moved, Ctx.store]

/-- The destination pointer moves up and the count falls; every other register stays. -/
theorem Ctx.moved_reg (hd : rd ≠ 0#5) (h2 : rs2 ≠ 0#5) (hne : rd ≠ rs2) :
    (c.moved rd rs2 z b).reg rd = stepPtr (c.reg rd) ∧ (c.moved rd rs2 z b).reg rs2 = dataReg (capAddr (c.reg rs2) - 1) ∧
      ∀ r, r ≠ rd → r ≠ rs2 → (c.moved rd rs2 z b).reg r = c.reg r := by
  refine ⟨?_, Ctx.reg_setReg_same _ _ h2, fun r hrd hr2 => ?_⟩
  · exact (Ctx.reg_setReg_other _ _ hne).trans (Ctx.reg_setReg_same _ _ hd)
  · exact (Ctx.reg_setReg_other _ _ hr2).trans (Ctx.reg_setReg_other _ _ hrd)

end

/-- A fill of one byte. -/
theorem execBfill_step {z : Nat} (pre : s.blockPre s.cur (wordBfill rd rs1 rs2) rd rs1 rs2 = .val ())
    (count : capAddr ((s.ctx s.cur).reg rs2) ≠ 0)
    (store : s.storable s.cur ((s.ctx s.cur).reg rd) (capAddr ((s.ctx s.cur).reg rd)).toNat 1 permStore false [z]) :
    execBfill rd rs1 rs2 s = .next (s.blockStore s.cur rd rs2 z (BitVec.ofNat 8
      ((capAddr ((s.ctx s.cur).reg rs1)).toNat / 2 ^ (8 * ((capAddr ((s.ctx s.cur).reg rd)).toNat % 8))))) := by
  obtain ⟨check, place⟩ := store
  simp only [execBfill, pre, Tri.bind_val, if_neg count, check, Tri.unless_none, State.reach_at place, extract_byte, List.headD_cons,
    settle_val]

/-- A move of one byte: a fill with the byte that the party sees, and the source pointer moved up. -/
theorem execBmov_step {z q : Nat} (pre : s.blockPre s.cur (wordBmov rd rs1 rs2) rd rs1 rs2 = .val ())
    (count : capAddr ((s.ctx s.cur).reg rs2) ≠ 0)
    (store : s.storable s.cur ((s.ctx s.cur).reg rd) (capAddr ((s.ctx s.cur).reg rd)).toNat 1 permStore false [z])
    (load : s.loadable s.cur ((s.ctx s.cur).reg rs1) (capAddr ((s.ctx s.cur).reg rs1)).toNat 1 false [q]) :
    execBmov rd rs1 rs2 s = .next ((s.blockStore s.cur rd rs2 z (s.see s.cur q)).mod s.cur fun c =>
      c.setReg rs1 (stepPtr (c.reg rs1))) := by
  obtain ⟨check, place⟩ := store
  obtain ⟨checkLoad, placeLoad, unpoisoned⟩ := load
  simp only [execBmov, pre, Tri.bind_val, if_neg count, check, checkLoad, Tri.unless_none, State.fetchBytes, State.reach_at place,
    State.reach_at placeLoad, State.unpoisoned_ok unpoisoned, List.headD_cons, List.map_cons, settle_val]

/-- A move of no bytes moves on. -/
theorem blockMove_done (preMove : s.blockPre s.cur (wordBmov rd rs1 rs2) rd rs1 rs2 = .val ())
    (preFill : s.blockPre s.cur (wordBfill rd rs1 rs2) rd rs1 rs2 = .val ()) (count : capAddr ((s.ctx s.cur).reg rs2) = 0) :
    execBmov rd rs1 rs2 s = .next (s.advance s.cur) ∧ execBfill rd rs1 rs2 s = .next (s.advance s.cur) := by
  constructor
  · simp only [execBmov, preMove, Tri.bind_val, if_pos count, settle_val]
  · simp only [execBfill, preFill, Tri.bind_val, if_pos count, settle_val]

end

/-! ## The repeated body (R155) -/

section
variable {s : State} {rs1 : BitVec 5} {b : BitVec 32} {f : State → Tri State}

/-- The body is the word fetched at the start of the `rep`, or fetched now. -/
theorem State.bodyWord_val {p : Party}
    (h : (s.ctx p).body = some b ∨ ((s.ctx p).body = none ∧ s.fetchWord p ((s.ctx p).pc + 4) = .val b)) : s.bodyWord p = .val b := by
  unfold State.bodyWord
  rcases h with h | ⟨h, fetched⟩
  · rw [h]
  · rw [h]
    exact fetched

/-- The count of a `rep` is in a register that is no queue. -/
theorem repPlain (h28 : rs1 ≠ 28#5) (ready : s.exeReady 0#5 [rs1]) : (rs1 != 28 && rs1 != 29) = true := by
  obtain ⟨_, h29, _⟩ := ready
  have h29' : rs1 ≠ 29#5 := fun h => h29 (by rw [h]; exact List.mem_singleton_self _)
  rw [Bool.and_eq_true, bne_iff_ne, bne_iff_ne]
  exact ⟨h28, h29'⟩

section
variable (h28 : rs1 ≠ 28#5) (ready : s.exeReady 0#5 [rs1]) (word : s.bodyWord s.cur = .val b) (body : repBody b = some f)
include h28 ready word body

/-- A `rep` with a count of 0 passes over its body. -/
theorem execRep_over (count : capAddr ((s.ctx s.cur).reg rs1) = 0) :
    execRep rs1 s = .next (s.mod s.cur fun x => { x with pc := (s.ctx s.cur).pc + 8, body := none }) := by
  have pre : s.exePre s.cur (wordRep rs1) 0 [rs1] = .val () := State.exePre_ready ready _
  have plain := repPlain h28 ready
  simp only [execRep, plain, pre, word, body, count, Tri.ensure_true, Tri.bind_val, if_true, settle_val]

/-- Any other runs its body once, and lowers the count. -/
theorem execRep_iterates {s1 : State} (count : capAddr ((s.ctx s.cur).reg rs1) ≠ 0) (run : f s = .val s1) :
    execRep rs1 s = .next (s1.mod s.cur fun x =>
      { x.setReg rs1 (dataReg (capAddr ((s.ctx s.cur).reg rs1) - 1)) with body := some b }) := by
  have pre : s.exePre s.cur (wordRep rs1) 0 [rs1] = .val () := State.exePre_ready ready _
  have plain := repPlain h28 ready
  simp only [execRep, plain, pre, word, body, run, if_neg count, Tri.ensure_true, Tri.bind_val, settle_val]

end

end

/-! ## Region marks (R157) -/

/-- The registers that a field xs names (R61). -/
theorem xsReg_eq (xs : BitVec 3) (i : Nat) : xsReg xs i = BitVec.ofNat 5 (4 * xs.toNat + i) := by
  apply BitVec.eq_of_toNat_eq
  have high : (xs ++ 0#2).toNat = 4 * xs.toNat := by
    rw [BitVec.toNat_append]
    simp [Nat.shiftLeft_eq, Nat.mul_comm]
  simp only [xsReg, BitVec.toNat_add, BitVec.toNat_ofNat, high]
  omega

section
variable (f : Firing) (r : Resume) (n drained : Nat)

/-- A mark whose earlier stores have drained takes effect at once. -/
theorem Firing.mark_now (h : n ≤ drained) :
    ({ f with pendingMarks := f.pendingMarks ++ [(r, n)] }.mark drained).record.resume = r := by
  simp [Firing.mark, List.filter_append, h]

/-- Any other is the last of those that wait. -/
theorem Firing.mark_later (h : drained < n) :
    ({ f with pendingMarks := f.pendingMarks ++ [(r, n)] }.mark drained).pendingMarks.getLast? = some (r, n) := by
  unfold Firing.mark
  dsimp only
  split
  · simp [List.filter_append, h]
  · simp

end

/-- The resume record that a region mark makes of the next pc and the four registers of its field (R157). -/
def Ctx.regionMark (c : Ctx) (xs : BitVec 3) : Resume :=
  let r (i : Nat) : Reg := c.reg (BitVec.ofNat 5 (4 * xs.toNat + i))
  { rpc := c.pc + 4, rxs := BitVec.ofNat 5 (4 * xs.toNat), rva := capAddr (r 0), rvb := capAddr (r 1), rvc := capAddr (r 2),
    rvd := capAddr (r 3) }

section
variable {s : State} {xs : BitVec 3} (acc : (s.ctx s.cur).acc = [])
include acc

/-- A region mark takes its place where the access half holds nothing, and reads its registers. -/
theorem rgnPre : s.exePre s.cur (wordRgn xs) 0 [] = .val () ∧ s.regsReady s.cur (xsRegs xs) = .val () :=
  ⟨s.exePre_ok s.cur _ (by decide) (by simp) (Ctx.awaits_nil acc _) (Ctx.pushHeld_x0 _),
    by simp [State.regsReady, Ctx.awaits_nil acc]⟩

/-- In a sheet the mark joins those of the firing; elsewhere it takes cause 0x0F. -/
theorem execRgn_marks (sheet : (s.ctx s.cur).firing.sheet = true) :
    let c := s.ctx s.cur
    let marks := c.firing.pendingMarks ++ [(c.regionMark xs, c.issued)]
    execRgn xs s = .next ((s.setCtx s.cur { c with firing := { c.firing with pendingMarks := marks }.mark c.drained }).advance
      s.cur) := by
  intro c marks
  have count : (s.ctx s.cur).storeCount = (s.ctx s.cur).issued := by simp [Ctx.storeCount, acc]
  have inSheet : Tri.ensure (s.ctx s.cur).firing.sheet 0x0F 0 = .val () := by rw [sheet, Tri.ensure_true]
  obtain ⟨pre, regs⟩ := rgnPre (xs := xs) acc
  simp only [execRgn, pre, regs, inSheet, Tri.bind_val, settleNext_val, Ctx.xs, xsReg_eq, Nat.add_zero, count]
  rfl

theorem execRgn_elsewhere (sheet : (s.ctx s.cur).firing.sheet = false) : execRgn xs s = .next (takeTrap s s.cur 0x0F 0) := by
  obtain ⟨pre, regs⟩ := rgnPre (xs := xs) acc
  simp only [execRgn, pre, regs, sheet, Tri.ensure_false, Tri.bind_val, Tri.bind_trap, settleNext_trap]

end

/-- Settles O21: the steps of the block moves, of the repeated body and of the region mark, each by its own law. -/
theorem blockMovesAndRegionMarks : Obligations.BlockMovesAndRegionMarks := by
  intro s rd rs1 rs2 p c bump
  refine ⟨?blocks, ?rep, ?region⟩
  case blocks =>
    intro acc different plain n a q moves
    have preMove := State.blockPre_ok (wordBmov rd rs1 rs2) acc different plain
    have preFill := State.blockPre_ok (wordBfill rd rs1 rs2) acc different plain
    simp only [List.nodup_cons, List.mem_cons, List.not_mem_nil, or_false, not_or] at different
    simp only [List.forall_mem_cons, List.not_mem_nil] at plain
    obtain ⟨⟨hd1, hd2⟩, h12, _⟩ := different
    obtain ⟨⟨d0, _⟩, ⟨a0, _⟩, ⟨b0, _⟩, _⟩ := plain
    refine ⟨blockMove_done preMove preFill, fun count z w store => ⟨?fill, fun load => ?move⟩⟩
    case fill =>
      refine ⟨_, (exec_bfill s rd rs1 rs2).trans (execBfill_step preFill count store), ?_⟩
      rw [State.blockStore_eq, State.mod_ctx]
      obtain ⟨regD, reg2, others⟩ := Ctx.moved_reg (c := c) (z := z) (b := _) d0 b0 hd2
      obtain ⟨pc, sb⟩ := Ctx.moved_pc_sb (c := c) (rd := rd) (rs2 := rs2) (z := z) (b := _)
      refine ⟨pc, sb, regD, reg2, fun r hr => ?_, s.mod_onlyParty _ _, (others rs1 (Ne.symm hd1) h12).trans (if_neg nofun).symm⟩
      simp only [List.mem_cons, List.not_mem_nil, or_false, not_or] at hr
      exact others r hr.1 hr.2.2
    case move =>
      refine ⟨_, (exec_bmov s rd rs1 rs2).trans (execBmov_step preMove count store load), ?_⟩
      rw [State.mod_ctx, State.blockStore_eq, State.mod_ctx]
      obtain ⟨regD, reg2, others⟩ := Ctx.moved_reg (c := c) (z := z) (b := s.see p w) d0 b0 hd2
      obtain ⟨pc, sb⟩ := Ctx.moved_pc_sb (c := c) (rd := rd) (rs2 := rs2) (z := z) (b := s.see p w)
      have reg1 := others rs1 (Ne.symm hd1) h12
      refine ⟨(Ctx.setReg_pc ..).trans pc, (Ctx.setReg_sb ..).trans sb, (Ctx.reg_setReg_other _ _ hd1).trans regD,
        (Ctx.reg_setReg_other _ _ (Ne.symm h12)).trans reg2, fun r hr => ?_,
        (s.mod_onlyParty _ _).trans (State.mod_onlyParty ..), ?_⟩
      · simp only [List.mem_cons, List.not_mem_nil, or_false, not_or] at hr
        exact (Ctx.reg_setReg_other _ _ hr.2.1).trans (others r hr.1 hr.2.2)
      · rw [if_pos rfl, Ctx.reg_setReg_same _ _ a0]
        exact congrArg stepPtr reg1
  case rep =>
    intro b f h28 ready word body
    refine ⟨fun count => ?_, fun s1 count run => ?_⟩
    · exact (exec_rep s rs1).trans (execRep_over h28 ready (State.bodyWord_val word) body count)
    · exact (exec_rep s rs1).trans (execRep_iterates h28 ready (State.bodyWord_val word) body count run)
  case region =>
    intro xs acc r mark
    refine ⟨fun sheet => ⟨_, (exec_rgn s xs).trans (execRgn_marks acc sheet), ?_⟩, fun sheet =>
      (exec_rgn s xs).trans (execRgn_elsewhere acc sheet)⟩
    rw [State.advance_ctx, State.ctx_setCtx_same]
    exact ⟨rfl, fun _ => rfl, Firing.mark_now _ _ _ _, Firing.mark_later _ _ _ _⟩

end Sys2Proof.Machine
end

section
/-! PROOFS. Sign injection (07/R142), and the floating-point arithmetic with its rounding modes (03/R60; 07/R140, R141). -/

namespace Sys2Proof.Machine

/-! ## Sign injection -/

/-- A sign above n bits of a register. -/
theorem sign_append_toNat (g : Bool) (x : BitVec 64) (n : Nat) :
    (BitVec.ofBool g ++ x.extractLsb' 0 n).toNat = (if g then 2 ^ n else 0) + x.toNat % 2 ^ n := by
  have low : (x.extractLsb' 0 n).toNat < 2 ^ n := (x.extractLsb' 0 n).isLt
  rw [BitVec.toNat_append, Nat.shiftLeft_eq, Nat.mul_comm, ← Nat.two_pow_add_eq_or_of_lt low]
  cases g <;> simp

/-- A number of one bit above n bits, taken modulo a power that keeps that bit, has that bit as its sign. -/
theorem div_mod_two_of_mod (x n : Nat) : (x % 2 ^ (n + 1) / 2 ^ n % 2 == 1) = x.testBit n := by
  rw [Nat.testBit_eq_decide_div_mod_eq, Nat.pow_succ, Nat.mod_mul_right_div_self, Nat.mod_mod]
  rfl

section
variable (f : Fmt) (a b : Nat)

/-- The three signs (R142). -/
theorem Fmt.sgnj_copy : f.sgnj 0 a b = f.code (f.neg b) (f.mag a) := rfl

theorem Fmt.sgnj_inverse : f.sgnj 1 a b = f.code (!f.neg b) (f.mag a) := rfl

theorem Fmt.sgnj_xor : f.sgnj 2 a b = f.code (f.neg a ^^ f.neg b) (f.mag a) := rfl

end

section
variable (a : Reg)

/-- The sign of a register's code is its top bit. -/
theorem neg_fpIn_single : fmtF32.neg (fpIn fmtF32 a) = (capAddr a).getLsbD 31 := div_mod_two_of_mod _ 31

theorem neg_fpIn_double : fmtF64.neg (fpIn fmtF64 a) = (capAddr a).getLsbD 63 := div_mod_two_of_mod _ 63

/-- A code with another sign, in a register. -/
theorem fpOutReg_code_single (g : Bool) : fpOutReg fmtF32 (fmtF32.code g (fmtF32.mag (fpIn fmtF32 a))) =
    dataReg ((BitVec.ofBool g ++ (capAddr a).extractLsb' 0 31 : BitVec 32).signExtend 64) := by
  have bits : BitVec.ofNat 32 (fmtF32.code g (fmtF32.mag (fpIn fmtF32 a))) = BitVec.ofBool g ++ (capAddr a).extractLsb' 0 31 := by
    apply BitVec.eq_of_toNat_eq
    rw [sign_append_toNat]
    simp only [Fmt.code, Fmt.mag, fpIn, Fmt.signBit, Fmt.width, fmtF32, BitVec.toNat_ofNat]
    split <;> omega
  exact congrArg (fun v : BitVec 32 => dataReg (v.signExtend 64)) bits

theorem fpOutReg_code_double (g : Bool) : fpOutReg fmtF64 (fmtF64.code g (fmtF64.mag (fpIn fmtF64 a))) =
    dataReg (BitVec.ofBool g ++ (capAddr a).extractLsb' 0 63) := by
  have bits : BitVec.ofNat 64 (fmtF64.code g (fmtF64.mag (fpIn fmtF64 a))) = BitVec.ofBool g ++ (capAddr a).extractLsb' 0 63 := by
    apply BitVec.eq_of_toNat_eq
    rw [sign_append_toNat]
    simp only [Fmt.code, Fmt.mag, fpIn, Fmt.signBit, Fmt.width, fmtF64, BitVec.toNat_ofNat]
    split <;> omega
  exact congrArg dataReg bits

end

/-- Settles O28: each form gives the bits of rs1 below its sign another sign; sources and destinations leave fcsr as it was. -/
theorem signInjectionForms : Obligations.SignInjectionForms := by
  intro s s1 s2 rd rs1 rs2 a b ready ha hb x y single dbl
  have popped : s.popped s2 s.cur := (State.src_popped ha).1.trans (State.src_popped hb).1
  have fcsr : (s2.ctx s.cur).fcsr = (s.ctx s.cur).fcsr := by
    obtain ⟨_, l, hl⟩ := popped
    rw [hl]
  have form {w : BitVec 32} {f : Fmt} {k : Nat} {v : Reg} (value : fpOutReg f (f.sgnj k (fpIn f a) (fpIn f b)) = v) :
      exe2 w rd rs1 rs2 s (fun a b s1 => .val (fpOutReg f (f.sgnj k (fpIn f a) (fpIn f b)), s1)) = .next (s.wrote s2 rd v) :=
    exe2_ok ready ha hb (by rw [value])
  refine ⟨form ?_, form ?_, form ?_, form ?_, form ?_, form ?_, fcsr, fun v => ?_⟩
  · rw [Fmt.sgnj_copy, fpOutReg_code_single, neg_fpIn_single]
  · rw [Fmt.sgnj_inverse, fpOutReg_code_single, neg_fpIn_single]
  · rw [Fmt.sgnj_xor, fpOutReg_code_single, neg_fpIn_single, neg_fpIn_single]
  · rw [Fmt.sgnj_copy, fpOutReg_code_double, neg_fpIn_double]
  · rw [Fmt.sgnj_inverse, fpOutReg_code_double, neg_fpIn_double]
  · rw [Fmt.sgnj_xor, fpOutReg_code_double, neg_fpIn_double, neg_fpIn_double]
  · obtain ⟨_, l, hl⟩ := popped
    rw [State.wrote_ctx, Ctx.result_onlyRegs, hl]

/-! ## Arithmetic -/

/-- The modes of a form that are none of the five: its own 5 and 6, and a frm of 5 to 7 that it uses (R60). -/
theorem Ctx.rounding_none {c : Ctx} {rm : BitVec 3}
    (h : rm = 5 ∨ rm = 6 ∨ (rm = 7 ∧ 5 ≤ (c.fcsr.extractLsb' 5 3).toNat)) : c.rounding rm = none := by
  have reserved : ∀ m : BitVec 3, 5 ≤ m.toNat → rmOf m = none := by decide
  unfold Ctx.rounding
  rcases h with rfl | rfl | ⟨rfl, frm⟩
  · rfl
  · rfl
  · exact reserved _ frm

/-- The state after a form that rounds: its flags are accrued, and rd receives its code (R60, R140). -/
def State.rounded (s t : State) (rd : BitVec 5) (f : Fmt) (o : FpOut) : State :=
  s.wrote (t.mod s.cur fun x => { x with fcsr := x.fcsr ||| o.flags.setWidth 8 }) rd
    (if f.width = 32 then dataReg ((BitVec.ofNat 32 o.code).signExtend 64) else dataReg (BitVec.ofNat 64 o.code))

theorem State.rounded_eq (s t : State) (rd : BitVec 5) (f : Fmt) (o : FpOut) :
    s.rounded t rd f o = s.wrote (t.accrue s.cur (o.toReg f).2) rd (o.toReg f).1 := rfl

section
variable {w : BitVec 32} {rd rs1 rs2 rs3 : BitVec 5} {rm : BitVec 3} {m : Rm} {s s1 s2 s3 : State} {a b c : Reg}
  (mode : (s.ctx s.cur).rounding rm = some m) (ha : s.gives rs1 a s1)
include mode ha

/-- A form of an operation on codes, over one to three sources. -/
theorem fp1_rounded (f : Fmt) (op : Rm → Nat → FpOut) (ready : s.exeReady rd [rs1]) :
    fp1 w rd rs1 rm s (fun m a => (op m (fpIn f a)).toReg f) = .next (s.rounded s1 rd f (op m (fpIn f a))) := by
  rw [State.rounded_eq]
  exact fp1_ok ready mode ha

variable (hb : s1.src s.cur rs2 = .val (b, s2))
include hb

theorem fp2_rounded (f : Fmt) (op : Rm → Nat → Nat → FpOut) (ready : s.exeReady rd [rs1, rs2]) :
    fp2 w rd rs1 rs2 rm s (fun m a b => (op m (fpIn f a) (fpIn f b)).toReg f) =
      .next (s.rounded s2 rd f (op m (fpIn f a) (fpIn f b))) := by
  rw [State.rounded_eq]
  exact fp2_ok ready mode ha hb

theorem fp3_rounded (hc : s2.src s.cur rs3 = .val (c, s3)) (f : Fmt) (op : Rm → Nat → Nat → Nat → FpOut)
    (ready : s.exeReady rd [rs1, rs2, rs3]) :
    fp3 w rd rs1 rs2 rs3 rm s (fun m a b c => (op m (fpIn f a) (fpIn f b) (fpIn f c)).toReg f) =
      .next (s.rounded s3 rd f (op m (fpIn f a) (fpIn f b) (fpIn f c))) := by
  rw [State.rounded_eq]
  exact fp3_ok ready mode ha hb hc

end

section
variable {w : BitVec 32} {rd rs1 rs2 rs3 : BitVec 5} {rm : BitVec 3} {s : State} (none : (s.ctx s.cur).rounding rm = none)
include none

/-- A form that rounds takes cause 0x01 with its word where its mode is none. -/
theorem fp1_refused {f : Rm → Reg → Reg × BitVec 5} (ready : s.exeReady rd [rs1]) :
    fp1 w rd rs1 rm s f = .next (takeTrap s s.cur 0x01 (w.setWidth 64)) := by
  simp [fp1, State.exePre_ready ready, State.roundMode, none, wordTval]

theorem fp2_refused {f : Rm → Reg → Reg → Reg × BitVec 5} (ready : s.exeReady rd [rs1, rs2]) :
    fp2 w rd rs1 rs2 rm s f = .next (takeTrap s s.cur 0x01 (w.setWidth 64)) := by
  simp [fp2, State.exePre_ready ready, State.roundMode, none, wordTval]

theorem fp3_refused {f : Rm → Reg → Reg → Reg → Reg × BitVec 5} (ready : s.exeReady rd [rs1, rs2, rs3]) :
    fp3 w rd rs1 rs2 rs3 rm s f = .next (takeTrap s s.cur 0x01 (w.setWidth 64)) := by
  simp [fp3, State.exePre_ready ready, State.roundMode, none, wordTval]

end

/-- Settles O27: each form is an operation on the codes of its operands, in the mode that it names. -/
theorem fpArithmeticResults : Obligations.FpArithmeticResults := by
  intro s s1 s2 s3 rd rs1 rs2 rs3 rm m a b c ha hb hc value flags mode one two three
  refine ⟨fun h hm => fp2_rounded hm ha hb fmtF32 fmtF32.fadd h,
    fun h hm => fp2_rounded hm ha hb fmtF64 fmtF64.fadd h,
    fun h hm => fp2_rounded hm ha hb fmtF32 fmtF32.fsub h,
    fun h hm => fp2_rounded hm ha hb fmtF64 fmtF64.fsub h,
    fun h hm => fp2_rounded hm ha hb fmtF32 fmtF32.fmul h,
    fun h hm => fp2_rounded hm ha hb fmtF64 fmtF64.fmul h,
    fun h hm => fp2_rounded hm ha hb fmtF32 fmtF32.fdiv h,
    fun h hm => fp2_rounded hm ha hb fmtF64 fmtF64.fdiv h,
    fun h hm => fp1_rounded hm ha fmtF32 fmtF32.fsqrt h,
    fun h hm => fp1_rounded hm ha fmtF64 fmtF64.fsqrt h,
    fun h hm => fp3_rounded hm ha hb hc fmtF32 (fmtF32.fma · false false) h,
    fun h hm => fp3_rounded hm ha hb hc fmtF64 (fmtF64.fma · false false) h,
    fun h hm => fp3_rounded hm ha hb hc fmtF32 (fmtF32.fma · false true) h,
    fun h hm => fp3_rounded hm ha hb hc fmtF64 (fmtF64.fma · false true) h,
    fun h hm => fp3_rounded hm ha hb hc fmtF32 (fmtF32.fma · true false) h,
    fun h hm => fp3_rounded hm ha hb hc fmtF64 (fmtF64.fma · true false) h,
    fun h hm => fp3_rounded hm ha hb hc fmtF32 (fmtF32.fma · true true) h,
    fun h hm => fp3_rounded hm ha hb hc fmtF64 (fmtF64.fma · true true) h,
    ?refused⟩
  case refused =>
    intro reserved bad
    have refused := Ctx.rounding_none reserved
    refine ⟨fun ready => ?_, fun ready => ?_, fun ready => ?_⟩
    · exact ⟨(exec_fsqrtS ..).trans (fp1_refused refused ready), (exec_fsqrtD ..).trans (fp1_refused refused ready),
        (exec_fcvtWS ..).trans (fp1_refused refused ready), (exec_fcvtWD ..).trans (fp1_refused refused ready),
        (exec_fcvtWuS ..).trans (fp1_refused refused ready), (exec_fcvtWuD ..).trans (fp1_refused refused ready),
        (exec_fcvtLS ..).trans (fp1_refused refused ready), (exec_fcvtLD ..).trans (fp1_refused refused ready),
        (exec_fcvtLuS ..).trans (fp1_refused refused ready), (exec_fcvtLuD ..).trans (fp1_refused refused ready),
        (exec_fcvtSW ..).trans (fp1_refused refused ready), (exec_fcvtSWu ..).trans (fp1_refused refused ready),
        (exec_fcvtSL ..).trans (fp1_refused refused ready), (exec_fcvtSLu ..).trans (fp1_refused refused ready),
        (exec_fcvtDW ..).trans (fp1_refused refused ready), (exec_fcvtDWu ..).trans (fp1_refused refused ready),
        (exec_fcvtDL ..).trans (fp1_refused refused ready), (exec_fcvtDLu ..).trans (fp1_refused refused ready),
        (exec_fcvtSD ..).trans (fp1_refused refused ready), (exec_fcvtDS ..).trans (fp1_refused refused ready)⟩
    · exact ⟨(exec_faddS ..).trans (fp2_refused refused ready), (exec_faddD ..).trans (fp2_refused refused ready),
        (exec_fsubS ..).trans (fp2_refused refused ready), (exec_fsubD ..).trans (fp2_refused refused ready),
        (exec_fmulS ..).trans (fp2_refused refused ready), (exec_fmulD ..).trans (fp2_refused refused ready),
        (exec_fdivS ..).trans (fp2_refused refused ready), (exec_fdivD ..).trans (fp2_refused refused ready)⟩
    · exact ⟨(exec_fmaddS ..).trans (fp3_refused refused ready), (exec_fmaddD ..).trans (fp3_refused refused ready),
        (exec_fmsubS ..).trans (fp3_refused refused ready), (exec_fmsubD ..).trans (fp3_refused refused ready),
        (exec_fnmsubS ..).trans (fp3_refused refused ready), (exec_fnmsubD ..).trans (fp3_refused refused ready),
        (exec_fnmaddS ..).trans (fp3_refused refused ready), (exec_fnmaddD ..).trans (fp3_refused refused ready)⟩

end Sys2Proof.Machine
end

section
/-! PROOFS. The order of floating-point codes, their classes, and the conversions to and from integers (07/R143, R144). -/

namespace Sys2Proof.Machine

/-! ## The order of codes (R143) -/

/-- The place of a code among the others: its magnitude bits with its sign. -/
def Fmt.key (f : Fmt) (c : Nat) : Int := if f.neg c then -(f.mag c : Int) else f.mag c

/-- The value at a place, as if the exponent range were unbounded above. -/
def Fmt.keyVal (f : Fmt) (k : Int) : ℚ := withSign (decide (k < 0)) (f.magVal k.natAbs)

section
variable {f : Fmt} {a b c : Nat}

theorem Fmt.keyVal_neg (k : Int) : f.keyVal (-k) = -f.keyVal k := by
  unfold Fmt.keyVal
  rw [Int.natAbs_neg]
  rcases lt_trichotomy k 0 with h | rfl | h
  · simp [h, h.not_gt]
  · simp
  · simp [h, h.not_gt]

/-- The values of the places are in the order of the places. -/
theorem Fmt.keyVal_strictMono (f : Fmt) : StrictMono f.keyVal := by
  refine strictMono_of_odd_strictMonoOn_nonneg Fmt.keyVal_neg fun j hj k hk hjk => ?_
  rw [Set.mem_Ici] at hj hk
  unfold Fmt.keyVal
  simp only [hj.not_gt, hk.not_gt, decide_false, withSign_false]
  exact f.magVal_strictMono (by omega)

theorem Fmt.keyVal_natCast (k : Nat) : f.keyVal k = f.magVal k := by
  rw [Fmt.keyVal, decide_eq_false (by omega), withSign_false, Int.natAbs_natCast]

theorem Fmt.withSign_magVal (f : Fmt) (c : Nat) : withSign (f.neg c) (f.magVal (f.mag c)) = f.keyVal (f.key c) := by
  unfold Fmt.key
  cases f.neg c with
  | false => rw [if_neg Bool.false_ne_true, Fmt.keyVal_natCast, withSign_false]
  | true => rw [if_pos rfl, Fmt.keyVal_neg, Fmt.keyVal_natCast, withSign_true]

theorem Fmt.natAbs_key : (f.key c).natAbs = f.mag c := by
  unfold Fmt.key
  split <;> simp

/-- Of two codes one of which is below the other, the smaller and the larger, in either order. -/
theorem Fmt.minmax_of_below (ha : f.isNan a = false) (hb : f.isNan b = false) (below : f.below a b = true) (above : f.below b a = false) :
    (f.minmax false a b).code = a ∧ (f.minmax true a b).code = b ∧ (f.minmax false b a).code = a ∧ (f.minmax true b a).code = b := by
  simp [Fmt.minmax, ha, hb, below, above]

section
variable (proper : f.proper) (ieee : f.special = .ieee)
include proper ieee

/-- A code that is no NaN is an infinity of the largest magnitude, or a finite value below it. -/
theorem Fmt.num_of_not_nan (h : f.isNan a = false) : (f.num a = .inf (f.neg a) ∧ f.mag a = f.infMag) ∨
    ((f.num a).HasVal (f.keyVal (f.key a)) ∧ f.mag a < f.infMag) := by
  have positive := proper.infMag_pos
  have le : f.mag a ≤ f.infMag := by simpa [Fmt.isNan, ieee] using h
  rcases le.lt_or_eq with lt | eq
  · refine .inr ⟨?_, lt⟩
    rw [← f.withSign_magVal]
    exact proper.num_finite (by rw [Fmt.maxMag, ieee]; exact Nat.le_sub_one_of_lt lt)
  · exact .inl ⟨by simp [Fmt.num, h, Fmt.isInf, ieee, eq], eq⟩

/-- Codes that are no NaNs compare as their places do: an infinity lies beyond every finite value of its sign. -/
theorem Fmt.num_lt (ha : f.isNan a = false) (hb : f.isNan b = false) :
    (f.num a).lt (f.num b) = decide (f.key a < f.key b) := by
  have positive := proper.infMag_pos
  rcases Fmt.num_of_not_nan proper ieee ha with ⟨numA, magA⟩ | ⟨valA, magA⟩ <;>
    rcases Fmt.num_of_not_nan proper ieee hb with ⟨numB, magB⟩ | ⟨valB, magB⟩
  · rw [numA, numB, Fmt.key, Fmt.key, magA, magB]
    cases f.neg a <;> cases f.neg b <;> simp [Num.lt, positive]
  · obtain ⟨t, n, g, numB, _⟩ := valB
    rw [numA, numB, Fmt.key, magA]
    have near : (f.key b).natAbs < f.infMag := by rwa [Fmt.natAbs_key]
    cases f.neg a <;> simp [Num.lt] <;> omega
  · obtain ⟨s, m, e, numA, _⟩ := valA
    rw [numA, numB, Fmt.key.eq_def f b, magB]
    have near : (f.key a).natAbs < f.infMag := by rwa [Fmt.natAbs_key]
    cases f.neg b <;> simp [Num.lt] <;> omega
  · rw [valA.lt valB]
    exact decide_eq_decide.mpr f.keyVal_strictMono.lt_iff_lt

theorem Fmt.num_eq (ha : f.isNan a = false) (hb : f.isNan b = false) :
    (f.num a).eq (f.num b) = decide (f.key a = f.key b) := by
  have numA : f.num a ≠ .nan := fun h => by simp [Fmt.isNan_of_num h] at ha
  have numB : f.num b ≠ .nan := fun h => by simp [Fmt.isNan_of_num h] at hb
  rw [Num.eq, Fmt.num_lt proper ieee ha hb, Fmt.num_lt proper ieee hb ha, bne_iff_ne.mpr numA, bne_iff_ne.mpr numB]
  rw [Bool.eq_iff_iff]
  simp
  omega

/-- The three relations of codes that are no NaNs. -/
theorem Fmt.compare_key (ha : f.isNan a = false) (hb : f.isNan b = false) :
    (f.compare 0 a b).code = (if f.key a = f.key b then 1 else 0) ∧ (f.compare 1 a b).code = (if f.key a < f.key b then 1 else 0) ∧
      (f.compare 2 a b).code = (if f.key a ≤ f.key b then 1 else 0) := by
  simp only [Fmt.compare, ha, hb, Fmt.num_lt proper ieee ha hb, Fmt.num_eq proper ieee ha hb, Bool.or_self, Bool.not_false, Bool.true_and,
    Bool.or_eq_true, decide_eq_true_eq, le_iff_lt_or_eq, and_self]

/-- A code is below another where its place is, or where it is −0 and the other +0. -/
theorem Fmt.below_key (ha : f.isNan a = false) (hb : f.isNan b = false) :
    f.below a b = true ↔ f.key a < f.key b ∨ f.key a = f.key b ∧ f.neg a = true ∧ f.neg b = false := by
  simp only [Fmt.below, Fmt.num_lt proper ieee ha hb, Fmt.num_eq proper ieee ha hb, Bool.or_eq_true, Bool.and_eq_true, decide_eq_true_eq,
    Bool.not_eq_true', and_assoc]

theorem Fmt.minmax_of_lt (ha : f.isNan a = false) (hb : f.isNan b = false) (lt : f.key a < f.key b) :
    (f.minmax false a b).code = a ∧ (f.minmax true a b).code = b ∧ (f.minmax false b a).code = a ∧ (f.minmax true b a).code = b := by
  refine Fmt.minmax_of_below ha hb ((Fmt.below_key proper ieee ha hb).mpr (.inl lt)) ?_
  rw [Bool.eq_false_iff, Ne, Fmt.below_key proper ieee hb ha]
  omega

/-- −0 is the smaller of the two zeros; of other codes at one place both are the same code. -/
theorem Fmt.minmax_of_eq (ha : f.isNan a = false) (hb : f.isNan b = false) (hac : a < 2 ^ f.width) (hbc : b < 2 ^ f.width)
    (eq : f.key a = f.key b) (negative : f.neg a = true) :
    (f.minmax false a b).code = a ∧ (f.minmax true a b).code = b ∧ (f.minmax false b a).code = a ∧ (f.minmax true b a).code = b := by
  cases other : f.neg b with
  | false =>
    refine Fmt.minmax_of_below ha hb ((Fmt.below_key proper ieee ha hb).mpr (.inr ⟨eq, negative, other⟩)) ?_
    rw [Bool.eq_false_iff, Ne, Fmt.below_key proper ieee hb ha]
    simp [eq, other]
  | true =>
    have mag : f.mag a = f.mag b := by simpa [Fmt.key, negative, other] using eq
    have same : a = b := by rw [← Fmt.code_neg_mag hac, ← Fmt.code_neg_mag hbc, negative, other, mag]
    subst same
    simp [Fmt.minmax, ha]

end

/-! ## Fields and classes -/

theorem Fmt.signBit_eq : f.signBit = 2 ^ (f.width - 1) := by
  rw [Fmt.signBit, Fmt.width]
  congr 1
  omega

/-- The sign of a code is its top bit. -/
theorem Fmt.neg_eq_decide (hc : c < 2 ^ f.width) : f.neg c = decide (2 ^ (f.width - 1) ≤ c) := by
  have width : f.width = f.width - 1 + 1 := by
    unfold Fmt.width
    omega
  have quotient : c / 2 ^ (f.width - 1) < 2 := by
    rw [Nat.div_lt_iff_lt_mul (Nat.two_pow_pos _), ← Nat.pow_succ', Nat.succ_eq_add_one, ← width]
    exact hc
  rw [Fmt.neg, Fmt.signBit_eq, Bool.eq_iff_iff, beq_iff_eq, decide_eq_true_iff, Nat.mod_eq_of_lt quotient]
  have := Nat.le_div_iff_mul_le (x := 1) (y := c) (Nat.two_pow_pos (f.width - 1))
  omega

theorem Fmt.exp_lt : f.exp c < 2 ^ f.ebits := Nat.mod_lt _ (Nat.two_pow_pos _)

theorem Fmt.man_lt : f.man c < 2 ^ f.mbits := Nat.mod_lt _ (Nat.two_pow_pos _)

theorem Fmt.mag_fields : f.mag c = f.exp c * 2 ^ f.mbits + f.man c := by
  rw [Fmt.exp_eq_mag_div, Fmt.man_eq_mag_mod, Nat.div_add_mod']

theorem Fmt.mag_eq_zero : f.mag c = 0 ↔ f.exp c = 0 ∧ f.man c = 0 := by
  rw [Fmt.mag_fields, Nat.add_eq_zero_iff, Nat.mul_eq_zero]
  simp

section
variable (ieee : f.special = .ieee)
include ieee

/-- A code is a NaN or an infinity by its exponent and mantissa fields (R102). -/
theorem Fmt.isNan_fields : f.isNan c = decide (f.exp c = 2 ^ f.ebits - 1 ∧ f.man c ≠ 0) := by
  have exp := f.exp_lt (c := c)
  have man := f.man_lt (c := c)
  have positive := Nat.two_pow_pos f.mbits
  simp only [Fmt.isNan, ieee, Fmt.mag_fields, Fmt.infMag, decide_eq_decide]
  constructor
  · intro h
    have : f.exp c = 2 ^ f.ebits - 1 := by
      by_contra ne
      have le : (f.exp c + 1) * 2 ^ f.mbits ≤ (2 ^ f.ebits - 1) * 2 ^ f.mbits := Nat.mul_le_mul_right _ (by omega)
      rw [Nat.succ_mul] at le
      omega
    rw [this] at h
    omega
  · rintro ⟨eq, ne⟩
    rw [eq]
    omega

theorem Fmt.isInf_fields : f.isInf c = decide (f.exp c = 2 ^ f.ebits - 1 ∧ f.man c = 0) := by
  have man := f.man_lt (c := c)
  have positive := Nat.two_pow_pos f.mbits
  rw [Fmt.isInf, ieee, beq_self_eq_true, Bool.true_and, Bool.eq_iff_iff, beq_iff_eq, decide_eq_true_iff, Fmt.mag_fields, Fmt.infMag]
  constructor
  · intro h
    have top : f.exp c = 2 ^ f.ebits - 1 := by
      have := congrArg (· / 2 ^ f.mbits) h
      simpa [Nat.add_div_of_dvd_right, Nat.mul_div_cancel _ positive, Nat.div_eq_of_lt man] using this
    rw [top] at h
    exact ⟨top, by omega⟩
  · rintro ⟨top, zero⟩
    rw [top, zero, Nat.add_zero]

end

/-- A NaN whose top mantissa bit is 0 is signalling. -/
theorem Fmt.isSnan_fields (proper : f.proper) : f.isSnan c = (f.isNan c && decide (f.man c < 2 ^ (f.mbits - 1))) := by
  have bits : 2 ^ f.mbits = 2 ^ (f.mbits - 1) * 2 := by
    rw [← Nat.pow_succ, Nat.succ_eq_add_one, Nat.sub_add_cancel proper.2]
  have top : c / 2 ^ (f.mbits - 1) % 2 = f.man c / 2 ^ (f.mbits - 1) := by
    rw [Fmt.man, bits, Nat.mod_mul_right_div_self]
  rw [Fmt.isSnan, top, Bool.beq_eq_decide_eq]
  simp only [Nat.div_eq_zero_iff_lt (Nat.two_pow_pos _)]

/-- The class of a code is one bit of ten. -/
theorem Fmt.fclass_one_bit (f : Fmt) (c : Nat) : ∃ k, k < 10 ∧ f.fclass c = 2 ^ k := by
  refine ⟨_, ?_, rfl⟩
  repeat' split
  all_goals omega

/-- The class of a code by its fields (R143). -/
theorem Fmt.fclass_fields (proper : f.proper) (ieee : f.special = .ieee) :
    f.fclass c = 2 ^ (if f.exp c = 2 ^ f.ebits - 1 then (if f.man c = 0 then (if f.neg c then 0 else 7)
        else if f.man c < 2 ^ (f.mbits - 1) then 8 else 9)
      else if f.exp c = 0 then (if f.man c = 0 then (if f.neg c then 3 else 4) else if f.neg c then 2 else 5)
      else if f.neg c then 1 else 6) := by
  have top : 0 ≠ 2 ^ f.ebits - 1 := (Nat.sub_pos_of_lt (Nat.one_lt_two_pow proper.1.ne')).ne
  simp only [Fmt.fclass, Fmt.isSnan_fields proper, Fmt.isNan_fields ieee, Fmt.isInf_fields ieee, Fmt.mag_eq_zero]
  by_cases exp : f.exp c = 2 ^ f.ebits - 1
  · by_cases man : f.man c = 0 <;> simp [exp, man]
  · by_cases zero : f.exp c = 0
    · by_cases man : f.man c = 0 <;> simp [zero, man, top]
    · simp [exp, zero]

/-! ## NaN operands and flags -/

/-- A relation with a NaN does not hold. -/
theorem Fmt.compare_nan (k : Nat) (h : f.isNan a = true ∨ f.isNan b = true) : (f.compare k a b).code = 0 := by
  have nan : (f.isNan a || f.isNan b) = true := by simpa using h
  simp [Fmt.compare, nan]

theorem Fmt.minmax_nan_one (w : Bool) (ha : f.isNan a = true) (hb : f.isNan b = false) :
    (f.minmax w a b).code = b ∧ (f.minmax w b a).code = b := by
  simp [Fmt.minmax, ha, hb]

theorem Fmt.minmax_nan_both (w : Bool) (ha : f.isNan a = true) (hb : f.isNan b = true) : (f.minmax w a b).code = f.nan := by
  simp [Fmt.minmax, ha, hb]

theorem Fmt.minmax_flags (w : Bool) : (f.minmax w a b).flags = if f.isSnan a || f.isSnan b then 0x10 else 0 := by
  unfold Fmt.minmax
  dsimp only
  split
  · rfl
  · split
    · rfl
    · split <;> rfl

end

/-! ## Conversions (R144) -/

section
variable {f : Fmt} {rm : Rm} {neg : Bool} {s m x : Nat} {t : ℚ} {e lo hi : Int}

/-- Rounding away from zero happens between two integers alone. -/
theorem ne_zero_of_roundsAway (h : roundsAway rm neg s t = true) : t ≠ 0 := by
  rintro rfl
  rw [roundsAway_zero] at h
  cases h

/-- The rounded magnitude is one of the two integers around the value. -/
theorem roundedTo_near (h0 : 0 ≤ t) (h1 : t < 1) : |(roundedTo rm neg s t : ℚ) - (s + t)| < 1 ∧
    ((roundedTo rm neg s t : ℚ) = s + t ↔ t = 0) := by
  rcases roundedTo_cases (rm := rm) (neg := neg) (s := s) (t := t) with ⟨away, hk⟩ | ⟨_, hk⟩ <;> rw [hk]
  · have positive := h0.lt_of_ne (ne_zero_of_roundsAway away).symm
    push_cast
    rw [abs_of_nonneg (by linarith)]
    exact ⟨by linarith, fun h => by linarith, fun h => by linarith⟩
  · rw [sub_add_cancel_left, abs_neg, abs_of_nonneg h0]
    exact ⟨h1, fun h => by linarith, fun h => by linarith⟩

/-- The directed modes go to one side. -/
theorem roundedTo_directed (h0 : 0 ≤ t) (h1 : t < 1) : ((roundedTo .rtz neg s t : ℚ) ≤ s + t) ∧
    withSign neg (roundedTo .rdn neg s t : ℚ) ≤ withSign neg (s + t) ∧
    withSign neg (s + t) ≤ withSign neg (roundedTo .rup neg s t : ℚ) := by
  have low : (s : ℚ) ≤ s + t := by linarith
  have high : (s : ℚ) + t ≤ (s + 1 : Nat) := by push_cast; linarith
  by_cases exact : t = 0
  · subst exact
    simp
  · refine ⟨low, ?_, ?_⟩
    · cases neg <;> simp only [roundedTo, roundsAway, exact, withSign_false, withSign_true, Bool.false_and, Bool.true_and, Bool.false_eq_true, ne_eq,
        not_false_eq_true, decide_true, if_true, if_false]
      · exact low
      · exact neg_le_neg high
    · cases neg <;> simp only [roundedTo, roundsAway, exact, withSign_false, withSign_true, Bool.not_false, Bool.not_true, Bool.false_and,
        Bool.true_and, Bool.false_eq_true, ne_eq, not_false_eq_true, decide_true, if_true, if_false]
      · exact high
      · exact neg_le_neg low

/-- A tie in the mode away from zero goes to the larger magnitude. -/
theorem roundedTo_rmm_near (h0 : 0 ≤ t) (h1 : t < 1) : 2 * |(roundedTo .rmm neg s t : ℚ) - (s + t)| ≤ 1 ∧
    (2 * |(roundedTo .rmm neg s t : ℚ) - (s + t)| = 1 → (s : ℚ) + t < roundedTo .rmm neg s t) := by
  rcases roundedTo_cases (rm := .rmm) (neg := neg) (s := s) (t := t) with ⟨away, hk⟩ | ⟨toward, hk⟩ <;> rw [hk]
  · have half : 1 / 2 ≤ t := of_decide_eq_true away
    push_cast
    rw [abs_of_nonneg (by linarith)]
    exact ⟨by linarith, fun h => by linarith⟩
  · have half : ¬1 / 2 ≤ t := of_decide_eq_false toward
    rw [sub_add_cancel_left, abs_neg, abs_of_nonneg h0]
    exact ⟨by linarith, fun h => by linarith⟩

/-- A value rounded to an integer: its sign stays, its magnitude is rounded, and it is inexact where a part of it is lost. -/
theorem roundInt_exact_spec (rm : Rm) (neg : Bool) (m : Nat) (e : Int) : ∃ (s : Nat) (t : ℚ), 0 ≤ t ∧ t < 1 ∧
    ratVal neg m e = withSign neg (s + t) ∧ ((roundInt rm neg m e).1 : ℚ) = withSign neg (roundedTo rm neg s t) ∧
    (roundInt rm neg m e).2 = decide (t ≠ 0) := by
  obtain ⟨s, t, h0, h1, hval, hround⟩ := roundAt_spec rm neg m e 0
  rw [zpow_zero, mul_one] at hval
  refine ⟨s, t, h0, h1, by rw [ratVal_eq_withSign, hval], ?_, by rw [roundInt, hround]⟩
  rw [roundInt, hround]
  cases neg <;> simp

/-- The integer that a value rounds to, in each mode. -/
theorem roundInt_modes (rm : Rm) (neg : Bool) (m : Nat) (e : Int) :
    let v := ratVal neg m e
    let r : ℚ := (roundInt rm neg m e).1
    |r - v| < 1 ∧ ((roundInt rm neg m e).2 = false ↔ r = v) ∧ (rm = .rtz → |r| ≤ |v|) ∧ (rm = .rdn → r ≤ v) ∧ (rm = .rup → v ≤ r) ∧
      (rm = .rne ∨ rm = .rmm → 2 * |r - v| ≤ 1 ∧
        (2 * |r - v| = 1 → if rm = .rne then (roundInt rm neg m e).1 % 2 = 0 else |v| < |r|)) := by
  intro v r
  obtain ⟨s, t, h0, h1, hv, hr, inexact⟩ := roundInt_exact_spec rm neg m e
  have hv : v = withSign neg (s + t) := hv
  have hr : r = withSign neg (roundedTo rm neg s t) := hr
  have distance : |r - v| = |(roundedTo rm neg s t : ℚ) - (s + t)| := by rw [hr, hv, withSign_sub, abs_withSign]
  have sizeV : |v| = s + t := by rw [hv, abs_withSign, abs_of_nonneg (by positivity)]
  have sizeR : |r| = roundedTo rm neg s t := by rw [hr, abs_withSign, Nat.abs_cast]
  obtain ⟨near, whole⟩ := roundedTo_near (rm := rm) (neg := neg) (s := s) h0 h1
  obtain ⟨zero, down, up⟩ := roundedTo_directed (neg := neg) (s := s) h0 h1
  refine ⟨distance ▸ near, ?_, ?_, ?_, ?_, ?_⟩
  · rw [inexact, hr, hv, withSign_inj, whole, decide_eq_false_iff_not, not_not]
  · rintro rfl
    rw [sizeR, sizeV]
    exact zero
  · rintro rfl
    rw [hr, hv]
    exact down
  · rintro rfl
    rw [hr, hv]
    exact up
  · rintro (rfl | rfl)
    · exact roundInt_rne_near neg m e
    · rw [distance, sizeV, sizeR]
      exact roundedTo_rmm_near h0 h1

/-- A conversion between formats (R113). -/
theorem Fmt.convert_fin (f g : Fmt) (h : f.num x = .fin neg m e) : f.convert g rm x = g.finish rm neg m e := by
  have quiet : f.isSnan x = false := f.isSnan_of_hasVal ⟨_, _, _, h, rfl⟩
  simp [Fmt.convert, Fmt.result, h, quiet]

theorem Fmt.convert_inf (f g : Fmt) (h : f.num x = .inf neg) : f.convert g rm x = ⟨g.code neg g.infMag, 0⟩ := by
  have notNan : f.isNan x = false := Fmt.isNan_of_num_ne (by rw [h]; nofun)
  simp [Fmt.convert, Fmt.result, h, Fmt.isSnan, notNan]

theorem Fmt.convert_nan (f g : Fmt) (h : f.num x = .nan) : f.convert g rm x = ⟨g.nan, if f.isSnan x then 0x10 else 0⟩ := by
  simp [Fmt.convert, Fmt.result, h, flagNV]

/-- A conversion to an integer of a range, by what its operand is. -/
theorem Fmt.toInt_nan (f : Fmt) (h : f.num x = .nan) : f.toInt rm lo hi x = (hi, 0x10) := by
  rw [Fmt.toInt, h]
  rfl

theorem Fmt.toInt_inf (f : Fmt) (h : f.num x = .inf neg) : f.toInt rm lo hi x = (if neg then lo else hi, 0x10) := by
  rw [Fmt.toInt, h]
  rfl

theorem Fmt.toInt_fin (f : Fmt) (h : f.num x = .fin neg m e) :
    f.toInt rm lo hi x = if (roundInt rm neg m e).1 < lo then (lo, 0x10) else if hi < (roundInt rm neg m e).1 then (hi, 0x10)
      else ((roundInt rm neg m e).1, if (roundInt rm neg m e).2 then 1 else 0) := by
  rw [Fmt.toInt, h]
  rfl

end

/-- An integer in a register for an integer side (R144). -/
def IntKind.toReg (k : IntKind) (v : Int) : Reg :=
  if k = .w ∨ k = .wu then dataReg ((BitVec.ofInt 32 v).signExtend 64) else dataReg (BitVec.ofInt 64 v)

theorem fpToInt_eq (f : Fmt) (k : IntKind) (m : Rm) (a : Nat) :
    fpToInt f k m a = (k.toReg (f.toInt m k.range.1 k.range.2 a).1, (f.toInt m k.range.1 k.range.2 a).2) := by
  cases k <;> rfl

theorem Ctx.rounding_zero (c : Ctx) : c.rounding 0 = some .rne := rfl

section
variable {w : BitVec 32} {rd rs1 rs2 : BitVec 5} {rm : BitVec 3} {m : Rm} {s s1 s2 : State} {a b : Reg}

/-- A comparison's integer result, with its flags. -/
theorem fp2_compared (f : Fmt) (k : Nat) (ha : s.gives rs1 a s1) (hb : s1.src s.cur rs2 = .val (b, s2)) (ready : s.exeReady rd [rs1, rs2]) :
    fp2 w rd rs1 rs2 0 s (fun _ a b => (f.compare k (fpIn f a) (fpIn f b)).toInt) =
      .next (s.wrote (s2.mod s.cur fun x => { x with fcsr := x.fcsr ||| (f.compare k (fpIn f a) (fpIn f b)).flags.setWidth 8 }) rd
        (dataReg (BitVec.ofNat 64 (f.compare k (fpIn f a) (fpIn f b)).code))) :=
  fp2_ok ready (Ctx.rounding_zero _) ha hb

theorem exe1_classed (f : Fmt) (ha : s.gives rs1 a s1) (ready : s.exeReady rd [rs1]) :
    exe1 w rd rs1 s (fun a s1 => .val (dataReg (BitVec.ofNat 64 (f.fclass (fpIn f a))), s1)) =
      .next (s.wrote s1 rd (dataReg (BitVec.ofNat 64 (f.fclass (fpIn f a))))) :=
  exe1_ok ready ha rfl

variable (ready : s.exeReady rd [rs1]) (mode : (s.ctx s.cur).rounding rm = some m) (ha : s.gives rs1 a s1)
include ready mode ha

/-- A conversion to an integer. -/
theorem fp1_toInt (f : Fmt) (k : IntKind) {v : Int} {fl : BitVec 5} (h : f.toInt m k.range.1 k.range.2 (fpIn f a) = (v, fl)) :
    fp1 w rd rs1 rm s (fun m a => fpToInt f k m (fpIn f a)) =
      .next (s.wrote (s1.mod s.cur fun c => { c with fcsr := c.fcsr ||| fl.setWidth 8 }) rd (k.toReg v)) := by
  rw [fp1_ok ready mode ha, fpToInt_eq, h]
  rfl

/-- A conversion to a floating-point format. -/
theorem fp1_toFmt (f : Fmt) (o : Rm → Reg → FpOut) :
    fp1 w rd rs1 rm s (fun m a => (o m a).toReg f) =
      .next (s.wrote (s1.mod s.cur fun c => { c with fcsr := c.fcsr ||| (o m a).flags.setWidth 8 }) rd (fpOutReg f (o m a).code)) :=
  fp1_ok ready mode ha

end

/-- Settles O29: comparisons by the order of codes, classes by fields, conversions by the rounding of exact values. -/
theorem fpComparisonsAndConversions : Obligations.FpComparisonsAndConversions := by
  refine ⟨⟨?forms, ?codes⟩, ?conversions⟩
  case forms =>
    intro s s1 s2 rd rs1 rs2 a b ha hb value two
    have least : (s.ctx s.cur).rounding 0 = some .rne := Ctx.rounding_zero _
    exact ⟨fun r => (exec_fminS ..).trans (fp2_rounded least ha hb fmtF32 (fun _ => fmtF32.minmax false) r),
      fun r => (exec_fminD ..).trans (fp2_rounded least ha hb fmtF64 (fun _ => fmtF64.minmax false) r),
      fun r => (exec_fmaxS ..).trans (fp2_rounded least ha hb fmtF32 (fun _ => fmtF32.minmax true) r),
      fun r => (exec_fmaxD ..).trans (fp2_rounded least ha hb fmtF64 (fun _ => fmtF64.minmax true) r),
      fun r => (exec_feqS ..).trans (fp2_compared fmtF32 0 ha hb r),
      fun r => (exec_feqD ..).trans (fp2_compared fmtF64 0 ha hb r),
      fun r => (exec_fltS ..).trans (fp2_compared fmtF32 1 ha hb r),
      fun r => (exec_fltD ..).trans (fp2_compared fmtF64 1 ha hb r),
      fun r => (exec_fleS ..).trans (fp2_compared fmtF32 2 ha hb r),
      fun r => (exec_fleD ..).trans (fp2_compared fmtF64 2 ha hb r),
      fun r => (exec_fclassS ..).trans (exe1_classed fmtF32 ha r),
      fun r => (exec_fclassD ..).trans (exe1_classed fmtF64 ha r)⟩
  case codes =>
    intro f hf a b
    have proper : f.proper := by
      revert f
      decide
    have ieee : f.special = .ieee := by
      revert f
      decide
    refine ⟨f.fclass_one_bit a, fun h => ⟨Fmt.compare_nan 0 h, Fmt.compare_nan 1 h, Fmt.compare_nan 2 h⟩, rfl, rfl, rfl,
      fun w => Fmt.minmax_nan_one w, fun w => Fmt.minmax_nan_both w, fun w => Fmt.minmax_flags w, ?_⟩
    intro sign mag ex man top key hac hbc
    have sign_eq (c : Nat) (hc : c < 2 ^ f.width) : sign c = f.neg c := (Fmt.neg_eq_decide hc).symm
    have mag_eq (c : Nat) : mag c = f.mag c := by rw [Fmt.mag, Fmt.signBit_eq]
    have ex_eq (c : Nat) : ex c = f.exp c := by rw [Fmt.exp_eq_mag_div, ← mag_eq]
    have key_eq (c : Nat) (hc : c < 2 ^ f.width) : key c = f.key c := by
      rw [Fmt.key, ← sign_eq c hc, ← mag_eq]
    rw [key_eq a hac, key_eq b hbc, sign_eq a hac, ex_eq]
    refine ⟨Fmt.isNan_fields ieee, Fmt.isSnan_fields proper, fun ha hb => ?_, Fmt.fclass_fields proper ieee⟩
    obtain ⟨equal, less, lessEqual⟩ := Fmt.compare_key proper ieee ha hb
    exact ⟨equal, less, lessEqual, Fmt.minmax_of_lt proper ieee ha hb, Fmt.minmax_of_eq proper ieee ha hb hac hbc⟩
  case conversions =>
    intro s s1 rd rs1 rm m a ready ha mode x out toInt ofInt
    have toInt_form {w : BitVec 32} {i : Instr} {f : Fmt} {k : IntKind}
        (h : exec i s = fp1 w rd rs1 rm s fun m a => fpToInt f k m (fpIn f a)) : toInt i f k := by
      refine ⟨fun nan => ?_, fun neg inf => ?_, fun neg mant e fin => ⟨fun below => ?_, fun above => ?_, fun low high => ?_⟩⟩
      · exact h.trans (fp1_toInt ready mode ha f k (f.toInt_nan nan))
      · exact h.trans (fp1_toInt ready mode ha f k (f.toInt_inf inf))
      · refine h.trans (fp1_toInt ready mode ha f k ?_)
        rw [f.toInt_fin fin, if_pos below]
      · have range : k.range.1 ≤ k.range.2 := by cases k <;> decide
        refine h.trans (fp1_toInt ready mode ha f k ?_)
        rw [f.toInt_fin fin, if_neg (range.trans above.le).not_gt, if_pos above]
      · refine h.trans (fp1_toInt ready mode ha f k ?_)
        rw [f.toInt_fin fin, if_neg low.not_gt, if_neg high.not_gt]
    have ofInt_form {w : BitVec 32} {i : Instr} {f : Fmt} (k : IntKind)
        (h : exec i s = fp1 w rd rs1 rm s fun m a => (f.ofInt m (k.read (capAddr a))).toReg f) : ofInt i f (k.read x) :=
      h.trans (fp1_toFmt ready mode ha f fun m a => f.ofInt m (k.read (capAddr a)))
    refine ⟨toInt_form (exec_fcvtWS ..), toInt_form (exec_fcvtWD ..), toInt_form (exec_fcvtWuS ..), toInt_form (exec_fcvtWuD ..),
      toInt_form (exec_fcvtLS ..), toInt_form (exec_fcvtLD ..), toInt_form (exec_fcvtLuS ..), toInt_form (exec_fcvtLuD ..),
      ofInt_form .w (exec_fcvtSW ..), ofInt_form .wu (exec_fcvtSWu ..), ofInt_form .l (exec_fcvtSL ..), ofInt_form .lu (exec_fcvtSLu ..),
      ofInt_form .w (exec_fcvtDW ..), ofInt_form .wu (exec_fcvtDWu ..), ofInt_form .l (exec_fcvtDL ..), ofInt_form .lu (exec_fcvtDLu ..),
      (exec_fcvtSD ..).trans (fp1_toFmt ready mode ha fmtF32 fun m a => fmtF64.convert fmtF32 m (fpIn fmtF64 a)),
      (exec_fcvtDS ..).trans (fp1_toFmt ready mode ha fmtF64 fun m a => fmtF32.convert fmtF64 m (fpIn fmtF32 a)), ?rounded, ?formats⟩
    case rounded =>
      intro rm neg mant e v r size
      have size_eq (v : ℚ) : size v = |v| := ite_neg_eq_abs v
      simp only [size_eq]
      exact roundInt_modes rm neg mant e
    case formats =>
      intro f _ g _ rm x
      exact ⟨fun neg mant e => f.convert_fin g, fun neg => f.convert_inf g, f.convert_nan g⟩

end Sys2Proof.Machine
end

section
/-! PROOFS. The loads: what a load is of its bytes, and when the access half takes it at once (03/R74, R75; 07/R137, R149; 09/R166, R178). -/

namespace Sys2Proof.Machine

/-! ## The places of an access -/

section
variable {s : State} {p : Party} {need : Need} {a n : Nat} {qs : List Nat}

/-- An access of n bytes has n places. -/
theorem State.placesFrom_length (h : s.placesFrom p need a n = .at qs) : qs.length = n := by
  induction n generalizing a qs with
  | zero =>
    cases h
    rfl
  | succ n ih =>
    unfold State.placesFrom at h
    split at h
    · cases h
    · cases h
    · split at h
      next rest found =>
        cases h
        rw [List.length_cons, ih found]
      next other => exact absurd h (other qs)

theorem State.places_length (h : s.places p need a n = .at qs) : qs.length = n := by
  unfold State.places at h
  split at h
  · cases h
  · exact State.placesFrom_length h

end

theorem mem_distinct_iff {x : Nat} {l : List Nat} : x ∈ distinct l ↔ x ∈ l := by
  refine ⟨mem_of_mem_distinct, fun h => ?_⟩
  induction l with
  | nil => exact h
  | cons y l ih =>
    by_cases same : x = y
    · exact same ▸ List.mem_cons_self
    · have inner := ih ((List.mem_cons.mp h).resolve_left same)
      exact List.mem_cons_of_mem _ (List.mem_filter.mpr ⟨inner, bne_iff_ne.mpr same⟩)

/-- At most one different number among some: all are the first. -/
theorem distinct_length_le_one {l : List Nat} : (distinct l).length ≤ 1 ↔ ∀ x ∈ l, x = l.headD 0 := by
  cases l with
  | nil => simp [distinct]
  | cons y l =>
    simp [distinct, mem_distinct_iff]

/-- All places of an access lie in the block of the first (R166). -/
def inOneBlock (qs : List Nat) : Prop := ∀ q ∈ qs, blockOf q = blockOf (qs.headD 0)

theorem blocksLeft_le_one {qs : List Nat} : (blocksLeft [] qs).length ≤ 1 ↔ inOneBlock qs := by
  have all : blocksLeft [] qs = distinct (qs.map blockOf) := by simp [blocksLeft]
  rw [all, distinct_length_le_one]
  cases qs <;> simp [inOneBlock]

/-! ## The datum of a load -/

theorem leNat_lt (bs : List Byte) : leNat bs < 2 ^ (8 * bs.length) := by
  induction bs with
  | nil => exact Nat.one_pos
  | cons b bs ih =>
    have byte := b.isLt
    rw [List.length_cons, Nat.mul_succ, Nat.pow_add, leNat]
    omega

/-- The signed reading of some bytes is the sign extension of their number. -/
theorem loadDatum_sext (bs : List Byte) (tag : Bool) :
    loadDatum bs tag .sext = dataReg ((BitVec.ofNat (8 * bs.length) (leNat bs)).signExtend 64) := by
  have small := leNat_lt bs
  rw [BitVec.signExtend, BitVec.toInt_eq_toNat_cond, BitVec.toNat_ofNat, Nat.mod_eq_of_lt small, loadDatum]
  cases bs with
  | nil => rfl
  | cons b bs =>
    have double : 2 ^ (8 * (b :: bs).length) = 2 * 2 ^ (8 * (b :: bs).length - 1) := by
      rw [← Nat.pow_succ']
      congr 1
    by_cases high : 2 ^ (8 * (b :: bs).length - 1) ≤ leNat (b :: bs)
    · rw [if_pos high, if_neg (by omega)]
      push_cast
      rfl
    · rw [if_neg high, if_pos (by omega), BitVec.ofInt_natCast]

section
variable {s : State} {p : Party} {qs : List Nat} {k : LoadKind}

theorem State.loadPlaces_all : s.loadPlaces p [] qs k = loadDatum (qs.map (s.see p)) (s.see p (tagPlace (qs.headD 0)) != 0#8) k := rfl

theorem State.loadPlaces_sext : s.loadPlaces p [] qs .sext =
    dataReg ((BitVec.ofNat (8 * qs.length) (leNat (qs.map (s.see p)))).signExtend 64) := by
  rw [State.loadPlaces_all, loadDatum_sext, List.length_map]

theorem State.loadPlaces_cap (keep : Bool) : s.loadPlaces p [] qs (.cap keep) =
    mkCap (s.see p (tagPlace (qs.headD 0)) != 0 && keep) (BitVec.ofNat 64 (leNat ((qs.drop 8).map (s.see p))))
      (BitVec.ofNat 64 (leNat ((qs.take 8).map (s.see p)))) := by
  rw [State.loadPlaces_all, loadDatum, List.map_drop, List.map_take]
  rfl

/-- What a party sees decides what it loads. -/
theorem State.loadPlaces_congr {t : State} (h : ∀ q, t.see p q = s.see p q) : t.loadPlaces p [] qs k = s.loadPlaces p [] qs k := by
  rw [State.loadPlaces_all, State.loadPlaces_all, h, List.map_congr_left fun q _ => h q]

/-- A source field leaves what the access half holds. -/
theorem State.popped.acc {t : State} (h : s.popped t p) : (t.ctx p).acc = (s.ctx p).acc := by
  obtain ⟨_, l, hl⟩ := h
  rw [hl]

/-! ## A load handed to the access half -/

section
variable {rd : BitVec 5}

/-- With nothing before it, in one block and with room, a load is taken at once. -/
theorem State.loadDest_taken (acc : (s.ctx p).acc = []) (block : inOneBlock qs) (room : rd = 28#5 → (s.ctx p).qld.length < 16) :
    s.loadDest p rd qs k = s.mod p fun c => c.loaded rd (s.loadPlaces p [] qs k) := by
  have now : ((s.ctx p).acc.isEmpty && decide ((blocksLeft [] qs).length ≤ 1) && (rd != 28#5 || decide ((s.ctx p).qld.length < 16))) =
      true := by
    simp only [acc, List.isEmpty_nil, blocksLeft_le_one.mpr block, decide_true, Bool.and_self, Bool.true_and, Bool.or_eq_true,
      bne_iff_ne, decide_eq_true_eq]
    exact (em (rd = 28#5)).symm.imp id room
  exact if_pos now

/-- Any other load takes its place in the access half. -/
theorem State.loadDest_held (held : (s.ctx p).acc ≠ [] ∨ ¬inOneBlock qs ∨ (rd = 28#5 ∧ 16 ≤ (s.ctx p).qld.length)) :
    s.loadDest p rd qs k = s.mod p fun c => { c with acc := c.acc ++ [.load rd qs k] } := by
  have later : ¬((s.ctx p).acc.isEmpty && decide ((blocksLeft [] qs).length ≤ 1) && (rd != 28#5 || decide ((s.ctx p).qld.length < 16))) =
      true := by
    simp only [Bool.and_eq_true, List.isEmpty_iff, decide_eq_true_eq, blocksLeft_le_one, Bool.or_eq_true, bne_iff_ne]
    rintro ⟨⟨acc, block⟩, room⟩
    rcases held with h | h | ⟨h, full⟩
    · exact h acc
    · exact h block
    · exact room.elim (absurd h) fun room => absurd room (by omega)
  exact if_neg later

end

end

section
variable {s : State} {rd : BitVec 5}

/-- A load that is taken at once writes its register, or joins the load-data queue. -/
theorem State.loaded_register (t : State) (v : Reg) (h : rd ≠ 28#5) : (t.mod s.cur fun c => c.loaded rd v).advance s.cur = s.wrote t rd v := by
  have loaded (c : Ctx) : c.loaded rd v = c.result rd v := if_neg h
  simp only [loaded]
  rfl

theorem Ctx.loaded_queue (c : Ctx) (v : Reg) : c.loaded 28#5 v = { c with qld := c.qld ++ [v] } := if_pos rfl

/-- The outcomes of a load without an order, by what the access half holds and where its bytes lie. -/
theorem loadForm_outcomes {s1 : State} {w : BitVec 32} {rs1 : BitVec 5} {off : BitVec 64} {n : Nat} {kind : Reg → LoadKind} {capAcc : Bool}
    {c v : Reg} {qs : List Nat} {o : Out} (ready : s.loadReady rd [rs1]) (hc : s.gives rs1 c s1)
    (passes : s1.loadable s.cur c (capAddr c + off).toNat n capAcc qs) (form : o = loadForm w rd rs1 off n kind capAcc none s)
    (value : s1.loadPlaces s.cur [] qs (kind c) = v) :
    let x := s1.ctx s.cur
    (x.acc = [] → inOneBlock qs → (rd ≠ 28#5 → o = .next (s.wrote s1 rd v)) ∧
      (rd = 28#5 → x.qld.length < 16 → o = .next ((s1.mod s.cur fun x => { x with qld := x.qld ++ [v] }).advance s.cur))) ∧
    (x.acc ≠ [] ∨ ¬inOneBlock qs ∨ (rd = 28#5 ∧ 16 ≤ x.qld.length) →
      o = .next ((s1.mod s.cur fun x => { x with acc := x.acc ++ [.load rd qs (kind c)] }).advance s.cur)) := by
  intro x
  have taken := form.trans (loadForm_ok ready hc passes)
  refine ⟨fun acc block => ⟨fun register => ?_, fun queue room => ?_⟩, fun held => ?_⟩
  · rw [taken, State.loadDest_taken acc block (absurd · register), value, State.loaded_register _ _ register]
  · rw [taken, State.loadDest_taken acc block fun _ => room, value, queue]
    simp only [Ctx.loaded_queue]
  · rw [taken, State.loadDest_held held]

/-! ## A load with an order (R178) -/

theorem State.acquireReady_iff (s : State) (p : Party) (sc : BitVec 3) : s.acquireReady p sc = true ↔
    (∀ e ∈ (s.ctx p).sb, e.isStl = false) ∧
      (3 ≤ sc.toNat → ∀ d < 8, ∀ w ∈ (s.ctx p).scopedDone, w.2 ≤ (s.die d).view.ord.getD w.1 0) := by
  have dies : [0, 1, 2, 3, 4, 5, 6, 7] = List.range 8 := rfl
  rw [State.acquireReady, dies]
  simp only [Bool.and_eq_true, Bool.not_eq_true', List.any_eq_false, Bool.not_eq_true, Bool.or_eq_true, decide_eq_true_eq,
    List.all_eq_true, List.mem_range]
  exact and_congr_right fun _ => ⟨fun h low => h.resolve_left (by omega), fun h => (Nat.lt_or_ge _ 3).imp_right h⟩

theorem State.acquired_ctx (s : State) (p : Party) (sc : BitVec 3) : (s.acquired p sc).ctx p =
    { (s.ctx p).sync with scopedDone := if sc.toNat < 3 then (s.ctx p).scopedDone else [] } := s.mod_ctx p _

/-- What a load does not read does not change what a party sees. -/
theorem State.acquired_see (s : State) (p : Party) (sc : BitVec 3) (q : Nat) : (s.acquired p sc).see p q = s.see p q := by
  have sb : ((s.acquired p sc).ctx p).sb = (s.ctx p).sb := by
    rw [State.acquired_ctx]
    rfl
  have only : s.onlyParty (s.acquired p sc) p := s.mod_onlyParty p _
  exact State.see_congr only.dies sb q

/-- One step of a load that the access half holds first, and whose bytes lie in one block. -/
theorem State.accStep_load {p : Party} {qs : List Nat} {k : LoadKind} {rest : List AccItem} (first : (s.ctx p).acc = .load rd qs k :: rest)
    (part : (s.ctx p).accPart = []) (block : inOneBlock qs) (room : rd = 28#5 → (s.ctx p).qld.length < 16) :
    s.accStep p = s.setCtx p ({ s.ctx p with acc := rest }.loaded rd (s.loadPlaces p [] qs k)) := by
  have fits : (rd == 28#5 && decide (16 ≤ (s.ctx p).qld.length)) = false := by
    simpa using room
  have one := blocksLeft_le_one.mpr block
  have keep : { s.ctx p with acc := rest, accPart := [] } = { s.ctx p with acc := rest } := by rw [← part]
  simp only [State.accStep, first, fits, part, Bool.false_eq_true, if_false]
  split
  next two => simp [two] at one
  next => rw [keep]

/-- One step of an `lda` that the access half holds first: it does its load once its condition lets it go. -/
theorem State.accStep_acquire {p : Party} {qs : List Nat} {k : LoadKind} {sc : BitVec 3} {rest : List AccItem}
    (first : (s.ctx p).acc = .acquire rd qs k sc :: rest) (room : rd = 28#5 → (s.ctx p).qld.length < 16) :
    s.accStep p = if s.acquireReady p sc then
      (s.acquired p sc).mod p (fun c => { c with acc := rest }.loaded rd (s.loadPlaces p [] qs k)) else s := by
  have fits : (rd == 28#5 && decide (16 ≤ (s.ctx p).qld.length)) = false := by
    simpa using room
  simp only [State.accStep, first, fits, Bool.false_or]
  cases s.acquireReady p sc <;> rfl

end

/-- Settles O13: each load is its form, and an order is a condition before it. -/
theorem loadResults : Obligations.LoadResults := by
  intro s s1 rd rs1 c imm sz sc qs ready hc x le oneBlock got a signed plain
  have popped : s.popped s1 s.cur := (State.src_popped hc).1
  have acc_eq : x.acc = (s.ctx s.cur).acc := popped.acc
  have signed_form {w : BitVec 32} {i : Instr} {n : Nat}
      (h : exec i s = loadForm w rd rs1 (imm.signExtend 64) n (fun _ => .sext) false none s) : signed i n := by
    intro passes
    have length : qs.length = n := State.places_length passes.2.1
    exact loadForm_outcomes ready hc passes h (by rw [State.loadPlaces_sext, length])
  have plain_form {w : BitVec 32} {i : Instr} {n : Nat}
      (h : exec i s = loadForm w rd rs1 (imm.signExtend 64) n (fun _ => .zext) false none s) : plain i n :=
    fun passes => loadForm_outcomes ready hc passes h rfl
  refine ⟨signed_form (exec_lb ..), signed_form (exec_lh ..), signed_form (exec_lw ..), plain_form (exec_lbu ..),
    plain_form (exec_lhu ..), plain_form (exec_lwu ..), plain_form (exec_ld ..),
    fun passes => loadForm_outcomes ready hc passes (exec_clc ..) (State.loadPlaces_cap _), ?acquire, ?behind, ?step, ?ordered⟩
  case acquire =>
    intro n y drained everywhere v passes aligned acc block
    have length : qs.length = n := State.places_length passes.2.1
    rw [← BitVec.add_zero (capAddr c)] at passes aligned
    have form : exec (.lda rd rs1 sz sc) s = _ := (exec_lda ..).trans (loadForm_acquire (kind := fun _ => .sext) ready hc passes aligned)
    have value : (s1.acquired s.cur sc).loadPlaces s.cur [] qs .sext = v := by
      rw [State.loadPlaces_congr (s1.acquired_see s.cur sc), State.loadPlaces_sext, length]
    have accAfter : ((s1.acquired s.cur sc).ctx s.cur).acc = [] := by
      rw [State.acquired_ctx]
      exact acc_eq.trans acc
    have qldAfter : ((s1.acquired s.cur sc).ctx s.cur).qld = x.qld := by
      rw [State.acquired_ctx]
      rfl
    have now : drained → everywhere → (rd = 28#5 → x.qld.length < 16) → exec (.lda rd rs1 sz sc) s =
        .next (((s1.acquired s.cur sc).mod s.cur fun c => c.loaded rd v).advance s.cur) := by
      intro hd he room
      have ready : s.acquireReady s.cur sc = true := (s.acquireReady_iff s.cur sc).mpr ⟨hd, he⟩
      rw [form, if_pos ⟨acc_eq.trans acc, room⟩, if_pos ready, State.loadDest_taken accAfter block (by rwa [qldAfter]), value]
    refine ⟨fun hd he => ⟨fun register => ?_, fun queue room => ?_⟩, fun held fits => ?_⟩
    · rw [now hd he (absurd · register), State.loaded_register _ _ register]
    · rw [now hd he fun _ => room, queue]
      simp only [Ctx.loaded_queue]
    · have held : ¬s.acquireReady s.cur sc = true := fun ready =>
        have ⟨hd, he⟩ := (s.acquireReady_iff s.cur sc).mp ready
        held.elim (· hd) (· he)
      rw [form, if_pos ⟨acc_eq.trans acc, fun queue => fits.resolve_left (· queue)⟩, if_neg held]
  case behind =>
    intro passes aligned held
    rw [← BitVec.add_zero (capAddr c)] at passes aligned
    refine ((exec_lda ..).trans (loadForm_acquire (kind := fun _ => .sext) ready hc passes aligned)).trans (if_neg ?_)
    rintro ⟨acc, room⟩
    rcases held with h | ⟨queue, full⟩
    · exact h acc
    · exact (room queue).not_ge full
  case step => exact fun k rest first part block room => State.accStep_load first part block room
  case ordered => exact fun k rest first room => State.accStep_acquire first room

end Sys2Proof.Machine
end

section
/-! PROOFS. The stores and the fences (03/R57, R64, R74, R76; 07/R137, R149; 09/R165, R166, R175, R178). -/

namespace Sys2Proof.Machine

/-! ## What a party sees of a store -/

/-- An entry's cells hold a byte for a place, and none before it. -/
def StoreEntry.gives (e : StoreEntry) (q : Nat) (b : Byte) : Prop := (e.cells.find? fun x => x.1 == q).map (·.2) = some b

section
variable {q : Nat} {b : Byte} {es : List StoreEntry}

/-- Where each new entry gives a place one byte or spares it, and one gives it, that byte is the newest. -/
theorem newest_append_given (sb : List StoreEntry) (each : ∀ e ∈ es, e.gives q b ∨ e.spares q) (one : ∃ e ∈ es, e.gives q b) :
    State.see.newest q (sb ++ es) = some b := by
  induction sb with
  | cons e sb ih => simp only [List.cons_append, State.see.newest, ih]
  | nil =>
    rw [List.nil_append]
    induction es with
    | nil => simp at one
    | cons e es ih =>
      obtain ⟨he, hes⟩ := List.forall_mem_cons.mp each
      by_cases later : ∃ e ∈ es, e.gives q b
      · simp only [State.see.newest, ih hes later]
      · have spared : ∀ e ∈ es, e.spares q := fun e h => (hes e h).resolve_left fun g => later ⟨e, h, g⟩
        have none : State.see.newest q es = none := State.see_newest_append spared []
        have first : e.gives q b := by
          obtain ⟨x, hx, given⟩ := one
          rcases List.mem_cons.mp hx with rfl | hx
          · exact given
          · exact absurd ⟨x, hx, given⟩ later
        simp only [State.see.newest, none]
        exact first

end

theorem leBytes_length (v n : Nat) : (leBytes v n).length = n := by
  induction n generalizing v with
  | zero => rfl
  | succ n ih => rw [leBytes, List.length_cons, ih]

theorem mem_ordered_iff {α : Type} {x : α} {l : List α} {n : Nat} : x ∈ ordered n l ↔ x ∈ l := by
  refine ⟨mem_of_mem_ordered, fun h => ?_⟩
  induction l generalizing n with
  | nil => exact h
  | cons y l ih =>
    simp only [ordered, List.mem_append, List.mem_cons]
    rcases List.mem_cons.mp h with h | h
    · exact .inr (.inl h)
    · have inner := ih (n := n / (l.length + 1)) h
      rw [← List.take_append_drop (n % (l.length + 1)) (ordered _ l), List.mem_append] at inner
      exact inner.imp_right .inr

/-! ## The entries of a store of some bytes -/

section
variable {cells : List (Nat × Byte)} {e e0 : StoreEntry} {q : Nat} {b : Byte}

/-- A byte's own cell comes first in an entry that writes it: the others of a plain write are tags and poison marks. -/
theorem plainCells_gives (nodup : (cells.map (·.1)).Nodup) (h : (q, b) ∈ cells) :
    StoreEntry.gives { e with cells := plainCells cells } q b := by
  have found : (cells.find? fun x => x.1 == q) = some (q, b) := by
    induction cells with
    | nil => simp at h
    | cons x cells ih =>
      rw [List.map_cons, List.nodup_cons] at nodup
      rcases List.mem_cons.mp h with rfl | h
      · simp
      · have other : x.1 ≠ q := by
          rintro rfl
          exact nodup.1 (List.mem_map.mpr ⟨_, h, rfl⟩)
        simpa [other] using ih nodup.2 h
  simp [StoreEntry.gives, plainCells, List.find?_append, found]

/-- Of the entries of a store, that of a byte's block gives it, and every other spares it. -/
theorem storeEntries_each (nodup : (cells.map (·.1)).Nodup) (h : (q, b) ∈ cells) (byte : q < tagPlace 0)
    (he : e ∈ storeEntries e0 cells) : e.gives q b ∨ e.spares q := by
  obtain ⟨k, _, rfl⟩ := List.mem_map.mp he
  by_cases own : q / 32 = k
  · refine .inl (plainCells_gives (nodup.sublist (List.filter_sublist.map _)) (List.mem_filter.mpr ⟨h, ?_⟩))
    simpa using own
  · refine .inr fun x hx same => ?_
    subst same
    rcases touched_of_mem_plainCells hx with bytes | tag | poison
    · obtain ⟨y, hy, same⟩ := List.mem_map.mp bytes
      refine own ?_
      rw [← same]
      simpa using (List.mem_filter.mp hy).2
    · obtain ⟨y, _, same⟩ := List.mem_map.mp tag
      simp only [tagPlace] at byte same
      omega
    · obtain ⟨y, _, same⟩ := List.mem_map.mp poison
      simp only [tagPlace, poisonPlace] at byte same
      omega

theorem storeEntries_one (nodup : (cells.map (·.1)).Nodup) (h : (q, b) ∈ cells) : ∃ e ∈ storeEntries e0 cells, e.gives q b := by
  refine ⟨_, List.mem_map_of_mem (mem_distinct_iff.mpr (List.mem_map_of_mem (f := fun c => c.1 / 32) h)), ?_⟩
  exact plainCells_gives (nodup.sublist (List.filter_sublist.map _)) (List.mem_filter.mpr ⟨h, beq_self_eq_true _⟩)

/-- A store in one block is one entry. -/
theorem storeEntries_block (some : cells ≠ []) (block : ∀ x ∈ cells, x.1 / 32 = q / 32) :
    storeEntries e0 cells = [{ e0 with cells := plainCells cells }] := by
  have blocks : distinct (cells.map fun c => c.1 / 32) = [q / 32] := by
    cases cells with
    | nil => exact absurd rfl some
    | cons x cells =>
      obtain ⟨first, rest⟩ := List.forall_mem_cons.mp block
      rw [List.map_cons, distinct, first, List.filter_eq_nil_iff.mpr]
      intro k hk
      obtain ⟨y, hy, rfl⟩ := List.mem_map.mp (mem_of_mem_distinct hk)
      simpa using rest y hy
  have all : (cells.filter fun c => c.1 / 32 == q / 32) = cells := List.filter_eq_self.mpr fun x hx => by simpa using block x hx
  simp only [storeEntries, blocks, List.map_cons, List.map_nil, all]

end

/-! ## Stores handed to the access half -/

section
variable {s : State} {p : Party} {es : List StoreEntry}

theorem State.handStores_taken (acc : (s.ctx p).acc = []) :
    s.handStores p es = s.mod p fun c => { c with sb := c.sb ++ es, issued := c.issued + es.length } := by
  have now : (s.ctx p).acc.isEmpty = true := by rw [acc]; rfl
  exact congrArg (s.setCtx p) ((if_pos now).trans (Ctx.foldl_store es _))

theorem State.handStores_held (acc : (s.ctx p).acc ≠ []) :
    s.handStores p es = s.mod p fun c => { c with acc := c.acc ++ es.map .store } := by
  have later : ¬(s.ctx p).acc.isEmpty = true := by rwa [List.isEmpty_iff]
  exact congrArg (s.setCtx p) (if_neg later)

variable {e : StoreEntry} {cells : List (Nat × Byte)}

/-- A store of some bytes hands its entries over in some order, and draws a free value where that is more than one. -/
theorem State.storeCells_hands (s : State) (p : Party) (e : StoreEntry) (cells : List (Nat × Byte)) :
    ∃ (t : State) (es : List StoreEntry), t.ctx p = s.ctx p ∧
    s.storeCells p e cells = t.handStores p es ∧ ∀ x, x ∈ es ↔ x ∈ storeEntries e cells := by
  unfold State.storeCells
  dsimp only
  split
  · exact ⟨s, _, rfl, rfl, fun _ => Iff.rfl⟩
  · exact ⟨s.fresh.2, _, rfl, rfl, fun _ => mem_ordered_iff⟩

/-- With nothing before it, the party sees each byte of a store at once. -/
theorem State.storeCells_see (acc : (s.ctx p).acc = []) (nodup : (cells.map (·.1)).Nodup) {q : Nat} {b : Byte} (h : (q, b) ∈ cells)
    (byte : q < tagPlace 0) : ((s.storeCells p e cells).advance p).see p q = b := by
  obtain ⟨t, es, ctx, hands, same⟩ := s.storeCells_hands p e cells
  have newest : State.see.newest q ((s.ctx p).sb ++ es) = some b := by
    obtain ⟨x, hx, given⟩ := storeEntries_one (e0 := e) nodup h
    exact newest_append_given _ (fun x hx => storeEntries_each nodup h byte ((same x).mp hx)) ⟨x, (same x).mpr hx, given⟩
  rw [hands, State.handStores_taken (by rw [ctx, acc])]
  simp only [State.see, State.advance_ctx, State.mod_ctx, ctx, newest]

/-- With nothing before it, a store in one block is one entry of the store buffer. -/
theorem State.storeCells_block (acc : (s.ctx p).acc = []) (some : cells ≠ []) {q : Nat} (block : ∀ x ∈ cells, x.1 / 32 = q / 32) :
    ((s.storeCells p e cells).ctx p).sb = (s.ctx p).sb ++ [{ e with cells := plainCells cells }] := by
  unfold State.storeCells
  rw [storeEntries_block some block]
  dsimp only
  rw [if_pos (by simp), State.handStores_taken acc, State.mod_ctx]

/-- Behind an instruction that the access half holds, a store waits. -/
theorem State.storeCells_held (acc : (s.ctx p).acc ≠ []) : ((s.storeCells p e cells).ctx p).sb = (s.ctx p).sb ∧
    ∃ es : List StoreEntry, ((s.storeCells p e cells).ctx p).acc = (s.ctx p).acc ++ es.map .store := by
  obtain ⟨t, es, ctx, hands, _⟩ := s.storeCells_hands p e cells
  rw [hands, State.handStores_held (by rwa [ctx]), State.mod_ctx, ctx]
  exact ⟨rfl, es, rfl⟩

/-- A store leaves the store-data queue as its data field did. -/
theorem State.storeCells_qst : (((s.storeCells p e cells).advance p).ctx p).qst = (s.ctx p).qst := by
  have frame : s.StoreFrame ((s.storeCells p e cells).advance p) p 0#5 (touched (cells.map (·.1))) :=
    (State.StoreFrame.storeCells (fun x hx => List.mem_map_of_mem hx) s p e).trans (.advance _ p)
  exact frame.qst (by decide)

end

/-! ## The fences (R178) -/

section
variable {s : State} {sc : BitVec 3}

/-- The party has no copy request in the command FIFO, no operation in flight, and its issued stores are released. -/
def State.quiet (s : State) (p : Party) : Prop :=
  s.issuedReleased p = true ∧ (∀ r ∈ (s.core p.coreIx).fifo, r.issuer ≠ p.ix) ∧ s.opsOf p = false

/-- A fence with nothing before it is held until its condition is met. -/
theorem fenceForm_waits (acc : (s.ctx s.cur).acc = []) {met : Prop} (h : s.fenceReady s.cur sc = true ↔ met) :
    (met → fenceForm sc s = .next ((s.mod s.cur Ctx.sync).advance s.cur)) ∧ (¬met → fenceForm sc s = .next s) := by
  rw [fenceForm_cases, if_pos acc]
  exact ⟨fun hm => by rw [if_pos (h.mpr hm)], fun hm => by rw [if_neg (mt h.mp hm)]⟩

theorem fenceForm_behind (acc : (s.ctx s.cur).acc ≠ []) :
    fenceForm sc s = .next ((s.mod s.cur fun c => { c with acc := c.acc ++ [.fence sc] }).advance s.cur) := by
  rw [fenceForm_cases, if_neg acc]

variable {p : Party}

theorem State.fenceReady_core (h : sc = 0) : s.fenceReady p sc = true := by
  subst h
  rfl

theorem State.fenceReady_die (h : sc = 1 ∨ sc = 2) : s.fenceReady p sc = true ↔ (s.ctx p).sb = [] := by
  rcases h with rfl | rfl <;> exact beq_iff_eq

theorem State.fenceReady_dom (h : 4 ≤ sc.toNat) : s.fenceReady p sc = true ↔ s.quiet p := by
  obtain ⟨n, hn⟩ := Nat.exists_eq_add_of_le' h
  simp [State.fenceReady, hn, State.quiet, and_assoc]

end

/-! ## The forms -/

section
variable {s s1 s2 : State} {rs1 rs2 : BitVec 5} {c v : Reg} {qs : List Nat}

section
variable (empty : s1.storeSrc s.cur rs2 = .trap 0x0C 0) (ready : s.memReady (dataField rs2) [rs1]) (hc : s.gives rs1 c s1)
include empty ready hc

/-- A store whose data field names an empty store-data queue takes 0x0C (R76). -/
theorem storeForm_empty {w : BitVec 32} {off : BitVec 64} {n : Nat} {e : StoreEntry} {aligned : Bool} :
    storeForm w rs1 rs2 off n e aligned s = .next (takeTrap s s.cur 0x0C 0) := by
  have hc' : s.src s.cur rs1 = .val (c, s1) := hc
  simp only [storeForm, State.memPre_ready ready, Tri.bind_val, hc', empty, Tri.bind_trap, settleNext_trap]

theorem execCsc_empty {imm : BitVec 12} : execCsc rs2 rs1 imm s = .next (takeTrap s s.cur 0x0C 0) := by
  have hc' : s.src s.cur rs1 = .val (c, s1) := hc
  simp only [execCsc, State.memPre_ready ready, Tri.bind_val, hc', empty, Tri.bind_trap, settleNext_trap]

end

/-- csc that passes its checks hands over one entry (R149). -/
theorem execCsc_ok {imm : BitVec 12} (ready : s.memReady (dataField rs2) [rs1]) (hc : s.gives rs1 c s1)
    (hv : s1.storeSrc s.cur rs2 = .val (v, s2))
    (passes : s2.storable s.cur c (capAddr c + imm.signExtend 64).toNat 16 (permStore ||| (if capTag v then permStoreCap else 0)) true qs)
    (keeps : capTag v = true → hasPerms v permGlobal = true ∨ inOwnScratchpad s.cur (capAddr c + imm.signExtend 64).toNat = true) :
    execCsc rs2 rs1 imm s = .next ((s2.handStores s.cur [{ cells := granuleCells qs v }]).advance s.cur) := by
  have hc' : s.src s.cur rs1 = .val (c, s1) := hc
  have kept : (!(capTag v && !hasPerms v permGlobal) || inOwnScratchpad s.cur (capAddr c + imm.signExtend 64).toNat) = true := by
    cases tag : capTag v with
    | false => rfl
    | true => simpa [tag] using keeps tag
  simp only [execCsc, State.memPre_ready ready, Tri.bind_val, hc', hv, passes.1, Tri.unless_none, kept, Tri.ensure_true,
    State.reach_at passes.2, settleNext_val]

theorem State.handStores_qst {p : Party} {es : List StoreEntry} : (((s.handStores p es).advance p).ctx p).qst = (s.ctx p).qst := by
  rw [State.advance_ctx]
  by_cases acc : (s.ctx p).acc = []
  · rw [State.handStores_taken acc, State.mod_ctx]
  · rw [State.handStores_held acc, State.mod_ctx]

end

/-- Settles O14: a store hands its entries to the access half, and a fence is a condition at the issue point. -/
theorem storesOfEveryKind : Obligations.StoresOfEveryKind := by
  refine ⟨?stores, ?orders⟩
  case stores =>
    intro s s1 s2 rs1 rs2 c v imm sz sc qs ready hc a x
    obtain ⟨_, l, hl⟩ := (State.src_popped hc).1
    refine ⟨fun queue empty noLoad => ?_, fun queue w rest head => ?_, fun hv => ?_⟩
    · have trap : s1.storeSrc s.cur rs2 = .trap 0x0C 0 := by
        have waits : (s1.ctx s.cur).awaits [29#5] = false := by rw [hl]; exact noLoad
        have qst : (s1.ctx s.cur).qst = [] := by rw [hl]; exact empty
        simp [State.storeSrc, queue, qst, waits]
      simp only [List.forall_mem_cons]
      exact ⟨(exec_sb ..).trans (storeForm_empty trap ready hc), (exec_sh ..).trans (storeForm_empty trap ready hc),
        (exec_sw ..).trans (storeForm_empty trap ready hc), (exec_sd ..).trans (storeForm_empty trap ready hc),
        (exec_csc ..).trans (execCsc_empty trap ready hc), (exec_stl ..).trans (storeForm_empty trap ready hc),
        fun _ h => absurd h List.not_mem_nil⟩
    · have qst : (s1.ctx s.cur).qst = w :: rest := by rw [hl]; exact head
      simp [State.storeSrc, queue, qst]
    · intro put
      have put_form {w : BitVec 32} {i : Instr} {n : Nat} (pos : 0 < n)
          (form : exec i s = storeForm w rs1 rs2 (imm.signExtend 64) n {} false s) : put i n := by
        intro passes cells t
        have length : qs.length = n := State.places_length passes.2
        have bytes : (leBytes (capAddr v).toNat n).length = n := leBytes_length _ _
        have places : cells.map (·.1) = qs := List.map_fst_zip (by omega)
        refine ⟨form.trans (storeForm_ok ready hc hv passes nofun), State.storeCells_qst, fun acc nodup below k hk => ?_,
          fun acc block => ?_, fun acc => ?_⟩
        · refine State.storeCells_see acc (by rwa [places]) ?_ (below _ ?_)
          · rw [List.getD_eq_getElem _ _ (length.symm ▸ hk), List.getD_eq_getElem _ _ (bytes.symm ▸ hk)]
            exact List.mem_iff_getElem.mpr ⟨k, by simp [cells, length, bytes, hk], by simp [cells]⟩
          · rw [List.getD_eq_getElem _ _ (length.symm ▸ hk)]
            exact List.getElem_mem _
        · have some : cells ≠ [] := by
            rw [Ne, ← List.map_eq_nil_iff (f := (·.1)), places]
            rintro rfl
            exact absurd length pos.ne
          rw [State.advance_ctx]
          exact State.storeCells_block acc some fun y hy => block _ (places ▸ List.mem_map_of_mem hy)
        · rw [State.advance_ctx]
          exact State.storeCells_held acc
      refine ⟨put_form (by decide) (exec_sb ..), put_form (by decide) (exec_sh ..), put_form (by decide) (exec_sw ..),
        put_form (by decide) (exec_sd ..), fun passes keeps => ?_, fun aligned passes => ?_⟩
      · have form : exec (.csc rs2 rs1 imm) s = _ := (exec_csc ..).trans (execCsc_ok ready hc hv passes keeps)
        refine ⟨fun acc => ?_, fun acc => ?_, fun t ht => ?_⟩
        · rw [form, State.handStores_taken acc]
          rfl
        · rw [form, State.handStores_held acc]
          rfl
        · rw [form] at ht
          cases ht
          exact State.handStores_qst
      · rw [← BitVec.add_zero (capAddr c)] at passes aligned
        exact ⟨_, (exec_stl ..).trans (storeForm_ok ready hc hv passes fun _ => aligned), State.storeCells_qst⟩
  case orders =>
    intro s rs1 rs2 sz sc fm pr su n x done released quiet
    refine ⟨fun s1 s2 c v qs ready hc hv passes aligned => ?_, fun acc => ?_, fun acc => ?_⟩
    · rw [← BitVec.add_zero (capAddr c)] at passes aligned
      exact (exec_stl ..).trans (storeForm_ok ready hc hv passes fun _ => aligned)
    · refine ⟨fun core => ?_, fun die => ?_, fun dev => ?_, fun dom => ?_, ?_⟩
      · exact (exec_fenceScoped ..).trans ((fenceForm_waits acc (iff_true_intro (State.fenceReady_core core))).1 trivial)
      · obtain ⟨passes, holds⟩ := fenceForm_waits acc (State.fenceReady_die die)
        split
        next empty => exact (exec_fenceScoped ..).trans (passes empty)
        next stores => exact (exec_fenceScoped ..).trans (holds stores)
      · subst dev
        exact fenceForm_waits acc Iff.rfl
      · exact fenceForm_waits acc (State.fenceReady_dom dom)
      · exact fenceForm_waits acc (State.fenceReady_dom (by decide))
    · exact ⟨(exec_fenceScoped ..).trans (fenceForm_behind acc), (exec_fence ..).trans (fenceForm_behind acc)⟩

end Sys2Proof.Machine
end

section
/-! PROOFS. Taking a cause: what it keeps of the party, and where it goes (03/R76; 07/R132; 23/R372 to R376). -/

namespace Sys2Proof.Machine

/-! ## What a cause keeps of a party's record -/

/-- A party's record but for its monitor and its gang: installations and gangs of others change those (R182, R301). -/
def Ctx.still (c : Ctx) : Ctx := { c with mon := {}, gangMember := false }

/-- Of that, all but what a party's stores and pending traps change as they drain and are delivered (R157, R175, R336). -/
def Ctx.running (c : Ctx) : Ctx :=
  { c.still with
    sb := [], drained := 0, snap := [], undo := [], scopedDone := [], seqTraps := []
    firing := { c.firing with record := {}, pendingMarks := [] } }

/-- Of that, all but what the instructions of the access half change (R74). -/
def Ctx.fired (c : Ctx) : Ctx :=
  { c.running with x := ({} : Ctx).x, qld := [], qst := [], acc := [], accPart := [], w := ({} : Ctx).w, issued := 0 }

section
variable {c c' : Ctx}

theorem Ctx.running_of_still (h : c.still = c'.still) : c.running = c'.running :=
  (congrArg Ctx.running h : c.still.running = c'.still.running)

theorem Ctx.fired_of_running (h : c.running = c'.running) : c.fired = c'.fired :=
  (congrArg Ctx.fired h : c.running.fired = c'.running.fired)

theorem Ctx.idle_of_still (h : c.still = c'.still) : c.idle = c'.idle :=
  (congrArg Ctx.idle h : c.still.idle = c'.still.idle)

theorem Ctx.running_of_delivered (h : c.still = { c'.still with seqTraps := [] }) : c.running = c'.running :=
  (congrArg Ctx.running h : c.still.running = ({ c'.still with seqTraps := [] } : Ctx).running)

theorem Ctx.sb_of_delivered (h : c.still = { c'.still with seqTraps := [] }) : c.sb = c'.sb :=
  (congrArg Ctx.sb h : c.still.sb = ({ c'.still with seqTraps := [] } : Ctx).sb)

theorem Ctx.sees_still (c : Ctx) (key die : Nat) (qs : List Nat) : (c.sees key die qs).still = c.still := by
  unfold Ctx.sees
  split <;> rfl

theorem Ctx.leavesGang_still (c : Ctx) (key : Nat) (members : List Nat) : (c.leavesGang key members).still = c.still := by
  unfold Ctx.leavesGang
  split <;> rfl

/-- Marks that take effect change the record of the firing alone. -/
theorem Firing.mark_fields (f : Firing) (n : Nat) :
    ({ f.mark n with record := {}, pendingMarks := [] } : Firing) = { f with record := {}, pendingMarks := [] } := by
  unfold Firing.mark
  dsimp only
  split <;> rfl

/-- The fields that a drain writes. -/
theorem Ctx.drained_running (c : Ctx) (sb : List StoreEntry) (n : Nat) (m : Map Nat) (undo : Map (Byte × Nat)) (done : List (Nat × Nat)) :
    ({ c with sb := sb, drained := n, snap := m, undo := undo, firing := c.firing.mark n, scopedDone := done } : Ctx).running = c.running :=
  congrArg (fun f : Firing => { c.running with firing := f }) (c.firing.mark_fields n)

theorem Ctx.loaded_fired (c : Ctx) (rd : BitVec 5) (v : Reg) : (c.loaded rd v).fired = c.fired := by
  unfold Ctx.loaded Ctx.result
  split
  · rfl
  · split
    · rfl
    · rw [Ctx.setReg_eq]
      rfl

end

section
variable (s : State) (p : Party)

/-! ## Installations, reports and messages -/

@[simp] theorem State.writeAt_still (d : Nat) (cells : List (Nat × Byte)) (r : Bool) (prior : Map Nat) :
    ((s.writeAt d cells r prior).ctx p).still = (s.ctx p).still := by
  have carried : (s.writeAt d cells r prior).ctx p =
      (State.install { s with dev := { s.dev with wseq := s.dev.wseq + 1 } } d (s.dev.wseq + 1) cells).ctx p := by
    simp only [State.ctx, State.writeAt, State.carryOut_ctxs]
  rw [carried, State.install_ctx, Ctx.sees_still]
  rfl

@[simp] theorem State.report_still (d : Nat) (r : MailRec) : ((s.report d r).ctx p).still = (s.ctx p).still := by
  unfold State.report
  dsimp only
  split <;> simp

@[simp] theorem State.pushMsg_still (q : Party) (d : BitVec 512) (m : Message) (held : Bool) :
    ((s.pushMsg q d m held).ctx p).still = (s.ctx p).still := by
  unfold State.pushMsg
  dsimp only
  split
  · simp [State.reportDiscard]
  · split
    · simp [State.reportDiscard]
    next h =>
      have := State.findHome_ctx (s.sentUp q.coreIx m.part (hdrLtag m.hdr)) p (dieOfCore q.coreIx) d m.part m.cls m.key
      rw [h] at this
      simp [this]

@[simp] theorem State.rollback_still : ((s.rollback p).ctx p).still = (s.ctx p).still := by
  unfold State.rollback
  dsimp only
  split <;> simp

@[simp] theorem State.dissolveGang_still (q : Party) : ((s.dissolveGang p).ctx q).still = (s.ctx q).still := by
  unfold State.dissolveGang
  dsimp only
  split
  · exact Map.getD_map_field s.ctxs (fun key c => c.leavesGang key _) Ctx.still (fun key c => c.leavesGang_still key _) q.ix {}
  · rfl

/-- The end of a firing by a trap makes the context idle. -/
theorem State.endByTrap_ctx : (s.endByTrap p).ctx p = (s.ctx p).idle := by
  have ended : ∀ t : State, (t.ctx p).still = (s.ctx p).still →
      (((((t.releaseSel p).dissolveGang p).orphanOps p).mod p Ctx.idle).ctx p) = (s.ctx p).idle := by
    intro t ht
    rw [State.mod_ctx]
    exact Ctx.idle_of_still (by simp [ht])
  unfold State.endByTrap
  dsimp only
  split
  · exact ended _ (by simp)
  · exact ended _ (by simp)

/-! ## Drains and deliveries -/

/-- A drain takes the oldest entry, and changes nothing else that the party runs by. -/
theorem State.drainOne_spec {e : StoreEntry} {rest : List StoreEntry} (first : (s.ctx p).sb = e :: rest) :
    ((s.drainOne p).ctx p).running = (s.ctx p).running ∧ ((s.drainOne p).ctx p).sb = rest := by
  unfold State.drainOne
  extract_lets c
  rw [show c.sb = e :: rest from first]
  refine ⟨(congrArg Ctx.running (State.ctx_setCtx_same _ p _) :).trans ((Ctx.drained_running _ _ _ _ _ _).trans ?_),
    (congrArg Ctx.sb (State.ctx_setCtx_same _ p _) :)⟩
  refine Ctx.running_of_still ?_
  simp only [State.ctx, State.carryOut_ctxs]
  exact (congrArg Ctx.still (State.install_ctx _ _ _ _ p)).trans (Ctx.sees_still _ _ _ _)

theorem State.drainAll_spec : ((s.drainAll p).ctx p).running = (s.ctx p).running ∧ ((s.drainAll p).ctx p).sb = [] := by
  have many : ∀ (l : List StoreEntry) (s : State), (s.ctx p).sb = l →
      ((s.drainN p l.length).ctx p).running = (s.ctx p).running ∧ ((s.drainN p l.length).ctx p).sb = [] := by
    intro l
    induction l with
    | nil => exact fun s empty => ⟨rfl, empty⟩
    | cons e l ih =>
      intro s first
      obtain ⟨same, rest⟩ := s.drainOne_spec p first
      obtain ⟨sames, empty⟩ := ih _ rest
      exact ⟨sames.trans same, empty⟩
  exact many _ s rfl

theorem State.deliverSeq_spec : ((s.deliverSeq p).ctx p).still = { (s.ctx p).still with seqTraps := [] } := by
  unfold State.deliverSeq
  dsimp only
  refine List.foldlRecOn (motive := fun t : State => (t.ctx p).still = { (s.ctx p).still with seqTraps := [] }) _ _ ?_ fun t ht x _ => ?_
  · rw [State.ctx_setCtx_same]
    rfl
  · split <;> simp [ht]

/-! ## The access half -/

theorem State.forceAcc_fired (l : List AccItem) : ((s.forceAcc p l).ctx p).fired = (s.ctx p).fired := by
  induction l generalizing s with
  | nil =>
    rw [State.forceAcc, State.mod_ctx]
    rfl
  | cons i rest ih =>
    cases i with
    | load rd qs k =>
      rw [State.forceAcc, ih, State.ctx_setCtx_same, Ctx.loaded_fired]
      rfl
    | acquire rd qs k sc =>
      unfold State.forceAcc
      dsimp only
      split
      · rw [ih, State.mod_ctx, Ctx.loaded_fired, State.acquired_ctx]
        rfl
      · rw [State.mod_ctx]
        rfl
    | store e =>
      rw [State.forceAcc, ih, State.ctx_setCtx_same]
      rfl
    | fence sc =>
      unfold State.forceAcc
      dsimp only
      split
      · rw [ih, State.ctx_setCtx_same]
        rfl
      · rw [State.mod_ctx]
        rfl

theorem State.accSettled_fired : ((s.accSettled p).ctx p).fired = (s.ctx p).fired := s.forceAcc_fired p _

theorem State.parkTrap_still (cause : BitVec 6) (tval : BitVec 64) :
    ((s.parkTrap p cause tval).ctx p).still = ({ s.ctx p with run := .parked } : Ctx).still := by
  unfold State.parkTrap
  extract_lets c s1
  rw [State.report_still, State.ctx_setCtx_same]

end

/-! ## The message of a trap (R373) -/

/-- A field beyond the low part of a concatenation. -/
theorem extract_append_skip {n m start len : Nat} {high : BitVec n} {low : BitVec m} {v : BitVec len} (h : high.extractLsb' start len = v) :
    (high ++ low).extractLsb' (m + start) len = v := by
  rw [BitVec.extractLsb'_append_eq_of_le (Nat.le_add_right m start), Nat.add_sub_cancel_left, h]

/-- The low part itself. -/
theorem extract_append_here {n m : Nat} {high : BitVec n} {low : BitVec m} : (high ++ low).extractLsb' 0 m = low :=
  BitVec.extractLsb'_append_eq_right

section
variable (port kind : BitVec 2) (depth : BitVec 4) (prio : BitVec 8) (ltag : BitVec 12) (sub : BitVec 4) (delta : BitVec 32)

/-- The fields of a header made of them. -/
theorem mkHdr_fields : hdrPort (mkHdr port kind depth prio ltag sub delta) = port.toNat ∧
    hdrKind (mkHdr port kind depth prio ltag sub delta) = kind.toNat ∧ hdrLtag (mkHdr port kind depth prio ltag sub delta) = ltag ∧
      hdrSub (mkHdr port kind depth prio ltag sub delta) = sub.toNat :=
  ⟨congrArg BitVec.toNat extract_append_here, congrArg BitVec.toNat (extract_append_skip extract_append_here),
    extract_append_skip (extract_append_skip (extract_append_skip (extract_append_skip extract_append_here))),
    congrArg BitVec.toNat (extract_append_skip (extract_append_skip (extract_append_skip (extract_append_skip (extract_append_skip
      extract_append_here)))))⟩
end

/-- The first three dwords of a payload. -/
theorem payWord_mkPay (a b c d e f : BitVec 64) :
    payWord (mkPay a b c d e f) 0 = a ∧ payWord (mkPay a b c d e f) 1 = b ∧ payWord (mkPay a b c d e f) 2 = c := by
  refine ⟨extract_append_here (high := f ++ e ++ d ++ c ++ b), ?_, ?_⟩
  · exact extract_append_skip (high := f ++ e ++ d ++ c ++ b) (low := a) (start := 0) extract_append_here
  · exact extract_append_skip (high := f ++ e ++ d ++ c ++ b) (low := a) (start := 64 + 0)
      (extract_append_skip (high := f ++ e ++ d ++ c) (low := b) extract_append_here)

/-- A class that is not malformed and has a trap port takes the trap messages of its actors: the port counts items (R22, R24). -/
theorem routeRefusal_trap {d : BitVec 512} {cls : BitVec 16} {h : BitVec 64} (valid : descValid d = true)
    (formed : descMalformed d cls = false) (keyed : descSheet d = false) (port : descTrapp d = true) (kind : hdrKind h = 3)
    (sub : hdrSub h = 2) (at_port : hdrPort h = descTrapix d) : routeRefusal d cls h = none := by
  have counts : portKind d (descTrapix d) = 1 := by
    simp only [descMalformed, Bool.or_eq_false_iff, port, Bool.true_and, Bool.not_eq_false', Bool.and_eq_true, beq_iff_eq] at formed
    exact formed.1.1.1.1.1.2.1
  have trap : isTrapMsg h = true := by simp [isTrapMsg, kind, sub]
  simp [routeRefusal, valid, formed, keyed, at_port, counts, kind, trap]

/-- A message that is not refused, of a class with PLACE = HASH, is the last of the outbound queue (R26, R210). -/
theorem State.pushMsg_last (s : State) (p : Party) {d : BitVec 512} {m : Message} (taken : routeRefusal d m.cls m.hdr = none)
    (place : descPlace d = 0#2) : ∃ (dest : Dest) (r : Release),
      ((s.pushMsg p d m false).core p.coreIx).outq.getLast? = some (.msg m dest r false) := by
  have home : ∀ t : State, ∃ dev die clu, t.homeOf (dieOfCore p.coreIx) d m.part m.cls m.key = .at dev die clu := by
    intro t
    unfold State.homeOf
    rw [place]
    exact ⟨_, _, _, rfl⟩
  obtain ⟨dev, die, clu, found⟩ := home (s.sentUp p.coreIx m.part (hdrLtag m.hdr))
  simp only [State.pushMsg, taken, State.findHome, found, State.core_setCore_same]
  exact ⟨_, _, List.getLast?_concat⟩

/-! ## The record of a cause -/

/-- A context whose access half is settled, with its stores drained, its pending traps delivered, and its trap record written. -/
def State.trapped (s : State) (p : Party) (cause : BitVec 6) (tval : BitVec 64) : State :=
  ((((s.undoSel p).leaveQueues p).drainAll p).deliverSeq p).mod p fun c => c.trapRecord cause tval

/-- What a context does with a cause once its trap record is written: its firing ends with a notice to its trap port, or it
parks (R372 to R374). -/
def State.concluded (t : State) (p : Party) (cause : BitVec 6) (tval : BitVec 64) (num : BitVec 12) : State :=
  let c := t.ctx p
  if !c.firing.sheet && descTrapp c.firing.desc && !c.firing.trapStarted then
    (t.endByTrap p).pushMsg p c.firing.desc (trapMessage c p (tupleOfCore p.coreIx num) cause tval c.epc) false
  else t.parkTrap p cause tval

section
variable (s : State) (p : Party) (cause : BitVec 6) (tval : BitVec 64)

/-- The trap record is written over a record with nothing in its store buffer, that runs as before (R132). -/
theorem State.trapped_ctx : ∃ c : Ctx, c.running = (s.ctx p).running ∧ c.sb = [] ∧
    (s.trapped p cause tval).ctx p = c.trapRecord cause tval := by
  obtain ⟨drained, empty⟩ := ((s.undoSel p).leaveQueues p).drainAll_spec p
  have delivered := (((s.undoSel p).leaveQueues p).drainAll p).deliverSeq_spec p
  refine ⟨_, ?_, ?_, State.mod_ctx _ p _⟩
  · exact (Ctx.running_of_delivered delivered).trans (drained.trans (by rw [State.leaveQueues_ctx, State.undoSel_ctx]))
  · exact (Ctx.sb_of_delivered delivered).trans empty

end

section
variable {s : State} {k : CoreId} {j : Fin 4} {cause : BitVec 6} {tval : BitVec 64}

/-- A context waits where an instruction of its access half waits (R74). -/
theorem takeTrap_waits (held : ((s.accSettled (.ctx k j)).ctx (.ctx k j)).acc ≠ []) :
    takeTrap s (.ctx k j) cause tval = s.accSettled (.ctx k j) :=
  if_pos (by rwa [Bool.not_eq_true', Bool.eq_false_iff, Ne, List.isEmpty_iff])

/-- Otherwise its firing ends with a notice to its trap port, or it parks (R372 to R374). -/
theorem takeTrap_settled (free : ((s.accSettled (.ctx k j)).ctx (.ctx k j)).acc = []) : takeTrap s (.ctx k j) cause tval =
    ((s.accSettled (.ctx k j)).trapped (.ctx k j) cause tval).concluded (.ctx k j) cause tval s.dev.num := by
  have settled : ¬(!((s.accSettled (.ctx k j)).ctx (.ctx k j)).acc.isEmpty) = true := by
    rw [free]
    decide
  unfold takeTrap State.concluded State.trapped
  dsimp only
  rw [if_neg settled]

end

/-! ## A context with nothing to settle -/

theorem Map.put_put {α : Type} (m : Map α) (i : Nat) (v w : α) : (m.put i v).put i w = m.put i w := by
  induction m with
  | nil => simp [Map.put]
  | cons e m ih =>
    obtain ⟨k, u⟩ := e
    unfold Map.put
    by_cases below : i < k
    · simp [below, Map.put]
    · by_cases same : i = k
      · simp [same, Map.put]
      · simp [below, same, Map.put, ih]

section
variable (s : State) (p : Party) (c : Ctx)

@[simp] theorem State.setCtx_setCtx (c' : Ctx) : (s.setCtx p c).setCtx p c' = s.setCtx p c' := by
  unfold State.setCtx
  rw [Map.put_put]

theorem State.releaseSel_setCtx : (s.setCtx p c).releaseSel p = (s.releaseSel p).setCtx p c := by
  unfold State.releaseSel
  dsimp only [State.setCtx_clu]
  split
  · rfl
  · split <;> rfl

/-- What a party leaves of the selection engine has nothing to do with its record. -/
theorem State.undoSel_setCtx : (s.setCtx p c).undoSel p = (s.undoSel p).setCtx p c := by
  unfold State.undoSel
  dsimp only [State.setCtx_clu]
  split
  · exact s.releaseSel_setCtx p c
  · split
    · rfl
    · split <;> rfl

theorem State.leaveQueues_setCtx : (s.setCtx p c).leaveQueues p = (s.leaveQueues p).setCtx p c := rfl

variable {s p}

theorem State.drainAll_empty (empty : (s.ctx p).sb = []) : s.drainAll p = s := by
  unfold State.drainAll
  rw [empty]
  rfl

theorem State.deliverSeq_none (none : (s.ctx p).seqTraps = []) : s.deliverSeq p = s.setCtx p { s.ctx p with seqTraps := [] } := by
  unfold State.deliverSeq
  dsimp only
  rw [none]
  rfl

/-- With nothing to settle, to undo, to leave, to drain or to deliver, the trap record is all that is written. -/
theorem State.trapped_bare (cause : BitVec 6) (tval : BitVec 64) (sb : (s.ctx p).sb = []) (seqTraps : (s.ctx p).seqTraps = [])
    (acc : (s.ctx p).acc = []) (undo : s.undoSel p = s) (leave : s.leaveQueues p = s) :
    (s.accSettled p).trapped p cause tval = s.setCtx p ({ s.ctx p with accPart := [] }.trapRecord cause tval) := by
  have settled : s.accSettled p = s.setCtx p { s.ctx p with accPart := [] } := by
    unfold State.accSettled
    rw [acc]
    exact congrArg (fun l => s.setCtx p { s.ctx p with acc := l, accPart := [] }) acc.symm
  have kept : ((s.setCtx p { s.ctx p with accPart := [] }).ctx p) = { s.ctx p with accPart := [] } := State.ctx_setCtx_same s p _
  have delivered : ({ s.ctx p with accPart := [], seqTraps := [] } : Ctx) = { s.ctx p with accPart := [] } :=
    congrArg (fun l => { s.ctx p with accPart := [], seqTraps := l }) seqTraps.symm
  rw [State.trapped, settled, State.undoSel_setCtx, undo, State.leaveQueues_setCtx, leave, State.drainAll_empty (by rw [kept]; exact sb),
    State.deliverSeq_none (by rw [kept]; exact seqTraps), kept, State.setCtx_setCtx, delivered, State.mod, State.setCtx_setCtx, kept]

end

/-! ## The statement on taking a cause -/

section
variable {s : State} {p : Party} {cause : BitVec 6} {tval : BitVec 64} {num : BitVec 12} {c : Ctx}
  (trapped : s.ctx p = c.trapRecord cause tval)
include trapped

/-- A firing without a trap port, or started by a trap message, parks. -/
theorem State.concluded_parks (h : c.firing.sheet = true ∨ descTrapp c.firing.desc = false ∨ c.firing.trapStarted = true) :
    s.concluded p cause tval num = s.parkTrap p cause tval := by
  have firing : (s.ctx p).firing = c.firing := by
    rw [trapped]
    rfl
  refine if_neg ?_
  rw [firing]
  rcases h with h | h | h <;> simp [h]

/-- Any other firing ends. -/
theorem State.concluded_ends (sheet : c.firing.sheet = false) (port : descTrapp c.firing.desc = true)
    (first : c.firing.trapStarted = false) : s.concluded p cause tval num =
      (s.endByTrap p).pushMsg p c.firing.desc (trapMessage (c.trapRecord cause tval) p (tupleOfCore p.coreIx num) cause tval c.pc) false := by
  unfold State.concluded
  rw [trapped]
  exact if_pos (by simp [Ctx.trapRecord, Ctx.leaveForm, Ctx.dropAhead, sheet, port, first])

end

/-- The fields of the message of a trap that a context has recorded (R373). -/
theorem trapMessage_fields (u : Ctx) (p : Party) (tuple : BitVec 26) (cause : BitVec 6) (tval : BitVec 64) :
    let m := trapMessage (u.trapRecord cause tval) p tuple cause tval u.pc
    m.cls = u.kcls ∧ m.key = u.kkey ∧ m.part = u.partid ∧ hdrKind m.hdr = 3 ∧ hdrSub m.hdr = 2 ∧
      hdrPort m.hdr = descTrapix u.firing.desc ∧ hdrLtag m.hdr = u.ltag ∧ payWord m.pay 0 = cause.setWidth 64 ∧
        payWord m.pay 1 = tval ∧ payWord m.pay 2 = u.pc := by
  intro m
  obtain ⟨port, kind, ltag, sub⟩ := mkHdr_fields (BitVec.ofNat 2 (descTrapix u.firing.desc)) 3 u.fdep 0 u.ltag 2 0
  have number : (BitVec.ofNat 2 (descTrapix u.firing.desc)).toNat = descTrapix u.firing.desc := Nat.mod_eq_of_lt (BitVec.isLt _)
  exact ⟨rfl, rfl, rfl, kind, sub, port.trans number, ltag, payWord_mkPay _ _ _ _ _ _⟩

/-- A context parks with its record in its die's mailbox. -/
theorem State.parkTrap_setCtx (s : State) (k : CoreId) (j : Fin 4) (c : Ctx) (cause : BitVec 6) (tval : BitVec 64) :
    (s.setCtx (.ctx k j) c).parkTrap (.ctx k j) cause tval = (s.setCtx (.ctx k j) { c with run := .parked }).report k.die.val
      { cause := if c.firing.trapStarted then 0x2F else cause, src := 0, part := c.partid, cls := c.kcls, ctx := BitVec.ofNat 2 j.val,
        unit := 0, tuple := tupleOfCore k.ix s.dev.num, key := c.kkey, epc := c.epc, tval := tval,
        d0 := if c.firing.trapStarted then cause.setWidth 64 else 0 } := by
  unfold State.parkTrap
  dsimp only
  rw [State.ctx_setCtx_same, State.setCtx_setCtx]
  rfl

/-- A context whose access half holds nothing keeps its registers when it settles. -/
theorem State.accSettled_x {s : State} {p : Party} (acc : (s.ctx p).acc = []) : ((s.accSettled p).ctx p).x = (s.ctx p).x := by
  rw [State.accSettled, acc, State.forceAcc, State.mod_ctx]

/-- The fields of a context that its access half, its drains and its pending traps keep. -/
theorem Ctx.fired_fields {c c' : Ctx} (h : c.fired = c'.fired) : c.pc = c'.pc ∧ c.kcls = c'.kcls ∧ c.kkey = c'.kkey ∧
    c.partid = c'.partid ∧ c.ltag = c'.ltag ∧ c.firing.sheet = c'.firing.sheet ∧ c.firing.desc = c'.firing.desc ∧
      c.firing.trapStarted = c'.firing.trapStarted ∧ c.firing.key = c'.firing.key := by
  have fields (c : Ctx) : c.fired.pc = c.pc ∧ c.fired.kcls = c.kcls ∧ c.fired.kkey = c.kkey ∧ c.fired.partid = c.partid ∧
      c.fired.ltag = c.ltag ∧ c.fired.firing.sheet = c.firing.sheet ∧ c.fired.firing.desc = c.firing.desc ∧
        c.fired.firing.trapStarted = c.firing.trapStarted ∧ c.fired.firing.key = c.firing.key := by
    simp only [Ctx.fired, Ctx.running, Ctx.still, and_self]
  have mine := fields c
  rw [h] at mine
  obtain ⟨pc, kcls, kkey, partid, ltag, sheet, desc, started, key⟩ := fields c'
  obtain ⟨pc', kcls', kkey', partid', ltag', sheet', desc', started', key'⟩ := mine
  exact ⟨pc'.symm.trans pc, kcls'.symm.trans kcls, kkey'.symm.trans kkey, partid'.symm.trans partid, ltag'.symm.trans ltag,
    sheet'.symm.trans sheet, desc'.symm.trans desc, started'.symm.trans started, key'.symm.trans key⟩

theorem Ctx.still_fields {c c' : Ctx} (h : c.still = c'.still) : c.cause = c'.cause ∧ c.epc = c'.epc ∧ c.tval = c'.tval ∧
    c.sb = c'.sb ∧ c.deferred = c'.deferred ∧ c.run = c'.run ∧ c.pc = c'.pc ∧ c.firing = c'.firing ∧ c.x = c'.x := by
  have fields (c : Ctx) : c.still.cause = c.cause ∧ c.still.epc = c.epc ∧ c.still.tval = c.tval ∧ c.still.sb = c.sb ∧
      c.still.deferred = c.deferred ∧ c.still.run = c.run ∧ c.still.pc = c.pc ∧ c.still.firing = c.firing ∧ c.still.x = c.x := by
    simp only [Ctx.still, and_self]
  have mine := fields c
  rw [h] at mine
  obtain ⟨cause, epc, tval, sb, deferred, run, pc, firing, x⟩ := fields c'
  obtain ⟨cause', epc', tval', sb', deferred', run', pc', firing', x'⟩ := mine
  exact ⟨cause'.symm.trans cause, epc'.symm.trans epc, tval'.symm.trans tval, sb'.symm.trans sb, deferred'.symm.trans deferred,
    run'.symm.trans run, pc'.symm.trans pc, firing'.symm.trans firing, x'.symm.trans x⟩

/-- What a context has saved of a cause, with every store drained (R132, log 13). -/
def Ctx.saved (c : Ctx) (cause : BitVec 6) (pc tval : BitVec 64) : Prop :=
  c.cause = cause ∧ c.epc = pc ∧ c.tval = tval ∧ c.sb = [] ∧ c.deferred = []

section
variable {s : State} {p : Party} {cause : BitVec 6} {tval : BitVec 64} {u : Ctx}

/-- The record that a settled context's cause is written over: it runs as before, and its store buffer is empty. -/
theorem State.accSettled_trapped (s : State) (p : Party) (cause : BitVec 6) (tval : BitVec 64) : ∃ u : Ctx, u.fired = (s.ctx p).fired ∧
    u.sb = [] ∧ ((s.ctx p).acc = [] → u.x = (s.ctx p).x) ∧ ((s.accSettled p).trapped p cause tval).ctx p = u.trapRecord cause tval := by
  obtain ⟨u, running, sb, trapped⟩ := (s.accSettled p).trapped_ctx p cause tval
  have x : u.running.x = ((s.accSettled p).ctx p).running.x := by rw [running]
  refine ⟨u, (Ctx.fired_of_running running).trans (s.accSettled_fired p), sb, fun acc => ?_, trapped⟩
  rw [← State.accSettled_x acc]
  simpa only [Ctx.running, Ctx.still] using x

variable (trapped : s.ctx p = u.trapRecord cause tval) (drained : u.sb = [])
include trapped drained

/-- A context that parks. -/
theorem State.parkTrap_fields : ((s.parkTrap p cause tval).ctx p).saved cause u.pc tval ∧
    ((s.parkTrap p cause tval).ctx p).run = .parked ∧ ((s.parkTrap p cause tval).ctx p).pc = u.pc ∧
      ((s.parkTrap p cause tval).ctx p).firing = u.firing ∧ ((s.parkTrap p cause tval).ctx p).x = u.x := by
  obtain ⟨hcause, hepc, htval, hsb, hdeferred, hrun, hpc, hfiring, hx⟩ := Ctx.still_fields (s.parkTrap_still p cause tval)
  rw [trapped] at hcause hepc htval hsb hdeferred hpc hfiring hx
  exact ⟨⟨hcause, hepc, htval, hsb.trans drained, hdeferred⟩, hrun, hpc, hfiring, hx⟩

/-- A context whose firing ends. -/
theorem State.endByTrap_fields (d : BitVec 512) (m : Message) : (((s.endByTrap p).pushMsg p d m false).ctx p).saved cause u.pc tval ∧
    (((s.endByTrap p).pushMsg p d m false).ctx p).run = .idle := by
  obtain ⟨hcause, hepc, htval, hsb, hdeferred, hrun, _⟩ := Ctx.still_fields ((s.endByTrap p).pushMsg_still p p d m false)
  rw [s.endByTrap_ctx p, trapped] at hcause hepc htval hsb hdeferred hrun
  exact ⟨⟨hcause, hepc, htval, hsb.trans drained, hdeferred⟩, hrun⟩

end

/-- Settles O59: the trap record is written over the settled and drained context, whose firing ends or parks. -/
theorem takingACause : Obligations.TakingACause := by
  intro s cause tval
  refine ⟨fun d n => ?supervisor, fun k j => ?context⟩
  case supervisor =>
    intro p c
    refine ⟨fun img calm image => ?_, fun handling => ?_⟩
    · have first : takeTrap s p cause tval = _ := if_neg (Bool.eq_false_iff.mp calm)
      rw [first, show (s.die p.die.val).image = some img from image]
      rfl
    · have second : takeTrap s p cause tval = _ := if_pos handling
      rw [second]
      exact ⟨State.ctx_setCtx_same s p _, rfl, rfl, rfl⟩
  case context =>
    intro p c f t s0
    refine ⟨takeTrap_waits, fun free => ?_⟩
    obtain ⟨u, fired, sb, registers, trapped⟩ := s.accSettled_trapped p cause tval
    obtain ⟨pc, kcls, kkey, partid, ltag, sheet, desc, started, key⟩ := Ctx.fired_fields fired
    have taken : t = (s0.trapped p cause tval).concluded p cause tval s.dev.num := takeTrap_settled free
    have parks (h : f.sheet = true ∨ descTrapp f.desc = false ∨ f.trapStarted = true) : t = (s0.trapped p cause tval).parkTrap p cause tval :=
      taken.trans (State.concluded_parks trapped (by rwa [sheet, desc, started]))
    have ends (h1 : f.sheet = false) (h2 : descTrapp f.desc = true) (h3 : f.trapStarted = false) :
        t = ((s0.trapped p cause tval).endByTrap p).pushMsg p u.firing.desc
          (trapMessage (u.trapRecord cause tval) p (tupleOfCore p.coreIx s.dev.num) cause tval u.pc) false :=
      taken.trans (State.concluded_ends trapped (sheet.trans h1) (by rw [desc]; exact h2) (started.trans h3))
    have parked := State.parkTrap_fields trapped sb
    have ended := State.endByTrap_fields trapped sb u.firing.desc
      (trapMessage (u.trapRecord cause tval) p (tupleOfCore p.coreIx s.dev.num) cause tval u.pc)
    have saved : (t.ctx p).saved cause c.pc tval := by
      rw [← pc]
      by_cases h : f.sheet = true ∨ descTrapp f.desc = false ∨ f.trapStarted = true
      · rw [parks h]
        exact parked.1
      · simp only [not_or, Bool.not_eq_true, Bool.not_eq_false] at h
        rw [ends h.1 h.2.1 h.2.2]
        exact ended.1
    obtain ⟨hcause, hepc, htval, hsb, hdeferred⟩ := saved
    refine ⟨hcause, hepc, htval, hsb, hdeferred, fun h1 h2 h3 => ⟨?idle, fun valid formed keyed place => ?notice⟩, fun h => ?parked⟩
    case idle =>
      rw [ends h1 h2 h3]
      exact ended.2
    case notice =>
      obtain ⟨mcls, mkey, mpart, kind, sub, port, mltag, pay⟩ := trapMessage_fields u p (tupleOfCore p.coreIx s.dev.num) cause tval
      rw [kcls] at mcls
      rw [desc] at port
      have accepted := routeRefusal_trap valid formed keyed h2 kind sub port
      rw [← mcls, ← desc] at accepted
      obtain ⟨dest, r, last⟩ := ((s0.trapped p cause tval).endByTrap p).pushMsg_last p accepted (by rw [desc]; exact place)
      rw [ends h1 h2 h3]
      exact ⟨_, dest, r, last, mcls, mkey.trans kkey, mpart.trans partid, kind, sub, port, mltag.trans ltag, pay.1, pay.2.1,
        pay.2.2.trans pc⟩
    case parked =>
      obtain ⟨_, run, pc', firing, x⟩ := parked
      rw [parks h]
      refine ⟨run, pc'.trans pc, ?_, fun acc => x.trans (registers acc), fun sb seqTraps acc undo leave => ?_⟩
      · rw [firing]
        exact key
      · rw [State.trapped_bare cause tval sb seqTraps acc undo leave, State.parkTrap_setCtx]
        rfl

end Sys2Proof.Machine
end

section
/-! PROOFS. The agenda's turns and the issue of an atomic. -/

namespace Sys2Proof.Machine

/-- Settles O6, by the branches of `step`: the agenda's first turn is the branch of `step` that is taken. -/
theorem turnsOfTheAgenda : Obligations.TurnsOfTheAgenda := by
  refine ⟨fun s rest powered => ⟨fun i turn => ?event, fun c n turn => ?time⟩,
    fun s dark => ⟨fun other => ?fault, fun rest turn => ?on⟩⟩
  case event => simp [step, powered, turn]
  case time => simp [step, powered, turn]
  case fault =>
    unfold step
    simp only [dark, Bool.not_false, if_true]
  case on => simp [step, dark, turn, exec_powerOn, execPowerOn]

/-- The shared issue of an atomic: with its operands there it posts or awaits one operation at the owner of its place. -/
theorem amoForm_sent {w : BitVec 32} {k : BitVec 4} {n : Nat} {rd rs1 rs2 : BitVec 5} {s s1 s2 : State} {c v : Reg}
    {q : Nat} {qs : List Nat} (ready : s.exeReady rd [rs1, rs2]) (data : k = 7#4 → rd ≠ 29#5) (hc : s.gives rs1 c s1)
    (hv : s1.src s.cur rs2 = .val (v, s2))
    (hl : s2.reaches s.cur c (capAddr c).toNat n (permLoad ||| permStore) .rw (q :: qs)) (ha : (capAddr c).toNat % n = 0) :
    amoForm w k n rd rs1 rs2 s =
      let o : Op :=
        { kind := .amo k, va := (capAddr c).toNat, addr := q, owner := ownerOf q, size := n,
          v := BitVec.ofNat 64 ((capAddr v).toNat % 2 ^ (8 * n)),
          e := if k == 7 then BitVec.ofNat 64 ((capAddr ((s2.ctx s.cur).reg rd)).toNat % 2 ^ (8 * n)) else 0,
          rel := (s2.ctx s.cur).releaseAt s.cur.ix (ownerScope s.cur.coreIx (ownerOf q)) }
      .next (if rd = 0#5 then s2.post s.cur o else s2.await s.cur o
        { form := if n = 4 then .amoW else .amoD, rd := rd, popped := (s.ctx s.cur).poppedBy [rs1, rs2] }) := by
  have ready' : s.exeReady rd (if k = 7#4 then [rs1, rs2, rd] else [rs1, rs2]) := by
    split
    next hk =>
      obtain ⟨h28, h29, waits, push⟩ := ready
      refine ⟨h28, ?_, Ctx.awaits_sub waits (by simp), push⟩
      simpa [eq_comm, data hk] using h29
    · exact ready
  exact amoForm_ok ready' hc hv hl ha

/-- Settles O16: each of the twenty-two forms is the shared issue of an atomic, `amoForm_sent`, at its operation and width. -/
theorem atomicsAreSentToTheirOwner : Obligations.AtomicsAreSentToTheirOwner := by
  intro s s1 s2 rd rs1 rs2 c v q qs ready hc hv a op sent
  have form (w : BitVec 32) (k : BitVec 4) (hk : k ≠ 7#4) (n : Nat) :=
    amoForm_sent (w := w) (k := k) (n := n) (qs := qs) (q := q) ready (absurd · hk) hc hv
  refine ⟨form _ 0 (by decide) 4, form _ 0 (by decide) 8, form _ 1 (by decide) 4, form _ 1 (by decide) 8,
    form _ 2 (by decide) 4, form _ 2 (by decide) 8, form _ 3 (by decide) 4, form _ 3 (by decide) 8,
    form _ 4 (by decide) 4, form _ 4 (by decide) 8, form _ 5 (by decide) 4, form _ 5 (by decide) 8,
    form _ 6 (by decide) 4, form _ 6 (by decide) 8, form _ 8 (by decide) 4, form _ 8 (by decide) 8,
    form _ 9 (by decide) 4, form _ 9 (by decide) 8, form _ 10 (by decide) 4, form _ 10 (by decide) 8, fun hrd => ?_⟩
  have cas (w : BitVec 32) (n : Nat) := amoForm_sent (w := w) (k := 7) (n := n) (qs := qs) (q := q) ready (fun _ => hrd) hc hv
  refine ⟨cas _ 4, ?_⟩
  have low (x : BitVec 64) : BitVec.ofNat 64 (x.toNat % 2 ^ (8 * 8)) = x := by
    rw [Nat.mod_eq_of_lt (by simpa using x.isLt), BitVec.ofNat_toNat, BitVec.setWidth_eq]
  rw [← low (capAddr ((s2.ctx s.cur).reg rd))]
  exact cas _ 8
end Sys2Proof.Machine
end

section
/-! PROOFS. Canonical memories: what an update of the state, a part of an instruction and an outcome keep. The sections that
follow go through the model file by file: `F_wf` says that what F answers has canonical memories where the state it is given has
them, and `F_keeps` says it of a part that may end in a trap, a walk or a stall. -/

namespace Sys2Proof.Machine

section
variable {s : State}

/-! ## The state's updates -/

theorem State.memoriesWf_mk {c : Party} {a : List Turn} {x : Map Ctx} {k : Map Core} {l : Map Cluster} {d : Device}
    (h : s.memoriesWf) : State.memoriesWf ⟨c, a, x, k, l, s.dies, d⟩ := h

theorem State.setCtx_wf {p : Party} {c : Ctx} (h : s.memoriesWf) : (s.setCtx p c).memoriesWf := h
theorem State.setCore_wf {n : Nat} {k : Core} (h : s.memoriesWf) : (s.setCore n k).memoriesWf := h
theorem State.setClu_wf {n : Nat} {k : Cluster} (h : s.memoriesWf) : (s.setClu n k).memoriesWf := h
theorem State.setDev_wf {d : Device} (h : s.memoriesWf) : (s.setDev d).memoriesWf := h
theorem State.mod_wf {p : Party} {f : Ctx → Ctx} (h : s.memoriesWf) : (s.mod p f).memoriesWf := h

/-- A die changed but for its view. -/
theorem State.setDie_view {n : Nat} {x : Die} (h : s.memoriesWf) (hx : x.view = (s.die n).view) : (s.setDie n x).memoriesWf :=
  State.setDie_wf h (by rw [hx]; exact h n)

/-- An operation done for each entry of a list. -/
theorem State.foldl_wf {α : Type} {f : State → α → State} (hf : ∀ t x, t.memoriesWf → (f t x).memoriesWf) (l : List α)
    (h : s.memoriesWf) : (l.foldl f s).memoriesWf :=
  List.foldlRecOn l f h fun t ht x _ => hf t x ht

theorem State.wf_ite {c : Prop} [Decidable c] {t : State} (h : s.memoriesWf) (ht : t.memoriesWf) :
    (if c then s else t).memoriesWf := by
  split
  · exact h
  · exact ht

/-! ## Parts and outcomes -/

/-- What a step answers, where it answers a next state, has canonical memories. -/
def Out.wf (o : Out) : Prop := ∀ t, o = .next t → t.memoriesWf

/-- A part of an instruction that gives only values with a property, and stalls only with canonical memories. -/
def Tri.Keeps {α : Type} (r : Tri α) (φ : α → Prop) : Prop :=
  (∀ a, r = .val a → φ a) ∧ ∀ t, r = .stall t → t.memoriesWf

theorem Out.wf_next (h : s.memoriesWf) : Out.wf (.next s) := fun _ e => by cases e; exact h

section
variable {α β : Type} {r : Tri α} {φ : α → Prop} {ψ : β → Prop} {f : α → Tri β}

theorem Tri.keeps_val {a : α} (h : φ a) : (Tri.val a).Keeps φ := by simpa [Tri.Keeps] using h
theorem Tri.keeps_trap {c : BitVec 6} {t : BitVec 64} : (Tri.trap c t).Keeps φ := by simp [Tri.Keeps]
theorem Tri.keeps_walk {p : BitVec 8} {a : Nat} : (Tri.walk p a).Keeps φ := by simp [Tri.Keeps]
theorem Tri.keeps_stall (h : s.memoriesWf) : (Tri.stall s).Keeps φ := by simpa [Tri.Keeps] using h

theorem Tri.Keeps.bind (hr : r.Keeps φ) (hf : ∀ a, φ a → (f a).Keeps ψ) : (r.bind f).Keeps ψ := by
  cases r with
  | val a => exact hf a (hr.1 a rfl)
  | trap => exact keeps_trap
  | stall t => exact keeps_stall (hr.2 t rfl)
  | walk => exact keeps_walk

theorem Tri.keeps_ite {c : Prop} [Decidable c] {x : Tri α} (hr : r.Keeps φ) (hx : x.Keeps φ) : (if c then r else x).Keeps φ := by
  split
  · exact hr
  · exact hx

end

theorem Tri.ensure_keeps {ok : Bool} {c : BitVec 6} {t : BitVec 64} : (Tri.ensure ok c t).Keeps fun _ => True := by
  cases ok <;> simp [Tri.Keeps]

theorem Tri.unless_keeps {x : Option (BitVec 6 × BitVec 64)} : (Tri.unless x).Keeps fun _ => True := by
  rcases x with _ | ⟨c, t⟩ <;> simp [Tri.Keeps]
end
end Sys2Proof.Machine
end

section
/-! PROOFS. Canonical memories, from the ordering machine to the control registers. -/

namespace Sys2Proof.Machine

/-! ## Views, ports and the ordering machine -/

theorem State.mapRels_wf {s : State} {core : Nat} {f : Release → Release} (h : s.memoriesWf) :
    (s.mapRels core f).memoriesWf := h

theorem State.fresh_wf {s : State} (h : s.memoriesWf) : (s.fresh).2.memoriesWf := by
  unfold State.fresh
  grind [State.memoriesWf_mk]

theorem State.holdPage_wf {s : State} {key d : Nat} {part : BitVec 8} {va : Nat} (h : s.memoriesWf) :
    (s.holdPage key d part va).memoriesWf := by
  unfold State.holdPage
  grind [State.memoriesWf_mk]

theorem State.askUnit_wf {s : State} {key die : Nat} {part : BitVec 8} {va : Nat} (h : s.memoriesWf) :
    (s.askUnit key die part va).memoriesWf := by
  unfold State.askUnit
  grind [State.setDie_view]

theorem State.onPages_wf {s : State} {key die : Nat} {part : BitVec 8} {a n : Nat} {k : State} (hs : s.memoriesWf)
    (hk : k.memoriesWf) :
    (s.onPages key die part a n k).memoriesWf := by
  unfold State.onPages
  grind [State.askUnit_wf]

/-! ## Class tables -/

theorem State.copyDword_wf {s : State} {die key q : Nat} (h : s.memoriesWf) : (s.copyDword die key q).2.memoriesWf := by
  unfold State.copyDword
  grind [State.memoriesWf_mk]

theorem State.tableDword_wf {s : State} {die : Nat} {part : BitVec 8} {q : Nat} (h : s.memoriesWf) :
    (s.tableDword die part q).2.memoriesWf := by
  unfold State.tableDword
  grind [State.copyDword_wf]

theorem State.tableWords_wf {s : State} {die : Nat} {part : BitVec 8} {q n : Nat} (h : s.memoriesWf) :
    (s.tableWords die part q n).2.memoriesWf := by
  induction n generalizing s q with
  | zero => exact h
  | succ n ih => exact ih (State.tableDword_wf h)

theorem State.readDesc_wf {s : State} {die : Nat} {part : BitVec 8} {cls : BitVec 16} (h : s.memoriesWf) :
    (s.readDesc die part cls).2.memoriesWf := by
  unfold State.readDesc
  grind [State.tableWords_wf]

theorem State.sealClass_wf {s : State} {die : Nat} {part : BitVec 8} {t : Nat} (h : s.memoriesWf) :
    (s.sealClass die part t).2.memoriesWf := State.tableDword_wf h

theorem State.onHome_wf {s : State} {die : Nat} {d : BitVec 512} {part : BitVec 8} {key : BitVec 64} {k : State}
    (hs : s.memoriesWf) (hk : k.memoriesWf) :
    (s.onHome die d part key k).memoriesWf := by
  unfold State.onHome
  grind [State.askUnit_wf]

theorem State.findHome_wf {s : State} {die : Nat} {d : BitVec 512} {part : BitVec 8} {cls : BitVec 16}
    {key : BitVec 64} (h : s.memoriesWf) :
    (s.findHome die d part cls key).2.memoriesWf := by
  unfold State.findHome
  grind [State.holdPage_wf]

theorem State.sentUp_wf {s : State} {core : Nat} {part : BitVec 8} {tag : BitVec 12} (h : s.memoriesWf) :
    (s.sentUp core part tag).memoriesWf := h

theorem State.recvUp_wf {s : State} {core : Nat} {part : BitVec 8} {tag : BitVec 12} (h : s.memoriesWf) :
    (s.recvUp core part tag).memoriesWf := h

theorem State.recvAll_wf {s : State} {core : Nat} {l : List Message} (h : s.memoriesWf) :
    (s.recvAll core l).memoriesWf := by
  induction l generalizing s with
  | nil => grind [State.recvAll, State.recvUp_wf]
  | cons x xs ih => grind [State.recvAll, State.recvUp_wf]

/-! ## Operations, traps and drains -/

theorem State.setPc_wf {s : State} {p : Party} {pc : BitVec 64} (h : s.memoriesWf) : (s.setPc p pc).memoriesWf := h

theorem State.advance_wf {s : State} {p : Party} (h : s.memoriesWf) : (s.advance p).memoriesWf := h

theorem State.dest_wf {s : State} {p : Party} {rd : BitVec 5} {v : Reg} (h : s.memoriesWf) :
    (s.dest p rd v).memoriesWf := h

theorem State.src_keeps {s : State} {p : Party} {r : BitVec 5} (h : s.memoriesWf) :
    (s.src p r).Keeps fun x => x.2.memoriesWf := by
  unfold State.src
  grind [Tri.Keeps, State.mod_wf]

theorem State.loadDest_wf {s : State} {p : Party} {rd : BitVec 5} {qs : List Nat} {k : LoadKind} (h : s.memoriesWf) :
    (s.loadDest p rd qs k).memoriesWf := by
  unfold State.loadDest
  grind [State.mod_wf]

theorem State.handStores_wf {s : State} {p : Party} {es : List StoreEntry} (h : s.memoriesWf) :
    (s.handStores p es).memoriesWf := State.mod_wf h

theorem State.storeSrc_keeps {s : State} {p : Party} {r : BitVec 5} (h : s.memoriesWf) :
    (s.storeSrc p r).Keeps fun x => x.2.memoriesWf := by
  unfold State.storeSrc
  grind [Tri.Keeps, State.mod_wf, State.src_keeps]

theorem State.exePre_keeps {s : State} {p : Party} {w : BitVec 32} {rd : BitVec 5} {srcs : List (BitVec 5)}
    (h : s.memoriesWf) :
    (s.exePre p w rd srcs).Keeps fun _ => True := by
  unfold State.exePre
  grind [Tri.Keeps, State.mod_wf]

theorem State.memPre_keeps {s : State} {p : Party} {w : BitVec 32} {other : BitVec 5} {srcs : List (BitVec 5)}
    (h : s.memoriesWf) :
    (s.memPre p w other srcs).Keeps fun _ => True := by
  unfold State.memPre
  grind [Tri.Keeps]

theorem State.pushRoom_keeps {s : State} {p : Party} {rd : BitVec 5} (h : s.memoriesWf) :
    (s.pushRoom p rd).Keeps fun _ => True := by
  unfold State.pushRoom
  grind [Tri.Keeps, State.mod_wf]

theorem State.regsReady_keeps {s : State} {p : Party} {rs : List (BitVec 5)} (h : s.memoriesWf) :
    (s.regsReady p rs).Keeps fun _ => True := by
  unfold State.regsReady
  grind [Tri.Keeps]

theorem State.issuePoint_keeps {s : State} {p : Party} (h : s.memoriesWf) : (s.issuePoint p).Keeps fun _ => True := by
  unfold State.issuePoint
  grind [Tri.Keeps]

theorem State.syncPoint_keeps {s : State} {p : Party} (h : s.memoriesWf) : (s.syncPoint p).Keeps fun _ => True := by
  unfold State.syncPoint
  grind [Tri.Keeps]

theorem State.storesLeft_keeps {s : State} {p : Party} (h : s.memoriesWf) : (s.storesLeft p).Keeps fun _ => True := by
  unfold State.storesLeft
  grind [Tri.Keeps]

theorem State.acquired_wf {s : State} {p : Party} {sc : BitVec 3} (h : s.memoriesWf) :
    (s.acquired p sc).memoriesWf := State.mod_wf h

theorem State.accStep_wf {s : State} {p : Party} (h : s.memoriesWf) : (s.accStep p).memoriesWf := by
  unfold State.accStep
  grind [State.fresh_wf, State.mod_wf, State.setCtx_wf, State.acquired_wf]

theorem State.forceAcc_wf {s : State} {p : Party} {l : List AccItem} (h : s.memoriesWf) :
    (s.forceAcc p l).memoriesWf := by
  induction l generalizing s with
  | nil => exact h
  | cons i rest ih =>
    unfold State.forceAcc
    grind [State.setCtx_wf, State.mod_wf, State.acquired_wf]

theorem State.gather_keeps {s0 s : State} {p : Party} {qs : List Nat} (h0 : s0.memoriesWf) (h : s.memoriesWf) :
    (s0.gather s p qs).Keeps fun x => x.2.memoriesWf := by
  unfold State.gather
  grind [Tri.Keeps, State.fresh_wf, State.mod_wf]

theorem State.reportDiscard_wf {s : State} {core : Nat} {unit : BitVec 4} {tuple : BitVec 26} {cause : BitVec 6}
    {m : Message} (h : s.memoriesWf) :
    (s.reportDiscard core unit tuple cause m).memoriesWf := State.report_wf h

theorem State.pushMsg_wf {s : State} {p : Party} {d : BitVec 512} {m : Message} {held : Bool} (h : s.memoriesWf) :
    (s.pushMsg p d m held).memoriesWf := by
  unfold State.pushMsg
  grind [State.sentUp_wf, State.recvUp_wf, State.reportDiscard_wf, State.findHome_wf, State.setCore_wf]

theorem State.releaseSel_wf {s : State} {p : Party} (h : s.memoriesWf) : (s.releaseSel p).memoriesWf := by
  unfold State.releaseSel
  grind [State.setClu_wf]

theorem State.undoSel_wf {s : State} {p : Party} (h : s.memoriesWf) : (s.undoSel p).memoriesWf := by
  unfold State.undoSel
  grind [State.releaseSel_wf, State.setClu_wf]

theorem State.dissolveGang_wf {s : State} {p : Party} (h : s.memoriesWf) : (s.dissolveGang p).memoriesWf := by
  unfold State.dissolveGang
  grind [State.memoriesWf_mk, State.setClu_wf]

theorem State.deliverSeq_wf {s : State} {p : Party} (h : s.memoriesWf) : (s.deliverSeq p).memoriesWf := by
  unfold State.deliverSeq
  grind [State.setCtx_wf, State.pushMsg_wf, State.report_wf, State.foldl_wf]

theorem State.dropHeld_wf {s : State} {p : Party} (h : s.memoriesWf) : (s.dropHeld p).memoriesWf := by
  unfold State.dropHeld
  grind [State.setCore_wf, State.recvAll_wf]

theorem State.orphanOps_wf {s : State} {p : Party} (h : s.memoriesWf) : (s.orphanOps p).memoriesWf := by
  unfold State.orphanOps
  grind [State.setCore_wf]

theorem State.endByTrap_wf {s : State} {p : Party} (h : s.memoriesWf) : (s.endByTrap p).memoriesWf := by
  unfold State.endByTrap
  grind [State.rollback_wf, State.dropHeld_wf, State.recvAll_wf, State.recvUp_wf, State.releaseSel_wf,
    State.dissolveGang_wf, State.orphanOps_wf, State.mod_wf, State.setCore_wf]

theorem State.leaveQueues_wf {s : State} {p : Party} (h : s.memoriesWf) : (s.leaveQueues p).memoriesWf := by
  unfold State.leaveQueues
  grind [State.setCore_wf, State.setClu_wf]

theorem State.supTrap_wf {s : State} {p : Party} {cause : BitVec 6} {tval : BitVec 64} (h : s.memoriesWf) :
    (s.supTrap p cause tval).memoriesWf := by
  unfold State.supTrap
  grind [State.setCtx_wf, State.setDev_wf]

theorem State.parkTrap_wf {s : State} {p : Party} {cause : BitVec 6} {tval : BitVec 64} (h : s.memoriesWf) :
    (s.parkTrap p cause tval).memoriesWf := by
  unfold State.parkTrap
  grind [State.setCtx_wf, State.report_wf]

theorem State.accSettled_wf {s : State} {p : Party} (h : s.memoriesWf) :
    (s.accSettled p).memoriesWf := State.forceAcc_wf h

theorem takeTrap_wf {s : State} {p : Party} {cause : BitVec 6} {tval : BitVec 64} (h : s.memoriesWf) :
    (takeTrap s p cause tval).memoriesWf := by
  unfold takeTrap
  grind [State.supTrap_wf, State.accSettled_wf, State.undoSel_wf, State.leaveQueues_wf, State.drainAll_wf,
    State.deliverSeq_wf, State.mod_wf, State.endByTrap_wf, State.pushMsg_wf, State.parkTrap_wf]

theorem State.trapReturn_wf {s : State} {p : Party} (h : s.memoriesWf) : (s.trapReturn p).memoriesWf := h

theorem State.askWalk_wf {s : State} {p : Party} {part : BitVec 8} {va : Nat} (h : s.memoriesWf) :
    (s.askWalk p part va).memoriesWf := by
  unfold State.askWalk
  dsimp only
  split
  · exact State.setDie_view (State.mod_wf h) rfl
  · split
    · exact State.setDie_view (State.mod_wf h) rfl
    · exact State.mod_wf h

theorem settle_wf {s : State} {t : Tri State} (h : s.memoriesWf) (ht : t.Keeps State.memoriesWf) : (settle s t).wf := by
  cases t with
  | val u => exact Out.wf_next (ht.1 u rfl)
  | trap => exact Out.wf_next (takeTrap_wf h)
  | stall u => exact Out.wf_next (ht.2 u rfl)
  | walk => exact Out.wf_next (State.askWalk_wf h)

theorem settleNext_wf {s : State} {t : Tri State} (h : s.memoriesWf) (ht : t.Keeps State.memoriesWf) :
    (settleNext s t).wf :=
  settle_wf h (ht.bind fun _ hu => Tri.keeps_val (State.advance_wf hu))

theorem onUnit_wf {w : BitVec 32} {s : State} {o : Out} (h : s.memoriesWf) (ho : o.wf) : (onUnit w s o).wf := by
  unfold onUnit
  split
  · exact settle_wf h Tri.keeps_trap
  · exact ho

theorem onSup_wf {w : BitVec 32} {s : State} {o : Out} (h : s.memoriesWf) (ho : o.wf) : (onSup w s o).wf := by
  unfold onSup
  split
  · exact ho
  · exact settle_wf h Tri.keeps_trap

theorem State.reach_keeps {s : State} {p : Party} {need : Need} {a n : Nat} :
    (s.reach p need a n).Keeps fun _ => True := by
  unfold State.reach
  grind [Tri.Keeps]

theorem State.unpoisoned_keeps {s : State} {p : Party} {a : Nat} {qs : List Nat} :
    (s.unpoisoned p a qs).Keeps fun _ => True := by
  unfold State.unpoisoned
  grind [Tri.Keeps]

theorem State.readBytes_keeps {s0 s : State} {p : Party} {need : Need} {a n : Nat} (h0 : s0.memoriesWf)
    (h : s.memoriesWf) :
    (s0.readBytes s p need a n).Keeps fun x => x.2.memoriesWf :=
  State.reach_keeps.bind fun _ _ => State.unpoisoned_keeps.bind fun _ _ => State.gather_keeps h0 h

theorem State.fetchBytes_keeps {s : State} {p : Party} {need : Need} {a n : Nat} :
    (s.fetchBytes p need a n).Keeps fun _ => True :=
  State.reach_keeps.bind fun _ _ =>
    State.unpoisoned_keeps.bind fun _ _ =>
    Tri.keeps_val trivial

theorem State.storeCells_wf {s : State} {p : Party} {e : StoreEntry} {cells : List (Nat × Byte)} (h : s.memoriesWf) :
    (s.storeCells p e cells).memoriesWf := by
  unfold State.storeCells
  grind [State.handStores_wf, State.fresh_wf]

theorem loadForm_wf {w : BitVec 32} {rd rs1 : BitVec 5} {off : BitVec 64} {n : Nat} {kind : Reg → LoadKind}
    {capAcc : Bool} {acq : Option (BitVec 3)} {s : State} (h : s.memoriesWf) :
    (loadForm w rd rs1 off n kind capAcc acq s).wf :=
  settleNext_wf h <|
    (State.memPre_keeps h).bind fun _ _ =>
    (State.pushRoom_keeps h).bind fun _ _ =>
    (State.src_keeps h).bind fun ⟨_, _⟩ h1 =>
    Tri.unless_keeps.bind fun _ _ =>
    State.reach_keeps.bind fun _ _ =>
    Tri.ensure_keeps.bind fun _ _ =>
    State.unpoisoned_keeps.bind fun _ _ =>
    by grind [Tri.Keeps, State.loadDest_wf, State.mod_wf, State.acquired_wf]

theorem storeForm_wf {w : BitVec 32} {rs1 rs2 : BitVec 5} {off : BitVec 64} {n : Nat} {e : StoreEntry} {aligned : Bool}
    {s : State} (h : s.memoriesWf) :
    (storeForm w rs1 rs2 off n e aligned s).wf :=
  settleNext_wf h <|
    (State.memPre_keeps h).bind fun _ _ =>
    (State.src_keeps h).bind fun ⟨_, _⟩ h1 =>
    (State.storeSrc_keeps h1).bind fun ⟨_, _⟩ h2 =>
    Tri.unless_keeps.bind fun _ _ =>
    State.reach_keeps.bind fun _ _ =>
    Tri.ensure_keeps.bind fun _ _ =>
    Tri.keeps_val (State.storeCells_wf h2)

/-! ## Operands -/

theorem exe0_wf {w : BitVec 32} {rd : BitVec 5} {s : State} {f : State → Tri (Reg × State)} (h : s.memoriesWf)
    (hf : ∀ s1, s1.memoriesWf → (f s1).Keeps fun x => x.2.memoriesWf) : (exe0 w rd s f).wf :=
  settleNext_wf h <|
    (State.exePre_keeps h).bind fun _ _ =>
    (hf s h).bind fun _ h1 =>
    Tri.keeps_val (State.dest_wf h1)

theorem exe1_wf {w : BitVec 32} {rd rs1 : BitVec 5} {s : State} {f : Reg → State → Tri (Reg × State)} (h : s.memoriesWf)
    (hf : ∀ a s1, s1.memoriesWf → (f a s1).Keeps fun x => x.2.memoriesWf) : (exe1 w rd rs1 s f).wf :=
  settleNext_wf h <|
    (State.exePre_keeps h).bind fun _ _ =>
    (State.src_keeps h).bind fun ⟨_, _⟩ h1 =>
    (hf _ _ h1).bind fun _ h2 =>
    Tri.keeps_val (State.dest_wf h2)

theorem exe2_wf {w : BitVec 32} {rd rs1 rs2 : BitVec 5} {s : State} {f : Reg → Reg → State → Tri (Reg × State)}
    (h : s.memoriesWf)
    (hf : ∀ a b s2, s2.memoriesWf → (f a b s2).Keeps fun x => x.2.memoriesWf) : (exe2 w rd rs1 rs2 s f).wf :=
  settleNext_wf h <|
    (State.exePre_keeps h).bind fun _ _ =>
    (State.src_keeps h).bind fun ⟨_, _⟩ h1 =>
    (State.src_keeps h1).bind fun ⟨_, _⟩ h2 =>
    (hf _ _ _ h2).bind fun _ h3 =>
    Tri.keeps_val (State.dest_wf h3)

theorem exe3_wf {w : BitVec 32} {rd rs1 rs2 rs3 : BitVec 5} {s : State}
    {f : Reg → Reg → Reg → State → Tri (Reg × State)}
    (h : s.memoriesWf) (hf : ∀ a b c s3, s3.memoriesWf → (f a b c s3).Keeps fun x => x.2.memoriesWf) :
    (exe3 w rd rs1 rs2 rs3 s f).wf :=
  settleNext_wf h <|
    (State.exePre_keeps h).bind fun _ _ =>
    (State.src_keeps h).bind fun ⟨_, _⟩ h1 =>
    (State.src_keeps h1).bind fun ⟨_, _⟩ h2 =>
    (State.src_keeps h2).bind fun ⟨_, _⟩ h3 =>
    (hf _ _ _ _ h3).bind fun _ h4 =>
    Tri.keeps_val (State.dest_wf h4)

theorem exe0_pure_wf {w : BitVec 32} {rd : BitVec 5} {s : State} {f : State → Reg} (h : s.memoriesWf) :
    (exe0 w rd s fun s1 => .val (f s1, s1)).wf := exe0_wf h fun _ h1 => Tri.keeps_val h1

theorem exe1_pure_wf {w : BitVec 32} {rd rs1 : BitVec 5} {s : State} {f : Reg → State → Reg} (h : s.memoriesWf) :
    (exe1 w rd rs1 s fun a s1 => .val (f a s1, s1)).wf := exe1_wf h fun _ _ h1 => Tri.keeps_val h1

theorem exe2_pure_wf {w : BitVec 32} {rd rs1 rs2 : BitVec 5} {s : State} {f : Reg → Reg → State → Reg}
    (h : s.memoriesWf) :
    (exe2 w rd rs1 rs2 s fun a b s2 => .val (f a b s2, s2)).wf := exe2_wf h fun _ _ _ h2 => Tri.keeps_val h2

theorem alu1_wf {w : BitVec 32} {rd rs1 : BitVec 5} {f : BitVec 64 → BitVec 64} {s : State} (h : s.memoriesWf) :
    (alu1 w rd rs1 f s).wf := exe1_pure_wf h

theorem alu2_wf {w : BitVec 32} {rd rs1 rs2 : BitVec 5} {f : BitVec 64 → BitVec 64 → BitVec 64} {s : State}
    (h : s.memoriesWf) :
    (alu2 w rd rs1 rs2 f s).wf := exe2_pure_wf h

/-! ## Owners -/

theorem State.sendOp_wf {s : State} {p : Party} {o : Op} (h : s.memoriesWf) : (s.sendOp p o).2.memoriesWf := by
  unfold State.sendOp
  grind [State.setDev_wf, State.sentUp_wf]

theorem State.post_wf {s : State} {p : Party} {o : Op} (h : s.memoriesWf) :
    (s.post p o).memoriesWf := State.advance_wf (State.sendOp_wf h)

theorem State.await_wf {s : State} {p : Party} {o : Op} {w : Waiting} (h : s.memoriesWf) :
    (s.await p o w).memoriesWf := by
  unfold State.await
  grind [State.sendOp_wf, State.mod_wf]

theorem State.postOrAwait_wf {s : State} {p : Party} {rd : BitVec 5} {o : Op} {w : Waiting} (h : s.memoriesWf) :
    (s.postOrAwait p rd o w).memoriesWf := by
  unfold State.postOrAwait
  grind [State.post_wf, State.await_wf]

theorem State.popOp_wf {s : State} {core : Nat} (h : s.memoriesWf) : (s.popOp core).memoriesWf := h

theorem State.replyTo_wf {s : State} {o : Op} {v : BitVec 64} {fault : Option (BitVec 6 × BitVec 64)}
    (h : s.memoriesWf) :
    (s.replyTo o v fault).memoriesWf := by
  unfold State.replyTo
  grind [State.mod_wf]

theorem State.ownerWrite_wf {s : State} {d q v n : Nat} (h : s.memoriesWf) :
    (s.ownerWrite d q v n).memoriesWf := State.writeAt_wf h

theorem ownerStep_wf {s : State} {c : CoreId} {isKind : OpKind → Bool} {f : Op → State → State} (h : s.memoriesWf)
    (hf : ∀ o s1, s1.memoriesWf → (f o s1).memoriesWf) : (ownerStep s c isKind f).wf := by
  unfold ownerStep
  grind [Out.wf_next, State.popOp_wf, State.recvUp_wf, State.replyTo_wf, State.report_wf]

theorem State.finishWait_wf {s : State} {p : Party} {w : Waiting} {v : Reg} (h : s.memoriesWf) :
    (s.finishWait p w v).memoriesWf := State.dest_wf (State.mod_wf h)

theorem execReplyDelivery_wf {p : Party} {s : State} (h : s.memoriesWf) : (execReplyDelivery p s).wf := by
  unfold execReplyDelivery
  grind [Out.wf_next, State.setCtx_wf, State.finishWait_wf, State.accSettled_wf, takeTrap_wf, State.mod_wf]

/-! ## Atomics -/

theorem amoForm_wf {w : BitVec 32} {oooo : BitVec 4} {n : Nat} {rd rs1 rs2 : BitVec 5} {s : State} (h : s.memoriesWf) :
    (amoForm w oooo n rd rs1 rs2 s).wf :=
  settle_wf h <|
    (State.exePre_keeps h).bind fun _ _ =>
    (State.src_keeps h).bind fun ⟨_, _⟩ h1 =>
    (State.src_keeps h1).bind fun ⟨_, _⟩ h2 =>
    Tri.unless_keeps.bind fun _ _ =>
    State.reach_keeps.bind fun _ _ =>
    Tri.ensure_keeps.bind fun _ _ =>
    Tri.keeps_val (State.postOrAwait_wf h2)

theorem execOwnerAmo_wf {c : CoreId} {s : State} (h : s.memoriesWf) : (execOwnerAmo c s).wf :=
  ownerStep_wf h fun _ _ h1 =>
    by grind [State.ownerWrite_wf, State.replyTo_wf]

/-! ## Barriers -/

theorem barForm_wf {w : BitVec 32} {rd rs1 : BitVec 5} {srcs : List (BitVec 5)} {s : State}
    {operand : State → Tri (Nat × State)}
    {count : Bool} {k : Nat → Nat → Nat → State → State} (h : s.memoriesWf)
    (ho : ∀ s1, s1.memoriesWf → (operand s1).Keeps fun x => x.2.memoriesWf)
    (hk : ∀ a q v s2, s2.memoriesWf → (k a q v s2).memoriesWf) : (barForm w rd rs1 srcs s operand count k).wf :=
  settle_wf h <|
    (State.exePre_keeps h).bind fun _ _ =>
    (State.src_keeps h).bind fun ⟨_, s1⟩ h1 =>
    (ho s1 h1).bind fun ⟨_, s2⟩ h2 =>
    Tri.unless_keeps.bind fun _ _ =>
    State.reach_keeps.bind fun _ _ =>
    Tri.ensure_keeps.bind fun _ _ =>
    Tri.ensure_keeps.bind fun _ _ =>
    Tri.keeps_val (hk _ _ _ s2 h2)

theorem secondSrc_keeps {p : Party} {r : BitVec 5} {s : State} (h : s.memoriesWf) :
    (secondSrc p r s).Keeps fun x => x.2.memoriesWf :=
  (State.src_keeps h).bind fun ⟨_, _⟩ h1 =>
    Tri.keeps_val h1

theorem State.barTimeout_wf {s : State} {p : Party} (h : s.memoriesWf) : (s.barTimeout p).memoriesWf := by
  unfold State.barTimeout
  grind [State.sendOp_wf, State.finishWait_wf]

theorem execBarwaitTimeout_wf {p : Party} {s : State} (h : s.memoriesWf) :
    (execBarwaitTimeout p s).wf := Out.wf_next (State.barTimeout_wf h)

theorem State.setBar_wf {s : State} {d q : Nat} {b : BarObj} (h : s.memoriesWf) :
    (s.setBar d q b).memoriesWf := State.ownerWrite_wf h

theorem State.endWaits_wf {s : State} {core q : Nat} {v : BitVec 64} (h : s.memoriesWf) :
    (s.endWaits core q v).memoriesWf := by
  unfold State.endWaits
  grind [State.setCore_wf, State.mod_wf, State.foldl_wf]

theorem execBarrierInitOp_wf {c : CoreId} {s : State} (h : s.memoriesWf) : (execBarrierInitOp c s).wf :=
  ownerStep_wf h fun _ _ h1 =>
    by grind [State.setBar_wf, State.endWaits_wf]

theorem execBarrierArriveOp_wf {c : CoreId} {s : State} (h : s.memoriesWf) : (execBarrierArriveOp c s).wf :=
  ownerStep_wf h fun _ _ h1 =>
    by grind [State.replyTo_wf, State.setBar_wf, State.endWaits_wf]

theorem execBarrierWaitOp_wf {c : CoreId} {s : State} (h : s.memoriesWf) : (execBarrierWaitOp c s).wf :=
  ownerStep_wf h fun _ _ h1 =>
    by grind [State.replyTo_wf, State.setCore_wf, State.setBar_wf]

theorem execBarrierCancel_wf {c : CoreId} {s : State} (h : s.memoriesWf) : (execBarrierCancel c s).wf :=
  ownerStep_wf h fun _ _ h1 =>
    by grind [State.setCore_wf, State.ownerWrite_wf]

theorem execBarrierReadOp_wf {c : CoreId} {s : State} (h : s.memoriesWf) : (execBarrierReadOp c s).wf :=
  ownerStep_wf h fun _ _ h1 =>
    by grind [State.replyTo_wf]

/-! ## Block forms -/

theorem State.blockPre_keeps {s : State} {p : Party} {w : BitVec 32} {rd rs1 rs2 : BitVec 5} (h : s.memoriesWf) :
    (s.blockPre p w rd rs1 rs2).Keeps fun _ => True := by
  unfold State.blockPre
  dsimp only
  split
  · exact Tri.keeps_trap
  · exact (State.exePre_keeps h).bind fun _ _ => State.issuePoint_keeps h

theorem State.blockStore_wf {s : State} {p : Party} {rd rs2 : BitVec 5} {q : Nat} {b : Byte} (h : s.memoriesWf) :
    (s.blockStore p rd rs2 q b).memoriesWf := h

theorem execBmov_wf {rd rs1 rs2 : BitVec 5} {s : State} (h : s.memoriesWf) : (execBmov rd rs1 rs2 s).wf := by
  refine settle_wf h ((State.blockPre_keeps h).bind fun _ _ => ?_)
  dsimp only
  split
  · exact Tri.keeps_val (State.advance_wf h)
  · exact Tri.unless_keeps.bind fun _ _ => Tri.unless_keeps.bind fun _ _ => State.fetchBytes_keeps.bind fun _ _ =>
      State.reach_keeps.bind fun _ _ => Tri.keeps_val h

theorem execBfill_wf {rd rs1 rs2 : BitVec 5} {s : State} (h : s.memoriesWf) : (execBfill rd rs1 rs2 s).wf := by
  refine settle_wf h ((State.blockPre_keeps h).bind fun _ _ => ?_)
  dsimp only
  split
  · exact Tri.keeps_val (State.advance_wf h)
  · exact Tri.unless_keeps.bind fun _ _ => State.reach_keeps.bind fun _ _ => Tri.keeps_val (State.blockStore_wf h)

theorem execRgn_wf {xs : BitVec 3} {s : State} (h : s.memoriesWf) : (execRgn xs s).wf :=
  settleNext_wf h <|
    (State.exePre_keeps h).bind fun _ _ =>
    (State.regsReady_keeps h).bind fun _ _ =>
    Tri.ensure_keeps.bind fun _ _ =>
    Tri.keeps_val (State.setCtx_wf h)

/-! ## Capabilities -/

theorem notSealed_keeps {r : Reg} {rs1 : BitVec 5} : (notSealed r rs1).Keeps fun _ => True := Tri.ensure_keeps

theorem execCadd_wf {rd rs1 rs2 : BitVec 5} {s : State} (h : s.memoriesWf) : (execCadd rd rs1 rs2 s).wf := by
  unfold execCadd
  exact exe2_wf h fun _ _ _ h1 =>
    notSealed_keeps.bind fun _ _ =>
    Tri.keeps_val h1

theorem execCaddi_wf {rd rs1 : BitVec 5} {imm : BitVec 12} {s : State} (h : s.memoriesWf) :
    (execCaddi rd rs1 imm s).wf := by
  unfold execCaddi
  exact exe1_wf h fun _ _ h1 =>
    notSealed_keeps.bind fun _ _ =>
    Tri.keeps_val h1

theorem execCset_wf {rd rs1 rs2 : BitVec 5} {s : State} (h : s.memoriesWf) : (execCset rd rs1 rs2 s).wf := by
  unfold execCset
  exact exe2_wf h fun _ _ _ h1 =>
    notSealed_keeps.bind fun _ _ =>
    Tri.keeps_val h1

theorem execCandp_wf {rd rs1 rs2 : BitVec 5} {s : State} (h : s.memoriesWf) : (execCandp rd rs1 rs2 s).wf := by
  unfold execCandp
  exact exe2_wf h fun _ _ _ h1 =>
    notSealed_keeps.bind fun _ _ =>
    Tri.keeps_val h1

theorem narrow_keeps {exact : Bool} {r : Reg} {len : BitVec 64} {rs1 : BitVec 5} :
    (narrow exact r len rs1).Keeps fun _ => True := by
  refine Tri.ensure_keeps.bind fun _ _ => Tri.ensure_keeps.bind fun _ _ => Tri.ensure_keeps.bind fun _ _ => ?_
  split
  · exact Tri.keeps_trap
  · exact Tri.ensure_keeps.bind fun _ _ => Tri.ensure_keeps.bind fun _ _ => Tri.keeps_val trivial

theorem execCbnd_wf {rd rs1 rs2 : BitVec 5} {s : State} (h : s.memoriesWf) : (execCbnd rd rs1 rs2 s).wf := by
  unfold execCbnd
  exact exe2_wf h fun _ _ _ h1 =>
    narrow_keeps.bind fun _ _ =>
    Tri.keeps_val h1

theorem execCbndx_wf {rd rs1 rs2 : BitVec 5} {s : State} (h : s.memoriesWf) : (execCbndx rd rs1 rs2 s).wf := by
  unfold execCbndx
  exact exe2_wf h fun _ _ _ h1 =>
    narrow_keeps.bind fun _ _ =>
    Tri.keeps_val h1

theorem State.sealing_wf {s : State} {p : Party} {t : Nat} (h : s.memoriesWf) : (s.sealing p t).2.memoriesWf := by
  unfold State.sealing
  split
  · exact h
  · split
    · exact h
    · exact State.sealClass_wf h

theorem sealForm_wf {w : BitVec 32} {rd rs1 rs2 : BitVec 5} {undo : Bool} {s : State} (h : s.memoriesWf) :
    (sealForm w rd rs1 rs2 undo s).wf :=
  exe2_wf h fun _ _ _ h1 =>
    Tri.ensure_keeps.bind fun _ _ => Tri.ensure_keeps.bind fun _ _ => Tri.ensure_keeps.bind fun _ _ =>
    Tri.keeps_val (State.sealing_wf h1)

theorem execCsc_wf {rs2 rs1 : BitVec 5} {imm : BitVec 12} {s : State} (h : s.memoriesWf) : (execCsc rs2 rs1 imm s).wf :=
  settleNext_wf h <|
    (State.memPre_keeps h).bind fun _ _ =>
    (State.src_keeps h).bind fun ⟨_, _⟩ h1 =>
    (State.storeSrc_keeps h1).bind fun ⟨_, _⟩ h2 =>
    Tri.unless_keeps.bind fun _ _ =>
    Tri.ensure_keeps.bind fun _ _ =>
    State.reach_keeps.bind fun _ _ =>
    Tri.keeps_val (State.handStores_wf h2)

/-! ## Control flow -/

theorem State.jump_keeps {s : State} {p : Party} {t : BitVec 64} (h : s.memoriesWf) :
    (s.jump p t).Keeps State.memoriesWf :=
  Tri.ensure_keeps.bind fun _ _ =>
    Tri.keeps_val (State.setPc_wf h)

theorem State.jumpLink_keeps {s : State} {p : Party} {rd : BitVec 5} {t : BitVec 64} (h : s.memoriesWf) :
    (s.jumpLink p rd t).Keeps State.memoriesWf :=
  (State.jump_keeps h).bind fun _ h1 =>
    Tri.keeps_val (State.dest_wf h1)

theorem branchForm_wf {w : BitVec 32} {rs1 rs2 : BitVec 5} {off : BitVec 12} {taken : BitVec 64 → BitVec 64 → Bool}
    {s : State} (h : s.memoriesWf) :
    (branchForm w rs1 rs2 off taken s).wf :=
  settle_wf h <|
    (State.exePre_keeps h).bind fun _ _ =>
    (State.src_keeps h).bind fun ⟨_, _⟩ h1 =>
    (State.src_keeps h1).bind fun ⟨_, _⟩ h2 =>
    by grind [Tri.Keeps, State.jump_keeps, State.advance_wf]

theorem execJal_wf {rd : BitVec 5} {off : BitVec 20} {s : State} (h : s.memoriesWf) : (execJal rd off s).wf :=
  settle_wf h <|
    (State.exePre_keeps h).bind fun _ _ =>
    State.jumpLink_keeps h

theorem execJalr_wf {rd rs1 : BitVec 5} {imm : BitVec 12} {s : State} (h : s.memoriesWf) : (execJalr rd rs1 imm s).wf :=
  settle_wf h <|
    (State.exePre_keeps h).bind fun _ _ =>
    (State.src_keeps h).bind fun ⟨_, _⟩ h1 =>
    State.jumpLink_keeps h1

theorem execEcall_wf {s : State} (h : s.memoriesWf) : (execEcall s).wf := by
  unfold execEcall
  grind [Out.wf_next, takeTrap_wf]

theorem execEbreak_wf {s : State} (h : s.memoriesWf) : (execEbreak s).wf := by
  unfold execEbreak
  grind [Out.wf_next, takeTrap_wf]

theorem execIllegalInstruction_wf {w : BitVec 32} {s : State} (h : s.memoriesWf) : (execIllegalInstruction w s).wf := by
  unfold execIllegalInstruction
  grind [Out.wf_next, takeTrap_wf]

theorem execInstructionFetchFault_wf {cause : BitVec 6} {tval : BitVec 64} {s : State} (h : s.memoriesWf) :
    (execInstructionFetchFault cause tval s).wf := by
  unfold execInstructionFetchFault
  grind [Out.wf_next, takeTrap_wf]

theorem execHintPoint_wf {_hint : BitVec 17} {s : State} (h : s.memoriesWf) :
    (execHintPoint _hint s).wf := Out.wf_next (State.advance_wf h)

/-! ## Fetch -/

theorem State.fetchWord_keeps {s : State} {p : Party} {pc : BitVec 64} : (s.fetchWord p pc).Keeps fun _ => True :=
  Tri.ensure_keeps.bind fun _ _ =>
    Tri.ensure_keeps.bind fun _ _ =>
    State.fetchBytes_keeps.bind fun _ _ =>
    Tri.keeps_val trivial

theorem State.tick_wf {s : State} {core n : Nat} (h : s.memoriesWf) : (s.tick core n).memoriesWf := h

/-! ## Tap words -/

theorem State.setTap_wf {s : State} {clu n : Nat} {t : Tap} (h : s.memoriesWf) : (s.setTap clu n t).memoriesWf := h

theorem State.writeTap_keeps {s : State} {d : Nat} {sel v : BitVec 64} {cap : Option Reg} {word01 : BitVec 64}
    (h : s.memoriesWf) :
    (s.writeTap d sel v cap word01).Keeps State.memoriesWf := by
  unfold State.writeTap
  grind [Tri.Keeps, State.setTap_wf]

/-! ## Control registers -/

theorem State.writeSltgo_wf {s : State} {p : Party} {v : BitVec 64} (h : s.memoriesWf) :
    (s.writeSltgo p v).memoriesWf := by
  unfold State.writeSltgo
  grind [State.setCtx_wf, State.setCore_wf]

theorem State.writeCsr_keeps {s : State} {p : Party} {r : Csr} {v : BitVec 64} {cap : Option Reg} {w : BitVec 64}
    (h : s.memoriesWf) :
    (s.writeCsr p r v cap w).Keeps State.memoriesWf := by
  unfold State.writeCsr
  grind [Tri.Keeps, State.setCtx_wf, State.setDev_wf, State.setCore_wf, State.writeSltgo_wf, State.writeTap_keeps]

theorem csrGate_keeps {p : Party} {w : BitVec 32} {n : BitVec 12} {writes : Bool} :
    (csrGate p w n writes).Keeps fun _ => True := by
  unfold csrGate
  grind [Tri.Keeps]

theorem State.csrAccess_keeps {s : State} {p : Party} {w : BitVec 32} {n : BitVec 12} {o : CsrOp} {writes : Bool}
    {v : BitVec 64}
    {cap : Option Reg} (h : s.memoriesWf) : (s.csrAccess p w n o writes v cap).Keeps fun x => x.2.memoriesWf := by
  refine csrGate_keeps.bind fun r _ => ?_
  dsimp only
  split
  · exact (State.writeCsr_keeps h).bind fun _ h1 => Tri.keeps_val h1
  · exact Tri.keeps_val h

theorem State.csrDest_wf {s : State} {p : Party} {rd : BitVec 5} {old : BitVec 64} (h : s.memoriesWf) :
    (s.csrDest p rd old).memoriesWf := h

theorem csrReg_wf {w : BitVec 32} {rd : BitVec 5} {n : BitVec 12} {rs1 : BitVec 5} {o : CsrOp} {s : State}
    (h : s.memoriesWf) :
    (csrReg w rd n rs1 o s).wf :=
  settleNext_wf h <|
    (State.exePre_keeps h).bind fun _ _ =>
    csrGate_keeps.bind fun _ _ =>
    Tri.ensure_keeps.bind fun _ _ =>
    (State.src_keeps h).bind fun ⟨_, _⟩ h1 =>
    (State.csrAccess_keeps h1).bind fun ⟨_, _⟩ h2 =>
    Tri.keeps_val (State.csrDest_wf h2)

theorem csrImm_wf {w : BitVec 32} {rd : BitVec 5} {n : BitVec 12} {u : BitVec 5} {o : CsrOp} {s : State}
    (h : s.memoriesWf) :
    (csrImm w rd n u o s).wf :=
  settleNext_wf h <|
    (State.exePre_keeps h).bind fun _ _ =>
    (State.csrAccess_keeps h).bind fun ⟨_, _⟩ h2 =>
    Tri.keeps_val (State.csrDest_wf h2)

theorem csrStep_wf {s : State} {t : Tri State} (h : s.memoriesWf) (ht : t.Keeps State.memoriesWf) :
    (csrStep s t).wf := by
  unfold csrStep
  grind [Out.wf_next, Tri.Keeps]

theorem configStep_wf {s : State} {die : Fin 8} {n : Fin 4} {f : Core → Option Core} (h : s.memoriesWf) :
    (configStep s die n f).wf := by
  unfold configStep
  grind [Out.wf_next, State.setCore_wf]

theorem execSltgoRequest_wf {die : Fin 8} {n : Fin 4} {v : BitVec 64} {s : State} (h : s.memoriesWf) :
    (execSltgoRequest die n v s).wf := Out.wf_next (State.writeSltgo_wf h)

theorem execSlotTableInstall_wf {c : CoreId} {s : State} (h : s.memoriesWf) : (execSlotTableInstall c s).wf := by
  unfold execSlotTableInstall
  grind [Out.wf_next, State.setCore_wf]

theorem tapStep_wf {s : State} {die : Fin 8} {n : Fin 4} {f : Tap → BitVec 64 → Option Tap} (h : s.memoriesWf) :
    (tapStep s die n f).wf := by
  unfold tapStep
  grind [Out.wf_next, State.setTap_wf]

theorem execRegisterWrite_wf {p : Party} {csr : BitVec 12} {v : BitVec 64} {s : State} (h : s.memoriesWf) :
    (execRegisterWrite p csr v s).wf := by
  unfold execRegisterWrite
  grind [Out.wf_next, csrStep_wf, State.writeCsr_keeps]

end Sys2Proof.Machine
end

section
/-! PROOFS. Canonical memories: messages, homes, the tag table, buffers and deckles. -/

namespace Sys2Proof.Machine

/-! ## Flits -/

theorem State.setPort_wf {s : State} {n : Nat} {x : Port} (h : s.memoriesWf) : (s.setPort n x).memoriesWf := h

theorem State.setSwitch_wf {s : State} {n : Nat} {x : Switch} (h : s.memoriesWf) : (s.setSwitch n x).memoriesWf := h

theorem State.enterSwitch_wf {s : State} {port : Nat} {f : Flit} (h : s.memoriesWf) :
    (s.enterSwitch port f).memoriesWf := by
  unfold State.enterSwitch
  grind [State.setSwitch_wf]

theorem State.sendFlit_wf {s : State} {port : Nat} {f : Flit} (h : s.memoriesWf) : (s.sendFlit port f).memoriesWf := by
  unfold State.sendFlit
  grind [State.enterSwitch_wf, State.setPort_wf]

theorem State.moveUp_wf {s : State} {port : Nat} {l : List Flit} (h : s.memoriesWf) : (s.moveUp port l).memoriesWf := by
  induction l generalizing s with
  | nil => grind [State.moveUp, State.setPort_wf, State.enterSwitch_wf]
  | cons x xs ih => grind [State.moveUp, State.setPort_wf, State.enterSwitch_wf]

theorem State.switchPass_wf {s : State} {port : Nat} (h : s.memoriesWf) : (s.switchPass port).memoriesWf := by
  unfold State.switchPass
  grind [State.fresh_wf, State.setSwitch_wf, State.moveUp_wf]

theorem State.sendOnPlane_wf {s : State} {req : BitVec 24} {f : Flit} (h : s.memoriesWf) :
    (s.sendOnPlane req f).memoriesWf := by
  unfold State.sendOnPlane
  grind [State.sendFlit_wf]

theorem State.sendBulk_wf {s : State} {req : BitVec 24} {n : Nat} {f : Flit} (h : s.memoriesWf) :
    (s.sendBulk req n f).memoriesWf := by
  unfold State.sendBulk
  grind [State.sendOnPlane_wf, State.sendFlit_wf]

theorem State.goodFlit_wf {s : State} {f : Flit} (h : s.memoriesWf) : (s.goodFlit f).memoriesWf := by
  unfold State.goodFlit
  grind [State.setPort_wf]

theorem State.sendCounted_wf {s : State} {dst : BitVec 12} {plane : Nat} {x : Counted} (h : s.memoriesWf) :
    (s.sendCounted dst plane x).memoriesWf := by
  unfold State.sendCounted
  grind [State.setDev_wf, State.sendFlit_wf]

theorem State.reportHeld_wf {s : State} {x : Counted} (h : s.memoriesWf) : (s.reportHeld x).memoriesWf := by
  unfold State.reportHeld
  grind [State.report_wf]

theorem State.sendUnder_wf {s : State} {dst : BitVec 12} {x : Counted} (h : s.memoriesWf) :
    (s.sendUnder dst x).memoriesWf := by
  unfold State.sendUnder
  grind [State.setDev_wf, State.sendCounted_wf, State.reportHeld_wf]

theorem State.sendMessage_wf {s : State} {die : Nat} {dst : BitVec 12} {m : Message} (h : s.memoriesWf) :
    (s.sendMessage die dst m).memoriesWf := State.sendUnder_wf h

theorem State.flushHeld_wf {s : State} {l : List (Nat × Counted)} (h : s.memoriesWf) : (s.flushHeld l).memoriesWf := by
  induction l generalizing s with
  | nil => grind [State.flushHeld, State.setDev_wf, State.sendCounted_wf]
  | cons x xs ih => grind [State.flushHeld, State.setDev_wf, State.sendCounted_wf]

theorem State.flushMessages_wf {s : State} (h : s.memoriesWf) : (s.flushMessages).memoriesWf := State.flushHeld_wf h

theorem State.reportHandOff_wf {s : State} {n : Nat} (h : s.memoriesWf) :
    (s.reportHandOff n).memoriesWf := State.report_wf h

theorem State.discardFlit_wf {s : State} {f : Flit} (h : s.memoriesWf) :
    (s.discardFlit f).memoriesWf := State.report_wf h

theorem State.passTime_wf {s : State} {clock n : Nat} (h : s.memoriesWf) : (s.passTime clock n).memoriesWf := by
  unfold State.passTime
  grind [State.tick_wf, State.setDev_wf, State.switchPass_wf, State.fresh_wf]

/-! ## Messages -/

theorem State.pushCommand_wf {s : State} {p : Party} {m : Message} (h : s.memoriesWf) :
    (s.pushCommand p m).memoriesWf := h

theorem State.sendDesc_wf {s : State} {p : Party} {m : Message} (h : s.memoriesWf) : (s.sendDesc p m).2.memoriesWf := by
  unfold State.sendDesc
  grind [State.readDesc_wf]

theorem State.sendFrom_keeps {s0 s : State} {p : Party} {m : Message} (h0 : s0.memoriesWf) (h : s.memoriesWf) :
    (s0.sendFrom s p m).Keeps State.memoriesWf := by
  unfold State.sendFrom
  grind [Tri.Keeps, State.sendDesc_wf, State.askUnit_wf, State.pushMsg_wf]

theorem State.sendOrCommand_keeps {s0 s : State} {p : Party} {m : Message} (h0 : s0.memoriesWf) (h : s.memoriesWf) :
    (s0.sendOrCommand s p m).Keeps State.memoriesWf := by
  unfold State.sendOrCommand
  grind [Tri.Keeps, State.pushCommand_wf, State.sendFrom_keeps]

theorem execSend_wf {rd rs1 rs2 : BitVec 5} {s : State} (h : s.memoriesWf) : (execSend rd rs1 rs2 s).wf :=
  settleNext_wf h <|
    (State.exePre_keeps h).bind fun _ _ =>
    (State.regsReady_keeps h).bind fun _ _ =>
    (State.src_keeps h).bind fun ⟨_, _⟩ h1 =>
    (State.src_keeps h1).bind fun ⟨_, _⟩ h2 =>
    Tri.ensure_keeps.bind fun _ _ =>
    (State.sendOrCommand_keeps h h2).bind fun _ h3 =>
    Tri.keeps_val (State.dest_wf h3)

theorem execSendb_wf {rd : BitVec 5} {xs : BitVec 3} {s : State} (h : s.memoriesWf) : (execSendb rd xs s).wf :=
  settleNext_wf h <|
    (State.exePre_keeps h).bind fun _ _ =>
    (State.regsReady_keeps h).bind fun _ _ =>
    Tri.unless_keeps.bind fun _ _ =>
    (State.readBytes_keeps h h).bind fun ⟨_, _⟩ h1 =>
    Tri.ensure_keeps.bind fun _ _ =>
    Tri.ensure_keeps.bind fun _ _ =>
    (State.sendFrom_keeps h h1).bind fun _ h2 =>
    Tri.keeps_val (State.dest_wf h2)

theorem execDecr_wf {rd rs1 rs2 : BitVec 5} {s : State} (h : s.memoriesWf) : (execDecr rd rs1 rs2 s).wf :=
  settleNext_wf h <|
    (State.exePre_keeps h).bind fun _ _ =>
    (State.src_keeps h).bind fun ⟨_, _⟩ h1 =>
    (State.src_keeps h1).bind fun ⟨_, _⟩ h2 =>
    Tri.ensure_keeps.bind fun _ _ =>
    (State.sendFrom_keeps h h2).bind fun _ h3 =>
    Tri.keeps_val (State.dest_wf h3)

theorem execCarry_wf {rd : BitVec 5} {xs : BitVec 3} {s : State} (h : s.memoriesWf) : (execCarry rd xs s).wf := by
  refine settle_wf h <|
    (State.exePre_keeps h).bind fun _ _ =>
    (State.regsReady_keeps h).bind fun _ _ =>
    Tri.unless_keeps.bind fun _ _ =>
    Tri.unless_keeps.bind fun _ _ =>
    Tri.unless_keeps.bind fun _ _ =>
    Tri.unless_keeps.bind fun _ _ =>
    State.reach_keeps.bind fun _ _ =>
    (State.readBytes_keeps h h).bind fun ⟨_, _⟩ h0 =>
    Tri.ensure_keeps.bind fun _ _ => ?_
  split
  · exact Tri.keeps_trap
  · refine Tri.ensure_keeps.bind fun _ _ => ?_
    dsimp only
    split
    · exact Tri.keeps_stall h
    · split
      · exact Tri.keeps_val (State.advance_wf (State.setDev_wf (State.sentUp_wf (State.setCore_wf h0))))
      · exact Tri.keeps_val (State.mod_wf (State.setDev_wf (State.sentUp_wf (State.setCore_wf h0))))

theorem inFiring_keeps {p : Party} : (inFiring p).Keeps fun _ => True := Tri.ensure_keeps

theorem inKeyed_keeps {p : Party} {c : Ctx} : (inKeyed p c).Keeps fun _ => True := Tri.ensure_keeps

theorem execMpop_wf {rd : BitVec 5} {s : State} (h : s.memoriesWf) : (execMpop rd s).wf := by
  unfold execMpop
  exact exe0_wf h fun _ h1 =>
    inFiring_keeps.bind fun _ _ =>
    (State.regsReady_keeps h).bind fun _ _ =>
    by grind [Tri.Keeps, State.mod_wf]

theorem execMpeek_wf {rd : BitVec 5} {s : State} (h : s.memoriesWf) : (execMpeek rd s).wf := by
  unfold execMpeek
  exact exe0_wf h fun _ h1 =>
    inFiring_keeps.bind fun _ _ =>
    by grind [Tri.Keeps]

theorem execMdrop_wf {s : State} (h : s.memoriesWf) : (execMdrop s).wf := by
  unfold execMdrop
  exact exe0_wf h fun _ h1 =>
    inFiring_keeps.bind fun _ _ =>
    Tri.keeps_val (State.mod_wf h1)

theorem State.setPin_wf {s : State} {core home : Nat} {n : ActorName} {v : Bool} (h : s.memoriesWf) :
    (s.setPin core home n v).memoriesWf := by
  unfold State.setPin
  grind [State.setCore_wf, State.setClu_wf]

theorem execPin_wf {rs1 : BitVec 5} {s : State} (h : s.memoriesWf) : (execPin rs1 s).wf := by
  unfold execPin
  exact exe1_wf h fun _ _ h1 => inKeyed_keeps.bind fun _ _ => Tri.keeps_val (State.setPin_wf h1)

theorem execSpawn_wf {rd : BitVec 5} {xs : BitVec 3} {s : State} (h : s.memoriesWf) : (execSpawn rd xs s).wf := by
  unfold execSpawn
  refine exe0_wf h fun _ h1 => (State.regsReady_keeps h).bind fun _ _ => ?_
  dsimp only
  split
  · exact Tri.keeps_val h1
  · refine Tri.unless_keeps.bind fun _ _ => Tri.ensure_keeps.bind fun _ _ => Tri.ensure_keeps.bind fun _ _ => ?_
    split
    · exact Tri.keeps_val h1
    · exact Tri.keeps_val (State.setDie_view h1 rfl)

theorem execLwait_wf {rd rs1 rs2 : BitVec 5} {s : State} (h : s.memoriesWf) : (execLwait rd rs1 rs2 s).wf :=
  settle_wf h <|
    (State.exePre_keeps h).bind fun _ _ =>
    (State.src_keeps h).bind fun ⟨_, _⟩ h1 =>
    (State.src_keeps h1).bind fun ⟨_, _⟩ h2 =>
    inKeyed_keeps.bind fun _ _ =>
    Tri.keeps_val (State.mod_wf (State.setDev_wf h2))

theorem execShpush_wf {rd : BitVec 5} {xs : BitVec 3} {s : State} (h : s.memoriesWf) : (execShpush rd xs s).wf := by
  unfold execShpush
  exact exe0_wf h fun _ h1 =>
    inFiring_keeps.bind fun _ _ =>
    (State.regsReady_keeps h).bind fun _ _ =>
    by grind [Tri.Keeps, State.setCore_wf, State.sentUp_wf]

/-! ## Hosting -/

theorem State.bankStore_wf {s : State} {n : Nat} (h : s.memoriesWf) : (s.bankStore n).2.memoriesWf := by
  unfold State.bankStore
  grind [State.copyDword_wf]

theorem State.setBank_wf {s : State} {e : BankEntry} (h : s.memoriesWf) : (s.setBank e).memoriesWf := by
  unfold State.setBank
  grind [State.setDev_wf]

theorem State.markFaulted_wf {s : State} {die : Nat} {n : ActorName} {cause : BitVec 6} (h : s.memoriesWf) :
    (s.markFaulted die n cause).memoriesWf := by
  unfold State.markFaulted
  grind [State.setDev_wf, State.report_wf]

theorem State.setHearth_wf {s : State} {home i : Nat} {h : Hearth} (hs : s.memoriesWf) :
    (s.setHearth home i h).memoriesWf := hs

theorem State.toHost_wf {s : State} {home core : Nat} {x : HostItem} (h : s.memoriesWf) :
    (s.toHost home core x).memoriesWf := h

theorem State.forward_wf {s : State} {home i : Nat} {h : Hearth} {ms : List Message} (hs : s.memoriesWf) :
    (s.forward home i h ms).memoriesWf := by
  unfold State.forward
  grind [State.setHearth_wf, State.sendMessage_wf, State.toHost_wf, State.foldl_wf]

theorem State.toHome_wf {s : State} {home : Nat} {e : HomeEvent} (h : s.memoriesWf) : (s.toHome home e).memoriesWf := h

theorem State.intend_wf {s : State} {core : Nat} {n : ActorName} (h : s.memoriesWf) : (s.intend core n).memoriesWf := by
  unfold State.intend
  grind [State.setCore_wf, State.toHome_wf]

theorem State.chooseHost_wf {s : State} {home i : Nat} (h : s.memoriesWf) : (s.chooseHost home i).memoriesWf := by
  unfold State.chooseHost
  grind [State.readDesc_wf, State.setHearth_wf, State.toHost_wf, State.setCore_wf]

theorem State.evictOne_wf {s : State} {home : Nat} {part : BitVec 8} (h : s.memoriesWf) :
    (s.evictOne home part).memoriesWf := by
  unfold State.evictOne
  grind [State.intend_wf, State.foldl_wf]

theorem State.homePlace_wf {s : State} {home : Nat} {m : Message} (h : s.memoriesWf) :
    ∀ t, s.homePlace home m = some t → t.memoriesWf := by
  unfold State.homePlace
  dsimp only
  split
  · grind [State.forward_wf, State.setHearth_wf]
  · grind [Option.map_eq_some_iff, State.setHearth_wf, State.chooseHost_wf]

theorem State.homeMessage_wf {s : State} {home : Nat} {m : Message} (h : s.memoriesWf) :
    (s.homeMessage home m).memoriesWf := by
  unfold State.homeMessage
  grind [State.setClu_wf, State.homePlace_wf, State.evictOne_wf]

theorem State.retryFull_wf {s : State} {home i : Nat} (h : s.memoriesWf) : (s.retryFull home i).memoriesWf := by
  unfold State.retryFull
  grind [State.setClu_wf, State.homePlace_wf, State.evictOne_wf]

theorem State.goLive_wf {s : State} {home i : Nat} {h : Hearth} {base : BitVec 16} (hs : s.memoriesWf) :
    (s.goLive home i h base).memoriesWf := State.forward_wf hs

theorem State.itemDone_wf {s : State} {x : Option (Nat × Nat × Nat)} (h : s.memoriesWf) :
    (s.itemDone x).memoriesWf := by
  unfold State.itemDone
  grind [State.setDie_view]

theorem State.inboxPlace_wf {s : State} {core : Nat} {m : Message} (h : s.memoriesWf) :
    (s.inboxPlace core m).memoriesWf := by
  unfold State.inboxPlace
  grind [State.itemDone_wf, State.setCore_wf]

/-! ## Homes -/

theorem State.homePop_wf {s : State} {home : Nat} (h : s.memoriesWf) : (s.homePop home).memoriesWf := h

theorem execHomeMessageArrival_wf {die : Fin 8} {clu : Fin 256} {s : State} (h : s.memoriesWf) :
    (execHomeMessageArrival die clu s).wf := by
  unfold execHomeMessageArrival
  grind [Out.wf_next, State.homePop_wf, State.homeMessage_wf]

theorem execKindleHostRetry_wf {die : Fin 8} {clu : Fin 256} {i : Nat} {s : State} (h : s.memoriesWf) :
    (execKindleHostRetry die clu i s).wf := by
  unfold execKindleHostRetry
  grind [Out.wf_next, State.chooseHost_wf, State.retryFull_wf]

theorem State.fillWindowBytes_wf {s : State} {core off : Nat} {bs : List Byte} (h : s.memoriesWf) :
    (s.fillWindowBytes core off bs).memoriesWf := by
  unfold State.fillWindowBytes
  grind [State.writeAt_wf]

theorem State.evictFor_wf {s : State} {core : Nat} (h : s.memoriesWf) : (s.evictFor core).memoriesWf := by
  unfold State.evictFor
  grind [State.intend_wf]

theorem State.kindleAt_wf {s : State} {core home : Nat} {n : ActorName} {pin : Bool} (h : s.memoriesWf) :
    (s.kindleAt core home n pin).2.memoriesWf := by
  unfold State.kindleAt
  grind [State.readDesc_wf, State.bankStore_wf, State.markFaulted_wf, State.setBank_wf, State.evictFor_wf,
    State.fillWindowBytes_wf, State.setCore_wf]

theorem State.unchoose_wf {s : State} {home : Nat} {n : ActorName} (h : s.memoriesWf) :
    (s.unchoose home n).memoriesWf := by
  unfold State.unchoose
  grind [State.setHearth_wf]

theorem execKindleStateInPlace_wf {c : CoreId} {i : Nat} {s : State} (h : s.memoriesWf) :
    (execKindleStateInPlace c i s).wf := by
  unfold execKindleStateInPlace
  grind [Out.wf_next, State.askUnit_wf, State.kindleAt_wf, State.setCore_wf, State.goLive_wf, State.unchoose_wf]

theorem execBankIntent_wf {die : Fin 8} {clu : Fin 256} {s : State} (h : s.memoriesWf) :
    (execBankIntent die clu s).wf := by
  unfold execBankIntent
  grind [Out.wf_next, State.homePop_wf, State.setHearth_wf, State.toHost_wf]

theorem execBankOrder_wf {c : CoreId} {s : State} (h : s.memoriesWf) : (execBankOrder c s).wf := by
  unfold execBankOrder
  grind [Out.wf_next, State.bankStore_wf, State.setBank_wf, State.setCore_wf, State.toHome_wf, State.markFaulted_wf]

theorem State.unitSend_wf {s : State} {unit : Nat} {m : Message} {dest : Dest} {rel : Option Release}
    (h : s.memoriesWf) : (s.unitSend unit m dest rel).memoriesWf := h

theorem State.handOn_wf {s : State} {home : Nat} {h : Hearth} {last : Bool} (hs : s.memoriesWf) :
    (s.handOn home h last).memoriesWf := by
  unfold State.handOn
  grind [State.readDesc_wf, State.findHome_wf, State.toHome_wf, State.unitSend_wf, State.recvAll_wf, State.report_wf,
    State.foldl_wf]

theorem State.handOver_wf {s : State} {home i : Nat} {h : Hearth} (hs : s.memoriesWf) :
    (s.handOver home i h).memoriesWf := by
  unfold State.handOver
  grind [State.setClu_wf, State.handOn_wf]

theorem State.handOverDone_wf {s : State} {home i : Nat} {h : Hearth} (hs : s.memoriesWf) :
    (s.handOverDone home i h).memoriesWf := by
  unfold State.handOverDone
  grind [State.handOver_wf, State.setHearth_wf, State.handOn_wf]

theorem execImageWritten_wf {die : Fin 8} {clu : Fin 256} {s : State} (h : s.memoriesWf) :
    (execImageWritten die clu s).wf := by
  unfold execImageWritten
  grind [Out.wf_next, State.homePop_wf, State.handOverDone_wf, State.setClu_wf, State.setHearth_wf, State.chooseHost_wf]

theorem execBankRefused_wf {die : Fin 8} {clu : Fin 256} {s : State} (h : s.memoriesWf) :
    (execBankRefused die clu s).wf := by
  unfold execBankRefused
  grind [Out.wf_next, State.homePop_wf, State.goLive_wf]

theorem State.moveOrder_wf {s : State} {home : Nat} {n : ActorName} {evenPinned : Bool} (h : s.memoriesWf) :
    (s.moveOrder home n evenPinned).memoriesWf := by
  unfold State.moveOrder
  grind [State.setHearth_wf, State.chooseHost_wf]

theorem execShipOrder_wf {c : CoreId} {s : State} (h : s.memoriesWf) : (execShipOrder c s).wf := by
  unfold execShipOrder
  grind [Out.wf_next, State.setCore_wf, State.setBank_wf]

theorem State.feed_wf {s : State} {core : Nat} {l : List Message} (h : s.memoriesWf) :
    (s.feed core l).2.memoriesWf := by
  induction l generalizing s with
  | nil => grind [State.feed, State.inboxPlace_wf]
  | cons x xs ih => grind [State.feed, State.inboxPlace_wf]

theorem State.placeShipped_wf {s : State} {core i off : Nat} {x : Incoming} {a : Actor} {bytes : List Byte}
    (h : s.memoriesWf) :
    (s.placeShipped core i off x a bytes).memoriesWf := by
  unfold State.placeShipped
  grind [State.setCore_wf, State.fillWindowBytes_wf, State.foldl_wf]

theorem State.finishMove_wf {s : State} {core i : Nat} (h : s.memoriesWf) : (s.finishMove core i).memoriesWf := by
  unfold State.finishMove
  grind [State.feed_wf, State.setCore_wf, State.goLive_wf]

theorem execMoveStateInPlace_wf {c : CoreId} {s : State} (h : s.memoriesWf) : (execMoveStateInPlace c s).wf := by
  unfold execMoveStateInPlace
  dsimp only
  split
  · exact Out.wf_next h
  · split
    · exact Out.wf_next h
    · grind [Out.wf_next, State.finishMove_wf, State.evictFor_wf, State.placeShipped_wf]

theorem execAddrHomeHandover_wf {die : Fin 8} {clu : Fin 256} {s : State} (h : s.memoriesWf) :
    (execAddrHomeHandover die clu s).wf := by
  unfold execAddrHomeHandover
  grind [Out.wf_next, State.setHearth_wf, State.toHost_wf, State.handOverDone_wf, State.dest_wf, State.foldl_wf]

theorem State.takeHanded_wf {s : State} {home : Nat} {n : ActorName} {ms : List Message} (h : s.memoriesWf) :
    (s.takeHanded home n ms).memoriesWf := by
  unfold State.takeHanded
  grind [State.setHearth_wf, State.evictOne_wf, State.toHome_wf]

theorem execHandoverMarker_wf {die : Fin 8} {clu : Fin 256} {s : State} (h : s.memoriesWf) :
    (execHandoverMarker die clu s).wf := by
  unfold execHandoverMarker
  grind [Out.wf_next, State.homePop_wf, State.homeMessage_wf, State.setHearth_wf, State.chooseHost_wf, State.toHome_wf,
    State.takeHanded_wf, State.foldl_wf]

/-! ## The tag table -/

theorem needUnit_keeps {p : Party} {w : BitVec 32} : (needUnit p w).Keeps fun _ => True := Tri.ensure_keeps

theorem State.setTags_wf {s : State} {core : Nat} {t : Vector TagSlot 64} (h : s.memoriesWf) :
    (s.setTags core t).memoriesWf := h

theorem execTaglk_wf {rd rs1 : BitVec 5} {s : State} (h : s.memoriesWf) : (execTaglk rd rs1 s).wf := by
  unfold execTaglk
  exact onUnit_wf h <| exe1_wf h fun _ _ h1 =>
    by grind [Tri.Keeps, State.setTags_wf]

theorem execTagins_wf {rd rs1 rs2 : BitVec 5} {s : State} (h : s.memoriesWf) : (execTagins rd rs1 rs2 s).wf := by
  unfold execTagins
  exact onUnit_wf h <| exe2_wf h fun _ _ _ h1 =>
    by grind [Tri.Keeps, State.setTags_wf]

theorem tagForm_wf {w : BitVec 32} {rs1 : BitVec 5} {f : Vector TagSlot 64 → Nat → Option (Vector TagSlot 64)}
    {s : State} (h : s.memoriesWf) :
    (tagForm w rs1 f s).wf := by
  unfold tagForm
  exact onUnit_wf h <| exe1_wf h fun _ _ h1 =>
    by grind [Tri.Keeps, State.setTags_wf]

/-! ## Circular buffers -/

theorem execCbinit_wf {bd : BitVec 4} {rs1 : BitVec 5} {s : State} (h : s.memoriesWf) : (execCbinit bd rs1 s).wf :=
  settleNext_wf h <|
    (State.exePre_keeps h).bind fun _ _ =>
    needUnit_keeps.bind fun _ _ =>
    (State.src_keeps h).bind fun ⟨_, _⟩ h1 =>
    Tri.unless_keeps.bind fun _ _ =>
    (State.readBytes_keeps h h1).bind fun ⟨_, _⟩ h1 =>
    Tri.ensure_keeps.bind fun _ _ =>
    by grind [Tri.Keeps, State.setCore_wf]

theorem State.cbputNow_wf {s : State} {p : Party} {b : BitVec 4} (h : s.memoriesWf) :
    ∀ t, s.cbputNow p b = some t → t.memoriesWf := by
  unfold State.cbputNow
  grind [State.setCore_wf, State.mod_wf]

theorem execCbput_wf {bd : BitVec 4} {s : State} (h : s.memoriesWf) : (execCbput bd s).wf :=
  settle_wf h <|
    (State.exePre_keeps h).bind fun _ _ =>
    needUnit_keeps.bind fun _ _ =>
    by grind [Tri.Keeps, State.cbputNow_wf, State.setCore_wf, State.mod_wf]

theorem execCbputEffect_wf {p : Party} {s : State} (h : s.memoriesWf) : (execCbputEffect p s).wf := by
  unfold execCbputEffect
  grind [Out.wf_next, State.cbputNow_wf]

theorem execCbget_wf {rd : BitVec 5} {bs : BitVec 4} {s : State} (h : s.memoriesWf) : (execCbget rd bs s).wf :=
  settleNext_wf h <|
    (State.exePre_keeps h).bind fun _ _ =>
    needUnit_keeps.bind fun _ _ =>
    by grind [Tri.Keeps, State.setCore_wf, State.mod_wf, State.dest_wf]

theorem execCbrel_wf {bd : BitVec 4} {s : State} (h : s.memoriesWf) : (execCbrel bd s).wf :=
  settleNext_wf h <|
    (State.exePre_keeps h).bind fun _ _ =>
    needUnit_keeps.bind fun _ _ =>
    by grind [Tri.Keeps, State.setCore_wf]

theorem execCbstat_wf {rd : BitVec 5} {bs : BitVec 4} {s : State} (h : s.memoriesWf) : (execCbstat rd bs s).wf := by
  unfold execCbstat
  exact exe0_wf h fun _ h1 => needUnit_keeps.bind fun _ _ => Tri.keeps_val h1

/-! ## Deckles -/

theorem State.extent_keeps {s0 s : State} {p : Party} {c : Reg} {base : Nat} {d : BitVec 512} {i : Nat}
    (h0 : s0.memoriesWf)
    (h : s.memoriesWf) : (s0.extent s p c base d i).Keeps fun x => x.2.memoriesWf := by
  unfold State.extent
  split
  · exact Tri.unless_keeps.bind fun _ _ => (State.readBytes_keeps h0 h).bind fun ⟨_, _⟩ h1 => Tri.keeps_val h1
  · exact Tri.keeps_val h

theorem State.extentProduct_keeps {s0 s : State} {p : Party} {c : Reg} {base : Nat} {d : BitVec 512} {n : Nat}
    (h0 : s0.memoriesWf) (h : s.memoriesWf) : (s0.extentProduct s p c base d n).Keeps fun x => x.2.memoriesWf := by
  induction n with
  | zero => exact Tri.keeps_val h
  | succ n ih => exact ih.bind fun ⟨_, _⟩ h1 => (State.extent_keeps h0 h1).bind fun ⟨_, _⟩ h2 => Tri.keeps_val h2

theorem State.readDeckle_keeps {s0 s : State} {p : Party} {c : Reg} (h0 : s0.memoriesWf) (h : s.memoriesWf) :
    (s0.readDeckle s p c).Keeps fun x => x.2.memoriesWf :=
  Tri.unless_keeps.bind fun _ _ =>
    (State.readBytes_keeps h0 h).bind fun ⟨_, _⟩ h1 =>
    Tri.keeps_val h1

theorem execDkl_wf {rd rs1 rs2 : BitVec 5} {s : State} (h : s.memoriesWf) : (execDkl rd rs1 rs2 s).wf := by
  unfold execDkl
  refine onUnit_wf h <| exe2_wf h fun _ _ _ h1 =>
    (State.readDeckle_keeps h h1).bind fun ⟨_, _⟩ h2 => Tri.ensure_keeps.bind fun _ _ => ?_
  split
  · exact Tri.ensure_keeps.bind fun _ _ => (State.extent_keeps h h2).bind fun ⟨_, _⟩ h3 => Tri.keeps_val h3
  · exact Tri.ensure_keeps.bind fun _ _ => (State.extentProduct_keeps h h2).bind fun ⟨_, _⟩ h3 => Tri.keeps_val h3

end Sys2Proof.Machine
end

section
/-! PROOFS. Canonical memories: matrix forms, firings, delivery, loads and stores, copies, streams and vectors. -/

namespace Sys2Proof.Machine

/-! ## Matrix forms -/

theorem State.enterQueue_wf {s : State} {p : Party} {o : MOp} (h : s.memoriesWf) : (s.enterQueue p o).memoriesWf := h

theorem State.matPre_keeps {s : State} {p : Party} {w : BitVec 32} {rd : BitVec 5} {srcs : List (BitVec 5)}
    (h : s.memoriesWf) :
    (s.matPre p w rd srcs).Keeps fun _ => True :=
  needUnit_keeps.bind fun _ _ =>
    State.exePre_keeps h

theorem execTcfg_wf {md : BitVec 5} {rs1 : BitVec 5} {s : State} (h : s.memoriesWf) : (execTcfg md rs1 s).wf :=
  settleNext_wf h <|
    (State.matPre_keeps h).bind fun _ _ =>
    (State.src_keeps h).bind fun ⟨_, _⟩ h1 =>
    Tri.ensure_keeps.bind fun _ _ =>
    by grind [Tri.Keeps, State.setCore_wf, State.enterQueue_wf]

theorem execMzero_wf {md : BitVec 5} {s : State} (h : s.memoriesWf) : (execMzero md s).wf :=
  settleNext_wf h <|
    (State.matPre_keeps h).bind fun _ _ =>
    Tri.ensure_keeps.bind fun _ _ =>
    by grind [Tri.Keeps, State.setCore_wf, State.enterQueue_wf]

theorem execMload_wf {md : BitVec 5} {rs1 : BitVec 5} {s : State} (h : s.memoriesWf) : (execMload md rs1 s).wf :=
  settleNext_wf h <|
    (State.matPre_keeps h).bind fun _ _ =>
    (State.src_keeps h).bind fun ⟨_, _⟩ h1 =>
    Tri.unless_keeps.bind fun _ _ =>
    Tri.ensure_keeps.bind fun _ _ =>
    (State.readBytes_keeps h h1).bind fun ⟨_, _⟩ h2 =>
    by grind [Tri.Keeps, State.setCore_wf, State.enterQueue_wf]

theorem State.matRows_keeps {s0 s : State} {p : Party} {w : BitVec 64} {rs2 : BitVec 5} (h0 : s0.memoriesWf)
    (h : s.memoriesWf) :
    (s0.matRows s p w rs2).Keeps fun x => x.2.memoriesWf := by
  unfold State.matRows
  split
  · exact Tri.keeps_val h
  · refine (State.src_keeps h).bind fun ⟨_, _⟩ h1 => (State.readDeckle_keeps h0 h1).bind fun ⟨_, _⟩ h2 => ?_
    dsimp only
    split
    · exact Tri.keeps_val h2
    · exact (State.extent_keeps h0 h2).bind fun ⟨_, _⟩ h3 => Tri.keeps_val h3

theorem Core.ringValid_keeps {k : Core} {b : BitVec 4} : (Core.ringValid k b).Keeps fun _ => True := Tri.ensure_keeps

theorem classCheck_keeps {c : TileConf} : (classCheck c).Keeps fun _ => True := by
  unfold classCheck
  grind [Tri.Keeps]

theorem execMma_wf {md : BitVec 5} {rs1 rs2 : BitVec 5} {s : State} (h : s.memoriesWf) : (execMma md rs1 rs2 s).wf := by
  refine settleNext_wf h <|
    (State.matPre_keeps h).bind fun _ _ =>
    (State.src_keeps h).bind fun ⟨_, _⟩ h1 =>
    (State.matRows_keeps h h1).bind fun ⟨_, _⟩ h2 =>
    Core.ringValid_keeps.bind fun _ _ =>
    Core.ringValid_keeps.bind fun _ _ =>
    classCheck_keeps.bind fun _ _ =>
    Tri.ensure_keeps.bind fun _ _ => ?_
  dsimp only
  split
  · exact Tri.keeps_stall h
  · exact Tri.keeps_val (State.enterQueue_wf (State.setCore_wf h2))

theorem execMatrixOpStart_wf {c : CoreId} {s : State} (h : s.memoriesWf) : (execMatrixOpStart c s).wf := by
  unfold execMatrixOpStart
  grind [Out.wf_next, State.setCore_wf]

theorem State.failOp_wf {s : State} {c : CoreId} {o : MOp} {cause : BitVec 6} (h : s.memoriesWf) :
    (s.failOp c o cause).memoriesWf := by
  unfold State.failOp
  grind [State.setCore_wf, State.mod_wf]

theorem Memory.writes_wf {m : Memory} {l : List (Nat × Byte)} (h : m.wf = true) :
    (l.foldl (fun m x => m.write x.1 x.2) m).wf = true := by
  induction l generalizing m with
  | nil => exact h
  | cons x l ih => exact ih (Memory.write_wf h)

theorem State.reading_wf {s : State} {d : Nat} {cells : List (Nat × Byte)} (h : s.memoriesWf) :
    (s.reading d cells).memoriesWf := by
  unfold State.reading
  split
  · exact h
  · exact State.setDie_wf h (Memory.writes_wf (h d))

theorem State.product_wf {s : State} {c : CoreId} {o : MOp} {m : MClass} {aslot bslot mismatches : Nat}
    (h : s.memoriesWf) :
    (s.product c o m aslot bslot mismatches).memoriesWf := by
  unfold State.product
  grind [State.reading_wf, State.failOp_wf, State.setCore_wf]

theorem State.freshes_wf {s : State} {l : Nat} (h : s.memoriesWf) : (s.freshes l).2.memoriesWf := by
  induction l generalizing s with
  | zero => grind [State.freshes, State.fresh_wf]
  | succ n ih => grind [State.freshes, State.fresh_wf]

theorem State.freeProduct_wf {s : State} {c : CoreId} {o : MOp} (h : s.memoriesWf) :
    (s.freeProduct c o).memoriesWf := by
  unfold State.freeProduct
  grind [State.freshes_wf, State.setCore_wf]

theorem State.mulStep_wf {s : State} {c : CoreId} {o : MOp} {mismatches : Nat} (h : s.memoriesWf) :
    (s.mulStep c o mismatches).memoriesWf := by
  unfold State.mulStep
  grind [State.setCore_wf, State.product_wf, State.freeProduct_wf]

theorem State.releaseSlots_wf {s : State} {c : CoreId} {o : MOp} (h : s.memoriesWf) :
    (s.releaseSlots c o).memoriesWf := by
  unfold State.releaseSlots
  grind [State.setCore_wf]

theorem State.broadcast_wf {s : State} {clu gen n v : Nat} {cells : List (Nat × Byte)} (h : s.memoriesWf) :
    (s.broadcast clu gen n v cells).memoriesWf := by
  unfold State.broadcast
  grind [State.setCore_wf, State.foldl_wf]

theorem execMatrixOpRetire_wf {c : CoreId} {mismatches : Nat} {s : State} (h : s.memoriesWf) :
    (execMatrixOpRetire c mismatches s).wf := by
  unfold execMatrixOpRetire
  grind [Out.wf_next, State.setCore_wf, State.mulStep_wf, State.releaseSlots_wf, State.broadcast_wf]

theorem State.matSync_keeps {s : State} {p : Party} {s0 : State} (h : s.memoriesWf) (h0 : s0.memoriesWf) :
    (s.matSync p s0).Keeps State.memoriesWf := by
  unfold State.matSync
  grind [Tri.Keeps, State.deliverSeq_wf]

theorem execMsync_wf {s : State} (h : s.memoriesWf) : (execMsync s).wf :=
  settleNext_wf h <|
    (State.matPre_keeps h).bind fun _ _ =>
    Tri.ensure_keeps.bind fun _ _ =>
    State.matSync_keeps h h

theorem State.tileWait_wf {s : State} {p : Party} {n : Nat} (h : s.memoriesWf) :
    ∀ t, s.tileWait p n = some t → t.memoriesWf := by
  unfold State.tileWait
  grind [State.mod_wf]

theorem execMchk_wf {rd : BitVec 5} {ms : BitVec 5} {s : State} (h : s.memoriesWf) : (execMchk rd ms s).wf :=
  settleNext_wf h <|
    (State.matPre_keeps h).bind fun _ _ =>
    by grind [Tri.Keeps, State.tileWait_wf, State.mod_wf, State.dest_wf]

/-! ## Firings -/

theorem State.endForm_wf {s : State} {p : Party} {w : BitVec 32} {srcs : List (BitVec 5)} {mode : Tri Unit}
    {f : Firing → Firing} (h : s.memoriesWf)
    (hm : mode.Keeps fun _ => True) : (s.endForm p w srcs mode f).wf :=
  settle_wf h <|
    (State.exePre_keeps h).bind fun _ _ =>
    hm.bind fun _ _ =>
    (State.storesLeft_keeps h).bind fun _ _ =>
    (State.matSync_keeps h h).bind fun _ h1 =>
    Tri.keeps_val (State.mod_wf h1)

theorem execWait_wf {rs1 : BitVec 5} {s : State} (h : s.memoriesWf) : (execWait rs1 s).wf :=
  settle_wf h <|
    (State.exePre_keeps h).bind fun _ _ =>
    (State.src_keeps h).bind fun ⟨_, _⟩ h1 =>
    inKeyed_keeps.bind fun _ _ =>
    Tri.ensure_keeps.bind fun _ _ =>
    (State.storesLeft_keeps h).bind fun _ _ =>
    (State.matSync_keeps h1 h).bind fun _ h2 =>
    Tri.keeps_val (State.mod_wf h2)

theorem State.commitWait_wf {s : State} {p : Party} (h : s.memoriesWf) : (s.commitWait p).memoriesWf := by
  unfold State.commitWait
  grind [State.writeAt_wf]

theorem State.commitJournal_wf {s : State} {p : Party} (h : s.memoriesWf) : (s.commitJournal p).memoriesWf := by
  unfold State.commitJournal
  grind [State.setCore_wf, State.recvAll_wf, State.setBank_wf]

theorem State.bankAfter_wf {s : State} {core : Nat} {n : ActorName} (h : s.memoriesWf) :
    (s.bankAfter core n).memoriesWf := by
  unfold State.bankAfter
  grind [State.setPin_wf, State.intend_wf]

theorem State.endKeyed_wf {s : State} {core : Nat} {f : Firing} (h : s.memoriesWf) :
    (s.endKeyed core f).memoriesWf := by
  unfold State.endKeyed
  grind [State.setCore_wf, State.bankAfter_wf]

theorem execFiringEnd_wf {c : CoreId} {k : Fin 4} {s : State} (h : s.memoriesWf) : (execFiringEnd c k s).wf := by
  unfold execFiringEnd
  grind [Out.wf_next, State.commitWait_wf, State.commitJournal_wf, State.recvAll_wf, State.recvUp_wf,
    State.itemDone_wf, State.releaseSel_wf, State.dissolveGang_wf, State.mod_wf, State.endKeyed_wf]

theorem State.pickKeyed_wf {s : State} {p : Party} {part : BitVec 8} (h : s.memoriesWf) :
    (s.pickKeyed p part).memoriesWf := by
  unfold State.pickKeyed
  grind [State.setCore_wf, State.setDev_wf, State.mod_wf]

theorem State.pickSheet_wf {s : State} {p : Party} {part : BitVec 8} (h : s.memoriesWf) :
    (s.pickSheet p part).memoriesWf := by
  unfold State.pickSheet
  grind [State.setCore_wf, State.readDesc_wf, State.recvUp_wf, State.report_wf, State.mod_wf]

theorem State.steal_wf {s : State} {p : Party} {c : CoreId} {part : BitVec 8} (h : s.memoriesWf) :
    (s.steal p c part).memoriesWf := by
  unfold State.steal
  grind [State.mod_wf, State.setCore_wf, State.foldl_wf]

theorem execContextPick_wf {c : CoreId} {k : Fin 4} {s : State} (h : s.memoriesWf) : (execContextPick c k s).wf := by
  unfold execContextPick
  grind [Out.wf_next, State.setCore_wf, State.pickSheet_wf, State.pickKeyed_wf, State.steal_wf]

theorem execStealServe_wf {c : CoreId} {k : Fin 4} {s : State} (h : s.memoriesWf) : (execStealServe c k s).wf := by
  unfold execStealServe
  grind [Out.wf_next, State.steal_wf]

theorem execStealBackoffExpiry_wf {c : CoreId} {k : Fin 4} {s : State} (h : s.memoriesWf) :
    (execStealBackoffExpiry c k s).wf := by
  unfold execStealBackoffExpiry
  grind [Out.wf_next, State.mod_wf]

theorem execQuireRefill_wf {c : CoreId} {s : State} (h : s.memoriesWf) : (execQuireRefill c s).wf := by
  unfold execQuireRefill
  grind [Out.wf_next, State.setCore_wf]

theorem State.applyDecrement_wf {s : State} {core : Nat} {a : Actor} {m : Message} (h : s.memoriesWf) :
    (s.applyDecrement core a m).memoriesWf := by
  unfold State.applyDecrement
  grind [State.recvAll_wf, State.report_wf, State.writeAt_wf, State.setCore_wf]

theorem execDecrementApply_wf {c : CoreId} {s : State} (h : s.memoriesWf) : (execDecrementApply c s).wf := by
  unfold execDecrementApply
  grind [Out.wf_next, State.setCore_wf, State.applyDecrement_wf]

/-! ## Delivery -/

theorem State.biasFind_wf {s : State} {die : Nat} {part : BitVec 8} {cls : BitVec 16} {port i n : Nat}
    (h : s.memoriesWf) :
    (s.biasFind die part cls port i n).2.memoriesWf := by
  induction n generalizing s i with
  | zero => exact h
  | succ n ih =>
    unfold State.biasFind
    dsimp only
    split
    · exact State.tableDword_wf (State.tableDword_wf h)
    · exact ih (State.tableDword_wf (State.tableDword_wf h))

theorem State.biasMessage_wf {s : State} {core : Nat} {d : BitVec 512} {m : Message} (h : s.memoriesWf) :
    (s.biasMessage core d m).2.memoriesWf := by
  unfold State.biasMessage
  grind [State.biasFind_wf, State.setDie_view, State.report_wf]

theorem State.countForwarded_wf {s : State} {core : Nat} {n : ActorName} (h : s.memoriesWf) :
    (s.countForwarded core n).memoriesWf := h

theorem State.stamped_wf {s : State} {core : Nat} {m : Message} (h : s.memoriesWf) :
    (s.stamped core m).2.memoriesWf := by
  unfold State.stamped
  grind [State.setCore_wf]

theorem State.enterHost_wf {s : State} {core : Nat} {m : Message} (h : s.memoriesWf) :
    ∀ t, s.enterHost core m = some t → t.memoriesWf := by
  unfold State.enterHost
  grind [State.biasMessage_wf, State.countForwarded_wf, State.stamped_wf, State.setCore_wf, State.inboxPlace_wf]

theorem State.reportSpill_wf {s : State} {core : Nat} (h : s.memoriesWf) : (s.reportSpill core).memoriesWf := by
  unfold State.reportSpill
  grind [State.setCore_wf, State.report_wf]

theorem State.markSent_wf {s : State} {m : Message} (h : s.memoriesWf) : (s.markSent m).memoriesWf := by
  unfold State.markSent
  grind [State.setDev_wf]

theorem State.placeMessage_wf {s : State} {die : Nat} {m : Message} {dest : Dest} {origin : Nat} {prior : Map Nat}
    (h : s.memoriesWf) :
    ∀ t, s.placeMessage die m dest origin prior = some t → t.memoriesWf := by
  unfold State.placeMessage
  grind [State.sendMessage_wf, State.setCore_wf, State.markSent_wf, State.toHome_wf]

theorem State.placeOp_wf {s : State} {o : Op} (h : s.memoriesWf) :
    ∀ t, s.placeOp o = some t → t.memoriesWf := by
  unfold State.placeOp
  grind [State.setCore_wf]

theorem State.popOut_wf {s : State} {core : Nat} (h : s.memoriesWf) : (s.popOut core).memoriesWf := h

theorem State.holdIn_wf {s : State} {core ch : Nat} (h : s.memoriesWf) : (s.holdIn core ch).memoriesWf := by
  unfold State.holdIn
  grind [State.setCore_wf]

theorem State.holdOut_wf {s : State} {core : Nat} (h : s.memoriesWf) : (s.holdOut core).memoriesWf := by
  unfold State.holdOut
  grind [State.setCore_wf, State.holdIn_wf]

theorem State.deliverOut_wf {s : State} {core : Nat} (h : s.memoriesWf) : (s.deliverOut core).memoriesWf := by
  unfold State.deliverOut
  grind [State.popOut_wf, State.placeMessage_wf, State.holdOut_wf, State.placeOp_wf]

theorem State.deliverHosted_wf {s : State} {home core : Nat} (h : s.memoriesWf) :
    (s.deliverHosted home core).memoriesWf := by
  unfold State.deliverHosted
  dsimp only
  split
  · exact h
  · split
    case h_1 =>
      split
      · exact h
      · split
        · exact State.askUnit_wf h
        · split
          next s2 entered => exact State.setCore_wf (State.enterHost_wf (State.setClu_wf h) s2 entered)
          · exact State.holdIn_wf (State.reportSpill_wf h)
    all_goals exact State.setCore_wf (State.setClu_wf h)

theorem State.deliverOp_wf {s : State} {i : Nat} (h : s.memoriesWf) : (s.deliverOp i).memoriesWf := by
  unfold State.deliverOp
  grind [State.setDev_wf, State.placeOp_wf, State.setCore_wf, State.holdIn_wf]

theorem State.deliverUnit_wf {s : State} {i : Nat} (h : s.memoriesWf) : (s.deliverUnit i).memoriesWf := by
  unfold State.deliverUnit
  grind [State.dest_wf, State.setDev_wf, State.placeMessage_wf]

theorem execDeliver_wf {ch : Chan} {s : State} (h : s.memoriesWf) : (execDeliver ch s).wf := by
  unfold execDeliver
  grind [Out.wf_next, State.deliverOut_wf, State.deliverHosted_wf, State.deliverOp_wf, State.deliverUnit_wf]

theorem State.beat_wf {s : State} {p : Party} (h : s.memoriesWf) : (s.beat p).memoriesWf := by
  unfold State.beat
  grind [State.fresh_wf, State.setDie_view]

theorem execDrain_wf {p : Party} {s : State} (h : s.memoriesWf) : (execDrain p s).wf := by
  unfold execDrain
  grind [Out.wf_next, State.drainOne_wf, State.beat_wf]

theorem execCarryDelivery_wf {d e : Fin 8} {i : Nat} {s : State} (h : s.memoriesWf) :
    (execCarryDelivery d e i s).wf := by
  unfold execCarryDelivery
  grind [Out.wf_next, State.setDie_view, State.install_wf]

theorem execJournalAppend_wf {c : CoreId} {s : State} (h : s.memoriesWf) : (execJournalAppend c s).wf := by
  unfold execJournalAppend
  grind [Out.wf_next, State.bankStore_wf, State.setBank_wf, State.setCore_wf, State.report_wf]

theorem execSpillRedelivery_wf {c : CoreId} {s : State} (h : s.memoriesWf) : (execSpillRedelivery c s).wf := by
  unfold execSpillRedelivery
  grind [Out.wf_next, State.setCore_wf, State.inboxPlace_wf]

theorem State.sendToken_wf {s : State} {origin dest : Nat} (h : s.memoriesWf) :
    (s.sendToken origin dest).memoriesWf := by
  unfold State.sendToken
  grind [State.setCore_wf]

theorem execProbeTokenSend_wf {c : CoreId} {s : State} (h : s.memoriesWf) : (execProbeTokenSend c s).wf := by
  unfold execProbeTokenSend
  grind [Out.wf_next, State.setCore_wf, State.sendToken_wf]

theorem execProbeTokenForward_wf {c : CoreId} {s : State} (h : s.memoriesWf) : (execProbeTokenForward c s).wf := by
  unfold execProbeTokenForward
  grind [Out.wf_next, State.setCore_wf, State.sendToken_wf]

theorem State.heldOn_wf {s : State} {core ch : Nat} (h : s.memoriesWf) :
    ∀ t, s.heldOn core ch = some t → t.2.memoriesWf := by
  unfold State.heldOn
  split
  · grind [State.setClu_wf]
  · dsimp only
    split
    · simp
    · split
      · grind [Option.map_eq_some_iff, State.setHearth_wf, State.markSent_wf, State.popOut_wf]
      · grind [State.popOut_wf]
      · simp
  · grind [State.setDev_wf]

theorem State.heldInput_wf {s : State} {core : Nat} {l : List Nat} (h : s.memoriesWf) :
    ∀ t, s.heldInput core l = some t → t.2.memoriesWf := by
  induction l with
  | nil => simp [State.heldInput]
  | cons ch rest ih =>
    intro t ht
    simp only [State.heldInput] at ht
    split at ht
    next x s1 held =>
      cases ht
      exact State.setCore_wf (State.heldOn_wf h _ held)
    · exact ih t ht

theorem execEmergencyEntry_wf {c : CoreId} {s : State} (h : s.memoriesWf) : (execEmergencyEntry c s).wf := by
  unfold execEmergencyEntry
  dsimp only
  split
  · exact Out.wf_next h
  · split
    next m s1 held =>
      have h1 : s1.memoriesWf := State.heldInput_wf (State.setCore_wf h) _ held
      split
      · exact Out.wf_next (State.askUnit_wf h)
      · exact Out.wf_next (State.inboxPlace_wf (State.stamped_wf (State.countForwarded_wf (State.biasMessage_wf h1))))
    next o s1 held => exact Out.wf_next (State.setCore_wf (State.heldInput_wf (State.setCore_wf h) _ held))
    · exact Out.wf_next (State.setCore_wf h)

/-! ## Carried code -/

theorem carriedForm_wf {i : Instr} {regs : List (BitVec 5)} {f : State → Out} (form : carriedForm i = some (regs, f))
    {s : State}
    (h : s.memoriesWf) : (f s).wf := by
  unfold carriedForm at form
  split at form <;> cases form
  next => exact exe0_pure_wf h
  iterate 15 next => exact alu2_wf h
  iterate 13 next => exact alu1_wf h
  iterate 7 next => exact loadForm_wf h
  iterate 4 next => exact storeForm_wf h

theorem ranOn_wf {p : Party} {before : State} {o : Out} (h : o.wf) : ∀ t, ranOn p before o = some t → t.memoriesWf := by
  intro t ht
  unfold ranOn at ht
  split at ht
  · split at ht
    · cases ht
      exact h _ rfl
    · cases ht
  · cases ht

theorem runCarried_wf {p : Party} {s : State} {i : Nat} {l : List (BitVec 32)} (h : s.memoriesWf) :
    ∀ t, runCarried p s i l = .finished t → t.memoriesWf := by
  induction l generalizing s i with
  | nil => simp [runCarried]
  | cons w ws ih =>
    intro t ht
    have go {regs : List (BitVec 5)} {o : Out} (ho : o.wf)
        (e : (if regs.any fun r => r == 28#5 || r == 29#5 then CarriedEnd.faulted i
          else match ranOn p s o with
            | some s1 => runCarried p s1 (i + 1) ws
            | none => .faulted i) = .finished t) : t.memoriesWf := by
      split at e
      · cases e
      · split at e
        next s1 ran => exact ih (ranOn_wf ho s1 ran) t e
        · cases e
    simp only [runCarried] at ht
    split at ht
    · cases ht
      exact h
    · split at ht
      · cases ht
      · split at ht
        · cases ht
        · exact go (execSend_wf h) ht
    · split at ht
      next regs f form => exact go (carriedForm_wf form h) ht
      · cases ht
    · cases ht

theorem execCarriedCodeRun_wf {c : CoreId} {s : State} (h : s.memoriesWf) : (execCarriedCodeRun c s).wf := by
  unfold execCarriedCodeRun
  grind [Out.wf_next, State.memoriesWf_mk, State.popOp_wf, State.recvUp_wf, State.mod_wf, State.askUnit_wf,
    State.drainAll_wf,
    State.replyTo_wf, State.report_wf, runCarried_wf]

/-! ## Copy requests -/

theorem reqCheck_keeps {p : Party} {c : Reg} {r : BitVec 5} {n : Nat} {need : BitVec 11} :
    (reqCheck p c r n need).Keeps fun _ => True := by
  unfold reqCheck
  grind [Tri.Keeps]

theorem State.deckleCheck_keeps {s : State} {p : Party} {c : Reg} {r : BitVec 5} (h : s.memoriesWf) :
    (s.deckleCheck p c r).Keeps State.memoriesWf :=
  reqCheck_keeps.bind fun _ _ =>
    (State.readBytes_keeps h h).bind fun ⟨_, _⟩ h1 =>
    Tri.ensure_keeps.bind fun _ _ =>
    Tri.keeps_val h1

theorem State.checkRequest_keeps {s : State} {p : Party} {xs : BitVec 3} (h : s.memoriesWf) :
    (s.checkRequest p xs).Keeps State.memoriesWf := by
  have part {ok : Bool} {x : Tri Unit} (hx : x.Keeps fun _ => True) : (if ok then x else .val ()).Keeps fun _ => True := by
    split
    · exact hx
    · exact Tri.keeps_val trivial
  refine Tri.ensure_keeps.bind fun _ _ =>
    reqCheck_keeps.bind fun _ _ =>
    reqCheck_keeps.bind fun _ _ =>
    Tri.ensure_keeps.bind fun _ _ =>
    (part (reqCheck_keeps.bind fun _ _ => Tri.ensure_keeps)).bind fun _ _ =>
    (part (reqCheck_keeps.bind fun _ _ => Tri.ensure_keeps)).bind fun _ _ =>
    Tri.Keeps.bind ?_ fun _ h1 => Tri.ensure_keeps.bind fun _ _ => Tri.keeps_val h1
  split
  · exact State.deckleCheck_keeps h
  · exact Tri.keeps_val h

theorem State.pushRequest_wf {s : State} {p : Party} {xs : BitVec 3} (h : s.memoriesWf) :
    (s.pushRequest p xs).2.memoriesWf := by
  unfold State.pushRequest
  grind [State.setCore_wf, State.sentUp_wf]

theorem execCpost_wf {rd : BitVec 5} {xs : BitVec 3} {s : State} (h : s.memoriesWf) : (execCpost rd xs s).wf :=
  settleNext_wf h <|
    (State.exePre_keeps h).bind fun _ _ =>
    (State.regsReady_keeps h).bind fun _ _ =>
    (State.checkRequest_keeps h).bind fun _ h1 =>
    by grind [Tri.Keeps, State.pushRequest_wf, State.dest_wf]

theorem execCpostNb_wf {rd : BitVec 5} {xs : BitVec 3} {s : State} (h : s.memoriesWf) : (execCpostNb rd xs s).wf :=
  settleNext_wf h <|
    (State.exePre_keeps h).bind fun _ _ =>
    (State.regsReady_keeps h).bind fun _ _ =>
    (State.checkRequest_keeps h).bind fun _ h1 =>
    by grind [Tri.Keeps, State.dest_wf, State.pushRequest_wf]

/-! ## Streams -/

theorem State.fillBlock_wf {s : State} {p : Party} {w : Nat} {d : BitVec 512} {n : Nat} (h : s.memoriesWf) :
    (s.fillBlock p w d n).memoriesWf := by
  unfold State.fillBlock
  grind [State.mod_wf, State.fresh_wf]

theorem State.windowsRead_keeps {s : State} {p : Party} {l : List Nat} (h : s.memoriesWf) :
    (s.windowsRead p l).Keeps State.memoriesWf := by
  induction l generalizing s with
  | nil => exact Tri.keeps_val h
  | cons w ws ih =>
    unfold State.windowsRead
    dsimp only
    split
    · exact ih h
    · split
      · exact Tri.keeps_trap
      · exact ih h
      · split
        · exact ih (State.mod_wf h)
        · exact Tri.keeps_stall (State.fillBlock_wf h)

theorem execStreamWindowFill_wf {p : Party} {w : Fin 8} {s : State} (h : s.memoriesWf) :
    (execStreamWindowFill p w s).wf := by
  unfold execStreamWindowFill
  grind [Out.wf_next, State.fresh_wf, State.fillBlock_wf]

theorem State.writeWindow_wf {s : State} {p : Party} {w : Nat} {bytes : List (Option Byte)} (h : s.memoriesWf) :
    (s.writeWindow p w bytes).memoriesWf := by
  unfold State.writeWindow
  grind [State.storeCells_wf, State.mod_wf, State.advance_wf]

theorem execWbind_wf {wd : BitVec 3} {rs1 : BitVec 5} {s : State} (h : s.memoriesWf) : (execWbind wd rs1 s).wf := by
  refine settleNext_wf h <|
    (State.exePre_keeps h).bind fun _ _ =>
    needUnit_keeps.bind fun _ _ =>
    (State.src_keeps h).bind fun ⟨_, _⟩ h1 =>
    Tri.unless_keeps.bind fun _ _ =>
    (State.readBytes_keeps h h1).bind fun ⟨_, _⟩ h2 => ?_
  dsimp only
  split
  · exact Tri.keeps_val (State.mod_wf h2)
  · exact Tri.unless_keeps.bind fun _ _ => Tri.keeps_val (State.mod_wf h2)

theorem execWstat_wf {rd : BitVec 5} {ws : BitVec 3} {s : State} (h : s.memoriesWf) : (execWstat rd ws s).wf := by
  unfold execWstat
  exact exe0_wf h fun _ h1 =>
    needUnit_keeps.bind fun _ _ =>
    Tri.keeps_val h1

theorem execWdrain_wf {wd : BitVec 3} {s : State} (h : s.memoriesWf) : (execWdrain wd s).wf :=
  settleNext_wf h <|
    (State.exePre_keeps h).bind fun _ _ =>
    needUnit_keeps.bind fun _ _ =>
    by grind [Tri.Keeps, State.setCtx_wf]

theorem execWunbind_wf {wd : BitVec 3} {s : State} (h : s.memoriesWf) : (execWunbind wd s).wf :=
  settleNext_wf h <|
    (State.exePre_keeps h).bind fun _ _ =>
    needUnit_keeps.bind fun _ _ =>
    by grind [Tri.Keeps, State.mod_wf]

/-! ## Vector forms -/

theorem State.vecSrc2_keeps {s : State} {p : Party} {b : VSrc} (h : s.memoriesWf) :
    (s.vecSrc2 p b).Keeps fun x => x.2.memoriesWf := by
  cases b with
  | none => exact Tri.keeps_val h
  | vec n => exact Tri.unless_keeps.bind fun _ _ => Tri.keeps_val h
  | scalar r => exact State.src_keeps h

theorem State.vecRead_keeps {s : State} {p : Party} {w : BitVec 32} {u : VUse} (h : s.memoriesWf) :
    (s.vecRead p w u).Keeps fun x => x.2.memoriesWf := by
  refine needUnit_keeps.bind fun _ _ =>
    (State.exePre_keeps h).bind fun _ _ =>
    Tri.unless_keeps.bind fun _ _ =>
    (State.vecSrc2_keeps h).bind fun ⟨_, _⟩ h1 =>
    Tri.unless_keeps.bind fun _ _ => ?_
  refine Tri.Keeps.bind (φ := fun _ => True) ?_ fun _ _ => (State.windowsRead_keeps h).bind fun _ _ =>
    Tri.unless_keeps.bind fun _ _ => Tri.keeps_val (State.mod_wf h1)
  split
  · exact State.syncPoint_keeps h
  · exact Tri.keeps_val trivial

theorem State.vecWrite_wf {s : State} {p : Party} {n : BitVec 4} {bits : Nat} {out : List (Option Nat)}
    (h : s.memoriesWf) :
    (s.vecWrite p n bits out).memoriesWf := by
  unfold State.vecWrite
  grind [State.writeWindow_wf, State.mod_wf]

theorem vecForm_keeps {w : BitVec 32} {t : Ty} {u : VUse} {vd : BitVec 4} {mask : BitVec 2} {f : Nat → Nat → Nat → Nat}
    {s : State} (h : s.memoriesWf) :
    (vecForm w t u vd mask f s).Keeps State.memoriesWf :=
  (State.vecRead_keeps h).bind fun ⟨_, _⟩ h1 =>
    Tri.keeps_val (State.vecWrite_wf h1)

theorem vec2_keeps {w : BitVec 32} {ty : BitVec 3} {src2 : BitVec 5} {va : BitVec 4} {sx : BitVec 1} {mask : BitVec 2}
    {vd : BitVec 4} {f : Ty → Nat → Nat → Nat} {s : State} (h : s.memoriesWf) :
    (vec2 w ty src2 va sx mask vd f s).Keeps State.memoriesWf := by
  unfold vec2
  grind [Tri.Keeps, vecForm_keeps]

theorem vec3_keeps {w : BitVec 32} {ty : BitVec 3} {src2 : BitVec 5} {va : BitVec 4} {sx : BitVec 1} {mask : BitVec 2}
    {vd : BitVec 4} {f : Ty → Nat → Nat → Nat → Nat} {s : State} (h : s.memoriesWf) :
    (vec3 w ty src2 va sx mask vd f s).Keeps State.memoriesWf := by
  unfold vec3
  grind [Tri.Keeps, vecForm_keeps]

theorem vec1_keeps {w : BitVec 32} {ty : BitVec 3} {va : BitVec 4} {mask : BitVec 2} {vd : BitVec 4}
    {f : Ty → Nat → Nat} {s : State} (h : s.memoriesWf) :
    (vec1 w ty va mask vd f s).Keeps State.memoriesWf := by
  unfold vec1
  grind [Tri.Keeps, vecForm_keeps]

theorem vecConvert_keeps {w : BitVec 32} {ty sty : BitVec 3} {va : BitVec 4} {mask : BitVec 2} {vd : BitVec 4}
    {sat : Bool} {s : State} (h : s.memoriesWf) :
    (vecConvert w ty sty va mask vd sat s).Keeps State.memoriesWf :=
  (State.vecRead_keeps h).bind fun ⟨_, _⟩ h1 =>
    Tri.keeps_val (State.vecWrite_wf h1)

theorem vecReduce_keeps {w : BitVec 32} {ty : BitVec 3} {va : BitVec 4} {mask : BitVec 2} {vd : BitVec 4}
    {op : Ty → Nat → Nat → Nat} {ident : Ty → Nat} {s : State} (h : s.memoriesWf) :
    (vecReduce w ty va mask vd op ident s).Keeps State.memoriesWf :=
  (State.vecRead_keeps h).bind fun ⟨_, _⟩ h1 =>
    Tri.keeps_val (State.vecWrite_wf h1)

theorem vecCompare_keeps {w : BitVec 32} {kind : Nat} {ty : BitVec 3} {src2 : BitVec 5} {va : BitVec 4} {sx : BitVec 1}
    {mask kd : BitVec 2} {s : State} (h : s.memoriesWf) :
    (vecCompare w kind ty src2 va sx mask kd s).Keeps State.memoriesWf :=
  (State.vecRead_keeps h).bind fun ⟨_, _⟩ h1 =>
    Tri.keeps_val (State.mod_wf h1)

theorem vecSelect_keeps {w : BitVec 32} {ty : BitVec 3} {src2 : BitVec 5} {va : BitVec 4} {sx : BitVec 1}
    {ksel : BitVec 2} {vd : BitVec 4} {s : State} (h : s.memoriesWf) :
    (vecSelect w ty src2 va sx ksel vd s).Keeps State.memoriesWf :=
  (State.vecRead_keeps h).bind fun ⟨_, _⟩ h1 =>
    Tri.keeps_val (State.vecWrite_wf h1)

theorem vecImm_keeps {w : BitVec 32} {imm : BitVec 16} {ty : BitVec 3} {vd : BitVec 4} {readVd : Bool}
    {f : Ty → Nat → Nat → Nat} {s : State} (h : s.memoriesWf) :
    (vecImm w imm ty vd readVd f s).Keeps State.memoriesWf :=
  (State.vecRead_keeps h).bind fun ⟨_, _⟩ h1 =>
    Tri.keeps_val (State.vecWrite_wf h1)

end Sys2Proof.Machine
end

section
/-! PROOFS. Canonical memories: engines, launches, the fabric and failures. -/

namespace Sys2Proof.Machine

/-! ## Copy engines -/

theorem State.setPend_wf {s : State} {p : Pending} (h : s.memoriesWf) : (s.setPend p).memoriesWf := State.setDev_wf h

theorem State.dropPend_wf {s : State} {p : Pending} (h : s.memoriesWf) : (s.dropPend p).memoriesWf := h

theorem State.unwaitFill_wf {s : State} {p : Pending} (h : s.memoriesWf) : (s.unwaitFill p).memoriesWf := by
  unfold State.unwaitFill
  grind [State.setCore_wf]

theorem State.failPend_wf {s : State} {p : Pending} {code : BitVec 8} {off : Nat} (h : s.memoriesWf) :
    (s.failPend p code off).memoriesWf := by
  unfold State.failPend
  grind [State.unwaitFill_wf, State.setPend_wf, State.setDev_wf]

theorem State.engPages_wf {s : State} {p : Pending} {a n : Nat} {k : State} (hs : s.memoriesWf) (hk : k.memoriesWf) :
    (s.engPages p a n k).memoriesWf := by
  unfold State.engPages
  grind [State.askUnit_wf]

theorem State.engRead_wf {s : State} {p : Pending} {a n : Nat} (h : s.memoriesWf) : (s.engRead p a n).2.memoriesWf := by
  unfold State.engRead
  grind [State.setDev_wf]

theorem State.engInstall_wf {s : State} {m : Map Nat} {cells : List (Nat × Byte)} (h : s.memoriesWf) :
    (s.engInstall m cells).2.memoriesWf :=
  List.foldlRecOn (motive := fun x : Map Nat × State => x.2.memoriesWf) _ _ h fun _ hx _ _ => State.writeAt_wf hx

theorem State.reduceElem_wf {s : State} {p : Pending} {m : Map Nat} {off : Nat} {bs : List Byte} (h : s.memoriesWf) :
    ∀ x, s.reduceElem p m off bs = .inr x → x.2.2.memoriesWf := by
  intro x e
  unfold State.reduceElem at e
  split at e
  · cases e
  · dsimp only at e
    split at e
    · cases e
    · cases e
      apply State.engInstall_wf
      split
      · exact State.setDev_wf h
      · exact h

theorem State.sendLong_wf {s : State} {p : Pending} (h : s.memoriesWf) : (s.sendLong p).memoriesWf := by
  unfold State.sendLong
  grind [State.sendOnPlane_wf]

theorem State.sendShort_wf {s : State} {p : Pending} {bs : List Byte} (h : s.memoriesWf) :
    (s.sendShort p bs).memoriesWf := by
  unfold State.sendShort
  grind [State.sendOnPlane_wf]

theorem State.noteSaved_wf {s : State} {r : DRec} (h : s.memoriesWf) : (s.noteSaved r).memoriesWf := by
  unfold State.noteSaved
  grind [State.setDev_wf, State.src_keeps]

theorem State.startFar_wf {s : State} {p : Pending} (h : s.memoriesWf) : (s.startFar p).memoriesWf := by
  unfold State.startFar
  grind [State.sendShort_wf, State.setDev_wf, State.noteSaved_wf, State.sendLong_wf]

theorem State.enter_wf {s : State} {p0 : Pending} (h : s.memoriesWf) : (s.enter p0).memoriesWf := by
  unfold State.enter
  grind [State.src_keeps, State.setDev_wf, State.startFar_wf]

theorem execRequestAccept_wf {p : Party} {s : State} (h : s.memoriesWf) : (execRequestAccept p s).wf := by
  unfold execRequestAccept
  grind [Out.wf_next, State.askUnit_wf, State.setCore_wf, State.setDev_wf, State.enter_wf]

theorem State.sendDone_wf {s : State} {dst : BitVec 12} {part : BitVec 8} {ltag : BitVec 12} {prio : BitVec 2}
    {req : BitVec 24} {status prior : BitVec 64} (h : s.memoriesWf) :
    (s.sendDone dst part ltag prio req status prior).memoriesWf := by
  unfold State.sendDone
  grind [State.sendOnPlane_wf]

theorem State.serveFail_wf {s : State} {p : Pending} {code : BitVec 8} {off : Nat} (h : s.memoriesWf) :
    (s.serveFail p code off).memoriesWf := State.sendDone_wf (State.dropPend_wf h)

theorem State.recvEnd_wf {s : State} {p : Pending} (h : s.memoriesWf) : (s.recvEnd p).memoriesWf := by
  unfold State.recvEnd
  grind [State.src_keeps, State.dropPend_wf, State.setDev_wf, State.sendDone_wf]

theorem State.endErr_wf {s : State} {p : Pending} (h : s.memoriesWf) : (s.endErr p).memoriesWf := by
  unfold State.endErr
  grind [State.serveFail_wf, State.recvEnd_wf, State.failPend_wf]

theorem State.readFailed_wf {s : State} {p : Pending} {c : BitVec 8} {o : Nat} (h : s.memoriesWf) :
    (s.readFailed p c o).memoriesWf := by
  unfold State.readFailed
  grind [State.setPend_wf, State.endErr_wf]

theorem State.fillClaim_wf {s : State} {p : Pending} (h : s.memoriesWf) : (s.fillClaim p).memoriesWf := by
  unfold State.fillClaim
  grind [State.failPend_wf, State.setCore_wf, State.setPend_wf]

theorem State.gotBytes_wf {s : State} {p : Pending} (h : s.memoriesWf) : (s.gotBytes p).memoriesWf := by
  unfold State.gotBytes
  grind [State.setDev_wf, State.sendDone_wf, State.src_keeps, State.noteSaved_wf]

theorem State.installReady_wf {s : State} {p : Pending} {i : Nat} (h : s.memoriesWf) :
    (s.installReady p i).memoriesWf := by
  unfold State.installReady
  grind [State.engInstall_wf, State.setPend_wf, State.gotBytes_wf, State.endErr_wf]

theorem State.installOne_wf {s : State} {p : Pending} {v : Nat} (h : s.memoriesWf) : (s.installOne p v).memoriesWf := by
  unfold State.installOne
  grind [State.endErr_wf, State.installReady_wf, State.engPages_wf, State.setPend_wf]

theorem State.sendRdata_wf {s : State} {p : Pending} (h : s.memoriesWf) : (s.sendRdata p).memoriesWf := by
  unfold State.sendRdata
  grind [State.dropPend_wf, State.sendOnPlane_wf]

theorem State.sendNext_wf {s : State} {p : Pending} {v : Nat} (h : s.memoriesWf) : (s.sendNext p v).memoriesWf := by
  unfold State.sendNext
  grind [State.endErr_wf, State.sendRdata_wf, State.setPend_wf, State.sendShort_wf, State.sendBulk_wf]

theorem State.unstage_wf {s : State} {die : Nat} {x : Staged} (h : s.memoriesWf) : (s.unstage die x).memoriesWf := by
  unfold State.unstage
  grind [State.setDie_view]

theorem State.setStaged_wf {s : State} {die : Nat} {x : Staged} (h : s.memoriesWf) :
    (s.setStaged die x).memoriesWf := by
  unfold State.setStaged
  grind [State.setDie_view]

theorem State.stageOne_wf {s : State} {p : Pending} {die dest : Nat} (h : s.memoriesWf) :
    (s.stageOne p die dest).memoriesWf := by
  unfold State.stageOne
  grind [State.failPend_wf, State.setDie_view, State.setPend_wf, State.unstage_wf, State.foldl_wf]

theorem State.beginGroup_wf {s : State} {die : Nat} {g : BitVec 32} {dest : Nat} (h : s.memoriesWf) :
    (s.beginGroup die g dest).memoriesWf := by
  unfold State.beginGroup
  grind [State.setStaged_wf, State.foldl_wf]

theorem State.endGroup_wf {s : State} {die : Nat} {l : List Staged} (h : s.memoriesWf) :
    (s.endGroup die l).memoriesWf := by
  unfold State.endGroup
  grind [State.unstage_wf, State.setPend_wf, State.foldl_wf]

theorem State.applyNext_wf {s : State} {die : Nat} {g : BitVec 32} {dest : Nat} (h : s.memoriesWf) :
    (s.applyNext die g dest).memoriesWf := by
  unfold State.applyNext
  dsimp only
  split
  · exact State.endGroup_wf h
  · split
    · exact State.unstage_wf h
    · refine State.engPages_wf h ?_
      split
      · exact h
      · split
        · exact State.failPend_wf (State.unstage_wf h)
        next taken => exact State.setPend_wf (State.setStaged_wf (State.reduceElem_wf h _ taken))

theorem State.engSend_wf {s k : State} {p : Pending} {m : Message} (hs : s.memoriesWf) (hk : k.memoriesWf) :
    (s.engSend k p m).memoriesWf := by
  unfold State.engSend
  grind [State.readDesc_wf, State.askUnit_wf, State.findHome_wf, State.recvUp_wf, State.report_wf, State.unitSend_wf]

theorem State.notifyOwn_wf {s : State} {p : Pending} (h : s.memoriesWf) : (s.notifyOwn p).memoriesWf := by
  unfold State.notifyOwn
  grind [State.dropPend_wf, State.setCore_wf, State.engSend_wf]

/-! ## The Damper -/

theorem onFlit_wf {f : Flit} {vc typ : Nat} {s : State} {k : State → State} (h : s.memoriesWf)
    (hk : ∀ s1, s1.memoriesWf → (k s1).memoriesWf) : (onFlit f vc typ s k).wf := by
  unfold onFlit
  grind [Out.wf_next, State.goodFlit_wf, State.discardFlit_wf, State.reportHandOff_wf]

theorem State.answer_wf {s : State} {f : Flit} {vc : BitVec 2} {typ : BitVec 5} {bytes : Nat} {pay : BitVec 512}
    (h : s.memoriesWf) :
    (s.answer f vc typ bytes pay).memoriesWf := by
  unfold State.answer
  grind [State.sendOnPlane_wf]

theorem State.answerError_wf {s : State} {f : Flit} {code : BitVec 8} {off : Nat} (h : s.memoriesWf) :
    (s.answerError f code off).memoriesWf := State.answer_wf h

theorem State.answerFwd_wf {s : State} {f : Flit} {dev : BitVec 12} (h : s.memoriesWf) :
    (s.answerFwd f dev).memoriesWf := State.answer_wf h

theorem State.holdFlit_wf {s : State} {f : Flit} (h : s.memoriesWf) : (s.holdFlit f).memoriesWf := by
  unfold State.holdFlit
  grind [State.setPort_wf]

theorem State.unholdFlit_wf {s : State} {f : Flit} (h : s.memoriesWf) : (s.unholdFlit f).memoriesWf := h

theorem State.nextId_wf {s : State} (h : s.memoriesWf) : (s.nextId).2.memoriesWf := by
  unfold State.nextId
  grind [State.setDev_wf]

theorem State.addPend_wf {s : State} {p : Pending} (h : s.memoriesWf) : (s.addPend p).memoriesWf := h

theorem State.entryFor_wf {s : State} {f : Flit} (h : s.memoriesWf) : (s.entryFor f).2.memoriesWf := by
  unfold State.entryFor
  grind [State.nextId_wf, State.fresh_wf]

theorem State.dropArrival_wf {s : State} {p : Pending} (h : s.memoriesWf) : (s.dropArrival p).memoriesWf := by
  unfold State.dropArrival
  grind [State.dropPend_wf, State.setDev_wf]

theorem State.takeShort_wf {s : State} {f : Flit} {p : Pending} (h : s.memoriesWf) : (s.takeShort f p).memoriesWf := by
  unfold State.takeShort
  grind [State.dropArrival_wf, State.reportHandOff_wf, State.answerError_wf, State.setPend_wf]

theorem State.checkArrival_wf {s : State} {p : Pending} {f : Flit} (h : s.memoriesWf) :
    (s.checkArrival p f).memoriesWf := by
  unfold State.checkArrival
  grind [State.dropArrival_wf, State.answerError_wf, State.engPages_wf, State.answerFwd_wf, State.takeShort_wf,
    State.setPend_wf, State.setDev_wf, State.answer_wf]

theorem State.shortRequest_wf {s : State} {f : Flit} (h : s.memoriesWf) : (s.shortRequest f).memoriesWf := by
  unfold State.shortRequest
  grind [State.entryFor_wf, State.addPend_wf, State.checkArrival_wf]

theorem execShort_wf {f : Flit} {s : State} (h : s.memoriesWf) : (execShort f s).wf :=
  onFlit_wf h fun _ h =>
    by grind [State.shortRequest_wf]

theorem State.longRequest_wf {s0 : State} {f : Flit} (h : s0.memoriesWf) : (s0.longRequest f).memoriesWf := by
  unfold State.longRequest
  grind [State.unholdFlit_wf, State.entryFor_wf, State.addPend_wf, State.checkArrival_wf, State.holdFlit_wf,
    State.setDev_wf, State.noteSaved_wf]

theorem execLong_wf {f : Flit} {s : State} (h : s.memoriesWf) : (execLong f s).wf :=
  onFlit_wf h fun _ h =>
    by grind [State.longRequest_wf]

theorem State.noteFault_wf {s : State} {p : Pending} {c : BitVec 8} {o : Nat} (h : s.memoriesWf) :
    (s.noteFault p c o).memoriesWf := by
  unfold State.noteFault
  grind [State.setPend_wf, State.endErr_wf]

theorem State.requeue_wf {s : State} {r : DRec} (h : s.memoriesWf) : (s.requeue r).memoriesWf := by
  unfold State.requeue
  grind [State.src_keeps, State.setDev_wf]

theorem State.swapRec_wf {s : State} {r : DRec} (h : s.memoriesWf) : (s.swapRec r).memoriesWf := by
  unfold State.swapRec
  grind [State.src_keeps, State.setDev_wf]

theorem State.takeData_wf {s : State} {f : Flit} {p : Pending} {off n : Nat} (h : s.memoriesWf) :
    (s.takeData f p off n).memoriesWf := by
  unfold State.takeData
  grind [State.reportHandOff_wf, State.noteFault_wf, State.setPend_wf]

theorem State.tokenData_wf {s : State} {f : Flit} {r : DRec} (h : s.memoriesWf) : (s.tokenData f r).memoriesWf := by
  unfold State.tokenData
  grind [State.swapRec_wf, State.takeData_wf]

theorem State.prefixData_wf {s : State} {f : Flit} (h : s.memoriesWf) : (s.prefixData f).memoriesWf := by
  unfold State.prefixData
  grind [State.takeData_wf, State.setDev_wf, State.src_keeps]

theorem execData_wf {f : Flit} {s : State} (h : s.memoriesWf) : (execData f s).wf :=
  onFlit_wf h fun _ h =>
    by grind [State.prefixData_wf, State.tokenData_wf]

theorem State.sendGrant_wf {s : State} {r : DRec} {t : BitVec 16} {lo hi : Nat} (h : s.memoriesWf) :
    (s.sendGrant r t lo hi).memoriesWf := by
  unfold State.sendGrant
  grind [State.src_keeps, State.sendOnPlane_wf]

theorem State.grantRange_wf {s : State} {r : DRec} {hi : Nat} (h : s.memoriesWf) : (s.grantRange r hi).memoriesWf := by
  unfold State.grantRange
  grind [State.setDev_wf, State.swapRec_wf, State.sendGrant_wf]

theorem execDamperGrant_wf {slot : Nat} {s : State} (h : s.memoriesWf) : (execDamperGrant slot s).wf := by
  unfold execDamperGrant
  grind [Out.wf_next, State.setDev_wf, State.grantRange_wf, State.engPages_wf, State.noteFault_wf, State.setPend_wf]

theorem State.tell_wf {s : State} {r : DRec} {vc : BitVec 2} {typ : BitVec 5} (h : s.memoriesWf) :
    (s.tell r vc typ).memoriesWf := State.answer_wf h

theorem State.reportOrphan_wf {s : State} {r : DRec} (h : s.memoriesWf) :
    (s.reportOrphan r).memoriesWf := State.report_wf h

theorem State.orphan_wf {s : State} {r : DRec} (h : s.memoriesWf) : (s.orphan r).memoriesWf := by
  unfold State.orphan
  grind [State.src_keeps, State.setDev_wf, State.answer_wf, State.reportOrphan_wf, State.failPend_wf, State.dropPend_wf]

theorem execTokenExpiry_wf {i : Nat} {s : State} (h : s.memoriesWf) : (execTokenExpiry i s).wf := by
  unfold execTokenExpiry
  grind [Out.wf_next, State.requeue_wf, State.orphan_wf]

theorem execPrefixTrackerTimeout_wf {i : Nat} {s : State} (h : s.memoriesWf) : (execPrefixTrackerTimeout i s).wf := by
  unfold execPrefixTrackerTimeout
  grind [Out.wf_next, State.recvEnd_wf, State.reportOrphan_wf]

theorem State.saveRec_wf {s : State} {r : DRec} (h : s.memoriesWf) : (s.saveRec r).memoriesWf := by
  unfold State.saveRec
  grind [State.swapRec_wf, State.noteSaved_wf, State.tell_wf]

theorem State.restoreRec_wf {s : State} {r : DRec} (h : s.memoriesWf) : (s.restoreRec r).memoriesWf := by
  unfold State.restoreRec
  grind [State.setDev_wf, State.swapRec_wf, State.tell_wf]

theorem execDamperSave_wf {part : BitVec 8} {tag : BitVec 12} {s : State} (h : s.memoriesWf) :
    (execDamperSave part tag s).wf := by
  unfold execDamperSave
  grind [Out.wf_next, State.setDev_wf, State.saveRec_wf, State.foldl_wf]

theorem execDamperRestore_wf {part : BitVec 8} {tag : BitVec 12} {s : State} (h : s.memoriesWf) :
    (execDamperRestore part tag s).wf := by
  unfold execDamperRestore
  grind [Out.wf_next, State.setDev_wf, State.restoreRec_wf, State.swapRec_wf, State.foldl_wf]

theorem State.renewed_wf {s : State} {f : Flit} (h : s.memoriesWf) : (s.renewed f).memoriesWf := by
  unfold State.renewed
  grind [State.src_keeps, State.answer_wf, State.requeue_wf]

theorem execRereq_wf {f : Flit} {s : State} (h : s.memoriesWf) : (execRereq f s).wf :=
  onFlit_wf h fun _ h =>
    by grind [State.renewed_wf]

/-! ## Launches and gangs -/

theorem State.launcherSent_wf {s : State} {die : Nat} {part : BitVec 8} {tag : BitVec 12} (h : s.memoriesWf) :
    (s.launcherSent die part tag).memoriesWf := by
  unfold State.launcherSent
  grind [State.setDie_view]

theorem State.launcherRecv_wf {s : State} {die : Nat} {part : BitVec 8} {tag : BitVec 12} (h : s.memoriesWf) :
    (s.launcherRecv die part tag).memoriesWf := by
  unfold State.launcherRecv
  grind [State.setDie_view]

theorem State.launcherReport_wf {s : State} {die : Nat} {r : LaunchRec} {cause : BitVec 6} (h : s.memoriesWf) :
    (s.launcherReport die r cause).memoriesWf := State.report_wf h

theorem execLaunchExpansionStart_wf {die : Fin 8} {s : State} (h : s.memoriesWf) :
    (execLaunchExpansionStart die s).wf := by
  unfold execLaunchExpansionStart
  grind [Out.wf_next, State.setDie_view, State.askUnit_wf, State.launcherReport_wf, State.readDesc_wf]

theorem State.launchMessage_wf {s : State} {die n : Nat} {r : LaunchRec} (h : s.memoriesWf) :
    (s.launchMessage die n r).memoriesWf := by
  unfold State.launchMessage
  grind [State.launcherSent_wf, State.findHome_wf, State.unitSend_wf, State.launcherRecv_wf, State.launcherReport_wf]

theorem State.launchOne_wf {s : State} {die n : Nat} {r : LaunchRec} (h : s.memoriesWf) :
    ∀ t, s.launchOne die n r = some t → t.memoriesWf := by
  unfold State.launchOne
  grind [State.setDie_view, State.setCore_wf, State.launcherSent_wf, State.askUnit_wf, State.launchMessage_wf]

theorem execLaunchItem_wf {die : Fin 8} {s : State} (h : s.memoriesWf) : (execLaunchItem die s).wf := by
  unfold execLaunchItem
  dsimp only
  split
  · exact Out.wf_next h
  · refine Out.wf_next (State.setDie_view ?_ rfl)
    cases launched : s.launchOne _ _ _ with
    | none => exact h
    | some t => exact State.launchOne_wf h t launched

theorem State.sendSweep_wf {s : State} {dst : BitVec 12} {f : Flit} (h : s.memoriesWf) :
    (s.sendSweep dst f).memoriesWf := State.sendUnder_wf h

theorem State.sendNotices_wf {s : State} {part : BitVec 8} {tag : BitVec 12} {sum : BitVec 32} (h : s.memoriesWf) :
    (s.sendNotices part tag sum).memoriesWf := by
  unfold State.sendNotices
  grind [State.readDesc_wf, State.report_wf, State.findHome_wf, State.unitSend_wf, State.setDev_wf, State.foldl_wf]

theorem State.sweepTag_wf {s : State} {part : BitVec 8} {tag : BitVec 12} {own : SweepSum} (h : s.memoriesWf) :
    (s.sweepTag part tag own).memoriesWf := by
  unfold State.sweepTag
  grind [State.setDev_wf, State.sendSweep_wf, State.sendNotices_wf, State.foldl_wf]

theorem execLaunchSweep_wf {part : BitVec 8} {s : State} (h : s.memoriesWf) : (execLaunchSweep part s).wf := by
  unfold execLaunchSweep
  grind [Out.wf_next, State.setDev_wf, State.sweepTag_wf, State.fresh_wf, State.foldl_wf]

theorem State.gangDesc_wf {s : State} {part : BitVec 8} {g : Nat} (h : s.memoriesWf) :
    (s.gangDesc part g).2.memoriesWf := by
  unfold State.gangDesc
  grind [State.tableWords_wf]

theorem State.reserveCore_wf {s : State} {id n : Nat} (h : s.memoriesWf) : (s.reserveCore id n).memoriesWf := by
  unfold State.reserveCore
  grind [State.setCore_wf, State.moveOrder_wf, State.foldl_wf]

theorem State.reserveGang_wf {s : State} {die : Nat} {part : BitVec 8} {g : Nat} (h : s.memoriesWf) :
    (s.reserveGang die part g).memoriesWf := by
  unfold State.reserveGang
  grind [State.gangDesc_wf, State.setDev_wf, State.reserveCore_wf, State.foldl_wf]

theorem execGangReserve_wf {die : Fin 8} {s : State} (h : s.memoriesWf) : (execGangReserve die s).wf := by
  unfold execGangReserve
  grind [Out.wf_next, State.reserveGang_wf, State.foldl_wf]

theorem State.hostAfar_wf {s : State} {dev : BitVec 12} {core : Nat} {m : Message} (h : s.memoriesWf) :
    (s.hostAfar dev core m).memoriesWf := by
  unfold State.hostAfar
  grind [State.readDesc_wf, State.findHome_wf, State.setHearth_wf]

theorem State.startHere_wf {s : State} {part : BitVec 8} {d : BitVec 512} (h : s.memoriesWf) :
    (s.startHere part d).memoriesWf := by
  unfold State.startHere
  grind [State.hostAfar_wf, State.setCore_wf, State.foldl_wf]

theorem execGangStart_wf {part : BitVec 8} {g : Nat} {s : State} (h : s.memoriesWf) : (execGangStart part g s).wf := by
  unfold execGangStart
  split
  · exact Out.wf_next h
  · dsimp only
    split
    · exact Out.wf_next h
    · split
      · split
        · exact Out.wf_next (State.readDesc_wf h)
        · exact Out.wf_next (State.report_wf (State.setDev_wf (State.readDesc_wf h)))
      · split
        · exact Out.wf_next (State.askUnit_wf (State.readDesc_wf h))
        · exact Out.wf_next (State.foldl_wf (fun _ _ ht => State.sendMessage_wf ht) _
            (State.startHere_wf (State.setDev_wf (State.readDesc_wf h))))

theorem State.startMember_wf {s : State} {c : CoreId} {i home : Nat} {x : Incoming} {m : Message} {f : State → State}
    (h : s.memoriesWf) (hf : ∀ t, t.memoriesWf → (f t).memoriesWf) : (s.startMember c i home x m f).memoriesWf := by
  have kindled := State.kindleAt_wf (core := c.ix) (home := home) (n := x.name) (pin := true) h
  unfold State.startMember
  split
  next s1 e =>
    rw [e] at kindled
    exact State.inboxPlace_wf (State.stamped_wf (hf _ (State.setCore_wf kindled)))
  next s1 e =>
    rw [e] at kindled
    exact kindled

theorem execGangStartDelivery_wf {c : CoreId} {s : State} (h : s.memoriesWf) : (execGangStartDelivery c s).wf := by
  unfold execGangStartDelivery
  split
  · exact Out.wf_next h
  · split
    · exact Out.wf_next h
    · dsimp only
      split
      · exact Out.wf_next (State.askUnit_wf (State.readDesc_wf h))
      · exact Out.wf_next (State.askUnit_wf (State.readDesc_wf h))
      · split
        · exact Out.wf_next (State.findHome_wf (State.readDesc_wf h))
        · split
          · exact Out.wf_next (State.startMember_wf (State.findHome_wf (State.readDesc_wf h)) fun _ ht => ht)
          · split
            · exact Out.wf_next (State.startMember_wf (State.findHome_wf (State.readDesc_wf h)) fun _ ht => State.setHearth_wf ht)
            · exact Out.wf_next (State.findHome_wf (State.readDesc_wf h))

theorem execGangRelease_wf {part : BitVec 8} {g : Nat} {s : State} (h : s.memoriesWf) :
    (execGangRelease part g s).wf := by
  unfold execGangRelease
  grind [Out.wf_next, State.memoriesWf_mk, State.gangDesc_wf, State.setDev_wf]

/-! ## Engine steps -/

theorem State.checkRange_wf {s : State} {p : Pending} (h : s.memoriesWf) : (s.checkRange p).memoriesWf := by
  unfold State.checkRange
  grind [State.engPages_wf, State.setPend_wf, State.serveFail_wf, State.endErr_wf]

theorem State.engReady_wf {s : State} {p : Pending} {k : State} (hs : s.memoriesWf) (hk : k.memoriesWf) :
    (s.engReady p k).memoriesWf := by
  unfold State.engReady
  grind [State.checkArrival_wf, State.checkRange_wf]

theorem execCopyRead_wf {e : EngineId} {i : Nat} {s : State} (h : s.memoriesWf) : (execCopyRead e i s).wf := by
  unfold execCopyRead
  grind [Out.wf_next, State.engReady_wf, State.fresh_wf, State.engPages_wf, State.engRead_wf, State.readFailed_wf,
    State.setPend_wf]

theorem execCopyWrite_wf {e : EngineId} {i : Nat} {s : State} (h : s.memoriesWf) : (execCopyWrite e i s).wf := by
  unfold execCopyWrite
  grind [Out.wf_next, State.engReady_wf, State.fresh_wf, State.sendNext_wf, State.fillClaim_wf, State.installOne_wf]

theorem execCbfillSlotPut_wf {e : EngineId} {i : Nat} {s : State} (h : s.memoriesWf) :
    (execCbfillSlotPut e i s).wf := by
  unfold execCbfillSlotPut
  grind [Out.wf_next, State.setCore_wf, State.setPend_wf]

theorem execReduceElement_wf {e : EngineId} {i : Nat} {s : State} (h : s.memoriesWf) :
    (execReduceElement e i s).wf := by
  unfold execReduceElement
  split
  · exact Out.wf_next h
  · dsimp only
    split
    · exact Out.wf_next h
    · split
      · exact Out.wf_next (State.endErr_wf h)
      · refine Out.wf_next (State.engPages_wf h ?_)
        split
        · exact h
        · split
          · exact State.endErr_wf (State.setPend_wf h)
          next taken => exact State.endErr_wf (State.gotBytes_wf (State.setPend_wf (State.reduceElem_wf h _ taken)))

theorem execOrderedReduceApply_wf {e : EngineId} {i : Nat} {s : State} (h : s.memoriesWf) :
    (execOrderedReduceApply e i s).wf := by
  unfold execOrderedReduceApply
  grind [Out.wf_next, State.engPages_wf, State.failPend_wf, State.stageOne_wf, State.beginGroup_wf, State.applyNext_wf]

theorem execStamp_wf {e : EngineId} {i : Nat} {s : State} (h : s.memoriesWf) : (execStamp e i s).wf := by
  unfold execStamp
  grind [Out.wf_next, State.fresh_wf, State.engPages_wf, State.setPend_wf, State.writeAt_wf]

theorem State.enqueueSent_wf {s : State} {p : Pending} (h : s.memoriesWf) : (s.enqueueSent p).memoriesWf := by
  unfold State.enqueueSent
  grind [State.sentUp_wf, State.launcherSent_wf]

theorem execWrenqEnqueue_wf {e : EngineId} {i : Nat} {s : State} (h : s.memoriesWf) : (execWrenqEnqueue e i s).wf := by
  unfold execWrenqEnqueue
  grind [Out.wf_next, State.engSend_wf, State.setPend_wf, State.enqueueSent_wf]

theorem execNotify_wf {e : EngineId} {i : Nat} {s : State} (h : s.memoriesWf) : (execNotify e i s).wf := by
  unfold execNotify
  grind [Out.wf_next, State.notifyOwn_wf, State.recvEnd_wf]

/-! ## The fabric -/

theorem execAck_wf {f : Flit} {s : State} (h : s.memoriesWf) : (execAck f s).wf :=
  onFlit_wf h fun _ h =>
    by grind [State.setPend_wf, State.gotBytes_wf]

theorem State.doneOwn_wf {s : State} {p : Pending} {status prior : BitVec 64} (h : s.memoriesWf) :
    (s.doneOwn p status prior).memoriesWf := by
  unfold State.doneOwn
  grind [State.setPend_wf, State.noteFault_wf, State.failPend_wf]

theorem State.doneFor_wf {s : State} {f : Flit} {status prior : BitVec 64} (h : s.memoriesWf) :
    (s.doneFor f status prior).memoriesWf := by
  unfold State.doneFor
  grind [State.doneOwn_wf, State.dropPend_wf]

theorem execDoneResponse_wf {f : Flit} {s : State} (h : s.memoriesWf) : (execDoneResponse f s).wf :=
  onFlit_wf h fun _ h =>
    by grind [State.doneFor_wf]

theorem execRdata_wf {f : Flit} {s : State} (h : s.memoriesWf) : (execRdata f s).wf :=
  onFlit_wf h fun _ h =>
    by grind [State.reportHandOff_wf, State.failPend_wf, State.setPend_wf]

theorem execFwd_wf {f : Flit} {s : State} (h : s.memoriesWf) : (execFwd f s).wf :=
  onFlit_wf h fun _ h =>
    by grind [State.failPend_wf, State.setPend_wf, State.setDev_wf, State.sendLong_wf, State.sendShort_wf]

theorem execDrop_wf {f : Flit} {s : State} (h : s.memoriesWf) : (execDrop f s).wf :=
  onFlit_wf h fun _ h =>
    by grind [State.dropPend_wf, State.failPend_wf]

theorem execMack_wf {f : Flit} {s : State} (h : s.memoriesWf) : (execMack f s).wf :=
  onFlit_wf h fun _ h =>
    by grind [State.setDev_wf, State.markSent_wf, State.itemDone_wf, State.flushMessages_wf]

theorem State.granted_wf {s : State} {f : Flit} {p : Pending} (h : s.memoriesWf) : (s.granted f p).memoriesWf := by
  unfold State.granted
  grind [State.setPend_wf]

theorem execGrant_wf {f : Flit} {s : State} (h : s.memoriesWf) : (execGrant f s).wf :=
  onFlit_wf h fun _ h =>
    by grind [State.granted_wf]

theorem execRevoke_wf {f : Flit} {s : State} (h : s.memoriesWf) : (execRevoke f s).wf :=
  onFlit_wf h fun _ h =>
    by grind [State.setPend_wf]

theorem State.sendRereq_wf {s : State} {p : Pending} (h : s.memoriesWf) :
    (s.sendRereq p).memoriesWf := State.sendOnPlane_wf (State.setPend_wf h)

theorem execResume_wf {f : Flit} {s : State} (h : s.memoriesWf) : (execResume f s).wf :=
  onFlit_wf h fun _ h =>
    by grind [State.sendRereq_wf]

theorem execRereqTimeout_wf {die : Fin 8} {i : Nat} {s : State} (h : s.memoriesWf) : (execRereqTimeout die i s).wf := by
  unfold execRereqTimeout
  dsimp only
  split
  · exact Out.wf_next h
  · split
    · exact Out.wf_next (State.sendRereq_wf h)
    · exact Out.wf_next h

theorem State.stopFlow_wf {s : State} {port : Nat} {flow : BitVec 12 × Nat} (h : s.memoriesWf) :
    (s.stopFlow port flow).memoriesWf := by
  unfold State.stopFlow
  grind [State.setPort_wf]

theorem State.releaseFlow_wf {s : State} {port : Nat} {flow : BitVec 12 × Nat} (h : s.memoriesWf) :
    (s.releaseFlow port flow).memoriesWf := by
  unfold State.releaseFlow
  grind [State.setPort_wf, State.moveUp_wf]

theorem execSetaside_wf {f : Flit} {s : State} (h : s.memoriesWf) : (execSetaside f s).wf :=
  onFlit_wf h fun _ h =>
    by grind [State.stopFlow_wf]

theorem execClear_wf {f : Flit} {s : State} (h : s.memoriesWf) : (execClear f s).wf :=
  onFlit_wf h fun _ h =>
    by grind [State.releaseFlow_wf]

theorem execSwitchSetAside_wf {port : Fin 128} {dev : BitVec 12} {cls : Fin 4} {s : State} (h : s.memoriesWf) :
    (execSwitchSetAside port dev cls s).wf := by
  unfold execSwitchSetAside
  grind [Out.wf_next, State.setSwitch_wf, State.stopFlow_wf]

theorem execSwitchClear_wf {port : Fin 128} {dev : BitVec 12} {cls : Fin 4} {s : State} (h : s.memoriesWf) :
    (execSwitchClear port dev cls s).wf := by
  unfold execSwitchClear
  grind [Out.wf_next, State.setSwitch_wf, State.releaseFlow_wf]

theorem execSwitchCombine_wf {port : Fin 128} {s : State} (h : s.memoriesWf) : (execSwitchCombine port s).wf := by
  unfold execSwitchCombine
  grind [Out.wf_next, State.setSwitch_wf]

theorem State.splitDone_wf {s : State} {req : BitVec 24} {src : BitVec 12} {status : BitVec 64} {prior : Nat}
    {g : Flit} {l : Nat}
    (h : s.memoriesWf) : (s.splitDone req src status prior g l).memoriesWf := by
  induction l generalizing s req prior g with
  | zero => exact h
  | succ n ih =>
    unfold State.splitDone
    split
    · exact State.doneFor_wf h
    · refine State.foldl_wf (fun t k ht => ?_) _ (State.setSwitch_wf h)
      split
      · exact ht
      · exact ih ht

theorem execCombinedDoneSplit_wf {f : Flit} {s : State} (h : s.memoriesWf) : (execCombinedDoneSplit f s).wf :=
  onFlit_wf h fun _ h =>
    by grind [State.splitDone_wf]

theorem State.sendMack_wf {s : State} {f : Flit} (h : s.memoriesWf) : (s.sendMack f).memoriesWf := State.answer_wf h

theorem State.placeFrom_wf {s : State} {f : Flit} (h : s.memoriesWf) :
    ∀ t, s.placeFrom f = some t → t.memoriesWf := by
  unfold State.placeFrom
  grind [State.placeMessage_wf, State.readDesc_wf, State.findHome_wf, State.setDev_wf, State.report_wf,
    State.enterHost_wf]

theorem execMsg_wf {f : Flit} {s : State} (h : s.memoriesWf) : (execMsg f s).wf :=
  onFlit_wf h fun _ h0 =>
    by grind [State.unholdFlit_wf, State.holdFlit_wf, State.askUnit_wf, State.setDev_wf, State.startHere_wf,
      State.sendMack_wf, State.placeFrom_wf]

theorem execSweep_wf {f : Flit} {s : State} (h : s.memoriesWf) : (execSweep f s).wf :=
  onFlit_wf h fun _ h =>
    by grind [State.sendMack_wf, State.setDev_wf, State.sendSweep_wf]

theorem State.endUnreachable_wf {s : State} (h : s.memoriesWf) : (s.endUnreachable).memoriesWf := by
  unfold State.endUnreachable
  grind [State.failPend_wf, State.foldl_wf]

theorem State.reroute_wf {s : State} {l : List Flit} (h : s.memoriesWf) : (s.reroute l).memoriesWf := by
  induction l generalizing s with
  | nil => grind [State.reroute, State.setDev_wf, State.sendBulk_wf, State.sendOnPlane_wf]
  | cons x xs ih => grind [State.reroute, State.setDev_wf, State.sendBulk_wf, State.sendOnPlane_wf]

theorem State.reportAllHeld_wf {s : State} (h : s.memoriesWf) : (s.reportAllHeld).memoriesWf := by
  unfold State.reportAllHeld
  grind [State.reportHeld_wf, State.foldl_wf]

theorem State.portDown_wf {s : State} {n : Nat} (h : s.memoriesWf) : (s.portDown n).memoriesWf := by
  unfold State.portDown
  grind [State.setPort_wf, State.reroute_wf, State.flushMessages_wf, State.reportAllHeld_wf, State.endUnreachable_wf,
    State.report_wf]

theorem execLinkFailure_wf {port : Fin 128} {cls : Fin 4} {s : State} (h : s.memoriesWf) :
    (execLinkFailure port cls s).wf := by
  unfold execLinkFailure
  grind [Out.wf_next, State.fresh_wf, State.setPort_wf, State.portDown_wf]

theorem execPortUp_wf {port : Fin 128} {cls : Fin 4} {s : State} (h : s.memoriesWf) : (execPortUp port cls s).wf := by
  unfold execPortUp
  grind [Out.wf_next, State.fresh_wf, State.setPort_wf, State.flushMessages_wf]

theorem execFlitCrcFail_wf {port : Fin 128} {lane : Fin 2} {s : State} (h : s.memoriesWf) :
    (execFlitCrcFail port lane s).wf := by
  unfold execFlitCrcFail
  grind [Out.wf_next, State.setPort_wf, State.portDown_wf]

/-! ## Failures -/

theorem State.loseEntry_wf {s : State} {core unit : Nat} {n : ActorName} {ms : List Message} (h : s.memoriesWf) :
    (s.loseEntry core unit n ms).memoriesWf := by
  unfold State.loseEntry
  grind [State.recvAll_wf, State.report_wf]

theorem State.loseMessage_wf {s : State} {core : Nat} {m : Message} {f : Core → Core} (h : s.memoriesWf) :
    (s.loseMessage core m f).memoriesWf := by
  unfold State.loseMessage
  grind [State.setCore_wf, State.loseEntry_wf]

theorem State.reportFailure_wf {s : State} {d : Nat} (h : s.memoriesWf) : (s.reportFailure d).memoriesWf := by
  unfold State.reportFailure
  grind [State.report_wf, State.foldl_wf]

theorem State.countLost_wf {s : State} {d : Nat} {l : List (BitVec 8 × BitVec 12)} (h : s.memoriesWf) :
    (s.countLost d l).memoriesWf := by
  induction l generalizing s with
  | nil => grind [State.countLost, State.launcherRecv_wf]
  | cons x xs ih => grind [State.countLost, State.launcherRecv_wf]

theorem State.lostCells_wf {dies : Map Die} (f : Host.Cell → Bool)
    (h : ∀ d, (Map.getD dies d ({} : Die)).view.mem.wf = true) (d : Nat) :
    (Map.getD (dies.map fun (n, x) => (n, { x with view := { x.view with mem := x.view.mem.filter f } })) d ({} : Die)).view.mem.wf
      = true := by
  rw [Map.getD_map dies (fun _ x => { x with view := { x.view with mem := x.view.mem.filter f } }) d {} rfl]
  exact Memory.filter_above f (h d)

theorem State.loseDie_wf {s : State} {d : Nat} (h : s.memoriesWf) : (s.loseDie d).memoriesWf := by
  unfold State.loseDie
  exact State.countLost_wf (State.setDie_view (State.lostCells_wf _ h) rfl)

theorem State.failDie_wf {s : State} {d : Nat} (h : s.memoriesWf) : (s.failDie d).memoriesWf := by
  unfold State.failDie
  grind [State.reportFailure_wf, State.loseDie_wf]

theorem State.poisonBlock_wf {s : State} {q : Nat} (h : s.memoriesWf) : (s.poisonBlock q).memoriesWf := by
  unfold State.poisonBlock
  grind [State.fresh_wf, State.writeAt_wf, State.reportHandOff_wf]

theorem execUncorrectableError_wf {x : Struck} {s : State} (h : s.memoriesWf) : (execUncorrectableError x s).wf := by
  unfold execUncorrectableError
  grind [Out.wf_next, State.poisonBlock_wf, State.loseMessage_wf, State.loseEntry_wf, State.setCore_wf,
    State.setHearth_wf,
    State.fresh_wf, State.writeAt_wf, State.failDie_wf]

theorem execCorrectedErrorThreshold_wf {unit : Nat} {s : State} (h : s.memoriesWf) :
    (execCorrectedErrorThreshold unit s).wf := by
  unfold execCorrectedErrorThreshold
  grind [Out.wf_next, State.setDev_wf, State.report_wf]

theorem execHeartbeatTimeout_wf {die : Fin 8} {s : State} (h : s.memoriesWf) : (execHeartbeatTimeout die s).wf := by
  unfold execHeartbeatTimeout
  grind [Out.wf_next, State.failDie_wf]

theorem State.takeOver_wf {s : State} {d : Nat} (h : s.memoriesWf) : (s.takeOver d).memoriesWf := by
  unfold State.takeOver
  grind [State.setDie_view, State.setDev_wf]

theorem State.addHearth_wf {s : State} {home : Nat} {h : Hearth} (hs : s.memoriesWf) :
    (s.addHearth home h).memoriesWf := by
  unfold State.addHearth
  grind [State.setHearth_wf]

theorem State.rebuildHearths_wf {s : State} {d : Nat} (h : s.memoriesWf) : (s.rebuildHearths d).memoriesWf := by
  unfold State.rebuildHearths
  grind [State.setCore_wf, State.addHearth_wf, State.foldl_wf]

theorem State.pullStranded_wf {s : State} {d : Nat} (h : s.memoriesWf) : (s.pullStranded d).memoriesWf := by
  unfold State.pullStranded
  grind [State.setDie_view, State.setClu_wf, State.toHost_wf, State.foldl_wf]

theorem State.replayActor_wf {s : State} {d : Nat} {e : BankEntry} (h : s.memoriesWf) :
    (s.replayActor d e).memoriesWf := by
  unfold State.replayActor
  grind [State.readDesc_wf, State.setBank_wf, State.findHome_wf, State.launcherSent_wf, State.unitSend_wf,
    State.setHearth_wf, State.chooseHost_wf, State.setClu_wf, State.report_wf, State.foldl_wf]

theorem State.remake_wf {s : State} {d : Nat} (h : s.memoriesWf) : (s.remake d).memoriesWf := by
  unfold State.remake
  grind [State.setDie_view]

theorem State.repost_wf {s0 : State} {d : Nat} {p : Pending} (h : s0.memoriesWf) : (s0.repost d p).memoriesWf := by
  unfold State.repost
  grind [State.report_wf, State.fresh_wf, State.failPend_wf, State.dropPend_wf, State.setDie_view, State.setDev_wf,
    State.enter_wf, State.notifyOwn_wf]

theorem execDieFailure_wf {die : Fin 8} {s : State} (h : s.memoriesWf) : (execDieFailure die s).wf := by
  unfold execDieFailure
  grind [Out.wf_next, State.failDie_wf, State.takeOver_wf, State.rebuildHearths_wf, State.pullStranded_wf,
    State.replayActor_wf, State.remake_wf, State.repost_wf, State.homeMessage_wf, State.setDie_view, State.foldl_wf]

end Sys2Proof.Machine
end

section
/-! PROOFS. Canonical memories: the remaining forms and events, every instruction, and the step. -/

namespace Sys2Proof.Machine

/-! ## Floating-point flags -/

theorem State.accrue_wf {s : State} {p : Party} {fl : BitVec 5} (h : s.memoriesWf) : (s.accrue p fl).memoriesWf := h

theorem State.roundMode_keeps {s : State} {p : Party} {w : BitVec 32} {rm : BitVec 3} :
    (s.roundMode p w rm).Keeps fun _ => True := by
  unfold State.roundMode
  grind [Tri.Keeps]

theorem fp1_wf {w : BitVec 32} {rd rs1 : BitVec 5} {rm : BitVec 3} {s : State} {f : Rm → Reg → Reg × BitVec 5}
    (h : s.memoriesWf) :
    (fp1 w rd rs1 rm s f).wf :=
  settleNext_wf h <|
    (State.exePre_keeps h).bind fun _ _ =>
    State.roundMode_keeps.bind fun _ _ =>
    (State.src_keeps h).bind fun ⟨_, _⟩ h1 =>
    by grind [Tri.Keeps, State.accrue_wf, State.dest_wf]

theorem fp2_wf {w : BitVec 32} {rd rs1 rs2 : BitVec 5} {rm : BitVec 3} {s : State}
    {f : Rm → Reg → Reg → Reg × BitVec 5} (h : s.memoriesWf) :
    (fp2 w rd rs1 rs2 rm s f).wf :=
  settleNext_wf h <|
    (State.exePre_keeps h).bind fun _ _ =>
    State.roundMode_keeps.bind fun _ _ =>
    (State.src_keeps h).bind fun ⟨_, _⟩ h1 =>
    (State.src_keeps h1).bind fun ⟨_, _⟩ h2 =>
    by grind [Tri.Keeps, State.accrue_wf, State.dest_wf]

theorem fp3_wf {w : BitVec 32} {rd rs1 rs2 rs3 : BitVec 5} {rm : BitVec 3} {s : State}
    {f : Rm → Reg → Reg → Reg → Reg × BitVec 5} (h : s.memoriesWf) :
    (fp3 w rd rs1 rs2 rs3 rm s f).wf :=
  settleNext_wf h <|
    (State.exePre_keeps h).bind fun _ _ =>
    State.roundMode_keeps.bind fun _ _ =>
    (State.src_keeps h).bind fun ⟨_, _⟩ h1 =>
    (State.src_keeps h1).bind fun ⟨_, _⟩ h2 =>
    (State.src_keeps h2).bind fun ⟨_, _⟩ h3 =>
    by grind [Tri.Keeps, State.accrue_wf, State.dest_wf]

/-! ## Taps -/

theorem State.tapDrain_wf {s : State} {p : Party} {tap : Nat} {rows : List (List Nat)} (h : s.memoriesWf) :
    ∀ t, s.tapDrain p tap rows = some t → t.2.memoriesWf := by
  intro t e
  obtain ⟨⟨ys, t1⟩, _, rfl⟩ := Option.map_eq_some_iff.mp e
  dsimp only
  split
  · exact State.setTap_wf h
  · dsimp only
    split
    · exact State.mod_wf (State.setTap_wf h)
    · exact State.setTap_wf h

theorem State.tapFail_wf {s : State} {p : Party} {tap : Nat} (h : s.memoriesWf) : (s.tapFail p tap).memoriesWf := by
  unfold State.tapFail
  grind [State.setTap_wf, State.report_wf]

theorem State.useTap_keeps {s : State} {p : Party} {n : BitVec 3} : (s.useTap p n).Keeps fun _ => True := by
  unfold State.useTap
  grind [Tri.Keeps]

theorem execSeqmap_wf {rs1 rs2 : BitVec 5} {s : State} (h : s.memoriesWf) : (execSeqmap rs1 rs2 s).wf := by
  unfold execSeqmap
  exact onUnit_wf h <| exe2_wf h fun _ _ _ h1 =>
    State.useTap_keeps.bind fun _ _ =>
    Tri.ensure_keeps.bind fun _ _ =>
    Tri.keeps_val (State.setTap_wf h1)

theorem execSteer_wf {rs1 rs2 : BitVec 5} {s : State} (h : s.memoriesWf) : (execSteer rs1 rs2 s).wf := by
  unfold execSteer
  exact onUnit_wf h <| exe2_wf h fun _ _ _ h1 =>
    Tri.ensure_keeps.bind fun _ _ =>
    Tri.ensure_keeps.bind fun _ _ =>
    Tri.ensure_keeps.bind fun _ _ =>
    State.useTap_keeps.bind fun _ _ =>
    Tri.ensure_keeps.bind fun _ _ =>
    Tri.keeps_val (State.setTap_wf h1)

theorem execTaprd_wf {rd rs1 : BitVec 5} {s : State} (h : s.memoriesWf) : (execTaprd rd rs1 s).wf := by
  unfold execTaprd
  exact onUnit_wf h <| exe1_wf h fun _ _ h1 =>
    State.useTap_keeps.bind fun _ _ =>
    Tri.ensure_keeps.bind fun _ _ =>
    by grind [Tri.Keeps, State.setTap_wf, State.memoriesWf_mk]

/-! ## Matrix drains -/

theorem State.writeRows_wf {s : State} {p : Party} {a q : Nat} {l : List (List Byte)} (h : s.memoriesWf) :
    (s.writeRows p a q l).memoriesWf := by
  induction l generalizing s a with
  | nil => exact h
  | cons r rs ih => exact ih (State.storeCells_wf h)

theorem State.streamRow_wf {s : State} {p : Party} {w : Nat} {r : List Byte} {l : Nat} (h : s.memoriesWf) :
    (s.streamRow p w r l).memoriesWf := by
  induction l generalizing s r with
  | zero => exact h
  | succ n ih => exact ih (State.writeWindow_wf h)

theorem State.streamRows_wf {s : State} {p : Party} {w n : Nat} {l : List (List Byte)} (h : s.memoriesWf) :
    (s.streamRows p w n l).memoriesWf := by
  induction l generalizing s with
  | nil => grind [State.streamRows, State.streamRow_wf]
  | cons x xs ih => grind [State.streamRows, State.streamRow_wf]

theorem State.drainFirst_keeps {s : State} {p : Party} {e : BitVec 64} {c : Reg} :
    (s.drainFirst p e c).Keeps fun _ => True := by
  unfold State.drainFirst
  split
  · exact Tri.unless_keeps
  · split
    · exact Tri.keeps_val trivial
    · exact Tri.unless_keeps

theorem State.drainDest_keeps {s : State} {p : Party} {e : BitVec 64} {c : Reg} {sz : Nat} :
    (s.drainDest p e c sz).Keeps fun _ => True := Tri.keeps_ite Tri.ensure_keeps Tri.unless_keeps

theorem State.biasVector_keeps {s0 s : State} {p : Party} {e : BitVec 64} {acc : BitVec 2} (h0 : s0.memoriesWf)
    (h : s.memoriesWf) : (s0.biasVector s p e acc).Keeps fun x => x.2.memoriesWf :=
  Tri.keeps_ite ((State.readBytes_keeps h0 h).bind fun ⟨_, _⟩ h1 => Tri.keeps_val h1) (Tri.keeps_val h)

theorem drainPoison_keeps {c : Ctx} {n : BitVec 5} {x : Tile} : (drainPoison c n x).Keeps fun _ => True := by
  unfold drainPoison
  split
  · exact Tri.keeps_trap
  · exact Tri.ensure_keeps

theorem State.drainRows_wf {s : State} {p : Party} {e : BitVec 64} {t : Ty} {acc : BitVec 2} {cs : List Nat}
    {bias : Option (List Nat)} (h : s.memoriesWf) : ∀ u, s.drainRows p e t acc cs bias = some u → u.2.memoriesWf := by
  intro u drained
  unfold State.drainRows at drained
  dsimp only at drained
  split at drained
  · cases drained
    exact h
  · split at drained
    · cases drained
      exact h
    · obtain ⟨_, tapped, rfl⟩ := Option.map_eq_some_iff.mp drained
      have kept := State.tapDrain_wf h _ tapped
      exact kept

theorem execMdrain_wf {md : BitVec 5} {rs1 rs2 : BitVec 5} {s : State} (h : s.memoriesWf) :
    (execMdrain md rs1 rs2 s).wf := by
  refine settleNext_wf h ((State.matPre_keeps h).bind fun _ _ => ?_)
  split
  next s1 waits => exact Tri.keeps_stall (State.tileWait_wf h s1 waits)
  refine (State.src_keeps h).bind fun ⟨_, _⟩ h1 =>
    (State.src_keeps h1).bind fun ⟨_, _⟩ h2 =>
    State.drainFirst_keeps.bind fun _ _ => ?_
  split
  · exact Tri.keeps_trap
  refine Tri.ensure_keeps.bind fun _ _ =>
    State.drainDest_keeps.bind fun _ _ =>
    Tri.ensure_keeps.bind fun _ _ =>
    drainPoison_keeps.bind fun _ _ =>
    Tri.ensure_keeps.bind fun _ _ =>
    Tri.ensure_keeps.bind fun _ _ =>
    (Tri.keeps_ite Tri.unless_keeps (State.reach_keeps.bind fun _ _ => Tri.keeps_val trivial)).bind fun _ _ =>
    (State.issuePoint_keeps h).bind fun _ _ =>
    (State.biasVector_keeps h h2).bind fun ⟨_, _⟩ h3 => ?_
  dsimp only
  split
  · exact Tri.keeps_stall (takeTrap_wf (State.tapFail_wf h))
  next out s4 drained =>
    have h4 : s4.memoriesWf := State.drainRows_wf h3 _ drained
    refine Tri.keeps_val (State.mod_wf (State.setCore_wf ?_))
    split
    · exact State.streamRows_wf h4
    · exact State.writeRows_wf h4

/-! ## Matrix gangs -/

theorem State.formGang_wf {s : State} {clu : Nat} (h : s.memoriesWf) : (s.formGang clu).memoriesWf := by
  unfold State.formGang
  grind [State.memoriesWf_mk, State.setClu_wf]

theorem execMgang_wf {s : State} (h : s.memoriesWf) : (execMgang s).wf := by
  refine settle_wf h <| (State.matPre_keeps h).bind fun _ _ => Tri.keeps_ite (Tri.keeps_val (State.advance_wf h)) <|
    Tri.ensure_keeps.bind fun _ _ => Tri.keeps_ite (Tri.keeps_stall (State.setClu_wf h)) (Tri.keeps_val ?_)
  exact State.formGang_wf (State.setClu_wf h)

theorem State.gangTrap_keeps {s : State} {p : Party} {cause : BitVec 6} {tval : BitVec 64} (h : s.memoriesWf) :
    (s.gangTrap p cause tval).Keeps State.memoriesWf := by
  unfold State.gangTrap
  grind [Tri.Keeps, State.accSettled_wf, takeTrap_wf, State.mod_wf]

theorem State.enterGang_keeps {s0 s : State} {p : Party} {md : BitVec 5} {gen n : Nat} {conf : TileConf} {first : Bool}
    {w : BitVec 64} {m : Option Nat} (h0 : s0.memoriesWf) (h : s.memoriesWf) :
    (s0.enterGang s p md gen n conf first w m).Keeps State.memoriesWf := by
  unfold State.enterGang
  grind [Tri.Keeps, State.setCore_wf, State.enterQueue_wf, State.mod_wf]

theorem execMmag_wf {md : BitVec 5} {rs1 rs2 : BitVec 5} {s : State} (h : s.memoriesWf) :
    (execMmag md rs1 rs2 s).wf := by
  refine settleNext_wf h <|
    (State.matPre_keeps h).bind fun _ _ =>
    (State.src_keeps h).bind fun ⟨_, _⟩ h1 =>
    (Tri.keeps_ite (State.matRows_keeps h h1) (Tri.keeps_val h1)).bind fun ⟨_, _⟩ h2 =>
    (Tri.keeps_ite Core.ringValid_keeps (Tri.keeps_val trivial)).bind fun _ _ =>
    Core.ringValid_keeps.bind fun _ _ => ?_
  dsimp only
  refine Tri.keeps_ite (Tri.keeps_stall h) ?_
  have trapped {p : Party} {cause : BitVec 6} {tval : BitVec 64} : (s.gangTrap p cause tval).Keeps State.memoriesWf :=
    State.gangTrap_keeps h
  split
  · exact Tri.keeps_ite (Tri.keeps_ite trapped (State.enterGang_keeps h h2)) trapped
  · exact Tri.keeps_ite trapped (Tri.keeps_ite Tri.keeps_trap (State.enterGang_keeps h h2))

theorem execGangOpStart_wf {die : Fin 8} {clu : Fin 256} {s : State} (h : s.memoriesWf) :
    (execGangOpStart die clu s).wf := by
  unfold execGangOpStart
  grind [Out.wf_next, State.setCore_wf, State.foldl_wf]

/-! ## Monitors -/

theorem execMon_wf {rs1 : BitVec 5} {s : State} (h : s.memoriesWf) : (execMon rs1 s).wf :=
  settleNext_wf h <|
    (State.exePre_keeps h).bind fun _ _ =>
    (State.src_keeps h).bind fun ⟨_, _⟩ h1 =>
    Tri.unless_keeps.bind fun _ _ =>
    State.reach_keeps.bind fun _ _ =>
    Tri.ensure_keeps.bind fun _ _ =>
    Tri.keeps_val (State.mod_wf h1)

theorem State.endMonw_wf {s : State} {p : Party} {rd : BitVec 5} {r : BitVec 64} (h : s.memoriesWf) :
    (s.endMonw p rd r).memoriesWf := State.dest_wf (State.mod_wf h)

theorem execMonw_wf {rd rs1 : BitVec 5} {s : State} (h : s.memoriesWf) : (execMonw rd rs1 s).wf := by
  refine settle_wf h ((State.exePre_keeps h).bind fun _ _ => ?_)
  split
  · exact Tri.keeps_ite (Tri.keeps_val (State.endMonw_wf h))
      (Tri.keeps_ite (Tri.keeps_val (State.endMonw_wf h)) (Tri.keeps_stall h))
  · exact (State.src_keeps h).bind fun ⟨_, _⟩ h1 =>
      Tri.keeps_ite (Tri.keeps_val (State.endMonw_wf h1)) <| Tri.keeps_ite (Tri.keeps_val (State.endMonw_wf h1)) <|
      Tri.keeps_ite (Tri.keeps_val (State.endMonw_wf h1)) (Tri.keeps_val (State.mod_wf h1))

theorem execMonwTimeout_wf {p : Party} {s : State} (h : s.memoriesWf) : (execMonwTimeout p s).wf := by
  unfold execMonwTimeout
  grind [Out.wf_next, State.endMonw_wf]

/-! ## Images -/

theorem State.writeImages_wf {s : State} {die core : Nat} {img : CoreImage} (h : s.memoriesWf) :
    (s.writeImages die core img).memoriesWf := State.writeAt_wf h

/-! ## Supervisor commands -/

theorem execXret_wf {s : State} (h : s.memoriesWf) : (execXret s).wf :=
  settle_wf h <|
    (State.exePre_keeps h).bind fun _ _ =>
    Tri.ensure_keeps.bind fun _ _ =>
    Tri.keeps_val (State.trapReturn_wf h)

theorem execPark_wf {s : State} (h : s.memoriesWf) : (execPark s).wf :=
  settleNext_wf h <|
    (State.exePre_keeps h).bind fun _ _ =>
    Tri.ensure_keeps.bind fun _ _ =>
    by grind [Tri.Keeps]

theorem State.takeCmd_wf {s : State} {core code : Nat} (h : s.memoriesWf) :
    ∀ t, s.takeCmd core code = some t → t.2.memoriesWf := by
  unfold State.takeCmd
  grind [State.setCore_wf]

theorem onCmd_wf {s : State} {c : CoreId} {code : Nat} {f : Message → State → State} (h : s.memoriesWf)
    (hf : ∀ m s1, s1.memoriesWf → (f m s1).memoriesWf) : (onCmd s c code f).wf := by
  unfold onCmd
  split
  next m s1 taken => exact Out.wf_next (hf m s1 (State.takeCmd_wf h _ taken))
  · exact Out.wf_next h

theorem execRetry_wf {c : CoreId} {s : State} (h : s.memoriesWf) : (execRetry c s).wf :=
  onCmd_wf h fun _ _ h1 =>
    by grind [State.mod_wf]

theorem execAbandon_wf {c : CoreId} {s : State} (h : s.memoriesWf) : (execAbandon c s).wf :=
  onCmd_wf h fun _ _ h1 =>
    by grind [State.endByTrap_wf, State.itemDone_wf]

theorem execMove_wf {c : CoreId} {s : State} (h : s.memoriesWf) : (execMove c s).wf :=
  onCmd_wf h fun _ _ h1 =>
    by grind [State.moveOrder_wf]

theorem execUnpin_wf {c : CoreId} {s : State} (h : s.memoriesWf) : (execUnpin c s).wf :=
  onCmd_wf h fun _ _ h1 =>
    by grind [State.setPin_wf]

theorem execClearFaultedMark_wf {c : CoreId} {s : State} (h : s.memoriesWf) : (execClearFaultedMark c s).wf :=
  onCmd_wf h fun _ _ h1 =>
    by grind [State.setDev_wf]

theorem execSetreg_wf {c : CoreId} {s : State} (h : s.memoriesWf) : (execSetreg c s).wf :=
  onCmd_wf h fun _ _ h1 =>
    by grind [State.mod_wf]

/-! ## Pre-emption -/

theorem State.withdrawBarwait_wf {s : State} {p : Party} (h : s.memoriesWf) : (s.withdrawBarwait p).memoriesWf := by
  unfold State.withdrawBarwait
  grind [State.sendOp_wf]

theorem State.runAcc_wf {s : State} {p : Party} {l : Nat} (h : s.memoriesWf) : (s.runAcc p l).memoriesWf := by
  induction l generalizing s with
  | zero => grind [State.runAcc, State.accStep_wf]
  | succ n ih => grind [State.runAcc, State.accStep_wf]

theorem State.saveFiring_wf {s : State} {c : CoreId} {k : Fin 4} {sel : Option Sel} (h : s.memoriesWf) :
    (s.saveFiring c k sel).memoriesWf := by
  unfold State.saveFiring
  grind [State.setDev_wf, State.orphan_wf, State.setCore_wf, State.mapRels_wf, State.mod_wf]

theorem State.discardSheet_wf {s0 : State} {c : CoreId} {k : Fin 4} (h : s0.memoriesWf) :
    (s0.discardSheet c k).memoriesWf := by
  unfold State.discardSheet
  grind [State.mapRels_wf, State.orphan_wf, State.setCore_wf, State.mod_wf, State.foldl_wf]

theorem State.stopCtx_wf {s : State} {c : CoreId} {k : Fin 4} (h : s.memoriesWf) : (s.stopCtx c k).memoriesWf := by
  unfold State.stopCtx
  grind [State.runAcc_wf, State.drainAll_wf, State.withdrawBarwait_wf, State.dissolveGang_wf, State.releaseSel_wf,
    State.discardSheet_wf, State.saveFiring_wf]

theorem State.preemptCore_wf {s : State} {c : CoreId} (h : s.memoriesWf) : (s.preemptCore c).memoriesWf := by
  unfold State.preemptCore
  grind [State.setClu_wf, State.stopCtx_wf, State.writeImages_wf, State.setCore_wf, State.foldl_wf]

theorem execPreempt_wf {c : CoreId} {s : State} (h : s.memoriesWf) : (execPreempt c s).wf := by
  unfold execPreempt
  grind [Out.wf_next, onCmd_wf, State.preemptCore_wf, State.foldl_wf]

theorem State.seat_wf {s : State} {c : CoreId} {x : SavedFiring} {k : Fin 4} (h : s.memoriesWf) :
    (s.seat c x k).memoriesWf := by
  unfold State.seat
  grind [State.setCtx_wf, State.orphan_wf, State.setCore_wf, State.mapRels_wf]

theorem State.holdSel_wf {s : State} {c : CoreId} {x : SavedFiring} {k : Fin 4} (h : s.memoriesWf) :
    (s.holdSel c x k).memoriesWf := by
  unfold State.holdSel
  grind [State.setClu_wf]

theorem State.seatAll_wf {s : State} {c : CoreId} {l : List SavedFiring} (h : s.memoriesWf) :
    ∀ t, s.seatAll c l = some t → t.memoriesWf := by
  induction l generalizing s with
  | nil => grind [State.seatAll, State.setCore_wf, State.seat_wf, State.holdSel_wf]
  | cons x xs ih => grind [State.seatAll, State.setCore_wf, State.seat_wf, State.holdSel_wf]

theorem State.restoreWork_wf {s : State} {c : CoreId} {bytes : List (Nat × Byte)} (h : s.memoriesWf) :
    (s.restoreWork c bytes).memoriesWf := by
  unfold State.restoreWork
  grind [State.writeAt_wf]

theorem State.restoreCore_wf {s : State} {c : CoreId} {img : CoreImage} (h : s.memoriesWf) :
    (s.restoreCore c img).memoriesWf := h

theorem State.resumed_wf {s : State} {c : CoreId} {img : CoreImage} (h : s.memoriesWf) :
    (s.resumed c img).memoriesWf := by
  unfold State.resumed
  grind [State.setCore_wf]

theorem State.resume_wf {s : State} {c : CoreId} {img : CoreImage} (h : s.memoriesWf) :
    ∀ t, s.resume c img = some t → t.memoriesWf := by
  intro t e
  obtain ⟨s2, seated, rfl⟩ := Option.map_eq_some_iff.mp e
  exact State.resumed_wf (State.seatAll_wf (State.restoreCore_wf (State.restoreWork_wf h)) s2 seated)

theorem execResumeCore_wf {c : CoreId} {s : State} (h : s.memoriesWf) : (execResumeCore c s).wf := by
  unfold execResumeCore
  dsimp only
  split
  · exact onCmd_wf h fun _ _ h1 => h1
  next img _ =>
    split
    · split
      · exact Out.wf_next h
      next s1 seated => exact Out.wf_next (State.resumed_wf (State.seatAll_wf (State.setCore_wf h) s1 seated))
    · split
      · exact Out.wf_next h
      · split
        · exact Out.wf_next h
        · refine onCmd_wf h fun _ s1 h1 => ?_
          cases resumed : s1.resume c img with
          | none => exact h1
          | some t => exact State.resume_wf h1 t resumed

/-! ## Repeats -/

theorem bodyEffect_keeps {i : Instr} {f : State → Tri State} (effect : bodyEffect i = some f) {s : State}
    (h : s.memoriesWf) :
    (f s).Keeps State.memoriesWf := by
  unfold bodyEffect at effect
  split at effect
  iterate 3 next =>
    obtain ⟨-, ⟨⟩⟩ := Option.ite_none_left_eq_some.mp effect
    exact vec2_keeps h
  iterate 2 next =>
    obtain ⟨-, ⟨⟩⟩ := Option.ite_none_left_eq_some.mp effect
    exact vec3_keeps h
  iterate 2 next =>
    obtain ⟨-, ⟨⟩⟩ := Option.ite_none_left_eq_some.mp effect
    exact vec2_keeps h
  iterate 2 next =>
    cases effect
    exact vec1_keeps h
  next =>
    obtain ⟨-, ⟨⟩⟩ := Option.ite_none_left_eq_some.mp effect
    exact vec2_keeps h
  next =>
    cases effect
    exact vecConvert_keeps h
  iterate 3 next =>
    cases effect
    exact vec1_keeps h
  iterate 3 next =>
    cases effect
    exact vecReduce_keeps h
  iterate 3 next =>
    obtain ⟨-, ⟨⟩⟩ := Option.ite_none_left_eq_some.mp effect
    exact vecCompare_keeps h
  next =>
    obtain ⟨-, ⟨⟩⟩ := Option.ite_none_left_eq_some.mp effect
    exact vecSelect_keeps h
  iterate 5 next =>
    obtain ⟨-, ⟨⟩⟩ := Option.ite_none_left_eq_some.mp effect
    exact vec2_keeps h
  next =>
    cases effect
    exact vec1_keeps h
  iterate 4 next =>
    cases effect
    exact vecImm_keeps h
  next => cases effect

theorem repBody_keeps {w : BitVec 32} {f : State → Tri State} (body : repBody w = some f) {s : State}
    (h : s.memoriesWf) :
    (f s).Keeps State.memoriesWf := by
  unfold repBody at body
  dsimp only at body
  split at body
  · split at body
    · exact bodyEffect_keeps body h
    · cases body
  · cases body

theorem State.bodyWord_keeps {s : State} {p : Party} : (s.bodyWord p).Keeps fun _ => True := by
  unfold State.bodyWord
  grind [Tri.Keeps, State.fetchWord_keeps]

theorem execRep_wf {rs1 : BitVec 5} {s : State} (h : s.memoriesWf) : (execRep rs1 s).wf := by
  refine settle_wf h <|
    Tri.ensure_keeps.bind fun _ _ =>
    (State.exePre_keeps h).bind fun _ _ =>
    State.bodyWord_keeps.bind fun _ _ => ?_
  dsimp only
  split
  · exact Tri.keeps_trap
  next f body =>
    have done := repBody_keeps body h
    refine Tri.keeps_ite (Tri.keeps_val (State.mod_wf h)) ?_
    split
    next s1 e => exact Tri.keeps_val (State.mod_wf (done.1 s1 e))
    next s1 e => exact Tri.keeps_stall (State.mod_wf (done.2 s1 e))
    · exact done

/-! ## Scoped fences -/

theorem fenceForm_wf {sc : BitVec 3} {s : State} (h : s.memoriesWf) : (fenceForm sc s).wf :=
  settleNext_wf h <|
    by grind [Tri.Keeps, State.mod_wf]

/-! ## Selection -/

theorem State.columnRead_keeps {s : State} {p : Party} {qs : List Nat} (h : s.memoriesWf) :
    (s.columnRead p qs).Keeps fun _ => True := by
  unfold State.columnRead
  grind [Tri.Keeps, State.fresh_wf, State.mod_wf]

theorem State.columnDone_wf {s : State} {p : Party} (h : s.memoriesWf) : (s.columnDone p).memoriesWf := h

theorem State.setSel_wf {s : State} {p : Party} {k : Sel} (h : s.memoriesWf) : (s.setSel p k).memoriesWf := h

theorem State.heldSel_keeps {s : State} {p : Party} : (s.heldSel p).Keeps fun _ => True := by
  unfold State.heldSel
  grind [Tri.Keeps]

theorem selColumn_keeps {p : Party} {c : Reg} {n align : Nat} : (selColumn p c n align).Keeps fun _ => True := by
  refine Tri.unless_keeps.bind fun _ _ => Tri.ensure_keeps.bind fun _ _ => ?_
  split
  · exact Tri.ensure_keeps
  · exact Tri.keeps_trap

theorem State.claimSel_wf {s : State} {p : Party} {d : BitVec 512} (h : s.memoriesWf) :
    (s.claimSel p d).memoriesWf := by
  unfold State.claimSel
  grind [State.granted_wf, State.columnDone_wf, State.setSel_wf]

theorem State.startSel_keeps {s0 s : State} {p : Party} {d : BitVec 512} (h0 : s0.memoriesWf) (h : s.memoriesWf) :
    (s0.startSel s p d).Keeps State.memoriesWf :=
  Tri.unless_keeps.bind fun _ _ =>
    (State.columnRead_keeps (State.claimSel_wf h0)).bind fun _ _ =>
    Tri.keeps_val (State.columnDone_wf (State.setSel_wf h))

theorem State.selChecks_keeps {s0 s : State} {p : Party} {c : Reg} (h0 : s0.memoriesWf) (h : s.memoriesWf) :
    (s0.selChecks s p c).Keeps fun x => x.2.memoriesWf :=
  Tri.unless_keeps.bind fun _ _ =>
    Tri.ensure_keeps.bind fun _ _ =>
    State.reach_keeps.bind fun _ _ =>
    State.unpoisoned_keeps.bind fun _ _ =>
    (State.gather_keeps h0 h).bind fun ⟨_, _⟩ h1 =>
    Tri.ensure_keeps.bind fun _ _ =>
    selColumn_keeps.bind fun _ _ =>
    (Tri.keeps_ite selColumn_keeps (Tri.keeps_val trivial)).bind fun _ _ =>
    Tri.keeps_val h1

theorem execSelld_wf {rs1 : BitVec 5} {s : State} (h : s.memoriesWf) : (execSelld rs1 s).wf := by
  refine onUnit_wf h <| settleNext_wf h <|
    (State.exePre_keeps h).bind fun _ _ =>
    (State.src_keeps h).bind fun ⟨_, _⟩ h1 => ?_
  dsimp only
  split
  · exact State.startSel_keeps h h1
  · exact Tri.keeps_ite (Tri.keeps_stall h) <| (State.selChecks_keeps h h1).bind fun ⟨_, _⟩ h2 =>
      Tri.keeps_ite (State.startSel_keeps h h2) (Tri.keeps_stall (State.setSel_wf (State.mod_wf h)))

theorem execSelstep_wf {rd : BitVec 5} {s : State} (h : s.memoriesWf) : (execSelstep rd s).wf := by
  unfold execSelstep
  exact onUnit_wf h <| exe0_wf h fun _ h1 =>
    State.heldSel_keeps.bind fun _ _ =>
    Tri.ensure_keeps.bind fun _ _ =>
    Tri.unless_keeps.bind fun _ _ =>
    (State.columnRead_keeps h).bind fun _ _ =>
    Tri.keeps_val (State.columnDone_wf (State.setSel_wf h1))

theorem State.cutReads_keeps {s s1 : State} {p : Party} {k : Sel} {ones : Bool} (h : s.memoriesWf) :
    (s.cutReads s1 p k ones).Keeps fun _ => True :=
  Tri.unless_keeps.bind fun _ _ =>
    (State.columnRead_keeps h).bind fun _ _ =>
    Tri.unless_keeps.bind fun _ _ =>
    State.columnRead_keeps h

theorem execSelcut_wf {rs1 : BitVec 5} {s : State} (h : s.memoriesWf) : (execSelcut rs1 s).wf := by
  unfold execSelcut
  exact onUnit_wf h <| exe1_wf h fun _ _ h1 =>
    State.heldSel_keeps.bind fun _ _ =>
    Tri.ensure_keeps.bind fun _ _ =>
    (State.cutReads_keeps h).bind fun _ _ =>
    Tri.keeps_val (State.columnDone_wf (State.setSel_wf h1))

theorem State.planeHalf_keeps {s s1 : State} {p : Party} {k : Sel} {m : Nat} {t : BitVec 64} (h : s.memoriesWf) :
    (s.planeHalf s1 p k m t).Keeps State.memoriesWf := by
  unfold State.planeHalf
  dsimp only
  split
  · exact Tri.unless_keeps.bind fun _ _ => (State.columnRead_keeps h).bind fun _ _ =>
      Tri.keeps_val (State.columnDone_wf (State.setSel_wf h))
  · exact (State.cutReads_keeps h).bind fun _ _ => Tri.keeps_val (State.columnDone_wf (State.setSel_wf h))

theorem execSelrun_wf {rd rs1 rs2 : BitVec 5} {s : State} (h : s.memoriesWf) : (execSelrun rd rs1 rs2 s).wf := by
  unfold execSelrun
  exact onUnit_wf h <| exe2_wf h fun _ _ _ h1 =>
    State.heldSel_keeps.bind fun _ _ =>
    Tri.ensure_keeps.bind fun _ _ =>
    Tri.keeps_ite (Tri.keeps_val h1) <| Tri.keeps_ite
      (Tri.unless_keeps.bind fun _ _ => (State.columnRead_keeps h).bind fun _ _ =>
        Tri.keeps_val (State.columnDone_wf (State.setSel_wf h1)))
      ((State.planeHalf_keeps h).bind fun _ h2 => Tri.keeps_stall h2)

theorem execSelget_wf {rd rs1 : BitVec 5} {s : State} (h : s.memoriesWf) : (execSelget rd rs1 s).wf := by
  unfold execSelget
  refine onUnit_wf h <| exe1_wf h fun _ _ h1 =>
    State.heldSel_keeps.bind fun _ _ =>
    Tri.ensure_keeps.bind fun _ _ =>
    Tri.unless_keeps.bind fun _ _ =>
    (Tri.keeps_ite (State.columnRead_keeps h) (Tri.keeps_val trivial)).bind fun _ _ =>
    Tri.keeps_val ?_
  dsimp only
  split
  · exact State.releaseSel_wf (State.columnDone_wf h1)
  · exact State.columnDone_wf h1

theorem execSelectionEngineGrant_wf {die : Fin 8} {clu : Fin 256} {s : State} (h : s.memoriesWf) :
    (execSelectionEngineGrant die clu s).wf := by
  unfold execSelectionEngineGrant
  grind [Out.wf_next, State.setClu_wf]

/-! ## System events -/

theorem execUnitStart_wf {s : State} (h : s.memoriesWf) : (execUnitStart s).wf := by
  unfold execUnitStart
  grind [Out.wf_next, State.setDev_wf]

theorem execClusterWaveStart_wf {die : Fin 8} {s : State} (h : s.memoriesWf) : (execClusterWaveStart die s).wf := by
  unfold execClusterWaveStart
  dsimp only
  split
  · exact Out.wf_next h
  · exact Out.wf_next (State.setDie_view (State.memoriesWf_mk h) rfl)

theorem State.startSup_wf {s : State} {p : Party} (h : s.memoriesWf) : (s.startSup p).memoriesWf := h

theorem State.installImage_wf {s : State} {d : Nat} {body : List Byte} {version : Nat} (h : s.memoriesWf) :
    (s.installImage d body version).memoriesWf := by
  unfold State.installImage
  grind [State.writeAt_wf, State.setDie_view]

theorem State.reset_wf : State.reset.memoriesWf := fun _ => rfl

theorem execPowerOn_wf {s : State} (h : s.memoriesWf) : (execPowerOn s).wf := by
  have reset : (State.mk State.reset.cur s.agenda State.reset.ctxs State.reset.cores State.reset.clusters State.reset.dies
      State.reset.dev).memoriesWf := State.reset_wf
  unfold execPowerOn
  grind [Out.wf_next, State.startSup_wf, State.installImage_wf, State.setDev_wf]

theorem execPowerDown_wf {s : State} : (execPowerDown s).wf := Out.wf_next State.reset_wf

theorem execAttestationRequest_wf {nonce : BitVec 256} {s : State} (h : s.memoriesWf) :
    (execAttestationRequest nonce s).wf := by
  unfold execAttestationRequest
  grind [Out.wf_next, State.setDev_wf]

theorem execAttestationReportReady_wf {s : State} (h : s.memoriesWf) : (execAttestationReportReady s).wf := by
  unfold execAttestationReportReady
  grind [Out.wf_next, State.setDev_wf]

theorem State.reportHost_wf {s : State} {cause : BitVec 6} {part : BitVec 8} {cls : BitVec 16} {key : BitVec 64}
    (h : s.memoriesWf) :
    (s.reportHost cause part cls key).memoriesWf := State.report_wf h

theorem State.sendHost_wf {s : State} {m : Message} (h : s.memoriesWf) : (s.sendHost m).memoriesWf := by
  unfold State.sendHost
  grind [State.readDesc_wf, State.askUnit_wf, State.setDev_wf, State.findHome_wf, State.reportHost_wf,
    State.unitSend_wf]

theorem execHostMessageWrite_wf {part : BitVec 8} {off : BitVec 12} {bytes : List Byte} {s : State} (h : s.memoriesWf) :
    (execHostMessageWrite part off bytes s).wf := by
  unfold execHostMessageWrite
  grind [Out.wf_next, State.reportHost_wf, State.setDev_wf, State.sendHost_wf]

theorem State.hostRead_wf {s : State} {part : BitVec 8} {q : Nat} (h : s.memoriesWf) :
    (s.hostRead part q).2.memoriesWf := by
  unfold State.hostRead
  grind [State.setDev_wf, State.foldl_wf]

theorem execHostMemoryAccess_wf {part : BitVec 8} {q : BitVec 64} {wr : Option (BitVec 512)} {s : State}
    (h : s.memoriesWf) :
    (execHostMemoryAccess part q wr s).wf := by
  unfold execHostMemoryAccess
  grind [Out.wf_next, State.writeAt_wf, State.reportHost_wf, State.hostRead_wf, State.setDev_wf]

theorem execPowerLimitSet_wf {watts : Nat} {s : State} (h : s.memoriesWf) : (execPowerLimitSet watts s).wf := by
  unfold execPowerLimitSet
  grind [Out.wf_next, State.setDev_wf]

theorem execPowerLimitEngage_wf {s : State} (h : s.memoriesWf) : (execPowerLimitEngage s).wf := by
  unfold execPowerLimitEngage
  grind [Out.wf_next, State.setDev_wf, State.report_wf]

/-! ## Translation -/

theorem State.fillTlb_wf {s : State} {core : Nat} {e : TlbEntry} (h : s.memoriesWf) : (s.fillTlb core e).memoriesWf := h

theorem State.fillUnit_wf {s : State} {key die : Nat} {part : BitVec 8} {page : Nat} (h : s.memoriesWf) :
    (s.fillUnit key die part page).memoriesWf := State.holdPage_wf h

theorem execPageWalk_wf {die : Fin 8} {s : State} (h : s.memoriesWf) : (execPageWalk die s).wf := by
  unfold execPageWalk
  grind [Out.wf_next, State.memoriesWf_mk, State.fillUnit_wf, State.setDie_view, State.fillTlb_wf, State.foldl_wf]

theorem State.invalidateDie_wf {s : State} {x : BitVec 64} {va die : Nat} (h : s.memoriesWf) :
    (s.invalidateDie x va die).memoriesWf := by
  unfold State.invalidateDie
  grind [State.memoriesWf_mk, State.setDev_wf, State.setDie_view, State.foldl_wf]

theorem State.invalidate_wf {s : State} {x : BitVec 64} {va die : Nat} (h : s.memoriesWf) :
    (s.invalidate x va die).memoriesWf := by
  unfold State.invalidate
  grind [State.invalidateDie_wf, State.foldl_wf]

theorem State.renewHomes_wf {s : State} {x : BitVec 64} {va die : Nat} (h : s.memoriesWf) :
    (s.renewHomes x va die).memoriesWf := State.setDev_wf h

theorem execAtinv_wf {rs1 rs2 : BitVec 5} {s : State} (h : s.memoriesWf) : (execAtinv rs1 rs2 s).wf :=
  onSup_wf h <| settleNext_wf h <|
    (State.exePre_keeps h).bind fun _ _ =>
    (State.src_keeps h).bind fun ⟨_, _⟩ h1 =>
    Tri.ensure_keeps.bind fun _ _ =>
    (State.src_keeps h1).bind fun ⟨_, _⟩ h2 =>
    by grind [Tri.Keeps, State.renewHomes_wf, State.invalidate_wf]

theorem execAtprobe_wf {rd rs1 : BitVec 5} {s : State} (h : s.memoriesWf) : (execAtprobe rd rs1 s).wf := by
  unfold execAtprobe
  exact onSup_wf h <| exe1_wf h fun _ _ h1 =>
    by grind [Tri.Keeps]

/-! ## Every instruction -/

theorem exec_wf {s : State} (h : s.memoriesWf) (i : Instr) : Out.wf (exec i s) := by
  cases i
  all_goals dsimp only [exec]
  case lui | auipc => exact exe0_pure_wf h
  case jal => exact execJal_wf h
  case jalr => exact execJalr_wf h
  case beq | bne | blt | bge | bltu | bgeu => exact branchForm_wf h
  case lb | lh | lw | ld | lbu | lhu | lwu => exact loadForm_wf h
  case sb | sh | sw | sd => exact storeForm_wf h
  case addi | slti | sltiu | xori | ori | andi | slli | srli | srai => exact alu1_wf h
  case add | sll | slt | sltu | xor | srl | or | and | sub | sra | mul | mulh | mulhsu | mulhu | div | divu | rem | remu =>
    exact alu2_wf h
  case addiw | slliw | srliw | sraiw => exact alu1_wf h
  case addw | subw | sllw | srlw | sraw | mulw | divw | divuw | remw | remuw => exact alu2_wf h
  case fence => exact fenceForm_wf h
  case ecall => exact execEcall_wf h
  case ebreak => exact execEbreak_wf h
  case csrrw | csrrs | csrrc => exact csrReg_wf h
  case csrrwi | csrrsi | csrrci => exact csrImm_wf h
  case faddS | faddD | fsubS | fsubD | fmulS | fmulD | fdivS | fdivD => exact fp2_wf h
  case fsqrtS | fsqrtD => exact fp1_wf h
  case fsgnjS | fsgnjD | fsgnjnS | fsgnjnD | fsgnjxS | fsgnjxD => exact exe2_pure_wf h
  case fminS | fminD | fmaxS | fmaxD | fleS | fleD | fltS | fltD | feqS | feqD => exact fp2_wf h
  case fclassS | fclassD => exact exe1_pure_wf h
  case fcvtWS | fcvtWuS | fcvtLS | fcvtLuS | fcvtWD | fcvtWuD | fcvtLD | fcvtLuD | fcvtSW | fcvtSWu | fcvtSL | fcvtSLu |
      fcvtDW | fcvtDWu | fcvtDL | fcvtDLu | fcvtSD | fcvtDS => exact fp1_wf h
  case fmaddS | fmaddD | fmsubS | fmsubD | fnmsubS | fnmsubD | fnmaddS | fnmaddD => exact fp3_wf h
  case cbase | clen | cperm | ctag => exact exe1_pure_wf h
  case cbnd => exact execCbnd_wf h
  case cbndx => exact execCbndx_wf h
  case cadd => exact execCadd_wf h
  case cset => exact execCset_wf h
  case candp => exact execCandp_wf h
  case cmv | cclr => exact exe1_pure_wf h
  case csub => exact exe2_pure_wf h
  case cseal | cunseal => exact sealForm_wf h
  case caddi => exact execCaddi_wf h
  case clc => exact loadForm_wf h
  case csc => exact execCsc_wf h
  case lda => exact loadForm_wf h
  case stl => exact storeForm_wf h
  case fenceScoped => exact fenceForm_wf h
  case taglk => exact execTaglk_wf h
  case tagins => exact execTagins_wf h
  case tagdel | tagpin | tagunpin => exact tagForm_wf h
  case cbinit => exact execCbinit_wf h
  case cbput => exact execCbput_wf h
  case cbget => exact execCbget_wf h
  case cbrel => exact execCbrel_wf h
  case cbstat => exact execCbstat_wf h
  case barinit => exact barForm_wf h (fun _ h1 => secondSrc_keeps h1) fun _ _ _ _ h2 => State.post_wf h2
  case bararv => exact barForm_wf h (fun _ h1 => secondSrc_keeps h1) fun _ _ _ _ h2 => State.postOrAwait_wf h2
  case bardrop => exact barForm_wf h (fun _ h1 => Tri.keeps_val h1) fun _ _ _ _ h2 => State.postOrAwait_wf h2
  case barwait => exact barForm_wf h (fun _ h1 => secondSrc_keeps h1) fun _ _ _ _ h2 => State.barTimeout_wf (State.await_wf h2)
  case barrd => exact barForm_wf h (fun _ h1 => Tri.keeps_val h1) fun _ _ _ _ h2 => State.await_wf h2
  case amoAddW | amoAddD | amoAddfW | amoAddfD | amoMinW | amoMinD | amoMaxW | amoMaxD | amoMinuW | amoMinuD |
      amoMaxuW | amoMaxuD | amoSwapW | amoSwapD | amoCasW | amoCasD | amoAndW | amoAndD | amoOrW | amoOrD | amoXorW |
      amoXorD => exact amoForm_wf h
  case mon => exact execMon_wf h
  case monw => exact execMonw_wf h
  case bmov => exact execBmov_wf h
  case bfill => exact execBfill_wf h
  case rep => exact execRep_wf h
  case rgn => exact execRgn_wf h
  case wbind => exact execWbind_wf h
  case wstat => exact execWstat_wf h
  case wdrain => exact execWdrain_wf h
  case wunbind => exact execWunbind_wf h
  case vadd | vsub | vmul => exact settleNext_wf h (vec2_keeps h)
  case vfma | vfms => exact settleNext_wf h (vec3_keeps h)
  case vmax | vmin => exact settleNext_wf h (vec2_keeps h)
  case vabs | vneg => exact settleNext_wf h (vec1_keeps h)
  case vclamp => exact settleNext_wf h (vec2_keeps h)
  case vcvt => exact settleNext_wf h (vecConvert_keeps h)
  case vrcp | vrsq | vexp2 => exact settleNext_wf h (vec1_keeps h)
  case vredSum | vredMax | vredMin => exact settleNext_wf h (vecReduce_keeps h)
  case vcmpEq | vcmpLt | vcmpLe => exact settleNext_wf h (vecCompare_keeps h)
  case vsel => exact settleNext_wf h (vecSelect_keeps h)
  case vand | vor | vxor | vshl | vshr => exact settleNext_wf h (vec2_keeps h)
  case vmov => exact settleNext_wf h (vec1_keeps h)
  case vsplat | vaddi | vmuli | vmaxi => exact settleNext_wf h (vecImm_keeps h)
  case send => exact execSend_wf h
  case sendb => exact execSendb_wf h
  case decr => exact execDecr_wf h
  case carry => exact execCarry_wf h
  case mpop => exact execMpop_wf h
  case mpeek => exact execMpeek_wf h
  case mdrop => exact execMdrop_wf h
  case done => exact State.endForm_wf h inFiring_keeps
  case wait => exact execWait_wf h
  case bank => exact State.endForm_wf h inKeyed_keeps
  case pin => exact execPin_wf h
  case spawn => exact execSpawn_wf h
  case lwait => exact execLwait_wf h
  case shpush => exact execShpush_wf h
  case cpost => exact execCpost_wf h
  case cpostNb => exact execCpostNb_wf h
  case cstat => exact exe1_pure_wf h
  case tcfg => exact execTcfg_wf h
  case mzero => exact execMzero_wf h
  case mload => exact execMload_wf h
  case mma => exact execMma_wf h
  case mmag => exact execMmag_wf h
  case mgang => exact execMgang_wf h
  case mdrain => exact execMdrain_wf h
  case msync => exact execMsync_wf h
  case mchk => exact execMchk_wf h
  case dkl => exact execDkl_wf h
  case selld => exact execSelld_wf h
  case selstep => exact execSelstep_wf h
  case selcut => exact execSelcut_wf h
  case selrun => exact execSelrun_wf h
  case selget => exact execSelget_wf h
  case seqmap => exact execSeqmap_wf h
  case steer => exact execSteer_wf h
  case taprd => exact execTaprd_wf h
  case xret => exact execXret_wf h
  case park => exact execPark_wf h
  case atinv => exact execAtinv_wf h
  case atprobe => exact execAtprobe_wf h
  case hintPoint => exact execHintPoint_wf h
  case preempt => exact execPreempt_wf h
  case resumeCore => exact execResumeCore_wf h
  case retry => exact execRetry_wf h
  case abandon => exact execAbandon_wf h
  case move => exact execMove_wf h
  case unpin => exact execUnpin_wf h
  case clearFaultedMark => exact execClearFaultedMark_wf h
  case setreg => exact execSetreg_wf h
  case sltgoRequest => exact execSltgoRequest_wf h
  case slotTableInstall => exact execSlotTableInstall_wf h
  case stareaWrite | spqWrite | qovfWrite => exact configStep_wf h
  case tapArm | tapDisarm | tapTablePointerWrite => exact tapStep_wf h
  case registerWrite => exact execRegisterWrite_wf h
  case drain => exact execDrain_wf h
  case carryDelivery => exact execCarryDelivery_wf h
  case deliver => exact execDeliver_wf h
  case ownerAmo => exact execOwnerAmo_wf h
  case carriedCodeRun => exact execCarriedCodeRun_wf h
  case barrierInitOp => exact execBarrierInitOp_wf h
  case barrierArriveOp => exact execBarrierArriveOp_wf h
  case barrierWaitOp => exact execBarrierWaitOp_wf h
  case barrierCancel => exact execBarrierCancel_wf h
  case barrierReadOp => exact execBarrierReadOp_wf h
  case replyDelivery => exact execReplyDelivery_wf h
  case barwaitTimeout => exact execBarwaitTimeout_wf h
  case monwTimeout => exact execMonwTimeout_wf h
  case cbputEffect => exact execCbputEffect_wf h
  case streamWindowFill => exact execStreamWindowFill_wf h
  case homeMessageArrival => exact execHomeMessageArrival_wf h
  case kindleHostRetry => exact execKindleHostRetry_wf h
  case kindleStateInPlace => exact execKindleStateInPlace_wf h
  case bankIntent => exact execBankIntent_wf h
  case bankOrder => exact execBankOrder_wf h
  case shipOrder => exact execShipOrder_wf h
  case imageWritten => exact execImageWritten_wf h
  case bankRefused => exact execBankRefused_wf h
  case moveStateInPlace => exact execMoveStateInPlace_wf h
  case addrHomeHandover => exact execAddrHomeHandover_wf h
  case handoverMarker => exact execHandoverMarker_wf h
  case decrementApply => exact execDecrementApply_wf h
  case contextPick => exact execContextPick_wf h
  case firingEnd => exact execFiringEnd_wf h
  case stealServe => exact execStealServe_wf h
  case stealBackoffExpiry => exact execStealBackoffExpiry_wf h
  case quireRefill => exact execQuireRefill_wf h
  case launchExpansionStart => exact execLaunchExpansionStart_wf h
  case launchItem => exact execLaunchItem_wf h
  case launchSweep => exact execLaunchSweep_wf h
  case gangReserve => exact execGangReserve_wf h
  case gangStart => exact execGangStart_wf h
  case gangStartDelivery => exact execGangStartDelivery_wf h
  case gangRelease => exact execGangRelease_wf h
  case probeTokenSend => exact execProbeTokenSend_wf h
  case probeTokenForward => exact execProbeTokenForward_wf h
  case emergencyEntry => exact execEmergencyEntry_wf h
  case spillRedelivery => exact execSpillRedelivery_wf h
  case journalAppend => exact execJournalAppend_wf h
  case requestAccept => exact execRequestAccept_wf h
  case copyRead => exact execCopyRead_wf h
  case copyWrite => exact execCopyWrite_wf h
  case reduceElement => exact execReduceElement_wf h
  case orderedReduceApply => exact execOrderedReduceApply_wf h
  case cbfillSlotPut => exact execCbfillSlotPut_wf h
  case stamp => exact execStamp_wf h
  case wrenqEnqueue => exact execWrenqEnqueue_wf h
  case notify => exact execNotify_wf h
  case matrixOpStart => exact execMatrixOpStart_wf h
  case matrixOpRetire => exact execMatrixOpRetire_wf h
  case gangOpStart => exact execGangOpStart_wf h
  case selectionEngineGrant => exact execSelectionEngineGrant_wf h
  case pageWalk => exact execPageWalk_wf h
  case long => exact execLong_wf h
  case short => exact execShort_wf h
  case rereq => exact execRereq_wf h
  case msg => exact execMsg_wf h
  case sweep => exact execSweep_wf h
  case ack => exact execAck_wf h
  case doneResponse => exact execDoneResponse_wf h
  case rdata => exact execRdata_wf h
  case fwd => exact execFwd_wf h
  case drop => exact execDrop_wf h
  case mack => exact execMack_wf h
  case grant => exact execGrant_wf h
  case revoke => exact execRevoke_wf h
  case resume => exact execResume_wf h
  case setaside => exact execSetaside_wf h
  case clear => exact execClear_wf h
  case data => exact execData_wf h
  case damperGrant => exact execDamperGrant_wf h
  case tokenExpiry => exact execTokenExpiry_wf h
  case rereqTimeout => exact execRereqTimeout_wf h
  case prefixTrackerTimeout => exact execPrefixTrackerTimeout_wf h
  case damperSave => exact execDamperSave_wf h
  case damperRestore => exact execDamperRestore_wf h
  case switchSetAside => exact execSwitchSetAside_wf h
  case switchClear => exact execSwitchClear_wf h
  case switchCombine => exact execSwitchCombine_wf h
  case flitCrcFail => exact execFlitCrcFail_wf h
  case linkFailure => exact execLinkFailure_wf h
  case uncorrectableError => exact execUncorrectableError_wf h
  case correctedErrorThreshold => exact execCorrectedErrorThreshold_wf h
  case heartbeatTimeout => exact execHeartbeatTimeout_wf h
  case dieFailure => exact execDieFailure_wf h
  case hostMessageWrite => exact execHostMessageWrite_wf h
  case hostMemoryAccess => exact execHostMemoryAccess_wf h
  case attestationRequest => exact execAttestationRequest_wf h
  case attestationReportReady => exact execAttestationReportReady_wf h
  case powerOn => exact execPowerOn_wf h
  case clusterWaveStart => exact execClusterWaveStart_wf h
  case powerLimitSet => exact execPowerLimitSet_wf h
  case powerLimitEngage => exact execPowerLimitEngage_wf h
  case illegalInstruction => exact execIllegalInstruction_wf h
  case instructionFetchFault => exact execInstructionFetchFault_wf h
  case combinedDoneSplit => exact execCombinedDoneSplit_wf h
  case portUp => exact execPortUp_wf h
  case unitStart => exact execUnitStart_wf h
  case powerDown => exact execPowerDown_wf

/-! ## The two halves -/

theorem State.setAhead_wf {s : State} {p : Party} {l : List Ahead} (h : s.memoriesWf) : (s.setAhead p l).memoriesWf := h

theorem State.askAhead_wf {s : State} {p : Party} {part : BitVec 8} {va : Nat} (h : s.memoriesWf) :
    (s.askAhead p part va).memoriesWf := State.mod_wf (State.askWalk_wf h)

theorem State.keepFresh_wf {s t : State} (h : s.memoriesWf) : (s.keepFresh t).memoriesWf := h

theorem State.loadAhead_wf {s : State} {p : Party} {x : Scout} {before : List Ahead} {a : Ahead} {rest : List Ahead}
    {i : Instr}
    {rd rs1 : BitVec 5} {acq : Option (BitVec 3)} (h : s.memoriesWf) : (s.loadAhead p x before a rest i rd rs1 acq).memoriesWf := by
  unfold State.loadAhead
  grind [State.askAhead_wf, State.fresh_wf, State.setAhead_wf]

theorem State.storeAhead_wf {s : State} {p : Party} {x : Scout} {before : List Ahead} {a : Ahead} {rest : List Ahead}
    {i : Instr}
    {rs1 rs2 : BitVec 5} (h : s.memoriesWf) : (s.storeAhead p x before a rest i rs1 rs2).memoriesWf := by
  unfold State.storeAhead
  grind [State.askAhead_wf, State.keepFresh_wf, State.mod_wf, State.setAhead_wf]

theorem State.fenceAhead_wf {s : State} {p : Party} {x : Scout} {before : List Ahead} {a : Ahead} {rest : List Ahead}
    {sc : BitVec 3} (h : s.memoriesWf) :
    (s.fenceAhead p x before a rest sc).memoriesWf := by
  unfold State.fenceAhead
  grind [State.setAhead_wf]

theorem State.scout_nil {s : State} {p : Party} {x : Scout} {before : List Ahead} :
    s.scout p x before [] =
      match x.t.fetchWord p (x.t.ctx p).pc with
      | .val w => s.setAhead p (before ++ [{ pc := (x.t.ctx p).pc, word := w }])
      | .walk part va => s.askAhead p part va
      | _ => s := rfl

theorem State.scout_cons {s : State} {p : Party} {x : Scout} {before : List Ahead} {a : Ahead} {rest : List Ahead} :
    s.scout p x before (a :: rest) =
      match decode a.word with
      | none => s
      | some i =>
        let on : State :=
          match x.past p a i with
          | some y => s.scout p y (before ++ [a]) rest
          | none => s
        match accessForm i, a.mark with
        | some _, .loaded _ => on
        | some _, .passed => on
        | some _, .stored _ es =>
          if x.sure then
            (s.mod p fun c => es.foldl Ctx.store c).setAhead p (before ++ { a with mark := .passed } :: rest)
          else on
        | some (.load rd rs1 acq), _ => s.loadAhead p x before a rest i rd rs1 acq
        | some (.store rs1 rs2), _ => s.storeAhead p x before a rest i rs1 rs2
        | some (.fence sc), _ => s.fenceAhead p x before a rest sc
        | none, _ => on := rfl

theorem State.scout_wf {s : State} {p : Party} {x : Scout} {before : List Ahead} {l : List Ahead} (h : s.memoriesWf) :
    (s.scout p x before l).memoriesWf := by
  induction l generalizing x before with
  | nil =>
    rw [State.scout_nil]
    split
    · exact State.setAhead_wf h
    · exact State.askAhead_wf h
    · exact h
  | cons a rest ih =>
    rw [State.scout_cons]
    cases decode a.word with
    | none => exact h
    | some i =>
      have on : (match x.past p a i with
          | some y => s.scout p y (before ++ [a]) rest
          | none => s).memoriesWf := by
        split
        · exact ih
        · exact h
      dsimp only
      generalize accessForm i = form, a.mark = mark
      cases form with
      | none => exact on
      | some f =>
        have asked : (match f with
            | .load rd rs1 acq => s.loadAhead p x before a rest i rd rs1 acq
            | .store rs1 rs2 => s.storeAhead p x before a rest i rs1 rs2
            | .fence sc => s.fenceAhead p x before a rest sc).memoriesWf := by
          cases f with
          | load => exact State.loadAhead_wf h
          | store => exact State.storeAhead_wf h
          | fence => exact State.fenceAhead_wf h
        cases mark with
        | loaded | passed => exact on
        | stored => exact State.wf_ite (State.setAhead_wf (State.mod_wf h)) on
        | none | part => cases f <;> exact asked

theorem State.runAhead_wf {s0 : State} {p : Party} (h : s0.memoriesWf) : (s0.runAhead p).memoriesWf := by
  unfold State.runAhead
  grind [State.memoriesWf_mk, State.mod_wf, State.scout_wf]

theorem State.accessTurn_wf {s : State} {p : Party} (h : s.memoriesWf) : (s.accessTurn p).memoriesWf := by
  unfold State.accessTurn
  grind [State.runAhead_wf, State.accStep_wf]

theorem State.passHead_wf {s : State} {p : Party} (h : s.memoriesWf) : (s.passHead p).memoriesWf := h

theorem State.passAhead_wf {s : State} {p : Party} {i : Instr} (h : s.memoriesWf) :
    ∀ t, s.passAhead p i = some t → t.memoriesWf := by
  unfold State.passAhead
  grind [State.mod_wf, State.acquired_wf, State.passHead_wf, State.handStores_wf]

theorem execHalves_wf {s : State} {p : Party} {i : Instr} (h : s.memoriesWf) : (execHalves s p i).wf := by
  have go {t : State} (ht : t.memoriesWf) : (if (t.ctx p).held then t.runAhead p else t).memoriesWf :=
    State.wf_ite (State.runAhead_wf ht) ht
  unfold execHalves
  dsimp only
  split
  next t passed => exact Out.wf_next (go (State.passAhead_wf h t passed))
  · split
    next t done => exact Out.wf_next (go (exec_wf h i t done))
    · exact exec_wf h i

theorem State.wordAt_keeps {s : State} {p : Party} : (s.wordAt p).Keeps fun _ => True := by
  unfold State.wordAt
  grind [Tri.Keeps, State.fetchWord_keeps]

theorem fetchExec_wf {s0 : State} {p : Party} (h : s0.memoriesWf) : (fetchExec s0 p).wf := by
  have aligned : (if (s0.ctx p).ahead.isEmpty then s0 else s0.mod p Ctx.alignAhead).memoriesWf :=
    State.wf_ite h (State.mod_wf h)
  unfold fetchExec
  dsimp only
  split
  · split
    · exact execHalves_wf aligned
    · exact exec_wf aligned _
  · exact exec_wf aligned _
  next s1 stalled => exact Out.wf_next (State.wordAt_keeps.2 s1 stalled)
  · exact Out.wf_next (State.askWalk_wf aligned)

/-! ## The step -/

theorem runTurn_wf {s : State} {p : Party} (h : s.memoriesWf) : (runTurn s p).wf := by
  unfold runTurn
  dsimp only
  have turn : (State.mk p s.agenda s.ctxs s.cores s.clusters s.dies s.dev).memoriesWf := State.memoriesWf_mk h
  have acc : ((State.tick ⟨p, s.agenda, s.ctxs, s.cores, s.clusters, s.dies, s.dev⟩ p.coreIx 1).accStep p).memoriesWf :=
    State.accStep_wf (State.tick_wf turn)
  split
  · split
    · exact fetchExec_wf acc
    · split
      · exact fetchExec_wf acc
      · exact exec_wf acc _
      · exact Out.wf_next acc
  · split
    · exact exec_wf turn _
    · exact exec_wf turn _
    · exact Out.wf_next turn
  · split
    · exact exec_wf (State.accStep_wf turn) _
    · exact Out.wf_next turn
  · exact Out.wf_next turn
  · exact Out.wf_next turn

theorem step_wf {s : State} (h : s.memoriesWf) : Out.wf (step s) := by
  unfold step
  split
  · split
    · exact exec_wf (State.memoriesWf_mk h) _
    · intro t stopped
      cases stopped
  · split
    · exact runTurn_wf h
    · exact runTurn_wf (State.memoriesWf_mk h)
    · exact Out.wf_next (State.accessTurn_wf (State.memoriesWf_mk h))
    · exact exec_wf (State.memoriesWf_mk h) _
    · exact Out.wf_next (State.passTime_wf (State.memoriesWf_mk h))

/-- Settles O60, by the branches of the step: each comes to `exec_wf`, which goes over the instructions, or to a lemma of the
agenda's turn. -/
theorem everyStepKeepsMemoriesCanonical : Obligations.EveryStepKeepsMemoriesCanonical :=
  fun _ t h stepped => step_wf h t stepped

end Sys2Proof.Machine
end

section
/-! PROOFS. Operations at their owner, and the atomics there. -/

namespace Sys2Proof.Machine

/-! ## An operation taken by its owner -/

/-- Poison marks stand in the die views alone. -/
theorem State.poisonedFrom_congr {s t : State} (h : t.dies = s.dies) (d a : Nat) (qs : List Nat) :
    t.poisonedFrom d a qs = s.poisonedFrom d a qs := by
  induction qs generalizing a with
  | nil => rfl
  | cons q qs ih =>
    have same : t.cell d (poisonPlace q) = s.cell d (poisonPlace q) := by
      unfold State.cell State.die
      rw [h]
    simp only [State.poisonedFrom, same, ih]

/-- The oldest operation of a core, where it may be taken, is what an Owner step of its kind takes. -/
theorem ownerStep_took {s : State} {c : CoreId} {o : Op} {isKind : OpKind → Bool} {f : Op → State → State} (h : s.offers c o)
    (kind : isKind o.kind = true) (item : o.kind ≠ .barcancel) : ownerStep s c isKind f = .next (f o (s.took c o)) := by
  obtain ⟨head, last, clean⟩ := h
  have clean' : (s.took c o).poisonedFrom c.die.val o.va (span o.addr o.size) = none :=
    (State.poisonedFrom_congr (s := s) (t := s.took c o) rfl _ _ _).trans clean
  unfold State.took at clean' ⊢
  simp [ownerStep, head, kind, last, item, clean']

/-- The cancel of a wait is taken too, and counts for nothing (R192). -/
theorem ownerStep_cancel {s : State} {c : CoreId} {o : Op} {f : Op → State → State} (h : s.offers c o)
    (kind : o.kind = .barcancel) : ownerStep s c (fun k => k == .barcancel) f = .next (f o (s.popOp c.ix)) := by
  obtain ⟨head, last, clean⟩ := h
  have clean' : (s.popOp c.ix).poisonedFrom c.die.val o.va (span o.addr o.size) = none :=
    (State.poisonedFrom_congr (s := s) (t := s.popOp c.ix) rfl _ _ _).trans clean
  simp [ownerStep, head, kind, last, clean']

/-! ## Atomics at their owner -/

section
variable {s : State} {c : CoreId} {o : Op} {k : BitVec 4}

/-- An atomic at its owner writes its new value, and replies with the old one. -/
theorem ownerAmo_writes (h : s.offers c o) (kind : o.kind = .amo k) {x : Nat}
    (new : amoNew k o.size ((s.took c o).peek c.die.val o.addr o.size) o.v.toNat o.e.toNat = some x) :
    exec (.ownerAmo c) s = .next (((s.took c o).ownerWrite c.die.val o.addr x o.size).replyTo o
      (BitVec.ofNat 64 ((s.took c o).peek c.die.val o.addr o.size)) none) := by
  rw [exec_ownerAmo]
  unfold execOwnerAmo
  rw [ownerStep_took h (by rw [kind]) (by rw [kind]; nofun)]
  simp only [kind, new]

/-- An atomic without a new value replies with the old one alone. -/
theorem ownerAmo_keeps (h : s.offers c o) (kind : o.kind = .amo k)
    (new : amoNew k o.size ((s.took c o).peek c.die.val o.addr o.size) o.v.toNat o.e.toNat = none) :
    exec (.ownerAmo c) s = .next ((s.took c o).replyTo o
      (BitVec.ofNat 64 ((s.took c o).peek c.die.val o.addr o.size)) none) := by
  rw [exec_ownerAmo]
  unfold execOwnerAmo
  rw [ownerStep_took h (by rw [kind]) (by rw [kind]; nofun)]
  simp only [kind, new]

end

/-- Settles O18: each operation's new value is read off `amoNew`. -/
theorem atomicResults : Obligations.AtomicResults := by
  intro s c o k h kind _ n t old v sg f writes
  have writes {x : Nat} (new : amoNew k n old v o.e.toNat = some x) : writes x := ownerAmo_writes h kind new
  refine ⟨?_, ?_, ?_, ?_, ?_, ?_, ?_, ?_, ?_, ?_, ?_, ?_⟩
  case refine_8 =>
    rintro rfl eq
    exact writes (if_pos eq)
  case refine_9 =>
    rintro rfl ne
    exact ownerAmo_keeps h kind (if_neg ne)
  all_goals
    rintro rfl
    exact writes rfl

end Sys2Proof.Machine
end

section
/-! PROOFS. Operations sent, their replies, and the bounds of waits. -/

namespace Sys2Proof.Machine

/-! ## An operation sent -/

section
variable (s : State) (p : Party) (o : Op)

@[simp] theorem State.sendOp_number : (s.sendOp p o).1 = s.dev.opSeq + 1 := rfl

/-- What sending an operation changes: the device's operations, and the count of sent items of the issuer's core. -/
theorem State.sendOp_fields :
    (s.sendOp p o).2.dev = { s.dev with opSeq := s.dev.opSeq + 1, ops := s.dev.ops ++ [o.issuedBy p (s.ctx p) (s.dev.opSeq + 1)] } ∧
      (s.sendOp p o).2.clusters = s.clusters ∧ (s.sendOp p o).2.dies = s.dies ∧
      (s.sendOp p o).2.core p.coreIx = { s.core p.coreIx with sent := ((s.sendOp p o).2.core p.coreIx).sent } ∧
      (s.sendOp p o).2.ctxs = s.ctxs ∧ ∀ k, k ≠ p.coreIx → (s.sendOp p o).2.core k = s.core k := by
  unfold State.sendOp
  dsimp only
  split
  · exact ⟨rfl, rfl, rfl, rfl, rfl, fun _ _ => rfl⟩
  · refine ⟨rfl, rfl, rfl, ?_, rfl, fun k hk => State.core_setCore_other _ _ hk⟩
    simp [State.sentUp]

@[simp] theorem State.sendOp_ctx (q : Party) : (s.sendOp p o).2.ctx q = s.ctx q := by
  unfold State.ctx
  rw [(s.sendOp_fields p o).2.2.2.2.1]

@[simp] theorem State.sendOp_cyc : ((s.sendOp p o).2.core p.coreIx).cyc = (s.core p.coreIx).cyc := by
  rw [(s.sendOp_fields p o).2.2.2.1]

theorem State.sendOp_ops : (s.sendOp p o).2.dev.ops = s.dev.ops ++ [o.issuedBy p (s.ctx p) (s.dev.opSeq + 1)] := by
  rw [(s.sendOp_fields p o).1]

theorem State.sendOp_sent (h : o.kind ≠ .barcancel) :
    ((s.sendOp p o).2.core p.coreIx).sent = countUp (s.core p.coreIx).sent (s.ctx p).partid (s.ctx p).ltag := by
  unfold State.sendOp
  simp [h, State.sentUp, Op.issuedBy]

/-- An operation sent and its issuer's record changed: nothing else differs. -/
theorem State.sendOp_mod (f : Ctx → Ctx) :
    let t := (s.sendOp p o).2.mod p f
    t.dev = { s.dev with opSeq := s.dev.opSeq + 1, ops := s.dev.ops ++ [o.issuedBy p (s.ctx p) (s.dev.opSeq + 1)] } ∧
      t.clusters = s.clusters ∧ t.dies = s.dies ∧
      t.core p.coreIx = { s.core p.coreIx with sent := (t.core p.coreIx).sent } ∧ (∀ q : Party, q ≠ p → t.ctx q = s.ctx q) ∧
      ∀ k : Nat, k ≠ p.coreIx → t.core k = s.core k := by
  obtain ⟨dev, clusters, dies, core, _, others⟩ := s.sendOp_fields p o
  exact ⟨dev, clusters, dies, core, fun q hq => (State.mod_ctx_other _ _ hq).trans (s.sendOp_ctx p o q), others⟩

theorem State.await_ctx (w : Waiting) :
    (s.await p o w).ctx p = { s.ctx p with waiting := some { w with
      id := s.dev.opSeq + 1, pc := (s.ctx p).pc, start := (s.core p.coreIx).cyc, place := o.addr, owner := o.owner } } := by
  simp [State.await]

end

/-! ## The end of a wait -/

section
variable {s : State} {p : Party} {w : Waiting} {v : Reg}

theorem Ctx.reg_result_same {c : Ctx} {rd : BitVec 5} {v : Reg} (h0 : rd ≠ 0#5) (h29 : rd ≠ 29#5) : (c.result rd v).reg rd = v := by
  rw [Ctx.result, if_neg h29, Ctx.reg_setReg_same c v h0]

theorem WaitForm.syncs_eq (f : WaitForm) (c : Ctx) :
    (if f.syncs then c.sync else c) = if f = .lwait ∨ f = .bar then c else c.sync := by
  cases f <;> simp [WaitForm.syncs]

theorem replyReg_eq (w : Waiting) (v : BitVec 64) :
    replyReg w v = if w.form = .amoW then dataReg ((v.setWidth 32).signExtend 64) else dataReg v := by
  unfold replyReg
  split
  next h => rw [if_pos h, sext32, low32]
  next h => rw [if_neg h]

theorem State.finishWait_ctx : (s.finishWait p w v).ctx p =
    Ctx.result { (if w.form.syncs then (s.ctx p).sync else s.ctx p) with waiting := none, pc := w.pc + 4 } w.rd v := by
  simp [State.finishWait, State.dest]

theorem State.finishWait_waiting : ((s.finishWait p w v).ctx p).waiting = none := by simp [State.finishWait_ctx]

theorem State.finishWait_pc : ((s.finishWait p w v).ctx p).pc = w.pc + 4 := by simp [State.finishWait_ctx]

theorem State.finishWait_reg (h0 : w.rd ≠ 0#5) (h29 : w.rd ≠ 29#5) : ((s.finishWait p w v).ctx p).reg w.rd = v := by
  rw [State.finishWait_ctx, Ctx.reg_result_same h0 h29]

/-- A `barwait` past its bound sends a cancel behind its wait and ends with 1 and its phase (R192). -/
theorem State.barTimeout_past {ph : BitVec 4} (waits : (s.ctx p).waiting = some w) (form : w.form = .barwait ph)
    (past : w.start + w.bound ≤ (s.core p.coreIx).cyc) :
    s.barTimeout p = (s.sendOp p
      { kind := .barcancel, addr := w.place, va := w.place, owner := w.owner, size := 16, v := BitVec.ofNat 64 w.id,
        rel := (s.ctx p).releaseAt p.ix 2 }).2.finishWait p w (dataReg (1 + 16 * ph.setWidth 64)) := by
  simp [State.barTimeout, waits, form, past]

end

/-- Settles O17, by what sending an operation changes and the cases of a reply. -/
theorem operationsAndReplies : Obligations.OperationsAndReplies := by
  refine ⟨fun s p o w => ?sending, fun s p r rest w => ?ending⟩
  case sending =>
    refine ⟨s.sendOp_mod p o _, ?_, fun item => s.sendOp_sent p o item, s.sendOp_mod p { o with reply := true } _,
      s.await_ctx p o w⟩
    simp [State.post]
  case ending =>
    intro t result
    refine ⟨fun reply => ⟨fun waits number fine => ?value, fun waits number fault held => ?held,
      fun waits number done cause tval fault => ?cause, fun other => ?discarded⟩,
      fun waits past => ⟨fun form quiet => ?monw, fun ph form => ?barwait⟩⟩
    case value =>
      simp [exec_replyDelivery, execReplyDelivery, reply, waits, number, fine, State.finishWait, WaitForm.syncs_eq, replyReg_eq,
        t, result]
    case held =>
      obtain ⟨⟨cause, tval⟩, fault⟩ := Option.isSome_iff_exists.mp fault
      simp [exec_replyDelivery, execReplyDelivery, reply, waits, number, fault, held]
    case cause => simp [exec_replyDelivery, execReplyDelivery, reply, waits, number, fault, done, t]
    case discarded =>
      rcases other with none | ⟨w, waits, number⟩
      · simp [exec_replyDelivery, execReplyDelivery, reply, none, t]
      · simp [exec_replyDelivery, execReplyDelivery, reply, waits, number, t]
    case monw => simp [exec_monwTimeout, execMonwTimeout, waits, form, quiet, past]
    case barwait =>
      refine ⟨_, (exec_barwaitTimeout s p).trans rfl, ?_⟩
      rw [State.barTimeout_past waits form past]
      exact ⟨State.finishWait_waiting, State.finishWait_pc, State.finishWait_reg, _, State.sendOp_ops _ _ _, rfl, rfl, rfl⟩

end Sys2Proof.Machine
end

section
/-! PROOFS. The monitor. -/

namespace Sys2Proof.Machine

/-! ## Monitors -/

theorem CoreId.ix_lt (c : CoreId) : c.ix < 16384 := by
  obtain ⟨⟨d, hd⟩, ⟨k, hk⟩, ⟨n, hn⟩⟩ := c
  simp only [CoreId.ix, CoreId.cluIx]
  omega

theorem CoreId.die_ix (c : CoreId) : dieOfCore c.ix = c.die.val := by
  have h := CoreId.ix_lt c
  rw [dieOfCore, if_pos (by omega)]
  obtain ⟨⟨d, hd⟩, ⟨k, hk⟩, ⟨n, hn⟩⟩ := c
  simp only [CoreId.ix, CoreId.cluIx]
  omega

theorem coreOfParty_slot (c : CoreId) {k : Nat} (hk : k < 5) : coreOfParty (c.ix * 5 + k) = c.ix := by
  have h := CoreId.ix_lt c
  rw [coreOfParty, if_pos (by omega)]
  omega

/-- A party's key names its die. -/
theorem Party.die_ix (p : Party) : dieOfParty p.ix = p.die.val := by
  cases p with
  | ctx c k => rw [Party.ix, dieOfParty, coreOfParty_slot c (by omega), CoreId.die_ix c, Party.die]
  | handler c => rw [Party.ix, dieOfParty, coreOfParty_slot c (by omega), CoreId.die_ix c, Party.die]
  | sup d n =>
    rw [Party.ix, dieOfParty, coreOfParty, if_neg (by omega), dieOfCore, if_neg (by omega), Party.die]
    omega

section
variable {s s1 : State} {rd rs1 : BitVec 5} {c : Reg}

/-- A `mon` that passes its checks arms the monitor. -/
theorem execMon_ok {q : Nat} {qs : List Nat} (h : s.exeReady 0#5 [rs1]) (hc : s.gives rs1 c s1)
    (hl : s1.reaches s.cur c (capAddr c).toNat 8 permLoad .r (q :: qs)) (ha : (capAddr c).toNat % 8 = 0) :
    execMon rs1 s = .next ((s1.mod s.cur fun x => { x with mon := { armed := some q, event := false } }).advance s.cur) := by
  have hc' : s.src s.cur rs1 = .val (c, s1) := hc
  simp [execMon, State.exePre_ready h, hc', hl.1, State.reach_at hl.2, ha]

/-- The first turn of a `monw`: its ends without a wait, and the wait. -/
theorem execMonw_first (h : s.exeReady rd [rs1]) (hc : s.gives rs1 c s1) (idle : (s.ctx s.cur).waiting = none) :
    execMonw rd rs1 s = .next (
      if (s.ctx s.cur).mon.armed = none then s1.endMonw s.cur rd 2
      else if (s.ctx s.cur).mon.event then s1.endMonw s.cur rd 0
      else if capAddr c = 0 then s1.endMonw s.cur rd 1
      else s1.mod s.cur fun x => { x with waiting := some {
        form := .monw, rd := rd, start := (s.core s.cur.coreIx).cyc, bound := (capAddr c).toNat,
        popped := (s.ctx s.cur).poppedBy [rs1] } }) := by
  have hc' : s.src s.cur rs1 = .val (c, s1) := hc
  have zero : (capAddr c).toNat = 0 ↔ capAddr c = 0 := by simp [← BitVec.toNat_inj]
  simp only [execMonw, State.exePre_ready h, Tri.bind_val, idle, hc', Option.isNone_iff_eq_none, zero]
  split
  · rfl
  · split
    · rfl
    · split <;> rfl

/-- A waiting `monw` ends with 0 once its monitor has its event. -/
theorem execMonw_event (h : s.exeReady rd [rs1]) (waits : (s.ctx s.cur).waiting ≠ none) (event : (s.ctx s.cur).mon.event = true) :
    execMonw rd rs1 s = .next (s.endMonw s.cur rd 0) := by
  obtain ⟨w, hw⟩ := Option.ne_none_iff_exists'.mp waits
  simp [execMonw, State.exePre_ready h, hw, event]

theorem Ctx.result_mon {c : Ctx} {v : Reg} : (c.result rd v).mon = c.mon := by
  unfold Ctx.result
  split
  · rfl
  · rw [Ctx.setReg_eq]

/-- The party's record after a `monw` has ended. -/
theorem State.endMonw_ctx (s : State) (p : Party) (rd : BitVec 5) (r : BitVec 64) : (s.endMonw p rd r).ctx p =
    Ctx.result { (s.ctx p).sync with
      waiting := none, mon := if r = 0 then {} else (s.ctx p).mon, pc := (s.ctx p).pc + 4 } rd (dataReg r) := by
  simp only [State.endMonw, State.dest, State.mod_ctx]

/-- `park` of a supervisor core is held by an armed monitor without an event. -/
theorem execPark_sup (h : s.exeReady 0#5 []) (sup : s.cur.isSup = true) :
    execPark s = .next (if (s.ctx s.cur).mon.armed.isSome && !(s.ctx s.cur).mon.event then s else s.advance s.cur) := by
  have ready : s.exePre s.cur wordPark 0 [] = .val () := State.exePre_ready h _
  simp only [execPark, ready, Tri.bind_val, sup, Tri.ensure_true]
  split <;> rfl

/-- A monitor armed on a dword sees an installation of one of its bytes (R182). -/
theorem Monitor.see_event {m : Monitor} {a : Nat} {qs : List Nat} (armed : m.armed = some (a / 8 * 8)) (h : a ∈ qs) :
    (m.see qs).event = true := by
  have here : (qs.any fun q => a / 8 * 8 ≤ q && q < a / 8 * 8 + 8) = true := by
    simp only [List.any_eq_true, Bool.and_eq_true, decide_eq_true_eq]
    exact ⟨a, h, by omega⟩
  simp [Monitor.see, armed, here]

end

/-- Settles O19: the branches of the three forms, and what an installation does to the records of the die's parties. -/
theorem monitorForms : Obligations.MonitorForms := by
  intro s s1 rd rs1 c q qs
  refine ⟨fun h hc hl ha => ?mon,
    fun h hc idle => ⟨fun off => ?off, fun armed event => ?event, fun armed quiet => ⟨fun zero => ?zero, fun bound => ?wait⟩⟩,
    fun h waits event => ?waiting, fun r => ?ended, fun h sup => ⟨fun free => ?passes, fun armed quiet => ?holds⟩,
    fun d o cells a b p die mem new armed => ?install⟩
  case mon => exact (exec_mon ..).trans (execMon_ok h hc hl ha)
  case off => simp [exec_monw, execMonw_first h hc idle, off]
  case event => simp [exec_monw, execMonw_first h hc idle, armed, event]
  case zero => simp [exec_monw, execMonw_first h hc idle, armed, quiet, zero]
  case wait => rw [exec_monw, execMonw_first h hc idle, if_neg armed, quiet, if_neg Bool.false_ne_true, if_neg bound]
  case waiting => exact (exec_monw ..).trans (execMonw_event h waits event)
  case ended =>
    rw [State.endMonw_ctx]
    exact ⟨by simp, by simp, Ctx.result_mon, Ctx.reg_result_same⟩
  case passes =>
    rcases free with off | event
    · simp [exec_park, execPark_sup h sup, off]
    · simp [exec_park, execPark_sup h sup, event]
  case holds => simp [exec_park, execPark_sup h sup, quiet, Option.isSome_iff_ne_none, armed]
  case install =>
    rw [State.install_ctx, Ctx.sees, if_pos ((Party.die_ix p).trans die)]
    refine Monitor.see_event armed (List.mem_map.mpr ⟨(a, b), ?_, rfl⟩)
    simp [mem, new]

end Sys2Proof.Machine
end

section
/-! PROOFS. Barriers. -/

namespace Sys2Proof.Machine

/-! ## Barrier forms at their issue -/

section
variable {w : BitVec 32} {rd rs1 rs2 : BitVec 5} {srcs : List (BitVec 5)} {s s1 s2 : State} {c v : Reg} {n q : Nat}
  {qs : List Nat} {operand : State → Tri (Nat × State)} {count : Bool} {k : Nat → Nat → Nat → State → State}

theorem secondSrc_val {p : Party} (hv : s1.src p rs2 = .val (v, s2)) : secondSrc p rs2 s1 = .val ((capAddr v).toNat, s2) := by
  simp [secondSrc, hv]

/-- A barrier form whose object may be read and written: what is left are the checks of the object's place and of the count. -/
theorem barForm_reached (ready : s.exeReady rd (rs1 :: srcs)) (hc : s.gives rs1 c s1) (ho : operand s1 = .val (n, s2))
    (hl : s2.reaches s.cur c (capAddr c).toNat 16 (permLoad ||| permStore) .rw (q :: qs)) :
    barForm w rd rs1 srcs s operand count k = settle s (
      (Tri.ensure ((capAddr c).toNat % 16 == 0 && isSp q) 0x16 (BitVec.ofNat 64 (capAddr c).toNat)).bind fun _ =>
      (Tri.ensure (!count || (1 ≤ n && n ≤ 65535)) 0x16 (BitVec.ofNat 64 n)).bind fun _ => .val (k (capAddr c).toNat q n s2)) := by
  have hc' : s.src s.cur rs1 = .val (c, s1) := hc
  simp only [barForm, State.exePre_ready ready, Tri.bind_val, hc', ho, hl.1, Tri.unless_none, State.reach_at hl.2,
    List.headD_cons]

theorem barForm_ok (ready : s.exeReady rd (rs1 :: srcs)) (hc : s.gives rs1 c s1) (ho : operand s1 = .val (n, s2))
    (hl : s2.reaches s.cur c (capAddr c).toNat 16 (permLoad ||| permStore) .rw (q :: qs)) (aligned : (capAddr c).toNat % 16 = 0)
    (place : isSp q = true) (counted : count = true → 1 ≤ n ∧ n ≤ 65535) :
    barForm w rd rs1 srcs s operand count k = .next (k (capAddr c).toNat q n s2) := by
  have small : (!count || (decide (1 ≤ n) && decide (n ≤ 65535))) = true := by
    cases count with
    | false => rfl
    | true => simpa using counted rfl
  rw [barForm_reached ready hc ho hl, small]
  simp [aligned, place]

/-- An object elsewhere, or not aligned (R189). -/
theorem barForm_place (ready : s.exeReady rd (rs1 :: srcs)) (hc : s.gives rs1 c s1) (ho : operand s1 = .val (n, s2))
    (hl : s2.reaches s.cur c (capAddr c).toNat 16 (permLoad ||| permStore) .rw (q :: qs))
    (bad : (capAddr c).toNat % 16 ≠ 0 ∨ isSp q = false) :
    barForm w rd rs1 srcs s operand count k = .next (takeTrap s s.cur 0x16 (BitVec.ofNat 64 (capAddr c).toNat)) := by
  have fails : ((capAddr c).toNat % 16 == 0 && isSp q) = false := by
    rcases bad with h | h
    · simp [h]
    · simp [h]
  rw [barForm_reached ready hc ho hl, fails]
  rfl

/-- A count out of range (R190, R191). -/
theorem barForm_count (ready : s.exeReady rd (rs1 :: srcs)) (hc : s.gives rs1 c s1) (ho : operand s1 = .val (n, s2))
    (hl : s2.reaches s.cur c (capAddr c).toNat 16 (permLoad ||| permStore) .rw (q :: qs)) (aligned : (capAddr c).toNat % 16 = 0)
    (place : isSp q = true) (bad : n = 0 ∨ 65535 < n) :
    barForm w rd rs1 srcs s operand true k = .next (takeTrap s s.cur 0x16 (BitVec.ofNat 64 n)) := by
  have fails : (!true || (decide (1 ≤ n) && decide (n ≤ 65535))) = false := by
    rcases bad with h | h
    · simp [h]
    · simp [Nat.not_le.mpr h]
  rw [barForm_reached ready hc ho hl, fails]
  simp [aligned, place]

end

theorem State.await_ops (s : State) (p : Party) (o : Op) (w : Waiting) : (s.await p o w).dev.ops =
    s.dev.ops ++ [Op.issuedBy { o with reply := true } p (s.ctx p) (s.dev.opSeq + 1)] := by
  rw [State.await]
  exact State.sendOp_ops s p _

theorem State.await_cyc (s : State) (p : Party) (o : Op) (w : Waiting) :
    ((s.await p o w).core p.coreIx).cyc = (s.core p.coreIx).cyc := State.sendOp_cyc s p _

/-- What the end of a `barwait` past its bound leaves (R192). -/
theorem State.barTimeout_ends {t : State} {p : Party} {w : Waiting} {ph : BitVec 4} (waits : (t.ctx p).waiting = some w)
    (form : w.form = .barwait ph) (past : w.start + w.bound ≤ (t.core p.coreIx).cyc) :
    ((t.barTimeout p).ctx p).waiting = none ∧ ((t.barTimeout p).ctx p).pc = w.pc + 4 ∧
      (w.rd ≠ 0#5 → w.rd ≠ 29#5 → ((t.barTimeout p).ctx p).reg w.rd = dataReg (1 + 16 * ph.setWidth 64)) ∧
      ∃ x : Op, (t.barTimeout p).dev.ops = t.dev.ops ++ [x] ∧ x.kind = .barcancel ∧ x.owner = w.owner ∧ x.addr = w.place ∧
        x.v = BitVec.ofNat 64 w.id := by
  rw [State.barTimeout_past waits form past]
  exact ⟨State.finishWait_waiting, State.finishWait_pc, State.finishWait_reg, _, State.sendOp_ops _ _ _, rfl, rfl, rfl, rfl⟩

/-- A `barwait` whose bound has not passed waits on. -/
theorem State.barTimeout_before {t : State} {p : Party} {w : Waiting} (waits : (t.ctx p).waiting = some w)
    (before : (t.core p.coreIx).cyc < w.start + w.bound) : t.barTimeout p = t := by
  unfold State.barTimeout
  rw [waits]
  dsimp only
  split
  · rw [if_neg (Nat.not_le.mpr before)]
  · rfl

/-- A `barwait` with a bound of 0 ends at once, with a cancel behind its wait (R192). -/
theorem State.await_past {s : State} {p : Party} {o : Op} {w : Waiting} {ph : BitVec 4} (form : w.form = .barwait ph)
    (bound : w.bound = 0) :
    let u := (s.await p o w).barTimeout p
    (u.ctx p).waiting = none ∧ (u.ctx p).pc = (s.ctx p).pc + 4 ∧
      (w.rd ≠ 0#5 → w.rd ≠ 29#5 → (u.ctx p).reg w.rd = dataReg (1 + 16 * ph.setWidth 64)) ∧
      ∃ x : Op, u.dev.ops = s.dev.ops ++ [Op.issuedBy { o with reply := true } p (s.ctx p) (s.dev.opSeq + 1), x] ∧
        x.kind = .barcancel ∧ x.owner = o.owner ∧ x.addr = o.addr ∧ x.v = BitVec.ofNat 64 (s.dev.opSeq + 1) := by
  have waits := congrArg Ctx.waiting (s.await_ctx p o w)
  obtain ⟨idle, pc, reg, x, ops, kind, owner, place, number⟩ :=
    State.barTimeout_ends waits form (by simp [State.await_cyc, bound])
  refine ⟨idle, pc, reg, x, ?_, kind, owner, place, number⟩
  rw [ops, State.await_ops, List.append_assoc, List.singleton_append]

/-! ## Barriers at their owner -/

section
variable {s : State} {c : CoreId} {o : Op}

/-- An arrival that lowers the remaining count to another than 0 (R191). -/
theorem BarObj.arrive_more {b : BarObj} {n drops : BitVec 16} {drop : Bool} (h : n.toNat < b.remain.toNat)
    (hd : (if drop then b.drops + 1 else b.drops) = drops) :
    b.arrive n drop = ({ b with remain := b.remain - n, drops := drops }, false) := by
  have left : b.remain - n ≠ 0 := by bv_omega
  rw [BarObj.arrive, if_neg left, hd]

/-- The last arrival of a phase (R191). -/
theorem BarObj.arrive_last {b : BarObj} {n drops : BitVec 16} {drop : Bool} (h : n.toNat = b.remain.toNat)
    (hd : (if drop then b.drops + 1 else b.drops) = drops) :
    b.arrive n drop =
      ({ b with expect := b.expect - drops, remain := b.expect - drops, drops := 0, phase := b.phase + 1, waitcnt := 0 }, true) := by
  have none : b.remain - n = 0 := by bv_omega
  rw [BarObj.arrive, if_pos none, hd]

/-- An arrival is taken by its owner. -/
theorem barrierArrive_took (h : s.offers c o) (kind : o.kind = .bararv ∨ o.kind = .bardrop) :
    exec (.barrierArriveOp c) s =
      let t := s.took c o
      let b := t.barObj c.die.val o.addr
      let r := b.arrive (o.v.setWidth 16) (o.kind == .bardrop)
      .next (
        if b.invalid then t.replyTo o (b.status 3) none
        else if b.remain.toNat < o.v.toNat then
          (t.setBar c.die.val o.addr { b with ovr := true }).replyTo o ({ b with ovr := true : BarObj }.status 2) none
        else if r.2 then
          ((t.setBar c.die.val o.addr r.1).endWaits c.ix o.addr (16 * r.1.phase.setWidth 64)).replyTo o (r.1.status 1) none
        else (t.setBar c.die.val o.addr r.1).replyTo o (r.1.status 0) none) := by
  rw [exec_barrierArriveOp]
  unfold execBarrierArriveOp
  rw [ownerStep_took h (by rcases kind with k | k <;> simp [k]) (by rcases kind with k | k <;> simp [k])]

/-- A wait is taken by its owner. -/
theorem barrierWait_took (h : s.offers c o) (kind : o.kind = .barwait) :
    exec (.barrierWaitOp c) s =
      let t := s.took c o
      let b := t.barObj c.die.val o.addr
      .next (
        if b.invalid then t.replyTo o (3 + 16 * b.phase.setWidth 64) none
        else if b.phase.toNat ≠ o.v.toNat then t.replyTo o (16 * b.phase.setWidth 64) none
        else (t.setCore c.ix { t.core c.ix with barWaits := (t.core c.ix).barWaits ++ [(o.addr, o.issuer, o.id)] }).setBar
          c.die.val o.addr { b with waitcnt := b.waitcnt + 1 }) := by
  rw [exec_barrierWaitOp]
  unfold execBarrierWaitOp
  rw [ownerStep_took h (by simp [kind]) (by simp [kind])]
  simp only [bne_iff_ne, ne_eq]

/-- A cancel is taken by its owner. -/
theorem barrierCancel_took (h : s.offers c o) (kind : o.kind = .barcancel) :
    exec (.barrierCancel c) s =
      let u := s.popOp c.ix
      let mine (x : Nat × Nat × Nat) : Bool := x == (o.addr, o.issuer, o.v.toNat)
      .next (
        if (u.core c.ix).barWaits.any mine then
          (u.setCore c.ix { u.core c.ix with barWaits := (u.core c.ix).barWaits.filter fun x => !mine x }).ownerWrite c.die.val
            (o.addr + 8) ((u.barObj c.die.val o.addr).waitcnt - 1).toNat 2
        else u) := by
  rw [exec_barrierCancel]
  unfold execBarrierCancel
  rw [ownerStep_cancel h kind]
  have mine (x : Nat × Nat × Nat) :
      (x == (o.addr, o.issuer, o.v.toNat)) = (x.1 == o.addr && x.2.1 == o.issuer && x.2.2 == o.v.toNat) := by
    rw [Bool.eq_iff_iff]
    simp [Prod.ext_iff, and_assoc]
  simp only [mine]

end

/-- Settles O20: at their issue the forms share `barForm`; at the owner, an operation that it may take is taken by `ownerStep`. -/
theorem barriers : Obligations.Barriers := by
  refine ⟨fun s s1 s2 rd rs1 rs2 c v q qs hc hv => ?issue, fun s c o h => ?owner⟩
  case issue =>
    intro p a n op ok popped sent
    have second : secondSrc s.cur rs2 s1 = .val (n, s2) := secondSrc_val hv
    refine ⟨fun ⟨ready, hl, aligned, place⟩ low high => ?init, fun ⟨ready, hl, aligned, place⟩ low high => ?arv,
      fun ⟨ready, hl, aligned, place⟩ => ?drop, fun ⟨ready, hl, aligned, place⟩ => ?rd,
      fun ⟨ready, hl, aligned, place⟩ bound => ?wait, fun ⟨ready, hl, aligned, place⟩ bound => ?past,
      fun bad => ⟨fun ⟨ready, hl, aligned, place⟩ => ?initCount, fun ⟨ready, hl, aligned, place⟩ => ?arvCount⟩,
      fun bad => ⟨fun hl ready => ⟨?dropPlace, ?rdPlace⟩, fun hl => ⟨fun ready => ?initPlace, fun ready => ⟨?arvPlace, ?waitPlace⟩⟩⟩⟩
    case init => exact (exec_barinit ..).trans (barForm_ok ready hc second hl aligned place fun _ => ⟨low, high⟩)
    case arv => exact (exec_bararv ..).trans (barForm_ok ready hc second hl aligned place fun _ => ⟨low, high⟩)
    case drop => exact (exec_bardrop ..).trans (barForm_ok ready hc rfl hl aligned place fun _ => ⟨by omega, by omega⟩)
    case rd => exact (exec_barrd ..).trans (barForm_ok ready hc rfl hl aligned place (by nofun))
    case wait =>
      refine (exec_barwait ..).trans ((barForm_ok ready hc second hl aligned place (by nofun)).trans (congrArg _ ?_))
      have bound : 0 < n / 2 ^ 32 := Nat.div_pos bound (by decide)
      refine State.barTimeout_before (congrArg Ctx.waiting (State.await_ctx ..)) ?_
      rw [State.await_cyc]
      exact Nat.lt_add_of_pos_right bound
    case past =>
      refine ⟨_, (exec_barwait ..).trans (barForm_ok ready hc second hl aligned place (by nofun)), ?_⟩
      have bound : n / 2 ^ 32 = 0 := Nat.div_eq_of_lt bound
      obtain ⟨idle, pc, reg, x, ops, kind, owner, at', number⟩ := State.await_past (s := s2) (p := s.cur)
        (o := barOp s2 s.cur .barwait a q (n % 16))
        (w := { form := .barwait (BitVec.ofNat 4 n), rd := rd, bound := n / 2 ^ 32, popped := popped [rs1, rs2] }) rfl bound
      exact ⟨idle, pc, reg, _, x, ops, rfl, rfl, rfl, kind, owner, at', number⟩
    case initCount => exact (exec_barinit ..).trans (barForm_count ready hc second hl aligned place bad)
    case arvCount => exact (exec_bararv ..).trans (barForm_count ready hc second hl aligned place bad)
    case dropPlace => exact (exec_bardrop ..).trans (barForm_place ready hc rfl hl bad)
    case rdPlace => exact (exec_barrd ..).trans (barForm_place ready hc rfl hl bad)
    case initPlace => exact (exec_barinit ..).trans (barForm_place ready hc second hl bad)
    case arvPlace => exact (exec_bararv ..).trans (barForm_place ready hc second hl bad)
    case waitPlace => exact (exec_barwait ..).trans (barForm_place ready hc second hl bad)
  case owner =>
    intro d t b st n
    have valid {x y : State} (good : b.invalid = false) : (if b.invalid then x else y) = y := if_neg (Bool.eq_false_iff.mp good)
    refine ⟨fun kind => ?init, fun kind => ?arrive, fun kind => ?wait, fun kind => ?read, fun kind => ?cancel⟩
    case init =>
      rw [exec_barrierInitOp]
      unfold execBarrierInitOp
      rw [ownerStep_took h (by simp [kind]) (by simp [kind])]
    case arrive =>
      have taken := barrierArrive_took h kind
      intro drops
      have hd : (if o.kind == .bardrop then b.drops + 1 else b.drops) = drops := by simp only [beq_iff_eq, drops]
      refine ⟨fun bad => taken.trans (congrArg _ (if_pos bad)),
        fun good more => taken.trans (congrArg _ ((valid good).trans (if_pos more))),
        fun good less => taken.trans (congrArg _ ((valid good).trans ((if_neg (Nat.not_lt.mpr less.le)).trans ?_))),
        fun good last => taken.trans (congrArg _ ((valid good).trans ((if_neg (Nat.not_lt.mpr last.le)).trans ?_)))⟩
      · have count : (o.v.setWidth 16).toNat < b.remain.toNat := by
          rw [BitVec.toNat_setWidth]
          exact (Nat.mod_le _ _).trans_lt less
        rw [BarObj.arrive_more count hd]
        rfl
      · have count : (o.v.setWidth 16).toNat = b.remain.toNat := by
          rw [BitVec.toNat_setWidth, last, Nat.mod_eq_of_lt b.remain.isLt]
        rw [BarObj.arrive_last count hd]
        rfl
    case wait =>
      have taken := barrierWait_took h kind
      exact ⟨fun bad => taken.trans (congrArg _ (if_pos bad)),
        fun good other => taken.trans (congrArg _ ((valid good).trans (if_pos other))),
        fun good here => taken.trans (congrArg _ ((valid good).trans (if_neg (not_not.mpr here))))⟩
    case read =>
      rw [exec_barrierReadOp]
      unfold execBarrierReadOp
      rw [ownerStep_took h (by simp [kind]) (by simp [kind])]
    case cancel =>
      have taken := barrierCancel_took h kind
      exact ⟨fun waits => taken.trans (congrArg _ (if_pos waits)), fun gone => taken.trans (congrArg _ (if_neg (by simp [gone])))⟩

end Sys2Proof.Machine
end

section
/-! PROOFS. The tag table. -/

namespace Sys2Proof.Machine

/-! ## Forms of a unit that supervisor cores do not have -/

section
variable {s t : State} {w : BitVec 32} {o : Out}

theorem onUnit_firing (h : s.inFiring) : onUnit w s o = o := if_neg (Bool.eq_false_iff.mp h)

theorem onUnit_sup (h : s.cur.isSup = true) : onUnit w s o = .next (takeTrap s s.cur 0x01 (w.setWidth 64)) :=
  if_pos h

theorem needUnit_firing (h : s.inFiring) : needUnit s.cur w = .val () := by
  have h' : s.cur.isSup = false := h
  rw [needUnit, h']
  rfl

theorem needUnit_sup {p : Party} (h : p.isSup = true) : needUnit p w = .trap 0x01 (w.setWidth 64) := by
  rw [needUnit, h]
  rfl

/-- A source field changes no core, and the party's partition stays. -/
theorem State.popped_cores {p : Party} (h : s.popped t p) (n : Nat) : t.core n = s.core n := by
  obtain ⟨⟨_, _, cores, _⟩, _⟩ := h
  rw [State.core, cores, State.core]

theorem State.popped_partid {p : Party} (h : s.popped t p) : (t.ctx p).partid = (s.ctx p).partid := by
  obtain ⟨_, l, e⟩ := h
  rw [e]

end

/-! ## The tag table (R168 to R171) -/

section
variable {t : Vector TagSlot 64} {part : BitVec 8} {k : BitVec 64} {n : Nat}

theorem TagSlot.foreign_iff {x : TagSlot} : x.foreign part = true ↔ x.valid = true ∧ x.part ≠ part := by
  simp [TagSlot.foreign]

/-- A key that no slot holds for the partition is in no slot of the partition. -/
theorem not_same_of_holds_none (none : holds t part k = none) (hn : n < 64) (mine : ¬(slotAt t n).foreign part = true) :
    ((slotAt t n).valid && (slotAt t n).key == k) = false := by
  have h := List.find?_eq_none.mp none n (List.mem_range.mpr hn)
  simp only [Bool.not_eq_true] at mine h
  simpa [mine] using h

theorem lookup_found {j : Nat} (h : holds t part k = some j) : lookup t part k = (BitVec.ofNat 64 j, touch t j) := by
  simp only [lookup, h]

theorem lookup_victim {j : Nat} (h : holds t part k = none) (v : victimOf t part = some j) :
    lookup t part k = (BitVec.ofNat 64 (2 ^ 63 + j), t) := by
  simp only [lookup, h, v]

theorem lookup_full (h : holds t part k = none) (v : victimOf t part = none) :
    lookup t part k = (0xC000000000000000, t) := by
  simp only [lookup, h, v]
  rfl

theorem tagInsert_new (hn : n < 64) (mine : ¬(slotAt t n).foreign part = true) (none : holds t part k = none)
    (free : (slotAt t n).pin = 0) : tagInsert t part k n = some (if (slotAt t n).valid then 1 else 0,
      (touch t n).setIfInBounds n { key := k, valid := true, pin := 0, part := part, age := 0 }) := by
  have same := not_same_of_holds_none none hn mine
  simp [tagInsert, Nat.not_le.mpr hn, mine, free, same, none]

theorem tagInsert_elsewhere {j : Nat} (hn : n < 64) (mine : ¬(slotAt t n).foreign part = true)
    (held : holds t part k = some j)
    (other : j ≠ n) (free : (slotAt t n).pin = 0) : tagInsert t part k n = some (BitVec.ofNat 64 (2 ^ 63 + j), t) := by
  simp [tagInsert, Nat.not_le.mpr hn, mine, free, held, other, Option.filter_some]

theorem tagInsert_refused (h : 64 ≤ n ∨ (slotAt t n).foreign part = true) : tagInsert t part k n = none := by
  rcases h with h | h
  · simp [tagInsert, h]
  · simp [tagInsert, h]

end

section
variable {s s1 : State} {rs1 : BitVec 5} {w : BitVec 32} {a : Reg}
  {f : Vector TagSlot 64 → Nat → Option (Vector TagSlot 64)}

/-- What a form of R171 has done where it may take its slot. -/
theorem tagForm_done {t' : Vector TagSlot 64} (unit : s.inFiring) (ready : s.exeReady 0#5 [rs1]) (ha : s.gives rs1 a s1)
    (hi : (capAddr a).toNat < 64)
    (mine : ¬(slotAt (s.core s.cur.coreIx).tagTable (capAddr a).toNat).foreign (s.ctx s.cur).partid = true)
    (done : f (s.core s.cur.coreIx).tagTable (capAddr a).toNat = some t') :
    tagForm w rs1 f s = .next (s.wrote (s1.setTags s.cur.coreIx t') 0#5 0) := by
  have popped := (State.src_popped ha).1
  refine (onUnit_firing unit).trans (exe1_ok ready ha ?_)
  simp only [State.popped_cores popped, State.popped_partid popped]
  rw [if_neg (by simpa [Nat.not_le.mpr hi] using mine), done]

/-- A slot number out of range, a slot of another partition, and a slot that the form may not take. -/
theorem tagForm_refused (unit : s.inFiring) (ready : s.exeReady 0#5 [rs1]) (ha : s.gives rs1 a s1)
    (h : 64 ≤ (capAddr a).toNat ∨
      (slotAt (s.core s.cur.coreIx).tagTable (capAddr a).toNat).foreign (s.ctx s.cur).partid = true ∨
      f (s.core s.cur.coreIx).tagTable (capAddr a).toNat = none) :
    tagForm w rs1 f s = .next (takeTrap s s.cur 0x14 (capAddr a)) := by
  have popped := (State.src_popped ha).1
  refine (onUnit_firing unit).trans (exe1_trap ready ha ?_)
  simp only [State.popped_cores popped, State.popped_partid popped]
  rcases h with h | h | h
  · simp [h]
  · simp [h]
  · simp only [h]
    exact ite_self _

end

end Sys2Proof.Machine
end

section
/-! PROOFS. Circular buffers. -/

namespace Sys2Proof.Machine

/-! ## Circular buffers (R184 to R187) -/

theorem firstIn_iff {l : List CbWaiter} {w : CbWaiter} : firstIn l w = true ↔ l = [] ∨ l.head? = some w := by
  cases l <;> simp [firstIn]

section
variable {x : Cb} {w : CbWaiter}

theorem Cb.canPut_iff : x.canPut w = true ↔ x.free ≠ 0 ∧ (x.waitFree = [] ∨ x.waitFree.head? = some w) := by
  simp [Cb.canPut, firstIn_iff]

theorem Cb.canGet_iff : x.canGet w = true ↔ x.filled ≠ 0 ∧ (x.waitFilled = [] ∨ x.waitFilled.head? = some w) := by
  simp [Cb.canGet, firstIn_iff]

end

theorem Core.cb_setCb {k : Core} {b : Nat} {x : Cb} (h : b < k.cbs.toList.length) : (k.setCb b x).cb b = x := by
  have h' : b < 16 := by simpa using h
  simp [Core.cb, Core.setCb, h']

section
variable {s s1 s2 : State} {rd rs1 : BitVec 5} {n : BitVec 4} {c : Reg}

/-- A `cbinit` of a valid descriptor that may be read, of a buffer that no pending copy fills (R186). -/
theorem execCbinit_ok {bs : List Byte} {y : Cb} (unit : s.inFiring) (ready : s.exeReady 0#5 [rs1]) (hc : s.gives rs1 c s1)
    (cap : checkCap s.cur.isSup c (capAddr c).toNat 16 permLoad false = none) (aligned : (capAddr c).toNat % 16 = 0)
    (read : State.readBytes s s1 s.cur .r (capAddr c).toNat 16 = .val (bs, s2)) (desc : descCb bs = some y)
    (idle : s2.fillPending s.cur.coreIx n.toNat = false) :
    execCbinit n rs1 s = .next ((s2.setCore s.cur.coreIx ((s2.core s.cur.coreIx).setCb n.toNat { y with
      waitFilled := ((s2.core s.cur.coreIx).cb n.toNat).waitFilled,
      waitFree := ((s2.core s.cur.coreIx).cb n.toNat).waitFree })).advance s.cur) := by
  have hc' : s.src s.cur rs1 = .val (c, s1) := hc
  simp [execCbinit, State.exePre_ready ready, needUnit_firing unit, hc', cap, read, aligned, desc, idle]

/-- Where a free slot is a party's and its stores have drained, `cbput` takes effect. -/
theorem State.cbputNow_some {p : Party} (valid : ((s.core p.coreIx).cb n.toNat).valid = true)
    (drained : (s.ctx p).drained = (s.ctx p).storeCount) (can : ((s.core p.coreIx).cb n.toNat).canPut (ctxWaiter p) = true) :
    s.cbputNow p n = some ((s.setCore p.coreIx ((s.core p.coreIx).setCb n.toNat
      (((s.core p.coreIx).cb n.toNat).takeFree (ctxWaiter p)))).mod p
        fun c => { c with cbput := none, pc := c.pc + 4 }) := by
  simp [State.cbputNow, valid, drained, can]

theorem State.cbputNow_none {p : Party}
    (h : (s.ctx p).drained ≠ (s.ctx p).storeCount ∨ ((s.core p.coreIx).cb n.toNat).canPut (ctxWaiter p) = false) :
    s.cbputNow p n = none := by
  rcases h with h | h
  · simp [State.cbputNow, h]
  · simp [State.cbputNow, h]

section
variable (unit : s.inFiring)
include unit

theorem execCbput_now {t : State} (ready : s.exeReady 0#5 []) (valid : ((s.core s.cur.coreIx).cb n.toNat).valid = true)
    (now : s.cbputNow s.cur n = some t) : execCbput n s = .next t := by
  simp [execCbput, State.exePre_ready ready, needUnit_firing unit, valid, now]

theorem execCbput_waits (ready : s.exeReady 0#5 []) (valid : ((s.core s.cur.coreIx).cb n.toNat).valid = true)
    (later : s.cbputNow s.cur n = none) :
    execCbput n s =
      let x := (s.core s.cur.coreIx).cb n.toNat
      let x1 := if x.canPut (ctxWaiter s.cur) then x else { x with waitFree := joinWait x.waitFree (ctxWaiter s.cur) }
      .next ((s.setCore s.cur.coreIx ((s.core s.cur.coreIx).setCb n.toNat x1)).mod s.cur fun c =>
        { c with cbput := some (n, c.storeCount) }) := by
  have pre : s.exePre s.cur (wordCbput n) 0 [] = .val () := State.exePre_ready ready _
  simp only [execCbput, pre, needUnit_firing unit, Tri.bind_val, valid, later]
  rfl

theorem execCbput_invalid (ready : s.exeReady 0#5 []) (valid : ((s.core s.cur.coreIx).cb n.toNat).valid = false) :
    execCbput n s = .next (takeTrap s s.cur 0x15 (n.setWidth 64)) := by
  simp [execCbput, State.exePre_ready ready, needUnit_firing unit, valid, cbTval]

theorem execCbget_now (ready : s.exeReady rd []) (valid : ((s.core s.cur.coreIx).cb n.toNat).valid = true)
    (can : ((s.core s.cur.coreIx).cb n.toNat).canGet (ctxWaiter s.cur) = true) :
    execCbget rd n s =
      let x := (s.core s.cur.coreIx).cb n.toNat
      .next (s.wrote ((s.setCore s.cur.coreIx ((s.core s.cur.coreIx).setCb n.toNat (x.takeFilled (ctxWaiter s.cur)))).mod
        s.cur Ctx.sync) rd (dataReg (BitVec.ofNat 64 (x.slotAddr x.cidx)))) := by
  simp [execCbget, State.exePre_ready ready, needUnit_firing unit, valid, can, State.wrote]

theorem execCbget_waits (ready : s.exeReady rd []) (valid : ((s.core s.cur.coreIx).cb n.toNat).valid = true)
    (cannot : ((s.core s.cur.coreIx).cb n.toNat).canGet (ctxWaiter s.cur) = false) :
    execCbget rd n s =
      let x := (s.core s.cur.coreIx).cb n.toNat
      .next (s.setCore s.cur.coreIx ((s.core s.cur.coreIx).setCb n.toNat
        { x with waitFilled := joinWait x.waitFilled (ctxWaiter s.cur) })) := by
  simp [execCbget, State.exePre_ready ready, needUnit_firing unit, valid, cannot]

theorem execCbget_invalid (ready : s.exeReady rd []) (valid : ((s.core s.cur.coreIx).cb n.toNat).valid = false) :
    execCbget rd n s = .next (takeTrap s s.cur 0x15 (n.setWidth 64)) := by
  simp [execCbget, State.exePre_ready ready, needUnit_firing unit, valid, cbTval]

theorem execCbrel_ok (ready : s.exeReady 0#5 []) (valid : ((s.core s.cur.coreIx).cb n.toNat).valid = true)
    (held : ((s.core s.cur.coreIx).cb n.toNat).held ≠ 0) :
    execCbrel n s = .next ((s.setCore s.cur.coreIx ((s.core s.cur.coreIx).setCb n.toNat
      ((s.core s.cur.coreIx).cb n.toNat).relStep)).advance s.cur) := by
  have held' : ((s.core s.cur.coreIx).cb n.toNat).held ≠ 0#8 := held
  simp [execCbrel, State.exePre_ready ready, needUnit_firing unit, valid, held']

theorem execCbrel_refused (ready : s.exeReady 0#5 [])
    (h : ((s.core s.cur.coreIx).cb n.toNat).valid = false ∨ ((s.core s.cur.coreIx).cb n.toNat).held = 0) :
    execCbrel n s = .next (takeTrap s s.cur 0x15 (n.setWidth 64)) := by
  rcases h with h | h
  · simp [execCbrel, State.exePre_ready ready, needUnit_firing unit, h, cbTval]
  · simp [execCbrel, State.exePre_ready ready, needUnit_firing unit, h, cbTval]

theorem execCbstat_ok (ready : s.exeReady rd []) :
    execCbstat rd n s = .next (s.wrote s rd (dataReg ((s.core s.cur.coreIx).cb n.toNat).stat)) := by
  unfold execCbstat
  refine exe0_ok ready ?_
  rw [needUnit_firing unit, Tri.bind_val]

end

theorem Tri.bind_eq_val {α β : Type} {t : Tri α} {f : α → Tri β} {b : β} :
    t.bind f = .val b ↔ ∃ a, t = .val a ∧ f a = .val b := by
  cases t <;> simp

/-- A part that gives bytes changes no core. -/
theorem State.readBytes_core {p : Party} {need : Need} {a m : Nat} {bs : List Byte} (src : s.src p rs1 = .val (c, s1))
    (read : State.readBytes s s1 p need a m = .val (bs, s2)) (k : Nat) : s2.core k = s.core k := by
  have popped := State.popped_cores (State.src_popped src).1 k
  obtain ⟨qs, _, read⟩ := Tri.bind_eq_val.mp read
  obtain ⟨_, _, read⟩ := Tri.bind_eq_val.mp read
  unfold State.gather at read
  dsimp only at read
  split at read
  · cases read
  · split at read
    · cases read
    · cases read
      exact popped

end

/-- Settles O34: the functions on the table and on a buffer, case by case, at the forms that share them. -/
theorem tagTableAndCircularBuffers : Obligations.TagTableAndCircularBuffers := by
  refine ⟨⟨fun s s1 s2 rd rs1 rs2 a b ha hb unit => ?table, fun s rd rs1 rs2 sup => ?tableSup⟩,
    fun s rd rs1 n unit => ?buffers, fun s rd rs1 n sup ready => ?buffersSup⟩
  case table =>
    intro k part t key n i foreign slotForm
    have popped := (State.src_popped ha).1
    have popped2 : s.popped s2 s.cur := popped.trans (State.src_popped hb).1
    have foreign_iff (j : Nat) : foreign j ↔ (slotAt t j).foreign part = true := TagSlot.foreign_iff.symm
    have table1 : (s1.core k).tagTable = t := congrArg Core.tagTable (State.popped_cores popped k)
    have table2 : (s2.core k).tagTable = t := congrArg Core.tagTable (State.popped_cores popped2 k)
    have part1 := State.popped_partid popped
    have part2 := State.popped_partid popped2
    have found {v : BitVec 64} {t' : Vector TagSlot 64} (ready : s.exeReady rd [rs1]) (e : lookup t part key = (v, t')) :
        exec (.taglk rd rs1) s = .next (s.wrote (s1.setTags k t') rd (dataReg v)) := by
      refine (exec_taglk ..).trans ((onUnit_firing unit).trans (exe1_ok ready ha ?_))
      dsimp only
      rw [table1, part1, e]
    have inserted {v : BitVec 64} {t' : Vector TagSlot 64} (ready : s.exeReady rd [rs1, rs2])
        (e : tagInsert t part key n = some (v, t')) :
        exec (.tagins rd rs1 rs2) s = .next (s.wrote (s2.setTags k t') rd (dataReg v)) := by
      refine (exec_tagins ..).trans ((onUnit_firing unit).trans (exe2_ok ready ha hb ?_))
      dsimp only
      rw [table2, part2, e]
    refine ⟨fun ready => ⟨fun j h => found ready (lookup_found h),
      fun h => ⟨fun j v => found ready (lookup_victim h v),
        fun v => found ready (lookup_full h v)⟩⟩,
      fun ready hn mine => ⟨fun none free => inserted ready (tagInsert_new hn (mt (foreign_iff n).mpr mine) none free),
        fun j held other free => inserted ready (tagInsert_elsewhere hn (mt (foreign_iff n).mpr mine) held other free)⟩,
      fun ready bad => ?refused, fun ready hi mine ⟨valid, free⟩ => ?del, fun ready hi mine ⟨valid, room⟩ => ?pin,
      fun ready hi mine pinned => ?unpin, fun ready =>
        ⟨fun bad => ?delRefused, fun bad => ?pinRefused, fun bad => ?unpinRefused⟩⟩
    case refused =>
      refine (exec_tagins ..).trans ((onUnit_firing unit).trans (exe2_trap ready ha hb ?_))
      dsimp only
      rw [table2, part2, tagInsert_refused (bad.imp_right (foreign_iff n).mp)]
    case del =>
      refine (exec_tagdel ..).trans (tagForm_done unit ready ha hi (mt (foreign_iff i).mpr mine) ?_)
      simp only [tagDelete]
      rw [if_neg (by simpa using free), if_neg (by simpa using valid)]
    case pin =>
      refine (exec_tagpin ..).trans (tagForm_done unit ready ha hi (mt (foreign_iff i).mpr mine) ?_)
      exact if_neg (by simpa using And.intro valid room)
    case unpin =>
      refine (exec_tagunpin ..).trans (tagForm_done unit ready ha hi (mt (foreign_iff i).mpr mine) ?_)
      exact if_neg (by simpa using pinned)
    case delRefused =>
      refine (exec_tagdel ..).trans (tagForm_refused unit ready ha (bad.imp_right
        (Or.imp (foreign_iff i).mp fun pinned => ?_)))
      exact if_pos (by simpa using pinned)
    case pinRefused =>
      refine (exec_tagpin ..).trans (tagForm_refused unit ready ha (bad.imp_right
        (Or.imp (foreign_iff i).mp fun h => ?_)))
      exact if_pos (by simpa using h)
    case unpinRefused =>
      refine (exec_tagunpin ..).trans (tagForm_refused unit ready ha (bad.imp_right
        (Or.imp (foreign_iff i).mp fun h => ?_)))
      exact if_pos (by simpa using h)
  case tableSup =>
    exact ⟨(exec_taglk ..).trans (onUnit_sup sup), (exec_tagins ..).trans (onUnit_sup sup),
      (exec_tagdel ..).trans (onUnit_sup sup),
      (exec_tagpin ..).trans (onUnit_sup sup), (exec_tagunpin ..).trans (onUnit_sup sup)⟩
  case buffers =>
    intro p k x me stores next put first others filledSlot
    have can_put : x.canPut me = true ↔ x.free ≠ 0 ∧ first x.waitFree := Cb.canPut_iff
    have can_get : x.canGet me = true ↔ x.filled ≠ 0 ∧ first x.waitFilled := Cb.canGet_iff
    refine ⟨fun s1 s2 c bs y ready hc cap aligned read desc idle => ?init, fun ready valid drained free turn => ?put,
      fun ready valid waits => ?putWaits, fun ready valid => ⟨fun filled turn => ?get, fun waits => ?getWaits⟩,
      fun ready => ⟨fun valid held => ?rel, fun bad => ?relRefused⟩,
      fun invalid => ⟨fun ready => ?putInvalid, fun ready => ?getInvalid⟩,
      fun ready => ?stat⟩
    case init =>
      refine (exec_cbinit ..).trans ((execCbinit_ok unit ready hc cap aligned read desc idle).trans ?_)
      have same : (s2.core p.coreIx).cb n.toNat = x :=
        congrArg (fun k => k.cb n.toNat) (State.readBytes_core hc read p.coreIx)
      rw [same]
    case put =>
      have now := State.cbputNow_some valid drained (can_put.mpr ⟨free, turn⟩)
      refine ⟨(exec_cbput ..).trans (execCbput_now unit ready valid now), fun m waiting => ?_⟩
      rw [exec_cbputEffect, execCbputEffect, waiting]
      dsimp only
      rw [now]
      rfl
    case putWaits =>
      have later : s.cbputNow p n = none := State.cbputNow_none <| waits.imp id fun full => by
        rw [Bool.eq_false_iff, ne_eq, can_put]
        rintro ⟨free, turn⟩
        exact full.elim free (· turn)
      refine ⟨⟨_, (exec_cbput ..).trans (execCbput_waits unit ready valid later), ?_, ?_, fun held => ?_⟩,
        fun m waiting => ?_⟩
      · rw [State.mod_ctx]
        rfl
      · rw [State.mod_ctx]
        rfl
      · have kept (y : Cb) : ((s.setCore p.coreIx (k.setCb n.toNat y)).core p.coreIx).cb n.toNat = y := by
          rw [State.core_setCore_same, Core.cb_setCb held]
        refine (congrArg Cb.filled (kept _)).trans ?_
        split <;> rfl
      · rw [exec_cbputEffect, execCbputEffect, waiting]
        dsimp only
        rw [later]
    case get =>
      exact (exec_cbget ..).trans (execCbget_now unit ready valid (can_get.mpr ⟨filled, turn⟩))
    case getWaits =>
      have cannot : x.canGet me = false := by
        rw [Bool.eq_false_iff, ne_eq, can_get]
        rintro ⟨filled, turn⟩
        exact waits.elim filled (· turn)
      exact (exec_cbget ..).trans (execCbget_waits unit ready valid cannot)
    case rel => exact (exec_cbrel ..).trans (execCbrel_ok unit ready valid held)
    case relRefused => exact (exec_cbrel ..).trans (execCbrel_refused unit ready bad)
    case putInvalid => exact (exec_cbput ..).trans (execCbput_invalid unit ready invalid)
    case getInvalid => exact (exec_cbget ..).trans (execCbget_invalid unit ready invalid)
    case stat => exact (exec_cbstat ..).trans (execCbstat_ok unit ready)
  case buffersSup =>
    have ready1 : s.exeReady 0#5 [rs1] := State.exeReady_x0 ready
    have ready0 : s.exeReady 0#5 [] := ⟨ready1.1, by simp, Ctx.awaits_sub ready1.2.2.1 (by simp), ready1.2.2.2⟩
    have readyd : s.exeReady rd [] := ⟨ready.1, by simp, Ctx.awaits_sub ready.2.2.1 (by simp), ready.2.2.2⟩
    refine ⟨(exec_cbinit ..).trans ?_, (exec_cbput ..).trans ?_, (exec_cbget ..).trans ?_, (exec_cbrel ..).trans ?_,
      (exec_cbstat ..).trans ?_⟩
    · simp [execCbinit, State.exePre_ready ready1, needUnit_sup sup]
    · simp [execCbput, State.exePre_ready ready0, needUnit_sup sup]
    · simp [execCbget, State.exePre_ready readyd, needUnit_sup sup]
    · simp [execCbrel, State.exePre_ready ready0, needUnit_sup sup]
    · simp [execCbstat, exe0, State.exePre_ready readyd, needUnit_sup sup]

end Sys2Proof.Machine
end

section
/-! PROOFS. Memory steps and deliveries. -/

namespace Sys2Proof.Machine

/-- A message from core 8, of another cluster of die 0, with a write that its release names. -/
def farMessage : Message := { cls := 4, key := 77, origin := 8, prior := [(0x40, 1)] }

/-- Its actor, not run yet, of a class whose port 0 is a count port of one. -/
def farActor : Actor := { cls := 4, key := 77, desc := 5#512 <<< 128 }

/-- Die 0 with `farMessage` at the head of the channel from home 0 to core 0, which hosts `farActor`. -/
def farMessageAtHead : State :=
  { clusters := [(0, { toHost := [(0, [.msg farMessage])] })]
    cores := [(0, { actors := [farActor] })] }

/-- The host takes the message in without its origin and its release: `Core.stamp` clears both. -/
theorem deliver_farMessageAtHead :
    exec (.deliver (.hosted 0 ⟨0, 0, 0⟩)) farMessageAtHead = .next (farMessageAtHead.deliverHosted 0 0) ∧
      ((farMessageAtHead.deliverHosted 0 0).core 0).actors.map (fun b => (b.name, (b.port 0).q)) =
        [(farMessage.name, [{ farMessage with origin := 0, prior := [] }])] :=
  ⟨rfl, by decide +kernel⟩

/-- Refutes O49: its last clause says that the port then ends with the message as the channel held it, its place of arrival
alone new, but a host also forgets the core that the message came from and the writes that its release names. -/
theorem not_memoryStepsAndDeliveries : ¬ Obligations.MemoryStepsAndDeliveries := by
  unfold Obligations.MemoryStepsAndDeliveries
  intro h
  obtain ⟨-, -, -, -, hosted⟩ := h.2 farMessageAtHead (.sup 0 0) 0
  obtain ⟨-, taken⟩ := hosted 0 ⟨0, 0, 0⟩ farMessage [] farActor
    (by decide +kernel) (by decide +kernel)
  obtain ⟨t, b, ht, -, hb, -, hq⟩ := taken (by decide +kernel) (by decide +kernel) (by decide +kernel)
    (by decide +kernel) (by decide +kernel) (by decide +kernel) (by decide +kernel) (by decide +kernel)
  obtain ⟨next, queues⟩ := deliver_farMessageAtHead
  rw [show CoreId.ix ⟨0, 0, 0⟩ = 0 from rfl] at hb
  have hosts : b ∈ (t.core 0).actors := List.mem_of_find?_eq_some hb
  obtain rfl : farMessageAtHead.deliverHosted 0 0 = t := Host.Outcome.next.inj (next.symm.trans ht)
  have held : (b.name, (b.port 0).q) ∈ [(farMessage.name, [{ farMessage with origin := 0, prior := [] }])] := by
    rw [← queues]
    exact List.mem_map.mpr ⟨b, hosts, rfl⟩
  have arrived : (b.port 0).q = [{ farMessage with origin := 0, prior := [] }] :=
    (Prod.ext_iff.mp (List.mem_singleton.mp held)).2
  have port : hdrPort farMessage.hdr = 0 := by decide
  have whole :
      (farActor.port 0).q ++ [{ farMessage with arrived := (farMessageAtHead.core 0).arrivals }] = [farMessage] := by
    decide +kernel
  rw [port] at hq
  have stays : (b.port 0).q = [farMessage] := Eq.trans hq whole
  have origins : [0] = [8] := congrArg (List.map Message.origin) (arrived.symm.trans stays)
  exact absurd origins (by decide)

end Sys2Proof.Machine
end

section
/-! PROOFS. Copy requests. -/

namespace Sys2Proof.Machine

theorem reqCheck_val {p : Party} {c : Reg} {r : BitVec 5} {n : Nat} {need : BitVec 11}
    (h : checkCap p.isSup c (capAddr c).toNat n need false = none) : reqCheck p c r n need = .val () := by
  simp [reqCheck, h]

theorem State.regsReady_val {s : State} {p : Party} {rs : List (BitVec 5)} (h : (s.ctx p).awaits rs = false) :
    s.regsReady p rs = .val () := by
  simp [State.regsReady, h]

section
variable {s : State} {p : Party} {xs : BitVec 3}

/-- A malformed w0 is the first thing that a request's checks find. -/
theorem State.checkRequest_malformed (h : reqMalformed (capAddr ((s.ctx p).xs xs 0)) s.dev.num = true) :
    s.checkRequest p xs = .trap 0x18 0 := by
  simp [State.checkRequest, h, Tri.ensure]

/-- The checks of a request that has neither stamp, target record nor deckle. -/
theorem State.checkRequest_plain {w : BitVec 64} {src dst : Reg} (hw : capAddr ((s.ctx p).xs xs 0) = w)
    (hsrc : (s.ctx p).xs xs 1 = src) (hdst : (s.ctx p).xs xs 2 = dst) (formed : reqMalformed w s.dev.num = false)
    (stamp : reqStamp w = false) (tgt : reqTgt w = false) (deckle : reqOp w ≠ 5)
    (reads : checkCap p.isSup src (capAddr src).toNat (reqLen w)
      (permLoad ||| permCopy ||| if (reqDev w != s.dev.num && srcRemote (reqOp w)) = true then permRemote else 0)
      false = none)
    (writes : checkCap p.isSup dst (capAddr dst).toNat (reqLen w)
      (permStore ||| permCopy ||| if (reqDev w != s.dev.num && dstRemote (reqOp w)) = true then permRemote else 0)
      false = none)
    (apart : reqDev w ≠ s.dev.num ∨ (capAddr src).toNat + reqLen w ≤ (capAddr dst).toNat ∨
      (capAddr dst).toNat + reqLen w ≤ (capAddr src).toNat)
    (notice : reqNotify w = true → p.isSup = true ∨ (s.ctx p).firing.sheet = false) :
    s.checkRequest p xs = .val s := by
  have overlap : (reqDev w != s.dev.num || !(decide ((capAddr src).toNat < (capAddr dst).toNat + reqLen w) &&
      decide ((capAddr dst).toNat < (capAddr src).toNat + reqLen w))) = true := by
    rcases apart with h | h | h
    · simp [h]
    · simp [Nat.not_lt.mpr h]
    · simp [Nat.not_lt.mpr h]
  have told : (!(reqNotify w && true && !p.isSup && (s.ctx p).firing.sheet)) = true := by
    by_cases h : reqNotify w = true
    · rcases notice h with h | h <;> simp [h]
    · simp [h]
  simp only [State.checkRequest, hw, hsrc, hdst, formed, Bool.not_false, Tri.ensure_true, Tri.bind_val,
    reqCheck_val reads, reqCheck_val writes, overlap, stamp, Bool.false_eq_true, if_false, tgt, if_neg deckle,
    told]

end

section
variable {s u : State} {rd : BitVec 5} {xs : BitVec 3} (ready : s.exeReady rd [])
  (written : (s.ctx s.cur).awaits (xsRegs xs) = false)
include ready written

/-- Both forms come to the checks of their request. -/
theorem execCpost_checked : execCpost rd xs s = settleNext s ((s.checkRequest s.cur xs).bind fun s1 =>
    if 8 ≤ (s.core s.cur.coreIx).fifo.length then .stall s
    else .val ((s1.pushRequest s.cur xs).2.dest s.cur rd (dataReg (BitVec.ofNat 64 (s1.pushRequest s.cur xs).1)))) := by
  simp only [execCpost, State.exePre_ready ready, State.regsReady_val written, Tri.bind_val]

theorem execCpostNb_checked : execCpostNb rd xs s = settleNext s ((s.checkRequest s.cur xs).bind fun s1 =>
    if 8 ≤ (s.core s.cur.coreIx).fifo.length then .val (s1.dest s.cur rd 0)
    else .val ((s1.pushRequest s.cur xs).2.dest s.cur rd (dataReg (BitVec.ofNat 64 (s1.pushRequest s.cur xs).1)))) := by
  simp only [execCpostNb, State.exePre_ready ready, State.regsReady_val written, Tri.bind_val]

end

/-- What a request pushed leaves: the FIFO, the number that the next one takes, and the items sent. -/
theorem State.pushRequest_fields (u : State) (p : Party) (xs : BitVec 3) :
    let r := u.request p xs (u.core p.coreIx).nextSeq
    let t := (u.pushRequest p xs).2
    t.ctx p = u.ctx p ∧ (t.core p.coreIx).fifo = (u.core p.coreIx).fifo ++ [r] ∧
      (t.core p.coreIx).nextSeq = (u.core p.coreIx).nextSeq + 1 ∧
      (reqNotify r.w0 = false → (t.core p.coreIx).sent = (u.core p.coreIx).sent) := by
  simp only [State.pushRequest]
  split
  case isTrue told =>
    refine ⟨rfl, ?_, ?_, fun silent => absurd (told.symm.trans silent) (by decide)⟩
    all_goals simp [State.sentUp]
  case isFalse =>
    refine ⟨rfl, ?_, ?_, fun _ => ?_⟩
    all_goals simp

/-! ## Acceptance -/

/-- Of a request at its engine, what says whose it is and where it is carried out stays. -/
def Pending.SameRequest (p q : Pending) : Prop :=
  q.req = p.req ∧ q.engine = p.engine ∧ q.role = p.role ∧ q.far = p.far

theorem Pending.SameRequest.trans {p q r : Pending} (h : p.SameRequest q) (h' : q.SameRequest r) : p.SameRequest r :=
  ⟨h'.1.trans h.1, h'.2.1.trans h.2.1, h'.2.2.1.trans h.2.2.1, h'.2.2.2.trans h.2.2.2⟩

theorem Pending.sameRequest_fail (p : Pending) (code : BitVec 8) (off : Nat) : p.SameRequest (p.fail code off) :=
  ⟨rfl, rfl, rfl, rfl⟩

theorem State.acceptDeckle_sameRequest {s : State} {p q : Pending} (h : s.acceptDeckle p = some q) : p.SameRequest q := by
  unfold State.acceptDeckle at h
  dsimp only at h
  split at h
  · cases h
  · split at h
    · cases h
    · split at h
      · cases h
      · simp only [Option.ite_none_right_eq_some, Option.some.injEq] at h
        obtain ⟨-, rfl⟩ := h
        exact ⟨rfl, rfl, rfl, rfl⟩

/-- A request with its target record read. -/
def State.withTarget (s : State) (p : Pending) : Pending :=
  if reqTgt p.req.w0 || p.op = 4 then
    match s.readTarget p with
    | .inl c => { p.fail c 0 with silent := c = 0x0C || reqTgt p.req.w0 }
    | .inr t => { p with target := t }
  else p

/-- A request with what acceptance reads. -/
def State.withAreas (s : State) (p : Pending) : Pending :=
  if p.op = 5 then (s.acceptDeckle (s.withTarget p)).getD ((s.withTarget p).fail 0x0A 0) else s.withTarget p

theorem State.withTarget_sameRequest (s : State) (p : Pending) : p.SameRequest (s.withTarget p) := by
  unfold State.withTarget
  split
  · split <;> exact ⟨rfl, rfl, rfl, rfl⟩
  · exact ⟨rfl, rfl, rfl, rfl⟩

theorem State.withAreas_sameRequest (s : State) (p : Pending) : p.SameRequest (s.withAreas p) := by
  unfold State.withAreas
  split
  · refine (s.withTarget_sameRequest p).trans ?_
    cases h : s.acceptDeckle (s.withTarget p) with
    | none => exact Pending.sameRequest_fail _ _ _
    | some q => exact State.acceptDeckle_sameRequest h
  · exact s.withTarget_sameRequest p

/-- A request with neither target record nor deckle is as it was. -/
theorem State.withAreas_plain {s : State} {p : Pending} (tgt : reqTgt p.req.w0 = false) (wrenq : p.op ≠ 4)
    (deckle : p.op ≠ 5) :
    s.withAreas p = p := by
  simp [State.withAreas, State.withTarget, tgt, wrenq, deckle]

/-- A request of this device enters its engine's pending set with what acceptance reads. -/
theorem State.enter_near {s : State} {p : Pending} (near : p.far = false) :
    ∃ e : Pending, s.enter p = s.setDev { s.dev with engines := s.dev.engines ++ [e] } ∧ p.SameRequest e ∧
      e.err = (s.withAreas p).err ∧ e.len = (s.withAreas p).len := by
  refine ⟨{ s.withAreas p with
      unread := fullSpan (s.withAreas p).len, unwritten := fullSpan (s.withAreas p).len
      logged := s.logsRequest (s.withAreas p) }, ?_, s.withAreas_sameRequest p, rfl, rfl⟩
  have far : (s.withAreas p).far = false := (s.withAreas_sameRequest p).2.2.2.trans near
  unfold State.enter
  extract_lets w op p1 p2 a no p3 p4 dev s1
  have read : p2 = s.withAreas p := rfl
  have local3 : p3 = p2 := if_pos (by simp [read, far])
  have local4 : (p4.far && !p4.finishing) = false := by simp [p4, local3, read, far]
  refine (if_neg (by simp [local4])).trans ?_
  simp only [s1, dev, p4, local3, read]
  rfl

/-- The oldest request of a FIFO, of this device, as its engine gets it. -/
def State.nextPending (s : State) (r : Request) : Pending :=
  { engine := s.engineFor r, req := r, id := s.dev.opSeq + 1, len := reqLen r.w0, far := false, farDev := reqDev r.w0 }

section
variable {s : State} {q : Party} {r : Request} {rest : List Request} (head : (s.core q.coreIx).fifo = r :: rest)
  (near : reqDev r.w0 = s.dev.num)
include head near

theorem execRequestAccept_head : execRequestAccept q s =
    if s.released r.rel = false then .next s
    else match s.acceptMissing (s.nextPending r) with
      | some va => .next (s.askUnit (s.nextPending r).tlbKey (s.nextPending r).die r.part va)
      | none => .next (((s.setCore q.coreIx { s.core q.coreIx with fifo := rest }).setDev
          { s.dev with opSeq := s.dev.opSeq + 1 }).enter (s.nextPending r)) := by
  have here : (reqDev r.w0 != s.dev.num) = false := by simp [near]
  cases released : s.released r.rel with
  | false => simp [execRequestAccept, head, released]
  | true =>
    simp only [execRequestAccept, head, here, released]
    rfl

end

/-- Settles O47: the checks are taken in their order, a form that passes them pushes one request, and acceptance
enters the oldest request of a FIFO as `State.enter` makes it. -/
theorem copyRequests : Obligations.CopyRequests := by
  unfold Obligations.CopyRequests
  intro s s1 rd rs1 xs a p c k x w far remote src dst
  refine ⟨?checks, ?issue, ?stat, ?accept⟩
  case checks =>
    intro formed stamp tgt deckle reads writes apart notice
    have reg (i : Nat) : (s.ctx p).xs xs i = x s i := congrArg (s.ctx p).reg (xsReg_eq xs i)
    exact State.checkRequest_plain (congrArg capAddr (reg 0)) (reg 1) (reg 2) formed stamp tgt deckle reads writes apart
      notice
  case issue =>
    intro ready written
    have w0 : capAddr ((s.ctx p).xs xs 0) = w := congrArg (fun r => capAddr ((s.ctx p).reg r)) (xsReg_eq xs 0)
    have waits := (exec_cpost ..).trans (execCpost_checked ready written)
    have answers := (exec_cpostNb ..).trans (execCpostNb_checked ready written)
    refine ⟨fun bad => ?_, fun u passes => ⟨fun full => ?_, fun room => ?_⟩⟩
    · rw [State.checkRequest_malformed (w0 ▸ bad)] at waits answers
      exact ⟨waits, answers⟩
    · rw [passes, Tri.bind_val, if_pos full] at waits answers
      exact ⟨waits, answers⟩
    · intro i form
      rw [passes, Tri.bind_val, if_neg (Nat.not_le.mpr room)] at waits answers
      have pushed : exec i s =
          .next (s.wrote (u.pushRequest p xs).2 rd (dataReg (BitVec.ofNat 64 (u.core p.coreIx).nextSeq))) := by
        simp only [List.mem_cons, List.not_mem_nil, or_false] at form
        rcases form with rfl | rfl
        · exact waits
        · exact answers
      have reg (j : Nat) : capAddr ((u.ctx p).xs xs j) = capAddr (x u j) :=
        congrArg (fun r => capAddr ((u.ctx p).reg r)) (xsReg_eq xs j)
      obtain ⟨ctx, fifo, next, sent⟩ := u.pushRequest_fields p xs
      refine ⟨_, u.request p xs (u.core p.coreIx).nextSeq, pushed, fifo, next, rfl, reg 0, ?_, ?_, ?_, rfl, rfl, rfl,
        fun h0 h29 => ?_, ?_, ?_⟩
      · exact congrArg (u.ctx p).reg (xsReg_eq xs 1)
      · exact congrArg (u.ctx p).reg (xsReg_eq xs 2)
      · exact congrArg (u.ctx p).reg (xsReg_eq xs 3)
      · rw [State.wrote_ctx]
        exact Ctx.reg_result_same h0 h29
      · rw [State.wrote_ctx, ctx]
        exact congrArg (· + 4) (Ctx.result_pc ..)
      · exact fun silent => sent (Eq.trans (congrArg reqNotify (reg 0)) silent)
  case stat =>
    intro ready ha n
    have popped := (State.src_popped ha).1
    refine (exec_cstat ..).trans (exe1_ok ready ha ?_)
    simp only [State.popped_cores popped, Core.statusOf]
    rfl
  case accept =>
    intro q r rest head near
    have taken := (exec_requestAccept (s := s) q).trans (execRequestAccept_head head near)
    refine ⟨fun held => taken.trans (if_pos held), ?_⟩
    intro new
    have same : s.nextPending r = new := rfl
    rw [same] at taken
    refine ⟨fun tgt wrenq deckle => ?_, fun va released lacks => ?_, fun released holds => ?_⟩
    · simp [State.acceptMissing, State.acceptAreas, Pending.op, new, tgt, wrenq, deckle]
    · rw [if_neg (by simp [released]), lacks] at taken
      exact taken
    · rw [if_neg (by simp [released]), holds] at taken
      obtain ⟨e, entered, ⟨req, engine, role, far⟩, err, len⟩ := State.enter_near (p := new)
        (s := (s.setCore q.coreIx { s.core q.coreIx with fifo := rest }).setDev
          { s.dev with opSeq := s.dev.opSeq + 1 }) rfl
      rw [entered] at taken
      refine ⟨_, e, taken, ?_, ?_, req, engine.trans ?_, role, far, fun tgt wrenq deckle => ?_⟩
      · simp [State.setDev, State.core, State.setCore]
      · simp only [State.setDev, State.setCore]
      · simp [new, State.engineFor, near]
      · rw [err, len, State.withAreas_plain (p := new) tgt wrenq deckle]
        exact ⟨rfl, rfl⟩

end Sys2Proof.Machine
end

section
/-! PROOFS. What engines access. -/

namespace Sys2Proof.Machine

/-! ## A request of this device at its engine -/

/-- A request of this device, for this device, that has met no error and still has payload steps to take. -/
structure Pending.AtWork (q : Pending) : Prop where
  err : q.err = none
  role : q.role = .own
  near : q.far = false
  going : q.finishing = false
  arrival : q.arrival = none

section
variable {q : Pending} (role : q.role = .own) (near : q.far = false)
include role near

theorem Pending.sends_near : q.sends = false := by simp [Pending.sends, role, near]

omit role in
theorem Pending.gets_near : q.gets = false := by simp [Pending.gets, near]

/-- No record of this device's Damper is of it. -/
theorem State.gotBytes_near (s : State) : s.gotBytes q = s := by
  have none_of : (s.dev.damper.find? fun r => r.of q) = none := by
    simp [DRec.of, role, Pending.gets_near near]
  simp [State.gotBytes, none_of]

end

theorem Pending.readable_of_none {q : Pending} (h : q.err = none) : q.readable = 2 ^ 32 := by simp [Pending.readable, h]

theorem State.endErr_of_none {q : Pending} (h : q.err = none) (s : State) : s.endErr q = s := by simp [State.endErr, h]

/-- Its Read and Write steps wait for no checks of another device's request. -/
theorem Pending.AtWork.engReady {q : Pending} (h : q.AtWork) (s k : State) : s.engReady q k = k := by
  simp [State.engReady, h.arrival, Pending.rangeDue, h.role]

/-! ## Places and bytes -/

section
variable {s t : State} (dies : t.dies = s.dies)
include dies

theorem State.peek_congr (d z n : Nat) : t.peek d z n = s.peek d z n := by
  induction n generalizing z with
  | zero => rfl
  | succ n ih => simp only [State.peek, ih, State.cell_congr dies]

theorem State.peek64_congr : t.peek64 = s.peek64 := by
  funext d z
  rw [State.peek64, State.peek64, State.peek_congr dies]

theorem State.walkFrom_congr (d va tbl l : Nat) : t.walkFrom d va tbl l = s.walkFrom d va tbl l := by
  induction l generalizing tbl with
  | zero => rw [State.walkFrom, State.walkFrom, State.peek64_congr dies]
  | succ l ih => simp only [State.walkFrom, State.peek64_congr dies, ih]

variable (ctbase : t.dev.ctbase = s.dev.ctbase) (pages : t.dev.pages = s.dev.pages)
include ctbase pages

theorem State.heldWalk_congr : t.heldWalk = s.heldWalk := by
  funext key d part va
  simp only [State.heldWalk, State.walk, State.ctbaseOf, ctbase, pages, State.peek64_congr dies,
    State.walkFrom_congr dies]

/-- What a unit accesses depends on the dies, the tables and the pages that units hold. -/
theorem State.unitPlace_congr (access : t.dev.access = s.dev.access) : t.unitPlace = s.unitPlace := by
  have permitted : t.permitted = s.permitted := by
    funext target part unit perm
    simp only [State.permitted, access]
  unfold State.unitPlace
  rw [permitted, State.heldWalk_congr dies ctbase pages]

end

/-- A free value used up changes no place. -/
@[simp] theorem State.engReach_fresh (s : State) (q : Pending) (need : Need) (a n : Nat) :
    s.fresh.2.engReach q need a n = s.engReach q need a n := by
  have place : s.fresh.2.unitPlace = s.unitPlace := State.unitPlace_congr rfl rfl rfl rfl
  induction n generalizing a with
  | zero => rfl
  | succ n ih => simp only [State.engReach, ih, place]

@[simp] theorem State.engMissing_fresh (s : State) (q : Pending) (a n : Nat) :
    s.fresh.2.engMissing q a n = s.engMissing q a n := rfl

/-- An access that finds a place for every byte is of as many bytes. -/
theorem State.engReach_length {s : State} {q : Pending} {need : Need} {a n : Nat}
    (h : (s.engReach q need a n).2 = none) : (s.engReach q need a n).1.length = n := by
  induction n generalizing a with
  | zero => rfl
  | succ n ih =>
    revert h
    unfold State.engReach
    split
    · exact fun h => congrArg (· + 1) (ih h)
    · exact fun h => congrArg (· + 1) (ih h)
    · exact fun h => nomatch h

/-- Bytes at places of this device that are not poisoned. -/
theorem State.cleanBytes_places {s : State} : ∀ {qs : List Nat} {k : Nat},
    (∀ z ∈ qs, s.cell (homeDie z) (poisonPlace z) = 0#8) →
    s.cleanBytes k (qs.map some) = qs.map fun z => s.cell (homeDie z) z
  | [], _, _ => rfl
  | z :: qs, k, h => by
    have clean : (s.cell (homeDie z) (poisonPlace z) != 0#8) = false := by simp [h z]
    have rest := State.cleanBytes_places (k := k + 1) fun y hy => h y (List.mem_cons_of_mem z hy)
    simp [State.cleanBytes, clean, rest]

/-- The cells of bytes whose places are all of this device. -/
theorem filterMap_zip_places : ∀ (qs : List Nat) (bs : List Byte),
    ((qs.map some).zip bs).filterMap (fun (q, b) => q.map fun q => (q, b)) = qs.zip bs
  | [], _ => rfl
  | _ :: _, [] => rfl
  | q :: qs, b :: bs => by simp [filterMap_zip_places qs bs]

/-- Cells of one home die are one run. -/
theorem dieRuns_one {d : Nat} : ∀ {l : List (Nat × Byte)}, l ≠ [] → (∀ x ∈ l, homeDie x.1 = d) → dieRuns l = [l]
  | [], h, _ => absurd rfl h
  | [x], _, _ => rfl
  | x :: y :: l, _, h => by
    have rest : dieRuns (y :: l) = [y :: l] :=
      dieRuns_one (List.cons_ne_nil _ _) fun z hz => h z (List.mem_cons_of_mem x hz)
    have same : homeDie x.1 = homeDie y.1 := (h x (by simp)).trans (h y (by simp)).symm
    simp [dieRuns.eq_2 x (y :: l), rest, same]

/-- Bytes installed at places of one home die are one write there. -/
theorem State.engInstall_one {s : State} {m : Map Nat} {qs : List Nat} {bs : List Byte} {d : Nat} (some_place : qs ≠ [])
    (home : ∀ z ∈ qs, homeDie z = d) (len : bs.length = qs.length) :
    s.engInstall m (qs.zip bs) = (noteWrites m qs (s.writeAt d (plainCells (qs.zip bs)) false []).dev.wseq,
      s.writeAt d (plainCells (qs.zip bs)) false []) := by
  have places : (qs.zip bs).map (·.1) = qs := List.map_fst_zip len.ge
  have cells : qs.zip bs ≠ [] := fun h => some_place (by rw [← places, h]; rfl)
  have run := dieRuns_one (d := d) cells fun x hx => home x.1 (List.of_mem_zip hx).1
  have first : homeDie (qs.headD 0) = d := by
    obtain ⟨z, rest, rfl⟩ := List.exists_cons_of_ne_nil some_place
    exact home z (by simp)
  simp only [State.engInstall, run, List.foldl_cons, List.foldl_nil, places, first]

end Sys2Proof.Machine
end

section
/-! PROOFS. Read steps of copy requests. -/

namespace Sys2Proof.Machine

/-! ## Pages -/

section
variable {s : State} {q : Pending} {a n : Nat} {k : State}

/-- A step whose translations the engine does not hold waits for the walk of one. -/
theorem State.engPages_missing {va : Nat} (h : s.engMissing q a n = some va) :
    s.engPages q a n k = s.askUnit q.tlbKey q.die q.req.part va := by
  simp only [State.engPages, h]

theorem State.engPages_held (h : s.engMissing q a n = none) : s.engPages q a n k = k := by
  simp only [State.engPages, h]

end

/-! ## Read -/

/-- A read of places of this device that are not poisoned. -/
theorem State.engRead_places {s : State} {q : Pending} {a n : Nat} {qs : List Nat} (some_place : qs ≠ [])
    (found : s.engReach q .r a n = (qs.map some, none)) (clean : ∀ z ∈ qs, s.cell (homeDie z) (poisonPlace z) = 0#8) :
    s.engRead q a n = (.bytes (qs.map fun z => s.cell (homeDie z) z), s) := by
  have device : (qs.map some).contains none = false := by simp
  simp only [State.engRead, found, State.cleanBytes_places clean, device, Bool.false_eq_true, if_false]
  obtain ⟨z, rest, rfl⟩ := List.exists_cons_of_ne_nil some_place
  rfl

section
variable {s : State} {e : EngineId} {i : Nat} {q : Pending} {o n : Nat} (pend : s.pend e i = some q) (work : q.AtWork)
  (next : q.nextRead s.fresh.1.toNat = some (o, n))
include pend work next

/-- A Read takes the chunk that a free value picks. -/
theorem execCopyRead_chunk : execCopyRead e i s = .next (s.engPages q (q.srcAt o) n
    (match s.fresh.2.engRead q (q.srcAt o) n with
      | (.err c, s2) => s2.readFailed q c o
      | (.bytes bs, s2) => s2.setPend (q.got o bs))) := by
  simp only [execCopyRead, pend, work.engReady, next] <;> rfl

/-- What it reads comes from the views of the home dies. -/
theorem execCopyRead_bytes {qs : List Nat} (some_place : qs ≠ []) (held : s.engMissing q (q.srcAt o) n = none)
    (found : s.engReach q .r (q.srcAt o) n = (qs.map some, none))
    (clean : ∀ z ∈ qs, s.cell (homeDie z) (poisonPlace z) = 0#8) :
    execCopyRead e i s = .next (s.fresh.2.setPend { q with
      unread := cutSpan q.unread o (o + qs.length)
      chunks := q.chunks ++ [(o, qs.map fun z => s.cell (homeDie z) z)] }) := by
  have read : s.fresh.2.engRead q (q.srcAt o) n = (.bytes (qs.map fun z => s.cell (homeDie z) z), s.fresh.2) :=
    State.engRead_places some_place ((State.engReach_fresh ..).trans found) clean
  rw [execCopyRead_chunk pend work next, State.engPages_held held, read]
  simp [Pending.got, Pending.sends_near work.role work.near]

end

/-! ### The chunk of a Read -/

/-- A number of bytes of one block, at its end. -/
theorem Pending.inBlock_near {q : Pending} (near : q.far = false) (a : Nat) : q.inBlock a = 32 - a % 32 := by
  simp [Pending.inBlock, Pending.block, near]

/-- A chunk lies within a block of the source, and of the destination but for a reduction's and a CBFILL's. -/
theorem Pending.chunkAt_le {q : Pending} {x lo hi : Nat} (role : q.role = .own) (near : q.far = false) :
    (q.chunkAt x lo hi).2 ≤ 32 - q.srcAt (q.chunkAt x lo hi).1 % 32 ∧
      (q.op ≠ 3 → q.op ≠ 6 → (q.chunkAt x lo hi).2 ≤ 32 - q.dstAt (q.chunkAt x lo hi).1 % 32) := by
  unfold Pending.chunkAt
  extract_lets reduce whole src back0 back o n0 n1
  have source : n1 ≤ 32 - q.srcAt o % 32 := by
    rw [← Pending.inBlock_near near]
    refine le_trans (?_ : n1 ≤ n0) (min_le_right _ _)
    by_cases h : whole = true
    · exact (if_pos h).le.trans (min_le_left _ _)
    · exact (if_neg h).le
  refine ⟨?_, fun h3 h6 => ?_⟩
  · by_cases h : reduce = true
    · exact (if_pos h).le.trans source
    · exact (if_neg h).le.trans ((min_le_left _ _).trans source)
  · have plain : ¬reduce = true := by simp [reduce, h3]
    have place : q.dstCut o = q.dstAt o := by simp [Pending.dstCut, role, h6]
    refine (if_neg plain).le.trans ((min_le_right _ _).trans ?_)
    rw [place, Pending.inBlock_near near]

/-- A place some bytes before another in the same block of `m`. -/
theorem sub_mod_of_le {a b m : Nat} (h : b ≤ a % m) : (a - b) % m = a % m - b := by
  have le : b ≤ a := h.trans (Nat.mod_le a m)
  rcases Nat.eq_zero_or_pos m with rfl | pos
  · simp
  · rw [Nat.mod_eq_iff]
    refine .inr ⟨(Nat.sub_le _ _).trans_lt (Nat.mod_lt a pos), a / m, ?_⟩
    have := Nat.div_add_mod a m
    omega

theorem sub_div_of_le {a b m : Nat} (h : b ≤ a % m) (pos : 0 < m) : (a - b) / m = a / m := by
  have whole := Nat.div_add_mod a m
  have part := Nat.div_add_mod (a - b) m
  rw [sub_mod_of_le h] at part
  have le : b ≤ a := h.trans (Nat.mod_le a m)
  exact Nat.eq_of_mul_eq_mul_left pos (by omega)

/-- The bytes of an element lie side by side at the source. -/
theorem Pending.srcAt_sub {q : Pending} {x b : Nat} (elem : 0 < q.elem) (inside : q.op = 5 → b ≤ x % q.elem)
    (hx : b ≤ x) :
    q.srcAt (x - b) + b = q.srcAt x := by
  by_cases h : q.op = 5
  · have hb := inside h
    simp only [Pending.srcAt, h, if_true, sub_div_of_le hb elem, sub_mod_of_le hb]
    omega
  · simp only [Pending.srcAt, if_neg h]
    omega

theorem Pending.dstCut_sub {q : Pending} {x b : Nat} (hx : b ≤ x) : q.dstCut (x - b) + b = q.dstCut x := by
  unfold Pending.dstCut Pending.dstAt
  split <;> omega

/-- From a place that lies `b` bytes before another in the same block, the block goes on for more than `b` bytes. -/
theorem Pending.lt_inBlock {q : Pending} {a c b : Nat} (near : q.far = false) (apart : a + b = c) (same : b ≤ c % 32) :
    b < q.inBlock a := by
  have rem : a % 32 = c % 32 - b := by rw [← sub_mod_of_le same, ← apart, Nat.add_sub_cancel]
  rw [Pending.inBlock_near near, rem]
  omega

/-- The byte that a chunk is made for lies in it. -/
theorem Pending.chunkAt_holds {q : Pending} {x lo hi : Nat} (elem : 0 < q.elem) (near : q.far = false) (hlo : lo ≤ x)
    (hhi : x < hi) : (q.chunkAt x lo hi).1 ≤ x ∧ x < (q.chunkAt x lo hi).1 + (q.chunkAt x lo hi).2 := by
  unfold Pending.chunkAt
  extract_lets reduce whole src back0 back o n0 n1
  have blk : q.block = 32 := by simp [Pending.block, near]
  -- the chunk begins `b` bytes before the byte, in the same block of the source, of the destination and in its element
  obtain ⟨b, start, before, hb⟩ : ∃ b, o = x - b ∧ b ≤ x ∧ b ≤ back := ⟨x - o, by omega, by omega, by omega⟩
  have source : b ≤ q.srcAt x % 32 ∧ (whole = true → b ≤ x % q.elem) := by
    have le : b ≤ back0 := by
      by_cases h : reduce = true
      · exact hb.trans (if_pos h).le
      · exact (hb.trans (if_neg h).le).trans (min_le_left _ _)
    rw [← blk]
    by_cases h : whole = true
    · have le := le.trans (if_pos h).le
      exact ⟨le.trans (min_le_left _ _), fun _ => le.trans (min_le_right _ _)⟩
    · exact ⟨le.trans (if_neg h).le, fun h' => absurd h' h⟩
  have dest : ¬reduce = true → b ≤ q.dstCut x % 32 := fun h => by
    rw [← blk]
    exact (hb.trans (if_neg h).le).trans (min_le_right _ _)
  have more0 : b < n0 := by
    have inside : q.op = 5 → b ≤ x % q.elem := fun h5 => source.2 (by simp [whole, h5])
    refine lt_min (by omega) ?_
    rw [start]
    exact Pending.lt_inBlock near (Pending.srcAt_sub elem inside before) source.1
  have more1 : b < n1 := by
    by_cases h : whole = true
    · have rem : o % q.elem = x % q.elem - b := start ▸ sub_mod_of_le (source.2 h)
      have lt := Nat.mod_lt x elem
      have le := source.2 h
      refine (lt_min more0 ?_).trans_le (if_pos h).ge
      omega
    · exact more0.trans_le (if_neg h).ge
  refine ⟨by simp only; omega, ?_⟩
  have more : b < if reduce = true then n1 else min n1 (q.inBlock (q.dstCut o)) := by
    by_cases h : reduce = true
    · exact more1.trans_le (if_pos h).ge
    · refine (lt_min more1 ?_).trans_le (if_neg h).ge
      rw [start]
      exact Pending.lt_inBlock near (Pending.dstCut_sub before) (dest h)
  simp only
  omega

/-! ### Every unread byte may be picked -/

/-- Some number picks each byte of ranges. -/
theorem spanAt_mem {l : List (Nat × Nat)} {x : Nat} : ∀ {y : Nat × Nat}, y ∈ l → y.1 ≤ x → x < y.2 →
    ∃ i < (l.map fun z => z.2 - z.1).sum, ∃ lo hi, spanAt l i = some (x, lo, hi) ∧ lo ≤ x ∧ x < hi := by
  intro y hy below above
  induction l with
  | nil => cases hy
  | cons z l ih =>
    obtain ⟨a, b⟩ := z
    rcases List.mem_cons.mp hy with rfl | hy
    · refine ⟨x - a, ?_, a, b, ?_, below, above⟩
      · simp only at below above
        simp only [List.map_cons, List.sum_cons]
        omega
      · simp only at below above
        rw [spanAt, if_pos (by omega), Nat.add_sub_cancel' below]
    · obtain ⟨i, hi, lo, up, picks, hlo, hup⟩ := ih hy
      refine ⟨(b - a) + i, ?_, lo, up, ?_, hlo, hup⟩
      · simp only [List.map_cons, List.sum_cons]
        omega
      · rw [spanAt, if_neg (by omega), Nat.add_sub_cancel_left, picks]

/-- A request of this device may read every byte that it has not read. -/
theorem Pending.readSpans_atWork {q : Pending} (work : q.AtWork) :
    q.readSpans = clipSpan q.unread 0 (min q.len (2 ^ 32)) := by
  simp [Pending.readSpans, work.going, Pending.gets_near work.near, work.role, work.arrival,
    Pending.sends_near work.role work.near, Pending.readable_of_none work.err]

/-- Every unread byte is in a chunk that some free value picks. -/
theorem Pending.nextRead_reaches {q : Pending} (work : q.AtWork) {x : Nat} (elem : 0 < q.elem) (len : x < q.len)
    (top : x < 2 ^ 32) (unread : ∃ y ∈ q.unread, y.1 ≤ x ∧ x < y.2) :
    ∃ v o n : Nat, q.nextRead v = some (o, n) ∧ o ≤ x ∧ x < o + n := by
  obtain ⟨⟨a, b⟩, mem, below, above⟩ := unread
  simp only at below above
  have clipped : (max a 0, min b (min q.len (2 ^ 32))) ∈ clipSpan q.unread 0 (min q.len (2 ^ 32)) := by
    refine List.mem_filter.mpr ⟨List.mem_map.mpr ⟨(a, b), mem, rfl⟩, ?_⟩
    simp only [decide_eq_true_eq]
    omega
  obtain ⟨i, hi, lo, up, picks, hlo, hup⟩ := spanAt_mem (x := x) clipped (by simp only; omega) (by simp only; omega)
  refine ⟨i, _, _, ?_, Pending.chunkAt_holds elem work.near hlo hup⟩
  simp only [Pending.nextRead, Pending.readSpans_atWork work]
  rw [Nat.mod_eq_of_lt (hi.trans_le (le_max_right _ _)), picks]
  rfl

theorem Pending.nextRead_le {q : Pending} (role : q.role = .own) (near : q.far = false) {v o n : Nat}
    (next : q.nextRead v = some (o, n)) :
    n ≤ 32 - q.srcAt o % 32 ∧ (q.op ≠ 3 → q.op ≠ 6 → n ≤ 32 - q.dstAt o % 32) := by
  obtain ⟨⟨x, lo, hi⟩, -, chunk⟩ := Option.map_eq_some_iff.mp next
  have le := Pending.chunkAt_le (x := x) (lo := lo) (hi := hi) role near
  rw [show q.chunkAt x lo hi = (o, n) from chunk] at le
  exact le

end Sys2Proof.Machine
end

section
/-! PROOFS. Write steps, elements of reductions, slots and stamps. -/

namespace Sys2Proof.Machine

/-! ## Write -/

/-- Bytes installed for a request: one write at their home die, and nothing more of them to be written. -/
def State.put (s : State) (d : Nat) (qs : List Nat) (bs : List Byte) : State :=
  s.writeAt d (plainCells (qs.zip bs)) false []

/-- A request of this device that has met no error goes on as it is after a step. -/
theorem State.advanced_near {q : Pending} (role : q.role = .own) (near : q.far = false) (err : q.err = none)
    (s : State) :
    (s.gotBytes q).endErr q = s := by
  rw [State.gotBytes_near role near, State.endErr_of_none err]

/-- A piece that is ready is installed as one write. -/
theorem State.installReady_one {s : State} {q : Pending} {j o m d : Nat} {qs : List Nat} {bs : List Byte}
    (role : q.role = .own) (near : q.far = false) (err : q.err = none) (some_place : qs ≠ [])
    (home : ∀ z ∈ qs, homeDie z = d) (piece : q.ready[j]? = some (o, m, qs.zip bs)) (len : bs.length = qs.length) :
    s.installReady q j = (s.put d qs bs).setPend { q with
      writes := noteWrites q.writes qs (s.put d qs bs).dev.wseq, unwritten := cutSpan q.unwritten o (o + m)
      ready := q.ready.eraseIdx j } := by
  simp only [State.installReady, piece, State.engInstall_one some_place home len]
  refine State.advanced_near ?_ ?_ ?_ _
  exacts [role, near, err]

/-- A request once the destination of its piece at `o` has passed its checks: the piece is ready. -/
def Pending.passed (q : Pending) (o : Nat) (qs : List Nat) (bs : List Byte) : Pending := { q with
  chunks := trimPieces q.chunks o (o + qs.length), checkedTo := max q.checkedTo (o + qs.length)
  ready := q.ready ++ [(o, qs.length, qs.zip bs)] }

/-- A piece passes where its places are found. -/
theorem State.checkPieces_one {t : State} {q : Pending} {o : Nat} {qs : List Nat} {bs : List Byte} (op : q.op ≠ 6)
    (some_place : qs ≠ []) (found : t.engReach q .w (q.dstAt o) bs.length = (qs.map some, none)) :
    t.checkPieces q [(o, bs)] = (q.passed o qs bs, true) := by
  have write : (q.op != 6) = true := by simpa using op
  have more : qs.length ≠ 0 := by simpa using some_place
  simp only [State.checkPieces, write, if_true, found, Option.map_none, List.length_map, if_neg more,
    filterMap_zip_places]
  rfl

section
variable {s : State} {e : EngineId} {i : Nat} {q : Pending} (pend : s.pend e i = some q) (work : q.AtWork)
  (h3 : q.op ≠ 3) (h6 : q.op ≠ 6)

/-! ### What may be written now -/

/-- The pieces that one Write takes each lie in one block of the destination. -/
theorem cutPiece_le {room : Nat → Nat} {n : Nat} {x : Nat × List Byte} :
    ∀ y ∈ cutPiece room n x, y.2.length ≤ room y.1 := by
  induction n generalizing x with
  | zero => exact fun y hy => nomatch hy
  | succ n ih =>
    obtain ⟨o, bs⟩ := x
    intro y hy
    unfold cutPiece at hy
    split at hy
    · cases hy
    · rcases List.mem_cons.mp hy with rfl | hy
      · exact List.length_take_le _ _
      · exact ih y hy

theorem piecesFrom_head {l : List (Nat × List Byte)} {n o : Nat} {x : Nat × List Byte}
    (h : (piecesFrom l n o).head? = some x) :
    x.1 = o ∧ x ∈ l := by
  cases n with
  | zero => cases h
  | succ n =>
    unfold piecesFrom at h
    split at h
    · next y found =>
      cases h
      exact ⟨by simpa using List.find?_some found, List.mem_of_find?_eq_some found⟩
    · cases h

include work in
/-- The destination of the first byte that has not passed its checks is checked next. -/
theorem State.toCheck_head {t : State} {o : Nat} {bs : List Byte} (op : q.op ≠ 6)
    (h : (t.toCheck q).head? = some (o, bs)) :
    o = q.checkedTo ∧ bs.length ≤ 32 - q.dstAt o % 32 := by
  have unfolded : t.toCheck q = _ := if_neg (by simp [work.role])
  rw [unfolded] at h
  obtain ⟨first, mem⟩ := piecesFrom_head h
  refine ⟨first, ?_⟩
  obtain ⟨l, hl, hx⟩ := List.mem_flatten.mp mem
  obtain ⟨x, -, rfl⟩ := List.mem_map.mp hl
  have le := cutPiece_le _ hx
  simpa [State.writeRoom, op, Pending.inBlock_near work.near] using le

/-! ### The step -/

include pend work h3 h6

/-- A Write installs what a free value picks. -/
theorem execCopyWrite_picks : execCopyWrite e i s = .next (s.fresh.2.installOne q s.fresh.1.toNat) := by
  simp only [execCopyWrite, pend, work.going, h3, h6, work.engReady, Pending.sends_near work.role work.near,
    Bool.false_or, decide_false, Bool.false_and, Bool.false_eq_true, if_false]

/-- With nothing read that may be written it leaves things as they are. -/
theorem execCopyWrite_none (nothing : q.ready.length + (s.fresh.2.toCheck q).length = 0) :
    execCopyWrite e i s = .next s.fresh.2 := by
  rw [execCopyWrite_picks pend work h3 h6]
  unfold State.installOne
  extract_lets l n j
  rw [if_pos nothing, State.endErr_of_none work.err]

variable {qs : List Nat} {d o : Nat} {bs : List Byte}

/-- A piece whose destination has passed is installed. -/
theorem execCopyWrite_ready {m : Nat} (some_place : qs ≠ []) (home : ∀ z ∈ qs, homeDie z = d)
    (piece : q.ready[s.fresh.1.toNat % max 1 (q.ready.length + (s.fresh.2.toCheck q).length)]? = some (o, m, qs.zip bs))
    (len : bs.length = qs.length) :
    execCopyWrite e i s = .next ((s.fresh.2.put d qs bs).setPend { q with
      writes := noteWrites q.writes qs (s.fresh.2.put d qs bs).dev.wseq, unwritten := cutSpan q.unwritten o (o + m)
      ready := q.ready.eraseIdx (s.fresh.1.toNat % max 1 (q.ready.length + (s.fresh.2.toCheck q).length)) }) := by
  rw [execCopyWrite_picks pend work h3 h6,
    ← State.installReady_one work.role work.near work.err some_place home piece len]
  have lt := (List.getElem?_eq_some_iff.mp piece).1
  unfold State.installOne
  extract_lets l n j
  rw [if_neg (by omega), if_pos lt]

/-- A piece that is next to be checked is checked, once the engine holds the translations that this needs. -/
theorem execCopyWrite_checks (first : (s.fresh.2.toCheck q).head? = some (o, bs))
    (pick : s.fresh.1.toNat % max 1 (q.ready.length + (s.fresh.2.toCheck q).length) = q.ready.length) :
    execCopyWrite e i s = .next (s.fresh.2.engPages q (q.dstAt o) bs.length
      (match s.fresh.2.checkPieces q [(o, bs)] with
        | (p1, true) => s.fresh.2.installReady p1 (p1.ready.length - 1)
        | (p1, false) => (s.fresh.2.setPend p1).endErr p1)) := by
  rw [execCopyWrite_picks pend work h3 h6]
  unfold State.installOne
  extract_lets l n j due pages
  obtain ⟨rest, hl⟩ : ∃ rest, l = (o, bs) :: rest := by
    obtain ⟨x, rest, hl⟩ := List.exists_cons_of_ne_nil (l := l) fun h => by simp [l, h] at first
    exact ⟨rest, by rw [hl]; congr; simpa [l, hl] using first⟩
  have hj : j = n := pick
  have taken : due = [(o, bs)] := by simp [due, hl, hj, work.role]
  have wait (k : State) : pages k = s.fresh.2.engPages q (q.dstAt o) bs.length k := by simp [pages, h6, taken]
  rw [if_neg (by simp [hl]), if_neg (by omega), taken, wait] <;> rfl

theorem execCopyWrite_passes (some_place : qs ≠ []) (home : ∀ z ∈ qs, homeDie z = d)
    (first : (s.fresh.2.toCheck q).head? = some (o, bs))
    (pick : s.fresh.1.toNat % max 1 (q.ready.length + (s.fresh.2.toCheck q).length) = q.ready.length)
    (held : s.fresh.2.engMissing q (q.dstAt o) bs.length = none)
    (found : s.fresh.2.engReach q .w (q.dstAt o) bs.length = (qs.map some, none)) :
    execCopyWrite e i s = .next ((s.fresh.2.put d qs bs).setPend { q with
      writes := noteWrites q.writes qs (s.fresh.2.put d qs bs).dev.wseq
      unwritten := cutSpan q.unwritten o (o + bs.length)
      chunks := trimPieces q.chunks o (o + bs.length), checkedTo := max q.checkedTo (o + bs.length) }) := by
  have len : qs.length = bs.length := by
    have := State.engReach_length (congrArg Prod.snd found)
    rwa [found, List.length_map] at this
  rw [execCopyWrite_checks pend work h3 h6 first pick, State.engPages_held held,
    State.checkPieces_one h6 some_place found]
  have piece : (q.passed o qs bs).ready[(q.passed o qs bs).ready.length - 1]? = some (o, qs.length, qs.zip bs) := by
    simp [Pending.passed]
  refine congrArg Host.Outcome.next ((State.installReady_one (q := q.passed o qs bs) work.role work.near work.err
    some_place home piece len.symm).trans ?_)
  simp [Pending.passed, len, List.eraseIdx_append_of_length_le]

end

/-! ## A reduction's element -/

@[simp] theorem length_piecesAt (l : List (Nat × List Byte)) (o n : Nat) : (piecesAt l o n).length = n := by
  simp [piecesAt]

section
variable {s : State} {e : EngineId} {i : Nat} {q : Pending} (pend : s.pend e i = some q) (work : q.AtWork)
  (op : q.op = 3) (plain : reqOrdred q.req.w0 = false) (more : q.wrote < q.len) (low : q.wrote < 2 ^ 32)
  (read : meets q.unread q.wrote (q.wrote + q.elem) = false)
include pend work op plain more low read

/-- The first element that is not written is updated next. -/
theorem execReduceElement_next : execReduceElement e i s = .next (s.engPages q (q.dstAt q.wrote) q.elem
    (if !s.elemsCurrent q (q.dstAt q.wrote) q.elem then s
      else
        match s.reduceElem q q.writes q.wrote (piecesAt q.chunks q.wrote q.elem) with
        | .inl c => (s.setPend (q.noteErr c q.wrote)).endErr (q.noteErr c q.wrote)
        | .inr (old, m, s1) =>
          let p1 := { q with
            writes := m, unwritten := cutSpan q.unwritten q.wrote (q.wrote + q.elem)
            chunks := trimPieces q.chunks q.wrote (q.wrote + q.elem), prior := BitVec.ofNat 64 old }
          ((s1.setPend p1).gotBytes p1).endErr p1)) := by
  have skip : (q.finishing || q.op != 3 || q.sends || reqOrdred q.req.w0 || q.arrival.isSome ||
      decide (q.len ≤ q.wrote)) = false := by
    simp [work.going, op, Pending.sends_near work.role work.near, plain, work.arrival, more]
  have open_ : (decide (q.readable ≤ q.wrote) || meets q.unread q.wrote (q.wrote + q.elem)) = false := by
    rw [Pending.readable_of_none work.err, read, Bool.or_false, decide_eq_false_iff_not]
    omega
  simp only [execReduceElement, pend, skip, open_, Bool.false_eq_true, if_false] <;> rfl

/-- Where the home view lacks the last write of the element the step waits. -/
theorem execReduceElement_waits (held : s.engMissing q (q.dstAt q.wrote) q.elem = none)
    (stale : s.elemsCurrent q (q.dstAt q.wrote) q.elem = false) : execReduceElement e i s = .next s := by
  rw [execReduceElement_next pend work op plain more low read, State.engPages_held held, stale]
  rfl

theorem execReduceElement_updates {qs : List Nat} {d : Nat} (some_place : qs ≠ []) (home : ∀ z ∈ qs, homeDie z = d)
    (held : s.engMissing q (q.dstAt q.wrote) q.elem = none)
    (found : s.engReach q .w (q.dstAt q.wrote) q.elem = (qs.map some, none))
    (clean : ∀ z ∈ qs, s.cell (homeDie z) (poisonPlace z) = 0#8)
    (current : s.elemsCurrent q (q.dstAt q.wrote) q.elem = true) :
    let old := leNat (qs.map fun z => s.cell (homeDie z) z)
    let new := leBytes (reduceOp (reqRtype q.req.w0) old (leNat (piecesAt q.chunks q.wrote q.elem))) q.elem
    execReduceElement e i s = .next ((s.put d qs new).setPend { q with
      writes := noteWrites q.writes qs (s.put d qs new).dev.wseq
      unwritten := cutSpan q.unwritten q.wrote (q.wrote + q.elem)
      chunks := trimPieces q.chunks q.wrote (q.wrote + q.elem), prior := BitVec.ofNat 64 old }) := by
  intro old new
  have len : qs.length = q.elem := by
    have := State.engReach_length (congrArg Prod.snd found)
    rwa [found, List.length_map] at this
  have device : (qs.map some).contains none = false := by simp
  have whole : ¬(qs.map fun z => s.cell (homeDie z) z).length < q.elem := by simp [len]
  have element : s.reduceElem q q.writes q.wrote (piecesAt q.chunks q.wrote q.elem) =
      .inr (old, noteWrites q.writes qs (s.put d qs new).dev.wseq, s.put d qs new) := by
    simp only [State.reduceElem, length_piecesAt, found, State.cleanBytes_places clean, if_neg whole, device,
      Bool.false_eq_true, if_false, filterMap_zip_places]
    rw [State.engInstall_one some_place home (by rw [leBytes_length, len])]
    rfl
  rw [execReduceElement_next pend work op plain more low read, State.engPages_held held, current, element]
  refine congrArg Host.Outcome.next (State.advanced_near ?_ ?_ ?_ _)
  exacts [work.role, work.near, work.err]

end

/-! ## A slot's put -/

/-- A slot whose bytes are written becomes filled. -/
theorem execCbfillSlotPut_full {s : State} {e : EngineId} {i n b : Nat} {q : Pending} {x : Cb} {sl : BitVec 8}
    (pend : s.pend e i = some q) (going : q.finishing = false) (slot : q.slot = some sl)
    (buffer : s.fillBuffer q = some (n, b, x)) (some_byte : q.slotBase < min q.len (q.slotBase + x.ssz.toNat))
    (written : meets q.unwritten q.slotBase (min q.len (q.slotBase + x.ssz.toNat)) = false) :
    execCbfillSlotPut e i s = .next ((s.setCore n ((s.core n).setCb b (x.takeFree (.fill q.id)))).setPend
      { q with slot := none, slotBase := min q.len (q.slotBase + x.ssz.toNat) }) := by
  have due : (!q.finishing && decide (q.slotBase < min q.len (q.slotBase + x.ssz.toNat)) &&
      !meets q.unwritten q.slotBase (min q.len (q.slotBase + x.ssz.toNat))) = true := by
    rw [going, written, decide_eq_true some_byte]
    rfl
  simp only [execCbfillSlotPut, pend, slot, buffer]
  rw [if_pos due]

/-! ## Stamp -/

section
variable {s : State} {e : EngineId} {i : Nat} {q : Pending} (pend : s.pend e i = some q) (work : q.AtWork)
  (here : q.stampHere = true) (done : q.payloadDone = true)
include pend work here done

omit work here done in
/-- A stamp waits until the payload is seen everywhere. -/
theorem execStamp_waits (unseen : s.seenEverywhere q.writes = false) : execStamp e i s = .next s := by
  simp [execStamp, pend, unseen]

theorem execStamp_seen (seen : s.seenEverywhere q.writes = true) :
    execStamp e i s = .next (s.engPages q (capAddr q.req.w3).toNat 8
      (match s.engReach q .w (capAddr q.req.w3).toNat 8 with
        | (_, some f) => s.setPend (q.fail f.code q.len)
        | (qs, none) =>
          let cells := (qs.zip (leBytes (BitVec.ofNat 64 q.req.seq).toNat 8)).filterMap fun (q, b) =>
            q.map fun q => (q, b)
          if cells = [] then s.setPend { q with finishing := true }
          else
            let s2 := s.writeAt (homeDie ((cells.map (·.1)).headD 0)) (plainCells cells) true q.writes
            s2.setPend { q with finishing := true, stamp := noteWrites [] (cells.map (·.1)) s2.dev.wseq })) := by
  have due : s.recordDue q = true := by simp [State.recordDue, work.role]
  have own : (q.role == EngRole.own) = true := by simp [work.role]
  simp only [execStamp, pend, work.going, here, done, due, seen, own, Bool.not_true, Bool.or_self,
    Bool.false_eq_true, if_false, if_true] <;> rfl

/-- It is then written as a release. -/
theorem execStamp_writes {qs : List Nat} {d : Nat} (some_place : qs ≠ []) (home : ∀ z ∈ qs, homeDie z = d)
    (seen : s.seenEverywhere q.writes = true) (held : s.engMissing q (capAddr q.req.w3).toNat 8 = none)
    (found : s.engReach q .w (capAddr q.req.w3).toNat 8 = (qs.map some, none)) :
    let u := s.writeAt d (plainCells (qs.zip (leBytes (BitVec.ofNat 64 q.req.seq).toNat 8))) true q.writes
    execStamp e i s = .next (u.setPend { q with finishing := true, stamp := noteWrites [] qs u.dev.wseq }) := by
  intro u
  have len : qs.length = 8 := by
    have := State.engReach_length (congrArg Prod.snd found)
    rwa [found, List.length_map] at this
  have places : (qs.zip (leBytes (BitVec.ofNat 64 q.req.seq).toNat 8)).map (·.1) = qs :=
    List.map_fst_zip (by rw [leBytes_length, len])
  have cells : ¬qs.zip (leBytes (BitVec.ofNat 64 q.req.seq).toNat 8) = [] := fun h =>
    some_place (by rw [← places, h]; rfl)
  have first : homeDie (qs.headD 0) = d := by
    obtain ⟨z, rest, rfl⟩ := List.exists_cons_of_ne_nil some_place
    exact home z (by simp)
  rw [execStamp_seen pend work here done seen, State.engPages_held held, found]
  simp only [filterMap_zip_places, if_neg cells, places, first]
  rfl

end

end Sys2Proof.Machine
end

section
/-! PROOFS. Ordered reductions. -/

namespace Sys2Proof.Machine

/-! ## Ordered reductions -/

section
variable {s : State} {e : EngineId} {i z : Nat} {q : Pending} (pend : s.pend e i = some q) (work : q.AtWork)
  (op : q.op = 3) (ordered : reqOrdred q.req.w0 = true) (read : q.unread = [])
  (held : s.engMissing q (q.dstAt 0) 1 = none)
  (place : s.unitPlace q.req.core q.die q.req.sup q.req.part q.unit .w (q.dstAt 0) = .at z)
include pend work op ordered read held place

/-- A contribution whose bytes are all read is staged at the home die of its destination, or its group goes on there. -/
theorem execOrderedReduceApply_read : execOrderedReduceApply e i s = .next
    (if !q.staged then s.stageOne q (homeDie z) z
      else
        let s1 := s.beginGroup (homeDie z) (rankGroup (capAddr q.req.w3)) z
        if (s1.die (homeDie z)).whole (rankGroup (capAddr q.req.w3)) z == [] then s1
        else s1.applyNext (homeDie z) (rankGroup (capAddr q.req.w3)) z) := by
  have due : (q.finishing || q.op != 3 || q.sends || !reqOrdred q.req.w0 || q.arrival.isSome || q.unread != []) =
      false := by
    simp [work.going, op, Pending.sends_near work.role work.near, ordered, work.arrival, read]
  have at_ : s.stagingAt q = .inr (homeDie z, z) := by simp only [State.stagingAt, place]
  simp only [execOrderedReduceApply, pend, due, Bool.false_eq_true, if_false, State.engPages_held held, at_]

theorem execOrderedReduceApply_stages (fresh : q.staged = false) :
    execOrderedReduceApply e i s = .next (s.stageOne q (homeDie z) z) := by
  rw [execOrderedReduceApply_read pend work op ordered read held place, fresh]
  rfl

section
variable (staged : q.staged = true)
include staged

theorem execOrderedReduceApply_goesOn : execOrderedReduceApply e i s = .next
    (if ((s.beginGroup (homeDie z) (rankGroup (capAddr q.req.w3)) z).die (homeDie z)).whole
        (rankGroup (capAddr q.req.w3)) z == [] then
        s.beginGroup (homeDie z) (rankGroup (capAddr q.req.w3)) z
      else (s.beginGroup (homeDie z) (rankGroup (capAddr q.req.w3)) z).applyNext (homeDie z)
        (rankGroup (capAddr q.req.w3)) z) := by
  rw [execOrderedReduceApply_read pend work op ordered read held place, staged]
  rfl

theorem execOrderedReduceApply_incomplete
    (waits : ((s.beginGroup (homeDie z) (rankGroup (capAddr q.req.w3)) z).die (homeDie z)).whole
      (rankGroup (capAddr q.req.w3)) z = []) :
    execOrderedReduceApply e i s = .next (s.beginGroup (homeDie z) (rankGroup (capAddr q.req.w3)) z) := by
  rw [execOrderedReduceApply_goesOn pend work op ordered read held place staged, if_pos (beq_iff_eq.mpr waits)]

theorem execOrderedReduceApply_applies {x : Staged}
    (next : nextRank (((s.beginGroup (homeDie z) (rankGroup (capAddr q.req.w3)) z).die (homeDie z)).whole
      (rankGroup (capAddr q.req.w3)) z) = some x) :
    execOrderedReduceApply e i s = .next ((s.beginGroup (homeDie z) (rankGroup (capAddr q.req.w3)) z).applyNext
      (homeDie z) (rankGroup (capAddr q.req.w3)) z) := by
  rw [execOrderedReduceApply_goesOn pend work op ordered read held place staged, if_neg]
  intro waits
  rw [eq_of_beq waits] at next
  cases next

end

end

/-- A contribution as it is staged. -/
def Pending.contribution (q : Pending) (z : Nat) : Staged :=
  let w := capAddr q.req.w3
  { req := q.id, group := rankGroup w, dest := z, rank := rankOf w, count := rankCount w, w0 := q.req.w0
    bytes := piecesAt q.chunks 0 q.len }

/-- The first contribution of a group is staged where the area has room. -/
theorem State.stageOne_first {s : State} {q : Pending} {d z : Nat}
    (first : (s.die d).group (rankGroup (capAddr q.req.w3)) z = [])
    (rank : rankOf (capAddr q.req.w3) < rankCount (capAddr q.req.w3))
    (room : ((s.die d).staged.map fun x => x.bytes.length).sum + q.len ≤ Config.stagingBytes d) :
    s.stageOne q d z = (s.setDie d { s.die d with staged := (s.die d).staged ++ [q.contribution z] }).setPend
      { q with staged := true, chunks := [] } := by
  unfold State.stageOne
  extract_lets w l mismatch x s1
  have empty : l = [] := first
  have fits : ¬(decide (rankCount w ≤ rankOf w) || mismatch || l.any fun x => x.rank == rankOf w) = true := by
    simp [mismatch, empty, w, rank]
  rw [if_neg fits, if_neg (Nat.not_lt.mpr room)]
  split
  · rw [empty]
    rfl
  · rfl

/-! ### A group taken together -/

/-- A staged list with one contribution taken. -/
def takeStaged (l : List Staged) (x : Staged) : List Staged :=
  l.map fun y => if y.req = x.req then { x with begun := true } else y

theorem takeStaged_keeps {l : List Staged} {x y : Staged} (h : y ∈ l) (other : y.req ≠ x.req) : y ∈ takeStaged l x :=
  List.mem_map.mpr ⟨y, h, if_neg other⟩

theorem foldl_takeStaged_keeps {xs : List Staged} {y : Staged} : ∀ {l : List Staged}, y ∈ l →
    (∀ x ∈ xs, y.req ≠ x.req) → y ∈ xs.foldl takeStaged l := by
  induction xs with
  | nil => exact fun h _ => h
  | cons x xs ih =>
    exact fun h other => ih (takeStaged_keeps h (other x (by simp))) fun x' hx => other x' (List.mem_cons_of_mem x hx)

/-- Each of some contributions of different requests is taken. -/
theorem foldl_takeStaged_takes {xs : List Staged} (distinct : xs.Pairwise fun a b => a.req ≠ b.req) :
    ∀ {l : List Staged}, (∀ x ∈ xs, ∃ y ∈ l, y.req = x.req) →
      ∀ x ∈ xs, { x with begun := true } ∈ xs.foldl takeStaged l := by
  induction xs with
  | nil => exact fun _ x hx => nomatch hx
  | cons x xs ih =>
    obtain ⟨head, rest⟩ := List.pairwise_cons.mp distinct
    intro l there y hy
    rcases List.mem_cons.mp hy with rfl | hy
    · obtain ⟨z, hz, same⟩ := there y (by simp)
      have now : { y with begun := true } ∈ takeStaged l y := List.mem_map.mpr ⟨z, hz, if_pos same⟩
      rw [List.foldl_cons]
      exact foldl_takeStaged_keeps now head
    · refine ih rest (fun x' hx => ?_) y hy
      obtain ⟨z, hz, same⟩ := there x' (List.mem_cons_of_mem x hx)
      by_cases h : z.req = x.req
      · exact ⟨{ x with begun := true }, List.mem_map.mpr ⟨z, hz, if_pos h⟩, h.symm.trans same⟩
      · exact ⟨z, takeStaged_keeps hz h, same⟩

theorem State.foldl_setStaged {d : Nat} {xs : List Staged} : ∀ {s : State},
    ((xs.foldl (fun s x => s.setStaged d { x with begun := true }) s).die d).staged =
      xs.foldl takeStaged (s.die d).staged := by
  induction xs with
  | nil => exact rfl
  | cons x xs ih =>
    intro s
    rw [List.foldl_cons, ih, List.foldl_cons]
    congr 1
    simp [State.setStaged, State.die_setDie_same, takeStaged]

/-- The contributions of ranks 0 to `n` − 1 of a group that waits, each the first of its rank. -/
def Die.ranks (k : Die) (g : BitVec 32) (z n : Nat) : List Staged :=
  (List.range n).filterMap fun r => (k.group g z).find? fun x => x.rank == r

theorem Die.mem_group {k : Die} {g : BitVec 32} {z : Nat} {x : Staged} (h : x ∈ k.group g z) :
    x ∈ k.staged ∧ x.group = g ∧ x.dest = z := by
  obtain ⟨mem, is⟩ := List.mem_filter.mp h
  simp only [Bool.and_eq_true, beq_iff_eq] at is
  exact ⟨mem, is.1⟩

theorem Die.group_find {k : Die} {g : BitVec 32} {z r : Nat} {x : Staged}
    (h : (k.group g z).find? (fun y => y.rank == r) = some x) : x.rank = r ∧ x ∈ k.group g z :=
  ⟨by simpa using List.find?_some h, List.mem_of_find?_eq_some h⟩

theorem Die.ranks_length {k : Die} {g : BitVec 32} {z n : Nat} (all : ∀ r < n, ∃ x ∈ k.group g z, x.rank = r) :
    (k.ranks g z n).length = n := by
  have there : ∀ r ∈ List.range n, ((k.group g z).find? fun x => x.rank == r).isSome := fun r hr => by
    obtain ⟨x, hx, rank⟩ := all r (List.mem_range.mp hr)
    exact List.find?_isSome.mpr ⟨x, hx, by simpa using rank⟩
  rw [Die.ranks, List.filterMap_length_eq_length.mpr there, List.length_range]

/-- Contributions of different ranks are of different requests. -/
theorem Die.ranks_distinct {k : Die} (nodup : (k.staged.map (·.req)).Nodup) (g : BitVec 32) (z n : Nat) :
    (k.ranks g z n).Pairwise fun a b => a.req ≠ b.req := by
  refine List.pairwise_filterMap.mpr (List.nodup_range.imp fun {r r'} ne a ha b hb same => ne ?_)
  obtain ⟨rank, mem⟩ := Die.group_find ha
  obtain ⟨rank', mem'⟩ := Die.group_find hb
  rw [← rank, ← rank', List.inj_on_of_nodup_map nodup (Die.mem_group mem).1 (Die.mem_group mem').1 same]

section
variable {s : State} {d z : Nat} {g : BitVec 32} {x0 : Staged}
  (none_begun : (s.die d).whole g z = [])
  (first : ((s.die d).group g z).find? (fun x => x.rank == 0) = some x0) (count : x0.count ≠ 0)
  (all : ∀ r < x0.count, ∃ x ∈ (s.die d).group g z, x.rank = r)
include none_begun first count all

/-- A group whose ranks are all there is taken rank by rank. -/
theorem State.beginGroup_ranks : s.beginGroup d g z =
    ((s.die d).ranks g z x0.count).foldl (fun s x => s.setStaged d { x with begun := true }) s := by
  unfold State.beginGroup
  extract_lets l n ranks
  have hn : n = x0.count := by simp only [n, l, first]
  have hranks : ranks = (s.die d).ranks g z x0.count := by
    rw [← hn]
    rfl
  have complete : ((s.die d).ranks g z x0.count).length = x0.count := Die.ranks_length all
  rw [if_pos (by simp [hn, hranks, complete, count, none_begun]), hranks]

/-- It is then whole: each of its ranks is taken. -/
theorem State.beginGroup_whole (nodup : ((s.die d).staged.map (·.req)).Nodup) {r : Nat} (hr : r < x0.count) {x : Staged}
    (hx : ((s.die d).group g z).find? (fun y => y.rank == r) = some x) :
    { x with begun := true } ∈ ((s.beginGroup d g z).die d).whole g z := by
  have taken : { x with begun := true } ∈ ((s.beginGroup d g z).die d).staged := by
    rw [State.beginGroup_ranks none_begun first count all, State.foldl_setStaged]
    refine foldl_takeStaged_takes (Die.ranks_distinct nodup g z x0.count) (fun y hy => ?_) x
      (List.mem_filterMap.mpr ⟨r, List.mem_range.mpr hr, hx⟩)
    obtain ⟨_, -, found⟩ := List.mem_filterMap.mp hy
    exact ⟨y, (Die.mem_group (Die.group_find found).2).1, rfl⟩
  obtain ⟨-, group, dest⟩ := Die.mem_group (Die.group_find hx).2
  exact List.mem_filter.mpr ⟨taken, by simp [group, dest]⟩

end

/-! ### The rank applied next -/

/-- The lower of a contribution found so far and another. -/
def lowerRank (b : Option Staged) (x : Staged) : Option Staged :=
  match b with
  | some y => if x.rank < y.rank then some x else some y
  | none => some x

theorem nextRank_eq (l : List Staged) :
    nextRank l = (l.filter fun x => x.applied < x.bytes.length).foldl lowerRank none := rfl

theorem lowerRank_some (b : Option Staged) (a : Staged) : ∃ c, lowerRank b a = some c ∧ (c = a ∨ b = some c) ∧
    c.rank ≤ a.rank ∧ ∀ y, b = some y → c.rank ≤ y.rank := by
  cases b with
  | none => exact ⟨a, rfl, .inl rfl, le_rfl, fun y hy => nomatch hy⟩
  | some y =>
    by_cases h : a.rank < y.rank
    · exact ⟨a, if_pos h, .inl rfl, le_rfl, fun y' hy => Option.some.inj hy ▸ h.le⟩
    · exact ⟨y, if_neg h, .inr rfl, Nat.le_of_not_lt h, fun y' hy => Option.some.inj hy ▸ le_rfl⟩

theorem foldl_lowerRank {l : List Staged} {x : Staged} : ∀ {b : Option Staged}, l.foldl lowerRank b = some x →
    (x ∈ l ∨ b = some x) ∧ (∀ y ∈ l, x.rank ≤ y.rank) ∧ ∀ y, b = some y → x.rank ≤ y.rank := by
  induction l with
  | nil =>
    intro b h
    exact ⟨.inr h, fun y hy => (List.not_mem_nil hy).elim,
      fun y hy => (congrArg Staged.rank (Option.some.inj (h.symm.trans hy))).le⟩
  | cons a l ih =>
    intro b h
    obtain ⟨c, lower, which, head, before⟩ := lowerRank_some b a
    rw [List.foldl_cons, lower] at h
    obtain ⟨mem, low, below⟩ := ih h
    have least := below c rfl
    refine ⟨?_, fun y hy => ?_, fun y hy => least.trans (before y hy)⟩
    · rcases mem with mem | same
      · exact .inl (List.mem_cons_of_mem a mem)
      · cases same
        exact which.imp_left fun is => List.mem_cons.mpr (.inl is)
    · rcases List.mem_cons.mp hy with rfl | hy
      · exact least.trans head
      · exact low y hy

theorem nextRank_some {l : List Staged} {x : Staged} (h : nextRank l = some x) :
    x ∈ l ∧ x.applied < x.bytes.length ∧ ∀ y ∈ l, y.applied < y.bytes.length → x.rank ≤ y.rank := by
  rw [nextRank_eq] at h
  obtain ⟨mem, low, -⟩ := foldl_lowerRank h
  obtain ⟨mem, due⟩ := List.mem_filter.mp (mem.resolve_right fun h => nomatch h)
  exact ⟨mem, by simpa using due, fun y hy more => low y (List.mem_filter.mpr ⟨hy, by simpa using more⟩)⟩

/-! ### The step of a staged contribution -/

/-- The next element of a whole group is applied as one Owner step. -/
theorem State.applyNext_next {u : State} {d z : Nat} {g : BitVec 32} {x : Staged} {y : Pending}
    (next : nextRank ((u.die d).whole g z) = some x) (of : (u.dev.engines.find? fun y => y.id == x.req) = some y)
    (held : u.engMissing y (y.dstAt x.applied) (rtypeSize (reqRtype x.w0)) = none) :
    u.applyNext d g z =
      if !u.elemsCurrent y (y.dstAt x.applied) (rtypeSize (reqRtype x.w0)) then u
      else
        match u.reduceElem y y.writes x.applied ((x.bytes.drop x.applied).take (rtypeSize (reqRtype x.w0))) with
        | .inl c => (u.unstage d x).failPend y c x.applied
        | .inr (_, m, s1) =>
          (s1.setStaged d { x with applied := x.applied + rtypeSize (reqRtype x.w0) }).setPend
            { y with
              writes := m
              unwritten := cutSpan y.unwritten x.applied (x.applied + rtypeSize (reqRtype x.w0)) } := by
  simp only [State.applyNext, next, of, State.engPages_held held] <;> rfl

end Sys2Proof.Machine
end

section
/-! PROOFS. Messages of engines and the end of requests. -/

namespace Sys2Proof.Machine

/-! ## Messages of engines -/

/-- Two states with the same requests at engines, messages of units in flight, and status words. -/
structure State.SameRequests (s t : State) : Prop where
  engines : t.dev.engines = s.dev.engines
  unitMsgs : t.dev.unitMsgs = s.dev.unitMsgs
  status : ∀ n, (t.core n).status = (s.core n).status

theorem State.SameRequests.refl (s : State) : s.SameRequests s := ⟨rfl, rfl, fun _ => rfl⟩

theorem State.SameRequests.trans {s t u : State} (h : s.SameRequests t) (h' : t.SameRequests u) : s.SameRequests u :=
  ⟨h'.engines.trans h.engines, h'.unitMsgs.trans h.unitMsgs, fun n => (h'.status n).trans (h.status n)⟩

theorem State.tableWords_sameRequests (s : State) (die : Nat) (part : BitVec 8) (z n : Nat) :
    s.SameRequests (s.tableWords die part z n).2 := by
  induction n generalizing s z with
  | zero => exact .refl s
  | succ n ih =>
    refine State.SameRequests.trans (t := (s.copyDword die part.toNat z).2) ?_ (ih _ (z + 8))
    unfold State.copyDword
    dsimp only
    split <;> exact ⟨rfl, rfl, fun _ => rfl⟩

theorem State.readDesc_sameRequests (s : State) (die : Nat) (part : BitVec 8) (cls : BitVec 16) :
    s.SameRequests (s.readDesc die part cls).2 := by
  have words := s.tableWords_sameRequests die part (s.ctbaseOf part + 64 * cls.toNat) 8
  exact ⟨by simp only [State.readDesc, words.engines], by simp only [State.readDesc, words.unitMsgs], fun _ => by simp⟩

theorem State.findHome_sameRequests (s : State) (die : Nat) (d : BitVec 512) (part : BitVec 8) (cls : BitVec 16)
    (key : BitVec 64) :
    s.SameRequests (s.findHome die d part cls key).2 := by
  unfold State.findHome
  dsimp only
  split
  · unfold State.holdPage
    dsimp only
    split <;> exact ⟨rfl, rfl, fun _ => rfl⟩
  · exact .refl s

theorem State.writeAt_sameRequests (s : State) (d : Nat) (cells : List (Nat × Byte)) (r : Bool) (prior : Map Nat) :
    s.SameRequests (s.writeAt d cells r prior) := by
  refine ⟨?_, ?_, fun n => by rw [State.core, State.core, State.writeAt_cores]⟩
  all_goals
    unfold State.writeAt State.carryOut
    dsimp only
    split <;> rfl

theorem State.report_sameRequests (s : State) (d : Nat) (r : MailRec) : s.SameRequests (s.report d r) := by
  unfold State.report
  dsimp only
  split
  · exact s.writeAt_sameRequests _ _ _ _
  · exact (s.writeAt_sameRequests _ _ _ _).trans (State.writeAt_sameRequests _ _ _ _ _)

theorem State.recvUp_sameRequests (s : State) (core : Nat) (part : BitVec 8) (tag : BitVec 12) :
    s.SameRequests (s.recvUp core part tag) := by
  refine ⟨rfl, rfl, fun n => ?_⟩
  by_cases h : n = core
  · subst h
    simp [State.recvUp]
  · rw [State.recvUp, State.core_setCore_other _ _ h]

section
variable {s k : State} {q : Pending} {m : Message}

/-- While the engine cannot find a message's home it asks for a walk. -/
theorem State.engSend_unknown {va : Nat} (routes : routeRefusal (s.readDesc q.die m.part m.cls).1 m.cls m.hdr = none)
    (missing : (s.readDesc q.die m.part m.cls).2.homeMissing (s.readDesc q.die m.part m.cls).1 m.part m.key = some va) :
    s.engSend k q m = (s.readDesc q.die m.part m.cls).2.askUnit 0 q.die m.part va := by
  simp only [State.engSend, routes, missing]

/-- The place of a message's home as it is found when the message is sent. -/
def State.homeAtSend (s k : State) (q : Pending) (m : Message) : HomePlace × State :=
  (k.readDesc q.die m.part m.cls).2.findHome q.die (s.readDesc q.die m.part m.cls).1 m.part m.cls m.key

theorem State.homeAtSend_sameRequests (s k : State) (q : Pending) (m : Message) :
    k.SameRequests (s.homeAtSend k q m).2 :=
  (k.readDesc_sameRequests _ _ _).trans (State.findHome_sameRequests _ _ _ _ _ _)

variable (known : routeRefusal (s.readDesc q.die m.part m.cls).1 m.cls m.hdr = none →
  (s.readDesc q.die m.part m.cls).2.homeMissing (s.readDesc q.die m.part m.cls).1 m.part m.key = none)
include known

/-- A message that the class routes joins those in flight to its home. -/
theorem State.engSend_routed {dev die clu : Nat}
    (routes : routeRefusal (s.readDesc q.die m.part m.cls).1 m.cls m.hdr = none)
    (home : (s.homeAtSend k q m).1 = .at dev die clu) :
    s.engSend k q m = (s.homeAtSend k q m).2.unitSend (unitEngine q.engine) m (.home dev die clu) none := by
  unfold State.homeAtSend at home
  simp only [State.engSend, routes, known routes, home]
  rfl

/-- A message that is sent or discarded leaves the requests at the engines and the status words. -/
theorem State.engSend_keeps : (s.engSend k q m).dev.engines = k.dev.engines ∧
    ∀ n, ((s.engSend k q m).core n).status = (k.core n).status := by
  have lost (r : MailRec) (part : BitVec 8) (tag : BitVec 12) :
      k.SameRequests (((s.homeAtSend k q m).2.recvUp q.req.core part tag).report q.die r) :=
    ((s.homeAtSend_sameRequests k q m).trans (State.recvUp_sameRequests _ _ _ _)).trans (State.report_sameRequests _ _ _)
  have placed := s.homeAtSend_sameRequests k q m
  unfold State.homeAtSend at lost placed
  unfold State.engSend
  dsimp only
  split
  · next va routes missing =>
    rw [known routes] at missing
    cases missing
  · split
    · exact ⟨(lost _ _ _).engines, (lost _ _ _).status⟩
    · split
      · exact ⟨placed.engines, placed.status⟩
      · exact ⟨(lost _ _ _).engines, (lost _ _ _).status⟩

end

/-- The address that an engine has to translate before it finds a message's home, if there is one. -/
def State.homeUnknown (s : State) (q : Pending) (m : Message) : Option Nat :=
  let r := s.readDesc q.die m.part m.cls
  if routeRefusal r.1 m.cls m.hdr = none then r.2.homeMissing r.1 m.part m.key else none

theorem State.homeUnknown_some {s : State} {q : Pending} {m : Message} {va : Nat} (h : s.homeUnknown q m = some va) :
    routeRefusal (s.readDesc q.die m.part m.cls).1 m.cls m.hdr = none ∧
      (s.readDesc q.die m.part m.cls).2.homeMissing (s.readDesc q.die m.part m.cls).1 m.part m.key = some va := by
  unfold State.homeUnknown at h
  dsimp only at h
  split at h
  · next routes => exact ⟨routes, h⟩
  · cases h

theorem State.homeUnknown_none {s : State} {q : Pending} {m : Message} (h : s.homeUnknown q m = none)
    (routes : routeRefusal (s.readDesc q.die m.part m.cls).1 m.cls m.hdr = none) :
    (s.readDesc q.die m.part m.cls).2.homeMissing (s.readDesc q.die m.part m.cls).1 m.part m.key = none := by
  unfold State.homeUnknown at h
  dsimp only at h
  rwa [if_pos routes] at h

/-- A class routes a message sent by an engine from `k` to a home. -/
def State.routesTo (s k : State) (q : Pending) (m : Message) (dest : Dest) : Prop :=
  routeRefusal (s.readDesc q.die m.part m.cls).1 m.cls m.hdr = none ∧
    ∃ dev die clu : Nat, (s.homeAtSend k q m).1 = .at dev die clu ∧ dest = .home dev die clu

/-- What is left of a message whose home the engine can find: it is sent where the class routes it. -/
theorem State.engSend_known {s : State} {q : Pending} {m : Message} (k : State) (known : s.homeUnknown q m = none) :
    ∃ t, s.engSend k q m = t ∧ t.dev.engines = k.dev.engines ∧ (∀ n, (t.core n).status = (k.core n).status) ∧
      ∀ dest, s.routesTo k q m dest →
        ∃ u : UnitMsg, t.dev.unitMsgs = k.dev.unitMsgs ++ [u] ∧ u.m = m ∧ u.dest = dest := by
  obtain ⟨engines, status⟩ := State.engSend_keeps (k := k) (State.homeUnknown_none known)
  refine ⟨_, rfl, engines, status, ?_⟩
  rintro dest ⟨routes, dev, die, clu, home, rfl⟩
  rw [State.engSend_routed (State.homeUnknown_none known) routes home]
  exact ⟨_, congrArg (· ++ _) (s.homeAtSend_sameRequests k q m).unitMsgs, rfl, rfl⟩

/-! ## A WRENQ's message -/

@[simp] theorem State.core_setPend (s : State) (q : Pending) (n : Nat) : (s.setPend q).core n = s.core n := rfl

@[simp] theorem State.die_setPend (s : State) (q : Pending) (n : Nat) : (s.setPend q).die n = s.die n := rfl

/-- A request replaced is the only one of its number. -/
theorem State.setPend_engines {s : State} {q x : Pending} (hx : x ∈ (s.setPend q).dev.engines) (same : x.id = q.id) :
    x = q := by
  obtain ⟨y, -, rfl⟩ := List.mem_map.mp hx
  by_cases h : y.id = q.id
  · exact if_pos h
  · rw [if_neg h] at same
    exact absurd same h

section
variable {s : State} {e : EngineId} {i : Nat} {q : Pending} (pend : s.pend e i = some q)
include pend

theorem execWrenqEnqueue_waits (unseen : s.seenEverywhere q.writes = false) : execWrenqEnqueue e i s = .next s := by
  simp [execWrenqEnqueue, pend, unseen]

/-- Once the payload is seen everywhere the message is sent, and counts as a sent item. -/
theorem execWrenqEnqueue_seen (role : q.role = .own) (near : q.far = false) (going : q.finishing = false) (op : q.op = 4)
    (done : q.payloadDone = true) (seen : s.seenEverywhere q.writes = true) : execWrenqEnqueue e i s =
      .next (s.engSend ((s.setPend { q with finishing := true }).sentUp q.req.core q.req.part q.req.ltag) q
        q.enqueue) := by
  have due : s.recordDue q = true := by simp [State.recordDue, role]
  have now : (q.finishing || q.op != 4 || q.sends || !q.payloadDone || !s.recordDue q ||
      !s.seenEverywhere q.writes) = false := by
    simp [going, op, Pending.sends_near role near, done, due, seen]
  have own : (q.role == EngRole.own) = true := by simp [role]
  simp only [execWrenqEnqueue, pend, now, Bool.false_eq_true, if_false, State.enqueueSent, own, if_true]

/-! ## The end of a request -/

theorem execNotify_waits (unseen : s.seenEverywhere q.writes = false ∨ s.seenEverywhere q.stamp = false) :
    execNotify e i s = .next s := by
  have late : s.notifyReady q = false := by
    rcases unseen with h | h <;> simp [State.notifyReady, h]
  simp [execNotify, pend, late]

/-- A request that is ready ends once its writes are seen everywhere. -/
theorem execNotify_ends (role : q.role = .own)
    (ready : q.finishing = true ∨ (q.payloadDone = true ∧ q.stampHere = false ∧ q.op ≠ 4))
    (seen : s.seenEverywhere q.writes = true) (stamp : s.seenEverywhere q.stamp = true) :
    execNotify e i s = .next (s.notifyOwn q) := by
  have ends : (q.finishing || (q.payloadDone && !q.stampHere && q.op != 4)) = true := by
    rcases ready with h | ⟨done, here, op⟩
    · simp [h]
    · simp [done, here, op]
  have now : s.notifyReady q = true := by simp [State.notifyReady, role, ends, State.recordDue, seen, stamp]
  have own : (q.role == EngRole.own) = true := by simp [role]
  simp only [execNotify, pend, now, own, Bool.not_true, Bool.false_eq_true, if_false, if_true]

end

/-- A request that ends: it is gone, and `cstat` reports its status. -/
def State.ended (s : State) (q : Pending) : State :=
  (s.dropPend q).setCore q.req.core { s.core q.req.core with
    status := (s.core q.req.core).status.put q.req.seq q.status }

theorem State.notifyOwn_eq (s : State) (q : Pending) : s.notifyOwn q =
    if reqNotify q.req.w0 && !q.silent then s.engSend (s.ended q) q q.completion else s.ended q := rfl

theorem State.ended_engines {s : State} {q : Pending} : ∀ x ∈ (s.ended q).dev.engines, x.id ≠ q.id := by
  intro x hx
  have kept : (x.id != q.id) = true := (List.mem_filter.mp hx).2
  simpa using kept

theorem State.ended_status (s : State) (q : Pending) :
    ((s.ended q).core q.req.core).status.find q.req.seq = some q.status := by
  rw [State.ended, State.core_setCore_same]
  simp

/-- What the end of a request leaves, where it sends no completion message or the engine can find its home. -/
theorem State.notifyOwn_known {s : State} {q : Pending}
    (known : reqNotify q.req.w0 = true ∧ q.silent = false → s.homeUnknown q q.completion = none) :
    ∃ t, s.notifyOwn q = t ∧ t.dev.engines = (s.ended q).dev.engines ∧
      (t.core q.req.core).status.find q.req.seq = some q.status ∧
      (reqNotify q.req.w0 = true ∧ q.silent = false → ∀ dest, s.routesTo (s.ended q) q q.completion dest →
        ∃ u : UnitMsg, t.dev.unitMsgs = s.dev.unitMsgs ++ [u] ∧ u.m = q.completion ∧ u.dest = dest) := by
  by_cases tells : reqNotify q.req.w0 = true ∧ q.silent = false
  · obtain ⟨t, is, engines, status, sends⟩ := State.engSend_known (s.ended q) (known tells)
    rw [State.notifyOwn_eq, if_pos (by simp [tells.1, tells.2]), is]
    exact ⟨t, rfl, engines, (congrArg (·.find q.req.seq) (status _)).trans (s.ended_status q), fun _ => sends⟩
  · rw [State.notifyOwn_eq, if_neg fun h => tells (by simpa using h)]
    exact ⟨_, rfl, rfl, s.ended_status q, fun h => absurd h tells⟩

theorem Pending.status_of_none {q : Pending} (h : q.err = none) : q.status = 1 := by rw [Pending.status, h]; rfl

theorem Pending.status_of_some {q : Pending} {code : BitVec 8} {off : Nat} (h : q.err = some (code, off)) :
    q.status = BitVec.ofNat 32 off ++ 0#16 ++ code ++ 2#8 := by
  rw [Pending.status, h]
  rfl

/-- A completion message is a notice of the request's partition with the request's number and status, for the actor that
posted the request where it names no target. -/
theorem Pending.completion_fields (q : Pending) : q.completion.part = q.req.part ∧ hdrKind q.completion.hdr = 3 ∧
    hdrSub q.completion.hdr = 1 ∧ payWord q.completion.pay 0 = BitVec.ofNat 64 q.req.seq ∧
    payWord q.completion.pay 1 = q.status ∧
    (reqTgt q.req.w0 = false → q.completion.cls = q.req.cls ∧ q.completion.key = q.req.key ∧
      hdrPort q.completion.hdr = (reqNport q.req.w0).toNat) := by
  unfold Pending.completion
  extract_lets r prior
  split
  next x cls key port named =>
    obtain ⟨port_eq, kind, -, sub⟩ := mkHdr_fields port 3 r.depth 0 r.ltag 1 0
    obtain ⟨seq, status, -⟩ := payWord_mkPay (BitVec.ofNat 64 r.seq) q.status prior 0 0 0
    refine ⟨rfl, kind, sub, seq, status, fun tgt => ?_⟩
    rw [show reqTgt r.w0 = false from tgt] at named
    cases named
    exact ⟨rfl, rfl, port_eq⟩

end Sys2Proof.Machine
end

section
/-! PROOFS. The steps and endings of copy requests. -/

namespace Sys2Proof.Machine

/-- Settles O48: each step is the model's step for a request of this device without an error, with one write at the home
die of its places; a group of an ordered reduction is taken contribution by contribution; and what ends a request leaves
the other requests as they are and sends its message where the class routes it. -/
theorem copyStepsAndEndings : Obligations.CopyStepsAndEndings := by
  unfold Obligations.CopyStepsAndEndings
  refine ⟨?steps, ?endings⟩
  case steps =>
    intro s e i q qs d pend err role near going arrival some_place home v s1 found clean asks put
    have work : q.AtWork := ⟨err, role, near, going, arrival⟩
    refine ⟨?read, ?chunk, ?reaches, ?write, ?reduce, ?sums, ?slot, ?stamp, ?ordered, fun l x => nextRank_some⟩
    case read =>
      intro o n next
      refine ⟨fun va missing => ?_, fun places unpoisoned => ?_⟩
      · rw [exec_copyRead, execCopyRead_chunk pend work next, State.engPages_missing missing]
      · exact (exec_copyRead ..).trans (execCopyRead_bytes pend work next some_place places.1 places.2 unpoisoned)
    case chunk => exact fun v o n next => Pending.nextRead_le role near next
    case reaches => exact fun x elem len top unread => Pending.nextRead_reaches work elem len top unread
    case write =>
      intro h3 h6 l n pick
      refine ⟨fun nothing => ?_, fun o m bs piece len => ?_, fun o bs first => State.toCheck_head work h6 first,
        fun o bs first at_ => ⟨fun va missing => ?_, fun places => ?_⟩⟩
      · exact (exec_copyWrite ..).trans (execCopyWrite_none pend work h3 h6 nothing)
      · exact (exec_copyWrite ..).trans (execCopyWrite_ready pend work h3 h6 some_place home piece len)
      · rw [exec_copyWrite, execCopyWrite_checks pend work h3 h6 first at_, State.engPages_missing missing]
      · exact (exec_copyWrite ..).trans
          (execCopyWrite_passes pend work h3 h6 some_place home first at_ places.1 places.2)
    case reduce =>
      intro op plain o bs more low read
      refine ⟨fun va missing => ?_, fun held stale => ?_, fun places unpoisoned current => ?_⟩
      · rw [exec_reduceElement, execReduceElement_next pend work op plain more low read, State.engPages_missing missing]
      · exact (exec_reduceElement ..).trans (execReduceElement_waits pend work op plain more low read held stale)
      · exact (exec_reduceElement ..).trans
          (execReduceElement_updates pend work op plain more low read some_place home places.1 places.2 unpoisoned
            current)
    case sums => exact fun old v => ⟨rfl, rfl⟩
    case slot =>
      intro n b x sl slot buffer inside ends some_byte written
      refine ⟨_, (exec_cbfillSlotPut ..).trans (execCbfillSlotPut_full pend going slot buffer some_byte written), ?_⟩
      have filled : ((s.core n).setCb b (x.takeFree (.fill q.id))).cb b = x.takeFree (.fill q.id) :=
        Core.cb_setCb (by simpa using inside)
      simp only [State.core_setPend, State.core_setCore_same, filled]
      exact ⟨rfl, rfl⟩
    case stamp =>
      intro here done a
      refine ⟨fun unseen => (exec_stamp ..).trans (execStamp_waits pend unseen), fun seen =>
        ⟨fun va missing => ?_, fun places => ?_⟩⟩
      · rw [exec_stamp, execStamp_seen pend work here done seen, State.engPages_missing missing]
      · exact (exec_stamp ..).trans (execStamp_writes pend work here done some_place home seen places.1 places.2)
    case ordered =>
      intro z op ordered read held place h w g l u
      refine ⟨fun fresh first rank room => ?_, fun x0 nodup none_begun first count all r hr x hx =>
        State.beginGroup_whole none_begun first count all nodup hr hx, fun staged waits => ?_,
        fun x y staged next of => ?_⟩
      · have step := (exec_orderedReduceApply ..).trans
          (execOrderedReduceApply_stages pend work op ordered read held place fresh)
        rw [State.stageOne_first first rank room] at step
        refine ⟨_, q.contribution z, step, ?_, rfl, rfl, rfl, rfl, rfl, rfl⟩
        rw [State.die_setPend, State.die_setDie_same]
      · exact (exec_orderedReduceApply ..).trans
          (execOrderedReduceApply_incomplete pend work op ordered read held place staged waits)
      · intro n a translated
        have step := (exec_orderedReduceApply ..).trans
          (execOrderedReduceApply_applies pend work op ordered read held place staged next)
        rw [State.applyNext_next next of translated] at step
        refine ⟨fun stale => ?_, fun old m t current element => ?_⟩
        · rw [stale] at step
          exact step
        · rw [current, element] at step
          exact step
  case endings =>
    intro s e i q pend role near routes unknown asks sent enq
    refine ⟨?wrenq, ?notify, q.completion_fields⟩
    case wrenq =>
      intro going op done
      refine ⟨fun unseen => (exec_wrenqEnqueue ..).trans (execWrenqEnqueue_waits pend unseen), fun va seen walk => ?_,
        fun seen known => ?_⟩
      all_goals have step := (exec_wrenqEnqueue ..).trans (execWrenqEnqueue_seen pend role near going op done seen)
      · obtain ⟨routed, missing⟩ := State.homeUnknown_some (show s.homeUnknown q q.enqueue = some va from walk)
        exact step.trans (congrArg Host.Outcome.next (State.engSend_unknown routed missing))
      · obtain ⟨t, is, engines, -, sends⟩ := State.engSend_known
          ((s.setPend { q with finishing := true }).sentUp q.req.core q.req.part q.req.ltag)
          (show s.homeUnknown q q.enqueue = none from known)
        rw [is] at step
        refine ⟨t, step, fun x hx same => ?_, fun dest routed => sends dest routed⟩
        rw [engines] at hx
        rw [State.setPend_engines hx same]
    case notify =>
      intro ready k u
      refine ⟨fun unseen => (exec_notify ..).trans (execNotify_waits pend unseen), ?_⟩
      intro tells
      refine ⟨fun va seen stamp tell walk => ?_, fun seen stamp known => ?_⟩
      all_goals have step := (exec_notify ..).trans (execNotify_ends pend role ready seen stamp)
      · obtain ⟨routed, missing⟩ := State.homeUnknown_some (show s.homeUnknown q q.completion = some va from walk)
        rw [State.notifyOwn_eq, if_pos (by simp [tell.1, tell.2]), State.engSend_unknown routed missing] at step
        exact step
      · obtain ⟨t, is, engines, status, sends⟩ := State.notifyOwn_known known
        rw [is] at step
        refine ⟨t, step, fun x hx => ?_, fun none_met => ?_, fun code off met => ?_, sends⟩
        · exact State.ended_engines x (engines ▸ hx)
        · rw [status, Pending.status_of_none none_met]
        · rw [status, Pending.status_of_some met]

end Sys2Proof.Machine
end

section
/-! PROOFS. The forms of a firing: its messages, its end, and its pin (11/R214 to R219). -/

namespace Sys2Proof.Machine

/-! ## Where the forms of a firing are legal (R219) -/

theorem inFiring_firing {p : Party} (h : p.isSup = false) : inFiring p = .val () := by simp [inFiring, h]

theorem inFiring_sup {p : Party} (h : p.isSup = true) : inFiring p = .trap 0x27 0 := by simp [inFiring, h]

theorem inKeyed_keyed {p : Party} {c : Ctx} (h : p.isSup = false) (hs : c.firing.sheet = false) : inKeyed p c = .val () := by
  simp [inKeyed, h, hs]

/-- A form of a keyed firing is refused in a supervisor core and in a sheet. -/
theorem inKeyed_refused {p : Party} {c : Ctx} (h : p.isSup = true ∨ c.firing.sheet = true) : inKeyed p c = .trap 0x27 0 := by
  rcases h with h | h <;> simp [inKeyed, h]

section
variable {s s1 : State} {rd rs1 : BitVec 5} {a : Reg} {w : BitVec 32}

/-- A form without sources whose operation takes a cause takes it. -/
theorem exe0_trap {c : BitVec 6} {t : BitVec 64} {f : State → Tri (Reg × State)} (ready : s.exeReady rd [])
    (hf : f s = .trap c t) : exe0 w rd s f = .next (takeTrap s s.cur c t) := by
  simp [exe0, State.exePre_ready ready, hf]

/-- What a source field leaves of its party's record but for the load-data queue, which it pops. -/
theorem State.gives_fields (h : s.gives rs1 a s1) :
    (s1.ctx s.cur).firing = (s.ctx s.cur).firing ∧ (s1.ctx s.cur).pc = (s.ctx s.cur).pc := by
  obtain ⟨⟨-, l, e⟩, -⟩ := State.src_popped h
  exact ⟨by rw [e], by rw [e]⟩

/-! ## The messages of a firing (R214) -/

theorem execMpop_takes {m : Message} {rest : List Message} (firing : s.inFiring) (ready : s.exeReady rd [])
    (next : (s.ctx s.cur).firing.untaken = m :: rest) (regs : (s.ctx s.cur).awaits payloadRegs = false) :
    execMpop rd s = .next (s.wrote (s.mod s.cur fun c => c.sync.takeMsg.setPayload m.pay) rd (dataReg m.hdr)) := by
  unfold execMpop
  refine exe0_ok ready ?_
  simp only [inFiring_firing firing, State.regsReady_val regs, Tri.bind_val, next]

theorem execMpop_none (firing : s.inFiring) (ready : s.exeReady rd []) (none : (s.ctx s.cur).firing.untaken = [])
    (regs : (s.ctx s.cur).awaits payloadRegs = false) :
    execMpop rd s = .next (s.wrote (s.mod s.cur Ctx.sync) rd (dataReg noMsg)) := by
  unfold execMpop
  refine exe0_ok ready ?_
  simp only [inFiring_firing firing, State.regsReady_val regs, Tri.bind_val, none]

theorem execMpeek_shows {m : Message} {rest : List Message} (firing : s.inFiring) (ready : s.exeReady rd [])
    (next : (s.ctx s.cur).firing.untaken = m :: rest) : execMpeek rd s = .next (s.wrote s rd (dataReg m.hdr)) := by
  unfold execMpeek
  refine exe0_ok ready ?_
  simp only [inFiring_firing firing, Tri.bind_val, next]

theorem execMpeek_none (firing : s.inFiring) (ready : s.exeReady rd []) (none : (s.ctx s.cur).firing.untaken = []) :
    execMpeek rd s = .next (s.wrote s rd (dataReg noMsg)) := by
  unfold execMpeek
  refine exe0_ok ready ?_
  simp only [inFiring_firing firing, Tri.bind_val, none]

theorem execMdrop_drops (firing : s.inFiring) (ready : s.exeReady 0#5 []) :
    execMdrop s = .next (s.wrote (s.mod s.cur Ctx.takeMsg) 0#5 0) := by
  unfold execMdrop
  refine exe0_ok ready ?_
  simp only [inFiring_firing firing, Tri.bind_val]

/-- In a supervisor core the forms on a firing's messages take 0x27. -/
theorem messageForms_refused (sup : s.cur.isSup = true) (ready : s.exeReady rd []) :
    execMpop rd s = .next (takeTrap s s.cur 0x27 0) ∧ execMpeek rd s = .next (takeTrap s s.cur 0x27 0) := by
  unfold execMpop execMpeek
  constructor <;>
  · refine exe0_trap ready ?_
    rw [inFiring_sup sup, Tri.bind_trap]

theorem execMdrop_refused (sup : s.cur.isSup = true) (ready : s.exeReady 0#5 []) :
    execMdrop s = .next (takeTrap s s.cur 0x27 0) := by
  unfold execMdrop
  refine exe0_trap ready ?_
  rw [inFiring_sup sup, Tri.bind_trap]

/-! ## The end of a firing (R215 to R217, R293, R336) -/

/-- A party may end its firing from the state that its form's sources left: the access half holds no store, its matrix
operations have ended without a cause, and what a fault message of a sequence trap follows has drained. -/
structure State.MayEnd (s t : State) (p : Party) : Prop where
  stores : (s.ctx p).acc.any AccItem.isStore = false
  ops : t.opsQueued p = false
  deferred : (t.ctx p).deferred = []
  seq : (t.ctx p).reportsSeq = true → t.released ((t.ctx p).releaseAt p.ix 2) = true

theorem State.storesLeft_none {p : Party} (h : (s.ctx p).acc.any AccItem.isStore = false) : s.storesLeft p = .val () := by
  simp [State.storesLeft, h]

theorem State.matSync_done {t s0 : State} {p : Party} (h : s.MayEnd t p) : t.matSync p s0 = .val (t.deliverSeq p) := by
  have seq : ((t.ctx p).reportsSeq && !t.released ((t.ctx p).releaseAt p.ix 2)) = false := by
    cases hr : (t.ctx p).reportsSeq with
    | false => rfl
    | true => rw [h.seq hr]; rfl
  simp only [State.matSync, h.ops, h.deferred, seq, Bool.false_eq_true, if_false]

/-- How a firing ends: its sequence traps are delivered, and the context waits for its end. -/
def State.ends (t : State) (p : Party) (g : Firing → Firing) : State :=
  (t.deliverSeq p).mod p fun c => { c with run := .ending, firing := g c.firing }

theorem State.endForm_ends {mode : Tri Unit} {g : Firing → Firing} (ready : s.exeReady 0#5 []) (legal : mode = .val ())
    (may : s.MayEnd s s.cur) : s.endForm s.cur w [] mode g = .next (s.ends s.cur g) := by
  have pre : s.exePre s.cur w 0 [] = .val () := State.exePre_ready ready w
  simp only [State.endForm, pre, legal, State.storesLeft_none may.stores, State.matSync_done may,
    Tri.bind_val, settle_val]
  rfl

theorem State.endForm_refused {mode : Tri Unit} {g : Firing → Firing} (ready : s.exeReady 0#5 [])
    (illegal : mode = .trap 0x27 0) : s.endForm s.cur w [] mode g = .next (takeTrap s s.cur 0x27 0) := by
  have pre : s.exePre s.cur w 0 [] = .val () := State.exePre_ready ready w
  simp only [State.endForm, pre, illegal, Tri.bind_val, Tri.bind_trap, settle_trap]

section
variable (ready : s.exeReady 0#5 [rs1]) (ha : s.gives rs1 a s1)
include ready ha

theorem execWait_ends (keyed : s.inFiring ∧ (s.ctx s.cur).firing.sheet = false)
    (below : (capAddr a).toNat < counterCount (s.ctx s.cur).firing.desc) (may : s.MayEnd s1 s.cur) :
    execWait rs1 s =
      .next (s1.ends s.cur fun g => { g with waitCounter := some ((capAddr a).toNat, (s.ctx s.cur).pc + 4) }) := by
  have ha' : s.src s.cur rs1 = .val (a, s1) := ha
  obtain ⟨hf, hpc⟩ := State.gives_fields ha
  have legal : inKeyed s.cur (s1.ctx s.cur) = .val () := inKeyed_keyed keyed.1 (hf ▸ keyed.2)
  have pre : s.exePre s.cur (wordWait rs1) 0 [rs1] = .val () := State.exePre_ready ready _
  simp only [execWait, pre, ha', legal, hf, hpc, below, decide_true, Tri.ensure_true,
    State.storesLeft_none may.stores, State.matSync_done may, Tri.bind_val, settle_val]
  rfl

/-- A counter that the class has not, a sheet and a supervisor core: `wait` takes 0x27. -/
theorem execWait_refused (bad : s.cur.isSup = true ∨ (s.ctx s.cur).firing.sheet = true ∨
      counterCount (s.ctx s.cur).firing.desc ≤ (capAddr a).toNat) :
    execWait rs1 s = .next (takeTrap s s.cur 0x27 0) := by
  have ha' : s.src s.cur rs1 = .val (a, s1) := ha
  obtain ⟨hf, -⟩ := State.gives_fields ha
  have pre : s.exePre s.cur (wordWait rs1) 0 [rs1] = .val () := State.exePre_ready ready _
  by_cases keyed : s.cur.isSup = false ∧ (s.ctx s.cur).firing.sheet = false
  · have legal : inKeyed s.cur (s1.ctx s.cur) = .val () := inKeyed_keyed keyed.1 (hf ▸ keyed.2)
    have above : ¬ (capAddr a).toNat < counterCount (s.ctx s.cur).firing.desc := by
      simpa [keyed.1, keyed.2] using bad
    simp only [execWait, pre, ha', legal, hf, above, decide_false, Tri.ensure_false, Tri.bind_val, Tri.bind_trap,
      settle_trap]
  · have illegal : inKeyed s.cur (s1.ctx s.cur) = .trap 0x27 0 := by
      refine inKeyed_refused ?_
      rw [hf, ← Bool.not_eq_false, ← Bool.not_eq_false]
      exact not_and_or.mp keyed
    simp only [execWait, pre, ha', illegal, Tri.bind_val, Tri.bind_trap, settle_trap]

/-! ## The pin (R218) -/

theorem execPin_sets (keyed : s.inFiring ∧ (s.ctx s.cur).firing.sheet = false) {y : Actor}
    (found : (s1.core s.cur.coreIx).actor (s.ctx s.cur).firing.name = some y) :
    execPin rs1 s =
      .next (s.wrote (s1.setPin s.cur.coreIx y.home (s.ctx s.cur).firing.name ((capAddr a).getLsbD 0)) 0#5 0) := by
  obtain ⟨hf, -⟩ := State.gives_fields ha
  have legal : inKeyed s.cur (s1.ctx s.cur) = .val () := inKeyed_keyed keyed.1 (hf ▸ keyed.2)
  unfold execPin
  refine exe1_ok ready ha ?_
  simp only [legal, hf, found, Tri.bind_val]

theorem execPin_refused (bad : s.cur.isSup = true ∨ (s.ctx s.cur).firing.sheet = true) :
    execPin rs1 s = .next (takeTrap s s.cur 0x27 0) := by
  obtain ⟨hf, -⟩ := State.gives_fields ha
  unfold execPin
  refine exe1_trap ready ha ?_
  simp only [inKeyed_refused (c := s1.ctx s.cur) (hf ▸ bad), Tri.bind_trap]

end
end

/-- Settles O39: each form by whether it is legal where it runs, and then by what it finds. -/
theorem firingForms : Obligations.FiringForms := by
  refine ⟨fun s rd rs1 a firing => ?fires, fun s t rd rs1 a sup => ?sup⟩
  case fires =>
    intro p f pay take synced ends
    have mayEnd {t : State} : synced t → s.MayEnd t p := fun ⟨stores, ops, deferred, seq⟩ => ⟨stores, ops, deferred, seq⟩
    refine ⟨fun ready => ⟨fun m rest next => ⟨fun regs => ?_, ?_⟩, fun none => ⟨fun regs => ?_, ?_⟩⟩,
      fun ready => ⟨?_, fun may => ⟨?_, fun keyed => ?_⟩, fun sheet => ?_⟩,
      fun ready t ha => ⟨fun keyed below may => ?_, fun keyed above => ?_, fun keyed y found => ?_, fun sheet => ⟨?_, ?_⟩⟩⟩
    · exact (exec_mpop ..).trans (execMpop_takes firing ready next regs)
    · exact (exec_mpeek ..).trans (execMpeek_shows firing ready next)
    · exact (exec_mpop ..).trans (execMpop_none firing ready none regs)
    · exact (exec_mpeek ..).trans (execMpeek_none firing ready none)
    · exact (exec_mdrop ..).trans (execMdrop_drops firing ready)
    · exact (exec_done ..).trans (State.endForm_ends ready (inFiring_firing firing) (mayEnd may))
    · exact (exec_bank ..).trans (State.endForm_ends ready (inKeyed_keyed firing keyed) (mayEnd may))
    · exact (exec_bank ..).trans (State.endForm_refused ready (inKeyed_refused (.inr sheet)))
    · exact (exec_wait ..).trans (execWait_ends ready ha ⟨firing, keyed⟩ below (mayEnd may))
    · exact (exec_wait ..).trans (execWait_refused ready ha (.inr (.inr above)))
    · exact (exec_pin ..).trans (execPin_sets ready ha ⟨firing, keyed⟩ found)
    · exact (exec_wait ..).trans (execWait_refused ready ha (.inr (.inl sheet)))
    · exact (exec_pin ..).trans (execPin_refused ready ha (.inr sheet))
  case sup =>
    intro refused
    refine ⟨fun ready => ?_, fun ready => ⟨?_, ?_, ?_⟩, fun ready ha => ⟨?_, ?_⟩⟩
    · exact messageForms_refused sup ready
    · exact (exec_mdrop ..).trans (execMdrop_refused sup ready)
    · exact (exec_done ..).trans (State.endForm_refused ready (inFiring_sup sup))
    · exact (exec_bank ..).trans (State.endForm_refused ready (inKeyed_refused (.inl sup)))
    · exact (exec_wait ..).trans (execWait_refused ready ha (.inl sup))
    · exact (exec_pin ..).trans (execPin_refused ready ha (.inl sup))

end Sys2Proof.Machine
end

section
/-! PROOFS. spawn, shpush, lwait and carry at their issue (11/R212, R227 to R232, R236). -/

namespace Sys2Proof.Machine

/-- What a form that completes leaves of its party's pc and of its destination. -/
theorem State.wrote_pc (s u : State) (rd : BitVec 5) (v : Reg) :
    ((s.wrote u rd v).ctx s.cur).pc = (u.ctx s.cur).pc + 4 := by
  rw [State.wrote_ctx, Ctx.result_pc]

theorem State.wrote_reg (s u : State) {rd : BitVec 5} (v : Reg) (zero : rd ≠ 0#5) (push : rd ≠ 29#5) :
    ((s.wrote u rd v).ctx s.cur).reg rd = v := by
  rw [State.wrote_ctx]
  exact Ctx.reg_result_same zero push

/-! ## spawn (R227 to R229) -/

section
variable {s s1 s2 : State} {rd rs1 rs2 : BitVec 5} {xs : BitVec 3} {a b : Reg}

/-- The launch record that `spawn` makes of its four registers. -/
def State.spawned (s : State) (xs : BitVec 3) : LaunchRec :=
  let c := s.ctx s.cur
  { part := c.sendPart s.cur, w0 := capAddr (c.xs xs 0), w1 := capAddr (c.xs xs 1), w2 := capAddr (c.xs xs 2),
    w3 := c.xs xs 3, core := s.cur.coreIx, sup := s.cur.isSup }

/-- A range record's `w0` and AUX that `spawn` launches: well-formed, of the depth that its issuer may give, and with a list or
count that the issuer may read (R228). -/
structure State.SpawnOk (s : State) (w : BitVec 64) (aux : Reg) : Prop where
  formed : recMalformed w = false
  depth : s.cur.isSup = true ∨ ((s.ctx s.cur).fdep ≠ 15 ∧ recDepth w = (s.ctx s.cur).fdep + 1)
  list : recCsrc w = 1 → checkCap s.cur.isSup aux (capAddr aux).toNat 64 permLoad false = none
  count : recCsrc w = 2 → checkCap s.cur.isSup aux (capAddr aux).toNat 8 permLoad false = none

section
variable {w : BitVec 64} {aux : Reg} (ok : s.SpawnOk w aux)
include ok

theorem State.SpawnOk.shallow : (!s.cur.isSup && (s.ctx s.cur).fdep == 15) = false := by
  rcases ok.depth with h | ⟨h, -⟩
  · simp [h]
  · rw [beq_false_of_ne h, Bool.and_false]

theorem State.SpawnOk.deeper : (s.cur.isSup || recDepth w == (s.ctx s.cur).fdep + 1) = true := by
  rcases ok.depth with h | ⟨-, h⟩ <;> simp [h]

theorem State.SpawnOk.reads :
    (if recCsrc w = 1 then checkCap s.cur.isSup aux (capAddr aux).toNat 64 permLoad false
      else if recCsrc w = 2 then checkCap s.cur.isSup aux (capAddr aux).toNat 8 permLoad false else none) = none := by
  split
  next h => exact ok.list h
  next =>
    split
    next h => exact ok.count h
    next => rfl

end

section
variable (ready : s.exeReady rd []) (regs : (s.ctx s.cur).awaits (xsRegs xs) = false)
include ready regs

theorem execSpawn_deep (firing : s.cur.isSup = false) (deep : (s.ctx s.cur).fdep = 15) :
    execSpawn rd xs s = .next (s.wrote s rd (dataReg 2)) := by
  unfold execSpawn
  refine exe0_ok ready ?_
  simp [State.regsReady_val regs, firing, deep]

variable (ok : s.SpawnOk (capAddr ((s.ctx s.cur).xs xs 0)) ((s.ctx s.cur).xs xs 3))
include ok

theorem execSpawn_full
    (free : (s.die s.cur.die.val).freeRecord (recDepth (capAddr ((s.ctx s.cur).xs xs 0))).toNat = none) :
    execSpawn rd xs s = .next (s.wrote s rd (dataReg 1)) := by
  unfold execSpawn
  refine exe0_ok ready ?_
  simp only [State.regsReady_val regs, Tri.bind_val, ok.shallow, Bool.false_eq_true, if_false, ok.reads, Tri.unless_none,
    ok.formed, ok.deeper, free, Bool.not_false, Tri.ensure_true]

/-- A record that passes the checks takes the record of the pool that is free for its depth. -/
theorem execSpawn_takes {m : Nat}
    (free : (s.die s.cur.die.val).freeRecord (recDepth (capAddr ((s.ctx s.cur).xs xs 0))).toNat = some m) :
    execSpawn rd xs s = .next (s.wrote (s.setDie s.cur.die.val
      { s.die s.cur.die.val with pool := (s.die s.cur.die.val).pool.put m (s.spawned xs) }) rd
        (dataReg (BitVec.ofNat 64 (m * 0x10000)))) := by
  unfold execSpawn
  refine exe0_ok ready ?_
  simp only [State.regsReady_val regs, Tri.bind_val, ok.shallow, Bool.false_eq_true, if_false, ok.reads, Tri.unless_none,
    ok.formed, ok.deeper, free, Bool.not_false, Tri.ensure_true]
  rfl

end

/-! ## shpush (R232) -/

/-- The sheet that `shpush` makes of its four registers, with the firing's launch tag and depth. -/
def State.pushed (s : State) (xs : BitVec 3) : Sheet :=
  let c := s.ctx s.cur
  { part := c.partid, d0 := sheetDword (capAddr (c.xs xs 0)) c.ltag c.fdep, d1 := capAddr (c.xs xs 1),
    d2 := capAddr (c.xs xs 2), d3 := capAddr (c.xs xs 3) }

/-- A quire that is full on chip passes its oldest sheet to an overflow area with room. -/
theorem Core.pushSheet_overflows (k : Core) (x : Sheet) (full : 256 ≤ k.quire.length)
    (room : k.quireOvf.length < k.quireRoom) :
    k.pushSheet x = some (false, { k with quire := k.quire.drop 1 ++ [x], quireOvf := k.quireOvf ++ k.quire.take 1 }) := by
  simp [Core.pushSheet, Nat.not_lt.mpr full, room]

theorem Core.pushSheet_full (k : Core) (x : Sheet) (full : 256 ≤ k.quire.length)
    (area : k.quireRoom ≤ k.quireOvf.length) : k.pushSheet x = none := by
  simp [Core.pushSheet, Nat.not_lt.mpr full, Nat.not_lt.mpr area]

section
variable (ready : s.exeReady rd []) (regs : (s.ctx s.cur).awaits (xsRegs xs) = false) (firing : s.cur.isSup = false)
include ready regs firing

theorem execShpush_takes {chip : Bool} {k : Core} {v : BitVec 64}
    (push : (s.core s.cur.coreIx).pushSheet (s.pushed xs) = some (chip, k)) (answer : (if chip then 0 else 1) = v) :
    execShpush rd xs s = .next (s.wrote ((s.setCore s.cur.coreIx k).sentUp s.cur.coreIx (s.ctx s.cur).partid
      (s.ctx s.cur).ltag) rd (dataReg v)) := by
  unfold execShpush
  refine exe0_ok ready ?_
  rw [State.pushed] at push
  simp only [inFiring_firing firing, State.regsReady_val regs, Tri.bind_val, push, answer]

theorem execShpush_none (push : (s.core s.cur.coreIx).pushSheet (s.pushed xs) = none) :
    execShpush rd xs s = .next (s.wrote s rd (dataReg 2)) := by
  unfold execShpush
  refine exe0_ok ready ?_
  rw [State.pushed] at push
  simp only [inFiring_firing firing, State.regsReady_val regs, Tri.bind_val, push]

end

/-! ## lwait (R236) -/

/-- The notice that `lwait` arms for the actor of its firing. -/
def State.lwaitArms (s : State) (tag port : Reg) : Notice :=
  let c := s.ctx s.cur
  { part := c.partid, tag := (capAddr tag).setWidth 12, port := (capAddr port).setWidth 2, cls := c.kcls, key := c.kkey }

/-- The wait of an `lwait`. -/
def State.lwaitWaits (s : State) (rd rs1 rs2 : BitVec 5) : Waiting :=
  { form := .lwait, rd := rd, id := s.dev.opSeq + 1, pc := (s.ctx s.cur).pc, popped := (s.ctx s.cur).poppedBy [rs1, rs2] }

/-- `lwait` in a keyed firing: the notice is armed where the root has room, and the party waits with the answer queued. -/
theorem execLwait_asks (ready : s.exeReady rd [rs1, rs2]) (firing : s.cur.isSup = false)
    (keyed : (s.ctx s.cur).firing.sheet = false) (ha : s.gives rs1 a s1) (hb : s1.src s.cur rs2 = .val (b, s2)) :
    let full := 256 ≤ s.noticeCount (s.ctx s.cur).partid
    execLwait rd rs1 rs2 s = .next ((s2.setDev { s.dev with
        opSeq := s.dev.opSeq + 1
        notices := if full then s.dev.notices else s.dev.notices ++ [s.lwaitArms a b] }).mod s.cur fun x => { x with
          waiting := some (s.lwaitWaits rd rs1 rs2)
          reply := x.reply ++ [{ id := s.dev.opSeq + 1, val := if full then 1 else 0 }] }) := by
  have ha' : s.src s.cur rs1 = .val (a, s1) := ha
  obtain ⟨⟨-, -, -, -, -, dev, -⟩, l, e⟩ := (State.src_popped ha').1.trans (State.src_popped hb).1
  have legal : inKeyed s.cur (s2.ctx s.cur) = .val () := inKeyed_keyed firing (by rw [e, keyed])
  have pre := State.exePre_ready ready (wordLwait rd rs1 rs2)
  have partid : (s2.ctx s.cur).partid = (s.ctx s.cur).partid := by rw [e]
  have named : (s2.ctx s.cur).kcls = (s.ctx s.cur).kcls ∧ (s2.ctx s.cur).kkey = (s.ctx s.cur).kkey := by
    rw [e]
    exact ⟨rfl, rfl⟩
  have pc : (s2.ctx s.cur).pc = (s.ctx s.cur).pc := by rw [e]
  have count : s2.noticeCount (s.ctx s.cur).partid = s.noticeCount (s.ctx s.cur).partid := by simp only [State.noticeCount, dev]
  simp only [execLwait, pre, ha', hb, Tri.bind_val, legal, settle_val, partid, named, pc, count, dev, State.lwaitArms,
    State.lwaitWaits]

/-! ## carry (R212) -/

/-- An access whose places are found lies in one window. -/
theorem windowFault_of_places {p : Party} {need : Need} {x n : Nat} {qs : List Nat}
    (h : s.places p need x n = .at qs) : windowFault p.isSup x n = none := by
  unfold State.places at h
  split at h
  next => cases h
  next none => exact none

/-- Bytes that a form reads lie in one window, and the read leaves the machine but for the bytes that the form had read
already. -/
theorem readBytes_val {p : Party} {need : Need} {x n : Nat} {bs : List Byte}
    (h : State.readBytes s s p need x n = .val (bs, s1)) :
    windowFault p.isSup x n = none ∧ s1 = s.mod p fun c => { c with part := [] } := by
  obtain ⟨qs, reached, h⟩ := Tri.bind_eq_val.mp h
  obtain ⟨_, _, h⟩ := Tri.bind_eq_val.mp h
  constructor
  · unfold State.reach at reached
    split at reached
    next found => exact windowFault_of_places found
    all_goals cases reached
  · unfold State.gather at h
    dsimp only at h
    split at h
    · cases h
    · split at h <;> cases h
      rfl

/-- The operation that `carry` sends, for code bytes `bs` and the block at place `z`. -/
def State.carried (s : State) (rd : BitVec 5) (xs : BitVec 3) (z : Nat) (bs : List Byte) : Op :=
  let p := s.cur
  let c := s.ctx p
  { kind := .carry, issuer := p.ix, id := s.dev.opSeq + 1, sup := p.isSup, va := (capAddr (c.xs xs 0)).toNat, addr := z,
    owner := spCore z, size := 32, reply := rd != 0,
    pay := BitVec.ofNat 64 (capAddr (c.xs xs 0)).toNat ++ capAddr (c.xs xs 3) ++ capAddr (c.xs xs 2) ++
      BitVec.ofNat 192 (leNat bs),
    rel := c.releaseAt p.ix (ownerScope p.coreIx (spCore z)), part := c.sendPart p, ltag := c.sendLtag p,
    depth := c.sendDepth p }

/-- The machine with that operation in the issuer's outbound queue, counted as sent. -/
def State.carryQueued (s s1 : State) (o : Op) : State :=
  let s2 := (s1.setCore s.cur.coreIx { s.core s.cur.coreIx with
    outq := (s.core s.cur.coreIx).outq ++ [.carry o] }).sentUp s.cur.coreIx o.part o.ltag
  s2.setDev { s2.dev with opSeq := s.dev.opSeq + 1 }

theorem State.carryQueued_core (o : Op) : ((s.carryQueued s1 o).core s.cur.coreIx).outq =
      (s.core s.cur.coreIx).outq ++ [.carry o] ∧
    ((s.carryQueued s1 o).core s.cur.coreIx).sent = countUp (s.core s.cur.coreIx).sent o.part o.ltag := by
  simp [State.carryQueued, State.sentUp]

/-- What `carry` has checked when it comes to the outbound queue. -/
structure State.CarryOk (s : State) (xs : BitVec 3) (z : Nat) (bs : List Byte) (s1 : State) (qs : List Nat) : Prop where
  block : s.reaches s.cur ((s.ctx s.cur).xs xs 0) (capAddr ((s.ctx s.cur).xs xs 0)).toNat 32 (permLoad ||| permStore) .rw qs
  code : checkCap s.cur.isSup ((s.ctx s.cur).xs xs 1) (capAddr ((s.ctx s.cur).xs xs 1)).toNat 24 (permLoad ||| permExec)
    false = none
  read : State.readBytes s s s.cur .r (capAddr ((s.ctx s.cur).xs xs 1)).toNat 24 = .val (bs, s1)
  aligned : (capAddr ((s.ctx s.cur).xs xs 0)).toNat % 32 = 0
  place : windowPlace s.cur (capAddr ((s.ctx s.cur).xs xs 0)).toNat = some z
  words : (capAddr ((s.ctx s.cur).xs xs 1)).toNat % 4 = 0

/-- A `carry` that passes its checks waits for room, and then goes on or waits for its reply. -/
theorem execCarry_ok {z : Nat} {bs : List Byte} {qs : List Nat} (ready : s.exeReady rd [])
    (regs : (s.ctx s.cur).awaits (xsRegs xs) = false) (ok : s.CarryOk xs z bs s1 qs) :
    execCarry rd xs s = .next (
      if 16 ≤ (s.core s.cur.coreIx).outq.length then s
      else
        let t := s.carryQueued s1 (s.carried rd xs z bs)
        if rd = 0#5 then t.advance s.cur
        else t.mod s.cur fun x => { x with
          waiting := some { form := .carry, rd := rd, id := s.dev.opSeq + 1, pc := (s.ctx s.cur).pc,
                            start := (s.core s.cur.coreIx).cyc, place := z, owner := spCore z } }) := by
  obtain ⟨⟨cap, places⟩, code, read, aligned, place, words⟩ := ok
  have inWindow := windowFault_of_places places
  obtain ⟨codeInWindow, -⟩ := readBytes_val read
  simp only [execCarry, State.exePre_ready ready, State.regsReady_val regs, Tri.bind_val, cap, code, inWindow, codeInWindow,
    Option.map_none, Tri.unless_none, State.reach_at places, read, aligned, place, words, beq_self_eq_true, Tri.ensure_true]
  by_cases full : 16 ≤ (s.core s.cur.coreIx).outq.length
  · simp only [full, if_true, settle_stall]
  · by_cases posted : rd = 0#5
    · simp only [full, posted, if_false, if_true, settle_val]
      rfl
    · simp only [full, posted, if_false, settle_val]
      rfl

end

/-- Settles O40: each form by what its checks and the room that it finds let it do. -/
theorem launchAndCarryForms : Obligations.LaunchAndCarryForms := by
  intro s s1 s2 rd rs1 rs2 xs a b qs bs p c n x w launch
  have hx : x = fun i => c.xs xs i := funext fun i => congrArg c.reg (xsReg_eq xs i).symm
  clear_value x
  subst hx
  refine ⟨fun ready => ⟨?deep, fun regs formed depth list count => ?spawn⟩, ?shpush, ?lwait, ?carry⟩
  case deep => exact fun regs firing deep => (exec_spawn ..).trans (execSpawn_deep ready regs firing deep)
  case spawn =>
    have ok : s.SpawnOk (capAddr (c.xs xs 0)) (c.xs xs 3) := ⟨formed, depth, list, count⟩
    refine ⟨fun none => (exec_spawn ..).trans (execSpawn_full ready regs ok none), fun m free => ?_⟩
    refine ⟨_, (exec_spawn ..).trans (execSpawn_takes ready regs ok free), ?_, ?_, ?_⟩
    · exact (congrArg (fun d : Die => d.pool.find m) (State.die_setDie_same ..)).trans (Map.find_put_same _ m _)
    · exact s.wrote_pc _ rd _
    · exact fun zero push => s.wrote_reg _ _ zero push
  case shpush =>
    intro ready regs firing y k pushed
    have same : y = s.pushed xs := rfl
    clear_value y
    subst same
    refine ⟨fun room => ?_, fun full room => ?_, fun full area => ?_⟩
    · exact (exec_shpush ..).trans (execShpush_takes ready regs firing (Core.pushSheet_room (s.pushed xs) room) rfl)
    · exact (exec_shpush ..).trans (execShpush_takes ready regs firing (k.pushSheet_overflows (s.pushed xs) full room) rfl)
    · exact (exec_shpush ..).trans (execShpush_none ready regs firing (k.pushSheet_full (s.pushed xs) full area))
  case lwait =>
    intro ready firing keyed ha hb
    have asks := (exec_lwait ..).trans (execLwait_asks ready firing keyed ha hb)
    have pc : (s2.ctx p).pc = c.pc := by
      obtain ⟨-, l, e⟩ := (State.src_popped ha).1.trans (State.src_popped hb).1
      rw [e]
    refine ⟨_, asks, ?_, ⟨s.lwaitWaits rd rs1 rs2, ?_, rfl, rfl, rfl, ?_⟩, rfl⟩
    all_goals rw [State.mod_ctx]
    · exact pc
    · rfl
  case carry =>
    intro ready regs q code z block exe read aligned place words
    have step := (exec_carry ..).trans (execCarry_ok ready regs ⟨block, exe, read, aligned, place, words⟩)
    refine ⟨fun full => step.trans (by rw [if_pos full]), fun room => ?_⟩
    rw [if_neg (Nat.not_le.mpr room)] at step
    have left : s1.ctx p = { c with part := [] } := by rw [(readBytes_val read).2, State.mod_ctx]
    obtain ⟨outq, sent⟩ := s.carryQueued_core (s1 := s1) (s.carried rd xs z bs)
    have queued : (s.carryQueued s1 (s.carried rd xs z bs)).ctx p = s1.ctx p := rfl
    by_cases posted : rd = 0#5
    · rw [if_pos posted] at step
      refine ⟨_, _, step, outq, rfl, rfl, rfl, rfl, rfl, sent, fun _ => ?_, absurd posted⟩
      rw [State.advance_ctx, queued, left]
      exact ⟨rfl, rfl⟩
    · rw [if_neg posted] at step
      refine ⟨_, _, step, outq, rfl, rfl, rfl, rfl, rfl, sent, (absurd · posted), fun _ => ?_⟩
      rw [State.mod_ctx, queued, left]
      exact ⟨rfl, _, rfl, rfl, rfl, rfl⟩

end Sys2Proof.Machine
end

section
/-! PROOFS. Homes and hosts: a move whose record and actor have different names. -/

namespace Sys2Proof.Machine

/-- An actor of key 2, without state, and its entry at home 0: on its way to another host. -/
def shippedActor : Actor := { key := 2 }
def movingEntry : Hearth := { key := 2, state := .moving }

/-- What core 0 takes in: a record of key 1 that holds the actor of key 2. -/
def otherIncoming : Incoming := { key := 1, shipped := some (shippedActor, []) }

/-- Core 0 with that record, and home 0 with the actor's entry. -/
def otherNameShipped : State :=
  { clusters := [(0, { hearth := [(0, movingEntry)] })]
    cores := [(0, { incoming := [otherIncoming] })] }

/-- A shipped actor is put in place where its host's state area and inbox have room (R222, R243). -/
theorem execMoveStateInPlace_places {s : State} {c : CoreId} {i : Nat} {x : Incoming} {a : Actor} {bytes : List Byte}
    (first : (s.core c.ix).incoming.findIdx? (fun x => x.shipped.isSome) = some i)
    (here : (s.core c.ix).incoming[i]? = some x) (shipped : x.shipped = some (a, bytes)) (waits : x.placed = false)
    (fits : s.fits c.ix (runSize a.desc) [] = true) (takes : (s.core c.ix).takesPorts a = true) :
    execMoveStateInPlace c s = .next
      ((s.placeShipped c.ix i ((s.gapAt c.ix (runSize a.desc) []).getD 0) x a bytes).finishMove c.ix i) := by
  simp only [execMoveStateInPlace, first, here, shipped, waits, fits, takes, Option.bind_some, Option.map_some,
    Bool.false_eq_true, Bool.not_true, if_false]

/-- The machine once the state is in place: the record's name decides which entry the home makes live, and there is none. -/
def otherNamePlaced : State :=
  (otherNameShipped.placeShipped 0 0 ((otherNameShipped.gapAt 0 (runSize shippedActor.desc) []).getD 0) otherIncoming
    shippedActor []).finishMove 0 0

theorem moveStateInPlace_otherName : exec (.moveStateInPlace ⟨0, 0, 0⟩) otherNameShipped = .next otherNamePlaced :=
  (exec_moveStateInPlace ..).trans
    (execMoveStateInPlace_places (by decide +kernel) rfl rfl rfl (by decide +kernel) (by decide +kernel))

theorem otherNamePlaced_entry : (otherNamePlaced.clu 0).hearth.find 0 = some movingEntry := by decide +kernel

/-- Refutes O51: its clause on MOVE_STATE_IN_PLACE says that the entry of the shipped actor's name becomes live, but the step
makes the entry of the incoming record's name live, and nothing in the clause ties the two names. -/
theorem not_homesAndHosts : ¬ Obligations.HomesAndHosts := by
  unfold Obligations.HomesAndHosts
  rintro ⟨-, hosts⟩
  obtain ⟨-, -, -, -, moves, -⟩ := hosts otherNameShipped ⟨0, 0, 0⟩
  obtain ⟨-, placed⟩ := moves 0 otherIncoming shippedActor [] (by decide +kernel) rfl rfl rfl (by decide +kernel)
  obtain ⟨t, is, -, -, live⟩ := placed (.inl (by decide +kernel)) rfl
  obtain rfl : otherNamePlaced = t := Host.Outcome.next.inj (moveStateInPlace_otherName.symm.trans is)
  obtain ⟨e, found, state, -⟩ := live 0 movingEntry (by decide +kernel)
  obtain rfl : movingEntry = e := Option.some.inj (otherNamePlaced_entry.symm.trans found)
  exact absurd state (by decide)

end Sys2Proof.Machine
end

section
/-! PROOFS. Inboxes: carried code, journals, the spill queue, probe tokens and the reserve entry (09/R181; 11/R213, R243, R244,
R248; 23/R389). -/

namespace Sys2Proof.Machine

/-! ## Replies (R243) -/

/-- A reply leaves what a party does and its store buffer. -/
theorem State.replyTo_fields (s : State) (o : Op) (v : BitVec 64) (fault : Option (BitVec 6 × BitVec 64)) (p : Party) :
    ((s.replyTo o v fault).ctx p).run = (s.ctx p).run ∧ ((s.replyTo o v fault).ctx p).sb = (s.ctx p).sb := by
  unfold State.replyTo
  split
  next =>
    by_cases h : p = partyOf o.issuer
    · subst h
      rw [State.mod_ctx]
      exact ⟨rfl, rfl⟩
    · rw [State.mod_ctx_other s _ h]
      exact ⟨rfl, rfl⟩
  next => exact ⟨rfl, rfl⟩

/-- The reply that an issuer waits for is its newest. -/
theorem State.replyTo_last (s : State) {o : Op} (v : BitVec 64) (fault : Option (BitVec 6 × BitVec 64)) (h : o.reply = true) :
    ((s.replyTo o v fault).ctx (partyOf o.issuer)).reply.getLast? = some { id := o.id, val := v, fault := fault } := by
  rw [State.replyTo, if_pos h, State.mod_ctx, List.getLast?_append]
  rfl

theorem State.replyTo_cur (s : State) (o : Op) (v : BitVec 64) (fault : Option (BitVec 6 × BitVec 64)) :
    (s.replyTo o v fault).cur = s.cur := by
  unfold State.replyTo
  split <;> rfl

/-! ## Carried code (R213) -/

/-- The six words of carried code. -/
def Op.words (o : Op) : List (BitVec 32) := (List.range 6).map fun i => o.pay.extractLsb' (32 * i) 32

/-- The machine at the first word of carried code, in the turn of the handler context. -/
def State.carriedStart (s : State) (c : CoreId) (o : Op) : State :=
  { (s.took c o).mod (.handler c) (fun x => x.startCarried o) with cur := .handler c }

/-- The handler context at the end of carried code: its stores drained, and idle. -/
def State.carriedIdle (u : State) (c : CoreId) : State :=
  (u.drainAll (.handler c)).mod (.handler c) fun x => { x.fresh with run := .idle }

/-- The machine once carried code has ended in `u`: the turn is the one before again, and the reply is sent. -/
def State.carriedEnd (s u : State) (c : CoreId) (o : Op) : State :=
  { u.carriedIdle c with cur := s.cur }.replyTo o (capAddr ((u.ctx (.handler c)).reg 11)) none

section
variable {s : State} {c : CoreId} {o : Op}

section
variable (head : s.opHead c.ix = some o) (kind : o.kind = .carry) (last : s.holdsLast c.die.val (span o.addr 32) = true)
include head kind last

theorem execCarriedCodeRun_ends {u : State} (run : runCarried (.handler c) (s.carriedStart c o) 0 o.words = .finished u) :
    execCarriedCodeRun c s = .next (s.carriedEnd u c o) := by
  have carried : (o.kind != .carry || !s.holdsLast c.die.val (span o.addr 32)) = false := by simp [kind, last]
  simp only [State.carriedStart, State.took, Op.words] at run
  simp only [execCarriedCodeRun, head, carried, Bool.false_eq_true, if_false, run]
  rfl

theorem execCarriedCodeRun_faults {i : Nat} (run : runCarried (.handler c) (s.carriedStart c o) 0 o.words = .faulted i)
    (reply : o.reply = true) :
    execCarriedCodeRun c s = .next ((s.took c o).replyTo o 0 (some (0x28, BitVec.ofNat 64 i))) := by
  have carried : (o.kind != .carry || !s.holdsLast c.die.val (span o.addr 32)) = false := by simp [kind, last]
  simp only [State.carriedStart, State.took, Op.words] at run
  simp only [execCarriedCodeRun, head, carried, Bool.false_eq_true, if_false, run, reply, if_true]
  rfl

end

/-- Carried code that has ended leaves the handler context idle with no store waiting, and answers with x11. -/
theorem State.carriedEnd_answers (s u : State) (c : CoreId) (o : Op) :
    (s.carriedEnd u c o).cur = s.cur ∧ ((s.carriedEnd u c o).ctx (.handler c)).run = .idle ∧
      ((s.carriedEnd u c o).ctx (.handler c)).sb = [] ∧
      (o.reply = true → ((s.carriedEnd u c o).ctx (partyOf o.issuer)).reply.getLast? =
        some { id := o.id, val := capAddr ((u.ctx (.handler c)).reg 11) }) := by
  have idle : (u.carriedIdle c).ctx (.handler c) =
      { ((u.drainAll (.handler c)).ctx (.handler c)).fresh with run := .idle } := State.mod_ctx ..
  obtain ⟨run, sb⟩ := State.replyTo_fields { u.carriedIdle c with cur := s.cur } o (capAddr ((u.ctx (.handler c)).reg 11)) none
    (.handler c)
  exact ⟨State.replyTo_cur .., run.trans (congrArg Ctx.run idle), sb.trans (congrArg Ctx.sb idle),
    fun reply => State.replyTo_last _ _ _ reply⟩

/-- Code whose first word is `done` ends at once. -/
theorem runCarried_done {p : Party} {i : Nat} {ws : List (BitVec 32)} :
    runCarried p s i (0x0E00002B#32 :: ws) = .finished s := by
  have word : carriedDecode 0x0E00002B#32 = some .done := by decide +kernel
  simp only [runCarried, word]

/-- The value of an integer written to a register. -/
theorem capAddr_dataReg (v : BitVec 64) : capAddr (dataReg v) = v :=
  capAddr_mkCap (tag := false) (m := 0) (a := v)

/-- x11 at the first word of carried code is its first argument. -/
theorem State.carriedStart_reg : ((s.carriedStart c o).ctx (.handler c)).reg 11 = dataReg (o.pay.extractLsb' 192 64) := by
  have start : (s.carriedStart c o).ctx (.handler c) = ((s.took c o).ctx (.handler c)).startCarried o :=
    State.mod_ctx (s.took c o) (.handler c) fun x => x.startCarried o
  rw [start, Ctx.startCarried, Ctx.reg_setReg_other _ _ (by decide), Ctx.reg_setReg_same _ _ (by decide)]

end

/-! ## What entering an inbox leaves (R29 to R33, R243) -/

/-- A hosted actor is found under its name, or one before it. -/
theorem Core.actor_of_mem {k : Core} {a : Actor} (h : a ∈ k.actors) : ∃ b, k.actor a.name = some b :=
  Option.isSome_iff_exists.mp (List.find?_isSome.mpr ⟨a, h, beq_self_eq_true _⟩)

/-- A change of one actor leaves every other. -/
theorem Core.actor_setActor_other (k : Core) {n m : ActorName} {f : Actor → Actor} (hf : ∀ a, a.name = n → (f a).name = n)
    (h : m ≠ n) : (k.setActor n f).actor m = k.actor m := by
  unfold Core.actor Core.setActor
  induction k.actors with
  | nil => rfl
  | cons a l ih =>
    by_cases ha : a.name = n
    · have hm : ¬ n = m := fun e => h e.symm
      simpa [ha, hf a ha, hm] using ih
    · by_cases hm : a.name = m
      · simp [hm, h]
      · simpa [ha, hm] using ih

/-- Evaluating an actor changes the actors and the ready queue alone. -/
theorem Core.evaluate_eq (k : Core) (n : ActorName) :
    k.evaluate n = { k with actors := (k.evaluate n).actors, readyQ := (k.evaluate n).readyQ } := by
  unfold Core.evaluate
  split
  · rfl
  · split
    · rfl
    · split <;> rfl

/-- A message that joins the inbox changes the actors, the ready queue, the decrements and the received items alone. -/
theorem Core.accept_eq (k : Core) (m : Message) :
    k.accept m = { k with actors := (k.accept m).actors, readyQ := (k.accept m).readyQ, decs := (k.accept m).decs,
                          recv := (k.accept m).recv } := by
  unfold Core.accept
  split
  · rfl
  · split
    · rfl
    · rw [Core.evaluate_eq]
      rfl

/-- A change of one actor that leaves its name and the messages that wait for journal entries leaves those of every actor. -/
theorem Core.unjournalled_setActor {k : Core} {n m : ActorName} {a : Actor} {f : Actor → Actor} (h : k.actor n = some a)
    (hf : ∀ a, (f a).name = a.name ∧ (f a).unjournalled = a.unjournalled) :
    ∃ b, (k.setActor m f).actor n = some b ∧ b.unjournalled = a.unjournalled := by
  have named : ∀ a, a.name = m → (f a).name = m := fun a e => (hf a).1.trans e
  by_cases hn : n = m
  · subst hn
    exact ⟨f a, by rw [Core.actor_setActor _ named, h, Option.map_some], (hf a).2⟩
  · exact ⟨a, by rw [Core.actor_setActor_other _ named hn, h], rfl⟩

theorem Core.unjournalled_evaluate {k : Core} {n m : ActorName} {a : Actor} (h : k.actor n = some a) :
    ∃ b, (k.evaluate m).actor n = some b ∧ b.unjournalled = a.unjournalled := by
  unfold Core.evaluate
  split
  · exact ⟨a, h, rfl⟩
  · split
    · exact ⟨a, h, rfl⟩
    · split
      · obtain ⟨b, found, same⟩ := Core.unjournalled_setActor (m := m) h (f := fun a => { a with ready := true })
          fun _ => ⟨rfl, rfl⟩
        exact ⟨b, found, same⟩
      · exact ⟨a, h, rfl⟩

/-- A message that joins its port leaves the messages that wait for journal entries. -/
theorem Core.unjournalled_accept {k : Core} {n : ActorName} {a : Actor} (m : Message) (h : k.actor n = some a) :
    ∃ b, (k.accept m).actor n = some b ∧ b.unjournalled = a.unjournalled := by
  unfold Core.accept
  split
  · exact ⟨a, h, rfl⟩
  · split
    · exact ⟨a, h, rfl⟩
    · next x found _ =>
      obtain ⟨b, hb, same⟩ := Core.unjournalled_setActor (m := m.name)
        (k := { k with recv := countItems k.recv ((x.port (hdrPort m.hdr)).drops x.desc (hdrPort m.hdr) m) }) h
        (f := fun a => a.setPort (hdrPort m.hdr) ((a.port (hdrPort m.hdr)).arrive a.desc (hdrPort m.hdr) m))
        fun _ => ⟨rfl, rfl⟩
      obtain ⟨c, hc, same'⟩ := Core.unjournalled_evaluate (m := m.name) hb
      exact ⟨c, hc, same'.trans same⟩

theorem State.itemDone_cores (s : State) (x : Option (Nat × Nat × Nat)) : (s.itemDone x).cores = s.cores := by
  unfold State.itemDone
  split
  · rfl
  · dsimp only
    split <;> rfl

/-- A message placed in an inbox changes of its core the actors, the ready queue, the decrements and the received items
alone. -/
theorem State.inboxPlace_core (s : State) (n : Nat) (m : Message) : ∃ as rq ds r,
    (s.inboxPlace n m).core n = { s.core n with actors := as, readyQ := rq, decs := ds, recv := r } := by
  have core : (s.itemDone m.item).core n = s.core n := by rw [State.core, State.itemDone_cores, State.core]
  unfold State.inboxPlace
  dsimp only
  rw [core]
  split
  · exact ⟨_, _, _, _, core⟩
  · split
    · exact ⟨_, _, _, _, State.core_setCore_same ..⟩
    · rw [State.core_setCore_same, Core.accept_eq]
      exact ⟨_, _, _, _, rfl⟩

/-! ## Bank stores (R226, R388) -/

theorem State.bankStore_core (s : State) (h n : Nat) : ((s.bankStore h).2).core n = s.core n := by
  unfold State.bankStore
  split
  · rfl
  · simp only [State.core, State.copyDword_keeps]

/-- An actor's entry reads as it was replaced. -/
theorem State.bankOf_setBank {s : State} {h : Nat} {n : ActorName} {e e' : BankEntry} (known : s.bankOf h n = some e)
    (same : e'.is h n = true) : (s.setBank e').bankOf h n = some e' := by
  have key : e'.store = h ∧ (e'.part, e'.cls, e'.key) = n := by
    simpa [BankEntry.is, Prod.ext_iff, and_assoc] using same
  obtain ⟨rfl, rfl⟩ := key
  rw [State.bankOf] at known
  have among : s.dev.bank.any (fun x => x.is e'.store (e'.part, e'.cls, e'.key)) = true :=
    List.any_eq_true.mpr ⟨e, List.mem_of_find?_eq_some known, List.find?_some (p := fun x : BankEntry => x.is e'.store (e'.part, e'.cls, e'.key)) known⟩
  unfold State.setBank State.bankOf
  simp only [among, if_true, State.setDev_dev]
  revert known
  induction s.dev.bank with
  | nil => exact fun h => nomatch h
  | cons x l ih =>
    intro known
    by_cases hx : x.is e'.store (e'.part, e'.cls, e'.key) = true
    · simp [hx, same]
    · simp only [List.find?_cons, hx] at known
      simp [hx, ih known]

theorem State.setBank_core (s : State) (e : BankEntry) (n : Nat) : (s.setBank e).core n = s.core n := rfl

/-! ## Journals (R389) -/

section
variable {s : State} {c : CoreId}

/-- The actors of a core whose messages wait for journal entries. -/
def Core.unjournalled (k : Core) : List Actor := k.actors.filter fun x => x.unjournalled != []

theorem execJournalAppend_idle (none : (s.core c.ix).unjournalled = []) : execJournalAppend c s = .next s := by
  rw [Core.unjournalled] at none
  simp only [execJournalAppend, none, List.find?_nil]

/-- The oldest message of an actor that waits for its entry gets it, and joins its port. -/
theorem execJournalAppend_room {a : Actor} {m : Message} {rest : List Message} {e : BankEntry}
    (room : (s.core c.ix).unjournalled.find? s.journalRoom = some a) (waiting : a.unjournalled = m :: rest)
    (known : (s.bankStore (descBankh a.desc)).2.bankOf (descBankh a.desc) a.name = some e) :
    ∃ (t : State) (b : Actor), execJournalAppend c s = .next t ∧
      t.bankOf (descBankh a.desc) a.name = some { e with journal := e.journal ++ [.delivered m] } ∧
      (t.core c.ix).actor a.name = some b ∧ b.unjournalled = rest := by
  obtain ⟨x, found⟩ := Core.actor_of_mem (List.mem_of_mem_filter (List.mem_of_find?_eq_some room))
  have taken : ((s.core c.ix).setActor a.name fun x => { x with unjournalled := rest, journalFull := false }).actor a.name =
      some { x with unjournalled := rest, journalFull := false } := by
    refine (Core.actor_setActor (f := fun x => { x with unjournalled := rest, journalFull := false }) _ fun _ h => h).trans ?_
    rw [found, Option.map_some]
  obtain ⟨b, there, same⟩ := Core.unjournalled_accept { m with journalled := true } taken
  have own : BankEntry.is { e with journal := e.journal ++ [.delivered m] } (descBankh a.desc) a.name = true :=
    (List.find?_some (p := fun x : BankEntry => x.is (descBankh a.desc) a.name) known : e.is (descBankh a.desc) a.name = true)
  rw [Core.unjournalled] at room
  simp only [execJournalAppend, room, waiting, known, State.setBank_core, State.bankStore_core]
  refine ⟨_, b, rfl, ?_, ?_, same⟩
  · exact State.bankOf_setBank known own
  · rw [State.core_setCore_same]
    exact there

/-- A full journal area is reported for a class where it has not been reported yet. -/
theorem execJournalAppend_full {a : Actor} (none : (s.core c.ix).unjournalled.find? s.journalRoom = none)
    (first : ((s.core c.ix).unjournalled.find? fun a => !s.fullReported a) = some a) :
    execJournalAppend c s = .next ((s.setCore c.ix ((s.core c.ix).setActor a.name fun x => { x with journalFull := true })).report 0
      { cause := 0x2D, part := a.part, cls := a.cls, key := a.key, unit := 9, tuple := s.dev.num ++ 0#14 }) := by
  rw [Core.unjournalled] at none first
  simp only [execJournalAppend, none, first]
  rfl

/-! ## The spill queue (R248) -/

section
variable (run : (s.core c.ix).preempted = false) (spilling : (s.core c.ix).diverting = true)
include run spilling

theorem execSpillRedelivery_empty (empty : (s.core c.ix).spill = []) : execSpillRedelivery c s =
    .next (s.setCore c.ix { s.core c.ix with diverting := false, spillReported := false }) := by
  simp [execSpillRedelivery, run, spilling, empty]

section
variable {m : Message} {rest : List Message} (oldest : (s.core c.ix).spill = m :: rest)
include oldest

/-- The oldest message leaves the spill queue; with the last of them arrivals enter the inbox again. -/
theorem execSpillRedelivery_room (room : (s.core c.ix).inboxCount < 64) : ∃ t : State, execSpillRedelivery c s = .next t ∧
    (t.core c.ix).spill = rest ∧ (t.core c.ix).diverting = (rest != []) := by
  obtain ⟨as, rq, ds, r, placed⟩ := State.inboxPlace_core (s.setCore c.ix { s.core c.ix with spill := rest }) c.ix m
  rw [State.core_setCore_same] at placed
  unfold execSpillRedelivery
  dsimp only
  rw [if_neg (by simp [run, spilling])]
  split
  next empty => cases empty.symm.trans oldest
  next m' rest' found =>
    cases found.symm.trans oldest
    rw [if_pos room]
    refine ⟨_, rfl, ?_⟩
    by_cases last : rest = []
    · rw [if_pos last, State.core_setCore_same, placed]
      simp [last]
    · rw [if_neg last, placed]
      simp [last, spilling]

theorem execSpillRedelivery_full (full : 64 ≤ (s.core c.ix).inboxCount) : execSpillRedelivery c s = .next s := by
  simp [execSpillRedelivery, run, spilling, oldest, Nat.not_lt.mpr full]

end
end

/-! ## Probe tokens (R244) -/

/-- A token that reaches the core it comes from is back. -/
theorem State.sendToken_back (s : State) (n : Nat) : (s.sendToken n n).core n = { s.core n with tokenBack := true } := by
  rw [State.sendToken, if_pos rfl, State.core_setCore_same]

/-- A token that reaches another core joins its tokens. -/
theorem State.sendToken_joins (s : State) {o d : Nat} (h : d ≠ o) :
    (s.sendToken o d).core d = { s.core d with tokens := (s.core d).tokens ++ [o] } := by
  rw [State.sendToken, if_neg h, State.core_setCore_same]

theorem State.sendToken_other (s : State) (o : Nat) {d n : Nat} (h : n ≠ d) : (s.sendToken o d).core n = s.core n :=
  State.core_setCore_other _ _ h

theorem execProbeTokenSend_due {d h : Nat} (held : (s.core c.ix).heldSince = some h) (due : h + 4096 ≤ (s.core c.ix).cyc)
    (full : 64 ≤ (s.core c.ix).inboxCount) (home : (s.core c.ix).tokenOut = false)
    (reserve : (s.core c.ix).reserveUsed = false) (head : s.headCore c.ix = some d) :
    ∃ t : State, execProbeTokenSend c s = .next t ∧ (t.core c.ix).tokenOut = true ∧
      (d = c.ix → (t.core c.ix).tokenBack = true) ∧
      (d ≠ c.ix → (t.core d).tokens = (s.core d).tokens ++ [c.ix]) := by
  refine ⟨(s.setCore c.ix { s.core c.ix with tokenOut := true }).sendToken c.ix d, ?_, ?_⟩
  · simp [execProbeTokenSend, held, due, full, home, reserve, head]
  · by_cases here : d = c.ix
    · subst here
      simp [State.sendToken_back]
    · rw [State.sendToken_other _ _ (Ne.symm here), State.sendToken_joins _ here, State.core_setCore_same,
        State.core_setCore_other _ _ here]
      exact ⟨rfl, fun h => absurd h here, fun _ => rfl⟩

section
variable {o : Nat} {rest : List Nat} (oldest : (s.core c.ix).tokens = o :: rest)
include oldest

/-- A core with room discards the oldest token. -/
theorem execProbeTokenForward_room (room : (s.core c.ix).inboxCount < 64) : ∃ t : State, execProbeTokenForward c s = .next t ∧
    (t.core c.ix).tokens = rest ∧ (t.core o).tokenOut = false := by
  simp only [execProbeTokenForward, oldest, Nat.not_le.mpr room, decide_false, Bool.false_and, Bool.false_eq_true, if_false]
  refine ⟨_, rfl, ?_, by rw [State.core_setCore_same]⟩
  by_cases own : c.ix = o
  · rw [← own, State.core_setCore_same, State.core_setCore_same]
  · rw [State.core_setCore_other _ _ own, State.core_setCore_same]

/-- A core that is full and held back passes the oldest token on. -/
theorem execProbeTokenForward_full {d : Nat} (full : 64 ≤ (s.core c.ix).inboxCount) (held : (s.core c.ix).heldSince ≠ none)
    (head : s.headCore c.ix = some d) (other : d ≠ c.ix) : ∃ t : State, execProbeTokenForward c s = .next t ∧
    (t.core c.ix).tokens = rest ∧
    (if d = o then (t.core d).tokenBack = true else (t.core d).tokens = (s.core d).tokens ++ [o]) := by
  have isHeld : (s.core c.ix).heldSince.isSome = true := Option.isSome_iff_ne_none.mpr held
  simp only [execProbeTokenForward, oldest, full, isHeld, head, decide_true, Bool.and_self, if_true]
  refine ⟨_, rfl, ?_, ?_⟩
  · rw [State.sendToken_other _ _ (Ne.symm other), State.core_setCore_same]
  · split
    next back => rw [back, State.sendToken_back]
    next on => rw [State.sendToken_joins _ on, State.core_setCore_other _ _ other]

end

/-! ## The reserve entry (R244) -/

/-- Nothing is taken in without a token that is back, with the reserve entry in use, or while arrivals go to the spill
queue. -/
theorem execEmergencyEntry_idle (h : (s.core c.ix).tokenBack = false ∨ (s.core c.ix).reserveUsed = true ∨
    (s.core c.ix).diverting = true ∨ (s.core c.ix).preempted = true) : execEmergencyEntry c s = .next s := by
  unfold execEmergencyEntry
  exact if_pos (by rcases h with h | h | h | h <;> simp [h])

/-- The operation held back on a channel is the one in flight of its number, with none of its issuer for the core ahead. -/
theorem State.heldOn_op {i n : Nat} {o : Op} (at' : (s.dev.ops.findIdx? fun x => x.id == o.id) = some i)
    (found : s.dev.ops[i]? = some o) (owner : o.owner = n) (released : s.released o.rel = true)
    (first : ∀ x ∈ s.dev.ops.take i, x.issuer = o.issuer → x.owner ≠ n) :
    s.heldOn n (chanOp o.id) = some (.op o, s.setDev { s.dev with ops := s.dev.ops.eraseIdx i }) := by
  have kind : chanOp o.id % 3 = 2 := by unfold chanOp; omega
  have number : chanOp o.id / 3 = o.id := by unfold chanOp; omega
  have alone : ((s.dev.ops.take i).any fun x => x.issuer == o.issuer && x.owner == n) = false := by
    simpa using first
  simp only [State.heldOn, kind, number, at', found, owner, released, alone]
  simp

section
variable (back : (s.core c.ix).tokenBack = true) (unused : (s.core c.ix).reserveUsed = false)
  (entering : (s.core c.ix).diverting = false) (run : (s.core c.ix).preempted = false)
include back unused entering run

theorem execEmergencyEntry_none (empty : (s.core c.ix).blocked = []) : execEmergencyEntry c s =
    .next (s.setCore c.ix { s.core c.ix with tokenBack := false, tokenOut := false }) := by
  simp [execEmergencyEntry, back, unused, entering, run, empty, State.heldInput]

/-- The operation that the channel held back first holds back enters the reserve entry. -/
theorem execEmergencyEntry_op {i : Nat} {o : Op} {rest : List Nat}
    (oldest : (s.core c.ix).blocked = chanOp o.id :: rest) (at' : (s.dev.ops.findIdx? fun x => x.id == o.id) = some i)
    (found : s.dev.ops[i]? = some o) (owner : o.owner = c.ix) (released : s.released o.rel = true)
    (first : ∀ x ∈ s.dev.ops.take i, x.issuer = o.issuer → x.owner ≠ c.ix) :
    ∃ t : State, execEmergencyEntry c s = .next t ∧ t.dev.ops = s.dev.ops.eraseIdx i ∧
      (t.core c.ix).opInbox = (s.core c.ix).opInbox ++ [{ o with reserve := true }] ∧ (t.core c.ix).tokenBack = false ∧
      (t.core c.ix).tokenOut = false ∧ (t.core c.ix).blocked = (s.core c.ix).blocked.filter fun x => x != chanOp o.id := by
  let k : Core := { s.core c.ix with tokenBack := false, tokenOut := false }
  have held : (s.setCore c.ix k).heldOn c.ix (chanOp o.id) =
      some (.op o, (s.setCore c.ix k).setDev { s.dev with ops := s.dev.ops.eraseIdx i }) :=
    State.heldOn_op at' found owner released first
  have input : (s.setCore c.ix k).heldInput c.ix (s.core c.ix).blocked = some (.op o,
      ((s.setCore c.ix k).setDev { s.dev with ops := s.dev.ops.eraseIdx i }).setCore c.ix (k.unblock (chanOp o.id))) := by
    rw [oldest, State.heldInput, held]
    exact congrArg (fun x => some (HeldInput.op o, State.setCore _ c.ix (Core.unblock x (chanOp o.id))))
      (State.core_setCore_same ..)
  unfold execEmergencyEntry
  dsimp only
  rw [if_neg (by simp [back, unused, entering, run]), input]
  dsimp only
  refine ⟨_, rfl, rfl, ?_⟩
  simp only [State.core_setCore_same]
  exact ⟨rfl, rfl, rfl, rfl⟩

end
end

/-- Settles O50: each event by the lemma on its outcome; the end of carried code by what a reply and the drained store buffer
leave, the messages that wait for journal entries by what joining a port leaves of every actor. -/
theorem inboxEvents : Obligations.InboxEvents := by
  intro s c
  refine ⟨fun o head kind last => ⟨fun s2 run => ?_, fun done => ?_, fun i faulted reply =>
      (exec_carriedCodeRun ..).trans (execCarriedCodeRun_faults head kind last faulted reply)⟩,
    fun none => (exec_journalAppend ..).trans (execJournalAppend_idle none),
    fun a m rest e room waiting known => execJournalAppend_room room waiting known,
    fun a none first => (exec_journalAppend ..).trans (execJournalAppend_full none first),
    fun run spilling => ⟨fun empty => (exec_spillRedelivery ..).trans (execSpillRedelivery_empty run spilling empty),
      fun m rest oldest => ⟨execSpillRedelivery_room run spilling oldest,
        fun full => (exec_spillRedelivery ..).trans (execSpillRedelivery_full run spilling oldest full)⟩⟩,
    fun d h held due full out unused head => execProbeTokenSend_due held due full out unused head,
    fun o rest oldest => ⟨execProbeTokenForward_room oldest,
      fun d full held head other => execProbeTokenForward_full oldest full held head other⟩,
    fun h => (exec_emergencyEntry ..).trans (execEmergencyEntry_idle h),
    fun back unused entering run => ⟨fun empty => (exec_emergencyEntry ..).trans (execEmergencyEntry_none back unused entering run empty),
      fun i o rest oldest at' found owner released first =>
        execEmergencyEntry_op back unused entering run oldest at' found owner released first⟩⟩
  · obtain ⟨cur, idle, sb, reply⟩ := State.carriedEnd_answers s s2 c o
    exact ⟨_, (exec_carriedCodeRun ..).trans (execCarriedCodeRun_ends head kind last run), cur, idle, sb, fun waits _ => reply waits⟩
  · have run : runCarried (.handler c) (s.carriedStart c o) 0 o.words = .finished (s.carriedStart c o) := by
      have words : o.words = 0x0E00002B#32 :: (List.range 5).map fun i => o.pay.extractLsb' (32 * (i + 1)) 32 := by
        rw [← done]
        rfl
      rw [words]
      exact runCarried_done
    obtain ⟨cur, idle, sb, reply⟩ := State.carriedEnd_answers s (s.carriedStart c o) c o
    rw [State.carriedStart_reg, capAddr_dataReg] at reply
    exact ⟨_, (exec_carriedCodeRun ..).trans (execCarriedCodeRun_ends head kind last run), cur, idle, sb, fun waits _ => reply waits⟩

end Sys2Proof.Machine
end

section
/-! PROOFS. What reads of tables and homes, reports and messages to other devices leave (01/R25, R27; 21/R350; 23/R376). -/

namespace Sys2Proof.Machine

/-! ## Folds -/

section
variable {α σ : Type} {R : σ → σ → Prop} (refl : ∀ s, R s s) (trans : ∀ {s t u}, R s t → R t u → R s u) {f : σ → α → σ}
  (step : ∀ s x, R s (f s x))
include refl trans step

/-- A fold whose steps each follow a reflexive and transitive relation follows it. -/
theorem foldl_follows (l : List α) (s : σ) : R s (l.foldl f s) :=
  List.foldlRecOn l f (refl s) fun u h x _ => trans h (step u x)

/-- Such a fold passes, for each of its elements, a state that it reaches, and goes on from that element's step. -/
theorem foldl_follows_through {l : List α} {x : α} (hx : x ∈ l) (s : σ) : ∃ u, R s u ∧ R (f u x) (l.foldl f s) := by
  obtain ⟨before, after, rfl⟩ := List.append_of_mem hx
  rw [List.foldl_append, List.foldl_cons]
  exact ⟨_, foldl_follows refl trans step before s, foldl_follows refl trans step after _⟩

end

/-! ## Reads of tables and homes -/

/-- `t` is `s` with more copies of tables and of translations held. -/
def State.Holds (s t : State) : Prop :=
  ∃ tables pages, t = { s with dev := { s.dev with tables := tables, pages := pages } }

theorem State.Holds.refl (s : State) : s.Holds s := ⟨_, _, rfl⟩

theorem State.Holds.trans {s t u : State} (h : s.Holds t) (h' : t.Holds u) : s.Holds u := by
  obtain ⟨_, _, rfl⟩ := h
  obtain ⟨_, _, rfl⟩ := h'
  exact ⟨_, _, rfl⟩

theorem State.Holds.core {s t : State} (h : s.Holds t) (n : Nat) : t.core n = s.core n := by
  obtain ⟨_, _, rfl⟩ := h
  rfl

theorem State.copyDword_holds (s : State) (die key q : Nat) : s.Holds (s.copyDword die key q).2 := by
  unfold State.copyDword
  dsimp only
  split
  · exact .refl s
  · exact ⟨_, _, rfl⟩

theorem State.tableWords_holds (s : State) (die : Nat) (part : BitVec 8) (q n : Nat) :
    s.Holds (s.tableWords die part q n).2 := by
  induction n generalizing s q with
  | zero => exact .refl s
  | succ n ih => exact (s.copyDword_holds die part.toNat q).trans (ih (s.copyDword die part.toNat q).2 (q + 8))

theorem State.readDesc_holds (s : State) (die : Nat) (part : BitVec 8) (cls : BitVec 16) : s.Holds (s.readDesc die part cls).2 := by
  simp only [State.readDesc]
  exact s.tableWords_holds ..

theorem State.gangDesc_holds (s : State) (part : BitVec 8) (g : Nat) : s.Holds (s.gangDesc part g).2 := by
  simp only [State.gangDesc]
  exact s.tableWords_holds ..

theorem State.findHome_holds (s : State) (die : Nat) (d : BitVec 512) (part : BitVec 8) (cls : BitVec 16) (key : BitVec 64) :
    s.Holds (s.findHome die d part cls key).2 := by
  unfold State.findHome
  dsimp only
  split
  · unfold State.holdPage
    dsimp only
    split
    · exact .refl s
    · exact ⟨_, _, rfl⟩
  · exact .refl s

/-! ## Reports -/

/-- `t` is `s` after writes at dies: the records of launches and what the cores, the clusters and the device hold are the
same. -/
structure State.Written (s t : State) : Prop where
  cores : t.cores = s.cores
  clusters : t.clusters = s.clusters
  dev : ∃ o, t.dev = { s.dev with wseq := o }
  pool : ∀ n, (t.die n).pool = (s.die n).pool

theorem State.Written.refl (s : State) : s.Written s := ⟨rfl, rfl, ⟨_, rfl⟩, fun _ => rfl⟩

theorem State.Written.trans {s t u : State} (h : s.Written t) (h' : t.Written u) : s.Written u := by
  obtain ⟨o, dev⟩ := h.dev
  obtain ⟨o', dev'⟩ := h'.dev
  exact ⟨h'.cores.trans h.cores, h'.clusters.trans h.clusters, ⟨o', by rw [dev', dev]⟩, fun n => (h'.pool n).trans (h.pool n)⟩

theorem State.Written.num {s t : State} (h : s.Written t) : t.dev.num = s.dev.num := by
  obtain ⟨o, dev⟩ := h.dev
  rw [dev]

theorem State.Written.gangs {s t : State} (h : s.Written t) : t.dev.gangs = s.dev.gangs := by
  obtain ⟨o, dev⟩ := h.dev
  rw [dev]

theorem State.setDie_pool {s : State} {d : Nat} {k : Die} (h : k.pool = (s.die d).pool) (n : Nat) :
    ((s.setDie d k).die n).pool = (s.die n).pool := by
  by_cases same : n = d
  · rw [same, State.die_setDie_same, h]
  · rw [State.die_setDie_other _ _ same]

theorem State.carryOut_written (s : State) (d : Nat) (e : CarryEntry) : s.Written (s.carryOut d e) := by
  unfold State.carryOut
  dsimp only
  split
  · exact .refl s
  · refine ⟨rfl, rfl, ⟨_, rfl⟩, fun n => ?_⟩
    apply State.setDie_pool
    rfl

theorem State.install_pool (s : State) (d o : Nat) (cells : List (Nat × Byte)) (n : Nat) :
    ((s.install d o cells).die n).pool = (s.die n).pool :=
  State.setDie_pool (s := s) (k := { s.die d with view := (s.die d).view.install o cells }) rfl n

theorem State.writeAt_written (s : State) (d : Nat) (cells : List (Nat × Byte)) (r : Bool) (prior : Map Nat) :
    s.Written (s.writeAt d cells r prior) := by
  refine State.Written.trans ?_ (State.carryOut_written ..)
  exact ⟨rfl, rfl, ⟨_, rfl⟩, State.install_pool _ d (s.dev.wseq + 1) cells⟩

theorem State.report_written (s : State) (d : Nat) (r : MailRec) : s.Written (s.report d r) := by
  unfold State.report
  dsimp only
  split
  · exact s.writeAt_written ..
  · exact (s.writeAt_written ..).trans (State.writeAt_written ..)

theorem State.reportHeld_written (s : State) (x : Counted) : s.Written (s.reportHeld x) := by
  unfold State.reportHeld
  exact s.report_written ..

/-! ## Messages to other devices -/

theorem State.sendFlit_keeps (s : State) (port : Nat) (f : Flit) :
    (s.sendFlit port f).cores = s.cores ∧ (s.sendFlit port f).dev.num = s.dev.num ∧ (s.sendFlit port f).dev.gangs = s.dev.gangs := by
  unfold State.sendFlit State.enterSwitch
  dsimp only
  split
  · split <;> exact ⟨rfl, rfl, rfl⟩
  · exact ⟨rfl, rfl, rfl⟩

/-- A flit of the MSG discipline leaves the cores, the device's number and the gangs that it knows. -/
theorem State.sendUnder_keeps (s : State) (dst : BitVec 12) (x : Counted) :
    (s.sendUnder dst x).cores = s.cores ∧ (s.sendUnder dst x).dev.num = s.dev.num ∧
      (s.sendUnder dst x).dev.gangs = s.dev.gangs := by
  unfold State.sendUnder
  dsimp only
  split
  · split
    · exact ⟨rfl, rfl, rfl⟩
    · exact State.sendFlit_keeps ..
  · split
    · exact ⟨rfl, rfl, rfl⟩
    · exact ⟨(State.reportHeld_written _ x).cores, (State.reportHeld_written _ x).num, (State.reportHeld_written _ x).gangs⟩

theorem State.sendMessage_keeps (s : State) (die : Nat) (dst : BitVec 12) (m : Message) :
    (s.sendMessage die dst m).cores = s.cores ∧ (s.sendMessage die dst m).dev.num = s.dev.num ∧
      (s.sendMessage die dst m).dev.gangs = s.dev.gangs :=
  s.sendUnder_keeps ..

end Sys2Proof.Machine
end

section
/-! PROOFS. The launcher and the sweeps (11/R230, R231, R233 to R236). -/

namespace Sys2Proof.Machine

/-! ## Expansion (R230) -/

/-- The record of a die's pool ended. -/
def State.dropRecord (s : State) (d i : Nat) : State := s.setDie d { s.die d with pool := (s.die d).pool.drop i }

theorem State.dropRecord_pool (s : State) (d i : Nat) : ((s.dropRecord d i).die d).pool.find i = none := by
  rw [State.dropRecord, State.die_setDie_same, Map.find_drop_same]

theorem State.dropRecord_report_pool (s : State) (d i : Nat) (r : LaunchRec) (cause : BitVec 6) :
    (((s.dropRecord d i).launcherReport d r cause).die d).pool.find i = none := by
  rw [State.launcherReport, (State.report_written ..).pool, State.dropRecord_pool]

section
variable {s : State} {die : Fin 8}

section
variable {i : Nat} {r : LaunchRec} (next : ((s.die die.val).pool.find? fun x => !x.2.started) = some (i, r))
include next

theorem execLaunchExpansionStart_waits {va : Nat} (missing : s.launcherMissing die.val r = some va) :
    execLaunchExpansionStart die s = .next (s.askUnit (unitKey die.val 23) die.val r.part va) := by
  simp only [execLaunchExpansionStart, next, missing]

section
variable (held : s.launcherMissing die.val r = none)
include held

theorem execLaunchExpansionStart_unread (unread : s.launchCount die.val r = none) : ∃ t : State,
    execLaunchExpansionStart die s = .next t ∧ (t.die die.val).pool.find i = none := by
  simp only [execLaunchExpansionStart, next, held, unread]
  exact ⟨_, rfl, State.dropRecord_report_pool ..⟩

section
variable {n : Nat} (count : s.launchCount die.val r = some n)
include count

theorem execLaunchExpansionStart_large (large : 1048575 < n) : ∃ t : State,
    execLaunchExpansionStart die s = .next t ∧ (t.die die.val).pool.find i = none := by
  simp only [execLaunchExpansionStart, next, held, count, large, if_true]
  exact ⟨_, rfl, State.dropRecord_report_pool ..⟩

section
variable (most : n ≤ 1048575) {desc : BitVec 512} {s1 : State} (read : s.readDesc die.val r.part (recClass r.w0) = (desc, s1))
include most read

theorem execLaunchExpansionStart_empty (ends : launchRefusal desc r ≠ none ∨ n = 0) : ∃ t : State,
    execLaunchExpansionStart die s = .next t ∧ (t.die die.val).pool.find i = none := by
  simp only [execLaunchExpansionStart, next, held, count, Nat.not_lt.mpr most, if_false, read]
  cases refusal : launchRefusal desc r with
  | some cause => exact ⟨_, rfl, State.dropRecord_report_pool ..⟩
  | none =>
    have zero : n = 0 := ends.resolve_left (not_not_intro refusal)
    rw [if_pos zero]
    exact ⟨_, rfl, State.dropRecord_pool ..⟩

theorem execLaunchExpansionStart_starts (taken : launchRefusal desc r = none) (some : n ≠ 0) : ∃ t : State,
    execLaunchExpansionStart die s = .next t ∧
      (t.die die.val).pool.find i = .some { r with started := true, n := n, desc := desc } := by
  simp only [execLaunchExpansionStart, next, held, count, Nat.not_lt.mpr most, if_false, read, taken, some]
  exact ⟨_, rfl, by rw [State.die_setDie_same, Map.find_put_same]⟩

end
end
end
end

/-! ## Items (R230, R231) -/

/-- The record whose turn it is, where it alone has items left. -/
theorem execLaunchItem_one {n : Nat} {r : LaunchRec}
    (one : ((s.die die.val).pool.filter fun x => x.2.itemsLeft) = [(n, r)]) : execLaunchItem die s =
      .next (((s.launchOne die.val n r).getD s).setDie die.val
        { ((s.launchOne die.val n r).getD s).die die.val with nextRec := n + 1 }) := by
  have turn : ([(n, r)].filter fun x => (s.die die.val).nextRec ≤ x.1) ++ ([(n, r)].filter fun x => x.1 < (s.die die.val).nextRec) =
      [(n, r)] := by
    by_cases h : (s.die die.val).nextRec ≤ n
    · simp [h, Nat.not_lt.mpr h]
    · simp [h, Nat.lt_of_not_le h]
  simp only [execLaunchItem, one, turn]

theorem execLaunchItem_none (none : ((s.die die.val).pool.filter fun x => x.2.itemsLeft) = []) :
    execLaunchItem die s = .next s := by
  simp only [execLaunchItem, none, List.filter_nil, List.append_nil]

/-- A record once its item is made, as `f` further changes it. -/
def State.itemMade (s : State) (die n : Nat) (f : LaunchRec → LaunchRec) : State :=
  match (s.die die).pool.find n with
  | some x => s.setDie die { s.die die with pool := (s.die die).pool.put n (f x.made) }
  | none => s

section
variable {d n : Nat} {r : LaunchRec} {f : LaunchRec → LaunchRec}

theorem State.itemMade_dev : (s.itemMade d n f).dev = s.dev := by
  unfold State.itemMade
  split <;> rfl

theorem State.itemMade_cores : (s.itemMade d n f).cores = s.cores := by
  unfold State.itemMade
  split <;> rfl

theorem State.itemMade_sent : ((s.itemMade d n f).die d).sent = (s.die d).sent := by
  unfold State.itemMade
  split
  · rw [State.die_setDie_same]
  · rfl

theorem State.itemMade_pool (known : (s.die d).pool.find n = some r) :
    ((s.itemMade d n f).die d).pool.find n = some (f r.made) := by
  rw [State.itemMade, known]
  simp only [State.die_setDie_same, Map.find_put_same]

theorem LaunchRec.made_next (first : r.again = []) : r.made = { r with next := r.next + 1 } := if_pos first

end

/-! ### Messages -/

/-- The message of the item that a record makes next. -/
def LaunchRec.message (r : LaunchRec) (die n : Nat) : Message :=
  { part := r.part, cls := recClass r.w0, key := r.key r.item,
    hdr := mkHdr (recPort r.w0) 0 (recDepth r.w0) 0 (recLtag r.w0) 0 0,
    pay := mkPay r.w2 (BitVec.ofNat 64 r.item) r.aux (BitVec.ofNat 64 n) 0 0, item := some (die, n, r.item) }

theorem hdrDepth_mkHdr (port kind : BitVec 2) (depth : BitVec 4) (prio : BitVec 8) (ltag : BitVec 12) (sub : BitVec 4)
    (delta : BitVec 32) : hdrDepth (mkHdr port kind depth prio ltag sub delta) = depth :=
  extract_append_skip (extract_append_skip extract_append_here)

theorem payWord_mkPay_fourth (a b c d e f : BitVec 64) : payWord (mkPay a b c d e f) 3 = d :=
  extract_append_skip (high := f ++ e ++ d ++ c ++ b) (low := a) (start := 64 + (64 + 0))
    (extract_append_skip (high := f ++ e ++ d ++ c) (low := b) (start := 64 + 0)
      (extract_append_skip (high := f ++ e ++ d) (low := c) extract_append_here))

end

section
variable {s : State} {die : Fin 8}

theorem execLaunchItem_message {n : Nat} {r : LaunchRec} {dev h clu : Nat}
    (one : ((s.die die.val).pool.filter fun x => x.2.itemsLeft) = [(n, r)]) (known : (s.die die.val).pool.find n = some r)
    (keyed : descSheet r.desc = false) (held : s.homeMissing r.desc r.part (r.key r.item) = none)
    (home : (s.launcherSent die.val r.part (recLtag r.w0)).homeOf die.val r.desc r.part (recClass r.w0) (r.key r.item) = .at dev h clu) :
    ∃ t : State, execLaunchItem die s = .next t ∧
      t.dev.unitMsgs = s.dev.unitMsgs ++ [{ unit := unitLauncher die.val, m := r.message die.val n, dest := .home dev h clu }] ∧
      (t.die die.val).sent = countUp (s.die die.val).sent r.part (recLtag r.w0) ∧
      (t.die die.val).pool.find n = some r.made ∧ (t.die die.val).nextRec = n + 1 := by
  obtain ⟨tables, pages, holds⟩ := (s.launcherSent die.val r.part (recLtag r.w0)).findHome_holds die.val r.desc r.part
    (recClass r.w0) (r.key r.item)
  have sends : s.launchMessage die.val n r =
      State.unitSend ((s.launcherSent die.val r.part (recLtag r.w0)).findHome die.val r.desc r.part (recClass r.w0) (r.key r.item)).2
        (unitLauncher die.val) (r.message die.val n) (.home dev h clu) none := by
    have found : (s.launcherSent die.val r.part (recLtag r.w0)).findHome die.val r.desc r.part (recClass r.w0) (r.key r.item) =
        (.at dev h clu, _) := Prod.ext home rfl
    simp only [State.launchMessage]
    rw [found]
    rfl
  rw [holds] at sends
  have made : s.launchOne die.val n r = some ((s.launchMessage die.val n r).itemMade die.val n id) := by
    simp only [State.launchOne, keyed, held]
    rfl
  have sent : ((s.launchMessage die.val n r).die die.val) =
      { s.die die.val with sent := countUp (s.die die.val).sent r.part (recLtag r.w0) } := by
    rw [sends]
    exact State.die_setDie_same ..
  have pool : ((s.launchMessage die.val n r).die die.val).pool.find n = some r := by rw [sent]; exact known
  refine ⟨_, execLaunchItem_one one, ?_⟩
  rw [made, Option.getD_some]
  refine ⟨?_, ?_, ?_, ?_⟩
  · rw [State.setDie_dev, State.itemMade_dev, sends]
    rfl
  · rw [State.die_setDie_same]
    dsimp only
    rw [State.itemMade_sent, sent]
  · rw [State.die_setDie_same]
    exact State.itemMade_pool pool
  · rw [State.die_setDie_same]

/-! ### Sheets -/

section
variable {n c : Nat} {r : LaunchRec} (one : ((s.die die.val).pool.filter fun x => x.2.itemsLeft) = [(n, r)])
  (sheet : descSheet r.desc = true) (serves : s.nextServing die.val r.nextCore r.part = some c)
include one sheet serves

/-- No other core takes the sheet while the next in the rotation has no room. -/
theorem execLaunchItem_sheet_waits (full : (s.core (die.val * 2048 + c)).pushSheet (r.sheet die.val n r.item) = none) :
    ∃ t : State, execLaunchItem die s = .next t ∧ (t.die die.val).pool = (s.die die.val).pool ∧ t.cores = s.cores := by
  have none : s.launchOne die.val n r = none := by simp only [State.launchOne, sheet, serves, full, if_true]
  refine ⟨_, execLaunchItem_one one, ?_⟩
  rw [none, Option.getD_none]
  exact ⟨by rw [State.die_setDie_same], rfl⟩

theorem execLaunchItem_sheet {z : Bool} {k : Core} (known : (s.die die.val).pool.find n = some r)
    (taken : (s.core (die.val * 2048 + c)).pushSheet (r.sheet die.val n r.item) = some (z, k)) :
    ∃ t : State, execLaunchItem die s = .next t ∧ t.core (die.val * 2048 + c) = k ∧
      (t.die die.val).sent = countUp (s.die die.val).sent r.part (recLtag r.w0) ∧
      (t.die die.val).pool.find n = some { r.made with nextCore := (c + 1) % 2048 } := by
  let u : State := (s.setCore (die.val * 2048 + c) k).launcherSent die.val r.part (recLtag r.w0)
  have made : s.launchOne die.val n r = some (u.itemMade die.val n fun x => { x with nextCore := (c + 1) % 2048 }) := by
    simp only [State.launchOne, sheet, serves, taken, if_true]
    rfl
  have sent : u.die die.val = { s.die die.val with sent := countUp (s.die die.val).sent r.part (recLtag r.w0) } :=
    State.die_setDie_same ..
  have pool : (u.die die.val).pool.find n = some r := by rw [sent]; exact known
  refine ⟨_, execLaunchItem_one one, ?_⟩
  rw [made, Option.getD_some]
  refine ⟨?_, ?_, ?_⟩
  · rw [State.setDie_core, State.core, State.itemMade_cores]
    exact State.core_setCore_same ..
  · rw [State.die_setDie_same]
    dsimp only
    rw [State.itemMade_sent, sent]
  · rw [State.die_setDie_same]
    exact State.itemMade_pool pool

end

end

/-! ## Sweeps (R234 to R236) -/

/-- Two states with the same notices, the same sweeps under way and the same sums of the sweeps before. -/
structure State.SameSweeps (s t : State) : Prop where
  notices : t.dev.notices = s.dev.notices
  sweeping : t.dev.sweeping = s.dev.sweeping
  sweeps : t.dev.sweeps = s.dev.sweeps

theorem State.SameSweeps.refl (s : State) : s.SameSweeps s := ⟨rfl, rfl, rfl⟩

theorem State.SameSweeps.trans {s t u : State} (h : s.SameSweeps t) (h' : t.SameSweeps u) : s.SameSweeps u :=
  ⟨h'.notices.trans h.notices, h'.sweeping.trans h.sweeping, h'.sweeps.trans h.sweeps⟩

theorem State.Holds.sameSweeps {s t : State} (h : s.Holds t) : s.SameSweeps t := by
  obtain ⟨_, _, rfl⟩ := h
  exact ⟨rfl, rfl, rfl⟩

theorem State.Written.sameSweeps {s t : State} (h : s.Written t) : s.SameSweeps t := by
  obtain ⟨_, dev⟩ := h.dev
  exact ⟨by rw [dev], by rw [dev], by rw [dev]⟩

theorem foldl_sameSweeps {α : Type} {f : State → α → State} (hf : ∀ (s : State) (x : α), s.SameSweeps (f s x)) (l : List α) (s : State) :
    s.SameSweeps (l.foldl f s) :=
  foldl_follows (R := State.SameSweeps) .refl .trans hf l s

/-- The notices armed for a tag are armed no longer once they are sent. -/
theorem State.sendNotices_sameSweeps (s : State) (part : BitVec 8) (tag : BitVec 12) (sum : BitVec 32) :
    State.SameSweeps (s.setDev { s.dev with notices := s.dev.notices.filter fun n => !(n.part == part && n.tag == tag) })
      (s.sendNotices part tag sum) := by
  refine foldl_sameSweeps (fun u n => ?_) _ _
  dsimp only
  split
  · exact (u.readDesc_holds ..).sameSweeps.trans (State.report_written ..).sameSweeps
  · split
    next found =>
      have holds := (u.readDesc 0 part n.cls).2.findHome_holds 0 (u.readDesc 0 part n.cls).1 part n.cls n.key
      rw [found] at holds
      obtain ⟨notices, sweeping, sweeps⟩ := (u.readDesc_holds 0 part n.cls).sameSweeps.trans holds.sameSweeps
      exact ⟨notices, sweeping, sweeps⟩
    next => exact (u.readDesc_holds ..).sameSweeps.trans (State.report_written ..).sameSweeps

/-- On a device that is its own domain, the sums of a tag are the device's own. -/
theorem State.domainSum_alone {s : State} (alone : ∀ y ∈ s.dev.domain, y = s.dev.num) (part : BitVec 8) (tag : BitVec 12)
    (own : SweepSum) : s.domainSum part tag own = own := by
  have none : (s.dev.domain.filter fun d => d != s.dev.num) = [] := by simpa [List.filter_eq_nil_iff] using alone
  rw [State.domainSum, none, List.foldl_nil]

section
variable {s : State} {part : BitVec 8} {tag : BitVec 12} {own : SweepSum} (alone : ∀ y ∈ s.dev.domain, y = s.dev.num)
include alone

/-- A tag whose sums are equal and idle at two sweeps has ended. -/
theorem State.sweepTag_ended (last : s.dev.sweeps.find (tagKey part tag) = some own) (idle : own.idle = true)
    (equal : own.sent = own.recv) : s.sweepTag part tag own =
      (s.setDev { s.dev with sweeps := s.dev.sweeps.drop (tagKey part tag) }).sendNotices part tag own.sent := by
  have none : (s.dev.domain.filter fun d => d != s.dev.num) = [] := by simpa [List.filter_eq_nil_iff] using alone
  have ended : (own.idle && own.idle && own.sent == own.recv && own == own) = true := by simp [idle, equal]
  simp only [State.sweepTag, State.domainSum_alone alone, last, none, List.foldl_nil, ended, if_true]

theorem State.sweepTag_goes_on (differs : ¬(s.dev.sweeps.find (tagKey part tag) = some own ∧ own.idle = true ∧ own.sent = own.recv)) :
    s.sweepTag part tag own = s.setDev { s.dev with sweeps := s.dev.sweeps.put (tagKey part tag) own } := by
  have none : (s.dev.domain.filter fun d => d != s.dev.num) = [] := by simpa [List.filter_eq_nil_iff] using alone
  simp only [State.sweepTag, State.domainSum_alone alone, none, List.foldl_nil]
  refine if_neg fun ended => differs ?_
  split at ended
  next y last =>
    simp only [Bool.and_eq_true, beq_iff_eq] at ended
    obtain ⟨⟨⟨idle, -⟩, equal⟩, same⟩ := ended
    exact ⟨same ▸ last, idle, equal⟩
  next => cases ended

end

section
variable {s : State} {part : BitVec 8}

section
variable (none : s.dev.sweeping.find part.toNat = none)
include none

theorem execLaunchSweep_early (early : (s.core (s.rootOf part)).cyc < s.dev.sweepAt.getD part.toNat 0 + 65536) :
    execLaunchSweep part s = .next s := by
  simp only [execLaunchSweep, none, early, if_true]

theorem execLaunchSweep_begins (due : s.dev.sweepAt.getD part.toNat 0 + 65536 ≤ (s.core (s.rootOf part)).cyc) :
    ∃ (t : State) (y : Sweeping), execLaunchSweep part s = .next t ∧ t.dev.sweeping.find part.toNat = some y ∧
      y.left = s.sweepUnits ∧ y.sums = [] ∧ (∀ x ∈ s.dev.notices, x.part = part → x.tag ∈ y.tags) ∧
      t.dev.sweepAt.find part.toNat = some (s.core (s.rootOf part)).cyc ∧ t.dev.notices = s.dev.notices := by
  simp only [execLaunchSweep, none, Nat.not_lt.mpr due, if_false]
  refine ⟨_, _, rfl, Map.find_put_same .., rfl, rfl, fun x armed own => ?_, Map.find_put_same .., rfl⟩
  have listed : x.tag.toNat ∈ distinct ((s.dev.notices.filter fun n => n.part == part).map fun n => n.tag.toNat) :=
    mem_distinct_iff.mpr (List.mem_map_of_mem (List.mem_filter.mpr ⟨armed, beq_iff_eq.mpr own⟩))
  exact List.mem_map.mpr ⟨_, listed, BitVec.ofNat_toNat ..⟩

end

theorem pickOf_mem {l : List Nat} (f : BitVec 64) (some : l ≠ []) : pickOf f l ∈ l := by
  have least : f.toNat % l.length < l.length := Nat.mod_lt _ (List.length_pos_iff.mpr some)
  rw [pickOf, List.getD_eq_getElem _ _ least]
  exact List.getElem_mem least

section
variable {x : Sweeping} (under : s.dev.sweeping.find part.toNat = some x)
include under

/-- One unit of those left is read. -/
theorem execLaunchSweep_reads (left : x.left ≠ []) : ∃ (t : State) (u : Nat), u ∈ x.left ∧ execLaunchSweep part s = .next t ∧
    t.dev.notices = s.dev.notices ∧ t.dev.sweeping.find part.toNat = some (x.read s part u) := by
  simp only [execLaunchSweep, under, left, if_false]
  exact ⟨_, _, pickOf_mem _ left, rfl, rfl, Map.find_put_same ..⟩

end

/-- The machine once the sweep of a partition under way is over. -/
def State.sweepOver (s : State) (part : BitVec 8) : State :=
  s.setDev { s.dev with sweeping := s.dev.sweeping.drop part.toNat }

section
variable {x : Sweeping} {tag : BitVec 12} (under : s.dev.sweeping.find part.toNat = some x) (read : x.left = [])
  (one : x.tags = [tag])
include under read one

/-- The tag of a sweep is judged once the last unit is read. -/
theorem execLaunchSweep_judges : execLaunchSweep part s =
    .next ((s.sweepOver part).sweepTag part tag (x.sums.getD tag.toNat SweepSum.none)) := by
  simp only [execLaunchSweep, under, read, if_true, one, List.foldl_cons, List.foldl_nil]
  rfl

section
variable (alone : ∀ y ∈ s.dev.domain, y = s.dev.num)
include alone

theorem execLaunchSweep_ends (last : s.dev.sweeps.find (tagKey part tag) = some (x.sums.getD tag.toNat SweepSum.none))
    (idle : (x.sums.getD tag.toNat SweepSum.none).idle = true)
    (equal : (x.sums.getD tag.toNat SweepSum.none).sent = (x.sums.getD tag.toNat SweepSum.none).recv) :
    ∃ t : State, execLaunchSweep part s = .next t ∧ t.dev.sweeping.find part.toNat = none ∧
      t.dev.sweeps.find (tagKey part tag) = none ∧ ∀ y ∈ t.dev.notices, y.part = part → y.tag ≠ tag := by
  refine ⟨_, execLaunchSweep_judges under read one, ?_⟩
  rw [State.sweepTag_ended (s := s.sweepOver part) alone last idle equal]
  obtain ⟨notices, sweeping, sweeps⟩ := State.sendNotices_sameSweeps
    ((s.sweepOver part).setDev { (s.sweepOver part).dev with sweeps := (s.sweepOver part).dev.sweeps.drop (tagKey part tag) })
    part tag (x.sums.getD tag.toNat SweepSum.none).sent
  rw [notices, sweeping, sweeps]
  refine ⟨Map.find_drop_same .., Map.find_drop_same .., fun y armed own other => ?_⟩
  simpa [own, other] using (List.mem_filter.mp armed).2

theorem execLaunchSweep_goes_on (differs : ¬(s.dev.sweeps.find (tagKey part tag) = some (x.sums.getD tag.toNat SweepSum.none) ∧
    (x.sums.getD tag.toNat SweepSum.none).idle = true ∧
    (x.sums.getD tag.toNat SweepSum.none).sent = (x.sums.getD tag.toNat SweepSum.none).recv)) :
    ∃ t : State, execLaunchSweep part s = .next t ∧ t.dev.sweeping.find part.toNat = none ∧
      t.dev.sweeps.find (tagKey part tag) = some (x.sums.getD tag.toNat SweepSum.none) ∧ t.dev.notices = s.dev.notices := by
  refine ⟨_, execLaunchSweep_judges under read one, ?_⟩
  rw [State.sweepTag_goes_on (s := s.sweepOver part) alone differs]
  exact ⟨Map.find_drop_same .., Map.find_put_same .., rfl⟩

end
end
end

end Sys2Proof.Machine
end

section
/-! PROOFS. Gangs (11/R240 to R242). -/

namespace Sys2Proof.Machine

/-! ## Copies of tables that grow -/

/-- The copy of a dword that the units of a die hold. -/
def State.copyOf (s : State) (k q : Nat) : Option (BitVec 64) := (s.dev.tables.getD k []).find q

/-- `t` has the memories of `s` and its copies of tables, and beside these copies of what the memories hold. -/
structure State.ReadsLike (s t : State) : Prop where
  dies : t.dies = s.dies
  ctbase : t.dev.ctbase = s.dev.ctbase
  copies : ∀ k q, t.copyOf k q = s.copyOf k q ∨ s.copyOf k q = none ∧ t.copyOf k q = some (s.peek64 (k / 512) q)

theorem State.ReadsLike.refl (s : State) : s.ReadsLike s := ⟨rfl, rfl, fun _ _ => .inl rfl⟩

theorem State.ReadsLike.trans {s t u : State} (h : s.ReadsLike t) (h' : t.ReadsLike u) : s.ReadsLike u := by
  refine ⟨h'.dies.trans h.dies, h'.ctbase.trans h.ctbase, fun k q => ?_⟩
  rcases h'.copies k q with same | ⟨absent, held⟩
  · rw [same]
    exact h.copies k q
  · rw [held, State.peek64_congr h.dies]
    rcases h.copies k q with same | ⟨none, there⟩
    · exact .inr ⟨same ▸ absent, rfl⟩
    · cases absent.symm.trans there

/-- A read through the copies gives the copy that is held, or what memory holds. -/
theorem State.copyDword_fst (s : State) (die key q : Nat) :
    (s.copyDword die key q).1 = (s.copyOf (copyKey die key) q).getD (s.peek64 die q) := by
  unfold State.copyDword State.copyOf
  dsimp only
  split
  next found => rw [found, Option.getD_some]
  next absent => rw [absent, Option.getD_none]

/-- The keys of the copies: a partition's number, or 256. -/
theorem copyKey_die {die key : Nat} (h : key < 512) : copyKey die key / 512 = die := by
  unfold copyKey
  omega

/-- A read through the copies does not change what later reads give. -/
theorem State.copyDword_readsLike (s : State) {die key q : Nat} (h : key < 512) : s.ReadsLike (s.copyDword die key q).2 := by
  unfold State.copyDword
  dsimp only
  split
  next => exact .refl s
  next absent =>
    refine ⟨rfl, rfl, fun k z => ?_⟩
    unfold State.copyOf
    dsimp only
    by_cases hk : k = copyKey die key
    · subst hk
      rw [Map.getD_put_same]
      by_cases hz : z = q
      · subst hz
        rw [Map.find_put_same, copyKey_die h]
        exact .inr ⟨absent, rfl⟩
      · exact .inl (Map.find_put_other _ _ hz)
    · rw [Map.getD_put_other _ _ _ hk]
      exact .inl rfl

theorem State.ReadsLike.copyDword {s t : State} (h : s.ReadsLike t) {key : Nat} (hk : key < 512) (die q : Nat) :
    (t.copyDword die key q).1 = (s.copyDword die key q).1 := by
  rw [State.copyDword_fst, State.copyDword_fst, State.peek64_congr h.dies]
  rcases h.copies (copyKey die key) q with same | ⟨none, held⟩
  · rw [same]
  · rw [none, held, copyKey_die hk]
    rfl

theorem State.tableWords_readsLike (s : State) (die : Nat) (part : BitVec 8) (q n : Nat) :
    s.ReadsLike (s.tableWords die part q n).2 := by
  have key : part.toNat < 512 := Nat.lt_trans part.isLt (by decide)
  induction n generalizing s q with
  | zero => exact .refl s
  | succ n ih => exact (s.copyDword_readsLike key).trans (ih (s.copyDword die part.toNat q).2 (q + 8))

/-- The dwords of a partition's tables, each read through the copies that `s` holds. -/
def State.wordsHeld (s : State) (die : Nat) (part : BitVec 8) (q : Nat) : Nat → Nat
  | 0 => 0
  | n + 1 => (s.copyDword die part.toNat q).1.toNat + 2 ^ 64 * s.wordsHeld die part (q + 8) n

theorem State.ReadsLike.tableWords_held {s t : State} (h : s.ReadsLike t) (die : Nat) (part : BitVec 8) (q n : Nat) :
    (t.tableWords die part q n).1 = s.wordsHeld die part q n := by
  have key : part.toNat < 512 := Nat.lt_trans part.isLt (by decide)
  induction n generalizing t q with
  | zero => rfl
  | succ n ih =>
    have rest := ih (h.trans (t.copyDword_readsLike (die := die) (q := q) key)) (q + 8)
    simp only [State.tableWords, State.tableDword, State.wordsHeld, rest, h.copyDword key]

theorem State.ReadsLike.readDesc {s t : State} (h : s.ReadsLike t) (die : Nat) (part : BitVec 8) (cls : BitVec 16) :
    (t.readDesc die part cls).1 = (s.readDesc die part cls).1 := by
  simp only [State.readDesc, State.ctbaseOf, h.ctbase, h.tableWords_held, (State.ReadsLike.refl s).tableWords_held]

theorem State.ReadsLike.gangDesc {s t : State} (h : s.ReadsLike t) (part : BitVec 8) (g : Nat) :
    (t.gangDesc part g).1 = (s.gangDesc part g).1 := by
  simp only [State.gangDesc, State.ctbaseOf, h.ctbase, h.tableWords_held, (State.ReadsLike.refl s).tableWords_held]

theorem State.readDesc_readsLike (s : State) (die : Nat) (part : BitVec 8) (cls : BitVec 16) :
    s.ReadsLike (s.readDesc die part cls).2 := by
  simp only [State.readDesc]
  exact s.tableWords_readsLike ..

theorem State.gangDesc_readsLike (s : State) (part : BitVec 8) (g : Nat) : s.ReadsLike (s.gangDesc part g).2 := by
  simp only [State.gangDesc]
  exact s.tableWords_readsLike ..

/-! ## Reserving cores (R241) -/

/-- `t` is `s` with more cores reserved: no firing has changed, the tables read alike, every core that was reserved is still
so, and no gang beside those of `s` has started. -/
structure State.ReservesMore (s t : State) : Prop where
  ctxs : t.ctxs = s.ctxs
  num : t.dev.num = s.dev.num
  reads : s.ReadsLike t
  reserved : ∀ n, (s.core n).gangReserved ≠ none → (t.core n).gangReserved ≠ none
  gangs : ∀ y ∈ t.dev.gangs, y ∈ s.dev.gangs ∨ y.started = false

theorem State.ReservesMore.refl (s : State) : s.ReservesMore s := ⟨rfl, rfl, .refl s, fun _ h => h, fun _ h => .inl h⟩

theorem State.ReservesMore.trans {s t u : State} (h : s.ReservesMore t) (h' : t.ReservesMore u) : s.ReservesMore u :=
  ⟨h'.ctxs.trans h.ctxs, h'.num.trans h.num, h.reads.trans h'.reads, fun n r => h'.reserved n (h.reserved n r),
    fun y hy => (h'.gangs y hy).elim (h.gangs y) .inr⟩

theorem State.Holds.reservesMore {s t : State} (h : s.Holds t) (reads : s.ReadsLike t) : s.ReservesMore t := by
  obtain ⟨_, _, rfl⟩ := h
  exact ⟨rfl, rfl, reads, fun _ h => h, fun _ h => .inl h⟩

theorem State.readDesc_reservesMore (s : State) (die : Nat) (part : BitVec 8) (cls : BitVec 16) :
    s.ReservesMore (s.readDesc die part cls).2 :=
  (s.readDesc_holds ..).reservesMore (s.readDesc_readsLike ..)

theorem State.setCore_reservesMore {s : State} {n : Nat} {k : Core}
    (h : (s.core n).gangReserved ≠ none → k.gangReserved ≠ none) : s.ReservesMore (s.setCore n k) := by
  refine ⟨rfl, rfl, ⟨rfl, rfl, fun _ _ => .inl rfl⟩, fun m r => ?_, fun _ h => .inl h⟩
  by_cases same : m = n
  · subst same
    rw [State.core_setCore_same]
    exact h r
  · rw [State.core_setCore_other _ _ same]
    exact r

theorem State.incoming_reservesMore (s : State) (n : Nat) (x : Incoming) :
    s.ReservesMore (s.setCore n { s.core n with incoming := (s.core n).incoming ++ [x] }) :=
  State.setCore_reservesMore fun reserved => reserved

theorem State.setHearth_reservesMore (s : State) (home i : Nat) (h : Hearth) : s.ReservesMore (s.setHearth home i h) :=
  ⟨rfl, rfl, ⟨rfl, rfl, fun _ _ => .inl rfl⟩, fun _ h => h, fun _ h => .inl h⟩

theorem State.toHost_reservesMore (s : State) (home core : Nat) (x : HostItem) : s.ReservesMore (s.toHost home core x) :=
  ⟨rfl, rfl, ⟨rfl, rfl, fun _ _ => .inl rfl⟩, fun _ h => h, fun _ h => .inl h⟩

theorem State.chooseHost_reservesMore (s : State) (home i : Nat) : s.ReservesMore (s.chooseHost home i) := by
  unfold State.chooseHost
  dsimp only
  split
  · exact .refl s
  next h _ =>
    split
    · exact .refl s
    · refine (s.readDesc_reservesMore (home / 256) h.part h.cls).trans ?_
      split
      next => exact .refl _
      next c _ =>
        split
        · refine State.ReservesMore.trans ?_ (State.toHost_reservesMore _ home h.hostCore (.ship h.part h.cls h.key c))
          exact State.setHearth_reservesMore _ home i { h with chosen := true }
        · refine State.ReservesMore.trans ?_ (State.incoming_reservesMore _ c
            { home := home, part := h.part, cls := h.cls, key := h.key })
          exact State.setHearth_reservesMore ..

theorem State.moveOrder_reservesMore (s : State) (home : Nat) (n : ActorName) (evenPinned : Bool) :
    s.ReservesMore (s.moveOrder home n evenPinned) := by
  unfold State.moveOrder
  split
  · split
    · exact (State.setHearth_reservesMore ..).trans (State.chooseHost_reservesMore ..)
    · exact .refl s
  · exact .refl s

theorem foldl_reservesMore {α : Type} {f : State → α → State} (hf : ∀ (s : State) (x : α), s.ReservesMore (f s x)) (l : List α)
    (s : State) : s.ReservesMore (l.foldl f s) :=
  foldl_follows (R := State.ReservesMore) .refl .trans hf l s

/-- A fold passes, for each of its elements, a state that it reaches by `f` and keeps growing. -/
theorem foldl_reservesMore_through {α : Type} {f : State → α → State} (hf : ∀ (s : State) (x : α), s.ReservesMore (f s x))
    {l : List α} {x : α} (hx : x ∈ l) (s : State) :
    ∃ u, s.ReservesMore u ∧ (f u x).ReservesMore (l.foldl f s) :=
  foldl_follows_through (R := State.ReservesMore) .refl .trans hf hx s

/-- A core is reserved, whatever becomes of its hosted actors. -/
theorem State.reserveCore_reserves (s : State) (id n : Nat) :
    s.ReservesMore (s.reserveCore id n) ∧ ((s.reserveCore id n).core n).gangReserved ≠ none := by
  have actors : (s.setCore n { s.core n with gangReserved := some id }).ReservesMore (s.reserveCore id n) :=
    foldl_reservesMore (fun u a => u.moveOrder_reservesMore a.home a.name true) (s.core n).actors _
  refine ⟨(State.setCore_reservesMore fun _ => Option.some_ne_none id).trans actors, actors.reserved n ?_⟩
  rw [State.core_setCore_same]
  exact Option.some_ne_none id

section
variable (s : State) (die : Nat) (part : BitVec 8) (g : Nat)

/-- A gang of the tables noted, unless it is known. -/
def State.noteGang (s : State) (part : BitVec 8) (g : Nat) (d : BitVec 512) : State :=
  if s.dev.gangs.any fun x => x.part == part && x.index == g then s
  else s.setDev { s.dev with gangs := s.dev.gangs ++ [{ part := part, index := g, desc := d }] }

theorem State.noteGang_reservesMore (d : BitVec 512) : s.ReservesMore (s.noteGang part g d) := by
  unfold State.noteGang
  split
  · exact .refl s
  · refine ⟨rfl, rfl, ⟨rfl, rfl, fun _ _ => .inl rfl⟩, fun _ h => h, fun y hy => ?_⟩
    rcases List.mem_append.mp hy with known | new
    · exact .inl known
    · exact .inr (by rw [List.mem_singleton.mp new])

/-- What an armed gang of the device's tables adds. -/
theorem State.reserveGang_eq : s.reserveGang die part g =
    if !gdArm (s.gangDesc part g).1 || !(s.gangDesc part g).2.gangHere (s.gangDesc part g).1 then (s.gangDesc part g).2
    else
      let u := (s.gangDesc part g).2.noteGang part g (s.gangDesc part g).1
      if u.dev.gangs.any fun x => x.part == part && x.index == g && x.started then u
      else ((gangCores (s.gangDesc part g).1).filter fun n => n / 2048 == die).foldl (fun s n => s.reserveCore (gangId part g) n) u := by
  unfold State.reserveGang State.noteGang
  generalize s.gangDesc part g = x
  obtain ⟨d, s1⟩ := x
  rfl

theorem State.reserveGang_reservesMore : s.ReservesMore (s.reserveGang die part g) := by
  have read : s.ReservesMore (s.gangDesc part g).2 := (s.gangDesc_holds part g).reservesMore (s.gangDesc_readsLike part g)
  rw [State.reserveGang_eq]
  dsimp only
  split
  · exact read
  · refine read.trans ((State.noteGang_reservesMore _ part g (s.gangDesc part g).1).trans ?_)
    split
    · exact .refl _
    · exact foldl_reservesMore (fun u n => (u.reserveCore_reserves (gangId part g) n).1) _ _

/-- The members on a die of an armed gang that has not started are reserved. -/
theorem State.reserveGang_reserves (arm : gdArm (s.gangDesc part g).1 = true) (here : s.gangHere (s.gangDesc part g).1 = true)
    (waits : ∀ y ∈ s.dev.gangs, y.part = part → y.index = g → y.started = false) {n : Nat} (member : n ∈ gangCores (s.gangDesc part g).1)
    (on : n / 2048 = die) : ((s.reserveGang die part g).core n).gangReserved ≠ none := by
  have read : s.ReservesMore (s.gangDesc part g).2 := (s.gangDesc_holds part g).reservesMore (s.gangDesc_readsLike part g)
  have here' : (s.gangDesc part g).2.gangHere (s.gangDesc part g).1 = true := by
    rw [← here, State.gangHere, State.gangHere, read.num]
  have noted := read.trans (State.noteGang_reservesMore _ part g (s.gangDesc part g).1)
  have unstarted : (((s.gangDesc part g).2.noteGang part g (s.gangDesc part g).1).dev.gangs.any fun x =>
      x.part == part && x.index == g && x.started) = false := by
    rw [List.any_eq_false]
    intro y hy is
    simp only [Bool.and_eq_true, beq_iff_eq] at is
    obtain ⟨⟨ofPart, ofIndex⟩, started⟩ := is
    have no : y.started = false := (noted.gangs y hy).elim (fun known => waits y known ofPart ofIndex) id
    cases no.symm.trans started
  rw [State.reserveGang_eq]
  simp only [arm, here', unstarted, Bool.not_true, Bool.or_self, Bool.false_eq_true, if_false]
  obtain ⟨u, -, after⟩ := foldl_reservesMore_through (f := fun s n => s.reserveCore (gangId part g) n)
    (fun u n => (u.reserveCore_reserves (gangId part g) n).1)
    (List.mem_filter.mpr ⟨member, beq_iff_eq.mpr on⟩ : n ∈ (gangCores (s.gangDesc part g).1).filter fun n => n / 2048 == die)
    ((s.gangDesc part g).2.noteGang part g (s.gangDesc part g).1)
  exact after.reserved n (u.reserveCore_reserves (gangId part g) n).2

end

/-- The gangs of a partition's table, one after the other. -/
def State.reserveTable (s : State) (die : Nat) (part : BitVec 8) : State :=
  (List.range 64).foldl (fun s g => s.reserveGang die part g) s

theorem State.reserveTable_reservesMore (s : State) (die : Nat) (part : BitVec 8) : s.ReservesMore (s.reserveTable die part) :=
  foldl_reservesMore (fun u g => u.reserveGang_reservesMore die part g) _ s

section
variable {s : State} {die : Fin 8}

/-- Every gang's members, in turn. -/
theorem execGangReserve_eq : execGangReserve die s =
    .next ((s.dev.ctbase.map fun x => BitVec.ofNat 8 x.1).foldl (fun s part => s.reserveTable die.val part) s) := by
  unfold execGangReserve State.reserveTable
  rfl

theorem execGangReserve_reserves {part : BitVec 8} {g : Nat} (index : g < 64) (listed : part.toNat ∈ s.dev.ctbase.map (·.1))
    (arm : gdArm (s.gangDesc part g).1 = true) (here : s.gangHere (s.gangDesc part g).1 = true)
    (waits : ∀ y ∈ s.dev.gangs, y.part = part → y.index = g → y.started = false) {n : Nat}
    (member : n ∈ gangCores (s.gangDesc part g).1) (on : n / 2048 = die.val) :
    (((s.dev.ctbase.map fun x => BitVec.ofNat 8 x.1).foldl (fun s part => s.reserveTable die.val part) s).core n).gangReserved ≠ none := by
  have table : part ∈ s.dev.ctbase.map fun x => BitVec.ofNat 8 x.1 := by
    obtain ⟨x, hx, key⟩ := List.mem_map.mp listed
    exact List.mem_map.mpr ⟨x, hx, by rw [key, BitVec.ofNat_toNat, BitVec.setWidth_eq]⟩
  obtain ⟨u, before, after⟩ := foldl_reservesMore_through (f := fun s part => s.reserveTable die.val part)
    (fun u part => u.reserveTable_reservesMore die.val part) table s
  obtain ⟨v, before', after'⟩ := foldl_reservesMore_through (f := fun s g => s.reserveGang die.val part g)
    (fun u g => u.reserveGang_reservesMore die.val part g) (List.mem_range.mpr index) u
  have grown := before.trans before'
  have same : (v.gangDesc part g).1 = (s.gangDesc part g).1 := grown.reads.gangDesc part g
  have armed : gdArm (v.gangDesc part g).1 = true := by rw [same]; exact arm
  have hereToo : v.gangHere (v.gangDesc part g).1 = true := by
    rw [same, ← here, State.gangHere, State.gangHere, grown.num]
  have memberToo : n ∈ gangCores (v.gangDesc part g).1 := by rw [same]; exact member
  have reserved := v.reserveGang_reserves die.val part g armed hereToo
    (fun y hy ofPart ofIndex => (grown.gangs y hy).elim (fun known => waits y known ofPart ofIndex) id) memberToo on
  exact after.reserved n (after'.reserved n reserved)

end

/-! ## The start of a gang (R241) -/

/-- `t` is `s` with more actors to be taken in by cores; the gangs that the device knows are the same. -/
structure State.TakesMore (s t : State) : Prop where
  num : t.dev.num = s.dev.num
  gangs : t.dev.gangs = s.dev.gangs
  incoming : ∀ n, ∀ x ∈ (s.core n).incoming, x ∈ (t.core n).incoming

theorem State.TakesMore.refl (s : State) : s.TakesMore s := ⟨rfl, rfl, fun _ _ h => h⟩

theorem State.TakesMore.trans {s t u : State} (h : s.TakesMore t) (h' : t.TakesMore u) : s.TakesMore u :=
  ⟨h'.num.trans h.num, h'.gangs.trans h.gangs, fun n x hx => h'.incoming n x (h.incoming n x hx)⟩

/-- A step that leaves the cores, the device's number and its gangs. -/
theorem State.TakesMore.of_cores {s t : State} (cores : t.cores = s.cores) (num : t.dev.num = s.dev.num)
    (gangs : t.dev.gangs = s.dev.gangs) : s.TakesMore t :=
  ⟨num, gangs, fun n x hx => by rw [State.core, cores]; exact hx⟩

theorem State.Holds.takesMore {s t : State} (h : s.Holds t) : s.TakesMore t := by
  obtain ⟨_, _, rfl⟩ := h
  exact .of_cores rfl rfl rfl

theorem State.setHearth_takesMore (s : State) (home i : Nat) (h : Hearth) : s.TakesMore (s.setHearth home i h) :=
  .of_cores rfl rfl rfl

theorem State.sendMessage_takesMore (s : State) (die : Nat) (dst : BitVec 12) (m : Message) :
    s.TakesMore (s.sendMessage die dst m) := by
  obtain ⟨cores, num, gangs⟩ := s.sendMessage_keeps die dst m
  exact .of_cores cores num gangs

theorem State.hostAfar_takesMore (s : State) (dev : BitVec 12) (core : Nat) (m : Message) : s.TakesMore (s.hostAfar dev core m) := by
  have read := (s.readDesc_holds 0 m.part m.cls).takesMore
  have found := ((s.readDesc 0 m.part m.cls).2.findHome_holds 0 (s.readDesc 0 m.part m.cls).1 m.part m.cls m.key).takesMore
  unfold State.hostAfar
  dsimp only
  split
  next at' =>
    rw [at'] at found
    split
    · exact read.trans found
    · split
      · exact (read.trans found).trans (State.setHearth_takesMore ..)
      · exact read.trans found
  next at' =>
    rw [at'] at found
    exact read.trans found

/-- A core is to take an actor in. -/
def State.takeIn (s : State) (c : Nat) (x : Incoming) : State :=
  s.setCore c { s.core c with incoming := (s.core c).incoming ++ [x] }

theorem State.takeIn_incoming (s : State) (c : Nat) (x : Incoming) : ((s.takeIn c x).core c).incoming = (s.core c).incoming ++ [x] := by
  rw [State.takeIn, State.core_setCore_same]

theorem State.takeIn_takesMore (s : State) (c : Nat) (x : Incoming) : s.TakesMore (s.takeIn c x) := by
  refine ⟨rfl, rfl, fun n y hy => ?_⟩
  by_cases same : n = c
  · subst same
    rw [State.takeIn_incoming]
    exact List.mem_append_left _ hy
  · rw [State.takeIn, State.core_setCore_other _ _ same]
    exact hy

theorem foldl_takesMore {α : Type} {f : State → α → State} (hf : ∀ (s : State) (x : α), s.TakesMore (f s x)) (l : List α)
    (s : State) : s.TakesMore (l.foldl f s) :=
  foldl_follows (R := State.TakesMore) .refl .trans hf l s

/-- A fold passes, for each of its elements, a state that it reaches by `f` and keeps growing. -/
theorem foldl_takesMore_through {α : Type} {f : State → α → State} (hf : ∀ (s : State) (x : α), s.TakesMore (f s x))
    {l : List α} {x : α} (hx : x ∈ l) (s : State) : ∃ u, s.TakesMore u ∧ (f u x).TakesMore (l.foldl f s) :=
  foldl_follows_through (R := State.TakesMore) .refl .trans hf hx s

/-- What a core takes in for its member of a gang. -/
def gangMember (part : BitVec 8) (d : BitVec 512) (i n core : Nat) : Incoming :=
  { home := core / 8, part := part, cls := gdClass d, key := gdKeybase d + BitVec.ofNat 64 i, gang := some (startNotice part d i n) }

/-- Member `i` of `n` started, by the core of device `dev`. -/
def State.startOne (s : State) (part : BitVec 8) (d : BitVec 512) (n : Nat) (dev : BitVec 12) (i core : Nat) : State :=
  if dev != s.dev.num then s.hostAfar dev core (startNotice part d i n) else s.takeIn core (gangMember part d i n core)

/-- The members on the `j`-th device of a gang started. -/
def State.startOn (s : State) (part : BitVec 8) (d : BitVec 512) (j : Nat) : State :=
  ((List.range (gangCores d).length).zip (gangCores d)).foldl (fun s x =>
    s.startOne part d (gdDevcnt d * (gangCores d).length) (gdDevbase d + BitVec.ofNat 12 j) (j * (gangCores d).length + x.1) x.2) s

theorem State.startHere_eq (s : State) (part : BitVec 8) (d : BitVec 512) :
    s.startHere part d = (List.range (gdDevcnt d)).foldl (fun s j => s.startOn part d j) s := by
  unfold State.startHere State.startOn
  rfl

section
variable (s : State) (part : BitVec 8) (d : BitVec 512)

theorem State.startOne_takesMore (n : Nat) (dev : BitVec 12) (i core : Nat) : s.TakesMore (s.startOne part d n dev i core) := by
  unfold State.startOne
  split
  · exact State.hostAfar_takesMore ..
  · exact State.takeIn_takesMore ..

theorem State.startOn_takesMore (j : Nat) : s.TakesMore (s.startOn part d j) := by
  unfold State.startOn
  refine foldl_takesMore (fun u x => ?_) _ s
  exact State.startOne_takesMore ..

theorem State.startHere_takesMore : s.TakesMore (s.startHere part d) := by
  rw [State.startHere_eq]
  exact foldl_takesMore (fun u j => u.startOn_takesMore part d j) _ s

/-- On device DEVBASE every member core is to take its member actor in. -/
theorem State.startHere_members (base : s.dev.num = gdDevbase d) (count : 0 < gdDevcnt d) {n : Nat} (member : n ∈ gangCores d) :
    ∃ y ∈ ((s.startHere part d).core n).incoming, y.gang ≠ none ∧ y.part = part ∧ y.cls = gdClass d := by
  obtain ⟨i, least, at'⟩ := List.mem_iff_getElem.mp member
  have listed : (i, n) ∈ (List.range (gangCores d).length).zip (gangCores d) := by
    refine List.mem_iff_getElem.mpr ⟨i, by simpa using least, ?_⟩
    simp [at']
  obtain ⟨u, before, after⟩ := foldl_takesMore_through (f := fun s j => s.startOn part d j)
    (fun u j => u.startOn_takesMore part d j) (List.mem_range.mpr count) s
  obtain ⟨v, before', after'⟩ := foldl_takesMore_through
    (f := fun (s : State) (x : Nat × Nat) => s.startOne part d (gdDevcnt d * (gangCores d).length) (gdDevbase d + BitVec.ofNat 12 0)
      (0 * (gangCores d).length + x.1) x.2)
    (fun u x => u.startOne_takesMore part d _ _ _ x.2) listed u
  have own : (gdDevbase d + BitVec.ofNat 12 0 != v.dev.num) = false := by
    rw [before'.num, before.num, base, BitVec.add_zero, bne_self_eq_false]
  have taken : gangMember part d (0 * (gangCores d).length + i) (gdDevcnt d * (gangCores d).length) n ∈
      ((v.startOne part d (gdDevcnt d * (gangCores d).length) (gdDevbase d + BitVec.ofNat 12 0) (0 * (gangCores d).length + i) n).core n).incoming := by
    rw [State.startOne, own, if_neg Bool.false_ne_true, State.takeIn_incoming]
    exact List.mem_append_right _ (List.mem_singleton_self _)
  rw [State.startHere_eq]
  exact ⟨_, after.incoming n _ (after'.incoming n _ taken), Option.some_ne_none _, rfl, rfl⟩

end

section
variable {s : State} {part : BitVec 8} {g : Nat}

theorem execGangStart_none (none : (s.dev.gangs.find? fun x => x.part == part && x.index == g && !x.started) = none) :
    execGangStart part g s = .next s := by
  simp only [execGangStart, none]

/-- The gangs of a list with one of them marked as started. -/
def markStarted (part : BitVec 8) (g : Nat) (l : List Gang) : List Gang :=
  l.map fun y => if y.part == part && y.index == g then { y with started := true } else y

theorem markStarted_started {l : List Gang} {y : Gang} (hy : y ∈ markStarted part g l) (ofPart : y.part = part)
    (ofIndex : y.index = g) : y.started = true := by
  obtain ⟨z, -, rfl⟩ := List.mem_map.mp hy
  split
  next => rfl
  next other =>
    rw [if_neg other] at ofPart ofIndex
    exact absurd (by simp [ofPart, ofIndex]) other

section
variable {x : Gang} (known : (s.dev.gangs.find? fun x => x.part == part && x.index == g && !x.started) = some x)
include known

/-- Nothing happens on another device than DEVBASE, nor before every member core is reserved and free. -/
theorem execGangStart_waits (waits : s.dev.num ≠ gdDevbase x.desc ∨
    ¬∀ n ∈ gangCores x.desc, (s.core n).gangReserved = some (gangId part g) ∧ s.memberFree n = true) :
    execGangStart part g s = .next s := by
  simp only [execGangStart, known]
  exact if_pos (by simpa using waits)

theorem execGangStart_starts {cls : BitVec 512} {s1 : State} (base : s.dev.num = gdDevbase x.desc)
    (free : ∀ n ∈ gangCores x.desc, (s.core n).gangReserved = some (gangId part g) ∧ s.memberFree n = true)
    (read : s.readDesc 0 part (gdClass x.desc) = (cls, s1)) (counts : gangClassOk cls (gdClass x.desc) = true)
    (held : s1.gangMissing part x.desc = none) : ∃ t : State, execGangStart part g s = .next t ∧
      ((s1.setDev { s1.dev with gangs := markStarted part g s1.dev.gangs }).startHere part x.desc).TakesMore t := by
  have go : (s.dev.num != gdDevbase x.desc || !(gangCores x.desc).all fun n =>
      (s.core n).gangReserved == some (gangId part g) && s.memberFree n) = false := by
    simpa [base] using free
  simp only [execGangStart, known, go, read, counts, held, Bool.not_true, Bool.false_eq_true, if_false]
  exact ⟨_, rfl, foldl_takesMore (fun u j => u.sendMessage_takesMore ..) _ _⟩

end
end

/-! ## Start notices (R241) -/

theorem State.tableWords_device (s : State) (die : Nat) (part : BitVec 8) (q n : Nat) :
    (s.tableWords die part q n).2.dev.pages = s.dev.pages ∧ (s.tableWords die part q n).2.dev.bank = s.dev.bank := by
  induction n generalizing s q with
  | zero => exact ⟨rfl, rfl⟩
  | succ n ih =>
    have first : (s.copyDword die part.toNat q).2.dev.pages = s.dev.pages ∧
        (s.copyDword die part.toNat q).2.dev.bank = s.dev.bank := by
      unfold State.copyDword
      dsimp only
      split <;> exact ⟨rfl, rfl⟩
    obtain ⟨pages, bank⟩ := ih (s.copyDword die part.toNat q).2 (q + 8)
    exact ⟨pages.trans first.1, bank.trans first.2⟩

/-- Whether an actor's initial image is translated does not depend on the copies of tables. -/
theorem State.readDesc_initMissing (s : State) (die : Nat) (part : BitVec 8) (cls : BitVec 16) (core : Nat) (n : ActorName) :
    (s.readDesc die part cls).2.initMissing core n = s.initMissing core n := by
  obtain ⟨pages, bank⟩ := s.tableWords_device die part (s.ctbaseOf part + 64 * cls.toNat) 8
  have pages' : (s.readDesc die part cls).2.dev.pages = s.dev.pages := by simp only [State.readDesc, pages]
  have bank' : (s.readDesc die part cls).2.dev.bank = s.dev.bank := by simp only [State.readDesc, bank]
  have missing : (s.readDesc die part cls).2.missing = s.missing := by
    funext key part a n
    simp only [State.missing, pages']
  have bankOf : (s.readDesc die part cls).2.bankOf = s.bankOf := by
    funext h n
    simp only [State.bankOf, bank']
  unfold State.initMissing
  dsimp only
  rw [(s.readDesc_readsLike die part cls).readDesc, missing, bankOf]

theorem State.fillWindowBytes_cores (s : State) (core off : Nat) (bs : List Byte) :
    (s.fillWindowBytes core off bs).cores = s.cores := by
  unfold State.fillWindowBytes
  split
  · rfl
  · exact State.writeAt_cores ..

/-- A host that takes an actor in leaves those that it has still to take in. -/
theorem State.kindleAt_incoming {s s1 : State} {c home : Nat} {n : ActorName} {pin : Bool}
    (h : s.kindleAt c home n pin = (true, s1)) : (s1.core c).incoming = (s.core c).incoming := by
  unfold State.kindleAt at h
  dsimp only at h
  split at h
  · cases h
  split at h
  · cases h
  split at h
  · cases h
  split at h
  · cases h
  split at h
  · cases h
  · cases h
    rw [State.core_setCore_same]
    dsimp only
    rw [State.core, State.fillWindowBytes_cores]
    exact congrArg Core.incoming ((State.bankStore_core ..).trans (State.readDesc_core ..))

/-- What a member core has to take in once its member actor is in place: all but the member. -/
theorem State.startMember_incoming {s s1 : State} {c : CoreId} {i home : Nat} {x : Incoming} {m : Message} {f : State → State}
    (h : s.kindleAt c.ix home x.name true = (true, s1)) (cores : ∀ u, (f u).cores = u.cores) :
    ((s.startMember c i home x m f).core c.ix).incoming = (s.core c.ix).incoming.eraseIdx i := by
  obtain ⟨as, rq, ds, r, placed⟩ := State.inboxPlace_core
    (((f (s1.setCore c.ix ((s1.core c.ix).dropIncoming i))).stamped c.ix m).2) c.ix
    (((f (s1.setCore c.ix ((s1.core c.ix).dropIncoming i))).stamped c.ix m).1)
  simp only [State.startMember, h]
  rw [placed, State.stamped, State.core_setCore_same]
  dsimp only [Core.stamp]
  rw [State.core, cores, ← State.core, State.core_setCore_same, Core.dropIncoming, State.kindleAt_incoming h]

theorem State.inboxPlace_clusters (s : State) (n : Nat) (m : Message) : (s.inboxPlace n m).clusters = s.clusters := by
  have done : (s.itemDone m.item).clusters = s.clusters := by
    unfold State.itemDone
    split
    · rfl
    · dsimp only
      split <;> rfl
  unfold State.inboxPlace
  dsimp only
  split
  · exact done
  · split <;> exact done

/-- A member is recorded at its home. -/
theorem State.startMember_hearth {s s1 : State} {c : CoreId} {i home j : Nat} {x : Incoming} {m : Message} {h : Hearth}
    (kindled : s.kindleAt c.ix home x.name true = (true, s1)) :
    ((s.startMember c i home x m fun u => u.setHearth home j h).clu home).hearth.find j = some h := by
  simp only [State.startMember, kindled]
  rw [State.clu, State.inboxPlace_clusters, State.stamped, State.setCore_clusters, ← State.clu, State.setHearth]
  simp only [State.clu_setClu_same, Map.find_put_same]

section
variable {s s0 : State} {c : CoreId} {i h clu : Nat} {x : Incoming} {m : Message}

/-- What the delivery of a start notice does once the member's home is found on this device. -/
theorem execGangStartDelivery_found (next : ((s.core c.ix).incoming.findIdx? fun x => x.gang.isSome) = some i)
    (at' : (s.core c.ix).incoming[i]? = some x) (notice : x.gang = some m)
    (translated : (s.readDesc c.die.val x.part x.cls).2.homeMissing (s.readDesc c.die.val x.part x.cls).1 x.part x.key = none)
    (init : s.initMissing c.ix x.name = none)
    (home : (s.readDesc c.die.val x.part x.cls).2.findHome c.die.val (s.readDesc c.die.val x.part x.cls).1 x.part x.cls x.key =
      (.at s.dev.num.toNat h clu, s0)) :
    execGangStartDelivery c s =
      if 64 ≤ (s0.core c.ix).inboxCount then .next s0
      else
        match (s0.clu (h * 256 + clu)).entryOf x.name, (s0.clu (h * 256 + clu)).freeHearth with
        | none, some j => .next (s0.startMember c i (h * 256 + clu) x m fun s => s.setHearth (h * 256 + clu) j
            { part := x.part, cls := x.cls, key := x.key, host := BitVec.ofNat 11 c.ix, hostDie := c.die.val, state := .live,
              pin := true })
        | _, _ => .next s0 := by
  have found := (s.readDesc c.die.val x.part x.cls).2.findHome_holds c.die.val (s.readDesc c.die.val x.part x.cls).1 x.part x.cls x.key
  rw [home] at found
  have num : s0.dev.num = s.dev.num := ((s.readDesc_holds c.die.val x.part x.cls).trans found).takesMore.num
  simp only [execGangStartDelivery, next, at', Option.bind_some, notice, Option.map_some, translated, State.readDesc_initMissing, init,
    home, num, if_true] <;> rfl

end

/-! ## The release of a gang (R242) -/

section
variable {s : State} {part : BitVec 8} {g : Nat}

/-- A core reserved for a gang no longer. -/
def Core.release (k : Core) (id : Nat) : Core := if k.gangReserved == some id then { k with gangReserved := none } else k

theorem Core.release_reserved (k : Core) (id : Nat) : (k.release id).gangReserved ≠ some id := by
  unfold Core.release
  split
  · exact (Option.some_ne_none id).symm
  next other => simpa using other

/-- The machine with every core that is reserved for a gang reserved for it no longer. -/
def State.releaseCores (s : State) (id : Nat) : State := { s with cores := s.cores.map fun (m, k) => (m, k.release id) }

theorem State.releaseCores_core (s : State) (id n : Nat) : (s.releaseCores id).core n = (s.core n).release id := by
  have empty : Core.release {} id = {} := by
    unfold Core.release
    exact if_neg Bool.false_ne_true
  exact Map.getD_map s.cores (fun _ k => k.release id) n {} empty

theorem execGangRelease_armed (arm : gdArm (s.gangDesc part g).1 = true) :
    execGangRelease part g s = .next (s.gangDesc part g).2 := by
  simp only [execGangRelease, arm, Bool.true_or, if_true]

/-- A known gang is forgotten, and its cores are reserved for it no longer. -/
theorem execGangRelease_forgets (clear : gdArm (s.gangDesc part g).1 = false) (known : ∃ y ∈ s.dev.gangs, y.part = part ∧ y.index = g) :
    ∃ t : State, execGangRelease part g s = .next t ∧ (∀ y ∈ t.dev.gangs, ¬(y.part = part ∧ y.index = g)) ∧
      ∀ n : Nat, (t.core n).gangReserved ≠ some (gangId part g) := by
  have gangs : (s.gangDesc part g).2.dev.gangs = s.dev.gangs := (s.gangDesc_holds part g).takesMore.gangs
  have any : (s.dev.gangs.any fun x => x.part == part && x.index == g) = true := by simpa using known
  let u : State := (s.gangDesc part g).2.setDev
    { (s.gangDesc part g).2.dev with gangs := s.dev.gangs.filter fun x => !(x.part == part && x.index == g) }
  have step : execGangRelease part g s = .next (u.releaseCores (gangId part g)) := by
    simp only [execGangRelease, clear, gangs, any, Bool.not_true, Bool.or_self, Bool.false_eq_true, if_false]
    rfl
  refine ⟨_, step, fun y hy is => ?_, fun n => ?_⟩
  · simpa [is] using (List.mem_filter.mp hy).2
  · rw [State.releaseCores_core]
    exact Core.release_reserved (u.core n) (gangId part g)

end

/-- Settles O53: the steps of the launcher and of the sweeps by the lemmas on their outcomes; reserving by what a fold over
gangs and cores keeps and by table reads that copies do not change; a gang's start by what its folds add to the cores. -/
theorem launchesAndGangs : Obligations.LaunchesAndGangs := by
  refine ⟨fun s die => ⟨fun i r next => ⟨fun va missing => execLaunchExpansionStart_waits next missing,
      fun held unread => execLaunchExpansionStart_unread next held unread,
      fun n held count => ⟨fun large => execLaunchExpansionStart_large next held count large,
        fun most desc s1 read => ⟨fun ends => execLaunchExpansionStart_empty next held count most read ends,
          fun taken some => execLaunchExpansionStart_starts next held count most read taken some⟩⟩⟩,
      fun none => execLaunchItem_none none, fun n r dev h clu one known keyed held home => ?_,
      fun n c r one known sheet serves => ⟨fun full => execLaunchItem_sheet_waits one sheet serves full, fun z k taken => ?_⟩,
      fun part => ⟨fun none => ⟨fun early => execLaunchSweep_early none early, fun due => execLaunchSweep_begins none due⟩,
        fun x under => ⟨fun left => execLaunchSweep_reads under left, fun tag read one alone => ⟨?_, fun differs =>
          execLaunchSweep_goes_on under read one alone differs⟩⟩⟩⟩,
    fun s die c part g => ⟨⟨_, execGangReserve_eq, ?_, ?_⟩, fun x cls s1 known => ⟨fun waits => execGangStart_waits known waits, ?_⟩,
      fun none => execGangStart_none none, ?_, fun clear known => execGangRelease_forgets clear known,
      fun arm => execGangRelease_armed arm⟩⟩
  · obtain ⟨t, step, sends, sent, pool, turn⟩ := execLaunchItem_message one known keyed held home
    obtain ⟨-, -, tag, -⟩ := mkHdr_fields (recPort r.w0) 0 (recDepth r.w0) 0 (recLtag r.w0) 0 0
    obtain ⟨arg, index, -⟩ := payWord_mkPay r.w2 (BitVec.ofNat 64 r.item) r.aux (BitVec.ofNat 64 n) 0 0
    exact ⟨t, _, step, sends, rfl, rfl, rfl, rfl, tag, hdrDepth_mkHdr .., arg, index, payWord_mkPay_fourth .., sent,
      fun first => by rw [pool, LaunchRec.made_next first], turn⟩
  · obtain ⟨t, step, core, sent, pool⟩ := execLaunchItem_sheet one sheet serves known taken
    exact ⟨t, step, core, sent, fun first => by rw [pool, LaunchRec.made_next first]⟩
  · rintro ⟨last, idle, equal⟩
    exact execLaunchSweep_ends under read one alone last idle equal
  · exact (foldl_reservesMore (fun u part => u.reserveTable_reservesMore die.val part) _ s).ctxs
  · intro index listed arm here waits n member on
    exact Option.ne_none_iff_exists'.mp (execGangReserve_reserves index listed arm here waits member on)
  · intro base here free read counts held
    have count : 0 < gdDevcnt x.desc := by
      simp only [State.gangHere, Bool.and_eq_true, decide_eq_true_eq] at here
      exact Nat.lt_of_le_of_lt (Nat.zero_le _) here.2
    obtain ⟨t, step, takes⟩ := execGangStart_starts known base free read counts held
    have num : s1.dev.num = s.dev.num := by
      have := (s.readDesc_holds 0 part (gdClass x.desc)).takesMore.num
      rwa [read] at this
    have members := State.startHere_takesMore (s1.setDev { s1.dev with gangs := markStarted part g s1.dev.gangs }) part x.desc
    refine ⟨t, step, fun y hy ofPart ofIndex => ?_, fun n member => ?_⟩
    · rw [takes.gangs, members.gangs] at hy
      exact markStarted_started hy ofPart ofIndex
    · obtain ⟨y, taken, is⟩ := State.startHere_members (s1.setDev { s1.dev with gangs := markStarted part g s1.dev.gangs }) part
        x.desc (num.trans base) count member
      exact ⟨y, takes.incoming n y taken, is⟩
  · rintro i x m desc s0 h clu j s1 next at' notice rfl u translated init home place
    have step := execGangStartDelivery_found next at' notice translated init home
    have found := (s.readDesc c.die.val x.part x.cls).2.findHome_holds c.die.val (s.readDesc c.die.val x.part x.cls).1 x.part x.cls x.key
    rw [home] at found
    have same : s0.core c.ix = s.core c.ix := ((s.readDesc_holds c.die.val x.part x.cls).trans found).core c.ix
    refine ⟨fun waits => step.trans ?_, fun room none free kindled => ?_⟩
    · by_cases full : 64 ≤ (s0.core c.ix).inboxCount
      · exact if_pos full
      · rw [if_neg full]
        split
        next none free =>
          rcases waits with more | known | full
          · exact absurd more ‹_›
          · exact absurd none known
          · cases free.symm.trans full
        next => rfl
    · rw [if_neg (Nat.not_le.mpr room), none, free] at step
      refine ⟨_, _, step, State.startMember_hearth kindled, rfl, rfl, rfl, rfl, ?_⟩
      refine (State.startMember_incoming kindled ?_).trans (by rw [same])
      exact fun _ => rfl

end Sys2Proof.Machine
end
